-- ==== Sys2Proof/Word.lean ====
section
/-! DEFINITION. Word types of the head controller: bytes and words (R5, R6), and a family of four,
one for each SiethLink group or pipe (R1, R18). -/

namespace Sys2Proof

/-- One byte, bit 0 least significant (R5). -/
abbrev Byte := BitVec 8
/-- A 16-bit field. -/
abbrev W16 := BitVec 16
/-- A 32-bit field. -/
abbrev W32 := BitVec 32
/-- A 64-bit field. -/
abbrev W64 := BitVec 64
/-- A tag, nonce half or AES block. -/
abbrev W128 := BitVec 128
/-- A fingerprint: HMAC-SHA-256 output (R116). -/
abbrev W256 := BitVec 256
/-- A measurement register or SHA-384 output (R158). -/
abbrev W384 := BitVec 384

/-- One value for each of the four groups or pipes. -/
structure Four (α : Type) where
  a0 : α
  a1 : α
  a2 : α
  a3 : α
deriving DecidableEq, Repr

/-- The value of group `g`. -/
def Four.at {α : Type} (f : Four α) : Fin 4 → α
  | ⟨0, _⟩ => f.a0
  | ⟨1, _⟩ => f.a1
  | ⟨2, _⟩ => f.a2
  | ⟨_, _⟩ => f.a3

/-- The family with the value of group `g` replaced. -/
def Four.put {α : Type} (f : Four α) (g : Fin 4) (v : α) : Four α :=
  match g with
  | ⟨0, _⟩ => { f with a0 := v }
  | ⟨1, _⟩ => { f with a1 := v }
  | ⟨2, _⟩ => { f with a2 := v }
  | ⟨_, _⟩ => { f with a3 := v }

/-- The same value for every group. -/
def Four.all {α : Type} (v : α) : Four α := ⟨v, v, v, v⟩

/-- The four values in group order. -/
def Four.list {α : Type} (f : Four α) : List α := [f.a0, f.a1, f.a2, f.a3]

/-- The four group numbers. -/
def groupList : List (Fin 4) := [0, 1, 2, 3]

/-- A table keyed by a number: an association list in rising key order, no key twice. -/
abbrev Tab (α : Type) := List (Nat × α)

/-- The entry of key `k`. -/
def tget {α : Type} : Tab α → Nat → Option α
  | [], _ => none
  | (i, v) :: t, k => if k = i then some v else tget t k

/-- The entry of key `k`, or `d` when the table has none. -/
def tgetD {α : Type} (t : Tab α) (d : α) (k : Nat) : α := (tget t k).getD d

/-- The table with `v` at key `k`. -/
def tput {α : Type} : Tab α → Nat → α → Tab α
  | [], k, v => [(k, v)]
  | (i, w) :: t, k, v =>
    if k < i then (k, v) :: (i, w) :: t
    else if k = i then (k, v) :: t
    else (i, w) :: tput t k v

/-- The table without key `k`. -/
def tdel {α : Type} : Tab α → Nat → Tab α
  | [], _ => []
  | (i, w) :: t, k => if k = i then tdel t k else (i, w) :: tdel t k

end Sys2Proof
end

