-- ==== Sys2Proof/Machine/Wire.lean ====
section
/-! DEFINITION. What crosses the head controller's interfaces, as data: SiethLink packets (R47 to R55), descriptors
(R259, R267), drive sectors (R179), journal records (R188), Tango and replication messages (R282, R342),
work requests and queue pair contexts (R323, R327), firmware images (R420). Commands carry them as operands and
State holds them. -/

namespace Sys2Proof

/-- A SiethLink packet as received or sent (R47, R48). `payload` is the defined part; the rest of the area is zero. -/
structure Packet where
  ptype     : Byte
  flags     : Byte
  streamId  : W16
  gsn       : W32
  frame     : BitVec 48
  length    : W16
  timestamp : W64
  word      : W32
  group     : Byte
  reserved  : Byte
  hcrc      : W16
  payload   : List Byte
  crc       : W32
deriving DecidableEq, Repr

/-- The CAP body (R55), offer or grant. -/
structure Cap where
  version     : W16
  kind        : Byte
  role        : Byte
  group       : Byte
  groupsMask  : Byte
  port        : Byte
  laneMode    : Byte
  deviceId    : W64
  streamId    : W16
  status      : W16
  maxRate     : Nat
  maxFrame    : Nat
  nextGsn     : W32
  initLimit   : W32
  runoutFrames : Nat
  runoutBytes : Nat
  formatCount : Nat
  formats     : List W16
deriving DecidableEq, Repr

/-- A slot of the landing SRAM or of a ring: payload with its slot record (R74). -/
structure Slot where
  pkt    : Packet
  state  : Byte
  reason : Byte
deriving DecidableEq, Repr

/-- The header every descriptor carries, as it stands at pickup (R259): the channel index and handle generation it
was fetched on, its flags, tag and ring index, the doorbell SEQ of its fetch, and whether every reserved field is zero. -/
structure Hdr where
  chan     : Nat
  irq      : Bool
  fence    : Bool
  clean    : Bool
  tag      : W32
  sqIndex  : Nat
  dbSeq    : W32
deriving DecidableEq, Repr

/-- What a doorbell poll finds in one doorbell (R263) and the descriptors fetched with it: opcode, flags and tag of each. -/
structure DbRead where
  chan  : Nat
  tail  : Nat
  seq   : W32
  descs : List (Byte × Byte × W32)
deriving DecidableEq, Repr

/-- A stored sector as a drive returns it: data and protection information (R179). -/
structure Sector where
  data   : List Byte
  guard  : W64
  appTag : W16
  refTag : BitVec 48
deriving DecidableEq, Repr

/-- How a sector of a Read came (R181, R506): with the whole command; or, where the command failed the drive's check or ended with a
media error, by a Read of its own, which may fail the drive's check or find the sector unreadable in its turn. -/
inductive SecRead where
  | multi (s : Sector)
  | single (s : Sector)
  | badCheck
  | unreadable
deriving DecidableEq, Repr

/-- A tile-map entry with what its journal entry adds (R188, R224); of a metadata tile also the group and frame of each META record that
it holds (R240). -/
structure Entry where
  loc       : Nat
  flags     : BitVec 12
  tileSeq   : W64
  fp        : W256
  storedLen : Nat
  metas     : List (Nat × BitVec 48) := []
deriving DecidableEq, Repr

/-- A frame record (R226) with the account of R86 and the counts of R231. -/
structure FrameRec where
  frame      : BitVec 48
  group      : Nat
  cls        : Nat
  flags      : W16
  format     : W16
  firstGsn   : W32
  timestamp  : W64
  firstTile  : Nat
  declared   : Nat
  recorded   : Nat
  width      : Nat
  lines      : Nat
  firstLine  : Nat
  lineStep   : Nat
  lineBytes  : Nat
  closeCrc   : W32
  exposure   : W64
  dataPackets : W32
  partnerStatus : W32
  committed  : Nat
  dnr        : Nat
  lostOnLink : Nat
  overRun    : Nat
  landingOverflow : Nat
  hbmUnc     : Nat
  excess     : Nat
  truncated  : Nat
deriving DecidableEq, Repr

/-- The group state of R293, mirrored with a pipe's STRIPE_OPEN, and the frame records that the entry commits (R222),
which the new owner pages from the mirrored entries (R302). -/
structure GState where
  group     : Nat
  part      : Nat
  frameOpen : Bool
  commitGsn : W32
  nextTile  : Nat
  nextMeta  : Nat
  frame     : Option FrameRec
  closed    : List FrameRec
deriving DecidableEq, Repr

/-- The body of a journal record (R188). -/
inductive JBody where
  | stripeOpen (volume takeId : Nat) (commitGsn : W32) (group : Nat) (padded maint : Bool)
      (entries : List Entry) (remapMask : BitVec 18)
  | stripeRetire (openJseq : Nat)
  | periodClaim
  | remap (failed spare failedChunk spareChunk : Nat)
  | stripeLost (mask : BitVec 18)
  | durable (jseq : Nat)
  | stripeDiscard (openJseq newJseq : Nat)
deriving DecidableEq, Repr

/-- A journal record (R188). -/
structure JRec where
  source  : Nat
  layout  : Nat
  jseq    : Nat
  epoch   : Nat
  headB   : Bool
  subject : Nat
  body    : JBody
  units   : Nat
deriving DecidableEq, Repr

/-- A layout record (R173). -/
structure LayoutRec where
  layoutId  : Nat
  kind      : Nat
  width     : Nat
  drives    : Nat
  flags     : Byte
  driveMask : W64
  baseLba   : Nat
  periods   : Nat
  spares    : Nat
  table     : List Nat
deriving DecidableEq, Repr

/-- What admission of a drive finds (R15, R170): link, each item of R170's table, counted from 1, and what the head reads below LBA
32,768 (R173): the labels at LBA 0 and 16 and the progress sectors, each with its LBA. -/
structure DriveInfo where
  slot      : Nat
  linked    : Bool
  rateGT    : Nat
  lanes     : Nat
  nsId      : Nat
  lbaFormat : Bool
  piType2   : Bool
  mdts      : Nat
  queues    : Nat
  durable   : Bool
  plpRate   : Bool
  nsSectors : Nat
  nvme      : W32
  sys       : List (Nat × List Byte)
deriving DecidableEq, Repr

/-- What an NVMe admin or reservation command returned (R171). -/
inductive DriveAdmin where
  | identify (info : DriveInfo)
  | registered
  | acquired
  | report (keys : List W64) (held : Bool)
  | error (status : W32)
deriving DecidableEq, Repr

/-- What one drive answered to Reservation Report: the keys registered on it (R289, R299). -/
structure ReportIn where
  slot : Nat
  keys : List W64
deriving DecidableEq, Repr

/-- The members read for the adoption of one open entry (R192), 64 sectors each. -/
structure AdoptIn where
  jseq    : Nat
  members : List (List SecRead)
deriving DecidableEq, Repr

/-- What the drives answer during a takeover (R300): reports, slots that returned Reservation Conflict in the fence,
slots that failed during it, the adoption reads, and, drive by drive, what was read below LBA 32,768. -/
structure TakeoverIn where
  reports   : List ReportIn
  conflicts : List Nat
  failed    : List Nat
  adoption  : List AdoptIn
  sys       : List (List (Nat × List Byte))
deriving DecidableEq, Repr

/-- A journal strip as read at start (R195): its drive's slot, sector 0, the body, and whether the body read without error. -/
structure DumpIn where
  slot   : Nat
  header : List Byte
  body   : List Byte
  readOk : Bool
deriving DecidableEq, Repr

/-- The envelope of a Tango message (R281), and whether its GCM tag verified under page 1 (R280). -/
structure Env where
  level : Nat
  sender : Bool
  role  : Byte
  epoch : Nat
  seq   : W64
  auth  : Bool
deriving DecidableEq, Repr

/-- One group of a HELLO or LINK_INFO link section (R285). -/
structure LinkSec where
  deviceId : W64
  streamId : W16
  port     : Byte
  granted  : Bool
deriving DecidableEq, Repr

/-- The HELLO body (R285), R_HELLO alike (R341). -/
structure Hello where
  serial   : W64
  headB    : Bool
  state    : Nat
  levelMax : Nat
  levelMin : Nat
  vaultLevel : Nat
  fwVersion : W32
  vaultId  : W64
  epochMax : Nat
  nonce    : W256
  ecdhPub  : List Byte
  link     : Four LinkSec
  certs    : List Byte
  body     : List Byte
  signature : BitVec 768
deriving DecidableEq, Repr

/-- The HEARTBEAT body (R283). -/
structure Beat where
  state       : Nat
  level       : Nat
  owners      : Four Nat
  mirrorAcked : Nat
  ckptSeq     : Nat
  commitGsn   : Four W32
  nextGsn     : Four W32
  stop        : Four Byte
  time        : W64
deriving DecidableEq, Repr

/-- One group's entry of a LEDGER message (R297). -/
structure LedgerEnt where
  group     : Fin 4
  crcValid  : Bool
  c         : W32
  committed : W64
  dropped   : W64
  crc       : W32
deriving DecidableEq, Repr

/-- What a TAKE_OPEN names (R267), and TAKE_PART forwards (R282). -/
structure OpenReq where
  volume    : Nat
  groups    : BitVec 4
  reel      : Bool
  page      : Nat
  hkey      : Nat
  dedup     : Bool
  startFrame : Option (BitVec 48)
  openTime  : W64
  ringN     : Nat
  segLimit  : Nat
  preNs     : Nat
  postNs    : Nat
deriving DecidableEq, Repr

/-- A TRIGGER record (R229). -/
structure TrigRec where
  trigId  : W32
  source  : Nat
  group   : Nat
  srcField : W16
  time    : W64
  place   : W32
  outcome : Nat
deriving DecidableEq, Repr

/-- One part's hand-over of its seal chain (R163, R282): register value, tile records covered, and its segments, of which HANDOVER_STATE
names the count and the checkpoint's PART section the list (R295). -/
structure ChainHand where
  volume  : Nat
  takeId  : Nat
  part    : Nat
  value   : W384
  count   : Nat
  segments : List (W64 × Nat)
deriving DecidableEq, Repr

/-- A volume record (R234). -/
structure Volume where
  id        : Nat
  layout    : Nat
  encrypted : Bool
  dedup     : Bool
  kcv       : W32
  dkcv      : W32
  ctrA      : Nat
  ctrB      : Nat
deriving DecidableEq, Repr

/-- What a checkpoint tells of a part that its writer has closed: its tile map and frame index, its pages, the counts of its close record
and its seal (R232, R295). -/
structure PartInfo where
  idx       : Nat
  groups    : BitVec 4
  records   : Nat
  segments  : List (W64 × Nat)
  entries   : List Entry
  frames    : List FrameRec
  metaIdx   : Nat
  tilePage  : Nat
  framePage : Nat
  sealed_   : Option (W384 × BitVec 768)
deriving DecidableEq, Repr

/-- A take record of a checkpoint's TAKES section (R295): what opened it, its parts, its state (0 OPEN, 1 CLOSING, 2 CLOSED, 3 DELETED),
the groups that have ended at its writer, and the parts that its writer has closed. -/
structure TakeInfo where
  r         : OpenReq
  takeId    : Nat
  layout    : Nat
  domain    : Nat
  kcv       : W32
  dkcv      : W32
  parts     : List (Nat × BitVec 4)
  state     : Nat
  reason    : Nat
  closeTime : W64
  limitFrame : Option (BitVec 48)
  ended     : BitVec 4
  closed    : List PartInfo
  replica   : Bool := false
deriving DecidableEq, Repr

/-- The ring of a Reel take in a checkpoint's RING_REC section (R295): its stripes, and its open segments by number,
trigger time and window. -/
structure RingInfo where
  volume  : Nat
  takeId  : Nat
  minimum : Nat
  stripes : List (Nat × Nat)
  segs    : List (Nat × W64 × Nat × Nat)
deriving DecidableEq, Repr

/-- A checkpoint (R295), by its sections' content. Tile maps and frame indexes are whole, and the volume records are there: the tails of
its sections with what the root record makes durable that its metadata_seq names. -/
structure Ckpt where
  seq       : Nat
  epoch     : Nat
  coversJseq : Nat
  metadataSeq : Nat
  volumes   : List Volume
  groups    : List GState
  commits   : Four W32
  chains    : List ChainHand
  entries   : List (Nat × Nat × Nat × List Entry)
  frames    : List (Nat × Nat × Nat × List FrameRec)
  inUse     : List (Nat × Nat)
  freed     : List (Nat × Nat)
  refs      : List (Nat × Nat)
  rings     : List RingInfo
  takes     : List TakeInfo
  gauges    : List (Nat × List W32) := []
  outputs   : List (Nat × Nat × Nat × Nat × Nat)
  triggers  : List (Nat × TrigRec)
  crcOk     : Bool
deriving DecidableEq, Repr

/-- The message types a NAK can refuse that re-route (R311). -/
inductive NakKind where
  | healReq | mirrorRec | takePart | triggerFwd | handover | linkInfo | driveNotice | claimVerdict | ckptDone | other
deriving DecidableEq, Repr

/-- The host part of a queue pair context (R323). -/
structure QpHost where
  stateReq  : Nat
  domain    : Nat
  ipv6      : Bool
  repl      : Bool
  srcIp     : Nat
  destQpn   : Nat
  sqPsn     : BitVec 24
  rqPsn     : BitVec 24
  destIp    : W128
  destMac   : BitVec 48
  dscp      : Nat
  pmtu      : Nat
  udpSport  : W16
  vlan      : Nat
  timeout   : Nat
  retryCnt  : Nat
  rnrRetry  : Nat
  rdOut     : Nat
  rdIn      : Nat
  sqLog2    : Nat
  cqLog2    : Nat
  rqLog2    : Nat
  rbufLog2  : Nat
  vector    : Nat
  sqBase    : Nat
  cqBase    : Nat
  rqBase    : Nat
  counterAddr : Nat
  peerSerial : W64
  txPage    : Nat
  rxPage    : Nat
  clean     : Bool
deriving DecidableEq, Repr

/-- One entry of the window table (R321). -/
structure Window where
  offset : Nat
  length : Nat
  bus    : Nat
  read   : Bool
  write  : Bool
  flush  : Bool
  clean  : Bool
deriving DecidableEq, Repr

/-- A send work request (R327), less its opcode, with the host data it names. -/
structure Wr where
  signal : Bool
  fence  : Bool
  solicited : Bool
  clean  : Bool
  tag    : W32
  slot   : Nat
  localAddr : Nat
  length : Nat
  imm    : W32
  remote : Nat
  rkey   : W32
  option : Nat
  data   : List Byte
deriving DecidableEq, Repr

/-- The RDMA operations (R317). -/
inductive RdmaOp where
  | send | write | writeImm | read | flush | unsupported
deriving DecidableEq, Repr

/-- An incoming RDMA request packet: port, destination, PSN, operation, place in its message, addressing, data (R338). -/
structure RdmaReq where
  port   : Nat
  qpn    : Nat
  psn    : BitVec 24
  op     : RdmaOp
  first  : Bool
  last   : Bool
  remote : Nat
  length : Nat
  rkey   : W32
  imm    : W32
  persist : Bool
  ce     : Bool
  srcQpn : Nat
  data   : List Byte
  icrcOk : Bool := true
deriving DecidableEq, Repr

/-- The NAK codes a requester acts on (R329). -/
inductive NakCode where
  | psnSeq | rnr (timer : Nat) | remoteAccess | invalidRequest | lengthExceeded
deriving DecidableEq, Repr

/-- One FP_BATCH entry (R342). -/
structure FpEntry where
  fp        : W256
  tileSeq   : W64
  loc       : Nat
  storedLen : Nat
  flags     : BitVec 12
deriving DecidableEq, Repr

/-- A replication OFFER (R342) with its envelope's part_key and level. -/
structure Offer where
  kind    : Nat
  parts   : BitVec 2
  segId   : Nat
  kcv     : W32
  dkcv    : W32
  first   : Nat
  entries : Nat
  closed  : Bool
  serial  : W64
  volume  : Nat
  takeId  : Nat
  part    : Nat
  level   : Nat
deriving DecidableEq, Repr

/-- A section of a firmware image (R420). -/
structure ImgSection where
  offset : Nat
  length : Nat
  kind   : Nat
  data   : List Byte
deriving DecidableEq, Repr

/-- A firmware or identity image: its bytes, whose fields R420 places. -/
structure Image where
  bytes : List Byte
deriving DecidableEq, Repr

/-- A configuration record (R435), with what its body holds: Minuet's history (R395) and the receiver starting points (R393). -/
structure CfgRec where
  format   : Nat
  storeSeq : Nat
  writer   : W32
  history  : List (Nat × Nat)
  starts   : List (Nat × Nat)
deriving DecidableEq, Repr

/-- The structure that holds an uncorrectable HBM burst (R356). -/
inductive HbmHolder where
  | rawSlot (g : Fin 4) (gsn : W32)
  | standbySlot (g : Fin 4) (gsn : W32)
  | storedTile (g : Fin 4) (tileSeq : W64)
  | parityBuffer (jseq : Nat)
  | replayBuffer (chan : Nat) (second : Bool)
  | replReceive (chan : Nat)
  | hotIndex (bucket : Nat)
  | dupRecord (qp : Nat)
  | ckptReceive (buffer : Nat)
  | ckptStaging
  | journal | mirror | metaArea
  | other
deriving DecidableEq, Repr

/-- A parity error of the metadata cache (R370). -/
inductive ParityErr where
  | data | tag | copies
deriving DecidableEq, Repr

/-- Which host memory access failed (R251). -/
inductive HostAccess where
  | descData (chan : Nat) (tag : W32)
  | descFetch (chan : Nat) (slot : Nat)
  | cplWrite (chan : Nat)
  | doorbell (chan : Nat)
  | qp (qp : Nat)
deriving DecidableEq, Repr

/-- What PWRFAIL_N or a supply monitor does with the inputs at power-on (R424, R485). -/
structure BootIn where
  headHigh  : Bool
  pwrHigh   : Bool
  perstHigh : Bool
  trigHigh  : Bool
  card      : Option Image
deriving DecidableEq, Repr

/-- What a maintenance read of one stripe finds: for each member its 64 sectors (R181, R198, R506). -/
structure StripeIn where
  layout  : Nat
  stripe  : Nat
  members : List (List SecRead)
deriving DecidableEq, Repr

/-- Readings of the critical-path replicas, in taps, and of the ring oscillators, in kHz (R388). -/
structure SensorIn where
  replicas : List Nat
  rings    : List Nat
deriving DecidableEq, Repr

/-- AVSBus answer (R391): none when not answered within 1 ms, else measured mV and current A. -/
abbrev AvsIn := Option (Nat × Nat)

end Sys2Proof
end

