-- ==== Sys2Proof/Syntax.lean ====
section
/-! DEFINITION. The commands of the head controller: one constructor for each row of spec/opcode_table.json, in the
table's order, each with the operands that come from outside the chip (notes/assumptions/1.md). -/

namespace Sys2Proof

/-- A command or event that the head controller takes. -/
inductive Instr where
  -- set-up registers (R449 to R472) and service registers
  | registerWrite (addr : BitVec 26) (size : Nat) (value : W64)
  | glbLock (value : W32) (t : TakeoverIn) (dumps : List DumpIn)
  | dpCfgWrite (value : W32) (drives : List DriveInfo)
  | adminEnable (value : W32)
  | adminStop (value : W32)
  | regionTableWrite (addr : BitVec 26) (size : Nat) (value : W64)
  | cacheDisable
  | cacheDrainDone
  | evrCursorWrite (addr : BitVec 26) (size : Nat) (value : W64)
  | evrWindowRead (addr : BitVec 26) (size : Nat)
  | jtagClose (value : W32)
  -- reset, power and fatal events
  | porNAssert
  | porNDeassert (pins : BootIn)
  | bootPwrfailHoldEnd (card : Option Image)
  | perstN
  | functionLevelReset
  | pwrfailN
  | supplyMonitorTrip (rail : Fin 3)
  | dumpFreeze
  | dumpBodiesDone
  | dumpComplete
  | watchdog (core : Fin 4) (pc : W64)
  | coreAccess (core : Fin 4) (addr : W64)
  | norPersist
  | evrTimeMark
  | auditTick
  -- SiethLink (R32 to R72, R498)
  | trainingFrame (g : Fin 4) (lane : Fin 16) (control status : W32) (inverted : Bool)
  | codewordLock (g : Fin 4)
  | linkUpTimeout (g : Fin 4) (linkStep : Nat)
  | capOffer (g : Fin 4) (p : Packet)
  | capGrant (g : Fin 4) (p : Packet)
  | capOfferRepeat (g : Fin 4)
  | packetReceive (g : Fin 4) (p : Packet)
  | uncorrectableCodeword (g : Fin 4) (lane : Fin 16) (j : Nat) (rx : List Nat)
  | fecRetrain (g : Fin 4) (lane : Fin 16)
  | hdrCrcRetrain (g : Fin 4)
  | lossOfSignal (g : Fin 4) (lane : Fin 16)
  | capTimeout (g : Fin 4)
  | creditThreshold (g : Fin 4)
  | creditDelay (g : Fin 4)
  | creditKeepalive (g : Fin 4)
  | credit (g : Fin 4) (p : Packet)
  | stopReqRepeat (g : Fin 4)
  | stopDone (g : Fin 4) (p : Packet)
  | stopTimeout (g : Fin 4)
  | stopReq (g : Fin 4) (p : Packet)
  | roleChangeApply
  -- landing, mover and heal (R73 to R92)
  | moverCopy (g : Fin 4)
  | healRepeat (g : Fin 4)
  | healDeadline (g : Fin 4)
  -- pipes, stripes and drives
  | tileEncode (g : Fin 4)
  | referenceSealTimer (g : Fin 4)
  | referenceSealCount (g : Fin 4)
  | stripeIssue
  | stripWriteComplete (jseq member : Nat)
  | stripWriteFail (jseq member : Nat) (status : W32)
  | memberLag (jseq member : Nat)
  | lagFailTimer (jseq member : Nat)
  | reservationConflict (jseq member : Nat)
  | conflictHoldTimer (slot : Nat)
  | driveLinkLoss (slot : Nat)
  | driveCriticalWarning (slot : Nat)
  | driveReadComplete (chan : Nat) (cols : List (List SecRead))
  | writeBack (slot lba : Nat) (ok : Bool)
  | scrubStripe (s : StripeIn)
  | rebuildStripe (s : StripeIn)
  | copyBackChunk (slot chunk : Nat) (members : List (List SecRead))
  | reshapeBatch (reads : List StripeIn)
  | metadataCommit
  -- buffer pools, HBM and metadata cache (R353 to R378)
  | alloc (pool : Nat) (ledger : Bool)
  | free (pool : Nat) (index : Nat) (ledger : Bool)
  | pop (pool : Nat) (ledger : Bool)
  | hbmUncorrectable (addr : Nat) (holder : HbmHolder)
  | patrolRead (err : List Byte) (onDie : Bool) (holder : HbmHolder)
  | cacheParityError (set : Fin 8192) (way : Fin 16) (err : ParityErr)
  | cacheParityLimit
  | writeBufferDrain
  | barrier (journal : Bool)
  | clean (addr : Nat)
  | inval (addr : Nat)
  | cleanInval (addr : Nat)
  | cleanRegion (entry : Fin 64)
  | cleanInvalRegion (entry : Fin 64)
  | dmaBurst (hostData : List Byte) (poisoned : Bool)
  | cipherSegmentEnd (lane : Fin 2)
  | drbgReseed (inst : Fin 6)
  | entropyHealthFail (inst : Fin 6)
  -- host rings (R248 to R277)
  | doorbellPoll (group : Nat) (reads : List DbRead)
  | hostAccessError (what : HostAccess)
  | msixModTimer (chan : Nat)
  | msixUnmask (vector : Nat)
  | nop (h : Hdr)
  | channelCreate (h : Hdr) (index ctype domain sqLog2 cqLog2 vector modCount decPipe modTime group priority layout : Nat)
      (sqBase cqBase qp dbTail : Nat)
  | channelDestroy (h : Hdr) (handle : W32)
  | abort (h : Hdr) (handle : W32) (tag : W32)
  | notify (h : Hdr) (minSev : Nat)
  | pageAssign (h : Hdr) (page domain : Nat)
  | keyLoad (h : Hdr) (page : Nat) (key : List Byte) (salt : W32) (ctr : W64)
  | pageRekey (h : Hdr) (page : Nat) (key : List Byte) (salt : W32) (ctr : W64)
  | pageErase (h : Hdr) (page : Nat)
  | pageRelease (h : Hdr) (page : Nat)
  | hkeyLoad (h : Hdr) (slot domain : Nat) (key : List Byte)
  | hkeyErase (h : Hdr) (slot : Nat)
  | mrExtend (h : Hdr) (reg : Nat) (value : W384)
  | layoutLoad (h : Hdr) (layoutId recLen : Nat) (rec : LayoutRec) (drives : List DriveInfo)
  | volumeCreate (h : Hdr) (volume layout : Nat) (encrypted dedup : Bool) (kcv dkcv : W32)
  | volumeDelete (h : Hdr) (volume : Nat)
  | takeDelete (h : Hdr) (volume takeId segId : Nat)
  | snapVolume (h : Hdr) (volume : Nat)
  | snapRelease (h : Hdr) (snapId : Nat)
  | verifySeal (h : Hdr) (volume takeId segId : Nat)
  | groupCtl (h : Hdr) (group action : Nat)
  | portRole (h : Hdr) (role : Nat)
  | drivePort (h : Hdr) (port action : Nat) (info : List DriveInfo)
  | handover (h : Hdr) (groups : BitVec 4) (direction : Nat)
  | shutdown (h : Hdr)
  | fwStage (h : Hdr) (block length : Nat) (card : Option Image) (sdhc : Bool)
  | fwActivate (h : Hdr)
  | fwRunning
  | activationTimeout (partnerSilent : Bool) (t : TakeoverIn)
  | fwConfirm (h : Hdr)
  | attestQuote (h : Hdr) (nonce : W256) (outAddr outLen : Nat)
  | takeOpen (h : Hdr) (r : OpenReq)
  | takeClose (h : Hdr) (takeId mode successor : Nat) (closeTime : W64)
  | trigger (h : Hdr) (takeId : Nat) (trigId : W32) (time : W64) (sinceLanding : Nat)
  | resume (h : Hdr) (groups : BitVec 4)
  | stop (h : Hdr) (groups : BitVec 4)
  | snapTake (h : Hdr) (takeId : Nat)
  | read (h : Hdr) (volume kind part target segId : Nat) (flags : BitVec 5) (group digest first count reportLen : Nat)
      (dest report digestOut : Nat)
  | play (h : Hdr) (volume kind part target segId : Nat) (flags : BitVec 3) (recGroup pace : Nat) (first : BitVec 48)
      (frames : Nat) (gsnBase : W32) (frameBase : BitVec 48) (timeBase : W64)
  | copy (h : Hdr) (source dest length space digest slot digestOut : Nat)
  | replSend (h : Hdr) (volume kind part target segId : Nat) (fpExchange : Bool) (targetVol first entries batch : Nat)
  | replAccept (h : Hdr) (volume takeId : Nat)
  | scrubCtl (h : Hdr) (action : Nat)
  | reshape (h : Hdr) (volume target method : Nat)
  | driveAdmit (h : Hdr) (slot : Nat) (info : DriveInfo)
  | driveReplace (h : Hdr) (slot : Nat) (info : DriveInfo)
  | driveFail (h : Hdr) (slot : Nat)
  | layoutScan (h : Hdr) (reads : List StripeIn)
  | trigIn (sinceLanding : Nat)
  | trigOutEnd
  -- Tango and takeover (R278 to R316)
  | heartbeatTimer
  | heartbeat (e : Env) (b : Beat)
  | heartbeatMissed
  | partnerSilent (t : TakeoverIn)
  | fenceRetry (t : TakeoverIn)
  | hello (e : Env) (m : Hello)
  | helloRetry
  | keyConfirm (e : Env)
  | tangoQpError (qp : Fin 5)
  | startupWaitExpiry (t : TakeoverIn) (dumps : List DumpIn)
  | linkInfo (e : Env) (link : Four LinkSec)
  | ownerTable (e : Env) (owners : Four Nat)
  | ownerAck (e : Env) (owners : Four Nat)
  | handoverReq (e : Env) (groups : BitVec 4) (direction : Nat)
  | handoverReady (e : Env) (groups : BitVec 4)
  | handoverState (e : Env) (cuts : List (Fin 4 × W32 × GState)) (chains : List ChainHand)
  | handoverDone (e : Env) (commits : List (Fin 4 × W32))
  | handoverTimeout (t : TakeoverIn)
  | leaving (e : Env) (cause : Nat) (t : TakeoverIn)
  | frozen (e : Env) (lastJseq : Nat) (t : TakeoverIn)
  | takePart (e : Env) (r : OpenReq) (kcv dkcv : W32) (takeId part : Nat)
  | takePartAck (e : Env) (takeId part status : Nat)
  | triggerFwd (e : Env) (r : TrigRec) (takeId segId : Nat)
  | driveNotice (e : Env) (slot action : Nat)
  | claimVerdict (e : Env) (layout period jseq : Nat) (refused : Bool)
  | checkpointTimer
  | ckptDone (e : Env) (buffer : Nat) (c : Ckpt)
  | healReq (e : Env) (reqId : W32) (g : Fin 4) (count : Nat) (first : W32) (streamId : W16)
  | healDone (e : Env) (reqId : W32) (g : Fin 4) (count : Nat) (first : W32) (held : W64) (slots : List Slot)
  | mirrorRec (e : Env) (r : JRec) (st : Option GState) (crcOk : Bool)
  | mirrorAck (e : Env) (jseq : Nat)
  | nak (e : Env) (kind : NakKind) (reason : Nat) (owners : Four Nat)
  | ledger (e : Env) (ents : List LedgerEnt)
  | standbyReady
  -- RDMA (R317 to R339)
  | qpContextChange (qp : Nat) (gen : Byte) (host : QpHost) (windows : List Window)
  | qpNop (qp : Nat) (wr : Wr)
  | qpSend (qp : Nat) (wr : Wr)
  | qpWrite (qp : Nat) (wr : Wr)
  | qpWriteImm (qp : Nat) (wr : Wr)
  | qpRead (qp : Nat) (wr : Wr)
  | qpFlush (qp : Nat) (wr : Wr)
  | qpWait (qp : Nat) (wr : Wr)
  | rdmaRequest (r : RdmaReq)
  | rdmaAck (qp : Nat) (psn : BitVec 24) (data : List Byte)
  | rdmaNak (qp : Nat) (psn : BitVec 24) (code : NakCode)
  | rdmaAckTimeout (qp : Nat)
  | rnrRetryTimer (qp : Nat)
  | cnp (qp : Nat)
  | cnpRateTimer (qp : Nat)
  | contextFetchDone (qp : Nat)
  -- replication (R340 to R348)
  | rHello (chan : Nat) (m : Hello)
  | rConfirm (chan : Nat) (auth : Bool)
  | offer (chan : Nat) (o : Offer)
  | acceptTimeout (chan : Nat)
  | accept (chan : Nat) (status nextEntry : Nat)
  | fpBatch (chan : Nat) (first : Nat) (lookup : Bool) (entries : List FpEntry)
  | held (chan : Nat) (first : Nat) (bitmap : List Bool)
  | tile (chan : Nat) (entry : Nat) (stored : List Byte)
  | commit (chan : Nat) (entries : Nat)
  | replCommitTimer (chan : Nat)
  | close (chan : Nat) (total : Nat)
  | closed (chan : Nat) (total : Nat)
  | error (chan : Nat) (entry status : Nat)
  -- Minuet (R388 to R396)
  | earlyWarning (replica : Fin 24) (avs : AvsIn)
  | replan (r : SensorIn) (avs : AvsIn)
  | vddStepDown (avs : AvsIn)
  | avsRetry (avs : AvsIn)
  | sensorRead (r : SensorIn)
  | thermalSample (diodes : List Int)
  | thermalTrip (diode : Nat) (celsius : Int)
  | pcieMargin (port margin : Nat)
  | eyeScan (ethernet : Bool) (lane height width : Nat)
  -- service bus, ports and late completions
  | i2cIndexWrite (bytes : List Byte)
  | i2cRead (count : Nat)
  | perstNDeassert
  | driveAdminCommandComplete (slot : Nat) (r : DriveAdmin)
  | stagingComplete (outcome : Nat) (img : Image)
  | drivePortRetrain (slot rateGT lanes : Nat)
  | ethPortLinkChange (port : Fin 2) (up fecLock : Bool)
  | playPaceTimer (chan : Nat)
deriving DecidableEq, Repr

end Sys2Proof
end

