-- ==== Sys2Proof/Decode.lean ====
section
/-! DEFINITION. The commands that a word spells. spec/opcode_table.json gives no row of this block any bits: a command
comes as a register access, a descriptor, a message, a pin or an elapsed time, each with operands of its own. -/

namespace Sys2Proof

/-- The command that a word spells by the table's bits: none, as no row has any (notes/assumptions/6.md). -/
def decodeTableWord (_nbits _w : Nat) : Option Instr := none

end Sys2Proof
end

