-- ==== Sys2Proof/Machine/Bytes.lean ====
section
/-! DEFINITION. Byte order (R6), bit fields (R5), serial-number arithmetic (R11) and the CRCs of R49. -/

namespace Sys2Proof.Machine
open Sys2Proof

/-- The low `n` bytes of a number, least significant first (R6). -/
def leBytes : Nat → Nat → List Byte
  | 0, _ => []
  | n + 1, v => BitVec.ofNat 8 v :: leBytes n (v / 256)

/-- The number that a little-endian byte string holds (R6). -/
def leNat : List Byte → Nat
  | [] => 0
  | b :: t => b.toNat + 256 * leNat t

/-- `n` zero bytes. -/
def zeros (n : Nat) : List Byte := List.replicate n 0

/-- Bytes `[from, from + len)` of a byte string. -/
def slice (l : List Byte) (start len : Nat) : List Byte := (l.drop start).take len

/-- The little-endian field of `len` bytes at an offset; bytes past the end read as zero. -/
def fieldAt (l : List Byte) (start len : Nat) : Nat := leNat (slice l start len)

/-- A byte string padded with zeros or cut to `n` bytes. -/
def padTo (n : Nat) (l : List Byte) : List Byte := (l ++ zeros (n - l.length)).take n

/-- Whether every byte is zero. -/
def allZero (l : List Byte) : Bool := l.all (· == 0)

/-- Bits `[hi:lo]` of a number (R5). -/
def bits (v hi lo : Nat) : Nat := v / 2 ^ lo % 2 ^ (hi + 1 - lo)

/-- Bit `i` of a number (R5). -/
def bitOf (v i : Nat) : Bool := v.testBit i

/-- A Boolean as a bit. -/
def bit (b : Bool) : Nat := if b then 1 else 0

/-- `v` with bits `[hi:lo]` replaced by those of `w`. -/
def setBits (v hi lo w : Nat) : Nat := v - bits v hi lo * 2 ^ lo + bits w hi lo * 2 ^ lo

/-- Least multiple of `a` that is at least `n`. -/
def alignUp (n a : Nat) : Nat := (n + a - 1) / a * a

/-- Serial distance from `a` to `b`, modulo the field width (R11). -/
def sdiff {w : Nat} (a b : BitVec w) : Nat := (b - a).toNat

/-- `a` precedes `b` (R11). -/
def precedes {w : Nat} (a b : BitVec w) : Bool := decide (1 ≤ sdiff a b ∧ sdiff a b ≤ 2 ^ (w - 1) - 1)

/-- `a` precedes or equals `b` (R11). -/
def precEq {w : Nat} (a b : BitVec w) : Bool := a == b || precedes a b

/-- The earlier of two serial numbers. -/
def smin {w : Nat} (a b : BitVec w) : BitVec w := if precedes b a then b else a

/-- A count kept as a number in a field of 64 bits moves on, and wraps (R11). -/
def next64 (n : Nat) : Nat := (n + 1) % 2 ^ 64

/-- The count before one of 64 bits. -/
def prev64 (n : Nat) : Nat := (n + 2 ^ 64 - 1) % 2 ^ 64

/-- `a` precedes `b`, as sequence numbers of 64 bits (R11). -/
def before64 (a b : Nat) : Bool := precedes (BitVec.ofNat 64 a) (BitVec.ofNat 64 b)

/-- `a` precedes or equals `b`, as sequence numbers of 64 bits. -/
def upTo64 (a b : Nat) : Bool := !before64 b a

/-- The later of two sequence numbers of 64 bits. -/
def later64 (a b : Nat) : Nat := if before64 a b then b else a

/-- One bit of the reflected CRC-32C. -/
def crc32cBit (c : W32) : W32 := if c.getLsbD 0 then (c >>> 1) ^^^ 0x82F63B78 else c >>> 1

/-- One byte of the reflected CRC-32C. -/
def crc32cByte (c : W32) (b : Byte) : W32 :=
  crc32cBit (crc32cBit (crc32cBit (crc32cBit (crc32cBit (crc32cBit (crc32cBit (crc32cBit (c ^^^ b.setWidth 32))))))))

/-- The running register of CRC-32C over more bytes, initially all ones. -/
def crc32cRun (c : W32) (l : List Byte) : W32 := l.foldl crc32cByte c

/-- CRC-32C of R49: polynomial 0x1EDC_6F41 reflected, initial value and final XOR all ones. -/
def crc32c (l : List Byte) : W32 := crc32cRun 0xFFFFFFFF l ^^^ 0xFFFFFFFF

/-- One bit of CRC-16. -/
def crc16Bit (c : W16) : W16 := if c.getLsbD 15 then (c <<< 1) ^^^ 0x1021 else c <<< 1

/-- One byte of CRC-16. -/
def crc16Byte (c : W16) (b : Byte) : W16 :=
  crc16Bit (crc16Bit (crc16Bit (crc16Bit (crc16Bit (crc16Bit (crc16Bit (crc16Bit (c ^^^ (b.setWidth 16 <<< 8)))))))))

/-- CRC-16 of R49: polynomial 0x1021, initial value 0xFFFF, no reflection, no final XOR. -/
def crc16 (l : List Byte) : W16 := l.foldl crc16Byte 0xFFFF

/-- Low and high word of a number of up to 64 bits. -/
def addrWords (a : Nat) : List W32 := [BitVec.ofNat 32 a, BitVec.ofNat 32 (a / 2 ^ 32)]

/-- Bytewise exclusive OR. -/
def xorBytes (a b : List Byte) : List Byte := List.zipWith (· ^^^ ·) a b

/-- The bytes of a word of any width, least significant first. -/
def wordBytes {w : Nat} (v : BitVec w) : List Byte := leBytes (w / 8) v.toNat

/-- The bytes of a word as a standard's byte string, most significant first (R6). -/
def beBytes {w : Nat} (v : BitVec w) : List Byte := (wordBytes v).reverse

/-- A saturating 32-bit increment. -/
def satInc32 (v : W32) : W32 := if v == 0xFFFFFFFF then v else v + 1

end Sys2Proof.Machine
end

