-- ==== Sys2Proof/Config.lean ====
section
/-! DEFINITION. What a part fixes and what the manual leaves to a published standard or leaves open.
Every constant here is opaque: nothing in Lean can evaluate it, so a statement holds for each value of it.
X.509 and the bodies of configuration records are uninterpreted (notes/assumptions/2.md), factory and OTP
values are per part (3.md), and free values stand for results that the manual does not state (4.md). -/

namespace Sys2Proof

/-! X.509 certificates (RFC 5280, R440) and record bodies that the manual leaves to their format. -/

/-- Whether a certificate chain verifies to the Bolonto root (RFC 5280, R440). -/
opaque Config.chainOk : List Byte → Bool
/-- The body of a configuration record of a format: R435 leaves it to the format. -/
opaque Config.cfgBody : Nat → List (Nat × Nat) → List (Nat × Nat) → List Byte
/-- The public key of a certificate chain's leaf. -/
opaque Config.leafKey : List Byte → List Byte

/-! Values fixed in one part. -/

/-- SEC_SERIAL (R447). -/
opaque Config.serial : W64
/-- ETH_MAC factory values (R351). -/
opaque Config.factoryMac : Nat → BitVec 48
/-- The device key's private scalar, in OTP (R439). -/
opaque Config.deviceKey : Nat
/-- SHA-384 of the device certificate, in OTP (R440). -/
opaque Config.certHash : W384
/-- OTP hash of firmware signing key slot `k` (R421). -/
opaque Config.signKeyHash : Nat → W384
/-- Boot ROM version (R427). -/
opaque Config.romVersion : W32
/-- The LZB encoder's body for a raw tile: R106 fixes that it is a function, R113 its format, nothing its matches. -/
opaque Config.lzbEncode : List Byte → List Byte
/-- Replica temperature slope and calibration of R390: the worst passing margin in mV, corrected to 105 °C, that the readings of the
replicas and ring oscillators stand for. -/
opaque Config.marginAt105 : List Nat → List Nat → Nat
/-- Receiver starting points planned from an eye scan (R393): CTLE setting and DFE taps. -/
opaque Config.planReceiver : Nat → Nat → Nat
/-- Whether the projected hours of R395 are rounded to the nearest, and not down. -/
opaque Config.projectedNearest : Bool

/-- First byte of region `n` of HBM (R382), for the sizes that the four rings have: the head places them (R353). -/
opaque Config.hbmBase : List Nat → Nat → W64
/-- Length of segment `n`, 6 or 7, of the stripe area where it has so many. -/
opaque Config.hbmSegLen : List Nat → Nat → Nat
/-- How many of the entries 5 to 7 of MCA_HBM_MAP describe the stripe area (R382). -/
opaque Config.hbmSegments : List Nat → Nat

/-- State of lane `l`'s scrambler before its first codeword: R37 gives none. -/
opaque Config.scrambler : Nat → BitVec 58
/-- Register of the training pattern of port lane `n` before its first frame: R40 gives none. -/
opaque Config.prbsSeed : Nat → BitVec 13
/-- Least value of a SiethLink transmit tap in thousandths: 0 pre-cursor, 2 post-cursor. R43 gives no limits. -/
opaque Config.tapMin : Nat → Int
/-- Greatest value of a SiethLink transmit tap in thousandths. -/
opaque Config.tapMax : Nat → Int

/-- Base address of a buffer pool whose place the manual leaves to the head or the firmware (R354, R358). -/
opaque Config.poolBase : Nat → Nat

/-- Whether the host has enabled Relaxed Ordering in the Device Control register (R250). -/
opaque Config.hostRelaxed : Bool

/-! Free values: the manual states no result. The number is the draw, from State's free counter. -/

/-- A free 192-bit draw (tile nonces of R141). -/
opaque Config.free192 : Nat → BitVec 192
/-- A free 256-bit draw (session nonces of R143). -/
opaque Config.free256 : Nat → W256
/-- A free 64-bit value. -/
opaque Config.free64 : Nat → W64
/-- A free 32-bit value. -/
opaque Config.free32 : Nat → W32
/-- A free byte. -/
opaque Config.freeByte : Nat → Byte
/-- A free natural number. -/
opaque Config.freeNat : Nat → Nat

end Sys2Proof
end

