-- ==== Sys2Proof/Machine/Types.lean ====
section
/-! DEFINITION. The parts of State, block by block, as plain data: each field names the rule of the manual that gives
the machine that piece of state. Machine/State.lean joins them. -/

namespace Sys2Proof.Machine
open Sys2Proof

/-! ## SiethLink (R32 to R72) -/

/-- State of a group's link (SL_STATUS.STATE, R465). -/
inductive LinkSt where
  | disabled | training | awaitCap | granted | down
deriving DecidableEq, Repr

/-- The grant in force on a group (R55, R56). -/
structure Grant where
  streamId   : W16
  groupsMask : Byte
  port       : Byte
  deviceId   : W64
  rate       : Nat
  maxFrame   : Nat
  nRo        : Nat
  bRo        : Nat
  formats    : List W16
deriving DecidableEq, Repr

/-- A stop in force on a group (R62 to R65, R77): its identifier, who made it, whether STOP_DONE is held. -/
structure StopSt where
  id         : W32
  reason     : Nat
  portScope  : Bool
  byReq      : Bool
  exhaustion : Bool
  done       : Bool
  hostAllows : Bool
deriving DecidableEq, Repr

/-- One SiethLink lane: transmit taps in thousandths (R43, R466), what its transmitter reports (R42), what its receiver asks of the far
lane (R41), the register of its training pattern (R40) and FEC counts (R70). -/
structure Lane where
  pre       : Int
  main      : Int
  post      : Int
  preStat   : Nat
  mainStat  : Nat
  postStat  : Nat
  presetDone : Bool
  acted     : Option Byte
  farReady  : Bool
  ctle      : Nat
  invert    : Bool
  locked    : Bool
  rxReady   : Bool
  req       : Nat
  reqSeq    : Byte
  prbs      : BitVec 13
  fecCorr   : W64
  fecUncorr : W64
  lastBad   : Option Nat
  badRun    : Nat
  badWin    : Nat
deriving DecidableEq, Repr

/-- What a group sends on its line (R37 to R39): whether codewords run, the bytes of the stream short of a block, the number of the
next block, and for each lane its scrambler and the bits of its codeword so far. -/
structure LineTx where
  on    : Bool
  part  : List Byte
  block : Nat
  scr   : Tab (BitVec 58)
  msg   : Tab (List Bool)
deriving DecidableEq, Repr

/-- What a group receives from its line since training: packets of the stream that have come, and the blocks found bad (R36, R38). -/
structure LineRx where
  count : Nat
  bad   : List Nat
deriving DecidableEq, Repr

/-- The order of R53 as far as a group's packets have come: the open frame with the offset due next, the last frame closed, and whether
a gap lies since the last packet. -/
structure Order where
  frame : Option (BitVec 48 × Nat)
  last  : Option (BitVec 48)
  gap   : Bool
deriving DecidableEq, Repr

/-- One SiethLink group of this head's port. -/
structure Group where
  link       : LinkSt
  nrz        : Bool
  attempt    : Nat
  attempts   : Nat
  retraining : Bool
  grant      : Option Grant
  limit      : W32
  creditSent : W32
  resumeSet  : Bool
  stop       : Option StopSt
  comeStopped : Bool
  order      : Order
  lastTs     : W64
  crcRun     : Nat
  winBytes   : Nat
  badLogged  : Option Nat
  countdown  : Nat
  allReady   : Bool
  farAllReady : Bool
  tx         : LineTx
  rx         : LineRx
  playNext   : W32
  playLimit  : Option W32
  playStop   : Option W32
  playFrame  : BitVec 48
  playOpen   : Bool
  playDone   : Option Packet
  hdrErr     : W64
  pktBad     : W64
  pktCrcErr  : W64
  dup        : W64
  contractViol : W64
  retrainCnt : W64
deriving DecidableEq, Repr

/-- The SiethLink port: four groups of sixteen lanes in one role (R34, R69). -/
structure Sl where
  groups   : Four Group
  lanes    : Tab Lane
  player   : Bool
  roleReq  : Option Bool
  stopCtr  : W32
  stopWaits : List (Hdr × BitVec 4)
deriving DecidableEq, Repr

/-! ## Ledger (R73 to R94) -/

/-- One gsn awaiting cross-heal (R90): request number, how often it was asked for, and when it was found. -/
structure Heal where
  gsn   : W32
  reqId : W32
  tries : Nat
  found : Nat
deriving DecidableEq, Repr

/-- DATA bytes of a frame number in packets that were over-run, and in slots dropped under R84's reasons 2, 4 and 7 (R86, R94). -/
structure FrameLoss where
  ovr  : Nat
  lol  : Nat
  lov  : Nat
  hbm  : Nat
deriving DecidableEq, Repr

/-- The ledger of one group (R76, R79): positions, landing slots, ring, heals, counters. -/
structure Ledger where
  credited : Bool
  expect   : W32
  commit   : W32
  ringPos  : W32
  allow    : Nat
  nRaw     : Nat
  landing  : List Slot
  ring     : List Slot
  carried  : Nat
  heals    : List Heal
  standbyNs : Nat
  granted  : W64
  received : W64
  committed : W64
  released : W64
  dropped  : W64
  resident : W64
  healed   : W64
  overrun  : W64
  lossOf   : Tab FrameLoss
  lastLand : Option (W32 × W64)
  drops    : Tab W64
  dropBytes : Tab W64
  ledgerBase : Option (W32 × Nat)
  ledgerHdrs : List Byte
deriving DecidableEq, Repr

/-- SL_LG_AUDIT (R83). -/
structure Audit where
  creditFail  : BitVec 4
  custodyFail : BitVec 4
  residencyFail : BitVec 4
  poolFail    : BitVec 4
  tick        : W16
  latched     : Bool
  ticks       : Nat
deriving DecidableEq, Repr

/-! ## Pipes and stripes (R95 to R129, R170 to R215) -/

/-- A raw tile cut by the assembler, waiting for the encoder (R95, R100). -/
structure RawTile where
  bytes    : List Byte
  frame    : Option FrameRec
  frameOpen : Bool
  offset   : Nat
  index    : Nat
  first    : Bool
  last     : Bool
  lossZero : Bool
  slots    : Nat
  good     : Nat
  lastGsn  : W32
  takeId   : Nat
  volume   : Nat
deriving DecidableEq, Repr

/-- A metadata record of a part (R229), with the gsn that produced it, or none. -/
inductive MetaBody where
  | mta (tag gsn : W32) (frame : BitVec 48) (ts : W64) (group : Nat) (payload : List Byte)
  | trig (r : TrigRec)
  | framePage (prev first : Nat) (recs : List FrameRec)
  | tilePage (prev first : Nat) (ents : List Entry)
  | manifest (bytes : List Byte)
deriving DecidableEq, Repr

/-- A metadata record not yet placed in a metadata tile; `seg` is the Reel segment whose map it pages, or 0. -/
structure MetaRec where
  body : MetaBody
  part : Nat
  seg  : Nat
  src  : Option (Nat × W32)
deriving DecidableEq, Repr

/-- What a stored tile of frame data carries until its stripe retires (R129): its slots, the bytes received, its frame. -/
structure TileDebt where
  seq    : W64
  slots  : Nat
  good   : Nat
  frame  : BitVec 48
deriving DecidableEq, Repr

/-- A stripe buffer: open, sealed or issued (R115, R183, R358). `data` holds tiles by byte offset in the data space. -/
structure StripeBuf where
  layout    : Nat
  stripe    : Nat
  volume    : Nat
  takeId    : Nat
  part      : Nat
  source    : Nat
  group     : Nat
  used      : Nat
  data      : List (Nat × List Byte)
  entries   : List Entry
  frames    : List FrameRec
  commitGsn : W32
  slots     : Nat
  padded    : Bool
  maint     : Bool
  bufIdx    : Nat
  parIdx    : Nat
  owed      : List TileDebt
  gstate    : Option GState
deriving DecidableEq, Repr

/-- One pipe: assembler, encoder output, the group state at C (R293), and counters (R100, R128). `held` is set while the last tile
cut may be its frame's last (R102); `unchecked` ends the slots that landed with no check of their order (R75). -/
structure Pipe where
  frame    : Option FrameRec
  frameGap : Bool
  order    : Order
  held     : Bool
  unchecked : Option W32
  frameCrc : W32
  framePos : Nat
  fromOpen : Bool
  tileBuf  : List Byte
  tileLoss : Bool
  tileSlots : Nat
  tileGood : Nat
  tileOff  : Nat
  nextTile : Nat
  lastGsn  : W32
  ready    : List RawTile
  stripe   : Option StripeBuf
  refPend  : Nat
  closed   : List (W32 × FrameRec)
  cstate   : Option GState
  tilesEnc : W64
  tilesPred : W64
  tilesLzb : W64
  tilesRaw : W64
  fallback : W64
  dedupHit : W64
  bytesRaw : W64
  bytesStored : W64
  tilesDec : W64
  decFail  : W64
deriving DecidableEq, Repr

/-- State of a drive (R199). -/
inductive DriveSt where
  | absent | healthy | suspect | failed | replacing
deriving DecidableEq, Repr

/-- One drive slot and its port (R172, R199, R213, R215, R290), with the maintenance bytes issued in the millisecond `maintMs`
(R202). -/
structure Drive where
  state     : DriveSt
  portOn    : Bool
  rateGT    : Nat
  lanes     : Nat
  linked    : Bool
  retrains  : W32
  registered : Bool
  partnerReg : Bool
  lagTimes  : List Nat
  piErrors  : W32
  held      : List (Nat × Nat)
  nsSectors : Nat
  maintMs   : Nat
  maintBytes : Nat
deriving DecidableEq, Repr

/-- A remapped chunk (R200). -/
structure Remap where
  layout : Nat
  failed : Nat
  chunk  : Nat
  spare  : Nat
  spareChunk : Nat
deriving DecidableEq, Repr

/-- A claimed period (R177, R508). -/
structure Claim where
  layout : Nat
  period : Nat
  headB  : Bool
  accepted : Bool
  jseq   : Nat
deriving DecidableEq, Repr

/-- An open journal entry with its 18 member writes (R185). `again` is set while its tiles are to be sealed again (R129, R205). -/
structure OpenEnt where
  jseq   : Nat
  order  : Nat
  buf    : StripeBuf
  remapMask : BitVec 18
  done   : BitVec 18
  acked  : Bool
  waitHand : Bool
  again  : Bool
  state  : Option GState
deriving DecidableEq, Repr

/-- A sector to write back (R190): where it lies, its tags, and whether VLT_REPAIRS counts it (R214). -/
structure WriteBack where
  counts : Bool
  slot   : Nat
  lba    : Nat
  refTag : BitVec 48
  appTag : W16
  data   : List Byte
deriving DecidableEq, Repr

/-- A reshape in progress (R206, R208). Side by side, `map` holds each stored tile dealt with so far: its place in the source, and its
place in the target or none where it was lost; `freed` holds the source's stripes that go with the last switch. -/
structure Reshape where
  h      : Hdr
  volume : Nat
  source : Nat
  target : Nat
  moving : Bool
  moved  : Nat
  map    : List (Nat × Option Nat)
  freed  : List (Nat × Nat)
deriving DecidableEq, Repr

/-- A batch of a moving-boundary reshape whose backup stands (R208, steps 1 to 3): the HBM copy of its native stripes, strip by strip, each
with its application tag; the backup's spare chunks, those from `first` on, `rows` of them on each drive; each overlap chunk with its new
home; and the forerunner chunks that the backup restores. -/
structure Batch where
  data  : List (W16 × List Byte)
  first : Nat
  rows  : Nat
  homes : List Remap
  saved : List WriteBack
deriving DecidableEq, Repr

/-- Where a moving-boundary reshape of a forerunner layout stands (R208): the native layout, the boundary in native stripes, the
relocation list, and the batch being converted. -/
structure Moving where
  target   : Nat
  boundary : Nat
  relocs   : List Remap
  batch    : Option Batch
deriving DecidableEq, Repr

/-- A layout's progress record as the drives hold it (R209), with its relocation list and what a valid backup restores. -/
structure Progress where
  seq      : Nat
  rebuildPos : Nat
  scrubPos : Nat
  boundary : Nat
  backup   : Nat
  valid    : Bool
  relocs   : List Remap
  saved    : List WriteBack
deriving DecidableEq, Repr

/-- The journal dump in progress (R194). -/
inductive DumpSt where
  | idle | armed | bodies (pair : Nat × Nat) | headers (pair : Nat × Nat) | complete
deriving DecidableEq, Repr

/-- A DRIVE_REPLACE in progress (R203, R204): chunks copied back, and those left, as layout and chunk, spare chunks numbered on after
the data chunks. -/
structure Replacing where
  h    : Option Hdr
  done : Nat
  left : List (Nat × Nat)
deriving DecidableEq, Repr

/-- The counters of R214. -/
structure VltCnt where
  retired : W64
  adopted : W64
  discarded : W64
  recon   : W64
  repairs : W64
  lost    : W64
  rebuilt : W64
  scrubbed : W64
  lags    : W64
deriving DecidableEq, Repr

/-! ## Takes and the catalogue (R216 to R247) -/

/-- State of a take (R217). -/
inductive TakeSt where
  | open_ | closing | closed_ | deleted
deriving DecidableEq, Repr

/-- A part of a take (R160 to R163, R219, R225). `mine` is set where this head writes it, `lent` where its chain has gone to the partner
with a group of it (R305); `due` is a chain that waits for a free register: linked to a value and count, or opened. -/
structure Part where
  idx       : Nat
  groups    : BitVec 4
  reg       : Option Nat
  records   : Nat
  segments  : List (W64 × Nat)
  entries   : List Entry
  frames    : List FrameRec
  metaIdx   : Nat
  nextTile  : Four Nat
  pagedEnts : Nat
  pagedFrames : Nat
  tilePageLoc : Nat
  tileFullLoc : Nat
  framePageLoc : Nat
  frameFullLoc : Nat
  closeDone : Bool
  sealed_   : Option (W384 × BitVec 768)
  mine      : Bool
  lent      : Bool
  due       : Option (Option (W384 × Nat))
deriving DecidableEq, Repr

/-- A Reel segment (R240), `full` once its frames are fixed; then its pages are written, as far as the counts say, and it is sealed. Its
register is held until its manifest is written (R160): before the metadata tile that `manEnd` numbers. `gone` is 1 once it has been
deleted, and 2 once that is durable (R236). -/
structure Segment where
  id       : Nat
  trigTime : W64
  winStart : Nat
  winEnd   : Nat
  closed   : Bool
  reason   : Nat
  stripes  : List (Nat × Nat)
  frames   : List FrameRec
  sealed_  : Option (W384 × BitVec 768)
  full     : Bool
  pagedEnts : Nat
  pagedFrames : Nat
  tileFullLoc : Nat
  frameFullLoc : Nat
  reg      : Option Nat
  manEnd   : Option Nat
  gone     : Nat
deriving DecidableEq, Repr

/-- The ring of a Reel take (R238). -/
structure ReelSt where
  n       : Nat
  preNs   : Nat
  postNs  : Nat
  limit   : Nat
  minimum : Nat
  stripes : List (Nat × Nat)
  segs    : List Segment
  nextSeg : Nat
deriving DecidableEq, Repr

/-- A take (R216 to R232). `told` says that a checkpoint has carried its last state to the partner, `away` that this head's parts of it
have gone to the partner (R304), `adopted` that parts of the partner's have come here (R312), `undone` that its TAKE_OPEN was (R270),
`erased` that its deletion is durable (R236). `lossDue` holds lost tiles for the loss addendum that its close writes (R247). -/
structure Take where
  volume   : Nat
  id       : Nat
  layout   : Nat
  state    : TakeSt
  groups   : BitVec 4
  chan     : Option Nat
  domain   : Nat
  page     : Nat
  kcv      : W32
  hkey     : Nat
  dedup    : Bool
  start    : Option (BitVec 48)
  limitFrame : Option (BitVec 48)
  openGsn  : Tab W32
  begun    : BitVec 4
  ended    : BitVec 4
  endAt    : Tab W32
  stage    : Nat
  parts    : List Part
  pending  : List MetaRec
  openTime : W64
  closeTime : W64
  reason   : Nat
  reel     : Option ReelSt
  closeHdr : Option Hdr
  addenda  : List (W64 × Nat)
  lossDue  : List (W64 × Nat)
  replica  : Bool
  told     : Bool
  away     : Bool
  adopted  : Bool
  undone   : Bool
  erased   : Bool
deriving DecidableEq, Repr

/-- A snapshot (R237): per part, take, entry and frame counts and the chain. -/
structure Snap where
  id     : Nat
  volume : Nat
  takes  : List (Nat × Nat × Nat × Nat × W384 × Nat)
deriving DecidableEq, Repr

/-- A hot-index entry (R117); its presence in a way is VALID. `layout` is that of its location; `pinned` counts the pending references to it; `next` is the stored tile,
by location and length, that replaces a saturated one once PINNED clears, and `leave` says that its removal waits for that (R119,
R122). -/
structure HotEnt where
  fp     : W256
  layout : Nat
  volume : Nat
  pinned : Nat
  hits   : Nat
  storedLen : Nat
  loc    : Nat
  next   : Option (Nat × Nat)
  leave  : Bool
deriving DecidableEq, Repr

/-- The catalogue and the dedup tables (R117, R120, R234). -/
structure Cat where
  volumes : List Volume
  takes   : List Take
  snaps   : List Snap
  nextSnap : Nat
  refs    : Tab Nat
  hot     : Tab (List (Nat × HotEnt))
  trigIns : W32
  snapWaits : List (Hdr × Nat)
deriving DecidableEq, Repr

/-- What the drives hold of the vault (R233): the catalogue, layouts, claims, stripes, remaps and losses at the last metadata
commit. It outlasts POR_N. -/
structure Disk where
  cat      : Cat
  layouts  : List LayoutRec
  claims   : List Claim
  inUse    : List (Nat × Nat)
  remaps   : List Remap
  lost     : List (Nat × Nat × BitVec 18)
  metaSeq  : Nat
  rootNext : Nat
  vaultId  : W64
  labelSeq : Nat
  progress : Tab Progress
  epoch    : Nat
  level    : Nat := 1
deriving DecidableEq, Repr

/-- A metadata commit in progress (R234): data stripes first, then the root stripe. `covers` is its durable_jseq, `waits` the
stripes not yet retired, `closing` the takes that it makes CLOSED, `removed` the takes and segments whose deletion it records (a segment
by its number, the whole take by 0), `image` what it writes. -/
structure Mdc where
  root    : Bool
  covers  : Nat
  waits   : List (Nat × Nat)
  cats    : List (Nat × Nat)
  freed   : List (Nat × Nat)
  closing : List (Nat × Nat)
  removed : List (Nat × Nat × Nat)
  image   : Disk
deriving DecidableEq, Repr

/-- The vault: drives, layouts, journal, open entries, maintenance (R170 to R215). -/
structure Vault where
  drives   : Tab Drive
  layouts  : List LayoutRec
  claims   : List Claim
  inUse    : List (Nat × Nat)
  freedNext : List (Nat × Nat)
  remaps   : List Remap
  lost     : List (Nat × Nat × BitVec 18)
  journal  : List JRec
  jseq     : Nat
  jPos     : Nat
  durable  : Nat
  sealedQ  : List StripeBuf
  opened   : List OpenEnt
  lagW     : List (Nat × Nat × Nat)
  dump     : DumpSt
  dumpSeq  : Nat
  writeBacks : List WriteBack
  lostWait : List (Nat × Nat × BitVec 18)
  rebuildPos : Tab Nat
  progSeq  : Nat
  nsId     : Nat
  replaces : Tab Replacing
  scrubJob : Option Hdr
  scrubCount : Nat
  scrubPos : Tab Nat
  scrubOn  : Bool
  reshape  : Option Reshape
  moving   : Tab Moving
  scan     : Option (Hdr × List StripeIn)
  labelSeq : Nat
  rootNext : Nat
  metaSeq  : Nat
  mdc      : Option Mdc
  mdcWait  : List (Nat × Nat)
  mdcAgain : Bool
  catStripes : List (Nat × Nat)
  lostFlag : Bool
  spareOut : Bool
  maintHeld : Bool
  vaultId  : W64
  vaultLevel : Nat
deriving DecidableEq, Repr

/-! ## What the head emits -/

/-- An event record (R398); `snap` holds the snapshot words used. -/
structure EvRec where
  code     : Nat
  sev      : Nat
  seq      : W32
  opTime   : W32
  power    : BitVec 24
  persist  : Bool
  exempt   : Bool
  opNs     : W32
  suppressed : W32
  instance_ : W32
  snap     : List W32
deriving DecidableEq, Repr

/-- An NVMe command that the head issues (R171). A Write and a Read carry PRACT 0 and PRCHK guard, application tag and reference tag; a
Read that names no volume has no application tag to compare. A Write carries its data with the guard of each sector. -/
inductive Nvme where
  | identify | getLogPage | getFeatures | setFeatures
  | createCq (qid depth : Nat) | createSq (qid depth : Nat)
  | write (lba count : Nat) (pract : Bool) (prchk : BitVec 3) (refTag : BitVec 48) (appTag : W16) (data : List Byte) (guards : List W64)
  | read (lba count : Nat) (pract : Bool) (prchk : BitVec 3) (refTag : BitVec 48) (appTag : Option W16)
  | register (key : W64)
  | acquire (key : W64) (preempt : Option W64)
  | report
deriving DecidableEq, Repr

/-- Something that leaves the head controller, or that the host can see it write. -/
inductive Out where
  | slTx (g : Fin 4) (p : Packet) (line : List (Nat × List Int))
  | slTrain (g : Fin 4) (lane : Nat) (nrz : Bool) (levels : List Int)
  | slIdle
  | nvme (slot queue : Nat) (c : Nvme)
  | completion (chan : Nat) (tag : W32) (sqIndex status : Nat) (opcode : Byte) (r0 r1 : W64) (dbSeq : W32) (phase : Bool)
  | msix (vector : Nat)
  | hostWrite (relaxed : Bool) (addr : Nat) (data : List Byte)
  | regData (value : W64)
  | i2cData (bytes : List Byte)
  | wire (qp : Nat) (iv : BitVec 96) (bytes : List Byte)
  | hello (m : Hello) (replChan : Option Nat)
  | keyConfirm (replChan : Option Nat)
  | beat (b : Beat)
  | ledger (ents : List LedgerEnt)
  | linkInfo (l : Four LinkSec)
  | ownerTable (o : Four Nat) (epoch : Nat)
  | ownerAck (o : Four Nat) (epoch : Nat)
  | handReq (groups : BitVec 4) (direction : Nat)
  | handReady (groups : BitVec 4)
  | handState (cuts : List (Fin 4 × W32 × GState)) (chains : List ChainHand) (epoch : Nat)
  | handDone (commits : List (Fin 4 × W32))
  | leaving (cause : Nat)
  | frozen (jseq : Nat)
  | takePart (r : OpenReq) (kcv dkcv : W32) (takeId part : Nat)
  | takePartAck (takeId part status : Nat)
  | triggerFwd (r : TrigRec) (takeId segId : Nat)
  | driveNotice (slot action : Nat)
  | claimVerdict (layout period jseq : Nat) (refused : Bool)
  | ckpt (c : Ckpt)
  | healReq (reqId : W32) (g : Fin 4) (count : Nat) (first : W32) (streamId : W16)
  | healDone (reqId : W32) (g : Fin 4) (count : Nat) (first : W32) (held : W64) (slots : List Slot)
  | mirrorRec (r : JRec) (st : Option GState)
  | mirrorAck (jseq : Nat)
  | nak (type : Nat) (seq : W64) (reason epoch : Nat) (o : Four Nat)
  | rdmaSend (qp : Nat) (op : Nat) (psn : BitVec 24) (wr : Wr) (packets : List (List Byte))
  | rdmaAck (qp : Nat) (psn msn : BitVec 24) (packet : List Byte)
  | rdmaReadResp (qp : Nat) (psn : BitVec 24) (addr length : Nat)
  | rdmaNak (qp : Nat) (psn : BitVec 24) (code : NakCode) (packet : List Byte)
  | rdmaCnp (qp : Nat) (packet : List Byte)
  | zeroRead (qp : Nat)
  | qpContext (qp : Nat) (bytes : List Byte)
  | qpCompletion (qp : Nat) (tag : W32) (index status opcode bytes : Nat) (imm : W32) (src : Nat) (phase : Bool)
  | qpCounters (qp : Nat) (addr : Nat) (sends recvs : W64)
  | replOffer (chan : Nat) (o : Offer)
  | replAccept (chan status nextEntry : Nat)
  | replBatch (chan first : Nat) (lookup : Bool) (ents : List FpEntry)
  | replHeld (chan first : Nat) (bits : List Bool)
  | replTile (chan entry : Nat) (stored : List Byte)
  | replCommit (chan entries : Nat)
  | replClose (chan total : Nat)
  | replClosed (chan total : Nat)
  | replError (chan entry status : Nat)
  | norWrite (pos : Nat) (r : EvRec)
  | norErase (sector : Nat)
  | dirWrite (seq : Nat) (bytes : List Byte)
  | storeWrite (storeB : Bool) (bytes : List Byte)
  | avs (mv : Nat)
  | poolResp (pool : Nat) (index addr : Option Nat) (pop : Nat) (seq : W32)
  | coreError (core : Fin 4)
  | barrierDone
deriving DecidableEq, Repr

/-! ## Keys and digests (R130 to R169) -/

/-- State of a cipher page (R131). -/
inductive PageSt where
  | free | assigned | ready | exhausted
deriving DecidableEq, Repr

/-- A cipher page (R130 to R138). `erase` is an erasure that waits for a segment boundary, with its PAGE_ERASE where it has one. -/
structure Page where
  state  : PageSt
  domain : Nat
  key    : List Byte
  salt   : W32
  ctr    : W64
  kcv    : W32
  warned : Bool
  ctxBusy : Bool
  erase  : Option (Option Hdr)
  rekey  : Option (Hdr × List Byte × W32 × W64)
deriving DecidableEq, Repr

/-- An HMAC key slot (R157). -/
structure HKey where
  domain : Nat
  key    : List Byte
deriving DecidableEq, Repr

/-- A service-lane job (R149 to R153): page, segments left, whether it takes the page's context slot (`long`), whether its segments end
at CIPHER_SEGMENT_END (`timed`), direction, the channel that drives it and its handle, the envelope before and after iv_ctr, the bytes
that it encrypts or checks, the counter value taken, the message that leaves, the tile entry that it checks, whether it was submitted
after a PAGE_REKEY or PAGE_ERASE that waits, and the status with which it is to stop. -/
structure CJob where
  page     : Nat
  segs     : Nat
  long     : Bool
  timed    : Bool
  started  : Bool
  encrypt  : Bool
  chan     : Option Nat
  handle   : W32
  qp       : Nat
  head     : List Byte
  tail     : List Byte
  body     : List Byte
  ctr      : W64
  msg      : Option Out
  entry    : Nat
  later    : Bool
  aborting : Option Nat
deriving DecidableEq, Repr

/-- The cipher engine. `ended` holds the jobs of channels that have ended on a service lane with their status, for what follows. -/
structure Ciph where
  pages   : Tab Page
  hkeys   : Tab HKey
  fail    : BitVec 6
  reseeds : W32
  drbgReq : Tab Nat
  jobs    : List CJob
  ended   : List (CJob × Nat)
  lane0   : Option CJob
  lane1   : Option CJob
  rrNext  : Nat
  tango0  : Bool
  tango1  : Bool
deriving DecidableEq, Repr

/-- Where a digest context's result goes (R156): host memory, one more extend of a measurement register, or the firmware. -/
inductive DigestDest where
  | host (addr : Nat)
  | register (n : Nat)
  | firmware
deriving DecidableEq, Repr

/-- The binding of a general context (R156): the channel whose stream it snoops, the algorithm (R267), the padded states of its key as
the key that they come from (R157), where the result goes, the declared length of a message, or none where the stream's end declares
it, and the bytes of the message that have passed. -/
structure Snoop where
  chan : Nat
  kind : Nat
  key  : List Byte
  dest : DigestDest
  declared : Option Nat
  seen : List Byte
deriving DecidableEq, Repr

/-- The digest engine (R154 to R160). -/
structure Dgst where
  mr    : Tab W384
  owner : Tab (Nat × Nat × Nat)
  ctx   : Tab Snoop
  mr1Log : List (W32 × W384)
deriving DecidableEq, Repr

/-! ## Host interface (R248 to R277) -/

/-- A descriptor fetched and not yet completed (R255, R269). -/
structure Desc where
  opcode  : Byte
  tag     : W32
  sqIndex : Nat
  dbSeq   : W32
  irq     : Bool
  fence   : Bool
  started : Bool
  aborted : Bool
deriving DecidableEq, Repr

/-- A READ in progress (R242, R243). -/
structure ReadJob where
  h       : Hdr
  snap    : Option Nat
  volume  : Nat
  takeId  : Nat
  part    : Nat
  flags   : BitVec 5
  next    : Nat
  todo    : List Entry
  page    : Option Nat
  hkey    : Option Nat
  dest    : Nat
  report  : Nat
  reportMax : Nat
  moved   : Nat
  bad     : Nat
  reported : Nat
  first   : Nat
deriving DecidableEq, Repr

/-- A PLAY in progress (R245, R307). -/
structure PlayJob where
  h        : Hdr
  snap     : Option Nat
  volume   : Nat
  takeId   : Nat
  part     : Nat
  group    : Fin 4
  renumber : Bool
  paced    : Bool
  sendMeta : Bool
  pace     : Nat
  frames   : List FrameRec
  entries  : List Entry
  page     : Option Nat
  hkey     : Option Nat
  frameBase : BitVec 48
  timeBase : W64
  tbase    : W64
  done     : Nat
  opened   : Bool
  buf      : List Byte
  pos      : Nat
  crc      : W32
  mayStart : Bool
  sentIn   : Nat
  metas    : List MetaBody
  metaLeft : List Entry
  first    : Nat
  endAs    : Option Nat
deriving DecidableEq, Repr

/-- A COPY in progress (R374 to R378). -/
structure CopyJob where
  h      : Hdr
  dma    : Nat
  src    : Nat
  dst    : Nat
  left   : Nat
  hbm    : Bool
  moved  : Nat
  bad    : Bool
deriving DecidableEq, Repr

/-- A REPL_SEND in progress (R343). -/
structure SendJob where
  h       : Hdr
  snap    : Option Nat
  volume  : Nat
  takeId  : Nat
  part    : Nat
  first   : Nat
  stop    : Nat
  batch   : Nat
  lookup  : Bool
  closed  : Bool
  entries : List Entry
  next    : Nat
  heldTo  : Nat
  tiles   : List (Nat × Entry)
  sent    : Nat
  heldCnt : Nat
  committed : Nat
  closeSent : Bool
  page    : Option Nat
  hkey    : Option Nat
deriving DecidableEq, Repr

/-- A REPL_ACCEPT in progress (R345). -/
structure AcceptJob where
  h      : Hdr
  volume : Nat
  takeId : Nat
  active : Bool
  tiles  : Nat
deriving DecidableEq, Repr

/-- What a channel is busy with. -/
inductive Job where
  | read (j : ReadJob)
  | play (j : PlayJob)
  | copy (j : CopyJob)
  | send (j : SendJob)
  | accept (j : AcceptJob)
deriving DecidableEq, Repr

/-- A channel (R254 to R258, R261, R273). `last` is opcode, status and sq_index of its last completion entry, for the event of one
that cannot be written (R251, R401). -/
structure Chan where
  ctype   : Nat
  domain  : Nat
  sqLog2  : Nat
  cqLog2  : Nat
  head    : Nat
  cplCount : Nat
  last    : Byte × Nat × Nat
  vector  : Nat
  modCount : Nat
  modTime : Nat
  unsig   : Nat
  decPipe : Nat
  group   : Nat
  priority : Nat
  layout  : Nat
  qp      : Nat
  dma     : Nat
  error   : Bool
  rbuf    : Option Nat
  descs   : List Desc
  job     : Option Job
deriving DecidableEq, Repr

/-- An ABORT bound to its target, whose entry is still to be written (R269, R272): `ok` where the target completes with
ABORTED, else it completes with its own status. -/
structure AbortWait where
  h    : Hdr
  chan : Nat
  tag  : W32
  ok   : Bool
deriving DecidableEq, Repr

/-- The host interface. `dying` holds the channels whose destruction is not yet complete, each with its CHANNEL_DESTROY, or
none where PERST_N or a function level reset destroys it (R253). -/
structure Hif where
  chans    : Tab Chan
  gens     : Tab W16
  dying    : Tab (Option Hdr)
  running  : Bool
  fault    : Bool
  stopping : Bool
  notifies : List (Hdr × Nat)
  aborts   : List AbortWait
  pollExp  : Tab Nat
  polledAt : Tab Nat
  unmasked : List Nat
  pendBits : List Nat
  rate     : Nat
  width    : Nat
  dbReads  : W64
  fetched  : W64
  posted   : W64
  msixSent : W64
  errors   : W64
  gapMax   : W64
deriving DecidableEq, Repr

/-! ## Tango (R278 to R316) -/

/-- A planned handover in progress (R305). -/
structure Hand where
  groups  : BitVec 4
  giving  : Bool
  h       : Option Hdr
  stage   : Nat
  cuts    : List (Fin 4 × W32)
deriving DecidableEq, Repr

/-- The inter-head protocol at this head. -/
structure Tango where
  state    : Nat
  started  : Bool
  session  : Bool
  cl       : Nat
  partnerLevel : Nat
  migrated : Bool
  clash    : Bool
  barred   : Bool
  stepped  : Bool
  silent   : Bool
  missed   : Nat
  owners   : Four Nat
  epoch    : Nat
  epochMax : Nat
  key      : W64
  nonce    : W256
  ecdhDraw : Nat
  helloSent : Bool
  confirmed : Bool
  verifyFailed : Bool
  partner  : Option Hello
  beat     : Option Beat
  farLink  : Four LinkSec
  paired   : BitVec 4
  seqs     : Tab Nat
  rxSeqs   : Tab Nat
  mirror   : List JRec
  mirrorSt : List (Nat × GState)
  placed   : Nat
  acked    : Nat
  ckptSeq  : Nat
  ckpts    : List Ckpt
  ckptBad  : Bool
  healCtr  : W32
  hand     : Option Hand
  leaving  : Option Nat
  owing    : Bool
  takeoverHeld : Bool
  lostRace : Bool
  fwdTrigs : List (Nat × TrigRec)
  partOpens : List (Hdr × Nat × Nat × OpenReq)
  refused  : List (Nat × Nat × Nat)
  resync   : Bool
  waiting  : Bool
  purge    : Option Nat
deriving DecidableEq, Repr

/-- The counters of R316. -/
structure IhCnt where
  hbSent   : W64
  hbMissed : W64
  takeovers : W64
  stepdowns : W64
  handovers : W64
  roleDiscard : W64
  authFail : W64
  mirrorPlaced : W64
  healServed : W64
  feedMismatch : W64
deriving DecidableEq, Repr

/-! ## RDMA and replication (R317 to R352) -/

/-- State of a queue pair (R324). -/
inductive QpSt where
  | reset | rts | error
deriving DecidableEq, Repr

/-- An outstanding send work request, and how many of its packets are acknowledged (R329, R330). -/
structure WrOut where
  opcode : Nat
  wr     : Wr
  lastPsn : BitVec 24
  acked  : Nat
deriving DecidableEq, Repr

/-- A queue pair context and its duplicate record (R323, R324, R338). -/
structure Qp where
  host     : QpHost
  gen      : Byte
  state    : QpSt
  cause    : Nat
  sendCount : W64
  recvCount : W64
  sqHead   : Nat
  cqTail   : Nat
  rqHead   : Nat
  rqTail   : Nat
  sPsn     : BitVec 24
  ePsn     : BitVec 24
  msn      : BitVec 24
  dups     : Tab (Nat × RdmaOp)
  outs     : List WrOut
  waiting  : Option Wr
  nakSent  : Bool
  retries  : Nat
  rnrLeft  : Nat
  rate     : Nat
  cnpAt    : Option Nat
  inMsg    : Bool
  inBytes  : Nat
  rnrWait  : Bool
deriving DecidableEq, Repr

/-- The RDMA engine. -/
structure Rdma where
  qps    : Tab Qp
  keys   : Tab W32
  wins   : Tab (List Window)
  cached : Tab Nat
  waitCtx : List Nat
  parked : List RdmaReq
  lineRate : Nat
deriving DecidableEq, Repr

/-- The counters of R352. -/
structure RdmaCnt where
  ctxMiss : W64
  ctxEvict : W64
  parked  : W64
  rnrSent : W64
  dupAck  : W64
  seqNak  : W64
  accessNak : W64
  noQp    : W64
  badOp   : W64
  cnpSent : W64
  cnpRcvd : W64
  tilesSent : W64
  held    : W64
  tilesRcvd : W64
deriving DecidableEq, Repr

/-- One entry of a batch at the target (R344, R346): where its held tile lies, and its stored tile once received. -/
structure RItem where
  idx  : Nat
  ent  : FpEntry
  held : Option Nat
  tile : Option (List Byte)
deriving DecidableEq, Repr

/-- A replication session of one REPL channel (R341 to R348). At the target `goal` is where the batch being received ends,
`recvd` maps source locations to its own, and `pinned` holds the hot-index entries that its HELD bits pin. -/
structure Repl where
  source   : Bool
  helloSent : Bool
  nonce    : W256
  ecdhDraw : Nat
  peer     : Option Hello
  up       : Bool
  level    : Nat
  txSeq    : Nat
  offer    : Option Offer
  offered  : Bool
  volume   : Nat
  takeId   : Nat
  part     : Nat
  goal     : Nat
  busy     : Bool
  batch    : List RItem
  stripe   : Option StripeBuf
  queue    : List (Nat × Bool × List FpEntry)
  recvd    : Tab Nat
  pinned   : List (Nat × W256)
  total    : Option Nat
  buffers  : List Nat
deriving DecidableEq, Repr

/-! ## Memory services (R353 to R387) -/

/-- A buffer pool (R358, R359). -/
structure Pool where
  size    : Nat
  count   : Nat
  ceiling : Nat
  enabled : Bool
  audited : Bool
  opSeq   : W32
deriving DecidableEq, Repr

/-- The ledger's shadow of an audited pool (R81, R362). -/
structure Shadow where
  pop    : Nat
  expect : W32
  gap    : Bool
deriving DecidableEq, Repr

/-- The buffer pool manager: pools, the bitmap's set positions in rising order, shadows. -/
structure Bpm where
  pools  : Tab Pool
  bits   : List Nat
  shadow : Tab Shadow
deriving DecidableEq, Repr

/-- A valid cache line (R363). -/
structure CLine where
  addr  : Nat
  dirty : Bool
  age   : Nat
  data  : List Byte
deriving DecidableEq, Repr

/-- A merging write buffer entry (R367). -/
structure WEnt where
  line  : Nat
  data  : Tab Byte
deriving DecidableEq, Repr

/-- The metadata cache and HBM controller (R353 to R373, R379 to R384). Each barrier is the number of write-buffer
entries that must still drain before it completes. -/
structure Mca where
  lines    : Tab CLine
  enabled  : Bool
  draining : Bool
  wbuf     : List WEnt
  barriers : List Nat
  parityOff : Bool
  lfsr     : W32
  patrolAt : Nat
  hits     : W64
  misses   : W64
  writebacks : W64
  parityClean : W64
  maintOps : W64
  hbmCe    : W64
  hbmUe    : W64
  passes   : W64
  cePc     : Tab W64
  hot      : Tab (List (Nat × HotEnt))
deriving DecidableEq, Repr

/-- A DMA channel (R376, R387). -/
structure DmaCh where
  chan     : Nat
  active   : Bool
  priority : Nat
  waited   : Nat
deriving DecidableEq, Repr

/-- The DMA engine. -/
structure Dma where
  chs     : Tab DmaCh
  lastCh  : Nat
  bytes   : W64
deriving DecidableEq, Repr

/-! ## Health and events (R388 to R417) -/

/-- A token bucket (R402): level in tokens times 10^9, and the time of its last update. -/
structure Bucket where
  code   : Nat
  rate   : Nat
  burst  : Nat
  level  : Nat
  at_    : Nat
  suppressed : W32
deriving DecidableEq, Repr

/-- The event recorder (R398 to R405, R415 to R417). -/
structure Evr where
  ring     : List EvRec
  nextSeq  : W32
  buckets  : Tab Bucket
  pendSupp : Tab Nat
  queue    : List EvRec
  nor      : Tab EvRec
  norHead  : Nat
  norSkipped : W64
  budget   : Nat
  budgetAt : Nat
  index    : W32
  source   : Bool
  autoInc  : Bool
  status   : Nat
  window   : List Byte
  opBase   : Nat
  power    : BitVec 24
  fatal    : Option EvRec
deriving DecidableEq, Repr

/-- The ageing and margin service (R388 to R396, R411 to R414). -/
structure Mnt where
  target   : Nat
  measured : Nat
  current  : Nat
  headroom : Int
  ewSteps  : Nat
  replans  : Nat
  projected : W32
  goal     : Nat
  avsBad   : Bool
  history  : List (Nat × Nat)
  maxC     : Int
  maxDiode : Nat
  peakC    : Option Int
  warnOn   : Bool
  critOn   : Bool
  eyeMin   : Nat
  eyeEth   : Bool
  eyeLane  : Nat
  eyes     : Tab Nat
  starts   : Tab Nat
  margins  : Tab Nat
  rings    : List Nat
  replicas : List Nat
  ceBase   : Tab Nat
  ceNow    : Tab Nat
  cePrev   : Tab Nat
  ceHour   : Tab Nat
  outAt    : Option Nat
  lastHour : Nat
  planned  : Bool
  heldAt   : Option Nat
deriving DecidableEq, Repr

/-! ## Boot and firmware (R418 to R448) -/

/-- A slot directory entry and the image its slot holds (R422, R423). -/
structure SlotEnt where
  state   : Nat
  trialBoots : Nat
  fwVersion : W32
  svn     : Nat
  length  : Nat
  digest  : W384
  image   : Option Image
deriving DecidableEq, Repr

/-- FW_STAGE in progress (R429). -/
structure Staging where
  h      : Hdr
  slot   : Nat
  length : Nat
deriving DecidableEq, Repr

/-- FW_ACTIVATE in progress (R432): loading, or paused since. -/
structure Activating where
  h       : Hdr
  slot    : Nat
  paused  : Bool
  fallback : Bool
deriving DecidableEq, Repr

/-- Boot ROM, NOR, OTP and firmware state. -/
structure Boot where
  stage    : Nat
  slot     : Nat
  trial    : Bool
  fallback : Bool
  activations : Nat
  fwVersion : W32
  slot0    : SlotEnt
  slot1    : SlotEnt
  dirSeq   : Nat
  storeA   : Option CfgRec
  storeB   : Option CfgRec
  chosen   : Option CfgRec
  identity : Option (List Byte)
  idOk     : Bool
  otpSvn   : Nat
  revoked  : BitVec 4
  lifecycle : Nat
  jtagOpen : Bool
  jtagClosed : Bool
  staging  : Option Staging
  activating : Option Activating
  i2cIndex : Nat
  i2cHold  : Option (Nat × List Byte)
deriving DecidableEq, Repr

/-- Pins, reset and power state, GLB registers (R453 to R457, R484 to R488). -/
structure Glb where
  headPin  : Bool
  headB    : Bool
  porLow   : Bool
  perstLow : Bool
  pwrHigh  : Bool
  trigIn   : Bool
  faultN   : Bool
  trigOut  : Bool
  locked   : Bool
  measured : Bool
  hifLocked : Bool
  fatal    : Bool
  pwrfail  : Bool
  reduced  : Bool
  held     : Bool
  dpStarted : Bool
  bootHold : Bool
  pauseAt  : Nat
  shut     : Option Hdr
deriving DecidableEq, Repr

/-- The set-up registers that the host writes (R449 to R470), as words. -/
structure Regs where
  scratch  : W64
  hifCfg   : W32
  adminSq  : W64
  adminCq  : W64
  adminCtl : W32
  dbPage   : Tab W64
  slCfg    : W32
  rateCap  : Four W32
  pipeCfg  : Four W32
  vltCfg   : W32
  maintCfg : W32
  dpCfg    : W32
  rdmaCfg  : W32
  qpcBase  : W64
  winBase  : W64
  qpDb     : Tab W64
  mac      : Tab W64
  ip       : Tab W128
  ihCfg    : W32
  ciphCfg  : W32
  dgstCfg  : W32
  hbmCfg   : W32
  wayMask  : Tab W32
  rat      : Tab W128
  mntCfg   : W32
  staged   : Tab (W64 × W64)
  ethUp    : BitVec 2
  ethFec   : BitVec 2
  ethDowns : Tab W32
deriving DecidableEq, Repr

end Sys2Proof.Machine
end

