-- ==== Sys2Proof/Machine/Line.lean ====
section
/-! DEFINITION. The line coding of SiethLink (R36 to R39): RS(544,514), 257-bit blocks, the scrambler, striping over lanes and symbols,
and the symbols of a training frame (R40). What R36, R37 and R40 take from IEEE 802.3 is PRESUMED as that standard has it
(notes/assumptions/49.md). -/

namespace Sys2Proof.Machine
open Sys2Proof

/-! ## RS(544,514) over GF(2^10) (R36) -/

/-- Multiplication in GF(2^10) with the polynomial x^10 + x^3 + 1. Fuel: bits. -/
def rsMulBits : Nat → Nat → Nat → Nat
  | 0, _, _ => 0
  | n + 1, a, b =>
    (if b % 2 = 1 then a else 0) ^^^ rsMulBits n (if a < 512 then 2 * a else (2 * a - 1024) ^^^ 9) (b / 2)

/-- Multiplication of two symbols. -/
def rsMul (a b : Nat) : Nat := rsMulBits 10 a b

/-- A power of a symbol. Fuel: bits of the exponent. -/
def rsPow : Nat → Nat → Nat → Nat
  | 0, _, _ => 1
  | n + 1, a, e => rsMul (if e % 2 = 1 then a else 1) (rsPow n (rsMul a a) (e / 2))

/-- The inverse of a symbol. -/
def rsInv (a : Nat) : Nat := rsPow 10 a 1022

/-- A sum of two polynomials, lowest coefficient first. -/
def rsAdd : List Nat → List Nat → List Nat
  | [], q => q
  | p, [] => p
  | a :: p, b :: q => (a ^^^ b) :: rsAdd p q

/-- A polynomial times a symbol. -/
def rsScale (c : Nat) (p : List Nat) : List Nat := p.map (rsMul c)

/-- A product of two polynomials, lowest coefficient first. -/
def rsProd : List Nat → List Nat → List Nat
  | [], _ => []
  | a :: p, q => rsAdd (rsScale a q) (0 :: rsProd p q)

/-- The value of a polynomial, lowest coefficient first. -/
def rsEval (x : Nat) (p : List Nat) : Nat := p.foldr (fun c v => c ^^^ rsMul x v) 0

/-- The generator polynomial: the product of x − α^j for j from 0 to 29, lowest coefficient first. -/
def rsGen : List Nat := (List.range 30).foldl (fun p j => rsProd [rsPow 10 2 j, 1] p) [1]

/-- One message symbol through the encoder's register of 30 parity symbols, highest power first. -/
def rsStep (gen reg : List Nat) (m : Nat) : List Nat :=
  let f := m ^^^ reg.headD 0
  List.zipWith (· ^^^ ·) (reg.drop 1 ++ [0]) (rsScale f gen)

/-- The 30 parity symbols of 514 message symbols, in transmit order. -/
def rsParity (msg : List Nat) : List Nat := msg.foldl (rsStep ((rsGen.take 30).reverse)) (List.replicate 30 0)

/-- A codeword of 544 symbols, in transmit order. -/
def rsEncode (msg : List Nat) : List Nat := msg ++ rsParity msg

/-- The 30 syndromes of a received word, lowest coefficient first. -/
def rsSyndromes (word : List Nat) : List Nat := (List.range 30).map (fun j => rsEval (rsPow 10 2 j) word)

/-- State of the Berlekamp-Massey search: locator, the one before its last change, its length, shift and discrepancy. -/
structure RsSearch where
  c : List Nat
  b : List Nat
  l : Nat
  m : Nat
  d : Nat
deriving DecidableEq, Repr

/-- One step of the search at syndrome `n`. -/
def rsSearchStep (syn : List Nat) (s : RsSearch) (n : Nat) : RsSearch :=
  let d := ((List.range (s.l + 1)).map (fun i => rsMul (s.c.getD i 0) (syn.getD (n - i) 0))).foldl (· ^^^ ·) 0
  if d = 0 then { s with m := s.m + 1 }
  else
    let c := rsAdd s.c (List.replicate s.m 0 ++ rsScale (rsMul d (rsInv s.d)) s.b)
    if 2 * s.l ≤ n then { c := c, b := s.c, l := n + 1 - s.l, m := 1, d := d } else { s with c := c, m := s.m + 1 }

/-- The error at power `p` of a received word, from its locator and evaluator. -/
def rsErrorAt (loc ev : List Nat) (p : Nat) : Nat :=
  let x := rsPow 10 2 p
  let xi := rsInv x
  let slope := rsEval (rsMul xi xi) ((List.range ((loc.length + 1) / 2)).map (fun i => loc.getD (2 * i + 1) 0))
  rsMul x (rsMul (rsEval xi ev) (rsInv slope))

/-- A received word of 544 symbols in transmit order, corrected, with the number of symbols in error: none where more than 15
are (R36). -/
def rsDecode (rx : List Nat) : Option (List Nat × Nat) :=
  let word := rx.reverse
  let syn := rsSyndromes word
  if rx.length ≠ 544 then none
  else if syn.all (· == 0) then some (rx, 0)
  else
    let s := (List.range 30).foldl (rsSearchStep syn) { c := [1], b := [1], l := 0, m := 1, d := 1 }
    let at_ := (List.range 544).filter (fun p => rsEval (rsInv (rsPow 10 2 p)) s.c == 0)
    if 15 < s.l ∨ at_.length ≠ s.l then none
    else
      let ev := (rsProd syn s.c).take 30
      let fixed := word.mapIdx (fun p v => if at_.contains p then v ^^^ rsErrorAt s.c ev p else v)
      if (rsSyndromes fixed).all (· == 0) then some (fixed.reverse, s.l) else none

/-! ## Blocks and the scrambler (R37) -/

/-- One bit through the self-synchronous scrambler x^58 + x^39 + 1: the bit on the line, which is also the bit taken in. -/
def scrambleBit (st : BitVec 58) (b : Bool) : Bool := b ^^ (st.getLsbD 38 ^^ st.getLsbD 57)

/-- The scrambler's state after a bit on the line. -/
def shiftIn (st : BitVec 58) (line : Bool) : BitVec 58 := (st <<< 1) ||| (BitVec.ofBool line).setWidth 58

/-- Bits scrambled in turn, with the state left. -/
def scramble (st : BitVec 58) : List Bool → List Bool × BitVec 58
  | [] => ([], st)
  | b :: t =>
    let x := scrambleBit st b
    let r := scramble (shiftIn st x) t
    (x :: r.1, r.2)

/-- Bits descrambled in turn: the state follows the bits on the line. -/
def descramble (st : BitVec 58) : List Bool → List Bool × BitVec 58
  | [] => ([], st)
  | x :: t =>
    let r := descramble (shiftIn st x) t
    (scrambleBit st x :: r.1, r.2)

/-- The bits of bytes, bit 0 of byte 0 first (R37). -/
def bitsOf (l : List Byte) : List Bool := (l.map (fun b => (List.range 8).map b.getLsbD)).flatten

/-- The number that bits hold, the first being the least significant. -/
def bitsNat : List Bool → Nat
  | [] => 0
  | b :: t => bit b + 2 * bitsNat t

/-- A block of 32 bytes on a lane, in transmit order: the header bit H = 1, then the scrambled payload (R37). -/
def blockBits (st : BitVec 58) (l : List Byte) : List Bool × BitVec 58 :=
  let r := scramble st (bitsOf l)
  (true :: r.1, r.2)

/-- Bits as symbols of ten, the first bit being the least significant. Fuel: symbols. -/
def symbolsOf : Nat → List Bool → List Nat
  | 0, _ => []
  | n + 1, l => bitsNat (l.take 10) :: symbolsOf n (l.drop 10)

/-- The bits of symbols of ten, in transmit order. -/
def symbolBits (l : List Nat) : List Bool := (l.map (fun s => (List.range 10).map s.testBit)).flatten

/-- PAM4 levels of bit pairs, Gray coded, without precoding. -/
def pam4 : List Bool → List Int
  | a :: b :: t => (if a then (if b then 1 else 3) else (if b then -1 else -3)) :: pam4 t
  | _ => []

/-- NRZ levels, one bit a symbol. -/
def nrzLevels (l : List Bool) : List Int := l.map (fun b => if b then 3 else -3)

/-- Bits as the levels of a lane's mode (R36). -/
def lineLevels (nrz : Bool) (l : List Bool) : List Int := if nrz then nrzLevels l else pam4 l

/-- The levels of the codeword of a message of 20 blocks (R36). -/
def codewordLevels (nrz : Bool) (msg : List Bool) : List Int := lineLevels nrz (symbolBits (rsEncode (symbolsOf 514 msg)))

/-! ## Striping (R38, R39) -/

/-- The lane that block `k` travels on, of `n` active lanes. -/
def laneOfBlock (n k : Nat) : Nat := k % n

/-- The blocks that codeword `j` of lane `l` carries, of `n` active lanes. -/
def codewordBlocks (n j l : Nat) : List Nat := (List.range 20).map (fun i => n * (20 * j + i) + l)

/-- The first and last block that packet `n` of the stream overlaps: it begins at byte 2,084 × n. -/
def packetBlocks (n : Nat) : Nat × Nat := (2084 * n / 32, (2084 * n + 2083) / 32)

/-- A block goes to its lane: its bits join the lane's codeword, which goes out when it holds 20 blocks. -/
def sendBlock (nrz : Bool) (n : Nat) (l : List Byte) (t : LineTx) : LineTx × List (Nat × List Int) :=
  let lane := laneOfBlock n t.block
  let b := blockBits (tgetD t.scr (Config.scrambler lane) lane) l
  let msg := tgetD t.msg [] lane ++ b.1
  let t1 := { t with block := t.block + 1, scr := tput t.scr lane b.2 }
  if 5140 ≤ msg.length then ({ t1 with msg := tdel t1.msg lane }, [(lane, codewordLevels nrz msg)])
  else ({ t1 with msg := tput t1.msg lane msg }, [])

/-- The whole blocks of a byte stream go out; bytes short of a block wait. Fuel: blocks. -/
def sendBlocks (nrz : Bool) (n : Nat) : Nat → LineTx → LineTx × List (Nat × List Int)
  | 0, t => (t, [])
  | f + 1, t =>
    if t.part.length < 32 then (t, [])
    else
      let r := sendBlock nrz n (t.part.take 32) { t with part := t.part.drop 32 }
      let q := sendBlocks nrz n f r.1
      (q.1, r.2 ++ q.2)

/-- Bytes join the stream of a group's direction: the line after them, and the codewords that they complete, with their lanes. -/
def pushBytes (nrz : Bool) (n : Nat) (l : List Byte) (t : LineTx) : LineTx × List (Nat × List Int) :=
  sendBlocks nrz n ((t.part.length + l.length) / 32) { t with part := t.part ++ l }

/-- The line as codewords start: block 0 comes next; the scramblers run on (R37, R38). -/
def LineTx.start (t : LineTx) : LineTx := { t with on := true, part := [], block := 0, msg := [] }

/-! ## Training frames (R40) -/

/-- The bits of PRBS13 (1 + x + x^2 + x^12 + x^13), with the register left. -/
def prbs13 : Nat → BitVec 13 → List Bool × BitVec 13
  | 0, r => ([], r)
  | n + 1, r =>
    let b := r.getLsbD 12 ^^ r.getLsbD 11 ^^ r.getLsbD 1 ^^ r.getLsbD 0
    let q := prbs13 n ((r <<< 1) ||| (BitVec.ofBool b).setWidth 13)
    (b :: q.1, q.2)

/-- A field of 32 bits, bit 0 first, each as four symbols. -/
def fieldLevels (v : W32) : List Int :=
  ((List.range 32).map (fun i => List.replicate 4 (if v.getLsbD i then (3 : Int) else -3))).flatten

/-- The frame marker: 16 symbols at +3, then 16 at −3. -/
def marker : List Int := List.replicate 16 3 ++ List.replicate 16 (-3)

/-- The 4,096 symbols of a training frame, and the pattern register left. -/
def trainLevels (nrz : Bool) (control status : W32) (r : BitVec 13) : List Int × BitVec 13 :=
  let p := prbs13 (if nrz then 3808 else 7616) r
  (marker ++ fieldLevels control ++ fieldLevels status ++ lineLevels nrz p.1, p.2)

end Sys2Proof.Machine
end

