-- ==== Sys2Proof/Machine/Crypto.lean ====
section
/-! DEFINITION. The published standards that R13 takes as they stand: SHA-256 and SHA-384 (FIPS 180-4), HMAC (FIPS 198-1), AES-256
(FIPS 197), CMAC (SP 800-38B), GCM (SP 800-38D), CRC-64 of 64b Guard protection information (NVM Command Set), and ECDSA and
ECDH over P-384 (FIPS 186-5). The manual names them and gives no figure of theirs (PRESUMED, notes/assumptions/2.md). -/

namespace Sys2Proof.Machine
open Sys2Proof

/-- The number that a big-endian byte string holds (R6). -/
def beNat (l : List Byte) : Nat := leNat l.reverse

/-! ## SHA-2 (FIPS 180-4) -/

/-- The constants of SHA-256 (FIPS 180-4, 4.2.2). -/
def sha256K : List W32 :=
  [0x428a2f98, 0x71374491, 0xb5c0fbcf, 0xe9b5dba5, 0x3956c25b, 0x59f111f1, 0x923f82a4, 0xab1c5ed5,
   0xd807aa98, 0x12835b01, 0x243185be, 0x550c7dc3, 0x72be5d74, 0x80deb1fe, 0x9bdc06a7, 0xc19bf174] ++
  [0xe49b69c1, 0xefbe4786, 0x0fc19dc6, 0x240ca1cc, 0x2de92c6f, 0x4a7484aa, 0x5cb0a9dc, 0x76f988da,
   0x983e5152, 0xa831c66d, 0xb00327c8, 0xbf597fc7, 0xc6e00bf3, 0xd5a79147, 0x06ca6351, 0x14292967] ++
  [0x27b70a85, 0x2e1b2138, 0x4d2c6dfc, 0x53380d13, 0x650a7354, 0x766a0abb, 0x81c2c92e, 0x92722c85,
   0xa2bfe8a1, 0xa81a664b, 0xc24b8b70, 0xc76c51a3, 0xd192e819, 0xd6990624, 0xf40e3585, 0x106aa070] ++
  [0x19a4c116, 0x1e376c08, 0x2748774c, 0x34b0bcb5, 0x391c0cb3, 0x4ed8aa4a, 0x5b9cca4f, 0x682e6ff3,
   0x748f82ee, 0x78a5636f, 0x84c87814, 0x8cc70208, 0x90befffa, 0xa4506ceb, 0xbef9a3f7, 0xc67178f2]

/-- The constants of SHA-384 and SHA-512 (FIPS 180-4, 4.2.3). -/
def sha512K : List W64 :=
  [0x428a2f98d728ae22, 0x7137449123ef65cd, 0xb5c0fbcfec4d3b2f, 0xe9b5dba58189dbbc,
   0x3956c25bf348b538, 0x59f111f1b605d019, 0x923f82a4af194f9b, 0xab1c5ed5da6d8118,
   0xd807aa98a3030242, 0x12835b0145706fbe, 0x243185be4ee4b28c, 0x550c7dc3d5ffb4e2,
   0x72be5d74f27b896f, 0x80deb1fe3b1696b1, 0x9bdc06a725c71235, 0xc19bf174cf692694] ++
  [0xe49b69c19ef14ad2, 0xefbe4786384f25e3, 0x0fc19dc68b8cd5b5, 0x240ca1cc77ac9c65,
   0x2de92c6f592b0275, 0x4a7484aa6ea6e483, 0x5cb0a9dcbd41fbd4, 0x76f988da831153b5,
   0x983e5152ee66dfab, 0xa831c66d2db43210, 0xb00327c898fb213f, 0xbf597fc7beef0ee4,
   0xc6e00bf33da88fc2, 0xd5a79147930aa725, 0x06ca6351e003826f, 0x142929670a0e6e70] ++
  [0x27b70a8546d22ffc, 0x2e1b21385c26c926, 0x4d2c6dfc5ac42aed, 0x53380d139d95b3df,
   0x650a73548baf63de, 0x766a0abb3c77b2a8, 0x81c2c92e47edaee6, 0x92722c851482353b,
   0xa2bfe8a14cf10364, 0xa81a664bbc423001, 0xc24b8b70d0f89791, 0xc76c51a30654be30,
   0xd192e819d6ef5218, 0xd69906245565a910, 0xf40e35855771202a, 0x106aa07032bbd1b8] ++
  [0x19a4c116b8d2d0c8, 0x1e376c085141ab53, 0x2748774cdf8eeb99, 0x34b0bcb5e19b48a8,
   0x391c0cb3c5c95a63, 0x4ed8aa4ae3418acb, 0x5b9cca4f7763e373, 0x682e6ff3d6b2b8a3,
   0x748f82ee5defb2fc, 0x78a5636f43172f60, 0x84c87814a1f0ab72, 0x8cc702081a6439ec,
   0x90befffa23631e28, 0xa4506cebde82bde9, 0xbef9a3f7b2c67915, 0xc67178f2e372532b] ++
  [0xca273eceea26619c, 0xd186b8c721c0c207, 0xeada7dd6cde0eb1e, 0xf57d4f7fee6ed178,
   0x06f067aa72176fba, 0x0a637dc5a2c898a6, 0x113f9804bef90dae, 0x1b710b35131c471b,
   0x28db77f523047d84, 0x32caab7b40c72493, 0x3c9ebe0a15c9bebc, 0x431d67c49c100d4c,
   0x4cc5d4becb3e42b6, 0x597f299cfc657e2a, 0x5fcb6fab3ad6faec, 0x6c44198c4a475817]


/-- A function of the SHA-2 family over words of `w` bits: its round constants, initial hash value and rotations. -/
structure Sha2 (w : Nat) where
  k    : List (BitVec w)
  init : List (BitVec w)
  big0 : Nat × Nat × Nat
  big1 : Nat × Nat × Nat
  small0 : Nat × Nat × Nat
  small1 : Nat × Nat × Nat

/-- SHA-256. -/
def sha256Fn : Sha2 32 :=
  { k := sha256K, init := [0x6a09e667, 0xbb67ae85, 0x3c6ef372, 0xa54ff53a, 0x510e527f, 0x9b05688c, 0x1f83d9ab, 0x5be0cd19]
    big0 := (2, 13, 22), big1 := (6, 11, 25), small0 := (7, 18, 3), small1 := (17, 19, 10) }

/-- SHA-384 before truncation. -/
def sha384Fn : Sha2 64 :=
  { k := sha512K, init := [0xcbbb9d5dc1059ed8, 0x629a292a367cd507, 0x9159015a3070dd17, 0x152fecd8f70e5939, 0x67332667ffc00b31,
                           0x8eb44a8768581511, 0xdb0c2e0d64f98fa7, 0x47b5481dbefa4fa4]
    big0 := (28, 34, 39), big1 := (14, 18, 41), small0 := (1, 8, 7), small1 := (19, 61, 6) }

/-- Three rotations. -/
def rot3 {w : Nat} (r : Nat × Nat × Nat) (x : BitVec w) : BitVec w :=
  x.rotateRight r.1 ^^^ x.rotateRight r.2.1 ^^^ x.rotateRight r.2.2

/-- Two rotations and a shift. -/
def rotShift {w : Nat} (r : Nat × Nat × Nat) (x : BitVec w) : BitVec w :=
  x.rotateRight r.1 ^^^ x.rotateRight r.2.1 ^^^ (x >>> r.2.2)

/-- One round for each constant: `win` holds the next 16 words of the message schedule. -/
def Sha2.rounds {w : Nat} (f : Sha2 w) : List (BitVec w) → List (BitVec w) → List (BitVec w) → List (BitVec w)
  | [], _, v => v
  | k :: ks, win, v =>
    match win, v with
    | w0 :: rest, [a, b, c, d, e, x, g, h] =>
      let t1 := h + rot3 f.big1 e + ((e &&& x) ^^^ (~~~e &&& g)) + k + w0
      let t2 := rot3 f.big0 a + ((a &&& b) ^^^ (a &&& c) ^^^ (b &&& c))
      let next := rotShift f.small1 (rest.getD 13 0) + rest.getD 8 0 + rotShift f.small0 (rest.getD 0 0) + w0
      f.rounds ks (rest ++ [next]) [t1 + t2, a, b, c, d + t1, e, x, g]
    | _, v => v

/-- The words of a block, each big-endian. Fuel: words. -/
def beWords (w : Nat) : Nat → List Byte → List (BitVec w)
  | 0, _ => []
  | n + 1, l => BitVec.ofNat w (beNat (l.take (w / 8))) :: beWords w n (l.drop (w / 8))

/-- The hash value after each block in turn. Fuel: blocks. -/
def Sha2.blocks {w : Nat} (f : Sha2 w) : Nat → List (BitVec w) → List Byte → List (BitVec w)
  | 0, v, _ => v
  | n + 1, v, l => f.blocks n (List.zipWith (· + ·) v (f.rounds f.k (beWords w 16 l) v)) (l.drop (2 * w))

/-- A message padded to whole blocks: a one bit, zeros, and its length in bits. -/
def Sha2.pad {w : Nat} (_f : Sha2 w) (l : List Byte) : List Byte :=
  let z := (2 * w - (l.length + 1 + w / 4) % (2 * w)) % (2 * w)
  l ++ [0x80] ++ zeros z ++ (leBytes (w / 4) (8 * l.length)).reverse

/-- The digest of a message, before truncation. -/
def Sha2.hash {w : Nat} (f : Sha2 w) (l : List Byte) : List Byte :=
  let m := f.pad l
  ((f.blocks (m.length / (2 * w)) f.init m).map beBytes).flatten

/-- SHA-256, used by R154. -/
def sha256 (l : List Byte) : W256 := BitVec.ofNat 256 (beNat (sha256Fn.hash l))

/-- SHA-384, used by R158. -/
def sha384 (l : List Byte) : W384 := BitVec.ofNat 384 (beNat ((sha384Fn.hash l).take 48))

/-! ## HMAC (FIPS 198-1) -/

/-- HMAC of a message under a key, with a hash of blocks of `b` bytes. -/
def hmacWith (b : Nat) (hash : List Byte → List Byte) (key msg : List Byte) : List Byte :=
  let k := padTo b (if b < key.length then hash key else key)
  hash (k.map (· ^^^ 0x5C) ++ hash (k.map (· ^^^ 0x36) ++ msg))

/-- HMAC-SHA-256, used by R116 and R218. -/
def hmac256 (key msg : List Byte) : W256 := BitVec.ofNat 256 (beNat (hmacWith 64 (fun l => beBytes (sha256 l)) key msg))

/-- HMAC-SHA-384, the PRF of R280. -/
def hmac384 (key msg : List Byte) : W384 := BitVec.ofNat 384 (beNat (hmacWith 128 (fun l => beBytes (sha384 l)) key msg))

/-! ## AES-256 (FIPS 197) -/

/-- Multiplication by x in GF(2^8) with the polynomial 0x11B. -/
def aesTimes2 (a : Byte) : Byte := (a <<< 1) ^^^ (if a.getLsbD 7 then 0x1B else 0)

/-- Multiplication in GF(2^8). Fuel: bits. -/
def aesMul : Nat → Byte → Byte → Byte
  | 0, _, _ => 0
  | n + 1, a, b => (if b.getLsbD 0 then a else 0) ^^^ aesMul n (aesTimes2 a) (b >>> 1)

/-- The inverse in GF(2^8), zero for zero: the 254th power. -/
def aesInv (a : Byte) : Byte :=
  let sq (x : Byte) : Byte := aesMul 8 x x
  let a2 := sq a
  let a4 := sq a2
  let a8 := sq a4
  let a16 := sq a8
  let a32 := sq a16
  let a64 := sq a32
  let a128 := sq a64
  [a2, a4, a8, a16, a32, a64, a128].foldl (aesMul 8) 1

/-- The S-box: the inverse, then the affine map. -/
def aesSbox (a : Byte) : Byte :=
  let i := aesInv a
  i ^^^ i.rotateLeft 1 ^^^ i.rotateLeft 2 ^^^ i.rotateLeft 3 ^^^ i.rotateLeft 4 ^^^ 0x63

/-- The key schedule: 60 words of four bytes, the newest first, from the last eight. Fuel: words left. -/
def aesExpand : Nat → Nat → Byte → List (List Byte) → List (List Byte)
  | 0, _, _, ws => ws
  | n + 1, i, rcon, ws =>
    let prev := ws.headD []
    let old := ws.getD 7 []
    let t :=
      if i % 8 = 0 then
        match prev with
        | a :: r => xorBytes ((r ++ [a]).map aesSbox) [rcon, 0, 0, 0]
        | [] => []
      else if i % 8 = 4 then prev.map aesSbox
      else prev
    aesExpand n (i + 1) (if i % 8 = 0 then aesTimes2 rcon else rcon) (xorBytes old t :: ws)

/-- Words of four bytes. Fuel: words. -/
def fourBytes : Nat → List Byte → List (List Byte)
  | 0, _ => []
  | n + 1, l => l.take 4 :: fourBytes n (l.drop 4)

/-- The fifteen round keys of 16 bytes. -/
def aesKeys (key : List Byte) : List (List Byte) :=
  let ws := (aesExpand 52 8 1 (fourBytes 8 (padTo 32 key)).reverse).reverse
  (List.range 15).map (fun r => ((ws.drop (4 * r)).take 4).flatten)

/-- ShiftRows: byte `r` of column `c` comes from column `c + r`. -/
def aesShiftRows (s : List Byte) : List Byte := (List.range 16).map (fun i => s.getD (4 * ((i / 4 + i % 4) % 4) + i % 4) 0)

/-- MixColumns of one column. -/
def aesMixColumn : List Byte → List Byte
  | [a, b, c, d] =>
    let three (x : Byte) : Byte := aesTimes2 x ^^^ x
    [aesTimes2 a ^^^ three b ^^^ c ^^^ d, a ^^^ aesTimes2 b ^^^ three c ^^^ d, a ^^^ b ^^^ aesTimes2 c ^^^ three d,
     three a ^^^ b ^^^ c ^^^ aesTimes2 d]
  | l => l

/-- The rounds after the first key addition. -/
def aesRounds : List (List Byte) → List Byte → List Byte
  | [], s => s
  | [k], s => xorBytes (aesShiftRows (s.map aesSbox)) k
  | k :: ks, s => aesRounds ks (xorBytes ((fourBytes 4 (aesShiftRows (s.map aesSbox))).map aesMixColumn).flatten k)

/-- AES-256 of one block under a 32-byte key; the KCV of R135 is of 16 zero bytes. -/
def aes256 (key : List Byte) (block : W128) : W128 :=
  match aesKeys key with
  | k :: ks => BitVec.ofNat 128 (beNat (aesRounds ks (xorBytes (beBytes block) k)))
  | [] => block

/-! ## CMAC (SP 800-38B) and GCM (SP 800-38D) -/

/-- Doubling in GF(2^128), for the subkeys of CMAC. -/
def cmacDouble (a : W128) : W128 := (a <<< 1) ^^^ (if a.getLsbD 127 then 0x87 else 0)

/-- The CBC-MAC over whole blocks. Fuel: blocks. -/
def cbcMac (key : List Byte) : Nat → W128 → List Byte → W128
  | 0, x, _ => x
  | n + 1, x, l => cbcMac key n (aes256 key (x ^^^ BitVec.ofNat 128 (beNat (l.take 16)))) (l.drop 16)

/-- AES-256-CMAC, the PRF of R144. -/
def cmac256 (key msg : List Byte) : W128 :=
  let k1 := cmacDouble (aes256 key 0)
  let n := (msg.length + 15) / 16
  let whole := decide (0 < msg.length ∧ msg.length % 16 = 0)
  let head := 16 * (n - 1)
  let last : W128 :=
    if whole then BitVec.ofNat 128 (beNat (msg.drop head)) ^^^ k1
    else BitVec.ofNat 128 (beNat (padTo 16 (msg.drop head ++ [0x80]))) ^^^ cmacDouble k1
  aes256 key (cbcMac key (n - 1) 0 msg ^^^ last)

/-- The pre-counter block of a 96-bit IV. -/
def gcmStart (iv : BitVec 96) : W128 := (iv.setWidth 128 <<< 32) ||| 1

/-- Block `i` of the GCM key stream, the first being 1: the low 32 bits of the counter block count. -/
def gcmBlock (key : List Byte) (iv : BitVec 96) (i : Nat) : W128 :=
  aes256 key ((iv.setWidth 128 <<< 32) ||| (BitVec.ofNat 32 (1 + i)).setWidth 128)

/-- GCM encryption and decryption: the key stream added, from block `i` on. Fuel: blocks. -/
def gcmAdd (key : List Byte) (iv : BitVec 96) : Nat → Nat → List Byte → List Byte
  | 0, _, _ => []
  | n + 1, i, l => xorBytes (l.take 16) (beBytes (gcmBlock key iv i)) ++ gcmAdd key iv n (i + 1) (l.drop 16)

/-- Multiplication in GF(2^128) as GCM numbers its bits: the most significant is the constant term. Fuel: bits. -/
def ghashMul : Nat → W128 → W128 → W128
  | 0, _, _ => 0
  | n + 1, x, v =>
    (if x.getLsbD n then v else 0) ^^^ ghashMul n x ((v >>> 1) ^^^ (if v.getLsbD 0 then 0xE1 <<< 120 else 0))

/-- GHASH over whole blocks. Fuel: blocks. -/
def ghash (h : W128) : Nat → W128 → List Byte → W128
  | 0, y, _ => y
  | n + 1, y, l => ghash h n (ghashMul 128 (y ^^^ BitVec.ofNat 128 (beNat (l.take 16))) h) (l.drop 16)

/-- The GCM tag over additional data and ciphertext. -/
def gcmTag (key : List Byte) (iv : BitVec 96) (aad ct : List Byte) : W128 :=
  let up (l : List Byte) : List Byte := padTo (alignUp l.length 16) l
  let m := up aad ++ up ct ++ (leBytes 8 (8 * aad.length)).reverse ++ (leBytes 8 (8 * ct.length)).reverse
  ghash (aes256 key 0) (m.length / 16) 0 m ^^^ aes256 key (gcmStart iv)

/-! ## CRC-64 -/

/-- One byte of the reflected CRC-64. Fuel: bits. -/
def crc64Bits : Nat → W64 → W64
  | 0, c => c
  | n + 1, c => crc64Bits n (if c.getLsbD 0 then (c >>> 1) ^^^ 0x9A6C9329AC4BC9B5 else c >>> 1)

/-- CRC-64 of 64b Guard protection information, used by R179: polynomial 0xAD93_D235_94C9_3659 reflected, initial value and final
XOR all ones. -/
def crc64 (l : List Byte) : W64 :=
  ~~~ l.foldl (fun c b => crc64Bits 8 (c ^^^ b.setWidth 64)) (BitVec.allOnes 64)

/-! ## P-384 (FIPS 186-5) -/

/-- The prime of P-384. -/
def p384 : Nat := 2 ^ 384 - 2 ^ 128 - 2 ^ 96 + 2 ^ 32 - 1

/-- The order of P-384's base point. -/
def p384n : Nat :=
  0xffffffffffffffffffffffffffffffffffffffffffffffffc7634d81f4372ddf581a0db248b0a77aecec196accc52973

/-- The coefficient b of P-384. -/
def p384b : Nat :=
  0xb3312fa7e23ee7e4988e056be3f82d19181d9c6efe8141120314088f5013875ac656398d8a2ed19d2a85c8edd3ec2aef

/-- A power modulo `m`. Fuel: bits of the exponent. -/
def modPow (m : Nat) : Nat → Nat → Nat → Nat
  | 0, _, _ => 1 % m
  | n + 1, a, e => (if e % 2 = 1 then a else 1) * modPow m n (a * a % m) (e / 2) % m

/-- The inverse modulo a prime of at most 384 bits. -/
def modInv (m a : Nat) : Nat := modPow m 384 (a % m) (m - 2)

/-- A point of P-384, none being the point at infinity. -/
abbrev Point := Option (Nat × Nat)

/-- The base point. -/
def p384g : Point :=
  some (0xaa87ca22be8b05378eb1c71ef320ad746e1d3b628ba79b9859f741e082542a385502f25dbf55296c3a545e3872760ab7,
        0x3617de4a96262c6f5d9e98bf9292dc29f8f41dbd289a147ce9da3113b5f0b8c00a60b1ce1d7e819d7a431d7c90ea0e5f)

/-- A difference modulo the prime. -/
def p384sub (a b : Nat) : Nat := (a + p384 - b % p384) % p384

/-- Addition of points. -/
def Point.add (a b : Point) : Point :=
  match a, b with
  | none, q => q
  | q, none => q
  | some (x1, y1), some (x2, y2) =>
    if x1 = x2 ∧ (y1 + y2) % p384 = 0 then none
    else
      let s :=
        if x1 = x2 then (3 * x1 * x1 + (p384 - 3)) * modInv p384 (2 * y1) % p384
        else p384sub y2 y1 * modInv p384 (p384sub x2 x1) % p384
      let x := p384sub (s * s) (x1 + x2)
      some (x, p384sub (s * p384sub x1 x) y1)

/-- A multiple of a point. Fuel: bits of the factor. -/
def Point.times : Nat → Nat → Point → Point
  | 0, _, _ => none
  | n + 1, k, q => ((if k % 2 = 1 then q else none).add (Point.times n (k / 2) (q.add q)))

/-- The point of a public key: X then Y, 48 bytes each, big-endian; none where it lies off the curve. -/
def readPoint (l : List Byte) : Point :=
  let x := beNat (l.take 48)
  let y := beNat ((l.drop 48).take 48)
  if x < p384 ∧ y < p384 ∧ l.length = 96 ∧ y * y % p384 = (x * x % p384 * x + (p384 - 3) * x + p384b) % p384 then some (x, y) else none

/-- The bytes of a public key. -/
def pointBytes : Point → List Byte
  | some (x, y) => (leBytes 48 x).reverse ++ (leBytes 48 y).reverse
  | none => zeros 96

/-- A scalar of P-384 from a drawn number. -/
def scalarOf (draw : Nat) : Nat := 1 + draw % (p384n - 1)

/-- ECDSA over a digest under a private scalar, with the secret number `k`: r then s, 48 bytes each. -/
def ecdsaSign (key k : Nat) (digest : W384) : BitVec 768 :=
  let r := ((Point.times 384 k p384g).map (·.1)).getD 0 % p384n
  let s := modInv p384n k * (digest.toNat + r * key) % p384n
  BitVec.ofNat 768 (r * 2 ^ 384 + s)

/-- ECDSA verification under a public key. -/
def ecdsaVerify (pub : List Byte) (digest : W384) (sig : BitVec 768) : Bool :=
  let r := sig.toNat / 2 ^ 384
  let s := sig.toNat % 2 ^ 384
  match readPoint pub with
  | none => false
  | q =>
    if 1 ≤ r ∧ r < p384n ∧ 1 ≤ s ∧ s < p384n then
      let w := modInv p384n s
      match (Point.times 384 (digest.toNat * w % p384n) p384g).add (Point.times 384 (r * w % p384n) q) with
      | some (x, _) => x % p384n == r
      | none => false
    else false

/-- The ECDH shared secret of a scalar and a public key: the x coordinate (R280). -/
def ecdh (k : Nat) (pub : List Byte) : W384 := BitVec.ofNat 384 (((Point.times 384 k (readPoint pub)).map (·.1)).getD 0)

/-- The signature by the device key over a digest (R439): the secret number is draw `n` of the signing DRBG (R143). -/
def deviceSign (digest : W384) (n : Nat) : BitVec 768 := ecdsaSign (scalarOf Config.deviceKey) (scalarOf (Config.freeNat n)) digest

/-- The head's public key (R439). -/
def devicePub : List Byte := pointBytes (Point.times 384 (scalarOf Config.deviceKey) p384g)

end Sys2Proof.Machine
end

