-- ==== Sys2Proof/Machine/State.lean ====
section
/-! DEFINITION. The state of one head controller as plain data, why a step can stop, and the state right after reset:
POR_N held low, every register at the reset value the manual states, a new part with a blank SPI NOR (R505).
Values the manual does not state are listed in notes/assumptions/5.md. -/

namespace Sys2Proof.Machine
open Sys2Proof

/-- The head controller but for its queue and its HBM bytes. `out` is what it has emitted, oldest first; `now` is the
time since POR_N deasserted in ns; `free` counts the free values drawn. These three are the model's own. -/
structure Dev where
  out     : List Out
  now     : Nat
  free    : Nat
  glb     : Glb
  regs    : Regs
  sl      : Sl
  lg      : Four Ledger
  audit   : Audit
  pipes   : Four Pipe
  vault   : Vault
  vcnt    : VltCnt
  cat     : Cat
  disk    : Disk
  ciph    : Ciph
  dgst    : Dgst
  hif     : Hif
  tango   : Tango
  ih      : IhCnt
  rdma    : Rdma
  rcnt    : RdmaCnt
  repl    : Tab Repl
  bpm     : Bpm
  mca     : Mca
  dma     : Dma
  evr     : Evr
  mnt     : Mnt
  boot    : Boot
deriving DecidableEq, Repr

/-- One head controller: the queue of waiting commands, first in first out (the model's own), the bytes of HBM that the
metadata cache and COPY reach (R353), and everything else. -/
structure State where
  pending : List Instr
  hbm     : List Host.Cell
  dev     : Dev
deriving DecidableEq, Repr

/-- Why a step stops with a fault. -/
inductive Fault where
  /-- Raised by CLEAN, INVAL and CLEAN_INVAL of an address beyond the HBM space of R353, which does not exist. Safe. -/
  | hbmAddress (addr : Nat)
deriving DecidableEq, Repr

/-- Why a step is refused. -/
inductive Refusal where
  /-- Raised by an arm of exec that has no meaning yet. Safe. -/
  | notModelled (mnemonic : String)
deriving DecidableEq, Repr

/-! ## Reset values -/

/-- No packet has come. -/
def Order.none_ : Order := { frame := none, last := none, gap := false }

/-- A SiethLink group at reset (R462, R465). -/
def Group.reset : Group :=
  { link := .disabled, nrz := false, attempt := 0, attempts := 0, retraining := false, grant := none, limit := 0,
    creditSent := 0, resumeSet := false, stop := none, comeStopped := false, order := .none_,
    lastTs := 0, crcRun := 0, winBytes := 0, badLogged := none, countdown := 15, allReady := false,
    farAllReady := false, tx := { on := false, part := [], block := 0, scr := [], msg := [] }, rx := { count := 0, bad := [] },
    playNext := 0, playLimit := none, playStop := none, playFrame := 0, playOpen := false, playDone := none,
    hdrErr := 0, pktBad := 0, pktCrcErr := 0, dup := 0, contractViol := 0, retrainCnt := 0 }

/-- A ledger at reset (R79, R467): every counter and position zero, the raw ring at its split size (R76). -/
def Ledger.reset : Ledger :=
  { credited := false, expect := 0, commit := 0, ringPos := 0, allow := 0, nRaw := 96153, landing := [], ring := [],
    carried := 0, heals := [], standbyNs := 0, granted := 0, received := 0, committed := 0, released := 0, dropped := 0,
    resident := 0, healed := 0, overrun := 0, lossOf := [], lastLand := none, drops := [], dropBytes := [], ledgerBase := none, ledgerHdrs := [] }

/-- A pipe at reset (R128). -/
def Pipe.reset : Pipe :=
  { frame := none, frameGap := false, order := .none_, held := false, unchecked := none, frameCrc := 0, framePos := 0, fromOpen := false, tileBuf := [], tileLoss := false,
    tileSlots := 0, tileGood := 0, tileOff := 0, nextTile := 0, lastGsn := 0, ready := [], stripe := none, refPend := 0, closed := [], cstate := none, tilesEnc := 0,
    tilesPred := 0, tilesLzb := 0, tilesRaw := 0, fallback := 0, dedupHit := 0, bytesRaw := 0, bytesStored := 0,
    tilesDec := 0, decFail := 0 }

/-- A cipher page at reset: FREE, but pages 0 and 1 bound to domain 0 (R131, R133, R468). -/
def Page.reset (p : Nat) : Page :=
  { state := if p < 2 then .assigned else .free, domain := 0, key := [], salt := 0, ctr := 0, kcv := 0, warned := false,
    ctxBusy := false, erase := none, rekey := none }

/-- ADMIN, channel index 0 (R254, R256), before it runs. -/
def Chan.admin : Chan :=
  { ctype := 7, domain := 0, sqLog2 := 8, cqLog2 := 8, head := 0, cplCount := 0, last := (0, 0, 0), vector := 0, modCount := 1, modTime := 0,
    unsig := 0, decPipe := 255, group := 255, priority := 0, layout := 0, qp := 0, dma := 255, error := false, rbuf := none, descs := [],
    job := none }

/-- A region attribute entry's 128 bits (R383) from its range in bytes, policy, class and STREAM. -/
def ratWord (base bytes policy cls stream : Nat) : W128 :=
  BitVec.ofNat 128 (1 + policy * 2 + cls * 8 + stream * 16 + base / 4096 * 4096 + (base + bytes - 1) / 4096 * 2 ^ 76)

/-- MCA_RAT[0] to [8] at reset (R353, R364): hot index, journal, mirror ring, checkpoint buffers, staging, duplicate
records, replay buffers, replication buffers, metadata working area. -/
def ratReset : Tab W128 :=
  [(0, ratWord 0x0000000000 3221225472 0 1 0), (1, ratWord 0x00C0000000 67108864 1 0 1),
   (2, ratWord 0x00C4000000 67108864 2 0 1), (3, ratWord 0x00C8000000 134217728 3 0 0),
   (4, ratWord 0x00D0000000 67108864 2 0 1), (5, ratWord 0x00D4000000 8388608 0 1 0),
   (6, ratWord 0x00D4800000 67108864 3 0 0), (7, ratWord 0x00D8800000 268435456 3 0 0),
   (8, ratWord 0x00E8800000 99297280 0 0 0)]

/-- MCA_WAYMASK[0] to [7] at reset (R368). -/
def wayMaskReset : Tab W32 :=
  [(0, 0xFFFF), (1, 0xFFFF), (2, 0xFFFF), (3, 0x00FF), (4, 0xFFFF), (5, 0xFFFF), (6, 0xFFFF), (7, 0x00FF)]

/-- A rate entry with a full bucket (R402). -/
def Bucket.full (code rate burst : Nat) : Bucket :=
  { code := code, rate := rate, burst := burst, level := burst * 1000000000, at_ := 0, suppressed := 0 }

/-- EVR_RATE[0] to [5] at reset (R402). -/
def bucketsReset : Tab Bucket :=
  [(0, .full 0x0202 4 16), (1, .full 0x0301 16 64), (2, .full 0x0A01 16 16), (3, .full 0x0702 16 64),
   (4, .full 0x0101 16 64), (5, .full 0x0401 4 16)]

/-- Pools 0 to 3 at power-up (R358), in split operation. -/
def poolsReset : Tab Pool :=
  [(0, ⟨11, 14241, 3518, true, true, 0⟩), (1, ⟨8, 14241, 3518, true, true, 0⟩),
   (2, ⟨7, 256, 256, true, true, 0⟩), (3, ⟨7, 1024, 1024, true, false, 0⟩)]

/-- GLB block and pins at reset: POR_N low, FAULT_N released (R453 to R457, R483). -/
def Glb.reset : Glb :=
  { headPin := false, headB := false, porLow := true, perstLow := true, pwrHigh := true, trigIn := true, faultN := true,
    trigOut := false, locked := false, measured := false, hifLocked := false, fatal := false, pwrfail := false,
    reduced := false, held := false, dpStarted := false, bootHold := false, pauseAt := 0, shut := none }

/-- The set-up registers at their reset values (R462, R468). -/
def Regs.reset : Regs :=
  { scratch := 0, hifCfg := 0x07001001, adminSq := 0, adminCq := 0, adminCtl := 0x00000088, dbPage := [],
    slCfg := 0x000000F2, rateCap := .all 0x000C3500, pipeCfg := .all 0x0000021F, vltCfg := 0x1E101403,
    maintCfg := 0x00040FA0, dpCfg := 3, rdmaCfg := 0x0000321B, qpcBase := 0, winBase := 0, qpDb := [],
    mac := [(0, (Config.factoryMac 0).setWidth 64), (1, (Config.factoryMac 1).setWidth 64)], ip := [],
    ihCfg := 0x07D00003, ciphCfg := 0x00001401, dgstCfg := 1, hbmCfg := 0x00000018, wayMask := wayMaskReset,
    rat := ratReset, mntCfg := 0x00006401, staged := [], ethUp := 0, ethFec := 0, ethDowns := [] }

/-- An EMPTY image slot (R423, R505). -/
def SlotEnt.empty : SlotEnt :=
  { state := 0, trialBoots := 0, fwVersion := 0, svn := 0, length := 0, digest := 0, image := none }

/-- No link section: nothing granted (R285). -/
def LinkSec.none_ : Sys2Proof.LinkSec := { deviceId := 0, streamId := 0, port := 0, granted := false }

/-- The inter-head protocol at reset (R314, R315): no owner, no session. -/
def Tango.reset : Tango :=
  { state := 0, started := false, session := false, cl := 0, partnerLevel := 0, migrated := false, clash := false, barred := false,
    stepped := false, silent := false, missed := 0, owners := .all 3, epoch := 0, epochMax := 0, key := 0, nonce := 0,
    ecdhDraw := 0, helloSent := false, confirmed := false, verifyFailed := false, partner := none, beat := none,
    farLink := .all LinkSec.none_, paired := 0, seqs := [], rxSeqs := [], mirror := [], mirrorSt := [], placed := 0, acked := 0,
    ckptSeq := 0, ckpts := [], ckptBad := false, healCtr := 0, hand := none, leaving := none, owing := false, takeoverHeld := false,
    lostRace := false, fwdTrigs := [], partOpens := [], refused := [], resync := false, waiting := false, purge := none }

/-- The vault at reset: nothing admitted, no layout, an empty journal (R213, R214). -/
def Vault.reset : Vault :=
  { drives := [], layouts := [], claims := [], inUse := [], freedNext := [], remaps := [], lost := [], journal := [],
    jseq := 1, jPos := 0, durable := 0, sealedQ := [], opened := [], lagW := [], dump := .idle, dumpSeq := 0, writeBacks := [], lostWait := [], rebuildPos := [], progSeq := 0, nsId := 0, replaces := [], scrubJob := none, scrubCount := 0,
    scrubPos := [], scrubOn := true, reshape := none, moving := [], scan := none, labelSeq := 0, rootNext := 0, metaSeq := 0, mdc := none, mdcWait := [], mdcAgain := false, catStripes := [], lostFlag := false, spareOut := false,
    maintHeld := false, vaultId := 0, vaultLevel := 1 }

/-- The catalogue with nothing in it. -/
def Cat.reset : Cat :=
  { volumes := [], takes := [], snaps := [], nextSnap := 1, refs := [], hot := [], trigIns := 0, snapWaits := [] }

/-- Drives that hold nothing of a vault. -/
def Disk.reset : Disk :=
  { cat := .reset, layouts := [], claims := [], inUse := [], remaps := [], lost := [], metaSeq := 0, rootNext := 0, vaultId := 0,
    labelSeq := 0, progress := [], epoch := 0 }

/-- The host interface at reset (R276, R277). -/
def Hif.reset : Hif :=
  { chans := [(0, .admin)], gens := [], dying := [], running := false, fault := false, stopping := false, notifies := [],
    aborts := [], pollExp := [], polledAt := [], unmasked := [], pendBits := [], rate := 0, width := 0, dbReads := 0, fetched := 0,
    posted := 0, msixSent := 0, errors := 0, gapMax := 0 }

/-- The metadata cache at reset (R369, R379). -/
def Mca.reset : Mca :=
  { lines := [], enabled := true, draining := false, wbuf := [], barriers := [], parityOff := false, lfsr := 0xACE12345,
    patrolAt := 0, hits := 0, misses := 0, writebacks := 0, parityClean := 0, maintOps := 0, hbmCe := 0, hbmUe := 0,
    passes := 0, cePc := [], hot := [] }

/-- The event recorder at reset (R402, R404, R415, R416): empty ring, empty log region. -/
def Evr.reset : Evr :=
  { ring := [], nextSeq := 0, buckets := bucketsReset, pendSupp := [], queue := [], nor := [], norHead := 0,
    norSkipped := 0, budget := 256 * 1000000000, budgetAt := 0, index := 0, source := false, autoInc := false, status := 2,
    window := [], opBase := 0, power := 0, fatal := none }

/-- Minuet at reset (R412 to R414). -/
def Mnt.reset : Mnt :=
  { target := 800, measured := 0, current := 0, headroom := 0, ewSteps := 0, replans := 0, projected := 0, goal := 800,
    avsBad := false, history := [], maxC := 0, maxDiode := 0, peakC := none, warnOn := false, critOn := false, eyeMin := 0,
    eyeEth := false, eyeLane := 0, eyes := [], starts := [], margins := [], rings := [], replicas := [], ceBase := [],
    ceNow := [], cePrev := [], ceHour := [], outAt := none, lastHour := 0, planned := false, heldAt := none }

/-- Boot state of a new part (R445, R446, R505). -/
def Boot.reset : Boot :=
  { stage := 0, slot := 0, trial := false, fallback := false, activations := 0, fwVersion := 0, slot0 := .empty,
    slot1 := .empty, dirSeq := 0, storeA := none, storeB := none, chosen := none, identity := none, idOk := false,
    otpSvn := 0, revoked := 0, lifecycle := 1, jtagOpen := false, jtagClosed := false, staging := none,
    activating := none, i2cIndex := 0, i2cHold := none }

/-- Everything but the queue and HBM right after reset. -/
def Dev.reset : Dev :=
  { out := [], now := 0, free := 0, glb := .reset, regs := .reset,
    sl := { groups := .all .reset, lanes := [], player := false, roleReq := none, stopCtr := 0, stopWaits := [] },
    lg := .all .reset,
    audit := { creditFail := 0, custodyFail := 0, residencyFail := 0, poolFail := 0, tick := 0, latched := false, ticks := 0 },
    pipes := .all .reset, vault := .reset,
    vcnt := ⟨0, 0, 0, 0, 0, 0, 0, 0, 0⟩,
    cat := .reset, disk := .reset,
    ciph := { pages := [], hkeys := [], fail := 0, reseeds := 0, drbgReq := [], jobs := [], ended := [], lane0 := none, lane1 := none,
              rrNext := 2, tango0 := false, tango1 := false },
    dgst := { mr := [], owner := [], ctx := [], mr1Log := [] },
    hif := .reset, tango := .reset, ih := ⟨0, 0, 0, 0, 0, 0, 0, 0, 0, 0⟩,
    rdma := { qps := [], keys := [], wins := [], cached := [], waitCtx := [], parked := [],
              lineRate := 400000000000 },
    rcnt := ⟨0, 0, 0, 0, 0, 0, 0, 0, 0, 0, 0, 0, 0, 0⟩, repl := [],
    bpm := { pools := poolsReset, bits := [], shadow := [(0, ⟨0, 1, false⟩), (1, ⟨0, 1, false⟩), (2, ⟨0, 1, false⟩)] },
    mca := .reset, dma := { chs := [], lastCh := 0, bytes := 0 }, evr := .reset, mnt := .reset, boot := .reset }

/-- The machine right after reset: no command waiting, nothing written in HBM. -/
def State.reset : State := { pending := [], hbm := [], dev := .reset }

end Sys2Proof.Machine
end

