-- ==== Sys2Proof/Machine/Ops.lean ====
section
/-! DEFINITION. The shared operations: what is alive, emission and free values, event records (R397 to R403),
MSI-X messages (R273), descriptor pickup (R256, R259, R260) and completion (R261, R269). -/

namespace Sys2Proof.Machine
open Sys2Proof

/-! ## What is alive -/

/-- Neither in reset, in a fatal stop (R407) nor stopping after PWRFAIL_N or SHUTDOWN (R194). -/
def Dev.live (d : Dev) : Bool := !d.glb.porLow && !d.glb.fatal && !d.glb.reduced && !d.glb.held

/-- Live, with the firmware RUNNING (R445, stage 3). -/
def Dev.running (d : Dev) : Bool := d.live && d.boot.stage == 3

/-- Live, with the firmware RUNNING or paused for activation (R431): the data path goes on. -/
def Dev.working (d : Dev) : Bool := d.live && (d.boot.stage == 3 || d.boot.stage == 4)

/-- Apply `f` where `p` holds; leave everything as it is where it does not. -/
def when (p : Bool) (f : Dev → Dev) (d : Dev) : Dev := if p then f d else d

/-- Something leaves the head. -/
def emit (o : Out) (d : Dev) : Dev := { d with out := d.out ++ [o] }

/-- Several things leave the head, in order. -/
def emits (os : List Out) (d : Dev) : Dev := { d with out := d.out ++ os }

/-- One free value is used up (notes/assumptions/4.md). -/
def drawn (d : Dev) : Dev := { d with free := d.free + 1 }

/-- Run `f` over a list, in order. -/
def each {α : Type} (f : α → Dev → Dev) (l : List α) (d : Dev) : Dev := l.foldl (fun x a => f a x) d

/-- A nanosecond passes with no command waiting: time runs except while POR_N is low (notes/assumptions/7.md). -/
def idle (d : Dev) : Dev := if d.glb.porLow then d else { d with now := d.now + 1 }

/-- Operating time in whole seconds, saturating (R397). -/
def Dev.opSeconds (d : Dev) : Nat := min 0xFFFFFFFF (d.evr.opBase + d.now / 1000000000)

/-! ## Updates of one group, pipe or ledger -/

/-- Change group `g`'s link. -/
def onGroup (g : Fin 4) (f : Group → Group) (d : Dev) : Dev :=
  { d with sl := { d.sl with groups := d.sl.groups.put g (f (d.sl.groups.at g)) } }

/-- Change group `g`'s ledger. -/
def onLedger (g : Fin 4) (f : Ledger → Ledger) (d : Dev) : Dev := { d with lg := d.lg.put g (f (d.lg.at g)) }

/-- Change pipe `g`. -/
def onPipe (g : Fin 4) (f : Pipe → Pipe) (d : Dev) : Dev := { d with pipes := d.pipes.put g (f (d.pipes.at g)) }

/-- Change the vault. -/
def onVault (f : Vault → Vault) (d : Dev) : Dev := { d with vault := f d.vault }

/-- Change the counters of R214. -/
def onVcnt (f : VltCnt → VltCnt) (d : Dev) : Dev := { d with vcnt := f d.vcnt }

/-- Change the catalogue. -/
def onCat (f : Cat → Cat) (d : Dev) : Dev := { d with cat := f d.cat }

/-- Change the inter-head protocol. -/
def onTango (f : Tango → Tango) (d : Dev) : Dev := { d with tango := f d.tango }

/-- Change the host interface. -/
def onHif (f : Hif → Hif) (d : Dev) : Dev := { d with hif := f d.hif }

/-- Change the cipher engine. -/
def onCiph (f : Ciph → Ciph) (d : Dev) : Dev := { d with ciph := f d.ciph }

/-- Change channel `c`, where it exists. -/
def onChan (c : Nat) (f : Chan → Chan) (d : Dev) : Dev :=
  match tget d.hif.chans c with
  | some ch => onHif (fun h => { h with chans := tput h.chans c (f ch) }) d
  | none => d

/-- The job of channel `c`. -/
def Dev.job (d : Dev) (c : Nat) : Option Job := (tget d.hif.chans c).bind (·.job)

/-- Give channel `c` a job, or none. -/
def setJob (c : Nat) (j : Option Job) (d : Dev) : Dev := onChan c (fun ch => { ch with job := j }) d

/-! ## MSI-X (R273) -/

/-- Send a message on a vector: nothing on 0xFFFF; a masked vector sets its pending bit. -/
def sendMsix (v : Nat) (d : Dev) : Dev :=
  if v = 0xFFFF then d
  else if d.hif.unmasked.contains v then
    emit (.msix v) (onHif (fun h => { h with msixSent := h.msixSent + 1 }) d)
  else onHif (fun h => { h with pendBits := if h.pendBits.contains v then h.pendBits else h.pendBits ++ [v] }) d

/-! ## Completion (R261, R269) -/

/-- Remove the oldest descriptor with a tag. -/
def dropTag (tag : W32) : List Desc → List Desc
  | [] => []
  | x :: t => if x.tag = tag then t else x :: dropTag tag t

/-- Whether a status alone sends no message (R273): OK, ALREADY_COMPLETE or FLUSHED_BY_DESTROY. -/
def quietStatus (status : Nat) : Bool := status == 0 || status == 2 || status == 3

/-- Whether a channel's destruction writes nothing: PERST_N or a function level reset destroys it (R253). -/
def Dev.silentChan (d : Dev) (c : Nat) : Bool := tget d.hif.dying c == some none

/-- Write one completion entry of channel `c` (R261), with PHASE, and send the message that R273 gives. A channel that no
longer exists, and a head in a fatal stop (R408), write none; neither does one that PERST_N destroys. -/
def writeEntry (c : Nat) (x : Desc) (status : Nat) (r0 r1 : W64) (d : Dev) : Dev :=
  match tget d.hif.chans c with
  | none => d
  | some ch =>
    if d.glb.fatal || d.silentChan c then d
    else
      let send := x.irq || !quietStatus status || (ch.modCount != 0 && decide (ch.modCount ≤ ch.unsig + 1))
      let ch' := { ch with cplCount := ch.cplCount + 1, last := (x.opcode, status, x.sqIndex), unsig := if send then 0 else ch.unsig + 1 }
      let d' := emit (.completion c x.tag x.sqIndex status x.opcode r0 r1 x.dbSeq (ch.cplCount / 2 ^ ch.cqLog2 % 2 == 0))
        (onHif (fun h => { h with chans := tput h.chans c ch', posted := h.posted + 1 }) d)
      if send then sendMsix ch.vector d' else d'

/-- The entry of an outstanding descriptor is written, and it is outstanding no longer. -/
def postEntry (c : Nat) (x : Desc) (status : Nat) (r0 r1 : W64) (d : Dev) : Dev :=
  writeEntry c x status r0 r1 (onChan c (fun ch => { ch with descs := dropTag x.tag ch.descs }) d)

/-- Whether channel `c` has an outstanding descriptor with this tag. -/
def Dev.outstanding (d : Dev) (c : Nat) (tag : W32) : Bool :=
  match tget d.hif.chans c with
  | none => false
  | some ch => ch.descs.any (·.tag == tag)

/-- A descriptor's header as the record that its channel keeps (R255). -/
def descOf (h : Hdr) (op : Byte) (started : Bool) : Desc :=
  { opcode := op, tag := h.tag, sqIndex := h.sqIndex, dbSeq := h.dbSeq, irq := h.irq, fence := h.fence,
    started := started, aborted := false }

/-- An ABORT whose target's entry is written completes: with OK where the target was aborted, else with ALREADY_COMPLETE
(R269). -/
def settleAbort (d : Dev) : Option Dev :=
  match d.hif.aborts.find? (fun w => !d.outstanding w.chan w.tag) with
  | none => none
  | some w =>
    let d1 := onHif (fun h => { h with aborts := h.aborts.filter (fun v => v != w) }) d
    some (postEntry w.h.chan (descOf w.h 0x03 true) (if w.ok then 0 else 2) 0 0 d1)

/-- Data goes to host memory: with Relaxed Ordering where RO_EN is set and the host has enabled it (R250). -/
def hostData (addr : Nat) (data : List Byte) (d : Dev) : Dev :=
  emit (.hostWrite (d.regs.hifCfg.getLsbD 0 && Config.hostRelaxed) addr data) d

/-- Channel types that start a descriptor only after the one before it has completed (R256). -/
def inOrder (ctype : Nat) : Bool := ctype != 5 && ctype != 7

/-- Whether the head picks up descriptors of a channel: the host interface is out of reset, the firmware RUNNING, the
channel there, not in error and not being destroyed, and ADMIN started (R251 to R253, R431, R501). -/
def Dev.picksUp (d : Dev) (c : Nat) : Bool :=
  d.running && !d.glb.perstLow && (tget d.hif.dying c).isNone &&
  match tget d.hif.chans c with
  | none => false
  | some ch => !ch.error && (ch.ctype != 7 || (d.hif.running && !d.hif.fault))

/-- Whether the order of R256 lets a descriptor start, given those before it. -/
def mayStart (ctype : Nat) (fence : Bool) (before : List Desc) : Bool :=
  if inOrder ctype || fence then before.isEmpty else before.all (fun x => x.started || x.aborted)

/-- The opcodes that a channel type defines (R267). -/
def opcodesOf (ctype : Nat) : List Nat :=
  0 :: (if ctype = 1 then [0x40, 0x41, 0x42, 0x43, 0x44, 0x45]
    else if ctype = 2 then [0x50]
    else if ctype = 3 then [0x70]
    else if ctype = 4 then [0x78]
    else if ctype = 5 then [0x80, 0x81, 0x82, 0x83, 0x84, 0x85]
    else if ctype = 6 then [0x90]
    else if ctype = 7 then
      [0x01, 0x02, 0x03, 0x04, 0x08, 0x09, 0x0A, 0x0B, 0x0C, 0x0D, 0x0E, 0x0F, 0x10, 0x11, 0x12, 0x13, 0x14, 0x15, 0x16, 0x18, 0x19,
       0x1A, 0x1B, 0x1C, 0x20, 0x21, 0x22, 0x23]
    else if ctype = 8 then [0x60]
    else [])

/-- The descriptor of a channel whose opcode its type does not define and whose turn has come (R256, R260). -/
def oddDesc (ch : Chan) : Option Desc :=
  ((ch.descs.zipIdx).find? (fun x => !x.1.started && !x.1.aborted && !(opcodesOf ch.ctype).contains x.1.opcode.toNat &&
    mayStart ch.ctype x.1.fence (ch.descs.take x.2))).map (·.1)

/-- The first channel with such a descriptor. -/
def Dev.oddEntry (d : Dev) : Option (Nat × Desc) :=
  d.hif.chans.findSome? (fun e => if d.picksUp e.1 then (oddDesc e.2).map (fun x => (e.1, x)) else none)

/-- The descriptor of a channel that is due without having started: aborted, or flushed as its channel is destroyed. On an
in-order channel its entry keeps its place (R269, R271 step 2). -/
def dueDesc (dying : Bool) (ch : Chan) : Option Desc :=
  let due (x : Desc) : Bool := !x.started && (x.aborted || dying)
  if inOrder ch.ctype then ch.descs.head?.filter due else ch.descs.find? due

/-- The first channel with a descriptor that is due without having started, and its status. -/
def dueEntry (dying : Tab (Option Hdr)) : Tab Chan → Option (Nat × Desc × Nat)
  | [] => none
  | (c, ch) :: t =>
    match dueDesc (tget dying c).isSome ch with
    | some x => some (c, x, if x.aborted then 1 else 3)
    | none => dueEntry dying t

/-- Whether nothing of a channel that is being destroyed is left: no descriptor, and no take of its own still to close (R92). -/
def Dev.chanDone (d : Dev) (c : Nat) : Bool :=
  ((tget d.hif.chans c).map (fun ch => ch.descs.isEmpty)).getD true &&
  d.cat.takes.all (fun t => t.chan != some c || (t.state != .open_ && t.state != .closing) || t.away)

/-- A destroyed channel whose last entry is written goes, and its CHANNEL_DESTROY completes (R271, steps 4 to 6). -/
def settleDying (d : Dev) : Option Dev :=
  match d.hif.dying.find? (fun e => d.chanDone e.1) with
  | none => none
  | some (c, by_) =>
    let v := match tget d.hif.chans c with
      | some ch => if ch.unsig > 0 && (ch.modCount != 0 || ch.modTime != 0) then some ch.vector else none
      | none => none
    let d1 := { d with
      dma := { d.dma with chs := d.dma.chs.filter (fun e => e.2.chan != c) }
      cat := { d.cat with takes := d.cat.takes.map (fun t => if t.chan = some c then { t with chan := none } else t) } }
    let gone (x : Dev) : Dev := onHif (fun hf => { hf with chans := tdel hf.chans c, dying := tdel hf.dying c }) x
    match by_, v with
    | none, _ => some (gone d1)
    | some h, some n => some (postEntry h.chan (descOf h 0x02 true) 0 0 0 (gone (sendMsix n d1)))
    | some h, none => some (postEntry h.chan (descOf h 0x02 true) 0 0 0 (gone d1))

/-- One entry that follows from another: an ABORT, an aborted or flushed descriptor whose turn has come, one of an opcode that its
channel does not define (R10, R260), a destruction. -/
def settleOne (d : Dev) : Option Dev :=
  match settleAbort d with
  | some d' => some d'
  | none =>
    match dueEntry d.hif.dying d.hif.chans with
    | some (c, x, st) => some (postEntry c x st 0 0 d)
    | none =>
      match d.oddEntry with
      | some (c, x) => some (postEntry c x 0x10 0 0 d)
      | none => settleDying d

/-- Every entry that follows, in order; ADMIN stops once its last entry is written (R501). -/
def settle : Nat → Dev → Dev
  | 0, d => d
  | n + 1, d =>
    match settleOne d with
    | some d' => settle n d'
    | none =>
      if d.hif.stopping && ((tget d.hif.chans 0).map (fun ch => ch.descs.isEmpty)).getD true then
        onHif (fun h => { h with running := false, stopping := false }) d
      else d

/-- The most entries that one completion can bring with it: one for each descriptor outstanding. -/
def Dev.settleFuel (d : Dev) : Nat :=
  (d.hif.chans.map (fun e => e.2.descs.length)).sum + d.hif.dying.length + d.hif.aborts.length + 1

/-- What follows from what has changed. -/
def settled (d : Dev) : Dev := settle d.settleFuel d

/-- The descriptor of header `h` completes: with FLUSHED_BY_DESTROY where its channel is being destroyed (R271, step 3). One
that is no longer outstanding (ADMIN stopped under it, R253) completes without an entry. -/
def complete (h : Hdr) (op : Byte) (status : Nat) (r0 r1 : W64) (d : Dev) : Dev :=
  if d.outstanding h.chan h.tag then
    settled (postEntry h.chan (descOf h op true) (if (tget d.hif.dying h.chan).isSome then 3 else status) r0 r1 d)
  else d

/-! ## Event records (R397 to R403) -/

/-- Severity of an event code (R399, R401, R443). -/
def severityOf (code : Nat) : Nat :=
  if [0x0001, 0x0209, 0x0609, 0x0703, 0x0A02, 0x0A04, 0x0D07].contains code then 5
  else if [0x0403, 0x0601, 0x0D04, 0x0D06, 0x0E03, 0x0F01].contains code then 4
  else if [0x0002, 0x0207, 0x0402, 0x0404, 0x0406, 0x0409, 0x040B, 0x0604, 0x0605, 0x0607, 0x060A, 0x0A03, 0x0D08,
    0x0E01, 0x0E08, 0x1001].contains code then 3
  else if [0x0202, 0x0205, 0x0206, 0x0401, 0x0A01, 0x0D01, 0x0E04, 0x0E06, 0x0E07, 0x0E09, 0x0E0A, 0x0F02].contains code then 1
  else if code = 0x0C01 then 0
  else 2

/-- The event codes that the manual defines (R401, R443). -/
def definedCode (code : Nat) : Bool :=
  [0x0001, 0x0002, 0x0101, 0x0201, 0x0202, 0x0203, 0x0204, 0x0205, 0x0206, 0x0207, 0x0208, 0x0209, 0x020A, 0x0301, 0x0401, 0x0402,
   0x0403, 0x0404, 0x0405, 0x0406, 0x0407, 0x0408, 0x0409, 0x040A, 0x040B, 0x0601, 0x0602, 0x0603, 0x0604, 0x0605, 0x0606, 0x0607,
   0x0608, 0x0609, 0x060A, 0x0701, 0x0702, 0x0703, 0x0A01, 0x0A02, 0x0A03, 0x0A04, 0x0A05, 0x0C01, 0x0D01, 0x0D02, 0x0D03, 0x0D04,
   0x0D05, 0x0D06, 0x0D07, 0x0D08, 0x0D09, 0x0E01, 0x0E02, 0x0E03, 0x0E04, 0x0E05, 0x0E06, 0x0E07, 0x0E08, 0x0E09, 0x0E0A, 0x0F01,
   0x0F02, 0x0F03, 0x1001].contains code

/-- The exempt codes (R401): the fatal codes, VLT_TILE_LOST and EVR_TIME_MARK. -/
def exemptCode (code : Nat) : Bool :=
  [0x0001, 0x0209, 0x0609, 0x0703, 0x0A02, 0x0A04, 0x0D07, 0x0404, 0x0C01].contains code

/-- The instance of an event that has none (R398). -/
def noInstance : W32 := 0xFFFFFFFF

/-- The level of a token bucket at time `now`, in tokens times 10^9 (R402, R404). -/
def bucketLevel (level at_ rate burst now : Nat) : Nat := min (burst * 1000000000) (level + rate * (now - at_))

/-- The entry of EVR_RATE that binds a code (R402). -/
def boundEntry : Tab Bucket → Nat → Option (Nat × Bucket)
  | [], _ => none
  | (i, b) :: t, code => if b.code = code then some (i, b) else boundEntry t code

/-- The rate limit of R402 on one record: the entries after it, and whether the record may be recorded. A RATE of 0
suppresses the code entirely (R417). -/
def rateLimit (bs : Tab Bucket) (code now : Nat) : Tab Bucket × Bool :=
  match if exemptCode code then none else boundEntry bs code with
  | none => (bs, true)
  | some (i, b) =>
    let lvl := bucketLevel b.level b.at_ b.rate b.burst now
    if b.rate ≠ 0 ∧ 1000000000 ≤ lvl then (tput bs i { b with level := lvl - 1000000000, at_ := now }, true)
    else (tput bs i { b with level := lvl, at_ := now, suppressed := satInc32 b.suppressed }, false)

/-- Remove the newest record that is not exempt, if there is one (R410). -/
def dropNewestPlain (q : List EvRec) : Option (List EvRec) :=
  match q.reverse.findIdx? (fun r => !r.exempt) with
  | none => none
  | some i => some ((q.reverse.eraseIdx i).reverse)

/-- A record enters the persistence queue of 256 (R403, R404, R410), at its front where `first` (R407, step 6). -/
def persistQueue (first : Bool) (r : EvRec) (now : Nat) (e : Evr) : Evr :=
  let put (q : List EvRec) : List EvRec := if first then r :: q else q ++ [r]
  if r.exempt then
    if e.queue.length < 256 then { e with queue := put e.queue }
    else match dropNewestPlain e.queue with
      | some q => { e with queue := put q, norSkipped := e.norSkipped + 1 }
      | none => { e with norSkipped := e.norSkipped + 1 }
  else
    let lvl := bucketLevel e.budget e.budgetAt 4 256 now
    if e.queue.length < 256 ∧ 1000000000 ≤ lvl then
      { e with queue := e.queue ++ [r], budget := lvl - 1000000000, budgetAt := now }
    else { e with norSkipped := e.norSkipped + 1 }

/-- The record of an event raised now (R398). -/
def eventRecord (d : Dev) (code : Nat) (inst : W32) (words : List W32) : EvRec :=
  { code := code, sev := severityOf code, seq := d.evr.nextSeq, opTime := BitVec.ofNat 32 d.opSeconds,
    power := d.evr.power, persist := decide (2 ≤ severityOf code) || code == 0x0C01, exempt := exemptCode code,
    opNs := BitVec.ofNat 32 (d.now % 1000000000), suppressed := BitVec.ofNat 32 (tgetD d.evr.pendSupp 0 code),
    instance_ := inst, snap := words.take 8 }

/-- The newest 8,192 records (R403). -/
def ringPush (r : EvRec) (l : List EvRec) : List EvRec := if l.length < 8192 then l ++ [r] else l.drop 1 ++ [r]

/-- The recorder takes an event: rate limit, ring, persistence queue. Answers the record, or none where suppressed. -/
def recordEvent (first : Bool) (code : Nat) (inst : W32) (words : List W32) (d : Dev) : Dev × Option EvRec :=
  match rateLimit d.evr.buckets code d.now with
  | (bs, false) =>
    let n := (tgetD d.evr.pendSupp 0 code + 1) % 2 ^ 32
    ({ d with evr := { d.evr with buckets := bs, pendSupp := tput d.evr.pendSupp code n } }, none)
  | (bs, true) =>
    let r := eventRecord d code inst words
    let e := { d.evr with buckets := bs, nextSeq := d.evr.nextSeq + 1, ring := ringPush r d.evr.ring,
                          pendSupp := tdel d.evr.pendSupp code, fatal := if r.sev = 5 then some r else d.evr.fatal }
    ({ d with evr := if r.persist then persistQueue first r d.now e else e }, some r)

/-- Complete outstanding NOTIFY descriptors (R267): those that `want` their least severity, oldest first. -/
def notifyWhere (want : Nat → Bool) (r0 r1 : W64) (d : Dev) : Dev :=
  let hit := d.hif.notifies.filter (fun n => want n.2)
  let d1 := onHif (fun h => { h with notifies := h.notifies.filter (fun n => !want n.2) }) d
  each (fun n x => complete n.1 0x04 0 r0 r1 x) hit d1

/-- result1 of a NOTIFY for an event (R267). -/
def notifyResult (r : EvRec) : W64 := BitVec.ofNat 64 (r.code % 65536 + r.sev * 65536 + r.code / 256 % 256 * 1048576)

/-- An event is raised: recorded, and reported to each NOTIFY of its severity or below (R398, R402, R403, R267). -/
def logEvent (code : Nat) (inst : W32) (words : List W32) (d : Dev) : Dev :=
  match recordEvent false code inst words d with
  | (d1, none) => d1
  | (d1, some r) => notifyWhere (fun m => decide (m ≤ r.sev)) (r.seq.setWidth 64) (notifyResult r) d1

/-- Every outstanding NOTIFY completes, with no record to name: its results are free values (R267). -/
def notifyAll (d : Dev) : Dev :=
  drawn (drawn (notifyWhere (fun _ => true) (Config.free64 d.free) (Config.free64 (d.free + 1)) d))

/-- A channel enters the error state (R251, R264): it fetches nothing further, HIF_CHANNEL_ERROR is logged, and every
NOTIFY completes. -/
def chanError (c : Nat) (op : Byte) (status sq : Nat) (d : Dev) : Dev :=
  let d1 := onChan c (fun ch => { ch with error := true }) d
  match recordEvent false 0x0101 (BitVec.ofNat 32 c) [op.setWidth 32, BitVec.ofNat 32 status, BitVec.ofNat 32 sq] d1 with
  | (d2, none) => notifyAll d2
  | (d2, some r) => notifyWhere (fun _ => true) (r.seq.setWidth 64) (notifyResult r) d2

/-! ## Descriptor pickup (R256, R259, R260) -/

/-- Mark the oldest descriptor with a tag that has not started as started. -/
def markStarted (tag : W32) : List Desc → List Desc
  | [] => []
  | x :: t => if x.tag = tag ∧ x.started = false ∧ x.aborted = false then { x with started := true } :: t
              else x :: markStarted tag t

/-- The descriptors fetched before the oldest unstarted one with this tag. -/
def earlier (tag : W32) : List Desc → List Desc
  | [] => []
  | x :: t => if x.tag = tag ∧ x.started = false ∧ x.aborted = false then [] else x :: earlier tag t

/-- A descriptor reaches the head of its channel: it is fetched if a poll has not fetched it already, and it starts where `go` holds and
the order of its channel allows. ADMIN that is to stop fetches nothing further (R501). -/
def pickupWhen (go : Bool) (h : Hdr) (op : Byte) (d : Dev) : Dev × Bool :=
  match tget d.hif.chans h.chan with
  | none => (d, false)
  | some ch =>
    let known := ch.descs.any (fun x => x.tag == h.tag && !x.started && !x.aborted)
    if !known && d.hif.stopping && h.chan == 0 then (d, false)
    else
      let descs := if known then ch.descs else ch.descs ++ [descOf h op false]
      let ok := go && mayStart ch.ctype h.fence (earlier h.tag descs)
      let head := if known then ch.head else (h.sqIndex + 1) % 2 ^ ch.sqLog2
      let ch' := { ch with descs := if ok then markStarted h.tag descs else descs, head := head }
      let n := if known then 0 else 1
      (onHif (fun f => { f with chans := tput f.chans h.chan ch', fetched := f.fetched + n }) d, ok)

/-- The type of a channel, 0 for none. -/
def Dev.ctype (d : Dev) (c : Nat) : Nat := ((tget d.hif.chans c).map (·.ctype)).getD 0

/-- The domain of a channel. -/
def Dev.domain (d : Dev) (c : Nat) : Nat := ((tget d.hif.chans c).map (·.domain)).getD 0

/-- The handle of a channel (R254). -/
def Dev.handle (d : Dev) (c : Nat) : W32 :=
  BitVec.ofNat 32 (d.ctype c * 2 ^ 28 + (tgetD d.hif.gens 0 c).toNat * 2 ^ 12 + c)

/-- A descriptor: pickup, the checks of R260, then its own meaning. `ctypes` are the channel types that define its
opcode, `valid` that every field holds a defined value; it starts only where `go` holds. -/
def descriptorWhen (go : Bool) (op : Byte) (ctypes : List Nat) (h : Hdr) (valid : Bool) (body : Dev → Dev) (d : Dev) : Dev :=
  if d.picksUp h.chan then
    match pickupWhen go h op d with
    | (d1, false) => d1
    | (d1, true) =>
      if ctypes.contains (d.ctype h.chan) && h.clean && valid then body d1
      else complete h op 0x10 0 0 d1
  else d

/-- A descriptor that nothing but the order of its channel holds back. -/
def descriptor (op : Byte) (ctypes : List Nat) (h : Hdr) (valid : Bool) (body : Dev → Dev) (d : Dev) : Dev :=
  descriptorWhen true op ctypes h valid body d

end Sys2Proof.Machine
end

