-- ==== Sys2Proof/Machine/Messages.lean ====
section
/-! DEFINITION. The bytes of what the two heads and a replication pair send each other: journal records (R188), the bodies of the Tango
messages (R282 to R298) and of the replication messages (R342), and their envelopes (R281, R342). -/

namespace Sys2Proof.Machine
open Sys2Proof

/-! ## Records -/

/-- A tile-map entry's 16 bytes (R224). -/
def entryBytes (e : Entry) : List Byte := leBytes 8 (e.loc % 2 ^ 52 + e.flags.toNat * 2 ^ 52) ++ wordBytes e.tileSeq

/-- A journal entry's 56 bytes (R188). -/
def jEntryBytes (e : Entry) : List Byte := entryBytes e ++ beBytes e.fp ++ leBytes 4 e.storedLen ++ zeros 4

end Sys2Proof.Machine

namespace Sys2Proof
open Machine

/-- Record type code (R188). -/
def JBody.code : JBody → Nat
  | .stripeOpen .. => 1
  | .stripeRetire .. => 2
  | .periodClaim => 3
  | .remap .. => 4
  | .stripeLost .. => 5
  | .durable .. => 6
  | .stripeDiscard .. => 7

/-- The 28 body bytes of a record (R188). -/
def JBody.bytes : JBody → List Byte
  | .stripeOpen vol tk cg g padded maint es mask =>
    leBytes 2 vol ++ zeros 2 ++ leBytes 4 tk ++ wordBytes cg ++ leBytes 1 g ++ leBytes 1 (bit padded + 2 * bit maint) ++
      leBytes 2 es.length ++ leBytes 4 mask.toNat ++ zeros 8
  | .stripeRetire j => leBytes 8 j ++ zeros 20
  | .periodClaim => zeros 28
  | .remap f sp fc sc => leBytes 1 f ++ leBytes 1 sp ++ zeros 6 ++ leBytes 8 fc ++ leBytes 8 sc ++ zeros 4
  | .stripeLost m => leBytes 4 m.toNat ++ zeros 24
  | .durable j => leBytes 8 j ++ zeros 20
  | .stripeDiscard a b => leBytes 8 a ++ leBytes 8 b ++ zeros 12

/-- The bytes that follow the first 64 (R188), padded to whole units. -/
def JBody.extension : JBody → List Byte
  | .stripeOpen _ _ _ _ _ _ es _ =>
    let b := (es.map jEntryBytes).flatten
    b ++ zeros (alignUp b.length 64 - b.length)
  | _ => []

/-- A record's length in 64-byte units (R188). -/
def JBody.units : JBody → Nat
  | .stripeOpen _ _ _ _ _ _ es _ => 1 + (56 * es.length + 63) / 64
  | _ => 1

end Sys2Proof

namespace Sys2Proof.Machine
open Sys2Proof

/-- Claim epoch and head as a record carries them (R188). -/
def epochField (epoch : Nat) (headB : Bool) : Nat := epoch % 2 ^ 40 + bit headB * 2 ^ 40

/-- A record's bytes up to its CRC. -/
def recHead (r : JRec) : List Byte :=
  leBytes 1 r.body.code ++ leBytes 1 r.source ++ leBytes 2 r.units ++ leBytes 2 r.layout ++ zeros 2 ++ leBytes 8 r.jseq ++
    leBytes 8 (epochField r.epoch r.headB) ++ leBytes 8 r.subject ++ r.body.bytes

/-- A whole journal record (R188). -/
def recBytes (r : JRec) : List Byte :=
  recHead r ++ wordBytes (crc32c (recHead r ++ zeros 4 ++ r.body.extension)) ++ r.body.extension

/-- A frame record's 80 bytes. -/
def frameBytes (f : FrameRec) : List Byte :=
  wordBytes f.frame ++ leBytes 1 f.group ++ leBytes 1 f.cls ++ wordBytes f.flags ++ wordBytes f.format ++
    wordBytes f.firstGsn ++ wordBytes f.timestamp ++ leBytes 8 f.firstTile ++ leBytes 4 f.declared ++
    leBytes 4 f.recorded ++ leBytes 4 f.width ++ leBytes 4 f.lines ++ leBytes 4 f.firstLine ++ leBytes 2 f.lineStep ++
    zeros 2 ++ leBytes 4 f.lineBytes ++ wordBytes f.closeCrc ++ wordBytes f.exposure ++ wordBytes f.dataPackets ++
    wordBytes f.partnerStatus

/-- The body of a TRIGGER record (R229). -/
def trigBytes (r : TrigRec) : List Byte :=
  wordBytes r.trigId ++ leBytes 1 r.source ++ leBytes 1 r.group ++ wordBytes r.srcField ++ wordBytes r.time ++
    leBytes 8 r.place.toNat ++ leBytes 1 r.outcome ++ zeros 7

/-- The group state's 128 bytes (R293). -/
def groupBytes (s : GState) : List Byte :=
  let f (m : FrameRec → Nat) : List Byte := leBytes 4 ((s.frame.map m).getD 0)
  leBytes 1 s.group ++ leBytes 1 s.part ++ leBytes 2 (bit s.frameOpen) ++ wordBytes s.commitGsn ++ leBytes 8 s.nextTile ++
    leBytes 8 s.nextMeta ++ ((s.frame.map (fun x => frameBytes { x with recorded := x.committed })).getD (zeros 80)) ++
    f (·.committed) ++ f (·.lostOnLink) ++ f (·.overRun) ++ f (·.landingOverflow) ++ f (·.hbmUnc) ++ f (·.excess)

/-! ## Bodies of the Tango messages -/

/-- The link section (R285). -/
def linkBytes (l : Four LinkSec) : List Byte :=
  (l.list.map (fun x => wordBytes x.deviceId ++ wordBytes x.streamId ++ wordBytes x.port ++ leBytes 1 (bit x.granted) ++ zeros 4)).flatten

/-- An owner table (R282): 0 A, 1 B, 0xFF none. -/
def ownerBytes (o : Four Nat) : List Byte := (o.list.map (fun x => leBytes 1 (if x < 2 then x else 255))).flatten

/-- The bytes of HELLO up to its signature (R285). -/
def helloBytes (m : Hello) : List Byte :=
  wordBytes m.serial ++ leBytes 1 (bit m.headB) ++ leBytes 1 m.state ++ leBytes 2 m.levelMax ++ leBytes 2 m.levelMin ++
    leBytes 2 m.vaultLevel ++ wordBytes m.fwVersion ++ zeros 4 ++ wordBytes m.vaultId ++ leBytes 8 m.epochMax ++ beBytes m.nonce ++
    padTo 96 m.ecdhPub ++ linkBytes m.link ++ leBytes 2 m.certs.length ++ zeros 6 ++ m.certs

/-- The HEARTBEAT body (R283). -/
def beatBytes (b : Beat) : List Byte :=
  leBytes 1 b.state ++ zeros 1 ++ leBytes 2 b.level ++ ownerBytes b.owners ++ leBytes 8 b.mirrorAcked ++ leBytes 8 b.ckptSeq ++
    (b.commitGsn.list.map wordBytes).flatten ++ (b.nextGsn.list.map wordBytes).flatten ++ (b.stop.list.map wordBytes).flatten ++ zeros 4 ++
    wordBytes b.time ++ zeros 24

/-- A group's entry of LEDGER (R297). -/
def ledgerBytes (e : LedgerEnt) : List Byte :=
  leBytes 1 e.group.val ++ leBytes 1 (bit e.crcValid) ++ zeros 2 ++ wordBytes e.c ++ wordBytes e.committed ++ wordBytes e.dropped ++ wordBytes e.crc

/-- The body of a TAKE_OPEN (R267), from its first field on. -/
def openReqBytes (r : OpenReq) : List Byte :=
  leBytes 2 r.volume ++ leBytes 1 r.groups.toNat ++ leBytes 1 (bit r.reel) ++ leBytes 1 r.page ++ leBytes 1 r.hkey ++
    leBytes 1 (bit r.dedup + 2 * bit r.startFrame.isSome) ++ zeros 1 ++ wordBytes r.openTime ++ leBytes 8 ((r.startFrame.map (·.toNat)).getD 0) ++
    leBytes 4 r.ringN ++ leBytes 2 r.segLimit ++ zeros 2 ++ leBytes 8 r.preNs ++ leBytes 8 r.postNs ++ zeros 8

/-- Type and body of a Tango message (R282); none for what is no such message. Where R282 names a body's fields without their places they
follow each other in its order (DEDUCED, notes/assumptions/67.md). -/
def tangoMsg : Out → Option (Nat × List Byte)
  | .keyConfirm none => some (0x02, [])
  | .linkInfo l => some (0x08, linkBytes l)
  | .beat b => some (0x10, beatBytes b)
  | .ledger es => some (0x11, (es.map ledgerBytes).flatten)
  | .ownerTable o _ => some (0x20, ownerBytes o)
  | .ownerAck o _ => some (0x21, ownerBytes o)
  | .handReq m x => some (0x22, leBytes 1 m.toNat ++ leBytes 1 x)
  | .handReady m => some (0x23, leBytes 1 m.toNat)
  | .handState cuts chains _ => some (0x24, (cuts.map (fun c => wordBytes c.2.1 ++ groupBytes c.2.2)).flatten ++
      (chains.map (fun h => leBytes 2 h.volume ++ leBytes 4 h.takeId ++ leBytes 1 h.part ++ beBytes h.value ++ leBytes 8 h.count ++
        leBytes 2 h.segments.length)).flatten)
  | .handDone cs => some (0x25, (cs.map (fun c => wordBytes c.2)).flatten)
  | .leaving x => some (0x28, leBytes 1 x)
  | .frozen j => some (0x29, leBytes 8 j)
  | .takePart r kcv dkcv id p => some (0x30, openReqBytes r ++ wordBytes kcv ++ wordBytes dkcv ++ leBytes 4 id ++ leBytes 1 p)
  | .takePartAck id p st => some (0x31, leBytes 4 id ++ leBytes 1 p ++ leBytes 1 st)
  | .triggerFwd r id seg => some (0x32, leBytes 1 2 ++ zeros 3 ++ leBytes 4 32 ++ trigBytes r ++ leBytes 4 id ++ leBytes 4 seg)
  | .driveNotice s a => some (0x33, leBytes 1 s ++ leBytes 1 a)
  | .claimVerdict l p j refused => some (0x34, leBytes 2 l ++ leBytes 1 (bit refused) ++ zeros 5 ++ leBytes 8 p ++ leBytes 8 j)
  | .ckpt _ => some (0x38, [])
  | .healReq id g n first sid => some (0x40, wordBytes id ++ leBytes 1 g.val ++ leBytes 1 n ++ zeros 2 ++ wordBytes first ++ wordBytes sid ++ zeros 2)
  | .healDone id g n first held _ =>
    some (0x41, wordBytes id ++ leBytes 1 g.val ++ leBytes 1 n ++ zeros 2 ++ wordBytes first ++ zeros 4 ++ wordBytes held)
  | .mirrorRec r st => some (0x48, recBytes r ++ (st.map groupBytes).getD [])
  | .mirrorAck j => some (0x49, leBytes 8 j)
  | .nak type seq reason e o => some (0x7F, leBytes 1 type ++ wordBytes seq ++ leBytes 1 reason ++ leBytes 8 e ++ ownerBytes o)
  | _ => none

/-- The epoch of a message's envelope: this head's own, but for a message that announces another (R282). -/
def msgEpoch (own : Nat) : Out → Nat
  | .ownerTable _ e => e
  | .ownerAck _ e => e
  | .handState _ _ e => e
  | _ => own

/-- The Tango envelope before its iv_ctr (R281). -/
def tangoHead (type level sender : Nat) (role : Byte) (length epoch seq : Nat) : List Byte :=
  leBytes 1 type ++ leBytes 1 level ++ leBytes 1 sender ++ wordBytes role ++ leBytes 2 length ++ zeros 2 ++ leBytes 8 (epoch % 2 ^ 40) ++
    leBytes 8 seq

/-! ## Replication messages (R342) -/

/-- An FP_BATCH entry. -/
def fpBytes (e : FpEntry) : List Byte :=
  beBytes e.fp ++ wordBytes e.tileSeq ++ leBytes 8 e.loc ++ leBytes 4 e.storedLen ++ leBytes 2 e.flags.toNat ++ zeros 2

/-- A bitmap, bit 0 of its first byte first. Fuel: bytes. -/
def bitmapBytes : Nat → List Bool → List Byte
  | 0, _ => []
  | n + 1, l => BitVec.ofNat 8 (((l.take 8).zipIdx.map (fun x => bit x.1 * 2 ^ x.2)).sum) :: bitmapBytes n (l.drop 8)

/-- Type and body of a replication message; none for what is no such message. -/
def replBody : Out → Option (Nat × List Byte)
  | .keyConfirm (some _) => some (0x02, [])
  | .replOffer _ o => some (0x10, leBytes 1 o.kind ++ leBytes 1 o.parts.toNat ++ zeros 2 ++ leBytes 4 o.segId ++ wordBytes o.kcv ++
      wordBytes o.dkcv ++ leBytes 8 o.first ++ leBytes 8 o.entries ++ leBytes 1 (bit o.closed) ++ zeros 7 ++ wordBytes o.serial)
  | .replAccept _ st next => some (0x11, leBytes 1 st ++ zeros 7 ++ leBytes 8 next)
  | .replBatch _ first lookup es =>
    some (0x20, leBytes 8 first ++ leBytes 2 es.length ++ leBytes 1 (bit lookup) ++ zeros 5 ++ (es.map fpBytes).flatten)
  | .replHeld _ first bits => some (0x21, leBytes 8 first ++ leBytes 2 bits.length ++ zeros 6 ++ bitmapBytes ((bits.length + 7) / 8) bits)
  | .replTile _ i stored => some (0x22, leBytes 8 i ++ zeros 8 ++ stored)
  | .replCommit _ n => some (0x23, leBytes 8 n)
  | .replClose _ n => some (0x24, leBytes 8 n)
  | .replClosed _ n => some (0x25, leBytes 8 n)
  | .replError _ i st => some (0x7F, leBytes 8 i ++ leBytes 1 st ++ zeros 7)
  | _ => none

/-- The replication envelope before its iv_ctr. -/
def replHead (type level length seq : Nat) : List Byte :=
  leBytes 1 type ++ leBytes 1 level ++ zeros 2 ++ leBytes 4 length ++ leBytes 8 seq

/-- part_key of the replication envelope. -/
def partKey (volume takeId part : Nat) : List Byte := leBytes 8 (volume % 2 ^ 16 + takeId % 2 ^ 32 * 2 ^ 16 + part % 2 * 2 ^ 48)

/-! ## Encryption of a message (R137, R280) -/

/-- The 96-bit IV of a class S message: the salt as loaded, then the page counter, big-endian (R137). -/
def msgIv (salt : W32) (ctr : W64) : BitVec 96 := BitVec.ofNat 96 (beNat (wordBytes salt ++ beBytes ctr))

/-- A message as it leaves: its envelope, which is the additional authenticated data, the ciphertext of its body, and the 16-byte tag. -/
def sealMsg (key : List Byte) (iv : BitVec 96) (env body : List Byte) : List Byte :=
  let ct := gcmAdd key iv (body.length / 16 + 1) 1 body
  env ++ ct ++ beBytes (gcmTag key iv env ct)

end Sys2Proof.Machine
end

