-- ==== Sys2Proof/Machine/Images.lean ====
section
/-! DEFINITION. Firmware and identity images (R420, R421, R440), the image slots (R422, R423) and the compatibility levels of a firmware
(R286, R437). -/

namespace Sys2Proof
open Machine

/-! ## The fields of an image (R420) -/

/-- Bytes 0 to 3. -/
def Image.magic (i : Image) : W32 := BitVec.ofNat 32 (fieldAt i.bytes 0 4)
/-- header_version. -/
def Image.hdrVersion (i : Image) : Nat := fieldAt i.bytes 4 2
/-- image_type: 1 firmware, 2 identity. -/
def Image.imageType (i : Image) : Nat := fieldAt i.bytes 6 1
/-- sign_key. -/
def Image.signKey (i : Image) : Nat := fieldAt i.bytes 7 1
/-- image_length. -/
def Image.length (i : Image) : Nat := fieldAt i.bytes 8 4
/-- fw_version. -/
def Image.fwVersion (i : Image) : W32 := BitVec.ofNat 32 (fieldAt i.bytes 12 4)
/-- svn. -/
def Image.svn (i : Image) : Nat := fieldAt i.bytes 16 4
/-- level_min. -/
def Image.levelMin (i : Image) : Nat := fieldAt i.bytes 20 2
/-- level_max. -/
def Image.levelMax (i : Image) : Nat := fieldAt i.bytes 22 2
/-- config_format. -/
def Image.cfgFormat (i : Image) : Nat := fieldAt i.bytes 24 2
/-- silicon. -/
def Image.silicon (i : Image) : W16 := BitVec.ofNat 16 (fieldAt i.bytes 26 2)
/-- section_count. -/
def Image.count (i : Image) : Nat := fieldAt i.bytes 28 2
/-- sign_pub: X then Y. -/
def Image.signPub (i : Image) : List Byte := slice i.bytes 32 96
/-- The 32 bytes of entry `k` of the section table. -/
def Image.entryBytes (i : Image) (k : Nat) : List Byte := slice i.bytes (128 + 32 * k) 32
/-- The section that entry `k` names. -/
def Image.sectionAt (i : Image) (k : Nat) : ImgSection :=
  let b := i.entryBytes k
  { offset := fieldAt b 0 4, length := fieldAt b 4 4, kind := fieldAt b 8 1, data := slice i.bytes (fieldAt b 0 4) (fieldAt b 4 4) }
/-- The sections, in order. -/
def Image.sections (i : Image) : List ImgSection := (List.range (min 32 i.count)).map i.sectionAt
/-- The bytes that the signature covers: 0 to image_length - 97. -/
def Image.body (i : Image) : List Byte := i.bytes.take (i.length - 96)
/-- The signature: the last 96 bytes, r then s. -/
def Image.signature (i : Image) : BitVec 768 := BitVec.ofNat 768 (beNat (slice i.bytes (i.length - 96) 96))
/-- The image digest: SHA-384 of the signed bytes. -/
def Image.digest (i : Image) : W384 := sha384 i.body

/-- Whether the header's reserved bytes and unused entries are zero (R420). -/
def Image.reservedOk (i : Image) : Bool :=
  allZero (slice i.bytes 30 2) && decide (i.silicon.toNat < 2) && allZero (slice i.bytes 1152 2944) &&
    (List.range 32).all (fun k => allZero ((i.entryBytes k).drop (if k < i.count then 9 else 0)))

/-- The header keeps R420: magic, version, type, key, length, security version, the section table and the reserved bytes. -/
def Image.headerOk (i : Image) : Bool :=
  i.reservedOk && i.magic == 0x5746434F && i.hdrVersion == 1 && (i.imageType == 1 || i.imageType == 2) &&
    decide (i.signKey < 4 ∧ i.length ≤ 33554432 ∧ i.length % 64 = 0 ∧ i.length = i.bytes.length ∧ i.svn < 64) &&
    decide (1 ≤ i.count ∧ i.count ≤ 32) &&
    i.sections.all (fun s => decide (s.offset % 64 = 0 ∧ 4096 ≤ s.offset ∧ 1 ≤ s.kind ∧ s.kind ≤ 5))

/-! ## Validity (R421) -/

/-- Whether two sections overlap. -/
def ImgSection.meets (a b : ImgSection) : Bool := decide (a.offset < b.offset + b.length ∧ b.offset < a.offset + a.length)

/-- Whether no two sections of a list overlap. -/
def apart : List ImgSection → Bool
  | [] => true
  | s :: t => t.all (fun x => !s.meets x) && apart t

/-- An image is valid (R421), for a rollback counter and revoked keys. -/
def Image.valid (otpSvn : Nat) (revoked : BitVec 4) (i : Image) : Bool :=
  i.magic == 0x5746434F && i.hdrVersion == 1 && i.silicon.getLsbD 0 && decide (i.levelMin ≤ i.levelMax) &&
    i.sections.all (fun s => decide (4096 ≤ s.offset ∧ s.offset + s.length + 96 ≤ i.length)) && apart i.sections &&
    sha384 i.signPub == Config.signKeyHash i.signKey && !revoked.getLsbD i.signKey &&
    ecdsaVerify i.signPub i.digest i.signature && decide (otpSvn ≤ i.svn)

/-! ## Certificates (R440) -/

/-- The certificates of an identity image's kind-5 section. -/
def Image.certs (i : Image) : List Byte := ((i.sections.find? (fun s => s.kind == 5)).map (·.data)).getD []

/-- Bytes of the DER element at the front of a byte string, its tag and length included. -/
def derSize (b : List Byte) : Nat :=
  let n := fieldAt b 1 1
  if n < 128 then 2 + n else 2 + (n - 128) + beNat (slice b 2 (n - 128))

/-- The leaf of a chain of DER certificates: the first. -/
def leafCert (certs : List Byte) : List Byte := certs.take (derSize certs)

/-- Whether certificates carry the leaf that OTP names (R429, R440). -/
def leafMatches (certs : List Byte) : Bool := sha384 (leafCert certs) == Config.certHash

end Sys2Proof

namespace Sys2Proof.Machine
open Sys2Proof

/-! ## Slots and levels -/

/-- The directory entry of a slot. -/
def Boot.slotEnt (b : Boot) (s : Nat) : SlotEnt := if s = 0 then b.slot0 else b.slot1

/-- The image of the running slot. -/
def Boot.running (b : Boot) : Option Image := (b.slotEnt b.slot).image

/-- The image of the CONFIRMED slot. -/
def Boot.confirmed (b : Boot) : Option Image := if b.slot0.state = 3 then b.slot0.image else if b.slot1.state = 3 then b.slot1.image else none

/-- The lowest level that the running firmware can run at. The firmware of this revision of the manual has level 1 only (R286). -/
def Dev.levelMin (d : Dev) : Nat := (d.boot.running.map Image.levelMin).getD 1

/-- The level_max that the running firmware reports: from a TRIAL slot no more than that of the CONFIRMED one (R437). -/
def Dev.levelMax (d : Dev) : Nat :=
  let own := (d.boot.running.map Image.levelMax).getD 1
  if d.boot.trial then min own ((d.boot.confirmed.map Image.levelMax).getD own) else own

/-- An entry of the slot directory (R422). -/
def SlotEnt.bytes (e : SlotEnt) : List Byte :=
  leBytes 1 e.state ++ leBytes 1 e.trialBoots ++ zeros 2 ++ wordBytes e.fwVersion ++ leBytes 4 e.svn ++ leBytes 4 e.length ++ beBytes e.digest

/-- A copy of the slot directory (R422). -/
def Boot.dirBytes (b : Boot) : List Byte :=
  let l : List Byte := [0x4F, 0x43, 0x53, 0x44] ++ leBytes 2 1 ++ zeros 2 ++ leBytes 8 b.dirSeq ++ b.slot0.bytes ++ b.slot1.bytes ++ zeros 3948
  l ++ wordBytes (crc32c l)

end Sys2Proof.Machine
end

