-- ==== Sys2Proof/Machine/Keys.lean ====
section
/-! DEFINITION. Cipher pages, the service lanes, HMAC key slots and measurement registers (R130 to R160), and a
message to the partner under page 0 (R280). -/

namespace Sys2Proof.Machine
open Sys2Proof

/-- Page `p` (R130); one that nothing has touched is as at reset. -/
def Dev.page (d : Dev) (p : Nat) : Page := tgetD d.ciph.pages (Page.reset p) p

/-- Change page `p`. -/
def setPage (p : Nat) (v : Page) (d : Dev) : Dev := onCiph (fun c => { c with pages := tput c.pages p v }) d

/-- Pages 0 to 47 are class S (R130). -/
def classS (p : Nat) : Bool := decide (p < 48)

/-- The key check value: the first 4 bytes of AES-256 of 16 zero bytes (R135). -/
def kcvOf (key : List Byte) : W32 := BitVec.ofNat 32 (leNat ((beBytes (aes256 key 0)).take 4))

/-- The dedup check value: the first 4 bytes of HMAC-SHA-256 over 32 zero bytes (R218). -/
def dkcvOf (key : List Byte) : W32 := BitVec.ofNat 32 (leNat ((beBytes (hmac256 key (zeros 32))).take 4))

/-- The last counter value, never used (R138). -/
def ctrEnd : W64 := 0xFFFFFFFFFFFFFFFF

/-- From here on CIPH_NONCE_LOW is logged (R138). -/
def ctrLow : W64 := 0xFFFFFF0000000000

/-- An encryption takes one counter value of page `p` (R137, R138): the counter advances, the warning is logged once for
each key loaded, and the page is EXHAUSTED at the last value. -/
def takeCounter (p : Nat) (d : Dev) : Dev :=
  let pg := d.page p
  let c := pg.ctr + 1
  let low := ctrLow.ule c && !pg.warned
  let d1 := setPage p { pg with ctr := c, warned := pg.warned || low,
                                state := if c = ctrEnd then .exhausted else pg.state } d
  if low then logEvent 0x0701 (BitVec.ofNat 32 p) [] d1 else d1

/-! ## Jobs of the service lanes: how one ends (R137, R147, R153) -/

/-- A channel's job has ended with a status: what it leads to follows (R147, R149). -/
def noteJob (j : CJob) (status : Nat) (d : Dev) : Dev :=
  if j.chan.isSome then onCiph (fun c => { c with ended := c.ended ++ [(j, status)] }) d else d

/-- The bytes of an encrypted message (R137, R280, R342). -/
def wireOf (pg : Page) (j : CJob) : Out :=
  let iv := msgIv pg.salt j.ctr
  .wire j.qp iv (sealMsg pg.key iv (j.head ++ wordBytes j.ctr ++ j.tail) j.body)

/-- A job ends: one that was to stop ends with its status; a message leaves; a check has run. -/
def endJob (j : CJob) (d : Dev) : Dev :=
  let d1 := if j.long && j.started then setPage j.page { d.page j.page with ctxBusy := false } d else d
  match j.aborting, j.msg with
  | some st, _ => noteJob j st d1
  | none, some o => emits [wireOf (d.page j.page) j, o] d1
  | none, none => noteJob j 0 d1

/-! ## Page operations (R131 to R138, R499) -/

/-- The effect of KEY_LOAD and PAGE_REKEY on a page (R133): keyed, READY, its KCV published. -/
def loadKey (p : Nat) (key : List Byte) (salt : W32) (ctr : W64) (d : Dev) : Dev :=
  let pg := d.page p
  let low := classS p && ctrLow.ule ctr
  let d1 := setPage p { pg with state := .ready, key := key, salt := if classS p then salt else 0,
                                ctr := if classS p then ctr else 0, kcv := kcvOf key, warned := low, rekey := none } d
  if low then logEvent 0x0701 (BitVec.ofNat 32 p) [] d1 else d1

/-- A page zeroised and ASSIGNED (R133, PAGE_ERASE). -/
def erasePage (p : Nat) (d : Dev) : Dev :=
  setPage p { Page.reset p with state := .assigned, domain := (d.page p).domain } d

/-- An operation on page `p`: it starts once the operation on the page before it has ended (R256). -/
def pageOp (op : Byte) (h : Hdr) (p : Nat) (valid : Bool) (body : Dev → Dev) (d : Dev) : Dev :=
  descriptorWhen ((d.page p).erase.isNone && (d.page p).rekey.isNone) op [7] h (decide (p < 64) && valid) body d

/-- PAGE_ASSIGN (R131, R499). -/
def doPageAssign (h : Hdr) (p domain : Nat) (d : Dev) : Dev :=
  let pg := d.page p
  if pg.state = .free then
    complete h 0x08 0 0 0 (setPage p { Page.reset p with state := .assigned, domain := domain } d)
  else complete h 0x08 (if pg.domain = domain then 2 else 0x0E) 0 0 d

/-- KEY_LOAD (R133, R138, R499). -/
def doKeyLoad (h : Hdr) (p : Nat) (key : List Byte) (salt : W32) (ctr : W64) (d : Dev) : Dev :=
  if p < 2 then complete h 0x09 0x0E 0 0 d
  else if (d.page p).state ≠ .assigned then complete h 0x09 8 0 0 d
  else if (classS p && ctr == ctrEnd) || (!classS p && (salt != 0 || ctr != 0)) then complete h 0x09 0x10 0 0 d
  else complete h 0x09 0 ((kcvOf key).setWidth 64) 0 (loadKey p key salt ctr d)

/-- Whether a message, or a job submitted before what waits on page `p`, uses the page (R153). -/
def Dev.pageInUse (d : Dev) (p : Nat) : Bool :=
  (d.page p).ctxBusy || d.ciph.jobs.any (fun j => j.page == p && !j.later) ||
  [d.ciph.lane0, d.ciph.lane1].any (fun j => (j.map (·.page == p)).getD false)

/-- PAGE_REKEY (R133, R146, R153): waits while jobs submitted before it are not done. -/
def doPageRekey (h : Hdr) (p : Nat) (key : List Byte) (salt : W32) (ctr : W64) (d : Dev) : Dev :=
  let pg := d.page p
  if p < 2 then complete h 0x0A 0x0E 0 0 d
  else if !classS p || (pg.state ≠ .ready && pg.state ≠ .exhausted) then complete h 0x0A 8 0 0 d
  else if ctr = ctrEnd then complete h 0x0A 0x10 0 0 d
  else if d.pageInUse p then setPage p { pg with rekey := some (h, key, salt, ctr) } d
  else complete h 0x0A 0 ((kcvOf key).setWidth 64) 0 (loadKey p key salt ctr d)

/-- Jobs that a test names stop (R153): one that runs on a lane ends with `status` at its next segment boundary, every other at once. -/
def stopJobs (sel : CJob → Bool) (status : Nat) (d : Dev) : Dev :=
  let mark (j : CJob) : CJob := if sel j then { j with aborting := some status } else j
  let gone := d.ciph.jobs.filter sel
  let d1 := onCiph (fun c => { c with jobs := c.jobs.filter (fun j => !sel j), lane0 := c.lane0.map mark, lane1 := c.lane1.map mark }) d
  each (fun j x => endJob { j with aborting := some status } x) gone d1

/-- A page is erased once nothing uses it (R153), with the entry of its PAGE_ERASE, where it has one. -/
def eraseWhenIdle (h : Option Hdr) (p : Nat) (d : Dev) : Dev :=
  let d1 := stopJobs (fun j => j.page == p) 1 d
  if d1.pageInUse p then setPage p { d1.page p with erase := some h } d1
  else
    match h with
    | some x => complete x 0x0B 0 0 0 (erasePage p d1)
    | none => erasePage p d1

/-- PAGE_ERASE (R153, R499): jobs that use the page end with ABORTED; the page is erased once none does. -/
def doPageErase (h : Hdr) (p : Nat) (d : Dev) : Dev :=
  let pg := d.page p
  if p < 2 then complete h 0x0B 0x0E 0 0 d
  else if pg.state ≠ .ready && pg.state ≠ .exhausted then complete h 0x0B 8 0 0 d
  else eraseWhenIdle (some h) p d

/-- PAGE_RELEASE (R133, R499). -/
def doPageRelease (h : Hdr) (p : Nat) (d : Dev) : Dev :=
  if p < 2 then complete h 0x0C 0x0E 0 0 d
  else if (d.page p).state ≠ .assigned then complete h 0x0C 8 0 0 d
  else complete h 0x0C 0 0 0 (setPage p (Page.reset p) d)

/-! ## HMAC key slots (R157) -/

/-- HKEY_LOAD: a free slot, or one already bound to the domain named. -/
def doHkeyLoad (h : Hdr) (slot domain : Nat) (key : List Byte) (d : Dev) : Dev :=
  match tget d.ciph.hkeys slot with
  | some k =>
    if k.domain = domain then
      complete h 0x0D 0 0 0 (onCiph (fun c => { c with hkeys := tput c.hkeys slot { k with key := key } }) d)
    else complete h 0x0D 0x0E 0 0 d
  | none =>
    complete h 0x0D 0 0 0 (onCiph (fun c => { c with hkeys := tput c.hkeys slot { domain := domain, key := key } }) d)

/-- The slot that holds the dedup key of a take's volume: the one that its open named, or another (R157, R218). -/
def Dev.keySlot (d : Dev) (t : Take) : Option Nat :=
  let good (k : HKey) : Bool := !k.key.isEmpty && d.cat.volumes.any (fun v => v.id == t.volume && dkcvOf k.key == v.dkcv)
  if (tget d.ciph.hkeys t.hkey).any good then some t.hkey else (d.ciph.hkeys.find? (fun e => good e.2)).map (·.1)

/-- Whether a take that is OPEN or CLOSING names a key slot (R157). -/
def Dev.hkeyHeld (d : Dev) (slot : Nat) : Bool :=
  d.cat.takes.any (fun t => (d.keySlot t).getD t.hkey == slot && (t.state == .open_ || t.state == .closing))

/-- HKEY_ERASE (R157). -/
def doHkeyErase (h : Hdr) (slot : Nat) (d : Dev) : Dev :=
  match tget d.ciph.hkeys slot with
  | none => complete h 0x0E 2 0 0 d
  | some _ =>
    if d.hkeyHeld slot then complete h 0x0E 8 0 0 d
    else complete h 0x0E 0 0 0 (onCiph (fun c => { c with hkeys := tdel c.hkeys slot }) d)

/-! ## Measurement registers (R158 to R160) -/

/-- Register `n`; zero where nothing has extended it. -/
def Dev.mr (d : Dev) (n : Nat) : W384 := tgetD d.dgst.mr 0 n

/-- new = SHA-384(old ‖ value) (R158). -/
def extendValue (old : W384) (value : List Byte) : W384 := sha384 (beBytes old ++ value)

/-- Extend register `n`. -/
def extendMr (n : Nat) (value : List Byte) (d : Dev) : Dev :=
  { d with dgst := { d.dgst with mr := tput d.dgst.mr n (extendValue (d.mr n) value) } }

/-- MR_EXTEND (R159): registers 6 and 7 alone are the host's. -/
def doMrExtend (h : Hdr) (reg : Nat) (value : W384) (d : Dev) : Dev :=
  if reg = 6 ∨ reg = 7 then complete h 0x0F 0 0 0 (extendMr reg (beBytes value) d)
  else complete h 0x0F 0x0E 0 0 d

/-- The lowest free seal register from 8 to 31 (R160). -/
def Dev.freeMr (d : Dev) : Option Nat :=
  ((List.range 24).map (· + 8)).find? (fun n => (tget d.dgst.owner n).isNone)

/-- Assign register `n` to a seal chain: it is set to zero (R160). -/
def assignMr (n volume takeId part : Nat) (d : Dev) : Dev :=
  { d with dgst := { d.dgst with mr := tput d.dgst.mr n 0, owner := tput d.dgst.owner n (volume, takeId, part) } }

/-- Free a seal register (R160). -/
def freeMr (n : Nat) (d : Dev) : Dev := { d with dgst := { d.dgst with owner := tdel d.dgst.owner n } }

/-- The lowest free general context, 8 to 15 (R155). -/
def Dev.openCtx (d : Dev) : Option Nat := ((List.range 8).map (· + 8)).find? (fun n => (tget d.dgst.ctx n).isNone)

/-- The context that a channel's request takes: none where GEN_EN is clear (R169). -/
def Dev.freeCtx (d : Dev) : Option Nat := if d.regs.dgstCfg.getLsbD 0 then d.openCtx else none

/-- A digest of the kinds that READ and COPY name (R267): SHA-256, SHA-384, HMAC with either. HMAC-SHA-384 is
`hmac384`. -/
def digestBytes (kind : Nat) (key data : List Byte) : List Byte :=
  if kind = 1 then beBytes (sha256 data)
  else if kind = 2 then beBytes (sha384 data)
  else if kind = 3 then beBytes (hmac256 key data)
  else if kind = 4 then beBytes (hmac384 key data)
  else []

/-- Bind a general context (R156). -/
def takeCtx (n : Nat) (b : Snoop) (d : Dev) : Dev := { d with dgst := { d.dgst with ctx := tput d.dgst.ctx n b } }

/-- Release the general contexts of a channel (R156). -/
def dropCtx (chan : Nat) (d : Dev) : Dev :=
  { d with dgst := { d.dgst with ctx := d.dgst.ctx.filter (fun e => e.2.chan != chan) } }

/-- The messages of `n` bytes that a stream holds whole, and what is left of it (R156). Fuel: messages. -/
def cutMessages (n : Nat) : Nat → List Byte → List (List Byte) × List Byte
  | 0, l => ([], l)
  | k + 1, l =>
    if l.length < n then ([], l)
    else
      let r := cutMessages n k (l.drop n)
      (l.take n :: r.1, r.2)

/-- The result of a message goes to its binding's destination: for a measurement register, one more extend (R156). -/
def deliverDigest (b : Snoop) (message : List Byte) (d : Dev) : Dev :=
  let v := digestBytes b.kind b.key message
  match b.dest with
  | .host a => hostData a v d
  | .register n => extendMr n v d
  | .firmware => d

/-- Bytes of a channel's stream pass its context: each message of the declared length that they end has its result, and the bytes that
follow start a new message with the same binding (R156). -/
def snoop (chan : Nat) (bytes : List Byte) (d : Dev) : Dev :=
  match d.dgst.ctx.find? (fun e => e.2.chan == chan) with
  | none => d
  | some (n, b) =>
    match b.declared with
    | none => takeCtx n { b with seen := b.seen ++ bytes } d
    | some m =>
      let r := cutMessages m (if m = 0 then 0 else (b.seen.length + bytes.length) / m + 1) (b.seen ++ bytes)
      takeCtx n { b with seen := r.2 } (each (deliverDigest b) r.1 d)

/-- The stream of a channel ends: a message whose length the stream declares has its result. -/
def endSnoop (chan : Nat) (d : Dev) : Dev :=
  match d.dgst.ctx.find? (fun e => e.2.chan == chan) with
  | some (_, b) => if b.declared.isNone then deliverDigest b b.seen d else d
  | none => d

/-! ## Service lanes (R149 to R153) -/

/-- Pages 2 to 63 in round-robin order from `next` on (R152). -/
def rrOrder (next : Nat) : List Nat := (List.range 62).map (fun i => (next - 2 + i) % 62 + 2)

/-- Whether a waiting job may run its next segment: a second multi-segment message of a page waits until the first has ended (R151), and
a job submitted after a rekey or an erasure waits for that (R153). -/
def ready (d : Dev) (j : CJob) : Bool := j.started || (!j.later && (!j.long || !(d.page j.page).ctxBusy))

/-- The first job of a list that may run on page `p`. -/
def jobOf (d : Dev) (p : Nat) : Option CJob := d.ciph.jobs.find? (fun j => j.page == p && ready d j)

/-- The job whose segment a service lane runs next (R152): pages 0 and 1 first, unless its last segment was theirs and
another is ready; then round robin in page order. -/
def pickJob (d : Dev) (lastTango : Bool) : Option CJob :=
  let tango := (jobOf d 0).orElse (fun _ => jobOf d 1)
  let other := (rrOrder d.ciph.rrNext).findSome? (jobOf d)
  if lastTango then other.orElse (fun _ => tango) else tango.orElse (fun _ => other)

/-- Put a job, or none, on a lane. -/
def setLane (lane : Fin 2) (j : Option CJob) (c : Ciph) : Ciph :=
  if lane = 0 then { c with lane0 := j } else { c with lane1 := j }

/-- The job on a lane. -/
def laneJob (lane : Fin 2) (c : Ciph) : Option CJob := if lane = 0 then c.lane0 else c.lane1

/-- Whether a lane's last segment was of page 0 or 1. -/
def lastTango (lane : Fin 2) (c : Ciph) : Bool := if lane = 0 then c.tango0 else c.tango1

/-- CIPH_EN of CIPH_CFG (R166). -/
def Dev.ciphOn (d : Dev) : Bool := d.regs.ciphCfg.getLsbD 0

/-- Why a job does not run: BUSY with CIPH_EN clear (R166); NOT_OWNER on a page that is FREE or of another domain than its channel's,
BUSY on one that is ASSIGNED (R132); NONCE_EXHAUSTED for an encryption on an EXHAUSTED page (R138). -/
def jobRefused (d : Dev) (j : CJob) : Option Nat :=
  let pg := d.page j.page
  let dom := match j.chan with
    | some c => ((tget d.hif.chans c).map (·.domain)).getD 64
    | none => 0
  if !d.ciphOn then some 8
  else if pg.state = .free ∨ pg.domain ≠ dom then some 0x0E
  else if pg.state = .assigned then some 8
  else if j.encrypt ∧ pg.state = .exhausted then some 7
  else none

/-- A job's first segment starts: an encryption under a class S page takes its counter value; a longer message takes the page's context
slot (R137, R151). -/
def startJob (j : CJob) (d : Dev) : CJob × Dev :=
  if j.started then (j, d)
  else
    let counts := j.encrypt && classS j.page
    let d1 := if counts then takeCounter j.page d else d
    ({ j with started := true, ctr := if counts then (d.page j.page).ctr else 0 },
      if j.long then setPage j.page { d1.page j.page with ctxBusy := true } d1 else d1)

/-- What waited on a page takes place once nothing uses it: an erasure or a rekey (R153), and the jobs submitted after it may run. -/
def pageIdle (p : Nat) (d : Dev) : Dev :=
  if d.pageInUse p then d
  else
    let free (x : Dev) : Dev := onCiph (fun c => { c with jobs := c.jobs.map (fun j => if j.page = p then { j with later := false } else j) }) x
    match (d.page p).erase, (d.page p).rekey with
    | some (some h), _ => complete h 0x0B 0 0 0 (free (erasePage p d))
    | some none, _ => free (erasePage p d)
    | none, some (h, key, salt, ctr) => complete h 0x0A 0 ((kcvOf key).setWidth 64) 0 (free (loadKey p key salt ctr d))
    | none, none => d

/-- A lane that is free picks its next segment (R152); a job that is refused ends, and so does a message of one segment, and the lane
picks again: a segment's time on a free lane is none of the model's (notes/assumptions/68.md). Fuel: jobs. -/
def laneNext (lane : Fin 2) : Nat → Dev → Dev
  | 0, d => onCiph (setLane lane none) d
  | n + 1, d =>
    match pickJob d (lastTango lane d.ciph) with
    | none => onCiph (setLane lane none) d
    | some j =>
      let d1 := onCiph (fun c => { c with jobs := c.jobs.erase j }) d
      match if j.started then none else jobRefused d1 j with
      | some st => laneNext lane n (pageIdle j.page (noteJob j st d1))
      | none =>
        let x := startJob j d1
        let tg := decide (j.page < 2)
        let d2 := onCiph (fun c => { c with
          rrNext := if tg then c.rrNext else if j.page ≥ 63 then 2 else j.page + 1
          tango0 := if lane = 0 then tg else c.tango0
          tango1 := if lane = 1 then tg else c.tango1 }) x.2
        if j.timed then onCiph (setLane lane (some x.1)) d2 else laneNext lane n (pageIdle j.page (endJob x.1 d2))

/-- Lanes that are free pick what is ready. -/
def kickLanes (d : Dev) : Dev :=
  let go (lane : Fin 2) (x : Dev) : Dev := if (laneJob lane x.ciph).isNone then laneNext lane (x.ciph.jobs.length + 1) x else x
  go 1 (go 0 d)

/-- A job enters the service lanes (R149), and runs where a lane is free. One beyond the limits of R140 ends with LENGTH_MISMATCH. -/
def submitJob (j : CJob) (d : Dev) : Dev :=
  let pg := d.page j.page
  if 2 ^ 32 < j.body.length ∨ 65536 < j.head.length + 8 + j.tail.length then noteJob j 0x0D d
  else kickLanes (onCiph (fun c => { c with jobs := c.jobs ++ [{ j with later := pg.erase.isSome || pg.rekey.isSome }] }) d)

/-- CIPHER_SEGMENT_END (R152): the lane's segment ends, its job ends or waits for its next segment, and the lane picks
again. A job that was to stop ends here with its status (R153). -/
def doSegmentEnd (lane : Fin 2) (d : Dev) : Dev :=
  match laneJob lane d.ciph with
  | none => d
  | some j =>
    let d1 := onCiph (setLane lane none) d
    kickLanes (if j.aborting.isSome || decide (j.segs ≤ 1) then pageIdle j.page (endJob j d1)
      else onCiph (fun c => { c with jobs := { j with segs := j.segs - 1 } :: c.jobs }) d1)

/-! ## Messages under page 0 (R278 to R281) -/

/-- The role that this head believes the partner to hold (R281): the groups that its table gives it, and whether it is running rather than
resynchronising. -/
def Dev.farRole (d : Dev) : Byte :=
  let m := ((List.range 4).map (fun g => if d.tango.owners.list.getD g 3 = (if d.glb.headB then 0 else 1) then 2 ^ g else 0)).sum
  BitVec.ofNat 8 (m + 16 * bit (((d.tango.beat.map (·.state)).getD ((d.tango.partner.map (·.state)).getD 0)) != 1))

/-- The job that encrypts a message to the partner with sequence number `seq`. -/
def Dev.tangoJob (d : Dev) (qp seq : Nat) (o : Out) : Option CJob :=
  (tangoMsg o).map (fun m =>
    { page := 0, segs := 1, long := false, timed := false, started := false, encrypt := true, chan := none, handle := 0, qp := 0x100 + qp
      head := tangoHead m.1 d.tango.cl (bit d.glb.headB) d.farRole m.2.length (msgEpoch d.tango.epoch o) seq
      tail := [], body := m.2, ctr := 0, msg := some o, entry := 0, later := false, aborting := none })

/-- Send a message to the partner on queue pair `qp`: 0 CTRL, 1 BEAT, 2 MIRROR, 3 CKPT, 4 HEAL (R278 to R281): nothing without a session
or a READY page 0; the message takes the queue pair's next seq, and the next counter of page 0 as it starts on a service lane. -/
def tangoSend (qp : Nat) (o : Out) (d : Dev) : Dev :=
  if d.tango.session && (d.page 0).state == .ready then
    match d.tangoJob qp (tgetD d.tango.seqs 0 qp) o with
    | some j => submitJob j (onTango (fun t => { t with seqs := tput t.seqs qp (next64 (tgetD t.seqs 0 qp)) }) d)
    | none => d
  else d

/-- A message that leaves at once, ahead of the lanes: LEAVING, which hardware announces in a fatal stop (R282). -/
def tangoNow (qp : Nat) (o : Out) (d : Dev) : Dev :=
  if d.tango.session && (d.page 0).state == .ready then
    match d.tangoJob qp (tgetD d.tango.seqs 0 qp) o with
    | some j =>
      let x := startJob j (onTango (fun t => { t with seqs := tput t.seqs qp (next64 (tgetD t.seqs 0 qp)) }) d)
      endJob x.1 x.2
    | none => d
  else d

/-! ## The DRBG instances (R141 to R143) -/

/-- Generate requests after which an instance is reseeded: RESEED_LOG2 of CIPH_CFG, values above 0x14 as 0x14 (R166). -/
def Dev.reseedAfter (d : Dev) : Nat := 2 ^ min 0x14 (bits d.regs.ciphCfg.toNat 12 8)

/-- An instance is reseeded (R141): counted; its generate requests count from 0 again. -/
def doReseed (inst : Nat) (d : Dev) : Dev :=
  onCiph (fun c => { c with reseeds := c.reseeds + 1, drbgReq := tput c.drbgReq inst 0 }) d

/-- One generate request of a DRBG instance; the one that reaches the number set reseeds it (R141). -/
def drbgDraw (inst : Nat) (d : Dev) : Dev :=
  let n := tgetD d.ciph.drbgReq 0 inst + 1
  drawn (if d.reseedAfter ≤ n then doReseed inst d else onCiph (fun c => { c with drbgReq := tput c.drbgReq inst n }) d)

/-- Zeroise every page and key slot (R136): bindings stay, keys go, READY and EXHAUSTED pages are ASSIGNED. -/
def zeroise (d : Dev) : Dev :=
  onCiph (fun c => { c with
    pages := c.pages.map (fun e => (e.1, { Page.reset e.1 with
      state := if e.2.state = .free then .free else .assigned, domain := e.2.domain })),
    hkeys := c.hkeys.map (fun e => (e.1, { e.2 with key := [] })), jobs := [], ended := [], lane0 := none, lane1 := none }) d

end Sys2Proof.Machine
end

