-- ==== Sys2Proof/Machine/Parity.lean ====
section
/-! DEFINITION. P and Q over GF(2^8) with polynomial 0x11D (R182), and the reconstruction of one or two erased members. -/

namespace Sys2Proof.Machine
open Sys2Proof

/-- Multiplication by g = 0x02. -/
def gfDouble (a : Byte) : Byte := if a.getLsbD 7 then (a <<< 1) ^^^ 0x1D else a <<< 1

/-- Multiplication in GF(2^8), over the low `n` bits of `b`. -/
def gfMulBits : Nat → Byte → Byte → Byte
  | 0, _, _ => 0
  | n + 1, a, b => (if b.getLsbD 0 then a else 0) ^^^ gfMulBits n (gfDouble a) (b >>> 1)

/-- Multiplication in GF(2^8) (R182). -/
def gfMul (a b : Byte) : Byte := gfMulBits 8 a b

/-- A power in GF(2^8). -/
def gfPow (a : Byte) : Nat → Byte
  | 0 => 1
  | n + 1 => gfMul a (gfPow a n)

/-- The inverse of a nonzero element: its 254th power. -/
def gfInv (a : Byte) : Byte := gfPow a 254

/-- g^k. -/
def gfG (k : Nat) : Byte := gfPow 2 k

/-- A strip multiplied by a constant. -/
def gfScale (c : Byte) (l : List Byte) : List Byte := l.map (gfMul c)

/-- P of data strips of `n` bytes: their sum (R182). -/
def parityP (n : Nat) (data : List (List Byte)) : List Byte := data.foldl xorBytes (zeros n)

/-- Q from strip `k` on: the sum of g^k times strip k (R182). -/
def parityQFrom (n : Nat) : Nat → List (List Byte) → List Byte
  | _, [] => zeros n
  | k, x :: t => xorBytes (gfScale (gfG k) x) (parityQFrom n (k + 1) t)

/-- Q of data strips of `n` bytes. -/
def parityQ (n : Nat) (data : List (List Byte)) : List Byte := parityQFrom n 0 data

/-- The data strips with `v` at index `i`. -/
def setStrip (l : List (List Byte)) (i : Nat) (v : List Byte) : List (List Byte) := l.set i v

/-- Indices of the members that are erased. -/
def erasedOf {α : Type} (m : List (Option α)) : List Nat :=
  (List.range m.length).filter (fun i => ((m[i]?).map Option.isNone).getD false)

/-- The data strips, solved from the members of a stripe of `w` data strips of `n` bytes; erased ones taken as zero first. -/
def solveData (w n : Nat) (m : List (Option (List Byte))) : Option (List (List Byte)) :=
  let data := (m.take w).map (fun x => x.getD (zeros n))
  let p := (m[w]?).join
  let q := (m[w + 1]?).join
  let sp := parityP n data
  let sq := parityQ n data
  match erasedOf (m.take w) with
  | [] => some data
  | [i] =>
    match p, q with
    | some pv, _ => some (setStrip data i (xorBytes pv sp))
    | none, some qv => some (setStrip data i (gfScale (gfInv (gfG i)) (xorBytes qv sq)))
    | none, none => none
  | [i, j] =>
    match p, q with
    | some pv, some qv =>
      let a := xorBytes pv sp
      let b := xorBytes qv sq
      let di := gfScale (gfInv (gfG i ^^^ gfG j)) (xorBytes b (gfScale (gfG j) a))
      some (setStrip (setStrip data i di) j (xorBytes a di))
    | _, _ => none
  | _ => none

/-- All `w` + 2 members of a stripe from those that are left: none where three or more are erased (R182, R197). -/
def reconstruct (w n : Nat) (m : List (Option (List Byte))) : Option (List (List Byte)) :=
  if (erasedOf m).length > 2 then none
  else (solveData w n m).map (fun data =>
    data ++ [((m[w]?).join).getD (parityP n data), ((m[w + 1]?).join).getD (parityQ n data)])

/-- Whether P and Q agree with the data strips. -/
def parityHolds (w n : Nat) (m : List (List Byte)) : Bool :=
  m[w]? == some (parityP n (m.take w)) && m[w + 1]? == some (parityQ n (m.take w))

/-- What scrub finds in a stripe whose members all read (R198). -/
inductive ParityFinding where
  | ok | badP | badQ | badData (k : Nat) | inconsistent
deriving DecidableEq, Repr

/-- The data member that both syndromes point to, if one does: Sq = g^k Sp at every byte (R198). -/
def pointsTo (w : Nat) (sp sq : List Byte) : Option Nat :=
  (List.range w).find? (fun k => sq == gfScale (gfG k) sp)

/-- The finding of R198 on a stripe of `w` data strips of `n` bytes. -/
def scrubFinding (w n : Nat) (m : List (List Byte)) : ParityFinding :=
  let data := m.take w
  let sp := xorBytes ((m[w]?).getD []) (parityP n data)
  let sq := xorBytes ((m[w + 1]?).getD []) (parityQ n data)
  match allZero sp, allZero sq with
  | true, true => .ok
  | false, true => .badP
  | true, false => .badQ
  | false, false =>
    match pointsTo w sp sq with
    | some k => .badData k
    | none => .inconsistent

end Sys2Proof.Machine
end

