-- ==== Sys2Proof/Machine/Pools.lean ====
section
/-! DEFINITION. The buffer pool manager (R358 to R361) and the ledger's shadow of its pools (R81, R362). -/

namespace Sys2Proof.Machine
open Sys2Proof

/-- A pool that nothing has configured. -/
def Pool.none_ : Pool := { size := 0, count := 0, ceiling := 0, enabled := false, audited := false, opSeq := 0 }

/-- Pool `n`, taken modulo 32 (R361). -/
def Bpm.pool (b : Bpm) (n : Nat) : Pool := tgetD b.pools Pool.none_ (n % 32)

/-- Position of a pool's first bit in the one bitmap (R359): the counts of the pools before it. -/
def Bpm.firstBit (b : Bpm) (n : Nat) : Nat := ((b.pools.filter (fun e => decide (e.1 < n % 32))).map (fun e => e.2.count)).sum

/-- A pool's population: its bits that are set (R359). -/
def Bpm.population (b : Bpm) (n : Nat) : Nat :=
  (b.bits.filter (fun x => decide (b.firstBit n ≤ x ∧ x < b.firstBit n + (b.pool n).count))).length

/-- The lowest number from `cur` on that a rising list does not hold. -/
def lowestClear : List Nat → Nat → Nat
  | [], cur => cur
  | b :: t, cur => if b < cur then lowestClear t cur else if b = cur then lowestClear t (cur + 1) else cur

/-- A rising list with `x` added. -/
def setBit : List Nat → Nat → List Nat
  | [], x => [x]
  | b :: t, x => if x < b then x :: b :: t else if x = b then b :: t else b :: setBit t x

/-- Every operation that names a pool increments its operation sequence (R359). -/
def Bpm.counted (b : Bpm) (n : Nat) : Bpm :=
  { b with pools := tput b.pools (n % 32) { b.pool n with opSeq := (b.pool n).opSeq + 1 } }

/-- The bitmap position that FREE of index `i` names (R361). -/
def Bpm.position (b : Bpm) (n i : Nat) : Nat := (b.firstBit n + i) % 4194304

/-- ALLOC: the lowest clear bit below the ceiling is set, or POOL_EMPTY (R360). -/
def Bpm.alloc (b : Bpm) (n : Nat) : Bpm × Option Nat :=
  let i := lowestClear b.bits (b.firstBit n) - b.firstBit n
  if i < (b.pool n).ceiling then ({ b.counted n with bits := setBit b.bits (b.firstBit n + i) }, some i)
  else (b.counted n, none)

/-- FREE: the named bit clears, without any check (R361). -/
def Bpm.release (b : Bpm) (n i : Nat) : Bpm :=
  { b.counted n with bits := b.bits.filter (fun x => x != b.position n i) }

/-- The ledger's queue sees the response of its own operation (R362): a sequence other than the one it expects is a
gap, and its shadow population follows. -/
def Bpm.shadowed (b : Bpm) (n : Nat) (f : Nat → Nat) : Bpm :=
  match tget b.shadow (n % 32) with
  | none => b
  | some s =>
    let seq := (b.pool n).opSeq
    { b with shadow := tput b.shadow (n % 32) { pop := f s.pop, expect := seq + 1, gap := s.gap || seq != s.expect } }

/-- ALLOC by the ledger's queue (`led`) or by another requester. -/
def poolAlloc (n : Nat) (led : Bool) (d : Dev) : Dev × Option Nat :=
  let r := d.bpm.alloc n
  let b := if led then r.1.shadowed n (fun p => if r.2.isSome then p + 1 else p) else r.1
  ({ d with bpm := b }, r.2)

/-- FREE by the ledger's queue (`led`) or by another requester. -/
def poolFree (n i : Nat) (led : Bool) (d : Dev) : Dev :=
  let b := d.bpm.release n i
  { d with bpm := if led then b.shadowed n (fun p => p - 1) else b }

/-- The replay-side buffer that a channel's tile read holds is freed. -/
def freeTile (c : Nat) (d : Dev) : Dev :=
  match (tget d.hif.chans c).bind (·.rbuf) with
  | some b => onChan c (fun ch => { ch with rbuf := none }) (poolFree 2 b true d)
  | none => d

/-- The pool check of R80 on one pool: population and operation sequence agree with the shadow, and no gap is recorded. -/
def Bpm.poolOk (b : Bpm) (n : Nat) : Bool :=
  match tget b.shadow n with
  | none => true
  | some s => !s.gap && s.expect == (b.pool n).opSeq + 1 && s.pop == b.population n

/-- Move the ceilings of pools 0 and 1 to `c` stripe buffers (R358), where every buffer at or above it is free. -/
def setCeiling (c : Nat) (d : Dev) : Dev :=
  let b := d.bpm
  { d with bpm := { b with pools := tput (tput b.pools 0 { b.pool 0 with ceiling := c }) 1 { b.pool 1 with ceiling := c } } }

/-- Whether every buffer of pools 0 and 1 at or above index `c` is free (R358). -/
def Dev.freeAbove (d : Dev) (c : Nat) : Bool :=
  [0, 1].all (fun n => d.bpm.bits.all (fun x =>
    decide (x < d.bpm.firstBit n + c) || decide (d.bpm.firstBit n + (d.bpm.pool n).count ≤ x)))

/-- Base address of a pool (R354, R358): those of the replay and the replication receive buffers; where the stripe area's two pools
and the firmware's lie the spec does not say (a free value, notes/assumptions/77.md). -/
def poolBase (n : Nat) : Nat := if n = 2 then 0xD4800000 else if n = 3 then 0xD8800000 else Config.poolBase n

/-- Address of buffer `i` of a pool (R358). -/
def Bpm.bufferAt (b : Bpm) (n i : Nat) : Nat := poolBase (n % 32) + i * (2048 * 2 ^ (b.pool n).size)

/-- ALLOC of a pool: its response carries the index and the address, or POOL_EMPTY, and the operation sequence (R360). -/
def allocCmd (n : Nat) (led : Bool) (d : Dev) : Dev :=
  let r := poolAlloc n led d
  emit (.poolResp n r.2 (r.2.map (d.bpm.bufferAt n)) (r.1.bpm.population n) (r.1.bpm.pool n).opSeq) r.1

/-- FREE of a buffer: its response carries the operation sequence (R360). -/
def freeCmd (n i : Nat) (led : Bool) (d : Dev) : Dev :=
  let d1 := poolFree n i led d
  emit (.poolResp n none none (d1.bpm.population n) (d1.bpm.pool n).opSeq) d1

/-- POP: the population and the sequence of the last operation it includes; nothing changes (R360). -/
def popCmd (n : Nat) (d : Dev) : Dev := emit (.poolResp n none none (d.bpm.population n) (d.bpm.pool n).opSeq) d

/-- ALLOC (R360). -/
def execAlloc (pool : Nat) (ledger : Bool) (s : State) : Host.Outcome State Fault Refusal :=
  .next { s with dev := when s.dev.live (allocCmd pool ledger) s.dev }

/-- FREE (R361). -/
def execFree (pool index : Nat) (ledger : Bool) (s : State) : Host.Outcome State Fault Refusal :=
  .next { s with dev := when s.dev.live (freeCmd pool index ledger) s.dev }

/-- POP (R360). `ledger` says whose request it is, which changes nothing. -/
def execPop (pool : Nat) (_ledger : Bool) (s : State) : Host.Outcome State Fault Refusal :=
  .next { s with dev := when s.dev.live (popCmd pool) s.dev }

end Sys2Proof.Machine
end

