-- ==== Sys2Proof/Machine/Vault.lean ====
section
/-! DEFINITION. The vault's layout on its drives (R173 to R179), drive slots and remaps (R199, R200), the stripe journal
(R188 to R191) and the journal dump (R193, R194). -/

namespace Sys2Proof.Machine
open Sys2Proof

/-! ## Ownership -/

/-- This head's number: 0 A, 1 B (R17, R315). -/
def Dev.self (d : Dev) : Nat := bit d.glb.headB

/-- This head owns group `g` (R19). -/
def Dev.owns (d : Dev) (g : Fin 4) : Bool := d.tango.owners.at g == d.self

/-- Running alone: this head owns all four groups (R20). -/
def Dev.alone (d : Dev) : Bool := groupList.all d.owns

/-- The groups that this head owns. -/
def Dev.owned (d : Dev) : List (Fin 4) := groupList.filter d.owns

/-- With a session up and unlike fw_version at the two heads, RESHAPE, LAYOUT_LOAD and metadata migration are held (R309). -/
def Dev.versionHeld (d : Dev) : Bool :=
  d.tango.session && ((d.tango.partner.map (fun h => h.fwVersion != d.boot.fwVersion)).getD false)

/-- A layout of the vault by number. -/
def Dev.layout (d : Dev) (id : Nat) : Option LayoutRec := d.vault.layouts.find? (·.layoutId == id)

/-- Spare chunks that R175 gives a native layout of `dr` drives and `p` periods. -/
def spareChunks (dr p : Nat) : Nat :=
  if dr < 24 then 0 else (2 * (4608 / dr) * p + (dr - 2) - 1) / (dr - 2)

/-- Reference tag of a sector below LBA 32,768 (R179). -/
def sysTag (lba : Nat) : BitVec 48 := BitVec.ofNat 48 (0xC00000000000 + lba)

end Sys2Proof.Machine

namespace Sys2Proof
open Machine

/-! ## Layout geometry (R174 to R178, R207) -/

/-- Members of a stripe: 18, or 10 in a forerunner layout. -/
def LayoutRec.members (l : LayoutRec) : Nat := l.width + 2

/-- Data sectors of a stripe: 1,024, or 512 in a forerunner layout (R178, R207). -/
def LayoutRec.sectors (l : LayoutRec) : Nat := 64 * l.width

/-- The slot numbers of table row `r`. -/
def LayoutRec.row (l : LayoutRec) (r : Nat) : List Nat := (l.table.drop (r * l.members)).take l.members

/-- Chunks of each drive in one period: u, or u' of a forerunner layout (R174, R207). -/
def LayoutRec.perPeriod (l : LayoutRec) : Nat :=
  if l.kind = 1 then (2560 + l.drives - 1) / l.drives else 4608 / l.drives

/-- Rows before `r` that hold drive `dr` (R176). -/
def LayoutRec.rank (l : LayoutRec) (r dr : Nat) : Nat := ((List.range r).filter (fun q => (l.row q).contains dr)).length

/-- Slot and chunk of member `k` of stripe `s` (R176, R207). -/
def LayoutRec.place (l : LayoutRec) (s k : Nat) : Nat × Nat :=
  let row := s % 256
  let period := s / 256
  let dr := ((l.row row)[(k + period) % l.members]?).getD 0
  (dr, period * l.perPeriod + l.rank row dr)

/-- The slots that hold a stripe's members, member 0 first. -/
def LayoutRec.slots (l : LayoutRec) (s : Nat) : List Nat := (List.range l.members).map (fun k => (l.place s k).1)

/-- First LBA of a chunk. -/
def LayoutRec.chunkLba (l : LayoutRec) (chunk : Nat) : Nat := l.baseLba + chunk * 64

/-- Data chunks of each drive, u × P: the spare chunks are numbered on after them (R175). -/
def LayoutRec.dataChunks (l : LayoutRec) : Nat := l.perPeriod * l.periods

/-- Whether slot `dr` belongs to the layout. -/
def LayoutRec.has (l : LayoutRec) (dr : Nat) : Bool := l.driveMask.getLsbD dr

/-- Vault sector address of data sector `j` of stripe `s` (R178, R207). -/
def LayoutRec.vsa (l : LayoutRec) (s j : Nat) : Nat := s * l.sectors + j

/-- The location of the byte at data offset `off` of stripe `s` (R117). -/
def LayoutRec.location (l : LayoutRec) (s off : Nat) : Nat := l.vsa s (off / 4096) * 64 + off % 4096 / 64

/-- Stripe and data offset of a location. -/
def LayoutRec.ofLocation (l : LayoutRec) (loc : Nat) : Nat × Nat :=
  let v := loc / 64
  (v / l.sectors, v % l.sectors * 4096 + loc % 64 * 64)

/-- First reference tag of member `k` of stripe `s` (R179, R207). -/
def LayoutRec.refTag (l : LayoutRec) (s k : Nat) : BitVec 48 :=
  if k < l.width then BitVec.ofNat 48 (l.vsa s (64 * k))
  else BitVec.ofNat 48 (0x800000000000 + 128 * s + 64 * (k - l.width))

end Sys2Proof

namespace Sys2Proof.Machine
open Sys2Proof

/-! ## Drives and remaps (R199, R200) -/

/-- A slot with no drive. -/
def Drive.none_ : Drive :=
  { state := .absent, portOn := false, rateGT := 0, lanes := 0, linked := false, retrains := 0, registered := false,
    partnerReg := false, lagTimes := [], piErrors := 0, held := [], nsSectors := 0, maintMs := 0, maintBytes := 0 }

/-- The drive of a slot. A suspect one that has not lagged for a second is healthy again (R199). -/
def Dev.drive (d : Dev) (slot : Nat) : Drive :=
  let x := tgetD d.vault.drives Drive.none_ slot
  if x.state == .suspect && x.lagTimes.all (fun t => decide (t + 1000000000 ≤ d.now)) then { x with state := .healthy } else x

/-- Change the drive of a slot. -/
def onDrive (slot : Nat) (f : Drive → Drive) (d : Dev) : Dev :=
  onVault (fun v => { v with drives := tput v.drives slot (f (tgetD v.drives Drive.none_ slot)) }) d

/-- Healthy or suspect, at a port that does not count as having no drive: served (R172, R199). -/
def Dev.serves (d : Dev) (slot : Nat) : Bool :=
  ((d.drive slot).state == .healthy || (d.drive slot).state == .suspect) && (d.drive slot).linked

/-- Whether a drive is failed. -/
def Dev.isFailed (d : Dev) (slot : Nat) : Bool := (d.drive slot).state == .failed

/-- Whether nothing can be read of a slot: no drive, a failed one, or a port that is treated as having none (R172, R199). -/
def Dev.gone (d : Dev) (slot : Nat) : Bool :=
  (d.drive slot).state == .failed || (d.drive slot).state == .absent || !(d.drive slot).linked

/-- The remap of a chunk, where one stands. -/
def Dev.remapOf (d : Dev) (layout slot chunk : Nat) : Option Remap :=
  d.vault.remaps.find? (fun r => r.layout == layout && r.failed == slot && r.chunk == chunk)

/-- The new home of an overlap chunk of a moving-boundary reshape (R208, step 5). -/
def Dev.relocOf (d : Dev) (layout slot chunk : Nat) : Option Remap :=
  (tget d.vault.moving layout).bind (fun m => m.relocs.find? (fun r => r.failed == slot && r.chunk == chunk))

/-- Slot and chunk where a member now lies, following its remap or its relocation (R197, R200, R208). -/
def Dev.memberChunk (d : Dev) (l : LayoutRec) (s k : Nat) : Nat × Nat :=
  let p := l.place s k
  match (d.remapOf l.layoutId p.1 p.2).orElse (fun _ => d.relocOf l.layoutId p.1 p.2) with
  | some r => (r.spare, l.dataChunks + r.spareChunk)
  | none => p

/-- Slot and first LBA where a member now lies. -/
def Dev.memberAt (d : Dev) (l : LayoutRec) (s k : Nat) : Nat × Nat :=
  let c := d.memberChunk l s k
  (c.1, l.chunkLba c.2)

/-- Whether a chunk of a drive that is being replaced has not been copied back yet (R203, R204). -/
def Dev.uncopied (d : Dev) (layout : Nat) (p : Nat × Nat) : Bool :=
  ((tget d.vault.replaces p.1).map (fun r => r.left.contains (layout, p.2))).getD false

/-- Whether a member is lost to its drive: nothing of it can be read (R197, R204). -/
def Dev.erased (d : Dev) (l : LayoutRec) (s k : Nat) : Bool :=
  let p := d.memberChunk l s k
  d.gone p.1 || d.uncopied l.layoutId p

/-- Spare chunks of a drive that a remap of the layout, a relocated chunk or the backup of a reshape batch takes (R200, R208). -/
def Dev.usedSpares (d : Dev) (l : LayoutRec) (slot : Nat) : List Nat :=
  let m := tget d.vault.moving l.layoutId
  let batch := match m.bind (·.batch) with
    | some b => (List.range b.rows).map (b.first + ·)
    | none => []
  ((d.vault.remaps.filter (fun r => r.layout == l.layoutId && r.spare == slot)) ++
    ((m.map (·.relocs)).getD []).filter (fun r => r.spare == slot)).map (·.spareChunk) ++ batch

/-- The forerunner layout that a native one shares its drives and its area with, until it is converted whole (R208). -/
def Dev.forerunnerOf (d : Dev) (l : LayoutRec) : Option LayoutRec :=
  d.vault.layouts.find? (fun m => m.kind == 1 && l.kind == 0 && m.baseLba == l.baseLba && m.driveMask == l.driveMask)

/-- The first spare chunk of a layout that lies past every chunk of a forerunner layout in the same area (DEDUCED,
notes/assumptions/61.md). -/
def Dev.spareFrom (d : Dev) (l : LayoutRec) : Nat :=
  match d.forerunnerOf l with
  | some f => f.dataChunks + f.spares - l.dataChunks
  | none => 0

/-- The lowest spare chunk of a drive that is not used (R200). -/
def Dev.freeSpare (d : Dev) (l : LayoutRec) (slot : Nat) : Option Nat :=
  let used := d.usedSpares l slot
  ((List.range (used.length + 1)).map (d.spareFrom l + ·)).find? (fun i => decide (i < l.spares) && !used.contains i)

/-- Chunks that do not lie where their table places them: remapped ones and those that a reshape has relocated. -/
def Dev.movedChunks (d : Dev) : List Remap := d.vault.remaps ++ d.vault.moving.flatMap (fun m => m.2.relocs)

/-- Spare chunks of a drive in use. -/
def Dev.spareCount (d : Dev) (l : LayoutRec) (slot : Nat) : Nat := (d.usedSpares l slot).length

/-- The first element of least measure. -/
def argMin (f : Nat → Nat) : List Nat → Option Nat
  | [] => none
  | x :: t =>
    match argMin f t with
    | none => some x
    | some y => if f y < f x then some y else some x

/-- The target drive of R200 for a member of stripe `s`: healthy, with a free spare chunk, holding no member of the
stripe, with the fewest spare chunks used, the lowest slot breaking a tie. -/
def Dev.remapTarget (d : Dev) (l : LayoutRec) (s : Nat) : Option (Nat × Nat) :=
  let busy := (List.range l.members).map (fun k => (d.memberAt l s k).1) ++ l.slots s
  let cand := (List.range 48).filter (fun t =>
    l.has t && (d.drive t).state == .healthy && (d.drive t).linked && !busy.contains t && (d.freeSpare l t).isSome)
  (argMin (d.spareCount l) cand).bind (fun t => (d.freeSpare l t).map (fun c => (t, c)))

/-! ## The journal (R187 to R191) -/

/-- Live bytes of the journal (R191, VLT_JOURNAL_LIVE). -/
def Vault.live (v : Vault) : Nat := (v.journal.map (fun r => 64 * r.units)).sum

/-- The bound of R184 and R191 on the live journal: 31 MiB. -/
def liveMax : Nat := 31 * 1048576

/-- Live bytes that the records to come of the open entries take: a retire record, a discard, and a REMAP for each member; and the
retire records of the partner's open entries, which a takeover appends (DEDUCED, notes/assumptions/55.md). -/
def Dev.journalDue (d : Dev) : Nat :=
  1280 * d.vault.opened.length + 64 * (d.tango.mirror.filter (fun r => r.body.code == 1)).length

/-- Whether records of `n` bytes more leave the live journal within its bound, with those that are due (R184, R191). -/
def Dev.journalRoom (d : Dev) (n : Nat) : Bool := decide (d.vault.live + d.journalDue + n ≤ liveMax)

/-- The bytes of a write, line by line, merged into the write buffer (R367): an entry of the line takes more bytes, or a
new entry is made. -/
def mergeByte (addr : Nat) (b : Byte) : List WEnt → List WEnt
  | [] => [{ line := addr / 128 * 128, data := [(addr % 128, b)] }]
  | e :: t => if e.line = addr / 128 * 128 then { e with data := tput e.data (addr % 128) b } :: t else e :: mergeByte addr b t

/-- A privileged write of bytes at consecutive addresses of the journal ring, which wraps (R188, R366). -/
def journalWrite : Nat → List Byte → List WEnt → List WEnt
  | _, [], w => w
  | pos, b :: t, w => journalWrite (pos + 1) t (mergeByte (0xC0000000 + pos % 67108864) b w)

/-- Append a record to the journal (R184, R188, R191) and send its mirror (R189); the group state travels with an open
record of frame data (R293). -/
def appendRec (source layout subject : Nat) (body : JBody) (st : Option GState) (d : Dev) : Dev :=
  let r : JRec :=
    { source := source, layout := layout, jseq := d.vault.jseq, epoch := d.tango.epoch, headB := d.glb.headB,
      subject := subject, body := body, units := body.units }
  let d1 := onVault (fun v => { v with journal := v.journal ++ [r], jseq := next64 v.jseq,
                                       jPos := (v.jPos + 64 * r.units) % 67108864 }) d
  let d2 := { d1 with mca := { d1.mca with wbuf := journalWrite d.vault.jPos (recBytes r) d1.mca.wbuf } }
  tangoSend 2 (.mirrorRec r st) d2

/-- Append DURABLE (R191, R234): earlier records are no longer live. -/
def appendDurable (j : Nat) (d : Dev) : Dev :=
  let d1 := appendRec 5 0 0 (.durable j) none d
  onVault (fun v => { v with durable := j, journal := v.journal.filter (fun r => upTo64 j r.jseq) }) d1

/-! ## NVMe commands (R171, R179) -/

/-- The guard of each sector of a write (R179). -/
def sectorGuards (data : List Byte) : List W64 := (List.range (data.length / 4096)).map (fun i => crc64 (slice data (i * 4096) 4096))

/-- A Write on a queue: 1 encode writes, 2 decode reads, 3 maintenance, 4 journal and system sectors (R171). -/
def Out.nvmeWrite (queue slot lba count : Nat) (refTag : BitVec 48) (appTag : W16) (data : List Byte) : Out :=
  .nvme slot queue (.write lba count false 7 refTag appTag data (sectorGuards data))

/-- A Read on a queue. One that names no volume gives the drive no application tag to compare (R507). -/
def Out.nvmeRead (queue slot lba count : Nat) (refTag : BitVec 48) (appTag : Option W16) : Out :=
  .nvme slot queue (.read lba count false (if appTag.isSome then 7 else 5) refTag appTag)

/-- The drive port at which a command leaves. -/
def Out.drivePort : Out → Option Nat
  | .nvme slot _ _ => some slot
  | _ => none

/-! ## The journal dump (R193, R194) -/

/-- Slots in the order of R193: from 0 for head A, from 24 for head B. -/
def dumpOrder (headB : Bool) : List Nat := (List.range 48).map (fun i => if headB then (i + 24) % 48 else i)

/-- The dump pair: the first two healthy drives in that order (R193). -/
def Dev.dumpPair (d : Dev) : Option (Nat × Nat) :=
  match (dumpOrder d.glb.headB).filter (fun s => (d.drive s).state == .healthy) with
  | a :: b :: _ => some (a, b)
  | _ => none

/-- First LBA of a head's journal strip (R173). -/
def stripLba (headB : Bool) : Nat := if headB then 8448 else 256

/-- The dump body: every live record (R194, step 4). -/
def dumpBody (d : Dev) : List Byte := (d.vault.journal.map recBytes).flatten

/-- The 256 KiB writes of a body at sector 1 on of a journal strip (R194). -/
def dumpWrites (slot base : Nat) : Nat → List Byte → List Out
  | 0, _ => []
  | n + 1, body =>
    if body.isEmpty then []
    else .nvmeWrite 4 slot base 64 (sysTag base) 0 (padTo 262144 (body.take 262144)) ::
      dumpWrites slot (base + 64) n (body.drop 262144)

/-- The dump header of one copy (R194). -/
def dumpHeader (d : Dev) (copy other : Nat) : List Byte :=
  let body := dumpBody d
  let first := (d.vault.journal.head?.map (·.jseq)).getD 0
  let last := (d.vault.journal.getLast?.map (·.jseq)).getD 0
  let h := [0x4F, 0x43, 0x4A, 0x44] ++ leBytes 2 1 ++ leBytes 1 d.self ++ leBytes 1 copy ++ leBytes 8 d.vault.dumpSeq ++
    leBytes 8 (epochField d.tango.epoch d.glb.headB) ++ leBytes 8 first ++ leBytes 8 last ++ leBytes 4 body.length ++
    wordBytes (crc32c body) ++ leBytes 1 other ++ leBytes 3 d.evr.power.toNat ++ zeros 4
  padTo 4096 (h ++ wordBytes (crc32c h))

/-- The head holds until POR_N (R194, step 7; R407, step 8): a SHUTDOWN completes before it does (R267). -/
def holdHead (d : Dev) : Dev :=
  let d1 := match d.glb.shut with
    | some h => complete h 0x1C 0 0 0 d
    | none => d
  { d1 with glb := { d1.glb with held := true, shut := none }, vault := { d1.vault with dump := .complete } }

/-- The live journal is written to both journal strips of the dump pair (R194, step 4); with no live record, or no
pair of healthy drives to write to, there is no dump and the head holds. -/
def writeBodies (d : Dev) : Dev :=
  match d.dumpPair with
  | none => holdHead d
  | some (a, b) =>
    if d.vault.journal.isEmpty then holdHead d
    else
      let n := (dumpBody d).length / 262144 + 1
      let base := stripLba d.glb.headB + 1
      emits (dumpWrites a base n (dumpBody d) ++ dumpWrites b base n (dumpBody d))
        (onVault (fun v => { v with dump := .bodies (a, b), dumpSeq := next64 v.dumpSeq }) d)

/-- The dump headers are written to sector 0 of both strips (R194, step 6). -/
def writeHeaders (d : Dev) : Dev :=
  match d.vault.dump with
  | .bodies (a, b) =>
    let lba := stripLba d.glb.headB
    emits [.nvmeWrite 4 a lba 1 (sysTag lba) 0 (dumpHeader d 0 b), .nvmeWrite 4 b lba 1 (sysTag lba) 0 (dumpHeader d 1 a)]
      (onVault (fun v => { v with dump := .headers (a, b) }) d)
  | _ => d

/-- Both headers are acknowledged (R194, step 7). -/
def endDump (d : Dev) : Dev :=
  match d.vault.dump with
  | .headers _ => holdHead d
  | _ => d

/-! ## Fatal stop (R406 to R409) -/

/-- The steps of R407 but the record: cores halted and FAULT_N asserted, LEAVING sent with cause 2, SiethLink idle, keys
zeroised, jobs ended; the audit stays as latched. -/
def haltHead (d : Dev) : Dev :=
  let d1 := tangoNow 0 (.leaving 2) d
  let d2 := emit .slIdle d1
  zeroise { d2 with
    glb := { d2.glb with fatal := true, faultN := false }
    tango := { d2.tango with session := false }
    dgst := { d2.dgst with ctx := [] } }

/-- The fatal record: first in the persistence queue, with no NOTIFY (R407 step 6, R408). -/
def fatalRecord (code : Nat) (inst : W32) (words : List W32) (d : Dev) : Dev := (recordEvent true code inst words d).1

/-- A fatal condition (R406): a fatal stop, or one more FATAL record during one (R410). A head running alone also writes
the dump, unless the stripe journal itself is unreadable (`noDump`, R409), which ends a dump that runs; any other dump goes on. -/
def fatalStop (code : Nat) (inst : W32) (words : List W32) (noDump : Bool) (d : Dev) : Dev :=
  if d.glb.fatal then fatalRecord code inst words d
  else
    let was := d.alone
    let d1 := fatalRecord code inst words (haltHead d)
    if noDump then onVault (fun v => { v with dump := .idle }) d1
    else if was && d1.vault.dump == .idle then writeBodies d1
    else d1

end Sys2Proof.Machine
end

