-- ==== Sys2Proof/Machine/Ledger.lean ====
section
/-! DEFINITION. The ledger: positions and the credit limit (R76), counters (R79), drops (R84), the audit (R80 to R83) and
gaps awaiting cross-heal (R89, R90). -/

namespace Sys2Proof.Machine
open Sys2Proof

/-- Bytes rounded up to whole slots. -/
def slotsOf (bytes : Nat) : Nat := (bytes + 2047) / 2048

/-- The over-credit allowance A of a grant (R60). -/
def Grant.allowance (g : Grant) : Nat := slotsOf g.maxFrame + 2 + slotsOf g.bRo + 2 * g.nRo

/-- The oldest landed slot not yet moved, or E (R76). -/
def Ledger.oldest (l : Ledger) : W32 := (l.landing.head?.map (·.pkt.gsn)).getD l.expect

/-- Slots of a group's standby ring (R76). -/
def standbySlots : Nat := 12259615

/-- Slots of a raw ring in split operation and after a hand-back (R76). -/
def rawSlots : Nat := 96153

/-- The partner holds a standby ring for this group: a session with a partner that is not silent (R76). -/
def Dev.partnerHolds (d : Dev) : Bool := d.tango.session && !d.tango.silent

/-- The head that owns a group in normal operation (R20). -/
def normalHead (g : Fin 4) : Nat := g.val / 2

/-- This head keeps a standby ring for a group that it does not own: where the partner owns all four, only for the groups that are this
head's in normal operation (R306). -/
def Dev.keepsRing (d : Dev) (g : Fin 4) : Bool :=
  !groupList.all (fun x => d.tango.owners.at x == 1 - d.self) || normalHead g == d.self

/-- The partner's standby ring covers a group: a session, the group paired (R287), and a ring kept for it while this head runs alone
(R306). -/
def Dev.cover (d : Dev) (g : Fin 4) : Bool :=
  d.partnerHolds && d.tango.paired.getLsbD g.val && (!d.alone || normalHead g != d.self)

/-- Whether a group's ring at this head is of 25.5 GB: a standby ring, or one that a takeover brought and that is not released (R25). -/
def Dev.bigRing (d : Dev) (g : Fin 4) : Bool := if d.owns g then decide (rawSlots < (d.lg.at g).nRaw) else d.keepsRing g

/-- Bytes of a group's ring (R24); none where this head keeps no ring for it. -/
def Dev.ringBytes (d : Dev) (g : Fin 4) : Nat := if d.bigRing g then 25500000000 else if d.owns g then 200000000 else 0

/-- Stripe buffers beside a number of rings of 25.5 GB (R24, R25, R358). -/
def ceilingFor : Nat → Nat
  | 0 => 14241
  | 1 => 8879
  | _ => 3518

/-- The ceiling beside the rings that this head keeps, with standby rings for the groups of a mask besides (R25). -/
def Dev.ceilingWith (d : Dev) (m : BitVec 4) : Nat := ceilingFor (groupList.filter (fun g => d.bigRing g || m.getLsbD g.val)).length

/-- The ceilings of pools 0 and 1 follow the partition (R25, R358): up at once, down once every buffer above is free. Standby rings
formed for a handover count from when they are formed. -/
def fitCeiling (d : Dev) : Dev :=
  let c := d.ceilingWith ((d.tango.hand.map (fun h => if h.giving && decide (1 ≤ h.stage) then h.groups else 0)).getD 0)
  if (d.bpm.pool 0).ceiling < c ∨ d.freeAbove c then setCeiling c d else d

/-- The earliest of the terms of R76 for a group, at its positions as they stand. -/
def Dev.limitTerm (d : Dev) (g : Fin 4) : W32 :=
  let l := d.lg.at g
  let landing := l.oldest + 7168
  if d.owns g then
    let raw := l.ringPos + BitVec.ofNat 32 (l.nRaw - l.allow - 1)
    let m := smin landing raw
    if d.cover g then smin m (l.commit + BitVec.ofNat 32 (12000000 - l.allow)) else m
  else landing

/-- The limit advances to its term, never back (R58, R76): SL_LG_GRANTED counts the advance (R79). A group that has
no grant in force keeps its limit (R71). -/
def refreshLimit (g : Fin 4) (d : Dev) : Dev :=
  let gr := d.sl.groups.at g
  let t := d.limitTerm g
  if gr.grant.isSome && gr.link == .granted && !d.sl.player && precedes gr.limit t then
    onLedger g (fun l => { l with granted := l.granted + BitVec.ofNat 64 (sdiff gr.limit t) })
      (onGroup g (fun x => { x with limit := t }) d)
  else d

/-- OUTSTANDING of R80, from positions: zero until a group's first grant. -/
def Ledger.outstanding (l : Ledger) (limit : W32) : W64 :=
  if l.credited then
    (((limit + BitVec.ofNat 32 l.allow) - l.expect + 1).setWidth 64) + BitVec.ofNat 64 l.heals.length
  else 0

/-- Count a dropped slot of a group under a reason (R79, R84). -/
def Ledger.countDrop (l : Ledger) (reason bytes : Nat) : Ledger :=
  { l with dropped := l.dropped + 1, drops := tput l.drops reason (tgetD l.drops 0 reason + 1),
           dropBytes := tput l.dropBytes reason (tgetD l.dropBytes 0 reason + BitVec.ofNat 64 bytes) }

/-- Bytes 0 to 29 of a packet's header (R48). -/
def headerBytes (p : Packet) : List Byte :=
  wordBytes p.ptype ++ wordBytes p.flags ++ wordBytes p.streamId ++ wordBytes p.gsn ++ wordBytes p.frame ++
    wordBytes p.length ++ wordBytes p.timestamp ++ wordBytes p.word ++ wordBytes p.group ++ wordBytes p.reserved

/-- DATA payload bytes of a packet (R35, R86). -/
def dataBytes (p : Packet) : Nat := if p.ptype = 3 then p.length.toNat else 0

/-- Payload bytes of a packet for the drop counters (R79): those of DATA and of META (R48). -/
def payloadBytes (p : Packet) : Nat := if p.ptype = 3 ∨ p.ptype = 5 then p.length.toNat else 0

/-- No bytes of a frame are lost. -/
def FrameLoss.none_ : FrameLoss := { ovr := 0, lol := 0, lov := 0, hbm := 0 }

/-- All bytes of a frame lost so. -/
def FrameLoss.total (x : FrameLoss) : Nat := x.ovr + x.lol + x.lov + x.hbm

/-- Charge lost bytes to a frame number. -/
def Ledger.lose (l : Ledger) (frame : BitVec 48) (f : FrameLoss → FrameLoss) : Ledger :=
  { l with lossOf := tput l.lossOf frame.toNat (f (tgetD l.lossOf .none_ frame.toNat)) }

/-- Bytes dropped under a reason in slots that are counted elsewhere (R79). -/
def Ledger.addDropBytes (l : Ledger) (reason n : Nat) : Ledger :=
  if n = 0 then l else { l with dropBytes := tput l.dropBytes reason (tgetD l.dropBytes 0 reason + BitVec.ofNat 64 n) }

/-! ## The order of R53 -/

/-- The last frame that has been opened. -/
def Order.latest (o : Order) : Option (BitVec 48) := (o.frame.map (·.1)).orElse (fun _ => o.last)

/-- Whether a slot-bearing packet keeps the order of R53: after a gap any does (R70). `opens` asks that a FRAME_OPEN's number rises. -/
def Order.ok (o : Order) (opens : Bool) (p : Packet) : Bool :=
  o.gap || (
    if p.ptype = 2 then !opens || (o.latest.map (fun f => f.ult p.frame)).getD true
    else if p.ptype = 3 then o.frame == some (p.frame, p.word.toNat)
    else if p.ptype = 4 then (o.frame.map (·.1)) == some p.frame
    else true)

/-- The order after a packet. -/
def Order.next (o : Order) (p : Packet) : Order :=
  if p.ptype = 2 then { frame := some (p.frame, 0), last := o.latest, gap := false }
  else if p.ptype = 3 then { o with frame := some (p.frame, p.word.toNat + 2048), gap := false }
  else if p.ptype = 4 then { frame := none, last := some p.frame, gap := false }
  else o

/-- A missing slot of a gsn (R74): all zero but gsn and group, state 0x00 with its reason. -/
def missingSlot (g : Fin 4) (gsn : W32) (reason : Nat) : Slot :=
  { pkt := { ptype := 0, flags := 0, streamId := 0, gsn := gsn, frame := 0, length := 0, timestamp := 0, word := 0,
             group := BitVec.ofNat 8 g.val, reserved := 0, hcrc := 0, payload := [], crc := 0 },
    state := 0, reason := BitVec.ofNat 8 reason }

/-- Insert a slot into a ring in gsn order, counted from the ring's reading position. -/
def ringInsert (pos : W32) (s : Slot) : List Slot → List Slot
  | [] => [s]
  | x :: t =>
    if sdiff pos s.pkt.gsn < sdiff pos x.pkt.gsn then s :: x :: t
    else if s.pkt.gsn = x.pkt.gsn then s :: t
    else x :: ringInsert pos s t

/-- The slot of a gsn in a ring. -/
def ringAt (l : List Slot) (gsn : W32) : Option Slot := l.find? (fun s => s.pkt.gsn == gsn)

/-- The standby ring is overwritten oldest first (R22): slots beyond its size are released (R78). Its order counts from its oldest
slot. -/
def trimStandby (l : Ledger) : Ledger :=
  let extra := l.ring.length - standbySlots
  let gone := (l.ring.take extra).filter (fun s => s.state != 0)
  { l with ring := l.ring.drop extra, ringPos := (((l.ring.drop extra).head?).map (·.pkt.gsn)).getD l.ringPos, released := l.released + BitVec.ofNat 64 gone.length,
           resident := l.resident - BitVec.ofNat 64 gone.length }

/-- A ring slot whose packet came and was dropped: its header as received, state 0x00 with its reason (R74, R356). -/
def droppedSlot (p : Packet) (reason : Nat) : Slot :=
  { pkt := { p with payload := [] }, state := 0, reason := BitVec.ofNat 8 reason }

/-- A slot is dropped at receive: received and dropped (R79), and `s`, missing or with its header as received, takes its place in
the ring. -/
def Ledger.dropReceived (l : Ledger) (s : Slot) (bytes : Nat) : Ledger :=
  let l1 : Ledger := { l with received := l.received + 1, ring := ringInsert l.ringPos s l.ring }
  l1.countDrop s.reason.toNat bytes

/-- A gsn awaiting heal is dropped as lost-on-link (R90). -/
def dropHeal (g : Fin 4) (gsn : W32) (d : Dev) : Dev :=
  onLedger g (fun l =>
    let l1 : Ledger := { l with heals := l.heals.filter (fun h => h.gsn != gsn) }
    let l2 := l1.dropReceived (missingSlot g gsn 2) 0
    if d.owns g then l2 else trimStandby l2) d

/-- The gsn values from `a` on, `n` of them. -/
def gsnRun (a : W32) (n : Nat) : List W32 := (List.range n).map (fun i => a + BitVec.ofNat 32 i)

/-- Runs of at most 64 consecutive gsn values (R90). -/
def chunksOf (n : Nat) : Nat → List W32 → List (List W32)
  | 0, _ => []
  | f + 1, l => if l.isEmpty then [] else l.take n :: chunksOf n f (l.drop n)

/-- One cross-heal request (R90, R298): named by the next request number of this head. -/
def askHeal (g : Fin 4) (run : List W32) (d : Dev) : Dev :=
  match run with
  | [] => d
  | a :: _ =>
    let id := d.tango.healCtr + 1
    let sid := ((d.sl.groups.at g).grant.map (·.streamId)).getD 0
    let d1 := onTango (fun t => { t with healCtr := id }) d
    let d2 := onLedger g (fun l => { l with heals := l.heals.map (fun h =>
      if run.contains h.gsn then { h with reqId := id, tries := h.tries + 1 } else h) }) d1
    tangoSend 4 (.healReq id g run.length a sid) d2

/-- A gap of `n` gsn values from E on is found (R89): they await heal, and E advances past them. With no partner to ask,
or on a standby group, they are dropped as lost-on-link at once (R91). -/
def openGap (g : Fin 4) (n : Nat) (d : Dev) : Dev :=
  if n = 0 then d
  else
    let e := (d.lg.at g).expect
    let run := gsnRun e n
    let fresh : List Heal := run.map (fun x => { gsn := x, reqId := 0, tries := 0, found := d.now })
    let d1 := onLedger g (fun l => { l with expect := e + BitVec.ofNat 32 n, heals := l.heals ++ fresh }) d
    if d.owns g && d.cover g && !d.alone then each (askHeal g) (chunksOf 64 n run) d1
    else each (dropHeal g) run d1

/-! ## Audit (R80 to R83) -/

/-- Slots of a group that its pipe has taken and not yet placed in a stripe buffer. -/
def Pipe.holding (p : Pipe) : Nat := p.tileSlots + (p.ready.map (·.slots)).sum

/-- The credit check of a group. -/
def Dev.creditOk (d : Dev) (g : Fin 4) : Bool :=
  let l := d.lg.at g
  l.granted - l.received - l.outstanding (d.sl.groups.at g).limit == 0

/-- The custody check of a group. -/
def Dev.custodyOk (d : Dev) (g : Fin 4) : Bool :=
  let l := d.lg.at g
  l.received == l.committed + l.released + l.dropped + l.resident

/-- The residency check of a group. -/
def Dev.residencyOk (d : Dev) (g : Fin 4) : Bool :=
  let l := d.lg.at g
  l.resident == BitVec.ofNat 64 (l.landing.length + (l.ring.filter (fun s => s.state != 0)).length +
    (d.pipes.at g).holding + l.carried)

/-- One bit for each group whose check fails. -/
def failBits (ok : Fin 4 → Bool) : BitVec 4 :=
  BitVec.ofNat 4 ((groupList.map (fun g => if ok g then 0 else 2 ^ g.val)).sum)

/-- SL_LG_AUDIT as one audit would latch it (R83): a failed pool of 0 to 2 fails every group (R362). -/
def Dev.auditNow (d : Dev) : Audit :=
  let t := d.audit.ticks + 1
  { creditFail := failBits d.creditOk, custodyFail := failBits d.custodyOk, residencyFail := failBits d.residencyOk,
    poolFail := if [0, 1, 2].all d.bpm.poolOk then 0 else 15, tick := BitVec.ofNat 16 t, latched := false, ticks := t }

/-- Whether an audit found no failure. -/
def Audit.clean (a : Audit) : Bool := a.creditFail == 0 && a.custodyFail == 0 && a.residencyFail == 0 && a.poolFail == 0

/-- SL_LG_AUDIT as a word (R83). -/
def Audit.word (a : Audit) : W32 :=
  a.creditFail.setWidth 32 ||| (a.custodyFail.setWidth 32 <<< 4) ||| (a.residencyFail.setWidth 32 <<< 8) |||
    (a.poolFail.setWidth 32 <<< 12) ||| (a.tick.setWidth 32 <<< 16)

/-- The differences of the four checks of a group, for the fatal record (R401). The pool difference is a free value:
R80 gives that check no difference. -/
def Dev.auditDiffs (d : Dev) (g : Fin 4) : List W32 :=
  let l := d.lg.at g
  [(l.granted - l.received - l.outstanding (d.sl.groups.at g).limit).setWidth 32,
   (l.received - (l.committed + l.released + l.dropped + l.resident)).setWidth 32,
   (l.resident - BitVec.ofNat 64 (l.landing.length + (l.ring.filter (fun s => s.state != 0)).length +
     (d.pipes.at g).holding + l.carried)).setWidth 32, Config.free32 d.free]

/-- The first group that fails an audit. -/
def Audit.firstFail (a : Audit) : Fin 4 :=
  (groupList.find? (fun g => (a.creditFail ||| a.custodyFail ||| a.residencyFail ||| a.poolFail).getLsbD g.val)).getD 0

end Sys2Proof.Machine
end

