-- ==== Sys2Proof/Machine/Hbm.lean ====
section
/-! DEFINITION. HBM as bytes (R353, R354), the metadata cache (R363 to R373), its write buffer, and its maintenance. -/

namespace Sys2Proof.Machine
open Sys2Proof

/-! ## HBM -/

/-- Bytes of HBM: addresses 0 to 0x10_C388_CFFF (R354). -/
def hbmSize : Nat := 72000000000

/-- The canonical form of a memory from address `lo` on: addresses strictly rising, no zero byte listed. -/
def Memory.wfFrom : Nat → List Host.Cell → Bool
  | _, [] => true
  | lo, (a, b) :: t => decide (lo ≤ a) && b != 0 && Memory.wfFrom (a + 1) t

/-- The canonical form of a memory. -/
def Memory.wf (m : List Host.Cell) : Bool := Memory.wfFrom 0 m

/-- The byte at an address. An unlisted address reads as zero (DESIGN CHOICE, notes/assumptions/9.md). -/
def memRead : List Host.Cell → Nat → Byte
  | [], _ => 0
  | (x, v) :: t, a => if a = x then v else memRead t a

/-- The memory with one byte written. -/
def memWrite : List Host.Cell → Nat → Byte → List Host.Cell
  | [], a, b => if b = 0 then [] else [(a, b)]
  | (x, v) :: t, a, b =>
    if a < x then (if b = 0 then (x, v) :: t else (a, b) :: (x, v) :: t)
    else if a = x then (if b = 0 then t else (a, b) :: t)
    else (x, v) :: memWrite t a b

/-- `n` bytes from an address on. -/
def memBytes (m : List Host.Cell) (a n : Nat) : List Byte := (List.range n).map (fun i => memRead m (a + i))

/-- The memory with a byte string written from an address on. -/
def memStore : List Host.Cell → Nat → List Byte → List Host.Cell
  | m, _, [] => m
  | m, a, b :: t => memStore (memWrite m a b) (a + 1) t

/-- The memory with the masked bytes of a write buffer entry written. -/
def memMasked (m : List Host.Cell) (line : Nat) (data : Tab Byte) : List Host.Cell :=
  data.foldl (fun x e => memWrite x (line + e.1) e.2) m

/-! ## Regions, sets and ways (R363, R364, R368) -/

/-- The line of an address. -/
def lineOf (a : Nat) : Nat := a / 128 * 128

/-- The set of an address (R363). -/
def setOf (a : Nat) : Nat := Nat.xor (bits a 19 7) (bits a 32 20)

/-- First and last byte of a region entry (R383). -/
def ratFirst (e : W128) : Nat := bits e.toNat 36 12 * 4096
/-- Last byte of a region entry. -/
def ratLast (e : W128) : Nat := bits e.toNat 100 76 * 4096 + 4095

/-- Whether a valid region entry holds an address. -/
def ratHolds (e : W128) (a : Nat) : Bool := e.getLsbD 0 && decide (ratFirst e ≤ a ∧ a ≤ ratLast e)

/-- The entry of an address: the lowest valid one that holds it (R364). -/
def Dev.region (d : Dev) (a : Nat) : Option W128 := (d.regs.rat.find? (fun e => ratHolds e.2 a)).map (·.2)

/-- The write policy of an address: 0 write-back, 1 write-through, 2 write-around, 3 uncached (R364, R365). -/
def Dev.policy (d : Dev) (a : Nat) : Nat :=
  match d.region a with
  | some e => bits e.toNat 2 1
  | none => 3

/-- The way mask of a requester class (R368). -/
def Dev.ways (d : Dev) (cls : Nat) : Nat := (tgetD d.regs.wayMask 0 cls).toNat % 65536

/-- Whether the cache is in use: every access bypasses it from the write that starts draining on (R373). -/
def Dev.cacheOn (d : Dev) : Bool := d.mca.enabled && !d.mca.draining

/-- Line number of a set and way. -/
def wayKey (set way : Nat) : Nat := set * 16 + way

/-- The way of a set that holds a line, if one does. -/
def Mca.hit (m : Mca) (line : Nat) : Option Nat :=
  (List.range 16).find? (fun w => ((tget m.lines (wayKey (setOf line) w)).map (fun l => l.addr == line)).getD false)

/-! ## Updates of HBM and the cache -/

/-- Change the cache. -/
def onMca (f : Mca → Mca) (d : Dev) : Dev := { d with mca := f d.mca }

/-- Change the cache of a state. -/
def State.onMca (s : State) (f : Mca → Mca) : State := { s with dev := { s.dev with mca := f s.dev.mca } }

/-- A line is written back (R365, R369). -/
def writeBackLine (l : CLine) (s : State) : State :=
  { s with hbm := memStore s.hbm l.addr l.data }.onMca (fun m => { m with writebacks := m.writebacks + 1 })

/-! ## The merging write buffer (R366, R367) -/

/-- The barriers after one more entry has drained, and how many complete. -/
def tickBarriers (l : List Nat) : List Nat × Nat :=
  ((l.map (· - 1)).filter (· != 0), (l.filter (· ≤ 1)).length)

/-- The oldest entry drains to HBM. -/
def drainOne (s : State) : State :=
  match s.dev.mca.wbuf with
  | [] => s
  | e :: t =>
    let b := tickBarriers s.dev.mca.barriers
    let s1 := { s with hbm := memMasked s.hbm e.line e.data }.onMca (fun m => { m with wbuf := t, barriers := b.1 })
    { s1 with dev := emits (List.replicate b.2 .barrierDone) s1.dev }

/-- The `n` oldest entries drain. -/
def drainN : Nat → State → State
  | 0, s => s
  | n + 1, s => drainN n (drainOne s)

/-- Entries that must drain so that none is left of the lines that `p` names: those up to the last such. -/
def drainsFor (p : Nat → Bool) : List WEnt → Nat
  | [] => 0
  | e :: t => if t.any (fun x => p x.line) then 1 + drainsFor p t else if p e.line then 1 else 0

/-- Every entry of the lines that `p` names drains, those before it first. -/
def drainLines (p : Nat → Bool) (s : State) : State := drainN (drainsFor p s.dev.mca.wbuf) s

/-! ## Fills and victims (R369) -/

/-- One step of the LFSR: shift left, the new bit 0 the exclusive OR of bits 32, 22, 2 and 1, counted from 1. -/
def lfsrStep (x : W32) : W32 :=
  (x <<< 1) ||| (if Bool.xor (Bool.xor (x.getLsbD 31) (x.getLsbD 21)) (Bool.xor (x.getLsbD 1) (x.getLsbD 0)) then 1 else 0)

/-- The LFSR after `n` HBM clocks. -/
def lfsrRun : Nat → W32 → W32
  | 0, x => x
  | n + 1, x => lfsrRun n (lfsrStep x)

/-- The candidate ways of a requester class. -/
def candidates (mask : Nat) : List Nat := (List.range 16).filter (fun w => bitOf mask w)

/-- Raise the ages of the candidates of a set so that the highest is 3 (R369, NRU with ageing). -/
def ageSet (set mask : Nat) (lines : Tab CLine) : Tab CLine :=
  let top := ((candidates mask).map (fun w => ((tget lines (wayKey set w)).map (·.age)).getD 0)).foldl max 0
  (candidates mask).foldl (fun t w =>
    match tget t (wayKey set w) with
    | some l => tput t (wayKey set w) { l with age := l.age + (3 - top) }
    | none => t) lines

/-- A fill of `line` by a class installs `data` and its dirty bit, or bypasses the cache where its mask is 0. The HBM
clocks that passed since the last random victim are a free value. -/
def install (cls line : Nat) (dirty : Bool) (data : List Byte) (s : State) : State :=
  let d := s.dev
  let mask := d.ways cls
  let set := setOf line
  let e := (d.region line).getD 0
  let fresh : CLine := { addr := line, dirty := dirty, age := if e.getLsbD 4 then 3 else 1, data := data }
  if mask = 0 then (if dirty then { s with hbm := memStore s.hbm line data } else s)
  else
    match (candidates mask).find? (fun w => (tget d.mca.lines (wayKey set w)).isNone) with
    | some w => s.onMca (fun m => { m with lines := tput m.lines (wayKey set w) fresh })
    | none =>
      let random := e.getLsbD 3
      let s1 := if random then { s with dev := drawn (onMca (fun m => { m with lfsr := lfsrRun (Config.freeNat d.free) m.lfsr }) d) }
        else s.onMca (fun m => { m with lines := ageSet set mask m.lines })
      let start := if random then (s1.dev.mca.lfsr.toNat % 16) else 0
      let order := (List.range 16).map (fun i => (start + i) % 16)
      let pick := order.find? (fun w => bitOf mask w &&
        (random || ((tget s1.dev.mca.lines (wayKey set w)).map (fun l => l.age == 3)).getD false))
      let w := pick.getD 0
      let s2 := match tget s1.dev.mca.lines (wayKey set w) with
        | some v => if v.dirty then writeBackLine v s1 else s1
        | none => s1
      s2.onMca (fun m => { m with lines := tput m.lines (wayKey set w) fresh })

/-- A read of one line by a requester class (R365 to R369): the bytes, and the state after. -/
def cacheRead (cls line : Nat) (s : State) : List Byte × State :=
  match s.dev.mca.hit line with
  | some w =>
    match tget s.dev.mca.lines (wayKey (setOf line) w) with
    | some l =>
      if s.dev.cacheOn then
        (l.data, s.onMca (fun m =>
          { m with hits := m.hits + 1, lines := tput m.lines (wayKey (setOf line) w) { l with age := 0 } }))
      else (l.data, s)
    | none => ([], s)
  | none =>
    let s1 := drainLines (· == line) s
    let data := memBytes s1.hbm line 128
    if s.dev.cacheOn then
      let s2 := s1.onMca (fun m => { m with misses := m.misses + 1 })
      (data, if s1.dev.policy line = 3 then s2 else install cls line false data s2)
    else (data, s1)

/-- A write of bytes within one line by an unprivileged requester class (R365). -/
def cacheWrite (cls a : Nat) (data : List Byte) (s : State) : State :=
  let line := lineOf a
  let policy := s.dev.policy line
  let toHbm (x : State) : State := { x with hbm := memStore x.hbm a data }
  match s.dev.mca.hit line with
  | some w =>
    match tget s.dev.mca.lines (wayKey (setOf line) w) with
    | none => s
    | some l =>
      let bytes := ((l.data.take (a - line)) ++ data ++ l.data.drop (a - line + data.length)).take 128
      let put (dirty : Bool) (x : State) : State := x.onMca (fun m =>
        { m with hits := m.hits + 1, lines := tput m.lines (wayKey (setOf line) w) { l with data := bytes, dirty := dirty, age := 0 } })
      if !s.dev.cacheOn then
        toHbm ((if l.dirty then writeBackLine l s else s).onMca (fun m => { m with lines := tdel m.lines (wayKey (setOf line) w) }))
      else if policy = 0 then put true s
      else if policy = 1 then toHbm (put l.dirty s)
      else if policy = 2 then
        toHbm (s.onMca (fun m => { m with hits := m.hits + 1, lines := tdel m.lines (wayKey (setOf line) w) }))
      else toHbm (put l.dirty s)
  | none =>
    if s.dev.cacheOn && policy == 0 && s.dev.ways cls != 0 then
      let s1 := drainLines (· == line) (s.onMca (fun m => { m with misses := m.misses + 1 }))
      let old := memBytes s1.hbm line 128
      install cls line true (((old.take (a - line)) ++ data ++ old.drop (a - line + data.length)).take 128) s1
    else if s.dev.cacheOn then toHbm (drainLines (· == line) (s.onMca (fun m => { m with misses := m.misses + 1 })))
    else toHbm (drainLines (· == line) s)

/-! ## The hot index in HBM (R117) -/

/-- A hot-index entry's 48 bytes; zero where the way holds none. -/
def hotBytes : Option HotEnt → List Byte
  | none => zeros 48
  | some e => beBytes e.fp ++ leBytes 2 e.volume ++ leBytes 1 (1 + 2 * bit (decide (0 < e.pinned))) ++ leBytes 1 e.hits ++
      leBytes 4 e.storedLen ++ leBytes 8 e.loc

/-- A bucket's 192 bytes. -/
def bucketBytes (l : List (Nat × HotEnt)) : List Byte := ((List.range 4).map (fun w => hotBytes (tget l w))).flatten

/-- Write bytes within their lines (R365). -/
def writeLines (cls a : Nat) : Nat → List Byte → State → State
  | 0, _, s => s
  | n + 1, b, s =>
    if b.isEmpty then s
    else
      let k := min b.length (lineOf a + 128 - a)
      writeLines cls (a + k) n (b.drop k) (cacheWrite cls a (b.take k) s)

/-- Write a bucket's bytes. -/
def syncBucket (b : Nat) (s : State) : State := writeLines 2 (192 * b) 3 (bucketBytes (tgetD s.dev.cat.hot [] b)) s

/-- Buckets of the hot index that have changed since they were last written. -/
def Dev.lateBuckets (d : Dev) : List Nat :=
  (((d.cat.hot ++ d.mca.hot).map (·.1)).eraseDups).filter (fun b => tgetD d.cat.hot [] b != tgetD d.mca.hot [] b)

/-- Buckets that have changed go through the metadata cache, requester class 2 (R368), before anything else reads or maintains
memory. -/
def syncHot (s : State) : State :=
  (s.dev.lateBuckets.foldl (fun x b => syncBucket b x) s).onMca (fun m => { m with hot := s.dev.cat.hot })

/-! ## Maintenance (R371, R372) -/

/-- Clean one line of the cache, where it is dirty: its write-back, after which it is clean. -/
def cleanKey (k : Nat) (s : State) : State :=
  match tget s.dev.mca.lines k with
  | some l =>
    if l.dirty then (writeBackLine l s).onMca (fun m => { m with lines := tput m.lines k { l with dirty := false } }) else s
  | none => s

/-- Keys of the valid lines whose address `p` names. -/
def Mca.keys (m : Mca) (p : Nat → Bool) : List Nat := (m.lines.filter (fun e => p e.2.addr)).map (·.1)

/-- CLEAN of the lines that `p` names; while draining, a line that has been written back is invalid as well. -/
def cleanLines (p : Nat → Bool) (s : State) : State :=
  let s0 := drainLines p s
  let s1 := (s0.dev.mca.keys p).foldl (fun x k => cleanKey k x) s0
  if s1.dev.mca.draining then s1.onMca (fun m => { m with lines := m.lines.filter (fun e => !p e.2.addr) }) else s1

/-- Invalidate the lines that `p` names, discarding dirty data. -/
def dropLines (p : Nat → Bool) (s : State) : State :=
  s.onMca (fun m => { m with lines := m.lines.filter (fun e => !p e.2.addr) })

/-- One maintenance operation has completed (MCA_MAINT_OPS). -/
def maintDone (s : State) : State := s.onMca (fun m => { m with maintOps := m.maintOps + 1 })

/-- Whether a region entry holds a line; an entry that is not valid holds none. -/
def Dev.inEntry (d : Dev) (n : Nat) (line : Nat) : Bool := ratHolds (tgetD d.regs.rat 0 n) line

/-- Do `f` to a live head, whose hot index stands in memory as it is. -/
def liveState (f : State → State) (s : State) : State := if s.dev.live then f (syncHot s) else s

/-- CLEAN (R371). -/
def execClean (addr : Nat) (s : State) : Host.Outcome State Fault Refusal :=
  if addr < hbmSize then .next (liveState (fun x => maintDone (cleanLines (· == lineOf addr) x)) s)
  else .fault (.hbmAddress addr)

/-- INVAL (R371): an undrained write-buffer entry of the line is kept, and a line whose write-back a drain owes is
written back first (R372). -/
def execInval (addr : Nat) (s : State) : Host.Outcome State Fault Refusal :=
  if addr < hbmSize then
    .next (liveState (fun x => maintDone (if x.dev.mca.draining then cleanLines (· == lineOf addr) x
      else dropLines (· == lineOf addr) x)) s)
  else .fault (.hbmAddress addr)

/-- CLEAN_INVAL (R371). -/
def execCleanInval (addr : Nat) (s : State) : Host.Outcome State Fault Refusal :=
  if addr < hbmSize then
    .next (liveState (fun x => maintDone (dropLines (· == lineOf addr) (cleanLines (· == lineOf addr) x))) s)
  else .fault (.hbmAddress addr)

/-- CLEAN_REGION (R371). -/
def execCleanRegion (entry : Fin 64) (s : State) : Host.Outcome State Fault Refusal :=
  .next (liveState (fun x => maintDone (cleanLines (x.dev.inEntry entry.val) x)) s)

/-- CLEAN_INVAL_REGION (R371). -/
def execCleanInvalRegion (entry : Fin 64) (s : State) : Host.Outcome State Fault Refusal :=
  .next (liveState (fun x => let p := x.dev.inEntry entry.val; maintDone (dropLines p (cleanLines p x))) s)

/-! ## Write buffer, barriers -/

/-- WRITE_BUFFER_DRAIN (R367): the oldest entry drains. -/
def execWriteBufferDrain (s : State) : Host.Outcome State Fault Refusal := .next (liveState drainOne s)

/-- A barrier completes once the entries before it have drained: at once when there is none (R367). -/
def barrierCmd (d : Dev) : Dev :=
  if d.mca.wbuf.isEmpty then emit .barrierDone d
  else onMca (fun m => { m with barriers := m.barriers ++ [m.wbuf.length] }) d

/-- BARRIER (R367), by the journal writer or a management core alike. -/
def execBarrier (_journal : Bool) (s : State) : Host.Outcome State Fault Refusal :=
  .next { s with dev := when s.dev.live barrierCmd s.dev }

/-! ## Disabling the cache (R373) -/

/-- Draining starts, where the cache is in use. -/
def startDrain (d : Dev) : Dev := if d.mca.enabled && !d.mca.draining then onMca (fun m => { m with draining := true }) d else d

/-- CACHE_DISABLE: MCA_CTL.ENABLE is RWL (R379, R449). -/
def execCacheDisable (s : State) : Host.Outcome State Fault Refusal :=
  .next { s with dev := when (s.dev.working && !s.dev.glb.perstLow && !s.dev.glb.locked) startDrain s.dev }

/-- Every dirty line has been written back and every line invalidated: the cache is disabled. -/
def endDrain (s : State) : State :=
  let s1 := (s.dev.mca.keys (fun _ => true)).foldl (fun x k => cleanKey k x) s
  s1.onMca (fun m => { m with lines := [], enabled := false, draining := false })

/-- CACHE_DRAIN_DONE. -/
def execCacheDrainDone (s : State) : Host.Outcome State Fault Refusal :=
  .next (liveState (fun x => if x.dev.mca.draining then endDrain x else x) s)

/-- CACHE_PARITY_LIMIT (R370): the firmware clears ENABLE and logs MCA_DISABLED. -/
def parityLimit (d : Dev) : Dev :=
  if d.cacheOn then onMca (fun m => { m with parityOff := true }) (startDrain (logEvent 0x0A05 noInstance [d.mca.parityClean.setWidth 32] d)) else d

/-- CACHE_PARITY_LIMIT. -/
def execCacheParityLimit (s : State) : Host.Outcome State Fault Refusal :=
  .next { s with dev := when s.dev.running parityLimit s.dev }

/-! ## Parity errors (R370) -/

/-- A clean line with a parity error is invalidated and fetched again from HBM, as a fill of its region. -/
def refetch (set way : Nat) (l : CLine) (s : State) : State :=
  let e := (s.dev.region l.addr).getD 0
  let l1 : CLine := { l with age := if e.getLsbD 4 then 3 else 1, data := memBytes s.hbm l.addr 128 }
  let s1 := s.onMca (fun m => { m with parityClean := m.parityClean + 1, lines := tput m.lines (wayKey set way) l1 })
  { s1 with dev := logEvent 0x0A01 (BitVec.ofNat 32 set) [BitVec.ofNat 32 way] s1.dev }

/-- A parity error found in a valid line: a clean line is fetched again, anything else is fatal. -/
def parityError (set way : Nat) (err : ParityErr) (s : State) : State :=
  match tget s.dev.mca.lines (wayKey set way) with
  | none => s
  | some l =>
    if err ≠ .copies ∧ l.dirty = false then refetch set way l s
    else { s with dev := fatalStop 0x0A02 (BitVec.ofNat 32 set) (BitVec.ofNat 32 way :: addrWords l.addr) false s.dev }

/-- CACHE_PARITY_ERROR (R370). -/
def execCacheParityError (set : Fin 8192) (way : Fin 16) (err : ParityErr) (s : State) : Host.Outcome State Fault Refusal :=
  .next (liveState (parityError set.val way.val err) s)

end Sys2Proof.Machine
end

