-- ==== Sys2Proof/Machine/Codec.lean ====
section
/-! DEFINITION. The tile format: header (R101 to R103), mode choice (R104), PRED (R107 to R112), LZB (R113), RAW (R114),
and the cipher of a stored tile (R123, R144, R145). -/

namespace Sys2Proof.Machine
open Sys2Proof

/-! ## Pixel formats (R57) -/

/-- DEPTH of a format code. -/
def fmtDepth (f : W16) : Nat := f.toNat % 16

/-- Sample depth in bits: DEPTH 1 to 5 is 8, 10, 12, 14, 16. -/
def depthBits (f : W16) : Nat := 6 + 2 * fmtDepth f

/-- PACKING of a format code. -/
def fmtPacking (f : W16) : Nat := f.toNat / 16 % 4

/-- LAYOUT of a format code. -/
def fmtLayout (f : W16) : Nat := f.toNat / 256 % 8

/-- Extent of a sample: its depth, or 16 bits for packing 1 (R107). -/
def fmtExtent (f : W16) : Nat := if fmtPacking f = 1 then 16 else depthBits f

/-! ## PRED -/

/-- The geometry of one tile (R107, R109). -/
structure TileGeo where
  d     : Nat
  ex    : Nat
  hs    : Nat
  vs    : Nat
  width : Nat
  bytes : Nat
  phase : Nat
  raw   : Nat
deriving DecidableEq, Repr

/-- First tile bit of sample `i` of tile line `r`, which may lie before the tile (R107). -/
def TileGeo.start (g : TileGeo) (r i : Nat) : Int := 8 * ((r * g.bytes : Nat) - (g.phase : Int)) + (i * g.ex : Nat)

/-- Whether a sample is coded (R107). -/
def TileGeo.coded (g : TileGeo) (r i : Nat) : Bool :=
  decide (0 ≤ g.start r i ∧ g.start r i + g.ex ≤ 8 * (g.raw : Int))

/-- Tile lines that begin before the tile's end. -/
def TileGeo.lines (g : TileGeo) : Nat := if g.bytes = 0 then 0 else (g.raw + g.phase + g.bytes - 1) / g.bytes

/-- Head and tail fragment bits h and t (R108). -/
def TileGeo.fragments (g : TileGeo) : Nat × Nat :=
  if g.bytes = 0 ∨ g.ex = 0 then (0, 0)
  else
    let p0 := 8 * g.phase
    let headCut := p0 / g.ex < g.width ∧ p0 % g.ex ≠ 0
    let h := g.ex - p0 % g.ex
    let e := 8 * (g.raw + g.phase) % (8 * g.bytes)
    let tailCut := e / g.ex < g.width ∧ e % g.ex ≠ 0
    if headCut ∧ 8 * g.raw < h then (8 * g.raw, 0)
    else (if headCut then h else 0, if tailCut then e % g.ex else 0)

/-- The median edge-detecting predictor (R109). -/
def medPredict (a b c : Nat) : Nat :=
  if max a b ≤ c then min a b else if c ≤ min a b then max a b else a + b - c

/-- The prediction from the neighbours that are present (R109). -/
def predictFrom (d : Nat) : Option Nat → Option Nat → Option Nat → Nat
  | some a, some b, some c => medPredict a b c
  | some a, _, _ => a
  | none, some b, _ => b
  | none, none, _ => 2 ^ (d - 1)

/-- The mapped residual m of a sample (R110). -/
def mapResidual (d x p : Nat) : Nat :=
  let e : Int := (((x : Int) - p + 2 ^ (d - 1)) % 2 ^ d) - 2 ^ (d - 1)
  if 0 ≤ e then (2 * e).toNat else (-2 * e - 1).toNat

/-- The sample of a mapped residual (R110). -/
def unmapResidual (d m p : Nat) : Nat :=
  let e : Int := if m % 2 = 1 then -(((m + 1) / 2 : Nat) : Int) else ((m / 2 : Nat) : Int)
  (((p : Int) + e) % 2 ^ d).toNat

/-- The adaptive parameter: k, the sum of m in the block, samples coded (R111). -/
structure Rice where
  k   : Nat
  acc : Nat
  n   : Nat
deriving DecidableEq, Repr

/-- The smallest k with 16 × 2^k ≥ A, capped (R111). -/
def riceK (a : Nat) : Nat → Nat → Nat
  | 0, k => k
  | n + 1, k => if 16 * 2 ^ k < a then riceK a n (k + 1) else k

/-- The parameter after one more sample (R111). -/
def Rice.step (r : Rice) (d m : Nat) : Rice :=
  if (r.n + 1) % 16 = 0 then { k := riceK (r.acc + m) (d - 1) 0, acc := 0, n := r.n + 1 }
  else { r with acc := r.acc + m, n := r.n + 1 }

/-- A bit string being written: its bits as a number, bit 0 first, and its length. -/
structure BitW where
  v   : Nat
  len : Nat
deriving DecidableEq, Repr

/-- Append `n` bits of `x`, least significant first. -/
def BitW.put (w : BitW) (n x : Nat) : BitW := { v := w.v + x % 2 ^ n * 2 ^ w.len, len := w.len + n }

/-- The code of m (R111). -/
def BitW.rice (w : BitW) (d k m : Nat) : BitW :=
  if m / 2 ^ k < 16 then (w.put (m / 2 ^ k + 1) (2 ^ (m / 2 ^ k))).put k m else (w.put 16 0).put d m

/-- The neighbours of a sample: `cur` is its line so far, newest first, `rows` the lines before it, newest first. -/
def neighbours (g : TileGeo) (rows : List (List (Option Nat))) (cur : List (Option Nat)) (i : Nat) :
    Option Nat × Option Nat × Option Nat :=
  let up := (rows[g.vs - 1]?).getD []
  ((cur[g.hs - 1]?).join, (up[i]?).join, if g.hs ≤ i then (up[i - g.hs]?).join else none)

/-- The encoder's state over a tile. -/
structure PredEnc where
  out  : BitW
  rice : Rice
  rows : List (List (Option Nat))
  cur  : List (Option Nat)
  back : Nat
deriving DecidableEq, Repr

/-- Encode sample `i` of line `r`, if it is coded; `back` gathers the coded bits at their places (R107 to R111). -/
def predEncSample (g : TileGeo) (tile : Nat) (r : Nat) (s : PredEnc) (i : Nat) : PredEnc :=
  if g.coded r i then
    let at_ := (g.start r i).toNat
    let x := tile / 2 ^ at_ % 2 ^ g.d
    let nb := neighbours g s.rows s.cur i
    let m := mapResidual g.d x (predictFrom g.d nb.1 nb.2.1 nb.2.2)
    { s with out := s.out.rice g.d s.rice.k m, rice := s.rice.step g.d m, cur := some x :: s.cur, back := s.back + x * 2 ^ at_ }
  else { s with cur := none :: s.cur }

/-- Encode one tile line. -/
def predEncLine (g : TileGeo) (tile : Nat) (s : PredEnc) (r : Nat) : PredEnc :=
  let s1 := (List.range g.width).foldl (predEncSample g tile r) s
  { s1 with rows := (s1.cur.reverse :: s1.rows).take 2, cur := [] }

/-- The parameter block of R112. -/
def predParams (g : TileGeo) (k0 head tail count len : Nat) : List Byte :=
  leBytes 1 g.hs ++ leBytes 1 g.vs ++ leBytes 1 g.fragments.1 ++ leBytes 1 g.fragments.2 ++ leBytes 1 k0 ++ zeros 3 ++
    leBytes 4 g.width ++ leBytes 4 g.bytes ++ leBytes 4 g.phase ++ leBytes 2 head ++ leBytes 2 tail ++ leBytes 4 count ++
    leBytes 4 len

/-- The PRED body of a raw tile: none where it has no coded sample or a fill bit is not zero (R104, R108). -/
def predEncode (g : TileGeo) (kInit : Nat) (raw : List Byte) : Option (List Byte) :=
  let tile := leNat raw
  let k0 := min kInit (g.d - 1)
  let s := (List.range g.lines).foldl (predEncLine g tile) { out := ⟨0, 0⟩, rice := ⟨k0, 0, 0⟩, rows := [], cur := [], back := 0 }
  let head := tile % 2 ^ g.fragments.1
  let tail := tile / 2 ^ (8 * g.raw - g.fragments.2)
  let whole := s.back + head + tail * 2 ^ (8 * g.raw - g.fragments.2)
  if s.rice.n = 0 ∨ whole ≠ tile then none
  else some (predParams g k0 head tail s.rice.n s.out.len ++ leBytes ((s.out.len + 7) / 8) s.out.v)

/-- The decoder's state over a tile; `ok` is false after a stream error. -/
structure PredDec where
  pos  : Nat
  ok   : Bool
  rice : Rice
  rows : List (List (Option Nat))
  cur  : List (Option Nat)
  out  : Nat
deriving DecidableEq, Repr

/-- Zero bits at the reading position, 16 at most. -/
def leadZeros (v : Nat) : Nat → Nat
  | 0 => 0
  | n + 1 => if v % 2 = 1 then 0 else 1 + leadZeros (v / 2) n

/-- Read one m of the stream of `len` bits (R111, R112): its value and the bits it takes. -/
def readRice (v d k : Nat) : Nat × Nat :=
  let u := leadZeros v 16
  if u = 16 then (v / 2 ^ 16 % 2 ^ d, 16 + d) else (u * 2 ^ k + v / 2 ^ (u + 1) % 2 ^ k, u + 1 + k)

/-- Decode sample `i` of line `r`. -/
def predDecSample (g : TileGeo) (stream len : Nat) (r : Nat) (s : PredDec) (i : Nat) : PredDec :=
  if g.coded r i then
    let rd := readRice (stream / 2 ^ s.pos) g.d s.rice.k
    if len < s.pos + rd.2 then { s with ok := false, cur := none :: s.cur }
    else
      let nb := neighbours g s.rows s.cur i
      let x := unmapResidual g.d rd.1 (predictFrom g.d nb.1 nb.2.1 nb.2.2)
      { s with pos := s.pos + rd.2, rice := s.rice.step g.d rd.1, cur := some x :: s.cur,
               out := s.out + x * 2 ^ (g.start r i).toNat }
  else { s with cur := none :: s.cur }

/-- Decode one tile line. -/
def predDecLine (g : TileGeo) (stream len : Nat) (s : PredDec) (r : Nat) : PredDec :=
  let s1 := (List.range g.width).foldl (predDecSample g stream len r) s
  { s1 with rows := (s1.cur.reverse :: s1.rows).take 2, cur := [] }

/-- The geometry that a parameter block gives (R112). -/
def bodyGeo (fmt : W16) (raw : Nat) (body : List Byte) : TileGeo :=
  { d := depthBits fmt, ex := fmtExtent fmt, hs := fieldAt body 0 1, vs := fieldAt body 1 1, width := fieldAt body 8 4,
    bytes := fieldAt body 12 4, phase := fieldAt body 16 4, raw := raw }

/-- Decode a PRED body: the raw tile, or none on a stream error (R112). -/
def predDecode (fmt : W16) (raw : Nat) (body : List Byte) : Option (List Byte) :=
  let g := bodyGeo fmt raw body
  let k0 := fieldAt body 4 1
  let count := fieldAt body 24 4
  let len := fieldAt body 28 4
  let h := fieldAt body 2 1
  let t := fieldAt body 3 1
  let head := fieldAt body 20 2
  let tail := fieldAt body 22 2
  if fmtDepth fmt < 1 ∨ 5 < fmtDepth fmt ∨ g.hs < 1 ∨ 2 < g.hs ∨ g.vs < 1 ∨ 2 < g.vs ∨ g.d ≤ k0 ∨ g.width = 0 ∨
      g.bytes ≤ g.phase ∨ (h, t) ≠ g.fragments ∨ 2 ^ h ≤ head ∨ 2 ^ t ≤ tail ∨ body.length ≠ 32 + (len + 7) / 8 then none
  else
    let stream := leNat (body.drop 32)
    let s := (List.range g.lines).foldl (predDecLine g stream len)
      { pos := 0, ok := true, rice := ⟨k0, 0, 0⟩, rows := [], cur := [], out := 0 }
    if s.ok ∧ s.rice.n = count ∧ s.pos = len ∧ stream / 2 ^ len = 0 then
      some (leBytes raw (s.out + head + tail * 2 ^ (8 * raw - t)))
    else none

/-! ## LZB (R113) -/

/-- The extension bytes of a match length: their sum, and the bytes left. -/
def lzbExt : List Byte → Nat → Option (Nat × List Byte)
  | [], _ => none
  | x :: t, n => if x = 255 then lzbExt t (n + 255) else some (n + x.toNat, t)

/-- Copy `n` bytes from `off` back; `out` is newest first. -/
def lzbCopy (off : Nat) : Nat → List Byte → List Byte
  | 0, out => out
  | n + 1, out => lzbCopy off n ((out[off - 1]?).getD 0 :: out)

/-- The offset field: none where its size is invalid or the body ends. -/
def lzbOffset (c : Nat) (l : List Byte) : Option (Nat × List Byte) :=
  match c / 32 % 4, l with
  | 0, x :: t => some (x.toNat + 1, t)
  | 1, x :: y :: t => some (x.toNat + 256 * y.toNat + 1, t)
  | _, _ => none

/-- Decode tokens until the output holds `raw` bytes; `out` is newest first. Fuel: one token takes a byte at least. -/
def lzbTokens (raw : Nat) : Nat → List Byte → List Byte → Option (List Byte)
  | 0, _, _ => none
  | f + 1, l, out =>
    if out.length = raw then (if l.isEmpty then some out.reverse else none)
    else
      match l with
      | [] => none
      | c :: t =>
        if c.toNat < 128 then
          let n := c.toNat + 1
          if t.length < n ∨ raw < out.length + n then none
          else lzbTokens raw f (t.drop n) ((t.take n).reverse ++ out)
        else
          let n0 := c.toNat % 32 + 3
          match if c.toNat % 32 = 31 then lzbExt t n0 else some (n0, t) with
          | none => none
          | some (n, t1) =>
            match lzbOffset c.toNat t1 with
            | none => none
            | some (off, t2) =>
              if out.length < off ∨ raw < out.length + n then none else lzbTokens raw f t2 (lzbCopy off n out)

/-- Decode an LZB body (R113). -/
def lzbDecode (raw : Nat) (body : List Byte) : Option (List Byte) := lzbTokens raw (body.length + 1) body []

/-- A match token of `len` bytes, 3 or more, at offset `off`, up to 65,536 (R113). -/
def lzbMatch (len off : Nat) : List Byte :=
  let code := min (len - 3) 31
  let ext := if code = 31 then List.replicate ((len - 34) / 255) 255 ++ leBytes 1 ((len - 34) % 255) else []
  if off ≤ 256 then leBytes 1 (128 + code) ++ ext ++ leBytes 1 (off - 1)
  else leBytes 1 (128 + 32 + code) ++ ext ++ leBytes 2 (off - 1)

/-- Literal runs of up to 128 bytes (R113). -/
def literalRuns : Nat → List Byte → List Byte
  | 0, _ => []
  | n + 1, l => if l.isEmpty then [] else leBytes 1 (min l.length 128 - 1) ++ l.take 128 ++ literalRuns n (l.drop 128)

/-- The LZB body of a raw tile (R106, R113). One byte repeated is a literal and one match; which matches the encoder finds in any other
tile R113 leaves open, as long as the body decodes to the tile (notes/assumptions/2.md). -/
def lzbEncode (raw : List Byte) : List Byte :=
  match raw with
  | [] => []
  | b :: t =>
    if 3 ≤ t.length ∧ t.all (· == b) then [0, b] ++ lzbMatch t.length 1
    else
      let body := Config.lzbEncode raw
      if lzbDecode raw.length body = some raw then body else literalRuns raw.length raw

/-! ## Header (R101 to R103) -/

/-- The fields of a tile header. -/
structure TileHdr where
  volume  : Nat
  takeId  : Nat
  tileSeq : W64
  raw     : Nat
  stored  : Nat
  mode    : Nat
  format  : W16
  flags   : Nat
  cipher  : Nat
  nonce   : BitVec 192
  tag     : W128
  fp      : W256
deriving DecidableEq, Repr

/-- The magic bytes (R101). -/
def tileMagic : List Byte := [0x4F, 0x43, 0x54, 0x4C]

/-- A header's 128 bytes (R101). -/
def TileHdr.bytes (h : TileHdr) : List Byte :=
  tileMagic ++ leBytes 2 h.volume ++ leBytes 4 h.takeId ++ wordBytes h.tileSeq ++ leBytes 4 h.raw ++ leBytes 4 h.stored ++
    leBytes 4 (h.mode + 16 + h.format.toNat * 256) ++ leBytes 2 h.flags ++ leBytes 1 h.cipher ++ zeros 1 ++
    beBytes h.nonce ++ beBytes h.tag ++ beBytes h.fp ++ zeros 22

/-- The header that 128 bytes hold. -/
def readHdr (l : List Byte) : TileHdr :=
  { volume := fieldAt l 4 2, takeId := fieldAt l 6 4, tileSeq := BitVec.ofNat 64 (fieldAt l 10 8), raw := fieldAt l 18 4,
    stored := fieldAt l 22 4, mode := fieldAt l 26 4 % 16, format := BitVec.ofNat 16 (fieldAt l 27 2),
    flags := fieldAt l 30 2, cipher := fieldAt l 32 1, nonce := BitVec.ofNat 192 (beNat (slice l 34 24)),
    tag := BitVec.ofNat 128 (beNat (slice l 58 16)), fp := BitVec.ofNat 256 (beNat (slice l 74 32)) }

/-- Step 1 of R124: magic, lengths, MODE, VERSION, KIND and cipher_class. -/
def hdrValid (l : List Byte) : Bool :=
  let h := readHdr l
  slice l 0 4 == tileMagic && decide (129 ≤ h.stored ∧ h.stored ≤ 128 + h.raw ∧ 1 ≤ h.raw ∧ h.raw ≤ 65536 ∧ h.mode ≤ 2) &&
    fieldAt l 26 1 / 16 == 1 && decide (h.flags / 16 % 4 ≤ 1) && (h.cipher == 0 || h.cipher == 2)

/-! ## Cipher of a stored tile (R123, R144, R145) -/

/-- Input `i` of the key derivation (R144). -/
def kdfInput (i : Nat) (nonce : BitVec 192) : List Byte :=
  (leBytes 4 i).reverse ++ [0x4F, 0x43, 0x53, 0x31, 0x34, 0x34, 0x30, 0x2D, 0x54, 0x49, 0x4C, 0x45] ++ [0] ++
    (beBytes nonce).take 16 ++ [0, 0, 1, 0]

/-- The tile subkey K_T (R144). -/
def tileKey (key : List Byte) (nonce : BitVec 192) : List Byte :=
  beBytes (cmac256 key (kdfInput 1 nonce)) ++ beBytes (cmac256 key (kdfInput 2 nonce))

/-- The 96-bit IV of a tile (R145). -/
def tileIv (nonce : BitVec 192) : BitVec 96 := BitVec.ofNat 96 (beNat ((beBytes nonce).drop 16 ++ zeros 4))

/-- GCM encryption and decryption of a body: the key stream added (R145). -/
def gcmCrypt (key : List Byte) (iv : BitVec 96) (l : List Byte) : List Byte :=
  gcmAdd key iv (l.length / 16 + 1) 1 l

/-- A stored tile: header and body, encrypted under a class L key where one is given (R101, R123). -/
def storeTile (h : TileHdr) (body : List Byte) (key : Option (List Byte)) (nonce : BitVec 192) : List Byte :=
  match key with
  | none => { h with cipher := 0, nonce := 0, tag := 0 }.bytes ++ body
  | some k =>
    let h0 := { h with cipher := 2, nonce := nonce, tag := 0 }
    let kt := tileKey k nonce
    let ct := gcmCrypt kt (tileIv nonce) body
    { h0 with tag := gcmTag kt (tileIv nonce) h0.bytes ct }.bytes ++ ct

/-- Whether the tag of a stored tile authenticates under a class L key (R123, R144, R145). -/
def tagFits (key stored : List Byte) : Bool :=
  let h := readHdr stored
  gcmTag (tileKey key h.nonce) (tileIv h.nonce) (stored.take 58 ++ zeros 16 ++ slice stored 74 54) (slice stored 128 (h.stored - 128)) == h.tag

/-! ## Mode choice (R104) -/

/-- What the encoder makes of a raw tile: mode, body, and whether PRED or LZB was tried in vain. -/
structure Coded where
  mode     : Nat
  body     : List Byte
  fallback : Bool
deriving DecidableEq, Repr

/-- A body that was tried: taken when shorter than the raw tile, else RAW (R104, R105). -/
def tried (mode : Nat) (raw : List Byte) (body : List Byte) : Coded :=
  if body.length < raw.length then { mode := mode, body := body, fallback := false }
  else { mode := 0, body := raw, fallback := true }

/-- The first row of R104 that applies. `geo` is the tile's geometry where it is available. -/
def chooseMode (pred lzb : Bool) (kInit : Nat) (format : W16) (isMeta : Bool) (geo : Option TileGeo) (raw : List Byte) :
    Coded :=
  let plain : Coded := { mode := 0, body := raw, fallback := false }
  if !isMeta && decide (1 ≤ fmtDepth format ∧ fmtDepth format ≤ 5) then
    match geo with
    | some g =>
      if pred then
        match predEncode g kInit raw with
        | some b => tried 1 raw b
        | none => plain
      else plain
    | none => plain
  else if lzb then tried 2 raw (lzbEncode raw)
  else plain

/-- Decode a body by MODE (R124, step 4): exactly `raw` bytes, or none. -/
def decodeBody (h : TileHdr) (body : List Byte) : Option (List Byte) :=
  if h.mode = 1 then predDecode h.format h.raw body
  else if h.mode = 2 then lzbDecode h.raw body
  else if body.length = h.raw then some body else none

end Sys2Proof.Machine
end

