-- ==== Sys2Proof/Machine/Takes.lean ====
section
/-! DEFINITION. Takes as data: look-ups in the catalogue (R216 to R219), frame records (R226), metadata records (R229),
the manifest (R230, R231), seal chains (R161 to R163) and seals (R164). -/

namespace Sys2Proof.Machine
open Sys2Proof

/-! ## Look-ups -/

/-- The volume of a number. -/
def Dev.volume (d : Dev) (id : Nat) : Option Volume := d.cat.volumes.find? (·.id == id)

/-- The layout that new takes of a volume are written to: the target of a side-by-side reshape from its start (R206, step 2). -/
def Dev.writeLayout (d : Dev) (v : Volume) : Nat :=
  match d.vault.reshape with
  | some r => if r.volume = v.id ∧ !r.moving then r.target else v.layout
  | none => v.layout

/-- Change a volume record. -/
def onVolume (id : Nat) (f : Volume → Volume) (d : Dev) : Dev :=
  onCat (fun c => { c with volumes := c.volumes.map (fun v => if v.id = id then f v else v) }) d

/-- The take of a volume and number. -/
def Dev.take (d : Dev) (v id : Nat) : Option Take := d.cat.takes.find? (fun t => t.volume == v && t.id == id)

/-- Change a take. -/
def onTake (v id : Nat) (f : Take → Take) (d : Dev) : Dev :=
  onCat (fun c => { c with takes := c.takes.map (fun t => if t.volume = v ∧ t.id = id then f t else t) }) d

/-- OPEN or CLOSING (R217). -/
def Take.active (t : Take) : Bool := t.state == .open_ || t.state == .closing

/-- Whether a take names a group. -/
def Take.hasGroup (t : Take) (g : Fin 4) : Bool := t.groups.getLsbD g.val

/-- The part that a group belongs to: a group stays in its part for the whole take (R163). -/
def Take.partOf (t : Take) (g : Fin 4) : Option Part := t.parts.find? (fun p => p.groups.getLsbD g.val)

/-- A part by number. -/
def Take.part (t : Take) (p : Nat) : Option Part := t.parts.find? (·.idx == p)

/-- Change a part of a take. -/
def Take.onPart (t : Take) (p : Nat) (f : Part → Part) : Take :=
  { t with parts := t.parts.map (fun x => if x.idx = p then f x else x) }

/-- Change a part of a take. -/
def onPart (v id p : Nat) (f : Part → Part) (d : Dev) : Dev := onTake v id (fun t => t.onPart p f) d

/-- Active takes bound to a group, oldest first: a take and, across a SPLIT, its successor (R223). -/
def Dev.bound (d : Dev) (g : Fin 4) : List Take :=
  d.cat.takes.filter (fun t => t.active && t.hasGroup g && !t.ended.getLsbD g.val)

/-- The layout that a take's tile map names (R206). -/
def Dev.layoutOf (d : Dev) (t : Take) : Option LayoutRec := d.layout t.layout

/-- Stripe buffers between a pipe and retirement. -/
def Dev.inFlight (d : Dev) : List StripeBuf :=
  d.pipes.list.filterMap (·.stripe) ++ d.vault.sealedQ ++ d.vault.opened.map (·.buf)

/-- Whether what lies at a location of a layout has committed, so that its place is final (R225). -/
def Dev.settledAt (d : Dev) (l : LayoutRec) (loc : Nat) : Bool :=
  loc == 0 || !d.inFlight.any (fun s => s.layout == l.layoutId && s.stripe == (l.ofLocation loc).1)

/-- The tile sequence of a group's frame tile, or of a part's metadata tile (R99). -/
def frameSeq (g idx : Nat) : W64 := BitVec.ofNat 64 (g * 2 ^ 56 + idx % 2 ^ 56)
/-- Tile sequence of a metadata tile (R99). -/
def metaSeq (part idx : Nat) : W64 := BitVec.ofNat 64 (0xFF * 2 ^ 56 + part % 2 * 2 ^ 55 + idx % 2 ^ 55)

/-- The source byte of a tile sequence: a group, or 0xFF. -/
def seqSource (s : W64) : Nat := s.toNat / 2 ^ 56
/-- The index of a tile sequence of a group. -/
def seqIndex (s : W64) : Nat := s.toNat % 2 ^ 56

/-! ## Frame records (R226, R227, R231) -/

/-- A frame record with a flag of R227 set. -/
def setFlag (n : Nat) (f : FrameRec) : FrameRec := { f with flags := f.flags ||| (1 <<< n) }

/-- Whether a frame is listed in the manifest (R231): a byte that is not committed, or a flag other than FRAME_HEALED. -/
def listed (f : FrameRec) : Bool :=
  f.flags &&& 0xFFDF != 0 ||
    decide (0 < f.dnr + f.lostOnLink + f.overRun + f.landingOverflow + f.hbmUnc + f.excess + f.truncated)

/-- A listed-frame entry's 48 bytes. -/
def listedBytes (f : FrameRec) : List Byte :=
  wordBytes f.frame ++ leBytes 1 f.group ++ zeros 1 ++ wordBytes f.flags ++ zeros 2 ++ leBytes 4 f.declared ++
    leBytes 4 f.committed ++ leBytes 4 f.dnr ++ leBytes 4 f.lostOnLink ++ leBytes 4 f.overRun ++
    leBytes 4 f.landingOverflow ++ leBytes 4 f.hbmUnc ++ leBytes 4 f.excess ++ leBytes 4 f.truncated

/-- Bytes of a frame dropped under any reason, excess included. -/
def frameDropped (f : FrameRec) : Nat := f.lostOnLink + f.overRun + f.landingOverflow + f.hbmUnc + f.excess

/-- The sum of a measure over frame records. -/
def sumOf (m : FrameRec → Nat) (l : List FrameRec) : Nat := (l.map m).sum

/-! ## Metadata records (R229) -/

/-- Type and body of a metadata record. `part` is the part that writes it. -/
def metaRecord (part : Nat) : MetaBody → Nat × List Byte
  | .mta tag gsn frame ts group payload =>
    (1, wordBytes tag ++ wordBytes gsn ++ leBytes 8 frame.toNat ++ wordBytes ts ++ leBytes 1 group ++ zeros 1 ++
      leBytes 2 payload.length ++ zeros 4 ++ payload)
  | .trig r =>
    (2, trigBytes r)
  | .framePage prev first recs =>
    (3, leBytes 8 prev ++ leBytes 8 first ++ leBytes 4 recs.length ++ leBytes 1 part ++ zeros 3 ++
      (recs.map frameBytes).flatten)
  | .tilePage prev first ents =>
    (4, leBytes 8 prev ++ leBytes 8 first ++ leBytes 4 ents.length ++ leBytes 1 part ++ zeros 3 ++
      (ents.map entryBytes).flatten)
  | .manifest bytes => (5, bytes)

/-- Whether a record is a tile-map page of a segment, or of the take itself. -/
def MetaRec.isTilePage (seg : Nat) (r : MetaRec) : Bool :=
  r.seg == seg && (match r.body with
    | .tilePage .. => true
    | _ => false)
/-- Whether a record is a frame page of a segment, or of the take itself. -/
def MetaRec.isFramePage (seg : Nat) (r : MetaRec) : Bool :=
  r.seg == seg && (match r.body with
    | .framePage .. => true
    | _ => false)
/-- Whether a record is a piece of a manifest. -/
def MetaRec.isManifest (r : MetaRec) : Bool :=
  match r.body with
  | .manifest _ => true
  | _ => false

/-- The next page of a list from position `from_` on, if anything is left (R225). -/
def nextPage {α : Type} (from_ limit : Nat) (l : List α) : Option (List α) :=
  let x := (l.drop from_).take limit
  if x.isEmpty then none else some x

/-- A whole record: header, body, zero padding to 8 bytes. -/
def recordBytes (r : MetaRec) : List Byte :=
  let tb := metaRecord r.part r.body
  leBytes 1 tb.1 ++ zeros 3 ++ leBytes 4 tb.2.length ++ tb.2 ++ zeros (alignUp tb.2.length 8 - tb.2.length)

/-- The records that fit one metadata tile of 65,536 bytes, and the rest. -/
def packTile : Nat → List MetaRec → List MetaRec × List MetaRec
  | _, [] => ([], [])
  | room, r :: t =>
    let n := (recordBytes r).length
    if n ≤ room then
      let x := packTile (room - n) t
      (r :: x.1, x.2)
    else ([], r :: t)

/-- The manifest cut into pieces of at most 65,528 bytes. -/
def pieces : Nat → List Byte → List (List Byte)
  | 0, _ => []
  | n + 1, l => if l.isEmpty then [] else l.take 65528 :: pieces n (l.drop 65528)

/-! ## Seal chains (R161, R162, R163) -/

/-- The first 16 bytes of a chain record. -/
def chainHead (type part volume takeId index : Nat) : List Byte :=
  leBytes 1 type ++ leBytes 1 part ++ leBytes 2 volume ++ leBytes 4 takeId ++ leBytes 8 index

/-- An open record. -/
def chainOpen (part volume takeId : Nat) (openTime : W64) (groups : BitVec 4) (kcv : W32) : List Byte :=
  chainHead 1 part volume takeId 0 ++ wordBytes openTime ++ leBytes 1 groups.toNat ++ zeros 3 ++ wordBytes kcv ++ zeros 32

/-- A tile record. A lost entry has length zero and fingerprint zero. -/
def chainTile (part volume takeId index : Nat) (e : Entry) : List Byte :=
  let lost := e.flags.getLsbD 1
  chainHead 2 part volume takeId index ++ wordBytes e.tileSeq ++ leBytes 4 (if lost then 0 else e.storedLen) ++
    leBytes 2 e.flags.toNat ++ zeros 2 ++ (if lost then zeros 32 else beBytes e.fp)

/-- A link record. -/
def chainLink (part volume takeId index : Nat) (v : W384) : List Byte := chainHead 3 part volume takeId index ++ beBytes v

/-- A close record. -/
def chainClose (part volume takeId tiles frames listedN dropped dnr : Nat) (closeTime : W64) : List Byte :=
  chainHead 4 part volume takeId 0 ++ leBytes 8 tiles ++ leBytes 8 frames ++ leBytes 8 listedN ++ leBytes 8 dropped ++
    leBytes 8 dnr ++ wordBytes closeTime

/-- Extend a part's register with the tile record of each entry, in tile-map order (R162); none after its close record
(R232). -/
def extendTiles (v id p : Nat) (es : List Entry) (d : Dev) : Dev :=
  es.foldl (fun x e =>
    match (x.take v id).bind (·.part p) with
    | some pt =>
      match pt.reg with
      | some r =>
        if pt.closeDone then x
        else onPart v id p (fun q => { q with records := q.records + 1 }) (extendMr r (chainTile p v id pt.records e) x)
      | none => x
    | none => x) d

/-- Begin a part's chain in a free register, set to zero (R160, R162, R163): with its open record, or with a link record where it goes on
from a value and a count, in a new segment; then the tile records of the part's entries that it does not cover yet. With no register
free the chain waits for one (DESIGN CHOICE, notes/assumptions/69.md). -/
def beginChain (v id p : Nat) (link : Option (W384 × Nat)) (d : Dev) : Dev :=
  match (d.take v id).bind (fun t => (t.part p).map (fun pt => (t, pt))), d.freeMr with
  | some (t, pt), some r =>
    let d1 := assignMr r v id p d
    let d2 := match link with
      | none => onPart v id p (fun q => { q with reg := some r, due := none, records := 0, segments := [(Config.serial, 2 ^ 64 - 1)] })
          (extendMr r (chainOpen p v id t.openTime pt.groups t.kcv) d1)
      | some (value, count) =>
        onPart v id p (fun q => { q with reg := some r, due := none, records := count, segments := q.segments ++ [(Config.serial, count)] })
          (extendMr r (chainLink p v id count value) d1)
    extendTiles v id p (pt.entries.drop ((link.map (·.2)).getD 0)) d2
  | some _, none => onPart v id p (fun q => { q with due := some link }) d
  | none, _ => d

/-- Open a part's chain. -/
def openChain (v id p : Nat) (d : Dev) : Dev := beginChain v id p none d

/-- Chains that wait for a register begin, as registers are free. -/
def settleChains (d : Dev) : Dev :=
  d.cat.takes.foldl (fun x t =>
    t.parts.foldl (fun y p => match p.due with
      | some link => beginChain t.volume t.id p.idx link y
      | none => y) x) d

/-! ## Seals and the manifest (R164, R230) -/

/-- The head that signs a part's seal: that of its last segment. -/
def Part.signer (p : Part) : W64 := ((p.segments.getLast?).map (·.1)).getD Config.serial

/-- A seal up to its signature. -/
def sealBody (v id : Nat) (p : Part) (closeTime : W64) (chain : W384) : List Byte :=
  [0x4F, 0x43, 0x53, 0x53] ++ leBytes 2 1 ++ leBytes 2 v ++ leBytes 4 id ++ leBytes 1 p.idx ++ zeros 1 ++
    leBytes 2 p.segments.length ++ leBytes 8 p.records ++ wordBytes closeTime ++ beBytes chain ++
    wordBytes p.signer ++ zeros 8 ++ (p.segments.map (fun s => wordBytes s.1 ++ leBytes 8 s.2)).flatten

/-- Frame records of a part that the manifest lists. -/
def Part.listed (p : Part) : List FrameRec := p.frames.filter Machine.listed

/-- Close a part: the close record extends its register, and the device key signs the value (R164). The register stays
assigned until the seal is in the manifest (R160). -/
def sealPart (v id p : Nat) (d : Dev) : Dev :=
  match d.take v id with
  | none => d
  | some t =>
    match t.part p with
    | none => d
    | some pt =>
      match pt.reg with
      | none => onPart v id p (fun q => { q with closeDone := true }) d
      | some r =>
        let rec_ := chainClose p v id pt.records pt.frames.length pt.listed.length (sumOf frameDropped pt.frames)
          (sumOf (·.dnr) pt.frames) t.closeTime
        let d1 := extendMr r rec_ d
        let chain := d1.mr r
        let sig := deviceSign (sha384 (sealBody v id pt t.closeTime chain)) d1.free
        drbgDraw 4 (onPart v id p (fun q => { q with closeDone := true, sealed_ := some (chain, sig) }) d1)

/-- Bits of the parts that satisfy a test. -/
def partBits (t : Take) (f : Part → Bool) : Nat := ((t.parts.filter f).map (fun p => 2 ^ p.idx)).sum

/-- The manifest of a take, or of a Reel segment with its frames (R230). -/
def manifestBytes (t : Take) (kind reason segId : Nat) (frames : List FrameRec) (tiles : Nat) (trigTime : W64)
    (winStart winEnd : Nat) (closeTime : W64) (seals : List Byte) : List Byte :=
  let l := frames.filter listed
  [0x4F, 0x43, 0x4D, 0x46] ++ leBytes 2 1 ++ leBytes 2 t.volume ++ leBytes 4 t.id ++ leBytes 1 kind ++ leBytes 1 reason ++
    leBytes 1 (partBits t (fun _ => true)) ++ leBytes 1 (partBits t (fun p => p.sealed_.isSome)) ++ wordBytes t.openTime ++
    wordBytes closeTime ++ leBytes 4 segId ++ leBytes 1 t.groups.toNat ++ zeros 3 ++ leBytes 8 frames.length ++
    leBytes 8 tiles ++ leBytes 8 (sumOf (·.committed) frames) ++ leBytes 8 (sumOf frameDropped frames) ++
    leBytes 8 (sumOf (·.dnr) frames) ++ leBytes 8 (sumOf (·.truncated) frames) ++ leBytes 8 l.length ++
    wordBytes trigTime ++ leBytes 8 winStart ++ leBytes 8 winEnd ++ zeros 8 ++ (l.map listedBytes).flatten ++ seals

/-- A part's whole seal. -/
def sealBytes (t : Take) (p : Part) (closeTime : W64) : List Byte :=
  match p.sealed_ with
  | some (chain, sig) => sealBody t.volume t.id p closeTime chain ++ beBytes sig
  | none => []

/-- Every sealed part's seal, in part order. -/
def takeSeals (t : Take) : List Byte := (t.parts.map (fun p => sealBytes t p t.closeTime)).flatten

/-- Frame records of every part. -/
def Take.frames (t : Take) : List FrameRec := (t.parts.map (·.frames)).flatten

/-- Tile-map entries of every part. -/
def Take.entryCount (t : Take) : Nat := (t.parts.map (fun p => p.entries.length)).sum

/-! ## Rebuilding a chain (R165, R244) -/

/-- The value of a part's chain rebuilt from its tile map, up to `segs` more segments, from entry `i` on. -/
def rebuildFrom (v id p : Nat) : Nat → List Entry → List (W64 × Nat) → W384 → W384
  | _, [], [], x => x
  | i, [], s :: segs, x =>
    if s.2 = i then rebuildFrom v id p i [] segs (extendValue 0 (chainLink p v id i x)) else x
  | i, e :: t, segs, x =>
    let y := segs.foldl (fun a s => if s.2 = i then extendValue 0 (chainLink p v id i a) else a) x
    rebuildFrom v id p (i + 1) t (segs.filter (fun s => s.2 != i)) (extendValue y (chainTile p v id i e))

/-- The chain of a closed part: open record, tile and link records, close record. -/
def rebuildChain (t : Take) (pt : Part) : W384 :=
  let x := extendValue 0 (chainOpen pt.idx t.volume t.id t.openTime pt.groups t.kcv)
  let y := rebuildFrom t.volume t.id pt.idx 0 (pt.entries.take pt.records) (pt.segments.drop 1) x
  extendValue y (chainClose pt.idx t.volume t.id pt.records pt.frames.length pt.listed.length
    (sumOf frameDropped pt.frames) (sumOf (·.dnr) pt.frames) t.closeTime)

end Sys2Proof.Machine
end

