-- ==== Sys2Proof/Machine/Alloc.lean ====
section
/-! DEFINITION. Period claims and stripe allocation (R177, R200), stripe buffers (R358), the making of a stored tile (R100
to R123), and a stripe's strips (R176, R182). -/

namespace Sys2Proof.Machine
open Sys2Proof

/-! ## Periods and stripes (R177) -/

/-- Periods of a layout that this head may use: its claims that the partner has accepted, or any when it runs alone. -/
def Dev.periods (d : Dev) (l : LayoutRec) : List Nat :=
  (d.vault.claims.filter (fun c => c.layout == l.layoutId && c.headB == d.glb.headB && (c.accepted || d.alone))).map (·.period)

/-- Whether no claim names a period; period 0 holds the root stripes and is never free (R233). -/
def Dev.periodFree (d : Dev) (l : LayoutRec) (p : Nat) : Bool :=
  decide (0 < p ∧ p < l.periods) && !d.vault.claims.any (fun c => c.layout == l.layoutId && c.period == p)

/-- The period that this head claims next: the lowest free one for head A, the highest for head B. -/
def Dev.nextPeriod (d : Dev) (l : LayoutRec) : Option Nat :=
  let n := d.vault.claims.length + 2
  ((List.range n).map (fun i => if d.glb.headB then l.periods - 1 - i else i)).find? (d.periodFree l)

/-- Claim a period (R177, R508): a record; at once in use where this head runs alone. A claim that the partner has not
answered yet is waited for. -/
def claimPeriod (l : LayoutRec) (d : Dev) : Dev :=
  if d.vault.claims.any (fun c => c.layout == l.layoutId && c.headB == d.glb.headB && !c.accepted) && !d.alone then d
  else if !d.journalRoom 64 then d
  else
    match d.nextPeriod l with
    | none => d
    | some p =>
      let c : Claim := { layout := l.layoutId, period := p, headB := d.glb.headB, accepted := d.alone, jseq := d.vault.jseq }
      appendRec 5 l.layoutId p .periodClaim none (onVault (fun v => { v with claims := v.claims ++ [c] }) d)

/-- Members of a stripe that lie on a failed drive, their remaps followed. -/
def Dev.lostMembers (d : Dev) (l : LayoutRec) (s : Nat) : List Nat :=
  (List.range l.members).filter (fun k => d.isFailed (d.memberAt l s k).1)

/-- Drives of a layout that are healthy or suspect. -/
def Dev.healthyIn (d : Dev) (l : LayoutRec) : Nat := ((List.range 48).filter (fun x => l.has x && d.serves x)).length

/-- A member's remap to a free spare chunk of its target drive; none without a target (R200). -/
def Dev.spareFor (d : Dev) (l : LayoutRec) (s k : Nat) : Option Remap :=
  (d.remapTarget l s).map (fun tc =>
    let p := l.place s k
    { layout := l.layoutId, failed := p.1, chunk := p.2, spare := tc.1, spareChunk := tc.2 })

/-- A remap stands in place of an earlier one of the same chunk. -/
def setRemap (r : Remap) (d : Dev) : Dev :=
  onVault (fun v => { v with
    remaps := v.remaps.filter (fun x => !(x.layout == r.layout && x.failed == r.failed && x.chunk == r.chunk)) ++ [r] }) d

/-- Whether a stripe can be written whole: each member on a failed drive finds a spare chunk of its own (R200). -/
def Dev.stripeOk (d : Dev) (l : LayoutRec) (s : Nat) : Bool :=
  ((d.lostMembers l s).foldl (fun o k => o.bind (fun x => (x.spareFor l s k).map (fun r => setRemap r x))) (some d)).isSome

/-- The lowest free stripe index of this head's periods, avoiding failed drives where no spare chunk is free. -/
def Dev.lowestStripe (d : Dev) (l : LayoutRec) : Option Nat :=
  let ps := (d.periods l).mergeSort (fun a b => decide (a ≤ b))
  ps.findSome? (fun p => ((List.range 256).map (fun i => p * 256 + i)).find? (fun s =>
    !d.vault.inUse.contains (l.layoutId, s) && d.stripeOk l s))

/-- Allocate a stripe; with none free a period is claimed first. Writing needs 18 healthy drives (R200), and an area that no forerunner
layout takes any more (R208; DEDUCED, notes/assumptions/61.md). -/
def allocStripe (l : LayoutRec) (d : Dev) : Dev × Option Nat :=
  if d.healthyIn l < 18 ∨ (d.forerunnerOf l).isSome then (d, none)
  else
    let d1 := if (d.lowestStripe l).isSome then d else claimPeriod l d
    match d1.lowestStripe l with
    | some s => (onVault (fun v => { v with inUse := v.inUse ++ [(l.layoutId, s)] }) d1, some s)
    | none => (d1, none)

/-- A stripe is freed: it may be allocated again after the next DURABLE (R235). -/
def freeStripe (e : Nat × Nat) (d : Dev) : Dev :=
  if d.vault.inUse.contains e && !d.vault.freedNext.contains e then
    onVault (fun v => { v with freedNext := v.freedNext ++ [e] }) d
  else d

/-- Buffers of pools 0 and 1 for one stripe, through the ledger's queue (R81, R358). -/
def allocBuffers (d : Dev) : Dev × Option (Nat × Nat) :=
  match poolAlloc 0 true d with
  | (d1, none) => (d1, none)
  | (d1, some a) =>
    match poolAlloc 1 true d1 with
    | (d2, some b) => (d2, some (a, b))
    | (d2, none) => (poolFree 0 a true d2, none)

/-- Free a stripe's buffers. -/
def freeBuffers (sb : StripeBuf) (d : Dev) : Dev := poolFree 1 sb.parIdx true (poolFree 0 sb.bufIdx true d)

/-- An empty stripe buffer. -/
def StripeBuf.fresh (layout stripe volume takeId part source group : Nat) (b : Nat × Nat) (gsn : W32) : StripeBuf :=
  { layout := layout, stripe := stripe, volume := volume, takeId := takeId, part := part, source := source, group := group,
    used := 0, data := [], entries := [], frames := [], commitGsn := gsn, slots := 0, padded := false, maint := false,
    bufIdx := b.1, parIdx := b.2, owed := [], gstate := none }

/-- The data space of a stripe (R115). -/
def dataSpace : Nat := 4194304

/-! ## Making a stored tile (R100) -/

/-- Bit `n` of PIPE_CFG of pipe `g` (R127). -/
def Dev.pipeBit (d : Dev) (g : Fin 4) (n : Nat) : Bool := (d.regs.pipeCfg.at g).getLsbD n

/-- K_INIT of pipe `g`. -/
def Dev.kInit (d : Dev) (g : Fin 4) : Nat := bits (d.regs.pipeCfg.at g).toNat 11 8

/-- A made tile: its stored bytes, mode, whether a codec was tried in vain, fingerprint. -/
structure Made where
  stored   : List Byte
  mode     : Nat
  fallback : Bool
  fp       : W256
deriving DecidableEq, Repr

/-- The fingerprint of a raw tile under the key of a slot (R116). -/
def Dev.fingerprint (d : Dev) (hkey : Nat) (raw : List Byte) : W256 :=
  hmac256 (((tget d.ciph.hkeys hkey).map (·.key)).getD []) raw

/-- The class L page that encrypts a take's tiles: the one that its open named, or another of its domain that is READY with the volume's
key, as at another head or after a restart (R136, R500). -/
def Dev.encPage (d : Dev) (t : Take) : Option Nat :=
  let good (p : Nat) : Bool := (d.page p).state == .ready && (d.page p).domain == t.domain && (d.page p).kcv == t.kcv
  if good t.page then some t.page else ((List.range 16).map (· + 48)).find? good

/-- Whether the keys of a take are held, and CIPH_EN is set where they encrypt (R166). While they are not, its tiles wait to be encoded
(DESIGN CHOICE, notes/assumptions/72.md). -/
def Dev.mayEncode (d : Dev) (t : Take) : Bool := (decide (64 ≤ t.page) || (d.regs.ciphCfg.getLsbD 0 && (d.encPage t).isSome)) && (d.keySlot t).isSome

/-- The fingerprint of a raw tile of a take. -/
def Dev.takeFp (d : Dev) (t : Take) (raw : List Byte) : W256 := d.fingerprint ((d.keySlot t).getD t.hkey) raw

/-- Stages 2, 3 and 5 of R100 for a raw tile of a take on pipe `g`: fingerprint, codec, header, encryption under the
take's class L page with a nonce of the pipe's DRBG instance (R141). -/
def makeTile (g : Fin 4) (t : Take) (seq : W64) (format : W16) (flags : Nat) (geo : Option TileGeo) (raw : List Byte)
    (d : Dev) : Made × Dev :=
  let isMeta := flags / 16 % 4 == 1
  let c := chooseMode (d.pipeBit g 2) (d.pipeBit g 3) (d.kInit g) format isMeta geo raw
  let fp := d.takeFp t raw
  let h : TileHdr :=
    { volume := t.volume, takeId := t.id, tileSeq := seq, raw := raw.length, stored := 128 + c.body.length, mode := c.mode,
      format := format, flags := flags, cipher := 0, nonce := 0, tag := 0, fp := fp }
  let key := if t.page < 64 then some (d.page ((d.encPage t).getD t.page)).key else none
  ({ stored := storeTile h c.body key (Config.free192 d.free), mode := c.mode, fallback := c.fallback, fp := fp },
   if key.isSome then drbgDraw g.val d else d)

/-- Length of the stored tile that metadata of `raw` bytes takes, after compression. -/
def Dev.metaLength (d : Dev) (g : Fin 4) (raw : List Byte) : Nat :=
  128 + (chooseMode (d.pipeBit g 2) (d.pipeBit g 3) (d.kInit g) 0 true none raw).body.length

/-! ## Placing tiles (R115) -/

/-- Place a stored tile at the next multiple of 64 bytes, with its entry. -/
def StripeBuf.place (sb : StripeBuf) (l : LayoutRec) (stored : List Byte) (flags : BitVec 12) (seq : W64) (fp : W256) :
    StripeBuf :=
  let off := alignUp sb.used 64
  let e : Entry := { loc := l.location sb.stripe off, flags := flags, tileSeq := seq, fp := fp, storedLen := stored.length }
  { sb with used := off + stored.length, data := sb.data ++ [(off, stored)], entries := sb.entries ++ [e] }

/-- Whether a stored tile and the metadata behind it fit the data space. -/
def StripeBuf.fits (sb : StripeBuf) (len metaLen : Nat) : Bool :=
  decide (alignUp (alignUp sb.used 64 + len) 64 + metaLen ≤ dataSpace)

/-- The data space as bytes: tiles at their offsets, zeros between and after (R115). -/
def stripeBytes : Nat → List (Nat × List Byte) → List Byte
  | pos, [] => zeros (dataSpace - pos)
  | pos, (off, b) :: t => zeros (off - pos) ++ b ++ stripeBytes (off + b.length) t

/-- The strips of a stripe, member 0 first: 16 data strips of 256 KiB, then P and Q (R176, R182). -/
def StripeBuf.strips (sb : StripeBuf) : List (List Byte) :=
  let data := (List.range 16).map (fun k => slice (stripeBytes 0 sb.data) (k * 262144) 262144)
  data ++ [parityP 262144 data, parityQ 262144 data]

/-- The Write of a member's strip where it now lies (R171, R179). -/
def Dev.stripWrite (d : Dev) (l : LayoutRec) (sb : StripeBuf) (k : Nat) : Out :=
  let p := d.memberAt l sb.stripe k
  .nvmeWrite 1 p.1 p.2 64 (l.refTag sb.stripe k) (BitVec.ofNat 16 sb.volume) ((sb.strips[k]?).getD [])

/-! ## Remaps (R200) -/

/-- Remap member `k` of a stripe to a spare chunk of its target drive, with a REMAP record. None without a target, or while the journal
has no room for the record (R191). -/
def remapMember (l : LayoutRec) (s k : Nat) (d : Dev) : Option Dev :=
  if liveMax < d.vault.live + 64 then none
  else (d.spareFor l s k).map (fun r =>
    appendRec 4 l.layoutId s (.remap r.failed r.spare r.chunk r.spareChunk) none (setRemap r d))

/-- A remap found no spare chunk: SPARE_EXHAUSTED, and VLT_SPARE_OUT of the slot (R200, R212). -/
def spareOut (slot layout : Nat) (d : Dev) : Dev :=
  logEvent 0x0406 (BitVec.ofNat 32 slot) [BitVec.ofNat 32 layout] (onVault (fun v => { v with spareOut := true }) d)

/-- The member mask of a list of member numbers. -/
def maskOf (ks : List Nat) : BitVec 18 := ks.foldl (fun m k => m ||| (1 <<< k)) 0

/-- Every member of a stripe of `n` members. -/
def fullMask (n : Nat) : BitVec 18 := maskOf (List.range n)

end Sys2Proof.Machine
end

