-- ==== Sys2Proof/Machine/Reel.lean ====
section
/-! DEFINITION. Reel (R238 to R241): the ring, triggers, pins and segments. -/

namespace Sys2Proof.Machine
open Sys2Proof

/-- The least ring of R238 for a summed rate in bytes per second and the two lengths in ns. -/
def reelMinimum (rate pre post : Nat) : Nat :=
  (rate * (pre + post + 2000000) + (4128768 * 1000000000 - 1)) / (4128768 * 1000000000) + 64

/-- The stripe that an entry's location lies in. -/
def entryStripe (l : LayoutRec) (e : Entry) : Nat := (l.ofLocation e.loc).1

/-- Tiles of a frame (R226). -/
def frameTiles (f : FrameRec) : Nat := (f.recorded + 65535) / 65536

/-- Whether an entry is a tile of a frame. -/
def tileOfFrame (f : FrameRec) (e : Entry) : Bool :=
  seqSource e.tileSeq == f.group &&
    decide (f.firstTile ≤ seqIndex e.tileSeq ∧ seqIndex e.tileSeq < f.firstTile + frameTiles f)

/-- Whether a frame opened within a window. -/
def inWindow (lo hi : Nat) (f : FrameRec) : Bool := decide (lo ≤ f.timestamp.toNat ∧ f.timestamp.toNat ≤ hi)

/-- Whether an entry belongs to a frame: a tile of it, or a metadata tile that holds a META record of it (R240). -/
def entryOfFrame (f : FrameRec) (e : Entry) : Bool := tileOfFrame f e || e.metas.any (fun m => m.1 == f.group && m.2 == f.frame)

/-- Entries of a part that belong to the frames given. -/
def Part.entriesOf (p : Part) (fs : List FrameRec) : List Entry := p.entries.filter (fun e => fs.any (entryOfFrame · e))

/-- Whether a part still holds every tile of a frame. -/
def Part.holds (p : Part) (f : FrameRec) : Bool := decide ((p.entries.filter (tileOfFrame f)).length = frameTiles f)

/-- Committed frames of a take within a window that are still held whole (R240, R241). -/
def Take.window (t : Take) (lo hi : Nat) : List FrameRec := t.parts.flatMap (fun p => p.frames.filter (fun f => inWindow lo hi f && p.holds f))

/-- Frames of a take that its pipes have opened and that have not committed. One that is open reaches over every tile from its first on. -/
def Dev.coming (d : Dev) (t : Take) : List FrameRec :=
  groupList.flatMap (fun g =>
    if t.begun.getLsbD g.val && ((d.bound g).head?.map (·.id)) == some t.id then
      (d.pipes.at g).closed.map (·.2) ++ ((d.pipes.at g).frame.map (fun f => { f with recorded := 2 ^ 32 })).toList
    else []) ++ (d.inFlight.filter (fun s => s.volume == t.volume && s.takeId == t.id)).flatMap (·.frames)

/-- Stripes of a take that hold a tile of the frames given. -/
def Take.stripesOf (t : Take) (l : LayoutRec) (fs : List FrameRec) : List Nat :=
  ((t.parts.map (fun p => (p.entriesOf fs).map (entryStripe l))).flatten).eraseDups

/-- Stripes that hold a tile of a frame of a window, committed or coming (R239). -/
def Dev.windowStripes (d : Dev) (l : LayoutRec) (t : Take) (lo hi : Nat) : List Nat :=
  t.stripesOf l (t.window lo hi ++ (d.coming t).filter (inWindow lo hi))

/-- Change the ring of a Reel take. -/
def onReel (v id : Nat) (f : ReelSt → ReelSt) (d : Dev) : Dev := onTake v id (fun t => { t with reel := t.reel.map f }) d

/-- Pin stripes of the ring: each leaves it, and a free stripe takes its place, or the ring shrinks (R240, R241). -/
def pinStripes (l : LayoutRec) (v id : Nat) (ss : List Nat) (d : Dev) : Dev :=
  ss.foldl (fun x s =>
    match allocStripe l x with
    | (x1, some n) => onReel v id (fun r => { r with stripes := r.stripes.map (fun e => if e.2 = s then (e.1, n) else e) }) x1
    | (x1, none) => onReel v id (fun r => { r with stripes := r.stripes.filter (fun e => e.2 != s) }) x1) d

/-- Pin every ring stripe that holds a tile of a frame of the window: none where the ring would fall below its minimum, and the pin is
undone (R241). Answers the stripes of the window too. -/
def pinWindow (l : LayoutRec) (v id lo hi : Nat) (d : Dev) : Option (Dev × List (Nat × Nat)) :=
  match d.take v id with
  | none => none
  | some t =>
    match t.reel with
    | none => none
    | some r =>
      let ss := d.windowStripes l t lo hi
      let d1 := pinStripes l v id (ss.filter (fun s => r.stripes.any (fun e => e.2 == s))) d
      match (d1.take v id).bind (·.reel) with
      | some r1 => if r1.stripes.length < r.minimum then none else some (d1, ss.map (fun s => (l.layoutId, s)))
      | none => none

/-- A segment from its pieces; its window is that asked for, and the manifest states what it includes. -/
def Segment.start (id : Nat) (time : W64) (lo hi : Nat) (ss : List (Nat × Nat)) (fs : List FrameRec) : Segment :=
  { id := id, trigTime := time, winStart := lo, winEnd := hi, closed := false, reason := 4, stripes := ss, frames := fs, sealed_ := none,
    full := false, pagedEnts := 0, pagedFrames := 0, tileFullLoc := 0, frameFullLoc := 0, reg := none, manEnd := none, gone := 0 }

/-- The open segment whose window a trigger's window overlaps, if there is one (R241). -/
def overlapping (lo hi : Nat) (segs : List Segment) : Option Segment :=
  segs.find? (fun s => !s.full && s.gone == 0 && decide (s.winStart ≤ hi ∧ lo ≤ s.winEnd))

/-- What a trigger at time `time` does to a take (R239 to R241): its outcome, and the segment that it pins. -/
def pinTrigger (l : LayoutRec) (t : Take) (time : W64) (d : Dev) : Dev × Nat × Nat :=
  match t.reel with
  | none => (d, 4, 0)
  | some r =>
    let lo := time.toNat - r.preNs
    let hi := time.toNat + r.postNs
    match overlapping lo hi r.segs with
    | some s =>
      match pinWindow l t.volume t.id (min lo s.winStart) (max hi s.winEnd) d with
      | none => (d, 2, 0)
      | some (d1, ss) =>
        let fs := t.window (min lo s.winStart) (max hi s.winEnd)
        let grow (x : Segment) : Segment :=
          if x.id = s.id then { x with winStart := min lo x.winStart, winEnd := max hi x.winEnd,
                                       stripes := (x.stripes ++ ss).eraseDups, frames := fs } else x
        (onReel t.volume t.id (fun q => { q with segs := q.segs.map grow }) d1, 1, s.id)
    | none =>
      if r.limit ≤ (r.segs.filter (fun s => s.gone == 0)).length then (d, 3, 0)
      else
        match pinWindow l t.volume t.id lo hi d with
        | none => (d, 2, 0)
        | some (d1, ss) =>
          let id := r.nextSeg
          (onReel t.volume t.id (fun q => { q with
            nextSeg := id + 1, segs := q.segs ++ [.start id time lo hi ss (t.window lo hi)] }) d1, 0, id)

/-- The group that the pin rule uses: the lowest-numbered bound group that this head owns (R239). -/
def Dev.pinGroup (d : Dev) (t : Take) : Option (Fin 4) := groupList.find? (fun g => t.hasGroup g && d.owns g)

/-- A trigger is taken by a take: pinned or refused, written as a TRIGGER record, passed to the partner (R241, R294),
with a TRIG_OUT pulse where it is accepted. `time` is none where it has none (outcome 5). -/
def takeTrigger (t : Take) (source group : Nat) (trigId : W32) (srcField : W16) (time : Option W64) (place : W32) (d : Dev) :
    Dev :=
  match d.layoutOf t with
  | none => d
  | some l =>
    let r3 := match time with
      | some x => pinTrigger l t x d
      | none => (d, 5, 0)
    let outcome := r3.2.1
    let rec_ : TrigRec :=
      { trigId := trigId, source := source, group := group, srcField := srcField, time := time.getD 0, place := place,
        outcome := outcome }
    let part := ((if group < 4 then t.parts.find? (fun p => p.groups.getLsbD group) else none).map (·.idx)).getD
      ((t.parts.find? (·.mine)).map (·.idx) |>.getD 0)
    let m : MetaRec := { body := .trig rec_, part := part, seg := 0, src := if source = 0 then some (group, place) else none }
    let d1 := onTake t.volume t.id (fun x => { x with pending := x.pending ++ [m] }) r3.1
    let d2 := if outcome = 2 ∨ outcome = 3 then
      logEvent 0x040A (if group < 4 then BitVec.ofNat 32 group else noInstance)
        [BitVec.ofNat 32 t.id, trigId, BitVec.ofNat 32 outcome] d1 else d1
    let d3 := if outcome ≤ 1 then { d2 with glb := { d2.glb with trigOut := true } } else d2
    tangoSend 0 (.triggerFwd rec_ t.id r3.2.2) d3

/-- A stripe of a Reel take has committed: segments that are open take the frames of their windows, and the ring gives up every stripe
that holds a tile of one (R239, R240). -/
def pinCommitted (l : LayoutRec) (v id : Nat) (d : Dev) : Dev :=
  match d.take v id with
  | none => d
  | some t =>
    match t.reel with
    | none => d
    | some r =>
      let open_ := r.segs.filter (fun s => !s.full && s.gone == 0)
      let need := (open_.flatMap (fun s => d.windowStripes l t s.winStart s.winEnd)).eraseDups
      let d1 := pinStripes l v id (need.filter (fun s => r.stripes.any (fun e => e.2 == s))) d
      let grow (s : Segment) : Segment :=
        if s.full then s
        else { s with frames := t.window s.winStart s.winEnd
                      stripes := (s.stripes ++ (d.windowStripes l t s.winStart s.winEnd).map (fun x => (l.layoutId, x))).eraseDups }
      if open_.isEmpty then d else onReel v id (fun q => { q with segs := q.segs.map grow }) d1

/-- A segment's window is complete: on every bound group of this head a frame after it has opened, and every frame of it has committed
(R240). -/
def Dev.windowDone (d : Dev) (t : Take) (s : Segment) : Bool :=
  let late := t.frames ++ d.coming t
  groupList.all (fun g => !(t.hasGroup g && d.owns g) || late.any (fun f => f.group == g.val && decide (s.winEnd < f.timestamp.toNat))) &&
    !(d.coming t).any (inWindow s.winStart s.winEnd)

/-- Entries of a segment, in tile-map order. -/
def segEntries (t : Take) (s : Segment) : List Entry := (t.parts.map (fun p => p.entriesOf s.frames)).flatten

/-- Change a segment of a Reel take. -/
def onSegment (v id seg : Nat) (f : Segment → Segment) (d : Dev) : Dev :=
  onReel v id (fun q => { q with segs := q.segs.map (fun y => if y.id = seg then f y else y) }) d

/-- A Reel take with one of its segments. -/
def Dev.segment (d : Dev) (v id seg : Nat) : Option (Take × Segment) :=
  (d.take v id).bind (fun t => (t.reel.bind (fun q => q.segs.find? (·.id == seg))).map (fun s => (t, s)))

/-- The last frame of each group of a segment carries FRAME_CUT (R227, R241). -/
def cutLast (fs : List FrameRec) : List FrameRec :=
  fs.zipIdx.map (fun x => if (fs.drop (x.2 + 1)).any (fun f => f.group == x.1.group) then x.1 else setFlag 7 x.1)

/-- A segment's frames are fixed: its window is complete, or the take closes and its last frames carry FRAME_CUT (R240, R241). -/
def fixSegment (v id seg : Nat) (cut : Bool) (d : Dev) : Dev :=
  onSegment v id seg (fun s =>
    if s.full then s
    else { s with
      full := true, reason := if cut then 5 else 4
      frames := if cut then cutLast s.frames else s.frames }) d

/-- The pages of a segment's tile map and frame index, each formed once the one before it has committed (R225, R228, R240). -/
def pageSegment (v id seg : Nat) (d : Dev) : Dev :=
  match d.segment v id seg with
  | none => d
  | some (t, s) =>
    match d.layoutOf t, t.parts.find? (·.mine) with
    | some l, some pt =>
      let add (b : MetaBody) (x : Dev) : Dev :=
        onTake v id (fun y => { y with pending := y.pending ++ [{ body := b, part := pt.idx, seg := seg, src := none }] }) x
      let d1 := match if t.pending.any (·.isTilePage seg) || !d.settledAt l s.tileFullLoc then none
          else nextPage s.pagedEnts 4094 (segEntries t s) with
        | some es => add (.tilePage s.tileFullLoc s.pagedEnts es) (onSegment v id seg (fun y => { y with pagedEnts := y.pagedEnts + es.length }) d)
        | none => d
      match if t.pending.any (·.isFramePage seg) || !d.settledAt l s.frameFullLoc then none else nextPage s.pagedFrames 818 s.frames with
      | some fs => add (.framePage s.frameFullLoc s.pagedFrames fs) (onSegment v id seg (fun y => { y with pagedFrames := y.pagedFrames + fs.length }) d1)
      | none => d1
    | _, _ => d

/-- Whether every page of a segment has been placed in a metadata tile. -/
def segPaged (t : Take) (s : Segment) : Bool :=
  decide ((segEntries t s).length ≤ s.pagedEnts ∧ s.frames.length ≤ s.pagedFrames) &&
    !t.pending.any (fun r => r.isTilePage s.id || r.isFramePage s.id)

/-- Seal a segment whose pages are written, in a free register (R240; R165, first row), and write its manifest; it waits while none is
free. The earliest and the latest timestamp of a segment of no frame are free. -/
def sealSegment (v id seg : Nat) (d : Dev) : Dev :=
  match d.segment v id seg, d.freeMr with
  | some (t, s), some r =>
    match t.parts.find? (·.mine) with
    | none => d
    | some pt =>
      if s.closed || !s.full || !segPaged t s then d
      else
        let es := segEntries t s
        let ct : W64 := if s.reason = 5 then t.closeTime else 0
        let d1 := extendMr r (chainOpen pt.idx v id t.openTime pt.groups t.kcv) (assignMr r v id pt.idx d)
        let d2 := (es.zipIdx).foldl (fun x e => extendMr r (chainTile pt.idx v id e.2 e.1) x) d1
        let d3 := extendMr r (chainClose pt.idx v id es.length s.frames.length (s.frames.filter listed).length
          (sumOf frameDropped s.frames) (sumOf (·.dnr) s.frames) ct) d2
        let q : Part := { pt with records := es.length, segments := [(Config.serial, 2 ^ 64 - 1)] }
        let body := sealBody v id q ct (d3.mr r)
        let sig := deviceSign (sha384 body) d3.free
        let times := s.frames.map (fun f => f.timestamp.toNat)
        let signed : Take := { t with parts := t.parts.map (fun p => if p.idx = pt.idx then { p with sealed_ := some (d3.mr r, sig) } else p) }
        let man := manifestBytes signed 1 s.reason seg s.frames es.length s.trigTime (times.min?.getD (Config.free64 d.free).toNat)
          (times.max?.getD (Config.free64 (d.free + 1)).toNat) ct (body ++ beBytes sig)
        let recs : List MetaRec := (pieces (man.length / 65528 + 1) man).map
          (fun b => { body := .manifest b, part := pt.idx, seg := seg, src := none })
        onTake v id (fun x => { x with pending := x.pending ++ recs })
          (onSegment v id seg (fun y => { y with closed := true, sealed_ := some (d3.mr r, sig), reg := some r }) (drbgDraw 4 (drawn (drawn d3))))
  | _, _ => d

/-- A segment's register is free once its manifest has committed (R160): no metadata tile up to the manifest's last is still in flight. -/
def freeSegment (v id seg : Nat) (d : Dev) : Dev :=
  match d.segment v id seg with
  | none => d
  | some (t, s) =>
    match s.reg, t.parts.find? (·.mine) with
    | some r, some pt =>
      if t.pending.any (fun m => m.isManifest && m.seg == seg) then d
      else
        let end_ := s.manEnd.getD pt.metaIdx
        let busy := d.inFlight.any (fun b => b.volume == v && b.takeId == id && b.entries.any (fun e =>
          e.flags.getLsbD 3 && decide (e.tileSeq.toNat % 2 ^ 55 < end_)))
        if busy then onSegment v id seg (fun y => { y with manEnd := some end_ }) d
        else freeMr r (onSegment v id seg (fun y => { y with reg := none }) d)
    | _, _ => d

/-- One segment goes on: frames fixed once its window is complete, paged, sealed, its register freed. -/
def stepSegment (v id seg : Nat) (d : Dev) : Dev :=
  match d.segment v id seg with
  | none => d
  | some (t, s) =>
    let d1 := if !s.full && s.gone == 0 && d.windowDone t s then fixSegment v id seg false d else d
    let full := ((d1.segment v id seg).map (·.2.full)).getD false
    freeSegment v id seg (if full then sealSegment v id seg (pageSegment v id seg d1) else d1)

/-- Every segment of a take goes on. -/
def closeSegments (v id : Nat) (d : Dev) : Dev :=
  match (d.take v id).bind (fun t => t.reel) with
  | none => d
  | some r => r.segs.foldl (fun x s => stepSegment v id s.id x) d

/-- A part of a Reel take without a stripe that the ring uses again: its entries go, with the frames that lose a tile (R238). -/
def Part.without (l : LayoutRec) (s : Nat) (p : Part) : Part :=
  let out (e : Entry) : Bool := entryStripe l e == s
  let broken := p.frames.filter (fun f => p.entries.any (fun e => out e && tileOfFrame f e))
  let stays (e : Entry) : Bool := !out e && !(e.flags.getLsbD 1 && broken.any (tileOfFrame · e))
  { p with
    entries := p.entries.filter stays, frames := p.frames.filter (fun f => !broken.contains f)
    pagedEnts := ((p.entries.take p.pagedEnts).filter stays).length
    pagedFrames := ((p.frames.take p.pagedFrames).filter (fun f => !broken.contains f)).length }

/-- The snapshots of a take follow the entries and frames that leave its map. -/
def Snap.follow (take : Nat) (old new : Part) (s : Snap) : Snap :=
  { s with takes := s.takes.map (fun r =>
    if r.1 = take ∧ r.2.1 = old.idx then
      (r.1, r.2.1, ((old.entries.take r.2.2.1).filter (new.entries.contains ·)).length,
        ((old.frames.take r.2.2.2.1).filter (new.frames.contains ·)).length, r.2.2.2.2)
    else r) }

/-- Stripes leave the map of a Reel take. -/
def dropStripes (l : LayoutRec) (t : Take) (ss : List Nat) (d : Dev) : Dev :=
  let cut (p : Part) : Part := ss.foldl (fun q s => q.without l s) p
  onCat (fun c => { c with snaps := c.snaps.map (fun s =>
      if s.volume = t.volume then t.parts.foldl (fun x p => x.follow t.id p (cut p)) s else s) })
    (onTake t.volume t.id (fun x => { x with parts := x.parts.map cut }) d)

/-- The ring stripe that the pipe uses next: the oldest, whose entries leave the ring's map (R238). -/
def reelNext (l : LayoutRec) (t : Take) (d : Dev) : Dev × Option Nat :=
  match t.reel with
  | none => (d, none)
  | some r =>
    match r.stripes with
    | [] => (d, none)
    | e :: rest => (onReel t.volume t.id (fun q => { q with stripes := rest ++ [e] }) (dropStripes l t [e.2] d), some e.2)

/-- The map of a take's part: of a Reel take, what lies in its ring, for a pinned stripe has left it (R238, R240). -/
def Take.mapOf (l : LayoutRec) (t : Take) (p : Part) : List Entry × List FrameRec :=
  match t.reel with
  | none => (p.entries, p.frames)
  | some r =>
    let es := p.entries.filter (fun e => r.stripes.any (fun s => s.2 == entryStripe l e))
    (es, p.frames.filter (fun f => decide ((es.filter (tileOfFrame f)).length = frameTiles f)))

/-- Allocate the ring at open: `n` stripes from this head's periods (R238). -/
def allocRing (l : LayoutRec) : Nat → List (Nat × Nat) → Dev → Dev × List (Nat × Nat)
  | 0, acc, d => (d, acc)
  | n + 1, acc, d =>
    match allocStripe l d with
    | (d1, some s) => allocRing l n (acc ++ [(l.layoutId, s)]) d1
    | (d1, none) => (d1, acc)

end Sys2Proof.Machine
end

