-- ==== Sys2Proof/Machine/Disk.lean ====
section
/-! DEFINITION. What the head keeps below LBA 32,768 of every drive: labels (R173), progress records (R209), and the journal dump as
it is read back (R188, R194, R195). -/

namespace Sys2Proof.Machine
open Sys2Proof

/-! ## Labels (R173) -/

/-- The table of a 48-drive layout at reset: the linear table of R176. A layout record that brings no table of its own stands for it
(DESIGN CHOICE, notes/assumptions/56.md). -/
def linearTable : List Nat := (List.range 256).flatMap (fun r => (List.range 18).map (fun j => (18 * r + j) % 48))

/-- A record with the default table where it brings none. -/
def withTable (l : LayoutRec) : LayoutRec :=
  if l.table.isEmpty ∧ l.kind = 0 ∧ l.drives = 48 then { l with table := linearTable } else l

/-- A layout record's 6,144 bytes. -/
def layoutBytes (l : LayoutRec) : List Byte :=
  padTo 6144 (leBytes 2 l.layoutId ++ leBytes 1 l.kind ++ leBytes 1 l.width ++ leBytes 1 l.drives ++ wordBytes l.flags ++ zeros 2 ++
    wordBytes l.driveMask ++ leBytes 8 l.baseLba ++ leBytes 8 l.periods ++ leBytes 8 l.spares ++ zeros 8 ++
    (l.table.map (leBytes 1)).flatten)

/-- The layout record that bytes hold. -/
def readLayout (b : List Byte) : LayoutRec :=
  let w := fieldAt b 3 1
  { layoutId := fieldAt b 0 2, kind := fieldAt b 2 1, width := w, drives := fieldAt b 4 1, flags := BitVec.ofNat 8 (fieldAt b 5 1),
    driveMask := BitVec.ofNat 64 (fieldAt b 8 8), baseLba := fieldAt b 16 8, periods := fieldAt b 24 8, spares := fieldAt b 32 8,
    table := (slice b 48 (256 * (w + 2))).map (·.toNat) }

/-- A drive label, read or to be written. -/
structure Label where
  version : Nat
  slot    : Nat
  vaultId : W64
  seq     : Nat
  layouts : List LayoutRec
deriving DecidableEq, Repr

/-- A label's bytes up to its CRC, and after it. -/
def Label.head (x : Label) : List Byte :=
  [0x4F, 0x43, 0x56, 0x4C] ++ leBytes 2 x.version ++ leBytes 1 x.slot ++ leBytes 1 x.layouts.length ++ wordBytes x.vaultId ++ leBytes 8 x.seq
/-- A label's bytes after its CRC. -/
def Label.tail (x : Label) : List Byte :=
  zeros 4 ++ padTo 49152 ((x.layouts.take 8).map layoutBytes).flatten ++ zeros 16352

/-- The 64 KiB of a label. -/
def Label.bytes (x : Label) : List Byte := x.head ++ wordBytes (crc32c (x.head ++ zeros 4 ++ x.tail)) ++ x.tail

/-- A copy of a label with a valid CRC. -/
def readLabel (b : List Byte) : Option Label :=
  if b.length = 65536 ∧ b.take 4 = [0x4F, 0x43, 0x56, 0x4C] ∧
      fieldAt b 24 4 = (crc32c (b.take 24 ++ zeros 4 ++ b.drop 28)).toNat then
    some { version := fieldAt b 4 2, slot := fieldAt b 6 1, vaultId := BitVec.ofNat 64 (fieldAt b 8 8), seq := fieldAt b 16 8,
           layouts := (List.range (min 8 (fieldAt b 7 1))).map (fun i => readLayout (slice b (32 + 6144 * i) 6144)) }
  else none

/-- The element of the newest sequence number, the first of equals (R11). -/
def newestOf {α : Type} (f : α → Nat) : List α → Option α
  | [] => none
  | x :: t =>
    match newestOf f t with
    | none => some x
    | some y => if before64 (f x) (f y) then some y else some x

/-- What a read at an LBA below 32,768 brought. -/
def sysAt (lba : Nat) (sys : List (Nat × List Byte)) : List (List Byte) := (sys.filter (fun e => e.1 == lba)).map (·.2)

/-- The label of a drive: of its two copies the valid one of the higher label_seq. -/
def labelOf (sys : List (Nat × List Byte)) : Option Label :=
  newestOf (·.seq) ((sysAt 0 sys ++ sysAt 16 sys).filterMap readLabel)

/-- A label of a higher label_seq than this head knows gives it the vault's layouts, its identifier and its level (R438). -/
def learnLabel (sys : List (Nat × List Byte)) (d : Dev) : Dev :=
  match labelOf sys with
  | none => d
  | some x =>
    if upTo64 x.seq d.vault.labelSeq then d
    else onVault (fun v => { v with labelSeq := x.seq, vaultLevel := x.version, vaultId := x.vaultId, layouts := x.layouts }) d

/-- The two writes of a drive's label, alike. -/
def Dev.labelWrites (d : Dev) (slot : Nat) : List Out :=
  let b := ({ version := d.vault.vaultLevel, slot := slot, vaultId := d.vault.vaultId, seq := d.vault.labelSeq, layouts := d.vault.layouts } : Label).bytes
  [.nvmeWrite 4 slot 0 16 (sysTag 0) 0 b, .nvmeWrite 4 slot 16 16 (sysTag 16) 0 b]

/-- Write the labels of the drives given, under the next label_seq. -/
def writeLabels (slots : List Nat) (d : Dev) : Dev :=
  let d1 := onVault (fun v => { v with labelSeq := next64 v.labelSeq }) d
  { emits (slots.map d1.labelWrites).flatten d1 with
    disk := { d1.disk with layouts := d1.vault.layouts, vaultId := d1.vault.vaultId, labelSeq := d1.vault.labelSeq, level := d1.vault.vaultLevel } }

/-! ## Progress records (R209) -/

/-- The 60 bytes that a progress record's CRC covers. -/
def Progress.head (id : Nat) (p : Progress) : List Byte :=
  [0x4F, 0x43, 0x50, 0x52] ++ leBytes 2 id ++ zeros 2 ++ leBytes 8 p.seq ++ leBytes 8 p.rebuildPos ++ leBytes 8 p.scrubPos ++
    leBytes 8 p.boundary ++ leBytes 8 p.backup ++ leBytes 4 p.relocs.length ++ leBytes 1 (bit p.valid) ++ zeros 7

/-- Sector 0 of a layout's progress sectors. -/
def Progress.bytes (id : Nat) (p : Progress) : List Byte := padTo 4096 (p.head id ++ wordBytes (crc32c (p.head id)))

/-- The 16 bytes of a relocation: R209 gives their number only (DESIGN CHOICE, notes/assumptions/57.md). -/
def relocBytes (r : Remap) : List Byte := leBytes 1 r.failed ++ leBytes 7 r.chunk ++ leBytes 1 r.spare ++ leBytes 7 r.spareChunk

/-- Sectors 1 to 16: the relocation list. -/
def listBytes (rs : List Remap) : List Byte := padTo 65536 (rs.map relocBytes).flatten

/-- A relocation as it is read back. -/
def readReloc (layout : Nat) (b : List Byte) : Remap :=
  { layout := layout, failed := fieldAt b 0 1, chunk := fieldAt b 1 7, spare := fieldAt b 8 1, spareChunk := fieldAt b 9 7 }

/-- A valid copy of a layout's progress record, with its relocation list as read. -/
def readProgress (id : Nat) (b rel : List Byte) : Option Progress :=
  if b.take 4 = [0x4F, 0x43, 0x50, 0x52] ∧ fieldAt b 4 2 = id ∧ fieldAt b 60 4 = (crc32c (b.take 60)).toNat then
    some { seq := fieldAt b 8 8, rebuildPos := fieldAt b 16 8, scrubPos := fieldAt b 24 8, boundary := fieldAt b 32 8,
           backup := fieldAt b 40 8, valid := fieldAt b 52 1 == 1, saved := []
           relocs := (List.range (min 4096 (fieldAt b 48 4))).map (fun i => readReloc id (slice rel (16 * i) 16)) }
  else none

/-- First LBA of a layout's progress sectors (R173): 32 for each of the eight layout slots. -/
def Dev.progressLba (d : Dev) (l : LayoutRec) : Nat :=
  16640 + 32 * ((d.vault.layouts.findIdx? (fun x => x.layoutId == l.layoutId)).getD 0)

/-- The layout in whose geometry a location of a layout is read (R208): below the boundary of a moving-boundary reshape the native
one. -/
def Dev.layoutAt (d : Dev) (l : LayoutRec) (loc : Nat) : LayoutRec :=
  match tget d.vault.moving l.layoutId with
  | some m => if loc / 64 < 1024 * m.boundary then (d.layout m.target).getD l else l
  | none => l

/-- The stripe that holds stripe `s` of a layout now (R208). -/
def Dev.homeStripe (d : Dev) (l : LayoutRec) (s : Nat) : Nat × Nat :=
  match tget d.vault.moving l.layoutId with
  | some m => if s < 2 * m.boundary then (m.target, s / 2) else (l.layoutId, s)
  | none => (l.layoutId, s)

/-- The stripe and member of a data chunk of a drive (R176). -/
def LayoutMember (l : LayoutRec) (slot chunk : Nat) : Option (Nat × Nat) :=
  let p := chunk / l.perPeriod
  ((List.range 256).map (fun r => p * 256 + r)).findSome? (fun s =>
    ((List.range l.members).find? (fun k => l.place s k == (slot, chunk))).map (fun k => (s, k)))

/-- A layout's progress as it stands now. -/
def Dev.progressNow (d : Dev) (l : LayoutRec) : Progress :=
  let m := (d.forerunnerOf l).bind (fun f => tget d.vault.moving f.layoutId)
  let b := m.bind (·.batch)
  { seq := next64 d.vault.progSeq, rebuildPos := tgetD d.vault.rebuildPos 0 l.layoutId, scrubPos := tgetD d.vault.scrubPos 0 l.layoutId,
    boundary := (m.map (·.boundary)).getD 0, backup := (b.map (·.first)).getD 0, valid := b.isSome
    relocs := (m.map (·.relocs)).getD [], saved := (b.map (·.saved)).getD [] }

/-- Write a layout's relocation list and progress record to every healthy drive of it. -/
def persistProgress (l : LayoutRec) (d : Dev) : Dev :=
  let p := d.progressNow l
  let lba := d.progressLba l
  let dest := (List.range 48).filter (fun s => l.has s && (d.drive s).state == .healthy)
  let list (s : Nat) : List Out := if p.relocs.isEmpty then [] else
    [.nvmeWrite 4 s (lba + 1) 16 (sysTag (lba + 1)) 0 (listBytes p.relocs)]
  { emits (dest.map (fun s => list s ++ [.nvmeWrite 4 s lba 1 (sysTag lba) 0 (p.bytes l.layoutId)])).flatten
      (onVault (fun v => { v with progSeq := p.seq }) d) with
    disk := { d.disk with progress := tput d.disk.progress l.layoutId p } }

/-- The progress that a reader takes for a layout: of the copies on the drives the valid one of the highest progress_seq. -/
def Dev.progressOf (d : Dev) (l : LayoutRec) (reads : List (List (Nat × List Byte))) : Option Progress :=
  let lba := d.progressLba l
  let got := reads.filterMap (fun sys =>
    (sysAt lba sys).head?.bind (fun b => readProgress l.layoutId b ((sysAt (lba + 1) sys).head?.getD [])))
  newestOf (·.seq) ((tget d.disk.progress l.layoutId).toList ++ got)

/-- A restart goes on from a layout's progress (R201, R205, R209): rebuild and scrub at their positions, a moving boundary where it
stood. A valid backup is written back over what its batch had begun to convert. -/
def resumeProgress (reads : List (List (Nat × List Byte))) (l : LayoutRec) (d : Dev) : Dev :=
  match d.progressOf l reads with
  | none => d
  | some p =>
    let d1 := onVault (fun v => { v with
      rebuildPos := tput v.rebuildPos l.layoutId p.rebuildPos, scrubPos := tput v.scrubPos l.layoutId p.scrubPos
      progSeq := later64 v.progSeq p.seq }) d
    match d1.forerunnerOf l with
    | none => d1
    | some f =>
      if p.boundary = 0 ∧ !p.valid then d1
      else
        let m : Moving := { target := l.layoutId, boundary := p.boundary, relocs := p.relocs.map (fun r => { r with layout := f.layoutId }), batch := none }
        let back (x : WriteBack) : Out := .nvmeWrite 3 x.slot x.lba 64 x.refTag x.appTag x.data
        let d2 := onVault (fun v => { v with moving := tput v.moving f.layoutId m }) d1
        if p.valid then persistProgress l (emits (p.saved.map back) d2) else d2

/-! ## The journal read back (R188, R194, R195) -/

/-- An entry of a STRIPE_OPEN record from its 56 bytes. -/
def readEntry (b : List Byte) : Entry :=
  let w := fieldAt b 0 8
  { loc := w % 2 ^ 52, flags := BitVec.ofNat 12 (w / 2 ^ 52), tileSeq := BitVec.ofNat 64 (fieldAt b 8 8)
    fp := BitVec.ofNat 256 (leNat (slice b 16 32).reverse), storedLen := fieldAt b 48 4 }

/-- The body of a record from its bytes, by its type code. -/
def readBody (b : List Byte) : Option JBody :=
  match fieldAt b 0 1 with
  | 1 =>
    let n := fieldAt b 46 2
    some (.stripeOpen (fieldAt b 32 2) (fieldAt b 36 4) (BitVec.ofNat 32 (fieldAt b 40 4)) (fieldAt b 44 1) (fieldAt b 45 1 % 2 == 1)
      (fieldAt b 45 1 / 2 % 2 == 1) ((List.range n).map (fun i => readEntry (slice b (64 + 56 * i) 56))) (BitVec.ofNat 18 (fieldAt b 48 4)))
  | 2 => some (.stripeRetire (fieldAt b 32 8))
  | 3 => some .periodClaim
  | 4 => some (.remap (fieldAt b 32 1) (fieldAt b 33 1) (fieldAt b 40 8) (fieldAt b 48 8))
  | 5 => some (.stripeLost (BitVec.ofNat 18 (fieldAt b 32 4)))
  | 6 => some (.durable (fieldAt b 32 8))
  | 7 => some (.stripeDiscard (fieldAt b 32 8) (fieldAt b 40 8))
  | _ => none

/-- The record at the front of a journal's bytes, where its CRC holds. -/
def readRec (b : List Byte) : Option JRec :=
  let n := 64 * fieldAt b 2 2
  let r := b.take n
  if n = 0 ∨ r.length < n ∨ fieldAt r 60 4 ≠ (crc32c (r.take 60 ++ zeros 4 ++ r.drop 64)).toNat then none
  else (readBody r).map (fun body =>
    { source := fieldAt r 1 1, layout := fieldAt r 4 2, jseq := fieldAt r 8 8, epoch := fieldAt r 16 8 % 2 ^ 40
      headB := fieldAt r 16 8 / 2 ^ 40 % 2 == 1, subject := fieldAt r 24 8, body := body, units := fieldAt r 2 2 })

/-- The records of a dump body, in order; each takes 64 bytes at least. -/
def readRecs : Nat → List Byte → List JRec
  | 0, _ => []
  | n + 1, b =>
    match readRec b with
    | some r => r :: readRecs n (b.drop (64 * r.units))
    | none => []

/-- dump_seq of a dump header. -/
def dumpSeqOf (x : DumpIn) : Nat := fieldAt x.header 8 8

/-- The claim epoch of a dump. -/
def dumpEpoch (x : DumpIn) : Nat := fieldAt x.header 16 8 % 2 ^ 40

/-- The body of a dump, of the length that its header states. -/
def dumpBytes (x : DumpIn) : List Byte := x.body.take (fieldAt x.header 40 4)

/-- Whether a copy is valid (R195): a header of this head whose CRC holds, and a body that read without error and whose CRC holds. -/
def dumpValid (headB : Bool) (x : DumpIn) : Bool :=
  x.header.take 4 == [0x4F, 0x43, 0x4A, 0x44] && fieldAt x.header 4 2 == 1 && fieldAt x.header 6 1 == bit headB &&
    fieldAt x.header 56 4 == (crc32c (x.header.take 56)).toNat && x.readOk && decide (fieldAt x.header 40 4 ≤ x.body.length) &&
    fieldAt x.header 44 4 == (crc32c (dumpBytes x)).toNat

/-- The live records that a dump holds. -/
def dumpRecords (x : DumpIn) : List JRec := readRecs ((dumpBytes x).length / 64) (dumpBytes x)

end Sys2Proof.Machine
end

