-- ==== Sys2Proof/Machine/Sectors.lean ====
section
/-! DEFINITION. Sectors as they are read: the drive's check and the head's own (R181, R506, R507), erasure (R197), what is written
back (R190) and what is lost (R205). -/

namespace Sys2Proof.Machine
open Sys2Proof

/-! ## The checks (R181, R506, R507) -/

/-- The drive gave an error for the Read command that these sectors are of (R506): each was then read alone. -/
def readFailed (run : List SecRead) : Bool := run.any (fun x => match x with
  | .multi _ => false
  | _ => true)

/-- What a sector brought that passed the drive's check; of a command that failed no data is used (R506). -/
def secGot (failed : Bool) : SecRead → Option Sector
  | .multi s => if failed then none else some s
  | .single s => some s
  | .badCheck => none
  | .unreadable => none

/-- The head's own check (R181): guard over the data, the application tag expected, the reference tag. -/
def sectorOk (app : W16) (ref : BitVec 48) (s : Sector) : Bool := s.guard == crc64 s.data && s.appTag == app && s.refTag == ref

/-- Whether a sector failed R181, at the drive's check or at the head's (R213); one that is unreadable did not. -/
def secFails (app : W16) (ref : BitVec 48) (failed : Bool) : SecRead → Bool
  | .multi s => !failed && !sectorOk app ref s
  | .single s => !sectorOk app ref s
  | .badCheck => true
  | .unreadable => false

/-- The data of a sector that passes both checks; else it is erased. -/
def secValid (app : W16) (ref : BitVec 48) (failed : Bool) (x : SecRead) : Option (List Byte) :=
  ((secGot failed x).filter (sectorOk app ref)).map (·.data)

end Sys2Proof.Machine

namespace Sys2Proof
open Machine

/-- Reference tag of sector `i` of member `k` of a stripe (R179). -/
def LayoutRec.tagOf (l : LayoutRec) (s k i : Nat) : BitVec 48 := l.refTag s k + BitVec.ofNat 48 i

end Sys2Proof

namespace Sys2Proof.Machine
open Sys2Proof

/-- Sectors that failed R181 count for their drive (R213). -/
def countPi (slot n : Nat) (d : Dev) : Dev :=
  onDrive slot (fun x => { x with piErrors := BitVec.ofNat 32 (min 0xFFFFFFFF (x.piErrors.toNat + n)) }) d

/-! ## A whole stripe -/

/-- A stripe as read: for each member its 64 sectors, each valid or erased. -/
abbrev StripeData : Type := List (List (Option (List Byte)))

/-- The sectors of a member as read: none where nothing of it can be read (R197). -/
def Dev.memberReads (d : Dev) (l : LayoutRec) (s k : Nat) (m : List (List SecRead)) : List SecRead :=
  if d.erased l s k then [] else (m[k]?).getD []

/-- The application tag that a read which names no volume expects (R507): that of the first data sector that passes the guard and
reference tag checks; 0 where none does. -/
def Dev.stripeTag (d : Dev) (l : LayoutRec) (s : Nat) (m : List (List SecRead)) : W16 :=
  ((List.range l.width).findSome? (fun k =>
    let r := d.memberReads l s k m
    (r.zipIdx).findSome? (fun x =>
      ((secGot (readFailed r) x.1).filter (fun y => sectorOk y.appTag (l.tagOf s k x.2) y)).map (·.appTag)))).getD 0

/-- Check a stripe's sectors. -/
def Dev.readStripe (d : Dev) (l : LayoutRec) (s : Nat) (app : W16) (m : List (List SecRead)) : StripeData :=
  (List.range l.members).map (fun k =>
    let r := d.memberReads l s k m
    (List.range 64).map (fun i => (r[i]?).bind (secValid app (l.tagOf s k i) (readFailed r))))

/-- Count the sectors of a stripe that fail R181. -/
def countStripe (l : LayoutRec) (s : Nat) (app : W16) (m : List (List SecRead)) (d : Dev) : Dev :=
  (List.range l.members).foldl (fun x k =>
    let r := d.memberReads l s k m
    let n := ((r.zipIdx).filter (fun y => secFails app (l.tagOf s k y.2) (readFailed r) y.1)).length
    if n = 0 then x else countPi (d.memberAt l s k).1 n x) d

/-- The Reads of a stripe on the maintenance queue: one of 64 sectors for each member that can be read, then each sector of a command
that failed by itself (R202, R506). -/
def Dev.stripeReads (d : Dev) (l : LayoutRec) (s : Nat) (app : Option W16) (ks : List Nat) (m : List (List SecRead)) : List Out :=
  let live := ks.filter (fun k => !d.erased l s k)
  let at_ (k : Nat) : Nat × Nat := d.memberAt l s k
  live.map (fun k => Out.nvmeRead 3 (at_ k).1 (at_ k).2 64 (l.refTag s k) app) ++
    (live.filter (fun k => readFailed ((m[k]?).getD []))).flatMap (fun k =>
      (List.range 64).map (fun i => Out.nvmeRead 3 (at_ k).1 ((at_ k).2 + i) 1 (l.tagOf s k i) app))

/-- Row `i` of a stripe: sector `i` of each member. -/
def rowOf (m : StripeData) (i : Nat) : List (Option (List Byte)) := m.map (fun r => (r[i]?).join)

/-- The rows of a stripe with what is erased in each reconstructed, where two members at most are (R182, R197). -/
def solveRows (w : Nat) (m : StripeData) : List (Option (List (List Byte))) := (List.range 64).map (fun i => reconstruct w 4096 (rowOf m i))

/-- Members with an erased sector in a row that cannot be reconstructed. -/
def lostIn (w : Nat) (m : StripeData) : List Nat :=
  let rows := (List.range 64).filter (fun i => (reconstruct w 4096 (rowOf m i)).isNone)
  (List.range m.length).filter (fun k => rows.any (fun i => (((m[k]?).bind (·[i]?)).join).isNone))

/-- The strip of member `k` from solved rows; zeros where a row is lost. -/
def stripOf (rows : List (Option (List (List Byte)))) (k : Nat) : List Byte :=
  (rows.map (fun r => ((r.bind (·[k]?)).getD (zeros 4096)))).flatten

/-- A member whose sectors are all valid, as one strip. -/
def wholeStrip (r : List (Option (List Byte))) : Option (List Byte) :=
  if r.all (·.isSome) then some ((r.map (·.getD [])).flatten) else none

/-! ## Writing back (R190) -/

/-- A reconstructed sector is to be written back. -/
def owe (w : WriteBack) (d : Dev) : Dev := onVault (fun v => { v with writeBacks := v.writeBacks ++ [w] }) d

/-- Sector `i` of member `k` is to be written where it now lies, with its tags; not where its drive can take nothing, or where the
member waits for copy-back (R190, R204). -/
def oweSector (counts : Bool) (l : LayoutRec) (app : W16) (s k i : Nat) (data : List Byte) (d : Dev) : Dev :=
  if d.erased l s k then d
  else
    let p := d.memberAt l s k
    owe { counts := counts, slot := p.1, lba := p.2 + i, refTag := l.tagOf s k i, appTag := app, data := data } d

/-- A whole strip is to be written. -/
def oweStrip (counts : Bool) (l : LayoutRec) (app : W16) (s k : Nat) (data : List Byte) (d : Dev) : Dev :=
  (List.range 64).foldl (fun x i => oweSector counts l app s k i (slice data (i * 4096) 4096) x) d

/-- Every sector that the rows reconstructed is to be written back. -/
def oweRows (counts : Bool) (l : LayoutRec) (app : W16) (s : Nat) (m : StripeData) (d : Dev) : Dev :=
  ((solveRows l.width m).zipIdx).foldl (fun x r =>
    match r.1 with
    | none => x
    | some all => (erasedOf (rowOf m r.2)).foldl (fun y k => oweSector counts l app s k r.2 ((all[k]?).getD []) y) x) d

/-! ## Lost stripes (R205) -/

/-- Tiles of a take that lie, in part, in lost data members of a stripe. -/
def Dev.lostTiles (d : Dev) (l : LayoutRec) (s : Nat) (mask : BitVec 18) (t : Take) : List Entry :=
  match d.layout t.layout with
  | none => []
  | some own =>
    ((t.parts.map (·.entries)).flatten).filter (fun e =>
      let h := d.layoutAt own e.loc
      let p := h.ofLocation e.loc
      !e.flags.getLsbD 1 && h.layoutId == l.layoutId && p.1 == s &&
        (List.range l.width).any (fun k => mask.getLsbD k &&
          decide (p.2 < (k + 1) * 262144 ∧ k * 262144 < p.2 + max 1 e.storedLen)))

/-- One lost tile: VLT_TILE_LOST and its line in the take's loss addendum (R205, R232), which an active take's close writes (R247). -/
def loseTile (l : LayoutRec) (t : Take) (d : Dev) (e : Entry) : Dev :=
  let p := l.ofLocation e.loc
  let vsa := l.vsa p.1 (p.2 / 4096)
  onTake t.volume t.id (fun x => if x.active then { x with lossDue := x.lossDue ++ [(e.tileSeq, e.loc)] }
      else { x with addenda := x.addenda ++ [(e.tileSeq, e.loc)] })
    (logEvent 0x0404 noInstance ([BitVec.ofNat 32 t.volume, BitVec.ofNat 32 t.id] ++ [e.tileSeq.setWidth 32,
      (e.tileSeq >>> 32).setWidth 32] ++ addrWords vsa) d)

/-- The STRIPE_LOST record of a loss; it waits where the journal has no room (R191). -/
def recordLoss (x : Nat × Nat × BitVec 18) (d : Dev) : Dev :=
  if d.journalRoom 64 then
    appendRec 4 x.1 x.2.1 (.stripeLost x.2.2) none
      (onVcnt (fun c => { c with lost := c.lost + 1 }) (onVault (fun v => { v with lostFlag := true }) d))
  else onVault (fun v => { v with lostWait := v.lostWait ++ [x] }) d

/-- A stripe with three lost members (R205): STRIPE_LOST, and every lost tile reported. -/
def loseStripe (l : LayoutRec) (s : Nat) (lost : List Nat) (d : Dev) : Dev :=
  let mask := maskOf lost
  if d.vault.lost.contains (l.layoutId, s, mask) then d
  else
    let d1 := recordLoss (l.layoutId, s, mask) (onVault (fun v => { v with lost := v.lost ++ [(l.layoutId, s, mask)] }) d)
    let slot := ((lost[2]?).map (fun k => (d.memberAt l s k).1)).getD 0
    let d2 := logEvent 0x0403 (BitVec.ofNat 32 slot)
      ([BitVec.ofNat 32 l.layoutId] ++ addrWords s ++ [mask.setWidth 32]) d1
    d2.cat.takes.foldl (fun x t => (d.lostTiles l s mask t).foldl (loseTile l t) x) d2

/-- STRIPE_LOST records that waited for room are appended. -/
def recordLosses (d : Dev) : Dev := each recordLoss d.vault.lostWait (onVault (fun v => { v with lostWait := [] }) d)

/-! ## Adoption (R192) -/

/-- What recomputing one erased member shows: its bytes where the check strip that the recomputation did not use agrees. -/
def recompute (w : Nat) (m : List (Option (List Byte))) (k : Nat) : Option (List Byte) :=
  let n := 262144
  let got (i : Nat) : List Byte := ((m[i]?).join).getD []
  let data := (List.range w).map got
  if k < w then
    let b := parityP n ((data.set k (got w)))
    if parityQ n (data.set k b) = got (w + 1) then some b else none
  else if k = w then
    if parityQ n data = got (w + 1) then some (parityP n data) else none
  else if parityP n data = got w then some (parityQ n data) else none

/-- The decision on one entry: not adopted, adopted, or adopted with a member to write back. -/
inductive Adopt where
  | no | yes | mended (k : Nat) (data : List Byte)
deriving DecidableEq, Repr

/-- Decide a stripe from its members as read: a member with an erased sector is erased (R192, step 2). -/
def judgeStripe (l : LayoutRec) (data : StripeData) : Adopt :=
  let m := data.map wholeStrip
  match erasedOf m with
  | [] => if parityHolds l.width 262144 (m.map (·.getD [])) then .yes else .no
  | [k] => (match recompute l.width m k with
    | some b => .mended k b
    | none => .no)
  | _ => .no

end Sys2Proof.Machine
end

