-- ==== Sys2Proof/Machine/Stripes.lean ====
section
/-! DEFINITION. Stripes on their way to the drives: open, fill with tiles and metadata (R115, R294), seal (R183), issue (R184),
failed and lagging members (R186, R205). -/

namespace Sys2Proof.Machine
open Sys2Proof

/-! ## Opening a pipe's stripe -/

/-- A stripe goes back unused. -/
def undoStripe (e : Nat × Nat) (d : Dev) : Dev := onVault (fun v => { v with inUse := v.inUse.filter (fun x => x != e) }) d

/-- Give a take a stripe buffer: the next ring stripe of a Reel take, else the lowest free stripe; none while there is no
stripe or no buffer (R200, R358). -/
def freshStripe (l : LayoutRec) (t : Take) (part source group : Nat) (gsn : W32) (d : Dev) : Dev × Option StripeBuf :=
  let r := if t.reel.isSome then reelNext l t d else allocStripe l d
  match r with
  | (d1, none) => (d1, none)
  | (d1, some s) =>
    match allocBuffers d1 with
    | (d2, some b) => (d2, some (.fresh l.layoutId s t.volume t.id part source group b gsn))
    | (d2, none) => (if t.reel.isSome then d2 else undoStripe (l.layoutId, s) d2, none)

/-- Set pipe `g`'s open stripe. -/
def setStripe (g : Fin 4) (sb : Option StripeBuf) (d : Dev) : Dev := onPipe g (fun p => { p with stripe := sb }) d

/-- The pipe has an open stripe for the take, opening one where it can. -/
def needStripe (g : Fin 4) (t : Take) (part : Nat) (gsn : W32) (d : Dev) : Dev × Option StripeBuf :=
  match (d.pipes.at g).stripe with
  | some sb => (d, some sb)
  | none =>
    match d.layoutOf t with
    | none => (d, none)
    | some l =>
      match freshStripe l t part g.val g.val gsn d with
      | (d1, some sb) => (setStripe g (some sb) d1, some sb)
      | (d1, none) => (d1, none)

/-! ## Metadata tiles (R98, R229, R294) -/

/-- Records that a stripe of group `g` sealed at `gsn` carries: those of the group's slots up to there, and those that no
group's slots produced. -/
def metaDue (g : Fin 4) (part : Nat) (gsn : W32) (r : MetaRec) : Bool :=
  r.part == part && (match r.src with
    | none => true
    | some (h, s) => h == g.val && precEq s gsn)

/-- Records packed into tiles. -/
def metaTiles : Nat → List MetaRec → List (List MetaRec)
  | 0, _ => []
  | n + 1, l =>
    match packTile 65536 l with
    | ([], _) => []
    | (a, rest) => a :: metaTiles n rest

/-- The group and frame of each META record in a metadata tile (R240). -/
def metaFrames (l : List MetaRec) : List (Nat × BitVec 48) :=
  l.filterMap (fun r => match r.body with
    | .mta _ _ frame _ group _ => some (group, frame)
    | _ => none)

/-- Raw bytes of a metadata tile. -/
def tileOfRecords (l : List MetaRec) : List Byte := (l.map recordBytes).flatten

/-- Bytes of a stripe that the pending records of a part take (R294). -/
def Dev.metaRoom (d : Dev) (g : Fin 4) (t : Take) (part : Nat) (gsn : W32) : Nat :=
  let l := t.pending.filter (metaDue g part gsn)
  ((metaTiles (l.length + 1) l).map (fun x => alignUp (d.metaLength g (tileOfRecords x)) 64)).sum

/-- The newest page of each kind that a tile of records holds, at its location (R225, R228). -/
def notePages (loc : Nat) (l : List MetaRec) (p : Part) : Part :=
  l.foldl (fun q r =>
    match r.body with
    | .tilePage _ _ es =>
      if r.seg = 0 then { q with tilePageLoc := loc, tileFullLoc := if es.length = 4094 then loc else q.tileFullLoc } else q
    | .framePage _ _ fs =>
      if r.seg = 0 then { q with framePageLoc := loc, frameFullLoc := if fs.length = 818 then loc else q.frameFullLoc } else q
    | _ => q) p

/-- The newest page of each segment's map that a tile of records holds, at its location. -/
def noteSegPages (loc : Nat) (l : List MetaRec) (q : ReelSt) : ReelSt :=
  { q with segs := q.segs.map (fun s =>
    { s with tileFullLoc := if l.any (·.isTilePage s.id) then loc else s.tileFullLoc
             frameFullLoc := if l.any (·.isFramePage s.id) then loc else s.frameFullLoc }) }

/-- A tile that a pipe has encoded and stored counts (R128). -/
def Pipe.countTile (m : Made) (raw : Nat) (p : Pipe) : Pipe :=
  { p with
    tilesEnc := p.tilesEnc + 1, bytesRaw := p.bytesRaw + BitVec.ofNat 64 raw
    bytesStored := p.bytesStored + BitVec.ofNat 64 m.stored.length, fallback := p.fallback + (if m.fallback then 1 else 0)
    tilesRaw := p.tilesRaw + (if m.mode = 0 then 1 else 0), tilesPred := p.tilesPred + (if m.mode = 1 then 1 else 0)
    tilesLzb := p.tilesLzb + (if m.mode = 2 then 1 else 0) }

/-- Place one metadata tile of a part in a stripe: KIND 1, with the part's next metadata index (R98, R99, R102). It holds no slots. -/
def placeMeta (g : Fin 4) (l : LayoutRec) (t : Take) (part : Nat) (x : StripeBuf × Dev) (recs : List MetaRec) :
    StripeBuf × Dev :=
  let raw := tileOfRecords recs
  let idx := (((x.2.take t.volume t.id).bind (·.part part)).map (·.metaIdx)).getD 0
  let seq := metaSeq part idx
  let m := makeTile g t seq 0 (16 + bit (decide (raw.length < 65536))) none raw x.2
  if (x.1.fits m.1.stored.length 0) then
    let sb0 := x.1.place l m.1.stored 8 seq m.1.fp
    let sb : StripeBuf := { sb0 with
      owed := sb0.owed ++ [{ seq := seq, slots := 0, good := 0, frame := 0 }]
      entries := sb0.entries.map (fun e => if e.tileSeq = seq then { e with metas := metaFrames recs } else e) }
    let loc := ((sb.entries.getLast?).map (·.loc)).getD 0
    let d1 := onPart t.volume t.id part (fun p => notePages loc recs { p with metaIdx := p.metaIdx + 1 }) m.2
    let d2 := onTake t.volume t.id (fun y => { y with
      pending := y.pending.filter (fun r => !recs.contains r), reel := y.reel.map (noteSegPages loc recs) }) d1
    (sb, onPipe g (Pipe.countTile m.1 raw.length) d2)
  else x

/-- Place every record that is due (R294), where the keys of the take are held. -/
def placeAllMeta (g : Fin 4) (l : LayoutRec) (t : Take) (part : Nat) (sb : StripeBuf) (d : Dev) : StripeBuf × Dev :=
  let due := if d.mayEncode t then t.pending.filter (metaDue g part sb.commitGsn) else []
  (metaTiles (due.length + 1) due).foldl (placeMeta g l t part) (sb, d)

/-! ## Sealing (R183) -/

/-- The backlog rule (R202): past BACKLOG_MAX maintenance is held until the backlog falls to half of it. -/
def backlogRule (d : Dev) : Dev :=
  let n := d.vault.sealedQ.length
  let most := bits d.regs.vltCfg.toNat 23 16
  onVault (fun v => { v with maintHeld := if v.maintHeld then decide (most < 2 * n) else decide (most < n) }) d

/-- A sealed stripe waits for issue, in the order of sealing (R184); a replica's waits behind every pipe's (R346). -/
def queueStripe (sb : StripeBuf) (d : Dev) : Dev :=
  let ahead (x : StripeBuf) : Bool := x.source != 4
  backlogRule (onVault (fun v => { v with
    sealedQ := if sb.source < 4 then v.sealedQ.takeWhile ahead ++ [sb] ++ v.sealedQ.dropWhile ahead else v.sealedQ ++ [sb] }) d)

/-- The group state that goes with a stripe (R293): with its commit_gsn and the part's next metadata index. -/
def finalState (sb : StripeBuf) (nextMeta : Nat) : Option GState :=
  sb.gstate.map (fun s => { s with commitGsn := sb.commitGsn, nextMeta := nextMeta, closed := sb.frames })

/-- Pipe `g` seals its open stripe: metadata and frame records up to its commit_gsn go in with it (R222, R294). -/
def sealPipe (g : Fin 4) (d : Dev) : Dev :=
  let p := d.pipes.at g
  match p.stripe with
  | none => d
  | some sb =>
    match d.take sb.volume sb.takeId, d.layout sb.layout with
    | some t, some l =>
      let r := placeAllMeta g l t sb.part sb d
      let mine := p.closed.filter (fun e => precEq e.1 sb.commitGsn)
      let idx := (((r.2.take sb.volume sb.takeId).bind (·.part sb.part)).map (·.metaIdx)).getD 0
      let sb0 : StripeBuf := { r.1 with frames := r.1.frames ++ mine.map (·.2) }
      let sb1 : StripeBuf := { sb0 with
        padded := decide (r.1.used < dataSpace), gstate := finalState sb0 idx
        group := if r.1.slots = 0 ∧ r.1.entries.all (fun e => e.flags.getLsbD 3) ∧ mine.isEmpty then 255 else r.1.group }
      queueStripe sb1 (onPipe g (fun q => { q with stripe := none, refPend := 0,
                                                   closed := q.closed.filter (fun e => !precEq e.1 sb.commitGsn) }) r.2)
    | _, _ => d

/-! ## Pages (R225, R228) -/

/-- Form the next tile-map page of a part, partial unless full or final, once the page before it has committed. -/
def formTilePage (v id p : Nat) (final : Bool) (d : Dev) : Dev :=
  match d.take v id with
  | none => d
  | some t =>
    match t.part p with
    | none => d
    | some pt =>
      if t.pending.any (fun r => r.part == p && r.isTilePage 0) || !((d.layoutOf t).map (d.settledAt · pt.tileFullLoc)).getD true then d
      else match nextPage pt.pagedEnts 4094 pt.entries with
        | none => d
        | some es =>
          let n := if es.length = 4094 ∨ final then pt.pagedEnts + es.length else pt.pagedEnts
          let m : MetaRec := { body := .tilePage pt.tileFullLoc pt.pagedEnts es, part := p, seg := 0, src := none }
          onTake v id (fun x => { x.onPart p (fun q => { q with pagedEnts := n }) with pending := x.pending ++ [m] }) d

/-- Form the next frame page of a part. -/
def formFramePage (v id p : Nat) (final : Bool) (d : Dev) : Dev :=
  match d.take v id with
  | none => d
  | some t =>
    match t.part p with
    | none => d
    | some pt =>
      if t.pending.any (fun r => r.part == p && r.isFramePage 0) || !((d.layoutOf t).map (d.settledAt · pt.frameFullLoc)).getD true then d
      else match nextPage pt.pagedFrames 818 pt.frames with
        | none => d
        | some fs =>
          let n := if fs.length = 818 ∨ final then pt.pagedFrames + fs.length else pt.pagedFrames
          let m : MetaRec := { body := .framePage pt.frameFullLoc pt.pagedFrames fs, part := p, seg := 0, src := none }
          onTake v id (fun x => { x.onPart p (fun q => { q with pagedFrames := n }) with pending := x.pending ++ [m] }) d

/-- Pages of every part that this head writes of every open take: written with the next stripe that a pipe seals for
the part (R225, R294). A full page is formed whenever there are entries for it. -/
def formPages (d : Dev) : Dev :=
  d.cat.takes.foldl (fun x t =>
    if t.state = .open_ ∧ t.reel.isNone then
      (t.parts.filter (fun p => p.mine && !p.lent)).foldl (fun y p => formFramePage t.volume t.id p.idx false (formTilePage t.volume t.id p.idx false y)) x
    else x) d

/-- The group whose pipe writes a part's own metadata: the lowest-numbered of the part that this head owns, else of the take. -/
def Dev.metaGroup (d : Dev) (t : Take) (p : Part) : Option (Fin 4) :=
  (groupList.find? (fun g => p.groups.getLsbD g.val && d.owns g)).orElse (fun _ => groupList.find? (fun g => t.hasGroup g && d.owns g))

/-- Write a part's pending records in a stripe sealed now (R294, at close). -/
def flushMeta (v id p : Nat) (d : Dev) : Dev :=
  match d.take v id with
  | none => d
  | some t =>
    match (t.part p).bind (d.metaGroup t) with
    | none => d
    | some g =>
      match needStripe g t p (d.lg.at g).commit d with
      | (d1, some _) => sealPipe g d1
      | (d1, none) => d1

/-! ## Issue (R184) -/

/-- Record length of a stripe's open record in bytes. -/
def openLength (sb : StripeBuf) : Nat := 64 * (1 + (56 * sb.entries.length + 63) / 64)

/-- Every member of a stripe lies on a drive where this head's registration is confirmed (R290), a failed member aside. -/
def Dev.writable (d : Dev) (l : LayoutRec) (s : Nat) : Bool :=
  (List.range l.members).all (fun k =>
    let x := (d.memberAt l s k).1
    ((d.drive x).registered && (!d.tango.session || (d.drive x).partnerReg)) || d.isFailed x)

/-- Whether the journal has room for a stripe: its open record and the REMAP of each lost member, and what is due. Management stripes,
which let the journal be emptied, may use the last 64 KiB (R184, R191; DEDUCED, notes/assumptions/55.md). -/
def Dev.stripeRoom (d : Dev) (l : LayoutRec) (sb : StripeBuf) (s : Nat) : Bool :=
  d.journalRoom (openLength sb + 64 * (d.lostMembers l s).length + 1280 + (if sb.source = 5 then 64 else 65536))

/-- Whether the drives may take a stripe at `s`: WRITE_EN, 18 healthy drives, spare chunks for failed members, room in the journal
(R184, R200, R210). -/
def Dev.mayWrite (d : Dev) (l : LayoutRec) (sb : StripeBuf) (s : Nat) : Bool :=
  d.regs.vltCfg.getLsbD 0 && d.stripeRoom l sb s && decide (18 ≤ d.healthyIn l) && d.stripeOk l s && d.writable l s

/-- Whether a sealed stripe may be issued: 512 open entries at most (R296). -/
def Dev.mayIssue (d : Dev) (l : LayoutRec) (sb : StripeBuf) : Bool :=
  decide (d.vault.opened.length < 512) && d.mayWrite l sb sb.stripe

/-- A planned handover that this head takes makes the group's new entries wait for HANDOVER_DONE (R305). -/
def Dev.handWait (d : Dev) (g : Nat) : Bool :=
  match d.tango.hand with
  | some h => !h.giving && h.stage == 3 && h.groups.getLsbD g && decide (g < 4)
  | none => false

/-- Issue a stripe: remaps of failed members, the open record and its mirror, then the 18 Writes. The entry takes `order`
in its source's order, by default its own. Answers the jseq of the open record. -/
def issueBuf (l : LayoutRec) (sb : StripeBuf) (order : Option Nat) (d : Dev) : Dev × Nat :=
  let lost := d.lostMembers l sb.stripe
  let d1 := lost.foldl (fun x k => (remapMember l sb.stripe k x).getD x) d
  let mask := maskOf lost
  let j := d1.vault.jseq
  let body : JBody := .stripeOpen sb.volume sb.takeId sb.commitGsn sb.group sb.padded sb.maint sb.entries mask
  let d2 := appendRec sb.source sb.layout sb.stripe body sb.gstate d1
  let e : OpenEnt :=
    { jseq := j, order := order.getD j, buf := sb, remapMask := mask, done := 0, acked := d.alone,
      waitHand := d.handWait sb.source, again := false, state := sb.gstate }
  let d3 := onVault (fun v => { v with opened := v.opened ++ [e] }) d2
  (emits ((List.range l.members).map (d3.stripWrite l sb)) d3, j)

/-- Locations of a stripe's own tiles moved to stripe `s`. -/
def relocate (l : LayoutRec) (s : Nat) (sb : StripeBuf) : StripeBuf :=
  let move (e : Entry) : Entry :=
    if e.flags.getLsbD 0 ∨ e.flags.getLsbD 1 then e else { e with loc := l.location s (l.ofLocation e.loc).2 }
  { sb with stripe := s, entries := sb.entries.map move }

/-- The first sealed stripe is issued, where it may be. -/
def issueSealed (d : Dev) : Dev :=
  match d.vault.sealedQ with
  | [] => d
  | sb :: rest =>
    match d.layout sb.layout with
    | none => d
    | some l =>
      if d.mayIssue l sb then backlogRule (issueBuf l sb none (onVault (fun v => { v with sealedQ := rest }) d)).1
      else if d.stripeOk l sb.stripe then d
      else
        -- a drive failed since the stripe was allocated and no spare chunk is free: it moves to another stripe (R205)
        match allocStripe l d with
        | (d1, none) => d1
        | (d1, some s) =>
          onVault (fun v => { v with sealedQ := relocate l s sb :: rest })
            (freeStripe (sb.layout, sb.stripe) d1)

/-! ## Failed and lagging members (R186, R205) -/

/-- The open entry of a jseq. -/
def Dev.openEnt (d : Dev) (j : Nat) : Option OpenEnt := d.vault.opened.find? (·.jseq == j)

/-- Change an open entry. -/
def onOpen (j : Nat) (f : OpenEnt → OpenEnt) (d : Dev) : Dev :=
  onVault (fun v => { v with opened := v.opened.map (fun e => if e.jseq = j then f e else e) }) d

/-- Page locations that pointed into a stripe that has moved follow it. -/
def movePages (l : LayoutRec) (old new : Nat) (d : Dev) : Dev :=
  let mv (loc : Nat) : Nat := if loc ≠ 0 ∧ (l.ofLocation loc).1 = old then l.location new (l.ofLocation loc).2 else loc
  let upd (p : Part) : Part :=
    { p with tilePageLoc := mv p.tilePageLoc, tileFullLoc := mv p.tileFullLoc, framePageLoc := mv p.framePageLoc,
             frameFullLoc := mv p.frameFullLoc }
  onCat (fun c => { c with takes := c.takes.map (fun t =>
    if t.layout = l.layoutId then
      { t with parts := t.parts.map upd
               reel := t.reel.map (fun q => { q with segs := q.segs.map (fun s =>
                 { s with tileFullLoc := mv s.tileFullLoc, frameFullLoc := mv s.frameFullLoc }) }) }
    else t) }) d

/-- An entry's tiles are sealed again into the next stripe that avoids failed drives, `sb`'s content, and the open entry is discarded
(R205). None where there is no such stripe, or where it may not be issued. -/
def reseal (l : LayoutRec) (e : OpenEnt) (sb : StripeBuf) (d : Dev) : Option Dev :=
  match allocStripe l d with
  | (_, none) => none
  | (d1, some s) =>
    if !d1.mayWrite l sb s then none
    else
      let r := issueBuf l (relocate l s sb) (some e.order) d1
      let d2 := appendRec sb.source sb.layout e.buf.stripe (.stripeDiscard e.jseq r.2) none r.1
      let d3 := onVault (fun v => { v with opened := v.opened.filter (fun x => x.jseq != e.jseq) }) d2
      some (movePages l e.buf.stripe s (freeStripe (sb.layout, e.buf.stripe) d3))

/-- An open entry is to be sealed again: at once, or as soon as a stripe can be had for it (R129, R205). -/
def sealAgain (j : Nat) (d : Dev) : Dev :=
  match d.openEnt j with
  | none => d
  | some e => (((d.layout e.buf.layout).bind (fun l => reseal l e e.buf d))).getD (onOpen j (fun x => { x with again := true }) d)

/-- STRIPE_ISSUE: an entry that waits to be sealed again goes first, then the first sealed stripe. -/
def issueNext (d : Dev) : Dev :=
  match (d.vault.opened.find? (·.again)).bind (fun e => (d.layout e.buf.layout).bind (fun l => reseal l e e.buf d)) with
  | some d1 => d1
  | none => issueSealed d

/-- A member's write has failed or lags: the strip goes from the stripe buffer to a spare chunk, or the entry is sealed
again where no spare chunk is free (R186, R205). -/
def rewriteMember (j k : Nat) (d : Dev) : Dev :=
  match d.openEnt j with
  | none => d
  | some e =>
    match d.layout e.buf.layout with
    | none => d
    | some l =>
      match remapMember l e.buf.stripe k d with
      | some d1 => emit (d1.stripWrite l e.buf k) d1
      | none => sealAgain j (spareOut (l.place e.buf.stripe k).1 l.layoutId d)

/-- Members of an open entry that lie on a slot and have not completed. -/
def waitingOn (d : Dev) (slot : Nat) (e : OpenEnt) : List Nat :=
  match d.layout e.buf.layout with
  | none => []
  | some l => (List.range l.members).filter (fun k => !e.done.getLsbD k && (d.memberAt l e.buf.stripe k).1 == slot)

/-- A drive that fails while it replaces another ends its DRIVE_REPLACE: the manual gives no status for it, and the model gives that of
a drive that cannot be used (DESIGN CHOICE, notes/assumptions/58.md). -/
def dropReplace (slot : Nat) (d : Dev) : Dev :=
  match tget d.vault.replaces slot with
  | none => d
  | some r =>
    let d1 := onVault (fun v => { v with replaces := tdel v.replaces slot }) d
    match r.h with
    | some h => complete h 0x83 0x0C (BitVec.ofNat 64 r.done) 0 d1
    | none => d1

/-- A drive fails (R199): VLT_DRIVE_FAILED with a cause, whose numbers the manual does not give, and the NVMe status where
there is one; the partner is told; writes on it that have not completed are handled as failed writes (R205), and rebuild starts (R201). -/
def failDrive (slot : Nat) (status : Option W32) (d : Dev) : Dev :=
  if (d.drive slot).state == .absent || (d.drive slot).state == .failed then d
  else
    let d1 := dropReplace slot (onDrive slot (fun x => { x with state := .failed, held := [] }) d)
    let d2 := drawn (drawn (logEvent 0x0402 (BitVec.ofNat 32 slot)
      [Config.free32 d.free, status.getD (Config.free32 (d.free + 1))] d1))
    let d3 := tangoSend 0 (.driveNotice slot 1) d2
    let work := (d3.vault.opened.map (fun e => (waitingOn d3 slot e).map (fun k => (e.jseq, k)))).flatten
    work.foldl (fun x jk => rewriteMember jk.1 jk.2 x) { d3 with vault := { d3.vault with rebuildPos := [] } }

end Sys2Proof.Machine
end

