-- ==== Sys2Proof/Machine/Commit.lean ====
section
/-! DEFINITION. Commit: retirement of an open entry (R185), references and the hot index (R117 to R121), the close of a
take (R223) and the metadata commit (R233 to R235). -/

namespace Sys2Proof.Machine
open Sys2Proof

/-! ## References and the hot index (R117 to R121) -/

/-- The key of a stored tile: layout and location (R234). -/
def refKey (layout loc : Nat) : Nat := layout * 2 ^ 52 + loc

/-- The reference count of a stored tile (R120). -/
def Cat.count (c : Cat) (k : Nat) : Nat := tgetD c.refs 1 k

/-- A count that is not 1 is kept in the table. -/
def Cat.setCount (c : Cat) (k n : Nat) : Cat := { c with refs := if n = 1 then tdel c.refs k else tput c.refs k n }

/-- The bucket of a fingerprint: its bytes 0, 1 and 2, little-endian (R117). -/
def hotBucket (fp : W256) : Nat := leNat ((beBytes fp).take 3)

/-- The entries of a bucket. -/
def Cat.bucket (c : Cat) (b : Nat) : List (Nat × HotEnt) := tgetD c.hot [] b

/-- Replace a bucket. -/
def Cat.setBucket (c : Cat) (b : Nat) (l : List (Nat × HotEnt)) : Cat :=
  { c with hot := if l.isEmpty then tdel c.hot b else tput c.hot b l }

/-- The way that a lookup hits (R118). -/
def Cat.lookup (c : Cat) (layout volume : Nat) (fp : W256) : Option (Nat × HotEnt) :=
  (c.bucket (hotBucket fp)).find? (fun e =>
    e.2.fp == fp && e.2.volume == volume && e.2.layout == layout && decide (c.count (refKey layout e.2.loc) < 0xFFFFFFFF))

/-- The way of least hits that is not PINNED, the lowest breaking a tie. -/
def coldWay (l : List (Nat × HotEnt)) : Option Nat :=
  let free := l.filter (fun e => e.2.pinned == 0)
  argMin (fun w => ((tget free w).map (·.hits)).getD 0) (free.map (·.1))

/-- A hot-index entry of a stored tile that no reference is pending to. -/
def HotEnt.fresh (fp : W256) (layout volume loc len : Nat) : HotEnt :=
  { fp := fp, layout := layout, volume := volume, pinned := 0, hits := 0, storedLen := len, loc := loc, next := none, leave := false }

/-- Enter a committed tile in the hot index (R119). The replacement of a saturated entry waits while that is PINNED. -/
def Cat.hotInsert (c : Cat) (layout volume : Nat) (e : Entry) : Cat :=
  let b := hotBucket e.fp
  let l := c.bucket b
  let fresh := HotEnt.fresh e.fp layout volume e.loc e.storedLen
  match l.find? (fun x => x.2.fp == e.fp && x.2.volume == volume) with
  | some (w, x) =>
    if c.count (refKey x.layout x.loc) ≠ 0xFFFFFFFF then c
    else c.setBucket b (tput l w (if x.pinned = 0 then fresh else { x with next := some (e.loc, e.storedLen) }))
  | none =>
    match (List.range 4).find? (fun w => (tget l w).isNone) with
    | some w => c.setBucket b (tput l w fresh)
    | none =>
      match coldWay l with
      | some w => c.setBucket b (tput l w fresh)
      | none => c

/-- An entry once nothing pins it: replaced or removed where that was waiting (R119, R122). A tile that a reference counts again
stays. -/
def HotEnt.settled (count : Nat) (x : HotEnt) : Option HotEnt :=
  if x.pinned ≠ 0 then some x
  else
    match x.next with
    | some (loc, len) => some (.fresh x.fp x.layout x.volume loc len)
    | none => if x.leave ∧ count = 0 then none else some { x with leave := false }

/-- Change the entries of a bucket that are named, and settle them. -/
def Cat.onHot (c : Cat) (fp : W256) (named : HotEnt → Bool) (f : HotEnt → HotEnt) : Cat :=
  let b := hotBucket fp
  c.setBucket b ((c.bucket b).filterMap (fun x =>
    if named x.2 then ((f x.2).settled (c.count (refKey x.2.layout x.2.loc))).map (fun y => (x.1, y)) else some x))

/-- The hot-index entry of a stored tile leaves, once it is not PINNED (R120, R122). -/
def Cat.hotRemove (c : Cat) (layout volume loc : Nat) (fp : W256) : Cat :=
  c.onHot fp (fun x => x.layout == layout && x.volume == volume && x.loc == loc) (fun x => { x with leave := true })

/-- One pending reference of an entry has committed or is gone (R121). A bucket holds one entry of a fingerprint and volume, wherever
its stored tile has moved to meanwhile (R119, R122). -/
def Cat.unpin (c : Cat) (volume : Nat) (fp : W256) : Cat :=
  c.onHot fp (fun x => x.fp == fp && x.volume == volume) (fun x => { x with pinned := x.pinned - 1 })

/-- A hit pins its entry and counts (R118). -/
def Cat.pinHit (c : Cat) (b way : Nat) : Cat :=
  c.setBucket b ((c.bucket b).map (fun e =>
    if e.1 = way then (e.1, { e.2 with pinned := e.2.pinned + 1, hits := min 255 (e.2.hits + 1) }) else e))

/-- A committed entry's effect on counts and the hot index: a stored tile starts with count 1, whatever its space held before. `hot`
says whether tiles are entered (R119), `pins` whether each reference holds a pin of its own (R121). -/
def commitRef (layout volume : Nat) (hot pins : Bool) (c : Cat) (e : Entry) : Cat :=
  let k := refKey layout e.loc
  if e.flags.getLsbD 1 then c
  else if e.flags.getLsbD 0 then
    let c1 := c.setCount k (c.count k + 1)
    if pins then c1.unpin volume e.fp else c1
  else
    let c1 := c.setCount k 1
    if hot && !e.flags.getLsbD 2 && !e.flags.getLsbD 3 then c1.hotInsert layout volume e else c1

/-! ## Freeing (R235, R236) -/

/-- Stripes of a layout that an entry of a take or of a segment names. -/
def takeStripes (l : LayoutRec) (t : Take) : List Nat :=
  (((t.parts.map (·.entries)).flatten.filter (fun e => !e.flags.getLsbD 1)).map (entryStripe l)) ++
    (((t.reel.map (fun r => (r.segs.map (·.stripes)).flatten ++ r.stripes)).getD []).filter (·.1 == l.layoutId)).map (·.2)

/-- Whether a hot-index entry that is PINNED names a tile of a stripe: a pending reference will count it (R121, R122). -/
def Dev.stripePinned (d : Dev) (l : LayoutRec) (s : Nat) : Bool :=
  d.cat.hot.any (fun b => b.2.any (fun x =>
    decide (0 < x.2.pinned) && x.2.layout == l.layoutId && (l.ofLocation x.2.loc).1 == s))

/-- Whether a stripe is still named: by a take that is not deleted, by one that a snapshot holds, or by a pending reference. -/
def Dev.stripeNamed (d : Dev) (l : LayoutRec) (s : Nat) : Bool :=
  d.stripePinned l s || d.cat.takes.any (fun t => t.layout == l.layoutId &&
    (t.state != .deleted || d.cat.snaps.any (fun x => x.volume == t.volume && x.takes.any (fun r => r.1 == t.id))) &&
    (takeStripes l t).contains s)

/-- Free the stripes that a take named and nothing names now. A stripe of a forerunner layout that a moving-boundary reshape has
converted goes with its native stripe, which holds two (R207, R208). -/
def freeTake (t : Take) (d : Dev) : Dev :=
  match d.layout t.layout with
  | none => d
  | some l => ((takeStripes l t).eraseDups).foldl (fun x s =>
      let h := x.homeStripe l s
      let held := if h.1 = l.layoutId then x.stripeNamed l s else x.stripeNamed l (2 * h.2) || x.stripeNamed l (2 * h.2 + 1)
      if held then x else freeStripe h x) d

/-- Whether a READ, a PLAY or a REPL_SEND of a take runs. -/
def Dev.readsTake (d : Dev) (v id : Nat) : Bool :=
  d.hif.chans.any (fun e => match e.2.job with
    | some (.read j) => j.volume == v && j.takeId == id
    | some (.play j) => j.volume == v && j.takeId == id
    | some (.send j) => j.volume == v && j.takeId == id
    | _ => false)

/-- Whether a take is held by a snapshot of it, or by a read of it. -/
def Dev.takeHeld (d : Dev) (t : Take) : Bool :=
  d.readsTake t.volume t.id || d.cat.snaps.any (fun x => x.volume == t.volume && x.takes.any (fun r => r.1 == t.id))

/-- A take whose deletion is durable, and that nothing holds (R235, R236). -/
def Dev.purgeable (d : Dev) (t : Take) : Bool := t.state == .deleted && t.erased && !d.takeHeld t

/-- Stripes of segments whose deletion is durable, where nothing holds the take, are freed, those aside that the ring or another segment
holds; what they hold leaves the map (R235, R240). -/
def purgeSegs (t : Take) (d : Dev) : Dev :=
  match t.reel, d.layoutOf t with
  | some r, some l =>
    let out := r.segs.filter (fun s => s.gone == 2)
    if out.isEmpty || d.takeHeld t then d
    else
      let left := r.segs.filter (fun s => s.gone != 2)
      let ss := ((out.flatMap (·.stripes)).filter (fun e => !r.stripes.contains e && !left.any (fun s => s.stripes.contains e))).eraseDups
      each freeStripe ss (dropStripes l t (ss.map (·.2)) (onReel t.volume t.id (fun q => { q with segs := left }) d))
  | _, _ => d

/-- Takes whose deletion is durable and that nothing holds free their stripes, and segments do; such a take leaves the catalogue once the
partner has been told. -/
def purgeTakes (d0 : Dev) : Dev :=
  let d := d0.cat.takes.foldl (fun x t => if t.state = .deleted then x else purgeSegs t x) d0
  let gone := d.cat.takes.filter d.purgeable
  gone.foldl (fun x t => freeTake t x)
    (onCat (fun c => { c with takes :=
      (c.takes.filter (fun t => !(d.purgeable t && (t.told || !d.tango.session)))).map (fun t =>
        if d.purgeable t then { t with parts := [], reel := none } else t) }) d)

/-! ## Metadata commit (R233, R234) -/

/-- The layout that holds the system volume's stripes: the first native one loaded that is no reshape's target (DESIGN CHOICE,
notes/assumptions/15.md). -/
def Dev.rootLayout (d : Dev) : Option LayoutRec := d.vault.layouts.find? (fun l => l.kind == 0 && !l.flags.getLsbD 2)

/-- Last journal record that a commit started now covers: what comes before the oldest open entry (R191, R233). -/
def Dev.covered (d : Dev) : Nat :=
  prev64 ((d.vault.opened.map (·.jseq)).foldl (fun a b => if before64 b a then b else a) d.vault.jseq)

/-- The root record (R233). -/
def rootRecord (d : Dev) (covers : Nat) (tiles : List Nat) : List Byte :=
  let head := [0x4F, 0x43, 0x52, 0x54] ++ leBytes 1 d.self ++ zeros 3 ++ leBytes 8 (next64 d.vault.metaSeq) ++
    leBytes 8 (epochField d.tango.epoch d.glb.headB) ++ leBytes 8 covers ++ leBytes 4 tiles.length
  let tail := (tiles.map (leBytes 8)).flatten
  head ++ wordBytes (crc32c (head ++ zeros 4 ++ tail)) ++ tail

/-- The raw bytes of a catalogue tile: the manual states its records' keys and content and no layout, so they are free. -/
def catalogueTile (d : Dev) : List Byte :=
  (List.range (Config.freeNat d.free % 65536 + 1)).map (fun i => Config.freeByte (d.free + 1 + i))

/-- A RAW, unencrypted metadata tile of the system volume, take 0 (R233). Fingerprints of the system volume have no dedup
key, so that field is a free value. -/
def systemTile (d : Dev) (idx : Nat) (raw : List Byte) : List Byte × W256 :=
  let fp := Config.free256 d.free
  let h : TileHdr :=
    { volume := 0, takeId := 0, tileSeq := metaSeq d.self idx, raw := raw.length, stored := 128 + raw.length, mode := 0,
      format := 0, flags := 16 + bit (decide (raw.length < 65536)), cipher := 0, nonce := 0, tag := 0, fp := fp }
  (h.bytes ++ raw, fp)

/-- A management stripe that holds one system tile. -/
def systemStripe (l : LayoutRec) (s : Nat) (b : Nat × Nat) (raw : List Byte) (d : Dev) : StripeBuf × Dev :=
  let t := systemTile d d.vault.metaSeq raw
  let sb := (StripeBuf.fresh l.layoutId s 0 0 d.self 5 255 b 0).place l t.1 8 (metaSeq d.self d.vault.metaSeq) t.2
  ({ sb with padded := true }, drawn d)

/-- The catalogue as a metadata commit writes it, with the takes that it makes CLOSED (R233, R234). The hot index, waiting descriptors and
registers are not part of it. -/
def Dev.commitImage (d : Dev) (closing : List (Nat × Nat)) : Disk :=
  let bare (t : Take) : Take :=
    { t with
      state := if closing.contains (t.volume, t.id) then .closed_ else t.state
      chan := none, closeHdr := none, parts := t.parts.map (fun p => { p with reg := none, due := none })
      reel := t.reel.map (fun q => { q with segs := q.segs.map (fun s => { s with reg := none, manEnd := none }) }) }
  { cat := { d.cat with hot := [], snapWaits := [], takes := d.cat.takes.map bare }, layouts := d.vault.layouts,
    claims := d.vault.claims.filter (fun c => c.accepted || d.alone), inUse := d.vault.inUse, remaps := d.vault.remaps,
    lost := d.vault.lost, metaSeq := d.vault.metaSeq, rootNext := d.vault.rootNext, vaultId := d.vault.vaultId,
    labelSeq := d.vault.labelSeq, level := d.disk.level, progress := d.disk.progress, epoch := d.tango.epoch }

/-- Takes and segments whose deletion a commit has recorded (R236). -/
def Dev.deletions (d : Dev) : List (Nat × Nat × Nat) :=
  d.cat.takes.flatMap (fun t =>
    (if t.state = .deleted ∧ !t.erased then [(t.volume, t.id, 0)] else []) ++
      ((t.reel.map (fun r => (r.segs.filter (fun s => s.gone == 1)).map (fun s => (t.volume, t.id, s.id)))).getD []))

/-- A metadata commit starts: pages for open takes, the catalogue tile as a stripe (R234, step 1). During a commit another
is owed. With no layout, stripe or buffer it waits for the next start. -/
def startCommit (closing : List (Nat × Nat)) (d : Dev) : Dev :=
  let wait := onVault (fun v => { v with mdcWait := v.mdcWait ++ closing, mdcAgain := true }) d
  if d.vault.mdc.isSome then wait
  else
    match d.rootLayout with
    | none => wait
    | some l =>
      let d0 := formPages d
      match allocStripe l d0 with
      | (_, none) => wait
      | (d1, some s) =>
        match allocBuffers d1 with
        | (_, none) => wait
        | (d2, some b) =>
          let r := systemStripe l s b (catalogueTile d2) (drawn d2)
          let m : Mdc :=
            { root := false, covers := d.covered, waits := [(l.layoutId, s)], cats := [(l.layoutId, s)],
              freed := r.2.vault.freedNext, closing := closing ++ r.2.vault.mdcWait, removed := d.deletions
              image := d.commitImage (closing ++ r.2.vault.mdcWait) }
          queueStripe r.1 (onVault (fun v => { v with mdc := some m, mdcWait := [], mdcAgain := false }) r.2)

/-- The next root stripe of this head (R234, step 2): 0 to 127 for head A, 128 to 255 for head B, each in turn. -/
def writeRoot (l : LayoutRec) (m : Mdc) (d : Dev) : Dev :=
  let s := d.self * 128 + d.vault.rootNext % 128
  match allocBuffers d with
  | (_, none) => d
  | (d1, some b) =>
    let locs := m.cats.map (fun e => l.location e.2 0)
    let r := systemStripe l s b (rootRecord d1 m.covers locs) d1
    queueStripe r.1 (onVault (fun v => { v with
      rootNext := v.rootNext + 1, metaSeq := next64 v.metaSeq, mdc := some { m with root := true, waits := [(l.layoutId, s)] } }) r.2)

/-- An entry of a deleted take no longer points to its stored tile (R236): at count 0 the tile leaves the hot index. -/
def dropRef (layout volume : Nat) (c : Cat) (e : Entry) : Cat :=
  if e.flags.getLsbD 1 then c
  else
    let k := refKey layout e.loc
    let n := c.count k
    if n ≤ 1 then ({ c with refs := tput c.refs k 0 }).hotRemove layout volume e.loc e.fp else c.setCount k (n - 1)

/-- A take is DELETED: its entries point to their tiles no more (R236). The partner is to be told. -/
def deleteTake (t : Take) (d : Dev) : Dev :=
  onCat (fun c => ((t.parts.map (·.entries)).flatten).foldl (dropRef t.layout t.volume) c)
    (onTake t.volume t.id (fun x => { x with state := .deleted, told := false, closeHdr := none }) d)

/-- A take becomes CLOSED, its registers are free, and its TAKE_CLOSE completes (R223, R160); one whose TAKE_OPEN was undone is removed
(R270). -/
def takeClosed (v id : Nat) (d : Dev) : Dev :=
  match d.take v id with
  | none => d
  | some t =>
    let regs := t.parts.filterMap (·.reg)
    let d1 := regs.foldl (fun x r => freeMr r x) d
    let d2 := onTake v id (fun x => { x with state := .closed_, stage := 6, closeHdr := none, told := false,
                                             addenda := x.addenda ++ x.lossDue, lossDue := [], parts := x.parts.map (fun p => { p with reg := none, due := none }) }) d1
    if t.undone then settled (deleteTake t d2)
    else
      match t.closeHdr with
      | some h => complete h 0x41 0 (BitVec.ofNat 64 t.frames.length) (BitVec.ofNat 64 (t.frames.filter listed).length) d2
      | none => settled d2

/-- The vault as a metadata commit leaves it on the drives: its image, under the root that it wrote; the labels and the progress records
stand as they are (R173, R209). -/
def writeDisk (m : Mdc) (d : Dev) : Dev :=
  { d with disk := { m.image with
      layouts := d.vault.layouts, metaSeq := d.vault.metaSeq, rootNext := d.vault.rootNext, vaultId := d.vault.vaultId
      labelSeq := d.vault.labelSeq, level := d.disk.level, progress := d.disk.progress } }

/-- Metadata migration is due (R438): a session at a level above that of the vault, no RESHAPE, and one fw_version (R309). -/
def Dev.migrates (d : Dev) : Bool :=
  d.tango.session && decide (d.vault.vaultLevel < d.tango.cl) && d.vault.reshape.isNone && !d.versionHeld

/-- Step 1 of R438: this head's next commit is in the formats of the pair's level. -/
def migrate (d : Dev) : Dev :=
  if d.migrates && !d.tango.migrated then
    logEvent 0x0E0A noInstance [BitVec.ofNat 32 d.vault.vaultLevel, BitVec.ofNat 32 d.tango.cl] (onTango (fun t => { t with migrated := true }) d)
  else d

/-- Step 2 of R438: head A, which finds that head B has made a commit in the session, rewrites every label with the pair's level. -/
def relabel (d : Dev) : Dev :=
  if d.migrates && !d.glb.headB then
    writeLabels ((List.range 48).filter d.serves) (onVault (fun v => { v with vaultLevel := d.tango.cl }) d)
  else d

/-- A deletion is durable. -/
def erase (x : Nat × Nat × Nat) (d : Dev) : Dev :=
  if x.2.2 = 0 then onTake x.1 x.2.1 (fun t => { t with erased := true }) d
  else onSegment x.1 x.2.1 x.2.2 (fun s => { s with gone := 2 }) d

/-- The root stripe has retired (R234, step 3): DURABLE, the frees that the commit recorded take effect, the old catalogue
stripes are freed, its takes are CLOSED, what it removed is freed, and a commit that is owed starts. -/
def commitDurable (m : Mdc) (d : Dev) : Dev :=
  let d1 := migrate (appendDurable m.covers (onVault (fun v => { v with mdc := none }) d))
  let gone (e : Nat × Nat) : Bool := m.freed.contains e
  let d2 := onVault (fun v =>
    let used := v.inUse.filter (fun e => !gone e)
    { v with
      inUse := used, freedNext := v.freedNext.filter (fun e => !gone e), catStripes := m.cats
      claims := v.claims.filter (fun c => !(c.headB == d.glb.headB &&
        m.freed.any (fun e => e.1 == c.layout && e.2 / 256 == c.period) &&
        !used.any (fun e => e.1 == c.layout && e.2 / 256 == c.period))) }) d1
  let d3 := each freeStripe d.vault.catStripes d2
  let d4 := recordLosses (purgeTakes (each erase m.removed (writeDisk m (each (fun e x => takeClosed e.1 e.2 x) m.closing d3))))
  if d4.vault.mdcAgain then startCommit [] d4 else d4

/-- A metadata commit goes on once the stripes it waits for have retired. -/
def stepCommit (d : Dev) : Dev :=
  match d.vault.mdc with
  | none => d
  | some m =>
    let busy := m.waits.any (fun e => d.vault.sealedQ.any (fun s => (s.layout, s.stripe) == e) ||
      d.vault.opened.any (fun o => (o.buf.layout, o.buf.stripe) == e))
    if busy then d
    else if m.root then commitDurable m d
    else
      match d.rootLayout with
      | some l => writeRoot l m d
      | none => d

/-! ## The close of a take (R223) -/

/-- Whether a take has stripes on their way. -/
def Dev.takeBusy (d : Dev) (t : Take) : Bool :=
  d.pipes.list.any (fun p => (p.stripe.map (fun s => s.volume == t.volume && s.takeId == t.id)).getD false) ||
    d.vault.sealedQ.any (fun s => s.volume == t.volume && s.takeId == t.id) ||
    d.vault.opened.any (fun o => o.buf.volume == t.volume && o.buf.takeId == t.id)

/-- A part whose chain and map this head keeps. -/
def Part.own (p : Part) : Bool := p.mine && !p.lent

/-- Groups of a take that must have ended before this head closes its parts: those that it owns, and those of a part whose chain it keeps. -/
def Dev.takeGroups (d : Dev) (t : Take) : List (Fin 4) :=
  groupList.filter (fun g => t.hasGroup g && (d.owns g || t.parts.any (fun p => p.own && p.groups.getLsbD g.val)))

/-- A part has entries or frames that no page covers; the entries of metadata tiles alone need none. -/
def unpaged (p : Part) : Bool :=
  (p.entries.drop p.pagedEnts).any (fun e => !e.flags.getLsbD 3) || decide (p.pagedFrames < p.frames.length)

/-- Form and write the final pages of every part that this head keeps, and what is pending for any that it writes (R223, step 2). -/
def writePages (t : Take) (d : Dev) : Dev :=
  (t.parts.filter (·.mine)).foldl (fun x p =>
    flushMeta t.volume t.id p.idx
      (if p.lent then x else formFramePage t.volume t.id p.idx true (formTilePage t.volume t.id p.idx true x))) d

/-- Write what is pending for the parts that this head writes. -/
def flushParts (t : Take) (d : Dev) : Dev := (t.parts.filter (·.mine)).foldl (fun x p => flushMeta t.volume t.id p.idx x) d

/-- Close records and seals of the parts that this head keeps (R223, step 3). -/
def sealParts (t : Take) (d : Dev) : Dev := (t.parts.filter (fun p => p.own && !p.closeDone)).foldl (fun x p => sealPart t.volume t.id p.idx x) d

/-- The lowest-numbered part of a take. -/
def Take.first (t : Take) : Option Part := t.parts.find? (fun p => t.parts.all (fun q => decide (p.idx ≤ q.idx)))

/-- The map of a take, part by part. -/
def Dev.takeMap (d : Dev) (t : Take) : List (List Entry × List FrameRec) :=
  match d.layoutOf t with
  | some l => t.parts.map (t.mapOf l)
  | none => t.parts.map (fun p => (p.entries, p.frames))

/-- The manifest (R223, step 4), in the last metadata tiles of the take's lowest-numbered part (R232). -/
def writeManifest (t : Take) (p : Part) (d : Dev) : Dev :=
  let m := d.takeMap t
  let man := manifestBytes t 0 t.reason 0 (m.flatMap (·.2)) ((m.map (fun x => x.1.length)).sum) 0 0 0 t.closeTime (takeSeals t)
  let recs : List MetaRec := (pieces (man.length / 65528 + 1) man).map
    (fun b => { body := .manifest b, part := p.idx, seg := 0, src := none })
  flushMeta t.volume t.id p.idx (onTake t.volume t.id (fun x => { x with pending := x.pending ++ recs }) d)

/-- Set the stage of a close. -/
def setStage (t : Take) (n : Nat) (d : Dev) : Dev := onTake t.volume t.id (fun x => { x with stage := n }) d

/-- A Reel take's open segments are cut, paged and sealed (R241), and what they write is flushed. -/
def cutSegments (t : Take) (d : Dev) : Dev :=
  let segs := ((t.reel.map (·.segs)).getD []).map (·.id)
  let d1 := segs.foldl (fun x s => stepSegment t.volume t.id s (fixSegment t.volume t.id s true x)) d
  match d1.take t.volume t.id with
  | some t1 => if t1.pending.isEmpty then d1 else writePages t1 d1
  | none => d1

/-- One step of a closing take at a head that keeps a part of it: its groups drained (0), its segments closed and its pages written (1),
its parts sealed (2), the parts that the partner keeps closed (3), the manifest retired (4), the record committed (5). The head that
keeps the lowest-numbered part writes the manifest; the other waits in stage 3 to be told that the take is CLOSED (R223, R232). -/
def stepClose (v id : Nat) (d : Dev) : Dev :=
  match d.take v id with
  | none => d
  | some t =>
    if t.state ≠ .closing ∨ !t.parts.any (·.mine) then d
    else if t.stage = 0 then
      if (d.takeGroups t).all (fun g => t.ended.getLsbD g.val) then setStage t 1 d else d
    else if t.stage = 1 then
      if ((t.reel.map (·.segs)).getD []).any (fun s => !s.closed) then cutSegments t d
      else if d.takeBusy t then d
      else if (t.parts.filter (·.own)).any unpaged || !t.pending.isEmpty then writePages t d
      else setStage t 2 d
    else if t.stage = 2 then
      -- a chain that waits for a free register holds the close back
      if t.parts.any (fun p => p.own && p.due.isSome) then d else setStage t 3 (sealParts t d)
    else if t.stage = 3 then
      match t.first with
      | some p => if p.own && t.parts.all (·.closeDone) then setStage t 4 (writeManifest t p d) else d
      | none => d
    else if t.stage = 4 then
      if d.takeBusy t then d
      else if !t.pending.isEmpty then flushParts t d
      else startCommit [(v, id)] (setStage t 5 d)
    else d

/-- A closing take goes on as far as it can. -/
def advanceTake (v id : Nat) (d : Dev) : Dev := Nat.repeat (stepClose v id) 6 d

/-- Every closing take goes on, Reel segments do, and chains that wait for a register. -/
def advanceTakes (d : Dev) : Dev :=
  settleChains (d.cat.takes.foldl (fun x t =>
    let y := if t.reel.isSome then closeSegments t.volume t.id x else x
    if t.state = .closing then advanceTake t.volume t.id y else y) d)

/-! ## Receiving a replica (R344 to R347) -/

/-- Change the replication session of a channel. -/
def onRepl (c : Nat) (f : Repl → Repl) (d : Dev) : Dev :=
  match tget d.repl c with
  | some r => { d with repl := tput d.repl c (f r) }
  | none => d

/-- The page that encrypts what a replication channel sends (R341). -/
def Dev.txPage (d : Dev) (c : Nat) : Option Nat := (tget d.hif.chans c).bind (fun ch => (tget d.rdma.qps ch.qp).map (·.host.txPage))

/-- The job that encrypts a replication message on a service lane (R149, R342): a message longer than a segment takes its page's context
slot, and the segments of such a message and of a TILE end at CIPHER_SEGMENT_END. -/
def Dev.replJob (d : Dev) (c : Nat) (r : Repl) (o : Out) : Option CJob :=
  match tget d.hif.chans c, d.txPage c, replBody o with
  | some ch, some p, some m =>
    let segs := max 1 ((m.2.length + 65535) / 65536)
    some { page := p, segs := segs, long := decide (1 < segs), timed := decide (1 < segs ∨ m.1 = 0x22), started := false, encrypt := true
           chan := some c, handle := d.handle c, qp := ch.qp, head := replHead m.1 r.level m.2.length r.txSeq
           tail := if m.1 = 0x02 then zeros 8 else partKey r.volume r.takeId r.part, body := m.2, ctr := 0, msg := some o, entry := 0
           later := false, aborting := none }
  | _, _, _ => none

/-- A replication message after R_HELLO goes to the service lanes and leaves under the next counter of its page (R149, R280, R341). -/
def replMsg (c : Nat) (o : Out) (d : Dev) : Dev :=
  match tget d.repl c with
  | none => d
  | some r =>
    match d.replJob c r o with
    | some j => submitJob j (onRepl c (fun x => { x with txSeq := next64 x.txSeq }) d)
    | none => d

/-- Committed entries of the part that a session receives. -/
def Dev.partLength (d : Dev) (r : Repl) : Nat := (((d.take r.volume r.takeId).bind (·.part r.part)).map (·.entries.length)).getD 0

/-- An entry whose reference has committed, or whose session ends, pins its tile no more (R344). -/
def unpinHeld (volume : Nat) (e : Entry) (d : Dev) : Dev :=
  match if e.flags.getLsbD 0 then d.repl.find? (fun x => x.2.volume == volume && x.2.pinned.contains (e.loc, e.fp)) else none with
  | some (c, _) => onCat (fun k => k.unpin volume e.fp) (onRepl c (fun r => { r with pinned := r.pinned.erase (e.loc, e.fp) }) d)
  | none => d

/-- The layout of the take that a session receives. -/
def Dev.replLayout (d : Dev) (v : Volume) (r : Repl) : Nat := ((d.take r.volume r.takeId).map (·.layout)).getD (d.writeLayout v)

/-- Where HELD finds the tile of a batch entry (R344): by fingerprint, with the way to pin, or by its location at the source. -/
def Dev.heldTile (d : Dev) (v : Volume) (r : Repl) (lookup : Bool) (e : FpEntry) : Option (Nat × Option Nat) :=
  if !e.flags.getLsbD 0 || e.flags.getLsbD 1 then none
  else
    match if lookup && v.dedup then d.cat.lookup (d.replLayout v r) v.id e.fp else none with
    | some (w, x) => if x.storedLen = e.storedLen then some (x.loc, some w) else (tget r.recvd e.loc).map (fun l => (l, none))
    | none => (tget r.recvd e.loc).map (fun l => (l, none))

/-- One entry of a batch is looked up; an entry that is committed already is not received again (R308). -/
def addItem (c : Nat) (v : Volume) (lookup : Bool) (x : Nat × FpEntry) (d : Dev) : Dev :=
  match tget d.repl c with
  | none => d
  | some r =>
    let have_ := decide (x.1 < d.partLength r)
    let h := if have_ then none else d.heldTile v r lookup x.2
    let d1 := match h with
      | some (_, some w) => onCat (fun k => k.pinHit (hotBucket x.2.fp) w) d
      | _ => d
    onRepl c (fun q => { q with
      batch := q.batch ++ [{ idx := x.1, ent := x.2, held := h.map (·.1), tile := none }]
      pinned := match h with
        | some (l, some _) => q.pinned ++ [(l, x.2.fp)]
        | _ => q.pinned }) d1

/-- The open stripe of a session, with room for `n` bytes: a full one is sealed, and a fresh one is opened where it can be. -/
def replStripe (c n : Nat) (d : Dev) : Dev × Option StripeBuf :=
  match tget d.repl c with
  | none => (d, none)
  | some r =>
    match r.stripe, d.take r.volume r.takeId with
    | some sb, _ => if sb.fits n 0 then (d, some sb) else
        let d1 := onRepl c (fun q => { q with stripe := none }) (queueStripe { sb with padded := decide (sb.used < dataSpace) } d)
        replFresh c r d1
    | none, _ => replFresh c r d
where
  /-- A fresh stripe of this head's claimed periods, under journal source 4 (R346). -/
  replFresh (c : Nat) (r : Repl) (d : Dev) : Dev × Option StripeBuf :=
    match d.take r.volume r.takeId with
    | none => (d, none)
    | some t =>
      match d.layoutOf t with
      | none => (d, none)
      | some l =>
        match freshStripe l t r.part 4 255 0 d with
        | (d1, some sb) => (onRepl c (fun q => { q with stripe := some sb }) d1, some sb)
        | (d1, none) => (d1, none)

/-- An entry of a batch as the target records it: the source's sequence and flags, its own location (R346). -/
def itemEntry (loc : Nat) (e : FpEntry) : Entry :=
  { loc := loc, flags := e.flags, tileSeq := e.tileSeq, fp := e.fp, storedLen := e.storedLen }

/-- A stored tile goes into a stripe: with its entry, or, for a reference, with count 0 and the entry that refers to it (R346). -/
def placeItem (l : LayoutRec) (sb : StripeBuf) (e : FpEntry) (stored : List Byte) : StripeBuf × Nat :=
  let off := alignUp sb.used 64
  let loc := l.location sb.stripe off
  ({ sb with used := off + stored.length, data := sb.data ++ [(off, stored)], entries := sb.entries ++ [itemEntry loc e] }, loc)

/-- The first entry of a batch is recorded, where it can be: lost, held, of an earlier namesake, or received. -/
def packItem (c : Nat) (d : Dev) : Option Dev :=
  match tget d.repl c with
  | none => none
  | some r =>
    match r.batch with
    | [] => none
    | x :: rest =>
      let known := if x.ent.flags.getLsbD 1 then some 0
        else x.held.orElse (fun _ => if x.ent.flags.getLsbD 0 then tget r.recvd x.ent.loc else none)
      if x.idx < d.partLength r then some (onRepl c (fun q => { q with batch := rest }) d)
      else
        match known, x.tile with
        | some loc, _ =>
          match replStripe c 0 d with
          | (d1, some sb) =>
            some (onRepl c (fun q => { q with batch := rest, stripe := some { sb with entries := sb.entries ++ [itemEntry loc x.ent] } }) d1)
          | (_, none) => none
        | none, some b =>
          match replStripe c b.length d with
          | (d1, some sb) =>
            (d1.layout sb.layout).map (fun l =>
              let y := placeItem l sb x.ent b
              let d2 := if x.ent.flags.getLsbD 0 then onCat (fun k => { k with refs := tput k.refs (refKey l.layoutId y.2) 0 }) d1 else d1
              onRepl c (fun q => { q with batch := rest, stripe := some y.1,
                                          recvd := (q.recvd ++ [(x.ent.loc, y.2)]).drop (q.recvd.length + 1 - 65536) }) d2)
          | (_, none) => none
        | none, none => none

/-- Every entry that can be is recorded, in entry order; the stripe is sealed once the batch is through. -/
def packBatch (c : Nat) : Nat → Dev → Dev
  | 0, d => d
  | n + 1, d =>
    match packItem c d with
    | some d1 => packBatch c n d1
    | none =>
      match tget d.repl c with
      | some r =>
        match r.batch, r.stripe with
        | [], some sb => onRepl c (fun q => { q with stripe := none }) (queueStripe { sb with padded := decide (sb.used < dataSpace) } d)
        | _, _ => d
      | none => d

/-- A session's batch goes on. -/
def pumpRepl (c : Nat) (d : Dev) : Dev := packBatch c (((tget d.repl c).map (·.batch.length)).getD 0 + 1) d

/-- The next batch that waits is answered with HELD, once the one before has committed (R343, step 4). -/
def startBatch (c : Nat) (d : Dev) : Dev :=
  match tget d.repl c with
  | none => d
  | some r =>
    match r.busy, r.queue, d.volume r.volume with
    | false, (first, lookup, ents) :: rest, some v =>
      let d1 := onRepl c (fun q => { q with queue := rest, busy := true, goal := first + ents.length, batch := [] }) d
      let d2 := each (addItem c v lookup) (ents.zipIdx.map (fun x => (first + x.2, x.1))) d1
      let bits := (((tget d2.repl c).map (·.batch)).getD []).map (·.held.isSome)
      pumpRepl c (replMsg c (.replHeld c first bits) d2)
    | _, _, _ => d

/-- The session's offer ends: REPL_ACCEPT completes, the receive buffers are free, pins clear, what is not sealed is dropped
(R345, R348). -/
def endAccept (c status : Nat) (d : Dev) : Dev :=
  match tget d.repl c with
  | none => d
  | some r =>
    let d1 := r.buffers.foldl (fun x i => poolFree 3 i false x) d
    let d2 := onCat (fun k => r.pinned.foldl (fun y p => y.unpin r.volume p.2) k) d1
    let d3 := match r.stripe with
      | some sb => freeBuffers sb (undoStripe (sb.layout, sb.stripe) d2)
      | none => d2
    let d4 := onRepl c (fun q => { q with offer := none, busy := false, batch := [], stripe := none, queue := [], pinned := [],
                                          total := none, buffers := [] }) d3
    match d.job c with
    | some (.accept j) => complete j.h 0x78 status (BitVec.ofNat 64 j.takeId) (BitVec.ofNat 64 j.tiles) (setJob c none d4)
    | _ => d4

/-- Whether every part of a take is closed. -/
def Take.allClosed (t : Take) : Bool := t.parts.all (·.closeDone)

/-- The part that a session receives closes once its total has committed (R347, R223): its tile-map pages are written, the take's
record is committed once every offered part is closed, and CLOSED is sent. -/
def closePart (c total : Nat) (r : Repl) (d : Dev) : Dev :=
  match d.take r.volume r.takeId with
  | none => d
  | some t =>
    match t.part r.part with
    | none => d
    | some p =>
      if !p.closeDone then
        if unpaged p && !d.mayEncode t then d
        else if unpaged p then
          let d1 := formTilePage t.volume t.id p.idx true d
          match replStripe c 0 d1, d1.take t.volume t.id with
          | (d2, some sb), some t1 =>
            match d2.layout sb.layout with
            | some l =>
              let x := placeAllMeta 0 l t1 p.idx sb d2
              onRepl c (fun q => { q with stripe := none }) (queueStripe { x.1 with padded := true } x.2)
            | none => d2
          | (d2, none), _ => d2
          | (d2, _), none => d2
        else if d.vault.sealedQ.any (fun s => s.volume == t.volume && s.takeId == t.id) ||
            d.vault.opened.any (fun o => o.buf.volume == t.volume && o.buf.takeId == t.id) then d
        else
          let d1 := onPart t.volume t.id p.idx (fun q => { q with closeDone := true }) d
          match d1.take t.volume t.id with
          | some t1 =>
            if t1.allClosed then startCommit [(t.volume, t.id)] (onTake t.volume t.id (fun y => { y with state := .closing, stage := 5 }) d1)
            else d1
          | none => d1
      else if t.state = .closed_ ∨ !t.allClosed then endAccept c 0 (replMsg c (.replClosed c total) d)
      else d

/-- What a session at the target does next: its batch has committed, and COMMIT goes out; the next one starts; its part closes. -/
def settleSession (x : Nat × Repl) (d : Dev) : Dev :=
  let c := x.1
  match tget d.repl c with
  | none => d
  | some r =>
    if r.source || r.offer.isNone then d
    else
      let done := r.busy && r.batch.isEmpty && r.stripe.isNone && decide (r.goal ≤ d.partLength r)
      let d1 := if done then startBatch c (replMsg c (.replCommit c (d.partLength r)) (onRepl c (fun q => { q with busy := false }) d)) else d
      match tget d1.repl c with
      | some r1 =>
        match r1.busy, r1.total with
        | false, some n => if n ≤ d1.partLength r1 then closePart c n r1 d1 else d1
        | _, _ => d1
      | none => d1

/-- Every session at the target goes on. -/
def settleRepl (d : Dev) : Dev := each settleSession d.repl d

/-! ## Retirement (R185) -/

/-- Whether an open entry may retire: all members written, its open record placed by the partner or this head running
alone, no earlier entry of its source open, no handover that still holds it, no sealing again, and room for its record. -/
def Dev.retirable (d : Dev) (e : OpenEnt) : Bool :=
  let n := ((d.layout e.buf.layout).map (·.members)).getD 18
  e.done == fullMask n && (e.acked || d.alone) && !e.waitHand && !e.again && decide (d.vault.live + 64 ≤ liveMax) &&
    !d.vault.opened.any (fun x => x.buf.source == e.buf.source && before64 x.order e.order)

/-- The slots of an entry are committed (R79), and C advances to its commit_gsn (R185). -/
def commitSlots (g : Fin 4) (n : Nat) (gsn : W32) (d : Dev) : Dev :=
  onLedger g (fun l => { l with
    committed := l.committed + BitVec.ofNat 64 n, resident := l.resident - BitVec.ofNat 64 n, carried := l.carried - n,
    commit := if precedes l.commit gsn then gsn else l.commit }) d

/-- With nothing of a group between its pipe and its commit, everything that the pipe has consumed is committed or
dropped, and C is the gsn before the next one to consume (R76). -/
def settleC (g : Fin 4) (d : Dev) : Dev :=
  let l := d.lg.at g
  let p := d.pipes.at g
  if l.carried = 0 ∧ p.holding = 0 ∧ p.refPend = 0 ∧ p.stripe.isNone ∧ precedes l.commit (l.ringPos - 1) then
    onLedger g (fun x => { x with commit := x.ringPos - 1 }) d
  else d

/-- What an entry carries is committed to its take's part: entries in tile-map order with their chain records, those that a handed-over
chain covers already aside (R163), counts and hot index, frame records (R162, R119, R222). The copies of a reshape are committed by its switch (R206). -/
def commitTiles (sb : StripeBuf) (d : Dev) : Dev :=
  match if sb.maint then none else d.take sb.volume sb.takeId with
  | none => d
  | some t =>
    let hot := ((d.volume sb.volume).map (·.dedup)).getD false && t.reel.isNone &&
      (if h : sb.source < 4 then d.pipeBit ⟨sb.source, h⟩ 4 else true)
    let d1 := each (fun x => unpinHeld sb.volume x) (if sb.source = 4 then sb.entries else [])
      (onCat (fun c => sb.entries.foldl (commitRef sb.layout sb.volume hot (sb.source != 4)) c) d)
    let ahead := ((t.part sb.part).map (fun p => p.records - p.entries.length)).getD 0
    let d2 := extendTiles sb.volume sb.takeId sb.part (sb.entries.drop ahead) d1
    onPart sb.volume sb.takeId sb.part (fun p => { p with entries := p.entries ++ sb.entries, frames := p.frames ++ sb.frames }) d2

/-- An entry retires: its record, its commits, its buffers freed, the limit computed anew. -/
def retire (e : OpenEnt) (d : Dev) : Dev :=
  let sb := e.buf
  let d1 := appendRec sb.source sb.layout sb.stripe (.stripeRetire e.jseq) none
    (onVault (fun v => { v with opened := v.opened.filter (fun x => x.jseq != e.jseq) }) d)
  let d2 := commitTiles sb (onVcnt (fun c => { c with retired := c.retired + 1 }) d1)
  let d3 := freeBuffers sb d2
  let d4 := if h : sb.source < 4 then
      let g : Fin 4 := ⟨sb.source, h⟩
      refreshLimit g (settleC g (onPipe g (fun p => { p with cstate := sb.gstate.orElse (fun _ => p.cstate) })
        (commitSlots g sb.slots sb.commitGsn d3)))
    else d3
  match if sb.maint then none else d4.layout sb.layout with
  | some l => pinCommitted l sb.volume sb.takeId d4
  | none => d4

/-- Every entry that may retire does, in order. -/
def retireAll : Nat → Dev → Dev
  | 0, d => d
  | n + 1, d =>
    match d.vault.opened.find? d.retirable with
    | some e => retireAll n (retire e d)
    | none => d

/-- The groups of a mask, in order. -/
def groupsIn (m : BitVec 4) : List (Fin 4) := groupList.filter (fun g => m.getLsbD g.val)

/-- A giving head whose entries up to the cuts have retired sends HANDOVER_DONE, and its HANDOVER is complete (R305, steps 6
and 7). -/
def settleHand (d : Dev) : Dev :=
  match d.tango.hand with
  | none => d
  | some h =>
    let left := d.vault.opened.any (fun e => decide (e.buf.source < 4) && h.groups.getLsbD e.buf.source) ||
      d.vault.sealedQ.any (fun s => decide (s.source < 4) && h.groups.getLsbD s.source)
    if !h.giving || h.stage != 3 || left then d
    else
      let d1 := tangoSend 0 (.handDone h.cuts) (onTango (fun t => { t with hand := none }) d)
      let d2 := { d1 with ih := { d1.ih with handovers := d1.ih.handovers + 1 } }
      let d3 := match h.h with
        | some x => complete x 0x1B 0 (BitVec.ofNat 64 d.tango.epoch) 0 d2
        | none => d2
      notifyAll d3

/-- Retirements, and what they let go on: metadata commit, closing takes and a planned handover, unless the head is stopping
(R194). -/
def retireReady (d : Dev) : Dev :=
  let d1 := retireAll d.vault.opened.length d
  if d1.live then settleRepl (settleHand (advanceTakes (stepCommit d1))) else d1

/-- Retirement goes on after PWRFAIL_N until the journal freezes (R194, steps 2 and 3); not in a fatal stop (R407). -/
def Dev.retiring (d : Dev) : Bool :=
  !d.glb.porLow && !d.glb.fatal && !d.glb.held && (!d.glb.reduced || d.vault.dump == .armed)

end Sys2Proof.Machine
end

