-- ==== Sys2Proof/Machine/Drives.lean ====
section
/-! DEFINITION. Drives: admission (R170, R504), registration and held writes (R289, R290), lag and failure (R186, R199),
lost stripes (R205), and the layout and volume operations (R174, R175, R502). -/

namespace Sys2Proof.Machine
open Sys2Proof

/-! ## Strip writes (R185, R186, R205) -/

/-- A member's write has completed (R185). After a lag the spare's write comes first, and the lagging one second. -/
def stripDone (j k : Nat) (d : Dev) : Dev :=
  let lagging := d.vault.lagW.any (fun w => w.1 == j && w.2.1 == k)
  let clear := onVault (fun v => { v with lagW := v.lagW.filter (fun w => !(w.1 == j && w.2.1 == k)) }) d
  match d.openEnt j with
  | none => if lagging then clear else d
  | some e =>
    if e.done.getLsbD k then (if lagging then clear else d)
    else retireReady (onOpen j (fun x => { x with done := x.done ||| maskOf [k] }) d)

/-- STRIP_WRITE_COMPLETE. -/
def execStripWriteComplete (jseq member : Nat) (s : State) : Host.Outcome State Fault Refusal :=
  .next { s with dev := when s.dev.retiring (stripDone jseq member) s.dev }

/-- The slot that member `k` of an open entry lies on. -/
def Dev.memberSlot (d : Dev) (e : OpenEnt) (k : Nat) : Option Nat :=
  (d.layout e.buf.layout).map (fun l => (d.memberAt l e.buf.stripe k).1)

/-- A member's write fails: its drive fails, and what waits on it is written elsewhere (R199, R205). -/
def stripFail (j k : Nat) (status : W32) (d : Dev) : Dev :=
  match d.openEnt j with
  | none =>
    match d.vault.lagW.find? (fun w => w.1 == j && w.2.1 == k) with
    | some w => failDrive w.2.2 (some status) d
    | none => d
  | some e =>
    match d.memberSlot e k with
    | none => d
    | some slot => if d.isFailed slot then rewriteMember j k d else failDrive slot (some status) d

/-- STRIP_WRITE_FAIL. -/
def execStripWriteFail (jseq member : Nat) (status : W32) (s : State) : Host.Outcome State Fault Refusal :=
  .next { s with dev := when s.dev.live (stripFail jseq member status) s.dev }

/-- Lag events of the last second. -/
def recentLags (x : Drive) (now : Nat) : List Nat := x.lagTimes.filter (fun t => decide (now < t + 1000000000))

/-- A member lags (R186): all the others of its stripe have completed. Its strip goes to a spare chunk, its drive becomes
suspect, and a third lag in one second fails it. -/
def memberLag (j k : Nat) (d : Dev) : Dev :=
  match d.openEnt j with
  | none => d
  | some e =>
    match d.layout e.buf.layout, d.memberSlot e k with
    | some l, some slot =>
      if e.done ||| maskOf [k] ≠ fullMask l.members ∨ e.done.getLsbD k then d
      else
        let lags := recentLags (d.drive slot) d.now ++ [d.now]
        let d1 := onVault (fun v => { v with lagW := v.lagW ++ [(j, k, slot)] })
          (onDrive slot (fun x => { x with state := .suspect, lagTimes := lags }) d)
        let d2 := logEvent 0x0401 (BitVec.ofNat 32 slot) [BitVec.ofNat 32 lags.length] d1
        let d3 := match remapMember l e.buf.stripe k d2 with
          | some x => onVcnt (fun c => { c with lags := c.lags + 1 }) (emit (x.stripWrite l e.buf k) x)
          | none => spareOut slot l.layoutId d2
        if 3 ≤ lags.length then failDrive slot none d3 else d3
    | _, _ => d

/-- MEMBER_LAG. -/
def execMemberLag (jseq member : Nat) (s : State) : Host.Outcome State Fault Refusal :=
  .next { s with dev := when s.dev.live (memberLag jseq member) s.dev }

/-- A lagging write has not completed after 2 s: its drive is failed (R186). -/
def lagFail (j k : Nat) (d : Dev) : Dev :=
  match d.vault.lagW.find? (fun w => w.1 == j && w.2.1 == k) with
  | none => d
  | some w => failDrive w.2.2 none (onVault (fun v => { v with lagW := v.lagW.filter (fun x => x != w) }) d)

/-- LAG_FAIL_TIMER. -/
def execLagFailTimer (jseq member : Nat) (s : State) : Host.Outcome State Fault Refusal :=
  .next { s with dev := when s.dev.live (lagFail jseq member) s.dev }

/-- A drive's link has been down for more than 1 s: the drive is failed (R199). -/
def linkLoss (slot : Nat) (d : Dev) : Dev :=
  failDrive slot none (onDrive slot (fun x => { x with linked := false, rateGT := 0, lanes := 0 }) d)

/-- DRIVE_LINK_LOSS (R199). -/
def execDriveLinkLoss (slot : Nat) (s : State) : Host.Outcome State Fault Refusal :=
  .next { s with dev := when s.dev.live (linkLoss slot) s.dev }

/-- DRIVE_CRITICAL_WARNING (R199). -/
def execDriveCriticalWarning (slot : Nat) (s : State) : Host.Outcome State Fault Refusal :=
  .next { s with dev := when s.dev.live (failDrive slot none) s.dev }

/-- STRIPE_ISSUE (R184). -/
def execStripeIssue (s : State) : Host.Outcome State Fault Refusal :=
  .next { s with dev := when s.dev.live issueNext s.dev }

/-- METADATA_COMMIT (R234). -/
def execMetadataCommit (s : State) : Host.Outcome State Fault Refusal :=
  .next { s with dev := when s.dev.working (fun d => advanceTakes (startCommit [] d)) s.dev }

/-! ## Registration and held writes (R289, R290) -/

/-- A reservation key (R289). Reservation commands go on queue 4 (DESIGN CHOICE, notes/assumptions/64.md). -/
def resKey (headB : Bool) (epoch : Nat) : W64 := BitVec.ofNat 64 (0x4F43 * 2 ^ 48 + bit headB * 2 ^ 40 + epoch % 2 ^ 40)

/-- Whether a key is one of a head (R289). -/
def keyOfHead (headB : Bool) (k : W64) : Bool := k.toNat / 2 ^ 40 == 0x4F43 * 256 + bit headB

/-- The highest claim epoch in a list of keys, those of no head left out (R289). -/
def keysEpoch (ks : List W64) : Nat :=
  ks.foldl (fun m k => if keyOfHead false k || keyOfHead true k then max m (k.toNat % 2 ^ 40) else m) 0

/-- Register this head's key on a drive. A head that has stepped down does not register until an OWNER_TABLE has come (R304). -/
def registerDrive (slot : Nat) (d : Dev) : Dev :=
  if d.tango.stepped then d
  else emit (.nvme slot 4 (.register (resKey d.glb.headB d.tango.epoch))) (onDrive slot (fun x => { x with registered := false }) d)

/-- Writes held on a slot are issued again once this head's registration is confirmed and, with a session up, the
partner's notice has come (R290). -/
def retryHeld (slot : Nat) (d : Dev) : Dev :=
  let x := d.drive slot
  if x.registered && (!d.tango.session || x.partnerReg) then
    x.held.foldl (fun y jk =>
      match y.openEnt jk.1 with
      | none => y
      | some e =>
        match y.layout e.buf.layout with
        | some l => emit (y.stripWrite l e.buf jk.2) y
        | none => y) (onDrive slot (fun z => { z with held := [] }) d)
  else d

/-- CONFLICT_HOLD_TIMER (R290): conditions that have not held within 1 s fail the drive. -/
def conflictHold (slot : Nat) (d : Dev) : Dev :=
  if (d.drive slot).held.isEmpty then d
  else if (d.drive slot).registered && (!d.tango.session || (d.drive slot).partnerReg) then retryHeld slot d
  else failDrive slot none d

/-- CONFLICT_HOLD_TIMER. -/
def execConflictHoldTimer (slot : Nat) (s : State) : Host.Outcome State Fault Refusal :=
  .next { s with dev := when s.dev.live (conflictHold slot) s.dev }

/-! ## Admission (R170, R172, R504) -/

/-- The first row of R170's table that a drive fails, counted from 1. The namespace ID must be that of the drives before. -/
def failingRow (nsId : Nat) (i : DriveInfo) : Option Nat :=
  if i.nsId = 0 ∨ (nsId ≠ 0 ∧ i.nsId ≠ nsId) then some 1
  else if !i.lbaFormat then some 2
  else if !i.piType2 then some 3
  else if i.mdts < 262144 then some 4
  else if i.queues < 4 then some 5
  else if !i.durable then some 6
  else if !i.plpRate then some 7
  else none

/-- Whether a port's link counts as having a drive: ×2, at 64 GT/s, or at 32 GT/s where DP_CFG allows it (R172). -/
def Dev.linkOk (d : Dev) (i : DriveInfo) : Bool :=
  i.linked && i.lanes == 2 && (i.rateGT == 64 || (i.rateGT == 32 && d.regs.dpCfg.getLsbD 0))

/-- DP_PORT_STATUS of a slot (R215). FLIT reads 1 at either rate (DESIGN CHOICE, notes/assumptions/66.md). -/
def portStatus (x : Drive) : W64 :=
  let rate := if !x.linked then 0 else if x.rateGT = 64 then 2 else if x.rateGT = 32 then 1 else 0
  let width := if x.linked && x.lanes == 2 then 2 else 0
  BitVec.ofNat 64 (rate + width * 4 + bit (x.linked && decide (rate ≠ 0)) * 16 + bit x.registered * 32) |||
    (x.retrains.setWidth 64 <<< 32)

/-- A port's link as admission finds it, where the port is enabled; a slow one is logged (R172, R407 of the code table). -/
def noteLink (i : DriveInfo) (d : Dev) : Dev :=
  let ok := (d.drive i.slot).portOn && d.linkOk i
  let d1 := onDrive i.slot (fun x => { x with linked := ok, rateGT := if ok then i.rateGT else 0, lanes := if ok then 2 else 0,
                                              nsSectors := i.nsSectors }) d
  if ok && i.rateGT == 32 then
    logEvent 0x0407 (BitVec.ofNat 32 i.slot) [(portStatus (d1.drive i.slot)).setWidth 32] d1 else d1

/-- What became of an admission. -/
inductive Admitted where
  | ok | already | failedDrive | noDrive | badRow (n : Nat)
deriving DecidableEq, Repr

/-- The head looks at the drive behind a port (R170, R171): its link, then the admin commands that show the items of R170. -/
def lookAt (i : DriveInfo) (d : Dev) : Dev :=
  let d1 := noteLink i d
  if (d1.drive i.slot).linked then emits [.nvme i.slot 0 .identify, .nvme i.slot 0 .getLogPage, .nvme i.slot 0 .getFeatures] d1 else d1

/-- A drive that passes is put to use (R171, R173, R289): four queue pairs of depth 256, this head's registration, the vault's label,
and the partner told. -/
def setUp (slot : Nat) (d : Dev) : Dev :=
  let queues := (List.range 4).flatMap (fun q => [Out.nvme slot 0 (.createCq (q + 1) 256), .nvme slot 0 (.createSq (q + 1) 256)])
  let d1 := registerDrive slot (emits ([Out.nvme slot 0 .setFeatures] ++ queues) d)
  tangoSend 0 (.driveNotice slot 2) (if d1.vault.vaultId = 0 then d1 else writeLabels [slot] d1)

/-- Admit a drive (R170, R504). -/
def admitSlot (i : DriveInfo) (d : Dev) : Dev × Admitted :=
  let st := (d.drive i.slot).state
  if st == .failed then (d, .failedDrive)
  else if st != .absent then (d, .already)
  else
    let d1 := lookAt i d
    if !(d1.drive i.slot).linked then (d1, .noDrive)
    else match failingRow d1.vault.nsId i with
      | some n => (logEvent 0x040B (BitVec.ofNat 32 i.slot) [BitVec.ofNat 32 n, i.nvme] d1, .badRow n)
      | none =>
        let d2 := onDrive i.slot (fun x => { x with state := .healthy, partnerReg := false })
          (onVault (fun v => { v with nsId := i.nsId }) d1)
        (setUp i.slot (learnLabel i.sys d2), .ok)

/-- Admit each drive named, without a descriptor (R459, R504). -/
def admitAll (l : List DriveInfo) (d : Dev) : Dev := l.foldl (fun x i => (admitSlot i x).1) d

/-- The newest root records name the catalogue as the last metadata commit left it, and the labels the layouts (R173, R233, R291
step 1). -/
def readDisk (reads : List (List (Nat × List Byte))) (d : Dev) : Dev :=
  let k := d.disk
  let d1 :=
    if k.metaSeq = 0 ∧ k.layouts.isEmpty then d
    else
      { d with
        cat := k.cat
        vault := { d.vault with
          layouts := k.layouts, claims := k.claims, inUse := k.inUse, remaps := k.remaps, lost := k.lost, metaSeq := k.metaSeq
          rootNext := k.rootNext, vaultId := k.vaultId, vaultLevel := k.level, labelSeq := k.labelSeq }
        tango := { d.tango with epochMax := max d.tango.epochMax k.epoch } }
  each learnLabel reads d1

/-- Maintenance goes on from the progress records of every layout (R205, R209). -/
def resumeAll (reads : List (List (Nat × List Byte))) (d : Dev) : Dev := each (resumeProgress reads) d.vault.layouts d

/-- Drive-port training and admission start (R459): ports of PORT_EN_ALL are enabled and their drives admitted. -/
def startPorts (l : List DriveInfo) (d : Dev) : Dev :=
  if d.glb.dpStarted then d
  else
    let d1 := { d with glb := { d.glb with dpStarted := true } }
    let reads := l.map (·.sys)
    if d1.regs.dpCfg.getLsbD 1 then
      resumeAll reads (admitAll l (readDisk reads ((List.range 48).foldl (fun x s => onDrive s (fun y => { y with portOn := true }) x) d1)))
    else resumeAll [] (readDisk [] d1)

/-- A layout's slot, for a MAINT descriptor (R267). -/
def Dev.maintLayout (d : Dev) (c : Nat) : Option LayoutRec := ((tget d.hif.chans c).map (·.layout)).bind d.layout

/-- Whether a slot belongs to a MAINT channel's layout. -/
def Dev.maintSlot (d : Dev) (c slot : Nat) : Bool := ((d.maintLayout c).map (fun l => l.has slot)).getD false

/-- DRIVE_ADMIT (R504). -/
def doDriveAdmit (h : Hdr) (slot : Nat) (i : DriveInfo) (d : Dev) : Dev :=
  match admitSlot { i with slot := slot } d with
  | (d1, .ok) => complete h 0x82 0 0 0 d1
  | (d1, .already) => complete h 0x82 2 0 0 d1
  | (d1, .failedDrive) => complete h 0x82 8 0 0 d1
  | (d1, .noDrive) => complete h 0x82 0x0C 0 0 d1
  | (d1, .badRow n) => complete h 0x82 0x0C (BitVec.ofNat 64 n) 0 d1

/-- DRIVE_ADMIT. -/
def execDriveAdmit (h : Hdr) (slot : Nat) (info : DriveInfo) (s : State) : Host.Outcome State Fault Refusal :=
  .next { s with dev := descriptor 0x82 [5] h (s.dev.maintSlot h.chan slot) (doDriveAdmit h slot info) s.dev }

/-- DRIVE_FAIL: at once; a drive that is failed, or absent, already is out of use (R267). -/
def doDriveFail (h : Hdr) (slot : Nat) (d : Dev) : Dev :=
  if d.isFailed slot || (d.drive slot).state == .absent then complete h 0x84 2 0 0 d
  else complete h 0x84 0 0 0 (failDrive slot none d)

/-- DRIVE_FAIL. -/
def execDriveFail (h : Hdr) (slot : Nat) (s : State) : Host.Outcome State Fault Refusal :=
  .next { s with dev := descriptor 0x84 [5] h (s.dev.maintSlot h.chan slot) (doDriveFail h slot) s.dev }

/-- The chunks of a failed drive that its replacement is to hold (R203, R204): those that a remap names, and those of written stripes that
none does; and the spare chunks of it that other drives' chunks were remapped to. -/
def Dev.copyWork (d : Dev) (slot : Nat) : List (Nat × Nat) :=
  let mapped := (d.vault.remaps.filter (fun r => r.failed == slot)).map (fun r => (r.layout, r.chunk))
  let spares := (d.movedChunks.filter (fun r => r.spare == slot)).filterMap (fun r =>
    (d.layout r.layout).map (fun l => (r.layout, l.dataChunks + r.spareChunk)))
  let written := (d.vault.inUse.map (fun e =>
    match d.layout e.1 with
    | none => []
    | some l => ((List.range l.members).map (fun k => l.place e.2 k)).filterMap (fun p =>
        if p.1 = slot then some (e.1, p.2) else none))).flatten
  (written ++ mapped ++ spares).eraseDups

/-- A replacement ends: the drive is Healthy, and its descriptor completes with the chunks copied back (R203). -/
def endReplace (slot : Nat) (r : Replacing) (d : Dev) : Dev :=
  let d1 := onDrive slot (fun x => if x.state = .replacing then { x with state := .healthy } else x)
    (onVault (fun v => { v with replaces := tdel v.replaces slot }) d)
  match r.h with
  | some h => complete h 0x83 0 (BitVec.ofNat 64 r.done) 0 d1
  | none => d1

/-- DRIVE_REPLACE (R203, R204): a replacement in a failed drive's slot, where PI_ERRORS counts on (DESIGN CHOICE,
notes/assumptions/66.md). A later one of the same slot resumes a replacement
that was aborted (R270). A slot whose drive is neither failed nor replacing needs none. -/
def doDriveReplace (h : Hdr) (slot : Nat) (i : DriveInfo) (d : Dev) : Dev :=
  match tget d.vault.replaces slot with
  | some r =>
    if r.h.isSome then complete h 0x83 8 0 0 d
    else onVault (fun v => { v with replaces := tput v.replaces slot { r with h := some h } }) d
  | none =>
    if !d.isFailed slot then complete h 0x83 2 0 0 d
    else
      let info := { i with slot := slot }
      let d1 := lookAt info d
      if !(d1.drive slot).linked then complete h 0x83 0x0C 0 0 d1
      else match failingRow d1.vault.nsId info with
        | some n => complete h 0x83 0x0C (BitVec.ofNat 64 n) 0 (logEvent 0x040B (BitVec.ofNat 32 slot) [BitVec.ofNat 32 n, i.nvme] d1)
        | none =>
          let d2 := setUp slot (onDrive slot (fun x => { x with state := .replacing, lagTimes := [], partnerReg := false }) d1)
          let r : Replacing := { h := some h, done := 0, left := d2.copyWork slot }
          if r.left.isEmpty then endReplace slot r d2
          else onVault (fun v => { v with replaces := tput v.replaces slot r }) d2

/-- DRIVE_REPLACE. -/
def execDriveReplace (h : Hdr) (slot : Nat) (info : DriveInfo) (s : State) : Host.Outcome State Fault Refusal :=
  .next { s with dev := descriptor 0x83 [5] h (s.dev.maintSlot h.chan slot) (doDriveReplace h slot info) s.dev }

/-- DRIVE_PORT (R267): enabling a port trains it and admits its drive; disabling it takes the link down. -/
def doDrivePort (h : Hdr) (port action : Nat) (info : List DriveInfo) (d : Dev) : Dev :=
  let d0 := startPorts info d
  if action = 1 then
    let d1 := onDrive port (fun x => { x with portOn := true }) d0
    let mine := info.filter (fun i => i.slot == port)
    complete h 0x1A 0 0 0 (admitAll mine (each noteLink mine d1))
  else complete h 0x1A 0 0 0 (onDrive port (fun x => { x with portOn := false, linked := false, rateGT := 0, lanes := 0 }) d0)

/-- DRIVE_PORT. -/
def execDrivePort (h : Hdr) (port action : Nat) (info : List DriveInfo) (s : State) : Host.Outcome State Fault Refusal :=
  .next { s with dev := descriptor 0x1A [7] h (decide (port < 48 ∧ action < 2)) (doDrivePort h port action info) s.dev }

/-- Head A, as the pair starts, acquires the reservation of a drive where none is held, and preempts every key that is not one of the two
that the heads register (R291, step 2). -/
def clearKeys (slot : Nat) (keys : List W64) (held : Bool) (d : Dev) : Dev :=
  if d.tango.purge == some d.tango.epoch then
    let key := resKey false d.tango.epoch
    let other := keys.filter (fun k => k != key && k != resKey true d.tango.epoch)
    emits ((if held then [] else [.nvme slot 4 (.acquire key none)]) ++ other.map (fun k => .nvme slot 4 (.acquire key (some k)))) d
  else d

/-- An NVMe admin or reservation command completes (R171): admission goes on, a registration is confirmed (R290), or an
error fails the drive (R199). -/
def adminDone (slot : Nat) (r : DriveAdmin) (d : Dev) : Dev :=
  match r with
  | .identify i => if (d.drive slot).state == .absent && (d.drive slot).portOn then (admitSlot { i with slot := slot } d).1 else d
  | .registered => emit (.nvme slot 4 .report) d
  | .acquired => d
  | .report keys held =>
    let d1 := onTango (fun t => { t with epochMax := if t.waiting then max t.epochMax (keysEpoch keys) else t.epochMax }) d
    retryHeld slot (onDrive slot (fun x => { x with
      registered := keys.any (keyOfHead d.glb.headB), partnerReg := x.partnerReg || keys.any (keyOfHead (!d.glb.headB)) })
      (clearKeys slot keys held d1))
  | .error status => failDrive slot (some status) d

/-- DRIVE_ADMIN_COMMAND_COMPLETE. -/
def execDriveAdminCommandComplete (slot : Nat) (r : DriveAdmin) (s : State) : Host.Outcome State Fault Refusal :=
  .next { s with dev := when (s.dev.working && decide (slot < 48)) (adminDone slot r) s.dev }

/-- A drive port's link has trained again (R215): counted; a slow or short link counts as no drive, so the drive behind it
is not served (R172). A failed drive that answers again is fenced before it is read. -/
def portRetrain (slot rate lanes : Nat) (d : Dev) : Dev :=
  let ok := (d.drive slot).portOn && lanes == 2 && (rate == 64 || (rate == 32 && d.regs.dpCfg.getLsbD 0))
  let d1 := onDrive slot (fun x => { x with retrains := x.retrains + 1, linked := ok, rateGT := if ok then rate else 0,
                                            lanes := if ok then 2 else 0 }) d
  let d2 := if ok && rate == 32 then logEvent 0x0407 (BitVec.ofNat 32 slot) [(portStatus (d1.drive slot)).setWidth 32] d1 else d1
  if ok && d2.isFailed slot then registerDrive slot d2 else d2

/-- DRIVE_PORT_RETRAIN. -/
def execDrivePortRetrain (slot rateGT lanes : Nat) (s : State) : Host.Outcome State Fault Refusal :=
  .next { s with dev := when (s.dev.working && decide (slot < 48)) (portRetrain slot rateGT lanes) s.dev }

/-- A write to DP_CFG (R215, R459): its fields before the lock; training and admission start where they have not. -/
def dpCfgWrite (value : W32) (drives : List DriveInfo) (d : Dev) : Dev :=
  startPorts drives (if d.glb.locked then d else { d with regs := { d.regs with dpCfg := value &&& 3 } })

/-- DP_CFG_WRITE. -/
def execDpCfgWrite (value : W32) (drives : List DriveInfo) (s : State) : Host.Outcome State Fault Refusal :=
  .next { s with dev := when (s.dev.running && !s.dev.glb.perstLow) (dpCfgWrite value drives) s.dev }

/-! ## Layouts and volumes (R174, R175, R502) -/

/-- Whether a placement table is valid (R174, R207). -/
def tableOk (l : LayoutRec) : Bool :=
  let rows := (List.range 256).map l.row
  decide (l.table.length = 256 * l.members) && l.table.all (fun s => decide (s < 48) && l.has s) &&
    rows.all (fun r => r.eraseDups.length == r.length) &&
    (List.range 48).all (fun dr =>
      let n := (rows.filter (fun r => r.contains dr)).length
      if !l.has dr then n == 0
      else if l.kind = 1 then n == 2560 / l.drives || n == (2560 + l.drives - 1) / l.drives
      else n == 4608 / l.drives)

/-- Drives of a mask. -/
def maskCount (m : W64) : Nat := ((List.range 64).filter (fun i => m.getLsbD i)).length

/-- End of a layout's chunk area. -/
def LayoutEnd (l : LayoutRec) : Nat := l.baseLba + 64 * (l.perPeriod * l.periods + l.spares)

/-- Whether a layout record may be loaded beside those there are (R173 to R175). A forerunner layout and the native one that
its moving-boundary reshape makes share their area (R208). A forerunner record may name 10 to 48 drives (DESIGN CHOICE,
notes/assumptions/66.md). -/
def layoutOk (d : Dev) (id recLen : Nat) (l : LayoutRec) (least : Nat) : Bool :=
  decide (1 ≤ id ∧ id ≤ 0xFFFE ∧ l.layoutId = id) && decide (recLen = 48 + 256 * l.members) &&
    ((l.kind == 0 && l.width == 16 && [18, 24, 32, 36, 48].contains l.drives && l.spares == spareChunks l.drives l.periods) ||
      (l.kind == 1 && l.width == 8 && decide (10 ≤ l.drives ∧ l.drives ≤ 48))) &&
    decide (maskCount l.driveMask = l.drives) && l.driveMask >>> 48 == 0 && decide (l.flags.toNat < 8) &&
    decide (32768 ≤ l.baseLba ∧ 0 < l.periods) && tableOk l && decide (LayoutEnd l ≤ least) &&
    d.vault.layouts.all (fun m => m.layoutId != id &&
      (m.driveMask &&& l.driveMask == 0 || decide (LayoutEnd l ≤ m.baseLba) || decide (LayoutEnd m ≤ l.baseLba) ||
        (m.kind == 1 && l.kind == 0 && m.baseLba == l.baseLba && m.driveMask == l.driveMask)))

/-- Sectors of the smallest namespace of a layout. -/
def Dev.leastNs (d : Dev) (l : LayoutRec) (info : List DriveInfo) : Nat :=
  (((List.range 48).filter l.has).map (fun s =>
    ((info.find? (fun i => i.slot == s)).map (·.nsSectors)).getD (d.drive s).nsSectors)).foldl min (2 ^ 64)

/-- LAYOUT_LOAD (R174, R175, R459): the record is checked, the drives of its mask admitted, and their labels written.
Unlike firmware at the two heads holds it (R309). -/
def doLayoutLoad (h : Hdr) (id recLen : Nat) (rec : LayoutRec) (info : List DriveInfo) (d : Dev) : Dev :=
  if d.versionHeld then complete h 0x10 0x0F 0 0 d else
  let d0 := startPorts info d
  let l := withTable rec
  if !layoutOk d0 id (if rec.table.isEmpty then recLen + 4608 else recLen) l (d0.leastNs l info) then complete h 0x10 0x10 0 0 d0
  else if 8 ≤ d0.vault.layouts.length then complete h 0x10 8 0 0 d0
  else
    let d1 := admitAll (info.filter (fun i => l.has i.slot && (d0.drive i.slot).state == .absent)) d0
    let d2 := onVault (fun v => { v with layouts := v.layouts ++ [l] }) d1
    let d3 := if d2.vault.vaultId = 0 then drawn (onVault (fun v => { v with vaultId := Config.free64 d2.free }) d2) else d2
    complete h 0x10 0 0 0 (writeLabels ((List.range 48).filter (fun s => l.has s && d3.serves s)) d3)

/-- LAYOUT_LOAD. -/
def execLayoutLoad (h : Hdr) (layoutId recLen : Nat) (rec : LayoutRec) (drives : List DriveInfo) (s : State) :
    Host.Outcome State Fault Refusal :=
  .next { s with dev := descriptor 0x10 [7] h true (doLayoutLoad h layoutId recLen rec drives) s.dev }

/-- VOLUME_CREATE (R267, R502). -/
def doVolumeCreate (h : Hdr) (v layout : Nat) (enc dedup : Bool) (kcv dkcv : W32) (d : Dev) : Dev :=
  if (d.layout layout).isNone then complete h 0x11 0x10 0 0 d
  else if (d.volume v).isSome then complete h 0x11 8 0 0 d
  else
    let vol : Volume := { id := v, layout := layout, encrypted := enc, dedup := dedup, kcv := kcv, dkcv := dkcv, ctrA := 1, ctrB := 1 }
    complete h 0x11 0 0 0 (onCat (fun c => { c with volumes := c.volumes ++ [vol] }) d)

/-- VOLUME_CREATE. -/
def execVolumeCreate (h : Hdr) (volume layout : Nat) (encrypted dedup : Bool) (kcv dkcv : W32) (s : State) :
    Host.Outcome State Fault Refusal :=
  .next { s with
    dev := descriptor 0x11 [7] h (decide (1 ≤ volume ∧ volume ≤ 0xFFFE))
      (doVolumeCreate h volume layout encrypted dedup kcv dkcv) s.dev }

/-- VOLUME_DELETE (R267, R502). -/
def doVolumeDelete (h : Hdr) (v : Nat) (d : Dev) : Dev :=
  if (d.volume v).isNone then complete h 0x12 2 0 0 d
  else if d.cat.takes.any (fun t => t.volume == v && t.state != .deleted) || d.cat.snaps.any (fun x => x.volume == v) then
    complete h 0x12 8 0 0 d
  else complete h 0x12 0 0 0 (onCat (fun c => { c with volumes := c.volumes.filter (fun x => x.id != v) }) d)

/-- VOLUME_DELETE. -/
def execVolumeDelete (h : Hdr) (volume : Nat) (s : State) : Host.Outcome State Fault Refusal :=
  .next { s with dev := descriptor 0x12 [7] h true (doVolumeDelete h volume) s.dev }

end Sys2Proof.Machine
end

