-- ==== Sys2Proof/Machine/Maintenance.lean ====
section
/-! DEFINITION. Maintenance: write-back (R190), scrub (R198), rebuild (R201), copy-back (R203, R204) and the layout scan (R196), under
the budget and the precedence of R202. Machine/Reshape.lean holds reshape. -/

namespace Sys2Proof.Machine
open Sys2Proof

/-! ## The budget (R202) -/

/-- MAINT_RATE as bytes in 1 ms: MB/s are thousands of bytes in each (R211). -/
def Dev.maintRate (d : Dev) : Nat := bits d.regs.maintCfg.toNat 15 0 * 1000

/-- Maintenance bytes of a port in the current millisecond. -/
def Dev.maintSpent (d : Dev) (slot : Nat) : Nat := if (d.drive slot).maintMs = d.now / 1000000 then (d.drive slot).maintBytes else 0

/-- Whether maintenance may issue commands on ports: it is not stopped or held, and none of them is past its rate. A maintenance command
is issued and completes within one command of the model, so that no port ever has MAINT_WINDOW × 256 KiB outstanding, which is one
command at least (DEDUCED, notes/assumptions/59.md). -/
def Dev.maintOpen (d : Dev) (slots : List Nat) : Bool :=
  !d.vault.maintHeld && decide (0 < d.maintRate) && slots.all (fun s => decide (d.maintSpent s ≤ d.maintRate))

/-- Bytes that an NVMe command moves. -/
def nvmeBytes : Nvme → Nat
  | .write _ n .. => n * 4096
  | .read _ n .. => n * 4096
  | _ => 0

/-- The commands on queue 3 among what the head has emitted count against their ports' rate. -/
def chargeMaint (l : List Out) (d : Dev) : Dev :=
  l.foldl (fun x o =>
    match o with
    | .nvme slot 3 c =>
      let n := x.maintSpent slot + nvmeBytes c
      onDrive slot (fun y => { y with maintMs := x.now / 1000000, maintBytes := n }) x
    | _ => x) d

/-- Do maintenance work on the ports of `slots` where the budget lets its commands be issued. -/
def maintain (slots : List Nat) (f : Dev → Dev) (d : Dev) : Dev :=
  let d0 := backlogRule d
  if d0.maintOpen slots then
    let d1 := f d0
    chargeMaint (d1.out.drop d0.out.length) d1
  else d0

/-- The ports that hold members of a stripe. -/
def Dev.stripeSlots (d : Dev) (l : LayoutRec) (s : Nat) : List Nat := (List.range l.members).map (fun k => (d.memberAt l s k).1)

/-! ## Write-back (R190) -/

/-- WRITE_BACK: the sector is written with its tags and counts; a write that fails fails its drive. -/
def writeBack (slot lba : Nat) (ok : Bool) (d : Dev) : Dev :=
  match d.vault.writeBacks.find? (fun w => w.slot == slot && w.lba == lba) with
  | none => d
  | some w =>
    let d1 := onVault (fun v => { v with writeBacks := v.writeBacks.filter (fun x => x != w) }) d
    if d.gone slot then d1
    else
      let d2 := emit (.nvmeWrite 3 slot lba 1 w.refTag w.appTag w.data) d1
      if !ok then failDrive slot none d2
      else if w.counts then onVcnt (fun c => { c with repairs := c.repairs + 1 }) d2 else d2

/-- WRITE_BACK. -/
def execWriteBack (slot lba : Nat) (ok : Bool) (s : State) : Host.Outcome State Fault Refusal :=
  .next { s with dev := when s.dev.working (maintain [slot] (writeBack slot lba ok)) s.dev }

/-! ## What is due (R201, R202) -/

/-- The order of written stripes: by layout, then by stripe. -/
def Dev.stripeRank (d : Dev) (e : Nat × Nat) : Nat :=
  ((d.vault.layouts.findIdx? (fun l => l.layoutId == e.1)).getD 8) * 2 ^ 40 + e.2

/-- The first of some stripes. -/
def Dev.firstStripe (d : Dev) (l : List (Nat × Nat)) : Option (Nat × Nat) :=
  l.foldl (fun o e => match o with
    | some x => if d.stripeRank e < d.stripeRank x then some e else some x
    | none => some e) none

/-- Members of a written stripe that are lost to their drives. -/
def Dev.lossCount (d : Dev) (e : Nat × Nat) : Nat :=
  match d.layout e.1 with
  | none => 0
  | some l => ((List.range l.members).filter (fun k => d.erased l e.2 k)).length

/-- Written stripes that rebuild has to do with: a member on a failed drive, not remapped, and the stripe not lost (R201, R205). -/
def Dev.toRebuild (d : Dev) : List (Nat × Nat) :=
  d.vault.inUse.filter (fun e =>
    match d.layout e.1 with
    | none => false
    | some l => !(d.lostMembers l e.2).isEmpty && !d.vault.lost.any (fun x => x.1 == e.1 && x.2.1 == e.2))

/-- The stripe that rebuild does next (R201): those with two members lost first, in stripe order; then those with one, from the position
that rebuild has reached. -/
def Dev.nextRebuild (d : Dev) : Option (Nat × Nat) :=
  let c := d.toRebuild
  (d.firstStripe (c.filter (fun e => decide (2 ≤ d.lossCount e)))).orElse (fun _ =>
    (d.firstStripe (c.filter (fun e => decide (tgetD d.vault.rebuildPos 0 e.1 ≤ e.2)))).orElse (fun _ => d.firstStripe c))

/-- Whether a stripe waits for rebuild and can be rebuilt: spare chunks are free for it (R200, R205). -/
def Dev.rebuildDue (d : Dev) : Bool :=
  match d.nextRebuild with
  | none => false
  | some e => ((d.layout e.1).map (fun l => d.stripeOk l e.2)).getD false

/-- Whether copy-back has work: a DRIVE_REPLACE that runs (R202, R203). -/
def Dev.copyDue (d : Dev) : Bool := d.vault.replaces.any (fun e => e.2.h.isSome && !e.2.left.isEmpty)

/-- A stored tile of a take, where it is not lost: its place. -/
def storedAt (e : Entry) : Option Nat := if e.flags.getLsbD 1 then none else some e.loc

/-- A take that a snapshot or the catalogue still needs is held in the source of a side-by-side reshape. -/
def Dev.toSwitch (d : Dev) (r : Reshape) : List Take := d.cat.takes.filter (fun t => t.volume == r.volume && t.layout == r.source)

/-- The take that a side-by-side reshape moves next: the first whose close is done (R206, step 3). -/
def Dev.reshapeTake (d : Dev) (r : Reshape) : Option Take := (d.toSwitch r).find? (fun t => !t.active)

/-- Entries of a take with stored tiles that have not been copied yet. -/
def uncopiedTiles (r : Reshape) (t : Take) : List Entry :=
  ((t.parts.map (·.entries)).flatten).filter (fun e => ((storedAt e).map (fun a => !r.map.any (fun m => m.1 == a))).getD false)

/-- Whether a reshape runs and has a batch to do (R202, R206, R208). -/
def Dev.reshapeDue (d : Dev) : Bool :=
  match d.vault.reshape with
  | none => false
  | some r => d.outstanding r.h.chan r.h.tag && (r.moving || match d.reshapeTake r with
    | some t => !(uncopiedTiles r t).isEmpty || !d.takeBusy t
    | none => (d.toSwitch r).isEmpty)

/-! ## Scrub (R198) -/

/-- The findings of a stripe whose members all read (R198). What is rewritten goes as R190 states. -/
def scrubWhole (l : LayoutRec) (s : Nat) (app : W16) (m : List (List Byte)) (d : Dev) : Dev :=
  let w := l.width
  let data := m.take w
  match scrubFinding w 262144 m with
  | .ok => d
  | .badP => oweStrip true l app s w (parityP 262144 data) d
  | .badQ => oweStrip true l app s (w + 1) (parityQ 262144 data) d
  | .badData k =>
    let fixed := reconstruct w 262144 ((m.map some).set k none)
    let strip := ((fixed.bind (fun f => f[k]?))).getD []
    logEvent 0x0408 (BitVec.ofNat 32 (d.memberAt l s k).1)
      ([BitVec.ofNat 32 l.layoutId] ++ addrWords s ++ [BitVec.ofNat 32 k]) (oweStrip true l app s k strip d)
  | .inconsistent => logEvent 0x0405 noInstance ([BitVec.ofNat 32 l.layoutId] ++ addrWords s) d

/-- What scrub does with a stripe as read: every erased sector is reconstructed and rewritten, and one that cannot be is lost; with
nothing erased, the parity is checked. -/
def scrubData (l : LayoutRec) (s : Nat) (app : W16) (data : StripeData) (d : Dev) : Dev :=
  let whole := data.map wholeStrip
  if whole.all (·.isSome) then scrubWhole l s app (whole.map (·.getD [])) d
  else
    let d1 := oweRows true l app s data d
    if (lostIn l.width data).isEmpty then d1 else loseStripe l s (lostIn l.width data) d1

/-- One stripe is scrubbed: R181 on each of its sectors, then its findings. The position is persisted every 4,096 stripes (DESIGN
CHOICE, notes/assumptions/60.md). -/
def scrubOne (l : LayoutRec) (r : StripeIn) (d : Dev) : Dev :=
  let app := d.stripeTag l r.stripe r.members
  let data := d.readStripe l r.stripe app r.members
  let d1 := emits (d.stripeReads l r.stripe none (List.range l.members) r.members) d
  let d2 := scrubData l r.stripe app data (countStripe l r.stripe app r.members d1)
  let d3 := onVault (fun v => { v with scrubPos := tput v.scrubPos l.layoutId (r.stripe + 1), scrubCount := v.scrubCount + 1 })
    (onVcnt (fun c => { c with scrubbed := c.scrubbed + 1 }) d2)
  if (r.stripe + 1) % 4096 = 0 then persistProgress l d3 else d3

/-- The stripe that scrub does next in a layout: the first written one of the periods that this head has claimed, from its position. -/
def Dev.nextScrub (d : Dev) (l : LayoutRec) : Option Nat :=
  let ps := d.periods l
  (d.firstStripe (d.vault.inUse.filter (fun e =>
    e.1 == l.layoutId && ps.contains (e.2 / 256) && decide (tgetD d.vault.scrubPos 0 l.layoutId ≤ e.2)))).map (·.2)

/-- A pass over a layout ends with its last stripe: a SCRUB_CTL that started it completes with its count, and the next pass begins. -/
def endPass (l : LayoutRec) (d : Dev) : Dev :=
  if (d.nextScrub l).isSome then d
  else
    let n := d.vault.scrubCount
    let d1 := onVault (fun v => { v with scrubPos := tput v.scrubPos l.layoutId 0, scrubCount := 0, scrubJob := none }) d
    match d.vault.scrubJob with
    | some h => complete h 0x80 0 (BitVec.ofNat 64 n) 0 d1
    | none => d1

/-- SCRUB_STRIPE: the next written stripe of this head's periods, while scrub runs and nothing goes before it (R198, R202). -/
def scrubStripe (r : StripeIn) (d : Dev) : Dev :=
  match d.layout r.layout with
  | none => d
  | some l =>
    if d.regs.vltCfg.getLsbD 1 && d.vault.scrubOn && d.nextScrub l == some r.stripe && !d.rebuildDue && !d.copyDue && !d.reshapeDue then
      maintain (d.stripeSlots l r.stripe) (fun x => endPass l (scrubOne l r x)) d
    else d

/-- SCRUB_STRIPE. -/
def execScrubStripe (r : StripeIn) (s : State) : Host.Outcome State Fault Refusal :=
  .next { s with dev := when s.dev.working (scrubStripe r) s.dev }

/-- SCRUB_CTL (R198, R267): stop the pass, or start one now; a started one completes at its end. A pass that ABORT stopped goes
on from where it stood (R270). -/
def doScrubCtl (h : Hdr) (action : Nat) (d : Dev) : Dev :=
  let n := BitVec.ofNat 64 d.vault.scrubCount
  let stopped (x : Dev) : Dev :=
    match d.vault.scrubJob with
    | some j => complete j 0x80 0 n 0 x
    | none => x
  if action = 0 then
    complete h 0x80 0 n 0 (stopped (onVault (fun v => { v with scrubOn := false, scrubPos := [], scrubCount := 0, scrubJob := none }) d))
  else if d.vault.scrubJob.isSome then complete h 0x80 8 0 0 d
  else if d.vault.scrubOn then onVault (fun v => { v with scrubPos := [], scrubCount := 0, scrubJob := some h }) d
  else onVault (fun v => { v with scrubOn := true, scrubJob := some h }) d

/-- SCRUB_CTL. -/
def execScrubCtl (h : Hdr) (action : Nat) (s : State) : Host.Outcome State Fault Refusal :=
  .next { s with dev := descriptor 0x80 [5] h (decide (action < 2)) (doScrubCtl h action) s.dev }

/-! ## Rebuild (R201) -/

/-- Write the lost members of a stripe to spare chunks, each with its REMAP record; with none free rebuild stops. -/
def rebuildMembers (l : LayoutRec) (s : Nat) (app : W16) (rows : List (Option (List (List Byte)))) (lost : List Nat) (d : Dev) : Dev × Bool :=
  lost.foldl (fun x k =>
    match remapMember l s k x.1 with
    | none => (spareOut (l.place s k).1 l.layoutId x.1, false)
    | some d1 =>
      let p := d1.memberAt l s k
      (emit (.nvmeWrite 3 p.1 p.2 64 (l.refTag s k) app (stripOf rows k)) d1, x.2)) (d, true)

/-- The stripe that rebuild has reached is done. -/
def rebuilt (l : LayoutRec) (s : Nat) (d : Dev) : Dev :=
  let d1 := onVault (fun v => { v with rebuildPos := tput v.rebuildPos l.layoutId (s + 1) }) d
  if (s + 1) % 4096 = 0 then persistProgress l d1 else d1

/-- REBUILD_STRIPE: the stripe that rebuild does next (R201). An unreadable sector on a survivor is reconstructed and written too; a
third loss makes its range lost, and rebuild goes on (R205). -/
def rebuildStripe (r : StripeIn) (l : LayoutRec) (d : Dev) : Dev :=
  let lost := d.lostMembers l r.stripe
  let app := d.stripeTag l r.stripe r.members
  let data := d.readStripe l r.stripe app r.members
  let d1 := countStripe l r.stripe app r.members (emits (d.stripeReads l r.stripe none (List.range l.members) r.members) d)
  if (lostIn l.width data).isEmpty then
    match rebuildMembers l r.stripe app (solveRows l.width data) lost (oweRows false l app r.stripe data d1) with
    | (d2, false) => d2
    | (d2, true) => rebuilt l r.stripe (onVcnt (fun c => { c with rebuilt := c.rebuilt + 1 }) d2)
  else rebuilt l r.stripe (loseStripe l r.stripe (lostIn l.width data) d1)

/-- REBUILD_STRIPE, where the stripe is the next one. With no spare chunk free for it rebuild stops, and the first try logs it. -/
def rebuildNext (r : StripeIn) (d : Dev) : Dev :=
  match d.layout r.layout with
  | none => d
  | some l =>
    if d.nextRebuild = some (r.layout, r.stripe) then maintain (d.stripeSlots l r.stripe) (rebuildStripe r l) d else d

/-- REBUILD_STRIPE. -/
def execRebuildStripe (r : StripeIn) (s : State) : Host.Outcome State Fault Refusal :=
  .next { s with dev := when s.dev.working (rebuildNext r) s.dev }

/-! ## Copy-back (R203, R204) -/

/-- The stripe and member whose data a chunk of a drive is to hold: by its place, or, for a spare chunk, by the remap to it. -/
def Dev.chunkMember (d : Dev) (l : LayoutRec) (slot chunk : Nat) : Option (Nat × Nat) :=
  if chunk < l.dataChunks then LayoutMember l slot chunk
  else (d.movedChunks.find? (fun r => r.layout == l.layoutId && r.spare == slot && l.dataChunks + r.spareChunk == chunk)).bind
    (fun r => LayoutMember l r.failed r.chunk)

/-- Whether a chunk of a drive being replaced holds a lost member: no other chunk has its data (R204). -/
def Dev.lostHere (d : Dev) (slot : Nat) (e : Nat × Nat) : Option (Nat × Nat) :=
  (d.layout e.1).bind (fun l =>
    match d.chunkMember l slot e.2 with
    | some (s, k) => if d.memberChunk l s k = (slot, e.2) ∧ d.vault.inUse.contains (e.1, s) then some (e.1, s) else none
    | none => none)

/-- Whether a chunk may be copied back now: a lost member's in the order of R201, any other at any time. -/
def Dev.copyTurn (d : Dev) (slot : Nat) (left : List (Nat × Nat)) (e : Nat × Nat) : Bool :=
  match d.lostHere slot e with
  | none => true
  | some x =>
    let c := left.filterMap (d.lostHere slot)
    let two := c.filter (fun y => decide (2 ≤ d.lossCount y))
    d.firstStripe (if two.isEmpty then c else two) == some x

/-- The data of one member: as read where it now lies, each erased sector reconstructed from the others (R197). None where a sector is
lost. -/
def memberData (l : LayoutRec) (k : Nat) (data : StripeData) : Option (List Byte) :=
  let rows := solveRows l.width data
  let got := (List.range 64).map (fun i => (((data[k]?).bind (·[i]?)).join).orElse (fun _ => ((rows[i]?).join).bind (·[k]?)))
  wholeStrip got

/-- A chunk is back: the remap that its drive's own chunk had goes, with a record, and its spare chunk is free (R203). The record of a
removal names the drive's own chunk as its new place (DESIGN CHOICE, notes/assumptions/16.md). A spare chunk that is free again clears SPARE_EXHAUSTED (DESIGN CHOICE, notes/assumptions/66.md). -/
def unmap (l : LayoutRec) (s slot chunk : Nat) (d : Dev) : Dev :=
  match d.remapOf l.layoutId slot chunk with
  | none => d
  | some m => appendRec 4 l.layoutId s (.remap slot slot chunk chunk) none
      (onVault (fun v => { v with remaps := v.remaps.filter (fun x => x != m), spareOut := false }) d)

/-- One chunk less is left; the drive is Healthy when none is. -/
def chunkBack (slot : Nat) (e : Nat × Nat) (d : Dev) : Dev :=
  match tget d.vault.replaces slot with
  | none => d
  | some r =>
    let r1 : Replacing := { r with done := r.done + 1, left := r.left.filter (fun x => x != e) }
    if r1.left.isEmpty then endReplace slot r1 d else onVault (fun v => { v with replaces := tput v.replaces slot r1 }) d

/-- Copy one chunk back: data is written for a written stripe only. -/
def copyChunk (slot : Nat) (e : Nat × Nat) (l : LayoutRec) (s k : Nat) (m : List (List SecRead)) (d : Dev) : Dev :=
  if !d.vault.inUse.contains (e.1, s) then chunkBack slot e (unmap l s slot e.2 d)
  else
    let app := d.stripeTag l s m
    let data := d.readStripe l s app m
    let whole := ((data[k]?).getD []).all (·.isSome)
    let d1 := countStripe l s app m (emits (d.stripeReads l s none (if whole then [k] else List.range l.members) m) d)
    match memberData l k data with
    | some b =>
      chunkBack slot e (unmap l s slot e.2 (emit (.nvmeWrite 3 slot (l.chunkLba e.2) 64 (l.refTag s k) app b) d1))
    | none => chunkBack slot e (loseStripe l s (lostIn l.width data) d1)

/-- COPY_BACK_CHUNK: a remapped chunk is copied back and its remap removed with a record; a lost one is written as reconstructed (R203,
R204). It waits for rebuild (R202) and for room in the journal (R191). One that ABORT stopped waits for the next DRIVE_REPLACE (R270). -/
def copyBack (slot chunk : Nat) (m : List (List SecRead)) (d : Dev) : Dev :=
  match (tget d.vault.replaces slot).filter (·.h.isSome) with
  | none => d
  | some r =>
    match r.left.find? (fun e => e.2 == chunk && d.copyTurn slot r.left e) with
    | none => d
    | some e =>
      match (d.layout e.1).bind (fun l => (d.chunkMember l slot chunk).map (fun x => (l, x))) with
      | none => chunkBack slot e d
      | some (l, s, k) =>
        if d.rebuildDue || !d.journalRoom 64 then d
        else maintain (slot :: d.stripeSlots l s) (copyChunk slot e l s k m) d

/-- COPY_BACK_CHUNK. -/
def execCopyBackChunk (slot chunk : Nat) (members : List (List SecRead)) (s : State) : Host.Outcome State Fault Refusal :=
  .next { s with dev := when s.dev.working (copyBack slot chunk members) s.dev }

/-! ## Layout scan (R196) -/

/-- The stored tiles that a stripe's data holds, by their headers (R101, R115): each at a multiple of 64 bytes. -/
def scanTiles (data : List Byte) : Nat → Nat → List (Nat × TileHdr)
  | 0, _ => []
  | n + 1, off =>
    if data.length < off + 128 then []
    else
      let b := slice data off 128
      let h := readHdr b
      if hdrValid b then (off, h) :: scanTiles data n (alignUp (off + max 128 h.stored) 64) else scanTiles data n (off + 64)

/-- The tile-map entry of a stored tile from its header (R102, R224). -/
def scanEntry (l : LayoutRec) (s off : Nat) (h : TileHdr) : Entry :=
  let f := h.flags
  { loc := l.location s off, flags := BitVec.ofNat 12 (f / 2 % 2 * 4 + bit (decide (f / 16 % 4 = 1)) * 8 + f / 4 % 2 * 16 + f / 8 % 2 * 32)
    tileSeq := h.tileSeq, fp := h.fp, storedLen := h.stored }

/-- The part of a take that a tile sequence belongs to (R99). -/
def partOfSeq (t : Take) (seq : W64) : Option Nat :=
  if seqSource seq = 0xFF then (t.part (seq.toNat / 2 ^ 55 % 2)).map (·.idx)
  else (t.parts.find? (fun p => p.groups.getLsbD (seqSource seq))).map (·.idx)

/-- A tile that the scan finds enters its take's tile map, where that does not hold it already. -/
def addFound (l : LayoutRec) (s : Nat) (x : Nat × TileHdr) (d : Dev) : Dev :=
  match (d.take x.2.volume x.2.takeId).bind (fun t => partOfSeq t x.2.tileSeq) with
  | none => d
  | some p => onPart x.2.volume x.2.takeId p (fun q =>
      if q.entries.any (fun e => e.tileSeq == x.2.tileSeq) then q else { q with entries := q.entries ++ [scanEntry l s x.1 x.2] }) d

/-- One stripe of the scan: its tiles, where it is committed; one with no durable record is decided as R192 states. -/
def scanStripe (l : LayoutRec) (r : StripeIn) (d : Dev) : Dev :=
  let app := d.stripeTag l r.stripe r.members
  let data := d.readStripe l r.stripe app r.members
  let d1 := countStripe l r.stripe app r.members (emits (d.stripeReads l r.stripe none (List.range l.members) r.members) d)
  let rows := solveRows l.width data
  let bytes := ((List.range l.width).map (stripOf rows)).flatten
  let found (x : Dev) : Dev := each (addFound l r.stripe) (scanTiles bytes (bytes.length / 64) 0) x
  if d.disk.inUse.contains (l.layoutId, r.stripe) then found (oweRows true l app r.stripe data d1)
  else
    match judgeStripe l data with
    | .no => d1
    | .yes => found (onVault (fun v => { v with inUse := v.inUse ++ [(l.layoutId, r.stripe)] }) d1)
    | .mended k b => oweStrip true l app r.stripe k b (found (onVault (fun v => { v with inUse := v.inUse ++ [(l.layoutId, r.stripe)] }) d1))

/-- Whether a stripe lies in a period that the last durable metadata records as claimed (R196). -/
def Dev.claimedOnDisk (d : Dev) (l : LayoutRec) (s : Nat) : Bool :=
  d.disk.claims.any (fun c => c.layout == l.layoutId && c.period == s / 256)

/-- A scan that waits goes on once the maintenance budget lets it: every stripe of the claimed periods, then its descriptor completes
with their number. -/
def pumpScan (d : Dev) : Dev :=
  match d.vault.scan with
  | none => d
  | some (h, reads) =>
    match d.maintLayout h.chan with
    | none => d
    | some l =>
      let mine := reads.filter (fun r => r.layout == l.layoutId && d.claimedOnDisk l r.stripe)
      let slots := (List.range 48).filter l.has
      maintain slots (fun x => complete h 0x85 0 (BitVec.ofNat 64 mine.length) 0
        (each (scanStripe l) mine (onVault (fun v => { v with scan := none }) x))) d

/-- LAYOUT_SCAN (R196): it runs before any take of the layout is opened, and one at a time. -/
def doLayoutScan (h : Hdr) (reads : List StripeIn) (d : Dev) : Dev :=
  match d.maintLayout h.chan with
  | none => complete h 0x85 0x10 0 0 d
  | some l =>
    if d.cat.takes.any (fun t => t.layout == l.layoutId && t.active) || d.vault.scan.isSome then complete h 0x85 8 0 0 d
    else pumpScan (onVault (fun v => { v with scan := some (h, reads) }) d)

/-- LAYOUT_SCAN. -/
def execLayoutScan (h : Hdr) (reads : List StripeIn) (s : State) : Host.Outcome State Fault Refusal :=
  .next { s with dev := descriptor 0x85 [5] h true (doLayoutScan h reads) s.dev }

end Sys2Proof.Machine
end

