-- ==== Sys2Proof/Machine/Reshape.lean ====
section
/-! DEFINITION. Reshape: the native side-by-side reshape (R206), the moving-boundary reshape of a forerunner layout (R207, R208), and
what meets them (R209). Machine/Disk.lean holds the progress record. -/

namespace Sys2Proof.Machine
open Sys2Proof

/-! ## Starting and ending (R206, R208) -/

/-- Whether a method moves a volume from one layout to another: side by side between two native ones, by moving boundary from a
forerunner layout to the native one on the same drives and base_lba. -/
def reshapeFits (method : Nat) (src dst : LayoutRec) : Bool :=
  dst.kind == 0 && ((method == 0 && src.kind == 0 && src.layoutId != dst.layoutId) ||
    (method == 1 && src.kind == 1 && dst.baseLba == src.baseLba && dst.driveMask == src.driveMask))

/-- A moving-boundary reshape begins at native stripe 0, or goes on from where its boundary stands (R208, R209). -/
def startMoving (src target : Nat) (d : Dev) : Dev :=
  if (tget d.vault.moving src).isSome then d
  else onVault (fun v => { v with moving := tput v.moving src { target := target, boundary := 0, relocs := [], batch := none } }) d

/-- RESHAPE (R206, R208): a volume's layout and a target that is loaded, one reshape at a time. A later RESHAPE of the same kind resumes
one that was aborted (R270). Unlike firmware at the two heads holds it (R309). -/
def doReshape (h : Hdr) (v target method : Nat) (d : Dev) : Dev :=
  if d.versionHeld then complete h 0x81 0x0F 0 0 d else
  match (d.volume v).bind (fun x => d.layout x.layout), d.layout target with
  | some src, some t =>
    if !reshapeFits method src t then complete h 0x81 0x10 0 0 d
    else
      let r : Reshape :=
        { h := h, volume := v, source := src.layoutId, target := target, moving := method == 1, moved := 0, map := [], freed := [] }
      match d.vault.reshape with
      | some o =>
        if o.volume = v ∧ o.target = target ∧ !d.outstanding o.h.chan o.h.tag then
          onVault (fun x => { x with reshape := some { o with h := h } }) d
        else complete h 0x81 8 0 0 d
      | none =>
        onVault (fun x => { x with reshape := some r }) (if method = 1 then startMoving src.layoutId target d else d)
  | _, _ => complete h 0x81 0x10 0 0 d

/-- RESHAPE. -/
def execReshape (h : Hdr) (volume target method : Nat) (s : State) : Host.Outcome State Fault Refusal :=
  .next { s with dev := descriptor 0x81 [5] h (decide (method < 2)) (doReshape h volume target method) s.dev }

/-- A source layout that no volume, the system volume included, and no take uses is removed, and the labels say so (R206, step 4). -/
def dropLayout (id : Nat) (d : Dev) : Dev :=
  let used := d.cat.volumes.any (fun v => v.layout == id) || d.cat.takes.any (fun t => t.layout == id) ||
    d.rootLayout.map (·.layoutId) == some id
  match d.layout id with
  | none => d
  | some l =>
    if used then d
    else writeLabels ((List.range 48).filter (fun s => l.has s && d.serves s))
      (onVault (fun v => { v with layouts := v.layouts.filter (fun x => x.layoutId != id) }) d)

/-- The reshape ends: its descriptor completes with the takes or stripes moved, and a metadata commit records it. -/
def endReshape (r : Reshape) (d : Dev) : Dev :=
  startCommit [] (complete r.h 0x81 0 (BitVec.ofNat 64 r.moved) 0 (dropLayout r.source (onVault (fun v => { v with reshape := none }) d)))

/-- Change the reshape that runs. -/
def onReshape (f : Reshape → Reshape) (d : Dev) : Dev := onVault (fun v => { v with reshape := v.reshape.map f }) d

/-! ## Stored tiles in a stripe as read -/

/-- The data sectors of a stripe, in order, each as read or reconstructed. -/
def dataSectors (w : Nat) (data : StripeData) : List (Option (List Byte)) :=
  let rows := solveRows w data
  (List.range (64 * w)).map (fun j =>
    (((data[j / 64]?).bind (·[j % 64]?)).join).orElse (fun _ => ((rows[j % 64]?).join).bind (·[j / 64]?)))

/-- The stored tile at a data offset; none where a sector of it is lost. -/
def tileIn (secs : List (Option (List Byte))) (off len : Nat) : Option (List Byte) :=
  let a := off / 4096
  let c := (secs.drop a).take ((off + len + 4095) / 4096 - a)
  if c.all (·.isSome) then some (slice ((c.map (·.getD [])).flatten) (off - a * 4096) len) else none

/-- A stripe is read for a reshape (R197, R205): its Reads are issued, failures counted, what can be is written back, and what cannot
is lost. -/
def reshapeRead (l : LayoutRec) (s : Nat) (app : W16) (data : StripeData) (m : List (List SecRead)) (d : Dev) : Dev :=
  let whole := (data.take l.width).all (fun r => r.all (·.isSome))
  let d1 := countStripe l s app m (emits (d.stripeReads l s none (List.range (if whole then l.width else l.members)) m) d)
  let d2 := oweRows true l app s data d1
  if (lostIn l.width data).isEmpty then d2 else loseStripe l s (lostIn l.width data) d2

/-! ## Side by side (R206) -/

/-- Place stored tiles, each with its place in the source, in a stripe of the target; a lost one has no place there. -/
def placeCopies (l : LayoutRec) (x : StripeBuf × List (Nat × Option Nat)) (y : Entry × Option (List Byte)) :
    StripeBuf × List (Nat × Option Nat) :=
  match y.2 with
  | none => (x.1, x.2 ++ [(y.1.loc, none)])
  | some b =>
    let sb := x.1.place l b (y.1.flags &&& 0xFFE) y.1.tileSeq y.1.fp
    (sb, x.2 ++ [(y.1.loc, (sb.entries.getLast?).map (·.loc))])

/-- A maintenance stripe of the target for a take's copies. -/
def freshReshape (l : LayoutRec) (t : Take) (d : Dev) : Dev × Option StripeBuf :=
  match allocStripe l d with
  | (d1, none) => (d1, none)
  | (d1, some s) =>
    match allocBuffers d1 with
    | (d2, none) => (undoStripe (l.layoutId, s) d2, none)
    | (d2, some b) => (d2, some { StripeBuf.fresh l.layoutId s t.volume t.id 0 4 255 b 0 with maint := true, padded := true })

/-- The stored tiles that a take names in one stripe of the source are copied, unchanged, into a stripe of the target, which commits
under the journal (R206, step 3). A tile that is lost stays lost (R209). A stored tile at its new place has no reference until a take
switches to it. -/
def copyStripe (r : Reshape) (src dst : LayoutRec) (t : Take) (x : StripeIn) (d : Dev) : Dev :=
  let mine := (uncopiedTiles r t).filter (fun e => entryStripe src e == x.stripe)
  let once := mine.zipIdx.filter (fun e => !(mine.take e.2).any (fun f => f.loc == e.1.loc))
  if mine.isEmpty || x.layout != src.layoutId then d
  else
    match freshReshape dst t d with
    | (d1, none) => d1
    | (d1, some sb) =>
      let app := BitVec.ofNat 16 r.volume
      let data := d1.readStripe src x.stripe app x.members
      let secs := dataSectors src.width data
      let got := once.map (fun e => (e.1, tileIn secs (src.ofLocation e.1.loc).2 e.1.storedLen))
      let p := got.foldl (placeCopies dst) (sb, [])
      let d2 := reshapeRead src x.stripe app data x.members d1
      let d3 := onReshape (fun q => { q with map := q.map ++ p.2 }) d2
      let d4 := onCat (fun c => p.2.foldl (fun k m => match m.2 with
        | some a => { k with refs := tput k.refs (refKey dst.layoutId a) 0 }
        | none => k) c) d3
      if p.1.entries.isEmpty then freeBuffers sb (undoStripe (dst.layoutId, sb.stripe) d4) else queueStripe p.1 d4

/-- The place of a location in the target: none where it has not been copied, `some none` where its tile is lost. -/
def Reshape.placeOf (r : Reshape) (a : Nat) : Option (Option Nat) := (r.map.find? (fun m => m.1 == a)).map (·.2)

/-- An entry of a take that switches: at its new place, or lost. -/
def Reshape.entry (r : Reshape) (e : Entry) : Entry :=
  match (storedAt e).bind r.placeOf with
  | some (some a) => { e with loc := a }
  | some none => { e with flags := e.flags ||| 2 }
  | none => e

/-- A location that names a metadata tile of a part. -/
def Reshape.page (r : Reshape) (a : Nat) : Nat := ((r.placeOf a).join).getD a

/-- A part that switches. -/
def Reshape.part (r : Reshape) (p : Part) : Part :=
  { p with entries := p.entries.map r.entry, tilePageLoc := r.page p.tilePageLoc, tileFullLoc := r.page p.tileFullLoc
           framePageLoc := r.page p.framePageLoc, frameFullLoc := r.page p.frameFullLoc }

/-- The target's stripes that hold what a stripe of the source held. -/
def Reshape.stripesOf (r : Reshape) (src dst : LayoutRec) (e : Nat × Nat) : List (Nat × Nat) :=
  if e.1 = r.source then
    ((r.map.filter (fun m => (src.ofLocation m.1).1 == e.2)).filterMap (fun m => m.2.map (fun a => (r.target, (dst.ofLocation a).1)))).eraseDups
  else [e]

/-- A take as it switches (R206, step 3): its tile map names the target. -/
def Reshape.take (r : Reshape) (src dst : LayoutRec) (t : Take) : Take :=
  { t with
    layout := r.target, parts := t.parts.map r.part
    reel := t.reel.map (fun q => { q with
      stripes := q.stripes.flatMap (r.stripesOf src dst)
      segs := q.segs.map (fun s => { s with
        stripes := s.stripes.flatMap (r.stripesOf src dst), tileFullLoc := r.page s.tileFullLoc
        frameFullLoc := r.page s.frameFullLoc }) }) }

/-- The counts of a stored tile follow an entry that switches: one fewer in the source, one more in the target (R120, R206). -/
def Reshape.count (r : Reshape) (c : Cat) (e : Entry) : Cat :=
  match storedAt e with
  | none => c
  | some a =>
    let n := c.count (refKey r.source a)
    let c1 := if n ≤ 1 then { c with refs := tdel c.refs (refKey r.source a) } else c.setCount (refKey r.source a) (n - 1)
    match r.placeOf a with
    | some (some b) => c1.setCount (refKey r.target b) (c1.count (refKey r.target b) + 1)
    | _ => c1

/-- A hot-index entry whose stored tile has a place in the target names it there (R122). -/
def Reshape.hot (r : Reshape) (x : HotEnt) : HotEnt :=
  if x.layout = r.source ∧ x.volume = r.volume then
    match r.placeOf x.loc, x.next with
    | some (some a), none => { x with layout := r.target, loc := a }
    | some (some a), some (n, len) =>
      (match r.placeOf n with
      | some (some b) => { x with layout := r.target, loc := a, next := some (b, len) }
      | _ => x)
    | _, _ => x
  else x

/-- A take that was copied switches: its tile map, its counts and the hot index name the new places, in one metadata commit (R206, R122).
The source's stripes stay until the last take has switched (R206, step 4). -/
def switchTake (r : Reshape) (src dst : LayoutRec) (t : Take) (d : Dev) : Dev :=
  let old := (t.parts.map (·.entries)).flatten
  let held := ((old.filter (fun e => (storedAt e).isSome)).map (fun e => (r.source, entryStripe src e)) ++
    ((t.reel.map (fun q => q.stripes ++ q.segs.flatMap (·.stripes))).getD []).filter (fun e => e.1 == r.source)).eraseDups
  let d1 := onCat (fun c => { old.foldl r.count c with hot := c.hot.map (fun b => (b.1, b.2.map (fun w => (w.1, r.hot w.2)))) }) d
  startCommit [] (onReshape (fun q => { q with moved := q.moved + 1, freed := (q.freed ++ held).eraseDups })
    (onTake t.volume t.id (r.take src dst) d1))

/-- The last take has switched (R206, step 4): the volume names the target, the source's stripes are free, and its hot-index entries are
gone. -/
def endSide (r : Reshape) (d : Dev) : Dev :=
  let old (x : HotEnt) : Bool := x.layout == r.source && x.volume == r.volume
  let d1 := onCat (fun c => { c with
    hot := (c.hot.map (fun b => (b.1, b.2.filter (fun w => !old w.2)))).filter (fun b => !b.2.isEmpty) }) d
  endReshape r (each freeStripe r.freed (onVolume r.volume (fun v => { v with layout := r.target }) d1))

/-- One step of a side-by-side reshape: the stored tiles that the next take has in a stripe are copied; with none left the take
switches, once its copies have retired; and the reshape ends with the last take. -/
def sideBatch (r : Reshape) (reads : List StripeIn) (d : Dev) : Dev :=
  match d.layout r.source, d.layout r.target, d.reshapeTake r with
  | some src, some dst, some t =>
    if !(uncopiedTiles r t).isEmpty then
      match reads with
      | [] => d
      | x :: _ => copyStripe r src dst t x d
    else if d.takeBusy t then d
    else switchTake r src dst t d
  | some _, some _, none => if (d.toSwitch r).isEmpty then endSide r d else d
  | _, _, _ => d

/-! ## Moving boundary (R207, R208) -/

/-- The forerunner stripe and member whose data lies in a chunk of a drive now. -/
def Dev.chunkHolds (d : Dev) (f : LayoutRec) (slot chunk : Nat) : Option (Nat × Nat) :=
  (d.chunkMember f slot chunk).filter (fun x => d.memberChunk f x.1 x.2 == (slot, chunk) && d.vault.inUse.contains (f.layoutId, x.1))

/-- The chunks that the native strips of 64 stripes from `b` on take. -/
def batchChunks (l : LayoutRec) (b : Nat) : List (Nat × Nat) :=
  ((List.range 64).map (b + ·)).flatMap (fun n => (List.range l.members).map (l.place n))

/-- The overlap chunks of a batch (R208, step 2): forerunner members at or beyond the new boundary whose chunks its native strips
overwrite. -/
def Dev.overlaps (d : Dev) (l f : LayoutRec) (b : Nat) : List (Nat × Nat) :=
  (batchChunks l b).filterMap (fun c => (d.chunkHolds f c.1 c.2).filter (fun x => decide (2 * (b + 64) ≤ x.1)))

/-- The forerunner stripes that a batch reads: the written ones of its range. -/
def Dev.batchStripes (d : Dev) (f : LayoutRec) (b : Nat) : List Nat :=
  ((List.range 128).map (2 * b + ·)).filter (fun s => d.vault.inUse.contains (f.layoutId, s))

/-- The drives of a layout that take a backup. -/
def Dev.backupDrives (d : Dev) (f : LayoutRec) : List Nat := (List.range 48).filter (fun s => f.has s && d.serves s)

/-- Where chunk `i` of a backup lies, as drive and spare chunk: drive by drive, then the next row of spare chunks. -/
def backupPlace (drives : List Nat) (first i : Nat) : Nat × Nat := ((drives[i % drives.length]?).getD 0, first + i / drives.length)

/-- The first of `rows` spare chunks that are free on every drive and that the batch's native strips do not take. -/
def Dev.backupFirst (d : Dev) (l f : LayoutRec) (b rows : Nat) (drives : List Nat) : Option Nat :=
  let bad := drives.flatMap (d.usedSpares f) ++ ((batchChunks l b).filter (fun c => decide (f.dataChunks ≤ c.2))).map (fun c => c.2 - f.dataChunks)
  (List.range (f.spares + 1)).find? (fun i => decide (i + rows ≤ f.spares) && (List.range rows).all (fun j => !bad.contains (i + j)))

/-- A stripe of a reshape as read: its application tag and its sectors. -/
structure ReadIn where
  stripe : Nat
  app    : W16
  reads  : List (List SecRead)
  data   : StripeData
deriving DecidableEq, Repr

/-- A forerunner stripe as the command brings it. -/
def Dev.readIn (d : Dev) (f : LayoutRec) (reads : List StripeIn) (s : Nat) : Option ReadIn :=
  (reads.find? (fun x => x.layout == f.layoutId && x.stripe == s)).map (fun x =>
    let app := d.stripeTag f s x.members
    { stripe := s, app := app, reads := x.members, data := d.readStripe f s app x.members })

/-- The strip of a member of a forerunner stripe, reconstructed where it has to be; zeros where it is lost. -/
def ReadIn.strip (f : LayoutRec) (x : ReadIn) (k : Nat) : List Byte :=
  (memberData f k x.data).getD (stripOf (solveRows f.width x.data) k)

/-- The strips of a batch (R208, step 1), 16 for each native stripe: those of its two forerunner stripes, zeros for one that was not
written. A strip keeps its application tag. -/
def batchData (f : LayoutRec) (b : Nat) (ins : List ReadIn) : List (W16 × List Byte) :=
  (List.range 128).flatMap (fun i =>
    match ins.find? (fun x => x.stripe == 2 * b + i) with
    | some x => (List.range 8).map (fun k => (x.app, x.strip f k))
    | none => List.replicate 8 (0, zeros 262144))

/-- A stored tile of a stripe whose sectors are lost becomes a lost entry (R209). -/
def loseEntries (f : LayoutRec) (x : ReadIn) (d : Dev) : Dev :=
  let mask := maskOf (lostIn f.width x.data)
  if (lostIn f.width x.data).isEmpty then d
  else onCat (fun c => { c with takes := c.takes.map (fun t =>
    let gone := d.lostTiles f x.stripe mask t
    if gone.isEmpty then t else { t with parts := t.parts.map (fun p => { p with
      entries := p.entries.map (fun e => if gone.contains e then { e with flags := e.flags ||| 2 } else e) }) }) }) d

/-- What a valid backup restores of one forerunner stripe: its members where they lie. -/
def Dev.savedOf (d : Dev) (f : LayoutRec) (x : ReadIn) (k : Nat) : WriteBack :=
  let p := d.memberAt f x.stripe k
  { counts := false, slot := p.1, lba := p.2, refTag := f.refTag x.stripe k, appTag := x.app, data := x.strip f k }

/-- The relocation of an overlap chunk to a spare chunk of the backup (R208, steps 3 and 5). -/
def relocation (f : LayoutRec) (s k : Nat) (at_ : Nat × Nat) : Remap :=
  let p := f.place s k
  { layout := f.layoutId, failed := p.1, chunk := p.2, spare := at_.1, spareChunk := at_.2 }

/-- Change where the moving boundary of a layout stands. -/
def onMoving (f : Nat) (g : Moving → Moving) (d : Dev) : Dev :=
  onVault (fun v => match tget v.moving f with
    | some m => { v with moving := tput v.moving f (g m) }
    | none => v) d

/-- A reshape that cannot go on stops with an event; the volume stays readable on both sides of the boundary (R208). The manual gives its
completion no status, which is free. -/
def stopMoving (r : Reshape) (l : LayoutRec) (m : Moving) (d : Dev) : Dev :=
  let d1 := logEvent 0x0409 noInstance ([BitVec.ofNat 32 l.layoutId] ++ addrWords m.boundary ++ [BitVec.ofNat 32 m.relocs.length]) d
  complete r.h 0x81 (Config.freeNat d1.free % 18) (BitVec.ofNat 64 r.moved) 0
    (drawn (onVault (fun v => { v with reshape := none }) d1))

/-- Steps 1 to 3 of a batch (R208): its stripes and overlap chunks are read, the backup is written, and the progress record names it. A
batch that would overflow the relocation list, or that finds no room for its backup, is not started. -/
def backUp (r : Reshape) (l f : LayoutRec) (m : Moving) (reads : List StripeIn) (d : Dev) : Dev :=
  let overlap := d.overlaps l f m.boundary
  let need := d.batchStripes f m.boundary
  let drives := d.backupDrives f
  let rows := (1024 + overlap.length + drives.length - 1) / drives.length
  if 4096 < m.relocs.length + overlap.length ∨ drives.isEmpty then stopMoving r l m d
  else
    match d.backupFirst l f m.boundary rows drives with
    | none => stopMoving r l m d
    | some first =>
      let ins := need.filterMap (d.readIn f reads)
      let far := overlap.filterMap (fun x => (d.readIn f reads x.1).map (fun y => (y, x.2)))
      if ins.length < need.length ∨ far.length < overlap.length then d
      else
        let data := batchData f m.boundary ins
        let homes := far.zipIdx.map (fun x => relocation f x.1.1.stripe x.1.2 (backupPlace drives first (1024 + x.2)))
        let saved := ins.flatMap (fun x => (List.range f.members).map (d.savedOf f x)) ++ far.map (fun x => d.savedOf f x.1 x.2)
        let put (i : Nat) (ref : BitVec 48) (app : W16) (b : List Byte) : Out :=
          let p := backupPlace drives first i
          .nvmeWrite 3 p.1 (f.chunkLba (f.dataChunks + p.2)) 64 ref app b
        let d1 := ins.foldl (fun y x => loseEntries f x (reshapeRead f x.stripe x.app x.data x.reads y)) d
        let d2 := far.foldl (fun y x => countStripe f x.1.stripe x.1.app x.1.reads
          (emits (y.stripeReads f x.1.stripe none (if ((x.1.data[x.2]?).getD []).all (·.isSome) then [x.2] else List.range f.members) x.1.reads) y)) d1
        let d3 := emits (data.zipIdx.map (fun x => put x.2 (l.refTag (m.boundary + x.2 / 16) (x.2 % 16)) x.1.1 x.1.2) ++
          far.zipIdx.map (fun x => put (1024 + x.2) (f.refTag x.1.1.stripe x.1.2) x.1.1.app (x.1.1.strip f x.1.2))) d2
        persistProgress l (onMoving f.layoutId (fun q => { q with
          batch := some { data := data, first := first, rows := rows, homes := homes, saved := saved } }) d3)

/-- The 18 strips of native stripe `n` of a batch with their application tags: the check strips take the first that is not 0. -/
def Batch.strips (x : Batch) (n : Nat) : List (W16 × List Byte) :=
  let mine := (x.data.drop (16 * n)).take 16
  let app := ((mine.map (·.1)).find? (· != 0)).getD 0
  mine ++ [(app, parityP 262144 (mine.map (·.2))), (app, parityQ 262144 (mine.map (·.2)))]

/-- The Writes of a native stripe of a batch, to the drives that can take them (R208, step 4). -/
def Dev.nativeWrites (d : Dev) (l : LayoutRec) (x : Batch) (b n : Nat) : List Out :=
  ((x.strips n).zipIdx).filterMap (fun y =>
    if d.erased l (b + n) y.2 then none
    else
      let p := d.memberAt l (b + n) y.2
      some (.nvmeWrite 3 p.1 p.2 64 (l.refTag (b + n) y.2) y.1.1 y.1.2))

/-- Stripes in use once a batch is native: a native stripe holds what its two forerunner stripes held (R207). -/
def batchUse (src target b : Nat) (used : List (Nat × Nat)) : List (Nat × Nat) :=
  let conv := (used.filter (fun e => e.1 == src && decide (2 * b ≤ e.2 ∧ e.2 < 2 * (b + 64)))).map (fun e => (target, e.2 / 2))
  used.filter (fun e => !(e.1 == src && decide (2 * b ≤ e.2 ∧ e.2 < 2 * (b + 64)))) ++ conv.eraseDups

/-- An overlap chunk that has moved again has one relocation, the last. -/
def mergeRelocs (old new : List Remap) : List Remap :=
  old.filter (fun x => !new.any (fun y => y.failed == x.failed && y.chunk == x.chunk)) ++ new

/-- The forerunner layout is native whole (R208): what its volumes hold keeps its sector addresses, under the target's number. -/
def endMoving (r : Reshape) (d : Dev) : Dev :=
  let key (k : Nat) : Nat := if k / 2 ^ 52 = r.source then refKey r.target (k % 2 ^ 52) else k
  let lay (n : Nat) : Nat := if n = r.source then r.target else n
  let d1 := onCat (fun c => { c with
    volumes := c.volumes.map (fun v => { v with layout := lay v.layout })
    takes := c.takes.map (fun t => { t with layout := lay t.layout })
    refs := c.refs.foldl (fun tab e => tput tab (key e.1) e.2) []
    hot := c.hot.map (fun b => (b.1, b.2.map (fun w => (w.1, { w.2 with layout := lay w.2.layout })))) }) d
  let claim (c : Claim) : Claim := if c.layout = r.source then { c with layout := r.target, period := c.period / 2 } else c
  let d2 := onVault (fun v => { v with
    moving := tdel v.moving r.source, remaps := v.remaps.filter (fun x => x.layout != r.source)
    lost := v.lost.filter (fun x => x.1 != r.source)
    claims := (v.claims.map claim).foldl (fun l c => if l.any (fun x => x.layout == c.layout && x.period == c.period) then l else l ++ [c]) [] }) d1
  endReshape r d2

/-- Steps 4 to 6 of a batch (R208): the native strips are written, the overlap chunks are at their new homes, and the boundary is
persisted with the backup invalid. -/
def convert (r : Reshape) (l f : LayoutRec) (m : Moving) (x : Batch) (d : Dev) : Dev :=
  let b := m.boundary
  let d1 := emits ((List.range 64).flatMap (d.nativeWrites l x b)) d
  let d2 := onVault (fun v => { v with inUse := batchUse f.layoutId l.layoutId b v.inUse }) d1
  let d3 := onMoving f.layoutId (fun q => { q with boundary := b + 64, relocs := mergeRelocs q.relocs x.homes, batch := none }) d2
  let r1 : Reshape := { r with moved := r.moved + 64 }
  let d4 := persistProgress l (onReshape (fun _ => r1) d3)
  if 128 * f.periods ≤ b + 64 then endMoving r1 d4 else d4

/-- One step of a moving-boundary reshape: a batch is backed up, then converted. -/
def boundaryBatch (r : Reshape) (reads : List StripeIn) (d : Dev) : Dev :=
  match d.layout r.target, d.layout r.source, tget d.vault.moving r.source with
  | some l, some f, some m =>
    (match m.batch with
    | none => backUp r l f m reads d
    | some x => convert r l f m x d)
  | _, _, _ => d

/-! ## Batches (R202, R209) -/

/-- RESHAPE_BATCH: reshape waits while rebuild or copy-back has work (R202, R209). -/
def reshapeBatch (reads : List StripeIn) (d : Dev) : Dev :=
  match d.vault.reshape with
  | none => d
  | some r =>
    if !d.outstanding r.h.chan r.h.tag || d.rebuildDue || d.copyDue then d
    else
      let slots (id : Nat) : List Nat := (List.range 48).filter (fun s => ((d.layout id).map (fun l => l.has s)).getD false)
      maintain (slots r.source ++ slots r.target) (if r.moving then boundaryBatch r reads else sideBatch r reads) d

/-- RESHAPE_BATCH. -/
def execReshapeBatch (reads : List StripeIn) (s : State) : Host.Outcome State Fault Refusal :=
  .next { s with dev := when s.dev.working (reshapeBatch reads) s.dev }

end Sys2Proof.Machine
end

