-- ==== Sys2Proof/Machine/Pipe.lean ====
section
/-! DEFINITION. A pipe's encode path: slots consumed in gsn order (R74, R220, R223), the account of each frame (R86 to R88),
tiles cut, encoded and placed (R95 to R100, R115, R118), and the seals that references force (R183). -/

namespace Sys2Proof.Machine
open Sys2Proof

/-! ## Frames (R54, R86 to R88, R226) -/

/-- Whether a pixel format code is one that R57 defines. -/
def formatDefined (f : W16) : Bool :=
  f &&& 0xF8C0 == 0 && decide (fmtDepth f ≤ 5 ∧ fmtPacking f ≤ 1 ∧ fmtLayout f ≤ 4) &&
    (if fmtDepth f = 0 then f == 0 else if fmtDepth f = 1 ∨ fmtDepth f = 5 then fmtPacking f == 0 else true)

/-- Bytes of a line that R54 asks for. -/
def lineBytesOf (f : W16) (width : Nat) : Nat :=
  if fmtPacking f = 1 then width * 2 else (width * depthBits f + 7) / 8

/-- The format a FRAME_OPEN is recorded with, and whether it was replaced by the opaque one (R54). -/
def recordedFormat (f : W16) (width lines lineBytes declared : Nat) : W16 × Bool :=
  if !formatDefined f || declared == 0 then (0, true)
  else if f = 0 then (0, false)
  else if lineBytes = lineBytesOf f width ∧ declared = lineBytes * lines then (f, false)
  else (0, true)

/-- A frame record with nothing received. -/
def blankFrame (frame : BitVec 48) (group : Nat) (gsn : W32) (ts : W64) (firstTile : Nat) : FrameRec :=
  { frame := frame, group := group, cls := 0, flags := 0, format := 0, firstGsn := gsn, timestamp := ts,
    firstTile := firstTile, declared := 0, recorded := 0, width := 0, lines := 0, firstLine := 0, lineStep := 0,
    lineBytes := 0, closeCrc := 0, exposure := 0, dataPackets := 0, partnerStatus := 0, committed := 0, dnr := 0,
    lostOnLink := 0, overRun := 0, landingOverflow := 0, hbmUnc := 0, excess := 0, truncated := 0 }

/-- The frame record that a FRAME_OPEN starts, and whether its format was replaced. -/
def openRecord (g : Fin 4) (p : Packet) (firstTile : Nat) : FrameRec × Bool :=
  let b := p.payload
  let f := BitVec.ofNat 16 (fieldAt b 0 2)
  let r := recordedFormat f (fieldAt b 4 4) (fieldAt b 8 4) (fieldAt b 20 4) p.word.toNat
  ({ blankFrame p.frame g.val p.gsn p.timestamp firstTile with
     cls := fieldAt b 2 2 % 256, format := r.1, declared := p.word.toNat, width := fieldAt b 4 4, lines := fieldAt b 8 4,
     firstLine := fieldAt b 12 4, lineStep := fieldAt b 16 2, lineBytes := fieldAt b 20 4,
     exposure := BitVec.ofNat 64 (fieldAt b 24 8) }, r.2)

/-- How a frame closes: by its FRAME_CLOSE, or implicitly (R88). -/
inductive Closing where
  | byClose (total : Nat) (crc packets status : W32)
  | implicit
deriving DecidableEq, Repr

/-- A flag set where a condition holds. -/
def flagIf (c : Bool) (n : Nat) (f : FrameRec) : FrameRec := if c then setFlag n f else f

/-- The account of a frame at its close (R86, R87): `pos` is the end of its last DATA byte, `gap` whether an unhealed gap lies in it,
`known` whether its FRAME_OPEN declared D, `crc` the CRC of its bytes, `x` the bytes of its number that were over-run or dropped. Where
D was not declared it is T, or reaches over all that came of the frame (R88). With no gap, over-run bytes lie within D all the same. -/
def closeAccount (f : FrameRec) (pos : Nat) (gap known : Bool) (crc : W32) (x : Option FrameLoss) (c : Closing) : FrameRec :=
  let y := x.getD .none_
  let reach := max pos (f.committed + f.hbmUnc + y.total)
  let total := match c with
    | .byClose t _ _ _ => t
    | .implicit => reach
  let dd := if known then f.declared else total
  let cap := match c with
    | .byClose t _ _ _ => if gap then max (min pos dd) (min dd t) else min dd (max pos (min t (pos + y.ovr)))
    | .implicit => if gap then dd else min dd (pos + y.ovr)
  let lost := cap - f.committed
  let hbm := min (f.hbmUnc + y.hbm) lost
  let lov := min y.lov (lost - hbm)
  let ov := min y.ovr (lost - hbm - lov)
  let f1 := { f with declared := dd, recorded := cap, dnr := dd - cap, hbmUnc := hbm, landingOverflow := lov, overRun := ov,
                     lostOnLink := lost - hbm - lov - ov }
  let f2 := flagIf (gap || x.isSome || decide (0 < lost)) 4 f1
  match c with
  | .implicit => setFlag 2 f2
  | .byClose _ sum packets status =>
    let long := (known && decide (dd < total)) || decide (0 < f.excess)
    let short := decide (cap < dd)
    let f3 := flagIf short 0 (flagIf long 1 f2)
    { flagIf (!gap && !long && !short && decide (lost = 0) && sum != crc) 3 f3 with
      closeCrc := sum, dataPackets := packets, partnerStatus := status }

/-! ## Cutting tiles (R95 to R97) -/

/-- Emit the tile under assembly of pipe `p`. -/
def cutTile (t : Take) (last : Bool) (p : Pipe) : Pipe :=
  if p.tileBuf.isEmpty then p
  else
    let r : RawTile :=
      { bytes := p.tileBuf, frame := p.frame, frameOpen := p.frame.isSome, offset := p.tileOff, index := p.nextTile,
        first := p.tileOff == 0, last := last, lossZero := p.tileLoss, slots := p.tileSlots, good := p.tileGood,
        lastGsn := p.lastGsn, takeId := t.id, volume := t.volume }
    { p with ready := p.ready ++ [r], tileBuf := [], tileLoss := false, tileSlots := 0, tileGood := 0,
             tileOff := p.tileOff + p.tileBuf.length, nextTile := p.nextTile + 1 }

/-- Whether the tile under assembly ends its frame: the frame's declared bytes are all there. -/
def frameFull (p : Pipe) : Bool :=
  p.fromOpen && (p.frame.map (fun f => decide (f.declared ≤ p.tileOff + p.tileBuf.length))).getD false

/-- Cut the tile under assembly where it is whole: it is held while it is not known to be its frame's last (R102). -/
def cutFull (t : Take) (p : Pipe) : Pipe :=
  if p.tileBuf.length = 65536 then { cutTile t (frameFull p) p with held := !frameFull p } else p

/-- Zero-fill `n` lost bytes, a tile at a time (R87, R97). Fuel: tiles. -/
def zeroFill (t : Take) : Nat → Nat → Pipe → Pipe
  | 0, _, p => p
  | k + 1, n, p =>
    if n = 0 then p
    else
      let m := min n (65536 - p.tileBuf.length)
      zeroFill t k (n - m) (cutFull t { p with tileBuf := p.tileBuf ++ zeros m, tileLoss := true, held := false, framePos := p.framePos + m })

/-- Zero-fill the frame up to offset `to`. -/
def fillTo (t : Take) (upto : Nat) (p : Pipe) : Pipe := zeroFill t ((upto - p.framePos) / 65536 + 2) (upto - p.framePos) p

/-- Add bytes received at the frame's position to the tile. -/
def addBytes (t : Take) (b : List Byte) (p : Pipe) : Pipe :=
  cutFull t { p with tileBuf := p.tileBuf ++ b, held := p.held && b.isEmpty, tileGood := p.tileGood + b.length, framePos := p.framePos + b.length,
                     frameCrc := crc32cRun p.frameCrc b,
                     frame := p.frame.map (fun f => { f with committed := f.committed + b.length }) }

/-- Start a frame in the pipe. -/
def startFrame (f : FrameRec) (known gap : Bool) (p : Pipe) : Pipe :=
  { p with frame := some f, frameGap := gap, frameCrc := 0xFFFFFFFF, framePos := 0, fromOpen := known, tileOff := 0 }

/-- The account with which the frame open on a pipe closes. -/
def Pipe.account (p : Pipe) (c : Closing) (x : Option FrameLoss) : Option FrameRec :=
  p.frame.map (fun f => closeAccount f p.framePos p.frameGap p.fromOpen (p.frameCrc ^^^ 0xFFFFFFFF) x c)

/-- The last tile cut is its frame's last (R102). -/
def markLast (p : Pipe) : Pipe :=
  if p.held then
    { p with held := false, ready := p.ready.dropLast ++ (p.ready.getLast?.map (fun r => { r with last := true })).toList }
  else p

/-- Close the pipe's frame: its account, its lost tail as zeros, its last tile short, and its record for the next stripe
(R87, R88, R222). `gsn` is the slot that closes it. -/
def closeFrame (t : Take) (c : Closing) (gsn : W32) (x : Option FrameLoss) (p : Pipe) : Pipe :=
  match p.account c x with
  | none => p
  | some r =>
    let p1 := { p with frame := some r, fromOpen := false }
    let p2 := markLast (cutTile t true (fillTo t r.recorded p1))
    { p2 with frame := none, frameGap := false, closed := p2.closed ++ [(gsn, r)] }

/-! ## Consuming slots (R74, R220, R223) -/

/-- A resident slot of a group is dropped under a reason (R79, R84). -/
def dropResident (g : Fin 4) (reason bytes : Nat) (d : Dev) : Dev :=
  onLedger g (fun l => ({ l with resident := l.resident - 1 } : Ledger).countDrop reason bytes) d

/-- Close the frame that is open on pipe `g`, if one is: the bytes found lost on the link now count as dropped (R79). -/
def endFrame (g : Fin 4) (t : Take) (c : Closing) (gsn : W32) (d : Dev) : Dev :=
  let p := d.pipes.at g
  match p.frame with
  | none => d
  | some f =>
    let x := tget (d.lg.at g).lossOf f.frame.toNat
    let found := ((p.account c x).map (·.lostOnLink)).getD 0 - (x.getD .none_).lol
    onLedger g (fun l => ({ l with lossOf := tdel l.lossOf f.frame.toNat } : Ledger).addDropBytes 2 found)
      (onPipe g (closeFrame t c gsn x) d)

/-- One landed slot is the pipe's. -/
def takeSlot (p : Pipe) : Pipe := { p with tileSlots := p.tileSlots + 1 }

/-- A healed slot marks its frame (R88). -/
def markHealed (s : Slot) (p : Pipe) : Pipe :=
  if s.state = 2 then { p with frame := p.frame.map (setFlag 5) } else p

/-- Open a frame implicitly at a slot whose frame is not open, after an unhealed gap (R88). -/
def openImplicit (g : Fin 4) (s : Slot) (d : Dev) : Dev :=
  onPipe g (fun p => startFrame (setFlag 4 (blankFrame s.pkt.frame g.val s.pkt.gsn s.pkt.timestamp p.nextTile)) false true p) d

/-- The pipe has the frame of a DATA or FRAME_CLOSE slot open: the one that is, or one opened implicitly (R88). -/
def haveFrame (g : Fin 4) (t : Take) (s : Slot) (d : Dev) : Dev :=
  match (d.pipes.at g).frame with
  | none => openImplicit g s d
  | some f =>
    if f.frame = s.pkt.frame then d
    else openImplicit g s (endFrame g t .implicit s.pkt.gsn (onPipe g (fun p => { p with frameGap := true }) d))

/-- A DATA slot (R87, R88): lost bytes before it are zeros; bytes beyond D are excess. -/
def consumeData (g : Fin 4) (t : Take) (s : Slot) (d : Dev) : Dev :=
  let d1 := onPipe g (markHealed s) (haveFrame g t s d)
  let p := d1.pipes.at g
  let off := s.pkt.word.toNat
  let len := s.pkt.length.toNat
  let dd := (p.frame.map (·.declared)).getD 0
  let excess (n : Nat) (q : Pipe) : Pipe := { q with frame := q.frame.map (fun f => { setFlag 1 f with excess := f.excess + n }) }
  if p.fromOpen ∧ dd ≤ off then dropResident g 3 len (onPipe g (excess len) d1)
  else
    let keep := if p.fromOpen then min len (dd - off) else len
    let add (q : Pipe) : Pipe :=
      let q1 := fillTo t off q
      let q2 := addBytes t (s.pkt.payload.take keep) { takeSlot q1 with lastGsn := s.pkt.gsn }
      if keep < len then excess (len - keep) q2 else q2
    let d2 := onPipe g add d1
    onLedger g (fun l => l.addDropBytes 3 (len - keep)) d2

/-- A FRAME_CLOSE slot (R87, R88). -/
def consumeClose (g : Fin 4) (t : Take) (s : Slot) (d : Dev) : Dev :=
  let d1 := onPipe g (markHealed s) (haveFrame g t s d)
  let b := s.pkt.payload
  let c : Closing := .byClose s.pkt.word.toNat (BitVec.ofNat 32 (fieldAt b 0 4)) (BitVec.ofNat 32 (fieldAt b 4 4))
    (BitVec.ofNat 32 (fieldAt b 8 4))
  onPipe g (fun p => { takeSlot p with lastGsn := s.pkt.gsn }) (endFrame g t c s.pkt.gsn d1)

/-- A record for each frame number before `upto` that came only in over-run packets and dropped slots (R86, R93, R94): opened
implicitly, as if a gap had hidden its FRAME_OPEN (DESIGN CHOICE, notes/assumptions/53.md). -/
def flushLost (g : Fin 4) (t : Take) (upto : Nat) (d : Dev) : Dev :=
  let due := (d.lg.at g).lossOf.filter (fun e => decide (e.1 < upto))
  let one (e : Nat × FrameLoss) (y : Dev) : Dev :=
    let f := BitVec.ofNat 48 e.1
    endFrame g t .implicit (y.lg.at g).ringPos
      (onPipe g (fun p => startFrame (setFlag 4 (blankFrame f g.val (y.lg.at g).ringPos 0 p.nextTile)) false true p) y)
  onLedger g (fun l => { l with lossOf := l.lossOf.filter (fun e => decide (upto ≤ e.1)) })
    (each one (due.filter (fun e => decide (0 < e.2.total))) d)

/-- A FRAME_OPEN slot: a frame that is still open closes implicitly (R88); a format that R54 replaces is logged. -/
def consumeOpen (g : Fin 4) (t : Take) (s : Slot) (d : Dev) : Dev :=
  let d1 := flushLost g t s.pkt.frame.toNat (endFrame g t .implicit s.pkt.gsn d)
  let r := openRecord g s.pkt (d1.pipes.at g).nextTile
  let d2 := onPipe g (fun p => markHealed s (startFrame r.1 (decide (r.1.declared ≠ 0)) false
    { takeSlot p with lastGsn := s.pkt.gsn })) d1
  if r.2 then
    logEvent 0x0206 (BitVec.ofNat 32 g.val)
      [s.pkt.frame.setWidth 32, BitVec.ofNat 32 (fieldAt s.pkt.payload 0 2), BitVec.ofNat 32 (fieldAt s.pkt.payload 20 4)] d2
  else d2

/-- A META slot: a record of the part, in stream order (R229). -/
def consumeMeta (g : Fin 4) (t : Take) (s : Slot) (d : Dev) : Dev :=
  let p := s.pkt
  let part := ((t.partOf g).map (·.idx)).getD 0
  let m : MetaRec :=
    { body := .mta p.word p.gsn p.frame p.timestamp g.val (p.payload.take p.length.toNat), part := part,
      seg := 0, src := some (g.val, p.gsn) }
  onPipe g (fun q => { markHealed s (takeSlot q) with lastGsn := p.gsn })
    (onTake t.volume t.id (fun x => { x with pending := x.pending ++ [m] }) d)

/-- A missing or dropped slot within a take: an unhealed gap, and the bytes of a dropped DATA slot charged to its own frame by its
reason (R86). -/
def consumeMissing (g : Fin 4) (s : Slot) (d : Dev) : Dev :=
  let n := dataBytes s.pkt
  let charge (x : FrameLoss) : FrameLoss :=
    if s.reason = 7 then { x with hbm := x.hbm + n }
    else if s.reason = 4 then { x with lov := x.lov + n }
    else if s.reason = 2 then { x with lol := x.lol + n } else x
  let d1 := onPipe g (fun p => { p with frameGap := true, lastGsn := s.pkt.gsn, order := { p.order with gap := true } }) d
  if n = 0 then d1 else onLedger g (fun l => l.lose s.pkt.frame charge) d1

/-- Whether a slot keeps the order of R53 as the pipe reads it. A FRAME_OPEN's number was checked at arrival, but for slots that
landed on a standby ring (R75). -/
def Pipe.inOrder (p : Pipe) (s : Slot) : Bool :=
  p.order.ok ((p.unchecked.map (fun e => precedes s.pkt.gsn e)).getD false) s.pkt

/-- A slot that breaks the order of R53 with no unhealed gap is dropped as lost-on-link (R70, R75, R88). -/
def breakOrder (g : Fin 4) (s : Slot) (d : Dev) : Dev :=
  consumeMissing g { s with state := 0, reason := 2 }
    (dropResident g 2 (payloadBytes s.pkt) (onGroup g (fun x => { x with pktBad := x.pktBad + 1 }) d))

/-- The pipe moves past a ring slot (R76, P). -/
def passSlot (g : Fin 4) (s : Slot) (d : Dev) : Dev :=
  onLedger g (fun l => { l with ringPos := s.pkt.gsn + 1, ring := l.ring.filter (fun x => x.pkt.gsn != s.pkt.gsn) }) d

/-- Whether a slot begins a take on its group: the first FRAME_OPEN since the open took effect, of the start frame or
later (R220). -/
def begins (t : Take) (g : Fin 4) (s : Slot) : Bool :=
  s.state != 0 && s.pkt.ptype == 2 && precEq (tgetD t.openGsn s.pkt.gsn g.val) s.pkt.gsn &&
    decide ((t.start.map (·.toNat)).getD 0 ≤ s.pkt.frame.toNat)

/-- Whether a slot is the first one beyond a take: at its end after a stop, or of its limit frame or later (R223). -/
def beyond (t : Take) (g : Fin 4) (s : Slot) : Bool :=
  ((tget t.endAt g.val).map (fun e => precEq e s.pkt.gsn)).getD false ||
    (s.state != 0 && [2, 3, 4].contains s.pkt.ptype.toNat &&
      (t.limitFrame.map (fun f => decide (f.toNat ≤ s.pkt.frame.toNat))).getD false)

/-- Whether a take's end on a group has been reached with no slot beyond it. -/
def atEnd (t : Take) (g : Fin 4) (pos : W32) : Bool := ((tget t.endAt g.val).map (fun e => precEq e pos)).getD false

/-- The slots left after a take's last tile go into its last stripe, which is sealed (R78, R223). None where no stripe can
be had yet. -/
def sealTail (g : Fin 4) (t : Take) (d : Dev) : Option Dev :=
  let p := d.pipes.at g
  let part := ((t.partOf g).map (·.idx)).getD 0
  if p.tileSlots = 0 ∧ p.closed.isEmpty ∧ p.stripe.isNone then some d
  else
    match needStripe g t part p.lastGsn d with
    | (_, none) => none
    | (d1, some sb) =>
      let gs : GState := { group := g.val, part := part, frameOpen := false, commitGsn := p.lastGsn, nextTile := p.nextTile,
                           nextMeta := 0, frame := none, closed := [] }
      let sb1 := { sb with slots := sb.slots + p.tileSlots, commitGsn := p.lastGsn, gstate := some gs }
      let d2 := onPipe g (fun q => { q with stripe := some sb1, tileSlots := 0 }) d1
      some (sealPipe g (onLedger g (fun l => { l with carried := l.carried + p.tileSlots }) d2))

/-- A take ends on a group: an open frame closes implicitly, frames that only came lost have their records, and all tiles are encoded
first (R88, R129); then the last stripe is sealed and the group is done with the take. -/
def endTakeOn (g : Fin 4) (t : Take) (d : Dev) : Option Dev :=
  let p := d.pipes.at g
  let upto := (t.limitFrame.map (·.toNat)).getD (2 ^ 48)
  if p.frame.isSome || !p.tileBuf.isEmpty then some (endFrame g t .implicit p.lastGsn d)
  else if (d.lg.at g).lossOf.any (fun e => decide (e.1 < upto)) then some (flushLost g t upto d)
  else
    (sealTail g t d).map (fun d1 =>
      advanceTake t.volume t.id (settleC g (onTake t.volume t.id (fun x => { x with ended := x.ended ||| (1 <<< g.val) })
        (onPipe g (fun q => { q with nextTile := 0, cstate := none }) d1))))

/-- The pipe's view of the order of R53 moves past a slot. -/
def orderPast (g : Fin 4) (s : Slot) : Dev → Dev :=
  onPipe g (fun p => { p with order := if s.state = 0 then { p.order with gap := true } else p.order.next s.pkt })

/-- A slot with no take is dropped (R84, no-take). -/
def consumeNone (g : Fin 4) (s : Slot) (d : Dev) : Dev :=
  let d1 := orderPast g s (passSlot g s d)
  settleC g (if s.state = 0 then d1 else dropResident g 5 (payloadBytes s.pkt) d1)

/-- What a slot that keeps the order does, by its type. -/
def consumeSound (g : Fin 4) (t : Take) (s : Slot) (d : Dev) : Dev :=
  if s.pkt.ptype = 2 then consumeOpen g t s d
  else if s.pkt.ptype = 3 then consumeData g t s d
  else if s.pkt.ptype = 4 then consumeClose g t s d
  else if s.pkt.ptype = 5 then consumeMeta g t s d
  else onPipe g (fun q => { markHealed s (takeSlot q) with lastGsn := s.pkt.gsn }) d

/-- What a slot of a take does. -/
def consumeAs (g : Fin 4) (t : Take) (s : Slot) (d : Dev) : Dev :=
  if s.state = 0 then consumeMissing g s d
  else if !(d.pipes.at g).inOrder s then breakOrder g s d
  else consumeSound g t s (orderPast g s d)

/-- A slot of a take that has begun. The header of one that is not dropped is kept for the next LEDGER (R297). -/
def consumeIn (g : Fin 4) (t : Take) (s : Slot) (d : Dev) : Dev :=
  let d1 := passSlot g s d
  let d2 := consumeAs g t s d1
  if s.state ≠ 0 ∧ (d2.lg.at g).dropped = (d1.lg.at g).dropped then
    onLedger g (fun l => { l with ledgerHdrs := l.ledgerHdrs ++ headerBytes s.pkt }) d2
  else d2

/-- A take begins on a group (R220): with no tile, no frame, and no bytes lost before its first frame. -/
def beginTake (g : Fin 4) (t : Take) (s : Slot) (d : Dev) : Dev :=
  onTake t.volume t.id (fun x => { x with begun := x.begun ||| (1 <<< g.val) })
    (onLedger g (fun l => { l with lossOf := l.lossOf.filter (fun e => decide (s.pkt.frame.toNat ≤ e.1)) })
      (onPipe g (fun q => { q with nextTile := 0, tileSlots := 0, tileGood := 0, frame := none, frameGap := false }) d))

/-- The encoder has work, or waits to learn whether the one tile it has is its frame's last (R102). -/
def Pipe.encoding (p : Pipe) : Bool := !p.ready.isEmpty && !(p.held && p.ready.length == 1)

/-- A planned handover holds the pipe at a tile boundary: the cut (R305, step 3). -/
def Dev.atCut (d : Dev) (g : Fin 4) : Bool :=
  (d.tango.hand.map (fun h => h.giving && h.stage == 2 && h.groups.getLsbD g.val)).getD false && (d.pipes.at g).tileBuf.isEmpty

/-- The pipe consumes the next slot of its group, or ends a take there. None where it waits: for a slot, for its encoder,
for a stripe, at the cut of a handover, or because the encode path is off (R127). -/
def consumeOne (g : Fin 4) (d : Dev) : Option Dev :=
  let p := d.pipes.at g
  if !d.owns g || !d.pipeBit g 0 || p.encoding || d.atCut g then none
  else
    let l := d.lg.at g
    let slot := ringAt l.ring l.ringPos
    match (d.bound g).head?, slot with
    | none, none => none
    | none, some s => some (consumeNone g s d)
    | some t, none => if atEnd t g l.ringPos then endTakeOn g t d else none
    | some t, some s =>
      if beyond t g s then endTakeOn g t d
      else if t.begun.getLsbD g.val then some (consumeIn g t s d)
      else if begins t g s then
        some (consumeIn g t s (beginTake g t s d))
      else some (consumeNone g s d)

/-- Consume as long as anything can be. -/
def consumeN (g : Fin 4) : Nat → Dev → Dev
  | 0, d => d
  | n + 1, d =>
    match consumeOne g d with
    | some d' => consumeN g n d'
    | none => d

/-- Pipe `g` consumes what it can, and credit follows (R76). -/
def consume (g : Fin 4) (d : Dev) : Dev :=
  refreshLimit g (consumeN g ((d.lg.at g).ring.length + 3 * (d.bound g).length + 1) d)

/-! ## Encoding a tile (R100) -/

/-- The geometry of a raw tile (R107, R109), where its frame has one. -/
def tileGeo (r : RawTile) : Option TileGeo :=
  match r.frame with
  | none => none
  | some f =>
    if fmtDepth f.format = 0 ∨ f.lineBytes = 0 then none
    else
      let mono := decide (fmtLayout f.format = 0)
      some { d := depthBits f.format, ex := fmtExtent f.format, hs := if mono then 1 else 2,
             vs := if mono then 1 else if f.lineStep % 2 = 1 then 2 else 1, width := f.width, bytes := f.lineBytes,
             phase := r.offset % f.lineBytes, raw := r.bytes.length }

/-- Header flags of a frame tile (R102). -/
def tileFlags (r : RawTile) : Nat :=
  bit (decide (r.bytes.length < 65536)) + 2 * bit r.lossZero + 4 * bit r.first + 8 * bit r.last

/-- Entry flags of a frame tile (R224). -/
def entryFlags (ref : Bool) (r : RawTile) : BitVec 12 :=
  BitVec.ofNat 12 (bit ref + 4 * bit r.lossZero + 16 * bit r.first + 32 * bit r.last)

/-- Whether a tile is looked up (R118). -/
def Dev.looksUp (d : Dev) (g : Fin 4) (t : Take) (r : RawTile) : Bool :=
  d.pipeBit g 4 && t.dedup && t.reel.isNone && !r.lossZero && ((d.volume t.volume).map (·.dedup)).getD false

/-- The hot-index way that a tile hits. -/
def Dev.hotHit (d : Dev) (g : Fin 4) (t : Take) (r : RawTile) : Option (Nat × HotEnt) :=
  if d.looksUp g t r then d.cat.lookup t.layout t.volume (d.takeFp t r.bytes) else none

/-- The state of the group once a tile has gone into a stripe (R293): the open frame's recorded_length is where its stored tiles end
(DEDUCED, notes/assumptions/54.md). -/
def tileState (g : Fin 4) (part : Nat) (r : RawTile) : GState :=
  { group := g.val, part := part, frameOpen := r.frameOpen, commitGsn := r.lastGsn, nextTile := r.index + 1, nextMeta := 0,
    frame := if r.frameOpen then r.frame.map (fun f => { f with recorded := r.offset + r.bytes.length }) else none, closed := [] }

/-- What a tile brings to the stripe that it goes into. -/
def chargeTile (g : Fin 4) (part : Nat) (r : RawTile) (sb : StripeBuf) : StripeBuf :=
  { sb with slots := sb.slots + r.slots, commitGsn := r.lastGsn, gstate := some (tileState g part r)
            owed := sb.owed ++ [{ seq := frameSeq g.val r.index, slots := r.slots, good := r.good,
                                  frame := (r.frame.map (·.frame)).getD 0 }] }

/-- The tile leaves the encoder. -/
def tileDone (g : Fin 4) (r : RawTile) (f : Pipe → Pipe) (d : Dev) : Dev :=
  onLedger g (fun l => { l with carried := l.carried + r.slots }) (onPipe g (fun p => f { p with ready := p.ready.drop 1 }) d)

/-- A tile that hits becomes a reference (R118, R121). -/
def putReference (g : Fin 4) (t : Take) (part : Nat) (r : RawTile) (way : Nat) (e : HotEnt) (d : Dev) : Dev :=
  match needStripe g t part r.lastGsn d with
  | (_, none) => d
  | (d1, some sb) =>
    let ent : Entry := { loc := e.loc, flags := entryFlags true r, tileSeq := frameSeq g.val r.index, fp := e.fp,
                         storedLen := e.storedLen }
    let sb1 := chargeTile g part r { sb with entries := sb.entries ++ [ent] }
    let d2 := onCat (fun c => c.pinHit (hotBucket e.fp) way) (setStripe g (some sb1) d1)
    tileDone g r (fun p => { p with
      refPend := p.refPend + 1, dedupHit := p.dedupHit + 1, tilesEnc := p.tilesEnc + 1
      bytesRaw := p.bytesRaw + BitVec.ofNat 64 r.bytes.length }) d2

/-- A made tile is placed in the pipe's stripe, with room left for the metadata due with it (R115, R294); a stripe that it
does not fit is sealed, and the tile opens the next. -/
def putTile (g : Fin 4) (t : Take) (part : Nat) (r : RawTile) (m : Made) (again : Bool) (d : Dev) : Option Dev :=
  match needStripe g t part r.lastGsn d with
  | (_, none) => none
  | (d1, some sb) =>
    match d1.layout sb.layout with
    | none => none
    | some l =>
      if again || sb.fits m.stored.length (d1.metaRoom g t part r.lastGsn) then
        let sb1 := chargeTile g part r (sb.place l m.stored (entryFlags false r) (frameSeq g.val r.index) m.fp)
        some (tileDone g r (Pipe.countTile m r.bytes.length) (setStripe g (some sb1) d1))
      else none

/-- The stripe that a tile does not fit is sealed, and the tile goes into a fresh one. Where none can be had, the tile
waits with its nonce unused. -/
def placeTile (g : Fin 4) (t : Take) (part : Nat) (r : RawTile) (d : Dev) : Dev :=
  let m := makeTile g t (frameSeq g.val r.index) ((r.frame.map (·.format)).getD 0) (tileFlags r) (tileGeo r) r.bytes d
  match putTile g t part r m.1 false m.2 with
  | some d1 => d1
  | none =>
    if ((d.pipes.at g).stripe).isNone then d
    else
      let d2 := sealPipe g m.2
      (putTile g t part r m.1 true d2).getD (sealPipe g d)

/-- A complete tile is encoded (R100), once the keys of its take are held: a reference where it hits, else a stored tile; the pipe then
goes on. -/
def encodeTile (g : Fin 4) (d : Dev) : Dev :=
  match (d.pipes.at g).ready with
  | [] => consume g d
  | r :: _ =>
    if !(d.pipes.at g).encoding && !d.atCut g then consume g d
    else
    match d.take r.volume r.takeId with
    | none => d
    | some t =>
      if !d.mayEncode t then d
      else
      let part := ((t.partOf g).map (·.idx)).getD 0
      let d1 := match d.hotHit g t r with
        | some (w, e) => putReference g t part r w e d
        | none => placeTile g t part r d
      consume g d1

/-- Seal the pipe's stripe where references are pending on it (R183). -/
def referenceSeal (g : Fin 4) (least : Nat) (d : Dev) : Dev :=
  if decide (0 < (d.pipes.at g).refPend ∧ least ≤ (d.pipes.at g).refPend) then sealPipe g d else d

/-- REFERENCE_SEAL_TIMER: the oldest pending reference is 2 ms old. -/
def execReferenceSealTimer (g : Fin 4) (s : State) : Host.Outcome State Fault Refusal :=
  .next { s with dev := when s.dev.working (referenceSeal g 1) s.dev }

/-- REFERENCE_SEAL_COUNT: 4,096 references are pending. -/
def execReferenceSealCount (g : Fin 4) (s : State) : Host.Outcome State Fault Refusal :=
  .next { s with dev := when s.dev.working (referenceSeal g 4096) s.dev }

/-! ## The hot index in HBM (R117) -/

/-- The bucket that the next tile of a pipe is looked up in, where it is looked up. -/
def Dev.nextLookup (d : Dev) (g : Fin 4) : Option Nat :=
  match (d.pipes.at g).ready with
  | [] => none
  | r :: _ => (d.take r.volume r.takeId).bind (fun t =>
      if d.looksUp g t r then some (hotBucket (d.takeFp t r.bytes)) else none)

/-! ## The mover (R74) -/

/-- A landed slot of a group for which no standby ring is kept is released at once (R78, R286, R306). -/
def releaseSlot (g : Fin 4) (s : Slot) (d : Dev) : Dev :=
  if s.state = 0 then d
  else onLedger g (fun l => { l with released := l.released + 1, resident := l.resident - 1 }) d

/-- The mover copies the oldest landed slot into the group's ring; an owned group's pipe then consumes what it can. -/
def moveSlot (g : Fin 4) (d : Dev) : Dev :=
  let l := d.lg.at g
  match l.landing with
  | [] => if d.owns g then consume g d else d
  | s :: rest =>
    let pos := if l.ring.isEmpty && !d.owns g then s.pkt.gsn else l.ringPos
    let l1 : Ledger := { l with landing := rest, ringPos := pos, ring := ringInsert pos s l.ring }
    if d.owns g then consume g (refreshLimit g (onLedger g (fun _ => l1) d))
    else if d.tango.barred || !d.keepsRing g then refreshLimit g (releaseSlot g s (onLedger g (fun _ => { l with landing := rest }) d))
    else refreshLimit g (onLedger g (fun _ => trimStandby l1) d)

/-- MOVER_COPY. -/
def execMoverCopy (g : Fin 4) (s : State) : Host.Outcome State Fault Refusal :=
  .next { s with dev := when s.dev.live (moveSlot g) s.dev }

/-! ## Uncorrectable HBM errors in the data path (R129, R356) -/

/-- A ring slot is lost to HBM: dropped as hbm-uncorrectable, its header kept. A TRIGGER that it held writes no record
(R88). -/
def poisonRing (g : Fin 4) (gsn : W32) (d : Dev) : Dev :=
  match ringAt (d.lg.at g).ring gsn with
  | none => d
  | some s =>
    if s.state = 0 then d
    else
      let d1 := onLedger g (fun l =>
        { l with ring := l.ring.map (fun x => if x.pkt.gsn = gsn then droppedSlot x.pkt 7 else x) }) d
      onCat (fun c => { c with takes := c.takes.map (fun t =>
        { t with pending := t.pending.filter (fun m => !(m.src == some (g.val, gsn))) }) })
        (dropResident g 7 (payloadBytes s.pkt) d1)

/-- The frame record of a lost tile: its bytes are no longer committed (R129). A metadata tile holds none. -/
def loseBytes (frame : BitVec 48) (n : Nat) (f : FrameRec) : FrameRec :=
  if f.frame = frame ∧ 0 < n then { setFlag 4 f with committed := f.committed - n, hbmUnc := f.hbmUnc + min n f.committed } else f

/-- A stripe buffer with one tile lost: its entry is marked, its extent is zeros, its slots leave the stripe. -/
def loseEntry (l : LayoutRec) (seq : W64) (x : TileDebt) (sb : StripeBuf) : StripeBuf :=
  let offs := (sb.entries.filter (fun e => e.tileSeq == seq)).map (fun e => (l.ofLocation e.loc).2)
  { sb with
    entries := sb.entries.map (fun e => if e.tileSeq = seq then { e with flags := e.flags ||| 2 } else e)
    data := sb.data.map (fun y => if offs.contains y.1 then (y.1, zeros y.2.length) else y)
    owed := sb.owed.filter (fun y => y.seq != seq), slots := sb.slots - x.slots }

/-- The debt of a stored tile in a stripe buffer of a group. -/
def debtOf (g : Fin 4) (seq : W64) (sb : StripeBuf) : Option TileDebt :=
  if sb.source = g.val then sb.owed.find? (·.seq == seq) else none

/-- The tile's slots are dropped, and the account of its frame is revised wherever the frame's record stands. -/
def loseSlots (g : Fin 4) (x : TileDebt) (d : Dev) : Dev :=
  let n : W64 := BitVec.ofNat 64 x.slots
  let d1 := onLedger g (fun l => { l with
    dropped := l.dropped + n, resident := l.resident - n, carried := l.carried - x.slots
    drops := tput l.drops 7 (tgetD l.drops 0 7 + n)
    dropBytes := tput l.dropBytes 7 (tgetD l.dropBytes 0 7 + BitVec.ofNat 64 x.good) }) d
  let again (sb : StripeBuf) : StripeBuf := if sb.source = g.val then { sb with frames := sb.frames.map (loseBytes x.frame x.good) } else sb
  onVault (fun v => { v with sealedQ := v.sealedQ.map again, opened := v.opened.map (fun o => { o with buf := again o.buf }) })
    (onPipe g (fun p => { p with
      frame := p.frame.map (loseBytes x.frame x.good)
      closed := p.closed.map (fun e => (e.1, loseBytes x.frame x.good e.2))
      stripe := p.stripe.map again }) d1)

/-- Slot headers of 30 bytes, in order. -/
def headerChunks : Nat → List Byte → List (List Byte)
  | 0, _ => []
  | n + 1, l => if l.isEmpty then [] else l.take 30 :: headerChunks n (l.drop 30)

/-- The gsn of a slot's header. -/
def headerGsn (h : List Byte) : W32 := BitVec.ofNat 32 (fieldAt h 4 4)

/-- The slots of a lost tile are dropped: the LEDGER whose range its stripe's last slot is in has a header missing, so that it is not
CRC_VALID (R297). -/
def unledger (g : Fin 4) (x : TileDebt) (sb : StripeBuf) (d : Dev) : Dev :=
  if x.slots = 0 then d
  else onLedger g (fun l => { l with
    ledgerHdrs := ((headerChunks (l.ledgerHdrs.length / 30) l.ledgerHdrs).filter (fun h => headerGsn h != sb.commitGsn)).flatten }) d

/-- A stored tile of frame data or of metadata is lost before its stripe has retired (R129): in an open or a sealed stripe at once; in
an issued one by discarding the open entry and sealing its tiles again. -/
def poisonTile (g : Fin 4) (seq : W64) (d : Dev) : Dev :=
  let here := (d.pipes.at g).stripe.toList ++ d.vault.sealedQ ++ d.vault.opened.map (·.buf)
  match here.findSome? (fun sb => (debtOf g seq sb).map (fun x => (sb, x))) with
  | none => d
  | some (of, x) =>
    let d1 := unledger g x of (loseSlots g x d)
    let mark (sb : StripeBuf) : StripeBuf :=
      match (debtOf g seq sb).bind (fun _ => d.layout sb.layout) with
      | some l => loseEntry l seq x sb
      | none => sb
    let d2 := onVault (fun v => { v with sealedQ := v.sealedQ.map mark, opened := v.opened.map (fun o => { o with buf := mark o.buf }) })
      (onPipe g (fun p => { p with stripe := p.stripe.map mark }) d1)
    match d.vault.opened.find? (fun e => (debtOf g seq e.buf).isSome) with
    | some e => sealAgain e.jseq d2
    | none => d2

end Sys2Proof.Machine
end

