-- ==== Sys2Proof/Machine/Link.lean ====
section
/-! DEFINITION. SiethLink as data receiver: training and link-up (R40 to R46), CAP (R55, R56, R85), credit (R58, R59, R77),
stops (R62 to R65, R498), packets received (R70, R73, R75, R89) and retraining (R71). -/

namespace Sys2Proof.Machine
open Sys2Proof

/-! ## Packets (R47 to R54) -/

/-- The CRC-16 of a header. -/
def hcrcOf (p : Packet) : W16 := crc16 (headerBytes p)

/-- The CRC-32C of a packet: header, payload area, padded with zeros. -/
def pcrcOf (p : Packet) : W32 := crc32c (headerBytes p ++ wordBytes p.hcrc ++ padTo 2048 p.payload)

/-- A packet with both its CRCs. -/
def sealPacket (p : Packet) : Packet :=
  let q := { p with hcrc := hcrcOf p }
  { q with crc := pcrcOf q }

/-- The 2,084 bytes of a packet on the line (R47). -/
def packetBytes (p : Packet) : List Byte := headerBytes p ++ wordBytes p.hcrc ++ padTo 2048 p.payload ++ wordBytes p.crc

/-- The lanes of a group that this head transmits on, and those that it receives on (R32). -/
def Sl.txLanes (x : Sl) : List Nat := if x.player then List.range 16 else [0]
/-- The lanes of a group that this head receives on (R32). -/
def Sl.rxLanes (x : Sl) : List Nat := if x.player then [0] else List.range 16

/-- Whether this head's receiver of a lane is powered (R32). -/
def Dev.hears (d : Dev) (lane : Fin 16) : Bool := !d.sl.player || lane == 0

/-- A packet joins the stream of its group's direction, back to back with the one before (R38, R39). -/
def slSend (g : Fin 4) (p : Packet) (d : Dev) : Dev :=
  let x := d.sl.groups.at g
  let r := pushBytes x.nrz d.sl.txLanes.length (packetBytes p) x.tx
  emit (.slTx g p r.2) (onGroup g (fun y => { y with tx := r.1 }) d)

/-- A packet that this head sends and that takes no slot: `gsn` is zero from a data receiver (R51). -/
def controlPacket (g : Fin 4) (ptype : Byte) (sid : W16) (gsn word : W32) (now : Nat) (payload : List Byte) : Packet :=
  sealPacket { ptype := ptype, flags := 0, streamId := sid, gsn := gsn, frame := 0, length := 0,
               timestamp := BitVec.ofNat 64 now, word := word, group := BitVec.ofNat 8 g.val, reserved := 0, hcrc := 0,
               payload := payload, crc := 0 }

/-- A CAP body's 84 bytes (R55). -/
def capBytes (c : Cap) : List Byte :=
  wordBytes c.version ++ wordBytes c.kind ++ wordBytes c.role ++ wordBytes c.group ++ wordBytes c.groupsMask ++
    wordBytes c.port ++ wordBytes c.laneMode ++ wordBytes c.deviceId ++ wordBytes c.streamId ++ wordBytes c.status ++
    leBytes 4 c.maxRate ++ leBytes 4 c.maxFrame ++ wordBytes c.nextGsn ++ wordBytes c.initLimit ++
    leBytes 2 c.runoutFrames ++ zeros 2 ++ leBytes 8 c.runoutBytes ++ leBytes 2 c.formatCount ++ zeros 2 ++
    (c.formats.map wordBytes).flatten

/-- The CAP body that a payload holds. -/
def readCap (b : List Byte) : Cap :=
  let n := fieldAt b 48 2
  { version := BitVec.ofNat 16 (fieldAt b 0 2), kind := BitVec.ofNat 8 (fieldAt b 2 1), role := BitVec.ofNat 8 (fieldAt b 3 1),
    group := BitVec.ofNat 8 (fieldAt b 4 1), groupsMask := BitVec.ofNat 8 (fieldAt b 5 1),
    port := BitVec.ofNat 8 (fieldAt b 6 1), laneMode := BitVec.ofNat 8 (fieldAt b 7 1),
    deviceId := BitVec.ofNat 64 (fieldAt b 8 8), streamId := BitVec.ofNat 16 (fieldAt b 16 2),
    status := BitVec.ofNat 16 (fieldAt b 18 2), maxRate := fieldAt b 20 4, maxFrame := fieldAt b 24 4,
    nextGsn := BitVec.ofNat 32 (fieldAt b 28 4), initLimit := BitVec.ofNat 32 (fieldAt b 32 4),
    runoutFrames := fieldAt b 36 2, runoutBytes := fieldAt b 40 8, formatCount := n,
    formats := (List.range (min n 16)).map (fun i => BitVec.ofNat 16 (fieldAt b (52 + 2 * i) 2)) }

/-- What a check of R70 finds wrong with a packet. -/
inductive PktFault where
  | hcrc | kind | crc
deriving DecidableEq, Repr

/-- The checks of R70, in order. CAP is exempt from the stream_id check. -/
def Dev.checkPacket (d : Dev) (g : Fin 4) (p : Packet) : Option PktFault :=
  if p.hcrc ≠ hcrcOf p then some .hcrc
  else if 9 < p.ptype.toNat ∨ p.group.toNat ≠ g.val ∨
      (p.ptype ≠ 1 ∧ ((d.sl.groups.at g).grant.map (fun r => r.streamId != p.streamId)).getD false) then some .kind
  else if p.crc ≠ pcrcOf p then some .crc
  else none

/-! ## Link sections (R287) -/

/-- This head's link section: what it has granted. -/
def Dev.linkSections (d : Dev) : Four LinkSec :=
  let sec (g : Fin 4) : LinkSec :=
    match (d.sl.groups.at g).grant with
    | some r => { deviceId := r.deviceId, streamId := r.streamId, port := r.port, granted := true }
    | none => LinkSec.none_
  ⟨sec 0, sec 1, sec 2, sec 3⟩

/-- Whether a group is paired: granted at both heads, with equal device_id and stream_id, port 0 at A and 1 at B. -/
def Dev.pairedNow (d : Dev) (g : Fin 4) : Bool :=
  let a := d.linkSections.at g
  let b := d.tango.farLink.at g
  let pa : Byte := if d.glb.headB then 1 else 0
  a.granted && b.granted && a.deviceId == b.deviceId && a.streamId == b.streamId && a.port == pa &&
    b.port == 1 - pa

/-- Set the pairing of a group, and log its change. -/
def notePairing (g : Fin 4) (d : Dev) : Dev :=
  let now := d.pairedNow g
  if now = d.tango.paired.getLsbD g.val then d
  else
    logEvent 0x0608 (BitVec.ofNat 32 g.val) [BitVec.ofNat 32 (bit now)]
      (onTango (fun t => { t with paired := if now then t.paired ||| (1 <<< g.val) else t.paired &&& ~~~((1 : BitVec 4) <<< g.val) }) d)

/-- Pairing of every group. -/
def notePairings (d : Dev) : Dev := each notePairing groupList d

/-- A grant on this head's port has changed: LINK_INFO, and the pairing (R287). -/
def grantChanged (d : Dev) : Dev := notePairings (tangoSend 0 (.linkInfo d.linkSections) d)

/-! ## Link-up (R44 to R46) -/

/-- Whether SL_CFG enables a group (R463). -/
def Dev.groupEn (d : Dev) (g : Fin 4) : Bool := d.regs.slCfg.getLsbD (4 + g.val)

/-- The lane's fields before training. -/
def Lane.fresh : Lane :=
  { pre := 0, main := 0, post := 0, preStat := 0, mainStat := 0, postStat := 0, presetDone := false, acted := none, farReady := false,
    ctle := 0, invert := false, locked := false, rxReady := false, req := 0, reqSeq := 0, prbs := 0, fecCorr := 0, fecUncorr := 0,
    lastBad := none, badRun := 0, badWin := 0 }

/-- Port lane `n`. -/
def Sl.lane (x : Sl) (n : Nat) : Lane := tgetD x.lanes { Lane.fresh with prbs := Config.prbsSeed n } n

/-- Change port lane `n`. -/
def onLane (n : Nat) (f : Lane → Lane) (d : Dev) : Dev :=
  { d with sl := { d.sl with lanes := tput d.sl.lanes n (f (d.sl.lane n)) } }

/-- The control field that a lane's receiver has sent to far lane `target` (R41). -/
def controlField (x : Group) (target : Nat) (l : Lane) : W32 :=
  BitVec.ofNat 32 (target + l.req * 16 + bit l.rxReady * 4096 + bit x.allReady * 8192 + bit x.nrz * 16384 + l.reqSeq.toNat * 65536)

/-- The status field of a lane's transmitter (R42). -/
def statusField (g : Fin 4) (lane : Nat) (x : Group) (l : Lane) : W32 :=
  BitVec.ofNat 32 (lane + l.preStat * 16 + l.mainStat * 64 + l.postStat * 256 + bit l.presetDone * 1024 + x.countdown * 4096 +
    (l.acted.getD 0).toNat * 65536 + g.val * 2 ^ 24)

/-- A training frame goes out on a lane, with a control field to far lane `target` (R40). -/
def sendTrain (g : Fin 4) (target lane : Nat) (d : Dev) : Dev :=
  let x := d.sl.groups.at g
  let n := 16 * g.val + lane
  let r := trainLevels x.nrz (controlField x target (d.sl.lane (16 * g.val + target))) (statusField g lane x (d.sl.lane n)) (d.sl.lane n).prbs
  emit (.slTrain g lane x.nrz r.1) (onLane n (fun l => { l with prbs := r.2 }) d)

/-- A training frame goes out on every active transmit lane (R40), addressed to far lane `target` (R41). -/
def sendTrains (g : Fin 4) (target : Nat) (d : Dev) : Dev := each (sendTrain g target) d.sl.txLanes d

/-- A lane as an attempt starts: its receiver asks for preset 2 of the far lane; a transmitter that is powered down has no taps
(R32, R44, step 1, R466). -/
def Lane.attempt (tx rx : Bool) (l : Lane) : Lane :=
  { l with locked := false, rxReady := false, farReady := false, badRun := 0, badWin := 0, lastBad := none, acted := none,
           preStat := 0, mainStat := 0, postStat := 0, presetDone := false, req := if rx then 128 else 0,
           reqSeq := if rx then l.reqSeq + 1 else l.reqSeq, pre := if tx then l.pre else 0, main := if tx then l.main else 0,
           post := if tx then l.post else 0 }

/-- A link-up attempt starts (R46): training frames, in PAM4 for the first two, then in NRZ where that is allowed. In
player role the link partner sets the mode. -/
def startAttempt (g : Fin 4) (d : Dev) : Dev :=
  let n := (d.sl.groups.at g).attempt + 1
  let nrz := if d.sl.player then (d.sl.groups.at g).nrz else decide (3 ≤ n) && d.regs.slCfg.getLsbD 1
  let d1 := onGroup g (fun x => { x with link := .training, attempt := n, attempts := min 255 (x.attempts + 1), nrz := nrz,
                                         countdown := 15, allReady := false, farAllReady := false, crcRun := 0,
                                         tx := { x.tx with on := false }, rx := { count := 0, bad := [] } }) d
  sendTrains g 0 (each (fun i => onLane (16 * g.val + i) (Lane.attempt (d.sl.txLanes.contains i) (d.sl.rxLanes.contains i)))
    (List.range 16) d1)

/-- Link-up of a group starts: its first attempt. -/
def linkUp (g : Fin 4) (d : Dev) : Dev := startAttempt g (onGroup g (fun x => { x with attempt := 0, retraining := false }) d)

/-- A stop that is settled: takes that end with it know their last gsn, and STOP descriptors whose groups are all stopped
complete (R62, R223, R498). -/
def stopSettled (g : Fin 4) (d : Dev) : Dev :=
  let e := (d.lg.at g).expect
  let mark (t : Take) : Take :=
    if t.state = .closing ∧ t.hasGroup g ∧ t.limitFrame.isNone ∧ (tget t.endAt g.val).isNone then
      { t with endAt := tput t.endAt g.val e } else t
  let d1 := onCat (fun c => { c with takes := c.takes.map mark }) d
  let isDone (h : Fin 4) : Bool := ((d1.sl.groups.at h).stop.map (·.done)).getD true
  let ok (w : Hdr × BitVec 4) : Bool := groupList.all (fun h => !w.2.getLsbD h.val || isDone h)
  let ready := d1.sl.stopWaits.filter ok
  let d2 := { d1 with sl := { d1.sl with stopWaits := d1.sl.stopWaits.filter (fun w => !ok w) } }
  consume g (each (fun w x => complete w.1 0x44 0 0 0 x) ready d2)

/-- The channel whose PLAY drives a group. -/
def Dev.playOn (d : Dev) (g : Fin 4) : Option (Nat × PlayJob) :=
  d.hif.chans.findSome? (fun e => match e.2.job with
    | some (.play j) => if j.group = g then some (e.1, j) else none
    | _ => none)

/-- Whether a META record is one of a frame. -/
def metaOfFrame (f : FrameRec) : MetaBody → Bool
  | .mta _ _ fr _ g _ => g == f.group && fr == f.frame
  | _ => false

/-- A data sender that loses its grant inside a frame goes on at the next FRAME_OPEN, with the gsn that this packet has where the other
port carries on (R66, R71): the rest of the frame is left out, and its gsn values with it. -/
def skipOpenFrame (g : Fin 4) (d : Dev) : Dev :=
  match d.playOn g with
  | none => d
  | some (c, j) =>
    match j.opened, j.frames with
    | true, f :: rest =>
      let left := (f.recorded - j.pos + 2047) / 2048 + 1 + (j.metas.filter (metaOfFrame f)).length
      let k : PlayJob := { j with frames := rest, opened := false, buf := [], pos := 0, done := j.done + 1,
                                  entries := j.entries.filter (fun e => !tileOfFrame f e), metas := j.metas.filter (fun m => !metaOfFrame f m) }
      onGroup g (fun x => { x with playNext := x.playNext + BitVec.ofNat 32 left, playOpen := false })
        (freeTile c (setJob c (some (.play k)) d))
    | _, _ => d

/-- A group loses its grant: a stop in progress is done (R65, R498), and it comes up stopped. RESUME waits for the threshold anew
(R71, R77). -/
def loseGrant (g : Fin 4) (d0 : Dev) : Dev :=
  let d := skipOpenFrame g d0
  let gr := d.sl.groups.at g
  let d1 := onGroup g (fun x => { x with grant := none, comeStopped := x.stop.isSome, order := { x.order with frame := none, gap := true },
                                         resumeSet := false, stop := x.stop.map (fun s => { s with done := true }) }) d
  let d2 := if gr.grant.isSome then grantChanged d1 else d1
  if gr.stop.isSome then stopSettled g d2 else d2

/-- A retrain of a group (R71), for a cause that R70's table gives as a row. A stop that is in progress is treated as done,
and logged (R65). -/
def retrain (g : Fin 4) (cause : W32) (d : Dev) : Dev :=
  let gr := d.sl.groups.at g
  let n := gr.retrainCnt + 1
  let d1 := logEvent 0x0202 (BitVec.ofNat 32 g.val) [cause, n.setWidth 32] (onGroup g (fun x => { x with retrainCnt := n }) d)
  let d2 := match gr.stop with
    | some s => if s.done then d1 else logEvent 0x020A (BitVec.ofNat 32 g.val) [s.id, n.setWidth 32] d1
    | none => d1
  startAttempt g (onGroup g (fun x => { x with attempt := 0, retraining := true }) (loseGrant g d2))

/-- A link-up attempt has failed: the next one, or after four the group is down (R46). `lane` and `status` are what the
training frame showed, where one failed it. -/
def failAttempt (g : Fin 4) (seen : Option (Nat × W32)) (d : Dev) : Dev :=
  let n := (d.sl.groups.at g).attempt
  let words := match seen with
    | some (l, s) => [BitVec.ofNat 32 n, BitVec.ofNat 32 l, s]
    | none => [BitVec.ofNat 32 n, Config.free32 d.free, Config.free32 (d.free + 1)]
  let d1 := if seen.isSome || decide (4 ≤ n) then drawn (drawn (logEvent 0x0201 (BitVec.ofNat 32 g.val) words d)) else d
  if 4 ≤ n then onGroup g (fun x => { x with link := .down, retraining := false }) (loseGrant g d1) else startAttempt g d1

/-- A group carries packets or holds codeword lock. -/
def linkIsUp (x : LinkSt) : Bool := x == .awaitCap || x == .granted

/-! ## Training frames (R40 to R44) -/

/-- One step of a tap: its value, and its status (1 updated, 2 at minimum, 3 at maximum). -/
def stepTap (tap : Nat) (v : Int) (req : Nat) : Int × Nat :=
  if req = 1 then (if Config.tapMax tap < v + 25 then (v, 3) else (v + 25, 1))
  else if req = 2 then (if v - 25 < Config.tapMin tap then (v, 2) else (v - 25, 1))
  else (v, 0)

/-- The taps of a preset (R43), in thousandths. -/
def presetTaps : Nat → Int × Int × Int
  | 1 => (0, 1000, 0)
  | 2 => (-50, 800, -150)
  | _ => (-100, 700, -200)

/-- The main tap that keeps the sum of magnitudes at 1. -/
def mainOf (pre post : Int) : Int := 1000 - pre.natAbs - post.natAbs

/-- The status of a main-tap request (R43): the other two taps fix the main tap, so it is at its limit either way (DEDUCED,
notes/assumptions/50.md). -/
def mainStat (req : Nat) : Nat := if req = 1 then 3 else if req = 2 then 2 else 0

/-- A transmitter acts on a control field addressed to its lane (R41, R43): once for each new request, and the status it shows holds
until the request returns to hold. -/
def actOn (control : W32) (l0 : Lane) : Lane :=
  let n := control.toNat
  let l := { l0 with farReady := n.testBit 12 }
  let seq := BitVec.ofNat 8 (bits n 23 16)
  let preset := bits n 11 10
  if bits n 11 4 = 0 then { l with preStat := 0, mainStat := 0, postStat := 0 }
  else if l.acted = some seq then l
  else if preset ≠ 0 then
    let t := presetTaps preset
    { l with pre := t.1, main := t.2.1, post := t.2.2, preStat := 0, mainStat := 0, postStat := 0, presetDone := true, acted := some seq }
  else
    let a := stepTap 0 l.pre (bits n 5 4)
    let b := stepTap 2 l.post (bits n 9 8)
    { l with pre := a.1, main := if a.2 = 1 ∨ b.2 = 1 then mainOf a.1 b.1 else l.main, post := b.1, preStat := a.2,
             mainStat := mainStat (bits n 7 6), postStat := b.2, acted := some seq }

/-- The receiver of a lane after a status field (R44, step 3): a request that the far transmitter has acted on returns to hold; from
hold, the receiver is trained, or asks for tap changes: how it adapts is free (notes/assumptions/50.md). -/
def adapt (status : W32) (f : Nat) (l : Lane) : Lane :=
  let s := status.toNat
  if l.rxReady then l
  else if l.req ≠ 0 then
    if bits s 23 16 = l.reqSeq.toNat ∧ (l.req < 64 ∨ s.testBit 10) then { l with req := 0 } else l
  else if f % 2 = 0 then { l with rxReady := true }
  else
    let r := f / 2
    { l with req := max 1 (r % 3 + r / 3 % 3 * 4 + r / 9 % 3 * 16), reqSeq := l.reqSeq + 1 }

/-- The stream of a group's direction starts: block 0 comes next (R38), and with nothing to send the head sends IDLE (R39). -/
def startLine (g : Fin 4) (d : Dev) : Dev := onGroup g (fun x => { x with tx := x.tx.start }) d

/-- The last 16 frames of training, with COUNTDOWN 15 to 0, on all active lanes together; codewords follow (R44, steps 4 and 5). -/
def countDown (g : Fin 4) (target : Nat) (d : Dev) : Dev :=
  startLine g (each (fun n x => sendTrains g target (onGroup g (fun y => { y with countdown := 15 - n }) x)) (List.range 16) d)

/-- The head answers a training frame with its own: the request to the lane heard, and the last frames once ALL_READY holds in both
directions (R41, R44). -/
def answerTrain (g : Fin 4) (target : Nat) (d : Dev) : Dev :=
  let x := d.sl.groups.at g
  if x.tx.on then d
  else if x.allReady && x.farAllReady then countDown g target d
  else sendTrains g target d

/-- A training frame on a lane of a group that trains. A mode that R41 does not define is not taken. -/
def trainFrame (g : Fin 4) (lane : Fin 16) (control status : W32) (inverted : Bool) (d : Dev) : Dev :=
  let s := status.toNat
  if bits s 3 0 ≠ lane.val ∨ bits s 25 24 ≠ g.val then failAttempt g (some (lane.val, status)) d
  else
    let target := bits control.toNat 3 0
    let mode := bits control.toNat 15 14
    let d1 := drawn (onLane (16 * g.val + lane.val) (fun l => adapt status (Config.freeNat d.free) { l with invert := inverted }) d)
    let d2 := when (d.sl.txLanes.contains target) (onLane (16 * g.val + target) (actOn control)) d1
    let ready := d2.sl.rxLanes.all (fun i => (d2.sl.lane (16 * g.val + i)).rxReady) &&
      d2.sl.txLanes.all (fun i => (d2.sl.lane (16 * g.val + i)).farReady)
    answerTrain g lane.val (onGroup g (fun x => { x with
      allReady := ready, farAllReady := control.getLsbD 13, nrz := if d.sl.player && decide (mode < 2) then mode == 1 else x.nrz }) d2)

/-- TRAINING_FRAME: on lane 0 of a group that is up, the far end has begun a retrain (R70, R71). A lane that this end powers
down, and a group that does not train, see none (R32). -/
def trainingFrame (g : Fin 4) (lane : Fin 16) (control status : W32) (inverted : Bool) (d : Dev) : Dev :=
  if !d.hears lane then d
  else if (d.sl.groups.at g).link = .training then trainFrame g lane control status inverted d
  else if lane = 0 ∧ linkIsUp (d.sl.groups.at g).link then
    trainFrame g lane control status inverted (retrain g 12 d)
  else d

/-- TRAINING_FRAME. -/
def execTrainingFrame (g : Fin 4) (lane : Fin 16) (control status : W32) (inverted : Bool) (s : State) :
    Host.Outcome State Fault Refusal :=
  .next { s with dev := when s.dev.live (trainingFrame g lane control status inverted) s.dev }

/-- The timestamp of a packet that this head makes: time since power-up at a data receiver (R51); at a data sender, whose packets share
one time base, that of the last slot-bearing packet sent on the group (R52, notes/assumptions/51.md). -/
def Dev.sendTime (d : Dev) (g : Fin 4) : Nat := if d.sl.player then (d.sl.groups.at g).lastTs.toNat else d.now

/-- The IDLE packet of a group: it names the next slot-bearing packet where the head sends the data (R39, R50, R51). -/
def idlePacket (g : Fin 4) (d : Dev) : Packet :=
  controlPacket g 0 (((d.sl.groups.at g).grant.map (·.streamId)).getD 0) (if d.sl.player then (d.sl.groups.at g).playNext else 0) 0
    (d.sendTime g) []

/-- A group with nothing to send sends IDLE, once its codewords run (R39, R55). -/
def sendIdle (g : Fin 4) (d : Dev) : Dev := if (d.sl.groups.at g).tx.on then slSend g (idlePacket g d) d else d

/-- The CAP offer of a group in player role: no run-out (R67). R55 gives its version, kind, role, group, mask, mode, device and
next_gsn. The rest is the model's choice (notes/assumptions/17.md): port 0xFF, the rate that the mode and SL_CFG allow, and free
values for the stream, the largest frame and the format. -/
def offerCap (g : Fin 4) (d : Dev) : Cap :=
  { version := 0x0100, kind := 0, role := 0, group := BitVec.ofNat 8 g.val, groupsMask := (d.regs.slCfg >>> 4).setWidth 8 &&& 0xF,
    port := 0xFF, laneMode := if (d.sl.groups.at g).nrz then 1 else 0, deviceId := Config.serial,
    streamId := (Config.free32 d.free).setWidth 16, status := 0,
    maxRate := min (if (d.sl.groups.at g).nrz then 400000 else 800000) (bits (d.regs.rateCap.at g).toNat 19 0),
    maxFrame := Config.freeNat (d.free + 1) % 2 ^ 32, nextGsn := (d.sl.groups.at g).playNext, initLimit := 0, runoutFrames := 0,
    runoutBytes := 0, formatCount := 1, formats := [(Config.free32 (d.free + 2)).setWidth 16] }

/-- Send a CAP offer. -/
def sendOffer (g : Fin 4) (d : Dev) : Dev :=
  let c := offerCap g d
  drawn (drawn (drawn (slSend g (controlPacket g 1 c.streamId c.nextGsn 0 (d.sendTime g) (capBytes c)) d)))

/-- Codeword lock holds: the group awaits CAP and sends IDLE; a data sender offers (R44, step 6; R55). -/
def codewordLock (g : Fin 4) (d : Dev) : Dev :=
  if (d.sl.groups.at g).link = .training then
    let d0 := if (d.sl.groups.at g).tx.on then d else startLine g d
    let d1 := each (fun i => onLane (16 * g.val + i) (fun l => { l with locked := true, rxReady := true })) d.sl.rxLanes
      (onGroup g (fun x => { x with link := .awaitCap }) d0)
    let d2 := sendIdle g d1
    if d.sl.player then sendOffer g d2 else d2
  else d

/-- CODEWORD_LOCK. -/
def execCodewordLock (g : Fin 4) (s : State) : Host.Outcome State Fault Refusal :=
  .next { s with dev := when s.dev.live (codewordLock g) s.dev }

/-- Whether the limit of a link-up step fails the attempt in progress: step 3 or 6 before codeword lock, step 7 while a data receiver
awaits the offer (R45). -/
def Dev.stepFails (d : Dev) (g : Fin 4) (step : Nat) : Bool :=
  ((step == 3 || step == 6) && (d.sl.groups.at g).link == .training) ||
    (step == 7 && (d.sl.groups.at g).link == .awaitCap && !d.sl.player)

/-- LINK_UP_TIMEOUT: the limit of a step is exceeded (R45). -/
def execLinkUpTimeout (g : Fin 4) (linkStep : Nat) (s : State) : Host.Outcome State Fault Refusal :=
  .next { s with dev := when (s.dev.live && s.dev.stepFails g linkStep) (failAttempt g none) s.dev }

/-- CAP_TIMEOUT: no CAP offer within 10 ms of codeword lock (R45, R70). -/
def execCapTimeout (g : Fin 4) (s : State) : Host.Outcome State Fault Refusal :=
  .next { s with dev := when (s.dev.live && s.dev.stepFails g 7) (failAttempt g none) s.dev }

/-! ## CAP (R55, R56, R85) -/

/-- The grant_status of an offer: the first condition of R56 that applies. -/
def Dev.grantStatus (d : Dev) (g : Fin 4) (c : Cap) : Nat :=
  let others := groupList.filterMap (fun h => if h = g then none else (d.sl.groups.at h).grant)
  if c.version ≠ 0x0100 then 1
  else if !d.groupEn g || !c.groupsMask.getLsbD g.val then 2
  else if others.any (fun r => r.streamId != c.streamId || r.groupsMask != c.groupsMask) then 3
  else if 134217728 < c.maxFrame + c.runoutBytes ∨ 16 < c.runoutFrames then 4
  else if !c.formats.any formatDefined then 5
  else if c.maxRate = 0 then 6
  else 0

/-- The granted rate in Mbit/s. -/
def Dev.grantRate (d : Dev) (g : Fin 4) (c : Cap) : Nat :=
  min c.maxRate (min (if (d.sl.groups.at g).nrz then 400000 else 800000) (bits (d.regs.rateCap.at g).toNat 19 0))

/-- The grant of an offer. -/
def Dev.grantOf (d : Dev) (g : Fin 4) (c : Cap) : Grant :=
  { streamId := c.streamId, groupsMask := c.groupsMask, port := c.port, deviceId := c.deviceId, rate := d.grantRate g c,
    maxFrame := c.maxFrame, nRo := c.runoutFrames, bRo := c.runoutBytes, formats := c.formats.filter formatDefined }

/-- Granted gsn values that a new grant leaves beyond its L + A are dropped as credit-retired (R85): those at or after
both next_gsn and E, up to the old L + A. -/
def retireCredit (g : Fin 4) (lo oldEnd newEnd : W32) (d : Dev) : Dev :=
  if precedes newEnd oldEnd then
    let a := if precedes newEnd lo then lo else newEnd + 1
    let n := if precedes oldEnd a then 0 else sdiff a oldEnd + 1
    onLedger g (fun l => { l with received := l.received + BitVec.ofNat 64 n, dropped := l.dropped + BitVec.ofNat 64 n,
                                  drops := tput l.drops 6 (tgetD l.drops 0 6 + BitVec.ofNat 64 n) }) d
  else d

/-- Whether a group comes up stopped at its next grant (R64, R71, R498). -/
def Group.upStopped (x : Group) : Bool := x.comeStopped || (x.stop.isSome && x.grant.isNone)

/-- A grant takes effect (R76, R79, R85): the ledger's positions, the gap up to next_gsn, the new limit, what is retired. The limit of a
group that comes up stopped is next_gsn − 1, which is the exception that R76 names, and never so early that L + A precedes what
has come. -/
def applyGrant (g : Fin 4) (c : Cap) (d : Dev) : Dev :=
  let r := d.grantOf g c
  let l := d.lg.at g
  let gr := d.sl.groups.at g
  let stopped := gr.upStopped
  let d1 := onGroup g (fun x => { x with grant := some r, link := .granted, retraining := false, attempt := 0 }) d
  if !l.credited then
    let start (x : Ledger) : Ledger :=
      { x with credited := true, expect := c.nextGsn, commit := c.nextGsn - 1, ringPos := c.nextGsn, allow := r.allowance }
    let d2 := onLedger g start d1
    let lim := if stopped then c.nextGsn - 1 else d2.limitTerm g
    onLedger g (fun x => { x with granted := BitVec.ofNat 64 (sdiff c.nextGsn (lim + BitVec.ofNat 32 x.allow) + 1) })
      (onGroup g (fun x => { x with limit := lim }) d2)
  else
    let oldEnd := gr.limit + BitVec.ofNat 32 l.allow
    let ahead := precedes l.expect c.nextGsn
    let gap := if ahead then sdiff l.expect c.nextGsn else 0
    let d2 := onLedger g (fun x => { x with allow := r.allowance }) d1
    -- gap values beyond the old end are granted now: they count as granted before they are found missing
    let fresh := if precedes oldEnd (c.nextGsn - 1) && ahead then sdiff oldEnd (c.nextGsn - 1) else 0
    let d3 := openGap g gap d2
    let e := (d3.lg.at g).expect
    let least := e - 1 - BitVec.ofNat 32 r.allowance
    let asked := if stopped then (if precedes (c.nextGsn - 1) least then least else c.nextGsn - 1) else d3.limitTerm g
    let lim := if stopped || precedes gr.limit asked then asked else gr.limit
    let newEnd := lim + BitVec.ofNat 32 r.allowance
    let base := if fresh = 0 then oldEnd else c.nextGsn - 1
    let more := if precedes base newEnd then sdiff base newEnd else 0
    retireCredit g e oldEnd newEnd
      (onLedger g (fun x => { x with granted := x.granted + BitVec.ofNat 64 (fresh + more) })
        (onGroup g (fun x => { x with limit := lim }) d3))

/-- Send the CAP grant that answers an offer (R55), with its grant_status and its initial limit. A grant that refuses gives max_rate and
initial_limit as 0, which the manual leaves open (DESIGN CHOICE, notes/assumptions/17.md). -/
def sendGrant (g : Fin 4) (c : Cap) (status : Nat) (init : W32) (d : Dev) : Dev :=
  let a : Cap := { c with version := 0x0100, kind := 1, role := 1, group := BitVec.ofNat 8 g.val, port := BitVec.ofNat 8 d.self,
                          deviceId := Config.serial, status := BitVec.ofNat 16 status,
                          maxRate := if status = 0 then d.grantRate g c else 0, initLimit := if status = 0 then init else 0,
                          formatCount := (c.formats.filter formatDefined).length, formats := c.formats.filter formatDefined }
  slSend g (controlPacket g 1 c.streamId 0 0 d.now (capBytes a)) (onGroup g (fun x => { x with creditSent := x.limit }) d)

/-- An offer is answered (R56). A group that comes up stopped starts from its initial limit, next_gsn − 1, and then has the limit of
R76. -/
def answerOffer (g : Fin 4) (p : Packet) (d : Dev) : Dev :=
  let c := readCap p.payload
  let st := d.grantStatus g c
  if st ≠ 0 then sendGrant g c st 0 d
  else
    let d1 := grantChanged (onGroup g (fun x => { x with comeStopped := false, order := { x.order with gap := true } }) (applyGrant g c d))
    refreshLimit g (sendGrant g c 0 (if (d.sl.groups.at g).upStopped then c.nextGsn - 1 else (d1.sl.groups.at g).limit) d1)

/-! ## Credit (R58, R59, R77) -/

/-- Whether the RESUME condition of R77 holds on a group. -/
def Dev.mayResume (d : Dev) (g : Fin 4) : Bool :=
  let gr := d.sl.groups.at g
  match gr.stop, gr.grant with
  | some s, some r =>
    s.done && (!s.byReq || s.hostAllows) &&
      decide (slotsOf r.maxFrame + 2 ≤ sdiff (d.lg.at g).expect (gr.limit + 1)) &&
      !precedes (gr.limit + 1) (d.lg.at g).expect
  | _, _ => false

/-- Send a CREDIT with the limit as it stands, and RESUME where R77 sets it. -/
def sendCredit (g : Fin 4) (d : Dev) : Dev :=
  let gr := d.sl.groups.at g
  match gr.grant with
  | none => d
  | some r =>
    let res := gr.resumeSet || d.mayResume g
    let room := 8192 - (d.lg.at g).landing.length
    slSend g (controlPacket g 7 r.streamId 0 gr.limit d.now (leBytes 1 (bit res) ++ zeros 3 ++ leBytes 4 room))
      (onGroup g (fun x => { x with creditSent := x.limit, resumeSet := res }) d)

/-- A group of this head sends CREDIT: granted, in recorder role. -/
def Dev.credits (d : Dev) (g : Fin 4) : Bool :=
  d.live && !d.sl.player && (d.sl.groups.at g).link == .granted

/-- CREDIT_THRESHOLD: L has advanced by 32 slots since the last CREDIT. -/
def execCreditThreshold (g : Fin 4) (s : State) : Host.Outcome State Fault Refusal :=
  .next { s with
    dev := when (s.dev.credits g && decide (32 ≤ sdiff (s.dev.sl.groups.at g).creditSent (s.dev.sl.groups.at g).limit))
      (sendCredit g) s.dev }

/-- CREDIT_DELAY: 1 µs after a smaller advance. -/
def execCreditDelay (g : Fin 4) (s : State) : Host.Outcome State Fault Refusal :=
  .next { s with
    dev := when (s.dev.credits g && (s.dev.sl.groups.at g).creditSent != (s.dev.sl.groups.at g).limit) (sendCredit g) s.dev }

/-- CREDIT_KEEPALIVE: 50 µs after the last CREDIT. -/
def execCreditKeepalive (g : Fin 4) (s : State) : Host.Outcome State Fault Refusal :=
  .next { s with dev := when (s.dev.credits g) (sendCredit g) s.dev }

/-! ## Stops (R62 to R65, R498) -/

/-- The STOP_REQ of a stop. -/
def stopPacket (g : Fin 4) (s : StopSt) (sid : W16) (now : Nat) : Packet :=
  controlPacket g 8 sid 0 s.id now (leBytes 1 (bit s.portScope) ++ leBytes 1 s.reason)

/-- The head stops a group (R62): a fresh identifier, scope group where it owns the group (R63). With no grant in force the
stop is complete at once (R498). A stop in progress goes on; a group that is stopped by an exhaustion or by its sender is
stopped by the host as well (R65, R92). A data sender sends no STOP_REQ (R50): its port carries no stream in that is to stop. -/
def stopGroup (reason : Nat) (g : Fin 4) (d : Dev) : Dev :=
  let gr := d.sl.groups.at g
  let grant := if d.sl.player then none else gr.grant
  let fresh (ex done : Bool) (id : W32) : StopSt :=
    { id := id, reason := reason, portScope := !d.owns g, byReq := true, exhaustion := ex, done := done, hostAllows := false }
  let id := if d.sl.stopCtr = 0xFFFFFFFF then 1 else d.sl.stopCtr + 1
  let d1 := { d with sl := { d.sl with stopCtr := id } }
  match gr.stop with
  | some s =>
    if s.byReq then
      onGroup g (fun x => { x with resumeSet := false, stop := some { s with hostAllows := false } }) d
    else
      match grant with
      | none => onGroup g (fun x => { x with resumeSet := false, stop := some (fresh s.exhaustion true id) }) d1
      | some r =>
        let n := fresh s.exhaustion false id
        slSend g (stopPacket g n r.streamId d.now) (onGroup g (fun x => { x with resumeSet := false, stop := some n }) d1)
  | none =>
    match grant with
    | none => onGroup g (fun x => { x with stop := some (fresh false true id) }) d1
    | some r =>
      let n := fresh false false id
      slSend g (stopPacket g n r.streamId d.now) (onGroup g (fun x => { x with resumeSet := false, stop := some n }) d1)

/-- Stop each group named, then settle those that are stopped already. -/
def stopGroups (reason : Nat) (gs : List (Fin 4)) (d : Dev) : Dev :=
  let d1 := each (stopGroup reason) gs d
  each (fun g x => if ((x.sl.groups.at g).stop.map (·.done)).getD false then stopSettled g x else x) gs d1

/-- A stop of this head is in progress on a group that holds a grant. -/
def Dev.stopping (d : Dev) (g : Fin 4) : Option StopSt :=
  match (d.sl.groups.at g).stop, (d.sl.groups.at g).grant with
  | some s, some _ => if s.byReq && !s.done && !d.sl.player then some s else none
  | _, _ => none

/-- Repeat the STOP_REQ of a stop in progress (R62). -/
def stopRepeat (g : Fin 4) (d : Dev) : Dev :=
  match d.stopping g, (d.sl.groups.at g).grant with
  | some s, some r => slSend g (stopPacket g s r.streamId d.now) d
  | _, _ => d

/-- STOP_REQ_REPEAT. -/
def execStopReqRepeat (g : Fin 4) (s : State) : Host.Outcome State Fault Refusal :=
  .next { s with dev := when s.dev.live (stopRepeat g) s.dev }

/-- A stop that is not answered in time: logged, and the group retrains (R64). The cause is in no row of R70's table. -/
def stopTimeout (g : Fin 4) (d : Dev) : Dev :=
  match d.stopping g with
  | none => d
  | some s => retrain g (Config.free32 d.free) (drawn (logEvent 0x0207 (BitVec.ofNat 32 g.val) [s.id] d))

/-- STOP_TIMEOUT. -/
def execStopTimeout (g : Fin 4) (s : State) : Host.Outcome State Fault Refusal :=
  .next { s with dev := when s.dev.live (stopTimeout g) s.dev }

/-! ## Received packets (R68, R70, R75, R89) -/

/-- The last granted gsn of a group, L + A. -/
def Dev.lastGranted (d : Dev) (g : Fin 4) : W32 := (d.sl.groups.at g).limit + BitVec.ofNat 32 (d.lg.at g).allow

/-- A gap up to the revealed next gsn, `x`, and never beyond L + A (R89). -/
def revealGap (g : Fin 4) (x : W32) (d : Dev) : Dev :=
  let e := (d.lg.at g).expect
  let top := d.lastGranted g + 1
  let upto := if precedes top x then top else x
  if (d.lg.at g).credited && precedes e upto then
    onGroup g (fun y => { y with order := { y.order with gap := true } }) (openGap g (sdiff e upto) d)
  else d

/-- A bad packet: counted, and logged for the first in each second (R70). -/
def badPacket (g : Fin 4) (p : Packet) (d : Dev) : Dev :=
  let gr := d.sl.groups.at g
  let sec := d.now / 1000000000
  let d1 := onGroup g (fun x => { x with pktBad := x.pktBad + 1, badLogged := some sec }) d
  if gr.badLogged = some sec then d1
  else logEvent 0x0204 (BitVec.ofNat 32 g.val) [p.ptype.setWidth 32, p.gsn, (gr.pktBad + 1).setWidth 32] d1

/-- The take that a slot of a group falls in, as far as its arrival can tell. -/
def Dev.takeAt (d : Dev) (g : Fin 4) (gsn : W32) : Option Take :=
  (d.bound g).find? (fun t => precEq (tgetD t.openGsn gsn g.val) gsn &&
    !((tget t.endAt g.val).map (fun e => precEq e gsn)).getD false)

/-- A TRIGGER packet that lands on an owned, bound group is taken at once (R239). -/
def landTrigger (g : Fin 4) (p : Packet) (d : Dev) : Dev :=
  if p.ptype = 6 ∧ d.owns g then
    match d.takeAt g p.gsn with
    | some t => takeTrigger t 0 g.val p.word (BitVec.ofNat 16 (fieldAt p.payload 0 2)) (some p.timestamp) p.gsn d
    | none => d
  else d

/-- A packet from the data sender whose timestamp is earlier than one before it is logged (R52). -/
def noteStamp (g : Fin 4) (p : Packet) (d : Dev) : Dev :=
  let d1 := onGroup g (fun x => { x with lastTs := p.timestamp }) d
  if p.timestamp.ult (d.sl.groups.at g).lastTs then
    logEvent 0x0205 (BitVec.ofNat 32 g.val) [p.gsn, p.timestamp.setWidth 32, (p.timestamp >>> 32).setWidth 32] d1 else d1

/-- A packet lands (R73): its slot, its counts; a resumed group is no longer stopped (R77). -/
def landPacket (g : Fin 4) (p : Packet) (d : Dev) : Dev :=
  let d1 := onLedger g (fun l => { l with
    landing := l.landing ++ [{ pkt := p, state := 1, reason := 0 }], received := l.received + 1, resident := l.resident + 1,
    lastLand := some (p.gsn, p.timestamp) }) d
  landTrigger g p (onGroup g (fun x => { x with
    order := x.order.next p, stop := if x.resumeSet then none else x.stop, resumeSet := false }) d1)

/-- An over-run packet (R60, R84): counted, and its DATA bytes charged to its frame (R94). -/
def Ledger.overRun (l : Ledger) (p : Packet) : Ledger :=
  let l1 : Ledger := { l with overrun := l.overrun + 1, drops := tput l.drops 1 (tgetD l.drops 0 1 + 1)
                              dropBytes := tput l.dropBytes 1 (tgetD l.dropBytes 0 1 + BitVec.ofNat 64 (payloadBytes p)) }
  if 2 ≤ p.ptype.toNat ∧ p.ptype.toNat ≤ 4 then l1.lose p.frame (fun x => { x with ovr := x.ovr + dataBytes p }) else l1

/-- A slot-bearing packet that is new on the group: it lands, or is dropped (R60, R70, R75, R89). -/
def newSlot (g : Fin 4) (p : Packet) (d : Dev) : Dev :=
  if precedes (d.lastGranted g) p.gsn then onLedger g (·.overRun p) (revealGap g p.gsn d)
  else
    let d1 := revealGap g p.gsn d
    let l := d1.lg.at g
    let d2 := onLedger g (fun x => { x with expect := p.gsn + 1 }) d1
    let drop (reason : Nat) (x : Dev) : Dev :=
      onGroup g (fun y => { y with order := { y.order with gap := true } })
        (onLedger g (fun y => y.dropReceived (droppedSlot p reason) (payloadBytes p)) x)
    if d.owns g && !(d1.sl.groups.at g).order.ok true p then drop 2 (onGroup g (fun x => { x with pktBad := x.pktBad + 1 }) d2)
    else if l.landing.any (fun s => s.pkt.gsn.toNat % 8192 == p.gsn.toNat % 8192) then drop 4 d2
    else landPacket g p d2

/-- A slot-bearing packet that passed R70's checks (R68): DATA that arrives counts in the contract window whether it lands or not
(R35). -/
def slotPacket (g : Fin 4) (p : Packet) (d : Dev) : Dev :=
  let gr := d.sl.groups.at g
  if gr.grant.isNone || gr.link != .granted || d.sl.player then onGroup g (fun x => { x with pktBad := x.pktBad + 1 }) d
  else if precedes p.gsn (d.lg.at g).expect then onGroup g (fun x => { x with dup := x.dup + 1 }) d
  else newSlot g p (onGroup g (fun x => { x with winBytes := x.winBytes + dataBytes p }) (noteStamp g p d))

/-- A STOP_DONE (R62, R65, R89): it reveals the gap up to its last_gsn, and the stop is done; one that answers no STOP_REQ is
the sender's own stop, or an exhaustion: a new stop point, which ends a RESUME that was set (R77). -/
def stopDone (g : Fin 4) (p : Packet) (d : Dev) : Dev :=
  let cause := fieldAt p.payload 0 1
  let last := BitVec.ofNat 32 (fieldAt p.payload 4 4)
  let d1 := revealGap g (last + 1) d
  match (d1.sl.groups.at g).stop with
  | some s =>
    if s.byReq && !s.done && p.word == s.id then
      stopSettled g (onGroup g (fun x => { x with stop := some { s with done := true }, resumeSet := false }) d1)
    else if p.word = 0 then
      onGroup g (fun x => { x with stop := some { s with exhaustion := s.exhaustion || cause == 1 }, resumeSet := false }) d1
    else d1
  | none =>
    if p.word = 0 then
      onGroup g (fun x => { x with
        stop := some { id := 0, reason := 0, portScope := false, byReq := false, exhaustion := cause == 1, done := true,
                       hostAllows := false }, resumeSet := false }) d1
    else d1

/-- What a packet that fails a check does (R70). -/
def faultyPacket (g : Fin 4) (p : Packet) (f : PktFault) (d : Dev) : Dev :=
  match f with
  | .hcrc => onGroup g (fun x => { x with hdrErr := x.hdrErr + 1, crcRun := x.crcRun + 1 }) d
  | .kind => badPacket g p (onGroup g (fun x => { x with crcRun := 0 }) d)
  | .crc => onGroup g (fun x => { x with pktCrcErr := x.pktCrcErr + 1, crcRun := 0 }) d

/-- Whether a type is slot-bearing (R50). -/
def slotBearing (t : Byte) : Bool := decide (2 ≤ t.toNat ∧ t.toNat ≤ 6)

/-- A packet in recorder role. The head takes offers once the group holds codeword lock. -/
def receiveAsRecorder (g : Fin 4) (p : Packet) (d : Dev) : Dev :=
  if p.ptype = 1 then (if (readCap p.payload).kind = 0 then answerOffer g p (noteStamp g p d) else d)
  else if slotBearing p.ptype then slotPacket g p d
  else if p.ptype = 9 then (if (d.sl.groups.at g).link = .granted then stopDone g p (revealGap g p.gsn (noteStamp g p d)) else d)
  else if p.ptype = 0 then
    (if (d.sl.groups.at g).link = .granted then revealGap g p.gsn (noteStamp g p d) else noteStamp g p d)
  else d

/-- Whether packet `n` of a group's stream overlaps a bad block (R36, R38, R70). -/
def LineRx.spoilt (x : LineRx) : Bool := x.bad.any (fun k => decide ((packetBlocks x.count).1 ≤ k ∧ k ≤ (packetBlocks x.count).2))

/-- The next packet of a group's stream arrives (R39), on a group that holds codeword lock: discarded where it overlaps a bad block, else
R70's checks, then what `f` does with it. -/
def checked (g : Fin 4) (p : Packet) (f : Dev → Dev) (d0 : Dev) : Dev :=
  let x := d0.sl.groups.at g
  if linkIsUp x.link then
    let d := onGroup g (fun y => { y with rx := { count := x.rx.count + 1,
                                                  bad := x.rx.bad.filter (fun k => decide ((packetBlocks x.rx.count).2 ≤ k)) } }) d0
    if x.rx.spoilt then d
    else
      match d.checkPacket g p with
      | some e => faultyPacket g p e d
      | none => f (onGroup g (fun x => { x with crcRun := 0 }) d)
  else d0

/-- CAP_OFFER. -/
def execCapOffer (g : Fin 4) (p : Packet) (s : State) : Host.Outcome State Fault Refusal :=
  .next { s with
    dev := when (s.dev.live && !s.dev.sl.player && p.ptype == 1) (checked g p (receiveAsRecorder g p)) s.dev }

/-- STOP_DONE. -/
def execStopDone (g : Fin 4) (p : Packet) (s : State) : Host.Outcome State Fault Refusal :=
  .next { s with
    dev := when (s.dev.live && !s.dev.sl.player && p.ptype == 9) (checked g p (receiveAsRecorder g p)) s.dev }

/-- Blocks of a decoded message whose header bit is 0 (R37). -/
def zeroBlocks (msg : List Nat) : List Nat :=
  let b := symbolBits (msg.take 514)
  (List.range 20).filter (fun i => !b.getD (257 * i) true)

/-- Codeword `j` of a lane comes in with symbols in error (R36, R70): up to 15 are corrected and counted, and a block with H = 0 is bad
(R37); beyond that its 20 blocks are bad, and it is counted with the run and the window that it stands in. -/
def inCodeword (g : Fin 4) (lane : Fin 16) (j : Nat) (rx : List Nat) (d : Dev) : Dev :=
  let n := 16 * g.val + lane.val
  let blocks := codewordBlocks d.sl.rxLanes.length j lane.val
  let bad (l : List Nat) : Dev → Dev := onGroup g (fun x => { x with rx := { x.rx with bad := x.rx.bad ++ l } })
  match rsDecode rx with
  | some (msg, k) =>
    bad ((zeroBlocks msg).map (fun i => blocks.getD i 0)) (onLane n (fun l => { l with fecCorr := l.fecCorr + BitVec.ofNat 64 k }) d)
  | none =>
    bad blocks (onLane n (fun l => { l with
      fecUncorr := l.fecUncorr + 1, badRun := if l.lastBad.map (· + 1) = some j then l.badRun + 1 else 1, lastBad := some j
      badWin := l.badWin + 1 }) d)

/-- UNCORRECTABLE_CODEWORD: codeword `j` of a lane, as its symbols were received. -/
def execUncorrectableCodeword (g : Fin 4) (lane : Fin 16) (j : Nat) (rx : List Nat) (s : State) : Host.Outcome State Fault Refusal :=
  .next { s with
    dev := when (s.dev.live && linkIsUp (s.dev.sl.groups.at g).link && s.dev.hears lane) (inCodeword g lane j rx) s.dev }

/-- A retrain where the group is up. -/
def retrainIf (g : Fin 4) (cause : W32) (d : Dev) : Dev := if linkIsUp (d.sl.groups.at g).link then retrain g cause d else d

/-- Why a lane's errors make its group retrain: row 11 of R70's table for its window, row 10 for a run of three. -/
def Lane.fecCause (l : Lane) : Option W32 := if 16 < l.badWin then some 11 else if 3 ≤ l.badRun then some 10 else none

/-- FEC_RETRAIN: three consecutive uncorrectable codewords, or more than 16 in a window, on a lane that this end receives on. -/
def fecRetrain (g : Fin 4) (lane : Fin 16) (d : Dev) : Dev :=
  match (d.sl.lane (16 * g.val + lane.val)).fecCause with
  | some c => if d.hears lane then retrainIf g c d else d
  | none => d

/-- FEC_RETRAIN. -/
def execFecRetrain (g : Fin 4) (lane : Fin 16) (s : State) : Host.Outcome State Fault Refusal :=
  .next { s with dev := when s.dev.live (fecRetrain g lane) s.dev }

/-- HDR_CRC_RETRAIN: eight consecutive CRC-16 failures (row 4). -/
def execHdrCrcRetrain (g : Fin 4) (s : State) : Host.Outcome State Fault Refusal :=
  .next { s with dev := when (s.dev.live && decide (8 ≤ (s.dev.sl.groups.at g).crcRun)) (retrainIf g 4) s.dev }

/-- LOSS_OF_SIGNAL on a lane that this end receives on (row 10, R32). -/
def execLossOfSignal (g : Fin 4) (lane : Fin 16) (s : State) : Host.Outcome State Fault Refusal :=
  .next { s with dev := when (s.dev.live && s.dev.hears lane) (retrainIf g 10) s.dev }

/-! ## Heals (R90, R91) -/

/-- When the oldest gap of a group was found. -/
def Ledger.oldestHeal (l : Ledger) : Option Nat := (l.heals.map (·.found)).min?

/-- Consecutive runs of gsn values. -/
def runsOf : List W32 → List (List W32)
  | [] => []
  | a :: t =>
    match runsOf t with
    | (b :: r) :: rest => if b = a + 1 then (a :: b :: r) :: rest else [a] :: (b :: r) :: rest
    | _ => [[a]]

/-- Whether a heal's repeat is due: 40 µs after the gap was found for the first, 80 µs for the second (R90). -/
def Heal.due (now : Nat) (h : Heal) : Bool :=
  (h.tries == 1 && decide (h.found + 40000 ≤ now)) || (h.tries == 2 && decide (h.found + 80000 ≤ now))

/-- The heals whose repeat is due: where the clock shows none due, those of the oldest gap that has a repeat left. -/
def Ledger.dueHeals (l : Ledger) (now : Nat) : List Heal :=
  let due := l.heals.filter (Heal.due now)
  if due.isEmpty then
    let left := l.heals.filter (fun h => decide (h.tries < 3))
    left.filter (fun h => some h.found == (left.map (·.found)).min?)
  else due

/-- HEAL_REPEAT: what is unanswered 40 µs and 80 µs after it was found is asked for again (R90). -/
def healRepeat (g : Fin 4) (d : Dev) : Dev :=
  let miss := ((d.lg.at g).dueHeals d.now).map (·.gsn)
  each (askHeal g) (((runsOf miss).map (fun r => chunksOf 64 r.length r)).flatten) d

/-- HEAL_REPEAT. -/
def execHealRepeat (g : Fin 4) (s : State) : Host.Outcome State Fault Refusal :=
  .next { s with dev := when (s.dev.live && s.dev.owns g && s.dev.cover g) (healRepeat g) s.dev }

/-- HEAL_DEADLINE: what the oldest gap misses after 100 µs is dropped as lost-on-link, and the pipe goes on. -/
def healDeadline (g : Fin 4) (d : Dev) : Dev :=
  match (d.lg.at g).oldestHeal with
  | none => d
  | some at_ =>
    let late := ((d.lg.at g).heals.filter (fun h => h.found == at_)).map (·.gsn)
    consume g (each (dropHeal g) late d)

/-- HEAL_DEADLINE. -/
def execHealDeadline (g : Fin 4) (s : State) : Host.Outcome State Fault Refusal :=
  .next { s with dev := when s.dev.live (healDeadline g) s.dev }

/-! ## GROUP_CTL (R46, R267, R463) -/

/-- GROUP_CTL: disabling a group takes its link down; enabling one that is disabled or down starts link-up. Nothing runs on
SiethLink before the first lock (R458). -/
def doGroupCtl (h : Hdr) (g : Fin 4) (action : Nat) (d : Dev) : Dev :=
  if !d.glb.locked then complete h 0x18 8 0 0 d
  else if action = 0 then
    if (d.sl.groups.at g).link = .disabled then complete h 0x18 2 0 0 d
    else complete h 0x18 0 0 0 (onGroup g (fun x => { x with link := .disabled, retraining := false }) (loseGrant g d))
  else if !d.groupEn g then complete h 0x18 8 0 0 d
  else
    let st := (d.sl.groups.at g).link
    if st = .disabled ∨ st = .down then complete h 0x18 0 0 0 (linkUp g (onGroup g (fun x => { x with attempts := 0 }) d))
    else complete h 0x18 2 0 0 d

/-- GROUP_CTL. -/
def execGroupCtl (h : Hdr) (group action : Nat) (s : State) : Host.Outcome State Fault Refusal :=
  .next { s with
    dev := if hg : group < 4 then descriptor 0x18 [7] h (decide (action < 2)) (doGroupCtl h ⟨group, hg⟩ action) s.dev
           else descriptor 0x18 [7] h false id s.dev }

/-! ## The port's role (R69) -/

/-- Whether a group is stopped for a change of role (R69): a data receiver holds its STOP_DONE, a data sender has answered a STOP_REQ
or holds no grant. A group that is training, down or disabled carries no packets and counts as stopped (DESIGN CHOICE,
notes/assumptions/52.md). -/
def Dev.groupStopped (d : Dev) (g : Fin 4) : Bool :=
  let x := d.sl.groups.at g
  !linkIsUp x.link || (if d.sl.player then x.playDone.isSome || x.grant.isNone else (x.stop.map (·.done)).getD false)

/-- Whether the role may change: every group stopped, with no resident slot. -/
def Dev.roleFree (d : Dev) : Bool :=
  groupList.all (fun g => d.groupStopped g && (d.lg.at g).resident == 0) && !d.hif.chans.any (fun e => match e.2.job with
      | some (.play _) => true
      | _ => false)

/-- PORT_ROLE: BUSY while the conditions of R69 do not hold. -/
def doPortRole (h : Hdr) (player : Bool) (d : Dev) : Dev :=
  if !d.glb.locked || !d.roleFree then complete h 0x19 8 0 0 d
  else if d.sl.player = player ∧ d.sl.roleReq.isNone then complete h 0x19 2 0 0 d
  else complete h 0x19 0 0 0 { d with sl := { d.sl with roleReq := some player } }

/-- PORT_ROLE. -/
def execPortRole (h : Hdr) (role : Nat) (s : State) : Host.Outcome State Fault Refusal :=
  .next { s with dev := descriptor 0x19 [7] h (decide (role < 2)) (doPortRole h (role == 1)) s.dev }

/-- ROLE_CHANGE_APPLY: the head sends training frames on every group that SL_CFG enables, in the new role (R69, R458). -/
def applyRole (d : Dev) : Dev :=
  match d.sl.roleReq with
  | none => d
  | some p =>
    if d.roleFree then
      let d1 := { d with sl := { d.sl with player := p, roleReq := none } }
      each (fun g x => if x.groupEn g then
        linkUp g (onGroup g (fun y => { y with stop := none, playStop := none, playDone := none }) (loseGrant g x)) else x) groupList d1
    else d

/-- ROLE_CHANGE_APPLY. -/
def execRoleChangeApply (s : State) : Host.Outcome State Fault Refusal :=
  .next { s with dev := when s.dev.live applyRole s.dev }

end Sys2Proof.Machine
end

