-- ==== Sys2Proof/Machine/Ingest.lean ====
section
/-! DEFINITION. Takes opened, closed, triggered, snapshotted and deleted (R216 to R223, R236 to R241, R244, R247, R503). -/

namespace Sys2Proof.Machine
open Sys2Proof

/-! ## TAKE_OPEN (R218 to R220, R509) -/

/-- A part with nothing recorded. -/
def Part.blank (idx : Nat) (groups : BitVec 4) (mine : Bool) : Part :=
  { idx := idx, groups := groups, reg := none, records := 0, segments := [], entries := [], frames := [], metaIdx := 0,
    nextTile := .all 0, pagedEnts := 0, pagedFrames := 0, tilePageLoc := 0, tileFullLoc := 0, framePageLoc := 0,
    frameFullLoc := 0, closeDone := false, sealed_ := none, mine := mine, lent := false, due := none }

/-- Groups of a mask that a head owns. -/
def Dev.groupsOf (d : Dev) (mask : BitVec 4) (owner : Nat) : BitVec 4 :=
  BitVec.ofNat 4 ((groupList.map (fun g => if mask.getLsbD g.val && d.tango.owners.at g == owner then 2 ^ g.val else 0)).sum)

/-- Check 2: a named group that this head owns is bound to another take, or one that waits for the partner's part is to bind it; the take
that a successor follows does not bar it (R219, R223, R267). -/
def Dev.groupBusy (d : Dev) (r : OpenReq) (chan : Option Nat) : Bool :=
  groupList.any (fun g => r.groups.getLsbD g.val && d.owns g && (d.tango.partOpens.any (fun o => o.2.2.2.groups.getLsbD g.val) ||
    (d.bound g).any (fun t =>
      !(r.startFrame.isSome && t.chan == chan && t.groups == r.groups && t.state == .open_ && (d.bound g).length == 1))))

/-- The least ring of R238 for the groups named that this head owns (R509), at the rates granted. -/
def Dev.ringMinimum (d : Dev) (r : OpenReq) : Nat :=
  let rate := (groupList.map (fun g =>
    if r.groups.getLsbD g.val && d.owns g then ((d.sl.groups.at g).grant.map (fun x => x.rate * 125000)).getD 0 else 0)).sum
  reelMinimum rate r.preNs r.postNs

/-- Checks 1 to 6 of R218, which a head makes where it owns a named group (R509): the first that fails. A class L page that holds no key
has no KCV (check 4; DESIGN CHOICE, notes/assumptions/70.md); a take whose tiles are encrypted cannot open while CIPH_EN is clear
(R166). -/
def Dev.openCheck (d : Dev) (r : OpenReq) (chan : Option Nat) (v : Volume) : Option Nat :=
  let slotKey := ((tget d.ciph.hkeys r.hkey).map (·.key)).getD []
  let pg := d.page r.page
  if d.groupsOf r.groups d.self = 0 then none
  else if ((d.layout v.layout).map (·.kind == 1)).getD false then some 8
  else if d.groupBusy r chan then some 8
  else if r.page = 255 ∧ (d.regs.ciphCfg.getLsbD 1 ∨ v.encrypted) then some 0x0E
  else if (r.page ≠ 255 ∧ (pg.state ≠ .ready ∨ pg.kcv ≠ v.kcv)) ∨ slotKey.isEmpty ∨ dkcvOf slotKey ≠ v.dkcv then some 6
  else if r.page ≠ 255 ∧ !d.ciphOn then some 8
  else if !r.reel && d.freeMr.isNone then some 8
  else if r.reel ∧ r.ringN < d.ringMinimum r then some 0x0D
  else none

/-- A take as it opens: its parts, where it begins on each of this head's groups, the chain of the part that this head writes or its ring
(R160, R219, R220, R238). `parts` names each part by its groups. -/
def openTake (r : OpenReq) (v : Volume) (id : Nat) (chan : Option Nat) (domain : Nat) (parts : List (Nat × BitVec 4)) (d : Dev) : Dev :=
  let mine := parts.filter (fun p => p.1 == d.self)
  let ring : ReelSt := { n := r.ringN, preNs := r.preNs, postNs := r.postNs, limit := r.segLimit,
                         minimum := if mine.isEmpty then 0 else d.ringMinimum r, stripes := [], segs := [], nextSeg := 1 }
  let t : Take :=
    { volume := r.volume, id := id, layout := d.writeLayout v, state := .open_, groups := r.groups, chan := chan, domain := domain,
      page := r.page, kcv := if r.page = 255 then 0 else v.kcv, hkey := r.hkey, dedup := r.dedup, start := r.startFrame,
      limitFrame := none, openGsn := groupList.map (fun g => (g.val, (d.lg.at g).expect)), begun := 0, ended := 0,
      endAt := [], stage := 0, parts := parts.map (fun p => Part.blank p.1 p.2 (p.1 == d.self)), pending := [],
      openTime := r.openTime, closeTime := 0, reason := 0, reel := if r.reel then some ring else none, closeHdr := none, addenda := [], lossDue := [],
      replica := false, told := true, away := false, adopted := false, undone := false, erased := false }
  let d1 := onCat (fun c => { c with takes := c.takes ++ [t] }) d
  if !r.reel then mine.foldl (fun x p => openChain r.volume id p.1 x) d1
  else
    match if mine.isEmpty then none else d1.layout (d.writeLayout v) with
    | some l =>
      let a := allocRing l r.ringN [] d1
      onReel r.volume id (fun q => { q with stripes := a.2 }) a.1
    | none => d1

/-- The parts of a take: part 0 of head A's groups, part 1 of head B's (R219). -/
def Dev.partsOf (d : Dev) (groups : BitVec 4) : List (Nat × BitVec 4) :=
  [(0, d.groupsOf groups 0), (1, d.groupsOf groups 1)].filter (fun p => p.2 != 0)

/-- Bits [30:0] of the next take_id that this head gives in a volume: a count that wraps, passing over the take_id 0 (R216). -/
def Dev.takeCount (d : Dev) (v : Volume) : Nat :=
  let n := (if d.glb.headB then v.ctrB else v.ctrA) % 2 ^ 31
  if n = 0 ∧ !d.glb.headB then 1 else n

/-- Set this head's counter of a volume. -/
def setTakeCount (v n : Nat) (d : Dev) : Dev :=
  onVolume v (fun x => if d.glb.headB then { x with ctrB := n % 2 ^ 31 } else { x with ctrA := n % 2 ^ 31 }) d

/-- The next take_id of this head in a volume, and the counter moved on (R216). -/
def nextTakeId (v : Volume) (d : Dev) : Nat × Dev :=
  (d.self * 2 ^ 31 + d.takeCount v, setTakeCount v.id (d.takeCount v + 1) d)

/-- The take_id of a TAKE_OPEN that is undone is not consumed (R270): it is the next again, unless a later one has been given since. -/
def giveBack (v id : Nat) (d : Dev) : Dev :=
  match d.volume v with
  | some x => if d.takeCount x = (id + 1) % 2 ^ 31 then setTakeCount v id d else d
  | none => d

/-- A register held for a take that waits for its partner's part (R160, R219). -/
def holdMr (r : OpenReq) (id : Nat) (d : Dev) : Dev :=
  if r.reel ∨ d.groupsOf r.groups d.self = 0 then d
  else
    match d.freeMr with
    | some n => assignMr n r.volume id d.self d
    | none => d

/-- Registers held for a take are free again. -/
def unholdMr (v id : Nat) (d : Dev) : Dev :=
  { d with dgst := { d.dgst with owner := d.dgst.owner.filter (fun e => !(e.2.1 == v && e.2.2.1 == id)) } }

/-- Every part of a take is open: TAKE_OPEN completes with take_id and parts. -/
def takeIsOpen (h : Hdr) (r : OpenReq) (v : Volume) (id : Nat) (d : Dev) : Dev :=
  let parts := d.partsOf r.groups
  complete h 0x40 0 (BitVec.ofNat 64 id) (BitVec.ofNat 64 ((parts.map (fun p => 2 ^ p.1)).sum))
    (openTake r v id (some h.chan) (d.domain h.chan) parts (unholdMr r.volume id d))

/-- A TAKE_OPEN that waits for its partner's part is undone with a status (R270): its register is free. In a session a DELETED record
tells the partner to remove the part that it may have opened, and the take_id is the next again once it has been told. -/
def undoPart (o : Hdr × Nat × Nat × OpenReq) (status : Nat) (d : Dev) : Dev :=
  let r := o.2.2.2
  let d1 := unholdMr r.volume o.2.1 (onTango (fun t => { t with partOpens := t.partOpens.erase o }) d)
  complete o.1 0x40 status 0 0 (match d1.volume r.volume with
    | none => d1
    | some v =>
      if d.tango.session then
        onTake r.volume o.2.1 (fun t => { t with state := .deleted, told := false, undone := true })
          (openTake { r with reel := false, groups := 0 } v o.2.1 none 64 [] d1)
      else giveBack r.volume o.2.1 d1)

/-- Field checks of a TAKE_OPEN (R218, R267). -/
def Dev.openValid (d : Dev) (r : OpenReq) : Bool :=
  r.groups != 0 && decide (r.page = 255 ∨ (48 ≤ r.page ∧ r.page < 64)) &&
    (if r.reel then decide (1 ≤ r.segLimit ∧ r.segLimit ≤ 256)
     else decide (r.ringN = 0 ∧ r.segLimit = 0 ∧ r.preNs = 0 ∧ r.postNs = 0)) &&
    (match d.volume r.volume with
     | some v => r.page == 255 || v.encrypted
     | none => false)

/-- TAKE_OPEN. The partner opens the part of its groups, and its status is waited for; a group that no head owns, or whose
owner this head has no session with, cannot be opened yet. -/
def doTakeOpen (h : Hdr) (r : OpenReq) (d : Dev) : Dev :=
  match d.volume r.volume with
  | none => complete h 0x40 0x10 0 0 d
  | some v =>
    let dom := d.domain h.chan
    let pageBad := decide (r.page ≠ 255) && ((d.page r.page).domain != dom || (d.page r.page).state == .free)
    let keyBad := ((tget d.ciph.hkeys r.hkey).map (fun k => k.domain != dom)).getD false
    let far := d.groupsOf r.groups (1 - d.self)
    let near := d.groupsOf r.groups d.self
    if pageBad || keyBad then complete h 0x40 0x0E 0 0 d
    else if 2 ≤ (d.cat.takes.filter (fun t => t.active && t.chan == some h.chan)).length then complete h 0x40 8 0 0 d
    else
      match d.openCheck r (some h.chan) v with
      | some st => complete h 0x40 st 0 0 d
      | none =>
        let n := nextTakeId v d
        if near ||| far ≠ r.groups ∨ (far ≠ 0 ∧ !d.tango.session) then complete h 0x40 8 0 0 d
        else if far = 0 then takeIsOpen h r v n.1 n.2
        else
          let d1 := onTango (fun t => { t with partOpens := t.partOpens ++ [(h, n.1, 1 - d.self, r)] }) (holdMr r n.1 n.2)
          tangoSend 0 (.takePart { r with groups := far } v.kcv v.dkcv n.1 (1 - d.self)) d1

/-- TAKE_OPEN. -/
def execTakeOpen (h : Hdr) (r : OpenReq) (s : State) : Host.Outcome State Fault Refusal :=
  .next { s with dev := descriptor 0x40 [1] h (s.dev.openValid r) (doTakeOpen h r) s.dev }

/-! ## TAKE_CLOSE (R223, R247) -/

/-- The newest take of an INGEST channel with a take_id. -/
def Dev.chanTake (d : Dev) (c id : Nat) : Option Take := d.cat.takes.find? (fun t => t.chan == some c && t.id == id)

/-- The groups of a take. -/
def Take.groupsList (t : Take) : List (Fin 4) := groupList.filter t.hasGroup

/-- Close a take by a stop: its groups are stopped, and it ends with the last frame landed (R223, R92). -/
def closeByStop (t : Take) (reason : Nat) (time : W64) (h : Option Hdr) (d : Dev) : Dev :=
  let d1 := onTake t.volume t.id (fun x => { x with state := .closing, reason := reason, closeTime := time, closeHdr := h }) d
  advanceTake t.volume t.id (stopGroups 1 t.groupsList d1)

/-- Whether a take may be the successor that a SPLIT names. -/
def isSuccessor (t : Take) (s : Take) : Bool :=
  s.state == .open_ && s.start.isSome && s.groups == t.groups && s.volume == t.volume

/-- TAKE_CLOSE. -/
def doTakeClose (h : Hdr) (id mode successor : Nat) (time : W64) (d : Dev) : Dev :=
  match d.chanTake h.chan id with
  | none => complete h 0x41 9 0 0 d
  | some t =>
    if t.active && t.away then complete h 0x41 0x0E 0 0 d
    else if t.state ≠ .open_ then complete h 0x41 2 0 0 d
    else if mode = 0 then closeByStop t 0 time (some h) d
    else
      match d.chanTake h.chan successor with
      | none => complete h 0x41 9 0 0 d
      | some s =>
        if s.begun ≠ 0 then complete h 0x41 8 0 0 d
        else if !isSuccessor t s || s.id == t.id then complete h 0x41 0x10 0 0 d
        else
          let d1 := onTake t.volume t.id (fun x => { x with
            state := .closing, reason := 1, closeTime := time, closeHdr := some h, limitFrame := s.start }) d
          advanceTake t.volume t.id (each consume (t.groupsList.filter d.owns) d1)

/-- TAKE_CLOSE. -/
def execTakeClose (h : Hdr) (takeId mode successor : Nat) (closeTime : W64) (s : State) : Host.Outcome State Fault Refusal :=
  .next { s with
    dev := descriptor 0x41 [1] h (decide (mode = 1 ∨ (mode = 0 ∧ successor = 0)))
      (doTakeClose h takeId mode successor closeTime) s.dev }

/-- The takes of an INGEST channel that is destroyed close with close_reason 2 (R92, R272). -/
def closeChannel (c : Nat) (d : Dev) : Dev :=
  d.cat.takes.foldl (fun x t =>
    if t.chan = some c ∧ t.state = .open_ then closeByStop t 2 0 none x else x) d

/-! ## STOP and RESUME (R77, R503) -/

/-- STOP: completes once every named group is stopped. -/
def doStop (h : Hdr) (groups : BitVec 4) (d : Dev) : Dev :=
  let gs := groupList.filter (fun g => groups.getLsbD g.val)
  let d1 := { d with sl := { d.sl with stopWaits := d.sl.stopWaits ++ [(h, groups)] } }
  if gs.isEmpty then complete h 0x44 0 0 0 d else stopGroups 0 gs d1

/-- STOP. -/
def execStop (h : Hdr) (groups : BitVec 4) (s : State) : Host.Outcome State Fault Refusal :=
  .next { s with dev := descriptor 0x44 [1] h true (doStop h groups) s.dev }

/-- RESUME: the host lets each named group with a stop in force resume. -/
def doResume (h : Hdr) (groups : BitVec 4) (d : Dev) : Dev :=
  let gs := groupList.filter (fun g => groups.getLsbD g.val && (d.sl.groups.at g).stop.isSome)
  if gs.isEmpty then complete h 0x43 2 0 0 d
  else
    let allow (g : Fin 4) (x : Dev) : Dev :=
      onGroup g (fun y => { y with stop := y.stop.map (fun s => { s with hostAllows := true }) }) x
    complete h 0x43 0 0 0 (each allow gs d)

/-- RESUME. -/
def execResume (h : Hdr) (groups : BitVec 4) (s : State) : Host.Outcome State Fault Refusal :=
  .next { s with dev := descriptor 0x43 [1] h true (doResume h groups) s.dev }

/-! ## Triggers (R239, R241, R503) -/

/-- The pin rule: the time and the gsn of the last slot landed from the link since the take opened, on the lowest-numbered
bound group that this head owns. -/
def Dev.pinRule (d : Dev) (t : Take) (since : Nat) : Option (W64 × W32) :=
  match d.pinGroup t with
  | none => none
  | some g =>
    match (d.lg.at g).lastLand with
    | some (gsn, ts) =>
      if precEq (tgetD t.openGsn gsn g.val) gsn then some (ts + BitVec.ofNat 64 since, gsn) else none
    | none => none

/-- The outcome that a trigger has (R229). -/
def Dev.triggerOutcome (d : Dev) (t : Take) (time : Option W64) : Nat :=
  match d.layoutOf t, time with
  | some l, some x => (pinTrigger l t x d).2.1
  | _, _ => 5

/-- TRIGGER. -/
def doTrigger (h : Hdr) (id : Nat) (trigId : W32) (time : W64) (since : Nat) (d : Dev) : Dev :=
  match d.chanTake h.chan id with
  | none => complete h 0x42 9 0 0 d
  | some t =>
    if t.active && t.away then complete h 0x42 0x0E 0 0 d
    else if t.state ≠ .open_ then complete h 0x42 2 0 0 d
    else
      let rule := d.pinRule t since
      let at_ := if time = 0 then rule.map (·.1) else some time
      let place : W32 := (rule.map (·.2)).getD 0
      complete h 0x42 0 (BitVec.ofNat 64 (d.triggerOutcome t at_)) 0 (takeTrigger t 2 255 trigId 0 at_ place d)

/-- TRIGGER. -/
def execTrigger (h : Hdr) (takeId : Nat) (trigId : W32) (time : W64) (sinceLanding : Nat) (s : State) :
    Host.Outcome State Fault Refusal :=
  .next { s with dev := descriptor 0x42 [1] h true (doTrigger h takeId trigId time sinceLanding) s.dev }

/-- A falling edge on TRIG_IN: a trigger of every open take that this head records. -/
def trigIn (since : Nat) (d : Dev) : Dev :=
  let ts := d.cat.takes.filter (fun t => t.state == .open_ && !t.replica)
  if ts.isEmpty then d
  else
    let n := d.cat.trigIns + 1
    ts.foldl (fun x t =>
      let rule := x.pinRule t since
      takeTrigger t 1 255 n 0 (rule.map (·.1)) ((rule.map (·.2)).getD 0) x) (onCat (fun c => { c with trigIns := n }) d)

/-- TRIG_IN. -/
def execTrigIn (sinceLanding : Nat) (s : State) : Host.Outcome State Fault Refusal :=
  .next { s with dev := when s.dev.working (trigIn sinceLanding) s.dev }

/-- TRIG_OUT_END: the pulse of 1 µs ends. -/
def execTrigOutEnd (s : State) : Host.Outcome State Fault Refusal :=
  .next { s with dev := { s.dev with glb := { s.dev.glb with trigOut := false } } }

/-! ## Snapshots (R237) -/

/-- The committed point of a take, part by part. -/
def Dev.snapRows (d : Dev) (t : Take) : List (Nat × Nat × Nat × Nat × W384 × Nat) :=
  t.parts.map (fun p =>
    (t.id, p.idx, p.entries.length, p.frames.length, (p.reg.map d.mr).getD ((p.sealed_.map (·.1)).getD 0), p.records))

/-- Make a snapshot: at most 1,024 in the vault. A metadata commit starts (R234). -/
def makeSnap (h : Hdr) (op : Byte) (volume : Nat) (ts : List Take) (d : Dev) : Dev :=
  if 1024 ≤ d.cat.snaps.length then complete h op 8 0 0 d
  else
    let id := d.cat.nextSnap
    let s : Snap := { id := id, volume := volume, takes := (ts.map d.snapRows).flatten }
    complete h op 0 (BitVec.ofNat 64 id) 0 (startCommit [] (onCat (fun c => { c with snaps := c.snaps ++ [s], nextSnap := id + 1 }) d))

/-- SNAP_TAKE. -/
def doSnapTake (h : Hdr) (id : Nat) (d : Dev) : Dev :=
  match d.chanTake h.chan id with
  | none => complete h 0x45 9 0 0 d
  | some t =>
    if t.active && t.away then complete h 0x45 0x0E 0 0 d
    else if t.state = .open_ then makeSnap h 0x45 t.volume [t] d
    else if t.state = .closing then complete h 0x45 8 0 0 d
    else complete h 0x45 2 0 0 d

/-- SNAP_TAKE. -/
def execSnapTake (h : Hdr) (takeId : Nat) (s : State) : Host.Outcome State Fault Refusal :=
  .next { s with dev := descriptor 0x45 [1] h true (doSnapTake h takeId) s.dev }

/-- SNAP_VOLUME. -/
def doSnapVolume (h : Hdr) (v : Nat) (d : Dev) : Dev :=
  if (d.volume v).isNone then complete h 0x14 0x10 0 0 d
  else makeSnap h 0x14 v (d.cat.takes.filter (fun t => t.volume == v && t.state != .deleted)) d

/-- SNAP_VOLUME. -/
def execSnapVolume (h : Hdr) (volume : Nat) (s : State) : Host.Outcome State Fault Refusal :=
  .next { s with dev := descriptor 0x14 [7] h true (doSnapVolume h volume) s.dev }

/-! ## Releasing and deleting (R235, R236) -/

/-- Whether a read of a snapshot runs. -/
def Dev.readsSnap (d : Dev) (s : Nat) : Bool :=
  d.hif.chans.any (fun e => match e.2.job with
    | some (.read j) => j.snap == some s
    | some (.play j) => j.snap == some s
    | some (.send j) => j.snap == some s
    | _ => false)

/-- Remove a snapshot. -/
def dropSnap (s : Nat) (d : Dev) : Dev := purgeTakes (onCat (fun c => { c with snaps := c.snaps.filter (fun x => x.id != s) }) d)

/-- Releases that waited for a read of their snapshot go on. -/
def settleSnaps (d : Dev) : Dev :=
  let ready := d.cat.snapWaits.filter (fun w => !d.readsSnap w.2)
  each (fun w x => complete w.1 0x15 0 0 0 (dropSnap w.2 x)) ready
    (purgeTakes (onCat (fun c => { c with snapWaits := c.snapWaits.filter (fun w => d.readsSnap w.2) }) d))

/-- SNAP_RELEASE: it waits for a read of the snapshot (R247). -/
def doSnapRelease (h : Hdr) (s : Nat) (d : Dev) : Dev :=
  if !d.cat.snaps.any (·.id == s) then complete h 0x15 2 0 0 d
  else settleSnaps (onCat (fun c => { c with snapWaits := c.snapWaits ++ [(h, s)] }) d)

/-- SNAP_RELEASE. -/
def execSnapRelease (h : Hdr) (snapId : Nat) (s : State) : Host.Outcome State Fault Refusal :=
  .next { s with dev := descriptor 0x15 [7] h true (doSnapRelease h snapId) s.dev }

/-- Delete a segment of a Reel take: in a metadata commit, after which its pinned stripes are freed (R236, R240). -/
def deleteSegment (h : Hdr) (t : Take) (r : ReelSt) (seg : Nat) (d : Dev) : Dev :=
  match r.segs.find? (fun s => s.id == seg && s.gone == 0) with
  | none => complete h 0x13 2 0 0 d
  | some s =>
    if !s.closed || s.reg.isSome || d.readsTake t.volume t.id then complete h 0x13 8 0 0 d
    else complete h 0x13 0 0 0 (startCommit [] (onSegment t.volume t.id seg (fun x => { x with gone := 1 }) d))

/-- TAKE_DELETE (R236, R247): a metadata commit removes the take record, and then its stripes are freed. -/
def doTakeDelete (h : Hdr) (v id seg : Nat) (d : Dev) : Dev :=
  match (d.take v id).filter (fun t => t.state != .deleted) with
  | none => complete h 0x13 2 0 0 d
  | some t =>
    match if seg = 0 then none else t.reel with
    | some r => deleteSegment h t r seg d
    | none =>
      if t.active || d.readsTake v id then complete h 0x13 8 0 0 d
      else
        complete h 0x13 0 0 0 (startCommit [] (deleteTake t d))

/-- TAKE_DELETE. -/
def execTakeDelete (h : Hdr) (volume takeId segId : Nat) (s : State) : Host.Outcome State Fault Refusal :=
  .next { s with dev := descriptor 0x13 [7] h true (doTakeDelete h volume takeId segId) s.dev }

/-! ## VERIFY_SEAL (R244) -/

/-- The public key of the certificate that a head signs with, by its serial number: this head's, or the partner's as its HELLO showed it;
a seal of another signer does not verify (DESIGN CHOICE, notes/assumptions/73.md). -/
def Dev.signerKey (d : Dev) (serial : W64) : Option (List Byte) :=
  if serial = Config.serial then d.boot.identity.map (fun x => Config.leafKey x)
  else (d.tango.partner.filter (fun m => m.serial == serial)).map (fun m => Config.leafKey m.certs)

/-- Whether a part's links follow one another within its tile records (R164). -/
def linksOk : Nat → Nat → List (W64 × Nat) → Bool
  | _, _, [] => true
  | least, most, s :: rest => decide (least ≤ s.2 ∧ s.2 ≤ most) && linksOk s.2 most rest

/-- The status of one part: its rebuilt chain and the signature over its seal. -/
def verifyPart (d : Dev) (t : Take) (p : Part) : Nat :=
  match p.sealed_ with
  | none => 0x0C
  | some (chain, sig) =>
    if linksOk 0 p.records (p.segments.drop 1) ∧ rebuildChain t p = chain ∧
        (d.signerKey p.signer).any (fun k => ecdsaVerify k (sha384 (sealBody t.volume t.id p t.closeTime chain)) sig) then 0 else 6

/-- The status of a segment's seal. -/
def verifySegment (d : Dev) (t : Take) (s : Segment) : Nat :=
  match s.sealed_, t.parts.find? (·.mine) with
  | some (chain, sig), some pt =>
    let es := segEntries t s
    let q : Part := { pt with entries := es, frames := s.frames, records := es.length, segments := [(Config.serial, 2 ^ 64 - 1)] }
    let ct : W64 := if s.reason = 5 then t.closeTime else 0
    if rebuildChain { t with closeTime := ct } q = chain ∧
        (d.signerKey q.signer).any (fun k => ecdsaVerify k (sha384 (sealBody t.volume t.id q ct chain)) sig) then 0 else 6
  | _, _ => 0x0C

/-- The parts that verify, as VERIFY_SEAL returns them. -/
def verifiedParts (d : Dev) (t : Take) : Nat := partBits t (fun p => verifyPart d t p == 0)

/-- VERIFY_SEAL: the first status that is not OK, part by part, and the parts that verified. -/
def doVerifySeal (h : Hdr) (v id seg : Nat) (d : Dev) : Dev :=
  match (d.take v id).filter (fun t => t.state != .deleted) with
  | none => complete h 0x16 0x10 0 0 d
  | some t =>
    if seg ≠ 0 then
      match t.reel.bind (fun r => r.segs.find? (fun s => s.id == seg && s.gone == 0)) with
      | none => complete h 0x16 0x10 0 0 d
      | some s =>
        let st := if s.closed then verifySegment d t s else 8
        let part := ((t.parts.find? (·.mine)).map (·.idx)).getD 0
        complete h 0x16 st (if st = 0 then BitVec.ofNat 64 (2 ^ part) else 0) 0 d
    else if t.state ≠ .closed_ then complete h 0x16 8 0 0 d
    else complete h 0x16 (((t.parts.map (verifyPart d t)).find? (· != 0)).getD 0) (BitVec.ofNat 64 (verifiedParts d t)) 0 d

/-- VERIFY_SEAL. -/
def execVerifySeal (h : Hdr) (volume takeId segId : Nat) (s : State) : Host.Outcome State Fault Refusal :=
  .next { s with dev := descriptor 0x16 [7] h true (doVerifySeal h volume takeId segId) s.dev }

end Sys2Proof.Machine
end

