-- ==== Sys2Proof/Machine/Replay.lean ====
section
/-! DEFINITION. Replay and playout: stored tiles read back (R197, R242), the decode path's checks (R124), READ (R243, R500),
PLAY and the port in player role (R67, R245, R307), and the packets that any role receives (R70). -/

namespace Sys2Proof.Machine
open Sys2Proof

/-! ## What a read names (R242, R267) -/

/-- The take that a read names, with its entries and frames as they are committed. -/
structure Source where
  volume  : Nat
  takeId  : Nat
  layout  : Nat
  part    : Nat
  entries : List Entry
  frames  : List FrameRec
  snap    : Option Nat
deriving DecidableEq, Repr

/-- A take, part and segment or snapshot by the fields of a descriptor: none where it names nothing that exists. -/
def Dev.source (d : Dev) (volume kind part target segId : Nat) : Option Source :=
  if kind = 2 then
    match d.cat.snaps.find? (fun s => s.id == target && s.volume == volume) with
    | none => none
    | some s =>
      match s.takes.find? (fun r => r.2.1 == part) with
      | none => none
      | some r =>
        match (d.take volume r.1).bind (fun t => (t.part part).map (fun p => (t, p))) with
        | some (t, p) =>
          some { volume := volume, takeId := t.id, layout := t.layout, part := part, entries := p.entries.take r.2.2.1,
                 frames := p.frames.take r.2.2.2.1, snap := some s.id }
        | none => none
  else
    match (d.take volume target).bind (fun t => if t.state = .deleted then none else (t.part part).map (fun p => (t, p))) with
    | none => none
    | some (t, p) =>
      if kind = 1 then
        match t.reel.bind (fun r => r.segs.find? (fun s => s.id == segId && s.gone == 0)) with
        | some s => some { volume := volume, takeId := t.id, layout := t.layout, part := part, entries := p.entriesOf s.frames,
                           frames := s.frames, snap := none }
        | none => none
      else
        let m := ((d.layoutOf t).map (fun l => t.mapOf l p)).getD (p.entries, p.frames)
        some { volume := volume, takeId := t.id, layout := t.layout, part := part, entries := m.1, frames := m.2, snap := none }

/-- The READY class L page that decrypts a volume for a domain (R500): `none` where there is none; `some none` for a volume
that is not encrypted. -/
def Dev.decryptPage (d : Dev) (v : Volume) (domain : Nat) : Option (Option Nat) :=
  if v.encrypted then
    (((List.range 16).map (· + 48)).find? (fun p => (d.page p).state == .ready && (d.page p).domain == domain && (d.page p).kcv == v.kcv)).map some
  else some none

/-- The key slot that holds a volume's dedup key, by its check value (R116, R218). -/
def Dev.dedupSlot (d : Dev) (v : Volume) : Option Nat :=
  (d.ciph.hkeys.find? (fun e => !e.2.key.isEmpty && dkcvOf e.2.key == v.dkcv)).map (·.1)

/-- Whether a pipe's decode path is on (R127). -/
def Dev.decOn (d : Dev) (pipe : Nat) : Bool := if h : pipe < 4 then d.pipeBit ⟨pipe, h⟩ 1 else false

/-! ## The decode path (R124) -/

/-- How one tile came out: its status, the step of R124 that failed, its raw bytes, and its stored bytes where it passed. -/
structure TileRes where
  status : Nat
  step   : Nat
  raw    : List Byte
  stored : List Byte
deriving DecidableEq, Repr

/-- Raw length of a frame tile from its frame's record (R226); of another tile, what its header says. -/
def rawLength (frames : List FrameRec) (e : Entry) (fallback : Nat) : Nat :=
  match frames.find? (fun f => tileOfFrame f e) with
  | some f => min 65536 (f.recorded - (seqIndex e.tileSeq - f.firstTile) * 65536)
  | none => fallback

/-- The checks of R124, in order, on the stored bytes of an entry of a take. With no key slot that holds the volume's dedup key step 5
recomputes the fingerprint under an empty key, so that the tile fails there; and where an invalid header leaves a tile's raw length
unknown, the bytes zeroed are a free number (DESIGN CHOICE, notes/assumptions/63.md). A tile that needs the cipher engine is BUSY while
CIPH_EN is clear (R166). -/
def Dev.decode (d : Dev) (src : Source) (e : Entry) (page hkey : Option Nat) (stored : List Byte) : TileRes :=
  let h := readHdr stored
  let n := rawLength src.frames e (if hdrValid stored then h.raw else Config.freeNat d.free % 65536 + 1)
  let fail (status step : Nat) : TileRes := { status := status, step := step, raw := zeros n, stored := [] }
  if !hdrValid stored || stored.length < h.stored then fail 0x0C 1
  else if h.volume ≠ src.volume ∨ (!e.flags.getLsbD 0 ∧ (h.takeId ≠ src.takeId ∨ h.tileSeq ≠ e.tileSeq)) then fail 0x0C 2
  else
    let body := slice stored 128 (h.stored - 128)
    let kt := match page with
      | some p => if h.cipher = 2 then some (tileKey (d.page p).key h.nonce) else none
      | none => none
    let aad := stored.take 58 ++ zeros 16 ++ slice stored 74 54
    let authOk := match kt with
      | some k => gcmTag k (tileIv h.nonce) aad body == h.tag
      | none => h.cipher == 0
    if h.cipher = 2 ∧ !d.ciphOn then fail 8 3
    else if h.cipher = 2 ∧ (page.map (fun p => (d.page p).state != .ready)).getD false then fail 1 3
    else if !authOk then fail 6 3
    else
      let plain := match kt with
        | some k => gcmCrypt k (tileIv h.nonce) body
        | none => body
      match decodeBody h plain with
      | none => fail 0x0D 4
      | some raw =>
        if d.fingerprint (hkey.getD 0xFFFF) raw = h.fp then { status := 0, step := 0, raw := raw, stored := stored.take h.stored } else fail 0x0C 5

/-! ## Sectors (R181, R197, R506) -/

/-- The sectors of an entry in a layout: the stripe, the first data sector, and how many cover it (R115). -/
def coverOf (l : LayoutRec) (e : Entry) : Nat × Nat × Nat :=
  let p := l.ofLocation e.loc
  (p.1, p.2 / 4096, (p.2 % 4096 + e.storedLen + 4095) / 4096)

/-- A range of a stripe that a read covers within one data member: the member, the first row, and the sectors read of its rows, for each
row those of every member. -/
structure Range where
  member : Nat
  row    : Nat
  cols   : List (List SecRead)
deriving DecidableEq, Repr

/-- The ranges of the `n` data sectors from `j` on: a stored tile lies in one data strip or in two that follow each other. -/
def rangesOf (j n : Nat) (cols : List (List SecRead)) : List Range :=
  let a := min n (64 - j % 64)
  [{ member := j / 64, row := j % 64, cols := cols.take a : Range }] ++
    (if a < n then [{ member := j / 64 + 1, row := 0, cols := (cols.drop a).take (n - a) : Range }] else [])

/-- What the Read of a member's range brought; nothing where the member is lost to its drive. -/
def Dev.runOf (d : Dev) (l : LayoutRec) (s : Nat) (x : Range) (k : Nat) : List SecRead :=
  if d.erased l s k then [] else x.cols.map (fun y => (y[k]?).getD .unreadable)

/-- The sectors of a range, member by member, each valid or erased. -/
def Dev.rangeData (d : Dev) (l : LayoutRec) (s : Nat) (app : W16) (x : Range) : StripeData :=
  (List.range l.members).map (fun k =>
    let run := d.runOf l s x k
    (List.range x.cols.length).map (fun i => (run[i]?).bind (secValid app (l.tagOf s k (x.row + i)) (readFailed run))))

/-- Sectors of a range that fail R181 count for the drives of the members read (R213). -/
def countRange (l : LayoutRec) (s : Nat) (app : W16) (x : Range) (ks : List Nat) (d : Dev) : Dev :=
  ks.foldl (fun y k =>
    let run := d.runOf l s x k
    let n := ((run.zipIdx).filter (fun z => secFails app (l.tagOf s k (x.row + z.2)) (readFailed run) z.1)).length
    if n = 0 then y else countPi (d.memberAt l s k).1 n y) d

/-- The Reads of a range of some members on the decode queue (R171), those of gone drives left out (R199). -/
def Dev.runReads (d : Dev) (l : LayoutRec) (s : Nat) (app : W16) (row n : Nat) (ks : List Nat) : List Out :=
  (ks.filter (fun k => !d.erased l s k)).map (fun k =>
    let p := d.memberAt l s k
    .nvmeRead 2 p.1 (p.2 + row) n (l.tagOf s k row) (some app))

/-- Each sector of a Read that failed, again, alone (R506). -/
def Dev.againReads (d : Dev) (l : LayoutRec) (s : Nat) (app : W16) (x : Range) (ks : List Nat) : List Out :=
  (ks.filter (fun k => readFailed (d.runOf l s x k))).flatMap (fun k =>
    (List.range x.cols.length).flatMap (fun i => d.runReads l s app (x.row + i) 1 [k]))

/-- A range whose member has an erased sector (R197): the other members of the range are read, each row that has an erased sector is
reconstructed and what was erased is written back; a row with three or more is lost. Answers the range's bytes, or the status that ends
the tile. A range counts as lost row by row (DEDUCED, notes/assumptions/62.md). -/
def mendRange (l : LayoutRec) (s : Nat) (app : W16) (x : Range) (d : Dev) : Dev × Except Nat (List Byte) :=
  let m := d.rangeData l s app x
  let others := (List.range l.members).filter (fun k => k != x.member)
  let asked := if d.erased l s x.member then [] else d.runReads l s app x.row x.cols.length others
  let d1 := countRange l s app x others (emits (asked ++ d.againReads l s app x others) d)
  let rows := (List.range x.cols.length).map (fun i => (i, erasedOf (rowOf m i), reconstruct l.width 4096 (rowOf m i)))
  let gone := (List.range l.members).filter (fun k => rows.any (fun r => r.2.2.isNone && r.2.1.contains k))
  let d2 := if gone.isEmpty then d1 else loseStripe l s gone d1
  let d3 := rows.foldl (fun y r => match r.2.2 with
    | some all => r.2.1.foldl (fun z k => oweSector true l app s k (x.row + r.1) ((all[k]?).getD []) z) y
    | none => y) d2
  let n := ((rows.filter (fun r => r.2.2.isSome)).map (fun r => r.2.1.length)).sum
  let d4 := onVcnt (fun c => { c with recon := c.recon + BitVec.ofNat 64 n }) d3
  let got := rows.map (fun r => (((m[x.member]?).bind (·[r.1]?)).join).orElse (fun _ => r.2.2.bind (·[x.member]?)))
  (d4, match wholeStrip got with
    | some b => .ok b
    | none => .error 0x0C)

/-- One range of a read: its bytes, or the status that ends the tile (R197). Without reconstruction the first erased sector does. -/
def readRange (l : LayoutRec) (s : Nat) (app : W16) (noRecon : Bool) (x : Range) (d : Dev) : Dev × Except Nat (List Byte) :=
  let d1 := countRange l s app x [x.member] (emits (d.againReads l s app x [x.member]) d)
  match (((d.rangeData l s app x)[x.member]?).bind wholeStrip) with
  | some b => (d1, .ok b)
  | none => if noRecon then (d1, .error 0x0B) else mendRange l s app x d1

/-- The ranges of a tile, in order. -/
def readRanges (l : LayoutRec) (s : Nat) (app : W16) (noRecon : Bool) : List Range → Dev → Dev × Except Nat (List Byte)
  | [], d => (d, .ok [])
  | x :: t, d =>
    match readRange l s app noRecon x d with
    | (d1, .error e) => (d1, .error e)
    | (d1, .ok b) =>
      match readRanges l s app noRecon t d1 with
      | (d2, .error e) => (d2, .error e)
      | (d2, .ok rest) => (d2, .ok (b ++ rest))

/-! ## Reading one tile for a channel -/

/-- What a channel's job reads next. -/
structure Want where
  src     : Source
  entry   : Entry
  page    : Option Nat
  hkey    : Option Nat
  noRecon : Bool
deriving DecidableEq, Repr

/-- The source of a job from its take, as committed now: a snapshot keeps one that has been deleted (R237). -/
def Dev.jobSource (d : Dev) (volume takeId part : Nat) : Option Source :=
  (d.take volume takeId).bind (fun t => (t.part part).map (fun p =>
    { volume := volume, takeId := t.id, layout := t.layout, part := part, entries := p.entries, frames := p.frames, snap := none }))

/-- The tile that a PLAY reads next: its metadata tiles first, where it sends META records. -/
def PlayJob.next (j : PlayJob) : Option Entry :=
  match j.metaLeft with
  | e :: _ => some e
  | [] => if j.buf.isEmpty && j.opened then j.entries.head? else none

/-- What a channel's job reads next. -/
def Dev.want (d : Dev) (c : Nat) : Option Want :=
  match d.job c with
  | some (.read j) =>
    match j.todo.head?, d.jobSource j.volume j.takeId j.part with
    | some e, some s => some { src := s, entry := e, page := j.page, hkey := j.hkey, noRecon := j.flags.getLsbD 1 }
    | _, _ => none
  | some (.play j) =>
    match j.next, d.jobSource j.volume j.takeId j.part with
    | some e, some s => some { src := s, entry := e, page := j.page, hkey := j.hkey, noRecon := false }
    | _, _ => none
  | some (.send j) =>
    match j.tiles.head?, d.jobSource j.volume j.takeId j.part with
    | some (_, e), some s => some { src := s, entry := e, page := j.page, hkey := j.hkey, noRecon := false }
    | _, _ => none
  | _ => none

/-- Whether an entry is delivered without a read: LOST, or in a loss addendum (R242). -/
def Dev.knownLost (d : Dev) (s : Source) (e : Entry) : Bool :=
  e.flags.getLsbD 1 || ((d.take s.volume s.takeId).map (fun t => t.addenda.any (fun a => a.1 == e.tileSeq && a.2 == e.loc))).getD false

/-- The Reads of an entry's sectors (R197): of the data members that hold them; and of the others too, where a member is lost to its
drive, or where `all` asks for a reconstruction. -/
def Dev.readsOf (d : Dev) (l : LayoutRec) (volume : Nat) (e : Entry) (all : Bool) : List Out :=
  let c := coverOf l e
  let app := BitVec.ofNat 16 volume
  (rangesOf c.2.1 c.2.2 (List.replicate c.2.2 [])).flatMap (fun x =>
    let ks := if all || d.erased l c.1 x.member then List.range l.members else [x.member]
    d.runReads l c.1 app x.row x.cols.length ks)

/-- The stored tile of an entry in the HBM copy of the batch that a moving-boundary reshape converts (R209). -/
def Dev.batchTile (d : Dev) (layout : Nat) (e : Entry) : Option (List Byte) :=
  (tget d.vault.moving layout).bind (fun m => m.batch.bind (fun b =>
    let v := e.loc / 64
    if 1024 * m.boundary ≤ v ∧ v < 1024 * (m.boundary + 64) then
      let strips := (b.data.drop (v / 64 - 16 * m.boundary)).take 2
      some (slice ((strips.map (·.2)).flatten) (v % 64 * 4096 + e.loc % 64 * 64) e.storedLen)
    else none))

/-- Count a tile of the decode path, and log one that fails (R124, R128, R147). -/
def noteDecode (c : Nat) (w : Want) (r : TileRes) (d : Dev) : Dev :=
  let pipe := ((tget d.hif.chans c).map (·.decPipe)).getD 255
  let d1 := if h : pipe < 4 then onPipe ⟨pipe, h⟩ (fun p => { p with
    tilesDec := p.tilesDec + 1, decFail := p.decFail + (if r.step ≠ 0 then 1 else 0) }) d else d
  let d2 := if r.step ≠ 0 then logEvent 0x0301 (BitVec.ofNat 32 pipe)
    [BitVec.ofNat 32 r.step, w.entry.tileSeq.setWidth 32, (w.entry.tileSeq >>> 32).setWidth 32, BitVec.ofNat 32 w.src.volume] d1 else d1
  if r.status = 6 then logEvent 0x0702 (BitVec.ofNat 32 (w.page.getD 0)) [d2.handle c] d2 else d2

/-- How a tile comes out that no read can bring: zeros of its length, with a status. Where neither a frame record nor a header gives its
length, that is free (DESIGN CHOICE, notes/assumptions/63.md). -/
def Dev.zeroTile (d : Dev) (w : Want) (status : Nat) : TileRes :=
  { status := status, step := 0, raw := zeros (rawLength w.src.frames w.entry (Config.freeNat d.free % 65536 + 1)), stored := [] }

/-- A stored tile goes through the decode path (R124). -/
def decodeTile (c : Nat) (w : Want) (stored : List Byte) (d : Dev) : Dev × TileRes :=
  let r := d.decode w.src w.entry w.page w.hkey stored
  (drawn (noteDecode c w r d), r)

/-- Start the read of a channel's next tile. One that is known lost, or that the HBM copy of a reshape's batch holds, comes at once; else
it takes a replay buffer (R358) and its sectors are read. -/
def startTile (c : Nat) (d : Dev) : Dev × Option TileRes :=
  match d.want c with
  | none => (d, none)
  | some w =>
    match if d.knownLost w.src w.entry then none else d.layout w.src.layout with
    | none => (drawn d, some (d.zeroTile w 0x0C))
    | some own =>
      match d.batchTile own.layoutId w.entry with
      | some b => ((decodeTile c w b d).1, some (decodeTile c w b d).2)
      | none =>
        match poolAlloc 2 true d with
        | (d1, none) => (d1, none)
        | (d1, some b) =>
          (emits (d1.readsOf (d1.layoutAt own w.entry.loc) w.src.volume w.entry false) (onChan c (fun ch => { ch with rbuf := some b }) d1), none)

/-- The drive Reads of the tile that a channel waits for. -/
def Dev.tileReads (d : Dev) (c : Nat) : List Out :=
  ((d.want c).bind (fun w => (d.layout w.src.layout).map (fun own =>
    d.readsOf (d.layoutAt own w.entry.loc) w.src.volume w.entry false))).getD []

/-- The tile that a channel waits for has come from the drives: the sectors of its columns, then the decode path. -/
def tileCame (c : Nat) (w : Want) (cols : List (List SecRead)) (d : Dev) : Dev × TileRes :=
  match d.layout w.src.layout with
  | none => (d, d.zeroTile w 0x0C)
  | some own =>
    let l := d.layoutAt own w.entry.loc
    let cv := coverOf l w.entry
    match readRanges l cv.1 (BitVec.ofNat 16 w.src.volume) w.noRecon (rangesOf cv.2.1 cv.2.2 cols) d with
    | (d1, .error st) => (d1, d.zeroTile w st)
    | (d1, .ok b) => decodeTile c w (b.drop ((l.ofLocation w.entry.loc).2 % 4096)) d1

/-- Columns that a read of a tile brings. -/
def Dev.columns (d : Dev) (w : Want) : Nat := ((d.layout w.src.layout).map (fun own => (coverOf (d.layoutAt own w.entry.loc) w.entry).2.2)).getD 0

/-! ## READ (R243) -/

/-- A READ ends: its digest is written, unless it was stopped, and it completes with the first status that is not OK. -/
def endRead (c : Nat) (j : ReadJob) (status : Nat) (d : Dev) : Dev :=
  let d1 := if status ≠ 1 ∧ status ≠ 3 ∧ status ≠ 0x11 then endSnoop c d else d
  let r1 : W64 := BitVec.ofNat 64 (j.bad + j.reported * 2 ^ 32)
  settleSnaps (complete j.h 0x50 status (BitVec.ofNat 64 j.moved) r1 (freeTile c (dropCtx c (setJob c none d1))))

/-- A tile of a READ completes (R243): delivered, reported, hashed. Without reconstruction a READ ends at its first erased
sector (R197). -/
def readTile (c : Nat) (j : ReadJob) (e : Entry) (r : TileRes) (d : Dev) : Dev :=
  let d1 := snoop c r.raw (if j.flags.getLsbD 4 then d else hostData (j.dest + j.moved) r.raw d)
  let bad := r.status ≠ 0
  let room := bad ∧ j.flags.getLsbD 2 ∧ j.reported < j.reportMax
  let d2 := if room then
    hostData (j.report + 16 * j.reported) (wordBytes e.tileSeq ++ leBytes 1 r.status ++ leBytes 1 r.step ++ zeros 6) d1 else d1
  let j1 : ReadJob := { j with
    todo := j.todo.drop 1, next := j.next + 1, moved := if j.flags.getLsbD 4 then j.moved else j.moved + r.raw.length
    bad := if bad then j.bad + 1 else j.bad, first := if bad ∧ j.first = 0 then r.status else j.first
    reported := if room then j.reported + 1 else j.reported }
  if j1.todo.isEmpty ∨ (bad ∧ j.flags.getLsbD 3) ∨ r.status = 0x0B then endRead c j1 j1.first d2 else setJob c (some (.read j1)) d2

/-- A READ goes on: tiles known lost at once, then the reads of the next tile. No replay buffer ends it. -/
def pumpRead (c : Nat) : Nat → Dev → Dev
  | 0, d => d
  | n + 1, d =>
    match d.job c, d.want c with
    | some (.read j), some w =>
      match startTile c d with
      | (d1, some r) => pumpRead c n (readTile c j w.entry r d1)
      | (d1, none) => if ((tget d1.hif.chans c).bind (·.rbuf)).isSome then d1 else endRead c j 5 d1
    | some (.read j), none => endRead c j j.first d
    | _, _ => d

/-- The entries that a READ covers: an entry range, or the tiles of a frame range of a group (R242). -/
def readEntries (s : Source) (frames : Bool) (group first count : Nat) : List Entry :=
  if frames then
    let fs := (s.frames.filter (fun f => f.group == group && decide (first ≤ f.frame.toNat))).take count
    (fs.map (fun f => s.entries.filter (tileOfFrame f))).flatten
  else (s.entries.drop first).take count

/-- READ (R243, R267, R500). -/
def doRead (h : Hdr) (volume kind part target segId : Nat) (flags : BitVec 5) (group digest first count reportLen dest report
    digestOut : Nat) (d : Dev) : Dev :=
  match d.volume volume, d.source volume kind part target segId, tget d.hif.chans h.chan with
  | some v, some s, some ch =>
    if dest % 64 ≠ 0 then complete h 0x50 4 0 0 d
    else if !d.decOn ch.decPipe then complete h 0x50 8 0 0 d
    else
      match d.decryptPage v ch.domain, if digest = 0 then some none else d.freeCtx.map some with
      | some page, some ctx =>
        let j : ReadJob :=
          { h := h, snap := s.snap, volume := volume, takeId := s.takeId, part := part, flags := flags, next := first,
            todo := readEntries s (flags.getLsbD 0) group first count, page := page, hkey := d.dedupSlot v, dest := dest, report := report, reportMax := reportLen,
            moved := 0, bad := 0, reported := 0, first := 0 }
        let d1 := match ctx with
          | some n => takeCtx n { chan := h.chan, kind := digest, key := [], dest := .host digestOut, declared := none, seen := [] } d
          | none => d
        pumpRead h.chan (j.todo.length + 1) (setJob h.chan (some (.read j)) d1)
      | _, _ => complete h 0x50 8 0 0 d
  | _, _, _ => complete h 0x50 0x10 0 0 d

/-- READ. -/
def execRead (h : Hdr) (volume kind part target segId : Nat) (flags : BitVec 5) (group digest first count reportLen dest report
    digestOut : Nat) (s : State) : Host.Outcome State Fault Refusal :=
  .next { s with
    dev := descriptor 0x50 [2] h
      (decide (kind < 3 ∧ part < 2 ∧ digest < 3 ∧ (flags.getLsbD 4 = true → dest = 0)) && (!flags.getLsbD 0 || decide (group < 4)))
      (doRead h volume kind part target segId flags group digest first count reportLen dest report digestOut) s.dev }

/-! ## PLAY (R67, R245, R307) -/

/-- Frame number and timestamp that a frame of a PLAY goes out with. -/
def playStamp (j : PlayJob) (f : FrameRec) : BitVec 48 × W64 :=
  if j.renumber then (j.frameBase + BitVec.ofNat 48 j.done, j.timeBase + (f.timestamp - j.tbase)) else (f.frame, f.timestamp)

/-- A slot-bearing packet of a PLAY. -/
def playPacket (g : Fin 4) (ptype : Byte) (sid : W16) (gsn : W32) (frame : BitVec 48) (ts : W64) (word : W32)
    (len : Nat) (payload : List Byte) : Packet :=
  sealPacket { ptype := ptype, flags := 0, streamId := sid, gsn := gsn, frame := frame, length := BitVec.ofNat 16 len,
               timestamp := ts, word := word, group := BitVec.ofNat 8 g.val, reserved := 0, hcrc := 0, payload := payload, crc := 0 }

/-- The FRAME_OPEN body of a frame record (R53). -/
def openBody (f : FrameRec) : List Byte :=
  wordBytes f.format ++ leBytes 2 f.cls ++ leBytes 4 f.width ++ leBytes 4 f.lines ++ leBytes 4 f.firstLine ++
    leBytes 2 f.lineStep ++ zeros 2 ++ leBytes 4 f.lineBytes ++ wordBytes f.exposure

/-- Send one slot-bearing packet, and the gsn moves on. -/
def sendSlot (g : Fin 4) (mk : W32 → Packet) (d : Dev) : Dev :=
  let n := (d.sl.groups.at g).playNext
  let p := mk n
  slSend g p (onGroup g (fun x => { x with playNext := n + 1, lastTs := if x.lastTs.ult p.timestamp then p.timestamp else x.lastTs }) d)

/-- A PLAY ends: frames sent, and the last gsn sent. -/
def endPlay (c : Nat) (j : PlayJob) (status : Nat) (d : Dev) : Dev :=
  let last := (d.sl.groups.at j.group).playNext - 1
  settleSnaps (complete j.h 0x60 status (BitVec.ofNat 64 j.done) (last.setWidth 64) (freeTile c (setJob c none d)))

/-- STOP_DONE of the port in player role (R67, R54). -/
def playStopDone (g : Fin 4) (id : W32) (sid : W16) (d : Dev) : Dev :=
  let gr := d.sl.groups.at g
  let p := controlPacket g 9 sid gr.playNext id (d.sendTime g)
    (zeros 4 ++ wordBytes (gr.playNext - 1) ++ leBytes 8 gr.playFrame.toNat ++ zeros 8)
  slSend g p (onGroup g (fun x => { x with playDone := some p }) d)

/-- The META record that is due before the next packet of the frame (R245): its recorded place is its gsn. -/
def dueMeta (j : PlayJob) (f : FrameRec) : Option MetaBody :=
  match j.metas with
  | .mta tag gsn fr ts g pl :: _ =>
    if g = f.group ∧ fr = f.frame ∧ sdiff f.firstGsn gsn ≤ j.sentIn then some (.mta tag gsn fr ts g pl) else none
  | _ => none

/-- One packet of a PLAY, where one may go: none while credit, pacing, a tile or a stop holds it. -/
def playOne (g : Fin 4) (c : Nat) (j : PlayJob) (d : Dev) : Option Dev :=
  let gr := d.sl.groups.at g
  let sid := (gr.grant.map (·.streamId)).getD 0
  let credit := gr.link == .granted && (gr.playLimit.map (precEq gr.playNext)).getD false
  let set (k : PlayJob) (x : Dev) : Dev := setJob c (some (.play k)) x
  if !j.opened && gr.playStop.isSome then
    if gr.playDone.isSome then none else (gr.playStop.map (fun id => playStopDone g id sid d))
  else
    match j.frames with
    | [] => some (endPlay c j (j.endAs.getD j.first) d)
    | f :: rest =>
      let st := playStamp j f
      if !credit || !j.metaLeft.isEmpty then none
      else if !j.opened then
        if j.paced && !j.mayStart then none
        else
          let d1 := sendSlot g (fun n => playPacket g 2 sid n st.1 st.2 (BitVec.ofNat 32 f.recorded) 0 (openBody f)) d
          some (set { j with opened := true, pos := 0, buf := [], crc := 0xFFFFFFFF, mayStart := false, sentIn := 1 }
            (onGroup g (fun x => { x with playFrame := st.1, playOpen := true }) d1))
      else
        match dueMeta j f with
        | some (.mta tag _ _ _ _ pl) =>
          some (set { j with metas := j.metas.drop 1, sentIn := j.sentIn + 1 }
            (sendSlot g (fun n => playPacket g 5 sid n st.1 st.2 tag pl.length pl) d))
        | _ =>
          if j.pos < f.recorded then
            if j.buf.isEmpty then none
            else
              let b := j.buf.take (min 2048 (f.recorded - j.pos))
              let off := BitVec.ofNat 32 j.pos
              some (set { j with buf := j.buf.drop b.length, pos := j.pos + b.length, crc := crc32cRun j.crc b, sentIn := j.sentIn + 1 }
                (sendSlot g (fun n => playPacket g 3 sid n st.1 st.2 off b.length b) d))
          else
            let body := wordBytes (j.crc ^^^ 0xFFFFFFFF) ++ leBytes 4 ((f.recorded + 2047) / 2048) ++ leBytes 4 f.flags.toNat
            let d1 := sendSlot g (fun n => playPacket g 4 sid n st.1 st.2 (BitVec.ofNat 32 f.recorded) 0 body) d
            some (set { j with opened := false, done := j.done + 1, frames := rest, sentIn := j.sentIn + 1 }
              (onGroup g (fun x => { x with playOpen := false }) d1))

/-- META records that a metadata tile holds (R229), for the PLAY of their group. Fuel: bytes. -/
def parseMeta : Nat → List Byte → List MetaBody
  | 0, _ => []
  | n + 1, l =>
    if l.length < 8 then []
    else
      let len := fieldAt l 4 4
      let b := slice l 8 len
      let rest := parseMeta n (l.drop (alignUp (8 + len) 8))
      if fieldAt l 0 1 = 1 then
        .mta (BitVec.ofNat 32 (fieldAt b 0 4)) (BitVec.ofNat 32 (fieldAt b 4 4)) (BitVec.ofNat 48 (fieldAt b 8 8))
          (BitVec.ofNat 64 (fieldAt b 16 8)) (fieldAt b 24 1) (slice b 32 (fieldAt b 26 2)) :: rest
      else rest

/-- A tile of a PLAY has come: its bytes, or zeros; or its META records. -/
def playTile (c : Nat) (j : PlayJob) (r : TileRes) (d : Dev) : Dev :=
  let first := if r.status ≠ 0 ∧ j.first = 0 then r.status else j.first
  match j.metaLeft with
  | _ :: t =>
    let ms := if r.status = 0 then parseMeta (r.raw.length + 1) r.raw else []
    setJob c (some (.play { j with metaLeft := t, metas := j.metas ++ ms, first := first })) d
  | [] => setJob c (some (.play { j with entries := j.entries.drop 1, buf := r.raw, first := first })) d

/-- A PLAY goes on: packets while they may go, then the read of the tile that it needs. -/
def pumpPlay (g : Fin 4) : Nat → Dev → Dev
  | 0, d => d
  | n + 1, d =>
    match d.playOn g with
    | none =>
      match (d.sl.groups.at g).playStop with
      | some id => if (d.sl.groups.at g).playDone.isSome then d
                   else playStopDone g id (((d.sl.groups.at g).grant.map (·.streamId)).getD 0) d
      | none => d
    | some (c, j) =>
      match playOne g c j d with
      | some d1 => pumpPlay g n d1
      | none =>
        if ((tget d.hif.chans c).bind (·.rbuf)).isSome then d
        else
          match d.want c with
          | none => d
          | some _ =>
            match startTile c d with
            | (d1, some r) => pumpPlay g n (playTile c j r d1)
            | (d1, none) => if ((tget d1.hif.chans c).bind (·.rbuf)).isSome then d1 else endPlay c j 5 d1

/-- Packets that a PLAY could send at most: for each frame its slots, and its META records. -/
def playFuel (j : PlayJob) : Nat :=
  (j.frames.map (fun f => (f.recorded + 2047) / 2048 + 4)).sum + j.metas.length + j.metaLeft.length + j.entries.length + 4

/-- The output of a group goes on. -/
def runPlay (g : Fin 4) (d : Dev) : Dev := pumpPlay g (((d.playOn g).map (fun x => playFuel x.2)).getD 2) d

/-- PLAY (R245, R267). -/
def doPlay (h : Hdr) (volume kind part target segId : Nat) (flags : BitVec 3) (recGroup pace : Nat) (first : BitVec 48)
    (frames : Nat) (gsnBase : W32) (frameBase : BitVec 48) (timeBase : W64) (d : Dev) : Dev :=
  match d.volume volume, d.source volume kind part target segId, tget d.hif.chans h.chan with
  | some v, some s, some ch =>
    if hg : ch.group < 4 then
      let g : Fin 4 := ⟨ch.group, hg⟩
      if !d.sl.player || (d.sl.groups.at g).link != .granted || !d.decOn ch.decPipe || (d.playOn g).isSome then complete h 0x60 8 0 0 d
      else
        match d.decryptPage v ch.domain with
        | none => complete h 0x60 8 0 0 d
        | some page =>
          let fs := (s.frames.filter (fun f => f.group == recGroup && decide (first.toNat ≤ f.frame.toNat))).take frames
          let j : PlayJob :=
            { h := h, snap := s.snap, volume := volume, takeId := s.takeId, part := part, group := g, renumber := flags.getLsbD 0,
              paced := flags.getLsbD 1, sendMeta := flags.getLsbD 2, pace := pace, frames := fs,
              entries := (fs.map (fun f => s.entries.filter (tileOfFrame f))).flatten, page := page, hkey := d.dedupSlot v,
              frameBase := frameBase, timeBase := timeBase, tbase := ((fs.head?).map (·.timestamp)).getD 0, done := 0,
              opened := false, buf := [], pos := 0, crc := 0, mayStart := true, sentIn := 0, metas := [],
              metaLeft := if flags.getLsbD 2 then s.entries.filter (fun e => e.flags.getLsbD 3) else [], first := 0, endAs := none }
          runPlay g (setJob h.chan (some (.play j)) (onGroup g (fun x => { x with playNext := gsnBase }) d))
    else complete h 0x60 0x10 0 0 d
  | _, _, _ => complete h 0x60 0x10 0 0 d

/-- PLAY. -/
def execPlay (h : Hdr) (volume kind part target segId : Nat) (flags : BitVec 3) (recGroup pace : Nat) (first : BitVec 48)
    (frames : Nat) (gsnBase : W32) (frameBase : BitVec 48) (timeBase : W64) (s : State) : Host.Outcome State Fault Refusal :=
  .next { s with
    dev := descriptor 0x60 [8] h
      (decide (kind < 3 ∧ part < 2 ∧ recGroup < 4) && (flags.getLsbD 0 || (frameBase == 0 && timeBase == 0)) &&
        (flags.getLsbD 1 || pace == 0))
      (doPlay h volume kind part target segId flags recGroup pace first frames gsnBase frameBase timeBase) s.dev }

/-- PLAY_PACE_TIMER: the next frame of a paced PLAY is due. -/
def paceTimer (c : Nat) (d : Dev) : Dev :=
  match d.job c with
  | some (.play j) => if j.paced then runPlay j.group (setJob c (some (.play { j with mayStart := true })) d) else d
  | _ => d

/-- PLAY_PACE_TIMER. -/
def execPlayPaceTimer (chan : Nat) (s : State) : Host.Outcome State Fault Refusal :=
  .next { s with dev := when s.dev.live (paceTimer chan) s.dev }

/-- A PLAY is stopped at its next packet boundary (R270): an open frame closes short, with the bytes sent. -/
def stopPlay (c : Nat) (j : PlayJob) (status : Nat) (d : Dev) : Dev :=
  match j.opened, j.frames with
  | true, f :: _ =>
    let k : PlayJob := { j with frames := [{ f with recorded := j.pos }], entries := [], buf := [], metas := [],
                                metaLeft := [], endAs := some status }
    runPlay j.group (freeTile c (setJob c (some (.play k)) d))
  | _, _ => endPlay c j status d

/-! ## The port in player role (R62, R67) -/

/-- A CREDIT at a head in player role (R58, R62): a later limit counts; RESUME ends a stop. -/
def playCredit (g : Fin 4) (p : Packet) (d : Dev) : Dev :=
  let res := (BitVec.ofNat 8 (fieldAt p.payload 0 1)).getLsbD 0
  let later (o : Option W32) : W32 :=
    match o with
    | some l => if precedes l p.word then p.word else l
    | none => p.word
  runPlay g (onGroup g (fun x => { x with
    playLimit := some (later x.playLimit), playStop := if res then none else x.playStop,
    playDone := if res then none else x.playDone }) d)

/-- A STOP_REQ at a head in player role: the first copy is acted on, and each copy is answered alike. -/
def playStopReq (g : Fin 4) (p : Packet) (d : Dev) : Dev :=
  let gr := d.sl.groups.at g
  match gr.playDone with
  | some q => if gr.playStop = some p.word then slSend g q d
              else runPlay g (onGroup g (fun x => { x with playStop := some p.word, playDone := none }) d)
  | none => runPlay g (onGroup g (fun x => { x with playStop := some p.word }) d)

/-- A CAP grant at a head in player role (R55): status 0 grants. One repeated while the grant is in force moves the limit on only
(R58); the first after a link-up sets it (R71). -/
def takeGrant (g : Fin 4) (p : Packet) (d : Dev) : Dev :=
  let c := readCap p.payload
  if c.kind = 1 ∧ c.status = 0 then
    let r : Grant := { streamId := c.streamId, groupsMask := c.groupsMask, port := c.port, deviceId := c.deviceId, rate := c.maxRate,
                       maxFrame := c.maxFrame, nRo := c.runoutFrames, bRo := c.runoutBytes, formats := c.formats }
    let later (x : Group) : W32 :=
      match x.link, x.playLimit with
      | .granted, some l => if precedes l c.initLimit then c.initLimit else l
      | _, _ => c.initLimit
    runPlay g (onGroup g (fun x => { x with link := .granted, retraining := false, attempt := 0, grant := some r,
                                            playLimit := some (later x) }) d)
  else d

/-- A packet in player role. -/
def receiveAsPlayer (g : Fin 4) (p : Packet) (d : Dev) : Dev :=
  if p.ptype = 1 then takeGrant g p d
  else if slotBearing p.ptype then slotPacket g p d
  else if p.ptype = 7 then (if (d.sl.groups.at g).link = .granted then playCredit g p d else d)
  else if p.ptype = 8 then (if (d.sl.groups.at g).link = .granted then playStopReq g p d else d)
  else d

/-- PACKET_RECEIVE: any packet, in the port's role. -/
def execPacketReceive (g : Fin 4) (p : Packet) (s : State) : Host.Outcome State Fault Refusal :=
  .next { s with
    dev := when s.dev.live (checked g p (if s.dev.sl.player then receiveAsPlayer g p else receiveAsRecorder g p)) s.dev }

/-- CAP_GRANT. -/
def execCapGrant (g : Fin 4) (p : Packet) (s : State) : Host.Outcome State Fault Refusal :=
  .next { s with dev := when (s.dev.live && s.dev.sl.player && p.ptype == 1) (checked g p (receiveAsPlayer g p)) s.dev }

/-- CREDIT. -/
def execCredit (g : Fin 4) (p : Packet) (s : State) : Host.Outcome State Fault Refusal :=
  .next { s with dev := when (s.dev.live && s.dev.sl.player && p.ptype == 7) (checked g p (receiveAsPlayer g p)) s.dev }

/-- STOP_REQ. -/
def execStopReq (g : Fin 4) (p : Packet) (s : State) : Host.Outcome State Fault Refusal :=
  .next { s with dev := when (s.dev.live && s.dev.sl.player && p.ptype == 8) (checked g p (receiveAsPlayer g p)) s.dev }

/-- CAP_OFFER_REPEAT: 1 ms without a grant. -/
def execCapOfferRepeat (g : Fin 4) (s : State) : Host.Outcome State Fault Refusal :=
  .next { s with
    dev := when (s.dev.live && s.dev.sl.player && (s.dev.sl.groups.at g).link == .awaitCap) (sendOffer g) s.dev }

end Sys2Proof.Machine
end

