-- ==== Sys2Proof/Machine/Copy.lean ====
section
/-! DEFINITION. The DMA engine: COPY and its bursts (R374 to R378). -/

namespace Sys2Proof.Machine
open Sys2Proof

/-- HBM address of BAR2 offset 0 (R354, MCA_HBM_CFG). -/
def Dev.bar2Base (d : Dev) : Nat := bits d.regs.hbmCfg.toNat 11 8 * 2 ^ 30

/-- Bytes of BAR2: a 64 GiB window. -/
def bar2Size : Nat := 64 * 2 ^ 30

/-- The bytes that the BAR2 mapping reads: beyond the end of HBM, zeros (R354). -/
def bar2Bytes (s : State) (o n : Nat) : List Byte :=
  (List.range n).map (fun i =>
    let a := s.dev.bar2Base + o + i
    if a < hbmSize then memRead s.hbm a else 0)

/-- Change a DMA channel. -/
def onDma (n : Nat) (f : DmaCh → DmaCh) (d : Dev) : Dev :=
  match tget d.dma.chs n with
  | some x => { d with dma := { d.dma with chs := tput d.dma.chs n (f x) } }
  | none => d

/-- A COPY ends: its context and its engine channel released. Its digest was written as the last burst passed (R156, R378). -/
def endCopy (c : Nat) (j : CopyJob) (status : Nat) (d : Dev) : Dev :=
  complete j.h 0x90 status (BitVec.ofNat 64 j.moved) 0 (onDma j.dma (fun x => { x with active := false }) (dropCtx c (setJob c none d)))

/-- COPY (R374): the checks in order, then its bursts. -/
def doCopy (h : Hdr) (source dest length space digest slot out : Nat) (d : Dev) : Dev :=
  let ctx := if digest = 0 then some none else d.freeCtx.map some
  let key := tget d.ciph.hkeys slot
  if source % 64 ≠ 0 ∨ dest % 64 ≠ 0 ∨ length % 64 ≠ 0 then complete h 0x90 4 0 0 d
  else if 2 ^ 40 < length ∨ (space = 1 ∧ bar2Size < source + length) then complete h 0x90 0x0D 0 0 d
  else
    match ctx with
    | none => complete h 0x90 8 0 0 d
    | some cx =>
      if 3 ≤ digest ∧ (key.map (fun k => k.domain != d.domain h.chan)).getD true then complete h 0x90 0x0E 0 0 d
      else
        let n := ((tget d.hif.chans h.chan).map (·.dma)).getD 255
        let j : CopyJob :=
          { h := h, dma := n, src := source, dst := dest, left := length, hbm := space == 1, moved := 0, bad := false }
        let b : Snoop := { chan := h.chan, kind := digest, key := if digest < 3 then [] else (key.map (·.key)).getD [], dest := .host out
                           declared := some length, seen := [] }
        if length = 0 then endCopy h.chan j 0 (if digest = 0 then d else deliverDigest b [] d)
        else
          let d1 := match cx with
            | some k => takeCtx k b d
            | none => d
          onDma n (fun x => { x with active := true, waited := 0 }) (setJob h.chan (some (.copy j)) d1)

/-- COPY. -/
def execCopy (h : Hdr) (source dest length space digest slot digestOut : Nat) (s : State) : Host.Outcome State Fault Refusal :=
  .next { s with
    dev := descriptor 0x90 [6] h (decide (space < 2 ∧ digest < 5)) (doCopy h source dest length space digest slot digestOut) s.dev }

/-! ## The grant (R376) -/

/-- A channel with a burst ready. -/
def Dma.ready (m : Dma) : List (Nat × DmaCh) := m.chs.filter (·.2.active)

/-- The channel numbers in turn, after the last one granted. -/
def turnOrder (last : Nat) : List Nat := (List.range 16).map (fun i => (last + 1 + i) % 16)

/-- The DMA channel that takes the next burst: the aged one that has waited longest, the lowest breaking a tie; else one of
the highest priority, in turn. -/
def Dma.grant (m : Dma) : Option Nat :=
  let aged := m.ready.filter (fun e => decide (32 ≤ e.2.waited))
  let most := aged.foldl (fun x e => max x e.2.waited) 0
  match aged.find? (fun e => e.2.waited == most) with
  | some e => some e.1
  | none =>
    let top := m.ready.foldl (fun x e => max x e.2.priority) 0
    (turnOrder m.lastCh).find? (fun n => m.ready.any (fun e => e.1 == n && e.2.priority == top))

/-- The grant is counted: the channel granted waits from 0, every other ready one has waited one burst more. -/
def Dma.granted (m : Dma) (n : Nat) : Dma :=
  { m with lastCh := n, chs := m.chs.map (fun e =>
      if e.1 = n then (e.1, { e.2 with waited := 0 })
      else if e.2.active then (e.1, { e.2 with waited := e.2.waited + 1 }) else e) }

/-- Length of a copy's next burst: to the next 4 KiB boundary of its destination, or to its end (R375). -/
def burstLength (j : CopyJob) : Nat := min j.left (4096 - j.dst % 4096)

/-- One burst of a COPY: read whole, then written; snooped by its digest. -/
def copyBurst (c : Nat) (j : CopyJob) (data : List Byte) (bad : Bool) (d : Dev) : Dev :=
  let n := burstLength j
  let b := if bad then zeros n else padTo n data
  let j1 : CopyJob := { j with
    src := j.src + n, dst := j.dst + n, left := j.left - n, moved := j.moved + n, bad := j.bad || bad }
  let d1 := snoop c b (hostData j.dst b { d with dma := { d.dma.granted j.dma with bytes := d.dma.bytes + BitVec.ofNat 64 n } })
  if j1.left = 0 then endCopy c j1 (if j1.bad then 0x0C else 0) d1 else setJob c (some (.copy j1)) d1

/-- DMA_BURST (R375, R376): the engine grants the next burst. `hostData` is what a host source holds, `poisoned` whether an HBM
source burst is uncorrectable. -/
def dmaBurst (hostData : List Byte) (poisoned : Bool) (s : State) : Dev :=
  let d := s.dev
  match d.dma.grant.bind (fun n => tget d.dma.chs n) with
  | none => d
  | some x =>
    match d.job x.chan with
    | some (.copy j) => copyBurst x.chan j (if j.hbm then bar2Bytes s j.src (burstLength j) else hostData) (j.hbm && poisoned) d
    | _ => d

/-- DMA_BURST. -/
def execDmaBurst (hostData : List Byte) (poisoned : Bool) (s : State) : Host.Outcome State Fault Refusal :=
  let x := syncHot s
  .next (if s.dev.live && !s.dev.glb.perstLow then { x with dev := dmaBurst hostData poisoned x } else s)

end Sys2Proof.Machine
end

