-- ==== Sys2Proof/Machine/Roce.lean ====
section
/-! DEFINITION. RoCEv2 packets (R317, R319): Ethernet, IPv4 or IPv6, UDP to port 4791, the base transport header and its extensions, and
the ICRC, as the InfiniBand architecture and its RoCEv2 annex lay them out (PRESUMED, notes/assumptions/74.md). -/

namespace Sys2Proof.Machine
open Sys2Proof

/-- One bit of the reflected CRC-32 of Ethernet, which ICRC uses. -/
def crc32Bit (c : W32) : W32 := if c.getLsbD 0 then (c >>> 1) ^^^ 0xEDB88320 else c >>> 1

/-- One byte of it. -/
def crc32Byte (c : W32) (b : Byte) : W32 :=
  crc32Bit (crc32Bit (crc32Bit (crc32Bit (crc32Bit (crc32Bit (crc32Bit (crc32Bit (c ^^^ b.setWidth 32))))))))

/-- CRC-32. -/
def crc32 (l : List Byte) : W32 := l.foldl crc32Byte 0xFFFFFFFF ^^^ 0xFFFFFFFF

/-- The low `n` bytes of a number in network byte order. -/
def netBytes (n v : Nat) : List Byte := (leBytes n v).reverse

/-- The sum of 16-bit words in network byte order. -/
def wordSum : List Byte → Nat
  | a :: b :: t => a.toNat * 256 + b.toNat + wordSum t
  | [a] => a.toNat * 256
  | [] => 0

/-- The header checksum of IPv4. -/
def ipSum (h : List Byte) : Nat :=
  let s := wordSum h
  let t := s % 65536 + s / 65536
  65535 - (t % 65536 + t / 65536)

/-- What a packet's headers take from the head controller and from a queue pair's context (R323, R349, R351). -/
structure NetHdr where
  h    : QpHost
  mac  : W64
  ip   : W128
  prio : Option Nat
deriving DecidableEq, Repr

/-- The headers of a queue pair on E1: with PFC_EN, packets carry priority PFC_PRIO (R319, R349). -/
def Dev.netHdr (d : Dev) (h : QpHost) : NetHdr :=
  { h := h, mac := tgetD d.regs.mac 0 1, ip := tgetD d.regs.ip 0 h.srcIp,
    prio := if d.regs.rdmaCfg.getLsbD 2 then some (bits d.regs.rdmaCfg.toNat 5 3) else none }

/-- The Ethernet header: a tag where the context names a VLAN, or for the priority alone. -/
def ethHead (n : NetHdr) : List Byte :=
  let tag : List Byte := if n.h.vlan = 0 ∧ n.prio.isNone then [] else [0x81, 0x00] ++ netBytes 2 (n.prio.getD 0 * 8192 + n.h.vlan)
  netBytes 6 n.h.destMac.toNat ++ netBytes 6 n.mac.toNat ++ tag ++ (if n.h.ipv6 then [0x86, 0xDD] else [0x08, 0x00])

/-- DSCP, and ECT(0) (R319). -/
def trafficClass (h : QpHost) : Nat := h.dscp * 4 + 2

/-- The IP header for `len` bytes that follow it: with time to live and, in IPv4, its checksum; `mask` is the copy that ICRC covers. -/
def ipHead (n : NetHdr) (mask : Bool) (len : Nat) : List Byte :=
  let src := wordBytes n.ip
  let dst := beBytes n.h.destIp
  let ttl : Byte := if mask then 255 else 64
  if n.h.ipv6 then
    let tc := if mask then 255 else trafficClass n.h
    netBytes 4 (6 * 2 ^ 28 + tc * 2 ^ 20 + (if mask then 2 ^ 20 - 1 else 0)) ++ netBytes 2 len ++ [17, ttl] ++ src ++ dst
  else
    let a := [0x45, BitVec.ofNat 8 (if mask then 255 else trafficClass n.h)] ++ netBytes 2 (20 + len) ++ [0, 0, 0x40, 0, ttl, 17]
    let b := src.drop 12 ++ dst.drop 12
    a ++ netBytes 2 (if mask then 65535 else ipSum (a ++ b)) ++ b

/-- The base transport header: opcode, pad count, congestion bits, the peer's QPN, whether an acknowledgement is asked for, PSN. -/
def transportHead (op pad : Nat) (solicited : Bool) (marks : Byte) (qpn : Nat) (ackReq : Bool) (psn : BitVec 24) : List Byte :=
  [BitVec.ofNat 8 op, BitVec.ofNat 8 (bit solicited * 128 + 64 + pad * 16), 0xFF, 0xFF, marks] ++ netBytes 3 qpn ++
    [BitVec.ofNat 8 (bit ackReq * 128)] ++ netBytes 3 psn.toNat

/-- A packet: `op` to `psn` as its transport header, its extension headers, its payload padded to whole words, and the ICRC. -/
def rocePacket (n : NetHdr) (op : Nat) (solicited : Bool) (marks : Byte) (ackReq : Bool) (psn : BitVec 24) (ext payload : List Byte) : List Byte :=
  let pad := alignUp payload.length 4 - payload.length
  let bth (m : Byte) : List Byte := transportHead op pad solicited m n.h.destQpn ackReq psn
  let rest := ext ++ payload ++ zeros pad
  let len := 8 + 12 + rest.length + 4
  let udp (sum : Nat) : List Byte := netBytes 2 n.h.udpSport.toNat ++ netBytes 2 4791 ++ netBytes 2 len ++ netBytes 2 sum
  let icrc := crc32 (List.replicate 8 255 ++ ipHead n true len ++ udp 65535 ++ bth 255 ++ rest)
  ethHead n ++ ipHead n false len ++ udp 0 ++ bth marks ++ rest ++ wordBytes icrc

/-- The RDMA extension header: remote address, key, length. -/
def rethBytes (wr : Wr) : List Byte := netBytes 8 wr.remote ++ netBytes 4 wr.rkey.toNat ++ netBytes 4 wr.length

/-- The opcode of packet `k` of `n` of a SEND, WRITE or WRITE_IMM. -/
def packetOp (opcode k n : Nat) : Nat :=
  let base := if opcode = 1 then 0 else 6
  let imm := if opcode = 3 then 1 else 0
  if n ≤ 1 then base + 4 + imm else if k = 0 then base else if k + 1 = n then base + 2 + imm else base + 1

/-- The packets of a message, the first with PSN `psn`: `n` packets of `mtu` bytes. -/
def sendFrames (h : NetHdr) (opcode : Nat) (psn : BitVec 24) (wr : Wr) (mtu n : Nat) : List (List Byte) :=
  if opcode = 4 then [rocePacket h 0x0C false 0 true psn (rethBytes wr) []]
  else if opcode = 5 then
    [rocePacket h 0x1C false 0 true psn (netBytes 4 ((if wr.length = 0 then 16 else 0) + (if wr.option = 0 then 1 else 2)) ++ rethBytes wr) []]
  else (List.range n).map (fun k =>
    let last := k + 1 == n
    let ext := (if opcode ≠ 1 ∧ k = 0 then rethBytes wr else []) ++ (if opcode = 3 ∧ last then netBytes 4 wr.imm.toNat else [])
    rocePacket h (packetOp opcode k n) (last && wr.solicited && opcode != 2) 0 last (psn + BitVec.ofNat 24 k) ext
      (slice (padTo wr.length wr.data) (k * mtu) mtu))

/-- An acknowledgement, with the responder's MSN. -/
def ackFrame (h : NetHdr) (psn msn : BitVec 24) : List Byte := rocePacket h 0x11 false 0 false psn ([0x1F] ++ netBytes 3 msn.toNat) []

/-- The syndrome of a NAK. -/
def nakSyndrome : NakCode → Nat
  | .psnSeq => 0x60
  | .rnr t => 0x20 + t % 32
  | .remoteAccess => 0x62
  | .invalidRequest => 0x61
  | .lengthExceeded => 0x61

/-- A NAK. -/
def nakFrame (h : NetHdr) (psn msn : BitVec 24) (code : NakCode) : List Byte :=
  rocePacket h 0x11 false 0 false psn ([BitVec.ofNat 8 (nakSyndrome code)] ++ netBytes 3 msn.toNat) []

/-- A congestion notification packet. -/
def cnpFrame (h : NetHdr) : List Byte := rocePacket h 0x81 false 0x40 false 0 (zeros 16) []

end Sys2Proof.Machine
end

