-- ==== Sys2Proof/Machine/Rdma.lean ====
section
/-! DEFINITION. RDMA (R317 to R339): queue pairs and their contexts, address-space keys and windows, work requests and
their completion, incoming requests and duplicates, WAIT, the context cache. -/

namespace Sys2Proof.Machine
open Sys2Proof

/-! ## Queue pairs -/

/-- The Tango queue pairs (R278). -/
def tangoQp (i : Nat) : Bool := decide (0x100 ≤ i ∧ i ≤ 0x104)

/-- Index of a host queue pair (R318). -/
def hostQp (i : Nat) : Bool := decide (2 ≤ i ∧ i < 16384) && !tangoQp i

/-- Queue pair `i`, where the host has named it. -/
def Dev.qp (d : Dev) (i : Nat) : Option Qp := tget d.rdma.qps i

/-- Change the RDMA engine. -/
def onRdma (f : Rdma → Rdma) (d : Dev) : Dev := { d with rdma := f d.rdma }

/-- Change the RDMA counters. -/
def onRcnt (f : RdmaCnt → RdmaCnt) (d : Dev) : Dev := { d with rcnt := f d.rcnt }

/-- Change a queue pair. -/
def onQp (i : Nat) (f : Qp → Qp) (d : Dev) : Dev :=
  match d.qp i with
  | some q => onRdma (fun r => { r with qps := tput r.qps i (f q) }) d
  | none => d

/-- A queue pair in RESET (R324, R326). -/
def Qp.fresh (h : QpHost) (gen : Byte) : Qp :=
  { host := h, gen := gen, state := .reset, cause := 0, sendCount := 0, recvCount := 0, sqHead := 0, cqTail := 0, rqHead := 0,
    rqTail := 0, sPsn := 0, ePsn := 0, msn := 0, dups := [], outs := [], waiting := none, nakSent := false, retries := 0,
    rnrLeft := 0, rate := 0, cnpAt := none, inMsg := false, inBytes := 0, rnrWait := false }

/-- Whether a queue pair is in RTS. -/
def Dev.inRts (d : Dev) (i : Nat) : Bool := ((d.qp i).map (fun q => q.state == .rts)).getD false

/-- Bytes of a packet: the path MTU of a context (R323). -/
def pathMtu (h : QpHost) : Nat := 128 * 2 ^ h.pmtu

/-- Packets of a message. -/
def packetsOf (h : QpHost) (len : Nat) : Nat := max 1 ((len + pathMtu h - 1) / pathMtu h)

/-- The head part of a context that the manual defines, bytes 256 to 295 of its slot (R324). -/
def Qp.headPart (q : Qp) : List Byte :=
  let n := 2 ^ q.host.cqLog2
  let st := match q.state with
    | .reset => 0
    | .rts => 1
    | .error => 2
  leBytes 1 st ++ leBytes 1 q.cause ++ zeros 6 ++ wordBytes q.sendCount ++ wordBytes q.recvCount ++ leBytes 4 q.sqHead ++
    leBytes 4 (q.cqTail % n + bit (q.cqTail / n % 2 == 0) * 2 ^ 31) ++ leBytes 4 q.rqHead ++ zeros 4

/-- The head part is written to the context table (R326, R336). -/
def writeContext (i : Nat) (d : Dev) : Dev :=
  match d.qp i with
  | some q => emit (.qpContext i q.headPart) d
  | none => d

/-! ## The context cache (R335 to R337) -/

/-- Host contexts that the cache holds beside the five pinned ones. -/
def cacheSize : Nat := 2043

/-- A context is busy (R336). -/
def Qp.busy (q : Qp) : Bool := !q.outs.isEmpty || q.inMsg || q.waiting.isSome

/-- Contexts that may be evicted now: neither busy nor fetched within 100 µs (R336, R337). -/
def Dev.evictable (d : Dev) : List Nat :=
  (d.rdma.cached.filter (fun e => !((d.qp e.1).map Qp.busy).getD false && decide (e.2 + 100000 ≤ d.now))).map (·.1)

/-- A context enters the cache. A full cache evicts one, whose choice is free; where none can go, it waits. -/
def cacheCtx (i : Nat) (d : Dev) : Dev :=
  let add (x : Dev) : Dev := onRdma (fun r => { r with cached := tput r.cached i x.now, waitCtx := r.waitCtx.filter (· != i) }) x
  if (tget d.rdma.cached i).isSome then d
  else if d.rdma.cached.length < cacheSize then add d
  else
    match d.evictable[Config.freeNat d.free % d.evictable.length]? with
    | some v => add (onRcnt (fun c => { c with ctxEvict := c.ctxEvict + 1 })
        (onRdma (fun r => { r with cached := tdel r.cached v }) (writeContext v (drawn d))))
    | none => onRdma (fun r => { r with waitCtx := if r.waitCtx.contains i then r.waitCtx else r.waitCtx ++ [i] }) d

/-- A context that is fetched for a packet: counted, and waited for. -/
def fetchCtx (i : Nat) (d : Dev) : Dev :=
  if d.rdma.waitCtx.contains i then d
  else onRcnt (fun c => { c with ctxMiss := c.ctxMiss + 1 }) (onRdma (fun r => { r with waitCtx := r.waitCtx ++ [i] }) d)

/-- A context leaves the cache, with what is parked for it (R326, R339). -/
def dropCtxOf (i : Nat) (d : Dev) : Dev :=
  onRdma (fun r => { r with
    cached := tdel r.cached i, waitCtx := r.waitCtx.filter (· != i), parked := r.parked.filter (fun p => p.qpn != i) }) d

/-! ## Completion (R328) -/

/-- A completion entry of a queue pair, with its phase, then its counters and its interrupt. -/
def qpEntry (i : Nat) (tag : W32) (index status opcode bytes : Nat) (imm : W32) (src : Nat) (d : Dev) : Dev :=
  match d.qp i with
  | none => d
  | some q =>
    let d1 := emit (.qpCompletion i tag index status opcode bytes imm src (q.cqTail / 2 ^ q.host.cqLog2 % 2 == 0))
      (onQp i (fun x => { x with cqTail := x.cqTail + 1 }) d)
    let d2 := if q.host.counterAddr = 0 then d1 else emit (.qpCounters i q.host.counterAddr q.sendCount q.recvCount) d1
    sendMsix q.host.vector d2

/-- A send work request completes (R328): an entry where it is asked for, or where its status is not OK. -/
def wrDone (i : Nat) (opcode : Nat) (wr : Wr) (status bytes : Nat) (d : Dev) : Dev :=
  let d1 := if status = 0 then onQp i (fun q => { q with sendCount := q.sendCount + 1 }) d else d
  if wr.signal || status != 0 then qpEntry i wr.tag wr.slot status opcode bytes 0 0 d1 else d1

/-- A receive completion (R332). -/
def recvDone (i : Nat) (index opcode bytes : Nat) (imm : W32) (src : Nat) (d : Dev) : Dev :=
  qpEntry i 0 index 0 opcode bytes imm src (onQp i (fun q => { q with recvCount := q.recvCount + 1 }) d)

/-! ## Keys (R320) -/

/-- Queue pairs of a domain in RTS. -/
def Dev.domainRts (d : Dev) (dom : Nat) : List Nat :=
  (d.rdma.qps.filter (fun e => e.2.state == .rts && e.2.host.domain == dom)).map (·.1)

/-- A key and its windows lapse once every queue pair of the domain has left RTS. -/
def lapseKey (dom : Nat) (d : Dev) : Dev :=
  if (d.domainRts dom).isEmpty then onRdma (fun r => { r with keys := tdel r.keys dom, wins := tdel r.wins dom }) d else d

/-- Two windows overlap. -/
def overlap (a b : Window) : Bool := decide (a.offset < b.offset + b.length ∧ b.offset < a.offset + a.length)

/-- No window of a list overlaps a later one. -/
def disjoint : List Window → Bool
  | [] => true
  | a :: t => t.all (fun b => !overlap a b) && disjoint t

/-- Whether a domain's windows are valid (R321); an unused one is not looked at. -/
def windowsOk (ws : List Window) : Bool :=
  let used := ws.filter (fun w => w.length != 0)
  decide (ws.length ≤ 16) && used.all (fun w => w.clean && decide (w.offset % 64 = 0)) && disjoint used

/-- Draw a domain's key: its number, and 26 random bits of a service lane's DRBG. -/
def drawKey (dom : Nat) (ws : List Window) (d : Dev) : Dev :=
  let k := BitVec.ofNat 32 (dom * 2 ^ 26 + (Config.free32 d.free).toNat % 2 ^ 26)
  drbgDraw 5 (onRdma (fun r => { r with
    keys := tput r.keys dom k, wins := tput r.wins dom (ws.filter (fun w => w.length != 0)) }) d)

/-! ## Leaving RTS, and WAIT (R326, R329, R333, R334) -/

/-- Work requests that are out complete as flushed. -/
def flushOuts (i : Nat) (os : List WrOut) (d : Dev) : Dev := each (fun o x => wrDone i o.opcode o.wr 3 0 x) os d

/-- A queue pair enters ERROR or RESET with a cause: `status` for its oldest work request where one is given, the rest
flushed, a WAIT too; its domain's key may lapse. -/
def leaveRts (i : Nat) (upto : QpSt) (cause : Nat) (status : Option Nat) (d : Dev) : Dev :=
  match d.qp i with
  | none => d
  | some q =>
    let d1 := onQp i (fun x => { x with state := upto, cause := cause, outs := [], waiting := none, inMsg := false, inBytes := 0,
                                        rnrWait := false }) d
    let d2 := match status, q.outs with
      | some st, o :: t => flushOuts i t (wrDone i o.opcode o.wr st 0 d1)
      | _, os => flushOuts i os d1
    let d3 := match q.waiting with
      | some w => wrDone i 6 w 3 0 d2
      | none => d2
    lapseKey q.host.domain d3

/-- A counter has reached a value (R333). -/
def reached (value counter : W64) : Bool := value - counter == 0 || decide (2 ^ 63 < (value - counter).toNat)

/-- The counter that a WAIT watches. -/
def watched (wr : Wr) (q : Qp) : W64 := if wr.option = 0 then q.sendCount else q.recvCount

/-- One WAIT that its watched queue pair decides. -/
def waitDue (d : Dev) : Option (Nat × Wr × Bool) :=
  d.rdma.qps.findSome? (fun e => e.2.waiting.bind (fun w =>
    match d.qp (w.localAddr % 2 ^ 24) with
    | some t =>
      if reached (BitVec.ofNat 64 w.remote) (watched w t) then some (e.1, w, true)
      else if t.state ≠ .rts then some (e.1, w, false) else none
    | none => some (e.1, w, false)))

/-- WAITs go on as far as they can; one whose watched queue pair has left RTS is broken, with cause 6. -/
def settleWaits : Nat → Dev → Dev
  | 0, d => d
  | n + 1, d =>
    match waitDue d with
    | none => d
    | some (i, w, true) => settleWaits n (wrDone i 6 w 0 0 (onQp i (fun q => { q with waiting := none }) d))
    | some (i, w, false) =>
      settleWaits n (leaveRts i .error 6 none (wrDone i 6 w 1 0 (onQp i (fun q => { q with waiting := none }) d)))

/-- Every WAIT that is due. -/
def waits (d : Dev) : Dev := settleWaits (d.rdma.qps.length + 1) d

/-- A queue pair fails (R329); one that serves a replication channel with cause 8 (R341). -/
def qpFail (i cause status : Nat) (d : Dev) : Dev :=
  let repl := ((d.qp i).map (·.host.repl)).getD false
  waits (leaveRts i .error (if repl then 8 else cause) (some status) d)

/-! ## QP_CONTEXT_CHANGE (R323, R326) -/

/-- Whether the base of a ring of `n` bytes is aligned (R258): to 4,096 bytes, or to its own size if smaller. -/
def ringBase (a n : Nat) : Bool := decide (a % min 4096 n = 0)

/-- Whether the host part of a context holds defined values (R323). -/
def contextOk (h : QpHost) : Bool :=
  h.clean && decide (1 ≤ h.domain ∧ h.domain ≤ 63 ∧ h.srcIp < 16 ∧ h.dscp < 64 ∧ 3 ≤ h.pmtu ∧ h.pmtu ≤ 5 ∧ h.vlan < 4096) &&
    decide (1 ≤ h.timeout ∧ h.timeout ≤ 31 ∧ h.retryCnt ≤ 7 ∧ h.rnrRetry ≤ 7 ∧ 1 ≤ h.rdOut ∧ h.rdOut ≤ 16 ∧ 1 ≤ h.rdIn ∧ h.rdIn ≤ 16) &&
    decide (h.cqLog2 ≤ 16 ∧ (h.vector < 2048 ∨ h.vector = 0xFFFF)) && ringBase h.cqBase (32 * 2 ^ h.cqLog2) &&
    (if h.repl then decide (2 ≤ h.txPage ∧ h.txPage < 48 ∧ 2 ≤ h.rxPage ∧ h.rxPage < 48 ∧ h.txPage ≠ h.rxPage)
     else decide (4 ≤ h.sqLog2 ∧ h.sqLog2 ≤ 16 ∧ h.sqLog2 + 1 ≤ h.cqLog2 ∧ h.rqLog2 ≤ 14 ∧ 8 ≤ h.rbufLog2 ∧ h.rbufLog2 ≤ 16) &&
       ringBase h.sqBase (64 * 2 ^ h.sqLog2) && ringBase h.rqBase (2 ^ h.rqLog2 * 2 ^ h.rbufLog2))

/-- RDMA_EN set, and both tables present (R349, R350). -/
def Dev.rdmaOn (d : Dev) : Bool := d.regs.rdmaCfg.getLsbD 0 && d.regs.qpcBase != 0 && d.regs.winBase != 0

/-- RESET to RTS: fields and windows checked, the key drawn by the first of its domain. -/
def enterRts (i : Nat) (q : Qp) (ws : List Window) (d : Dev) : Dev :=
  let h := q.host
  let first := (d.domainRts h.domain).isEmpty
  if !contextOk h || (first && !windowsOk ws) then onQp i (fun x => { x with state := .error, cause := 1 }) d
  else
    let d1 := if first then drawKey h.domain ws d else d
    cacheCtx i (onQp i (fun x => { x with
      state := .rts, cause := 0, sendCount := 0, recvCount := 0, sqHead := 0, cqTail := 0, rqHead := 0, rqTail := 0,
      sPsn := h.sqPsn, ePsn := h.rqPsn, msn := 0, rnrLeft := h.rnrRetry, retries := 0, rate := d.rdma.lineRate }) d1)

/-- A context is read again. -/
def contextChange (i : Nat) (gen : Byte) (h : QpHost) (ws : List Window) (d : Dev) : Dev :=
  let q := (d.qp i).getD (Qp.fresh h 0)
  if gen = q.gen then d
  else
    let put (x : Qp) : Dev := onRdma (fun r => { r with qps := tput r.qps i { x with gen := gen } }) d
    match q.state, h.stateReq with
    | .reset, 1 => enterRts i { q with host := h, gen := gen } ws (put { q with host := h })
    | .rts, 1 => put { q with host := { q.host with dscp := h.dscp, udpSport := h.udpSport, timeout := h.timeout,
                                                    retryCnt := h.retryCnt, rnrRetry := h.rnrRetry } }
    | .reset, 0 => put { q with host := h }
    | _, 0 =>
      let d1 := waits (leaveRts i .reset 0 none (put q))
      dropCtxOf i (writeContext i (onRdma (fun r => { r with qps := tput r.qps i (Qp.fresh h gen) }) d1))
    | .rts, 2 => waits (leaveRts i .error 0 none (put q))
    | _, _ => put q

/-! ## Send work requests (R327, R330) -/

/-- Whether a queue pair takes work requests: a host queue pair in RTS, serving no channel, that nothing blocks. -/
def Dev.qpTakes (d : Dev) (i : Nat) (wr : Wr) : Bool :=
  d.live && !d.glb.perstLow &&
  match d.qp i with
  | some q => q.state == .rts && !q.host.repl && q.waiting.isNone && !q.rnrWait &&
      !(wr.fence && q.outs.any (fun o => o.opcode == 4 || o.opcode == 5))
  | none => false

/-- A work request whose fields hold (R327): the message length of R317, and an option only where one is defined. -/
def wrOk (opcode : Nat) (wr : Wr) : Bool :=
  wr.clean && decide (wr.length ≤ 2 ^ 31) && decide (if opcode = 5 ∨ opcode = 6 then wr.option < 2 else wr.option = 0)

/-- A work request is taken from its slot, and its context is in the cache. -/
def takeWr (i : Nat) (wr : Wr) (d : Dev) : Dev :=
  cacheCtx i (onQp i (fun q => { q with sqHead := (wr.slot + 1) % 2 ^ q.host.sqLog2 }) d)

/-- A work request that breaks R317 or R327: those before it are flushed, and the queue pair is in error with cause 1. -/
def wrBad (i opcode : Nat) (wr : Wr) (status : Nat) (d : Dev) : Dev :=
  waits (wrDone i opcode wr status 0 (leaveRts i .error 1 none d))

/-- A message is sent: its PSNs follow the last message's (R317). -/
def sendWr (i opcode : Nat) (wr : Wr) (d : Dev) : Dev :=
  match d.qp i with
  | none => d
  | some q =>
    let n := if opcode = 5 then 1 else packetsOf q.host wr.length
    let o : WrOut := { opcode := opcode, wr := wr, lastPsn := q.sPsn + BitVec.ofNat 24 (n - 1), acked := 0 }
    emit (.rdmaSend i opcode q.sPsn wr (sendFrames (d.netHdr q.host) opcode q.sPsn wr (pathMtu q.host) n)) (onQp i (fun x => { x with outs := x.outs ++ [o], sPsn := q.sPsn + BitVec.ofNat 24 n }) d)

/-- A work request that is sent to the peer. -/
def postWr (i opcode : Nat) (wr : Wr) (d : Dev) : Dev :=
  if d.qpTakes i wr then
    let d1 := takeWr i wr d
    if wrOk opcode wr then sendWr i opcode wr d1 else wrBad i opcode wr 0x10 d1
  else d

/-- READs of a queue pair that are out. -/
def Qp.readsOut (q : Qp) : Nat := (q.outs.filter (fun o => o.opcode == 4)).length

/-- QP_READ: at most rd_out at once. -/
def postRead (i : Nat) (wr : Wr) (d : Dev) : Dev :=
  if ((d.qp i).map (fun q => decide (q.host.rdOut ≤ q.readsOut))).getD false then d else postWr i 4 wr d

/-- QP_NOP: completes in the order of its queue (R327); behind work requests that are out it waits. -/
def postNop (i : Nat) (wr : Wr) (d : Dev) : Dev :=
  if d.qpTakes i wr && ((d.qp i).map (fun q => q.outs.isEmpty)).getD false then
    let d1 := takeWr i wr d
    if wrOk 0 wr then waits (wrDone i 0 wr 0 0 d1) else wrBad i 0 wr 0x10 d1
  else d

/-- QP_WAIT (R333, R334). -/
def postWait (i : Nat) (wr : Wr) (d : Dev) : Dev :=
  if d.qpTakes i wr then
    let d1 := takeWr i wr d
    let w := wr.localAddr % 2 ^ 24
    match d.qp i, d.qp w with
    | some q, t =>
      if !wrOk 6 wr || w == i || tangoQp w || (t.map (·.host.repl)).getD false then wrBad i 6 wr 0x10 d1
      else if (t.map (fun x => x.host.domain != q.host.domain)).getD false then wrBad i 6 wr 0x0E d1
      else waits (onQp i (fun x => { x with waiting := some wr }) d1)
    | none, _ => d1
  else d

/-- QP_NOP. -/
def execQpNop (qp : Nat) (wr : Wr) (s : State) : Host.Outcome State Fault Refusal := .next { s with dev := postNop qp wr s.dev }
/-- QP_SEND. -/
def execQpSend (qp : Nat) (wr : Wr) (s : State) : Host.Outcome State Fault Refusal := .next { s with dev := postWr qp 1 wr s.dev }
/-- QP_WRITE. -/
def execQpWrite (qp : Nat) (wr : Wr) (s : State) : Host.Outcome State Fault Refusal := .next { s with dev := postWr qp 2 wr s.dev }
/-- QP_WRITE_IMM. -/
def execQpWriteImm (qp : Nat) (wr : Wr) (s : State) : Host.Outcome State Fault Refusal :=
  .next { s with dev := postWr qp 3 wr s.dev }
/-- QP_READ. -/
def execQpRead (qp : Nat) (wr : Wr) (s : State) : Host.Outcome State Fault Refusal := .next { s with dev := postRead qp wr s.dev }
/-- QP_FLUSH. -/
def execQpFlush (qp : Nat) (wr : Wr) (s : State) : Host.Outcome State Fault Refusal :=
  .next { s with dev := postWr qp 5 wr s.dev }
/-- QP_WAIT. -/
def execQpWait (qp : Nat) (wr : Wr) (s : State) : Host.Outcome State Fault Refusal := .next { s with dev := postWait qp wr s.dev }

/-! ## Acknowledgement, NAK and retry (R329, R330, R338) -/

/-- First PSN of an outstanding work request. -/
def firstPsn (h : QpHost) (o : WrOut) : BitVec 24 :=
  o.lastPsn - BitVec.ofNat 24 ((if o.opcode = 5 then 1 else packetsOf h o.wr.length) - 1)

/-- Packets of an outstanding work request. -/
def WrOut.packets (h : QpHost) (o : WrOut) : Nat := if o.opcode = 5 then 1 else packetsOf h o.wr.length

/-- An outstanding work request is sent again, from its first packet that is not acknowledged (R317). -/
def Dev.sendAgain (d : Dev) (i : Nat) (q : Qp) (o : WrOut) : Out :=
  let p := firstPsn q.host o
  .rdmaSend i o.opcode (p + BitVec.ofNat 24 o.acked) o.wr
    ((sendFrames (d.netHdr q.host) o.opcode p o.wr (pathMtu q.host) (o.packets q.host)).drop o.acked)

/-- The work requests that are left after an acknowledgement of `psn`: the first of them may have packets that it covers. A READ is asked
for again as a whole. -/
def ackedTo (h : QpHost) (psn : BitVec 24) : List WrOut → List WrOut
  | o :: t =>
    if o.opcode ≠ 4 ∧ precEq (firstPsn h o) psn ∧ precedes psn o.lastPsn then
      { o with acked := max o.acked (sdiff (firstPsn h o) psn + 1) } :: t
    else o :: t
  | [] => []

/-- Whether a PSN names an outstanding packet. -/
def Qp.names (q : Qp) (psn : BitVec 24) : Bool :=
  q.outs.any (fun o => precEq (firstPsn q.host o) psn && precEq psn o.lastPsn)

/-- The work requests that an acknowledgement of `psn` completes, in order: a READ only by its own last response. -/
def ackSplit (psn : BitVec 24) (resp : Bool) : List WrOut → List WrOut × List WrOut
  | [] => ([], [])
  | o :: t =>
    if !precEq o.lastPsn psn || (o.opcode == 4 && !(resp && o.lastPsn == psn)) then ([], o :: t)
    else
      let r := ackSplit psn resp t
      (o :: r.1, r.2)

/-- Complete what `psn` acknowledges: the data of a READ goes to host memory first. -/
def ackUpTo (i : Nat) (psn : BitVec 24) (resp : Bool) (data : List Byte) (d : Dev) : Dev :=
  match d.qp i with
  | none => d
  | some q =>
    let r := ackSplit psn resp q.outs
    let d1 := onQp i (fun x => { x with outs := ackedTo q.host psn r.2, retries := if r.1.isEmpty then x.retries else 0,
                                        rnrLeft := if r.1.isEmpty then x.rnrLeft else x.host.rnrRetry }) d
    each (fun o x =>
      let y := if o.opcode = 4 then hostData o.wr.localAddr data x else x
      wrDone i o.opcode o.wr 0 o.wr.length y) r.1 d1

/-- RDMA_ACK: an acknowledgement, or a READ's response where it carries data. -/
def rdmaAck (i : Nat) (psn : BitVec 24) (data : List Byte) (d : Dev) : Dev :=
  match d.qp i with
  | some q =>
    if q.state = .rts ∧ q.names psn then
      waits (ackUpTo i psn (!data.isEmpty || q.outs.any (fun o => o.opcode == 4 && o.lastPsn == psn && o.wr.length == 0)) data d)
    else d
  | none => d

/-- RDMA_ACK. -/
def execRdmaAck (qp : Nat) (psn : BitVec 24) (data : List Byte) (s : State) : Host.Outcome State Fault Refusal :=
  .next { s with dev := when (s.dev.live && !s.dev.glb.perstLow) (rdmaAck qp psn data) s.dev }

/-- Go-back-N: everything outstanding is sent again (R317). -/
def resend (i : Nat) (d : Dev) : Dev :=
  match d.qp i with
  | none => d
  | some q => emits (q.outs.map (d.sendAgain i q)) d

/-- A retry after a timeout or a sequence NAK, or the end of them. -/
def retry (i : Nat) (d : Dev) : Dev :=
  match d.qp i with
  | none => d
  | some q =>
    if q.host.retryCnt ≤ q.retries then qpFail i 3 0x0C d
    else resend i (onQp i (fun x => { x with retries := x.retries + 1 }) d)

/-- What a NAK does; what came before the packet that it names is acknowledged. -/
def nakAct (i : Nat) (code : NakCode) (d : Dev) : Dev :=
  match code with
  | .psnSeq => retry i d
  | .rnr _ => onQp i (fun q => { q with rnrWait := true }) d
  | .remoteAccess => qpFail i 2 0x0E d
  | .invalidRequest => qpFail i 7 0x10 d
  | .lengthExceeded => qpFail i 7 0x0D d

/-- RDMA_NAK. The packets of a REPL queue pair are its session's, which this model does not number. -/
def rdmaNak (i : Nat) (psn : BitVec 24) (code : NakCode) (d : Dev) : Dev :=
  match d.qp i with
  | some q =>
    if q.state = .rts ∧ (q.host.repl ∨ q.names psn) then nakAct i code (ackUpTo i (psn - 1) false [] d) else d
  | none => d

/-- RDMA_ACK_TIMEOUT: for a queue pair that expects an acknowledgement. -/
def ackTimeout (i : Nat) (d : Dev) : Dev :=
  match d.qp i with
  | some q => if q.state = .rts ∧ (q.host.repl ∨ q.outs ≠ []) then retry i d else d
  | none => d

/-- RNR_RETRY_TIMER: the requester tries again, unless its RNR retries are used up; 7 is no limit (R323). -/
def rnrRetry (i : Nat) (d : Dev) : Dev :=
  match d.qp i with
  | some q =>
    if q.state = .rts ∧ q.rnrWait then
      if q.host.rnrRetry = 7 then resend i (onQp i (fun x => { x with rnrWait := false }) d)
      else if q.rnrLeft = 0 then qpFail i 4 8 d
      else resend i (onQp i (fun x => { x with rnrWait := false, rnrLeft := x.rnrLeft - 1 }) d)
    else d
  | none => d

/-! ## Congestion (R319) -/

/-- CNP: the sending rate halves, to no less than 1 Gbit/s. -/
def gotCnp (i : Nat) (d : Dev) : Dev :=
  if d.regs.rdmaCfg.getLsbD 1 && d.inRts i then
    onRcnt (fun c => { c with cnpRcvd := c.cnpRcvd + 1 }) (onQp i (fun q => { q with rate := max 1000000000 (q.rate / 2) }) d)
  else d

/-- CNP. -/
def execCnp (qp : Nat) (s : State) : Host.Outcome State Fault Refusal :=
  .next { s with dev := when (s.dev.live && !s.dev.glb.perstLow) (gotCnp qp) s.dev }

/-- CNP_RATE_TIMER: the rate rises by one sixteenth of what it lacks of line rate. -/
def rateTimer (i : Nat) (d : Dev) : Dev :=
  if d.regs.rdmaCfg.getLsbD 1 && d.inRts i then onQp i (fun q => { q with rate := q.rate + (d.rdma.lineRate - q.rate) / 16 }) d else d

/-- CNP_RATE_TIMER. -/
def execCnpRateTimer (qp : Nat) (s : State) : Host.Outcome State Fault Refusal :=
  .next { s with dev := when (s.dev.live && !s.dev.glb.perstLow) (rateTimer qp) s.dev }

/-- A packet marked CE brings a CNP, at most one in CNP_GAP µs. -/
def answerCe (i : Nat) (d : Dev) : Dev :=
  match d.qp i with
  | none => d
  | some q =>
    let due := match q.cnpAt with
      | some t => decide (t + bits d.regs.rdmaCfg.toNat 15 8 * 1000 ≤ d.now)
      | none => true
    if d.regs.rdmaCfg.getLsbD 1 && due then
      emit (.rdmaCnp i (cnpFrame (d.netHdr q.host))) (onRcnt (fun c => { c with cnpSent := c.cnpSent + 1 }) (onQp i (fun x => { x with cnpAt := some d.now }) d))
    else d

/-! ## Incoming requests (R322, R331, R332, R338) -/

/-- The window that holds a whole range and grants an access. -/
def Dev.window (d : Dev) (dom : Nat) (may : Window → Bool) (a n : Nat) : Option Window :=
  (tgetD d.rdma.wins [] dom).find? (fun w => may w && decide (w.offset ≤ a ∧ a + n ≤ w.offset + w.length))

/-- Whether an operation may access what it names: the key in force, and the range in one window (R322). A FLUSH of the
whole domain needs one window that grants it. -/
def Dev.access (d : Dev) (q : Qp) (r : RdmaReq) : Option Window :=
  if tget d.rdma.keys q.host.domain ≠ some r.rkey then none
  else
    match r.op with
    | .write => d.window q.host.domain (·.write) r.remote r.length
    | .writeImm => d.window q.host.domain (·.write) r.remote r.length
    | .read => d.window q.host.domain (·.read) r.remote r.length
    | .flush => if r.length = 0 then (tgetD d.rdma.wins [] q.host.domain).find? (·.flush)
                else d.window q.host.domain (·.flush) r.remote r.length
    | _ => none

/-- A responder's NAK. -/
def sendNak (i : Nat) (psn : BitVec 24) (code : NakCode) (d : Dev) : Dev :=
  match d.qp i with
  | some q => emit (.rdmaNak i psn code (nakFrame (d.netHdr q.host) psn q.msn code)) d
  | none => d

/-- A responder's acknowledgement. -/
def sendAck (i : Nat) (psn msn : BitVec 24) (q : Qp) (d : Dev) : Dev := emit (.rdmaAck i psn msn (ackFrame (d.netHdr q.host) psn msn)) d

/-- Access refused: NAK Remote Access Error, and the responder is in ERROR with cause 2 (R322). -/
def refuseAccess (i : Nat) (psn : BitVec 24) (d : Dev) : Dev :=
  waits (leaveRts i .error 2 none (onRcnt (fun c => { c with accessNak := c.accessNak + 1 }) (sendNak i psn .remoteAccess d)))

/-- A request that has been executed: the PSNs it takes go to the duplicate record, of 256, and the context moves on. -/
def advance (i : Nat) (r : RdmaReq) (n : Nat) (d : Dev) : Dev :=
  onQp i (fun q =>
    let m := if r.last then q.msn + 1 else q.msn
    let e := q.ePsn + BitVec.ofNat 24 n
    let marks := (List.range n).foldl (fun t k => tput t (q.ePsn + BitVec.ofNat 24 k).toNat (m.toNat % 256, r.op)) q.dups
    { q with ePsn := e, msn := m, nakSent := false, inMsg := !r.last, inBytes := if r.last then 0 else q.inBytes + r.data.length,
             dups := marks.filter (fun x => decide (sdiff (BitVec.ofNat 24 x.1) e ≤ 256)) }) d

/-- The acknowledgement of a request. -/
def ackReq (i : Nat) (psn : BitVec 24) (d : Dev) : Dev :=
  match d.qp i with
  | some q => sendAck i psn q.msn q d
  | none => d

/-- A packet of a SEND: into the next receive buffer, or RNR NAK where none is free (R332). -/
def reqSend (i : Nat) (q : Qp) (r : RdmaReq) (d : Dev) : Dev :=
  if q.rqHead = q.rqTail then
    drawn (onRcnt (fun c => { c with rnrSent := c.rnrSent + 1 }) (sendNak i r.psn (.rnr (Config.freeNat d.free % 32)) d))
  else if 2 ^ q.host.rbufLog2 < q.inBytes + r.data.length then sendNak i r.psn .lengthExceeded d
  else
    let d1 := hostData (q.host.rqBase + q.rqHead * 2 ^ q.host.rbufLog2 + q.inBytes) r.data d
    let d2 := ackReq i r.psn (advance i r 1 d1)
    if r.last then
      recvDone i q.rqHead 0x81 (q.inBytes + r.data.length) 0 r.srcQpn
        (onQp i (fun x => { x with rqHead := (x.rqHead + 1) % 2 ^ x.host.rqLog2 }) d2)
    else d2

/-- A request at ePSN is executed. A FLUSH makes every earlier write visible by a zero-length read of host memory (R331). The index of a WRITE_IMM's receive completion names no buffer, so it is free. -/
def doReq (i : Nat) (q : Qp) (r : RdmaReq) (d : Dev) : Dev :=
  match r.op with
  | .unsupported => onRcnt (fun c => { c with badOp := c.badOp + 1 }) (sendNak i r.psn .invalidRequest d)
  | .send => reqSend i q r d
  | .read =>
    match d.access q r with
    | none => refuseAccess i r.psn d
    | some w =>
      let d1 := advance i r (packetsOf q.host r.length) d
      emit (.rdmaReadResp i r.psn (w.bus + (r.remote - w.offset)) r.length) d1
  | .flush =>
    if r.persist then sendNak i r.psn .invalidRequest d
    else match d.access q r with
      | none => refuseAccess i r.psn d
      | some _ => ackReq i r.psn (advance i r 1 (emit (.zeroRead i) d))
  | .write =>
    match d.access q r with
    | none => refuseAccess i r.psn d
    | some w => ackReq i r.psn (advance i r 1 (hostData (w.bus + (r.remote - w.offset) + q.inBytes) r.data d))
  | .writeImm =>
    match d.access q r with
    | none => refuseAccess i r.psn d
    | some w =>
      let d1 := ackReq i r.psn (advance i r 1 (hostData (w.bus + (r.remote - w.offset) + q.inBytes) r.data d))
      if r.last then drawn (recvDone i (Config.freeNat d.free % 65536) 0x83 (q.inBytes + r.data.length) r.imm r.srcQpn d1) else d1

/-- A duplicate (R338): a READ is executed again for what it names; any other is acknowledged with its recorded MSN. -/
def dupReq (i : Nat) (q : Qp) (r : RdmaReq) (d : Dev) : Dev :=
  match r.op with
  | .read =>
    match d.access q r with
    | none => refuseAccess i r.psn d
    | some w => emit (.rdmaReadResp i r.psn (w.bus + (r.remote - w.offset)) r.length) d
  | _ =>
    let m := ((tget q.dups r.psn.toNat).map (·.1)).getD 0
    onRcnt (fun c => { c with dupAck := c.dupAck + 1 })
      (sendAck i r.psn (q.msn - ((q.msn - BitVec.ofNat 24 m) &&& 0xFF)) q d)

/-- NAK PSN Sequence Error carrying ePSN. -/
def seqNak (i : Nat) (q : Qp) (d : Dev) : Dev :=
  onRcnt (fun c => { c with seqNak := c.seqNak + 1 }) (sendNak i q.ePsn .psnSeq d)

/-- A request packet of a queue pair in RTS whose context is cached, by its PSN (R338). -/
def psnReq (i : Nat) (r : RdmaReq) (d : Dev) : Dev :=
  match d.qp i with
  | none => d
  | some q =>
    let d0 := if r.ce then answerCe i d else d
    if r.psn = q.ePsn then doReq i q r d0
    else if precedes r.psn q.ePsn then (if sdiff r.psn q.ePsn ≤ 256 then dupReq i q r d0 else seqNak i q d0)
    else if q.nakSent then d0
    else seqNak i q (onQp i (fun x => { x with nakSent := true }) d0)

/-- Bytes parked for a port. -/
def Dev.parkedBytes (d : Dev) (port : Nat) : Nat :=
  ((d.rdma.parked.filter (fun p => p.port == port)).map (fun p => p.data.length)).sum

/-- A request whose context is not cached: parked, or dropped where its port's miss buffer of 256 KiB cannot hold it (R337). -/
def parkReq (i : Nat) (r : RdmaReq) (d : Dev) : Dev :=
  let d1 := fetchCtx i d
  if d1.parkedBytes r.port + r.data.length ≤ 262144 then
    onRcnt (fun c => { c with parked := c.parked + 1 }) (onRdma (fun x => { x with parked := x.parked ++ [r] }) d1)
  else if r.first && (r.op == .send || r.op == .write || r.op == .writeImm) then
    onRcnt (fun c => { c with rnrSent := c.rnrSent + 1 }) (sendNak i r.psn (.rnr 1) d1)
  else d1

/-- A request packet arrives (R318, R337). What a Tango queue pair, and a SEND of a REPL queue pair, carries is a message with a
row of its own. One whose ICRC does not hold is dropped (R317). -/
def rdmaRequest (r : RdmaReq) (d : Dev) : Dev :=
  let none_ := onRcnt (fun c => { c with noQp := c.noQp + 1 }) d
  if !r.icrcOk then d
  else if tangoQp r.qpn then (if r.port = 0 then d else none_)
  else if r.port ≠ 1 ∨ !d.regs.rdmaCfg.getLsbD 0 then none_
  else
    match d.qp r.qpn with
    | none => none_
    | some q =>
      if q.state ≠ .rts then none_
      else if q.host.repl ∧ r.op = .send then d
      else if (tget d.rdma.cached r.qpn).isSome ∧ !(d.rdma.parked.any (fun p => p.qpn == r.qpn)) then waits (psnReq r.qpn r d)
      else parkReq r.qpn r d

/-- RDMA_REQUEST. -/
def execRdmaRequest (r : RdmaReq) (s : State) : Host.Outcome State Fault Refusal :=
  .next { s with dev := when s.dev.live (rdmaRequest r) s.dev }

/-- A missed context has been fetched: it enters the cache, and what is parked for it is processed in order. -/
def fetchDone (i : Nat) (d : Dev) : Dev :=
  if d.rdma.waitCtx.contains i && d.inRts i then
    let d1 := cacheCtx i d
    if (tget d1.rdma.cached i).isSome then
      let mine := d1.rdma.parked.filter (fun p => p.qpn == i)
      waits (each (fun r x => if x.inRts i then psnReq i r x else x) mine
        (onRdma (fun x => { x with parked := x.parked.filter (fun p => p.qpn != i) }) d1))
    else d1
  else d

/-- CONTEXT_FETCH_DONE. -/
def execContextFetchDone (qp : Nat) (s : State) : Host.Outcome State Fault Refusal :=
  .next { s with dev := when (s.dev.live && !s.dev.glb.perstLow) (fetchDone qp) s.dev }

/-- PERST_N or a function level reset (R339): every queue pair of the context table is in RESET without entries, and every
key lapses. -/
def resetQps (d : Dev) : Dev :=
  onRdma (fun r => { r with qps := [], keys := [], wins := [], cached := [], waitCtx := [], parked := [] }) d

end Sys2Proof.Machine
end

