-- ==== Sys2Proof/Machine/Takeover.lean ====
section
/-! DEFINITION. Takeover (R299 to R304): the fence, the checkpoint and the mirrored journal applied, adoption of open entries
(R192), groups resumed from their standby rings; stepping down; the start alone from a journal dump (R195, R246). -/

namespace Sys2Proof.Machine
open Sys2Proof

/-! ## Ownership -/

/-- The partner's number. -/
def Dev.other (d : Dev) : Nat := 1 - d.self

/-- The mask of a list of groups. -/
def maskGroups (l : List (Fin 4)) : BitVec 4 := l.foldl (fun m g => m ||| (1 <<< g.val)) 0

/-- The role that this head holds, as an envelope states it (R281): the groups that it owns, and that it is not resynchronising. -/
def Dev.role (d : Dev) : Byte :=
  ((maskGroups d.owned).setWidth 8) ||| (if d.tango.state = 1 then 0 else 16)

/-- Slots of drives that this head writes to: admitted, not failed, at a port that counts as having a drive (R172). -/
def Dev.inService (d : Dev) : List Nat := (List.range 48).filter (fun s => !d.gone s)

/-- Register this head's key on every admitted drive (R289, R291). -/
def registerAll (d : Dev) : Dev :=
  let d1 := each registerDrive d.inService d
  onTango (fun t => { t with key := resKey d.glb.headB d.tango.epoch }) d1

/-- The last epoch that a claim may raise to (R288): 2^40 − 1 is refused. -/
def epochEnd : Nat := 2 ^ 40 - 1

/-- After a change of the ownership table, and at a new session, the next LEDGER of a group is a baseline alone (R297). -/
def resetBases (d : Dev) : Dev :=
  { d with lg := ⟨{ d.lg.a0 with ledgerBase := none },
                  { d.lg.a1 with ledgerBase := none },
                  { d.lg.a2 with ledgerBase := none },
                  { d.lg.a3 with ledgerBase := none }⟩ }

/-- An ownership table and its epoch take effect together (R288). -/
def setTable (owners : Four Nat) (epoch : Nat) (d : Dev) : Dev :=
  resetBases (onTango (fun t => { t with owners := owners, epoch := epoch, epochMax := max t.epochMax epoch }) d)

/-- The table with the groups of a list given to a head. -/
def giveTo (h : Nat) (gs : List (Fin 4)) (o : Four Nat) : Four Nat := gs.foldl (fun x g => x.put g h) o

/-- Slots of a ring that are resident. -/
def heldSlots (l : List Slot) : Nat := (l.filter (fun s => s.state != 0)).length

/-- A group claimed with no standby data of use (R291): what its ring holds is released, and its pipe takes up at its landing
SRAM. The ring is a raw ring of `n` slots. -/
def freshOwn (n : Nat) (g : Fin 4) (d : Dev) : Dev :=
  onLedger g (fun l =>
    let k := heldSlots l.ring
    { l with ring := [], released := l.released + BitVec.ofNat 64 k, resident := l.resident - BitVec.ofNat 64 k, nRaw := n,
             ringPos := l.oldest, commit := l.oldest - 1, carried := 0, ledgerHdrs := [] }) d

/-! ## Stepping down (R304) -/

/-- Slots of an owned group that its pipe or its stripes hold when the head steps down: released, as a standby ring's are that
are overwritten (R78). What is landed or in its raw ring becomes its standby ring; what awaits heal does so to its deadline (R91). -/
def releaseCarried (g : Fin 4) (d : Dev) : Dev :=
  let n := (d.pipes.at g).holding + (d.lg.at g).carried
  onPipe g (fun p => { p with tileBuf := [], tileLoss := false, tileSlots := 0, tileGood := 0, frame := none, frameGap := false,
                              fromOpen := false, ready := [], stripe := none, refPend := 0, closed := [], cstate := none })
    (onLedger g (fun l => trimStandby { l with
      released := l.released + BitVec.ofNat 64 n, resident := l.resident - BitVec.ofNat 64 n, carried := 0 }) d)

/-- The references that wait in a stripe are gone, and pin nothing (R121). -/
def unpinStripe (sb : StripeBuf) (d : Dev) : Dev :=
  if sb.source = 4 then d
  else onCat (fun c => (sb.entries.filter (fun e => e.flags.getLsbD 0)).foldl (fun y e => y.unpin sb.volume e.fp) c) d

/-- The buffers of a pipe's open stripe are freed. -/
def freeOpen (g : Fin 4) (d : Dev) : Dev :=
  match (d.pipes.at g).stripe with
  | some sb => unpinStripe sb (freeBuffers sb d)
  | none => d

/-- A part of the groups `gs` that go to the partner: its chain stops here, and its register is free. It stays this head's to write where
this head keeps a group of it (`keep`), though its chain and its map go on at the partner (R163, R305; DEDUCED, notes/assumptions/69.md). -/
def Part.give (gs keep : BitVec 4) (p : Part) : Part :=
  if p.mine && p.groups &&& gs != 0 then
    { p with reg := none, due := none, lent := p.groups &&& keep != 0, mine := p.groups &&& keep != 0 }
  else p

/-- The parts of a take of the groups `gs` go to the partner; with none left, the take has gone (R304). -/
def dropParts (gs keep : BitVec 4) (t : Take) (d : Dev) : Dev :=
  let regs := (t.parts.filter (fun p => p.mine && p.groups &&& gs != 0)).filterMap (·.reg)
  onTake t.volume t.id (fun x =>
    let ps := x.parts.map (Part.give gs keep)
    { x with parts := ps, away := x.away || (x.parts.any (·.mine) && !ps.any (·.mine)) }) (regs.foldl (fun x r => freeMr r x) d)

/-- TAKE_CLOSE descriptors of takes that go on at the partner complete with NOT_OWNER (R304). -/
def refuseCloses (d : Dev) : Dev :=
  let ts := d.cat.takes.filter (fun t => t.state == .closing && t.away)
  settled (ts.foldl (fun x t =>
    match t.closeHdr with
    | some h => complete h 0x41 0x0E 0 0 (onTake t.volume t.id (fun y => { y with closeHdr := none }) x)
    | none => x) d)

/-- A planned handover ends here: its HANDOVER, where this head's host gave it, completes with a status. -/
def dropHand (status : Nat) (r0 : W64) (d : Dev) : Dev :=
  match d.tango.hand with
  | none => d
  | some x =>
    let d1 := onTango (fun t => { t with hand := none }) d
    match x.h with
    | some h => complete h 0x1B status r0 0 d1
    | none => d1

/-- Replicas go with the head that writes them (R348; DEDUCED, notes/assumptions/75.md). -/
def ownReplicas (mine : Bool) (d : Dev) : Dev :=
  onCat (fun c => { c with takes := c.takes.map (fun t =>
    if t.replica && t.active then { t with parts := t.parts.map (fun p => { p with mine := mine, lent := false }) } else t) }) d

/-- A head that steps down receives no replica any more: each offer ends, and its source is told (DEDUCED, notes/assumptions/75.md). -/
def dropReplicas (d : Dev) : Dev :=
  ownReplicas false (each (fun x y =>
    if x.2.source || x.2.offer.isNone then y else endAccept x.1 0x0A (replMsg x.1 (.replError x.1 (y.partLength x.2) 0x0A) y)) d.repl d)

/-- The head steps down from the groups that it owns, for the row of R304's list counted from 1. -/
def stepDown (cause : Nat) (d : Dev) : Dev :=
  let gs := d.owned
  let m := maskGroups gs
  let d1 := each freeOpen gs d
  let gone := d1.vault.sealedQ ++ d1.vault.opened.map (·.buf)
  let d2 := each (fun sb x => unpinStripe sb (freeBuffers sb x)) gone d1
  let d3 := each releaseCarried gs (onVault (fun v => { v with
    sealedQ := [], opened := [], lagW := [], mdc := none, mdcWait := [], mdcAgain := false }) d2)
  let d4 := dropReplicas (d3.cat.takes.foldl (fun x t => if t.active && !t.replica then dropParts m 0 t x else x) d3)
  let d5 := (List.range 48).foldl (fun x s => onDrive s (fun y => { y with registered := false, held := [] }) x) d4
  let d6 := refuseCloses (setTable (giveTo d.other gs d.tango.owners) d.tango.epoch d5)
  let d7 := onTango (fun t => { t with state := 1, stepped := true, key := 0, waiting := false }) (dropHand 0x0A 0 d6)
  let d8 := { d7 with ih := { d7.ih with stepdowns := d7.ih.stepdowns + 1 } }
  notifyAll (logEvent 0x0604 noInstance [BitVec.ofNat 32 cause, BitVec.ofNat 32 d.tango.epoch] d8)

/-! ## Entries of another head's journal -/

/-- An open record, as it stands in a journal. -/
structure OpenRec where
  jr     : JRec
  volume : Nat
  takeId : Nat
  gsn    : W32
  group  : Nat
  maint  : Bool
  ents   : List Entry
  mask   : BitVec 18
  state  : Option GState
deriving DecidableEq, Repr

/-- The open records of a journal, with the group states mirrored with them. -/
def openRecs (recs : List JRec) (sts : List (Nat × GState)) : List OpenRec :=
  recs.filterMap (fun r => match r.body with
    | .stripeOpen v t gsn g _ m es mask =>
      let o : OpenRec :=
        { jr := r, volume := v, takeId := t, gsn := gsn, group := g, maint := m, ents := es, mask := mask,
          state := (sts.find? (fun x => x.1 == r.jseq)).map (·.2) }
      some o
    | _ => none)

/-- Whether an entry has its retire record. -/
def isRetired (recs : List JRec) (j : Nat) : Bool := recs.any (fun r => match r.body with
  | .stripeRetire k => k == j
  | _ => false)

/-- The entry that a discarded one was replaced by (R192, step 1). -/
def replacedBy (recs : List JRec) (j : Nat) : Option Nat := recs.findSome? (fun r => match r.body with
  | .stripeDiscard a b => if a = j then some b else none
  | _ => none)

/-- The entry that an entry replaced. -/
def replacedFrom (recs : List JRec) (j : Nat) : Option Nat := recs.findSome? (fun r => match r.body with
  | .stripeDiscard a b => if b = j then some a else none
  | _ => none)

/-- The first of the entries that an entry replaced in turn. Fuel: records. -/
def firstOf (recs : List JRec) : Nat → Nat → Nat
  | 0, j => j
  | n + 1, j =>
    match replacedFrom recs j with
    | some a => firstOf recs n a
    | none => j

/-- The place of an entry in its source's order (R205): that of the entry that it replaces, which may have replaced another. -/
def orderOf (recs : List JRec) (j : Nat) : Nat := firstOf recs recs.length j

/-- The part that an entry's tiles belong to. -/
def partOfRec (t : Take) (o : OpenRec) : Nat :=
  match o.state with
  | some s => s.part
  | none => ((t.parts.find? (fun p => p.groups.getLsbD o.group)).orElse (fun _ => t.parts.head?)).map (·.idx) |>.getD 0

/-- A stripe is in use. -/
def useStripe (e : Nat × Nat) (d : Dev) : Dev :=
  if d.vault.inUse.contains e then d else onVault (fun v => { v with inUse := v.inUse ++ [e] }) d

/-- Commit another head's entry: what its take's part does not hold yet (R302). -/
def commitRec (o : OpenRec) (d : Dev) : Dev :=
  let d0 := useStripe (o.jr.layout, o.jr.subject) d
  match d0.take o.volume o.takeId with
  | none => d0
  | some t =>
    let p := partOfRec t o
    let have_ := ((t.part p).map (·.entries)).getD []
    let held := ((t.part p).map (·.frames)).getD []
    let es := o.ents.filter (fun e => !have_.any (fun x => x.tileSeq == e.tileSeq))
    let fs := ((o.state.map (·.closed)).getD []).filter (fun f => !held.any (fun x => x.frame == f.frame && x.group == f.group))
    let sb := { StripeBuf.fresh o.jr.layout o.jr.subject o.volume o.takeId p o.jr.source o.group (0, 0) o.gsn with
                entries := es, frames := fs, maint := o.maint }
    commitTiles sb d0

/-! ## Adoption (R192) -/

/-- Adopt one entry: its retire record in this head's journal, and its tiles committed. -/
def adoptEntry (o : OpenRec) (d : Dev) : Dev :=
  let d1 := appendRec o.jr.source o.jr.layout o.jr.subject (.stripeRetire o.jr.jseq) none d
  onVcnt (fun c => { c with retired := c.retired + 1, adopted := c.adopted + 1 }) (commitRec o d1)

/-- Discard one entry: its stripe is free, its tiles are not committed. -/
def discardEntry (o : OpenRec) (d : Dev) : Dev :=
  onVcnt (fun c => { c with discarded := c.discarded + 1 })
    (freeStripe (o.jr.layout, o.jr.subject) (useStripe (o.jr.layout, o.jr.subject) d))

/-- One entry is decided (R192, steps 1 and 2): its members are read, with the volume of its open record as their application tag (R507),
and what fails R181 counts. The Reads go on queue 3 (DESIGN CHOICE, notes/assumptions/64.md). -/
def judgeEntry (reads : List AdoptIn) (o : OpenRec) (d : Dev) : Dev × Option (LayoutRec × Adopt) :=
  match d.layout o.jr.layout with
  | none => (d, none)
  | some l =>
    let m := ((reads.find? (fun a => a.jseq == o.jr.jseq)).map (·.members)).getD []
    let app := BitVec.ofNat 16 o.volume
    let s := o.jr.subject
    (countStripe l s app m (emits (d.stripeReads l s (some app) (List.range l.members) m) d),
      some (l, judgeStripe l (d.readStripe l s app m)))

/-- The open entries of one source, in its order: adopted up to the first that is not, the rest discarded. Answers the last
one adopted. -/
def adoptSource (reads : List AdoptIn) : List OpenRec → Option OpenRec → Dev → Dev × Option OpenRec
  | [], last, d => (d, last)
  | o :: rest, last, d =>
    match judgeEntry reads o d with
    | (d1, some (_, .yes)) => adoptSource reads rest (some o) (adoptEntry o d1)
    | (d1, some (l, .mended k b)) =>
      adoptSource reads rest (some o) (oweStrip true l (BitVec.ofNat 16 o.volume) o.jr.subject k b (adoptEntry o d1))
    | (d1, _) => (each discardEntry (o :: rest) d1, last)

/-- Open entries of a source, in its order. -/
def openOf (recs : List JRec) (os : List OpenRec) (src : Nat) : List OpenRec :=
  (os.filter (fun o => o.jr.source == src && !isRetired recs o.jr.jseq && (replacedBy recs o.jr.jseq).isNone)).mergeSort
    (fun a b => upTo64 (orderOf recs a.jr.jseq) (orderOf recs b.jr.jseq))

/-- What a journal record does to what this head knows of the vault (R300, step 5): remaps, claims and losses. -/
def applyRec (r : JRec) (d : Dev) : Dev :=
  match r.body with
  | .remap f sp fc sc =>
    onVault (fun v =>
      let old := v.remaps.filter (fun x => !(x.layout == r.layout && x.failed == f && x.chunk == fc))
      { v with remaps := if sp = f then old else
          old ++ [{ layout := r.layout, failed := f, chunk := fc, spare := sp, spareChunk := sc }] }) d
  | .periodClaim =>
    if d.tango.refused.contains (r.layout, r.subject, r.jseq) ||
        d.vault.claims.any (fun c => c.layout == r.layout && c.period == r.subject) then d
    else onVault (fun v => { v with claims := v.claims ++
      [{ layout := r.layout, period := r.subject, headB := r.headB, accepted := true, jseq := r.jseq }] }) d
  | .stripeLost m =>
    if d.vault.lost.contains (r.layout, r.subject, m) then d
    else onVault (fun v => { v with lostFlag := true, lost := v.lost ++ [(r.layout, r.subject, m)] }) d
  | _ => d

/-! ## The checkpoint (R295) -/

/-- The newest checkpoint whose CRC holds. -/
def Dev.newestCkpt (d : Dev) : Option Ckpt :=
  (d.tango.ckpts.filter (·.crcOk)).foldl (fun o c => match o with
    | some x => if before64 x.seq c.seq then some c else some x
    | none => some c) none

/-- A volume that a checkpoint names and this head does not hold; of one that both hold, each head's own take counter is the newest
(R216). -/
def learnCkptVolume (v : Volume) (d : Dev) : Dev :=
  match d.volume v.id with
  | none => onCat (fun c => { c with volumes := c.volumes ++ [v] }) d
  | some _ => onVolume v.id (fun x => if d.glb.headB then { x with ctrA := v.ctrA } else { x with ctrB := v.ctrB }) d

/-- What a checkpoint says of a take's parts: one that this head does not hold is added, with its groups. -/
def learnParts (i : TakeInfo) (t : Take) : Take :=
  let more := i.parts.filter (fun p => (t.part p.1).isNone)
  { t with parts := t.parts ++ more.map (fun p => Part.blank p.1 p.2 false), groups := t.groups ||| i.r.groups }

/-- A take that a checkpoint names and this head does not hold, or whose parts it does not hold all. -/
def learnTake (i : TakeInfo) (d : Dev) : Dev :=
  if (d.take i.r.volume i.takeId).isSome then onTake i.r.volume i.takeId (learnParts i) d
  else
    let t : Take :=
      { volume := i.r.volume, id := i.takeId, layout := i.layout,
        state := if i.state = 0 then .open_ else if i.state = 1 then .closing else .closed_,
        groups := i.r.groups, chan := none, domain := i.domain, page := i.r.page, kcv := i.kcv, hkey := i.r.hkey, dedup := i.r.dedup,
        start := i.r.startFrame, limitFrame := i.limitFrame, openGsn := [], begun := 0, ended := 0, endAt := [], stage := 0,
        parts := i.parts.map (fun p => Part.blank p.1 p.2 false), pending := [], openTime := i.r.openTime, closeTime := i.closeTime,
        reason := i.reason,
        reel := if i.r.reel then some { n := i.r.ringN, preNs := i.r.preNs, postNs := i.r.postNs, limit := i.r.segLimit,
                                        minimum := i.r.ringN, stripes := [], segs := [], nextSeg := 1 } else none,
        closeHdr := none, addenda := [], lossDue := [], replica := i.replica, told := true, away := false, adopted := false, undone := false, erased := false }
    onCat (fun c => { c with takes := c.takes ++ [t] }) d

/-- A part that the partner has closed: its map, its frames, its counts and its seal are as it says (R232). Its entries count as
references (R120). -/
def learnPart (v id : Nat) (x : PartInfo) (d : Dev) : Dev :=
  match (d.take v id).bind (fun t => (t.part x.idx).map (fun p => (t, p))) with
  | none => d
  | some (t, p) =>
    if p.own then d
    else
      let new := x.entries.drop p.entries.length
      let d1 := onCat (fun c => new.foldl (commitRef t.layout v false false) c) d
      onTake v id (fun y => { y.onPart x.idx (fun q => { q with
        records := x.records, segments := x.segments, entries := x.entries, frames := x.frames, metaIdx := x.metaIdx
        pagedEnts := x.entries.length, pagedFrames := x.frames.length, tilePageLoc := x.tilePage, framePageLoc := x.framePage
        closeDone := true, sealed_ := x.sealed_ }) with ended := y.ended ||| x.groups }) d1

/-- Entries and frames of a part that this head does not hold yet. -/
def learnEntries (r : Nat × Nat × Nat × List Entry) (d : Dev) : Dev :=
  let fresh (p : Part) : List Entry := r.2.2.2.filter (fun e => !p.entries.any (fun x => x.tileSeq == e.tileSeq))
  onPart r.1 r.2.1 r.2.2.1 (fun p => { p with entries := p.entries ++ fresh p }) d

/-- Frames of a part that this head does not hold yet. -/
def learnFrames (r : Nat × Nat × Nat × List FrameRec) (d : Dev) : Dev :=
  let fresh (p : Part) : List FrameRec :=
    r.2.2.2.filter (fun f => !p.frames.any (fun x => x.frame == f.frame && x.group == f.group))
  onPart r.1 r.2.1 r.2.2.1 (fun p => { p with frames := p.frames ++ fresh p }) d

/-- The ring of a Reel take, as the checkpoint has it. -/
def learnRing (i : RingInfo) (d : Dev) : Dev :=
  onReel i.volume i.takeId (fun q => { q with
    stripes := i.stripes, minimum := i.minimum, nextSeg := i.segs.foldl (fun n s => max n (s.1 + 1)) q.nextSeg
    segs := q.segs ++ (i.segs.filter (fun s => !q.segs.any (fun x => x.id == s.1))).map
      (fun s => .start s.1 s.2.1 s.2.2.1 s.2.2.2 [] []) }) d

/-- A checkpoint is loaded: takes, tails, allocation and reference counts (R295). -/
def loadCkpt (c : Ckpt) (d : Dev) : Dev :=
  let d1 := each learnTake (c.takes.filter (fun i => decide (i.state < 3))) (each learnCkptVolume c.volumes d)
  let d2 := each learnFrames c.frames (each learnEntries c.entries d1)
  let d3 := each useStripe c.inUse (each learnRing c.rings d2)
  onCat (fun k => { k with refs := c.refs.foldl (fun t r => tput t r.1 r.2) k.refs }) d3

/-- The take goes CLOSING here too: its groups are stopped, or it ends below the successor's first frame (R223). -/
def closeFar (i : TakeInfo) (t : Take) (d : Dev) : Dev :=
  let d1 := onTake t.volume t.id (fun x => { x with
    state := .closing, reason := i.reason, closeTime := i.closeTime, limitFrame := i.limitFrame }) d
  let gs := groupList.filter (fun g => t.hasGroup g && d.owns g)
  advanceTake t.volume t.id (if i.limitFrame.isSome then each consume gs d1 else stopGroups 1 gs d1)

/-- A part that this head opened for a TAKE_OPEN that is undone goes (R270): it closes at once on groups where it has not begun, else
before the next frame, and is removed. -/
def undoTake (t : Take) (d : Dev) : Dev :=
  advanceTake t.volume t.id (onTake t.volume t.id (fun x => { x with
    state := .closing, undone := true, limitFrame := some 0, ended := x.ended ||| ~~~x.begun }) d)

/-- One take record of a checkpoint that has come (R295): the partner's closed parts are learnt, and the take follows its state there:
it closes, it is CLOSED, or it is DELETED (R217, R223, R232; DEDUCED, notes/assumptions/71.md). -/
def noteTake (i : TakeInfo) (d : Dev) : Dev :=
  let v := i.r.volume
  let d1 := if i.state = 2 then learnTake i d else if (d.take v i.takeId).isSome then onTake v i.takeId (learnParts i) d else d
  let d2 := each (learnPart v i.takeId) i.closed d1
  match d2.take v i.takeId with
  | none => d2
  | some t =>
    let d3 := onTake v i.takeId (fun x => { x with ended := x.ended ||| i.ended }) d2
    if t.replica then d3
    else if i.state = 3 then
      if t.active then undoTake t d3
      else if t.state = .closed_ then onTake v i.takeId (fun x => { x with told := true }) (deleteTake t d3) else d3
    else if i.state = 2 then onTake v i.takeId (fun x => { x with told := true }) (if t.active then takeClosed v i.takeId d3 else d3)
    else if i.state = 1 ∧ t.state = .open_ then closeFar i t d3
    else advanceTake v i.takeId d3

/-- Volumes and takes of a checkpoint that has come. -/
def noteCkpt (c : Ckpt) (d : Dev) : Dev := purgeTakes (each noteTake c.takes (each learnCkptVolume c.volumes d))

/-! ## Groups resumed (R302, R303) -/

/-- The group state that a new owner continues from, and its C. -/
structure Resume where
  group  : Fin 4
  commit : W32
  state  : Option GState
deriving DecidableEq, Repr

/-- The last entry of a source that is retired or adopted and follows the checkpoint, else the checkpoint's state; with
neither, the C that the owner last reported (R283). -/
def Dev.resumeOf (d : Dev) (g : Fin 4) (done : List OpenRec) (last : Option OpenRec) : Resume :=
  match (last.orElse (fun _ => done.getLast?)), d.newestCkpt with
  | some o, _ => { group := g, commit := o.gsn, state := o.state }
  | none, some c => { group := g, commit := c.commits.at g, state := c.groups.find? (fun s => s.group == g.val) }
  | none, none => { group := g, commit := ((d.tango.beat).map (fun b => b.commitGsn.at g)).getD (d.lg.at g).commit, state := none }

/-- The standby ring of a group becomes its raw ring (R25, R303), of `n` slots from here on (R76): slots up to C are released, the others
stay. -/
def adoptRing (n : Nat) (r : Resume) (d : Dev) : Dev :=
  onLedger r.group (fun l =>
    let old := l.ring.filter (fun s => precEq s.pkt.gsn r.commit)
    let k := heldSlots old
    { l with ring := l.ring.filter (fun s => !precEq s.pkt.gsn r.commit), released := l.released + BitVec.ofNat 64 k,
             resident := l.resident - BitVec.ofNat 64 k, nRaw := n, ringPos := r.commit + 1, commit := r.commit,
             carried := 0, ledgerHdrs := [] }) d

/-- The pipe continues from a group state (R302). The CRC of an open frame's bytes so far is in no message: it is free. -/
def resumePipe (r : Resume) (d : Dev) : Dev :=
  let e := (d.lg.at r.group).expect
  match r.state with
  | none => onPipe r.group (fun p => { p with frame := none, held := false, order := { frame := none, last := none, gap := true }, unchecked := some e, tileBuf := [], tileSlots := 0, tileGood := 0, ready := [], stripe := none,
                                              closed := [], refPend := 0, cstate := none }) d
  | some s =>
    let f := if s.frameOpen then s.frame else none
    let off := (f.map (·.recorded)).getD 0
    drawn (onPipe r.group (fun p => { p with
      frame := f, frameGap := (f.map (fun x => x.flags.getLsbD 4)).getD false, frameCrc := Config.free32 d.free, framePos := off
      fromOpen := (f.map (fun x => decide (x.declared ≠ 0))).getD false, tileBuf := [], tileLoss := false, tileSlots := 0
      tileGood := 0, tileOff := off, nextTile := s.nextTile, lastGsn := s.commitGsn, ready := [], stripe := none, refPend := 0
      closed := [], cstate := some s, held := false, unchecked := some e
      order := { frame := f.map (fun x => (x.frame, off)), last := none, gap := true } }) d)

/-- The takes of a group go on at this head: it writes their parts, from C + 1 on where they had begun. -/
def resumeTakes (r : Resume) (d : Dev) : Dev :=
  onCat (fun c => { c with takes := c.takes.map (fun t =>
    if t.active && t.hasGroup r.group && !t.replica then
      let b := r.state.isSome
      { t with
        begun := if b then t.begun ||| (1 <<< r.group.val) else t.begun
        openGsn := if (tget t.openGsn r.group.val).isSome then t.openGsn else tput t.openGsn r.group.val (r.commit + 1)
        adopted := t.adopted || t.parts.any (fun p => p.groups.getLsbD r.group.val && !p.mine), away := false
        parts := t.parts.map (fun p => if p.groups.getLsbD r.group.val then
          { p with mine := true, lent := false, metaIdx := max p.metaIdx ((r.state.map (·.nextMeta)).getD 0) } else p) }
    else t) }) d

/-- A part that is now this head's continues its chain: linked to the checkpoint's value, or opened afresh; at 65,535 segments
the part closes unsealed, and its groups go on in a new part (R163, R165). The checkpoint's segments go before its own. -/
def resumeChain (chains : List ChainHand) (t : Take) (p : Part) (d : Dev) : Dev :=
  match chains.find? (fun c => c.volume == t.volume && c.takeId == t.id && c.part == p.idx) with
  | some c =>
    if 65535 ≤ c.segments.length then
      let q : Part := { Part.blank (p.idx + 2) p.groups true with metaIdx := p.metaIdx }
      let close (y : Part) : Part := if y.idx = p.idx then { y with groups := 0, closeDone := true, reg := none } else y
      let d1 := onTake t.volume t.id (fun x => { x with parts := x.parts.map close ++ [q] }) d
      openChain t.volume t.id (p.idx + 2) d1
    else
      beginChain t.volume t.id p.idx (some (c.value, c.count))
        (onPart t.volume t.id p.idx (fun q => { q with segments := c.segments }) d)
  | none => openChain t.volume t.id p.idx d

/-- Chains of every part of the groups named that this head writes now and has no register for. -/
def resumeChains (gs : BitVec 4) (chains : List ChainHand) (d : Dev) : Dev :=
  d.cat.takes.foldl (fun x t =>
    if t.active && t.reel.isNone && !t.replica then
      (t.parts.filter (fun p => p.mine && p.reg.isNone && p.due.isNone && !p.closeDone && p.groups &&& gs != 0)).foldl
        (fun y p => resumeChain chains t p y) x
    else x) d

/-- The INGEST channel that an adopted take attaches to (R312): the lowest of its domain with room. -/
def Dev.channelFor (d : Dev) (t : Take) : Option Nat :=
  (d.hif.chans.find? (fun e => e.2.ctype == 1 && e.2.domain == t.domain && (tget d.hif.dying e.1).isNone &&
    decide ((d.cat.takes.filter (fun x => x.active && x.chan == some e.1)).length < 2))).map (·.1)

/-- Attach every take that this head has adopted and that has no channel. -/
def attachTakes (d : Dev) : Dev :=
  d.cat.takes.foldl (fun x t =>
    if t.active && t.chan.isNone && t.adopted && t.parts.any (·.mine) then
      onTake t.volume t.id (fun y => { y with chan := x.channelFor t }) x
    else x) d

/-- A stop that the old owner had in force on a group is made by this head (R312): one by exhaustion may resume without a host
command. -/
def inheritStop (g : Fin 4) (d : Dev) : Dev :=
  match d.tango.beat with
  | none => d
  | some b =>
    let s := b.stop.at g
    if s.getLsbD 0 then
      let d1 := stopGroup 2 g d
      if s.getLsbD 1 && !s.getLsbD 2 then
        onGroup g (fun x => { x with stop := x.stop.map (fun y => { y with hostAllows := true, exhaustion := true }) }) d1
      else d1
    else d

/-- The TRIGGER records of the old owner, from the checkpoint and from TRIGGER_FWD, are written again and re-pinned (R302,
R241, R312). -/
def repin (r : Nat × TrigRec) (d : Dev) : Dev :=
  match d.cat.takes.find? (fun t => t.id == r.1 && t.active && !t.replica) with
  | none => d
  | some t =>
    let d1 := match d.layoutOf t with
      | some l => if t.reel.isSome && decide (r.2.outcome ≤ 1) then (pinTrigger l t r.2.time d).1 else d
      | none => d
    let part := ((t.parts.find? (·.mine)).map (·.idx)).getD 0
    onTake t.volume t.id (fun x => { x with pending := x.pending ++ [{ body := .trig r.2, part := part, seg := 0, src := none }] }) d1

/-- The outputs of the lost head are reported, one by one (R308). -/
def reportOutput (o : Nat × Nat × Nat × Nat × Nat) (d : Dev) : Dev :=
  logEvent 0x0606 noInstance [BitVec.ofNat 32 o.1, BitVec.ofNat 32 o.2.1, BitVec.ofNat 32 o.2.2.1, BitVec.ofNat 32 o.2.2.2.1,
    BitVec.ofNat 32 o.2.2.2.2, BitVec.ofNat 32 (o.2.2.2.2 / 2 ^ 32)] d

/-! ## The fence (R300, steps 3 and 4) -/

/-- The highest epoch seen in a registration check. -/
def topEpoch (t : TakeoverIn) : Nat := t.reports.foldl (fun m r => max m (keysEpoch r.keys)) 0

/-- The key of a head that a check found on a drive, or, where that drive did not answer, on any (R300, step 3). -/
def foundKey (headB : Bool) (t : TakeoverIn) (slot : Nat) : Option W64 :=
  match t.reports.find? (·.slot == slot) with
  | some r => r.keys.find? (keyOfHead headB)
  | none => t.reports.findSome? (fun r => r.keys.find? (keyOfHead headB))

/-- The two commands of the fence on one drive: this head's key, and the partner's preempted. -/
def fenceDrive (headB : Bool) (key : W64) (t : TakeoverIn) (slot : Nat) : List Out :=
  [.nvme slot 4 (.register key), .nvme slot 4 (.acquire key (foundKey (!headB) t slot))]

/-- The highest epoch that a head has seen, the check's among them (R300, step 3). -/
def Dev.epochSeen (d : Dev) (t : TakeoverIn) : Nat := max (max d.tango.epochMax d.tango.epoch) (topEpoch t)

/-- The fence: the arbiter first, alone; then every other admitted drive (R301). -/
def fence (t : TakeoverIn) (e : Nat) (d : Dev) : Dev :=
  let cmds := fenceDrive d.glb.headB (resKey d.glb.headB e) t
  let answered := (t.reports.map (·.slot)).filter (fun s => d.inService.contains s)
  match answered.min? with
  | none => d
  | some a =>
    let d1 := emits (cmds a) d
    if t.conflicts.contains a then d1
    else emits ((d1.inService.filter (· != a)).map cmds).flatten d1

/-- Fenced drives hold this head's key, which it has confirmed. -/
def confirmAll (d : Dev) : Dev := d.inService.foldl (fun x s => onDrive s (fun y => { y with registered := true }) x) d

/-- Everything of R300 after the fence, for the groups `gs` at epoch `e`. The lost head's maintenance goes on from the progress area (R201,
R209, R312). -/
def takeGroups (t : TakeoverIn) (gs : List (Fin 4)) (e : Nat) (d : Dev) : Dev :=
  let ck := d.newestCkpt
  let recs := d.tango.mirror.filter (fun r => (ck.map (fun c => before64 c.coversJseq r.jseq)).getD true)
  let d1 := ownReplicas true (each applyRec recs ((ck.map (fun c => loadCkpt c d)).getD d))
  let os := openRecs recs d1.tango.mirrorSt
  let done := os.filter (fun o => isRetired recs o.jr.jseq)
  let d2 := each commitRec done (onTango (fun x => { x with epoch := e, key := resKey d.glb.headB e }) d1)
  -- groups whose cut this head has taken already: only the giving head's entries up to it are left (R312)
  let cut := (d.tango.hand.map (fun x => if !x.giving && x.stage == 3 then groupsIn x.groups else [])).getD []
  let srcs : List Nat := (gs ++ cut).map (·.val) ++ [4, 5]
  let r := srcs.foldl (fun (x : Dev × List (Nat × Option OpenRec)) s =>
    let y := adoptSource t.adoption (openOf recs os s) none x.1
    (y.1, x.2 ++ [(s, y.2)])) (d2, [])
  let resumes := gs.map (fun g => d.resumeOf g (done.filter (fun o => o.jr.source == g.val)) (((r.2.find? (·.1 == g.val)).map (·.2)).join))
  let d3 := setTable (giveTo d.self gs r.1.tango.owners) e r.1
  let d4 := each (fun z x => resumeTakes z (resumePipe z (adoptRing standbySlots z x))) resumes d3
  let d5 := attachTakes (resumeChains (maskGroups gs) ((ck.map (·.chains)).getD []) d4)
  let d6 := each repin (((ck.map (·.triggers)).getD []) ++ d.tango.fwdTrigs) d5
  let d7 := each reportOutput ((ck.map (·.outputs)).getD []) d6
  let d8 := resumeAll t.sys d7
  each inheritStop gs (onTango (fun x => { x with mirror := [], mirrorSt := [], ckpts := [], fwdTrigs := [], placed := 0 }) d8)

/-- A takeover ends: logged, counted, the host told; the pipes resume (R300, step 7). -/
def endTakeover (gs : List (Fin 4)) (e : Nat) (d : Dev) : Dev :=
  let st := match d.tango.hand with
    | some x => if !x.giving && (x.stage == 3 || x.stage == 9) then 0 else if x.giving && x.stage == 3 then 0x0A else 8
    | none => 0
  let d1 := onTango (fun t => { t with state := 3, session := false, owing := false, takeoverHeld := false,
                                       lostRace := false, stepped := false, waiting := false })
    (dropHand st (if st = 0 then BitVec.ofNat 64 e else 0) d)
  let d2 := { d1 with ih := { d1.ih with takeovers := d1.ih.takeovers + 1 } }
  let d3 := onVault (fun v => { v with opened := v.opened.map (fun o => { o with waitHand := false }) }) d2
  let d4 := notifyAll (logEvent 0x0603 noInstance [(maskGroups gs).setWidth 32, BitVec.ofNat 32 e] d3)
  retireReady (each consume groupList d4)

/-- A takeover of groups, from step 2 (R300, R301): the new epoch, the fence, and what follows. A Reservation Conflict loses the
race. A drive that fails during the fence is dropped from it. -/
def takeOver (t : TakeoverIn) (gs : List (Fin 4)) (d : Dev) : Dev :=
  let e := d.epochSeen t + 1
  if epochEnd ≤ e then fatalStop 0x0609 noInstance (addrWords e) false d
  else
    let d1 := fence t e (each (fun s x => failDrive s none x) t.failed d)
    if t.conflicts.isEmpty then endTakeover gs e (takeGroups t gs e (confirmAll d1))
    else stepDown 3 (onTango (fun x => { x with lostRace := true, epochMax := max x.epochMax (topEpoch t) }) d1)

/-- The groups that a takeover claims: the partner's, where they are paired (R287). -/
def Dev.takeable (d : Dev) : List (Fin 4) :=
  groupList.filter (fun g => d.tango.owners.at g == d.other && d.tango.paired.getLsbD g.val)

/-- A key of this head is on every drive that answered the check (R299). -/
def Dev.keyIntact (d : Dev) (t : TakeoverIn) : Bool := t.reports.all (fun r => r.keys.any (keyOfHead d.glb.headB))

/-! ## The start alone from a dump (R195, R246) -/

/-- The dump that a start uses: the valid copy of the highest dump_seq. -/
def bestDump (headB : Bool) (ds : List DumpIn) : Option DumpIn := newestOf dumpSeqOf (ds.filter (dumpValid headB))

/-- The trailing frame tiles of a part that no frame record names: the committed prefix of a frame that was open. -/
def looseTiles (p : Part) (g : Nat) : List Entry :=
  p.entries.filter (fun e => seqSource e.tileSeq == g && !p.frames.any (fun f => tileOfFrame f e))

/-- A frame that was partly committed at a restart carries FRAME_TRUNCATED (R246). What its FRAME_OPEN declared is on no drive
that the start reads, so those fields are free. -/
def truncated (g : Nat) (es : List Entry) (free : Nat) : List FrameRec :=
  match es with
  | [] => []
  | e :: _ =>
    let n := es.length * 65536
    [{ frame := (Config.free64 free).setWidth 48, group := g, cls := Config.freeNat (free + 1) % 256, flags := 0x40,
       format := (Config.free32 (free + 2)).setWidth 16, firstGsn := Config.free32 (free + 3), timestamp := Config.free64 (free + 4),
       firstTile := seqIndex e.tileSeq, declared := n + Config.freeNat (free + 5), recorded := n, width := Config.freeNat (free + 6),
       lines := Config.freeNat (free + 7), firstLine := Config.freeNat (free + 8), lineStep := Config.freeNat (free + 9),
       lineBytes := Config.freeNat (free + 10), closeCrc := 0, exposure := Config.free64 (free + 11), dataPackets := 0,
       partnerStatus := 0, committed := n, dnr := 0, lostOnLink := 0, overRun := 0, landingOverflow := 0, hbmUnc := 0, excess := 0,
       truncated := Config.freeNat (free + 5) }]

/-- A Reel take's ring is discarded at a restart, and its open segments close unsealed (R241). -/
def ReelSt.atRestart (q : ReelSt) : ReelSt :=
  { q with stripes := [], segs := q.segs.map (fun s => if s.closed then s else { s with closed := true, full := true, reason := 3 }) }

/-- Every take that is OPEN or CLOSING closes at its committed point, with close_reason 3 and its parts unsealed; its pages and its
manifest are then written (R241, R246). -/
def closeAtRestart (t : Take) (d : Dev) : Dev :=
  let cutPart (p : Part) : Part :=
    { p with reg := none, due := none, closeDone := true, sealed_ := none, mine := true, lent := false,
             frames := p.frames ++ (groupList.map (fun g => if p.groups.getLsbD g.val then
               truncated g.val (looseTiles p g.val) (d.free + 16 * g.val) else [])).flatten }
  let ring := (t.reel.map (·.stripes)).getD []
  let d1 := match d.layoutOf t with
    | some l => each freeStripe ring (dropStripes l t (ring.map (·.2)) d)
    | none => d
  { onTake t.volume t.id (fun x => { x with
      state := .closing, stage := 1, ended := 15, reason := 3, closeTime := 0, told := false, chan := none, closeHdr := none
      parts := x.parts.map cutPart, reel := x.reel.map ReelSt.atRestart }) d1 with free := d1.free + 64 }

/-- The dump headers of this head are overwritten with zeros (R195). -/
def zeroHeaders (ds : List DumpIn) (d : Dev) : Dev :=
  let lba := stripLba d.glb.headB
  emits ((ds.filter (fun x => x.header.take 4 == [0x4F, 0x43, 0x4A, 0x44])).map (fun x => Out.nvmeWrite 4 x.slot lba 1 (sysTag lba) 0 (zeros 4096))) d

/-- The next dump and the next record number on from what a dump shows (R188, R194). -/
def pastDump (x : DumpIn) (d : Dev) : Dev :=
  onVault (fun v => { v with
    dumpSeq := later64 v.dumpSeq (dumpSeqOf x)
    jseq := (((dumpRecords x).getLast?).map (fun r => later64 v.jseq (next64 r.jseq))).getD v.jseq }) d

/-- A start that runs alone applies its own dump where its epoch is the one in force, then closes what was open (R192, R195,
R246). -/
def startFromDump (t : TakeoverIn) (epochBefore : Nat) (ds : List DumpIn) (d : Dev) : Dev :=
  let d1 := match bestDump d.glb.headB ds with
    | some x =>
      let d0 := pastDump x d
      if dumpEpoch x = epochBefore then
        let recs := dumpRecords x
        let os := openRecs recs []
        let y := each commitRec (os.filter (fun o => isRetired recs o.jr.jseq)) (each applyRec recs d0)
        ([0, 1, 2, 3, 4, 5] : List Nat).foldl (fun z s => (adoptSource t.adoption (openOf recs os s) none z).1) y
      else d0
    | none => d
  let open_ := d1.cat.takes.filter (·.active)
  zeroHeaders ds (open_.foldl (fun x tk => closeAtRestart tk x) d1)

end Sys2Proof.Machine
end

