-- ==== Sys2Proof/Machine/Checkpoint.lean ====
section
/-! DEFINITION. The checkpoint that an owner writes to its partner every 10 ms (R163, R295), and its LEDGER at each audit tick
(R297). -/

namespace Sys2Proof.Machine
open Sys2Proof

/-! ## The checkpoint (R295) -/

/-- Parts of active takes whose chain or map this head keeps, each with its take: of replicas too, which a survivor goes on with (R348). -/
def Dev.openParts (d : Dev) : List (Take × Part) :=
  ((d.cat.takes.filter (·.active)).map (fun t => (t.parts.filter (·.own)).map (fun p => (t, p)))).flatten

/-- A PART section's chain: register value, tile records, segments. -/
def Dev.chainOf (d : Dev) (x : Take × Part) : Option ChainHand :=
  x.2.reg.map (fun r => { volume := x.1.volume, takeId := x.1.id, part := x.2.idx, value := d.mr r, count := x.2.records,
                          segments := x.2.segments })

/-- A RING_REC section. -/
def ringInfo (t : Take) : Option RingInfo :=
  t.reel.map (fun r => { volume := t.volume, takeId := t.id, minimum := r.minimum, stripes := r.stripes,
                         segs := (r.segs.filter (fun s => !s.closed)).map (fun s => (s.id, s.trigTime, s.winStart, s.winEnd)) })

/-- What opened a take, as TAKE_OPEN named it. -/
def Take.request (t : Take) : OpenReq :=
  { volume := t.volume, groups := t.groups, reel := t.reel.isSome, page := t.page, hkey := t.hkey, dedup := t.dedup,
    startFrame := t.start, openTime := t.openTime, ringN := (t.reel.map (·.n)).getD 0, segLimit := (t.reel.map (·.limit)).getD 0,
    preNs := (t.reel.map (·.preNs)).getD 0, postNs := (t.reel.map (·.postNs)).getD 0 }

/-- What a checkpoint tells of a closed part. -/
def Part.info (p : Part) : PartInfo :=
  { idx := p.idx, groups := p.groups, records := p.records, segments := p.segments, entries := p.entries, frames := p.frames,
    metaIdx := p.metaIdx, tilePage := p.tilePageLoc, framePage := p.framePageLoc, sealed_ := p.sealed_ }

/-- Groups of a take that have ended at this head, with nothing of the take on its way (R223). -/
def Dev.endedHere (d : Dev) (t : Take) : BitVec 4 :=
  if d.takeBusy t || !t.pending.isEmpty then 0 else t.ended &&& maskGroups d.owned

/-- A take record of the TAKES section. -/
def Dev.takeInfo (d : Dev) (t : Take) : TakeInfo :=
  { r := t.request, takeId := t.id, layout := t.layout, domain := t.domain, kcv := t.kcv,
    dkcv := ((d.volume t.volume).map (·.dkcv)).getD 0, parts := t.parts.map (fun p => (p.idx, p.groups)),
    state := match t.state with
      | .open_ => 0
      | .closing => 1
      | .closed_ => 2
      | .deleted => 3
    reason := t.reason, closeTime := t.closeTime, limitFrame := t.limitFrame, ended := d.endedHere t
    replica := t.replica
    closed := if t.state == .deleted then [] else (t.parts.filter (fun p => p.own && p.closeDone)).map Part.info }

/-- Whether a take's record goes into a checkpoint: it is active, or the partner has not been told of its last state. -/
def Take.changed (t : Take) : Bool := t.active || !t.told

/-- A checkpoint has carried the records of takes; the take_id of a TAKE_OPEN that was undone is the next again (R270). -/
def toldTakes (d : Dev) : Dev :=
  let ids := (d.cat.takes.filter (fun t => t.undone && t.state == .deleted && !t.told)).map (fun t => (t.volume, t.id))
  purgeTakes (each (fun x y => giveBack x.1 x.2 y) ids
    (onCat (fun c => { c with takes := c.takes.map (fun t => if t.active then t else { t with told := true }) }) d))

/-- A record of the OUTPUT section: channel type, volume, take, part, last sequence number sent (R308). -/
def Dev.outputOf (d : Dev) (ch : Chan) : Option (Nat × Nat × Nat × Nat × Nat) :=
  match ch.job with
  | some (.play j) => some (ch.ctype, j.volume, j.takeId, j.part, ((d.sl.groups.at j.group).playNext - 1).toNat)
  | some (.send j) => some (ch.ctype, j.volume, j.takeId, j.part, j.next - 1)
  | _ => none

/-- TRIGGER records that are not in a stripe yet, with their takes. -/
def Dev.openTriggers (d : Dev) : List (Nat × TrigRec) :=
  (d.cat.takes.map (fun t => t.pending.filterMap (fun m => match m.body with
    | .trig r => some (t.id, r)
    | _ => none))).flatten

/-- What a GROUP section says beside the group state: E, M, P, C, L and A of an owned group (R295). -/
def Dev.gauge (d : Dev) (g : Fin 4) : Nat × List W32 :=
  let l := d.lg.at g
  (g.val, [l.expect, l.oldest, l.ringPos, l.commit, (d.sl.groups.at g).limit, BitVec.ofNat 32 l.allow])

/-- The checkpoint of this moment. It reflects every journal record before the oldest open entry. -/
def Dev.checkpoint (d : Dev) : Ckpt :=
  let parts := d.openParts
  let c (g : Fin 4) : W32 := (d.lg.at g).commit
  { seq := next64 d.tango.ckptSeq, epoch := d.tango.epoch, coversJseq := d.covered, metadataSeq := d.vault.metaSeq, volumes := d.cat.volumes,
    groups := d.owned.filterMap (fun g => (d.pipes.at g).cstate), commits := ⟨c 0, c 1, c 2, c 3⟩,
    chains := parts.filterMap d.chainOf,
    entries := parts.map (fun x => (x.1.volume, x.1.id, x.2.idx, x.2.entries)),
    frames := parts.map (fun x => (x.1.volume, x.1.id, x.2.idx, x.2.frames)),
    inUse := d.vault.inUse.filter (fun e => !d.disk.inUse.contains e), freed := d.vault.freedNext,
    refs := d.cat.refs.filter (fun e => !d.disk.cat.refs.contains e),
    rings := d.cat.takes.filterMap (fun t => if t.active then ringInfo t else none),
    takes := (d.cat.takes.filter Take.changed).map d.takeInfo, gauges := d.owned.map d.gauge,
    outputs := d.hif.chans.filterMap (fun e => d.outputOf e.2), triggers := d.openTriggers, crcOk := true }

/-- The checkpoint is written to the partner and CKPT_DONE sent, by an owner and by a head with a take record to tell; one whose staging was found uncorrectable is not (R356). -/
def sendCkpt (d : Dev) : Dev :=
  if d.tango.ckptBad then onTango (fun t => { t with ckptBad := false }) d
  else if d.tango.session && (!d.owned.isEmpty || d.cat.takes.any Take.changed) then
    toldTakes (onTango (fun t => { t with ckptSeq := next64 t.ckptSeq }) (tangoSend 3 (.ckpt d.checkpoint) d))
  else d

/-- Do `f`; a checkpoint that it stages follows a CLEAN_REGION on entry 8 (R371). -/
def stagedState (f : Dev → Dev) (s : State) : State :=
  let s1 := { s with dev := f s.dev }
  if s1.dev.tango.ckptSeq = s.dev.tango.ckptSeq then s1 else maintDone (cleanLines (s1.dev.inEntry 8) (syncHot s1))

/-! ## LEDGER (R297) -/

/-- A group's entry of LEDGER, and the headers that are left for the next. CRC_VALID: a LEDGER was sent at the tick before, and the header of
every slot of the range is there, so that none was dropped. -/
def Dev.ledgerOf (d : Dev) (g : Fin 4) : LedgerEnt × List Byte :=
  let l := d.lg.at g
  let hs := headerChunks (l.ledgerHdrs.length / 30) l.ledgerHdrs
  let now := hs.filter (fun h => precEq (headerGsn h) l.commit)
  let ok := (l.ledgerBase.map (fun b => b.2 + 1 == d.audit.ticks && now.length == sdiff b.1 l.commit)).getD false
  ({ group := g, crcValid := ok, c := l.commit, committed := l.committed, dropped := l.dropped, crc := crc32c now.flatten },
    (hs.filter (fun h => !precEq (headerGsn h) l.commit)).flatten)

/-- Groups that a LEDGER covers: owned and paired. -/
def Dev.fedGroups (d : Dev) : List (Fin 4) := groupList.filter (fun g => d.owns g && d.tango.paired.getLsbD g.val)

/-- LEDGER is sent at an audit tick; what it covers is the next one's baseline. -/
def sendLedger (d : Dev) : Dev :=
  let gs := d.fedGroups
  if !d.tango.session || gs.isEmpty then d
  else
    let note (g : Fin 4) (x : Dev) : Dev :=
      onLedger g (fun l => { l with ledgerBase := some (l.commit, d.audit.ticks), ledgerHdrs := (d.ledgerOf g).2 }) x
    each note gs (tangoSend 1 (.ledger (gs.map (fun g => (d.ledgerOf g).1))) d)

end Sys2Proof.Machine
end

