-- ==== Sys2Proof/Machine/Tango.lean ====
section
/-! DEFINITION. Tango's session, ownership and joining (R278 to R291), heartbeats and the detection of a lost partner (R283,
R284, R299), and the receive discipline of R281 and R311. -/

namespace Sys2Proof.Machine
open Sys2Proof

/-! ## The receive discipline (R280, R281, R311) -/

/-- PAIR_EN of ETH_IH_CFG (R313). -/
def Dev.pairEn (d : Dev) : Bool := d.regs.ihCfg.getLsbD 0

/-- AUTO_TAKEOVER of ETH_IH_CFG (R313). -/
def Dev.autoTakeover (d : Dev) : Bool := d.regs.ihCfg.getLsbD 1

/-- The inter-head protocol runs: started at the first lock (R458), with PAIR_EN set. -/
def Dev.pairOn (d : Dev) : Bool := d.working && d.tango.started && d.pairEn

/-- The pair runs and this head is not kept out of it by a clash or by its level (R286). -/
def Dev.joins (d : Dev) : Bool := d.pairOn && !d.tango.clash && !d.tango.barred

/-- A message is refused with NAK: 0 epoch, 1 role, 2 level (R282). -/
def refuseMsg (qp type reason : Nat) (seq : W64) (d : Dev) : Dev :=
  tangoSend qp (.nak type seq reason d.tango.epoch d.tango.owners) d

/-- A message that fails R311 is discarded, counted and refused. -/
def roleRefuse (qp type reason : Nat) (seq : W64) (d : Dev) : Dev :=
  refuseMsg qp type reason seq { d with ih := { d.ih with roleDiscard := d.ih.roleDiscard + 1 } }

/-- A message that does not authenticate is discarded and counted (R280); a tag that does not verify is logged, naming page 1 and no
channel (R147). -/
def tangoBad (e : Env) (d : Dev) : Dev :=
  let d1 := { d with ih := { d.ih with authFail := d.ih.authFail + 1 } }
  if d.ciphOn && (d.page 1).state == .ready && !e.auth then logEvent 0x0702 1 [0xFFFFFFFF] d1 else d1

/-- A message of a type (R282) arrives on a queue pair: authenticated under page 1 (R280), of a level in force (R282), and, where it is not
`exempt`, of this head's epoch or that named, with the role that this head holds (R311). Its decryption on a service lane has ended as it
arrives (notes/assumptions/68.md). -/
def tangoIn (qp type : Nat) (exempt : Bool) (epoch : Nat) (e : Env) (f : Dev → Dev) (d : Dev) : Dev :=
  if !d.ciphOn ∨ (d.page 1).state ≠ .ready ∨ !e.auth then tangoBad e d
  else
    let d1 := onTango (fun t => { t with rxSeqs := tput t.rxSeqs qp (next64 e.seq.toNat) }) d
    if d.tango.cl < e.level then refuseMsg qp type 2 e.seq d1
    else if exempt then f d1
    else if e.epoch ≠ d.tango.epoch ∧ e.epoch ≠ epoch then roleRefuse qp type 0 e.seq d1
    else if e.role ≠ d.role then roleRefuse qp type 1 e.seq d1
    else f d1

/-- A message that R311 checks. -/
def checkedIn (qp type : Nat) (e : Env) (f : Dev → Dev) (d : Dev) : Dev := tangoIn qp type false d.tango.epoch e f d

/-- A message that R311 exempts. -/
def exemptIn (qp type : Nat) (e : Env) (f : Dev → Dev) (d : Dev) : Dev := tangoIn qp type true 0 e f d

/-! ## Claims at start (R288, R291) -/

/-- Acquire the reservation on every drive, where none is held. -/
def acquireAll (d : Dev) : Dev := emits (d.inService.map (fun s => Out.nvme s 4 (.acquire d.tango.key none))) d

/-- This head's normal groups (R20): 0 and 1 at head A, 2 and 3 at head B. -/
def Dev.normal (d : Dev) : List (Fin 4) := if d.glb.headB then [2, 3] else [0, 1]

/-- Claim groups at an epoch (R288, R291): they resume at their first FRAME_OPEN after the claim. -/
def claimGroups (n : Nat) (gs : List (Fin 4)) (e : Nat) (d : Dev) : Dev :=
  if epochEnd ≤ e then fatalStop 0x0609 noInstance (addrWords e) false d
  else
    let d1 := setTable (giveTo d.self gs d.tango.owners) e d
    each (refreshLimit ·) gs (acquireAll (registerAll (each (freshOwn n) gs d1)))

/-! ## HELLO (R280, R285, R286) -/

/-- The level at which HELLO and R_HELLO are formed, before any pair level is in force (DESIGN CHOICE, notes/assumptions/67.md). -/
def helloLevel : Nat := 1

/-- A HELLO of this head, up to its signature (R285). -/
def Dev.helloNow (d : Dev) (nonce : W256) (draw : Nat) : Hello :=
  { serial := Config.serial, headB := d.glb.headB, state := d.tango.state, levelMax := d.levelMax, levelMin := d.levelMin,
    vaultLevel := d.vault.vaultLevel, fwVersion := d.boot.fwVersion, vaultId := d.vault.vaultId,
    epochMax := max d.tango.epochMax d.tango.epoch, nonce := nonce, ecdhPub := pointBytes (Point.times 384 (scalarOf (Config.freeNat draw)) p384g),
    link := d.linkSections, certs := d.boot.identity.getD [], body := [], signature := 0 }

/-- A HELLO signed with the device key; the secret number is draw `n` (R143, R280). -/
def signHello (m : Hello) (n : Nat) : Hello :=
  { m with body := helloBytes m, signature := deviceSign (sha384 (helloBytes m)) n }

/-- HELLO and R_HELLO leave in clear, with an envelope whose iv_ctr is zero (R281, R342). -/
def sendClear (qp : Nat) (head : List Byte) (m : Hello) (c : Option Nat) (d : Dev) : Dev :=
  emits [.wire qp 0 (head ++ m.body ++ beBytes m.signature), .hello m c] d

/-- Send HELLO: a nonce and an ephemeral key of service lane 0's DRBG are drawn for each attempt, and a secret number for each signature
(R280, R143). -/
def sendHello (d : Dev) : Dev :=
  let d1 :=
    if d.tango.helloSent then d
    else drbgDraw 4 (drbgDraw 4 (onTango (fun t => { t with helloSent := true, nonce := Config.free256 d.free, ecdhDraw := d.free + 1 }) d))
  let m := signHello (d1.helloNow d1.tango.nonce d1.tango.ecdhDraw) d1.free
  let head := tangoHead 0x01 helloLevel (bit d.glb.headB) d.farRole (m.body.length + 96) d.tango.epoch 0 ++ zeros 8
  sendClear 0x100 head m none (drbgDraw 4 d1)

/-- ASCII of a KDF label. -/
def labelTango : List Byte := [0x4F, 0x43, 0x53, 0x31, 0x34, 0x34, 0x30, 0x2D, 0x54, 0x41, 0x4E, 0x47, 0x4F]

/-- The counter-mode KDF of R280: 72 bytes from Z, the two serials and the two nonces, head A's first. -/
def sessionBytes (label : List Byte) (z : W384) (serialA serialB : W64) (nonceA nonceB : W256) : List Byte :=
  let input (i : Nat) : List Byte :=
    (leBytes 4 i).reverse ++ label ++ [0] ++ wordBytes serialA ++ wordBytes serialB ++ beBytes nonceA ++ beBytes nonceB ++
      (leBytes 4 576).reverse
  (beBytes (hmac384 (beBytes z) (input 1)) ++ beBytes (hmac384 (beBytes z) (input 2))).take 72

/-- Load pages 0 and 1 with the session's keys: page 0 sends, page 1 receives (R280, step 4). -/
def loadSession (m : Hello) (d : Dev) : Dev :=
  let z := ecdh (scalarOf (Config.freeNat d.tango.ecdhDraw)) m.ecdhPub
  let b := d.glb.headB
  let k := sessionBytes labelTango z (if b then m.serial else Config.serial) (if b then Config.serial else m.serial)
    (if b then m.nonce else d.tango.nonce) (if b then d.tango.nonce else m.nonce)
  let key (o : Nat) (x : Dev) (p : Nat) : Dev := loadKey p (slice k o 32) (BitVec.ofNat 32 (fieldAt k (o + 32) 4)) 0 x
  key (if b then 0 else 36) (key (if b then 36 else 0) (stopJobs (fun j => decide (j.page < 2)) 1 d) 0) 1

/-- Why a HELLO is not accepted (R280, step 2): 0 chain, 1 signature, 2 vault_id. -/
def helloFault (vaultId : W64) (m : Hello) : Option Nat :=
  if !Config.chainOk m.certs then some 0
  else if !ecdsaVerify (Config.leafKey m.certs) (sha384 m.body) m.signature then some 1
  else if m.vaultId ≠ vaultId then some 2
  else none

/-- A verified HELLO of the other head, at a level that both can run: keys, KEY_CONFIRM (R280). -/
def acceptHello (m : Hello) (d : Dev) : Dev :=
  let d1 := sendHelloFirst d
  let d2 := onTango (fun t => { t with
    partner := some m, cl := min d1.levelMax m.levelMax, migrated := false, partnerLevel := m.levelMax, epochMax := max t.epochMax m.epochMax
    farLink := m.link, confirmed := true, verifyFailed := false, seqs := [(0, 1)], rxSeqs := [] }) (loadSession m d1)
  match d2.tangoJob 0 0 (.keyConfirm none) with
  | some j => submitJob j d2
  | none => d2
where
  /-- A head that has sent no HELLO yet sends its own. -/
  sendHelloFirst (d : Dev) : Dev := if d.tango.helloSent then d else sendHello d

/-- HELLO (R280, R285, R286). One that arrives during a session starts it anew; none forms while IDENTITY_OK is 0 (R444). A clash or a
level too high keeps this head out of the pair until a HELLO that no longer shows it. -/
def hello (m : Hello) (d : Dev) : Dev :=
  let d0 := if d.tango.session then onTango (fun t => { t with session := false, helloSent := false }) d else d
  match helloFault d0.vault.vaultId m with
  | some c =>
    logEvent 0x060A noInstance [BitVec.ofNat 32 c, m.serial.setWidth 32, (m.serial >>> 32).setWidth 32]
      (onTango (fun t => { t with verifyFailed := true, helloSent := false }) d0)
  | none =>
    if m.headB = d0.glb.headB then
      if d0.tango.clash then d0
      else notifyAll (logEvent 0x0601 noInstance [BitVec.ofNat 32 d0.self] (onTango (fun t => { t with clash := true }) d0))
    else
      let cl := min d0.levelMax m.levelMax
      if cl < max (max d0.levelMin m.levelMin) (max d0.vault.vaultLevel m.vaultLevel) then
        let mine : List W32 := [BitVec.ofNat 32 d0.levelMin, BitVec.ofNat 32 d0.vault.vaultLevel]
        let far : List W32 := [BitVec.ofNat 32 m.levelMin, BitVec.ofNat 32 m.vaultLevel]
        let higher := decide (m.levelMax < d0.levelMax)
        logEvent 0x0607 noInstance ([BitVec.ofNat 32 cl] ++ (if d0.glb.headB then far ++ mine else mine ++ far))
          (onTango (fun t => { t with partnerLevel := m.levelMax, clash := false, barred := higher }) d0)
      else
        let d1 := onTango (fun t => { t with clash := false, barred := false }) d0
        if d1.boot.idOk then acceptHello m d1 else d1

/-- HELLO. -/
def execHello (_e : Env) (m : Hello) (s : State) : Host.Outcome State Fault Refusal :=
  .next { s with dev := when s.dev.pairOn (hello m) s.dev }

/-- Drives on which a key of the partner has been seen. -/
def Dev.partnerSeen (d : Dev) : Bool := (List.range 48).any (fun s => (d.drive s).partnerReg)

/-- HELLO_RETRY: HELLO again while no session is up (R284). A head that waits at start and sees no key of a partner claims its
normal groups at once (R291, step 3). -/
def helloRetry (d : Dev) : Dev :=
  let d1 := sendHello d
  if d.joins && d.tango.waiting && d.owned.isEmpty && !d.partnerSeen then claimGroups rawSlots d.normal (max d.tango.epochMax d.tango.epoch + 1) d1
  else d1

/-- HELLO_RETRY. -/
def execHelloRetry (s : State) : Host.Outcome State Fault Refusal :=
  .next { s with dev := when (s.dev.pairOn && !s.dev.tango.session) helloRetry s.dev }

/-! ## KEY_CONFIRM and the ownership table (R280, R288, R291, R306) -/

/-- OWNER_TABLE, with its epoch. -/
def sendTable (o : Four Nat) (e : Nat) (d : Dev) : Dev := tangoSend 0 (.ownerTable o e) d

/-- A running head names no change of owners at the next epoch to a partner that is starting or has stepped down, and sends it a
checkpoint (R306, step 2). -/
def announce (d : Dev) : Dev :=
  let e := d.tango.epoch + 1
  if epochEnd ≤ e then fatalStop 0x0609 noInstance (addrWords e) false d
  else sendCkpt (sendTable d.tango.owners e (setTable d.tango.owners e d))

/-- The session is up (R280, step 5): head A proposes the table to a starting partner, a running head announces its own. -/
def sessionUp (d : Dev) : Dev :=
  let far := (d.tango.partner.map (·.state)).getD 0
  let d1 := notePairings (resetBases (onTango (fun t => { t with session := true, silent := false, missed := 0, resync := true,
                                                                 confirmed := false, leaving := none }) d))
  if d.tango.state = 3 ∧ far ≤ 1 then announce d1
  else if !d.glb.headB ∧ d.tango.state ≤ 1 ∧ far ≤ 1 then sendTable ⟨0, 0, 1, 1⟩ (max d.tango.epochMax d.tango.epoch + 1) d1
  else d1

/-- KEY_CONFIRM. -/
def execKeyConfirm (e : Env) (s : State) : Host.Outcome State Fault Refusal :=
  .next (stagedState (when (s.dev.joins && !s.dev.tango.session) (exemptIn 0 0x02 e sessionUp)) s)

/-- A table of a higher epoch takes effect (R288, R291): a head that it takes groups from steps down first (R304); groups that
are new to this head resume at their first FRAME_OPEN; this head registers its key. -/
def applyTable (o : Four Nat) (e : Nat) (d : Dev) : Dev :=
  let lost := d.owned.any (fun g => o.at g != d.self)
  let d1 := if lost then stepDown 4 d else d
  let fresh := groupList.filter (fun g => o.at g == d1.self && !d1.owns g)
  let d2 := each (freshOwn rawSlots) fresh (setTable o e d1)
  let d3 := registerAll (onTango (fun t => { t with
    stepped := false, waiting := false, state := if groupList.any (fun g => o.at g == d1.self) then 3 else 1 }) d2)
  let d4 := (List.range 48).foldl (fun x s => if (d.drive s).state == .absent then x else onDrive s (fun y => { y with partnerReg := true }) x) d3
  each (refreshLimit ·) groupList d4

/-- OWNER_TABLE: one of a higher epoch takes effect and is acknowledged. -/
def ownerTable (o : Four Nat) (e : Nat) (d : Dev) : Dev :=
  if d.tango.epoch < e then
    let d1 := applyTable o e d
    tangoSend 0 (.ownerAck d1.tango.owners d1.tango.epoch) d1
  else d

/-- OWNER_TABLE. -/
def execOwnerTable (e : Env) (owners : Four Nat) (s : State) : Host.Outcome State Fault Refusal :=
  .next { s with dev := when s.dev.pairOn (exemptIn 0 0x20 e (ownerTable owners e.epoch)) s.dev }

/-- OWNER_ACK: the proposal of head A takes effect; head A acquires the reservations as each drive reports (R291, step 2). -/
def ownerAck (o : Four Nat) (e : Nat) (d : Dev) : Dev :=
  if d.tango.epoch < e then onTango (fun t => { t with purge := some e }) (applyTable o e d) else d

/-- OWNER_ACK. -/
def execOwnerAck (e : Env) (owners : Four Nat) (s : State) : Host.Outcome State Fault Refusal :=
  .next { s with dev := when s.dev.pairOn (exemptIn 0 0x21 e (ownerAck owners e.epoch)) s.dev }

/-- LINK_INFO: the partner's link section, and the pairing (R287). -/
def linkInfo (l : Four LinkSec) (d : Dev) : Dev := notePairings (onTango (fun t => { t with farLink := l }) d)

/-- LINK_INFO. -/
def execLinkInfo (e : Env) (link : Four LinkSec) (s : State) : Host.Outcome State Fault Refusal :=
  .next { s with dev := when s.dev.pairOn (checkedIn 0 0x08 e (linkInfo link)) s.dev }

/-- The standby rings of groups have landed 250 ms each (R305, R306). -/
def Dev.rings250 (d : Dev) (gs : List (Fin 4)) : Bool := gs.all (fun g => decide (250000000 ≤ (d.lg.at g).standbyNs))

/-- A restarted head with a session whose standby rings are ready (R306, step 3). -/
def Dev.becomesReady (d : Dev) : Bool := d.pairOn && d.tango.session && d.tango.state == 1 && d.rings250 d.normal

/-- STANDBY_READY. -/
def execStandbyReady (s : State) : Host.Outcome State Fault Refusal :=
  .next { s with dev := when s.dev.becomesReady (onTango (fun t => { t with state := 2 })) s.dev }

/-! ## Start (R291, R313, R458) -/

/-- The protocol starts at the first lock: dump_seq goes on from the dumps that the drives hold (R194), and epoch_max is the highest epoch
found, the newest dump's among them (R291, step 1). With PAIR_EN clear the head runs
alone: it claims all four groups, holds no standby ring, and applies its own dump where the epoch of that is the one in force (R195,
R246). -/
def startTango (t : TakeoverIn) (dumps : List DumpIn) (d : Dev) : Dev :=
  if d.tango.started then d
  else
    let d0 := match bestDump d.glb.headB dumps with
      | some x => onTango (fun t => { t with epochMax := max t.epochMax (dumpEpoch x) }) (pastDump x d)
      | none => d
    let d1 := onTango (fun t => { t with started := true }) d0
    if d.pairEn then sendHello (onTango (fun t => { t with waiting := true }) d1)
    else
      let before := max d.tango.epochMax d.tango.epoch
      let d2 := fitCeiling (claimGroups rawSlots groupList (before + 1) d1)
      advanceTakes (startFromDump t before dumps (onTango (fun t => { t with state := 3 }) d2))

/-- The fence of a start (R291, from step 4 of the takeover): both commands on every admitted drive. -/
def startFence (t : TakeoverIn) (e : Nat) (d : Dev) : Dev :=
  emits ((d.inService.map (fenceDrive d.glb.headB (resKey d.glb.headB e) t)).flatten) d

/-- STARTUP_WAIT has passed without a session (R291, steps 3 and 4): the groups that this head does not own yet are claimed by
the takeover sequence from step 4, and its own dump is applied. A Reservation Conflict loses the race (R301). -/
def startupExpiry (t : TakeoverIn) (dumps : List DumpIn) (d : Dev) : Dev :=
  let gs := groupList.filter (fun g => !d.owns g)
  let before := if d.owned.isEmpty then d.tango.epochMax else d.tango.epoch - 1
  let e := d.epochSeen t + 1
  if epochEnd ≤ e then fatalStop 0x0609 noInstance (addrWords e) false d
  else
    let d1 := startFence t e (each (fun s x => failDrive s none x) t.failed d)
    if !t.conflicts.isEmpty then
      stepDown 3 (onTango (fun x => { x with lostRace := true, epochMax := max x.epochMax (topEpoch t) }) d1)
    else
      let d2 := each (freshOwn rawSlots) gs (setTable (giveTo d.self gs d1.tango.owners) e d1)
      let d3 := startFromDump t before dumps (confirmAll (onTango (fun x => { x with key := resKey d.glb.headB e }) d2))
      fitCeiling (each (refreshLimit ·) groupList (endTakeover gs e d3))

/-- STARTUP_WAIT_EXPIRY. -/
def execStartupWaitExpiry (t : TakeoverIn) (dumps : List DumpIn) (s : State) : Host.Outcome State Fault Refusal :=
  .next { s with dev := when (s.dev.joins && !s.dev.tango.session && s.dev.tango.waiting) (startupExpiry t dumps) s.dev }

/-! ## Heartbeats (R283, R284) -/

/-- The stop byte of a group (R283). -/
def stopByte (x : Group) : Byte :=
  let b := match x.stop with
    | some s => 1 + 2 * bit s.exhaustion + 4 * bit s.byReq
    | none => 0
  BitVec.ofNat 8 (b + 8 * bit x.resumeSet)

/-- The HEARTBEAT that this head sends now. -/
def Dev.beatNow (d : Dev) : Beat :=
  let c (g : Fin 4) : W32 := if d.owns g then (d.lg.at g).commit else 0
  let e (g : Fin 4) : W32 := (d.lg.at g).expect
  let s (g : Fin 4) : Byte := stopByte (d.sl.groups.at g)
  { state := d.tango.state, level := d.tango.cl, owners := d.tango.owners, mirrorAcked := d.tango.placed, ckptSeq := d.tango.ckptSeq,
    commitGsn := ⟨c 0, c 1, c 2, c 3⟩, nextGsn := ⟨e 0, e 1, e 2, e 3⟩, stop := ⟨s 0, s 1, s 2, s 3⟩, time := BitVec.ofNat 64 d.now }

/-- HEARTBEAT_TIMER: a HEARTBEAT is sent and counted while a session is up. -/
def heartbeatTimer (d : Dev) : Dev :=
  if d.tango.session && (d.page 0).state == .ready then
    let d1 := tangoSend 1 (.beat d.beatNow) d
    { d1 with ih := { d1.ih with hbSent := d1.ih.hbSent + 1 } }
  else d

/-- E0 is up and heartbeats go out: reduced power mode keeps them (R194), a fatal stop and a hold do not (R407, R194). -/
def Dev.beats (d : Dev) : Bool :=
  !d.glb.porLow && !d.glb.fatal && !d.glb.held && (d.boot.stage == 3 || d.boot.stage == 4) && d.tango.started && d.pairEn

/-- HEARTBEAT_TIMER. -/
def execHeartbeatTimer (s : State) : Host.Outcome State Fault Refusal :=
  .next { s with dev := when s.dev.beats heartbeatTimer s.dev }

/-- HEARTBEAT: kept, and the partner is not silent. -/
def heartbeat (b : Beat) (d : Dev) : Dev := onTango (fun t => { t with beat := some b, missed := 0, silent := false }) d

/-- HEARTBEAT. -/
def execHeartbeat (e : Env) (b : Beat) (s : State) : Host.Outcome State Fault Refusal :=
  .next { s with dev := when s.dev.pairOn (exemptIn 1 0x10 e (heartbeat b)) s.dev }

/-- HEARTBEAT_MISSED: counted. One is due only after a first has been received (R284). -/
def heartbeatMissed (d : Dev) : Dev :=
  let d1 := onTango (fun t => { t with missed := t.missed + 1 }) d
  { d1 with ih := { d1.ih with hbMissed := d1.ih.hbMissed + 1 } }

/-- HEARTBEAT_MISSED. -/
def execHeartbeatMissed (s : State) : Host.Outcome State Fault Refusal :=
  .next { s with dev := when (s.dev.pairOn && s.dev.tango.beat.isSome) heartbeatMissed s.dev }

/-! ## Detection of a lost partner (R299, R301) -/

/-- The registration check and what follows it (R299): a head whose key is missing steps down; with AUTO_TAKEOVER clear it goes
no further until a HANDOVER of direction 1; otherwise it takes over the partner's groups, where any is paired. -/
def detect (t : TakeoverIn) (d : Dev) : Dev :=
  if !d.keyIntact t then stepDown 2 d
  else if !d.autoTakeover then notifyAll (onTango (fun x => { x with takeoverHeld := true }) d)
  else if d.takeable.isEmpty then d
  else takeOver t d.takeable d

/-- PARTNER_SILENT: logged once for each silence. -/
def partnerSilent (t : TakeoverIn) (d : Dev) : Dev :=
  detect t (logEvent 0x0602 noInstance [d.ih.hbMissed.setWidth 32] (onTango (fun x => { x with silent := true }) d))

/-- PARTNER_SILENT. -/
def execPartnerSilent (t : TakeoverIn) (s : State) : Host.Outcome State Fault Refusal :=
  .next { s with dev := when (s.dev.pairOn && decide (4 ≤ s.dev.tango.missed) && !s.dev.tango.silent) (partnerSilent t) s.dev }

/-- FENCE_RETRY: a head that lost the race reads the reservations again, and runs the takeover again where no key of its
partner is left (R301): the groups that a takeover may claim, or, where no partner was ever met, every group, as at its start (R291); a
takeover held back that the host has asked for goes on (R299). -/
def fenceRetry (t : TakeoverIn) (d : Dev) : Dev :=
  if d.tango.owing then takeOver t d.takeable d
  else if t.reports.any (fun r => r.keys.any (keyOfHead (!d.glb.headB))) then onTango (fun x => { x with lostRace := false }) d
  else takeOver t (if d.tango.partner.isNone then groupList.filter (fun g => !d.owns g) else d.takeable) d

/-- FENCE_RETRY. -/
def execFenceRetry (t : TakeoverIn) (s : State) : Host.Outcome State Fault Refusal :=
  .next { s with dev := when (s.dev.pairOn && (s.dev.tango.lostRace || s.dev.tango.owing)) (fenceRetry t) s.dev }

/-- Whether the table gives the partner any group. -/
def Dev.partnerOwns (d : Dev) : Bool := groupList.any (fun g => d.tango.owners.at g == d.other)

/-- LEAVING (R299, R311, R312): with cause 2 the takeover starts; with 0 or 1 it waits for FROZEN. -/
def leaving (cause : Nat) (t : TakeoverIn) (d : Dev) : Dev :=
  let d1 := onTango (fun x => { x with leaving := some cause }) d
  if cause = 2 ∧ d.partnerOwns then detect t d1 else d1

/-- LEAVING. -/
def execLeaving (e : Env) (cause : Nat) (t : TakeoverIn) (s : State) : Host.Outcome State Fault Refusal :=
  .next { s with dev := when s.dev.pairOn (exemptIn 0 0x28 e (leaving cause t)) s.dev }

/-- FROZEN after LEAVING starts the takeover (R299). -/
def frozen (t : TakeoverIn) (d : Dev) : Dev :=
  if d.tango.leaving.isSome ∧ d.partnerOwns then detect t (onTango (fun x => { x with leaving := none }) d) else d

/-- FROZEN. Its jseq is that of the partner's last record, which the mirror holds. -/
def execFrozen (e : Env) (_lastJseq : Nat) (t : TakeoverIn) (s : State) : Host.Outcome State Fault Refusal :=
  .next { s with dev := when s.dev.pairOn (checkedIn 0 0x29 e (frozen t)) s.dev }

/-! ## A lost session (R279) -/

/-- TAKE_OPENs that wait for the partner are undone (R270). -/
def undoOpens (status : Nat) (d : Dev) : Dev := each (fun o x => undoPart o status x) d.tango.partOpens d

/-- A Tango queue pair in the error state is reset; the session is set up again from HELLO with fresh keys (R279). -/
def tangoQpError (d : Dev) : Dev :=
  let d1 := onTango (fun t => { t with session := false, helloSent := false, seqs := [], rxSeqs := [] }) (undoOpens 8 d)
  sendHello (erasePage 1 (erasePage 0 (stopJobs (fun j => decide (j.page < 2)) 1 d1)))

/-- TANGO_QP_ERROR. -/
def execTangoQpError (_qp : Fin 5) (s : State) : Host.Outcome State Fault Refusal :=
  .next { s with dev := when s.dev.joins tangoQpError s.dev }

end Sys2Proof.Machine
end

