-- ==== Sys2Proof/Machine/Feed.lean ====
section
/-! DEFINITION. What the pair exchanges while it runs: the mirrored journal (R189, R292, R508), checkpoints (R295), the ledger
feed (R297), cross-heal (R90, R91, R298), drives (R290), parts and triggers of takes (R282, R294), and the refusal NAK (R311). -/

namespace Sys2Proof.Machine
open Sys2Proof

/-! ## The mirrored journal (R292, R508) -/

/-- The verdict on a claim of the partner (R508): a head that has claimed the same period itself refuses it as head A, and
abandons its own as head B. -/
def judgeClaim (r : JRec) (d : Dev) : Dev :=
  let own := d.vault.claims.find? (fun c => c.layout == r.layout && c.period == r.subject && c.headB == d.glb.headB)
  match own, d.glb.headB with
  | some _, false =>
    tangoSend 0 (.claimVerdict r.layout r.subject r.jseq true)
      (onTango (fun t => { t with refused := t.refused ++ [(r.layout, r.subject, r.jseq)] }) d)
  | o, _ =>
    let d1 := onVault (fun v => { v with claims := v.claims.filter (fun c => !(c.layout == r.layout && c.period == r.subject)) }) d
    let d2 := tangoSend 0 (.claimVerdict r.layout r.subject r.jseq false) (applyRec r d1)
    match o, d.layout r.layout with
    | some _, some l => claimPeriod l d2
    | _, _ => d2

/-- A DURABLE of the partner makes the stripes that it freed free (R177, R235): its claim of a period none of whose stripes is in use any
more goes. What it had in use and freed is as its newest checkpoint says (R295; DEDUCED, notes/assumptions/65.md). -/
def partnerFrees (d : Dev) : Dev :=
  match d.newestCkpt with
  | none => d
  | some c =>
    let theirs (e : Nat × Nat) : Bool := d.vault.claims.any (fun k => k.headB != d.glb.headB && k.layout == e.1 && k.period == e.2 / 256)
    let gone := c.freed.filter theirs
    let left := (d.vault.inUse ++ c.inUse).filter (fun e => !gone.contains e)
    onVault (fun v => { v with
      inUse := v.inUse.filter (fun e => !gone.contains e)
      claims := v.claims.filter (fun k => !(k.headB != d.glb.headB && gone.any (fun e => e.1 == k.layout && e.2 / 256 == k.period) &&
        !left.any (fun e => e.1 == k.layout && e.2 / 256 == k.period))) }) d

/-- An entry that the partner has retired commits here at once where it belongs to a part whose chain this head keeps (R163; DEDUCED,
notes/assumptions/69.md). -/
def commitShared (o : OpenRec) (d : Dev) : Dev :=
  match d.take o.volume o.takeId with
  | some t => if ((t.part (partOfRec t o)).map (fun p => p.own && p.reg.isSome)).getD false then commitRec o d else d
  | none => d

/-- MIRROR_REC (R292): placed and acknowledged in jseq order; one with a bad CRC or after a gap is not. A DURABLE discards what
is no longer live (R191). -/
def mirrorRec (r : JRec) (st : Option GState) (crcOk : Bool) (d : Dev) : Dev :=
  if !crcOk || !(d.tango.resync || r.jseq == next64 d.tango.placed) then d
  else
    let live (j : Nat) : Bool := match r.body with
      | .durable k => upTo64 k j
      | _ => true
    let d1 := onTango (fun t => { t with
      mirror := (t.mirror ++ [r]).filter (fun x => live x.jseq)
      mirrorSt := (t.mirrorSt ++ (st.map (fun s => (r.jseq, s))).toList).filter (fun x => live x.1)
      placed := r.jseq, resync := false }) d
    let d2 := tangoSend 2 (.mirrorAck r.jseq) { d1 with ih := { d1.ih with mirrorPlaced := d1.ih.mirrorPlaced + 1 } }
    match r.body with
    | .periodClaim => judgeClaim r d2
    | .durable _ => relabel (partnerFrees d2)
    | .stripeRetire j => each commitShared ((openRecs d2.tango.mirror d2.tango.mirrorSt).filter (fun o => o.jr.jseq == j)) d2
    | _ => d2

/-- MIRROR_REC. -/
def execMirrorRec (e : Env) (r : JRec) (st : Option GState) (crcOk : Bool) (s : State) : Host.Outcome State Fault Refusal :=
  .next { s with dev := when s.dev.pairOn (checkedIn 2 0x48 e (mirrorRec r st crcOk)) s.dev }

/-- MIRROR_ACK: every open entry up to a jseq is mirrored, and may retire (R185, R189). -/
def mirrorAck (j : Nat) (d : Dev) : Dev :=
  retireReady (onVault (fun v => { v with opened := v.opened.map (fun e => if upTo64 e.jseq j then { e with acked := true } else e) })
    (onTango (fun t => { t with acked := later64 t.acked j }) d))

/-- MIRROR_ACK. It is heard until the journal freezes (R194, step 2). -/
def execMirrorAck (e : Env) (jseq : Nat) (s : State) : Host.Outcome State Fault Refusal :=
  .next { s with
    dev := when (s.dev.retiring && s.dev.tango.started && s.dev.pairEn) (checkedIn 2 0x49 e (mirrorAck jseq)) s.dev }

/-- CLAIM_VERDICT: an accepted claim may be used; for a refused one another period is claimed (R508). -/
def claimVerdict (layout period jseq : Nat) (refused : Bool) (d : Dev) : Dev :=
  let is (c : Claim) : Bool := c.headB == d.glb.headB && c.layout == layout && c.period == period && c.jseq == jseq
  if !d.vault.claims.any is then d
  else if refused then
    let d1 := onVault (fun v => { v with claims := v.claims.filter (fun c => !is c) }) d
    match d.layout layout with
    | some l => claimPeriod l d1
    | none => d1
  else onVault (fun v => { v with claims := v.claims.map (fun c => if is c then { c with accepted := true } else c) }) d

/-- CLAIM_VERDICT. -/
def execClaimVerdict (e : Env) (layout period jseq : Nat) (refused : Bool) (s : State) : Host.Outcome State Fault Refusal :=
  .next { s with dev := when s.dev.pairOn (checkedIn 0 0x34 e (claimVerdict layout period jseq refused)) s.dev }

/-! ## Checkpoints (R295) -/

/-- CHECKPOINT_TIMER. -/
def execCheckpointTimer (s : State) : Host.Outcome State Fault Refusal :=
  .next (stagedState (when s.dev.pairOn sendCkpt) s)

/-- CKPT_DONE: the checkpoint fills the buffer named; the other buffer keeps the one before. Take records that it carries are heeded at
once. -/
def ckptDone (c : Ckpt) (d : Dev) : Dev :=
  let d1 := onTango (fun t => { t with ckpts := (t.ckpts ++ [c]).drop ((t.ckpts.length + 1) - 2) }) d
  if c.crcOk then noteCkpt c d1 else d1

/-- CKPT_DONE. -/
def execCkptDone (e : Env) (_buffer : Nat) (c : Ckpt) (s : State) : Host.Outcome State Fault Refusal :=
  .next { s with dev := when s.dev.pairOn (checkedIn 3 0x38 e (ckptDone c)) s.dev }

/-! ## LEDGER (R297) -/

/-- The standby's slots of the range of a LEDGER, where it holds every one of them. -/
def Ledger.fedRange (l : Ledger) (base c : W32) : Option (List Slot) :=
  let run := gsnRun (base + 1) (sdiff base c)
  let got := run.filterMap (fun x => (ringAt l.ring x).bind (fun s => if s.state = 1 ∨ s.state = 2 then some s else none))
  if got.length = run.length then some got else none

/-- One group of a LEDGER: the comparison where CRC_VALID is set and the range is whole, then the release up to C. -/
def ledgerEnt (x : LedgerEnt) (d : Dev) : Dev :=
  if d.owns x.group then d
  else
    let l := d.lg.at x.group
    let bad : Bool := match l.ledgerBase with
      | some b => x.crcValid && (match l.fedRange b.1 x.c with
        | some ss => crc32c ((ss.map (fun s => headerBytes s.pkt)).flatten) != x.crc
        | none => false)
      | none => false
    let d1 := if bad then
      logEvent 0x0605 (BitVec.ofNat 32 x.group.val) [x.c] { d with ih := { d.ih with feedMismatch := d.ih.feedMismatch + 1 } } else d
    onLedger x.group (fun y =>
      let k := heldSlots (y.ring.filter (fun s => precEq s.pkt.gsn x.c))
      { y with ring := y.ring.filter (fun s => !precEq s.pkt.gsn x.c), ringPos := if precEq y.ringPos x.c then x.c + 1 else y.ringPos, released := y.released + BitVec.ofNat 64 k,
               resident := y.resident - BitVec.ofNat 64 k, ledgerBase := some (x.c, d.audit.ticks) }) d1

/-- LEDGER. -/
def execLedger (e : Env) (ents : List LedgerEnt) (s : State) : Host.Outcome State Fault Refusal :=
  .next { s with dev := when s.dev.pairOn (checkedIn 1 0x11 e (each ledgerEnt ents)) s.dev }

/-! ## Cross-heal (R90, R91, R298) -/

/-- The slot that this head holds of a gsn asked for, of the stream named. -/
def Dev.heldSlot (d : Dev) (g : Fin 4) (sid : W16) (gsn : W32) : Option Slot :=
  let l := d.lg.at g
  ((ringAt l.ring gsn).orElse (fun _ => ringAt l.landing gsn)).bind (fun s =>
    if s.state ≠ 0 ∧ s.pkt.streamId = sid then some { s with state := 2 } else none)

/-- HEAL_REQ: the slots held are written into the owner's ring and HEAL_DONE is sent; nothing changes in this head's ledger
(R90). A head that owns the group itself refuses (R298). -/
def healReq (seq : W64) (reqId : W32) (g : Fin 4) (count : Nat) (first : W32) (sid : W16) (d : Dev) : Dev :=
  if d.owns g then roleRefuse 4 0x40 1 seq d
  else
    let got := (gsnRun first count).map (d.heldSlot g sid)
    let held : W64 := BitVec.ofNat 64 ((List.range count).filter (fun i => ((got[i]?).join).isSome) |>.map (2 ^ ·)).sum
    let slots := got.filterMap id
    let d1 := { d with ih := { d.ih with healServed := d.ih.healServed + BitVec.ofNat 64 slots.length } }
    tangoSend 4 (.healDone reqId g count first held slots) d1

/-- HEAL_REQ. -/
def execHealReq (e : Env) (reqId : W32) (g : Fin 4) (count : Nat) (first : W32) (streamId : W16) (s : State) :
    Host.Outcome State Fault Refusal :=
  .next { s with
    dev := when (s.dev.pairOn && decide (1 ≤ count ∧ count ≤ 64)) (checkedIn 4 0x40 e (healReq e.seq reqId g count first streamId)) s.dev }

/-- One slot written by the partner: healed where its gsn awaits heal and its header is as expected; one that is late is counted
as a duplicate; a wrong one is logged and discarded (R91). -/
def healSlot (g : Fin 4) (gsn : W32) (s : Slot) (d : Dev) : Dev :=
  let sid := ((d.sl.groups.at g).grant.map (·.streamId)).getD 0
  if !(d.lg.at g).heals.any (fun h => h.gsn == gsn) then onGroup g (fun x => { x with dup := x.dup + 1 }) d
  else if s.pkt.gsn ≠ gsn ∨ s.pkt.group ≠ BitVec.ofNat 8 g.val ∨ s.pkt.streamId ≠ sid then logEvent 0x0208 (BitVec.ofNat 32 g.val) [gsn] d
  else
    onLedger g (fun l => { l with
      heals := l.heals.filter (fun h => h.gsn != gsn), ring := ringInsert l.ringPos { s with state := 2, reason := 0 } l.ring
      received := l.received + 1, resident := l.resident + 1, healed := l.healed + 1 }) d

/-- HEAL_DONE: the slots written, in order of their bits, then every NOT_HELD slot dropped as lost-on-link at once; the pipe goes
on. -/
def healDone (reqId : W32) (g : Fin 4) (count : Nat) (first : W32) (held : W64) (slots : List Slot) (d : Dev) : Dev :=
  let idx := (List.range (min count 64)).filter held.getLsbD
  let d1 := each (fun x => healSlot g (first + BitVec.ofNat 32 x.1) x.2) (idx.zip slots) d
  let miss := (d1.lg.at g).heals.filter (fun h => h.reqId == reqId &&
    (List.range (min count 64)).any (fun i => first + BitVec.ofNat 32 i == h.gsn && !held.getLsbD i))
  consume g (each (dropHeal g) (miss.map (·.gsn)) d1)

/-- HEAL_DONE. -/
def execHealDone (e : Env) (reqId : W32) (g : Fin 4) (count : Nat) (first : W32) (held : W64) (slots : List Slot) (s : State) :
    Host.Outcome State Fault Refusal :=
  .next { s with dev := when s.dev.pairOn (checkedIn 4 0x41 e (healDone reqId g count first held slots)) s.dev }

/-! ## Drives (R290) -/

/-- DRIVE_NOTICE: 0 the partner's key is registered, and held writes go on; 1 the drive has failed; 2 the partner has admitted
it, and this head registers and answers. -/
def driveNotice (slot action : Nat) (d : Dev) : Dev :=
  let seen (x : Dev) : Dev := onDrive slot (fun y => { y with partnerReg := true }) x
  if action = 0 then retryHeld slot (seen d)
  else if action = 1 then failDrive slot none d
  else retryHeld slot (tangoSend 0 (.driveNotice slot 0) (registerDrive slot (seen d)))

/-- DRIVE_NOTICE. -/
def execDriveNotice (e : Env) (slot action : Nat) (s : State) : Host.Outcome State Fault Refusal :=
  .next { s with dev := when (s.dev.pairOn && decide (slot < 48 ∧ action ≤ 2)) (checkedIn 0 0x33 e (driveNotice slot action)) s.dev }

/-! ## Takes across the pair (R218, R219, R282, R294) -/

/-- The volume record that a part belongs to; one that this head has not read yet is as the message says. -/
def learnVolume (r : OpenReq) (kcv dkcv : W32) (d : Dev) : Dev :=
  match d.volume r.volume, d.rootLayout with
  | none, some l =>
    let v : Volume := { id := r.volume, layout := l.layoutId, encrypted := decide (r.page ≠ 255), dedup := r.dedup, kcv := kcv,
                        dkcv := dkcv, ctrA := 1, ctrB := 1 }
    onCat (fun c => { c with volumes := c.volumes ++ [v] }) d
  | _, _ => d

/-- TAKE_PART: the checks of R218 for the part's groups, then the part is open, with no channel; its status is answered. -/
def takePart (r : OpenReq) (kcv dkcv : W32) (id part : Nat) (d : Dev) : Dev :=
  let d0 := learnVolume r kcv dkcv d
  match d0.volume r.volume with
  | none => tangoSend 0 (.takePartAck id part 8) d0
  | some v =>
    match if (d0.take r.volume id).isSome then some 8 else d0.openCheck r none v with
    | some st => tangoSend 0 (.takePartAck id part st) d0
    | none =>
      let dom := ((tget d0.ciph.hkeys r.hkey).map (·.domain)).getD 0
      tangoSend 0 (.takePartAck id part 0) (openTake r v id none dom [(part, r.groups)] d0)

/-- TAKE_PART. -/
def execTakePart (e : Env) (r : OpenReq) (kcv dkcv : W32) (takeId part : Nat) (s : State) : Host.Outcome State Fault Refusal :=
  .next { s with dev := when s.dev.pairOn (checkedIn 0 0x30 e (takePart r kcv dkcv takeId part)) s.dev }

/-- TAKE_PART_ACK: the take is open, or TAKE_OPEN completes with the partner's status and is undone. A part refused was not opened, and
nothing is to be removed. -/
def takePartAck (id status : Nat) (d : Dev) : Dev :=
  match d.tango.partOpens.find? (fun o => o.2.1 == id) with
  | none => d
  | some (h, x, p, r) =>
    let d1 := onTango (fun t => { t with partOpens := t.partOpens.erase (h, x, p, r) }) d
    match status, d1.volume r.volume with
    | 0, some v => takeIsOpen h r v id d1
    | st, _ => complete h 0x40 st 0 0 (giveBack r.volume id (unholdMr r.volume id d1))

/-- TAKE_PART_ACK. -/
def execTakePartAck (e : Env) (takeId _part status : Nat) (s : State) : Host.Outcome State Fault Refusal :=
  .next { s with dev := when s.dev.pairOn (checkedIn 0 0x31 e (takePartAck takeId status)) s.dev }

/-- TRIGGER_FWD: kept for a takeover (R302). A head with a ring of its own for the take pins the trigger's window in it, since a segment
holds the frames of every bound group (R240; DEDUCED, notes/assumptions/71.md). -/
def triggerFwd (r : TrigRec) (id : Nat) (d : Dev) : Dev :=
  let d1 := onTango (fun t => { t with fwdTrigs := t.fwdTrigs ++ [(id, r)] }) d
  match d1.cat.takes.find? (fun t => t.id == id && t.state == .open_ && !t.replica && t.reel.isSome && t.parts.any (·.mine)) with
  | some t =>
    match d1.layoutOf t with
    | some l => if r.outcome ≤ 1 then (pinTrigger l t r.time d1).1 else d1
    | none => d1
  | none => d1

/-- TRIGGER_FWD. -/
def execTriggerFwd (e : Env) (r : TrigRec) (takeId _segId : Nat) (s : State) : Host.Outcome State Fault Refusal :=
  .next { s with dev := when s.dev.pairOn (checkedIn 0 0x32 e (triggerFwd r takeId)) s.dev }

/-! ## NAK (R282, R311) -/

/-- The sender's view follows the refusal: a higher epoch whose table takes its groups makes it step down (R304). -/
def viewFrom (kind : NakKind) (o : Four Nat) (e : Nat) (d : Dev) : Dev :=
  if d.tango.epoch < e then
    let lost := d.owned.any (fun g => o.at g != d.self)
    setTable o e (if lost || (kind == .mirrorRec && !d.owned.isEmpty) then stepDown 4 d else d)
  else d

/-- A TAKE_PART that was refused: opened here where this head owns the groups now, sent again where the partner still does,
otherwise undone. -/
def rerouteOpen (o : Hdr × Nat × Nat × OpenReq) (d : Dev) : Dev :=
  let r := o.2.2.2
  let far := d.groupsOf r.groups (1 - d.self)
  let gone := onTango (fun t => { t with partOpens := t.partOpens.erase o }) d
  match d.volume r.volume with
  | none => undoPart o 0x0A d
  | some v =>
    if d.groupsOf r.groups d.self = r.groups then takeIsOpen o.1 r v o.2.1 gone
    else if far ≠ 0 ∧ d.groupsOf r.groups d.self ||| far = r.groups ∧ d.tango.session then
      tangoSend 0 (.takePart { r with groups := far } v.kcv v.dkcv o.2.1 o.2.2.1) d
    else undoPart o 0x0A d

/-- A journal record that the partner has not placed is sent again. -/
def resendRec (r : JRec) (d : Dev) : Dev :=
  tangoSend 2 (.mirrorRec r ((d.vault.opened.find? (fun e => e.jseq == r.jseq)).bind (·.state))) d

/-- What the refusal of a message leads to (R311). -/
def reroute (kind : NakKind) (far : Nat) (d : Dev) : Dev :=
  match kind with
  | .healReq => each healRepeat (groupList.filter (fun g => d.owns g && d.cover g)) d
  | .mirrorRec =>
    if far < d.tango.epoch then each resendRec (d.vault.journal.filter (fun r => before64 d.tango.acked r.jseq)) d else d
  | .takePart => each rerouteOpen d.tango.partOpens d
  | .triggerFwd => each (fun x => tangoSend 0 (.triggerFwd x.2 x.1 0)) d.openTriggers d
  | .handover => dropHand 0x0A 0 d
  | .linkInfo => tangoSend 0 (.linkInfo d.linkSections) d
  | .driveNotice =>
    each (fun s => tangoSend 0 (.driveNotice s (if d.isFailed s then 1 else 2)))
      ((List.range 48).filter (fun s => d.isFailed s || (d.serves s && !(d.drive s).partnerReg))) d
  | .claimVerdict =>
    each (fun c => tangoSend 0 (.claimVerdict c.layout c.period c.jseq false)) (d.vault.claims.filter (fun c => c.headB != d.glb.headB))
      (each (fun x => tangoSend 0 (.claimVerdict x.1 x.2.1 x.2.2 true)) d.tango.refused d)
  | .ckptDone => d
  | .other => d

/-- NAK: the view first, then the re-routing, except that a level refusal re-routes nothing. -/
def nak (kind : NakKind) (reason : Nat) (o : Four Nat) (e : Nat) (d : Dev) : Dev :=
  let d1 := viewFrom kind o e d
  if reason = 2 then d1 else reroute kind e d1

/-- NAK. -/
def execNak (e : Env) (kind : NakKind) (reason : Nat) (owners : Four Nat) (s : State) : Host.Outcome State Fault Refusal :=
  .next { s with dev := when s.dev.pairOn (exemptIn 0 0x7F e (nak kind reason owners e.epoch)) s.dev }

end Sys2Proof.Machine
end

