-- ==== Sys2Proof/Machine/Handover.lean ====
section
/-! DEFINITION. Planned handover (R305, R312), and TILE_ENCODE, at whose tile boundaries a giving head cuts its groups. -/

namespace Sys2Proof.Machine
open Sys2Proof

/-! ## The giving head -/

/-- Step 1 of the giving head: standby rings out of free stripe area, waiting until that space is free; then HANDOVER_REQ. -/
def formRings (d : Dev) : Dev :=
  match d.tango.hand with
  | none => d
  | some h =>
    let c := d.ceilingWith h.groups
    if h.giving && h.stage == 0 && d.freeAbove c then
      tangoSend 0 (.handReq h.groups 0) (onTango (fun t => { t with hand := some { h with stage := 1 } }) (setCeiling c d))
    else d

/-- Whether a group's pipe stands at a tile boundary with nothing left to encode. -/
def Dev.atBoundary (d : Dev) (g : Fin 4) : Bool := (d.pipes.at g).tileBuf.isEmpty && (d.pipes.at g).ready.isEmpty

/-- The group state at the cut X (R293, R305): a frame may be open. -/
def cutState (g : Fin 4) (t : Take) (p : Pipe) (x : W32) : GState :=
  let part := (t.partOf g).map (·.idx)
  { group := g.val, part := part.getD 0, frameOpen := p.frame.isSome, commitGsn := x, nextTile := p.nextTile,
    nextMeta := ((t.partOf g).map (·.metaIdx)).getD 0, frame := p.frame.map (fun f => { f with recorded := p.framePos }), closed := [] }

/-- The open stripe of a group is sealed at the cut, with what its pipe has consumed since its last tile. None where a stripe
is needed and none can be had. -/
def sealCut (g : Fin 4) (d : Dev) : Option Dev :=
  match (d.bound g).find? (fun t => t.begun.getLsbD g.val) with
  | none => some d
  | some t =>
    let p := d.pipes.at g
    if p.tileSlots = 0 ∧ p.closed.isEmpty ∧ p.stripe.isNone then some d
    else
      match needStripe g t (((t.partOf g).map (·.idx)).getD 0) p.lastGsn d with
      | (_, none) => none
      | (d1, some sb) =>
        let sb1 := { sb with slots := sb.slots + p.tileSlots, commitGsn := p.lastGsn, gstate := some (cutState g t p p.lastGsn) }
        let d2 := onPipe g (fun q => { q with stripe := some sb1, tileSlots := 0 }) d1
        some (sealPipe g (onLedger g (fun l => { l with carried := l.carried + p.tileSlots }) d2))

/-- The cut of a group: its gsn X and its state at X. -/
def Dev.cutOf (d : Dev) (g : Fin 4) : Fin 4 × W32 × GState :=
  let x := (d.lg.at g).ringPos - 1
  match (d.bound g).find? (fun t => t.begun.getLsbD g.val) with
  | some t => (g, x, cutState g t (d.pipes.at g) x)
  | none => (g, x, { group := g.val, part := 0, frameOpen := false, commitGsn := x, nextTile := 0, nextMeta := 0, frame := none,
                     closed := [] })

/-- A given group is a standby group from now on: its ring is its standby ring, and what awaits heal does so to its deadline (R91). -/
def standDown (g : Fin 4) (d : Dev) : Dev :=
  onPipe g (fun p => { p with frame := none, frameGap := false, fromOpen := false, tileSlots := 0, tileGood := 0, tileLoss := false,
                              cstate := none }) (onLedger g (fun l => trimStandby { l with standbyNs := 0 }) d)

/-- Every group cut: HANDOVER_STATE with the table at the next epoch, which is in force here too; the chains of the groups' parts stop
extending here (R305, steps 3 and 4). -/
def giveGroups (h : Hand) (d : Dev) : Dev :=
  let gs := groupsIn h.groups
  let e := d.tango.epoch + 1
  let cuts := gs.map d.cutOf
  let parts := d.openParts.filter (fun x => x.1.reel.isNone && x.2.groups &&& h.groups != 0)
  let d1 := tangoSend 0 (.handState cuts (parts.filterMap d.chainOf) e) d
  let d2 := setTable (giveTo d.other gs d.tango.owners) e (each standDown gs d1)
  let kept := maskGroups d2.owned
  let d3 := d2.cat.takes.foldl (fun x t => if t.active && !t.replica then dropParts h.groups kept t x else x) d2
  let d4 := refuseCloses (onTango (fun t => { t with
    hand := some { h with stage := 3, cuts := cuts.map (fun c => (c.1, c.2.1)) }, state := if kept = 0 then 2 else t.state }) d3)
  settleHand d4

/-- Seal at the cut of each group of a list. -/
def sealCuts : List (Fin 4) → Dev → Option Dev
  | [], d => some d
  | g :: t, d => (sealCut g d).bind (sealCuts t)

/-- The cut is made once every named group stands at a tile boundary (R305, step 3). -/
def tryCut (d : Dev) : Dev :=
  match d.tango.hand with
  | none => d
  | some h =>
    if h.giving && h.stage == 2 && (groupsIn h.groups).all d.atBoundary then
      match sealCuts (groupsIn h.groups) d with
      | some d1 => giveGroups h d1
      | none => d
    else d

/-! ## TILE_ENCODE (R100) -/

/-- TILE_ENCODE: the lookup reads its bucket's two lines through the metadata cache (R117, R368). -/
def execTileEncode (g : Fin 4) (s : State) : Host.Outcome State Fault Refusal :=
  if s.dev.working then
    match s.dev.nextLookup g with
    | none => .next { s with dev := tryCut (encodeTile g s.dev) }
    | some b =>
      let s1 := (cacheRead 2 (lineOf (192 * b)) (syncHot s)).2
      let s2 := (cacheRead 2 (lineOf (192 * b + 191)) s1).2
      .next (syncHot { s2 with dev := tryCut (encodeTile g s2.dev) })
  else .next s

/-! ## HANDOVER (R267, R305) -/

/-- Slots of a group after C: none where the slot that it expects does not follow C (R11), as in a group that was never granted. -/
def Dev.afterC (d : Dev) (g : Fin 4) : Nat :=
  let c := if d.owns g then (d.lg.at g).commit else ((d.tango.beat).map (fun b => b.commitGsn.at g)).getD (d.lg.at g).commit
  if precedes c (d.lg.at g).expect then sdiff (c + 1) (d.lg.at g).expect else 0

/-- A part of the groups that has its full count of segments cannot be linked again (R163). -/
def Dev.chainsFull (d : Dev) (m : BitVec 4) : Bool :=
  d.openParts.any (fun x => x.2.groups &&& m != 0 && decide (65535 ≤ x.2.segments.length))

/-- Whether HANDOVER completes with BUSY (R305, R312). `dir` is 1 on the taking head. -/
def Dev.handBusy (d : Dev) (m : BitVec 4) (dir : Nat) : Bool :=
  let gs := groupsIn m
  let far := (d.tango.beat.map (·.state)).getD 0
  !d.tango.session || d.tango.hand.isSome || gs.any (fun g => !d.tango.paired.getLsbD g.val) || d.tango.state == 1 || far ≤ 1 ||
    gs.any (fun g => decide (2000000 < d.afterC g)) || d.chainsFull m || (dir == 1 && !d.rings250 gs) || (dir == 0 && far == 4)

/-- A handover that starts. -/
def Hand.start (m : BitVec 4) (giving : Bool) (h : Option Hdr) (stage : Nat) : Hand :=
  { groups := m, giving := giving, h := h, stage := stage, cuts := [] }

/-- HANDOVER: direction 0 on the giving head, 1 on the taking head. Direction 1 also lets a takeover go on that AUTO_TAKEOVER
held back (R299). -/
def doHandover (h : Hdr) (m : BitVec 4) (dir : Nat) (d : Dev) : Dev :=
  let gs := groupsIn m
  if dir = 0 ∧ !gs.all d.owns then complete h 0x1B 0x0E 0 0 d
  else if dir = 1 ∧ gs.all d.owns then complete h 0x1B 2 0 0 d
  else if dir = 1 ∧ d.tango.takeoverHeld ∧ d.tango.hand.isNone then
    onTango (fun t => { t with owing := true, hand := some (.start m false (some h) 9) }) d
  else if d.handBusy m dir then complete h 0x1B 8 0 0 d
  else if dir = 0 then formRings (onTango (fun t => { t with hand := some (.start m true (some h) 0) }) d)
  else tangoSend 0 (.handReq m 1) (onTango (fun t => { t with hand := some (.start m false (some h) 1) }) d)

/-- HANDOVER. -/
def execHandover (h : Hdr) (groups : BitVec 4) (direction : Nat) (s : State) : Host.Outcome State Fault Refusal :=
  .next { s with dev := descriptor 0x1B [7] h (groups != 0 && decide (direction < 2)) (doHandover h groups direction) s.dev }

/-! ## The messages (R305) -/

/-- HANDOVER_REQ. Direction 1 asks this head to give; direction 0 asks it to take, and it answers when its standby rings have
landed 250 ms. -/
def handoverReq (m : BitVec 4) (dir : Nat) (d : Dev) : Dev :=
  let gs := groupsIn m
  if dir = 1 then
    if !gs.all d.owns || d.handBusy m 0 then d
    else formRings (onTango (fun t => { t with hand := some (.start m true none 0) }) d)
  else
    let mine := (d.tango.hand.map (fun x => !x.giving && x.stage == 1 && x.groups == m)).getD false
    if (d.tango.hand.isSome && !mine) || d.tango.state == 1 || !d.rings250 gs || gs.any d.owns ||
        gs.any (fun g => !d.tango.paired.getLsbD g.val) then d
    else
      let h := (d.tango.hand.bind (·.h))
      tangoSend 0 (.handReady m) (onTango (fun t => { t with hand := some (.start m false h 2) }) d)

/-- HANDOVER_REQ. -/
def execHandoverReq (e : Env) (groups : BitVec 4) (direction : Nat) (s : State) : Host.Outcome State Fault Refusal :=
  .next { s with dev := when (s.dev.pairOn && groups != 0) (checkedIn 0 0x22 e (handoverReq groups direction)) s.dev }

/-- HANDOVER_READY: the giving head cuts each group at its next tile boundary. -/
def handoverReady (m : BitVec 4) (d : Dev) : Dev :=
  match d.tango.hand with
  | some h =>
    if h.giving && h.stage == 1 && h.groups == m then tryCut (onTango (fun t => { t with hand := some { h with stage := 2 } }) d) else d
  | none => d

/-- HANDOVER_READY. -/
def execHandoverReady (e : Env) (groups : BitVec 4) (s : State) : Host.Outcome State Fault Refusal :=
  .next { s with dev := when s.dev.pairOn (checkedIn 0 0x23 e (handoverReady groups)) s.dev }

/-- What the mirror holds of a group's entries: those that `keep` names are committed here. -/
def commitMirror (gs : List (Fin 4)) (keep : List JRec → Nat → Bool) (d : Dev) : Dev :=
  let recs := d.tango.mirror
  let os := (openRecs recs d.tango.mirrorSt).filter (fun o =>
    gs.any (fun g => g.val == o.jr.source) && (replacedBy recs o.jr.jseq).isNone && keep recs o.jr.jseq)
  each commitRec os d

/-- HANDOVER_STATE: the taking head puts the table in force and resumes each group at X + 1 (R305, step 5). -/
def handoverState (cuts : List (Fin 4 × W32 × GState)) (chains : List ChainHand) (e : Nat) (d : Dev) : Dev :=
  match d.tango.hand with
  | some h =>
    if h.giving || h.stage != 2 then d
    else
      let gs := cuts.map (·.1)
      let d1 := (d.newestCkpt.map (fun c => loadCkpt c d)).getD d
      let d2 := commitMirror gs isRetired d1
      let d3 := setTable (giveTo d.self gs d2.tango.owners) e d2
      let resumes : List Resume := cuts.map (fun c => { group := c.1, commit := c.2.1, state := some c.2.2 })
      let d4 := each (fun z x => resumeTakes z (resumePipe z (adoptRing rawSlots z x))) resumes d3
      let d5 := attachTakes (resumeChains (maskGroups gs) chains d4)
      let d6 := onTango (fun t => { t with hand := some { h with stage := 3, cuts := cuts.map (fun c => (c.1, c.2.1)) }, state := 3 }) d5
      each consume gs d6
  | none => d

/-- HANDOVER_STATE: its envelope carries the epoch that follows this head's own. -/
def execHandoverState (e : Env) (cuts : List (Fin 4 × W32 × GState)) (chains : List ChainHand) (s : State) :
    Host.Outcome State Fault Refusal :=
  let ep := s.dev.tango.epoch + 1
  .next { s with dev := when (s.dev.pairOn && e.epoch == ep) (tangoIn 0 0x24 false ep e (handoverState cuts chains ep)) s.dev }

/-- HANDOVER_DONE: the giving head's entries up to X have retired, this head's may (R305, steps 6 and 7). -/
def handoverDone (d : Dev) : Dev :=
  match d.tango.hand with
  | some h =>
    if h.giving || h.stage != 3 then d
    else
      let d1 := commitMirror (groupsIn h.groups) (fun _ _ => true) d
      let d2 := onVault (fun v => { v with opened := v.opened.map (fun o => { o with waitHand := false }) })
        { d1 with ih := { d1.ih with handovers := d1.ih.handovers + 1 } }
      retireReady (notifyAll (dropHand 0 (BitVec.ofNat 64 d.tango.epoch) d2))
  | none => d

/-- HANDOVER_DONE. The final commit gsns are those of the cuts. -/
def execHandoverDone (e : Env) (_commits : List (Fin 4 × W32)) (s : State) : Host.Outcome State Fault Refusal :=
  .next { s with dev := when s.dev.pairOn (checkedIn 0 0x25 e handoverDone) s.dev }

/-- HANDOVER_TIMEOUT: before the table has changed the handover ends with BUSY; afterwards the taking head, after the registration check, fences the giving
one, adopts its entries up to X, and its own entries retire (R305). -/
def handoverTimeout (t : TakeoverIn) (d : Dev) : Dev :=
  match d.tango.hand with
  | none => d
  | some h =>
    if h.stage = 9 ∨ (h.giving ∧ h.stage = 3) then d
    else if h.stage ≠ 3 then each consume (groupsIn h.groups) (dropHand 8 0 d)
    else if !d.keyIntact t then stepDown 2 d
    else
      let e := d.epochSeen t + 1
      if epochEnd ≤ e then fatalStop 0x0609 noInstance (addrWords e) false d
      else
        let d1 := fence t e (each (fun s x => failDrive s none x) t.failed d)
        if t.conflicts.isEmpty then endTakeover (groupsIn h.groups) e (takeGroups t [] e (confirmAll d1))
        else stepDown 3 (onTango (fun x => { x with lostRace := true, epochMax := max x.epochMax (topEpoch t) }) d1)

/-- HANDOVER_TIMEOUT. -/
def execHandoverTimeout (t : TakeoverIn) (s : State) : Host.Outcome State Fault Refusal :=
  .next { s with dev := when s.dev.pairOn (handoverTimeout t) s.dev }

end Sys2Proof.Machine
end

