-- ==== Sys2Proof/Machine/Repl.lean ====
section
/-! DEFINITION. Replication (R340 to R348): sessions, the source's exchange, and what the target answers. The target's batches
and commits are in Commit.lean. -/

namespace Sys2Proof.Machine
open Sys2Proof

/-! ## Sessions (R341) -/

/-- A session with nothing exchanged. -/
def Repl.fresh (source : Bool) : Repl :=
  { source := source, helloSent := false, nonce := 0, ecdhDraw := 0, peer := none, up := false, level := 0, txSeq := 1, offer := none,
    offered := false, volume := 0, takeId := 0, part := 0, goal := 0, busy := false, batch := [], stripe := none, queue := [],
    recvd := [], pinned := [], total := none, buffers := [] }

/-- The REPL queue pair of a channel, in RTS. -/
def Dev.replQp (d : Dev) (c : Nat) : Option Qp :=
  match (tget d.hif.chans c).bind (fun ch => d.qp ch.qp) with
  | some q => if q.state = .rts ∧ q.host.repl then some q else none
  | none => none

/-- The source of a session is its REPL_OUT channel. -/
def Dev.isSource (d : Dev) (c : Nat) : Bool := d.ctype c == 3

/-- Whether a service lane runs a job of a channel. -/
def Dev.laneHolds (d : Dev) (c : Nat) : Bool :=
  [d.ciph.lane0, d.ciph.lane1].any (fun j => (j.map (fun x => x.chan == some c)).getD false)

/-- The session ends with its operation: REPL_SEND with BUSY, REPL_ACCEPT with ROLE_CHANGED (R348); its pages are erased once nothing runs
on them (R153, R341). A REPL_SEND whose message runs on a lane completes at the segment boundary where that stops (R153). -/
def loseSession (c : Nat) (d : Dev) : Dev :=
  let keyed := ((tget d.repl c).map (fun r => r.helloSent && r.peer.isSome)).getD false
  let mine (j : CJob) : Bool := j.chan == some c
  let d0 := onCiph (fun k => { k with jobs := k.jobs.filter (fun j => !mine j), ended := k.ended.filter (fun x => !mine x.1) }) d
  let d1 := stopJobs mine (if d.isSource c then 8 else 0x0A) d0
  let d2 := if keyed then
    match (tget d.hif.chans c).bind (fun ch => d.qp ch.qp) with
    | some q => each (eraseWhenIdle none) ([q.host.txPage, q.host.rxPage].filter (fun p => (d.page p).state != .free)) d1
    | none => d1
    else d1
  let d3 := match d2.job c with
    | some (.send j) =>
      if d2.laneHolds c then d2
      else complete j.h 0x70 8 (BitVec.ofNat 64 j.sent) (BitVec.ofNat 64 j.heldCnt) (setJob c none (freeTile c d2))
    | _ => endAccept c 0x0A d2
  { d3 with repl := tdel d3.repl c }

/-- A session that cannot be set up: its queue pair is in ERROR with cause 8 (R324, R341). -/
def failSession (c : Nat) (d : Dev) : Dev :=
  match tget d.hif.chans c with
  | some ch => loseSession c (waits (leaveRts ch.qp .error 8 none d))
  | none => d

/-- Every session whose queue pair has left RTS is lost (R348). -/
def dropSessions (d : Dev) : Dev := each (fun x y => if (y.replQp x.1).isNone then loseSession x.1 y else y) d.repl d

/-- ASCII of the KDF label of R341. -/
def labelRepl : List Byte := [0x4F, 0x43, 0x53, 0x31, 0x34, 0x34, 0x30, 0x2D, 0x52, 0x45, 0x50, 0x4C]

/-- Both R_HELLOs are there: the pages are loaded, the source in head A's place, and R_CONFIRM is sent. Pages that are not class
S pages ASSIGNED to the channel's domain fail the session. -/
def keySession (c : Nat) (d : Dev) : Dev :=
  match tget d.repl c, d.replQp c with
  | some r, some q =>
    match r.peer with
    | none => d
    | some m =>
      let tx := q.host.txPage
      let rx := q.host.rxPage
      let fit (p : Nat) : Bool := classS p && (d.page p).state == .assigned && (d.page p).domain == d.domain c
      if !r.helloSent then d
      else if !(fit tx && fit rx) then failSession c (onRepl c (fun x => { x with helloSent := false }) d)
      else
        let z := ecdh (scalarOf (Config.freeNat r.ecdhDraw)) m.ecdhPub
        let a := r.source
        let k := sessionBytes labelRepl z (if a then Config.serial else m.serial) (if a then m.serial else Config.serial)
          (if a then r.nonce else m.nonce) (if a then m.nonce else r.nonce)
        let load (o p : Nat) (x : Dev) : Dev := loadKey p (slice k o 32) (BitVec.ofNat 32 (fieldAt k (o + 32) 4)) 0 x
        let d1 := load (if a then 36 else 0) rx (load (if a then 0 else 36) tx d)
        replMsg c (.keyConfirm (some c)) (onRepl c (fun x => { x with level := min d1.levelMax m.levelMax }) d1)
  | _, _ => d

/-- A session is set up where its operation needs one: R_HELLO, whose nonce and key service lane 1's DRBG supplies and whose signature
that of lane 0 (R143), and the keys if the peer's has come. None where the queue pair
is not in RTS. -/
def openSession (c : Nat) (d : Dev) : Option Dev :=
  match d.replQp c with
  | none => none
  | some _ =>
    let d1 := if (tget d.repl c).isSome then d else { d with repl := tput d.repl c (.fresh (d.isSource c)) }
    match tget d1.repl c with
    | none => none
    | some r =>
      if r.helloSent then some d1
      else
        let n := Config.free256 d1.free
        let d2 := drbgDraw 5 (drbgDraw 5 (onRepl c (fun x => { x with helloSent := true, nonce := n, ecdhDraw := d1.free + 1 }) d1))
        let blank : Hello := { d2.helloNow n (d1.free + 1) with headB := !r.source, state := 3, link := .all LinkSec.none_ }
        let m := signHello blank d2.free
        let qp := ((tget d.hif.chans c).map (·.qp)).getD 0
        let head := replHead 0x01 helloLevel (m.body.length + 96) 0 ++ zeros 8 ++ zeros 8
        some (keySession c (sendClear qp head m (some c) (drbgDraw 4 d2)))

/-! ## The source (R343) -/

/-- The OFFER of a REPL_SEND. -/
def offerOf (j : SendJob) (kind segId target : Nat) (t : Take) (v : Volume) (level : Nat) : Offer :=
  { kind := kind, parts := t.parts.foldl (fun (m : BitVec 2) p => m ||| (1 <<< p.idx)) 0, segId := segId, kcv := v.kcv, dkcv := v.dkcv,
    first := j.first, entries := j.stop - j.first, closed := decide (t.state = .closed_), serial := Config.serial, volume := j.volume,
    takeId := target, part := j.part, level := level }

/-- Cipher jobs of a channel that are still to run. -/
def Dev.jobsOf (d : Dev) (c : Nat) : Bool :=
  d.ciph.jobs.any (fun j => j.chan == some c) || [d.ciph.lane0, d.ciph.lane1].any (fun j => (j.map (fun x => x.chan == some c)).getD false)

/-- REPL_SEND ends with a status. -/
def endSend (c status : Nat) (d : Dev) : Dev :=
  match d.job c with
  | some (.send j) =>
    settleSnaps (complete j.h 0x70 status (BitVec.ofNat 64 j.sent) (BitVec.ofNat 64 j.heldCnt) (setJob c none (freeTile c d)))
  | _ => d

/-- A batch of R342 from the part's entries. -/
def batchOf (entries : List Entry) (first n : Nat) : List FpEntry :=
  ((entries.drop first).take n).map (fun e =>
    let lost := e.flags.getLsbD 1
    { fp := if lost then 0 else e.fp, tileSeq := e.tileSeq, loc := if lost then 0 else e.loc,
      storedLen := if lost then 0 else e.storedLen, flags := e.flags })

/-- Batches go out, at most two ahead of the last HELD (R343, step 3). Fuel: batches. -/
def sendBatches (c : Nat) : Nat → Dev → Dev
  | 0, d => d
  | n + 1, d =>
    match d.job c with
    | some (.send j) =>
      if j.next < j.stop ∧ j.next < j.heldTo + 2 * j.batch then
        let k := min j.batch (j.stop - j.next)
        sendBatches c n (replMsg c (.replBatch c j.next j.lookup (batchOf j.entries j.next k))
          (setJob c (some (.send { j with next := j.next + k })) d))
      else d
    | _ => d

/-- A tile to send has come: checked by its decode path, then encrypted on a service lane (R149, R343); one that fails ends the operation
with its status. -/
def sendOne (c : Nat) (j : SendJob) (r : TileRes) (d : Dev) : Dev :=
  match j.tiles with
  | [] => d
  | (i, _) :: rest =>
    if r.status ≠ 0 then endSend c r.status (replMsg c (.replError c i r.status) d)
    else
      replMsg c (.replTile c i r.stored) (onRcnt (fun k => { k with tilesSent := k.tilesSent + 1 })
        (setJob c (some (.send { j with tiles := rest, sent := j.sent + 1 })) d))

/-- The read of the next tile to send starts; a tile that is known lost ends the operation, and so does a lack of replay buffers. Fuel:
tiles. -/
def readNext (c : Nat) : Nat → Dev → Dev
  | 0, d => d
  | n + 1, d =>
    match d.job c, d.want c with
    | some (.send j), some _ =>
      if ((tget d.hif.chans c).bind (·.rbuf)).isSome then d
      else
        match startTile c d with
        | (d1, some r) => readNext c n (sendOne c j r d1)
        | (d1, none) => if ((tget d1.hif.chans c).bind (·.rbuf)).isSome then d1 else endSend c 5 d1
    | _, _ => d

/-- The tiles that a channel has to send go on. -/
def sendMore (c : Nat) (d : Dev) : Dev :=
  match d.job c with
  | some (.send j) => readNext c (j.tiles.length + 1) d
  | _ => d

/-- CLOSE after the last TILE of a closed part; REPL_SEND completes once COMMIT covers its range and no CLOSE is needed (R343,
steps 6 and 7). -/
def settleSend (c : Nat) (d : Dev) : Dev :=
  match d.job c with
  | some (.send j) =>
    let through := decide (j.stop ≤ j.next ∧ j.stop ≤ j.heldTo) && j.tiles.isEmpty && !d.jobsOf c
    if through && j.closed && !j.closeSent && decide (j.stop = j.entries.length) then
      replMsg c (.replClose c j.entries.length) (setJob c (some (.send { j with closeSent := true })) d)
    else if through && !j.closeSent && decide (j.stop ≤ j.committed) then endSend c 0 d
    else d
  | _ => d

/-- ACCEPT: the exchange starts beyond what the target holds; another status ends REPL_SEND. -/
def gotAccept (c status next : Nat) (d : Dev) : Dev :=
  match d.job c, tget d.repl c with
  | some (.send j), some r =>
    if !r.offered then d
    else if status ≠ 0 then endSend c status (onRepl c (fun x => { x with offered := false }) d)
    else
      let at_ := max j.first next
      let j1 : SendJob := { j with next := at_, heldTo := at_, committed := next }
      settleSend c (sendBatches c 2 (setJob c (some (.send j1)) (onRepl c (fun x => { x with offered := false }) d)))
  | _, _ => d

/-- The entries of a batch that are sent (R343, step 5). -/
def sentEntries : List (Nat × Entry × Bool) → List Nat → List (Nat × Entry)
  | [], _ => []
  | (i, e, held) :: t, seen =>
    if held || e.flags.getLsbD 1 || (e.flags.getLsbD 0 && seen.contains e.loc) then sentEntries t seen
    else (i, e) :: sentEntries t (e.loc :: seen)

/-- HELD: counted, its sent entries queued, the next batch may go. -/
def gotHeld (c first : Nat) (bits : List Bool) (d : Dev) : Dev :=
  match d.job c with
  | some (.send j) =>
    if first ≠ j.heldTo ∨ j.next < first + bits.length then d
    else
      let es := ((j.entries.drop first).take bits.length).zipIdx.map (fun x => (first + x.2, x.1, (bits[x.2]?).getD false))
      let n := (bits.filter id).length
      let j1 : SendJob := { j with heldTo := first + bits.length, tiles := j.tiles ++ sentEntries es [], heldCnt := j.heldCnt + n }
      let d1 := onRcnt (fun k => { k with held := k.held + BitVec.ofNat 64 n }) (setJob c (some (.send j1)) d)
      settleSend c (sendMore c (sendBatches c 2 d1))
  | _ => d

/-- A tile to send has been read. -/
def sendTile (c : Nat) (j : SendJob) (r : TileRes) (d : Dev) : Dev := settleSend c (sendMore c (sendOne c j r d))

/-- COMMIT: the target's count. -/
def gotCommit (c n : Nat) (d : Dev) : Dev :=
  match d.job c with
  | some (.send j) => settleSend c (setJob c (some (.send { j with committed := max j.committed n })) d)
  | _ => d

/-- CLOSED: everything has committed, and the part is closed at the target. -/
def gotClosed (c : Nat) (d : Dev) : Dev :=
  match d.job c with
  | some (.send j) => if j.closeSent then endSend c 0 d else d
  | _ => d

/-- REPL_SEND (R343, R500). Without a queue pair in RTS there is no session, and it completes with BUSY. -/
def doReplSend (h : Hdr) (volume kind part target segId : Nat) (fpExchange : Bool) (first entries batch : Nat) (d : Dev) : Dev :=
  match d.volume volume, d.source volume kind part target segId, tget d.hif.chans h.chan with
  | some v, some s, some ch =>
    match d.take volume s.takeId, d.decryptPage v ch.domain with
    | some t, some page =>
      if !d.decOn ch.decPipe then complete h 0x70 8 0 0 d
      else
        let j : SendJob :=
          { h := h, snap := s.snap, volume := volume, takeId := s.takeId, part := part, first := first, stop := max first (min (first + entries) s.entries.length),
            batch := batch, lookup := fpExchange, closed := decide (t.state = .closed_ ∧ kind ≠ 2), entries := s.entries, next := first,
            heldTo := first, tiles := [], sent := 0, heldCnt := 0, committed := 0, closeSent := false, page := page,
            hkey := d.dedupSlot v }
        match openSession h.chan d with
        | none => complete h 0x70 8 0 0 d
        | some d1 => sendOffer_ h.chan (offerOf j kind segId s.takeId t v (((tget d1.repl h.chan).map (·.level)).getD 0)) (setJob h.chan (some (.send j)) d1)
    | _, _ => complete h 0x70 8 0 0 d
  | _, _, _ => complete h 0x70 0x10 0 0 d
where
  /-- The OFFER goes out once the session is up; until then it is kept. -/
  sendOffer_ (c : Nat) (o : Offer) (d : Dev) : Dev :=
    match tget d.repl c with
    | none => d
    | some r =>
      if r.up then replMsg c (.replOffer c { o with level := r.level }) (onRepl c (fun x => { x with offer := some o, offered := true }) d)
      else onRepl c (fun x => { x with offer := some o, offered := false }) d

/-! ## The target (R344 to R347) -/

/-- Sessions of this head that hold receive buffers. -/
def Dev.receiving (d : Dev) : Nat := (d.repl.filter (fun x => !x.2.buffers.isEmpty)).length

/-- The status of ACCEPT (R345). -/
def Dev.acceptStatus (d : Dev) (c : Nat) (r : Repl) (o : Offer) (j : AcceptJob) : Nat :=
  match d.volume o.volume with
  | none => if r.level < o.level then 0x0F else 0x0E
  | some v =>
    let t := d.take o.volume o.takeId
    let p := t.bind (·.part o.part)
    let next := (p.map (·.entries.length)).getD 0
    if r.level < o.level then 0x0F
    else if ((d.layout v.layout).map (·.kind == 1)).getD false then 8
    else if o.kcv ≠ v.kcv ∨ o.dkcv ≠ v.dkcv ∨ (d.decryptPage v (d.domain c)).isNone ∨ (j.takeId ≠ 0 ∧ j.takeId ≠ o.takeId) ∨
        j.volume ≠ o.volume then 6
    else if (t.map (fun x => x.state == .closed_)).getD false ∨ (p.map (·.closeDone)).getD false then 2
    else if d.repl.any (fun x => x.1 != c && !x.2.source && !x.2.buffers.isEmpty && x.2.volume == o.volume && x.2.takeId == o.takeId &&
        x.2.part == o.part) then 8
    else if next < max o.first next then 0x0D
    else if r.buffers.isEmpty ∧ 8 ≤ d.receiving then 5
    else 0

/-- The parts that an OFFER names. -/
def offeredParts (o : Offer) : List Nat := (List.range 2).filter o.parts.getLsbD

/-- The take record of a replica, with the parts offered (R345). -/
def replicaTake (c : Nat) (o : Offer) (v : Volume) (d : Dev) : Dev :=
  match d.take o.volume o.takeId with
  | some t =>
    let more := (offeredParts o).filter (fun i => (t.part i).isNone)
    onTake o.volume o.takeId (fun x => { x with
      parts := x.parts.map (fun p => if x.replica && p.idx == o.part then { p with mine := true, lent := false } else p) ++
        more.map (fun i => Part.blank i 0 true) }) d
  | none =>
    let page := ((d.decryptPage v (d.domain c)).join).getD 255
    let t : Take :=
      { volume := o.volume, id := o.takeId, layout := d.writeLayout v, state := .open_, groups := 0, chan := none, domain := d.domain c,
        page := page, kcv := o.kcv, hkey := (d.dedupSlot v).getD 0xFFFF, dedup := v.dedup, start := none, limitFrame := none,
        openGsn := [], begun := 0, ended := 0, endAt := [], stage := 0, parts := (offeredParts o).map (fun i => Part.blank i 0 true),
        pending := [], openTime := 0, closeTime := 0, reason := 0, reel := none, closeHdr := none, addenda := [], lossDue := [], replica := true,
        told := true, away := false, adopted := false, undone := false, erased := false }
    onCat (fun k => { k with takes := k.takes ++ [t] }) d

/-- 128 receive buffers of pool 3. -/
def takeBuffers : Nat → List Nat → Dev → Dev × List Nat
  | 0, l, d => (d, l)
  | n + 1, l, d =>
    match poolAlloc 3 false d with
    | (d1, some i) => takeBuffers n (l ++ [i]) d1
    | (d1, none) => (d1, l)

/-- An outstanding REPL_ACCEPT meets an OFFER (R345). -/
def answerOffer_ (c : Nat) (o : Offer) (j : AcceptJob) (d : Dev) : Dev :=
  match tget d.repl c with
  | none => d
  | some r =>
    let st := d.acceptStatus c r o j
    let next := (((d.take o.volume o.takeId).bind (·.part o.part)).map (·.entries.length)).getD 0
    match st, d.volume o.volume with
    | 0, some v =>
      let d1 := replicaTake c o v d
      let b := if r.buffers.isEmpty then takeBuffers 128 [] d1 else (d1, r.buffers)
      let d2 := onRepl c (fun x => { x with
        offer := some o, offered := true, volume := o.volume, takeId := o.takeId, part := o.part, goal := next, busy := false, batch := []
        queue := [], total := none, buffers := b.2 }) b.1
      replMsg c (.replAccept c 0 next) (setJob c (some (.accept { j with takeId := o.takeId, active := true })) d2)
    | st, _ => replMsg c (.replAccept c st next) (onRepl c (fun x => { x with offer := none }) d)

/-- REPL_ACCEPT: waits for an OFFER; one that has come already is answered now. -/
def doReplAccept (h : Hdr) (volume takeId : Nat) (d : Dev) : Dev :=
  let j : AcceptJob := { h := h, volume := volume, takeId := takeId, active := false, tiles := 0 }
  match openSession h.chan d with
  | none => complete h 0x78 0x0A 0 0 d
  | some d1 =>
    let d2 := setJob h.chan (some (.accept j)) d1
    match (tget d2.repl h.chan).bind (·.offer) with
    | some o => answerOffer_ h.chan o j d2
    | none => d2

/-- OFFER: answered by an outstanding REPL_ACCEPT, or kept until one comes or ACCEPT_TIMEOUT passes. -/
def gotOffer (c : Nat) (o : Offer) (d : Dev) : Dev :=
  match d.job c with
  | some (.accept j) => answerOffer_ c o j d
  | _ => onRepl c (fun x => { x with offer := some o }) d

/-- ACCEPT_TIMEOUT: no REPL_ACCEPT is outstanding 1 s after the OFFER (R343, step 1). -/
def acceptTimeout (c : Nat) (d : Dev) : Dev :=
  match tget d.repl c, d.job c with
  | some r, none => if r.offer.isSome ∧ !r.source then replMsg c (.replAccept c 8 0) (onRepl c (fun x => { x with offer := none }) d) else d
  | _, _ => d

/-- Checks 1 to 3 of R346 on a received tile. -/
def tileFits (r : Repl) (e : FpEntry) (stored : List Byte) : Bool :=
  let h := readHdr stored
  hdrValid stored && stored.length == h.stored && h.volume == r.volume &&
    (e.flags.getLsbD 0 || (h.takeId == r.takeId && h.tileSeq == e.tileSeq)) && h.fp == e.fp && h.stored == e.storedLen

/-- A received tile is kept for its place in entry order. -/
def keepTile (c entry : Nat) (stored : List Byte) (d : Dev) : Dev :=
  settleRepl (pumpRepl c (onRepl c (fun q => { q with
    batch := q.batch.map (fun y => if y.idx = entry then { y with tile := some stored } else y) }) d))

/-- A received tile fails: the offer ends on both sides (R346, R348). -/
def failTile (c entry status : Nat) (d : Dev) : Dev := endAccept c status (replMsg c (.replError c entry status) d)

/-- The class L page that checks an encrypted tile of a session (R346, step 4). -/
def Dev.checkPage (d : Dev) (c : Nat) (r : Repl) : Nat :=
  (((d.volume r.volume).bind (fun v => d.decryptPage v (d.domain c))).join).getD 64

/-- TILE: counted, checked against its batch entry; the tag of an encrypted one is checked on a service lane. One that is not expected is
discarded (R346). -/
def gotTile (c entry : Nat) (stored : List Byte) (d : Dev) : Dev :=
  match tget d.repl c, d.job c with
  | some r, some (.accept j) =>
    let d1 := setJob c (some (.accept { j with tiles := j.tiles + 1 })) d
    match r.batch.find? (fun x => x.idx == entry && x.held.isNone && x.tile.isNone) with
    | none => d1
    | some x =>
      if !tileFits r x.ent stored then failTile c entry 0x0C d1
      else if (readHdr stored).cipher = 2 then
        submitJob { page := d.checkPage c r, segs := max 1 ((stored.length - 128 + 65535) / 65536), long := false, timed := true, started := false
                    encrypt := false, chan := some c, handle := d.handle c, qp := 0, head := [], tail := [], body := stored, ctr := 0
                    msg := none, entry := entry, later := false, aborting := none } d1
      else keepTile c entry stored (onRcnt (fun k => { k with tilesRcvd := k.tilesRcvd + 1 }) d1)
  | _, _ => d

/-- A check has run: the tile is kept where its tag authenticates (R346, step 4); else CIPH_AUTH_FAIL is logged with the handle of the
channel (R147), and the offer ends. -/
def tileChecked (j : CJob) (c : Nat) (d : Dev) : Dev :=
  if tagFits (d.page j.page).key j.body then keepTile c j.entry j.body d
  else failTile c j.entry 6 (logEvent 0x0702 (BitVec.ofNat 32 j.page) [j.handle] d)

/-- Tiles whose checks have run with a tag that authenticates are accepted (R346, step 4), and counted so (R352). -/
def countChecked (d : Dev) : Dev :=
  let fits (x : CJob × Nat) : Bool :=
    x.2 == 0 && !x.1.encrypt && tagFits (d.page x.1.page).key x.1.body && (match x.1.chan.bind d.job with | some (.accept _) => true | _ => false)
  onRcnt (fun k => { k with tilesRcvd := k.tilesRcvd + BitVec.ofNat 64 (d.ciph.ended.filter fits).length }) d

/-- What a job that has ended on a service lane leads to: a refused or stopped one ends its operation with its status (R132, R138, R153). -/
def jobEnded (x : CJob × Nat) (d : Dev) : Dev :=
  match x.1.chan with
  | none => d
  | some c =>
    match d.job c with
    | some (.send _) => if x.2 = 0 then d else endSend c x.2 d
    | some (.accept _) => if x.2 ≠ 0 then endAccept c x.2 d else if x.1.encrypt then d else tileChecked x.1 c d
    | _ => d

/-- Every job that has ended has what it leads to. -/
def settleJobs (d : Dev) : Dev := each jobEnded d.ciph.ended (onCiph (fun k => { k with ended := [] }) d)

/-- Receive buffers of a session that hold a TILE: one that waits for its place in entry order, or for its check. -/
def Dev.tilesHeld (d : Dev) (c : Nat) (r : Repl) : Nat :=
  (r.batch.filter (·.tile.isSome)).length +
    ((d.ciph.jobs ++ d.ciph.lane0.toList ++ d.ciph.lane1.toList).filter (fun j => j.chan == some c && !j.encrypt)).length

/-- TILE: with every receive buffer full it is answered with RNR NAK, and its source retries (R348). The PSN is the transport's, and the
timer's code is not stated (R332): both are free. -/
def tileArrives (c entry : Nat) (stored : List Byte) (d : Dev) : Dev :=
  match tget d.repl c, d.replQp c with
  | some r, some _ =>
    if !r.buffers.isEmpty && decide (r.buffers.length ≤ d.tilesHeld c r) then
      let qp := ((tget d.hif.chans c).map (·.qp)).getD 0
      drawn (drawn (onRcnt (fun k => { k with rnrSent := k.rnrSent + 1 })
        (sendNak qp ((Config.free32 d.free).setWidth 24) (.rnr (Config.freeNat (d.free + 1) % 32)) d)))
    else gotTile c entry stored d
  | _, _ => gotTile c entry stored d

/-- FP_BATCH: it waits its turn (R343, step 4). -/
def gotBatch (c first : Nat) (lookup : Bool) (ents : List FpEntry) (d : Dev) : Dev :=
  match tget d.repl c, d.job c with
  | some r, some (.accept j) =>
    if j.active ∧ r.offered then startBatch c (onRepl c (fun x => { x with queue := x.queue ++ [(first, lookup, ents)] }) d) else d
  | _, _ => d

/-- REPL_COMMIT_TIMER: COMMIT while entries commit; what waited for a stripe goes on (R346). -/
def commitTimer (c : Nat) (d : Dev) : Dev :=
  match tget d.repl c with
  | some r => if r.busy ∧ !r.source then settleRepl (replMsg c (.replCommit c (d.partLength r)) (pumpRepl c d)) else d
  | none => d

/-- CLOSE: the part closes once every entry up to the total has committed (R347). -/
def gotClose (c total : Nat) (d : Dev) : Dev :=
  match tget d.repl c with
  | some r => if r.source || r.offer.isNone then d else settleRepl (onRepl c (fun x => { x with total := some total }) d)
  | none => d

/-- ERROR ends the operation of the session with its status (R348). -/
def gotError (c status : Nat) (d : Dev) : Dev := if d.isSource c then endSend c status d else endAccept c status d

/-! ## R_HELLO and R_CONFIRM (R341) -/

/-- Why an R_HELLO is not accepted: 0 chain, 1 signature, 3 serial. -/
def rHelloFault (peer : W64) (m : Hello) : Option Nat :=
  if !Config.chainOk m.certs then some 0
  else if !ecdsaVerify (Config.leafKey m.certs) (sha384 m.body) m.signature then some 1
  else if peer ≠ 0 ∧ m.serial ≠ peer then some 3
  else none

/-- R_HELLO: verified, kept, and the keys derived once this head's own is sent. A failure ends the session. -/
def rHello (c : Nat) (m : Hello) (d : Dev) : Dev :=
  match d.replQp c with
  | none => d
  | some q =>
    match rHelloFault q.host.peerSerial m with
    | some k =>
      failSession c (logEvent 0x060A noInstance [BitVec.ofNat 32 k, m.serial.setWidth 32, (m.serial >>> 32).setWidth 32] d)
    | none =>
      let d1 := if (tget d.repl c).isSome then d else { d with repl := tput d.repl c (.fresh (d.isSource c)) }
      match tget d1.repl c with
      | some r => if r.peer.isSome then d1 else keySession c (onRepl c (fun x => { x with peer := some m }) d1)
      | none => d1

/-- R_CONFIRM: the session is up, and an OFFER that waits goes out. One that does not authenticate is discarded and logged (R147), and no
session forms while IDENTITY_OK is 0 (R444). -/
def rConfirm (c : Nat) (auth : Bool) (d : Dev) : Dev :=
  match tget d.repl c with
  | none => d
  | some r =>
    let rx := ((d.replQp c).map (·.host.rxPage)).getD 64
    if (d.page rx).state = .ready ∧ !auth then logEvent 0x0702 (BitVec.ofNat 32 rx) [d.handle c] d
    else if !auth ∨ !d.ciphOn ∨ !d.boot.idOk ∨ r.up ∨ r.peer.isNone ∨ !r.helloSent then d
    else
      let d1 := onRepl c (fun x => { x with up := true }) d
      match r.source, r.offer with
      | true, some o => replMsg c (.replOffer c { o with level := r.level }) (onRepl c (fun x => { x with offered := true }) d1)
      | _, _ => d1

/-! ## The descriptors -/

/-- REPL_SEND. -/
def execReplSend (h : Hdr) (volume kind part target segId : Nat) (fpExchange : Bool) (targetVol first entries batch : Nat) (s : State) :
    Host.Outcome State Fault Refusal :=
  .next { s with
    dev := descriptor 0x70 [3] h (decide (kind < 3 ∧ part < 2 ∧ 1 ≤ batch ∧ batch ≤ 4096 ∧ (targetVol = 0 ∨ targetVol = volume)))
      (fun d => settleJobs (doReplSend h volume kind part target segId fpExchange first entries batch d)) s.dev }

/-- REPL_ACCEPT. -/
def execReplAccept (h : Hdr) (volume takeId : Nat) (s : State) : Host.Outcome State Fault Refusal :=
  .next { s with dev := descriptor 0x78 [4] h true (fun d => settleJobs (doReplAccept h volume takeId d)) s.dev }

/-! ## The messages as commands -/

/-- The head handles replication messages: live, host interface out of reset, the channel there. -/
def Dev.replOn (d : Dev) (c : Nat) : Bool := d.working && !d.glb.perstLow && (d.replQp c).isSome && (d.ctype c == 3 || d.ctype c == 4)

/-- A message after R_CONFIRM: only in a session that is up (R341). -/
def Dev.replUp (d : Dev) (c : Nat) : Bool := d.replOn c && ((tget d.repl c).map (·.up)).getD false

/-- R_HELLO. -/
def execRHello (chan : Nat) (m : Hello) (s : State) : Host.Outcome State Fault Refusal :=
  .next { s with dev := when (s.dev.replOn chan) (fun d => settleJobs (rHello chan m d)) s.dev }

/-- R_CONFIRM. -/
def execRConfirm (chan : Nat) (auth : Bool) (s : State) : Host.Outcome State Fault Refusal :=
  .next { s with dev := when (s.dev.replOn chan) (fun d => settleJobs (rConfirm chan auth d)) s.dev }

/-- OFFER. -/
def execOffer (chan : Nat) (o : Offer) (s : State) : Host.Outcome State Fault Refusal :=
  .next { s with dev := when (s.dev.replUp chan && !s.dev.isSource chan) (fun d => settleJobs (gotOffer chan o d)) s.dev }

/-- ACCEPT_TIMEOUT. -/
def execAcceptTimeout (chan : Nat) (s : State) : Host.Outcome State Fault Refusal :=
  .next { s with dev := when (s.dev.replUp chan) (fun d => settleJobs (acceptTimeout chan d)) s.dev }

/-- ACCEPT. -/
def execAccept (chan : Nat) (status nextEntry : Nat) (s : State) : Host.Outcome State Fault Refusal :=
  .next { s with dev := when (s.dev.replUp chan) (fun d => settleJobs (gotAccept chan status nextEntry d)) s.dev }

/-- FP_BATCH. -/
def execFpBatch (chan : Nat) (first : Nat) (lookup : Bool) (entries : List FpEntry) (s : State) : Host.Outcome State Fault Refusal :=
  .next { s with dev := when (s.dev.replUp chan) (fun d => settleJobs (gotBatch chan first lookup entries d)) s.dev }

/-- HELD. -/
def execHeld (chan : Nat) (first : Nat) (bitmap : List Bool) (s : State) : Host.Outcome State Fault Refusal :=
  .next { s with dev := when (s.dev.replUp chan) (fun d => settleJobs (gotHeld chan first bitmap d)) s.dev }

/-- TILE. -/
def execTile (chan : Nat) (entry : Nat) (stored : List Byte) (s : State) : Host.Outcome State Fault Refusal :=
  .next { s with dev := when (s.dev.replUp chan) (fun d => settleJobs (tileArrives chan entry stored d)) s.dev }

/-- COMMIT. -/
def execCommit (chan : Nat) (entries : Nat) (s : State) : Host.Outcome State Fault Refusal :=
  .next { s with dev := when (s.dev.replUp chan) (fun d => settleJobs (gotCommit chan entries d)) s.dev }

/-- REPL_COMMIT_TIMER. -/
def execReplCommitTimer (chan : Nat) (s : State) : Host.Outcome State Fault Refusal :=
  .next { s with dev := when (s.dev.replUp chan) (fun d => settleJobs (commitTimer chan d)) s.dev }

/-- CLOSE. -/
def execClose (chan : Nat) (total : Nat) (s : State) : Host.Outcome State Fault Refusal :=
  .next { s with dev := when (s.dev.replUp chan) (fun d => settleJobs (gotClose chan total d)) s.dev }

/-- CLOSED. Its total is the part's. -/
def execClosed (chan : Nat) (_total : Nat) (s : State) : Host.Outcome State Fault Refusal :=
  .next { s with dev := when (s.dev.replUp chan) (fun d => settleJobs (gotClosed chan d)) s.dev }

/-- ERROR. Its entry is named for the host alone. -/
def execError (chan : Nat) (_entry status : Nat) (s : State) : Host.Outcome State Fault Refusal :=
  .next { s with dev := when (s.dev.replUp chan) (fun d => settleJobs (gotError chan status d)) s.dev }

/-! ## Queue pairs whose sessions may end (R329, R341) -/

/-- CIPHER_SEGMENT_END (R152): a TILE that has left may let its CLOSE go. -/
def execCipherSegmentEnd (lane : Fin 2) (s : State) : Host.Outcome State Fault Refusal :=
  .next { s with dev := when s.dev.live (fun d => each (fun x y => settleSend x.1 y) d.repl (settleJobs (countChecked (doSegmentEnd lane d)))) s.dev }

/-- QP_CONTEXT_CHANGE (R326). -/
def execQpContextChange (qp : Nat) (gen : Byte) (host : QpHost) (windows : List Window) (s : State) : Host.Outcome State Fault Refusal :=
  let ok := s.dev.live && !s.dev.glb.perstLow && hostQp qp && (s.dev.rdmaOn || host.stateReq != 1)
  .next { s with dev := when ok (fun d => dropSessions (contextChange qp gen host windows d)) s.dev }

/-- A NAK arrives (R329). -/
def execRdmaNak (qp : Nat) (psn : BitVec 24) (code : NakCode) (s : State) : Host.Outcome State Fault Refusal :=
  .next { s with dev := when (s.dev.live && !s.dev.glb.perstLow) (fun d => dropSessions (rdmaNak qp psn code d)) s.dev }

/-- RDMA_ACK_TIMEOUT (R329). -/
def execRdmaAckTimeout (qp : Nat) (s : State) : Host.Outcome State Fault Refusal :=
  .next { s with dev := when (s.dev.live && !s.dev.glb.perstLow) (fun d => dropSessions (ackTimeout qp d)) s.dev }

/-- RNR_RETRY_TIMER (R329). -/
def execRnrRetryTimer (qp : Nat) (s : State) : Host.Outcome State Fault Refusal :=
  .next { s with dev := when (s.dev.live && !s.dev.glb.perstLow) (fun d => dropSessions (rnrRetry qp d)) s.dev }

end Sys2Proof.Machine
end

