-- ==== Sys2Proof/Machine/Audit.lean ====
section
/-! DEFINITION. The audit tick (R80 to R83) and what counts from it: contract windows (R35), the error window of R70, LEDGER (R297),
raw rings released (R25), and a handover that waits for space (R305). -/

namespace Sys2Proof.Machine
open Sys2Proof

/-- A contract window ends: DATA payload beyond the granted rate is counted and logged (R35). The rate is in Mbit/s. -/
def endWindow (g : Fin 4) (d : Dev) : Dev :=
  let x := d.sl.groups.at g
  let d1 := onGroup g (fun y => { y with winBytes := 0 }) d
  match x.grant with
  | some r =>
    if r.rate * 125 < x.winBytes then
      logEvent 0x0203 (BitVec.ofNat 32 g.val) [BitVec.ofNat 32 x.winBytes, BitVec.ofNat 32 r.rate]
        (onGroup g (fun y => { y with contractViol := y.contractViol + 1 }) d1)
    else d1
  | none => d1

/-- The error window of every lane ends (R70). -/
def endErrorWindow (d : Dev) : Dev :=
  { d with sl := { d.sl with lanes := d.sl.lanes.map (fun e => (e.1, { e.2 with badWin := 0 })) } }

/-- A ring that a takeover brought is released once its backlog is worked off (R25, R76). -/
def releaseRing (g : Fin 4) (d : Dev) : Dev :=
  let l := d.lg.at g
  if d.owns g && decide (rawSlots < l.nRaw) && l.ring.isEmpty && l.landing.isEmpty && l.heals.isEmpty then
    onLedger g (fun x => { x with nRaw := rawSlots }) d
  else d

/-- A standby group that lands from its link has landed 1 ms more (R305, R306). -/
def countStandby (g : Fin 4) (d : Dev) : Dev :=
  if !d.owns g && (d.sl.groups.at g).link == .granted && !d.sl.player then
    onLedger g (fun l => { l with standbyNs := l.standbyNs + 1000000 }) d
  else d

/-- A failed audit: latched, and fatal (R83). -/
def auditFail (a : Audit) (d : Dev) : Dev :=
  fatalStop 0x0209 noInstance (a.word :: d.auditDiffs a.firstFail) false (drawn { d with audit := { a with latched := true } })

/-- What a clean audit tick brings. -/
def tickWork (d : Dev) : Dev :=
  let d1 := each countStandby groupList (endErrorWindow (each endWindow groupList d))
  sendLedger (if d1.working then tryCut (formRings (fitCeiling (each releaseRing groupList d1))) else d1)

/-- AUDIT_TICK: every group is checked in one clock. The tick's time is 1 ms after the one before. -/
def auditTick (d : Dev) : Dev :=
  let a := d.auditNow
  let d1 := { d with now := max d.now (a.ticks * 1000000) }
  if a.clean then tickWork { d1 with audit := a } else auditFail a d1

/-- Nothing is commanded: a nanosecond passes, every group whose codewords run sends IDLE (R39), and a layout scan that waits for the
maintenance budget goes on (R202). How many ticks a packet takes is outside the model (DESIGN CHOICE, notes/assumptions/7.md). -/
def idleTick (d : Dev) : Dev := idle (when d.working pumpScan (when d.live (fun x => settleJobs (each sendIdle groupList x)) d))

/-- AUDIT_TICK. -/
def execAuditTick (s : State) : Host.Outcome State Fault Refusal := .next { s with dev := when s.dev.live auditTick s.dev }

end Sys2Proof.Machine
end

