-- ==== Sys2Proof/Machine/Reads.lean ====
section
/-! DEFINITION. DRIVE_READ_COMPLETE (R181, R197, R506): the sectors of a tile come back to the channel that reads it. -/

namespace Sys2Proof.Machine
open Sys2Proof

/-- A tile has come for a channel: its replay buffer is free again, and its READ, PLAY or REPL_SEND goes on. -/
def tileArrived (c : Nat) (cols : List (List SecRead)) (d : Dev) : Dev :=
  match (tget d.hif.chans c).bind (·.rbuf), d.want c with
  | some _, some w =>
    if cols.length ≠ d.columns w then d else
    let x := tileCame c w cols d
    let d1 := freeTile c x.1
    match d1.job c with
    | some (.read j) => pumpRead c (j.todo.length + 1) (readTile c j w.entry x.2 d1)
    | some (.play j) => runPlay j.group (playTile c j x.2 d1)
    | some (.send j) => sendTile c j x.2 d1
    | _ => d1
  | _, _ => d

/-- DRIVE_READ_COMPLETE. -/
def execDriveReadComplete (chan : Nat) (cols : List (List SecRead)) (s : State) : Host.Outcome State Fault Refusal :=
  .next { s with dev := when s.dev.working (tileArrived chan cols) s.dev }

/-- RESERVATION_CONFLICT (R172, R290, R304): on a drive that this head is registered on, its key is gone and it steps down; else the
write is held. -/
def conflict (j k : Nat) (d : Dev) : Dev :=
  match (d.openEnt j).bind (fun e => d.memberSlot e k) with
  | none => d
  | some slot =>
    if (d.drive slot).registered then stepDown 1 d
    else onDrive slot (fun x => { x with held := if x.held.contains (j, k) then x.held else x.held ++ [(j, k)] }) d

/-- RESERVATION_CONFLICT. -/
def execReservationConflict (jseq member : Nat) (s : State) : Host.Outcome State Fault Refusal :=
  .next { s with dev := when s.dev.live (conflict jseq member) s.dev }

end Sys2Proof.Machine
end

