-- ==== Sys2Proof/Machine/Rings.lean ====
section
/-! DEFINITION. Host rings (R251 to R277, R501): doorbell polls, host access errors, interrupts, channels created and destroyed,
ABORT, NOTIFY, and what PERST_N does; the ADMIN operations on keys and measurement registers. -/

namespace Sys2Proof.Machine
open Sys2Proof

/-! ## Doorbells (R263, R264) -/

/-- A descriptor as a poll fetches it: `i` slots after the head. -/
def fetchedDesc (ch : Chan) (seq : W32) (i : Nat) (x : Byte × Byte × W32) : Desc :=
  { opcode := x.1, tag := x.2.2, sqIndex := (ch.head + i) % 2 ^ ch.sqLog2, dbSeq := seq, irq := x.2.1.getLsbD 0,
    fence := x.2.1.getLsbD 1, started := false, aborted := false }

/-- An entry that belongs to no descriptor: tag 0 (R251, R264). -/
def strayDesc (sq : Nat) (seq : W32) : Desc :=
  { opcode := 0, tag := 0, sqIndex := sq, dbSeq := seq, irq := false, fence := false, started := true, aborted := false }

/-- Descriptors that a doorbell submits beyond the head. -/
def submitted (ch : Chan) (tail : Nat) : Nat := (tail % 2 ^ ch.sqLog2 + 2 ^ ch.sqLog2 - ch.head) % 2 ^ ch.sqLog2

/-- One doorbell of a poll: nothing new, too many, or the descriptors up to TAIL are fetched. Ring slots that `descs` does not
give hold zeros. Answers whether it had changed. -/
def readDoorbell (r : DbRead) (d : Dev) : Dev × Bool :=
  match tget d.hif.chans r.chan with
  | none => (d, false)
  | some ch =>
    let n := submitted ch r.tail
    if !d.picksUp r.chan || d.hif.stopping && r.chan == 0 || n == 0 then (d, false)
    else if 2 ^ ch.sqLog2 - 1 < n + ch.descs.length then
      (writeEntry r.chan (strayDesc (r.tail % 65536) r.seq) 0x10 0 0 (chanError r.chan 0 0x10 (r.tail % 65536) d), true)
    else
      let got := (List.range n).map (fun i => fetchedDesc ch r.seq i ((r.descs[i]?).getD (0, 0, 0)))
      (onHif (fun h => { h with fetched := h.fetched + BitVec.ofNat 64 n })
        (onChan r.chan (fun x => { x with descs := x.descs ++ got, head := (x.head + n) % 2 ^ x.sqLog2 }) d), true)

/-- The doorbell lines that a poll of a host channel group reads: those with a channel. -/
def Dev.linesOf (d : Dev) (g : Nat) : List Nat :=
  ((d.hif.chans.filter (fun e => e.1 / 512 == g)).map (fun e => e.1 % 512 / 8)).eraseDups

/-- A line is polled: counted, and the gap since its last poll measured (R277). -/
def pollLine (key : Nat) (d : Dev) : Dev :=
  onHif (fun h => { h with
    dbReads := h.dbReads + 1, polledAt := tput h.polledAt key d.now
    gapMax := match tget h.polledAt key with
      | some t => if h.gapMax.toNat < d.now - t then BitVec.ofNat 64 (d.now - t) else h.gapMax
      | none => h.gapMax }) d

/-- The group's next interval, as an exponent of 0.5 µs × 2^n (R264). -/
def nextInterval (g : Nat) (changed : Bool) (d : Dev) : Dev :=
  let fast := decide (g < 8) && d.regs.hifCfg.getLsbD (16 + g)
  let e := if changed || fast then 0 else min (tgetD d.hif.pollExp 0 g + 1) (bits d.regs.hifCfg.toNat 26 24)
  onHif (fun h => { h with pollExp := tput h.pollExp g e }) d

/-- The receive buffers that a queue pair's doorbell returns (R325). -/
def readQpDoorbell (r : DbRead) (d : Dev) : Dev × Bool :=
  match d.qp r.chan with
  | some q =>
    let t := r.tail / 65536 % 2 ^ q.host.rqLog2
    (onQp r.chan (fun x => { x with rqTail := t }) d, t != q.rqTail || r.tail % 65536 != q.sqHead)
  | none => (d, false)

/-- DOORBELL_POLL of a host channel group, or of a QP doorbell page (groups 8 to 39): a page whose base is 0 is absent. The lines of a
QP page are all polled, since a queue pair in RESET is found by its doorbell. -/
def pollGroup (g : Nat) (reads : List DbRead) (d : Dev) : Dev :=
  let host := decide (g < 8)
  let base := if host then tgetD d.regs.dbPage 0 g else tgetD d.regs.qpDb 0 (g - 8)
  if base = 0 then d
  else
    let lines := if host then d.linesOf g else List.range 64
    let d1 := each (fun l x => pollLine (g * 64 + l) x) lines d
    let mine := reads.filter (fun r => r.chan / 512 == (if host then g else g - 8))
    let step (x : Dev × Bool) (r : DbRead) : Dev × Bool :=
      let y := if host then readDoorbell r x.1 else readQpDoorbell r x.1
      (y.1, x.2 || y.2)
    let r := mine.foldl step (d1, false)
    settled (nextInterval g r.2 r.1)

/-- DOORBELL_POLL. -/
def execDoorbellPoll (group : Nat) (reads : List DbRead) (s : State) : Host.Outcome State Fault Refusal :=
  .next { s with dev := when (s.dev.running && !s.dev.glb.perstLow && decide (group < 40)) (pollGroup group reads) s.dev }

/-! ## Operations that stop (R270) -/

/-- The header of an outstanding descriptor. -/
def hdrOf (c : Nat) (x : Desc) : Hdr :=
  { chan := c, irq := x.irq, fence := x.fence, clean := true, tag := x.tag, sqIndex := x.sqIndex, dbSeq := x.dbSeq }

/-- A job of a channel stops at its stopping point; REPL_ACCEPT has none. -/
def stopJob (c status : Nat) (d : Dev) : Option Dev :=
  match d.job c with
  | some (.read j) => some (endRead c j status d)
  | some (.play j) => some (stopPlay c j status d)
  | some (.copy j) => some (endCopy c j status d)
  | some (.send _) => some (endSend c status d)
  | _ => none

/-- A TAKE_OPEN that waits for its partner's part is undone (R270). -/
def undoOpen (h : Hdr) (status : Nat) (d : Dev) : Dev :=
  match d.tango.partOpens.find? (fun o => o.1.chan == h.chan && o.1.tag == h.tag) with
  | none => d
  | some o => undoPart o status d

/-- A MAINT operation has stopped: the progress of every layout is persisted (R270). -/
def persistAll (d : Dev) : Dev := each persistProgress d.vault.layouts d

/-- A started descriptor that R270 lets stop: the state after it has stopped with a status. None where it is not abortable. -/
def stopDesc (c : Nat) (x : Desc) (status : Nat) (d : Dev) : Option Dev :=
  let h := hdrOf c x
  let op := x.opcode.toNat
  if (d.job c).isSome then stopJob c status d
  else if op = 0x40 then some (undoOpen h status d)
  else if op = 0x04 then
    some (complete h 0x04 status 0 0 (onHif (fun f => { f with notifies := f.notifies.filter (fun n => n.1.tag != h.tag) }) d))
  else if op = 0x80 then
    some (complete h 0x80 status (BitVec.ofNat 64 d.vault.scrubCount) 0 (persistAll (onVault (fun v => { v with scrubOn := false, scrubJob := none }) d)))
  else if op = 0x81 then
    some (complete h 0x81 status (BitVec.ofNat 64 ((d.vault.reshape.map (·.moved)).getD 0)) 0 (persistAll d))
  else if op = 0x83 then
    let mine (r : Replacing) : Bool := (r.h.map (fun y => y.chan == c && y.tag == x.tag)).getD false
    let n := ((d.vault.replaces.find? (fun e => mine e.2)).map (fun e => e.2.done)).getD 0
    some (complete h 0x83 status (BitVec.ofNat 64 n) 0 (persistAll (onVault (fun v => { v with
      replaces := v.replaces.map (fun e => if mine e.2 then (e.1, { e.2 with h := none }) else e) }) d)))
  else if op = 0x85 then some (complete h 0x85 status 0 0 (persistAll (onVault (fun v => { v with scan := none }) d)))
  else if op = 0x20 then some (complete h 0x20 status 0 0 (dropCtx 0 { d with boot := { d.boot with staging := none } }))
  else none

/-! ## ABORT (R268, R269) -/

/-- Whether a handle names a channel that is there and not being destroyed (R255). -/
def Dev.stale (d : Dev) (handle : W32) : Bool :=
  let i := handle.toNat % 4096
  (tget d.hif.chans i).isNone || (tget d.hif.dying i).isSome || d.handle i != handle

/-- Mark the oldest descriptor with a tag as aborted. -/
def markAborted (tag : W32) : List Desc → List Desc
  | [] => []
  | x :: t => if x.tag = tag then { x with aborted := true } :: t else x :: markAborted tag t

/-- ABORT: its own entry follows that of its target. What the target's doorbell holds has been fetched by the poll before it. -/
def doAbort (h : Hdr) (handle tag : W32) (d : Dev) : Dev :=
  let c := handle.toNat % 4096
  if d.stale handle then complete h 0x03 9 0 0 d
  else
    let wait (ok : Bool) (x : Dev) : Dev :=
      settled (onHif (fun f => { f with aborts := f.aborts ++ [{ h := h, chan := c, tag := tag, ok := ok }] }) x)
    match ((tget d.hif.chans c).map (·.descs)).getD [] |>.find? (fun x => x.tag == tag && !(c == h.chan && x.tag == h.tag)) with
    | none => complete h 0x03 2 0 0 d
    | some x =>
      if x.aborted then wait false d
      else if !x.started then wait true (onChan c (fun ch => { ch with descs := markAborted tag ch.descs }) d)
      else
        match stopDesc c x 1 d with
        | some d1 => wait true d1
        | none => wait false d

/-- ABORT. -/
def execAbort (h : Hdr) (handle tag : W32) (s : State) : Host.Outcome State Fault Refusal :=
  .next { s with dev := descriptor 0x03 [7] h true (doAbort h handle tag) s.dev }

/-! ## CHANNEL_CREATE (R256, R257) -/

/-- The operands of CHANNEL_CREATE. -/
structure NewChan where
  index   : Nat
  ctype   : Nat
  domain  : Nat
  sqLog2  : Nat
  cqLog2  : Nat
  vector  : Nat
  modCount : Nat
  decPipe : Nat
  modTime : Nat
  group   : Nat
  priority : Nat
  layout  : Nat
  sqBase  : Nat
  cqBase  : Nat
  qp      : Nat
  dbTail  : Nat
deriving DecidableEq, Repr

/-- Types with a decode path. -/
def decodes (ctype : Nat) : Bool := ctype == 2 || ctype == 3 || ctype == 8

/-- Row 1 of R257. -/
def Dev.newChanOk (d : Dev) (n : NewChan) : Bool :=
  decide (1 ≤ n.index ∧ n.index ≤ 4095 ∧ 1 ≤ n.domain ∧ n.domain ≤ 63) && [1, 2, 3, 4, 5, 6, 8].contains n.ctype &&
    decide (4 ≤ n.sqLog2 ∧ n.sqLog2 ≤ n.cqLog2 ∧ n.cqLog2 ≤ 16 ∧ (n.vector < 2048 ∨ n.vector = 0xFFFF)) &&
    decide (n.sqBase % min 4096 (64 * 2 ^ n.sqLog2) = 0 ∧ n.cqBase % min 4096 (32 * 2 ^ n.cqLog2) = 0) &&
    (if decodes n.ctype then decide (n.decPipe < 4 ∨ n.decPipe = 0x0F) else n.decPipe == 255) &&
    (if n.ctype = 8 then decide (n.group < 4) else n.group == 255) &&
    (if n.ctype = 6 then decide (n.priority < 8) else n.priority == 0) &&
    (if n.ctype = 5 then (d.layout n.layout).isSome else n.layout == 0) &&
    (if n.ctype = 3 ∨ n.ctype = 4 then hostQp n.qp else n.qp == 0) &&
    tgetD d.regs.dbPage 0 (n.index / 512) != 0

/-- Channels of a type. -/
def Dev.chansOf (d : Dev) (ctype : Nat) : Nat := (d.hif.chans.filter (fun e => e.2.ctype == ctype)).length

/-- Row 4 of R257. -/
def Dev.typeFull (d : Dev) (n : NewChan) : Bool :=
  (n.ctype == 5 && decide (8 ≤ d.chansOf 5)) || (n.ctype == 6 && decide (16 ≤ d.chansOf 6)) ||
    (n.ctype == 8 && d.hif.chans.any (fun e => e.2.ctype == 8 && e.2.group == n.group))

/-- Channels bound to a decode path. -/
def Dev.boundTo (d : Dev) (p : Nat) : Nat := (d.hif.chans.filter (fun e => e.2.decPipe == p)).length

/-- The decode path that a channel is bound to: the one named, or the candidate with the fewest channels; none where DEC_EN is
clear (row 6). -/
def Dev.choosePipe (d : Dev) (n : NewChan) : Option Nat :=
  if !decodes n.ctype then some 255
  else if n.decPipe < 4 then (if d.decOn n.decPipe then some n.decPipe else none)
  else
    let cs := (List.range 4).filter d.decOn
    cs.find? (fun p => cs.all (fun q => decide (d.boundTo p ≤ d.boundTo q)))

/-- The DMA engine channel of a new COPY channel: the lowest that is free. -/
def Dev.chooseDma (d : Dev) : Nat := ((List.range 16).find? (fun i => (tget d.dma.chs i).isNone)).getD 255

/-- The channel is there: its doorbell reads 0, and it holds nothing. An INGEST channel takes on what waits for one. -/
def makeChan (n : NewChan) (pipe : Nat) (d : Dev) : Dev :=
  let dma := if n.ctype = 6 then d.chooseDma else 255
  let ch : Chan :=
    { ctype := n.ctype, domain := n.domain, sqLog2 := n.sqLog2, cqLog2 := n.cqLog2, head := 0, cplCount := 0, last := (0, 0, 0), vector := n.vector,
      modCount := n.modCount, modTime := n.modTime, unsig := 0, decPipe := pipe, group := n.group, priority := n.priority,
      layout := n.layout, qp := n.qp, dma := dma, error := false, rbuf := none, descs := [], job := none }
  let d1 := onHif (fun h => { h with chans := tput h.chans n.index ch }) d
  if n.ctype = 1 then attachTakes d1
  else if n.ctype = 6 then
    { d1 with dma := { d1.dma with chs := tput d1.dma.chs dma { chan := n.index, active := false, priority := n.priority, waited := 0 } } }
  else d1

/-- CHANNEL_CREATE, rows 2 to 7 of R257. -/
def doCreate (h : Hdr) (n : NewChan) (d : Dev) : Dev :=
  if !d.glb.locked then complete h 0x01 8 0 0 d
  else if (tget d.hif.chans n.index).isSome then complete h 0x01 8 0 0 d
  else if d.typeFull n then complete h 0x01 8 0 0 d
  else if n.dbTail ≠ 0 then complete h 0x01 0x10 0 0 d
  else
    match d.choosePipe n with
    | none => complete h 0x01 8 0 0 d
    | some p =>
      let d1 := makeChan n p d
      complete h 0x01 0 ((d1.handle n.index).setWidth 64) (if decodes n.ctype then BitVec.ofNat 64 p else 0) d1

/-- CHANNEL_CREATE. -/
def execChannelCreate (h : Hdr) (index ctype domain sqLog2 cqLog2 vector modCount decPipe modTime group priority layout : Nat)
    (sqBase cqBase qp dbTail : Nat) (s : State) : Host.Outcome State Fault Refusal :=
  let n : NewChan :=
    { index := index, ctype := ctype, domain := domain, sqLog2 := sqLog2, cqLog2 := cqLog2, vector := vector, modCount := modCount,
      decPipe := decPipe, modTime := modTime, group := group, priority := priority, layout := layout, sqBase := sqBase, cqBase := cqBase,
      qp := qp, dbTail := dbTail }
  .next { s with dev := descriptor 0x01 [7] h (s.dev.newChanOk n) (doCreate h n) s.dev }

/-! ## Destruction (R253, R271, R272) -/

/-- What a channel does as it is destroyed: what has started stops where R270 lets it, and its resources return. Descriptors that have
not started are flushed in their turn. -/
def teardown (c : Nat) (d : Dev) : Dev :=
  let started := (((tget d.hif.chans c).map (·.descs)).getD []).filter (·.started)
  let d1 := each (fun x y => (stopDesc c x 3 y).getD y) started d
  let d2 := match d1.ctype c with
    | 1 => closeChannel c d1
    | 3 => loseSession c d1
    | 4 => loseSession c d1
    | _ => d1
  let d3 := if (d2.job c).isNone then freeTile c d2 else d2
  settled (dropCtx c d3)

/-- A destruction of index `c` is picked up: its generation moves on, and it holds no new descriptor. -/
def markDying (c : Nat) (by_ : Option Hdr) (d : Dev) : Dev :=
  onHif (fun h => { h with gens := tput h.gens c (tgetD h.gens 0 c + 1), dying := tput h.dying c by_ }) d

/-- CHANNEL_DESTROY (R271): its own entry is written when the channel's last one has been. -/
def doDestroy (h : Hdr) (handle : W32) (d : Dev) : Dev :=
  let c := handle.toNat % 4096
  if d.stale handle then complete h 0x02 9 0 0 d
  else if c = 0 then complete h 0x02 0x10 0 0 d
  else teardown c (markDying c (some h) d)

/-- CHANNEL_DESTROY. -/
def execChannelDestroy (h : Hdr) (handle : W32) (s : State) : Host.Outcome State Fault Refusal :=
  .next { s with dev := descriptor 0x02 [7] h true (doDestroy h handle) s.dev }

/-- The host interface is reset (R253, R501): every other channel is destroyed without an entry, ADMIN stops, the RWL fields of its
block are at their reset values and writable, and every host queue pair is in RESET (R339). -/
def hostReset (d : Dev) : Dev :=
  let d1 := onHif (fun h => { h with
    aborts := [], notifies := [], running := false, stopping := false, fault := false, unmasked := [], pendBits := [], pollExp := []
    polledAt := [] }) (onChan 0 (fun ch => { ch with descs := [], unsig := 0 }) d)
  let run := (d1.hif.chans.map (·.1)).filter (fun c => c != 0)
  let d2 := each (fun c x =>
    match tget x.hif.dying c with
    | some _ => settled (onHif (fun h => { h with dying := tput h.dying c none }) x)
    | none => teardown c (markDying c none x)) run d1
  resetQps { d2 with
    glb := { d2.glb with hifLocked := false }
    regs := { d2.regs with hifCfg := 0x07001001, adminSq := 0, adminCq := 0, adminCtl := 0x88, dbPage := [] } }

/-- PERST_N goes low: also the link is down (R276, R485). -/
def perst (d : Dev) : Dev :=
  let d1 := hostReset d
  onHif (fun h => { h with rate := 0, width := 0 }) { d1 with glb := { d1.glb with perstLow := true } }

/-- PERST_N. It acts on the host interface alone, and during a dump too (R488). -/
def execPerstN (s : State) : Host.Outcome State Fault Refusal :=
  .next { s with dev := when (!s.dev.glb.porLow && !s.dev.glb.perstLow) perst s.dev }

/-- FUNCTION_LEVEL_RESET. -/
def execFunctionLevelReset (s : State) : Host.Outcome State Fault Refusal :=
  .next { s with dev := when (!s.dev.glb.porLow && !s.dev.glb.perstLow) hostReset s.dev }

/-- PERST_N goes high: the host link trains, to a rate and width that the host's side decides (R248, R484): free values. -/
def perstHigh (d : Dev) : Dev :=
  let w := ([1, 2, 4, 8, 16][Config.freeNat (d.free + 1) % 5]?).getD 16
  drawn (drawn (onHif (fun h => { h with rate := Config.freeNat d.free % 6 + 1, width := w })
    { d with glb := { d.glb with perstLow := false } }))

/-- PERST_N_DEASSERT. -/
def execPerstNDeassert (s : State) : Host.Outcome State Fault Refusal :=
  .next { s with dev := when (!s.dev.glb.porLow && s.dev.glb.perstLow) perstHigh s.dev }

/-! ## ADMIN (R275, R501) -/

/-- HIF_ADMIN_CTL after a write of 32 bits: a field whose value is invalid keeps the one it has (R10, R275). -/
def mergeAdminCtl (old v : W32) : W32 :=
  let sq := if 4 ≤ bits v.toNat 3 0 ∧ bits v.toNat 3 0 ≤ 12 then bits v.toNat 3 0 else bits old.toNat 3 0
  let cq := if sq ≤ bits v.toNat 7 4 ∧ bits v.toNat 7 4 ≤ 12 then bits v.toNat 7 4 else bits old.toNat 7 4
  BitVec.ofNat 32 (sq + cq * 16 + bits v.toNat 18 8 * 256 + bits v.toNat 31 31 * 2 ^ 31)

/-- ADMIN starts afresh, unless it runs or ADMIN_FAULT is set. -/
def startAdmin (d : Dev) : Dev :=
  if d.hif.running || d.hif.fault then d
  else
    let v := d.regs.adminCtl.toNat
    onHif (fun h => { h with running := true }) (onChan 0 (fun ch => { ch with
      sqLog2 := bits v 3 0, cqLog2 := bits v 7 4, vector := bits v 18 8, modCount := 1, head := 0, cplCount := 0, last := (0, 0, 0), unsig := 0
      error := false, descs := [] }) d)

/-- A write of HIF_ADMIN_CTL: ENABLE set starts ADMIN, ENABLE clear stops it once what it has fetched is done. -/
def writeAdminCtl (value : W32) (d : Dev) : Dev :=
  let v := mergeAdminCtl d.regs.adminCtl value
  if d.glb.hifLocked || (v.getLsbD 31 && d.hif.running) then d
  else
    let d1 := { d with regs := { d.regs with adminCtl := v } }
    if v.getLsbD 31 then startAdmin d1
    else settled (onHif (fun h => { h with stopping := h.running }) d1)

/-- A BAR0 write reaches the HIF block: the host interface is out of reset (R452). -/
def Dev.hifReach (d : Dev) : Bool := d.live && !d.glb.perstLow && decide (2 ≤ d.boot.stage)

/-- ADMIN_ENABLE. -/
def execAdminEnable (value : W32) (s : State) : Host.Outcome State Fault Refusal :=
  .next { s with dev := when (s.dev.hifReach && value.getLsbD 31) (writeAdminCtl value) s.dev }

/-- ADMIN_STOP. -/
def execAdminStop (value : W32) (s : State) : Host.Outcome State Fault Refusal :=
  .next { s with dev := when (s.dev.hifReach && !value.getLsbD 31) (writeAdminCtl value) s.dev }

/-! ## Host access errors (R251) -/

/-- ADMIN_FAULT: ADMIN stops until the host interface is reset. -/
def adminFault (d : Dev) : Dev := onHif (fun h => { h with fault := true, running := false, stopping := false }) d

/-- A channel enters the error state, unless it is in it. -/
def failChan (c : Nat) (op : Byte) (status sq : Nat) (d : Dev) : Dev :=
  if ((tget d.hif.chans c).map (·.error)).getD true then d else chanError c op status sq d

/-- A descriptor's data cannot be read or written: it completes with HOST_ERROR. -/
def dataError (c : Nat) (tag : W32) (d : Dev) : Dev :=
  match tget d.hif.chans c with
  | none => d
  | some ch =>
    match ch.descs.find? (fun x => x.tag == tag) with
    | none => d
    | some x =>
      if x.started then
        if (d.job c).isSome then (stopJob c 0x11 d).getD d else d
      else if mayStart ch.ctype x.fence (earlier tag ch.descs) then complete (hdrOf c x) x.opcode 0x11 0 0 d
      else d

/-- HOST_ACCESS_ERROR, by what was accessed. The completion entry that cannot be written is the last one of its channel: it is
not counted as written (R277). -/
def hostError (what : HostAccess) (d : Dev) : Dev :=
  let d1 := onHif (fun h => { h with errors := h.errors + 1 }) d
  match what with
  | .descData c tag => dataError c tag d1
  | .descFetch c slot =>
    if c = 0 then adminFault d1
    else writeEntry c (strayDesc slot 0) 0x11 0 0 (failChan c 0 0x11 slot d1)
  | .cplWrite c =>
    let d2 := onHif (fun h => { h with posted := h.posted - 1 }) d1
    let x := ((tget d.hif.chans c).map (·.last)).getD (0, 0, 0)
    if c = 0 then adminFault d2 else failChan c x.1 x.2.1 x.2.2 d2
  | .doorbell c => if c = 0 then adminFault d1 else d1
  | .qp i => if d1.inRts i then dropSessions (qpFail i 5 0x11 d1) else d1

/-- HOST_ACCESS_ERROR. -/
def execHostAccessError (what : HostAccess) (s : State) : Host.Outcome State Fault Refusal :=
  .next { s with dev := when (s.dev.live && !s.dev.glb.perstLow) (hostError what) s.dev }

/-! ## Interrupts (R273) -/

/-- MSIX_MOD_TIMER: the oldest entry without a message is mod_time old. -/
def modTimer (c : Nat) (d : Dev) : Dev :=
  match tget d.hif.chans c with
  | some ch => if ch.modTime ≠ 0 ∧ 0 < ch.unsig then sendMsix ch.vector (onChan c (fun x => { x with unsig := 0 }) d) else d
  | none => d

/-- MSIX_MOD_TIMER. -/
def execMsixModTimer (chan : Nat) (s : State) : Host.Outcome State Fault Refusal :=
  .next { s with dev := when (s.dev.live && !s.dev.glb.perstLow) (modTimer chan) s.dev }

/-- MSIX_UNMASK: a pending bit sends its message. -/
def unmask (v : Nat) (d : Dev) : Dev :=
  let pend := d.hif.pendBits.contains v
  let d1 := onHif (fun h => { h with
    unmasked := if h.unmasked.contains v then h.unmasked else h.unmasked ++ [v], pendBits := h.pendBits.filter (· != v) }) d
  if pend then sendMsix v d1 else d1

/-- MSIX_UNMASK. -/
def execMsixUnmask (vector : Nat) (s : State) : Host.Outcome State Fault Refusal :=
  .next { s with dev := when (s.dev.live && !s.dev.glb.perstLow && decide (vector < 2048)) (unmask vector) s.dev }

/-! ## NOP, NOTIFY, and the operations on keys (R267) -/

/-- NOP: every channel type. -/
def execNop (h : Hdr) (s : State) : Host.Outcome State Fault Refusal :=
  .next { s with dev := descriptor 0x00 [1, 2, 3, 4, 5, 6, 7, 8] h true (complete h 0x00 0 0 0) s.dev }

/-- NOTIFY: at most 16 wait. -/
def doNotify (h : Hdr) (minSev : Nat) (d : Dev) : Dev :=
  if 16 ≤ d.hif.notifies.length then complete h 0x04 8 0 0 d
  else onHif (fun f => { f with notifies := f.notifies ++ [(h, minSev)] }) d

/-- NOTIFY. -/
def execNotify (h : Hdr) (minSev : Nat) (s : State) : Host.Outcome State Fault Refusal :=
  .next { s with dev := descriptor 0x04 [7] h (decide (minSev < 16)) (doNotify h minSev) s.dev }

/-- PAGE_ASSIGN. -/
def execPageAssign (h : Hdr) (page domain : Nat) (s : State) : Host.Outcome State Fault Refusal :=
  .next { s with dev := pageOp 0x08 h page (decide (1 ≤ domain ∧ domain ≤ 63)) (doPageAssign h page domain) s.dev }

/-- KEY_LOAD. -/
def execKeyLoad (h : Hdr) (page : Nat) (key : List Byte) (salt : W32) (ctr : W64) (s : State) : Host.Outcome State Fault Refusal :=
  .next { s with dev := pageOp 0x09 h page true (doKeyLoad h page (padTo 32 key) salt ctr) s.dev }

/-- PAGE_REKEY. -/
def execPageRekey (h : Hdr) (page : Nat) (key : List Byte) (salt : W32) (ctr : W64) (s : State) : Host.Outcome State Fault Refusal :=
  .next { s with dev := pageOp 0x0A h page true (fun d => settleJobs (doPageRekey h page (padTo 32 key) salt ctr d)) s.dev }

/-- PAGE_ERASE. -/
def execPageErase (h : Hdr) (page : Nat) (s : State) : Host.Outcome State Fault Refusal :=
  .next { s with dev := pageOp 0x0B h page true (fun d => settleJobs (doPageErase h page d)) s.dev }

/-- PAGE_RELEASE. -/
def execPageRelease (h : Hdr) (page : Nat) (s : State) : Host.Outcome State Fault Refusal :=
  .next { s with dev := pageOp 0x0C h page true (doPageRelease h page) s.dev }

/-- HKEY_LOAD. -/
def execHkeyLoad (h : Hdr) (slot domain : Nat) (key : List Byte) (s : State) : Host.Outcome State Fault Refusal :=
  .next { s with
    dev := descriptor 0x0D [7] h (decide (slot < 64 ∧ 1 ≤ domain ∧ domain ≤ 63 ∧ 1 ≤ key.length ∧ key.length ≤ 128))
      (doHkeyLoad h slot domain key) s.dev }

/-- HKEY_ERASE. -/
def execHkeyErase (h : Hdr) (slot : Nat) (s : State) : Host.Outcome State Fault Refusal :=
  .next { s with dev := descriptor 0x0E [7] h (decide (slot < 64)) (doHkeyErase h slot) s.dev }

/-- MR_EXTEND. -/
def execMrExtend (h : Hdr) (reg : Nat) (value : W384) (s : State) : Host.Outcome State Fault Refusal :=
  .next { s with dev := descriptor 0x0F [7] h (decide (reg < 32)) (doMrExtend h reg value) s.dev }

end Sys2Proof.Machine
end

