-- ==== Sys2Proof/Machine/Poison.lean ====
section
/-! DEFINITION. Uncorrectable HBM bursts by the structure that holds them, and patrol scrub (R355 to R357). -/

namespace Sys2Proof.Machine
open Sys2Proof

/-- A structure as MCA_HBM_UE names it: its row of R356, counted from 1 (notes/assumptions/30.md). -/
def holderRow : HbmHolder → Nat
  | .rawSlot _ _ => 1
  | .standbySlot _ _ => 2
  | .storedTile _ _ => 3
  | .parityBuffer _ => 4
  | .replayBuffer _ _ => 5
  | .replReceive _ => 6
  | .hotIndex _ => 7
  | .dupRecord _ => 8
  | .ckptReceive _ => 9
  | .ckptStaging => 10
  | .journal => 11
  | .mirror => 11
  | .metaArea => 11
  | .other => 12

/-- The snapshot words of MCA_HBM_UE and MCA_HBM_UE_FATAL (R401). -/
def ueWords (addr : Nat) (h : HbmHolder) : List W32 := addrWords addr ++ [BitVec.ofNat 32 (holderRow h)]

/-- A replay buffer is poisoned: its sectors are read again, the second time strip by strip for a reconstruction (R197). -/
def rereadTile (c : Nat) (second : Bool) (d : Dev) : Dev :=
  match (tget d.hif.chans c).bind (·.rbuf), d.want c with
  | some _, some w =>
    match d.layout w.src.layout with
    | some own => emits (d.readsOf (d.layoutAt own w.entry.loc) w.src.volume w.entry second) d
    | none => d
  | _, _ => d

/-- A receive buffer is poisoned: the TILE awaited fails with UNRECOVERABLE (R346, R348). -/
def poisonReceive (c : Nat) (d : Dev) : Dev :=
  match tget d.repl c, d.job c with
  | some r, some (.accept _) =>
    let i := ((r.batch.find? (fun x => x.held.isNone && x.tile.isNone)).map (·.idx)).getD 0
    settleJobs (failTile c i 0x0C d)
  | _, _ => d

/-- The duplicate record of a queue pair is lost: ERROR with cause 1. -/
def poisonDup (i : Nat) (d : Dev) : Dev :=
  if d.inRts i then dropSessions (waits (leaveRts i .error 1 none d)) else d

/-- The pseudo-channel of an event: the manual does not give the address map, so it is a free value. -/
def Dev.anyPc (d : Dev) : Nat := Config.freeNat d.free % 64

/-- What an uncorrectable burst leads to, all but the bytes of HBM. P and Q are computed when a strip is written, so a parity
buffer holds nothing to lose. -/
def poisoned (addr : Nat) (h : HbmHolder) (d0 : Dev) : Dev :=
  let d := onMca (fun m => { m with hbmUe := m.hbmUe + 1 }) d0
  let pc := BitVec.ofNat 32 d.anyPc
  match h with
  | .rawSlot g gsn => consume g (poisonRing g gsn d)
  | .standbySlot g gsn => poisonRing g gsn d
  | .storedTile g seq => poisonTile g seq d
  | .parityBuffer _ => d
  | .replayBuffer c second => rereadTile c second d
  | .replReceive c => poisonReceive c d
  | .hotIndex b => onCat (fun c => c.setBucket b []) d
  | .dupRecord i => poisonDup i d
  | .ckptReceive b => onTango (fun t => { t with ckpts := t.ckpts.map (fun c => if c.seq % 2 = b % 2 then { c with crcOk := false } else c) }) d
  | .ckptStaging => onTango (fun t => { t with ckptBad := true }) d
  | .journal => fatalStop 0x0A04 pc (ueWords addr h) true (drawn d)
  | .mirror => fatalStop 0x0A04 pc (ueWords addr h) false (drawn d)
  | .metaArea => fatalStop 0x0A04 pc (ueWords addr h) false (drawn d)
  | .other => logEvent 0x0A03 pc (ueWords addr h) (drawn d)

/-- An uncorrectable burst; a hot-index bucket is rewritten as zeros. -/
def hbmPoison (addr : Nat) (h : HbmHolder) (s : State) : State :=
  let s1 := { s with dev := poisoned addr h s.dev }
  match h with
  | .hotIndex b => writeLines 2 (192 * b) 3 (zeros 192) s1
  | _ => s1

/-- HBM_UNCORRECTABLE. -/
def execHbmUncorrectable (addr : Nat) (holder : HbmHolder) (s : State) : Host.Outcome State Fault Refusal :=
  .next (liveState (hbmPoison addr holder) s)

/-- A burst that was corrected is counted for its pseudo-channel. -/
def countCe (d : Dev) : Dev :=
  let p := d.anyPc
  drawn (onMca (fun m => { m with hbmCe := m.hbmCe + 1, cePc := tput m.cePc p (tgetD m.cePc 0 p + 1) }) d)

/-- Patrol goes on to the next burst; a pass ends at the end of both stacks. -/
def patrolOn (d : Dev) : Dev :=
  onMca (fun m =>
    if m.patrolAt + 32 < hbmSize then { m with patrolAt := m.patrolAt + 32 }
    else { m with patrolAt := 0, passes := m.passes + 1 }) d

/-! ## The check of a burst: RS(36,32) over GF(2^8) with polynomial 0x11D (R355) -/

/-- The generator: the product of x - g^i for i from 0 to 3, below its leading 1, the highest power first (the roots and the order
of the bytes are DESIGN CHOICE, notes/assumptions/77.md). -/
def burstGen : List Byte := [0x0F, 0x36, 0x78, 0x40]

/-- One byte enters the division by the generator. -/
def burstStep (rem : List Byte) (x : Byte) : List Byte :=
  let top := rem.headD 0 ^^^ x
  xorBytes (rem.drop 1 ++ [0]) (gfScale top burstGen)

/-- The 4 check bytes of 32 bytes. -/
def burstCheck (data : List Byte) : List Byte := data.foldl burstStep (zeros 4)

/-- The 36 bytes that the stack holds for 32. -/
def burstCode (data : List Byte) : List Byte := data ++ burstCheck data

/-- A syndrome: the 36 bytes, the first the highest power, at g^i. -/
def burstSyndrome (code : List Byte) (i : Nat) : Byte := code.foldl (fun a x => gfMul a (gfG i) ^^^ x) 0

/-- What a read of a burst finds. -/
inductive BurstRead where
  | clean (data : List Byte)
  | corrected (data : List Byte)
  | uncorrectable
deriving DecidableEq, Repr

/-- Whether the syndromes are those of an error of the value of the first in the byte at power `j` alone. -/
def burstAt (s : List Byte) (j : Nat) : Bool :=
  s == (List.range 4).map (fun i => gfMul (s.headD 0) (gfG (i * j)))

/-- The read of 36 bytes (R355): an error confined to one byte is corrected, any other that shows is uncorrectable, and so is a
burst that the stack reports as uncorrected on die. -/
def burstRead (code : List Byte) (onDie : Bool) : BurstRead :=
  let s := (List.range 4).map (burstSyndrome code)
  if onDie then .uncorrectable
  else if s == zeros 4 then .clean (code.take 32)
  else
    match (List.range 36).find? (burstAt s) with
    | some j => .corrected ((code.set (35 - j) ((code.getD (35 - j) 0) ^^^ s.headD 0)).take 32)
    | none => .uncorrectable

/-- PATROL_READ: the next burst with the errors `err` over its 36 bytes; nothing with PATROL_HOURS 0. A corrected burst is written
back, where no write to it is queued (R355); an uncorrectable one goes to its holder (R357). -/
def patrolRead (err : List Byte) (onDie : Bool) (h : HbmHolder) (s : State) : State :=
  if bits s.dev.regs.hbmCfg.toNat 7 0 = 0 then s
  else
    let a := s.dev.mca.patrolAt
    let s1 := { s with dev := patrolOn s.dev }
    match burstRead (xorBytes (burstCode (memBytes s.hbm a 32)) err) onDie with
    | .uncorrectable => hbmPoison a h s1
    | .clean _ => s1
    | .corrected data =>
      let s2 := { s1 with dev := countCe s1.dev }
      if s.dev.mca.wbuf.any (fun e => e.line == lineOf a) then s2 else { s2 with hbm := memStore s2.hbm a data }

/-- PATROL_READ. -/
def execPatrolRead (err : List Byte) (onDie : Bool) (holder : HbmHolder) (s : State) : Host.Outcome State Fault Refusal :=
  .next (liveState (patrolRead err onDie holder) s)

end Sys2Proof.Machine
end

