-- ==== Sys2Proof/Machine/Stores.lean ====
section
/-! DEFINITION. Image slots, and the two configuration stores of SPI NOR (R422, R435, R436). -/

namespace Sys2Proof.Machine
open Sys2Proof

/-- Change boot and firmware state. -/
def onBoot (f : Boot → Boot) (d : Dev) : Dev := { d with boot := f d.boot }

/-- Change the entry of a slot. -/
def Boot.putSlot (s : Nat) (f : SlotEnt → SlotEnt) (b : Boot) : Boot :=
  if s = 0 then { b with slot0 := f b.slot0 } else { b with slot1 := f b.slot1 }

/-- The slot that is not `s`. -/
def otherSlot (s : Nat) : Nat := if s = 0 then 1 else 0

/-- The slot directory is written: the copy with the lower dir_seq, dir_seq raised by 1 (R422). -/
def writeDir (d : Dev) : Dev :=
  let d1 := onBoot (fun b => { b with dirSeq := next64 b.dirSeq }) d
  emit (.dirWrite d1.boot.dirSeq d1.boot.dirBytes) d1

/-- Change a slot's entry and write the directory. -/
def setSlot (s : Nat) (f : SlotEnt → SlotEnt) (d : Dev) : Dev := writeDir (onBoot (Boot.putSlot s f) d)

/-- The configuration format that an image in a slot writes (R420). -/
def Boot.formatOf (b : Boot) (s : Nat) : Nat := ((b.slotEnt s).image.map Image.cfgFormat).getD 0

/-- The format of the CONFIRMED firmware. -/
def Boot.confirmedFormat (b : Boot) : Option Nat := b.confirmed.map Image.cfgFormat

/-- The bytes of a record (R435). -/
def cfgBytes (r : CfgRec) : List Byte :=
  let body := Config.cfgBody r.format r.history r.starts
  let head : List Byte := [0x4F, 0x43, 0x43, 0x53] ++ leBytes 2 r.format ++ zeros 2 ++ leBytes 8 r.storeSeq ++ leBytes 4 body.length
  let tail : List Byte := wordBytes r.writer ++ zeros 4 ++ body
  head ++ wordBytes (crc32c (head ++ zeros 4 ++ tail)) ++ tail

/-- The newer of two stores. -/
def newer : Option CfgRec → Option CfgRec → Option CfgRec
  | none, y => y
  | x, none => x
  | some x, some y => if before64 x.storeSeq y.storeSeq then some y else some x

/-- The record that the ROM chooses for an image's format: the newest of that format, else the newest (R435). -/
def Boot.chooseCfg (b : Boot) (fmt : Nat) : Option CfgRec :=
  let own (x : Option CfgRec) : Option CfgRec := x.filter (fun r => r.format == fmt)
  match newer (own b.storeA) (own b.storeB) with
  | some r => some r
  | none => newer b.storeA b.storeB

/-- Whether a firmware may write into a store: while its slot is TRIAL, not into one that holds the CONFIRMED firmware's format (R436). -/
def Boot.mayWrite (b : Boot) (store : Option CfgRec) : Bool :=
  !b.trial || b.confirmedFormat.isNone || store.map (·.format) != b.confirmedFormat

/-- The highest store_seq of the two stores. -/
def Boot.topSeq (b : Boot) : Nat := ((newer b.storeA b.storeB).map (·.storeSeq)).getD 0

/-- The running firmware writes a record of its own format into the store that is due: of those that it may write, the older, so that
two stores of one format are written alternately (R436). -/
def writeStore (history : List (Nat × Nat)) (starts : List (Nat × Nat)) (b : Boot) : Boot :=
  let r : CfgRec :=
    { format := b.formatOf b.slot, storeSeq := next64 b.topSeq, writer := b.fwVersion, history := history, starts := starts }
  let seq (x : Option CfgRec) : Nat := (x.map (·.storeSeq)).getD 0
  if b.mayWrite b.storeA && (!b.mayWrite b.storeB || upTo64 (seq b.storeA) (seq b.storeB)) then { b with storeA := some r }
  else if b.mayWrite b.storeB then { b with storeB := some r }
  else b

/-- Minuet's history and the starting points are kept in the configuration store (R393, R395). -/
def keepConfig (d : Dev) : Dev :=
  let d1 := onBoot (writeStore d.mnt.history d.mnt.starts) d
  let put (second : Bool) (was now : Option CfgRec) : List Out := if was = now then [] else (now.map (fun r => .storeWrite second (cfgBytes r))).toList
  emits (put false d.boot.storeA d1.boot.storeA ++ put true d.boot.storeB d1.boot.storeB) d1

/-- A firmware takes up the record that was chosen for it: one of another format is converted into the other store, and none at all
means default settings (R436). -/
def takeConfig (d : Dev) : Dev :=
  let fmt := d.boot.formatOf d.boot.slot
  let c := d.boot.chooseCfg fmt
  let d1 := onBoot (fun b => { b with chosen := c }) d
  match c with
  | none => logEvent 0x0E05 noInstance [BitVec.ofNat 32 fmt] d1
  | some r =>
    let d2 := { d1 with mnt := { d1.mnt with history := r.history, starts := r.starts, replans := min 255 r.history.length } }
    if r.format = fmt then d2 else logEvent 0x0E04 noInstance [BitVec.ofNat 32 r.format, BitVec.ofNat 32 fmt] (keepConfig d2)

end Sys2Proof.Machine
end

