-- ==== Sys2Proof/Machine/Minuet.lean ====
section
/-! DEFINITION. Minuet, the ageing and margin service (R388 to R396, R410): VDD_CORE, the margin account, temperature, eye scans. -/

namespace Sys2Proof.Machine
open Sys2Proof

/-- Change Minuet's state. -/
def onMnt (f : Mnt → Mnt) (d : Dev) : Dev := { d with mnt := f d.mnt }

/-- AVS_EN (R411). -/
def Dev.avsOn (d : Dev) : Bool := d.regs.mntCfg.getLsbD 0

/-- Operating time in whole hours. -/
def Dev.opHours (d : Dev) : Nat := d.opSeconds / 3600

/-! ## VDD_CORE over AVSBus (R389, R391) -/

/-- Whether a readback differs from what was commanded by more than 10 mV. -/
def avsOff (want mv : Nat) : Bool := decide (want + 10 < mv ∨ mv + 10 < want)

/-- A Vout command and its readback (R391): the target is taken, or MNT_AVS_FAULT is logged and it stays. -/
def commandVdd (want : Nat) (avs : AvsIn) (d : Dev) : Dev :=
  let d1 := emit (.avs want) d
  let fault (x : Dev) : Dev :=
    logEvent 0x0D08 noInstance [BitVec.ofNat 32 want, BitVec.ofNat 32 x.mnt.measured, BitVec.ofNat 32 x.mnt.current]
      (onMnt (fun m => { m with avsBad := true }) x)
  match avs with
  | none => fault d1
  | some (mv, amp) =>
    let d2 := onMnt (fun m => { m with measured := mv % 1024, current := amp % 256 }) d1
    if avsOff want mv then fault d2 else onMnt (fun m => { m with target := want, avsBad := false }) d2

/-- The next voltage on the way to the goal: up in one step, down by 5 mV (R391). -/
def nextVdd (m : Mnt) : Nat := if m.goal < m.target then max m.goal (m.target - 5) else m.goal

/-- V_req of the last re-plan, from the headroom that it left (R395). -/
def Mnt.vReq (m : Mnt) : Int := 780 - m.headroom

/-- MNT_MARGIN_OUT, at most once per second (R395, R410). -/
def marginOut (d : Dev) : Dev :=
  let due := (d.mnt.outAt.map (fun t => decide (t + 1000000000 ≤ d.now))).getD true
  if due then logEvent 0x0D04 noInstance [BitVec.ofInt 32 d.mnt.vReq] (onMnt (fun m => { m with outAt := some d.now }) d) else d

/-- EARLY_WARNING: 5 mV more at once, unless the target is at 0.80 V already (R389, R391, R410). -/
def earlyWarning (replica : Fin 24) (avs : AvsIn) (d : Dev) : Dev :=
  if 800 ≤ d.mnt.target then marginOut d
  else
    let v := d.mnt.target + 5
    let d1 := commandVdd v avs (onMnt (fun m => { m with goal := v }) d)
    if d1.mnt.target = v then
      logEvent 0x0D02 (BitVec.ofNat 32 replica.val) [BitVec.ofNat 32 v] (onMnt (fun m => { m with ewSteps := (m.ewSteps + 1) % 256 }) d1)
    else d1

/-- EARLY_WARNING. -/
def execEarlyWarning (replica : Fin 24) (avs : AvsIn) (s : State) : Host.Outcome State Fault Refusal :=
  .next { s with dev := when (s.dev.working && s.dev.avsOn) (earlyWarning replica avs) s.dev }

/-! ## Re-planning (R390, R394, R395) -/

/-- Least multiple of 5 mV from V_req + 20 mV on, from 0.70 V to 0.80 V (R390, step 3). -/
def plannedMv (vReq : Int) : Nat := max 700 (min 800 (((vReq + 20 + 4) / 5 * 5).toNat))

/-- Where a re-plan lets the target go: at power-up anywhere; at run time up at once, down by at most 10 mV (R391). -/
def planGoal (m : Mnt) (want : Nat) : Nat := if m.planned then max want (m.target - 10) else want

/-- Whether a history holds three re-plans at distinct times. -/
def threeTimes (l : List (Nat × Nat)) : Bool := decide (3 ≤ (l.map (·.2)).eraseDups.length)

/-- The fourth root of a number, rounded down, from its bits below `k` on. -/
def fourthRoot (n : Nat) : Nat → Nat → Nat
  | 0, acc => acc
  | k + 1, acc => fourthRoot n k (if (acc + 2 ^ k) ^ 4 ≤ n then acc + 2 ^ k else acc)

/-- t^0.25 of an operating time of `s` seconds, with t in hours, times 2^64. -/
def quarterPower (s : Nat) : Int := (fourthRoot (s * 2 ^ 256 / 3600) 72 0 : Nat)

/-- The least-squares fit of V_req = V0 + a * t^0.25 over a history of V_req and operating seconds, solved for the t at which
headroom is 0, which is V_req = 780 mV (R395): 0xFFFF_FFFF beyond that range or when a is not above 0. The sums are exact over t^0.25 to
2^-64; whether the hours are rounded down or to the nearest is a free choice of the part (notes/assumptions/78.md). -/
def projectedHours (hist : List (Nat × Nat)) : W32 :=
  let xs := hist.map (fun e => quarterPower e.2)
  let vs : List Int := hist.map (fun e => (e.1 : Int))
  let n : Int := (hist.length : Int)
  let num := n * (List.zipWith (· * ·) xs vs).sum - xs.sum * vs.sum
  let den := n * (xs.map (fun x => x * x)).sum - xs.sum * xs.sum
  let p := ((780 * n - vs.sum) * den + num * xs.sum).toNat
  let q := (n * num).toNat * 2 ^ 64
  if num ≤ 0 ∨ den ≤ 0 then 0xFFFFFFFF
  else
    let t := if Config.projectedNearest then (2 * p ^ 4 + q ^ 4) / (2 * q ^ 4) else p ^ 4 / q ^ 4
    BitVec.ofNat 32 (min t 0xFFFFFFFF)

/-- The margin account after a re-plan, published and logged (R395). -/
def account (vReq : Int) (d : Dev) : Dev :=
  let hist := d.mnt.history ++ [(vReq.toNat, d.opSeconds)]
  let proj : W32 := if threeTimes hist then projectedHours hist else 0
  let head : Int := 800 - vReq - 20
  let d1 := onMnt (fun m => { m with
    history := hist, projected := proj, headroom := head, ewSteps := 0, replans := min 255 (m.replans + 1), planned := true }) d
  let d2 := logEvent 0x0D01 noInstance [BitVec.ofNat 32 d1.mnt.target, BitVec.ofInt 32 vReq, BitVec.ofInt 32 head] (keepConfig d1)
  let low := decide (head < 10) || (threeTimes hist && decide (proj.toNat < 87600))
  let d3 := if low then logEvent 0x0D03 noInstance [BitVec.ofInt 32 head, proj] d2 else d2
  if 800 < vReq + 20 then marginOut d3 else d3

/-- REPLAN: at power-up, and at each 1,000 hours of operating time. -/
def replan (r : SensorIn) (avs : AvsIn) (d : Dev) : Dev :=
  let vReq : Int := (if d.avsOn then (d.mnt.target : Int) else 800) - Config.marginAt105 r.replicas r.rings
  let d1 := onMnt (fun m => { m with replicas := r.replicas, rings := r.rings, goal := planGoal m (plannedMv vReq) }) d
  let first := if d1.mnt.planned then nextVdd d1.mnt else d1.mnt.goal
  account vReq (if d1.avsOn && first != d1.mnt.target then commandVdd first avs d1 else d1)

/-- A takeover or a handover runs. -/
def Dev.pairMoves (d : Dev) : Bool := d.tango.hand.isSome || d.tango.owing

/-- A re-plan of the operating time waits while a takeover or a handover runs, for at most 10 s; the next REPLAN after that runs it
(R410). That of power-up does not wait. -/
def replanDue (r : SensorIn) (avs : AvsIn) (d : Dev) : Dev :=
  let held := d.mnt.planned && d.pairMoves && (d.mnt.heldAt.map (fun t => decide (d.now < t + 10000000000))).getD true
  if held then onMnt (fun m => { m with heldAt := some (m.heldAt.getD d.now) }) d
  else replan r avs (onMnt (fun m => { m with heldAt := none }) d)

/-- REPLAN. -/
def execReplan (r : SensorIn) (avs : AvsIn) (s : State) : Host.Outcome State Fault Refusal :=
  .next { s with dev := when s.dev.running (replanDue r avs) s.dev }

/-- VDD_STEP_DOWN: 1 ms after the step before. -/
def stepVdd (avs : AvsIn) (d : Dev) : Dev :=
  if d.avsOn && !d.mnt.avsBad && decide (d.mnt.goal < d.mnt.target) then commandVdd (nextVdd d.mnt) avs d else d

/-- VDD_STEP_DOWN. -/
def execVddStepDown (avs : AvsIn) (s : State) : Host.Outcome State Fault Refusal :=
  .next { s with dev := when s.dev.running (stepVdd avs) s.dev }

/-- AVS_RETRY: an hour after a fault. -/
def retryVdd (avs : AvsIn) (d : Dev) : Dev := if d.avsOn && d.mnt.avsBad then commandVdd (nextVdd d.mnt) avs d else d

/-- AVS_RETRY. -/
def execAvsRetry (avs : AvsIn) (s : State) : Host.Outcome State Fault Refusal :=
  .next { s with dev := when s.dev.running (retryVdd avs) s.dev }

/-! ## Sensors (R388, R394) -/

/-- Whether corrections of a pseudo-channel make a trend: more than 1,000 in the hour, or more than twice the interval before and
above 100. -/
def trends (hour this last : Nat) : Bool := decide (1000 < hour ∨ (2 * last < this ∧ 100 < this))

/-- Corrections counted on a pseudo-channel (R384). -/
def Dev.ceCount (d : Dev) (n : Nat) : Nat := (tgetD d.mca.cePc 0 n).toNat

/-- One pseudo-channel is checked: logged as its trend begins. -/
def checkTrend (n : Nat) (d : Dev) : Dev :=
  let m := d.mnt
  let now := d.ceCount n
  let test (c : Nat) : Bool := trends (c - tgetD m.ceHour 0 n) (c - tgetD m.ceBase 0 n) (tgetD m.cePrev 0 n)
  let d1 := onMnt (fun x => { x with ceNow := tput x.ceNow n now }) d
  if test now && !test (tgetD m.ceNow 0 n) then
    logEvent 0x0D09 (BitVec.ofNat 32 n) [BitVec.ofNat 32 (now - tgetD m.ceBase 0 n), BitVec.ofNat 32 (tgetD m.cePrev 0 n)] d1
  else d1

/-- A new hour, and with it a new interval every 1,000 hours, begins. -/
def rollHours (d : Dev) : Dev :=
  let h := d.opHours
  let counts : Tab Nat := d.mca.cePc.map (fun e => (e.1, e.2.toNat))
  onMnt (fun m =>
    let m1 := if h / 1000 ≠ m.lastHour / 1000 then
      { m with cePrev := counts.map (fun e => (e.1, e.2 - tgetD m.ceBase 0 e.1)), ceBase := counts } else m
    if h ≠ m.lastHour then { m1 with ceHour := counts, lastHour := h } else m1) d

/-- SENSOR_READ: every 1 s. -/
def sensorRead (r : SensorIn) (d : Dev) : Dev :=
  each checkTrend (List.range 64) (rollHours (onMnt (fun m => { m with replicas := r.replicas, rings := r.rings }) d))

/-- SENSOR_READ. -/
def execSensorRead (r : SensorIn) (s : State) : Host.Outcome State Fault Refusal :=
  .next { s with dev := when s.dev.running (sensorRead r) s.dev }

/-! ## Temperature (R396) -/

/-- The hottest of the diodes and its number, the lowest breaking a tie. -/
def hottest : Nat → List Int → Option (Int × Nat)
  | _, [] => none
  | n, t :: rest =>
    match hottest (n + 1) rest with
    | some (m, i) => if t < m then some (m, i) else some (t, n)
    | none => some (t, n)

/-- One threshold: its event on the way up, cleared 5 °C below. -/
def threshold (code : Nat) (limit t : Int) (diode : Nat) (on : Bool) (set : Bool → Dev → Dev) (d : Dev) : Dev :=
  if !on && decide (limit ≤ t) then set true (logEvent code (BitVec.ofNat 32 diode) [BitVec.ofInt 32 t] d)
  else if on && decide (t ≤ limit - 5) then set false d
  else d

/-- THERMAL_SAMPLE: every 1 ms. -/
def thermalSample (diodes : List Int) (d : Dev) : Dev :=
  match hottest 0 diodes with
  | none => d
  | some (t, i) =>
    let d1 := onMnt (fun m => { m with maxC := t, maxDiode := i, peakC := some (max t (m.peakC.getD t)) }) d
    let d2 := threshold 0x0D05 (bits d.regs.mntCfg.toNat 15 8) t i d.mnt.warnOn (fun b => onMnt (fun m => { m with warnOn := b })) d1
    threshold 0x0D06 105 t i d.mnt.critOn (fun b => onMnt (fun m => { m with critOn := b })) d2

/-- THERMAL_SAMPLE. -/
def execThermalSample (diodes : List Int) (s : State) : Host.Outcome State Fault Refusal :=
  .next { s with dev := when s.dev.live (thermalSample diodes) s.dev }

/-- THERMAL_TRIP: 115 °C for 1 ms (R396, R406); during a fatal stop it is one more FATAL record (R410). -/
def thermalTrip (diode : Nat) (celsius : Int) (d : Dev) : Dev :=
  fatalStop 0x0D07 (BitVec.ofNat 32 diode) [BitVec.ofInt 32 celsius] false d

/-- THERMAL_TRIP. -/
def execThermalTrip (diode : Nat) (celsius : Int) (s : State) : Host.Outcome State Fault Refusal :=
  .next { s with dev := when (!s.dev.glb.porLow && decide (115 ≤ celsius)) (thermalTrip diode celsius) s.dev }

/-! ## Margins and eyes (R388, R393, R395) -/

/-- Whether a command is outstanding at a drive port: a strip of an open stripe, a member's late write, a write-back, a tile's read. -/
def Dev.portBusy (d : Dev) (p : Nat) : Bool :=
  d.vault.opened.any (fun e => (List.range 18).any (fun k => !e.done.getLsbD k && d.memberSlot e k == some p)) ||
    d.vault.lagW.any (fun w => w.2.2 == p) || d.vault.writeBacks.any (fun w => w.slot == p) ||
    d.hif.chans.any (fun c => c.2.rbuf.isSome && (d.tileReads c.1).any (fun o => o.drivePort == some p))

/-- PCIE_MARGIN: ports 0 to 47 of the drives with no command outstanding, 48 the host's; Minuet reports it alone. -/
def execPcieMargin (port margin : Nat) (s : State) : Host.Outcome State Fault Refusal :=
  .next { s with
    dev := when (s.dev.running && decide (port < 49) && !s.dev.portBusy port)
      (onMnt (fun m => { m with margins := tput m.margins port margin })) s.dev }

/-- A lane carries no data: a group not granted, stopped or training; an Ethernet port with its link down. -/
def Dev.laneIdle (d : Dev) (ethernet : Bool) (lane : Nat) : Bool :=
  if ethernet then decide (lane < 16) && !d.regs.ethUp.getLsbD (lane / 8)
  else if h : lane / 16 < 4 then
    let g := d.sl.groups.at ⟨lane / 16, h⟩
    g.link != .granted || (g.stop.map (·.done)).getD false
  else false

/-- Key of a lane's scan: SiethLink lanes 0 to 63, then Ethernet lanes. -/
def eyeKey (ethernet : Bool) (lane : Nat) : Nat := if ethernet then 64 + lane else lane

/-- The lowest eye height of any lane at its last scan, and the lane. -/
def lowestEye : Tab Nat → Option (Nat × Nat)
  | [] => none
  | (k, h) :: t =>
    match lowestEye t with
    | some (m, i) => if m < h then some (m, i) else some (h, k)
    | none => some (h, k)

/-- EYE_SCAN: the height is kept, and the starting points planned. -/
def eyeScan (ethernet : Bool) (lane height width : Nat) (d : Dev) : Dev :=
  let k := eyeKey ethernet lane
  let eyes := tput d.mnt.eyes k (min height 4095)
  let low := (lowestEye eyes).getD (0, 0)
  onMnt (fun m => { m with
    eyes := eyes, starts := tput m.starts k (Config.planReceiver height width), eyeMin := low.1
    eyeEth := decide (64 ≤ low.2), eyeLane := low.2 % 64 }) d

/-- EYE_SCAN. -/
def execEyeScan (ethernet : Bool) (lane height width : Nat) (s : State) : Host.Outcome State Fault Refusal :=
  .next { s with dev := when (s.dev.running && s.dev.laneIdle ethernet lane) (eyeScan ethernet lane height width) s.dev }

end Sys2Proof.Machine
end

