-- ==== Sys2Proof/Machine/Flags.lean ====
section
/-! DEFINITION. The status words: what a BAR0 read of each read-only register returns (R79, R83, R128, R167 to R169, R212 to R215, R276,
R277, R314 to R316, R351, R352, R379 to R387, R412 to R417, R445 to R447, R453 to R457, R462 to R469), and an event record's bytes
(R398). -/

namespace Sys2Proof.Machine
open Sys2Proof

/-- A signed number as a field of `w` bits. -/
def sfield (w : Nat) (v : Int) : Nat := (BitVec.ofInt w v).toNat

/-- Two 32-bit words as one register: bits [31:0], then [63:32]. -/
def pair (lo hi : W32) : W64 := lo.setWidth 64 ||| (hi.setWidth 64 <<< 32)

/-- A register of up to 64 bits from a number. -/
def reg (n : Nat) : W64 := BitVec.ofNat 64 n

/-! ## GLB (R453 to R457) -/

/-- GLB_ID (R454). -/
def Dev.glbId (d : Dev) : W64 := reg (0x00A01440 + bit d.glb.headB * 2 ^ 24)

/-- GLB_STATUS (R455). -/
def Dev.glbStatus (d : Dev) : W64 :=
  reg (bit d.glb.locked + 2 * bit d.glb.measured + 4 * bit d.glb.fatal + 8 * bit d.glb.pwrfail + 16 * bit d.glb.dpStarted)

/-- GLB_PINS (R457). -/
def Dev.glbPins (d : Dev) : W64 :=
  reg (bit d.glb.headPin + 2 * bit d.glb.trigIn + 4 * bit d.glb.pwrHigh + 8 * bit d.glb.faultN + 16 * bit d.glb.trigOut)

/-! ## HIF (R276) -/

/-- HIF_STATUS. -/
def Dev.hifStatus (d : Dev) : W64 :=
  reg (d.hif.rate % 8 + d.hif.width % 32 * 8 + bit d.hif.running * 256 + bit d.hif.fault * 512 + bit d.glb.hifLocked * 1024 +
    d.hif.chans.length % 4096 * 2 ^ 32)

/-! ## SL (R462 to R467) -/

/-- STATE of a group (R465). -/
def LinkSt.code : LinkSt → Nat
  | .disabled => 0
  | .training => 1
  | .awaitCap => 2
  | .granted => 3
  | .down => 4

/-- SL_STATUS[g] (R465). -/
def Dev.slStatus (d : Dev) (g : Fin 4) : W64 :=
  let x := d.sl.groups.at g
  let stopped := (x.stop.map (·.done)).getD false
  let exh := (x.stop.map (·.exhaustion)).getD false
  reg (x.link.code + bit x.nrz * 8 + bit stopped * 16 + bit exh * 32 + bit d.sl.player * 64 + min x.attempts 255 * 256 +
    ((x.grant.map (·.streamId.toNat)).getD 0) * 2 ^ 16 + ((x.grant.map (fun r => r.rate % 2 ^ 20)).getD 0) * 2 ^ 32 +
    ((x.grant.map (·.port.toNat)).getD 0) * 2 ^ 56)

/-- SL_PARTNER_ID[g] (R462). -/
def Dev.partnerId (d : Dev) (g : Fin 4) : W64 := ((d.sl.groups.at g).grant.map (·.deviceId)).getD 0

/-- SL_LANE_EQ[n] (R466). -/
def Lane.eq (x : Lane) : W64 :=
  reg (sfield 16 x.pre + sfield 16 x.main * 2 ^ 16 + sfield 16 x.post * 2 ^ 32 + x.ctle % 32 * 2 ^ 48 + bit x.invert * 2 ^ 53 +
    bit x.locked * 2 ^ 54)

/-- SL_LG_HEAL_PEND[g] (R79). -/
def Ledger.healPend (l : Ledger) : Nat := l.heals.length

/-- SL_LG_LIMIT[g]: L and A (R467). -/
def Dev.lgLimit (d : Dev) (g : Fin 4) : W64 := pair (d.sl.groups.at g).limit (BitVec.ofNat 32 (d.lg.at g).allow)

/-- SL_LG_EXPECT[g]: E and C, zero for a standby group (R467). -/
def Dev.lgExpect (d : Dev) (g : Fin 4) : W64 := pair (d.lg.at g).expect (if d.owns g then (d.lg.at g).commit else 0)

/-- SL_LG_RING[g]: M and P, zero for a standby group (R467). -/
def Dev.lgRing (d : Dev) (g : Fin 4) : W64 := pair (d.lg.at g).oldest (if d.owns g then (d.lg.at g).ringPos else 0)

/-! ## VLT and DP (R212, R213) -/

/-- STATE of a drive (R213). -/
def DriveSt.code : DriveSt → Nat
  | .absent => 0
  | .healthy => 1
  | .suspect => 2
  | .failed => 3
  | .replacing => 4

/-- VLT_DRIVE_STATE[d] (R213): LAGS counts the lag events of the last second. -/
def Dev.driveState (d : Dev) (slot : Nat) : W64 :=
  let x := d.drive slot
  let lags := (x.lagTimes.filter (fun t => decide (d.now ≤ t + 1000000000))).length
  reg (x.state.code + min lags 255 * 256) ||| (x.piErrors.setWidth 64 <<< 32)

/-- Whether some written stripe has at least `n` members lost and not remapped (R212). -/
def Dev.someLoss (d : Dev) (n : Nat) : Bool := d.vault.inUse.any (fun e => decide (n ≤ d.lossCount e))

/-- Whether a native layout has 18 healthy drives and a stripe to allocate, in a period that this head has or can claim (R177, R212). -/
def Dev.writeOk (d : Dev) : Bool :=
  d.vault.layouts.any (fun l => l.kind == 0 && decide (18 ≤ d.healthyIn l) && (d.forerunnerOf l).isNone &&
    ((d.lowestStripe l).isSome || (d.nextPeriod l).isSome))

/-- Drives in a state. -/
def Dev.drivesIn (d : Dev) (p : DriveSt → Bool) : Nat := ((List.range 48).filter (fun s => p (d.drive s).state)).length

/-- VLT_STATUS (R212). -/
def Dev.vltStatus (d : Dev) : W64 :=
  let healthy := ((List.range 48).filter d.serves).length
  reg (bit d.writeOk + 2 * bit (d.someLoss 1) + 4 * bit (d.someLoss 2) +
    8 * bit d.vault.lostFlag + 16 * bit d.vault.spareOut + 32 * bit d.vault.maintHeld + healthy * 256 +
    d.drivesIn (· == .failed) * 2 ^ 16)

/-! ## ETH (R314, R315, R351, R469) -/

/-- ETH_IH_STATUS (R314). -/
def Dev.ihStatus (d : Dev) : W64 :=
  let t := d.tango
  reg (t.state % 8 + bit t.session * 8 + bit t.silent * 16 + bit t.clash * 32 + bit t.stepped * 64 +
    (if t.session then t.cl % 256 else 0) * 256 + t.partnerLevel % 256 * 2 ^ 16 + (if t.started then 15 - t.paired.toNat else 0) * 2 ^ 24)

/-- ETH_IH_OWNER (R315). -/
def Dev.ihOwner (d : Dev) : W64 :=
  let o := d.tango.owners
  reg (o.a0 % 4 + o.a1 % 4 * 4 + o.a2 % 4 * 16 + o.a3 % 4 * 64 + d.tango.epoch % 2 ^ 40 * 2 ^ 24)

/-- ETH_ASK[d] (R351). -/
def Dev.ask (d : Dev) (dom : Nat) : W64 :=
  match tget d.rdma.keys dom with
  | some k => pair k 1
  | none => 0

/-- ETH_PORT_STATUS[p] (R469). -/
def Dev.portStatus (d : Dev) (p : Nat) : W64 :=
  pair (BitVec.ofNat 32 (bit (d.regs.ethUp.getLsbD p) + 2 * bit (d.regs.ethFec.getLsbD p))) (tgetD d.regs.ethDowns 0 p)

/-! ## CIPH and DGST (R167 to R169) -/

/-- STATE of a page (R167). -/
def PageSt.code : PageSt → Nat
  | .free => 0
  | .assigned => 1
  | .ready => 2
  | .exhausted => 3

/-- CIPH_PAGE_INFO[p] (R167). -/
def Dev.pageInfo (d : Dev) (p : Nat) : W64 :=
  let g := d.page p
  let keyed := g.state == .ready || g.state == .exhausted
  pair (BitVec.ofNat 32 (g.state.code + bit (!classS p) * 8 + g.domain % 64 * 256 + bit g.ctxBusy * 2 ^ 16)) (if keyed then g.kcv else 0)

/-- CIPH_PAGE_CTR[p] (R167). -/
def Dev.pageCtr (d : Dev) (p : Nat) : W64 := if classS p then (d.page p).ctr else 0

/-- CIPH_DRBG_STAT (R168). -/
def Dev.drbgStat (d : Dev) : W64 := pair (d.ciph.fail.setWidth 32) d.ciph.reseeds

/-- DGST_CTX_FREE (R169). Contexts 0 to 7 are reserved to the pipe paths and bound only while a tile's fingerprint runs, inside one
command (R155, R468; DEDUCED, notes/assumptions/79.md): no read finds one bound. -/
def Dev.ctxFree (d : Dev) : W64 :=
  reg (255 + ((List.range 8).map (fun n => bit (tget d.dgst.ctx (n + 8)).isNone * 2 ^ (n + 8))).sum)

/-- DGST_MR_INFO[n] (R169). -/
def Dev.mrInfo (d : Dev) (n : Nat) : W64 :=
  match tget d.dgst.owner n with
  | some (v, t, p) => if 8 ≤ n then reg (t % 2 ^ 32 + v % 2 ^ 16 * 2 ^ 32 + 2 ^ 48 + p % 2 * 2 ^ 49) else 0
  | none => 0

/-! ## BPM, MCA and DMA (R379, R382, R385 to R387) -/

/-- BPM_POOL_INFO[n] (R385). -/
def Dev.poolInfo (d : Dev) (n : Nat) : W64 :=
  match tget d.bpm.pools n with
  | some p => reg (p.size % 16 + bit p.enabled * 16 + bit p.audited * 32 + p.count % 2 ^ 21 * 256 + p.ceiling % 2 ^ 21 * 2 ^ 32)
  | none => 0

/-- BPM_POP[n] (R386). -/
def Dev.poolPop (d : Dev) (n : Nat) : W64 :=
  match tget d.bpm.pools n with
  | some p => pair (BitVec.ofNat 32 (d.bpm.population n)) p.opSeq
  | none => 0

/-- MCA_CTL (R379). -/
def Dev.mcaCtl (d : Dev) : W64 := reg (bit d.mca.enabled + 2 * bit d.mca.draining)

/-- The rings' sizes in bytes, which fix where the head has placed its regions (R25). -/
def Dev.ringSizes (d : Dev) : List Nat := groupList.map d.ringBytes

/-- KIND of an HBM region (R382): the work region, the ring areas of groups 0 to 3, the segments of the stripe area. A group that
no head owns has no ring, and nothing is placed while POR_N is low (notes/assumptions/24.md). -/
def Dev.hbmKind (d : Dev) (n : Nat) : Nat :=
  if d.glb.porLow then 0
  else if n = 0 then 1
  else if h : n - 1 < 4 then
    (if d.owns ⟨n - 1, h⟩ then 2
     else if d.tango.owners.at ⟨n - 1, h⟩ = 1 - bit d.glb.headB ∧ d.keepsRing ⟨n - 1, h⟩ then 3 else 0)
  else if n = 5 ∨ (n < 8 ∧ n - 5 < Config.hbmSegments d.ringSizes) then 4 else 0

/-- Length of an HBM region (R24, R382): the stripe area, in up to three segments, holds what the work region and the rings leave of
72 GB. -/
def Dev.hbmLen (d : Dev) (n : Nat) : Nat :=
  let seg (k : Nat) : Nat := if k - 5 < Config.hbmSegments d.ringSizes then Config.hbmSegLen d.ringSizes k else 0
  if d.hbmKind n = 0 then 0
  else if n = 0 then 0xEE6B2800
  else if h : n - 1 < 4 then d.ringBytes ⟨n - 1, h⟩
  else if n = 5 then 68000000000 - d.ringSizes.sum - seg 6 - seg 7
  else seg n

/-- DMA_CH_STATUS[n] (R387). -/
def Dev.dmaStatus (d : Dev) (n : Nat) : W64 :=
  match tget d.dma.chs n with
  | some c => reg (1 + bit c.active * 2 + c.priority % 8 * 4 + c.chan % 4096 * 2 ^ 16 + c.waited % 2 ^ 32 * 2 ^ 32)
  | none => 0

/-! ## EVR (R398, R415, R416) -/

/-- An event record's bytes up to its CRC, and after it (R398). -/
def evHead (r : EvRec) : List Byte :=
  leBytes 2 r.code ++ leBytes 1 (r.sev + r.snap.length * 16) ++ leBytes 1 (r.code / 256) ++ wordBytes r.seq ++ wordBytes r.opTime ++
    leBytes 3 r.power.toNat ++ leBytes 1 (bit r.persist + 2 * bit r.exempt) ++ wordBytes r.opNs ++ wordBytes r.suppressed ++
    wordBytes r.instance_

/-- The 64 bytes of an event record (R398). -/
def evBytes (r : EvRec) : List Byte :=
  let snap := padTo 32 (r.snap.map wordBytes).flatten
  evHead r ++ wordBytes (crc32c (evHead r ++ zeros 4 ++ snap)) ++ snap

/-- EVR_STATUS (R415). -/
def Dev.evrStatus (d : Dev) : W64 :=
  pair (d.evr.nextSeq - BitVec.ofNat 32 d.evr.ring.length) (d.evr.nextSeq - 1)

/-- EVR_CURSOR (R416). -/
def Dev.evrCursor (d : Dev) : W64 :=
  pair d.evr.index (BitVec.ofNat 32 (bit d.evr.source + 2 * bit d.evr.autoInc + d.evr.status % 4 * 4))

/-- EVR_RATE[n] (R417). -/
def Dev.evrRate (d : Dev) (n : Nat) : W64 :=
  match tget d.evr.buckets n with
  | some b => pair (BitVec.ofNat 32 (b.code % 65536 + b.rate % 256 * 2 ^ 16 + b.burst % 256 * 2 ^ 24)) b.suppressed
  | none => 0

/-! ## MNT (R412 to R414) -/

/-- MNT_VDD (R412). -/
def Dev.mntVdd (d : Dev) : W64 := reg (d.mnt.target % 1024 + d.mnt.measured % 1024 * 2 ^ 16 + d.mnt.current % 256 * 2 ^ 32)

/-- MNT_MARGIN (R413). -/
def Dev.mntMargin (d : Dev) : W64 :=
  pair (BitVec.ofNat 32 (sfield 16 d.mnt.headroom + d.mnt.ewSteps % 256 * 2 ^ 16 + min 255 d.mnt.replans * 2 ^ 24)) d.mnt.projected

/-- MNT_TEMP (R414). -/
def Dev.mntTemp (d : Dev) : W64 :=
  reg (sfield 8 d.mnt.maxC + d.mnt.maxDiode % 32 * 256 + sfield 8 (d.mnt.peakC.getD 0) * 2 ^ 32)

/-- MNT_EYE (R414). -/
def Dev.mntEye (d : Dev) : W64 := reg (d.mnt.eyeMin % 4096 + bit d.mnt.eyeEth * 2 ^ 16 + d.mnt.eyeLane % 64 * 2 ^ 24)

/-- MNT_OP_TIME (R414). -/
def Dev.mntOpTime (d : Dev) : W64 := pair (BitVec.ofNat 32 d.opSeconds) (d.evr.power.setWidth 32)

/-! ## BOOT and SEC (R445 to R447) -/

/-- BOOT_STATUS (R445). -/
def Dev.bootStatus (d : Dev) : W64 :=
  pair (BitVec.ofNat 32 (d.boot.stage % 16 + d.boot.slot % 2 * 16 + bit d.boot.trial * 32 + bit d.boot.fallback * 64 +
    d.boot.activations % 16 * 256)) d.boot.fwVersion

/-- BOOT_SLOT_INFO[s] (R446). -/
def Dev.slotInfo (d : Dev) (s : Nat) : W64 :=
  let e := d.boot.slotEnt s
  pair (BitVec.ofNat 32 (e.state % 8 + e.trialBoots % 4 * 16 + e.svn % 64 * 256)) e.fwVersion

/-- Core debug through JTAG is possible (R447, R448): OTP allows it in lifecycle 2, and JTAG_CLOSE has not been written since POR_N. -/
def Dev.jtagPossible (d : Dev) : Bool := d.boot.jtagOpen && d.boot.lifecycle == 2 && !d.boot.jtagClosed

/-- SEC_STATE (R447). -/
def Dev.secState (d : Dev) : W64 :=
  reg (d.boot.otpSvn % 64 + bit d.jtagPossible * 64 + bit d.boot.idOk * 128 + d.boot.revoked.toNat * 256 + d.boot.lifecycle % 8 * 4096)

/-- The identity area's bytes (R440); a blank NOR reads as 0xFF. -/
def Dev.identityArea (d : Dev) : List Byte :=
  match d.boot.identity with
  | some c => ([0x4F, 0x43, 0x49, 0x44] ++ leBytes 2 1 ++ leBytes 2 3 ++ leBytes 4 c.length ++ wordBytes (crc32c c) ++ c ++
      List.replicate (16384 - 16 - c.length) 0xFF).take 16384
  | none => List.replicate 16384 0xFF

end Sys2Proof.Machine
end

