-- ==== Sys2Proof/Machine/Events.lean ====
section
/-! DEFINITION. Reading and keeping event records (R397, R403 to R405, R410, R416), the operating time, and the I2C target (R442). -/

namespace Sys2Proof.Machine
open Sys2Proof

/-- Change the event recorder. -/
def onEvr (f : Evr → Evr) (d : Dev) : Dev := { d with evr := f d.evr }

/-! ## The log region (R404, R407, R410) -/

/-- Positions of the log region: 256 sectors of 64 records. -/
def norSize : Nat := 16384

/-- The position that the next record takes. -/
def Evr.nextNor (e : Evr) : Nat := if e.nor.isEmpty then 0 else (e.norHead + 1) % norSize

/-- The oldest record of the persistence queue is written to the next position; a fresh sector is erased first. -/
def norPersist (d : Dev) : Dev :=
  match d.evr.queue with
  | [] => d
  | r :: t =>
    let p := d.evr.nextNor
    let fresh := decide (p % 64 = 0)
    let kept := if fresh then d.evr.nor.filter (fun e => e.1 / 64 != p / 64) else d.evr.nor
    let d1 := if fresh then emit (.norErase (p / 64)) d else d
    emit (.norWrite p r) (onEvr (fun e => { e with queue := t, nor := tput kept p r, norHead := p }) d1)

/-- NOR writes may start: a boot ROM or firmware runs, and neither a hold nor PWRFAIL_N during a fatal stop prevents it (R410). -/
def Dev.norOpen (d : Dev) : Bool :=
  !d.glb.porLow && !d.glb.bootHold && (if d.glb.fatal then !d.glb.pwrfail else !d.glb.held)

/-- NOR_PERSIST. -/
def execNorPersist (s : State) : Host.Outcome State Fault Refusal :=
  .next { s with dev := when s.dev.norOpen norPersist s.dev }

/-- EVR_TIME_MARK: every 10 minutes of operating time (R397). -/
def execEvrTimeMark (s : State) : Host.Outcome State Fault Refusal :=
  .next { s with dev := when s.dev.live (logEvent 0x0C01 noInstance []) s.dev }

/-- Whether record `a` is newer than `b`: by power-cycle count, then sequence, which wrap (R11, R398, R404). -/
def laterThan (a b : EvRec) : Bool :=
  precedes b.power a.power || (a.power == b.power && precedes b.seq a.seq)

/-- The position and record that are newest in the log region. -/
def newestNor : Tab EvRec → Option (Nat × EvRec)
  | [] => none
  | (p, r) :: t =>
    match newestNor t with
    | some (q, x) => if laterThan r x then some (p, r) else some (q, x)
    | none => some (p, r)

/-- The scan at start (R397): the operating time goes on from the newest record, and the power-cycle count is one more. -/
def scanLog (d : Dev) : Dev :=
  match newestNor d.evr.nor with
  | some (p, r) => onEvr (fun e => { e with norHead := p, opBase := r.opTime.toNat, power := r.power + 1 }) d
  | none => onEvr (fun e => { e with norHead := 0, opBase := 0, power := 1 }) d

/-! ## Cursor and window (R405, R410, R416) -/

/-- The sequence of the oldest record in the ring. -/
def Evr.oldestSeq (e : Evr) : W32 := e.nextSeq - BitVec.ofNat 32 e.ring.length

/-- What the cursor names now: STATUS, and the record where it is VALID. -/
def Evr.select (e : Evr) : Nat × Option EvRec :=
  if e.source then
    match tget e.nor e.index.toNat with
    | some r => (0, some r)
    | none => (3, none)
  else
    match e.ring.find? (fun r => r.seq == e.index) with
    | some r => (0, some r)
    | none => if precedes e.index e.oldestSeq then (1, none) else (2, none)

/-- A selection sets STATUS. -/
def Evr.selected (e : Evr) : Evr := { e with status := e.select.1 }

/-- Whether a BAR0 write of `size` bytes at `addr` covers bits `[hi:lo]` of the register whose slot is at `slot` (R449, R450). -/
def covers (slot addr size hi lo : Nat) : Bool :=
  decide ((size = 4 ∨ size = 8) ∧ addr % size = 0 ∧ addr / 8 * 8 = slot ∧ addr % 8 * 8 ≤ lo ∧ hi < addr % 8 * 8 + size * 8)

/-- Bits `[hi:lo]` of a register as a write at `addr` carries them. -/
def carried (addr : Nat) (value : W64) (hi lo : Nat) : Nat := bits (value.toNat * 2 ^ (addr % 8 * 8)) hi lo

/-- A log region position that exists: INDEX of SOURCE 1 is 0 to 16,383 (R10, R416). -/
def cursorOk (source : Bool) (index : Nat) : Bool := !source || decide (index < norSize)

/-- BAR0 address of EVR_CURSOR. -/
def cursorAt : Nat := 0x980018

/-- A write to EVR_CURSOR: its fields, then the selection. A field whose value would name no log position keeps what it holds. -/
def writeCursor (addr size : Nat) (value : W64) (d : Dev) : Dev :=
  let has (hi lo : Nat) : Bool := covers cursorAt addr size hi lo
  if !has 31 0 && !has 33 32 then d
  else
    let e := d.evr
    let src := if has 32 32 then decide (carried addr value 32 32 = 1) else e.source
    let idx := if has 31 0 then carried addr value 31 0 else e.index.toNat
    let auto := if has 33 33 then decide (carried addr value 33 33 = 1) else e.autoInc
    let e1 : Evr := { e with autoInc := auto }
    let e2 : Evr :=
      if cursorOk src idx then { e1 with source := src, index := BitVec.ofNat 32 idx }
      else if cursorOk src e.index.toNat then { e1 with source := src }
      else if cursorOk e.source idx then { e1 with index := BitVec.ofNat 32 idx }
      else e1
    { d with evr := e2.selected }

/-- BAR0 answers: POR_N is high, the host interface is out of reset, and the boot ROM is past step 2 (R425, R452, R488). -/
def Dev.barReads (d : Dev) : Bool := !d.glb.porLow && !d.glb.perstLow

/-- Writes of registers that a fatal stop leaves writable take effect (R452, R472). -/
def Dev.barFree (d : Dev) : Bool :=
  d.barReads && (d.boot.stage == 3 || d.boot.stage == 4) && (d.glb.fatal || !d.glb.held)

/-- EVR_CURSOR_WRITE. -/
def execEvrCursorWrite (addr : BitVec 26) (size : Nat) (value : W64) (s : State) : Host.Outcome State Fault Refusal :=
  .next { s with dev := when s.dev.barFree (writeCursor addr.toNat size value) s.dev }

/-- BAR0 address of EVR_WINDOW. -/
def windowAt : Nat := 0x980040

/-- A read of word 0 takes the record whole (R405, R450): one that was VALID and is there no longer sets STATUS (R410). -/
def captureRecord (e : Evr) : Evr :=
  match e.select with
  | (st, some r) => { e with status := st, window := evBytes r }
  | (st, none) => { e with status := st, window := zeros 64 }

/-- The cursor moves on by one, and selects again. -/
def advanceCursor (e : Evr) : Evr :=
  let i := if e.source then BitVec.ofNat 32 ((e.index.toNat + 1) % norSize) else e.index + 1
  Evr.selected { e with index := i }

/-- A read of `size` bytes of EVR_WINDOW: those of the aligned 8-byte slot (R449). -/
def readWindow (addr size : Nat) (d : Dev) : Dev :=
  let off := addr - windowAt
  let n := min size (8 - addr % 8)
  let d1 := if off / 8 = 0 then onEvr captureRecord d else d
  let d2 := emit (.regData (BitVec.ofNat 64 (fieldAt d1.evr.window off n))) d1
  if d2.evr.autoInc && decide (off ≤ 0x3C ∧ 0x3C < off + n) then onEvr advanceCursor d2 else d2

/-- EVR_WINDOW_READ. -/
def execEvrWindowRead (addr : BitVec 26) (size : Nat) (s : State) : Host.Outcome State Fault Refusal :=
  .next { s with
    dev := when (s.dev.barReads && decide (windowAt ≤ addr.toNat ∧ addr.toNat < windowAt + 64 ∧ 1 ≤ size))
      (readWindow addr.toNat size) s.dev }

/-! ## The I2C target (R442) -/

/-- The 8-byte field at an I2C index below 0x40. -/
def Dev.i2cField (d : Dev) (f : Nat) : W64 :=
  match f with
  | 0 => Config.serial
  | 1 => d.bootStatus
  | 2 => d.evrStatus
  | 3 => d.mntMargin
  | 4 => d.mntTemp
  | 5 => d.mntOpTime
  | 6 => d.glbId
  | _ => 0

/-- The byte at an index as the target returns it, with the capture that a read of a field's first byte makes. -/
def i2cByte (i : Nat) (d : Dev) : Byte × Dev :=
  if i < 0x40 then
    let d1 := if i % 8 = 0 then onBoot (fun b => { b with i2cHold := some (i / 8, wordBytes (d.i2cField (i / 8))) }) d else d
    let field := match d1.boot.i2cHold with
      | some (f, l) => if f = i / 8 then l else wordBytes (d.i2cField (i / 8))
      | none => wordBytes (d.i2cField (i / 8))
    ((field[i % 8]?).getD 0, d1)
  else if i < 0x80 then ((((d.evr.fatal.map evBytes).getD (zeros 64))[i - 0x40]?).getD 0, d)
  else (0, d)

/-- `n` bytes from the index on, which advances by 1 on each. -/
def i2cBytes : Nat → Dev → List Byte × Dev
  | 0, d => ([], d)
  | n + 1, d =>
    let (b, d1) := i2cByte d.boot.i2cIndex d
    let (t, d2) := i2cBytes n (onBoot (fun x => { x with i2cIndex := (x.i2cIndex + 1) % 256 }) d1)
    (b :: t, d2)

/-- An I2C read. -/
def i2cRead (n : Nat) (d : Dev) : Dev :=
  let (l, d1) := i2cBytes n d
  emit (.i2cData l) d1

/-- I2C_READ. -/
def execI2cRead (count : Nat) (s : State) : Host.Outcome State Fault Refusal :=
  .next { s with dev := when (!s.dev.glb.porLow) (i2cRead count) s.dev }

/-- An I2C write: its first byte sets the index, and the others are ignored. -/
def i2cWrite (l : List Byte) (d : Dev) : Dev :=
  match l with
  | [] => d
  | b :: _ => onBoot (fun x => { x with i2cIndex := b.toNat }) d

/-- I2C_INDEX_WRITE. -/
def execI2cIndexWrite (bytes : List Byte) (s : State) : Host.Outcome State Fault Refusal :=
  .next { s with dev := when (!s.dev.glb.porLow) (i2cWrite bytes) s.dev }

end Sys2Proof.Machine
end

