-- ==== Sys2Proof/Machine/Power.lean ====
section
/-! DEFINITION. Power fail, shutdown and the journal dump (R194, R487, R488), fatal conditions of the cores and the entropy source
(R29, R30, R142), POR_N asserted (R485), and the Ethernet ports' links (R469). -/

namespace Sys2Proof.Machine
open Sys2Proof

/-- Change pins, reset and power state. -/
def onGlb (f : Glb → Glb) (d : Dev) : Dev := { d with glb := f d.glb }

/-! ## PWRFAIL_N and SHUTDOWN (R194, R410, R488) -/

/-- Step 2 of R194: the partner is told (R282), SiethLink and the pipes stop, and the journal takes retire records alone until it
freezes. -/
def reducePower (cause : Nat) (d : Dev) : Dev :=
  let d1 := onGlb (fun g => { g with reduced := true }) (emit .slIdle (tangoSend 0 (.leaving cause) d))
  onTango (fun t => { t with state := 4 }) (onVault (fun v => { v with dump := .armed }) d1)

/-- PWRFAIL_N has fallen, or a monitor acts as if it had. A head that stops already goes on stopping, and one that the boot ROM holds
has nothing to dump. -/
def powerFail (d : Dev) : Dev :=
  let d1 := onGlb (fun g => { g with pwrfail := true }) d
  if d.live && !d.glb.bootHold then reducePower 0 d1 else d1

/-- PWRFAIL_N: while POR_N is low it has no effect (R488). -/
def execPwrfailN (s : State) : Host.Outcome State Fault Refusal :=
  .next { s with dev := when (!s.dev.glb.porLow) (fun d => powerFail (onGlb (fun g => { g with pwrHigh := false }) d)) s.dev }

/-- SUPPLY_MONITOR_TRIP: VDD_CORE, VDD_HBM or VDDQ_HBM; the pin keeps its level (R487). -/
def execSupplyMonitorTrip (_rail : Fin 3) (s : State) : Host.Outcome State Fault Refusal :=
  .next { s with dev := when (!s.dev.glb.porLow) powerFail s.dev }

/-- DUMP_FREEZE: the journal freezes at its last record, which the partner is told, and the live journal is written (R194, steps 3
and 4). -/
def freezeJournal (d : Dev) : Dev := writeBodies (tangoSend 0 (.frozen (prev64 d.vault.jseq)) d)

/-- DUMP_FREEZE. -/
def execDumpFreeze (s : State) : Host.Outcome State Fault Refusal :=
  .next { s with dev := when (!s.dev.glb.porLow && s.dev.vault.dump == .armed) freezeJournal s.dev }

/-- DUMP_BODIES_DONE. -/
def execDumpBodiesDone (s : State) : Host.Outcome State Fault Refusal :=
  .next { s with dev := when (!s.dev.glb.porLow) writeHeaders s.dev }

/-- DUMP_COMPLETE. -/
def execDumpComplete (s : State) : Host.Outcome State Fault Refusal :=
  .next { s with dev := when (!s.dev.glb.porLow) endDump s.dev }

/-- SHUTDOWN (R194, R267): the dump is that of PWRFAIL_N, and the descriptor completes before the head holds. -/
def doShutdown (h : Hdr) (d : Dev) : Dev := reducePower 1 (onGlb (fun g => { g with shut := some h }) d)

/-- SHUTDOWN. -/
def execShutdown (h : Hdr) (s : State) : Host.Outcome State Fault Refusal :=
  .next { s with dev := descriptor 0x1C [7] h true (doShutdown h) s.dev }

/-! ## The management cores (R29, R30) -/

/-- The cores run: firmware RUNNING, neither halted by a fatal stop nor held. Reduced power mode keeps them up (R194). -/
def Dev.coresRun (d : Dev) : Bool := !d.glb.porLow && !d.glb.fatal && !d.glb.held && d.boot.stage == 3

/-- WATCHDOG: a missed check-in is fatal (R30, R406). It is suspended in an activation's pause (R431). -/
def execWatchdog (core : Fin 4) (pc : W64) (s : State) : Host.Outcome State Fault Refusal :=
  .next { s with
    dev := when s.dev.coresRun (fatalStop 0x0001 (BitVec.ofNat 32 core.val) [pc.setWidth 32, (pc >>> 32).setWidth 32] false) s.dev }

/-- CORE_ACCESS: an error to the core, logged, and no other effect (R29). -/
def coreAccess (core : Fin 4) (addr : W64) (d : Dev) : Dev :=
  logEvent 0x0002 (BitVec.ofNat 32 core.val) [addr.setWidth 32, (addr >>> 32).setWidth 32] (emit (.coreError core) d)

/-- CORE_ACCESS. -/
def execCoreAccess (core : Fin 4) (addr : W64) (s : State) : Host.Outcome State Fault Refusal :=
  .next { s with dev := when s.dev.coresRun (coreAccess core addr) s.dev }

/-! ## DRBG instances (R141 to R143, R168) -/

/-- DRBG_RESEED. -/
def execDrbgReseed (inst : Fin 6) (s : State) : Host.Outcome State Fault Refusal :=
  .next { s with dev := when s.dev.live (doReseed inst) s.dev }

/-- ENTROPY_HEALTH_FAIL: latched in CIPH_DRBG_STAT, unless a fatal stop has frozen it (R407, step 1), and fatal. -/
def entropyFail (inst : Fin 6) (d : Dev) : Dev :=
  let d1 := if d.glb.fatal then d else onCiph (fun c => { c with fail := c.fail ||| (1#6 <<< inst.val) }) d
  fatalStop 0x0703 (BitVec.ofNat 32 inst.val) [d1.ciph.fail.setWidth 32] false d1

/-- ENTROPY_HEALTH_FAIL. -/
def execEntropyHealthFail (inst : Fin 6) (s : State) : Host.Outcome State Fault Refusal :=
  .next { s with dev := when (!s.dev.glb.porLow) (entropyFail inst) s.dev }

/-! ## POR_N (R485) -/

/-- POR_N low: everything is as at reset but what lies in OTP, in SPI NOR and on the drives, and the pins' levels. -/
def porAssert (d : Dev) : Dev :=
  let b := d.boot
  let r := Dev.reset
  { r with
    out := d.out
    free := d.free
    glb := { r.glb with headPin := d.glb.headPin, perstLow := d.glb.perstLow, pwrHigh := d.glb.pwrHigh, trigIn := d.glb.trigIn }
    disk := d.disk
    vault := { r.vault with dumpSeq := d.vault.dumpSeq }
    evr := { r.evr with nor := d.evr.nor, norHead := d.evr.norHead }
    boot := { r.boot with
      slot0 := b.slot0, slot1 := b.slot1, dirSeq := b.dirSeq, storeA := b.storeA, storeB := b.storeB, identity := b.identity
      otpSvn := b.otpSvn, revoked := b.revoked, lifecycle := b.lifecycle, jtagOpen := b.jtagOpen } }

/-- POR_N_ASSERT: HBM is lost as well. -/
def execPorNAssert (s : State) : Host.Outcome State Fault Refusal := .next { s with hbm := [], dev := porAssert s.dev }

/-! ## Ethernet ports (R469) -/

/-- One bit of a pair of bits. -/
def putBit (v : BitVec 2) (p : Nat) (b : Bool) : BitVec 2 := if b then v ||| (1#2 <<< p) else v &&& ~~~(1#2 <<< p)

/-- A port's link comes up or goes down: a transition from up to down is counted, saturating. -/
def portLink (p : Fin 2) (up fecLock : Bool) (d : Dev) : Dev :=
  let r := d.regs
  let was := r.ethUp.getLsbD p.val
  { d with regs := { r with
    ethUp := putBit r.ethUp p.val up, ethFec := putBit r.ethFec p.val fecLock
    ethDowns := if was && !up then tput r.ethDowns p.val (satInc32 (tgetD r.ethDowns 0 p.val)) else r.ethDowns } }

/-- ETH_PORT_LINK_CHANGE. -/
def execEthPortLinkChange (port : Fin 2) (up fecLock : Bool) (s : State) : Host.Outcome State Fault Refusal :=
  .next { s with dev := when (!s.dev.glb.porLow) (portLink port up fecLock) s.dev }

end Sys2Proof.Machine
end

