-- ==== Sys2Proof/Machine/Boot.lean ====
section
/-! DEFINITION. Boot (R424 to R427, R488, R505), firmware staging, activation and confirmation (R428 to R437), attestation (R439 to R441)
and JTAG_CLOSE (R448). -/

namespace Sys2Proof.Machine
open Sys2Proof

/-! ## Measurement (R427) -/

/-- The 64-byte ROM record. -/
def Dev.romRecord (d : Dev) : List Byte :=
  wordBytes Config.romVersion ++ leBytes 4 d.boot.otpSvn ++ wordBytes Config.serial ++ leBytes 1 d.boot.lifecycle ++
    leBytes 1 (bit d.boot.jtagOpen) ++ leBytes 1 d.boot.revoked.toNat ++ zeros 45

/-- DGST_MR[1] is extended with an image's digest, and the extend is logged for quotes (R441). -/
def measureImage (i : Image) (d : Dev) : Dev :=
  let d1 := extendMr 1 (beBytes i.digest) d
  { d1 with dgst := { d1.dgst with mr1Log := d1.dgst.mr1Log ++ [(i.fwVersion, i.digest)] } }

/-- DGST_MR[2]: the chosen configuration record, or 48 zero bytes. -/
def measureConfig (fmt : Nat) (d : Dev) : Dev :=
  match d.boot.chooseCfg fmt with
  | some r => extendMr 2 (beBytes (sha384 (cfgBytes r))) d
  | none => extendMr 2 (zeros 48) d

/-- DGST_MR[3]: each SerDes and HBM PHY microcode section, in section order. -/
def measureCode (i : Image) (d : Dev) : Dev :=
  each (fun s x => extendMr 3 (beBytes (sha384 s.data)) x) (i.sections.filter (fun s => s.kind == 3 || s.kind == 4)) d

/-- DGST_MR[5]: version, levels and security version. -/
def measureVersion (i : Image) (d : Dev) : Dev :=
  extendMr 5 (beBytes (sha384
    (wordBytes i.fwVersion ++ leBytes 2 i.levelMin ++ leBytes 2 i.levelMax ++ leBytes 4 i.svn ++ zeros 4))) d

/-! ## Boot (R424, R425) -/

/-- BOOT_SLOT_REJECT: the slot, the failed check (a free value: the manual gives its words no coding) and the version. -/
def logReject (slot : Nat) (v : W32) (d : Dev) : Dev :=
  drawn (logEvent 0x0E01 (BitVec.ofNat 32 slot) [Config.free32 d.free, v] d)

/-- The ROM marks a slot REJECTED. -/
def rejectSlot (slot : Nat) (d : Dev) : Dev :=
  let v := (d.boot.slotEnt slot).fwVersion
  logReject slot v (setSlot slot (fun e => { e with state := 5 }) d)

/-- The ROM loads a slot's image, measuring it as it does, and checks it (steps 4 and 5): the image, where it is valid and, for the slot
chosen first, its digest is the entry's. -/
def loadSlot (slot : Nat) (first : Bool) (d : Dev) : Option Image × Dev :=
  let e := d.boot.slotEnt slot
  match e.image with
  | none => (none, d)
  | some i =>
    let d1 := measureImage i d
    if i.valid d.boot.otpSvn d.boot.revoked && i.imageType == 1 && (!first || i.digest == e.digest) then (some i, d1) else (none, d1)

/-- The firmware starts from an image in a slot (steps 6 to 8) and reaches RUNNING. -/
def runImage (slot : Nat) (i : Image) (d : Dev) : Dev :=
  let d1 := onBoot (fun b => { b with
    stage := 2, slot := slot, trial := decide ((b.slotEnt slot).state = 2), fwVersion := i.fwVersion }) (measureConfig i.cfgFormat d)
  let d2 := measureVersion i (takeConfig (measureCode i d1))
  let d3 := if d2.boot.jtagOpen then logEvent 0x0F03 noInstance [] d2 else d2
  let d4 := if d3.boot.idOk then d3 else logEvent 0x0F01 noInstance [] d3
  onBoot (fun b => { b with stage := 3 }) d4

/-- BOOT_RECOVERY, with its outcome (a free value: the manual gives it no coding). -/
def logRecovery (d : Dev) : Dev := drawn (logEvent 0x0E03 noInstance [Config.free32 d.free] d)

/-- An image as an entry of the slot directory. -/
def entryOf (state : Nat) (i : Image) : SlotEnt :=
  { state := state, trialBoots := 0, fwVersion := i.fwVersion, svn := i.svn, length := i.length, digest := i.digest, image := some i }

/-- Recovery: a valid firmware image of the card goes into slot 0 and boots; otherwise the head is HALTED. -/
def recovery (card : Option Image) (d : Dev) : Dev :=
  let d1 := logRecovery d
  match card with
  | some i =>
    if i.headerOk && i.imageType == 1 && i.valid d.boot.otpSvn d.boot.revoked then
      let d2 := writeDir (onBoot (fun b => { b with slot0 := entryOf 3 i, slot1 := .empty }) d1)
      runImage 0 i (measureImage i d2)
    else haltBoot d1
  | none => haltBoot d1
where
  /-- BOOT_STATUS shows HALTED and FAULT_N is asserted, until POR_N. -/
  haltBoot (d : Dev) : Dev := onGlb (fun g => { g with faultN := false }) (onBoot (fun b => { b with stage := 6 }) d)

/-- The slot in a state, if there is one. -/
def Boot.inState (b : Boot) (st : Nat) : Option Nat := if b.slot0.state = st then some 0 else if b.slot1.state = st then some 1 else none

/-- Steps 1 and 2 of R424: a TRIAL slot with boots left, which counts one more, else the CONFIRMED slot. -/
def chooseSlot (d : Dev) : Option Nat × Dev :=
  match d.boot.inState 2 with
  | some s =>
    if (d.boot.slotEnt s).trialBoots < 2 then
      (some s, setSlot s (fun e => { e with trialBoots := e.trialBoots + 1 }) d)
    else
      let d1 := rejectSlot s d
      (d1.boot.inState 3, d1)
  | none => (d.boot.inState 3, d)

/-- Step 3 of R424: the other slot, where it is CONFIRMED or PREVIOUS and valid; then recovery. -/
def fallBack (slot : Nat) (card : Option Image) (d : Dev) : Dev :=
  let o := otherSlot slot
  let st := (d.boot.slotEnt o).state
  if st = 3 ∨ st = 4 then
    match loadSlot o false d with
    | (some i, d1) =>
      runImage o i (logEvent 0x0E02 (BitVec.ofNat 32 o) [i.fwVersion] (onBoot (fun b => { b with fallback := true }) d1))
    | (none, d1) => recovery card d1
  else recovery card d

/-- Boot from step 3 of R425 on. -/
def bootFrom (card : Option Image) (d : Dev) : Dev :=
  match chooseSlot (onBoot (fun b => { b with stage := 1 }) d) with
  | (none, d1) => recovery card d1
  | (some s, d1) =>
    match loadSlot s true d1 with
    | (some i, d2) => runImage s i d2
    | (none, d2) => fallBack s card (rejectSlot s d2)

/-- Steps 1 and 2: HEAD_ID is sampled, the recorder scans its log, the ROM extends DGST_MR[0], and IDENTITY_OK is settled. -/
def startRom (pins : BootIn) (d : Dev) : Dev :=
  let d1 := onGlb (fun g => { g with
    porLow := false, headPin := pins.headHigh, headB := pins.headHigh, pwrHigh := pins.pwrHigh, perstLow := true, trigIn := pins.trigHigh }) d
  let d2 := if pins.perstHigh then perstHigh d1 else d1
  let d3 := scanLog { d2 with now := 0 }
  extendMr 0 (beBytes (sha384 d3.romRecord))
    (onBoot (fun b => { b with idOk := (b.identity.map leafMatches).getD false }) d3)

/-- POR_N goes high: with PWRFAIL_N low the ROM holds at step 2 (R488). -/
def porDeassert (pins : BootIn) (d : Dev) : Dev :=
  let d1 := startRom pins d
  if pins.pwrHigh then bootFrom pins.card d1 else onGlb (fun g => { g with bootHold := true }) d1

/-- POR_N_DEASSERT. -/
def execPorNDeassert (pins : BootIn) (s : State) : Host.Outcome State Fault Refusal :=
  .next { s with dev := when s.dev.glb.porLow (porDeassert pins) s.dev }

/-- PWRFAIL_N has been high for 100 ms: boot goes on. -/
def endHold (card : Option Image) (d : Dev) : Dev := bootFrom card (onGlb (fun g => { g with bootHold := false, pwrHigh := true }) d)

/-- BOOT_PWRFAIL_HOLD_END. -/
def execBootPwrfailHoldEnd (card : Option Image) (s : State) : Host.Outcome State Fault Refusal :=
  .next { s with dev := when (s.dev.live && s.dev.glb.bootHold) (endHold card) s.dev }

/-! ## Staging (R429) -/

/-- A firmware operation is in progress. -/
def Boot.busy (b : Boot) : Bool := b.staging.isSome || b.activating.isSome

/-- FW_STAGE: rows 1 to 4 of R429 decide at once; then the target slot is written EMPTY, and the card is read. -/
def doFwStage (h : Hdr) (length : Nat) (card : Option Image) (sdhc : Bool) (d : Dev) : Dev :=
  if d.boot.trial || d.boot.busy then complete h 0x20 8 0 0 d
  else
    match card with
    | none => complete h 0x20 8 0 0 d
    | some i =>
      if !sdhc then complete h 0x20 8 0 0 d
      else if 33554432 < length ∨ length % 64 ≠ 0 ∨ length ≠ i.length then complete h 0x20 0x0D 0 0 d
      else
        match d.openCtx with
        | none => complete h 0x20 8 0 0 d
        | some n =>
          let s := otherSlot d.boot.slot
          let d1 := takeCtx n { chan := 0, kind := 2, key := [], dest := .firmware, declared := some length, seen := [] } (onBoot (fun b => { b with staging := some { h := h, slot := s, length := length } }) d)
          if i.imageType = 2 then d1 else setSlot s (fun _ => .empty) d1

/-- FW_STAGE. -/
def execFwStage (h : Hdr) (_block length : Nat) (card : Option Image) (sdhc : Bool) (s : State) : Host.Outcome State Fault Refusal :=
  .next { s with dev := descriptor 0x20 [7] h true (doFwStage h length card sdhc) s.dev }

/-- Rows 5 to 9 of R429: `outcome` 1 is a card that could not be read, 2 a readback that differs. -/
def stageStatus (outcome : Nat) (i : Image) (d : Dev) : Nat :=
  if outcome = 1 then 0x0C
  else if !i.headerOk then 0x0C
  else if !i.valid d.boot.otpSvn d.boot.revoked || (i.imageType == 2 && !leafMatches i.certs) then 6
  else if outcome = 2 then 0x0C
  else 0

/-- Staging ends. -/
def endStaging (outcome : Nat) (i : Image) (d : Dev) : Dev :=
  match d.boot.staging with
  | none => d
  | some g =>
    let d1 := dropCtx 0 (onBoot (fun b => { b with staging := none }) d)
    let st := stageStatus outcome i d
    if st ≠ 0 then complete g.h 0x20 st 0 0 d1
    else if i.imageType = 2 then
      complete g.h 0x20 0 2 0 (onBoot (fun b => { b with identity := some i.certs, idOk := leafMatches i.certs }) d1)
    else
      let d2 := setSlot g.slot (fun _ => entryOf 1 i) d1
      complete g.h 0x20 0 (BitVec.ofNat 64 g.slot) 0
        (logEvent 0x0E06 (BitVec.ofNat 32 g.slot) [i.fwVersion, BitVec.ofNat 32 i.svn] d2)

/-- STAGING_COMPLETE. -/
def execStagingComplete (outcome : Nat) (img : Image) (s : State) : Host.Outcome State Fault Refusal :=
  .next { s with dev := when s.dev.working (endStaging outcome img) s.dev }

/-! ## Activation (R430 to R433) -/

/-- A takeover, handover or resynchronisation is in progress (R430, order 4). -/
def Dev.pairBusy (d : Dev) : Bool := d.tango.hand.isSome || d.tango.owing || d.tango.lostRace || (d.tango.session && d.tango.state == 1)

/-- Rows 1 to 6 of R430. -/
def Dev.mayActivate (d : Dev) : Bool :=
  let st := (d.boot.slotEnt (otherSlot d.boot.slot)).state
  (st == 1 || st == 3) && !d.boot.busy && !(d.tango.session && !d.owned.isEmpty) &&
    d.owned.all (fun g => (d.sl.groups.at g).stop.isSome) && !d.pairBusy && decide (d.boot.activations < 8) && d.openCtx.isSome

/-- Steps 2 to 4 of R432: the image is checked, the pause begins, and the cores start in it. Row 7 of R430 rejects the slot. -/
def doFwActivate (h : Hdr) (d : Dev) : Dev :=
  let s := otherSlot d.boot.slot
  if !d.mayActivate then complete h 0x21 8 0 0 d
  else
    match (d.boot.slotEnt s).image with
    | none => complete h 0x21 6 0 0 (rejectSlot s d)
    | some i =>
      if !i.valid d.boot.otpSvn d.boot.revoked then complete h 0x21 6 0 0 (rejectSlot s d)
      else
        let staged := decide ((d.boot.slotEnt s).state = 1)
        let d1 := if staged then setSlot s (fun e => { e with state := 2, trialBoots := 0 }) d else d
        measureImage i (onGlb (fun g => { g with pauseAt := d.now }) (onBoot (fun b => { b with
          stage := 4, activations := b.activations + 1
          activating := some { h := h, slot := s, paused := true, fallback := !staged && b.trial } }) d1))

/-- FW_ACTIVATE. -/
def execFwActivate (h : Hdr) (s : State) : Host.Outcome State Fault Refusal :=
  .next { s with dev := descriptor 0x21 [7] h true (doFwActivate h) s.dev }

/-- Step 6 of R432: the new firmware ends the session and sets up another. -/
def newSession (d : Dev) : Dev := if d.joins && d.tango.session then tangoQpError d else d

/-- The new firmware is RUNNING: the pause ends. A fallback rejects the TRIAL slot that ran before (R430). -/
def fwRunning (d : Dev) : Dev :=
  match d.boot.activating with
  | none => d
  | some a =>
    match (d.boot.slotEnt a.slot).image with
    | none => d
    | some i =>
      let d1 := if a.fallback then setSlot d.boot.slot (fun e => { e with state := 5 }) d else d
      let d2 := onBoot (fun b => { b with
        stage := 3, slot := a.slot, trial := decide ((b.slotEnt a.slot).state = 2), fwVersion := i.fwVersion, activating := none }) d1
      let d3 := measureVersion i (takeConfig d2)
      let d4 := logEvent 0x0E07 (BitVec.ofNat 32 a.slot) [i.fwVersion, BitVec.ofNat 32 ((d.now - d.glb.pauseAt) / 1000000)] d3
      newSession (complete a.h 0x21 0 0 0 d4)

/-- FW_RUNNING. -/
def execFwRunning (s : State) : Host.Outcome State Fault Refusal :=
  .next { s with dev := when (s.dev.live && s.dev.boot.stage == 4) fwRunning s.dev }

/-- An activation is undone (R433): the old image runs on. Beyond the limit the new slot is REJECTED; with the partner silent it is STAGED
again, and the takeover starts. The event's cause is a free value. -/
def undoActivation (silent : Bool) (t : TakeoverIn) (d : Dev) : Dev :=
  match d.boot.activating with
  | none => d
  | some a =>
    let v := (d.boot.slotEnt a.slot).fwVersion
    let d1 := onBoot (fun b => { b with stage := 3, activating := none }) d
    let d2 := drawn (logEvent 0x0E08 (BitVec.ofNat 32 a.slot) [Config.free32 d1.free] d1)
    if silent then
      let d3 := setSlot a.slot (fun e => { e with state := if e.state = 2 then 1 else e.state }) d2
      partnerSilent t (complete a.h 0x21 8 0 0 d3)
    else complete a.h 0x21 0x0C 0 0 (logReject a.slot v (setSlot a.slot (fun e => { e with state := 5 }) d2))

/-- ACTIVATION_TIMEOUT. -/
def execActivationTimeout (partnerSilent : Bool) (t : TakeoverIn) (s : State) : Host.Outcome State Fault Refusal :=
  .next { s with dev := when (s.dev.live && s.dev.boot.stage == 4) (undoActivation partnerSilent t) s.dev }

/-! ## Confirmation (R434) -/

/-- The slots after a confirmation with a rollback counter: the running one CONFIRMED, the one that was PREVIOUS, or REJECTED where its
security version is now below the counter. -/
def confirmSlots (svn : Nat) (b : Boot) : Boot :=
  let o := otherSlot b.slot
  let was (e : SlotEnt) : SlotEnt :=
    let st := if e.state = 3 then 4 else e.state
    { e with state := if st = 4 ∧ e.svn < svn then 5 else st }
  Boot.putSlot b.slot (fun e => { e with state := 3 }) (Boot.putSlot o was { b with trial := false, otpSvn := svn })

/-- FW_CONFIRM. A head whose reported level_max rises with it sets up a new session (R437). -/
def doFwConfirm (h : Hdr) (d : Dev) : Dev :=
  if !d.boot.trial then complete h 0x22 2 0 0 d
  else
    let e := d.boot.slotEnt d.boot.slot
    let svn := max d.boot.otpSvn e.svn
    let d1 := writeDir (onBoot (confirmSlots svn) d)
    let d2 := if d.boot.otpSvn < svn then
      logEvent 0x0F02 noInstance [BitVec.ofNat 32 d.boot.otpSvn, BitVec.ofNat 32 svn] d1 else d1
    let d3 := complete h 0x22 0 0 0 (logEvent 0x0E09 (BitVec.ofNat 32 d.boot.slot) [e.fwVersion, BitVec.ofNat 32 e.svn] d2)
    if d.levelMax < d3.levelMax then newSession d3 else d3

/-- FW_CONFIRM. -/
def execFwConfirm (h : Hdr) (s : State) : Host.Outcome State Fault Refusal :=
  .next { s with dev := descriptor 0x22 [7] h true (doFwConfirm h) s.dev }

/-! ## Attestation (R441) -/

/-- A quote without its signature. -/
def Dev.quoteBody (d : Dev) (nonce : W256) : List Byte :=
  let log := d.dgst.mr1Log
  [0x4F, 0x43, 0x41, 0x51] ++ leBytes 2 1 ++ leBytes 1 d.self ++ leBytes 1 log.length ++ wordBytes Config.serial ++ beBytes nonce ++
    leBytes 4 d.opSeconds ++ wordBytes d.evr.power ++ zeros 1 ++ wordBytes d.boot.fwVersion ++ leBytes 4 d.boot.otpSvn ++
    ((List.range 8).map (fun n => beBytes (d.mr n))).flatten ++
    (log.map (fun e => wordBytes e.1 ++ zeros 4 ++ beBytes e.2)).flatten

/-- Length of a quote. -/
def Dev.quoteLen (d : Dev) : Nat := 544 + 56 * d.dgst.mr1Log.length

/-- ATTEST_QUOTE: signed by the SEC engine, with a secret of service lane 0's instance (R143). -/
def doAttestQuote (h : Hdr) (nonce : W256) (outAddr outLen : Nat) (d : Dev) : Dev :=
  if !d.boot.idOk then complete h 0x23 0x0C 0 0 d
  else if outLen < d.quoteLen then complete h 0x23 0x0D 0 0 d
  else
    let body := d.quoteBody nonce
    let sig := deviceSign (sha384 body) d.free
    complete h 0x23 0 (BitVec.ofNat 64 d.quoteLen) 0 (hostData outAddr (body ++ beBytes sig) (drbgDraw 4 d))

/-- ATTEST_QUOTE. -/
def execAttestQuote (h : Hdr) (nonce : W256) (outAddr outLen : Nat) (s : State) : Host.Outcome State Fault Refusal :=
  .next { s with dev := descriptor 0x23 [7] h true (doAttestQuote h nonce outAddr outLen) s.dev }

/-! ## JTAG (R448) -/

/-- JTAG_CLOSE: before the lock, until POR_N. -/
def closeJtag (d : Dev) : Dev := onBoot (fun b => { b with jtagClosed := true }) d

/-- A BAR0 write to a block other than HIF takes effect: no fatal stop, and RUNNING has been reached (R452, R472). -/
def Dev.barWrites (d : Dev) : Bool := d.working && !d.glb.perstLow

/-- JTAG_CLOSE. -/
def execJtagClose (value : W32) (s : State) : Host.Outcome State Fault Refusal :=
  .next { s with dev := when (s.dev.barWrites && value.getLsbD 0 && !s.dev.glb.locked) closeJtag s.dev }

end Sys2Proof.Machine
end

