-- ==== Sys2Proof/Machine/Registers.lean ====
section
/-! DEFINITION. Writes of the set-up registers of BAR0 (R449 to R452, R460, R472): which fields a write covers, which values a field
takes, the lock (R456, R458), and the region table (R470). -/

namespace Sys2Proof.Machine
open Sys2Proof

/-! ## GLB_LOCK (R456, R458) -/

/-- DGST_MR[4] is extended with the values locked (R427), and MEASURED is set. -/
def measureLock (d : Dev) : Dev :=
  let w (v : W32) : List Byte := wordBytes (v.setWidth 64)
  let values := wordBytes d.secState ++ w d.regs.ciphCfg ++ w d.regs.dgstCfg ++ w d.regs.ihCfg ++ w d.regs.hifCfg ++ w d.regs.mntCfg
  onGlb (fun g => { g with measured := true }) (extendMr 4 (beBytes (sha384 values)) d)

/-- Groups of GROUP_EN (R463). -/
def Dev.enabledGroups (d : Dev) : List (Fin 4) := groupList.filter (fun g => d.regs.slCfg.getLsbD (4 + g.val))

/-- A lock whose write brings nothing read of the drives (R195): GLB_LOCK by its number among the registers. -/
def nothingRead : TakeoverIn := { reports := [], conflicts := [], failed := [], adoption := [], sys := [] }

/-- The first lock: every RWL field is read-only, a staged half is discarded, and SiethLink, the drive ports and Tango start. -/
def firstLock (t : TakeoverIn) (dumps : List DumpIn) (d : Dev) : Dev :=
  let d1 := measureLock { d with
    glb := { d.glb with locked := true, hifLocked := true }, regs := { d.regs with staged := [] } }
  let d2 := { d1 with sl := { d1.sl with player := d1.regs.slCfg.getLsbD 0 } }
  startTango t dumps (startPorts [] (each linkUp d2.enabledGroups d2))

/-- A write of GLB_LOCK: the key locks, or locks HIF alone again where PERST_N has opened it (R472). -/
def lockWrite (value : W32) (t : TakeoverIn) (dumps : List DumpIn) (d : Dev) : Dev :=
  if value ≠ 0x4C4F434B then d
  else if !d.glb.locked then firstLock t dumps d
  else if !d.glb.hifLocked then measureLock (onGlb (fun g => { g with hifLocked := true }) d)
  else d

/-- GLB_LOCK, with what a head that starts alone reads of its drives (R195). -/
def execGlbLock (value : W32) (t : TakeoverIn) (dumps : List DumpIn) (s : State) : Host.Outcome State Fault Refusal :=
  .next { s with dev := when (s.dev.running && !s.dev.glb.perstLow) (lockWrite value t dumps) s.dev }

/-! ## The writable registers -/

/-- A register of BAR0 with a field that a write can change. -/
inductive SetReg where
  | scratch | lock | hifCfg | adminSq | adminCq | adminCtl | dbPage (n : Nat) | slCfg | rateCap (g : Fin 4) | pipeCfg (g : Fin 4)
  | vltCfg | maintCfg | dpCfg | rdmaCfg | qpcBase | winBase | qpDb (n : Nat) | mac (n : Nat) | ip (n : Nat) | ihCfg | ciphCfg | dgstCfg
  | mcaCtl | hbmCfg | wayMask (n : Nat) | rat (n : Nat) | cursor | rate (n : Nat) | mntCfg | secCtl
deriving DecidableEq, Repr

/-- The index of a slot in a row of `count` registers, `stride` bytes apart. -/
def nth (base stride count slot : Nat) : Option Nat :=
  if base ≤ slot ∧ slot < base + stride * count ∧ (slot - base) % stride = 0 then some ((slot - base) / stride) else none

/-- A group's register in a row of four. -/
def nthG (base stride slot : Nat) (f : Fin 4 → SetReg) : Option SetReg :=
  (nth base stride 4 slot).bind (fun n => if h : n < 4 then some (f ⟨n, h⟩) else none)

/-- Registers of one slot each, by address (R453, R462, R468). -/
def plainRegs : List (Nat × SetReg) :=
  [(0x000010, .lock), (0x000020, .scratch), (0x100000, .hifCfg), (0x100008, .adminSq), (0x100010, .adminCq), (0x100018, .adminCtl),
   (0x200000, .slCfg), (0x400000, .vltCfg), (0x400008, .maintCfg), (0x500000, .dpCfg), (0x600000, .rdmaCfg), (0x600008, .qpcBase),
   (0x600010, .winBase), (0x608000, .ihCfg), (0x700000, .ciphCfg), (0x780000, .dgstCfg), (0x880000, .mcaCtl), (0x880008, .hbmCfg),
   (0x980018, .cursor), (0xA00000, .mntCfg), (0xC00010, .secCtl)]

/-- The register of the 8-byte slot at an address. -/
def regAt (slot : Nat) : Option SetReg :=
  match plainRegs.find? (fun e => e.1 == slot) with
  | some e => some e.2
  | none =>
    ((nth 0x100040 8 8 slot).map .dbPage).orElse fun _ =>
    (nthG 0x200008 8 slot .rateCap).orElse fun _ =>
    (nthG 0x300000 0x40000 slot .pipeCfg).orElse fun _ =>
    ((nth 0x600100 8 32 slot).map .qpDb).orElse fun _ =>
    ((nth 0x600400 8 2 slot).map .mac).orElse fun _ =>
    ((nth 0x600500 16 16 (slot / 16 * 16)).map .ip).orElse fun _ =>
    ((nth 0x880100 8 8 slot).map .wayMask).orElse fun _ =>
    ((nth 0x881000 16 64 (slot / 16 * 16)).map .rat).orElse fun _ =>
    (nth 0x981000 8 256 slot).map .rate

/-- Registers of 128 bits, whose low half is staged (R450). -/
def wide : SetReg → Bool
  | .ip _ => true
  | .rat _ => true
  | _ => false

/-- The fields that a write can change, as bits `[hi:lo]`. -/
def fieldsOf : SetReg → List (Nat × Nat)
  | .scratch => [(63, 0)]
  | .lock => [(31, 0)]
  | .hifCfg => [(0, 0), (15, 8), (23, 16), (26, 24)]
  | .adminSq => [(63, 12)]
  | .adminCq => [(63, 12)]
  | .adminCtl => [(3, 0), (7, 4), (18, 8), (31, 31)]
  | .dbPage _ => [(63, 12)]
  | .slCfg => [(0, 0), (1, 1), (7, 4)]
  | .rateCap _ => [(19, 0)]
  | .pipeCfg _ => [(0, 0), (1, 1), (2, 2), (3, 3), (4, 4), (11, 8)]
  | .vltCfg => [(0, 0), (1, 1), (15, 8), (23, 16), (31, 24)]
  | .maintCfg => [(15, 0), (23, 16)]
  | .dpCfg => [(0, 0), (1, 1)]
  | .rdmaCfg => [(0, 0), (1, 1), (2, 2), (5, 3), (15, 8)]
  | .qpcBase => [(63, 12)]
  | .winBase => [(63, 12)]
  | .qpDb _ => [(63, 12)]
  | .mac _ => [(47, 0)]
  | .ip _ => [(127, 0)]
  | .ihCfg => [(0, 0), (1, 1), (31, 16)]
  | .ciphCfg => [(0, 0), (1, 1), (12, 8)]
  | .dgstCfg => [(0, 0)]
  | .mcaCtl => [(0, 0)]
  | .hbmCfg => [(7, 0), (11, 8)]
  | .wayMask _ => [(15, 0)]
  | .rat _ => [(0, 0), (2, 1), (3, 3), (4, 4), (36, 12), (100, 76)]
  | .cursor => [(31, 0), (32, 32), (33, 33)]
  | .rate _ => [(15, 0), (23, 16), (31, 24)]
  | .mntCfg => [(0, 0), (15, 8)]
  | .secCtl => [(0, 0)]

/-- What a register's writable fields hold; write-only fields read as zero (R7). -/
def Dev.holds (d : Dev) : SetReg → Nat
  | .scratch => d.regs.scratch.toNat
  | .lock => 0
  | .hifCfg => d.regs.hifCfg.toNat
  | .adminSq => d.regs.adminSq.toNat
  | .adminCq => d.regs.adminCq.toNat
  | .adminCtl => d.regs.adminCtl.toNat
  | .dbPage n => (tgetD d.regs.dbPage 0 n).toNat
  | .slCfg => d.regs.slCfg.toNat
  | .rateCap g => (d.regs.rateCap.at g).toNat
  | .pipeCfg g => (d.regs.pipeCfg.at g).toNat
  | .vltCfg => d.regs.vltCfg.toNat
  | .maintCfg => d.regs.maintCfg.toNat
  | .dpCfg => d.regs.dpCfg.toNat
  | .rdmaCfg => d.regs.rdmaCfg.toNat
  | .qpcBase => d.regs.qpcBase.toNat
  | .winBase => d.regs.winBase.toNat
  | .qpDb n => (tgetD d.regs.qpDb 0 n).toNat
  | .mac n => (tgetD d.regs.mac 0 n).toNat
  | .ip n => (tgetD d.regs.ip 0 n).toNat
  | .ihCfg => d.regs.ihCfg.toNat
  | .ciphCfg => d.regs.ciphCfg.toNat
  | .dgstCfg => d.regs.dgstCfg.toNat
  | .mcaCtl => bit d.mca.enabled
  | .hbmCfg => d.regs.hbmCfg.toNat
  | .wayMask n => (tgetD d.regs.wayMask 0 n).toNat
  | .rat n => (tgetD d.regs.rat 0 n).toNat
  | .cursor => d.evrCursor.toNat
  | .rate n => (d.evrRate n).toNat % 2 ^ 32
  | .mntCfg => d.regs.mntCfg.toNat
  | .secCtl => 0

/-! ## Which values a field takes (R10) -/

/-- Whether an entry of the region table overlaps a ring or the stripe area, which follow the work region (R353, R383). -/
def overlaps (v : Nat) : Bool :=
  decide (bits v 0 0 = 1 ∧ bits v 36 12 ≤ bits v 100 76 ∧ 0xEE6B3 ≤ bits v 100 76 ∧ bits v 36 12 ≤ 0x10C388C)

/-- Whether EVR_RATE[n] may name a code: not an exempt one, nor one that a lower entry names (R402). -/
def rateCodeOk (bs : Tab Bucket) (n code : Nat) : Bool :=
  code == 0 || (definedCode code && !exemptCode code && bs.all (fun e => !(decide (e.1 < n) && e.2.code == code)))

/-- Whether a field's value is valid, in the register as it would then be. -/
def Dev.fieldOk (d : Dev) (r : SetReg) (lo v : Nat) : Bool :=
  match r, lo with
  | .hifCfg, 8 => bits v 15 8 != 0
  | .adminCtl, 0 => decide (4 ≤ bits v 3 0 ∧ bits v 3 0 ≤ 12)
  | .adminCtl, 4 => decide (bits v 3 0 ≤ bits v 7 4 ∧ bits v 7 4 ≤ 12)
  | .rateCap _, 0 => bits v 19 0 != 0
  | .vltCfg, 8 => bits v 15 8 != 0
  | .vltCfg, 24 => bits v 31 24 != 0
  | .maintCfg, 16 => bits v 23 16 != 0
  | .rdmaCfg, 8 => bits v 15 8 != 0
  | .ihCfg, 16 => bits v 31 16 != 0
  | .hbmCfg, 8 => decide (bits v 11 8 ≤ 3)
  | .mntCfg, 8 => decide (bits v 15 8 ≤ 104)
  | .rate n, 0 => rateCodeOk d.evr.buckets n (bits v 15 0)
  | .rate _, 24 => bits v 31 24 != 0 || bits v 15 0 == 0
  | _, _ => true

/-- Whether a mask of written bits holds all of bits `[hi:lo]` (R450). -/
def inMask (mask hi lo : Nat) : Bool := bits mask hi lo == 2 ^ (hi + 1 - lo) - 1

/-- The register after a write of `v` under a mask: each field that the mask holds whole, and whose new value is valid. -/
def Dev.merged (d : Dev) (r : SetReg) (mask v : Nat) : Nat :=
  (fieldsOf r).foldl (fun cur f =>
    if inMask mask f.1 f.2 then
      let c := setBits cur f.1 f.2 v
      if d.fieldOk r f.2 c then c else cur
    else cur) (d.holds r)

/-- Whether a mask holds any field whole. -/
def touches (r : SetReg) (mask : Nat) : Bool := (fieldsOf r).any (fun f => inMask mask f.1 f.2)

/-! ## Storing a register -/

/-- Change the set-up registers. -/
def onRegs (f : Regs → Regs) (d : Dev) : Dev := { d with regs := f d.regs }

/-- MCA_CTL.ENABLE (R373, R370): 0 starts draining; 1 is ignored while draining, and once the firmware has disabled the cache. -/
def writeEnable (on : Bool) (d : Dev) : Dev :=
  if !on then startDrain d
  else if d.mca.draining || d.mca.parityOff then d
  else onMca (fun m => { m with enabled := true }) d

/-- EVR_RATE[n] (R417): the bucket starts full, and SUPPRESSED goes on. -/
def writeRate (n v : Nat) (d : Dev) : Dev :=
  let old := ((tget d.evr.buckets n).map (·.suppressed)).getD 0
  let b : Bucket := { Bucket.full (bits v 15 0) (bits v 23 16) (bits v 31 24) with at_ := d.now, suppressed := old }
  onEvr (fun e => { e with buckets := tput e.buckets n b }) d

/-- MCA_RAT[n] takes effect once every line of its old range and of its new range is cleaned and invalidated (R470); an entry that
overlaps a ring or the stripe area is invalid (R383). -/
def writeRegion (n v : Nat) (s : State) : State :=
  if overlaps v then s
  else
    let old := tgetD s.dev.regs.rat 0 n
    let new : W128 := BitVec.ofNat 128 v
    let p (line : Nat) : Bool := ratHolds old line || ratHolds new line
    let s1 := dropLines p (cleanLines p s)
    { s1 with dev := onRegs (fun r => { r with rat := tput r.rat n new }) s1.dev }

/-- A register takes a value. -/
def storeReg (r : SetReg) (v : Nat) (d : Dev) : Dev :=
  let w : W32 := BitVec.ofNat 32 v
  let x : W64 := BitVec.ofNat 64 v
  match r with
  | .scratch => onRegs (fun y => { y with scratch := x }) d
  | .lock => if d.running then lockWrite w nothingRead [] d else d
  | .hifCfg => onRegs (fun y => { y with hifCfg := w }) d
  | .adminSq => onRegs (fun y => { y with adminSq := x }) d
  | .adminCq => onRegs (fun y => { y with adminCq := x }) d
  | .adminCtl => writeAdminCtl w d
  | .dbPage n => onRegs (fun y => { y with dbPage := tput y.dbPage n x }) d
  | .slCfg => onRegs (fun y => { y with slCfg := w }) d
  | .rateCap g => onRegs (fun y => { y with rateCap := y.rateCap.put g w }) d
  | .pipeCfg g => onRegs (fun y => { y with pipeCfg := y.pipeCfg.put g w }) d
  | .vltCfg => onRegs (fun y => { y with vltCfg := w }) d
  | .maintCfg => onRegs (fun y => { y with maintCfg := w }) d
  | .dpCfg => dpCfgWrite w [] d
  | .rdmaCfg => onRegs (fun y => { y with rdmaCfg := w }) d
  | .qpcBase => onRegs (fun y => { y with qpcBase := x }) d
  | .winBase => onRegs (fun y => { y with winBase := x }) d
  | .qpDb n => onRegs (fun y => { y with qpDb := tput y.qpDb n x }) d
  | .mac n => onRegs (fun y => { y with mac := tput y.mac n x }) d
  | .ip n => onRegs (fun y => { y with ip := tput y.ip n (BitVec.ofNat 128 v) }) d
  | .ihCfg => onRegs (fun y => { y with ihCfg := w }) d
  | .ciphCfg => onRegs (fun y => { y with ciphCfg := w }) d
  | .dgstCfg => onRegs (fun y => { y with dgstCfg := w }) d
  | .mcaCtl => writeEnable (bitOf v 0) d
  | .hbmCfg => onRegs (fun y => { y with hbmCfg := w }) d
  | .wayMask n => onRegs (fun y => { y with wayMask := tput y.wayMask n w }) d
  | .rat _ => d
  | .cursor => d
  | .rate n => writeRate n v d
  | .mntCfg => onRegs (fun y => { y with mntCfg := w }) d
  | .secCtl => if bitOf v 0 then closeJtag d else d

/-- Whether a register's block and access code let a write in now (R452, R456, R460, R472). -/
def Dev.opens (d : Dev) : SetReg → Bool
  | .scratch => d.barFree
  | .cursor => d.barFree
  | .lock => d.barWrites
  | .hifCfg => d.hifReach && !d.glb.hifLocked
  | .adminSq => d.hifReach && !d.glb.hifLocked
  | .adminCq => d.hifReach && !d.glb.hifLocked
  | .adminCtl => d.hifReach && !d.glb.hifLocked
  | .dbPage _ => d.hifReach && !d.glb.hifLocked
  | .dpCfg => d.barWrites
  | _ => d.barWrites && !d.glb.locked

/-- The register at a slot takes its new value. -/
def putReg (r : SetReg) (addr size : Nat) (value : W64) (v : Nat) (s : State) : State :=
  match r with
  | .rat n => writeRegion n v s
  | .cursor => { s with dev := writeCursor addr size value s.dev }
  | _ => { s with dev := storeReg r v s.dev }

/-- The bits of the fields that a mask holds whole. -/
def wholeFields (r : SetReg) (mask : Nat) : Nat :=
  ((fieldsOf r).map (fun f => if inMask mask f.1 f.2 then (2 ^ (f.1 + 1 - f.2) - 1) * 2 ^ f.2 else 0)).sum

/-- The bits of a wide register that one write of `size` bytes carries: of a 4-byte write those of the fields that it holds whole (R450). -/
def carriedBits (r : SetReg) (size mask : Nat) : Nat := if size = 8 then mask else wholeFields r mask

/-- The low half of a wide register is staged, with a mask of the bits that it has (R450). -/
def stageLow (key mask v : Nat) (d : Dev) : Dev :=
  let old := tgetD d.regs.staged (0, 0) key
  let m : W64 := BitVec.ofNat 64 mask
  onRegs (fun y => { y with staged := tput y.staged key (old.1 &&& ~~~m ||| (BitVec.ofNat 64 v &&& m), old.2 ||| m) }) d

/-- A BAR0 write of 4 or 8 bytes, aligned to its size; any other, and one to an offset with no writable field, is ignored (R449, R450). -/
def barWrite (addr size : Nat) (value : W64) (s : State) : State :=
  if (size = 4 ∨ size = 8) ∧ addr % size = 0 then
    match regAt (addr / 8 * 8) with
    | none => s
    | some r =>
      let mask := (2 ^ (8 * size) - 1) * 2 ^ (addr % 8 * 8)
      let v := value.toNat % 2 ^ (8 * size) * 2 ^ (addr % 8 * 8)
      if !s.dev.opens r then s
      else if wide r then
        let key := addr / 16 * 16
        if addr % 16 < 8 then { s with dev := stageLow key (carriedBits r size mask) v s.dev }
        else
          let low := tgetD s.dev.regs.staged (0, 0) key
          let m := carriedBits r size (mask * 2 ^ 64) + low.2.toNat
          let s1 := { s with dev := onRegs (fun y => { y with staged := tdel y.staged key }) s.dev }
          if touches r m then putReg r addr size value (s1.dev.merged r m (v * 2 ^ 64 + low.1.toNat)) s1 else s1
      else if touches r mask then putReg r addr size value (s.dev.merged r mask v) s
      else s
  else s

/-- REGISTER_WRITE: a register that has a row of its own is written as that row says. -/
def execRegisterWrite (addr : BitVec 26) (size : Nat) (value : W64) (s : State) : Host.Outcome State Fault Refusal :=
  .next (barWrite addr.toNat size value s)

/-- Whether an address lies in the region table or the way masks. -/
def regionAddr (addr : Nat) : Bool :=
  match regAt (addr / 8 * 8) with
  | some (.rat _) => true
  | some (.wayMask _) => true
  | _ => false

/-- REGION_TABLE_WRITE: MCA_RAT[n] or MCA_WAYMASK[c] (R470). -/
def execRegionTableWrite (addr : BitVec 26) (size : Nat) (value : W64) (s : State) : Host.Outcome State Fault Refusal :=
  .next (if regionAddr addr.toNat then barWrite addr.toNat size value s else s)

end Sys2Proof.Machine
end

