-- ==== Sys2Proof/Machine/RegMap.lean ====
section
/-! DEFINITION. The set-up register map as a BAR0 read finds it (R408, R449, R453, R462, R468): the 8 bytes of each slot. -/

namespace Sys2Proof.Machine
open Sys2Proof

/-- One of a list of values, by a register row's index. -/
def pick (l : List W64) (n : Option Nat) : Option W64 := n.map (fun i => (l[i]?).getD 0)

/-- The bytes `8 i` to `8 i + 7` of a byte string, as a slot reads them. -/
def slotOf (l : List Byte) (i : Nat) : W64 := reg (fieldAt l (8 * i) 8)

/-- A group's row of registers. -/
def gRow (base stride slot : Nat) (f : Fin 4 → W64) : Option W64 :=
  (nth base stride 4 slot).bind (fun n => if h : n < 4 then some (f ⟨n, h⟩) else none)

/-- GLB. -/
def Dev.readGlb (d : Dev) (o : Nat) : Option W64 := pick [d.glbId, d.glbStatus, 0, d.glbPins, d.regs.scratch] (nth 0 8 5 o)

/-- HIF. -/
def Dev.readHif (d : Dev) (o : Nat) : Option W64 :=
  let h := d.hif
  (pick [d.regs.hifCfg.setWidth 64, d.regs.adminSq, d.regs.adminCq, d.regs.adminCtl.setWidth 64, d.hifStatus] (nth 0 8 5 o)).orElse fun _ =>
  ((nth 0x40 8 8 o).map (fun n => tgetD d.regs.dbPage 0 n)).orElse fun _ =>
  pick [h.dbReads, h.fetched, h.posted, h.msixSent, h.errors, h.gapMax] (nth 0x100 8 6 o)

/-- The ledger counters of a group at 0x1100 + 0x80 g (R462). -/
def Dev.readLedger (d : Dev) (g : Fin 4) (i : Nat) : W64 :=
  let l := d.lg.at g
  (([l.granted, l.received, l.committed, l.released, l.dropped, l.resident, l.healed, reg l.healPend, l.overrun, d.lgLimit g, d.lgExpect g,
     d.lgRing g])[i]?).getD 0

/-- A port lane's state, where it has trained. -/
def Dev.laneWord (d : Dev) (f : Lane → W64) (n : Nat) : W64 := ((tget d.sl.lanes n).map f).getD 0

/-- Drop counts by n = 16 g + reason (R79). -/
def Dev.dropWord (d : Dev) (f : Ledger → Tab W64) (n : Nat) : W64 :=
  if h : n / 16 < 4 then tgetD (f (d.lg.at ⟨n / 16, h⟩)) 0 (n % 16) else 0

/-- The counters of R70, R68, R35 and R71. -/
def Dev.readSlCount (d : Dev) (o : Nat) : Option W64 :=
  let grp (f : Group → W64) (g : Fin 4) : W64 := f (d.sl.groups.at g)
  (gRow 0x800 8 o (grp (·.hdrErr))).orElse fun _ =>
  (gRow 0x820 8 o (grp (·.pktBad))).orElse fun _ =>
  (gRow 0x840 8 o (grp (·.pktCrcErr))).orElse fun _ =>
  (gRow 0x860 8 o (grp (·.dup))).orElse fun _ =>
  (gRow 0x880 8 o (grp (·.contractViol))).orElse fun _ => gRow 0x8A0 8 o (grp (·.retrainCnt))

/-- SL's set-up registers, groups and lanes. -/
def Dev.readSlLink (d : Dev) (o : Nat) : Option W64 :=
  (pick [d.regs.slCfg.setWidth 64] (nth 0 8 1 o)).orElse fun _ =>
  (gRow 0x8 8 o (fun g => (d.regs.rateCap.at g).setWidth 64)).orElse fun _ =>
  (gRow 0x40 8 o d.slStatus).orElse fun _ =>
  (gRow 0x60 8 o d.partnerId).orElse fun _ =>
  ((nth 0x100 8 64 o).map (d.laneWord Lane.eq)).orElse fun _ =>
  ((nth 0x400 8 64 o).map (d.laneWord (·.fecCorr))).orElse fun _ =>
  (nth 0x600 8 64 o).map (d.laneWord (·.fecUncorr))

/-- The ledger's rows, 0x80 bytes for each group. -/
def Dev.readLgRow (d : Dev) (o : Nat) : Option W64 :=
  (nth 0x1100 8 64 o).bind (fun n => if h : n / 16 < 4 then (if n % 16 < 12 then some (d.readLedger ⟨n / 16, h⟩ (n % 16)) else none) else none)

/-- SL. -/
def Dev.readSl (d : Dev) (o : Nat) : Option W64 :=
  (d.readSlLink o).orElse fun _ =>
  (d.readSlCount o).orElse fun _ =>
  (pick [d.audit.word.setWidth 64] (nth 0x1000 8 1 o)).orElse fun _ =>
  (d.readLgRow o).orElse fun _ =>
  ((nth 0x1400 8 64 o).map (d.dropWord (·.drops))).orElse fun _ => (nth 0x1600 8 64 o).map (d.dropWord (·.dropBytes))

/-- PIPE, instance `g`. -/
def Dev.readPipe (d : Dev) (g : Fin 4) (o : Nat) : Option W64 :=
  let p := d.pipes.at g
  (pick [(d.regs.pipeCfg.at g).setWidth 64] (nth 0 8 1 o)).orElse fun _ =>
  pick [p.tilesEnc, p.tilesPred, p.tilesLzb, p.tilesRaw, p.fallback, p.dedupHit, p.bytesRaw, p.bytesStored, p.tilesDec, p.decFail]
    (nth 0x100 8 10 o)

/-- VLT. -/
def Dev.readVlt (d : Dev) (o : Nat) : Option W64 :=
  let c := d.vcnt
  (pick [d.regs.vltCfg.setWidth 64, d.regs.maintCfg.setWidth 64, d.vltStatus] (nth 0 8 3 o)).orElse fun _ =>
  ((nth 0x100 8 48 o).map d.driveState).orElse fun _ =>
  pick [c.retired, c.adopted, c.discarded, c.recon, c.repairs, c.lost, c.rebuilt, c.scrubbed, c.lags, reg d.vault.live] (nth 0x400 8 10 o)

/-- DP. -/
def Dev.readDp (d : Dev) (o : Nat) : Option W64 :=
  (pick [d.regs.dpCfg.setWidth 64] (nth 0 8 1 o)).orElse fun _ => (nth 0x100 8 48 o).map (fun n => Machine.portStatus (d.drive n))

/-- ETH. -/
def Dev.readEth (d : Dev) (o : Nat) : Option W64 :=
  let c := d.rcnt
  let i := d.ih
  (pick [d.regs.rdmaCfg.setWidth 64, d.regs.qpcBase, d.regs.winBase] (nth 0 8 3 o)).orElse fun _ =>
  ((nth 0x100 8 32 o).map (fun n => tgetD d.regs.qpDb 0 n)).orElse fun _ =>
  ((nth 0x200 8 64 o).map d.ask).orElse fun _ =>
  ((nth 0x400 8 2 o).map (fun n => tgetD d.regs.mac 0 n)).orElse fun _ =>
  ((nth 0x480 8 2 o).map d.portStatus).orElse fun _ =>
  ((nth 0x500 8 32 o).map (fun n => slotOf (wordBytes (tgetD d.regs.ip 0 (n / 2))) (n % 2))).orElse fun _ =>
  (pick [c.ctxMiss, c.ctxEvict, c.parked, c.rnrSent, c.dupAck, c.seqNak, c.accessNak, c.noQp, c.badOp, c.cnpSent, c.cnpRcvd, c.tilesSent,
    c.held, c.tilesRcvd] (nth 0x700 8 14 o)).orElse fun _ =>
  (pick [d.regs.ihCfg.setWidth 64, d.ihStatus, d.ihOwner, d.tango.key] (nth 0x8000 8 4 o)).orElse fun _ =>
  pick [i.hbSent, i.hbMissed, i.takeovers, i.stepdowns, i.handovers, i.roleDiscard, i.authFail, i.mirrorPlaced, i.healServed, i.feedMismatch]
    (nth 0x8100 8 10 o)

/-- CIPH. -/
def Dev.readCiph (d : Dev) (o : Nat) : Option W64 :=
  (pick [d.regs.ciphCfg.setWidth 64] (nth 0 8 1 o)).orElse fun _ =>
  (pick [d.drbgStat] (nth 0x100 8 1 o)).orElse fun _ =>
  ((nth 0x1000 8 64 o).map d.pageInfo).orElse fun _ => (nth 0x1400 8 64 o).map d.pageCtr

/-- DGST: a register's 48 bytes, byte 0 of the digest first, then zeros (R169). -/
def Dev.readDgst (d : Dev) (o : Nat) : Option W64 :=
  (pick [d.regs.dgstCfg.setWidth 64, d.ctxFree] (nth 0 8 2 o)).orElse fun _ =>
  ((nth 0x100 8 256 o).map (fun n => slotOf (beBytes (d.mr (n / 8))) (n % 8))).orElse fun _ => (nth 0x900 8 32 o).map d.mrInfo

/-- MCA. -/
def Dev.readMca (d : Dev) (o : Nat) : Option W64 :=
  let m := d.mca
  (pick [d.mcaCtl, d.regs.hbmCfg.setWidth 64] (nth 0 8 2 o)).orElse fun _ =>
  ((nth 0x100 8 8 o).map (fun n => (tgetD d.regs.wayMask 0 n).setWidth 64)).orElse fun _ =>
  ((nth 0x200 8 16 o).map (fun n =>
    if n % 2 = 0 then reg (d.hbmKind (n / 2))
    else if n = 1 ∨ d.hbmKind (n / 2) = 0 then 0 else Config.hbmBase d.ringSizes (n / 2))).orElse fun _ =>
  ((nth 0x300 8 8 o).map (fun n => BitVec.ofNat 64 (d.hbmLen n))).orElse fun _ =>
  ((nth 0x1000 8 128 o).map (fun n => slotOf (wordBytes (tgetD d.regs.rat 0 (n / 2))) (n % 2))).orElse fun _ =>
  (pick [m.hits, m.misses, m.writebacks, m.parityClean, m.maintOps, m.hbmCe, m.hbmUe, m.passes] (nth 0x2000 8 8 o)).orElse fun _ =>
  (nth 0x2100 8 64 o).map (fun n => tgetD m.cePc 0 n)

/-- EVR. -/
def Dev.readEvr (d : Dev) (o : Nat) : Option W64 :=
  (pick [d.evrStatus, reg (d.evr.norHead % 16384), d.evr.norSkipped, d.evrCursor] (nth 0 8 4 o)).orElse fun _ =>
  ((nth 0x40 8 8 o).map (slotOf d.evr.window)).orElse fun _ => (nth 0x1000 8 256 o).map d.evrRate

/-- BPM, DMA, MNT, BOOT and SEC, by block base. -/
def Dev.readRest (d : Dev) (base o : Nat) : Option W64 :=
  match base with
  | 0x800000 => ((nth 0x100 8 32 o).map d.poolInfo).orElse fun _ => (nth 0x200 8 32 o).map d.poolPop
  | 0x900000 => ((nth 0x100 8 16 o).map d.dmaStatus).orElse fun _ => pick [d.dma.bytes] (nth 0x400 8 1 o)
  | 0xA00000 => pick [d.regs.mntCfg.setWidth 64, d.mntVdd, d.mntMargin, d.mntTemp, d.mntEye, d.mntOpTime] (nth 0 8 6 o)
  | 0xB00000 => (pick [d.bootStatus] (nth 0 8 1 o)).orElse fun _ => (nth 0x100 8 2 o).map d.slotInfo
  | 0xC00000 => (pick [Config.serial, d.secState, 0] (nth 0 8 3 o)).orElse fun _ => (nth 0x4000 8 2048 o).map (slotOf d.identityArea)
  | _ => none

/-- The blocks of BAR0, by base. -/
def Dev.readSlot (d : Dev) (a : Nat) : Option W64 :=
  if a < 0x100000 then d.readGlb a
  else if a < 0x200000 then d.readHif (a - 0x100000)
  else if a < 0x300000 then d.readSl (a - 0x200000)
  else if h : a < 0x400000 then
    d.readPipe ⟨(a - 0x300000) / 0x40000, by omega⟩ ((a - 0x300000) % 0x40000)
  else if a < 0x500000 then d.readVlt (a - 0x400000)
  else if a < 0x600000 then d.readDp (a - 0x500000)
  else if a < 0x700000 then d.readEth (a - 0x600000)
  else if a < 0x780000 then d.readCiph (a - 0x700000)
  else if a < 0x800000 then d.readDgst (a - 0x780000)
  else if a < 0x880000 then d.readRest 0x800000 (a - 0x800000)
  else if a < 0x900000 then d.readMca (a - 0x880000)
  else if a < 0x980000 then d.readRest 0x900000 (a - 0x900000)
  else if a < 0xA00000 then d.readEvr (a - 0x980000)
  else if a < 0xB00000 then d.readRest 0xA00000 (a - 0xA00000)
  else if a < 0xC00000 then d.readRest 0xB00000 (a - 0xB00000)
  else d.readRest 0xC00000 (a - 0xC00000)

/-- The 8 bytes of the slot at a BAR0 offset; an offset that holds no register reads as zero (R8). -/
def Dev.bar0 (d : Dev) (a : Nat) : W64 := (d.readSlot (a / 8 * 8)).getD 0

end Sys2Proof.Machine
end

