-- ==== Sys2Proof/Machine/Dispatch.lean ====
section
/-! DEFINITION. What each command does: one arm for each constructor of Instr, each a direct call of its meaning. -/

namespace Sys2Proof.Machine
open Sys2Proof

def exec (i : Instr) (s : State) : Host.Outcome State Fault Refusal :=
  match i with
  | .registerWrite addr size value => Sys2Proof.Machine.execRegisterWrite addr size value s
  | .glbLock value t dumps => Sys2Proof.Machine.execGlbLock value t dumps s
  | .dpCfgWrite value drives => Sys2Proof.Machine.execDpCfgWrite value drives s
  | .adminEnable value => Sys2Proof.Machine.execAdminEnable value s
  | .adminStop value => Sys2Proof.Machine.execAdminStop value s
  | .regionTableWrite addr size value => Sys2Proof.Machine.execRegionTableWrite addr size value s
  | .cacheDisable => Sys2Proof.Machine.execCacheDisable s
  | .cacheDrainDone => Sys2Proof.Machine.execCacheDrainDone s
  | .evrCursorWrite addr size value => Sys2Proof.Machine.execEvrCursorWrite addr size value s
  | .evrWindowRead addr size => Sys2Proof.Machine.execEvrWindowRead addr size s
  | .jtagClose value => Sys2Proof.Machine.execJtagClose value s
  | .porNAssert => Sys2Proof.Machine.execPorNAssert s
  | .porNDeassert pins => Sys2Proof.Machine.execPorNDeassert pins s
  | .bootPwrfailHoldEnd card => Sys2Proof.Machine.execBootPwrfailHoldEnd card s
  | .perstN => Sys2Proof.Machine.execPerstN s
  | .functionLevelReset => Sys2Proof.Machine.execFunctionLevelReset s
  | .pwrfailN => Sys2Proof.Machine.execPwrfailN s
  | .supplyMonitorTrip rail => Sys2Proof.Machine.execSupplyMonitorTrip rail s
  | .dumpFreeze => Sys2Proof.Machine.execDumpFreeze s
  | .dumpBodiesDone => Sys2Proof.Machine.execDumpBodiesDone s
  | .dumpComplete => Sys2Proof.Machine.execDumpComplete s
  | .watchdog core pc => Sys2Proof.Machine.execWatchdog core pc s
  | .coreAccess core addr => Sys2Proof.Machine.execCoreAccess core addr s
  | .norPersist => Sys2Proof.Machine.execNorPersist s
  | .evrTimeMark => Sys2Proof.Machine.execEvrTimeMark s
  | .auditTick => Sys2Proof.Machine.execAuditTick s
  | .trainingFrame g lane control status inverted => Sys2Proof.Machine.execTrainingFrame g lane control status inverted s
  | .codewordLock g => Sys2Proof.Machine.execCodewordLock g s
  | .linkUpTimeout g linkStep => Sys2Proof.Machine.execLinkUpTimeout g linkStep s
  | .capOffer g p => Sys2Proof.Machine.execCapOffer g p s
  | .capGrant g p => Sys2Proof.Machine.execCapGrant g p s
  | .capOfferRepeat g => Sys2Proof.Machine.execCapOfferRepeat g s
  | .packetReceive g p => Sys2Proof.Machine.execPacketReceive g p s
  | .uncorrectableCodeword g lane j rx => Sys2Proof.Machine.execUncorrectableCodeword g lane j rx s
  | .fecRetrain g lane => Sys2Proof.Machine.execFecRetrain g lane s
  | .hdrCrcRetrain g => Sys2Proof.Machine.execHdrCrcRetrain g s
  | .lossOfSignal g lane => Sys2Proof.Machine.execLossOfSignal g lane s
  | .capTimeout g => Sys2Proof.Machine.execCapTimeout g s
  | .creditThreshold g => Sys2Proof.Machine.execCreditThreshold g s
  | .creditDelay g => Sys2Proof.Machine.execCreditDelay g s
  | .creditKeepalive g => Sys2Proof.Machine.execCreditKeepalive g s
  | .credit g p => Sys2Proof.Machine.execCredit g p s
  | .stopReqRepeat g => Sys2Proof.Machine.execStopReqRepeat g s
  | .stopDone g p => Sys2Proof.Machine.execStopDone g p s
  | .stopTimeout g => Sys2Proof.Machine.execStopTimeout g s
  | .stopReq g p => Sys2Proof.Machine.execStopReq g p s
  | .roleChangeApply => Sys2Proof.Machine.execRoleChangeApply s
  | .moverCopy g => Sys2Proof.Machine.execMoverCopy g s
  | .healRepeat g => Sys2Proof.Machine.execHealRepeat g s
  | .healDeadline g => Sys2Proof.Machine.execHealDeadline g s
  | .tileEncode g => Sys2Proof.Machine.execTileEncode g s
  | .referenceSealTimer g => Sys2Proof.Machine.execReferenceSealTimer g s
  | .referenceSealCount g => Sys2Proof.Machine.execReferenceSealCount g s
  | .stripeIssue => Sys2Proof.Machine.execStripeIssue s
  | .stripWriteComplete jseq member => Sys2Proof.Machine.execStripWriteComplete jseq member s
  | .stripWriteFail jseq member status => Sys2Proof.Machine.execStripWriteFail jseq member status s
  | .memberLag jseq member => Sys2Proof.Machine.execMemberLag jseq member s
  | .lagFailTimer jseq member => Sys2Proof.Machine.execLagFailTimer jseq member s
  | .reservationConflict jseq member => Sys2Proof.Machine.execReservationConflict jseq member s
  | .conflictHoldTimer slot => Sys2Proof.Machine.execConflictHoldTimer slot s
  | .driveLinkLoss slot => Sys2Proof.Machine.execDriveLinkLoss slot s
  | .driveCriticalWarning slot => Sys2Proof.Machine.execDriveCriticalWarning slot s
  | .driveReadComplete chan cols => Sys2Proof.Machine.execDriveReadComplete chan cols s
  | .writeBack slot lba ok => Sys2Proof.Machine.execWriteBack slot lba ok s
  | .scrubStripe r => Sys2Proof.Machine.execScrubStripe r s
  | .rebuildStripe r => Sys2Proof.Machine.execRebuildStripe r s
  | .copyBackChunk slot chunk members => Sys2Proof.Machine.execCopyBackChunk slot chunk members s
  | .reshapeBatch reads => Sys2Proof.Machine.execReshapeBatch reads s
  | .metadataCommit => Sys2Proof.Machine.execMetadataCommit s
  | .alloc pool ledger => Sys2Proof.Machine.execAlloc pool ledger s
  | .free pool index ledger => Sys2Proof.Machine.execFree pool index ledger s
  | .pop pool ledger => Sys2Proof.Machine.execPop pool ledger s
  | .hbmUncorrectable addr holder => Sys2Proof.Machine.execHbmUncorrectable addr holder s
  | .patrolRead err onDie holder => Sys2Proof.Machine.execPatrolRead err onDie holder s
  | .cacheParityError set way err => Sys2Proof.Machine.execCacheParityError set way err s
  | .cacheParityLimit => Sys2Proof.Machine.execCacheParityLimit s
  | .writeBufferDrain => Sys2Proof.Machine.execWriteBufferDrain s
  | .barrier journal => Sys2Proof.Machine.execBarrier journal s
  | .clean addr => Sys2Proof.Machine.execClean addr s
  | .inval addr => Sys2Proof.Machine.execInval addr s
  | .cleanInval addr => Sys2Proof.Machine.execCleanInval addr s
  | .cleanRegion entry => Sys2Proof.Machine.execCleanRegion entry s
  | .cleanInvalRegion entry => Sys2Proof.Machine.execCleanInvalRegion entry s
  | .dmaBurst hostData poisoned => Sys2Proof.Machine.execDmaBurst hostData poisoned s
  | .cipherSegmentEnd lane => Sys2Proof.Machine.execCipherSegmentEnd lane s
  | .drbgReseed inst => Sys2Proof.Machine.execDrbgReseed inst s
  | .entropyHealthFail inst => Sys2Proof.Machine.execEntropyHealthFail inst s
  | .doorbellPoll group reads => Sys2Proof.Machine.execDoorbellPoll group reads s
  | .hostAccessError what => Sys2Proof.Machine.execHostAccessError what s
  | .msixModTimer chan => Sys2Proof.Machine.execMsixModTimer chan s
  | .msixUnmask vector => Sys2Proof.Machine.execMsixUnmask vector s
  | .nop h => Sys2Proof.Machine.execNop h s
  | .channelCreate h index ctype domain sqLog2 cqLog2 vector modCount decPipe modTime group priority layout sqBase cqBase qp dbTail => Sys2Proof.Machine.execChannelCreate h index ctype domain sqLog2 cqLog2 vector modCount decPipe modTime group priority layout sqBase cqBase qp dbTail s
  | .channelDestroy h handle => Sys2Proof.Machine.execChannelDestroy h handle s
  | .abort h handle tag => Sys2Proof.Machine.execAbort h handle tag s
  | .notify h minSev => Sys2Proof.Machine.execNotify h minSev s
  | .pageAssign h page domain => Sys2Proof.Machine.execPageAssign h page domain s
  | .keyLoad h page key salt ctr => Sys2Proof.Machine.execKeyLoad h page key salt ctr s
  | .pageRekey h page key salt ctr => Sys2Proof.Machine.execPageRekey h page key salt ctr s
  | .pageErase h page => Sys2Proof.Machine.execPageErase h page s
  | .pageRelease h page => Sys2Proof.Machine.execPageRelease h page s
  | .hkeyLoad h slot domain key => Sys2Proof.Machine.execHkeyLoad h slot domain key s
  | .hkeyErase h slot => Sys2Proof.Machine.execHkeyErase h slot s
  | .mrExtend h reg value => Sys2Proof.Machine.execMrExtend h reg value s
  | .layoutLoad h layoutId recLen rec drives => Sys2Proof.Machine.execLayoutLoad h layoutId recLen rec drives s
  | .volumeCreate h volume layout encrypted dedup kcv dkcv => Sys2Proof.Machine.execVolumeCreate h volume layout encrypted dedup kcv dkcv s
  | .volumeDelete h volume => Sys2Proof.Machine.execVolumeDelete h volume s
  | .takeDelete h volume takeId segId => Sys2Proof.Machine.execTakeDelete h volume takeId segId s
  | .snapVolume h volume => Sys2Proof.Machine.execSnapVolume h volume s
  | .snapRelease h snapId => Sys2Proof.Machine.execSnapRelease h snapId s
  | .verifySeal h volume takeId segId => Sys2Proof.Machine.execVerifySeal h volume takeId segId s
  | .groupCtl h group action => Sys2Proof.Machine.execGroupCtl h group action s
  | .portRole h role => Sys2Proof.Machine.execPortRole h role s
  | .drivePort h port action info => Sys2Proof.Machine.execDrivePort h port action info s
  | .handover h groups direction => Sys2Proof.Machine.execHandover h groups direction s
  | .shutdown h => Sys2Proof.Machine.execShutdown h s
  | .fwStage h block length card sdhc => Sys2Proof.Machine.execFwStage h block length card sdhc s
  | .fwActivate h => Sys2Proof.Machine.execFwActivate h s
  | .fwRunning => Sys2Proof.Machine.execFwRunning s
  | .activationTimeout partnerSilent t => Sys2Proof.Machine.execActivationTimeout partnerSilent t s
  | .fwConfirm h => Sys2Proof.Machine.execFwConfirm h s
  | .attestQuote h nonce outAddr outLen => Sys2Proof.Machine.execAttestQuote h nonce outAddr outLen s
  | .takeOpen h r => Sys2Proof.Machine.execTakeOpen h r s
  | .takeClose h takeId mode successor closeTime => Sys2Proof.Machine.execTakeClose h takeId mode successor closeTime s
  | .trigger h takeId trigId time sinceLanding => Sys2Proof.Machine.execTrigger h takeId trigId time sinceLanding s
  | .resume h groups => Sys2Proof.Machine.execResume h groups s
  | .stop h groups => Sys2Proof.Machine.execStop h groups s
  | .snapTake h takeId => Sys2Proof.Machine.execSnapTake h takeId s
  | .read h volume kind part target segId flags group digest first count reportLen dest report digestOut => Sys2Proof.Machine.execRead h volume kind part target segId flags group digest first count reportLen dest report digestOut s
  | .play h volume kind part target segId flags recGroup pace first frames gsnBase frameBase timeBase => Sys2Proof.Machine.execPlay h volume kind part target segId flags recGroup pace first frames gsnBase frameBase timeBase s
  | .copy h source dest length space digest slot digestOut => Sys2Proof.Machine.execCopy h source dest length space digest slot digestOut s
  | .replSend h volume kind part target segId fpExchange targetVol first entries batch => Sys2Proof.Machine.execReplSend h volume kind part target segId fpExchange targetVol first entries batch s
  | .replAccept h volume takeId => Sys2Proof.Machine.execReplAccept h volume takeId s
  | .scrubCtl h action => Sys2Proof.Machine.execScrubCtl h action s
  | .reshape h volume target method => Sys2Proof.Machine.execReshape h volume target method s
  | .driveAdmit h slot info => Sys2Proof.Machine.execDriveAdmit h slot info s
  | .driveReplace h slot info => Sys2Proof.Machine.execDriveReplace h slot info s
  | .driveFail h slot => Sys2Proof.Machine.execDriveFail h slot s
  | .layoutScan h reads => Sys2Proof.Machine.execLayoutScan h reads s
  | .trigIn sinceLanding => Sys2Proof.Machine.execTrigIn sinceLanding s
  | .trigOutEnd => Sys2Proof.Machine.execTrigOutEnd s
  | .heartbeatTimer => Sys2Proof.Machine.execHeartbeatTimer s
  | .heartbeat e b => Sys2Proof.Machine.execHeartbeat e b s
  | .heartbeatMissed => Sys2Proof.Machine.execHeartbeatMissed s
  | .partnerSilent t => Sys2Proof.Machine.execPartnerSilent t s
  | .fenceRetry t => Sys2Proof.Machine.execFenceRetry t s
  | .hello e m => Sys2Proof.Machine.execHello e m s
  | .helloRetry => Sys2Proof.Machine.execHelloRetry s
  | .keyConfirm e => Sys2Proof.Machine.execKeyConfirm e s
  | .tangoQpError qp => Sys2Proof.Machine.execTangoQpError qp s
  | .startupWaitExpiry t dumps => Sys2Proof.Machine.execStartupWaitExpiry t dumps s
  | .linkInfo e link => Sys2Proof.Machine.execLinkInfo e link s
  | .ownerTable e owners => Sys2Proof.Machine.execOwnerTable e owners s
  | .ownerAck e owners => Sys2Proof.Machine.execOwnerAck e owners s
  | .handoverReq e groups direction => Sys2Proof.Machine.execHandoverReq e groups direction s
  | .handoverReady e groups => Sys2Proof.Machine.execHandoverReady e groups s
  | .handoverState e cuts chains => Sys2Proof.Machine.execHandoverState e cuts chains s
  | .handoverDone e commits => Sys2Proof.Machine.execHandoverDone e commits s
  | .handoverTimeout t => Sys2Proof.Machine.execHandoverTimeout t s
  | .leaving e cause t => Sys2Proof.Machine.execLeaving e cause t s
  | .frozen e lastJseq t => Sys2Proof.Machine.execFrozen e lastJseq t s
  | .takePart e r kcv dkcv takeId part => Sys2Proof.Machine.execTakePart e r kcv dkcv takeId part s
  | .takePartAck e takeId part status => Sys2Proof.Machine.execTakePartAck e takeId part status s
  | .triggerFwd e r takeId segId => Sys2Proof.Machine.execTriggerFwd e r takeId segId s
  | .driveNotice e slot action => Sys2Proof.Machine.execDriveNotice e slot action s
  | .claimVerdict e layout period jseq refused => Sys2Proof.Machine.execClaimVerdict e layout period jseq refused s
  | .checkpointTimer => Sys2Proof.Machine.execCheckpointTimer s
  | .ckptDone e buffer c => Sys2Proof.Machine.execCkptDone e buffer c s
  | .healReq e reqId g count first streamId => Sys2Proof.Machine.execHealReq e reqId g count first streamId s
  | .healDone e reqId g count first held slots => Sys2Proof.Machine.execHealDone e reqId g count first held slots s
  | .mirrorRec e r st crcOk => Sys2Proof.Machine.execMirrorRec e r st crcOk s
  | .mirrorAck e jseq => Sys2Proof.Machine.execMirrorAck e jseq s
  | .nak e kind reason owners => Sys2Proof.Machine.execNak e kind reason owners s
  | .ledger e ents => Sys2Proof.Machine.execLedger e ents s
  | .standbyReady => Sys2Proof.Machine.execStandbyReady s
  | .qpContextChange qp gen host windows => Sys2Proof.Machine.execQpContextChange qp gen host windows s
  | .qpNop qp wr => Sys2Proof.Machine.execQpNop qp wr s
  | .qpSend qp wr => Sys2Proof.Machine.execQpSend qp wr s
  | .qpWrite qp wr => Sys2Proof.Machine.execQpWrite qp wr s
  | .qpWriteImm qp wr => Sys2Proof.Machine.execQpWriteImm qp wr s
  | .qpRead qp wr => Sys2Proof.Machine.execQpRead qp wr s
  | .qpFlush qp wr => Sys2Proof.Machine.execQpFlush qp wr s
  | .qpWait qp wr => Sys2Proof.Machine.execQpWait qp wr s
  | .rdmaRequest r => Sys2Proof.Machine.execRdmaRequest r s
  | .rdmaAck qp psn data => Sys2Proof.Machine.execRdmaAck qp psn data s
  | .rdmaNak qp psn code => Sys2Proof.Machine.execRdmaNak qp psn code s
  | .rdmaAckTimeout qp => Sys2Proof.Machine.execRdmaAckTimeout qp s
  | .rnrRetryTimer qp => Sys2Proof.Machine.execRnrRetryTimer qp s
  | .cnp qp => Sys2Proof.Machine.execCnp qp s
  | .cnpRateTimer qp => Sys2Proof.Machine.execCnpRateTimer qp s
  | .contextFetchDone qp => Sys2Proof.Machine.execContextFetchDone qp s
  | .rHello chan m => Sys2Proof.Machine.execRHello chan m s
  | .rConfirm chan auth => Sys2Proof.Machine.execRConfirm chan auth s
  | .offer chan o => Sys2Proof.Machine.execOffer chan o s
  | .acceptTimeout chan => Sys2Proof.Machine.execAcceptTimeout chan s
  | .accept chan status nextEntry => Sys2Proof.Machine.execAccept chan status nextEntry s
  | .fpBatch chan first lookup entries => Sys2Proof.Machine.execFpBatch chan first lookup entries s
  | .held chan first bitmap => Sys2Proof.Machine.execHeld chan first bitmap s
  | .tile chan entry stored => Sys2Proof.Machine.execTile chan entry stored s
  | .commit chan entries => Sys2Proof.Machine.execCommit chan entries s
  | .replCommitTimer chan => Sys2Proof.Machine.execReplCommitTimer chan s
  | .close chan total => Sys2Proof.Machine.execClose chan total s
  | .closed chan total => Sys2Proof.Machine.execClosed chan total s
  | .error chan entry status => Sys2Proof.Machine.execError chan entry status s
  | .earlyWarning replica avs => Sys2Proof.Machine.execEarlyWarning replica avs s
  | .replan r avs => Sys2Proof.Machine.execReplan r avs s
  | .vddStepDown avs => Sys2Proof.Machine.execVddStepDown avs s
  | .avsRetry avs => Sys2Proof.Machine.execAvsRetry avs s
  | .sensorRead r => Sys2Proof.Machine.execSensorRead r s
  | .thermalSample diodes => Sys2Proof.Machine.execThermalSample diodes s
  | .thermalTrip diode celsius => Sys2Proof.Machine.execThermalTrip diode celsius s
  | .pcieMargin port margin => Sys2Proof.Machine.execPcieMargin port margin s
  | .eyeScan ethernet lane height width => Sys2Proof.Machine.execEyeScan ethernet lane height width s
  | .i2cIndexWrite bytes => Sys2Proof.Machine.execI2cIndexWrite bytes s
  | .i2cRead count => Sys2Proof.Machine.execI2cRead count s
  | .perstNDeassert => Sys2Proof.Machine.execPerstNDeassert s
  | .driveAdminCommandComplete slot r => Sys2Proof.Machine.execDriveAdminCommandComplete slot r s
  | .stagingComplete outcome img => Sys2Proof.Machine.execStagingComplete outcome img s
  | .drivePortRetrain slot rateGT lanes => Sys2Proof.Machine.execDrivePortRetrain slot rateGT lanes s
  | .ethPortLinkChange port up fecLock => Sys2Proof.Machine.execEthPortLinkChange port up fecLock s
  | .playPaceTimer chan => Sys2Proof.Machine.execPlayPaceTimer chan s

end Sys2Proof.Machine
end

