-- ==== Sys2Proof/Safety.lean ====
section
/-! DEFINITION. What counts as a safe run, and the words that statements are made of: which parts of the head a command
leaves alone, when a descriptor starts, and that its entry is written. -/

namespace Sys2Proof.Machine
open Sys2Proof

/-! ## Safe runs -/

/-- A command that cannot fault: it names no address beyond the HBM space (R354). -/
def Dev.sound : Instr → Bool
  | .clean a => decide (a < hbmSize)
  | .inval a => decide (a < hbmSize)
  | .cleanInval a => decide (a < hbmSize)
  | _ => true

/-- What every step keeps: HBM stands in its canonical form. -/
def State.Inv (s : State) : Prop := Memory.wf s.hbm = true

/-- A step goes on to a next state. -/
def State.goesOn (s : State) : Prop := ∃ t, step s = .next t

/-! ## The parts of the head -/

/-- The fields of Dev. -/
inductive Blk where
  | out | now | free | glb | regs | sl | lg | audit | pipes | vault | vcnt | cat | disk | ciph | dgst | hif | tango | ih
  | rdma | rcnt | repl | bpm | mca | dma | evr | mnt | boot
deriving DecidableEq, Repr

/-- Two heads agree in a part. -/
def Blk.same (k : Blk) (a b : Dev) : Prop :=
  match k with
  | .out => b.out = a.out
  | .now => b.now = a.now
  | .free => b.free = a.free
  | .glb => b.glb = a.glb
  | .regs => b.regs = a.regs
  | .sl => b.sl = a.sl
  | .lg => b.lg = a.lg
  | .audit => b.audit = a.audit
  | .pipes => b.pipes = a.pipes
  | .vault => b.vault = a.vault
  | .vcnt => b.vcnt = a.vcnt
  | .cat => b.cat = a.cat
  | .disk => b.disk = a.disk
  | .ciph => b.ciph = a.ciph
  | .dgst => b.dgst = a.dgst
  | .hif => b.hif = a.hif
  | .tango => b.tango = a.tango
  | .ih => b.ih = a.ih
  | .rdma => b.rdma = a.rdma
  | .rcnt => b.rcnt = a.rcnt
  | .repl => b.repl = a.repl
  | .bpm => b.bpm = a.bpm
  | .mca => b.mca = a.mca
  | .dma => b.dma = a.dma
  | .evr => b.evr = a.evr
  | .mnt => b.mnt = a.mnt
  | .boot => b.boot = a.boot

/-- `b` differs from `a` in the parts `but` at most. -/
def Keeps (but : List Blk) (a b : Dev) : Prop := ∀ k : Blk, k ∉ but → k.same a b

/-- `t` differs from `s` in the parts `but` of the head at most: its queue and every byte of HBM are as they were. -/
def State.Keeps (but : List Blk) (s t : State) : Prop :=
  Sys2Proof.Machine.Keeps but s.dev t.dev ∧ (∀ a, memRead t.hbm a = memRead s.hbm a) ∧ t.pending = s.pending

/-! ## What a command can change -/

/-- The parts of the head that a command can change. Every part that is not listed is left as it was. -/
def Blk.touched : Instr → List Blk
  | .registerWrite .. | .regionTableWrite .. =>
      [.out, .free, .glb, .regs, .sl, .lg, .pipes, .vault, .vcnt, .cat, .disk, .ciph, .dgst, .hif, .tango, .repl, .bpm,
        .mca, .dma, .evr, .boot]
  | .glbLock .. =>
      [.out, .free, .glb, .regs, .sl, .lg, .pipes, .vault, .vcnt, .cat, .disk, .ciph, .dgst, .hif, .tango, .repl, .bpm,
        .mca, .dma, .evr]
  | .dpCfgWrite .. => [.out, .glb, .regs, .vault, .cat, .disk, .ciph, .hif, .tango, .dma, .evr]
  | .adminEnable .. | .adminStop .. => [.out, .regs, .cat, .hif, .dma]
  | .cacheDisable => [.mca]
  | .cacheDrainDone | .writeBufferDrain | .clean .. | .inval .. | .cleanInval .. | .cleanRegion .. | .cleanInvalRegion .. =>
      [.out, .free, .mca]
  | .evrCursorWrite .. => [.evr]
  | .evrWindowRead .. | .norPersist => [.out, .evr]
  | .jtagClose .. | .i2cIndexWrite .. => [.boot]
  | .porNAssert =>
      [.now, .glb, .regs, .sl, .lg, .audit, .pipes, .vault, .vcnt, .cat, .ciph, .dgst, .hif, .tango, .ih, .rdma, .rcnt,
        .repl, .bpm, .mca, .dma, .evr, .mnt, .boot]
  | .porNDeassert .. => [.out, .now, .free, .glb, .cat, .dgst, .hif, .dma, .evr, .mnt, .boot]
  | .bootPwrfailHoldEnd .. => [.out, .free, .glb, .cat, .dgst, .hif, .dma, .evr, .mnt, .boot]
  | .perstN | .functionLevelReset =>
      [.out, .free, .glb, .regs, .sl, .lg, .pipes, .vault, .cat, .disk, .ciph, .dgst, .hif, .tango, .rdma, .repl, .bpm,
        .mca, .dma, .evr, .boot]
  | .pwrfailN | .supplyMonitorTrip .. | .dumpFreeze | .shutdown .. =>
      [.out, .glb, .vault, .cat, .ciph, .hif, .tango, .dma, .evr]
  | .dumpBodiesDone => [.out, .vault]
  | .dumpComplete => [.out, .glb, .vault, .cat, .hif, .dma]
  | .watchdog .. | .entropyHealthFail .. | .thermalTrip .. =>
      [.out, .glb, .vault, .cat, .ciph, .dgst, .hif, .tango, .dma, .evr]
  | .coreAccess .. | .evrTimeMark => [.out, .cat, .hif, .dma, .evr]
  | .auditTick =>
      [.out, .now, .free, .glb, .sl, .lg, .audit, .pipes, .vault, .cat, .ciph, .dgst, .hif, .tango, .ih, .bpm, .mca,
        .dma, .evr]
  | .trainingFrame .. | .linkUpTimeout .. | .fecRetrain .. | .hdrCrcRetrain .. | .lossOfSignal .. | .capTimeout ..
  | .stopTimeout .. | .roleChangeApply | .moverCopy .. | .healDeadline .. | .groupCtl .. | .takeClose .. | .stop .. =>
      [.out, .free, .sl, .lg, .pipes, .vault, .cat, .ciph, .dgst, .hif, .tango, .bpm, .mca, .dma, .evr]
  | .codewordLock .. | .capOfferRepeat .. => [.out, .free, .sl]
  | .capOffer .. | .packetReceive .. | .stopDone .. =>
      [.out, .free, .glb, .sl, .lg, .pipes, .vault, .cat, .ciph, .dgst, .hif, .tango, .bpm, .mca, .dma, .evr]
  | .capGrant .. | .credit .. | .stopReq .. =>
      [.out, .free, .glb, .sl, .lg, .pipes, .vault, .cat, .ciph, .hif, .tango, .bpm, .mca, .dma, .evr]
  | .uncorrectableCodeword .. => [.sl]
  | .creditThreshold .. | .creditDelay .. | .creditKeepalive .. | .stopReqRepeat .. => [.out, .sl]
  | .healRepeat .. => [.out, .lg, .cat, .ciph, .hif, .tango, .dma, .evr]
  | .tileEncode .. | .ckptDone .. | .healDone .. =>
      [.out, .free, .sl, .lg, .pipes, .vault, .cat, .ciph, .dgst, .hif, .tango, .ih, .bpm, .mca, .dma, .evr]
  | .referenceSealTimer .. | .referenceSealCount .. => [.free, .pipes, .vault, .cat, .ciph]
  | .stripeIssue => [.out, .vault, .cat, .ciph, .hif, .tango, .mca, .dma, .evr]
  | .stripWriteComplete .. | .handoverDone .. | .mirrorAck .. =>
      [.out, .free, .sl, .lg, .pipes, .vault, .vcnt, .cat, .disk, .ciph, .dgst, .hif, .tango, .ih, .repl, .bpm, .mca,
        .dma, .evr]
  | .stripWriteFail .. | .lagFailTimer .. | .conflictHoldTimer .. | .driveLinkLoss .. | .driveCriticalWarning ..
  | .driveFail .. | .checkpointTimer => [.out, .free, .vault, .cat, .ciph, .hif, .tango, .mca, .dma, .evr]
  | .memberLag .. | .writeBack .. => [.out, .free, .vault, .vcnt, .cat, .ciph, .hif, .tango, .mca, .dma, .evr]
  | .reservationConflict .. =>
      [.out, .free, .lg, .pipes, .vault, .cat, .ciph, .dgst, .hif, .tango, .ih, .repl, .bpm, .dma, .evr]
  | .driveReadComplete .. =>
      [.out, .free, .sl, .pipes, .vault, .vcnt, .cat, .ciph, .dgst, .hif, .tango, .rcnt, .repl, .bpm, .mca, .dma, .evr]
  | .scrubStripe .. | .rebuildStripe .. => [.out, .vault, .vcnt, .cat, .disk, .ciph, .hif, .tango, .mca, .dma, .evr]
  | .copyBackChunk .. => [.out, .vault, .vcnt, .cat, .ciph, .hif, .tango, .mca, .dma, .evr]
  | .reshapeBatch .. => [.out, .free, .vault, .vcnt, .cat, .disk, .ciph, .hif, .tango, .bpm, .mca, .dma, .evr]
  | .metadataCommit => [.out, .free, .pipes, .vault, .cat, .ciph, .dgst, .hif, .tango, .bpm, .mca, .dma, .evr]
  | .alloc .. | .free .. => [.out, .bpm]
  | .pop .. => [.out]
  | .hbmUncorrectable .. | .patrolRead .. =>
      [.out, .free, .glb, .sl, .lg, .pipes, .vault, .cat, .ciph, .dgst, .hif, .tango, .rdma, .repl, .bpm, .mca, .dma, .evr]
  | .cacheParityError .. => [.out, .free, .glb, .vault, .cat, .ciph, .dgst, .hif, .tango, .mca, .dma, .evr]
  | .cacheParityLimit => [.out, .cat, .hif, .mca, .dma, .evr]
  | .barrier .. => [.out, .mca]
  | .dmaBurst .. => [.out, .free, .cat, .dgst, .hif, .mca, .dma]
  | .pageRekey .. | .pageErase .. | .rConfirm .. | .offer .. | .acceptTimeout .. | .accept ..
  | .fpBatch .. | .commit .. | .replCommitTimer .. | .close .. | .closed .. | .error .. =>
      [.out, .free, .pipes, .vault, .cat, .ciph, .hif, .tango, .repl, .bpm, .mca, .dma, .evr]
  | .drbgReseed .. => [.ciph]
  | .doorbellPoll .. => [.out, .free, .cat, .hif, .rdma, .dma, .evr]
  | .hostAccessError .. => [.out, .free, .sl, .pipes, .vault, .cat, .ciph, .dgst, .hif, .rdma, .repl, .bpm, .dma, .evr]
  | .msixModTimer .. | .msixUnmask .. => [.out, .hif]
  | .nop .. | .channelCreate .. | .notify .. | .volumeCreate .. | .volumeDelete .. | .verifySeal .. =>
      [.out, .cat, .hif, .dma]
  | .channelDestroy .. =>
      [.out, .free, .sl, .lg, .pipes, .vault, .cat, .disk, .ciph, .dgst, .hif, .tango, .repl, .bpm, .mca, .dma, .evr, .boot]
  | .abort .. => [.out, .free, .sl, .pipes, .vault, .cat, .disk, .ciph, .dgst, .hif, .tango, .bpm, .mca, .dma, .evr, .boot]
  | .pageAssign .. | .pageRelease .. | .hkeyLoad .. | .hkeyErase .. => [.out, .cat, .ciph, .hif, .dma]
  | .keyLoad .. => [.out, .cat, .ciph, .hif, .dma, .evr]
  | .mrExtend .. | .copy .. => [.out, .cat, .dgst, .hif, .dma]
  | .layoutLoad .. => [.out, .free, .glb, .vault, .cat, .disk, .ciph, .hif, .tango, .dma, .evr]
  | .takeDelete .. | .snapVolume .. | .snapTake .. => [.out, .free, .vault, .cat, .ciph, .hif, .tango, .bpm, .mca, .dma, .evr]
  | .snapRelease .. | .scrubCtl .. | .reshape .. | .layoutScan .. => [.out, .vault, .cat, .hif, .dma]
  | .portRole .. | .resume .. => [.out, .sl, .cat, .hif, .dma]
  | .drivePort .. => [.out, .glb, .vault, .cat, .disk, .ciph, .hif, .tango, .dma, .evr]
  | .handover .. => [.out, .cat, .ciph, .hif, .tango, .bpm, .dma, .evr]
  | .fwStage .. => [.out, .cat, .dgst, .hif, .dma, .boot]
  | .fwActivate .. => [.out, .free, .glb, .cat, .dgst, .hif, .dma, .evr, .boot]
  | .fwRunning => [.out, .free, .vault, .cat, .ciph, .dgst, .hif, .tango, .mca, .dma, .evr, .mnt, .boot]
  | .activationTimeout .. =>
      [.out, .free, .glb, .sl, .lg, .pipes, .vault, .vcnt, .cat, .disk, .ciph, .dgst, .hif, .tango, .ih, .repl, .bpm,
        .mca, .dma, .evr, .boot]
  | .fwConfirm .. => [.out, .free, .vault, .cat, .ciph, .dgst, .hif, .tango, .mca, .dma, .evr, .boot]
  | .attestQuote .. => [.out, .free, .cat, .ciph, .hif, .dma]
  | .takeOpen .. => [.out, .vault, .cat, .ciph, .dgst, .hif, .tango, .mca, .dma, .evr]
  | .trigger .. | .trigIn .. => [.out, .glb, .vault, .cat, .ciph, .hif, .tango, .mca, .dma, .evr]
  | .read .. => [.out, .free, .pipes, .vault, .cat, .dgst, .hif, .bpm, .dma, .evr]
  | .play .. | .playPaceTimer .. => [.out, .free, .sl, .pipes, .vault, .cat, .hif, .bpm, .dma, .evr]
  | .replSend .. | .replAccept .. | .rHello .. =>
      [.out, .free, .pipes, .vault, .cat, .ciph, .hif, .tango, .rdma, .repl, .bpm, .mca, .dma, .evr]
  | .driveAdmit .. | .driveReplace .. => [.out, .vault, .cat, .disk, .ciph, .hif, .tango, .dma, .evr]
  | .trigOutEnd => [.glb]
  | .heartbeatTimer | .heartbeat .. | .linkInfo .. | .healReq .. => [.out, .cat, .ciph, .hif, .tango, .ih, .dma, .evr]
  | .heartbeatMissed => [.tango, .ih]
  | .partnerSilent .. | .fenceRetry .. | .startupWaitExpiry .. | .handoverTimeout .. | .leaving .. | .frozen .. =>
      [.out, .free, .glb, .sl, .lg, .pipes, .vault, .vcnt, .cat, .disk, .ciph, .dgst, .hif, .tango, .ih, .repl, .bpm,
        .mca, .dma, .evr]
  | .hello .. => [.out, .free, .cat, .ciph, .hif, .tango, .dma, .evr]
  | .helloRetry => [.out, .free, .glb, .sl, .lg, .vault, .cat, .ciph, .dgst, .hif, .tango, .dma, .evr]
  | .keyConfirm .. => [.out, .free, .glb, .lg, .vault, .cat, .ciph, .dgst, .hif, .tango, .ih, .mca, .dma, .evr]
  | .tangoQpError .. => [.out, .free, .vault, .cat, .ciph, .dgst, .hif, .tango, .mca, .dma, .evr]
  | .ownerTable .. | .ownerAck .. =>
      [.out, .free, .sl, .lg, .pipes, .vault, .cat, .ciph, .dgst, .hif, .tango, .ih, .repl, .bpm, .dma, .evr]
  | .handoverReq .. => [.out, .cat, .ciph, .hif, .tango, .ih, .bpm, .dma, .evr]
  | .handoverReady .. => [.out, .free, .lg, .pipes, .vault, .cat, .ciph, .dgst, .hif, .tango, .ih, .bpm, .mca, .dma, .evr]
  | .handoverState .. =>
      [.out, .free, .sl, .lg, .pipes, .vault, .cat, .ciph, .dgst, .hif, .tango, .ih, .repl, .bpm, .mca, .dma, .evr]
  | .takePart .. | .takePartAck .. => [.out, .vault, .cat, .ciph, .dgst, .hif, .tango, .ih, .mca, .dma, .evr]
  | .triggerFwd .. | .claimVerdict .. => [.out, .vault, .cat, .ciph, .hif, .tango, .ih, .mca, .dma, .evr]
  | .driveNotice .. => [.out, .free, .vault, .cat, .ciph, .hif, .tango, .ih, .mca, .dma, .evr]
  | .mirrorRec .. => [.out, .vault, .cat, .disk, .ciph, .dgst, .hif, .tango, .ih, .repl, .mca, .dma, .evr]
  | .nak .. => [.out, .free, .lg, .pipes, .vault, .cat, .ciph, .dgst, .hif, .tango, .ih, .repl, .bpm, .mca, .dma, .evr]
  | .ledger .. => [.out, .lg, .cat, .ciph, .hif, .tango, .ih, .dma, .evr]
  | .standbyReady => [.tango]
  | .qpContextChange .. => [.out, .free, .vault, .cat, .ciph, .hif, .rdma, .rcnt, .repl, .bpm, .dma]
  | .qpNop .. | .qpSend .. | .qpWrite .. | .qpWriteImm .. | .qpRead .. | .qpFlush .. | .qpWait .. | .rdmaRequest ..
  | .contextFetchDone .. => [.out, .free, .hif, .rdma, .rcnt]
  | .rdmaAck .. => [.out, .hif, .rdma]
  | .rdmaNak .. | .rdmaAckTimeout .. | .rnrRetryTimer .. => [.out, .vault, .cat, .ciph, .hif, .rdma, .repl, .bpm, .dma]
  | .cnp .. => [.rdma, .rcnt]
  | .cnpRateTimer .. => [.rdma]
  | .held .. | .tile .. | .cipherSegmentEnd .. => [.out, .free, .pipes, .vault, .cat, .ciph, .hif, .tango, .rcnt, .repl, .bpm, .mca, .dma, .evr]
  | .earlyWarning .. | .vddStepDown .. | .avsRetry .. | .sensorRead .. | .thermalSample .. =>
      [.out, .cat, .hif, .dma, .evr, .mnt]
  | .replan .. => [.out, .cat, .hif, .dma, .evr, .mnt, .boot]
  | .pcieMargin .. | .eyeScan .. => [.mnt]
  | .i2cRead .. => [.out, .boot]
  | .perstNDeassert => [.free, .glb, .hif]
  | .driveAdminCommandComplete .. => [.out, .free, .vault, .cat, .disk, .ciph, .hif, .tango, .mca, .dma, .evr]
  | .stagingComplete .. => [.out, .cat, .dgst, .hif, .dma, .evr, .boot]
  | .drivePortRetrain .. => [.out, .vault, .cat, .hif, .dma, .evr]
  | .ethPortLinkChange .. => [.regs]

/-- The commands that can change a byte of HBM: those of the metadata cache and its write buffer (R365 to R373), a burst rewritten
(R356) or corrected (R355), the lookups of TILE_ENCODE, a burst of a COPY, the CLEAN_REGION of a checkpoint (R371), and POR_N. -/
def Blk.storesHbm : Instr → Bool
  | .registerWrite .. | .regionTableWrite .. | .cacheDrainDone | .porNAssert | .hbmUncorrectable .. | .patrolRead .. | .writeBufferDrain
  | .clean .. | .inval .. | .cleanInval .. | .cleanRegion .. | .cleanInvalRegion .. | .cacheParityError .. | .tileEncode .. | .dmaBurst ..
  | .keyConfirm .. | .checkpointTimer => true
  | _ => false

/-- The cache and its write buffer owe HBM a byte at `a`: it lies in a dirty line that `p` names, or in an entry of the write
buffer that drains before those lines go out (R365, R367). -/
def State.owes (s : State) (p : Nat → Bool) (a : Nat) : Prop :=
  (∃ k ∈ s.dev.mca.keys p, ∃ l, tget s.dev.mca.lines k = some l ∧ l.dirty = true ∧ l.addr ≤ a ∧ a < l.addr + l.data.length) ∨
  (∃ e ∈ s.dev.mca.wbuf.take (drainsFor p s.dev.mca.wbuf), ∃ x ∈ e.data, a = e.line + x.1)

/-- An address lies in the two lines of a bucket of the hot index (R117). -/
def inBucket (b a : Nat) : Prop := lineOf (192 * b) ≤ a ∧ a < lineOf (192 * b + 191) + 128

/-- A byte at `a` may be stored while the buckets of the hot index that have changed go through the cache (R117, R368): one of theirs, or
one that a line or an entry owes that makes way for them. -/
def State.syncs (s : State) (a : Nat) : Prop :=
  s.dev.lateBuckets ≠ [] ∧ (s.owes (fun _ => true) a ∨ ∃ b ∈ s.dev.lateBuckets, inBucket b a)

/-- The bytes of HBM that a command may store to: those of the lines that it writes back and of the entries that drain before them,
those of the hot-index buckets that it writes, the burst that PATROL_READ corrects, and for TILE_ENCODE those of the journal ring,
where its record goes (R188). -/
def Blk.stores (c : Instr) (s : State) (a : Nat) : Prop :=
  match c with
  | .clean x | .inval x | .cleanInval x => s.owes (· == lineOf x) a ∨ s.syncs a
  | .cleanRegion n | .cleanInvalRegion n => s.owes (s.dev.inEntry n.val) a ∨ s.syncs a
  | .writeBufferDrain => (∃ e ∈ s.dev.mca.wbuf.take 1, ∃ x ∈ e.data, a = e.line + x.1) ∨ s.syncs a
  | .registerWrite .. | .regionTableWrite .. => s.owes (fun _ => true) a
  | .cacheDrainDone => s.owes (fun _ => true) a ∨ s.syncs a
  | .cacheParityError .. | .dmaBurst .. => s.syncs a
  | .hbmUncorrectable _ (.hotIndex b) => s.owes (fun _ => true) a ∨ s.syncs a ∨ inBucket b a
  | .hbmUncorrectable .. => s.syncs a
  | .patrolRead _ _ (.hotIndex b) =>
      s.owes (fun _ => true) a ∨ s.syncs a ∨ inBucket b a ∨ (s.dev.mca.patrolAt ≤ a ∧ a < s.dev.mca.patrolAt + 32)
  | .patrolRead .. => s.syncs a ∨ (s.dev.mca.patrolAt ≤ a ∧ a < s.dev.mca.patrolAt + 32)
  | .tileEncode .. => ∃ t, exec c s = .next t ∧ (s.owes (fun _ => true) a ∨ (∃ b ∈ s.dev.lateBuckets, inBucket b a) ∨
      (∃ b, tgetD t.dev.cat.hot [] b ≠ tgetD s.dev.cat.hot [] b ∧ inBucket b a) ∨ (0xC0000000 ≤ a ∧ a < 0xC0000000 + 67108864))
  | .keyConfirm .. | .checkpointTimer => ∃ t, exec c s = .next t ∧ (s.owes (fun _ => true) a ∨
      ∃ b, tgetD t.dev.cat.hot [] b ≠ tgetD s.dev.mca.hot [] b ∧ inBucket b a)
  | .porNAssert => True
  | _ => False

/-! ## Descriptors -/

/-- A descriptor that nothing but the order of its channel holds back is picked up (R256). -/
abbrev pickup (h : Hdr) (op : Byte) (d : Dev) : Dev × Bool := pickupWhen true h op d

/-- A descriptor starts where `go` holds: the head picks it up, the order of its channel lets it start (R256), its opcode is defined
for the channel's type, and its reserved fields are zero (R260). -/
abbrev StartsWhen (go : Bool) (op : Byte) (ctypes : List Nat) (h : Hdr) (d : Dev) : Prop :=
  d.picksUp h.chan = true ∧ (pickupWhen go h op d).2 = true ∧ ctypes.contains (d.ctype h.chan) = true ∧ h.clean = true

/-- A descriptor starts that only the order of its channel can hold back. -/
abbrev Starts (op : Byte) (ctypes : List Nat) (h : Hdr) (d : Dev) : Prop := StartsWhen true op ctypes h d

/-- Between `d` and `d'` the entry of a descriptor is written, with its status and results (R261). -/
def Answered (op : Byte) (h : Hdr) (status : Nat) (r0 r1 : W64) (d d' : Dev) : Prop :=
  ∃ pre post ph, d'.out = d.out ++ pre ++ Out.completion h.chan h.tag h.sqIndex status op r0 r1 h.dbSeq ph :: post

/-- An event is recorded between `d` and `d'`, unless its rate limit suppresses it (R398, R402). -/
def Recorded (code : Nat) (inst : W32) (d d' : Dev) : Prop :=
  (rateLimit d.evr.buckets code d.now).2 = true → ∃ r ∈ d'.evr.ring, r.code = code ∧ r.instance_ = inst ∧ r.seq = d.evr.nextSeq

/-! ## Messages of the pair -/

/-- A message is authentic under page 1 (R166, R280) and of a level in force (R282). -/
abbrev Heard (e : Env) (d : Dev) : Prop := d.ciphOn = true ∧ (d.page 1).state = .ready ∧ e.auth = true ∧ e.level ≤ d.tango.cl

/-- A message is heard, and its epoch and role are this head's own (R311). -/
abbrev Agreed (e : Env) (d : Dev) : Prop := Heard e d ∧ e.epoch = d.tango.epoch ∧ e.role = d.role

/-- The head with the sequence number of a message on a queue pair noted. -/
def Dev.noted (qp : Nat) (e : Env) (d : Dev) : Dev := onTango (fun t => { t with rxSeqs := tput t.rxSeqs qp (next64 e.seq.toNat) }) d

/-- The service lanes take a job at once: the cipher engine is on, a lane is free, and nothing waits (R152, R166). -/
abbrev LaneFree (d : Dev) : Prop := d.ciphOn = true ∧ d.ciph.jobs = [] ∧ (d.ciph.lane0 = none ∨ d.ciph.lane1 = none)

/-- Page 0 encrypts what this head sends to its partner (R132, R138, R280): it has its key, counter values left, and nothing waits on it. -/
abbrev HasVoice (d : Dev) : Prop :=
  LaneFree d ∧ (d.page 0).state = .ready ∧ (d.page 0).domain = 0 ∧ (d.page 0).ctr.ult ctrLow = true ∧ (d.page 0).erase = none ∧
  (d.page 0).rekey = none

/-- What this head sends to its partner leaves it at once: a session is up, and page 0 and a service lane serve it. -/
abbrev Speaks (d : Dev) : Prop := d.tango.session = true ∧ HasVoice d

/-! ## Replication messages -/

/-- A message of replication channel `c` leaves at once (R132, R137, R149, R341): the page that encrypts what the channel sends is a READY
class S page of the channel's domain, short of its counter's end, on which nothing waits; the cipher engine is on, no job waits, and a
service lane is free. -/
def Dev.replSpeaks (d : Dev) (c : Nat) : Bool :=
  d.ciphOn && d.ciph.jobs.isEmpty && (d.ciph.lane0.isNone || d.ciph.lane1.isNone) &&
    match tget d.hif.chans c, d.txPage c with
    | some ch, some p => classS p && (d.page p).state == .ready && (d.page p).domain == ch.domain && (d.page p).ctr.ult ctrLow &&
        (d.page p).erase.isNone && (d.page p).rekey.isNone
    | _, _ => false

/-- A message has left, or a service lane holds it (R149). -/
def Underway (o : Out) (d : Dev) : Prop :=
  o ∈ d.out ∨ ∃ j ∈ d.ciph.jobs ++ d.ciph.lane0.toList ++ d.ciph.lane1.toList, j.msg = some o

end Sys2Proof.Machine
end

