-- ==== Sys2Proof/Certificates/Slice0/Obligations.lean ====
section
/-! DEFINITION. The statements about the head: one for each family of commands and each kind of state, and those about every command
and every step. Each says which rules of spec/ it rests on; `Sys2Proof.Tests.wit_…` shows states that meet its hypotheses. -/

open Sys2Proof Sys2Proof.Machine

/-- A step takes the command at the front of the queue and runs it with the queue's rest. -/
def Obligations.StepRunsFront : Prop :=
  ∀ (c : Instr) (rest : List Instr) (s : State), step { s with pending := c :: rest } = exec c { s with pending := rest }

/-- With no command waiting a nanosecond passes, except while POR_N is low (the model's choice, notes/assumptions/7.md); every group of a live
head whose codewords run sends IDLE (R39), and the registers, the ledgers and the keys stay as they are. An audit tick checks every group in
one clock (R80 to R83): one that finds no difference is only counted, and any difference is latched and stops the head. It states that
.auditTick completes with the effect given, under conditions on the state and operands alone. -/
def Obligations.IdleAndAuditTick : Prop :=
  (∀ s : State, s.pending = [] →
    (s.dev.glb.porLow = true → step s = .next s) ∧
    (s.dev.glb.porLow = false → ∃ d, step s = .next { s with dev := d } ∧ d.now = s.dev.now + 1 ∧ d.glb = s.dev.glb ∧ d.regs = s.dev.regs ∧
      d.lg = s.dev.lg ∧
      (s.dev.live = true → ∀ g : Fin 4, (s.dev.sl.groups.at g).tx.on = true → ∃ p l, Out.slTx g p l ∈ d.out ∧ p.ptype = 0) ∧
      ((∀ g : Fin 4, (s.dev.sl.groups.at g).tx.on = false) → s.dev.ciph.ended = [] → s.dev.vault.scan = none →
        d = { s.dev with now := s.dev.now + 1 }))) ∧
  (∀ (s : State),
    (s.dev.live = false → exec .auditTick s = .next s) ∧
    (s.dev.live = true → s.dev.auditNow.clean = true → ∃ d, exec .auditTick s = .next { s with dev := d } ∧ d.audit = s.dev.auditNow ∧
      d.audit.ticks = s.dev.audit.ticks + 1 ∧ d.glb = s.dev.glb ∧ d.regs = s.dev.regs ∧
      d.now = max s.dev.now (d.audit.ticks * 1000000)) ∧
    (s.dev.live = true → s.dev.auditNow.clean = false → ∃ d, exec .auditTick s = .next { s with dev := d } ∧ d.glb.fatal = true ∧
      d.audit = { s.dev.auditNow with latched := true } ∧ d.lg = s.dev.lg))

/-- Right after reset: POR_N is low, no command waits, HBM lists nothing (the model's choice, notes/assumptions/9.md), and the set-up registers,
pages, pools and queues hold the reset values that the manual states (R131, R358, R462, R463, R468). HBM stands in its canonical form right
after reset. -/
def Obligations.ResetState : Prop :=
  (State.reset.pending = [] ∧ State.reset.hbm = [] ∧ State.reset.dev.out = [] ∧
  State.reset.dev.glb.porLow = true ∧ State.reset.dev.glb.fatal = false ∧ State.reset.dev.glb.locked = false ∧
  State.reset.dev.live = false ∧
  State.reset.dev.regs.slCfg = 0x000000F2 ∧ State.reset.dev.regs.vltCfg = 0x1E101403 ∧
  State.reset.dev.regs.hifCfg = 0x07001001 ∧ State.reset.dev.regs.ciphCfg = 0x00001401 ∧
  State.reset.dev.regs.rdmaCfg = 0x0000321B ∧ State.reset.dev.regs.mntCfg = 0x00006401 ∧
  (∀ p, 2 ≤ p → p < 8192 → (State.reset.dev.page p).state = .free) ∧
  (∀ g : Fin 4, (State.reset.dev.lg.at g).received = 0 ∧ (State.reset.dev.lg.at g).commit = 0) ∧
  State.reset.dev.hif.running = false ∧ State.reset.dev.rdma.qps = [] ∧ State.reset.dev.repl = [] ∧
  State.reset.dev.mca.lines = [] ∧ State.reset.dev.mca.wbuf = [] ∧ State.reset.dev.vault.opened = []) ∧
  ( State.reset.Inv)

/-- Every step keeps HBM in its canonical form: addresses strictly rising, no entry equal to what an unlisted byte reads as. -/
def Obligations.StepKeepsCanonicalHbm : Prop :=
   ∀ s t : State, s.Inv → step s = .next t → t.Inv

/-- Every command leaves every part of the head as it was but those listed for it, leaves the queue alone, and, unless it is one of those that
write HBM, leaves every byte of HBM as it was. -/
def Obligations.CommandFrame : Prop :=
  ∀ (c : Instr) (s t : State), exec c s = .next t →
    Keeps (Blk.touched c) s.dev t.dev ∧ t.pending = s.pending ∧ (Blk.storesHbm c = false → t.hbm = s.hbm)

/-- A fatal stop ends only with POR_N: no other step leaves it (R407). -/
def Obligations.OnlyPorEndsFatal : Prop :=
  ∀ (c : Instr) (s t : State), c ≠ .porNAssert → s.dev.glb.fatal = true → exec c s = .next t → t.dev.glb.fatal = true

/-- Every command goes on to a next state, unless it names an HBM address that does not exist (R354), where it faults. -/
def Obligations.CommandsGoOn : Prop :=
  (∀ (c : Instr) (s : State), Dev.sound c = true → ∃ t, exec c s = .next t) ∧
  (∀ (a : Nat) (s : State), hbmSize ≤ a → exec (.clean a) s = .fault (.hbmAddress a) ∧
    exec (.inval a) s = .fault (.hbmAddress a) ∧ exec (.cleanInval a) s = .fault (.hbmAddress a))

/-- A BAR0 write of another size than 4 or 8 bytes, or not aligned to its size, is ignored, and so is one to an offset with no writable register
(R449). A write changes only fields that it covers whole: GLB_SCRATCH, one field of 64 bits, takes an 8-byte write and no half of one
(R450). A write of a 128-bit register's low half is staged, and the register takes both halves when its high half is written. The region
table and the way masks are written before the lock alone (R456, R470). CACHE_DISABLE starts draining an enabled cache, before GLB_LOCK
(R373). JTAG_CLOSE with bit 0 closes the port for good (R448). The EVR cursor selects by index, and a read of EVR_WINDOW's first slot copies
the record that it names, zeros where STATUS is not VALID (R405, R416). It states that .registerWrite, .regionTableWrite, .cacheDisable,
.evrCursorWrite, .evrWindowRead and .jtagClose each complete with the effect given, under conditions on the state and operands alone. -/
def Obligations.RegisterServices : Prop :=
  (∀ (s : State) (v : W64),
    (∀ (a : BitVec 26) (n : Nat), ¬((n = 4 ∨ n = 8) ∧ a.toNat % n = 0) → exec (.registerWrite a n v) s = .next s) ∧
    (∀ (a : BitVec 26) (n : Nat), regAt (a.toNat / 8 * 8) = none → exec (.registerWrite a n v) s = .next s) ∧
    (exec (.registerWrite 0x20 4 v) s = .next s ∧ exec (.registerWrite 0x24 4 v) s = .next s) ∧
    (s.dev.barFree = true →
      exec (.registerWrite 0x20 8 v) s = .next { s with dev := { s.dev with regs := { s.dev.regs with scratch := v } } }) ∧
    (s.dev.barWrites = true → s.dev.glb.locked = false →
      ∃ d, exec (.registerWrite 0x600500 8 v) s = .next { s with dev := d } ∧ d.regs.ip = s.dev.regs.ip ∧
        ∀ w : W64, ∃ d2, exec (.registerWrite 0x600508 8 w) { s with dev := d } = .next { s with dev := d2 } ∧
          tget d2.regs.ip 0 = some (w ++ v)) ∧
    (∀ (a : BitVec 26) (n : Nat), s.dev.glb.locked = true ∨ regionAddr a.toNat = false → exec (.regionTableWrite a n v) s = .next s) ∧
    (s.dev.barWrites = true → s.dev.glb.locked = false →
      ∃ d, exec (.regionTableWrite 0x880100 8 v) s = .next { s with dev := d } ∧ tget d.regs.wayMask 0 = some ((v.extractLsb' 0 16).setWidth 32) ∧
        Keeps [.regs] s.dev d)) ∧
  (∀ (s : State),
    (s.dev.working = true → s.dev.glb.perstLow = false → s.dev.glb.locked = false → s.dev.mca.enabled = true →
      exec .cacheDisable s = .next { s with dev := { s.dev with mca := { s.dev.mca with draining := true } } }) ∧
    (∀ v : W32, s.dev.barWrites = true → v.getLsbD 0 = true → s.dev.glb.locked = false →
      exec (.jtagClose v) s = .next { s with dev := { s.dev with boot := { s.dev.boot with jtagClosed := true } } }) ∧
    (∀ v : W64, s.dev.barFree = true → s.dev.evr.source = false →
      ∃ d, exec (.evrCursorWrite 0x980018 4 v) s = .next { s with dev := d } ∧ d.evr.index = v.extractLsb' 0 32 ∧
        d.evr.ring = s.dev.evr.ring ∧ Keeps [.evr] s.dev d) ∧
    (s.dev.barReads = true → s.dev.evr.autoInc = false →
      ∃ d, exec (.evrWindowRead 0x980040 8) s = .next { s with dev := d } ∧ Keeps [.evr, .out] s.dev d ∧
        d.evr.status = s.dev.evr.select.1 ∧
        d.evr.window = (match s.dev.evr.select.2 with | some r => evBytes r | none => zeros 64) ∧
        d.out = s.dev.out ++ [.regData (BitVec.ofNat 64 (fieldAt d.evr.window 0 8))]))

/-- GLB_LOCK takes one value, 0x4C4F434B, and ignores every other: it locks every RWL field and starts SiethLink, the drive ports and Tango, and
after PERST_N has opened HIF again it locks HIF alone and extends MR4 again (R456, R472). DP_CFG starts the drive ports once, and its fields
are RWL (R456, R504). ADMIN_ENABLE starts ADMIN afresh from an empty ring, with the submission ring's size as written where it is valid, and
is ignored while ADMIN runs; ADMIN_STOP, with ENABLE 0, stops it once no descriptor of its own is outstanding; both are ignored once HIF is
locked (R275, R501). It states that .glbLock, .dpCfgWrite, .adminEnable and .adminStop each complete with the effect given, under conditions
on the state and operands alone. -/
def Obligations.LockAndPorts : Prop :=
  (∀ (s : State) (t : TakeoverIn) (ds : List DumpIn), s.dev.running = true → s.dev.glb.perstLow = false →
    (∀ v : W32, v ≠ 0x4C4F434B → exec (.glbLock v t ds) s = .next s) ∧
    (s.dev.glb.locked = false → ∃ d, exec (.glbLock 0x4C4F434B t ds) s = .next { s with dev := d } ∧
      d.glb.locked = true ∧ d.glb.hifLocked = true ∧ d.glb.dpStarted = true ∧ d.tango.started = true ∧ d.regs.staged = [] ∧
      (s.dev.cat.takes = [] → ∀ g : Fin 4, s.dev.groupEn g = true → (s.dev.sl.groups.at g).link = .disabled → (d.sl.groups.at g).link = .training)) ∧
    (s.dev.glb.locked = true → s.dev.glb.hifLocked = true → exec (.glbLock 0x4C4F434B t ds) s = .next s) ∧
    (s.dev.glb.locked = true → s.dev.glb.hifLocked = false → ∃ d, exec (.glbLock 0x4C4F434B t ds) s = .next { s with dev := d } ∧
      d.glb.hifLocked = true ∧ Keeps [.glb, .dgst] s.dev d ∧
      ∃ x, d.mr 4 = extendValue (s.dev.mr 4) x ∧ ∀ n, n ≠ 4 → d.mr n = s.dev.mr n)) ∧
  (∀ (s : State),
    (s.dev.running = true → s.dev.glb.perstLow = false → ∀ (v : W32) (l : List DriveInfo),
      (s.dev.glb.locked = true → s.dev.glb.dpStarted = true → exec (.dpCfgWrite v l) s = .next s) ∧
      (s.dev.glb.dpStarted = false → ∃ d, exec (.dpCfgWrite v l) s = .next { s with dev := d } ∧ d.glb.dpStarted = true ∧
        d.regs.dpCfg = if s.dev.glb.locked then s.dev.regs.dpCfg else v &&& 3)) ∧
    (s.dev.hifReach = true → s.dev.glb.hifLocked = false → ∀ v : W32,
      (v.getLsbD 31 = true → s.dev.hif.running = true → exec (.adminEnable v) s = .next s) ∧
      (v.getLsbD 31 = true → s.dev.hif.running = false → s.dev.hif.fault = false → ∀ ch, tget s.dev.hif.chans 0 = some ch →
        ∃ d, exec (.adminEnable v) s = .next { s with dev := d } ∧ d.hif.running = true ∧ Keeps [.hif, .regs] s.dev d ∧
          ∃ c0, tget d.hif.chans 0 = some c0 ∧ c0.head = 0 ∧ c0.cplCount = 0 ∧ c0.error = false ∧ c0.descs = [] ∧
            (4 ≤ bits v.toNat 3 0 → bits v.toNat 3 0 ≤ 12 → c0.sqLog2 = bits v.toNat 3 0)) ∧
      (v.getLsbD 31 = false → s.dev.hif.running = false → s.dev.hif.stopping = false →
        ∃ d, exec (.adminStop v) s = .next { s with dev := d } ∧ d.regs.adminCtl = mergeAdminCtl s.dev.regs.adminCtl v ∧
          d.regs.scratch = s.dev.regs.scratch) ∧
      (v.getLsbD 31 = false → s.dev.hif.running = true → s.dev.hif.aborts = [] → s.dev.hif.dying = [] →
        dueEntry [] s.dev.hif.chans = none → ∀ ch, tget s.dev.hif.chans 0 = some ch →
        ∃ d, exec (.adminStop v) s = .next { s with dev := d } ∧ d.regs.adminCtl = mergeAdminCtl s.dev.regs.adminCtl v ∧
          d.hif.chans = s.dev.hif.chans ∧ (ch.descs ≠ [] → d.hif.running = true ∧ d.hif.stopping = true) ∧
          (ch.descs = [] → d.hif.running = false ∧ d.hif.stopping = false))) ∧
    (s.dev.hifReach = true → s.dev.glb.hifLocked = true → ∀ v : W32,
      exec (.adminEnable v) s = .next s ∧ exec (.adminStop v) s = .next s))

/-- The buckets of the hot index that have changed go through the cache before the next memory command acts (R117, R368; the model's choice of
the moment, notes/assumptions/10.md); where none has, the state is as it was. WRITE_BUFFER_DRAIN then writes the oldest entry of the merging
write buffer to HBM, byte by byte, and changes no other byte; a barrier completes at once on an empty buffer and otherwise when the entries
before it have drained (R366, R367). CLEAN writes back the line of an address where it is dirty, and no copy of it is dirty afterwards;
INVAL drops it without a write-back; CLEAN_INVAL does both; the region forms do so for every line of a region entry; each counts one
maintenance operation (R371). Where the cache drains, a line that is cleaned or invalidated leaves it (R373). It states that
.writeBufferDrain, .barrier, .clean, .inval, .cleanInval, .cleanRegion and .cleanInvalRegion each complete with the effect given, under
conditions on the state and operands alone. -/
def Obligations.BufferAndCache : Prop :=
  ((∀ s : State, s.dev.mca.hot = s.dev.cat.hot → syncHot s = s) ∧
  (∀ (s : State), s.dev.live = true →
    ((syncHot s).dev.mca.wbuf = [] → exec .writeBufferDrain s = .next (syncHot s)) ∧
    (∀ (e : WEnt) (l : List WEnt), (syncHot s).dev.mca.wbuf = e :: l → ∃ t, exec .writeBufferDrain s = .next t ∧ t.pending = s.pending ∧
      Keeps [.mca, .out, .free] s.dev t.dev ∧ t.dev.mca.wbuf = l ∧ t.dev.mca.lines = (syncHot s).dev.mca.lines ∧
      t.hbm = memMasked (syncHot s).hbm e.line e.data ∧
      (∀ a, (∀ x ∈ e.data, a ≠ e.line + x.1) → memRead t.hbm a = memRead (syncHot s).hbm a) ∧
      t.dev.out = (syncHot s).dev.out ++
        List.replicate ((syncHot s).dev.mca.barriers.filter (fun n => decide (n ≤ 1))).length .barrierDone) ∧
    (∀ j : Bool,
      (s.dev.mca.wbuf = [] → exec (.barrier j) s = .next { s with dev := { s.dev with out := s.dev.out ++ [.barrierDone] } }) ∧
      (s.dev.mca.wbuf ≠ [] → exec (.barrier j) s = .next { s with dev := { s.dev with mca := { s.dev.mca with
        barriers := s.dev.mca.barriers ++ [s.dev.mca.wbuf.length] } } })))) ∧
  ((∀ (s : State) (a : Nat), s.dev.live = true → a < hbmSize → s.dev.mca.draining = false →
    (∃ t, exec (.clean a) s = .next t ∧ t.dev.mca.maintOps = s.dev.mca.maintOps + 1 ∧
      (∀ k l, tget t.dev.mca.lines k = some l → l.addr = lineOf a → l.dirty = false) ∧
      (∀ k l, (syncHot s).dev.mca.keys (· == lineOf a) = [k] → tget (syncHot s).dev.mca.lines k = some l → l.dirty = true →
        memBytes t.hbm l.addr l.data.length = l.data ∧
        ((syncHot s).dev.mca.wbuf = [] → t.hbm = memStore (syncHot s).hbm l.addr l.data))) ∧
    (∃ t, exec (.inval a) s = .next t ∧ t.dev.mca.maintOps = s.dev.mca.maintOps + 1 ∧ t.hbm = (syncHot s).hbm ∧
      t.dev.mca.lines = (syncHot s).dev.mca.lines.filter (fun e => !(e.2.addr == lineOf a))) ∧
    (∃ t, exec (.cleanInval a) s = .next t ∧ t.dev.mca.maintOps = s.dev.mca.maintOps + 1 ∧
      (∀ e ∈ t.dev.mca.lines, e.2.addr ≠ lineOf a) ∧
      (∀ k l, (syncHot s).dev.mca.keys (· == lineOf a) = [k] → tget (syncHot s).dev.mca.lines k = some l → l.dirty = true →
        memBytes t.hbm l.addr l.data.length = l.data ∧
        ((syncHot s).dev.mca.wbuf = [] → t.hbm = memStore (syncHot s).hbm l.addr l.data)))) ∧
  (∀ (s : State) (n : Fin 64), s.dev.live = true → s.dev.mca.draining = false →
    (∃ t, exec (.cleanRegion n) s = .next t ∧ t.dev.mca.maintOps = s.dev.mca.maintOps + 1 ∧
      (∀ k l, tget t.dev.mca.lines k = some l → s.dev.inEntry n.val l.addr = true → l.dirty = false)) ∧
    (∃ t, exec (.cleanInvalRegion n) s = .next t ∧ t.dev.mca.maintOps = s.dev.mca.maintOps + 1 ∧
      (∀ e ∈ t.dev.mca.lines, s.dev.inEntry n.val e.2.addr = false))) ∧
  (∀ (s : State) (a : Nat), s.dev.live = true → a < hbmSize → s.dev.mca.draining = true →
    (∃ t, exec (.clean a) s = .next t ∧ ∀ e ∈ t.dev.mca.lines, e.2.addr ≠ lineOf a) ∧ exec (.inval a) s = exec (.clean a) s))

/-- CACHE_DRAIN_DONE writes every dirty line back, so that no dirty data is lost, and leaves the cache off and empty; while the cache does not
drain it does nothing (R373). A parity error in a clean line fetches it again from HBM, is counted and recorded; in a dirty line, or in both
copies of a tag, it is fatal (R370); at the limit the firmware turns the cache off. An uncorrectable burst is counted whatever holds it, and
acts by its holder (R356): in the journal, the mirror or the metadata area it is fatal; in no structure at all it is recorded; a standby
slot is dropped; a bucket of the hot index is emptied; a checkpoint that is staged or received does not stand; a duplicate record takes its
queue pair to ERROR; a parity buffer holds nothing to lose. Patrol reads one burst at a time, goes round and counts its passes; a burst with
an error that its check corrects is counted and written back where no write to its line is queued, one with an error that it cannot correct
is uncorrectable, and with PATROL_HOURS 0 there is no patrol (R355, R357). It states that .cacheDrainDone, .hbmUncorrectable, .patrolRead,
.cacheParityError and .cacheParityLimit each complete with the effect given, under conditions on the state and operands alone. -/
def Obligations.CacheAndHbmErrors : Prop :=
  ((∀ (s : State), s.dev.live = true → s.dev.mca.draining = true → ∃ t, exec .cacheDrainDone s = .next t ∧ t.pending = s.pending ∧
    t.dev.mca.lines = [] ∧ t.dev.mca.enabled = false ∧ t.dev.mca.draining = false ∧ Keeps [.mca, .out, .free] s.dev t.dev ∧
    t.hbm = (((syncHot s).dev.mca.keys (fun _ => true)).foldl (fun x k => cleanKey k x) (syncHot s)).hbm ∧
    (∀ k l, tget (syncHot s).dev.mca.lines k = some l → l.dirty = true →
      (∀ k' l', k' ≠ k → tget (syncHot s).dev.mca.lines k' = some l' →
        l'.addr + l'.data.length ≤ l.addr ∨ l.addr + l.data.length ≤ l'.addr) →
      memBytes t.hbm l.addr l.data.length = l.data)) ∧
  (∀ (s : State), s.dev.live = true → s.dev.mca.draining = false → exec .cacheDrainDone s = .next (syncHot s)) ∧
  (∀ (s : State) (set : Fin 8192) (way : Fin 16) (e : ParityErr), s.dev.live = true →
    (tget (syncHot s).dev.mca.lines (wayKey set.val way.val) = none → exec (.cacheParityError set way e) s = .next (syncHot s)) ∧
    (∀ l, tget (syncHot s).dev.mca.lines (wayKey set.val way.val) = some l → l.dirty = false → e ≠ .copies →
      ∃ t, exec (.cacheParityError set way e) s = .next t ∧ t.pending = s.pending ∧ t.hbm = (syncHot s).hbm ∧
        t.dev.mca.parityClean = s.dev.mca.parityClean + 1 ∧ Recorded 0x0A01 (BitVec.ofNat 32 set.val) s.dev t.dev ∧
        ∃ l', tget t.dev.mca.lines (wayKey set.val way.val) = some l' ∧ l'.addr = l.addr ∧ l'.dirty = false ∧
          l'.data = memBytes (syncHot s).hbm l.addr 128) ∧
    (∀ l, tget (syncHot s).dev.mca.lines (wayKey set.val way.val) = some l → (l.dirty = true ∨ e = .copies) →
      ∃ t, exec (.cacheParityError set way e) s = .next t ∧ t.dev.glb.fatal = true ∧ t.dev.mca = (syncHot s).dev.mca ∧
        t.hbm = (syncHot s).hbm)) ∧
  (∀ (s : State), s.dev.running = true →
    (s.dev.cacheOn = true → ∃ d, exec .cacheParityLimit s = .next { s with dev := d } ∧ d.mca.parityOff = true ∧
      d.mca.draining = true ∧ d.mca.lines = s.dev.mca.lines ∧ Recorded 0x0A05 noInstance s.dev d) ∧
    (s.dev.cacheOn = false → exec .cacheParityLimit s = .next s))) ∧
  ((∀ (s : State) (a : Nat), s.dev.live = true →
    (∀ h, ∃ t, exec (.hbmUncorrectable a h) s = .next t ∧ t.pending = s.pending ∧ t.dev.mca.hbmUe = s.dev.mca.hbmUe + 1 ∧
      (h = .journal ∨ h = .mirror ∨ h = .metaArea → t.dev.glb.fatal = true) ∧
      (h = .other → t.dev.glb = s.dev.glb ∧ Recorded 0x0A03 (BitVec.ofNat 32 ((syncHot s).dev.anyPc)) s.dev t.dev) ∧
      (∀ b, h = .hotIndex b → tgetD t.dev.cat.hot [] b = []) ∧
      (h = .ckptStaging → t.dev.tango.ckptBad = true) ∧
      (∀ b, h = .ckptReceive b → ∀ c ∈ t.dev.tango.ckpts, c.seq % 2 = b % 2 → c.crcOk = false) ∧
      (∀ i q, h = .dupRecord i → s.dev.qp i = some q → q.state = .rts → ∃ q', t.dev.qp i = some q' ∧ q'.state = .error ∧ q'.cause = 1) ∧
      (∀ j, h = .parityBuffer j → Keeps [.mca, .out, .free] s.dev t.dev)) ∧
    (∀ g gsn sl, ringAt (s.dev.lg.at g).ring gsn = some sl → sl.state ≠ 0 →
      ∃ t, exec (.hbmUncorrectable a (.standbySlot g gsn)) s = .next t ∧
        (t.dev.lg.at g).dropped = (s.dev.lg.at g).dropped + 1 ∧ (t.dev.lg.at g).resident = (s.dev.lg.at g).resident - 1 ∧
        ∃ sl', ringAt (t.dev.lg.at g).ring gsn = some sl' ∧ sl'.state = 0 ∧ sl'.reason = 7)) ∧
  (∀ (s : State) (err : List Byte) (die : Bool) (h : HbmHolder), s.dev.live = true →
    (bits s.dev.regs.hbmCfg.toNat 7 0 = 0 → exec (.patrolRead err die h) s = .next (syncHot s)) ∧
    (bits s.dev.regs.hbmCfg.toNat 7 0 ≠ 0 → ∃ t, exec (.patrolRead err die h) s = .next t ∧ t.pending = s.pending ∧
      (s.dev.mca.patrolAt + 32 < hbmSize → t.dev.mca.patrolAt = s.dev.mca.patrolAt + 32 ∧ t.dev.mca.passes = s.dev.mca.passes) ∧
      (hbmSize ≤ s.dev.mca.patrolAt + 32 → t.dev.mca.patrolAt = 0 ∧ t.dev.mca.passes = s.dev.mca.passes + 1) ∧
      (∀ l, burstRead (xorBytes (burstCode (memBytes (syncHot s).hbm s.dev.mca.patrolAt 32)) err) die = .clean l →
        t.hbm = (syncHot s).hbm ∧ t.dev.mca.hbmCe = s.dev.mca.hbmCe ∧ t.dev.mca.hbmUe = s.dev.mca.hbmUe) ∧
      (∀ l, burstRead (xorBytes (burstCode (memBytes (syncHot s).hbm s.dev.mca.patrolAt 32)) err) die = .corrected l →
        t.dev.mca.hbmCe = s.dev.mca.hbmCe + 1 ∧ t.dev.mca.hbmUe = s.dev.mca.hbmUe ∧
        t.hbm = (if (syncHot s).dev.mca.wbuf.any (fun e => e.line == lineOf s.dev.mca.patrolAt) then (syncHot s).hbm
          else memStore (syncHot s).hbm s.dev.mca.patrolAt l)) ∧
      (burstRead (xorBytes (burstCode (memBytes (syncHot s).hbm s.dev.mca.patrolAt 32)) err) die = .uncorrectable →
        t.dev.mca.hbmUe = s.dev.mca.hbmUe + 1 ∧ t.dev.mca.hbmCe = s.dev.mca.hbmCe))))

/-- ALLOC sets a bit of its pool below the ceiling and answers its index, or answers POOL_EMPTY; on a bitmap in order it is the lowest clear
bit, and POOL_EMPTY means that none below the ceiling is clear. FREE clears the bit that it names without a check; both count the pool's
operation sequence and answer with it and the population, an ALLOC that succeeds with the buffer's address too, and POP answers population
and sequence and changes nothing (R359, R360, R361). A reseed is counted and starts the instance's request count again (R142); a failed
entropy source sets its bit, leaves the others, and is fatal, in every mode but reset (R142). At a segment's end the lane's job takes its
next segment, or, at its last, leaves: a message goes out, with its bytes as its key and counter seal them, and a channel's job that was to
stop ends with its status; a lane with no job stays idle (R137, R146, R152, R153). It states that .alloc, .free, .pop, .cipherSegmentEnd,
.drbgReseed and .entropyHealthFail each complete with the effect given, under conditions on the state and operands alone. -/
def Obligations.PoolAndCipherEvents : Prop :=
  (∀ (s : State) (n : Nat) (led : Bool), s.dev.live = true →
    (∃ d, exec (.alloc n led) s = .next { s with dev := d } ∧ Keeps [.bpm, .out] s.dev d ∧
      (d.bpm.pool n).opSeq = (s.dev.bpm.pool n).opSeq + 1 ∧
      (∀ i, (s.dev.bpm.alloc n).2 = some i → i < (s.dev.bpm.pool n).ceiling ∧ s.dev.bpm.firstBit n + i ∈ d.bpm.bits ∧
        (∀ x ∈ s.dev.bpm.bits, x ∈ d.bpm.bits) ∧
        d.out = s.dev.out ++ [.poolResp n (some i) (some (s.dev.bpm.bufferAt n i)) (d.bpm.population n) (d.bpm.pool n).opSeq]) ∧
      ((s.dev.bpm.alloc n).2 = none → d.bpm.bits = s.dev.bpm.bits ∧
        d.out = s.dev.out ++ [.poolResp n none none (d.bpm.population n) (d.bpm.pool n).opSeq])) ∧
    (s.dev.bpm.bits.Pairwise (· < ·) →
      (∀ i, (s.dev.bpm.alloc n).2 = some i → s.dev.bpm.firstBit n + i ∉ s.dev.bpm.bits ∧
        ∀ j, j < i → s.dev.bpm.firstBit n + j ∈ s.dev.bpm.bits) ∧
      ((s.dev.bpm.alloc n).2 = none → ∀ j, j < (s.dev.bpm.pool n).ceiling → s.dev.bpm.firstBit n + j ∈ s.dev.bpm.bits)) ∧
    (∀ i, ∃ d, exec (.free n i led) s = .next { s with dev := d } ∧ Keeps [.bpm, .out] s.dev d ∧
      (d.bpm.pool n).opSeq = (s.dev.bpm.pool n).opSeq + 1 ∧ s.dev.bpm.position n i ∉ d.bpm.bits ∧
      (∀ x, x ≠ s.dev.bpm.position n i → (x ∈ d.bpm.bits ↔ x ∈ s.dev.bpm.bits)) ∧
      d.out = s.dev.out ++ [.poolResp n none none (d.bpm.population n) (d.bpm.pool n).opSeq]) ∧
    exec (.pop n led) s = .next { s with dev := { s.dev with
      out := s.dev.out ++ [.poolResp n none none (s.dev.bpm.population n) (s.dev.bpm.pool n).opSeq] } }) ∧
  ((∀ (s : State) (i : Fin 6), s.dev.live = true →
    exec (.drbgReseed i) s = .next { s with dev := { s.dev with ciph := { s.dev.ciph with
      reseeds := s.dev.ciph.reseeds + 1, drbgReq := tput s.dev.ciph.drbgReq i.val 0 } } }) ∧
  (∀ (s : State) (i : Fin 6), s.dev.glb.porLow = false → s.dev.glb.fatal = false →
    ∃ d, exec (.entropyHealthFail i) s = .next { s with dev := d } ∧ d.glb.fatal = true ∧ d.ciph.fail.getLsbD i.val = true ∧
      (∀ j : Fin 6, s.dev.ciph.fail.getLsbD j.val = true → d.ciph.fail.getLsbD j.val = true) ∧
      (∀ p, (d.page p).state ≠ .ready)) ∧
  (∀ (s : State) (lane : Fin 2) (j : CJob), s.dev.live = true → laneJob lane s.dev.ciph = some j →
    (∀ o, j.aborting = none → j.segs ≤ 1 → j.msg = some o → ∃ d post, exec (.cipherSegmentEnd lane) s = .next { s with dev := d } ∧
      d.out = s.dev.out ++ wireOf (s.dev.page j.page) j :: o :: post) ∧
    (j.aborting = none → 1 < j.segs → s.dev.ciph.jobs = [] → laneJob (1 - lane) s.dev.ciph ≠ none → j.started = true → j.timed = true →
      2 ≤ j.page → j.page < 64 → s.dev.ciph.ended = [] → s.dev.repl = [] →
      ∃ d, exec (.cipherSegmentEnd lane) s = .next { s with dev := d } ∧ Keeps [.ciph] s.dev d ∧
        laneJob lane d.ciph = some { j with segs := j.segs - 1 } ∧ laneJob (1 - lane) d.ciph = laneJob (1 - lane) s.dev.ciph)) ∧
  (∀ (s : State) (lane : Fin 2), s.dev.live = true → s.dev.repl = [] → s.dev.ciph.ended = [] → laneJob lane s.dev.ciph = none →
    exec (.cipherSegmentEnd lane) s = .next s))

/-- COPY: addresses and length are multiples of 64, then the length fits, or it is answered so; a digest needs a free context and, where it is
keyed, a key slot of the channel's domain; a copy of nothing is done at once, and any other waits for the engine, with its context bound
(R156, R374). A burst moves the bytes to the next 4 KiB boundary of the destination at most, host memory's as they are and HBM's from the
BAR2 window, zeros where a burst is uncorrectable, and the copy goes on where it left off; with no channel ready there is no burst (R375,
R376). It states that .dmaBurst and .copy each complete with the effect given, under conditions on the state and operands alone. -/
def Obligations.CopyAndBurst : Prop :=
  (∀ (s : State) (h : Hdr) (src dst len space dig slot out : Nat), Starts 0x90 [6] h s.dev → space < 2 → dig < 5 →
    (src % 64 ≠ 0 ∨ dst % 64 ≠ 0 ∨ len % 64 ≠ 0 →
      ∃ d, exec (.copy h src dst len space dig slot out) s = .next { s with dev := d } ∧ Answered 0x90 h 4 0 0 s.dev d) ∧
    (src % 64 = 0 → dst % 64 = 0 → len % 64 = 0 →
      (2 ^ 40 < len ∨ (space = 1 ∧ bar2Size < src + len) →
        ∃ d, exec (.copy h src dst len space dig slot out) s = .next { s with dev := d } ∧ Answered 0x90 h 0x0D 0 0 s.dev d) ∧
      (len ≤ 2 ^ 40 → (space = 1 → src + len ≤ bar2Size) →
        (dig ≠ 0 → s.dev.freeCtx = none → ∃ d, exec (.copy h src dst len space dig slot out) s = .next { s with dev := d } ∧
          Answered 0x90 h 8 0 0 s.dev d) ∧
        (3 ≤ dig → s.dev.freeCtx ≠ none → (tget s.dev.ciph.hkeys slot).map (·.domain) ≠ some (s.dev.domain h.chan) →
          ∃ d, exec (.copy h src dst len space dig slot out) s = .next { s with dev := d } ∧ Answered 0x90 h 0x0E 0 0 s.dev d) ∧
        (dig = 0 ∨ s.dev.freeCtx ≠ none →
          (3 ≤ dig → (tget s.dev.ciph.hkeys slot).map (·.domain) = some (s.dev.domain h.chan)) →
          (len = 0 → ∃ d, exec (.copy h src dst len space dig slot out) s = .next { s with dev := d } ∧
            Answered 0x90 h 0 0 0 s.dev d ∧ Keeps [.hif, .out, .cat, .dma, .dgst] s.dev d) ∧
          (0 < len → ∃ d j, exec (.copy h src dst len space dig slot out) s = .next { s with dev := d } ∧ d.out = s.dev.out ∧
            d.job h.chan = some (.copy j) ∧ j.src = src ∧ j.dst = dst ∧ j.left = len ∧ j.hbm = (space == 1) ∧ j.moved = 0 ∧
            (∀ k, dig ≠ 0 → s.dev.freeCtx = some k → ∃ b, tget d.dgst.ctx k = some b ∧ b.chan = h.chan ∧ b.kind = dig ∧
              b.declared = some len ∧ b.dest = .host out)))))) ∧
  (∀ (s : State) (data : List Byte) (bad : Bool), s.dev.live = true → s.dev.glb.perstLow = false →
    (s.dev.dma.grant = none → exec (.dmaBurst data bad) s = .next (syncHot s)) ∧
    (∀ n x j, s.dev.dma.grant = some n → tget s.dev.dma.chs n = some x → s.dev.job x.chan = some (.copy j) →
      (∃ t ro post, exec (.dmaBurst data bad) s = .next t ∧ t.hbm = (syncHot s).hbm ∧
        t.dev.out = (syncHot s).dev.out ++ Out.hostWrite ro j.dst (if (j.hbm && bad) = true then zeros (burstLength j)
          else padTo (burstLength j) (if j.hbm = true then bar2Bytes (syncHot s) j.src (burstLength j) else data)) :: post) ∧
      (burstLength j < j.left → ∃ t, exec (.dmaBurst data bad) s = .next t ∧ t.pending = s.pending ∧
        t.dev.dma.bytes = s.dev.dma.bytes + BitVec.ofNat 64 (burstLength j) ∧
        Keeps [.out, .dma, .hif, .dgst, .mca, .free] s.dev t.dev ∧
        ∃ j', t.dev.job x.chan = some (.copy j') ∧ j'.left = j.left - burstLength j ∧ j'.dst = j.dst + burstLength j ∧
          j'.src = j.src + burstLength j)))

/-- A descriptor with a defined opcode and a reserved field that is not zero, or an opcode that its channel's type does not define, is answered
INVALID_FIELD and does nothing else (R260); NOP is answered OK on every type of channel (R267); NOTIFY waits, at most 16 at a time, and the
seventeenth is answered BUSY (R267). It states that .nop and .notify each complete with the effect given, under conditions on the state and
operands alone. -/
def Obligations.DescriptorChecks : Prop :=
  ∀ (s : State) (h : Hdr),
    (Starts 0x00 [1, 2, 3, 4, 5, 6, 7, 8] h s.dev → ∃ d, exec (.nop h) s = .next { s with dev := d } ∧
      Answered 0x00 h 0 0 0 s.dev d ∧ Keeps [.hif, .out, .cat, .dma] s.dev d) ∧
    (s.dev.picksUp h.chan = true → (pickup h 0x00 s.dev).2 = true → h.clean = false → ∃ d, exec (.nop h) s = .next { s with dev := d } ∧
      Answered 0x00 h 0x10 0 0 s.dev d ∧ Keeps [.hif, .out, .cat, .dma] s.dev d) ∧
    (∀ (r : Nat) (v : W384), s.dev.picksUp h.chan = true → (pickup h 0x0F s.dev).2 = true → s.dev.ctype h.chan ≠ 7 →
      ∃ d, exec (.mrExtend h r v) s = .next { s with dev := d } ∧ Answered 0x0F h 0x10 0 0 s.dev d ∧
        Keeps [.hif, .out, .cat, .dma] s.dev d) ∧
    (s.dev.picksUp h.chan = false → exec (.nop h) s = .next s) ∧
    (∀ sev : Nat, Starts 0x04 [7] h s.dev →
      (16 ≤ sev → ∃ d, exec (.notify h sev) s = .next { s with dev := d } ∧ Answered 0x04 h 0x10 0 0 s.dev d) ∧
      (sev < 16 → 16 ≤ s.dev.hif.notifies.length → ∃ d, exec (.notify h sev) s = .next { s with dev := d } ∧ Answered 0x04 h 8 0 0 s.dev d) ∧
      (sev < 16 → s.dev.hif.notifies.length < 16 → ∃ d, exec (.notify h sev) s = .next { s with dev := d } ∧ Keeps [.hif] s.dev d ∧
        d.hif.notifies = s.dev.hif.notifies ++ [(h, sev)]))

/-- CHANNEL_CREATE is answered INVALID_FIELD for an invalid field or a doorbell that is not at 0, BUSY before GLB_LOCK and for an index in use,
and a channel is there, of its type and with its handle, once it is answered OK (R257). ABORT of a descriptor that has not started has its
target complete with ABORTED and is then answered OK, and one of a channel with nothing outstanding is answered ALREADY (R268, R269); a COPY
channel with nothing outstanding is destroyed at once (R271); a handle that is stale is answered so (R255). It states that .channelCreate,
.channelDestroy and .abort each complete with the effect given, under conditions on the state and operands alone. -/
def Obligations.ChannelLife : Prop :=
  (∀ (s : State) (h : Hdr) (n : NewChan), Starts 0x01 [7] h s.dev →
    let c := Instr.channelCreate h n.index n.ctype n.domain n.sqLog2 n.cqLog2 n.vector n.modCount n.decPipe n.modTime n.group
      n.priority n.layout n.sqBase n.cqBase n.qp n.dbTail
    (s.dev.newChanOk n = false → ∃ d, exec c s = .next { s with dev := d } ∧ Answered 0x01 h 0x10 0 0 s.dev d) ∧
    (s.dev.newChanOk n = true →
      (s.dev.glb.locked = false ∨ (tget s.dev.hif.chans n.index).isSome = true →
        ∃ d, exec c s = .next { s with dev := d } ∧ Answered 0x01 h 8 0 0 s.dev d) ∧
      (s.dev.glb.locked = true → tget s.dev.hif.chans n.index = none → s.dev.typeFull n = false → n.dbTail ≠ 0 →
        ∃ d, exec c s = .next { s with dev := d } ∧ Answered 0x01 h 0x10 0 0 s.dev d) ∧
      (s.dev.glb.locked = true → tget s.dev.hif.chans n.index = none → s.dev.typeFull n = false → n.dbTail = 0 →
        ∀ p, s.dev.choosePipe n = some p → s.dev.hif.dying = [] → (n.ctype = 1 → s.dev.cat.takes = []) →
        ∃ d, exec c s = .next { s with dev := d } ∧
          Answered 0x01 h 0 ((d.handle n.index).setWidth 64) (if decodes n.ctype then BitVec.ofNat 64 p else 0) s.dev d ∧
          ∃ ch, tget d.hif.chans n.index = some ch ∧ ch.ctype = n.ctype ∧ ch.domain = n.domain ∧ ch.sqLog2 = n.sqLog2 ∧
            ch.cqLog2 = n.cqLog2 ∧ ch.vector = n.vector ∧ ch.decPipe = p ∧ ch.descs = [] ∧ ch.head = 0))) ∧
  (∀ (s : State) (h : Hdr) (handle tag : W32), s.dev.stale handle = true →
    (Starts 0x03 [7] h s.dev → ∃ d, exec (.abort h handle tag) s = .next { s with dev := d } ∧ Answered 0x03 h 9 0 0 s.dev d) ∧
    (Starts 0x02 [7] h s.dev → ∃ d, exec (.channelDestroy h handle) s = .next { s with dev := d } ∧ Answered 0x02 h 9 0 0 s.dev d)) ∧
  (∀ (s : State) (h : Hdr) (handle : W32) (ch : Chan) (x : Desc), s.dev.stale handle = false → handle.toNat % 4096 ≠ h.chan →
    tget s.dev.hif.chans (handle.toNat % 4096) = some ch → ch.descs = [x] → x.started = false → x.aborted = false →
    s.dev.hif.dying = [] → s.dev.hif.aborts = [] → Starts 0x03 [7] h s.dev →
    ∃ d, exec (.abort h handle x.tag) s = .next { s with dev := d } ∧ Answered 0x03 h 0 0 0 s.dev d ∧
      Answered x.opcode (hdrOf (handle.toNat % 4096) x) 1 0 0 s.dev d ∧
      ∃ ch', tget d.hif.chans (handle.toNat % 4096) = some ch' ∧ ch'.descs = []) ∧
  (∀ (s : State) (h : Hdr) (handle tag : W32) (ch : Chan), s.dev.stale handle = false → handle.toNat % 4096 ≠ h.chan →
    tget s.dev.hif.chans (handle.toNat % 4096) = some ch → ch.descs = [] →
    (Starts 0x03 [7] h s.dev → ∃ d, exec (.abort h handle tag) s = .next { s with dev := d } ∧ Answered 0x03 h 2 0 0 s.dev d) ∧
    (Starts 0x02 [7] h s.dev → handle.toNat % 4096 ≠ 0 → ch.job = none → ch.ctype = 6 → s.dev.hif.dying = [] → s.dev.hif.aborts = [] →
      ∃ d, exec (.channelDestroy h handle) s = .next { s with dev := d } ∧ tget d.hif.chans (handle.toNat % 4096) = none ∧
        Answered 0x02 h 0 0 0 s.dev d))

/-- A doorbell poll of a group whose page is there counts its lines, fetches what each doorbell submits, and makes the interval the shortest
when something changed; of a page that is absent it does nothing (R263, R264, R265). A failed access to ADMIN's rings stops ADMIN, and one
to another channel's entry puts that channel into the error state (R251). Interrupts (R273): the timer sends a channel's message for entries
that have none; unmasking a vector sends the message that its pending bit holds. It states that .doorbellPoll, .hostAccessError,
.msixModTimer and .msixUnmask each complete with the effect given, under conditions on the state and operands alone. -/
def Obligations.RingsAndInterrupts : Prop :=
  ((∀ (s : State) (g : Nat), s.dev.running = true → s.dev.glb.perstLow = false → g < 8 →
    (tgetD s.dev.regs.dbPage 0 g = 0 → ∀ l, exec (.doorbellPoll g l) s = .next s) ∧
    (tgetD s.dev.regs.dbPage 0 g ≠ 0 → ∃ d, exec (.doorbellPoll g []) s = .next { s with dev := d } ∧ Keeps [.hif] s.dev d ∧
      d.hif.dbReads = s.dev.hif.dbReads + BitVec.ofNat 64 (s.dev.linesOf g).length ∧ d.hif.chans = s.dev.hif.chans) ∧
    (∀ (r : DbRead) (ch : Chan), tgetD s.dev.regs.dbPage 0 g ≠ 0 → r.chan / 512 = g → tget s.dev.hif.chans r.chan = some ch →
      s.dev.picksUp r.chan = true → r.chan ≠ 0 → submitted ch r.tail ≠ 0 → submitted ch r.tail + ch.descs.length ≤ 2 ^ ch.sqLog2 - 1 →
      ∃ d, exec (.doorbellPoll g [r]) s = .next { s with dev := d } ∧
        d.hif.fetched = s.dev.hif.fetched + BitVec.ofNat 64 (submitted ch r.tail) ∧ tget d.hif.pollExp g = some 0 ∧
        ∃ ch', tget d.hif.chans r.chan = some ch' ∧ ch'.descs.length = ch.descs.length + submitted ch r.tail ∧
          ch'.head = (ch.head + submitted ch r.tail) % 2 ^ ch.sqLog2)) ∧
  (∀ (s : State), s.dev.live = true → s.dev.glb.perstLow = false →
    (exec (.hostAccessError (.doorbell 0)) s = .next { s with dev := { s.dev with hif := { s.dev.hif with
      errors := s.dev.hif.errors + 1, fault := true, running := false, stopping := false } } }) ∧
    (∀ c ch, c ≠ 0 → tget s.dev.hif.chans c = some ch → ch.error = false → s.dev.hif.notifies = [] →
      ∃ d, exec (.hostAccessError (.cplWrite c)) s = .next { s with dev := d } ∧ d.hif.errors = s.dev.hif.errors + 1 ∧
        (tget d.hif.chans c).map (·.error) = some true ∧ Recorded 0x0101 (BitVec.ofNat 32 c) s.dev d))) ∧
  (∀ (s : State), s.dev.live = true → s.dev.glb.perstLow = false →
    (∀ c ch, tget s.dev.hif.chans c = some ch →
      (ch.modTime = 0 ∨ ch.unsig = 0 → exec (.msixModTimer c) s = .next s) ∧
      (ch.modTime ≠ 0 → 0 < ch.unsig → ch.vector ≠ 0xFFFF → s.dev.hif.unmasked.contains ch.vector = true →
        ∃ d, exec (.msixModTimer c) s = .next { s with dev := d } ∧ Keeps [.hif, .out] s.dev d ∧
          d.out = s.dev.out ++ [.msix ch.vector] ∧ d.hif.msixSent = s.dev.hif.msixSent + 1 ∧
          (tget d.hif.chans c).map (·.unsig) = some 0)) ∧
    (∀ v, v < 2048 → ∃ d, exec (.msixUnmask v) s = .next { s with dev := d } ∧ Keeps [.hif, .out] s.dev d ∧
      d.hif.unmasked.contains v = true ∧ d.hif.pendBits.contains v = false ∧
      d.out = s.dev.out ++ (if s.dev.hif.pendBits.contains v then [.msix v] else [])))

/-- Cipher pages (R131 to R138, R153, R267, R499): PAGE_ASSIGN binds a FREE page to a domain; KEY_LOAD makes an ASSIGNED page READY with its
key, a class S page with its salt and counter too; PAGE_REKEY of a class S page takes a new key, at once or when the page is idle;
PAGE_ERASE makes a page ASSIGNED, its key gone, and PAGE_RELEASE makes it FREE. A page that is not FREE is not assigned, one that is not
ASSIGNED is neither loaded nor released, one that is not READY or EXHAUSTED is neither rekeyed nor erased, a class L page takes no salt,
counter or new key, the host loads, rekeys, erases and releases neither page 0 nor page 1, and a page operation waits while an erasure or a
rekey of its page does. It states that .pageAssign, .keyLoad, .pageRekey, .pageErase and .pageRelease each complete with the effect given,
under conditions on the state and operands alone. -/
def Obligations.PageLife : Prop :=
  (∀ (s : State) (h : Hdr) (p : Nat), p < 64 → (s.dev.page p).erase = none → (s.dev.page p).rekey = none →
    (∀ dom, 1 ≤ dom → dom ≤ 63 → Starts 0x08 [7] h s.dev →
      ((s.dev.page p).state = .free → ∃ d, exec (.pageAssign h p dom) s = .next { s with dev := d } ∧ Answered 0x08 h 0 0 0 s.dev d ∧
        (d.page p).state = .assigned ∧ (d.page p).domain = dom ∧ (∀ q, q ≠ p → d.page q = s.dev.page q)) ∧
      ((s.dev.page p).state ≠ .free → ∃ d, exec (.pageAssign h p dom) s = .next { s with dev := d } ∧
        Answered 0x08 h (if (s.dev.page p).domain = dom then 2 else 0x0E) 0 0 s.dev d ∧ d.ciph = s.dev.ciph)) ∧
    (∀ key salt ctr, Starts 0x09 [7] h s.dev →
      (p < 2 → ∃ d, exec (.keyLoad h p key salt ctr) s = .next { s with dev := d } ∧ Answered 0x09 h 0x0E 0 0 s.dev d ∧
        d.ciph = s.dev.ciph) ∧
      (2 ≤ p → (s.dev.page p).state ≠ .assigned → ∃ d, exec (.keyLoad h p key salt ctr) s = .next { s with dev := d } ∧
        Answered 0x09 h 8 0 0 s.dev d ∧ d.ciph = s.dev.ciph) ∧
      (2 ≤ p → (s.dev.page p).state = .assigned →
        (classS p = true ∧ ctr = ctrEnd ∨ classS p = false ∧ (salt ≠ 0 ∨ ctr ≠ 0) →
          ∃ d, exec (.keyLoad h p key salt ctr) s = .next { s with dev := d } ∧ Answered 0x09 h 0x10 0 0 s.dev d ∧
            d.ciph = s.dev.ciph) ∧
        (classS p = true ∧ ctr ≠ ctrEnd ∨ classS p = false ∧ salt = 0 ∧ ctr = 0 →
          ∃ d, exec (.keyLoad h p key salt ctr) s = .next { s with dev := d } ∧
            Answered 0x09 h 0 ((kcvOf (padTo 32 key)).setWidth 64) 0 s.dev d ∧ (d.page p).state = .ready ∧
            (d.page p).domain = (s.dev.page p).domain ∧ (d.page p).key = padTo 32 key ∧ (d.page p).salt = salt ∧
            (d.page p).ctr = ctr ∧ (d.page p).kcv = kcvOf (padTo 32 key) ∧ (∀ q, q ≠ p → d.page q = s.dev.page q)))) ∧
    (∀ key salt ctr, Starts 0x0A [7] h s.dev →
      (p < 2 → ∃ d, exec (.pageRekey h p key salt ctr) s = .next { s with dev := d } ∧ Answered 0x0A h 0x0E 0 0 s.dev d) ∧
      (2 ≤ p → (classS p = false ∨ ((s.dev.page p).state ≠ .ready ∧ (s.dev.page p).state ≠ .exhausted)) →
        ∃ d, exec (.pageRekey h p key salt ctr) s = .next { s with dev := d } ∧ Answered 0x0A h 8 0 0 s.dev d ∧
          d.page p = s.dev.page p) ∧
      (2 ≤ p → classS p = true → (s.dev.page p).state = .ready ∨ (s.dev.page p).state = .exhausted →
        (ctr = ctrEnd → ∃ d, exec (.pageRekey h p key salt ctr) s = .next { s with dev := d } ∧ Answered 0x0A h 0x10 0 0 s.dev d) ∧
        (ctr ≠ ctrEnd → s.dev.ciph.ended = [] →
          (s.dev.pageInUse p = false → ∃ d, exec (.pageRekey h p key salt ctr) s = .next { s with dev := d } ∧
            Answered 0x0A h 0 ((kcvOf (padTo 32 key)).setWidth 64) 0 s.dev d ∧ (d.page p).state = .ready ∧
            (d.page p).key = padTo 32 key ∧ (d.page p).salt = salt ∧ (d.page p).ctr = ctr) ∧
          (s.dev.pageInUse p = true → ∃ d, exec (.pageRekey h p key salt ctr) s = .next { s with dev := d } ∧ d.out = s.dev.out ∧
            (d.page p).rekey = some (h, padTo 32 key, salt, ctr) ∧ (d.page p).key = (s.dev.page p).key)))) ∧
    (Starts 0x0B [7] h s.dev →
      (p < 2 → ∃ d, exec (.pageErase h p) s = .next { s with dev := d } ∧ Answered 0x0B h 0x0E 0 0 s.dev d) ∧
      (2 ≤ p → (s.dev.page p).state = .assigned ∨ (s.dev.page p).state = .free →
        ∃ d, exec (.pageErase h p) s = .next { s with dev := d } ∧ Answered 0x0B h 8 0 0 s.dev d ∧ d.page p = s.dev.page p) ∧
      (2 ≤ p → (s.dev.page p).state = .ready ∨ (s.dev.page p).state = .exhausted → s.dev.pageInUse p = false → s.dev.ciph.ended = [] →
        s.dev.ciph.jobs = [] → ∃ d, exec (.pageErase h p) s = .next { s with dev := d } ∧ Answered 0x0B h 0 0 0 s.dev d ∧
          d.page p = { Page.reset p with state := .assigned, domain := (s.dev.page p).domain } ∧
          (∀ q, q ≠ p → d.page q = s.dev.page q))) ∧
    (Starts 0x0C [7] h s.dev →
      (p < 2 → ∃ d, exec (.pageRelease h p) s = .next { s with dev := d } ∧ Answered 0x0C h 0x0E 0 0 s.dev d ∧ d.ciph = s.dev.ciph) ∧
      (2 ≤ p → (s.dev.page p).state ≠ .assigned → ∃ d, exec (.pageRelease h p) s = .next { s with dev := d } ∧
        Answered 0x0C h 8 0 0 s.dev d ∧ d.ciph = s.dev.ciph) ∧
      (2 ≤ p → (s.dev.page p).state = .assigned → ∃ d, exec (.pageRelease h p) s = .next { s with dev := d } ∧
        Answered 0x0C h 0 0 0 s.dev d ∧ d.page p = Page.reset p ∧ (∀ q, q ≠ p → d.page q = s.dev.page q)))) ∧
  (∀ (s : State) (h : Hdr) (p : Nat), s.dev.picksUp h.chan = true → (s.dev.page p).erase ≠ none ∨ (s.dev.page p).rekey ≠ none →
    (∃ d, exec (.pageErase h p) s = .next { s with dev := d } ∧ d.out = s.dev.out ∧ d.page p = s.dev.page p) ∧
    (∀ key salt ctr, (∃ d, exec (.pageRekey h p key salt ctr) s = .next { s with dev := d } ∧ d.out = s.dev.out ∧
      d.page p = s.dev.page p)))

/-- HMAC key slots are bound to a domain and keep it; a slot in use is not erased (R157, R267). MR_EXTEND extends registers 6 and 7 alone, by
the hash of the register and the value (R158). ATTEST_QUOTE needs an identity and room for the quote; the quote goes to host memory, signed
by the device key over the SHA-384 of its body, and its length is answered (R441). The secret of the signature is the model's free value
(notes/assumptions/2.md). It states that .hkeyLoad, .hkeyErase, .mrExtend and .attestQuote each complete with the effect given, under
conditions on the state and operands alone. -/
def Obligations.MeasurementAndQuote : Prop :=
  (∀ (s : State) (h : Hdr),
    (∀ slot dom key, slot < 64 → 1 ≤ dom → dom ≤ 63 → 1 ≤ key.length → key.length ≤ 128 → Starts 0x0D [7] h s.dev →
      (tget s.dev.ciph.hkeys slot = none → ∃ d, exec (.hkeyLoad h slot dom key) s = .next { s with dev := d } ∧
        Answered 0x0D h 0 0 0 s.dev d ∧ tget d.ciph.hkeys slot = some { domain := dom, key := key } ∧
        d.ciph.pages = s.dev.ciph.pages) ∧
      (∀ k, tget s.dev.ciph.hkeys slot = some k → k.domain = dom → ∃ d, exec (.hkeyLoad h slot dom key) s = .next { s with dev := d } ∧
        Answered 0x0D h 0 0 0 s.dev d ∧ tget d.ciph.hkeys slot = some { domain := dom, key := key }) ∧
      (∀ k, tget s.dev.ciph.hkeys slot = some k → k.domain ≠ dom → ∃ d, exec (.hkeyLoad h slot dom key) s = .next { s with dev := d } ∧
        Answered 0x0D h 0x0E 0 0 s.dev d ∧ d.ciph = s.dev.ciph)) ∧
    (∀ slot, slot < 64 → Starts 0x0E [7] h s.dev →
      (tget s.dev.ciph.hkeys slot = none → ∃ d, exec (.hkeyErase h slot) s = .next { s with dev := d } ∧
        Answered 0x0E h 2 0 0 s.dev d ∧ d.ciph = s.dev.ciph) ∧
      ((tget s.dev.ciph.hkeys slot).isSome = true → s.dev.hkeyHeld slot = true →
        ∃ d, exec (.hkeyErase h slot) s = .next { s with dev := d } ∧ Answered 0x0E h 8 0 0 s.dev d ∧ d.ciph = s.dev.ciph) ∧
      ((tget s.dev.ciph.hkeys slot).isSome = true → s.dev.hkeyHeld slot = false →
        ∃ d, exec (.hkeyErase h slot) s = .next { s with dev := d } ∧ Answered 0x0E h 0 0 0 s.dev d ∧
          tget d.ciph.hkeys slot = none)) ∧
    (∀ reg v, reg < 32 → Starts 0x0F [7] h s.dev →
      (reg ≠ 6 → reg ≠ 7 → ∃ d, exec (.mrExtend h reg v) s = .next { s with dev := d } ∧ Answered 0x0F h 0x0E 0 0 s.dev d ∧
        d.dgst = s.dev.dgst) ∧
      (reg = 6 ∨ reg = 7 → ∃ d, exec (.mrExtend h reg v) s = .next { s with dev := d } ∧ Answered 0x0F h 0 0 0 s.dev d ∧
        d.mr reg = extendValue (s.dev.mr reg) (beBytes v) ∧ (∀ n, n ≠ reg → d.mr n = s.dev.mr n)))) ∧
  (∀ (s : State) (h : Hdr) (nonce : W256) (a n : Nat), Starts 0x23 [7] h s.dev →
    (s.dev.boot.idOk = false → ∃ d, exec (.attestQuote h nonce a n) s = .next { s with dev := d } ∧ Answered 0x23 h 0x0C 0 0 s.dev d) ∧
    (s.dev.boot.idOk = true → n < s.dev.quoteLen → ∃ d, exec (.attestQuote h nonce a n) s = .next { s with dev := d } ∧
      Answered 0x23 h 0x0D 0 0 s.dev d) ∧
    (s.dev.boot.idOk = true → s.dev.quoteLen ≤ n → ∃ d, exec (.attestQuote h nonce a n) s = .next { s with dev := d } ∧
      Answered 0x23 h 0 (BitVec.ofNat 64 s.dev.quoteLen) 0 s.dev d ∧ (s.dev.quoteBody nonce).length = s.dev.quoteLen - 96 ∧
      ∃ ro, Out.hostWrite ro a (s.dev.quoteBody nonce ++ beBytes (deviceSign (sha384 (s.dev.quoteBody nonce)) s.dev.free)) ∈ d.out))

/-- Volumes: VOLUME_CREATE needs its layout and a number that is not taken, VOLUME_DELETE an empty volume (R216, R267). LAYOUT_LOAD adds a valid
layout, up to 8, and labels its drives anew (R173, R174, R176), and is turned away while the heads run unlike firmware (R309). DRIVE_PORT
turns a port on or off (R267). Deletion and snapshots: a take that is open, closing or being read is not deleted; one that is not is
deleted, and so is a closed segment of a Reel take, in a metadata commit; a snapshot takes the next number and joins one likewise; the
release of an unknown snapshot is answered ALREADY, one that is read waits; VERIFY_SEAL needs a closed take or segment and answers which
parts verify (R234 to R237, R240, R244, R247, R267). It states that .layoutLoad, .volumeCreate, .volumeDelete, .takeDelete, .snapVolume,
.snapRelease, .verifySeal and .drivePort each complete with the effect given, under conditions on the state and operands alone. -/
def Obligations.VolumesAndCatalogue : Prop :=
  ((∀ (s : State) (h : Hdr) (v lay : Nat) (enc ded : Bool) (kcv dkcv : W32), 1 ≤ v → v ≤ 0xFFFE → Starts 0x11 [7] h s.dev →
    (s.dev.layout lay = none → ∃ d, exec (.volumeCreate h v lay enc ded kcv dkcv) s = .next { s with dev := d } ∧
      Answered 0x11 h 0x10 0 0 s.dev d ∧ d.cat.volumes = s.dev.cat.volumes) ∧
    ((s.dev.layout lay).isSome = true → (s.dev.volume v).isSome = true →
      ∃ d, exec (.volumeCreate h v lay enc ded kcv dkcv) s = .next { s with dev := d } ∧ Answered 0x11 h 8 0 0 s.dev d ∧
        d.cat.volumes = s.dev.cat.volumes) ∧
    ((s.dev.layout lay).isSome = true → s.dev.volume v = none →
      ∃ d, exec (.volumeCreate h v lay enc ded kcv dkcv) s = .next { s with dev := d } ∧ Answered 0x11 h 0 0 0 s.dev d ∧
        d.cat.volumes = s.dev.cat.volumes ++ [Volume.mk v lay enc ded kcv dkcv 1 1])) ∧
  (∀ (s : State) (h : Hdr) (v : Nat), Starts 0x12 [7] h s.dev →
    (s.dev.volume v = none → ∃ d, exec (.volumeDelete h v) s = .next { s with dev := d } ∧ Answered 0x12 h 2 0 0 s.dev d) ∧
    ((s.dev.volume v).isSome = true → (s.dev.cat.takes.any (fun t => t.volume == v && t.state != .deleted) = true ∨
        s.dev.cat.snaps.any (fun x => x.volume == v) = true) →
      ∃ d, exec (.volumeDelete h v) s = .next { s with dev := d } ∧ Answered 0x12 h 8 0 0 s.dev d ∧
        d.cat.volumes = s.dev.cat.volumes) ∧
    ((s.dev.volume v).isSome = true → s.dev.cat.takes.any (fun t => t.volume == v && t.state != .deleted) = false →
      s.dev.cat.snaps.any (fun x => x.volume == v) = false →
      ∃ d, exec (.volumeDelete h v) s = .next { s with dev := d } ∧ Answered 0x12 h 0 0 0 s.dev d ∧
        d.cat.volumes = s.dev.cat.volumes.filter (fun x => x.id != v))) ∧
  (∀ (s : State) (h : Hdr) (id n : Nat) (l : LayoutRec) (info : List DriveInfo), Starts 0x10 [7] h s.dev → s.dev.glb.dpStarted = true →
    let len := if l.table.isEmpty = true then n + 4608 else n
    let ok := layoutOk s.dev id len (withTable l) (s.dev.leastNs (withTable l) info)
    (s.dev.versionHeld = true → ∃ d, exec (.layoutLoad h id n l info) s = .next { s with dev := d } ∧
      Answered 0x10 h 0x0F 0 0 s.dev d ∧ d.vault = s.dev.vault) ∧
    (s.dev.versionHeld = false →
      (ok = false → ∃ d, exec (.layoutLoad h id n l info) s = .next { s with dev := d } ∧
        Answered 0x10 h 0x10 0 0 s.dev d ∧ d.vault = s.dev.vault) ∧
      (ok = true → 8 ≤ s.dev.vault.layouts.length →
        ∃ d, exec (.layoutLoad h id n l info) s = .next { s with dev := d } ∧ Answered 0x10 h 8 0 0 s.dev d ∧ d.vault = s.dev.vault) ∧
      (ok = true → s.dev.vault.layouts.length < 8 →
        (∀ i ∈ info, (withTable l).has i.slot = true → (s.dev.drive i.slot).state ≠ .absent) →
        ∃ d, exec (.layoutLoad h id n l info) s = .next { s with dev := d } ∧ Answered 0x10 h 0 0 0 s.dev d ∧
          d.vault.layouts = s.dev.vault.layouts ++ [withTable l] ∧ d.disk.layouts = d.vault.layouts ∧
          d.vault.labelSeq = next64 s.dev.vault.labelSeq))) ∧
  (∀ (s : State) (h : Hdr) (port : Nat), port < 48 → Starts 0x1A [7] h s.dev → s.dev.glb.dpStarted = true →
    (∃ d, exec (.drivePort h port 1 []) s = .next { s with dev := d } ∧ Answered 0x1A h 0 0 0 s.dev d ∧
      (d.drive port).portOn = true ∧ (∀ q, q ≠ port → d.drive q = s.dev.drive q)) ∧
    (∃ d, exec (.drivePort h port 0 []) s = .next { s with dev := d } ∧ Answered 0x1A h 0 0 0 s.dev d ∧
      (d.drive port).portOn = false ∧ (d.drive port).linked = false ∧ (∀ q, q ≠ port → d.drive q = s.dev.drive q)))) ∧
  ((∀ (s : State) (h : Hdr) (v id : Nat), Starts 0x13 [7] h s.dev →
    (s.dev.take v id = none → ∃ d, exec (.takeDelete h v id 0) s = .next { s with dev := d } ∧ Answered 0x13 h 2 0 0 s.dev d) ∧
    (∀ t, s.dev.take v id = some t → t.state ≠ .deleted → (t.active = true ∨ s.dev.readsTake v id = true) →
      ∃ d, exec (.takeDelete h v id 0) s = .next { s with dev := d } ∧ Answered 0x13 h 8 0 0 s.dev d ∧ d.vault = s.dev.vault) ∧
    (∀ t, s.dev.take v id = some t → t.state ≠ .deleted → t.active = false → s.dev.readsTake v id = false →
      ∃ d, exec (.takeDelete h v id 0) s = .next { s with dev := d } ∧ Answered 0x13 h 0 0 0 s.dev d ∧
        (d.vault.mdcAgain = true ∨ d.vault.mdc.isSome = true) ∧
        (∀ x ∈ d.cat.takes, x.volume = v → x.id = id → x.state = .deleted)) ∧
    (∀ t r seg, s.dev.take v id = some t → t.state ≠ .deleted → t.reel = some r → seg ≠ 0 →
      (r.segs.find? (fun x => x.id == seg && x.gone == 0) = none →
        ∃ d, exec (.takeDelete h v id seg) s = .next { s with dev := d } ∧ Answered 0x13 h 2 0 0 s.dev d ∧ d.vault = s.dev.vault) ∧
      (∀ x, r.segs.find? (fun x => x.id == seg && x.gone == 0) = some x →
        (x.closed = false ∨ x.reg.isSome = true ∨ s.dev.readsTake v id = true →
          ∃ d, exec (.takeDelete h v id seg) s = .next { s with dev := d } ∧ Answered 0x13 h 8 0 0 s.dev d ∧ d.vault = s.dev.vault) ∧
        (x.closed = true → x.reg = none → s.dev.readsTake v id = false → t.volume = v → t.id = id →
          ∃ d, exec (.takeDelete h v id seg) s = .next { s with dev := d } ∧ Answered 0x13 h 0 0 0 s.dev d ∧
            (d.vault.mdcAgain = true ∨ d.vault.mdc.isSome = true) ∧
            ∃ t' r', d.take v id = some t' ∧ t'.reel = some r' ∧ ∀ y ∈ r'.segs, y.id = seg → y.gone ≠ 0)))) ∧
  (∀ (s : State) (h : Hdr) (v : Nat), Starts 0x14 [7] h s.dev →
    (s.dev.volume v = none → ∃ d, exec (.snapVolume h v) s = .next { s with dev := d } ∧ Answered 0x14 h 0x10 0 0 s.dev d) ∧
    ((s.dev.volume v).isSome = true → 1024 ≤ s.dev.cat.snaps.length →
      ∃ d, exec (.snapVolume h v) s = .next { s with dev := d } ∧ Answered 0x14 h 8 0 0 s.dev d ∧ d.cat.snaps = s.dev.cat.snaps) ∧
    ((s.dev.volume v).isSome = true → s.dev.cat.snaps.length < 1024 →
      ∃ d, exec (.snapVolume h v) s = .next { s with dev := d } ∧
        Answered 0x14 h 0 (BitVec.ofNat 64 s.dev.cat.nextSnap) 0 s.dev d ∧ d.cat.nextSnap = s.dev.cat.nextSnap + 1 ∧
        d.cat.snaps.map (·.id) = s.dev.cat.snaps.map (·.id) ++ [s.dev.cat.nextSnap] ∧
        (d.vault.mdcAgain = true ∨ d.vault.mdc.isSome = true))) ∧
  (∀ (s : State) (h : Hdr) (n : Nat), Starts 0x15 [7] h s.dev →
    (s.dev.cat.snaps.any (·.id == n) = false →
      ∃ d, exec (.snapRelease h n) s = .next { s with dev := d } ∧ Answered 0x15 h 2 0 0 s.dev d ∧ d.cat.snaps = s.dev.cat.snaps) ∧
    (s.dev.cat.snaps.any (·.id == n) = true → s.dev.readsSnap n = false → s.dev.cat.snapWaits = [] →
      ∃ d, exec (.snapRelease h n) s = .next { s with dev := d } ∧ Answered 0x15 h 0 0 0 s.dev d ∧
        d.cat.snaps = s.dev.cat.snaps.filter (fun x => x.id != n)) ∧
    (s.dev.cat.snaps.any (·.id == n) = true → s.dev.readsSnap n = true → s.dev.cat.snapWaits = [] →
      ∃ d, exec (.snapRelease h n) s = .next { s with dev := d } ∧ d.out = s.dev.out ∧ d.cat.snaps = s.dev.cat.snaps ∧
        d.cat.snapWaits = [(h, n)])) ∧
  (∀ (s : State) (h : Hdr) (v id : Nat), Starts 0x16 [7] h s.dev →
    (s.dev.take v id = none → ∃ d, exec (.verifySeal h v id 0) s = .next { s with dev := d } ∧ Answered 0x16 h 0x10 0 0 s.dev d) ∧
    (∀ t, s.dev.take v id = some t → (t.state = .open_ ∨ t.state = .closing) →
      ∃ d, exec (.verifySeal h v id 0) s = .next { s with dev := d } ∧ Answered 0x16 h 8 0 0 s.dev d) ∧
    (∀ t, s.dev.take v id = some t → t.state = .closed_ →
      ∃ d, exec (.verifySeal h v id 0) s = .next { s with dev := d } ∧
        Answered 0x16 h (((t.parts.map (verifyPart s.dev t)).find? (· != 0)).getD 0) (BitVec.ofNat 64 (verifiedParts s.dev t)) 0 s.dev d ∧
        Keeps [.hif, .out, .cat, .dma] s.dev d) ∧
    (∀ t r x, s.dev.take v id = some t → t.state ≠ .deleted → t.reel = some r → r.segs.find? (fun y => y.id == x.id && y.gone == 0) = some x →
      x.id ≠ 0 → (x.closed = false → ∃ d, exec (.verifySeal h v id x.id) s = .next { s with dev := d } ∧ Answered 0x16 h 8 0 0 s.dev d) ∧
        (x.closed = true → verifySegment s.dev t x ≠ 0 → ∃ d, exec (.verifySeal h v id x.id) s = .next { s with dev := d } ∧
          Answered 0x16 h (verifySegment s.dev t x) 0 0 s.dev d) ∧
        (∀ p, x.closed = true → verifySegment s.dev t x = 0 → t.parts.find? (·.mine) = some p →
          ∃ d, exec (.verifySeal h v id x.id) s = .next { s with dev := d } ∧ Answered 0x16 h 0 (BitVec.ofNat 64 (2 ^ p.idx)) 0 s.dev d))))

/-- GROUP_CTL disables a group at once, starts one that is down, and is answered BUSY before GLB_LOCK; PORT_ROLE asks for the other role and is
answered ALREADY for the role that the port has (R66, R267). It states that .groupCtl and .portRole each complete with the effect given,
under conditions on the state and operands alone. -/
def Obligations.LinkOperations : Prop :=
  (∀ (s : State) (h : Hdr) (g : Fin 4), Starts 0x18 [7] h s.dev →
    (∀ a, a < 2 → s.dev.glb.locked = false → ∃ d, exec (.groupCtl h g.val a) s = .next { s with dev := d } ∧
      Answered 0x18 h 8 0 0 s.dev d ∧ d.sl = s.dev.sl) ∧
    (s.dev.glb.locked = true → ∃ d, exec (.groupCtl h g.val 0) s = .next { s with dev := d } ∧ (d.sl.groups.at g).link = .disabled ∧
      Answered 0x18 h (if (s.dev.sl.groups.at g).link = .disabled then 2 else 0) 0 0 s.dev d) ∧
    (s.dev.glb.locked = true → s.dev.groupEn g = true →
      ((s.dev.sl.groups.at g).link = .disabled ∨ (s.dev.sl.groups.at g).link = .down →
        ∃ d, exec (.groupCtl h g.val 1) s = .next { s with dev := d } ∧ Answered 0x18 h 0 0 0 s.dev d ∧
          (d.sl.groups.at g).link = .training) ∧
      ((s.dev.sl.groups.at g).link ≠ .disabled → (s.dev.sl.groups.at g).link ≠ .down →
        ∃ d, exec (.groupCtl h g.val 1) s = .next { s with dev := d } ∧ Answered 0x18 h 2 0 0 s.dev d ∧ d.sl = s.dev.sl))) ∧
  (∀ (s : State) (h : Hdr) (g a : Nat), 4 ≤ g → s.dev.picksUp h.chan = true → (pickup h 0x18 s.dev).2 = true →
    ∃ d, exec (.groupCtl h g a) s = .next { s with dev := d } ∧ Answered 0x18 h 0x10 0 0 s.dev d) ∧
  (∀ (s : State) (h : Hdr) (r : Nat), r < 2 → Starts 0x19 [7] h s.dev →
    (s.dev.glb.locked = false ∨ s.dev.roleFree = false →
      ∃ d, exec (.portRole h r) s = .next { s with dev := d } ∧ Answered 0x19 h 8 0 0 s.dev d ∧ d.sl = s.dev.sl) ∧
    (s.dev.glb.locked = true → s.dev.roleFree = true → s.dev.sl.player = (r == 1) → s.dev.sl.roleReq = none →
      ∃ d, exec (.portRole h r) s = .next { s with dev := d } ∧ Answered 0x19 h 2 0 0 s.dev d ∧ d.sl = s.dev.sl) ∧
    (s.dev.glb.locked = true → s.dev.roleFree = true → s.dev.sl.player ≠ (r == 1) →
      ∃ d, exec (.portRole h r) s = .next { s with dev := d } ∧ Answered 0x19 h 0 0 0 s.dev d ∧ d.sl.roleReq = some (r == 1) ∧
        d.sl.player = s.dev.sl.player))

/-- Firmware staging, activation and confirmation (R429 to R434): FW_STAGE is BUSY during a trial, another staging or an activation, without a
card or with a card it does not read, and for want of a context; its length must fit; otherwise it takes the slot that does not run, which
is EMPTY meanwhile; a staged image that passes fills it, and a certificate takes its place; FW_ACTIVATE pauses the firmware on a valid image
and rejects the slot of another; RUNNING ends the pause, and a timeout undoes it: the slot is REJECTED; FW_CONFIRM ends a trial, confirms
the slot and raises the security version. It states that .fwStage, .fwActivate, .fwRunning, .activationTimeout, .fwConfirm and
.stagingComplete each complete with the effect given, under conditions on the state and operands alone. -/
def Obligations.FirmwareUpdate : Prop :=
  (∀ (s : State) (h : Hdr) (blk len : Nat) (card : Option Image) (sd : Bool), Starts 0x20 [7] h s.dev →
    ((s.dev.boot.trial || s.dev.boot.busy) = true ∨ card = none ∨ sd = false → ∃ d,
      exec (.fwStage h blk len card sd) s = .next { s with dev := d } ∧ Answered 0x20 h 8 0 0 s.dev d ∧ d.boot = s.dev.boot) ∧
    (∀ i, (s.dev.boot.trial || s.dev.boot.busy) = false → card = some i → sd = true →
      (len % 64 ≠ 0 ∨ 33554432 < len ∨ len ≠ i.length → ∃ d, exec (.fwStage h blk len card sd) s = .next { s with dev := d } ∧
        Answered 0x20 h 0x0D 0 0 s.dev d ∧ d.boot = s.dev.boot) ∧
      (len % 64 = 0 → len ≤ 33554432 → len = i.length →
        (s.dev.openCtx = none → ∃ d, exec (.fwStage h blk len card sd) s = .next { s with dev := d } ∧
          Answered 0x20 h 8 0 0 s.dev d ∧ d.boot = s.dev.boot) ∧
        (s.dev.openCtx.isSome = true → ∃ d, exec (.fwStage h blk len card sd) s = .next { s with dev := d } ∧
          d.boot.staging = some { h := h, slot := otherSlot s.dev.boot.slot, length := len } ∧
          (i.imageType ≠ 2 → d.boot.slotEnt (otherSlot s.dev.boot.slot) = .empty ∧
            d.out = s.dev.out ++ [.dirWrite d.boot.dirSeq d.boot.dirBytes] ∧ d.boot.dirSeq = next64 s.dev.boot.dirSeq) ∧
          (i.imageType = 2 → d.out = s.dev.out))))) ∧
  (∀ (s : State) (oc : Nat) (i : Image), s.dev.working = true →
    (s.dev.boot.staging = none → exec (.stagingComplete oc i) s = .next s) ∧
    (∀ g, s.dev.boot.staging = some g → s.dev.outstanding g.h.chan g.h.tag = true → tget s.dev.hif.dying g.h.chan = none →
      s.dev.hif.notifies = [] → ∃ d, exec (.stagingComplete oc i) s = .next { s with dev := d } ∧ d.boot.staging = none ∧
        (stageStatus oc i s.dev ≠ 0 → Answered 0x20 g.h (stageStatus oc i s.dev) 0 0 s.dev d) ∧
        (stageStatus oc i s.dev = 0 → i.imageType ≠ 2 → d.boot.slotEnt g.slot = entryOf 1 i ∧
          Answered 0x20 g.h 0 (BitVec.ofNat 64 g.slot) 0 s.dev d ∧ Recorded 0x0E06 (BitVec.ofNat 32 g.slot) s.dev d) ∧
        (stageStatus oc i s.dev = 0 → i.imageType = 2 → d.boot.identity = some i.certs ∧ d.boot.idOk = leafMatches i.certs ∧
          Answered 0x20 g.h 0 2 0 s.dev d))) ∧
  (∀ (s : State) (h : Hdr), Starts 0x21 [7] h s.dev →
    (s.dev.mayActivate = false → ∃ d, exec (.fwActivate h) s = .next { s with dev := d } ∧ Answered 0x21 h 8 0 0 s.dev d ∧
      d.boot = s.dev.boot) ∧
    (∀ i, s.dev.mayActivate = true → (s.dev.boot.slotEnt (otherSlot s.dev.boot.slot)).image = some i → s.dev.hif.notifies = [] →
      ∃ d, exec (.fwActivate h) s = .next { s with dev := d } ∧
        (i.valid s.dev.boot.otpSvn s.dev.boot.revoked = false → Answered 0x21 h 6 0 0 s.dev d ∧ d.boot.stage = s.dev.boot.stage ∧
          (d.boot.slotEnt (otherSlot s.dev.boot.slot)).state = 5) ∧
        (i.valid s.dev.boot.otpSvn s.dev.boot.revoked = true → d.boot.stage = 4 ∧ d.glb.pauseAt = s.dev.now ∧
          d.boot.activations = s.dev.boot.activations + 1 ∧ d.mr 1 = extendValue (s.dev.mr 1) (beBytes i.digest) ∧
          d.boot.slot = s.dev.boot.slot ∧ ∃ a, d.boot.activating = some a ∧ a.h = h ∧ a.slot = otherSlot s.dev.boot.slot))) ∧
  (∀ (s : State) (a : Activating), s.dev.live = true → s.dev.boot.stage = 4 → s.dev.boot.activating = some a → s.dev.hif.notifies = [] →
    (∀ i, (s.dev.boot.slotEnt a.slot).image = some i → ∃ d, exec .fwRunning s = .next { s with dev := d } ∧ d.boot.stage = 3 ∧
      d.boot.slot = a.slot ∧ d.boot.activating = none ∧ d.boot.fwVersion = i.fwVersion ∧
      (s.dev.outstanding a.h.chan a.h.tag = true → tget s.dev.hif.dying a.h.chan = none → s.dev.glb.fatal = false →
        s.dev.silentChan a.h.chan = false → Answered 0x21 a.h 0 0 0 s.dev d)) ∧
    (∀ t, ∃ d, exec (.activationTimeout false t) s = .next { s with dev := d } ∧ d.boot.stage = 3 ∧ d.boot.activating = none ∧
      (d.boot.slotEnt a.slot).state = 5 ∧ d.boot.slot = s.dev.boot.slot ∧
      (s.dev.outstanding a.h.chan a.h.tag = true → tget s.dev.hif.dying a.h.chan = none → s.dev.glb.fatal = false →
        s.dev.silentChan a.h.chan = false → Answered 0x21 a.h 0x0C 0 0 s.dev d))) ∧
  (∀ (s : State) (h : Hdr), Starts 0x22 [7] h s.dev →
    (s.dev.boot.trial = false → ∃ d, exec (.fwConfirm h) s = .next { s with dev := d } ∧ Answered 0x22 h 2 0 0 s.dev d ∧
      d.boot = s.dev.boot) ∧
    (s.dev.boot.trial = true → s.dev.hif.notifies = [] → ∃ d, exec (.fwConfirm h) s = .next { s with dev := d } ∧
      Answered 0x22 h 0 0 0 s.dev d ∧ d.boot.trial = false ∧ (s.dev.boot.slot < 2 →
      d.boot.otpSvn = max s.dev.boot.otpSvn (s.dev.boot.slotEnt s.dev.boot.slot).svn ∧
      (d.boot.slotEnt s.dev.boot.slot).state = 3)))

/-- HANDOVER: a giving head must own what it gives, a taking one what it has already is answered ALREADY, one that the pair cannot take up now
is answered BUSY, and a request that may go ahead begins the handover (R301, R305). SHUTDOWN enters reduced power: SiethLink idles, the dump
is armed and the partner is told (R194, R282). It states that .handover and .shutdown each complete with the effect given, under conditions
on the state and operands alone. -/
def Obligations.HandoverAndShutdown : Prop :=
  (∀ (s : State) (h : Hdr) (m : BitVec 4), m ≠ 0 → Starts 0x1B [7] h s.dev →
    ((groupsIn m).all s.dev.owns = false → ∃ d, exec (.handover h m 0) s = .next { s with dev := d } ∧
      Answered 0x1B h 0x0E 0 0 s.dev d ∧ d.tango = s.dev.tango) ∧
    ((groupsIn m).all s.dev.owns = true →
      (s.dev.handBusy m 0 = true → ∃ d, exec (.handover h m 0) s = .next { s with dev := d } ∧
        Answered 0x1B h 8 0 0 s.dev d ∧ d.tango = s.dev.tango) ∧
      (s.dev.handBusy m 0 = false → ∃ d, exec (.handover h m 0) s = .next { s with dev := d } ∧
        d.tango.hand = some (.start m true (some h) 0))) ∧
    ((groupsIn m).all s.dev.owns = true → ∃ d, exec (.handover h m 1) s = .next { s with dev := d } ∧
      Answered 0x1B h 2 0 0 s.dev d ∧ d.tango = s.dev.tango) ∧
    ((groupsIn m).all s.dev.owns = false →
      (s.dev.tango.takeoverHeld = true → s.dev.tango.hand = none → ∃ d, exec (.handover h m 1) s = .next { s with dev := d } ∧
        d.tango.hand = some (.start m false (some h) 9) ∧ d.tango.owing = true) ∧
      (s.dev.tango.takeoverHeld = false → s.dev.handBusy m 1 = true →
        ∃ d, exec (.handover h m 1) s = .next { s with dev := d } ∧ Answered 0x1B h 8 0 0 s.dev d ∧ d.tango = s.dev.tango) ∧
      (s.dev.tango.takeoverHeld = false → s.dev.handBusy m 1 = false →
        ∃ d, exec (.handover h m 1) s = .next { s with dev := d } ∧ d.tango.hand = some (.start m false (some h) 1) ∧
          (Speaks s.dev → Out.handReq m 1 ∈ d.out)))) ∧
  (∀ (s : State) (h : Hdr), Starts 0x1C [7] h s.dev → ∃ d, exec (.shutdown h) s = .next { s with dev := d } ∧
    d.glb.reduced = true ∧ d.glb.shut = some h ∧ d.vault.dump = .armed ∧ d.tango.state = 4 ∧ d.live = false ∧ Out.slIdle ∈ d.out ∧
    (Speaks s.dev → Out.leaving 1 ∈ d.out))

/-- PWRFAIL_N and the supply monitors enter reduced power, once only and not while the boot ROM holds, and while POR_N is low have no effect
(R194, R487, R488). The watchdog stops the head, once the cores run; an access by a core to nothing is an error to that core and a record
(R29, R30). The journal dump goes in steps (R194): the journal freezes and its live records are written to two drives, then the two headers,
then the head holds and an outstanding SHUTDOWN is answered; with no journal or no pair of drives it holds at once. It states that
.pwrfailN, .supplyMonitorTrip, .dumpFreeze, .dumpBodiesDone, .dumpComplete, .watchdog and .coreAccess each complete with the effect given,
under conditions on the state and operands alone. -/
def Obligations.PowerAndDump : Prop :=
  ((∀ (s : State) (r : Fin 3), s.dev.glb.porLow = true → exec .pwrfailN s = .next s ∧ exec (.supplyMonitorTrip r) s = .next s) ∧
  (∀ (s : State) (r : Fin 3), s.dev.live = true → s.dev.glb.bootHold = false →
    (∃ d, exec .pwrfailN s = .next { s with dev := d } ∧ d.glb.pwrfail = true ∧ d.glb.pwrHigh = false ∧ d.glb.reduced = true ∧
      d.vault.dump = .armed ∧ d.live = false ∧ Out.slIdle ∈ d.out ∧ (Speaks s.dev → Out.leaving 0 ∈ d.out)) ∧
    (∃ d, exec (.supplyMonitorTrip r) s = .next { s with dev := d } ∧ d.glb.pwrfail = true ∧ d.glb.pwrHigh = s.dev.glb.pwrHigh ∧
      d.glb.reduced = true ∧ d.vault.dump = .armed ∧ d.live = false ∧ Out.slIdle ∈ d.out)) ∧
  (∀ (s : State) (r : Fin 3), s.dev.glb.porLow = false → s.dev.live = false ∨ s.dev.glb.bootHold = true →
    exec .pwrfailN s = .next { s with dev := { s.dev with glb := { s.dev.glb with pwrHigh := false, pwrfail := true } } } ∧
    exec (.supplyMonitorTrip r) s = .next { s with dev := { s.dev with glb := { s.dev.glb with pwrfail := true } } }) ∧
  (∀ (s : State) (c : Fin 4) (x : W64), s.dev.coresRun = true →
    (∃ d, exec (.watchdog c x) s = .next { s with dev := d } ∧ d.glb.fatal = true ∧ (∀ p, (d.page p).state ≠ .ready)) ∧
    (∃ d, exec (.coreAccess c x) s = .next { s with dev := d } ∧ d.glb = s.dev.glb ∧ Out.coreError c ∈ d.out ∧
      Recorded 0x0002 (BitVec.ofNat 32 c.val) s.dev d)) ∧
  (∀ (s : State) (c : Fin 4) (x : W64), s.dev.coresRun = false → exec (.watchdog c x) s = .next s ∧ exec (.coreAccess c x) s = .next s)) ∧
  (∀ (s : State), s.dev.glb.porLow = false →
    (s.dev.vault.dump ≠ .armed → exec .dumpFreeze s = .next s) ∧
    (s.dev.vault.dump = .armed → s.dev.vault.journal = [] → ∃ d, exec .dumpFreeze s = .next { s with dev := d } ∧
      d.glb.held = true ∧ d.vault.dump = .complete) ∧
    (s.dev.vault.dump = .armed → s.dev.dumpPair = none → ∃ d, exec .dumpFreeze s = .next { s with dev := d } ∧
      d.glb.held = true ∧ d.vault.dump = .complete) ∧
    (∀ p, s.dev.vault.dump = .armed → s.dev.vault.journal ≠ [] → s.dev.dumpPair = some p →
      ∃ d pre, exec .dumpFreeze s = .next { s with dev := d } ∧ d.vault.dump = .bodies p ∧
        d.vault.dumpSeq = next64 s.dev.vault.dumpSeq ∧ d.glb = s.dev.glb ∧ d.vault.journal = s.dev.vault.journal ∧
        (Speaks s.dev → Out.frozen (prev64 s.dev.vault.jseq) ∈ d.out) ∧
        d.out = pre ++ dumpWrites p.1 (stripLba s.dev.glb.headB + 1) ((dumpBody s.dev).length / 262144 + 1) (dumpBody s.dev) ++
          dumpWrites p.2 (stripLba s.dev.glb.headB + 1) ((dumpBody s.dev).length / 262144 + 1) (dumpBody s.dev)) ∧
    ((∀ p, s.dev.vault.dump ≠ .bodies p) → exec .dumpBodiesDone s = .next s) ∧
    ((∀ p, s.dev.vault.dump ≠ .headers p) → exec .dumpComplete s = .next s) ∧
    (∀ p, s.dev.vault.dump = .bodies p → exec .dumpBodiesDone s = .next { s with dev := { s.dev with
      vault := { s.dev.vault with dump := .headers p }
      out := s.dev.out ++ [.nvmeWrite 4 p.1 (stripLba s.dev.glb.headB) 1 (sysTag (stripLba s.dev.glb.headB)) 0 (dumpHeader s.dev 0 p.2),
        .nvmeWrite 4 p.2 (stripLba s.dev.glb.headB) 1 (sysTag (stripLba s.dev.glb.headB)) 0 (dumpHeader s.dev 1 p.1)] } }) ∧
    (∀ p, s.dev.vault.dump = .headers p →
      (s.dev.glb.shut = none → exec .dumpComplete s = .next { s with dev := { s.dev with
        glb := { s.dev.glb with held := true }, vault := { s.dev.vault with dump := .complete } } }) ∧
      (∀ h, s.dev.glb.shut = some h → s.dev.outstanding h.chan h.tag = true → tget s.dev.hif.dying h.chan = none →
        s.dev.glb.fatal = false → ∃ d, exec .dumpComplete s = .next { s with dev := d } ∧ Answered 0x1C h 0 0 0 s.dev d ∧
          d.glb.held = true ∧ d.glb.shut = none ∧ d.vault.dump = .complete)))

/-- POR_N low puts registers, pipes, ledgers, keys, host interface and cache back to their reset values and HBM is lost, while OTP, the image
slots, the log in SPI NOR and the drives keep what they hold; POR_N high boots a valid image of a CONFIRMED slot, waits with PWRFAIL_N low,
and halts with FAULT_N asserted when there is no image to load (R424 to R427, R485, R488). It states that .porNAssert, .porNDeassert and
.bootPwrfailHoldEnd each complete with the effect given, under conditions on the state and operands alone. -/
def Obligations.ResetAndBoot : Prop :=
  (∀ s : State, ∃ d, exec .porNAssert s = .next { s with hbm := [], dev := d } ∧ d.glb.porLow = true ∧ d.glb.fatal = false ∧
    d.glb.locked = false ∧ d.regs = Regs.reset ∧ d.pipes = Dev.reset.pipes ∧ d.lg = Dev.reset.lg ∧ d.ciph = Dev.reset.ciph ∧
    d.hif = Hif.reset ∧ d.mca = Mca.reset ∧ d.evr.nor = s.dev.evr.nor ∧ d.disk = s.dev.disk ∧ d.boot.slot0 = s.dev.boot.slot0 ∧
    d.boot.slot1 = s.dev.boot.slot1 ∧ d.boot.otpSvn = s.dev.boot.otpSvn ∧ d.boot.lifecycle = s.dev.boot.lifecycle ∧
    d.out = s.dev.out) ∧
  (∀ (s : State) (b : BootIn), s.dev.glb.porLow = false → exec (.porNDeassert b) s = .next s) ∧
  (∀ (s : State) (b : BootIn), s.dev.glb.porLow = true → b.pwrHigh = false →
    ∃ d, exec (.porNDeassert b) s = .next { s with dev := d } ∧ d.glb.porLow = false ∧ d.glb.bootHold = true ∧
      d.boot.stage = s.dev.boot.stage) ∧
  (∀ (s : State) (b : BootIn) (n : Nat) (i : Image), s.dev.glb.porLow = true → b.pwrHigh = true → s.dev.boot.inState 2 = none →
    s.dev.boot.inState 3 = some n → (s.dev.boot.slotEnt n).image = some i → i.imageType = 1 → i.digest = (s.dev.boot.slotEnt n).digest →
    ∃ d, exec (.porNDeassert b) s = .next { s with dev := d } ∧ d.glb.porLow = false ∧ d.now = 0 ∧
      d.glb.perstLow = (!b.perstHigh) ∧ d.glb.headB = b.headHigh ∧ (i.valid s.dev.boot.otpSvn s.dev.boot.revoked = true →
        d.boot.stage = 3 ∧ d.boot.slot = n ∧ d.boot.trial = false)) ∧
  (∀ (s : State) (b : BootIn), s.dev.glb.porLow = true → s.dev.boot.inState 2 = none → s.dev.boot.inState 3 = none → b.card = none →
    b.pwrHigh = true → ∃ d, exec (.porNDeassert b) s = .next { s with dev := d } ∧ d.boot.stage = 6 ∧ d.glb.faultN = false) ∧
  (∀ (s : State) (card : Option Image),
    (s.dev.glb.bootHold = false → exec (.bootPwrfailHoldEnd card) s = .next s) ∧
    (∀ (n : Nat) (i : Image), s.dev.live = true → s.dev.glb.bootHold = true → s.dev.boot.inState 2 = none →
      s.dev.boot.inState 3 = some n → (s.dev.boot.slotEnt n).image = some i → i.imageType = 1 →
      i.digest = (s.dev.boot.slotEnt n).digest →
      ∃ d, exec (.bootPwrfailHoldEnd card) s = .next { s with dev := d } ∧ d.glb.bootHold = false ∧ d.glb.pwrHigh = true ∧
        (i.valid s.dev.boot.otpSvn s.dev.boot.revoked = true → d.boot.stage = 3 ∧ d.boot.slot = n)))

/-- PERST_N and a function level reset put the host interface alone back: its RWL fields are at their reset values and writable again, and ADMIN
is stopped; a channel with nothing outstanding is gone; PERST_N high trains the host link again, to a rate and width that the spec leaves to
the host's side (R253, R485, R501). It states that .perstN, .functionLevelReset and .perstNDeassert each complete with the effect given,
under conditions on the state and operands alone. -/
def Obligations.HostReset : Prop :=
  ∀ (s : State), s.dev.glb.porLow = false →
    (s.dev.glb.perstLow = false →
      (∃ d, exec .perstN s = .next { s with dev := d } ∧ d.glb.perstLow = true ∧ d.glb.hifLocked = false ∧
        d.glb.locked = s.dev.glb.locked ∧ d.hif.running = false ∧ d.hif.rate = 0 ∧ d.hif.width = 0 ∧ d.hif.notifies = [] ∧
        d.regs.hifCfg = 0x07001001 ∧ d.regs.adminCtl = 0x88 ∧ d.regs.dbPage = [] ∧ d.regs.slCfg = s.dev.regs.slCfg ∧
        d.now = s.dev.now ∧ (∀ c ch, c ≠ 0 → tget s.dev.hif.chans c = some ch → ch.job = none → ch.descs = [] → ch.ctype = 6 →
          tget d.hif.chans c = none)) ∧
      (∃ d, exec .functionLevelReset s = .next { s with dev := d } ∧ d.glb.perstLow = false ∧ d.glb.hifLocked = false ∧
        d.glb.locked = s.dev.glb.locked ∧ d.hif.running = false ∧ d.regs.hifCfg = 0x07001001 ∧ d.regs.adminCtl = 0x88 ∧
        d.regs.dbPage = [] ∧ d.regs.slCfg = s.dev.regs.slCfg ∧ d.hif.rate = s.dev.hif.rate ∧
        (∀ c ch, c ≠ 0 → tget s.dev.hif.chans c = some ch → ch.job = none → ch.descs = [] → ch.ctype = 6 →
          tget d.hif.chans c = none)) ∧
      exec .perstNDeassert s = .next s) ∧
    (s.dev.glb.perstLow = true → exec .perstN s = .next s ∧ exec .functionLevelReset s = .next s ∧
      ∃ d, exec .perstNDeassert s = .next { s with dev := d } ∧ Keeps [.glb, .hif, .free] s.dev d ∧ d.glb.perstLow = false ∧
        d.glb.locked = s.dev.glb.locked ∧ d.hif.chans = s.dev.hif.chans ∧ 1 ≤ d.hif.rate ∧ d.hif.rate ≤ 6 ∧
        d.hif.width ∈ [1, 2, 4, 8, 16])

/-- Events and pins: a persistent record goes to SPI NOR in order, its sector erased first where it opens one (R403); a time mark is recorded
(R404); the I2C target returns as many bytes as are read and its index advances by one on each (R442); a port's falls are counted (R469);
TRIG_IN is counted while a take is open (R239), and TRIG_OUT's pulse ends. It states that .norPersist, .evrTimeMark, .trigIn, .trigOutEnd,
.i2cIndexWrite, .i2cRead and .ethPortLinkChange each complete with the effect given, under conditions on the state and operands alone. -/
def Obligations.EventsAndPins : Prop :=
  ∀ (s : State),
    (s.dev.norOpen = true → s.dev.evr.queue = [] → exec .norPersist s = .next s) ∧
    (∀ r l, s.dev.norOpen = true → s.dev.evr.queue = r :: l → ∃ d, exec .norPersist s = .next { s with dev := d } ∧
      Keeps [.evr, .out] s.dev d ∧ d.evr.queue = l ∧ tget d.evr.nor s.dev.evr.nextNor = some r ∧ d.evr.norHead = s.dev.evr.nextNor ∧
      d.out = s.dev.out ++ (if s.dev.evr.nextNor % 64 = 0 then [.norErase (s.dev.evr.nextNor / 64)] else []) ++
        [.norWrite s.dev.evr.nextNor r] ∧ d.evr.ring = s.dev.evr.ring) ∧
    (s.dev.live = true → ∃ d, exec .evrTimeMark s = .next { s with dev := d } ∧ Recorded 0x0C01 noInstance s.dev d ∧
      d.now = s.dev.now) ∧
    (∀ (p : Fin 2) (up fec : Bool), s.dev.glb.porLow = false → ∃ d, exec (.ethPortLinkChange p up fec) s = .next { s with dev := d } ∧
      Keeps [.regs] s.dev d ∧ d.regs.ethUp.getLsbD p.val = up ∧
      tgetD d.regs.ethDowns 0 p.val = (if s.dev.regs.ethUp.getLsbD p.val && !up then satInc32 (tgetD s.dev.regs.ethDowns 0 p.val)
        else tgetD s.dev.regs.ethDowns 0 p.val)) ∧
    (∀ b l, s.dev.glb.porLow = false → exec (.i2cIndexWrite (b :: l)) s =
      .next { s with dev := { s.dev with boot := { s.dev.boot with i2cIndex := b.toNat } } }) ∧
    (∀ n, s.dev.glb.porLow = false → s.dev.boot.i2cIndex < 256 → ∃ d l, exec (.i2cRead n) s = .next { s with dev := d } ∧
      Keeps [.boot, .out] s.dev d ∧ d.out = s.dev.out ++ [.i2cData l] ∧ l.length = n ∧
      d.boot.i2cIndex = (s.dev.boot.i2cIndex + n) % 256) ∧
    (∀ n, s.dev.working = true → s.dev.cat.takes.filter (fun t => t.state == .open_ && !t.replica) = [] →
      exec (.trigIn n) s = .next s) ∧
    (∀ n, s.dev.working = true → s.dev.cat.takes.filter (fun t => t.state == .open_ && !t.replica) ≠ [] →
      ∃ d, exec (.trigIn n) s = .next { s with dev := d } ∧ d.cat.trigIns = s.dev.cat.trigIns + 1) ∧
    exec .trigOutEnd s = .next { s with dev := { s.dev with glb := { s.dev.glb with trigOut := false } } }

/-- Training (R32, R40 to R46, R55): a frame on a lane that this end powers down does nothing; one for another lane or group fails the attempt;
a good one sets what its lane shows, and the transmit lane that it names takes the preset it newly asks for; on lane 0 of a group that is up
it starts a retrain; codeword lock ends training: the head sends IDLE, and a data sender its CAP offer; the limit of step 3 or 6, or of step
7 at a data receiver, fails the attempt, and the fourth that fails takes the group down. A codeword received and the loss of a running link
(R32, R36, R65, R70, R71): symbols in error that the code corrects are counted on their lane; beyond that the codeword is counted, with its
run and window, and its blocks are bad; three in a row or more than 16 in a window, eight bad header CRCs or a lost signal retrain the
group, which loses its grant, has its stop done and begins a first attempt. It states that .trainingFrame, .codewordLock, .linkUpTimeout,
.uncorrectableCodeword, .fecRetrain, .hdrCrcRetrain, .lossOfSignal and .capTimeout each complete with the effect given, under conditions on
the state and operands alone. -/
def Obligations.TrainingAndRetraining : Prop :=
  (∀ (s : State) (g : Fin 4), s.dev.live = true →
    (∀ lane control status inv, s.dev.hears lane = false → exec (.trainingFrame g lane control status inv) s = .next s) ∧
    (∀ lane control status inv, s.dev.hears lane = true → (s.dev.sl.groups.at g).link = .training →
      bits status.toNat 3 0 = lane.val → bits status.toNat 25 24 = g.val →
      ∃ d, exec (.trainingFrame g lane control status inv) s = .next { s with dev := d } ∧ Keeps [.sl, .out, .free] s.dev d ∧
        (d.sl.groups.at g).link = .training ∧ (d.sl.groups.at g).farAllReady = control.getLsbD 13 ∧
        (d.sl.lane (16 * g.val + lane.val)).invert = inv ∧
        (s.dev.sl.txLanes.contains (bits control.toNat 3 0) = true →
          (d.sl.lane (16 * g.val + bits control.toNat 3 0)).farReady = control.getLsbD 12 ∧
          ((s.dev.sl.lane (16 * g.val + bits control.toNat 3 0)).acted ≠ some (BitVec.ofNat 8 (bits control.toNat 23 16)) →
            ∀ n, 1 ≤ n → bits control.toNat 11 10 = n →
              (d.sl.lane (16 * g.val + bits control.toNat 3 0)).presetDone = true ∧
              ((d.sl.lane (16 * g.val + bits control.toNat 3 0)).pre, (d.sl.lane (16 * g.val + bits control.toNat 3 0)).main,
                (d.sl.lane (16 * g.val + bits control.toNat 3 0)).post) =
                  (if n = 1 then (0, 1000, 0) else if n = 2 then (-50, 800, -150) else (-100, 700, -200))))) ∧
    (∀ lane control status inv, s.dev.hears lane = true → (s.dev.sl.groups.at g).link = .training → (s.dev.sl.groups.at g).attempt < 4 →
      (bits status.toNat 3 0 ≠ lane.val ∨ bits status.toNat 25 24 ≠ g.val) →
      ∃ d, exec (.trainingFrame g lane control status inv) s = .next { s with dev := d } ∧ (d.sl.groups.at g).link = .training ∧
        (d.sl.groups.at g).attempt = (s.dev.sl.groups.at g).attempt + 1 ∧ Recorded 0x0201 (BitVec.ofNat 32 g.val) s.dev d) ∧
    (∀ control status inv, linkIsUp (s.dev.sl.groups.at g).link = true → bits status.toNat 3 0 = 0 → bits status.toNat 25 24 = g.val →
      ∃ d, exec (.trainingFrame g 0 control status inv) s = .next { s with dev := d } ∧ (d.sl.groups.at g).link = .training ∧
        (d.sl.groups.at g).retrainCnt = (s.dev.sl.groups.at g).retrainCnt + 1 ∧ (d.sl.groups.at g).grant = none ∧
        Recorded 0x0202 (BitVec.ofNat 32 g.val) s.dev d) ∧
    ((s.dev.sl.groups.at g).link = .training → ∃ d, exec (.codewordLock g) s = .next { s with dev := d } ∧
      Keeps [.sl, .out, .free] s.dev d ∧ (d.sl.groups.at g).link = .awaitCap ∧
      (∀ i ∈ s.dev.sl.rxLanes, (d.sl.lane (16 * g.val + i)).locked = true) ∧
      (∃ q l, Out.slTx g q l ∈ d.out.drop s.dev.out.length ∧ q.ptype = 0) ∧
      (s.dev.sl.player = true → ∃ q l, Out.slTx g q l ∈ d.out.drop s.dev.out.length ∧ q.ptype = 1 ∧ fieldAt q.payload 2 1 = 0)) ∧
    ((s.dev.sl.groups.at g).link ≠ .training → exec (.codewordLock g) s = .next s) ∧
    (∀ c, (∃ n, c = .linkUpTimeout g n ∧ (((n = 3 ∨ n = 6) ∧ (s.dev.sl.groups.at g).link = .training) ∨
        (n = 7 ∧ (s.dev.sl.groups.at g).link = .awaitCap ∧ s.dev.sl.player = false))) ∨
      (c = .capTimeout g ∧ (s.dev.sl.groups.at g).link = .awaitCap ∧ s.dev.sl.player = false) →
      ((s.dev.sl.groups.at g).attempt < 4 → ∃ d, exec c s = .next { s with dev := d } ∧ Keeps [.sl, .out] s.dev d ∧
        (d.sl.groups.at g).link = .training ∧ (d.sl.groups.at g).attempt = (s.dev.sl.groups.at g).attempt + 1) ∧
      (4 ≤ (s.dev.sl.groups.at g).attempt → ∃ d, exec c s = .next { s with dev := d } ∧ (d.sl.groups.at g).link = .down ∧
        Recorded 0x0201 (BitVec.ofNat 32 g.val) s.dev d)) ∧
    (∀ n, n ≠ 3 → n ≠ 6 → n ≠ 7 → exec (.linkUpTimeout g n) s = .next s) ∧
    ((s.dev.sl.groups.at g).link ≠ .awaitCap ∨ s.dev.sl.player = true → exec (.capTimeout g) s = .next s)) ∧
  (∀ (s : State) (g : Fin 4), s.dev.live = true →
    (∀ lane j rx, linkIsUp (s.dev.sl.groups.at g).link = true → s.dev.hears lane = true →
      (rsDecode rx = none → ∃ d, exec (.uncorrectableCodeword g lane j rx) s = .next { s with dev := d } ∧ Keeps [.sl] s.dev d ∧
        (d.sl.groups.at g).link = (s.dev.sl.groups.at g).link ∧ (d.sl.groups.at g).grant = (s.dev.sl.groups.at g).grant ∧
        (d.sl.groups.at g).rx.bad = (s.dev.sl.groups.at g).rx.bad ++ codewordBlocks s.dev.sl.rxLanes.length j lane.val ∧
        (d.sl.lane (16 * g.val + lane.val)) = (let l := s.dev.sl.lane (16 * g.val + lane.val)
          { l with fecUncorr := l.fecUncorr + 1, badRun := if l.lastBad.map (· + 1) = some j then l.badRun + 1 else 1,
                   lastBad := some j, badWin := l.badWin + 1 })) ∧
      (∀ m k, rsDecode rx = some (m, k) → ∃ d, exec (.uncorrectableCodeword g lane j rx) s = .next { s with dev := d } ∧
        Keeps [.sl] s.dev d ∧ (d.sl.lane (16 * g.val + lane.val)) = (let l := s.dev.sl.lane (16 * g.val + lane.val)
          { l with fecCorr := l.fecCorr + BitVec.ofNat 64 k }) ∧
        (zeroBlocks m = [] → d.sl.groups = s.dev.sl.groups))) ∧
    (∀ lane j rx, linkIsUp (s.dev.sl.groups.at g).link = false ∨ s.dev.hears lane = false →
      exec (.uncorrectableCodeword g lane j rx) s = .next s ∧ exec (.fecRetrain g lane) s = .next s ∧
      exec (.lossOfSignal g lane) s = .next s) ∧
    (linkIsUp (s.dev.sl.groups.at g).link = false ∨ (s.dev.sl.groups.at g).crcRun < 8 → exec (.hdrCrcRetrain g) s = .next s) ∧
    (∀ lane, (s.dev.sl.lane (16 * g.val + lane.val)).badRun < 3 → (s.dev.sl.lane (16 * g.val + lane.val)).badWin ≤ 16 →
      exec (.fecRetrain g lane) s = .next s) ∧
    (∀ c lane, linkIsUp (s.dev.sl.groups.at g).link = true →
      (c = .fecRetrain g lane ∧ s.dev.hears lane = true ∧ (3 ≤ (s.dev.sl.lane (16 * g.val + lane.val)).badRun ∨
        16 < (s.dev.sl.lane (16 * g.val + lane.val)).badWin)) ∨
      (c = .lossOfSignal g lane ∧ s.dev.hears lane = true) ∨ (c = .hdrCrcRetrain g ∧ 8 ≤ (s.dev.sl.groups.at g).crcRun) →
      ∃ d, exec c s = .next { s with dev := d } ∧ (d.sl.groups.at g).link = .training ∧ (d.sl.groups.at g).attempt = 1 ∧
        (d.sl.groups.at g).grant = none ∧ (d.sl.groups.at g).retraining = true ∧ (d.sl.groups.at g).crcRun = 0 ∧
        (d.sl.groups.at g).retrainCnt = (s.dev.sl.groups.at g).retrainCnt + 1 ∧ Recorded 0x0202 (BitVec.ofNat 32 g.val) s.dev d ∧
        (∀ st, (s.dev.sl.groups.at g).stop = some st → (d.sl.groups.at g).stop = some { st with done := true }) ∧
        ((s.dev.sl.groups.at g).stop = none → (d.sl.groups.at g).limit = (s.dev.sl.groups.at g).limit ∧
          (d.lg.at g).granted = (s.dev.lg.at g).granted)))

/-- Grants and credit (R55, R56, R58, R64, R71, R76, R77): an offer that meets R56's conditions is granted, which sets the ledger's positions on
the first grant, with an initial limit of next_gsn - 1 where the group comes up stopped, and any other is answered with the status of the
first condition that fails; CREDIT carries the limit when it has advanced by 32 slots, after 1 us, and every 50 us. It states that
.capOffer, .creditThreshold, .creditDelay and .creditKeepalive each complete with the effect given, under conditions on the state and
operands alone. -/
def Obligations.GrantAndCredit : Prop :=
  ∀ (s : State) (g : Fin 4), s.dev.live = true → s.dev.sl.player = false →
    (∀ (p : Packet), p.ptype = 1 → linkIsUp (s.dev.sl.groups.at g).link = true → (s.dev.sl.groups.at g).rx.spoilt = false →
      s.dev.checkPacket g p = none → (readCap p.payload).kind = 0 →
      (s.dev.grantStatus g (readCap p.payload) = 0 →
        ∃ d, exec (.capOffer g p) s = .next { s with dev := d } ∧ (d.sl.groups.at g).link = .granted ∧
          (d.sl.groups.at g).grant = some (s.dev.grantOf g (readCap p.payload)) ∧ (d.lg.at g).credited = true ∧
          (d.lg.at g).allow = (s.dev.grantOf g (readCap p.payload)).allowance ∧ (d.sl.groups.at g).comeStopped = false ∧
          ((s.dev.lg.at g).credited = false → (d.lg.at g).expect = (readCap p.payload).nextGsn ∧
            (d.lg.at g).commit = (readCap p.payload).nextGsn - 1 ∧ (d.lg.at g).ringPos = (readCap p.payload).nextGsn) ∧
          (∃ q l, Out.slTx g q l ∈ d.out.drop s.dev.out.length ∧ q.ptype = 1 ∧ fieldAt q.payload 2 1 = 1 ∧
            fieldAt q.payload 18 2 = 0 ∧ fieldAt q.payload 20 4 = (s.dev.grantRate g (readCap p.payload)) % 2 ^ 32 ∧
            ((s.dev.sl.groups.at g).upStopped = true →
              fieldAt q.payload 32 4 = ((readCap p.payload).nextGsn - 1).toNat))) ∧
      (s.dev.grantStatus g (readCap p.payload) ≠ 0 → ∃ d q l, exec (.capOffer g p) s = .next { s with dev := d } ∧
        Out.slTx g q l ∈ d.out.drop s.dev.out.length ∧ q.ptype = 1 ∧ q.group = BitVec.ofNat 8 g.val ∧
        q.hcrc = hcrcOf q ∧ q.crc = pcrcOf q ∧ fieldAt q.payload 2 1 = 1 ∧
        fieldAt q.payload 18 2 = s.dev.grantStatus g (readCap p.payload) ∧
        (d.sl.groups.at g).grant = (s.dev.sl.groups.at g).grant ∧ (d.sl.groups.at g).link = (s.dev.sl.groups.at g).link ∧
        d.lg = s.dev.lg)) ∧
    (∀ c r, (s.dev.sl.groups.at g).link = .granted → (s.dev.sl.groups.at g).grant = some r →
      c = .creditKeepalive g ∨
        (c = .creditThreshold g ∧ 32 ≤ sdiff (s.dev.sl.groups.at g).creditSent (s.dev.sl.groups.at g).limit) ∨
        (c = .creditDelay g ∧ (s.dev.sl.groups.at g).creditSent ≠ (s.dev.sl.groups.at g).limit) →
      ∃ d q l, exec c s = .next { s with dev := d } ∧ Keeps [.sl, .out] s.dev d ∧ d.out = s.dev.out ++ [.slTx g q l] ∧ q.ptype = 7 ∧
        q.word = (s.dev.sl.groups.at g).limit ∧ q.streamId = r.streamId ∧ q.gsn = 0 ∧ q.hcrc = hcrcOf q ∧ q.crc = pcrcOf q ∧
        (d.sl.groups.at g).creditSent = (s.dev.sl.groups.at g).limit ∧
        (fieldAt q.payload 0 1 = 1 ↔ (s.dev.sl.groups.at g).resumeSet = true ∨ s.dev.mayResume g = true)) ∧
    ((s.dev.sl.groups.at g).link ≠ .granted →
      exec (.creditKeepalive g) s = .next s ∧ exec (.creditThreshold g) s = .next s ∧ exec (.creditDelay g) s = .next s)

/-- Packets received (R36, R60, R68, R70, R73, R75, R84): a packet that overlaps a bad block is discarded; a bad header CRC, a type or group
that does not fit and a bad packet CRC are counted and the packet dropped, in that order; a slot-bearing packet at the next gsn of a granted
group lands, one before it is a duplicate, one beyond the last granted gsn is dropped as an over-run, and one for which the landing buffer
has no room is dropped as a landing overflow. It states that .packetReceive completes with the effect given, under conditions on the state
and operands alone. -/
def Obligations.PacketReception : Prop :=
  ∀ (s : State) (g : Fin 4) (p : Packet), s.dev.live = true →
    (linkIsUp (s.dev.sl.groups.at g).link = false → exec (.packetReceive g p) s = .next s) ∧
    (linkIsUp (s.dev.sl.groups.at g).link = true → (s.dev.sl.groups.at g).rx.spoilt = true →
      ∃ d, exec (.packetReceive g p) s = .next { s with dev := d } ∧ Keeps [.sl] s.dev d ∧
        (d.sl.groups.at g) = { s.dev.sl.groups.at g with rx := (d.sl.groups.at g).rx }) ∧
    (linkIsUp (s.dev.sl.groups.at g).link = true → (s.dev.sl.groups.at g).rx.spoilt = false →
      (p.hcrc ≠ hcrcOf p → ∃ d, exec (.packetReceive g p) s = .next { s with dev := d } ∧ Keeps [.sl] s.dev d ∧
        (d.sl.groups.at g).hdrErr = (s.dev.sl.groups.at g).hdrErr + 1 ∧
        (d.sl.groups.at g).crcRun = (s.dev.sl.groups.at g).crcRun + 1) ∧
      (p.hcrc = hcrcOf p → 9 < p.ptype.toNat ∨ p.group.toNat ≠ g.val →
        ∃ d, exec (.packetReceive g p) s = .next { s with dev := d } ∧ d.lg = s.dev.lg ∧
          (d.sl.groups.at g).pktBad = (s.dev.sl.groups.at g).pktBad + 1 ∧ (d.sl.groups.at g).crcRun = 0) ∧
      (s.dev.checkPacket g p = some .crc → ∃ d, exec (.packetReceive g p) s = .next { s with dev := d } ∧ Keeps [.sl] s.dev d ∧
        (d.sl.groups.at g).pktCrcErr = (s.dev.sl.groups.at g).pktCrcErr + 1 ∧ (d.sl.groups.at g).crcRun = 0)) ∧
    (s.dev.sl.player = false → (s.dev.sl.groups.at g).link = .granted → (s.dev.sl.groups.at g).grant ≠ none →
      (s.dev.sl.groups.at g).rx.spoilt = false → s.dev.checkPacket g p = none → slotBearing p.ptype = true →
      (precedes p.gsn (s.dev.lg.at g).expect = true → ∃ d, exec (.packetReceive g p) s = .next { s with dev := d } ∧
        Keeps [.sl] s.dev d ∧ (d.sl.groups.at g).dup = (s.dev.sl.groups.at g).dup + 1) ∧
      (p.gsn = (s.dev.lg.at g).expect → precedes (s.dev.lastGranted g) p.gsn = true → p.timestamp.ult (s.dev.sl.groups.at g).lastTs = false →
        ∃ d, exec (.packetReceive g p) s = .next { s with dev := d } ∧ Keeps [.sl, .lg] s.dev d ∧
          (d.lg.at g).overrun = (s.dev.lg.at g).overrun + 1 ∧ (d.lg.at g).landing = (s.dev.lg.at g).landing ∧
          (d.lg.at g).expect = (s.dev.lg.at g).expect ∧ (d.lg.at g).received = (s.dev.lg.at g).received ∧
          tgetD (d.lg.at g).drops 0 1 = tgetD (s.dev.lg.at g).drops 0 1 + 1) ∧
      (p.gsn = (s.dev.lg.at g).expect → precedes (s.dev.lastGranted g) p.gsn = false →
        (s.dev.owns g = false ∨ (s.dev.sl.groups.at g).order.ok true p = true) →
        ((∀ x ∈ (s.dev.lg.at g).landing, x.pkt.gsn.toNat % 8192 ≠ p.gsn.toNat % 8192) →
          ∃ d, exec (.packetReceive g p) s = .next { s with dev := d } ∧
            (d.lg.at g).landing = (s.dev.lg.at g).landing ++ [{ pkt := p, state := 1, reason := 0 }] ∧ (d.lg.at g).expect = p.gsn + 1 ∧
            (d.lg.at g).received = (s.dev.lg.at g).received + 1 ∧ (d.lg.at g).resident = (s.dev.lg.at g).resident + 1 ∧
            (d.lg.at g).granted = (s.dev.lg.at g).granted) ∧
        ((∃ x ∈ (s.dev.lg.at g).landing, x.pkt.gsn.toNat % 8192 = p.gsn.toNat % 8192) →
          ∃ d, exec (.packetReceive g p) s = .next { s with dev := d } ∧ (d.lg.at g).landing = (s.dev.lg.at g).landing ∧
            (d.lg.at g).expect = p.gsn + 1 ∧ (d.lg.at g).received = (s.dev.lg.at g).received + 1 ∧
            (d.lg.at g).dropped = (s.dev.lg.at g).dropped + 1 ∧
            tgetD (d.lg.at g).drops 0 4 = tgetD (s.dev.lg.at g).drops 0 4 + 1)))

/-- A group in player role (R54, R55, R58, R62, R67, R245): it offers again until it is granted, takes the grant, follows the limit of a CREDIT,
which never moves back, and a RESUME in one, and answers a STOP_REQ with STOP_DONE, a repeated one with the same; a grant that refuses
changes nothing. It states that .capGrant, .capOfferRepeat, .credit and .stopReq each complete with the effect given, under conditions on
the state and operands alone. -/
def Obligations.PlayerRole : Prop :=
  ∀ (s : State) (g : Fin 4), s.dev.live = true →
    (s.dev.sl.player = false → exec (.capOfferRepeat g) s = .next s ∧
      ∀ p, exec (.capGrant g p) s = .next s ∧ exec (.credit g p) s = .next s ∧ exec (.stopReq g p) s = .next s) ∧
    (s.dev.sl.player = true →
      ((s.dev.sl.groups.at g).link = .awaitCap → ∃ d q l, exec (.capOfferRepeat g) s = .next { s with dev := d } ∧
        Keeps [.sl, .out, .free] s.dev d ∧ d.out = s.dev.out ++ [.slTx g q l] ∧ q.ptype = 1 ∧ q.hcrc = hcrcOf q ∧ q.crc = pcrcOf q ∧
        fieldAt q.payload 2 1 = 0 ∧ fieldAt q.payload 28 4 = (s.dev.sl.groups.at g).playNext.toNat ∧
        fieldAt q.payload 36 2 = 0 ∧ fieldAt q.payload 40 8 = 0) ∧
      ((s.dev.sl.groups.at g).link ≠ .awaitCap → exec (.capOfferRepeat g) s = .next s) ∧
      (∀ p, linkIsUp (s.dev.sl.groups.at g).link = true → (s.dev.sl.groups.at g).rx.spoilt = false →
        s.dev.playOn g = none → s.dev.checkPacket g p = none →
        (p.ptype = 1 → (readCap p.payload).kind = 1 →
          ((readCap p.payload).status = 0 → ((s.dev.sl.groups.at g).playStop = none ∨ (s.dev.sl.groups.at g).playDone.isSome = true) →
            ∃ d, exec (.capGrant g p) s = .next { s with dev := d } ∧ Keeps [.sl] s.dev d ∧ (d.sl.groups.at g).link = .granted ∧
              (d.sl.groups.at g).playLimit = some (match (s.dev.sl.groups.at g).link, (s.dev.sl.groups.at g).playLimit with
                | .granted, some l => if precedes l (readCap p.payload).initLimit then (readCap p.payload).initLimit else l
                | _, _ => (readCap p.payload).initLimit) ∧
              ∃ r, (d.sl.groups.at g).grant = some r ∧ r.streamId = (readCap p.payload).streamId ∧
                r.rate = (readCap p.payload).maxRate ∧ r.maxFrame = (readCap p.payload).maxFrame ∧
                r.nRo = (readCap p.payload).runoutFrames ∧ r.bRo = (readCap p.payload).runoutBytes) ∧
          ((readCap p.payload).status ≠ 0 → ∃ d, exec (.capGrant g p) s = .next { s with dev := d } ∧ Keeps [.sl] s.dev d ∧
            (d.sl.groups.at g).link = (s.dev.sl.groups.at g).link ∧ (d.sl.groups.at g).grant = (s.dev.sl.groups.at g).grant ∧
            (d.sl.groups.at g).playLimit = (s.dev.sl.groups.at g).playLimit)) ∧
        ((s.dev.sl.groups.at g).link = .granted → p.ptype = 7 → (s.dev.sl.groups.at g).playStop = none ∨
            (s.dev.sl.groups.at g).playDone.isSome = true →
          ∃ d, exec (.credit g p) s = .next { s with dev := d } ∧ Keeps [.sl] s.dev d ∧
            (d.sl.groups.at g).playLimit = some (match (s.dev.sl.groups.at g).playLimit with
              | some l => if precedes l p.word then p.word else l
              | none => p.word) ∧
            (fieldAt p.payload 0 1 % 2 = 1 → (d.sl.groups.at g).playStop = none ∧ (d.sl.groups.at g).playDone = none) ∧
            (fieldAt p.payload 0 1 % 2 = 0 → (d.sl.groups.at g).playStop = (s.dev.sl.groups.at g).playStop)) ∧
        ((s.dev.sl.groups.at g).link = .granted → p.ptype = 8 →
          ((s.dev.sl.groups.at g).playDone = none → ∃ d q l, exec (.stopReq g p) s = .next { s with dev := d } ∧
            Keeps [.sl, .out] s.dev d ∧ d.out = s.dev.out ++ [.slTx g q l] ∧ q.ptype = 9 ∧ q.word = p.word ∧
            q.gsn = (s.dev.sl.groups.at g).playNext ∧ q.hcrc = hcrcOf q ∧ q.crc = pcrcOf q ∧
            BitVec.ofNat 32 (fieldAt q.payload 4 4) = (s.dev.sl.groups.at g).playNext - 1 ∧
            (d.sl.groups.at g).playStop = some p.word ∧ (d.sl.groups.at g).playDone = some q) ∧
          (∀ q, (s.dev.sl.groups.at g).playDone = some q → (s.dev.sl.groups.at g).playStop = some p.word →
            ∃ d l, exec (.stopReq g p) s = .next { s with dev := d } ∧ Keeps [.sl, .out] s.dev d ∧
              d.out = s.dev.out ++ [.slTx g q l] ∧ (d.sl.groups.at g).playDone = some q))))

/-- PLAY sends the frames of a committed take, segment or snapshot (R242, R245, R500): of no frame it completes at once with the gsn before
gsn_base; the FRAME_OPEN of the first goes out at gsn_base with the recorded frame number and time, or renumbered; it is BUSY where the
group is not a granted one in player role that plays nothing, where the decode path is off or where no page decrypts the volume, and
INVALID_FIELD for an invalid field or what does not exist; a paced PLAY goes on when its timer says so. It states that .play and
.playPaceTimer each complete with the effect given, under conditions on the state and operands alone. -/
def Obligations.PlayFrames : Prop :=
  (∀ (s : State) (h : Hdr) (g : Fin 4) (vol kind part target seg pace frames : Nat) (flags : BitVec 3) (recGroup : Nat)
    (first : BitVec 48) (gsnBase : W32) (frameBase : BitVec 48) (timeBase : W64), Starts 0x60 [8] h s.dev →
    let c := Instr.play h vol kind part target seg flags recGroup pace first frames gsnBase frameBase timeBase
    let valid := decide (kind < 3 ∧ part < 2 ∧ recGroup < 4 ∧ (flags.getLsbD 0 = true ∨ (frameBase = 0 ∧ timeBase = 0)) ∧
      (flags.getLsbD 1 = true ∨ pace = 0))
    (valid = false ∨ s.dev.volume vol = none ∨ s.dev.source vol kind part target seg = none →
      ∃ d, exec c s = .next { s with dev := d } ∧ Answered 0x60 h 0x10 0 0 s.dev d) ∧
    (∀ v src ch, valid = true → s.dev.volume vol = some v → s.dev.source vol kind part target seg = some src →
      tget s.dev.hif.chans h.chan = some ch → ch.group = g.val →
      (s.dev.sl.player = false ∨ (s.dev.sl.groups.at g).link ≠ .granted ∨ s.dev.decOn ch.decPipe = false ∨
          (s.dev.playOn g).isSome = true ∨ s.dev.decryptPage v ch.domain = none →
        ∃ d, exec c s = .next { s with dev := d } ∧ Answered 0x60 h 8 0 0 s.dev d) ∧
      (∀ page, s.dev.sl.player = true → (s.dev.sl.groups.at g).link = .granted → s.dev.decOn ch.decPipe = true →
        s.dev.playOn g = none → s.dev.decryptPage v ch.domain = some page → (s.dev.sl.groups.at g).playStop = none →
        let fs := src.frames.filter (fun f => f.group == recGroup && decide (first.toNat ≤ f.frame.toNat))
        ((frames = 0 ∨ fs = []) → ∃ d, exec c s = .next { s with dev := d } ∧
          Answered 0x60 h 0 0 ((gsnBase - 1).setWidth 64) s.dev d) ∧
        (∀ f rest l, fs = f :: rest → 0 < frames →
          (flags.getLsbD 2 = true → src.entries.filter (fun e => e.flags.getLsbD 3) = []) →
          (s.dev.sl.groups.at g).playLimit = some l → precEq gsnBase l = true →
          ∃ d, exec c s = .next { s with dev := d } ∧ ∃ q w post, d.out = s.dev.out ++ .slTx g q w :: post ∧ q.ptype = 2 ∧
            q.gsn = gsnBase ∧ q.frame = (if flags.getLsbD 0 then frameBase else f.frame) ∧
            q.timestamp = (if flags.getLsbD 0 then timeBase else f.timestamp) ∧ q.word = BitVec.ofNat 32 f.recorded ∧
            q.hcrc = hcrcOf q ∧ q.crc = pcrcOf q)))) ∧
  (∀ (s : State) (c : Nat), s.dev.live = true →
    ((∀ j, s.dev.job c = some (.play j) → j.paced = false) → exec (.playPaceTimer c) s = .next s) ∧
    (∀ j f rest l, s.dev.job c = some (.play j) → s.dev.playOn j.group = some (c, j) → j.paced = true → j.opened = false →
      j.metaLeft = [] → j.frames = f :: rest → (s.dev.sl.groups.at j.group).link = .granted →
      (s.dev.sl.groups.at j.group).playStop = none → (s.dev.sl.groups.at j.group).playLimit = some l →
      precEq (s.dev.sl.groups.at j.group).playNext l = true →
      ∃ d, exec (.playPaceTimer c) s = .next { s with dev := d } ∧ ∃ q w post, d.out = s.dev.out ++ .slTx j.group q w :: post ∧
        q.ptype = 2 ∧ q.gsn = (s.dev.sl.groups.at j.group).playNext ∧ q.hcrc = hcrcOf q ∧ q.crc = pcrcOf q))

/-- Stops (R50, R62 to R65, R69, R77, R89, R498): STOP that names no group completes at once, a named group with a grant gets a STOP_REQ,
repeated until it is answered or the group retrains, and one with no grant is stopped at once; STOP_DONE ends a stop and reveals the gap up
to its last gsn; RESUME lets the stopped groups go on; a role change retrains each group that SL_CFG enables. It states that .stopReqRepeat,
.stopDone, .stopTimeout, .roleChangeApply, .resume and .stop each complete with the effect given, under conditions on the state and operands
alone. -/
def Obligations.StopsAndRole : Prop :=
  (∀ (s : State) (h : Hdr) (groups : BitVec 4), Starts 0x44 [1] h s.dev →
    (groups = 0 → ∃ d, exec (.stop h groups) s = .next { s with dev := d } ∧ Answered 0x44 h 0 0 0 s.dev d) ∧
    (∃ d, exec (.stop h groups) s = .next { s with dev := d } ∧
      ((∀ g : Fin 4, groups.getLsbD g.val = true → (s.dev.sl.player = true ∨ (s.dev.sl.groups.at g).grant = none) ∧
          (s.dev.sl.groups.at g).stop.all (fun x => x.done) = true) → Answered 0x44 h 0 0 0 s.dev d) ∧
      (∀ g : Fin 4,
        (groups.getLsbD g.val = false → (d.sl.groups.at g).stop = (s.dev.sl.groups.at g).stop) ∧
        (groups.getLsbD g.val = true →
          (∀ x, (s.dev.sl.groups.at g).stop = some x → x.byReq = true →
            (d.sl.groups.at g).stop = some { x with hostAllows := false }) ∧
          ((s.dev.sl.groups.at g).stop.all (fun x => !x.byReq) = true →
            (∀ r, s.dev.sl.player = false → (s.dev.sl.groups.at g).grant = some r → ∃ st q l,
              (d.sl.groups.at g).stop = some st ∧ st.byReq = true ∧ st.done = false ∧ st.id ≠ 0 ∧ st.hostAllows = false ∧
              st.portScope = !s.dev.owns g ∧ Out.slTx g q l ∈ d.out.drop s.dev.out.length ∧ q.ptype = 8 ∧ q.word = st.id ∧
              q.streamId = r.streamId ∧ q.hcrc = hcrcOf q ∧ q.crc = pcrcOf q) ∧
            (s.dev.sl.player = true ∨ (s.dev.sl.groups.at g).grant = none → ∃ st, (d.sl.groups.at g).stop = some st ∧
              st.byReq = true ∧ st.done = true)))))) ∧
  (∀ (s : State) (h : Hdr) (groups : BitVec 4), Starts 0x43 [1] h s.dev →
    ((∀ g : Fin 4, groups.getLsbD g.val = true → (s.dev.sl.groups.at g).stop = none) →
      ∃ d, exec (.resume h groups) s = .next { s with dev := d } ∧ Answered 0x43 h 2 0 0 s.dev d ∧ d.sl = s.dev.sl) ∧
    ((∃ g : Fin 4, groups.getLsbD g.val = true ∧ (s.dev.sl.groups.at g).stop ≠ none) →
      ∃ d, exec (.resume h groups) s = .next { s with dev := d } ∧ Answered 0x43 h 0 0 0 s.dev d ∧
        ∀ g : Fin 4, (d.sl.groups.at g).stop = (if groups.getLsbD g.val then
          (s.dev.sl.groups.at g).stop.map (fun x => { x with hostAllows := true }) else (s.dev.sl.groups.at g).stop))) ∧
  (∀ (s : State) (g : Fin 4), s.dev.live = true →
    (∀ st r, s.dev.stopping g = some st → (s.dev.sl.groups.at g).grant = some r →
      (∃ d q l, exec (.stopReqRepeat g) s = .next { s with dev := d } ∧ Keeps [.sl, .out] s.dev d ∧ d.out = s.dev.out ++ [.slTx g q l] ∧
        q.ptype = 8 ∧ q.word = st.id ∧ q.streamId = r.streamId ∧ q.hcrc = hcrcOf q ∧ q.crc = pcrcOf q) ∧
      (∃ d, exec (.stopTimeout g) s = .next { s with dev := d } ∧ (d.sl.groups.at g).link = .training ∧
        (d.sl.groups.at g).attempt = 1 ∧ (d.sl.groups.at g).grant = none ∧ Recorded 0x0207 (BitVec.ofNat 32 g.val) s.dev d)) ∧
    (s.dev.stopping g = none → exec (.stopReqRepeat g) s = .next s ∧ exec (.stopTimeout g) s = .next s) ∧
    (∀ p, s.dev.sl.player = false → p.ptype = 9 → (s.dev.sl.groups.at g).link = .granted → (s.dev.sl.groups.at g).rx.spoilt = false →
      s.dev.checkPacket g p = none → precedes (s.dev.lg.at g).expect p.gsn = false →
      let last := BitVec.ofNat 32 (fieldAt p.payload 4 4)
      (precedes (s.dev.lg.at g).expect (last + 1) = false → p.timestamp.ult (s.dev.sl.groups.at g).lastTs = false →
        ((s.dev.sl.groups.at g).stop = none → p.word = 0 →
          ∃ d st, exec (.stopDone g p) s = .next { s with dev := d } ∧ Keeps [.sl] s.dev d ∧ (d.sl.groups.at g).stop = some st ∧
            st.done = true ∧ st.byReq = false ∧ st.exhaustion = (fieldAt p.payload 0 1 == 1) ∧
            (d.sl.groups.at g).resumeSet = false) ∧
        (∀ st, (s.dev.sl.groups.at g).stop = some st → st.byReq = true → st.done = false → p.word = st.id →
          ∃ d, exec (.stopDone g p) s = .next { s with dev := d } ∧ (d.sl.groups.at g).stop = some { st with done := true } ∧
            (d.sl.groups.at g).resumeSet = false)) ∧
      ((s.dev.lg.at g).credited = true → precedes (s.dev.lg.at g).expect (last + 1) = true →
        precedes (s.dev.lastGranted g + 1) (last + 1) = false → ∃ d, exec (.stopDone g p) s = .next { s with dev := d } ∧
          (d.lg.at g).expect = last + 1 ∧ (d.lg.at g).landing = (s.dev.lg.at g).landing))) ∧
  (∀ s : State, s.dev.live = true →
    (s.dev.sl.roleReq = none → exec .roleChangeApply s = .next s) ∧
    (∀ p, s.dev.sl.roleReq = some p → s.dev.roleFree = false → exec .roleChangeApply s = .next s) ∧
    (∀ p, s.dev.sl.roleReq = some p → s.dev.roleFree = true →
      ∃ d, exec .roleChangeApply s = .next { s with dev := d } ∧ d.sl.player = p ∧ d.sl.roleReq = none ∧
        ∀ g, (s.dev.groupEn g = true → (d.sl.groups.at g).link = .training ∧ (d.sl.groups.at g).attempt = 1 ∧
            (d.sl.groups.at g).grant = none ∧ (d.sl.groups.at g).stop = none) ∧
          (s.dev.groupEn g = false → d.sl.groups.at g = s.dev.sl.groups.at g)))

/-- The mover and cross-heal (R22, R74, R78, R90, R306): the oldest landed slot of a group goes to its ring, or is released where no standby
ring is kept; what a gap misses is asked of the partner again, three times in all, and what the oldest gap still misses is dropped as
lost-on-link at the deadline. It states that .moverCopy, .healRepeat and .healDeadline each complete with the effect given, under conditions
on the state and operands alone. -/
def Obligations.MoverAndHeal : Prop :=
  ∀ (s : State) (g : Fin 4), s.dev.live = true →
    (∀ sl rest, (s.dev.lg.at g).landing = sl :: rest →
      (s.dev.owns g = false → s.dev.tango.barred = false → s.dev.keepsRing g = true →
        (s.dev.lg.at g).ring.length < standbySlots →
        ∃ d, exec (.moverCopy g) s = .next { s with dev := d } ∧ (d.lg.at g).landing = rest ∧ sl ∈ (d.lg.at g).ring ∧
          (∀ x ∈ (s.dev.lg.at g).ring, x.pkt.gsn ≠ sl.pkt.gsn → x ∈ (d.lg.at g).ring) ∧
          (∀ x ∈ (d.lg.at g).ring, x = sl ∨ x ∈ (s.dev.lg.at g).ring) ∧
          (d.lg.at g).resident = (s.dev.lg.at g).resident ∧ (d.lg.at g).released = (s.dev.lg.at g).released) ∧
      (s.dev.owns g = false → (s.dev.tango.barred = true ∨ s.dev.keepsRing g = false) → sl.state ≠ 0 →
        ∃ d, exec (.moverCopy g) s = .next { s with dev := d } ∧ Keeps [.sl, .lg] s.dev d ∧
          (d.lg.at g).landing = rest ∧ (d.lg.at g).ring = (s.dev.lg.at g).ring ∧
          (d.lg.at g).resident = (s.dev.lg.at g).resident - 1 ∧ (d.lg.at g).released = (s.dev.lg.at g).released + 1) ∧
      (s.dev.owns g = true → ∃ d, exec (.moverCopy g) s = .next { s with dev := d } ∧ (d.lg.at g).landing = rest)) ∧
    (s.dev.owns g = false → (s.dev.lg.at g).landing = [] → exec (.moverCopy g) s = .next s) ∧
    ((s.dev.lg.at g).heals = [] → exec (.healRepeat g) s = .next s ∧ exec (.healDeadline g) s = .next s) ∧
    (s.dev.owns g = true → s.dev.cover g = true →
      (∀ x, (s.dev.lg.at g).heals = [x] → x.tries < 3 →
        ∃ d, exec (.healRepeat g) s = .next { s with dev := d } ∧
          (d.lg.at g).heals = [{ x with reqId := s.dev.tango.healCtr + 1, tries := x.tries + 1 }] ∧
          d.tango.healCtr = s.dev.tango.healCtr + 1) ∧
      ((∀ x ∈ (s.dev.lg.at g).heals, 3 ≤ x.tries) → exec (.healRepeat g) s = .next s)) ∧
    (∀ x, s.dev.owns g = false → (s.dev.lg.at g).heals = [x] → (s.dev.lg.at g).ring.length < standbySlots →
      ∃ d, exec (.healDeadline g) s = .next { s with dev := d } ∧ Keeps [.sl, .lg] s.dev d ∧ (d.lg.at g).heals = [] ∧
        (d.lg.at g).received = (s.dev.lg.at g).received + 1 ∧ (d.lg.at g).dropped = (s.dev.lg.at g).dropped + 1 ∧
        tgetD (d.lg.at g).drops 0 2 = tgetD (s.dev.lg.at g).drops 0 2 + 1 ∧ (d.lg.at g).resident = (s.dev.lg.at g).resident) ∧
    (∀ x, s.dev.owns g = true → x ∈ (s.dev.lg.at g).heals → some x.found = (s.dev.lg.at g).oldestHeal →
      ∃ d, exec (.healDeadline g) s = .next { s with dev := d } ∧ ∀ y ∈ (d.lg.at g).heals, y.gsn ≠ x.gsn)

/-- The encode path (R100, R115, R118, R121, R183): the next tile of a pipe whose take's keys are held goes into its stripe where it fits, as a
stored tile that is counted or, where its lookup hits, as a reference that is; its slots are carried; a take whose keys are not held waits;
pending references seal the stripe after 2 ms or 4,096 of them. It states that .tileEncode, .referenceSealTimer and .referenceSealCount each
complete with the effect given, under conditions on the state and operands alone. -/
def Obligations.EncodeAndSeal : Prop :=
  ∀ (s : State) (g : Fin 4), s.dev.working = true →
    (∀ r rest t, (s.dev.pipes.at g).ready = r :: rest → s.dev.take r.volume r.takeId = some t → (s.dev.pipes.at g).encoding = true →
      (s.dev.mayEncode t = false → s.dev.looksUp g t r = false → s.dev.tango.hand = none → exec (.tileEncode g) s = .next s) ∧
      (∀ sb l, s.dev.mayEncode t = true → (s.dev.pipes.at g).stripe = some sb → s.dev.layout sb.layout = some l →
        s.dev.tango.hand = none → (s.dev.lg.at g).ring = [] → (∀ x ∈ s.dev.cat.takes, tget x.endAt g.val = none) →
        (s.dev.looksUp g t r = false →
          sb.fits (makeTile g t (frameSeq g.val r.index) ((r.frame.map (·.format)).getD 0) (tileFlags r) (tileGeo r) r.bytes
            s.dev).1.stored.length (s.dev.metaRoom g t (((t.partOf g).map (·.idx)).getD 0) r.lastGsn) = true →
          ∃ d, exec (.tileEncode g) s = .next { s with dev := d } ∧ (d.pipes.at g).ready = rest ∧
            (d.pipes.at g).tilesEnc = (s.dev.pipes.at g).tilesEnc + 1 ∧
            (d.pipes.at g).bytesRaw = (s.dev.pipes.at g).bytesRaw + BitVec.ofNat 64 r.bytes.length ∧
            (d.lg.at g).carried = (s.dev.lg.at g).carried + r.slots ∧ ∃ sb', (d.pipes.at g).stripe = some sb' ∧
            sb'.entries.length = sb.entries.length + 1 ∧ sb'.slots = sb.slots + r.slots ∧ sb'.commitGsn = r.lastGsn) ∧
        (∀ w e, s.dev.hotHit g t r = some (w, e) →
          ∃ x, exec (.tileEncode g) s = .next x ∧ (x.dev.pipes.at g).ready = rest ∧
            (x.dev.pipes.at g).tilesEnc = (s.dev.pipes.at g).tilesEnc + 1 ∧
            (x.dev.pipes.at g).dedupHit = (s.dev.pipes.at g).dedupHit + 1 ∧
            (x.dev.pipes.at g).refPend = (s.dev.pipes.at g).refPend + 1 ∧
            (x.dev.pipes.at g).bytesStored = (s.dev.pipes.at g).bytesStored ∧
            (x.dev.lg.at g).carried = (s.dev.lg.at g).carried + r.slots ∧ ∃ sb', (x.dev.pipes.at g).stripe = some sb' ∧
            sb'.entries = sb.entries ++ [Entry.mk e.loc (entryFlags true r) (frameSeq g.val r.index) e.fp e.storedLen []] ∧ sb'.data = sb.data))) ∧
    (∀ c n, (c = .referenceSealTimer g ∧ n = 1) ∨ (c = .referenceSealCount g ∧ n = 4096) →
      ((s.dev.pipes.at g).refPend < n → exec c s = .next s) ∧
      (∀ sb t l, n ≤ (s.dev.pipes.at g).refPend → (s.dev.pipes.at g).stripe = some sb → s.dev.take sb.volume sb.takeId = some t →
        t.pending = [] → s.dev.layout sb.layout = some l → ∃ d, exec c s = .next { s with dev := d } ∧
          (d.pipes.at g).stripe = none ∧ (d.pipes.at g).refPend = 0 ∧ d.lg = s.dev.lg ∧
          d.vault.sealedQ.length = s.dev.vault.sealedQ.length + 1 ∧
          ∃ sb' ∈ d.vault.sealedQ, sb'.stripe = sb.stripe ∧ sb'.data = sb.data ∧ sb'.entries = sb.entries))

/-- Stripe writes (R184, R185, R188, R200): the next sealed stripe is issued with a REMAP for each member that is lost, an open record and one
Write for each member; a member's completion is noted, and the stripe retires, with a record, once every member is done and its mirror
acknowledged. It states that .stripeIssue and .stripWriteComplete each complete with the effect given, under conditions on the state and
operands alone. -/
def Obligations.StripeWrites : Prop :=
  (∀ s : State, s.dev.live = true → s.dev.vault.opened.find? (·.again) = none →
    (s.dev.vault.sealedQ = [] → exec .stripeIssue s = .next s) ∧
    (∀ sb rest l, s.dev.vault.sealedQ = sb :: rest → s.dev.layout sb.layout = some l → s.dev.mayIssue l sb = true →
      (s.dev.lostMembers l sb.stripe = [] → ∃ d, exec .stripeIssue s = .next { s with dev := d } ∧ d.vault.sealedQ = rest ∧
        (∃ r, d.vault.journal = s.dev.vault.journal ++ [r] ∧ r.jseq = s.dev.vault.jseq ∧ r.body.code = 1 ∧ r.subject = sb.stripe) ∧
        (∃ e, d.vault.opened = s.dev.vault.opened ++ [e] ∧ e.jseq = s.dev.vault.jseq ∧ e.buf = sb ∧ e.done = 0 ∧ e.remapMask = 0 ∧
          e.acked = s.dev.alone) ∧
        d.vault.jseq = next64 s.dev.vault.jseq ∧ ∀ k, k < l.members → s.dev.stripWrite l sb k ∈ d.out) ∧
      (∀ k, s.dev.lostMembers l sb.stripe = [k] → ∃ d, exec .stripeIssue s = .next { s with dev := d } ∧ d.vault.sealedQ = rest ∧
        (∃ q r, d.vault.journal = s.dev.vault.journal ++ [q, r] ∧ q.body.code = 4 ∧ r.body.code = 1 ∧
          r.jseq = next64 s.dev.vault.jseq) ∧
        (∃ e, d.vault.opened = s.dev.vault.opened ++ [e] ∧ e.remapMask = maskOf [k] ∧ e.buf = sb) ∧
        ∀ m, m < l.members → d.stripWrite l sb m ∈ d.out))) ∧
  (∀ (s : State) (j k : Nat), s.dev.live = true →
    (s.dev.openEnt j = none → (∀ w ∈ s.dev.vault.lagW, w.1 ≠ j ∨ w.2.1 ≠ k) → exec (.stripWriteComplete j k) s = .next s) ∧
    (s.dev.openEnt j = none → (∃ w ∈ s.dev.vault.lagW, w.1 = j ∧ w.2.1 = k) →
      ∃ d, exec (.stripWriteComplete j k) s = .next { s with dev := d } ∧ Keeps [.vault] s.dev d ∧
        d.vault.lagW = s.dev.vault.lagW.filter (fun w => !(w.1 == j && w.2.1 == k))) ∧
    (∀ e, s.dev.vault.opened = [e] → e.jseq = j → e.done.getLsbD k = false → s.dev.vault.mdc = none →
      s.dev.repl = [] → s.dev.tango.hand = none → (∀ t ∈ s.dev.cat.takes, t.state ≠ .closing ∧ t.reel = none) →
      (e.done ||| maskOf [k] ≠ fullMask (((s.dev.layout e.buf.layout).map (·.members)).getD 18) ∨ (e.acked = false ∧ s.dev.alone = false) ∨
          e.waitHand = true ∨ e.again = true →
        ∃ d, exec (.stripWriteComplete j k) s = .next { s with dev := d } ∧ d.vcnt = s.dev.vcnt ∧ d.lg = s.dev.lg ∧
          d.vault.opened = [{ e with done := e.done ||| maskOf [k] }]) ∧
      (e.done ||| maskOf [k] = fullMask (((s.dev.layout e.buf.layout).map (·.members)).getD 18) → (e.acked = true ∨ s.dev.alone = true) →
        e.waitHand = false → e.again = false → s.dev.vault.live + 64 ≤ liveMax →
        ∃ d, exec (.stripWriteComplete j k) s = .next { s with dev := d } ∧ d.vault.opened = [] ∧
          d.vcnt.retired = s.dev.vcnt.retired + 1 ∧ ∃ r, d.vault.journal = s.dev.vault.journal ++ [r] ∧ r.body = .stripeRetire j)))

/-- Drives fail (R186, R199, R290): a write that fails, a lag of 2 s, a lost link, a critical warning, an admin error, and held writes whose
conditions do not come each fail their drive, with an event; a lag makes the drive suspect, and the third in one second fails it; a conflict
before registration is held. It states that .stripWriteFail, .memberLag, .lagFailTimer, .reservationConflict, .conflictHoldTimer,
.driveLinkLoss and .driveCriticalWarning each complete with the effect given, under conditions on the state and operands alone. -/
def Obligations.DriveFailures : Prop :=
  ∀ (s : State) (slot j k : Nat), s.dev.live = true →
    (∀ c, (s.dev.drive slot).state ≠ .absent → (s.dev.drive slot).state ≠ .failed →
      (∃ st, c = .stripWriteFail j k st ∧ ((s.dev.openEnt j = none ∧ s.dev.vault.lagW = [(j, k, slot)]) ∨
        ∃ e, s.dev.openEnt j = some e ∧ s.dev.memberSlot e k = some slot)) ∨
      (c = .lagFailTimer j k ∧ s.dev.vault.lagW = [(j, k, slot)]) ∨ c = .driveLinkLoss slot ∨ c = .driveCriticalWarning slot ∨
      (∃ st, c = .driveAdminCommandComplete slot (.error st) ∧ slot < 48 ∧ s.dev.boot.stage = 3) ∨
      (c = .conflictHoldTimer slot ∧ (s.dev.drive slot).held ≠ [] ∧ (s.dev.drive slot).registered = false) →
      ∃ d, exec c s = .next { s with dev := d } ∧ (d.drive slot).state = .failed ∧ (d.drive slot).held = [] ∧
        d.vault.rebuildPos = [] ∧ Recorded 0x0402 (BitVec.ofNat 32 slot) s.dev d) ∧
    ((s.dev.drive slot).state = .failed ∨ (s.dev.drive slot).state = .absent → exec (.driveCriticalWarning slot) s = .next s) ∧
    ((s.dev.drive slot).held = [] → exec (.conflictHoldTimer slot) s = .next s) ∧
    ((∀ w ∈ s.dev.vault.lagW, w.1 ≠ j ∨ w.2.1 ≠ k) → exec (.lagFailTimer j k) s = .next s ∧
      (s.dev.openEnt j = none → ∀ st, exec (.stripWriteFail j k st) s = .next s)) ∧
    (s.dev.openEnt j = none → exec (.memberLag j k) s = .next s ∧ exec (.reservationConflict j k) s = .next s) ∧
    (∀ e l, s.dev.openEnt j = some e → s.dev.layout e.buf.layout = some l → s.dev.memberSlot e k = some slot →
      (e.done.getLsbD k = false → e.done ||| maskOf [k] = fullMask l.members →
        ∃ d, exec (.memberLag j k) s = .next { s with dev := d } ∧ (j, k, slot) ∈ d.vault.lagW ∧
          ((recentLags (s.dev.drive slot) s.dev.now).length < 2 → (d.drive slot).state = .suspect) ∧
          (2 ≤ (recentLags (s.dev.drive slot) s.dev.now).length → (d.drive slot).state = .failed) ∧
          Recorded 0x0401 (BitVec.ofNat 32 slot) s.dev d) ∧
      ((s.dev.drive slot).registered = false → (j, k) ∉ (s.dev.drive slot).held →
        ∃ d, exec (.reservationConflict j k) s = .next { s with dev := d } ∧ Keeps [.vault] s.dev d ∧
          (d.drive slot).held = (s.dev.drive slot).held ++ [(j, k)] ∧ d.vault.opened = s.dev.vault.opened))

/-- Drives admitted, failed and replaced (R170, R171, R172, R199, R203, R213, R215, R289, R290, R291, R504): a drive that fits the table is
healthy, with its queues made and the head registered, one that fails row n is turned away with n; a drive in a failed one's slot is
replacing while it has chunks to take back; a port that trains again counts; an admin completion admits a drive, asks for a report, or says
which heads are registered, after which held writes go again. It states that .driveAdmit, .driveReplace, .driveFail,
.driveAdminCommandComplete and .drivePortRetrain each complete with the effect given, under conditions on the state and operands alone. -/
def Obligations.DriveLife : Prop :=
  (∀ (s : State) (h : Hdr) (slot : Nat) (i : DriveInfo), s.dev.maintSlot h.chan slot = true → s.dev.hif.notifies = [] →
    (Starts 0x82 [5] h s.dev →
      ((s.dev.drive slot).state = .failed → ∃ d, exec (.driveAdmit h slot i) s = .next { s with dev := d } ∧ Answered 0x82 h 8 0 0 s.dev d) ∧
      ((s.dev.drive slot).state ≠ .failed → (s.dev.drive slot).state ≠ .absent →
        ∃ d, exec (.driveAdmit h slot i) s = .next { s with dev := d } ∧ Answered 0x82 h 2 0 0 s.dev d) ∧
      ((s.dev.drive slot).state = .absent →
        ((s.dev.drive slot).portOn = false ∨ s.dev.linkOk i = false →
          ∃ d, exec (.driveAdmit h slot i) s = .next { s with dev := d } ∧ Answered 0x82 h 0x0C 0 0 s.dev d ∧
            (d.drive slot).state = .absent) ∧
        ((s.dev.drive slot).portOn = true → s.dev.linkOk i = true →
          (∀ n, failingRow s.dev.vault.nsId i = some n →
            ∃ d, exec (.driveAdmit h slot i) s = .next { s with dev := d } ∧ Answered 0x82 h 0x0C (BitVec.ofNat 64 n) 0 s.dev d ∧
              (d.drive slot).state = .absent ∧ Recorded 0x040B (BitVec.ofNat 32 slot) s.dev d) ∧
          (failingRow s.dev.vault.nsId i = none →
            ∃ d, exec (.driveAdmit h slot i) s = .next { s with dev := d } ∧ Answered 0x82 h 0 0 0 s.dev d ∧
              (d.drive slot).state = .healthy ∧ (∀ q, 1 ≤ q → q ≤ 4 → Out.nvme slot 0 (.createSq q 256) ∈ d.out) ∧
              (s.dev.tango.stepped = false → (d.drive slot).registered = false ∧
                Out.nvme slot 4 (.register (resKey s.dev.glb.headB s.dev.tango.epoch)) ∈ d.out))))) ∧
    (Starts 0x84 [5] h s.dev →
      ((s.dev.drive slot).state = .failed ∨ (s.dev.drive slot).state = .absent →
        ∃ d, exec (.driveFail h slot) s = .next { s with dev := d } ∧ Answered 0x84 h 2 0 0 s.dev d) ∧
      ((s.dev.drive slot).state ≠ .failed → (s.dev.drive slot).state ≠ .absent →
        (∀ r x, tget s.dev.vault.replaces slot = some r → r.h = some x → x.chan ≠ h.chan ∨ x.tag ≠ h.tag) →
        ∃ d, exec (.driveFail h slot) s = .next { s with dev := d } ∧ Answered 0x84 h 0 0 0 s.dev d ∧ (d.drive slot).state = .failed)) ∧
    (Starts 0x83 [5] h s.dev →
      (∀ r, tget s.dev.vault.replaces slot = some r →
        (r.h.isSome = true → ∃ d, exec (.driveReplace h slot i) s = .next { s with dev := d } ∧ Answered 0x83 h 8 0 0 s.dev d) ∧
        (r.h = none → ∃ d, exec (.driveReplace h slot i) s = .next { s with dev := d } ∧ Keeps [.hif, .vault] s.dev d ∧
          tget d.vault.replaces slot = some { r with h := some h })) ∧
      (tget s.dev.vault.replaces slot = none →
        ((s.dev.drive slot).state ≠ .failed → ∃ d, exec (.driveReplace h slot i) s = .next { s with dev := d } ∧ Answered 0x83 h 2 0 0 s.dev d) ∧
        ((s.dev.drive slot).state = .failed →
          ((s.dev.drive slot).portOn = false ∨ s.dev.linkOk i = false →
            ∃ d, exec (.driveReplace h slot i) s = .next { s with dev := d } ∧ Answered 0x83 h 0x0C 0 0 s.dev d) ∧
          ((s.dev.drive slot).portOn = true → s.dev.linkOk i = true →
            (∀ n, failingRow s.dev.vault.nsId i = some n → ∃ d, exec (.driveReplace h slot i) s = .next { s with dev := d } ∧
              Answered 0x83 h 0x0C (BitVec.ofNat 64 n) 0 s.dev d ∧ (d.drive slot).state = .failed) ∧
            (failingRow s.dev.vault.nsId i = none →
              (s.dev.copyWork slot = [] → ∃ d, exec (.driveReplace h slot i) s = .next { s with dev := d } ∧
                Answered 0x83 h 0 0 0 s.dev d ∧ (d.drive slot).state = .healthy) ∧
              (s.dev.copyWork slot ≠ [] → ∃ d, exec (.driveReplace h slot i) s = .next { s with dev := d } ∧
                (d.drive slot).state = .replacing ∧
                tget d.vault.replaces slot = some { h := some h, done := 0, left := s.dev.copyWork slot }))))))) ∧
  (∀ (s : State) (slot : Nat), s.dev.working = true → slot < 48 →
    (∀ rate lanes, ∃ d, exec (.drivePortRetrain slot rate lanes) s = .next { s with dev := d } ∧
      (d.drive slot).retrains = (s.dev.drive slot).retrains + 1 ∧
      (d.drive slot).linked = ((s.dev.drive slot).portOn && lanes == 2 && (rate == 64 || (rate == 32 && s.dev.regs.dpCfg.getLsbD 0)))) ∧
    exec (.driveAdminCommandComplete slot .acquired) s = .next s ∧
    exec (.driveAdminCommandComplete slot .registered) s =
      .next { s with dev := { s.dev with out := s.dev.out ++ [.nvme slot 4 .report] } } ∧
    (∀ i, (s.dev.drive slot).state = .absent → (s.dev.drive slot).portOn = true → s.dev.linkOk i = true →
      failingRow s.dev.vault.nsId i = none →
      ∃ d, exec (.driveAdminCommandComplete slot (.identify i)) s = .next { s with dev := d } ∧ (d.drive slot).state = .healthy) ∧
    (∀ keys held, s.dev.tango.waiting = false →
      ∃ d, exec (.driveAdminCommandComplete slot (.report keys held)) s = .next { s with dev := d } ∧ Keeps [.vault, .out] s.dev d ∧
        (d.drive slot).registered = keys.any (keyOfHead s.dev.glb.headB) ∧
        (keys.any (keyOfHead (!s.dev.glb.headB)) = true → (d.drive slot).partnerReg = true) ∧
        (s.dev.tango.purge = some s.dev.tango.epoch →
          (held = false → Out.nvme slot 4 (.acquire (resKey false s.dev.tango.epoch) none) ∈ d.out) ∧
          ∀ x ∈ keys, x ≠ resKey false s.dev.tango.epoch → x ≠ resKey true s.dev.tango.epoch →
            Out.nvme slot 4 (.acquire (resKey false s.dev.tango.epoch) (some x)) ∈ d.out) ∧
        (keys.any (keyOfHead s.dev.glb.headB) = true → s.dev.tango.session = false →
          (d.drive slot).held = [] ∧ ∀ jk ∈ (s.dev.drive slot).held, ∀ e l, s.dev.openEnt jk.1 = some e → s.dev.layout e.buf.layout = some l →
            s.dev.stripWrite l e.buf jk.2 ∈ d.out)))

/-- Maintenance within its budget (R190, R197, R198, R201 to R206, R208): one sector written back, the next stripe scrubbed or rebuilt, one
chunk copied back, one step of a reshape; none of them at MAINT_RATE 0 or while the backlog holds maintenance. It states that .writeBack,
.scrubStripe, .rebuildStripe, .copyBackChunk and .reshapeBatch each complete with the effect given, under conditions on the state and
operands alone. -/
def Obligations.MaintenanceWork : Prop :=
  ∀ (s : State), s.dev.working = true →
    (∀ c, bits s.dev.regs.maintCfg.toNat 15 0 = 0 ∨ (backlogRule s.dev).vault.maintHeld = true → (∃ a b k, c = .writeBack a b k) ∨
      (∃ r, c = .scrubStripe r) ∨ (∃ r, c = .rebuildStripe r) ∨ (∃ l, c = .reshapeBatch l) →
      ∃ d, exec c s = .next { s with dev := d } ∧ Keeps [.vault] s.dev d ∧
        d.vault = { s.dev.vault with maintHeld := d.vault.maintHeld }) ∧
    (∀ w, s.dev.vault.writeBacks.find? (fun x => x.slot == w.slot && x.lba == w.lba) = some w →
      (backlogRule s.dev).maintOpen [w.slot] = true →
      (s.dev.gone w.slot = false →
        (∃ d, exec (.writeBack w.slot w.lba true) s = .next { s with dev := d } ∧
          d.vault.writeBacks = s.dev.vault.writeBacks.filter (fun x => x != w) ∧
          d.vcnt.repairs = s.dev.vcnt.repairs + (if w.counts then 1 else 0) ∧
          d.out = s.dev.out ++ [.nvmeWrite 3 w.slot w.lba 1 w.refTag w.appTag w.data]) ∧
        (∃ d, exec (.writeBack w.slot w.lba false) s = .next { s with dev := d } ∧ (d.drive w.slot).state = .failed ∧
          d.vcnt.repairs = s.dev.vcnt.repairs)) ∧
      (s.dev.gone w.slot = true → ∀ ok, ∃ d, exec (.writeBack w.slot w.lba ok) s = .next { s with dev := d } ∧ d.out = s.dev.out ∧
        d.vault.writeBacks = s.dev.vault.writeBacks.filter (fun x => x != w))) ∧
    (∀ (r : StripeIn) l, s.dev.layout r.layout = some l → (backlogRule s.dev).maintOpen (s.dev.stripeSlots l r.stripe) = true →
      let app := s.dev.stripeTag l r.stripe r.members
      let data := s.dev.readStripe l r.stripe app r.members
      (s.dev.regs.vltCfg.getLsbD 1 = true → s.dev.vault.scrubOn = true → s.dev.nextScrub l = some r.stripe →
        s.dev.rebuildDue = false → s.dev.copyDue = false → s.dev.reshapeDue = false →
        ∃ d, exec (.scrubStripe r) s = .next { s with dev := d } ∧ d.vcnt.scrubbed = s.dev.vcnt.scrubbed + 1 ∧
          d.vcnt.repairs = s.dev.vcnt.repairs ∧
          (data.all (fun x => (wholeStrip x).isSome) = true →
            (scrubFinding l.width 262144 (data.map (fun x => (wholeStrip x).getD [])) = .ok → d.vault.writeBacks = s.dev.vault.writeBacks) ∧
            (scrubFinding l.width 262144 (data.map (fun x => (wholeStrip x).getD [])) = .badP → s.dev.erased l r.stripe l.width = false →
              d.vault.writeBacks.length = s.dev.vault.writeBacks.length + 64 ∧
              ∀ w ∈ d.vault.writeBacks.drop s.dev.vault.writeBacks.length, w.slot = (s.dev.memberAt l r.stripe l.width).1 ∧ w.appTag = app)) ∧
          (lostIn l.width data ≠ [] → (l.layoutId, r.stripe, maskOf (lostIn l.width data)) ∈ d.vault.lost)) ∧
      (s.dev.nextRebuild = some (r.layout, r.stripe) →
        (lostIn l.width data ≠ [] → ∃ d, exec (.rebuildStripe r) s = .next { s with dev := d } ∧ d.vcnt.rebuilt = s.dev.vcnt.rebuilt ∧
          (l.layoutId, r.stripe, maskOf (lostIn l.width data)) ∈ d.vault.lost) ∧
        (∀ k tc, lostIn l.width data = [] → s.dev.lostMembers l r.stripe = [k] → s.dev.remapTarget l r.stripe = some tc →
          s.dev.vault.live + 64 ≤ liveMax → ∃ d, exec (.rebuildStripe r) s = .next { s with dev := d } ∧
            d.vcnt.rebuilt = s.dev.vcnt.rebuilt + 1 ∧ tget d.vault.rebuildPos l.layoutId = some (r.stripe + 1) ∧
            Remap.mk l.layoutId (l.place r.stripe k).1 (l.place r.stripe k).2 tc.1 tc.2 ∈ d.vault.remaps ∧
            Out.nvmeWrite 3 (d.memberAt l r.stripe k).1 (d.memberAt l r.stripe k).2 64 (l.refTag r.stripe k) app
              (stripOf (solveRows l.width data) k) ∈ d.out))) ∧
    (∀ slot chunk m r e l st k, tget s.dev.vault.replaces slot = some r → r.h ≠ none →
      r.left.find? (fun x => x.2 == chunk && s.dev.copyTurn slot r.left x) = some e → s.dev.layout e.1 = some l →
      s.dev.chunkMember l slot chunk = some (st, k) → s.dev.rebuildDue = false → s.dev.journalRoom 64 = true →
      (backlogRule s.dev).maintOpen (slot :: s.dev.stripeSlots l st) = true →
      ∃ d, exec (.copyBackChunk slot chunk m) s = .next { s with dev := d } ∧
        (r.left = [e] → tget d.vault.replaces slot = none ∧
          ((s.dev.drive slot).state = .replacing → (d.drive slot).state = .healthy)) ∧
        (r.left.filter (fun x => x != e) ≠ [] →
          tget d.vault.replaces slot = some { r with done := r.done + 1, left := r.left.filter (fun x => x != e) }) ∧
        (s.dev.vault.inUse.contains (e.1, st) = true →
          ∀ b, memberData l k (s.dev.readStripe l st (s.dev.stripeTag l st m) m) = some b →
            Out.nvmeWrite 3 slot (l.chunkLba e.2) 64 (l.refTag st k) (s.dev.stripeTag l st m) b ∈ d.out ∧
            ∀ x, s.dev.remapOf l.layoutId slot chunk = some x → d.vault.remaps = s.dev.vault.remaps.filter (fun y => y != x))) ∧
    (∀ reads r, s.dev.vault.reshape = some r → s.dev.outstanding r.h.chan r.h.tag = true → s.dev.rebuildDue = false →
      s.dev.copyDue = false → (backlogRule s.dev).maintOpen ((List.range 48).filter (fun x =>
        ((s.dev.layout r.source).map (fun l => l.has x)).getD false || ((s.dev.layout r.target).map (fun l => l.has x)).getD false)) = true →
      (∀ l f m, r.moving = true → s.dev.layout r.target = some l → s.dev.layout r.source = some f → tget s.dev.vault.moving r.source = some m →
        (m.batch.isSome = true → m.boundary + 64 < 128 * f.periods → ∃ d, exec (.reshapeBatch reads) s = .next { s with dev := d } ∧
          d.vault.reshape = some { r with moved := r.moved + 64 } ∧
          ∃ m', tget d.vault.moving r.source = some m' ∧ m'.boundary = m.boundary + 64 ∧ m'.batch = none) ∧
        (m.batch = none → 4096 < m.relocs.length + (s.dev.overlaps l f m.boundary).length →
          ∃ d, exec (.reshapeBatch reads) s = .next { s with dev := d } ∧ d.vault.reshape = none ∧
            Recorded 0x0409 noInstance s.dev d)) ∧
      (∀ src dst, r.moving = false → s.dev.layout r.source = some src → s.dev.layout r.target = some dst →
        (∀ t, s.dev.reshapeTake r = some t → uncopiedTiles r t = [] → s.dev.takeBusy t = false → t.volume = r.volume →
          ∃ d, exec (.reshapeBatch reads) s = .next { s with dev := d } ∧
            (∀ x ∈ d.cat.takes, x.volume = t.volume → x.id = t.id → x.layout = r.target) ∧
            (d.vault.reshape.map (·.moved)) = some (r.moved + 1)) ∧
        (s.dev.toSwitch r = [] → ∃ d, exec (.reshapeBatch reads) s = .next { s with dev := d } ∧ d.vault.reshape = none ∧
          Answered 0x81 r.h 0 (BitVec.ofNat 64 r.moved) 0 s.dev d)))

/-- MAINT descriptors (R196, R198, R206, R208, R267, R309) and the metadata commit (R234): SCRUB_CTL starts or stops a pass, RESHAPE begins one
for layouts that fit its method, LAYOUT_SCAN answers with the stripes scanned, or waits for the maintenance budget, and a commit starts or
waits its turn. It states that .metadataCommit, .scrubCtl, .reshape and .layoutScan each complete with the effect given, under conditions on
the state and operands alone. -/
def Obligations.MaintDescriptors : Prop :=
  (∀ (s : State) (h : Hdr), Starts 0x80 [5] h s.dev →
    ((∀ x, s.dev.vault.scrubJob = some x → x.chan ≠ h.chan ∨ x.tag ≠ h.tag) →
      ∃ d, exec (.scrubCtl h 0) s = .next { s with dev := d } ∧ Answered 0x80 h 0 (BitVec.ofNat 64 s.dev.vault.scrubCount) 0 s.dev d ∧
      d.vault.scrubOn = false ∧ d.vault.scrubPos = [] ∧ d.vault.scrubJob = none) ∧
    (s.dev.vault.scrubJob = none → ∃ d, exec (.scrubCtl h 1) s = .next { s with dev := d } ∧ Keeps [.hif, .vault] s.dev d ∧
      d.vault.scrubOn = true ∧ d.vault.scrubJob = some h) ∧
    (s.dev.vault.scrubJob ≠ none → ∃ d, exec (.scrubCtl h 1) s = .next { s with dev := d } ∧ Answered 0x80 h 8 0 0 s.dev d)) ∧
  (∀ (s : State) (h : Hdr) (v target method : Nat), method < 2 → Starts 0x81 [5] h s.dev →
    (s.dev.versionHeld = true → ∃ d, exec (.reshape h v target method) s = .next { s with dev := d } ∧ Answered 0x81 h 0x0F 0 0 s.dev d) ∧
    (s.dev.versionHeld = false →
      (s.dev.volume v = none ∨ s.dev.layout target = none → ∃ d, exec (.reshape h v target method) s = .next { s with dev := d } ∧
        Answered 0x81 h 0x10 0 0 s.dev d) ∧
      (∀ vol t src, s.dev.volume v = some vol → s.dev.layout target = some t → s.dev.layout vol.layout = some src →
        (reshapeFits method src t = false → ∃ d, exec (.reshape h v target method) s = .next { s with dev := d } ∧
          Answered 0x81 h 0x10 0 0 s.dev d) ∧
        (reshapeFits method src t = true → s.dev.vault.reshape = none →
          ∃ d, exec (.reshape h v target method) s = .next { s with dev := d } ∧ Keeps [.hif, .vault] s.dev d ∧
            d.vault.reshape = some (Reshape.mk h v src.layoutId target (method == 1) 0 [] []))))) ∧
  (∀ (s : State) (h : Hdr) (reads : List StripeIn), Starts 0x85 [5] h s.dev →
    (s.dev.maintLayout h.chan = none → ∃ d, exec (.layoutScan h reads) s = .next { s with dev := d } ∧ Answered 0x85 h 0x10 0 0 s.dev d) ∧
    (∀ l, s.dev.maintLayout h.chan = some l →
      ((∃ t ∈ s.dev.cat.takes, t.layout = l.layoutId ∧ t.active = true) ∨ s.dev.vault.scan.isSome = true →
        ∃ d, exec (.layoutScan h reads) s = .next { s with dev := d } ∧ Answered 0x85 h 8 0 0 s.dev d) ∧
      ((∀ t ∈ s.dev.cat.takes, t.layout ≠ l.layoutId ∨ t.active = false) → s.dev.vault.scan = none →
        ((backlogRule s.dev).maintOpen ((List.range 48).filter l.has) = true →
          ∃ d, exec (.layoutScan h reads) s = .next { s with dev := d } ∧
            Answered 0x85 h 0 (BitVec.ofNat 64 (reads.filter (fun r => r.layout == l.layoutId && s.dev.claimedOnDisk l r.stripe)).length)
              0 s.dev d ∧ d.vault.scan = none) ∧
        ((backlogRule s.dev).maintOpen ((List.range 48).filter l.has) = false →
          ∃ d, exec (.layoutScan h reads) s = .next { s with dev := d } ∧ Keeps [.hif, .vault] s.dev d ∧
            d.vault.scan = some (h, reads))))) ∧
  (∀ (s : State), s.dev.working = true → (∀ t ∈ s.dev.cat.takes, t.state ≠ .closing ∧ t.reel = none) →
    (s.dev.vault.mdc ≠ none ∨ s.dev.rootLayout = none → ∃ d, exec .metadataCommit s = .next { s with dev := d } ∧
      d.vault.mdc = s.dev.vault.mdc ∧ d.vault.mdcAgain = true) ∧
    (∀ l st, s.dev.vault.mdc = none → s.dev.rootLayout = some l → (allocStripe l (formPages s.dev)).2 = some st →
      (allocBuffers (allocStripe l (formPages s.dev)).1).2 ≠ none →
      ∃ d, exec .metadataCommit s = .next { s with dev := d } ∧ d.vault.mdcAgain = false ∧ (∃ sb ∈ d.vault.sealedQ, sb.stripe = st) ∧
        ∃ m, d.vault.mdc = some m ∧ m.root = false ∧ m.cats = [(l.layoutId, st)] ∧ m.waits = [(l.layoutId, st)]))

/-- Takes (R160, R216 to R220, R223, R229, R239, R241, R503, R509): TAKE_OPEN on this head's groups makes an open take with the next take_id of
the volume, or answers the first check that fails, and with groups of the partner asks it for its part; TAKE_CLOSE stops its groups or ends
it before its successor; a TRIGGER adds its record and answers its outcome. It states that .takeOpen, .takeClose and .trigger each complete
with the effect given, under conditions on the state and operands alone. -/
def Obligations.TakeLife : Prop :=
  (∀ (s : State) (h : Hdr) (r : OpenReq), Starts 0x40 [1] h s.dev → s.dev.hif.notifies = [] →
    (s.dev.openValid r = false → ∃ d, exec (.takeOpen h r) s = .next { s with dev := d } ∧ Answered 0x40 h 0x10 0 0 s.dev d ∧
      d.cat.takes = s.dev.cat.takes) ∧
    (∀ v, s.dev.openValid r = true → s.dev.volume r.volume = some v →
      let id := s.dev.self * 2 ^ 31 + s.dev.takeCount v
      ((r.page ≠ 255 ∧ ((s.dev.page r.page).domain ≠ s.dev.domain h.chan ∨ (s.dev.page r.page).state = .free)) ∨
          ((tget s.dev.ciph.hkeys r.hkey).any (fun k => k.domain != s.dev.domain h.chan)) = true →
        ∃ d, exec (.takeOpen h r) s = .next { s with dev := d } ∧ Answered 0x40 h 0x0E 0 0 s.dev d ∧ d.cat.takes = s.dev.cat.takes) ∧
      ((r.page = 255 ∨ ((s.dev.page r.page).domain = s.dev.domain h.chan ∧ (s.dev.page r.page).state ≠ .free)) →
        (tget s.dev.ciph.hkeys r.hkey).any (fun k => k.domain != s.dev.domain h.chan) = false →
        (2 ≤ (s.dev.cat.takes.filter (fun t => t.active && t.chan == some h.chan)).length →
          ∃ d, exec (.takeOpen h r) s = .next { s with dev := d } ∧ Answered 0x40 h 8 0 0 s.dev d ∧ d.cat.takes = s.dev.cat.takes) ∧
        ((s.dev.cat.takes.filter (fun t => t.active && t.chan == some h.chan)).length < 2 →
          (∀ st, s.dev.openCheck r (some h.chan) v = some st → ∃ d, exec (.takeOpen h r) s = .next { s with dev := d } ∧
            Answered 0x40 h st 0 0 s.dev d ∧ d.cat.takes = s.dev.cat.takes) ∧
          (s.dev.openCheck r (some h.chan) v = none →
            (s.dev.groupsOf r.groups s.dev.self = r.groups → s.dev.groupsOf r.groups (1 - s.dev.self) = 0 →
              ∃ d, exec (.takeOpen h r) s = .next { s with dev := d } ∧
                Answered 0x40 h 0 (BitVec.ofNat 64 id) (BitVec.ofNat 64 (2 ^ s.dev.self)) s.dev d ∧
                ∃ t ∈ d.cat.takes, t.volume = r.volume ∧ t.id = id ∧ t.state = .open_ ∧ t.groups = r.groups ∧
                  t.layout = s.dev.writeLayout v ∧ t.chan = some h.chan) ∧
            (s.dev.groupsOf r.groups (1 - s.dev.self) ≠ 0 →
              s.dev.groupsOf r.groups s.dev.self ||| s.dev.groupsOf r.groups (1 - s.dev.self) = r.groups →
              (s.dev.tango.session = true → ∃ d, exec (.takeOpen h r) s = .next { s with dev := d } ∧
                d.tango.partOpens = s.dev.tango.partOpens ++ [(h, id, 1 - s.dev.self, r)] ∧ d.cat.takes = s.dev.cat.takes) ∧
              (s.dev.tango.session = false → ∃ d, exec (.takeOpen h r) s = .next { s with dev := d } ∧ Answered 0x40 h 8 0 0 s.dev d ∧
                d.cat.takes = s.dev.cat.takes))))))) ∧
  (∀ (s : State) (h : Hdr) (id next : Nat) (time : W64), Starts 0x41 [1] h s.dev → s.dev.hif.notifies = [] →
    (s.dev.chanTake h.chan id = none →
      (∃ d, exec (.takeClose h id 0 0 time) s = .next { s with dev := d } ∧ Answered 0x41 h 9 0 0 s.dev d) ∧
      (∃ d, exec (.takeClose h id 1 next time) s = .next { s with dev := d } ∧ Answered 0x41 h 9 0 0 s.dev d)) ∧
    (∀ t, s.dev.chanTake h.chan id = some t →
      (t.active = true → t.away = true →
        ∃ d, exec (.takeClose h id 0 0 time) s = .next { s with dev := d } ∧ Answered 0x41 h 0x0E 0 0 s.dev d) ∧
      (t.state ≠ .open_ → (t.active = true → t.away = false) →
        ∃ d, exec (.takeClose h id 0 0 time) s = .next { s with dev := d } ∧ Answered 0x41 h 2 0 0 s.dev d) ∧
      (s.dev.take t.volume t.id = some t → t.state = .open_ → t.away = false → t.stage = 0 → t.ended = 0 → t.groups ≠ 0 →
        (∀ g, s.dev.owns g = true) → s.dev.sl.player = false →
        (∀ g, t.hasGroup g = true → (s.dev.sl.groups.at g).grant ≠ none ∧ (s.dev.sl.groups.at g).stop = none) →
        ∃ d, exec (.takeClose h id 0 0 time) s = .next { s with dev := d } ∧ Keeps [.hif, .cat, .sl, .out] s.dev d ∧
          d.take t.volume t.id = some { t with state := .closing, reason := 0, closeTime := time, closeHdr := some h } ∧
          ∀ g, t.hasGroup g = true → ∃ st, (d.sl.groups.at g).stop = some st ∧ st.reason = 1 ∧ st.byReq = true ∧ st.done = false) ∧
      (t.state = .open_ → t.away = false →
        (s.dev.chanTake h.chan next = none → ∃ d, exec (.takeClose h id 1 next time) s = .next { s with dev := d } ∧
          Answered 0x41 h 9 0 0 s.dev d) ∧
        (∀ u, s.dev.chanTake h.chan next = some u →
          (u.begun ≠ 0 → ∃ d, exec (.takeClose h id 1 next time) s = .next { s with dev := d } ∧ Answered 0x41 h 8 0 0 s.dev d) ∧
          (u.begun = 0 → isSuccessor t u = false ∨ u.id = t.id →
            ∃ d, exec (.takeClose h id 1 next time) s = .next { s with dev := d } ∧ Answered 0x41 h 0x10 0 0 s.dev d) ∧
          (u.begun = 0 → isSuccessor t u = true → u.id ≠ t.id → s.dev.take t.volume t.id = some t → t.stage = 0 → t.ended = 0 →
            t.groups ≠ 0 → (∀ g, s.dev.owns g = true) → (∀ g, t.hasGroup g = true → (s.dev.lg.at g).ring = []) → t.endAt = [] →
            ∃ d, exec (.takeClose h id 1 next time) s = .next { s with dev := d } ∧ ∃ x, d.take t.volume t.id = some x ∧
              x.state = .closing ∧ x.reason = 1 ∧ x.closeTime = time ∧ x.limitFrame = u.start ∧ x.closeHdr = some h))))) ∧
  (∀ (s : State) (h : Hdr) (id : Nat) (trig : W32) (time : W64) (since : Nat), Starts 0x42 [1] h s.dev → s.dev.hif.notifies = [] →
    (s.dev.chanTake h.chan id = none → ∃ d, exec (.trigger h id trig time since) s = .next { s with dev := d } ∧
      Answered 0x42 h 9 0 0 s.dev d) ∧
    (∀ t, s.dev.chanTake h.chan id = some t →
      (t.active = true → t.away = true → ∃ d, exec (.trigger h id trig time since) s = .next { s with dev := d } ∧
        Answered 0x42 h 0x0E 0 0 s.dev d) ∧
      (t.state ≠ .open_ → (t.active = true → t.away = false) → ∃ d, exec (.trigger h id trig time since) s = .next { s with dev := d } ∧
        Answered 0x42 h 2 0 0 s.dev d) ∧
      (∀ l, t.state = .open_ → t.away = false → s.dev.layoutOf t = some l →
        let when_ := if time = 0 then (s.dev.pinRule t since).map (·.1) else some time
        ∃ d, exec (.trigger h id trig time since) s = .next { s with dev := d } ∧
          Answered 0x42 h 0 (BitVec.ofNat 64 (s.dev.triggerOutcome t when_)) 0 s.dev d ∧
          (s.dev.triggerOutcome t when_ ≤ 1 → d.glb.trigOut = true) ∧
          (s.dev.take t.volume t.id = some t → ∃ t' m r, t' ∈ d.cat.takes ∧ t'.volume = t.volume ∧ t'.id = t.id ∧
            t'.pending = t.pending ++ [m] ∧ m.body = .trig r ∧ r.trigId = trig ∧ r.source = 2 ∧ r.time = when_.getD 0 ∧
            r.outcome = s.dev.triggerOutcome t when_))))

/-- Reading a take back (R197, R237, R242, R243, R267, R500): SNAP_TAKE records the committed point; READ answers what it cannot do, reads no
entry at once, and otherwise holds a replay buffer and reads the sectors of its first tile, whose bytes go to the host when they come; a
tile known to be lost is reported at once. It states that .driveReadComplete, .snapTake and .read each complete with the effect given, under
conditions on the state and operands alone. -/
def Obligations.SnapAndRead : Prop :=
  (∀ (s : State) (h : Hdr) (id : Nat), Starts 0x45 [1] h s.dev →
    (s.dev.chanTake h.chan id = none → ∃ d, exec (.snapTake h id) s = .next { s with dev := d } ∧ Answered 0x45 h 9 0 0 s.dev d) ∧
    (∀ t, s.dev.chanTake h.chan id = some t → (t.active = true → t.away = false) →
      (t.state = .closing → ∃ d, exec (.snapTake h id) s = .next { s with dev := d } ∧ Answered 0x45 h 8 0 0 s.dev d) ∧
      (t.active = false → ∃ d, exec (.snapTake h id) s = .next { s with dev := d } ∧ Answered 0x45 h 2 0 0 s.dev d) ∧
      (t.state = .open_ →
        (1024 ≤ s.dev.cat.snaps.length → ∃ d, exec (.snapTake h id) s = .next { s with dev := d } ∧ Answered 0x45 h 8 0 0 s.dev d) ∧
        (s.dev.cat.snaps.length < 1024 → ∃ d, exec (.snapTake h id) s = .next { s with dev := d } ∧
          Answered 0x45 h 0 (BitVec.ofNat 64 s.dev.cat.nextSnap) 0 s.dev d ∧ d.cat.nextSnap = s.dev.cat.nextSnap + 1 ∧
          ∃ x, d.cat.snaps = s.dev.cat.snaps ++ [x] ∧ x.id = s.dev.cat.nextSnap ∧ x.volume = t.volume ∧
            x.takes = s.dev.snapRows t)))) ∧
  (∀ (s : State) (h : Hdr) (vol kind part target seg : Nat) (flags : BitVec 5) (group digest first count reportLen dest report
      digestOut : Nat), Starts 0x50 [2] h s.dev →
    let c := Instr.read h vol kind part target seg flags group digest first count reportLen dest report digestOut
    let valid := decide (kind < 3 ∧ part < 2 ∧ digest < 3 ∧ (flags.getLsbD 4 = true → dest = 0) ∧ (flags.getLsbD 0 = true → group < 4))
    (valid = false ∨ s.dev.volume vol = none ∨ s.dev.source vol kind part target seg = none →
      ∃ d, exec c s = .next { s with dev := d } ∧ Answered 0x50 h 0x10 0 0 s.dev d) ∧
    (∀ v src ch, valid = true → s.dev.volume vol = some v → s.dev.source vol kind part target seg = some src →
      tget s.dev.hif.chans h.chan = some ch →
      (dest % 64 ≠ 0 → ∃ d, exec c s = .next { s with dev := d } ∧ Answered 0x50 h 4 0 0 s.dev d) ∧
      (dest % 64 = 0 →
        (s.dev.decOn ch.decPipe = false ∨ s.dev.decryptPage v ch.domain = none ∨ (digest ≠ 0 ∧ s.dev.freeCtx = none) →
          ∃ d, exec c s = .next { s with dev := d } ∧ Answered 0x50 h 8 0 0 s.dev d) ∧
        (∀ page, s.dev.decOn ch.decPipe = true → s.dev.decryptPage v ch.domain = some page → (digest = 0 ∨ s.dev.freeCtx ≠ none) →
          let todo := readEntries src (flags.getLsbD 0) group first count
          (todo = [] → ∃ d, exec c s = .next { s with dev := d } ∧ Answered 0x50 h 0 0 0 s.dev d) ∧
          (∀ e rest js, todo = e :: rest → s.dev.jobSource vol src.takeId part = some js →
            (s.dev.knownLost js e = true → rest = [] → ∃ d, exec c s = .next { s with dev := d } ∧
              ∃ r0 r1, Answered 0x50 h 0x0C r0 r1 s.dev d) ∧
            (∀ l b, s.dev.knownLost js e = false → s.dev.layout js.layout = some l → s.dev.batchTile l.layoutId e = none →
              (poolAlloc 2 true s.dev).2 = some b → ∃ d, exec c s = .next { s with dev := d } ∧
                d.out = s.dev.out ++ s.dev.readsOf (s.dev.layoutAt l e.loc) js.volume e false ∧
                ∃ ch' j, tget d.hif.chans h.chan = some ch' ∧ ch'.rbuf = some b ∧ ch'.job = some (.read j) ∧ j.todo = todo ∧
                  j.dest = dest ∧ j.moved = 0 ∧ j.page = page ∧ j.flags = flags)))))) ∧
  (∀ (s : State) (c : Nat) (cols : List (List SecRead)), s.dev.working = true →
    ((tget s.dev.hif.chans c).bind (·.rbuf) = none → exec (.driveReadComplete c cols) s = .next s) ∧
    (∀ b w, (tget s.dev.hif.chans c).bind (·.rbuf) = some b → s.dev.want c = some w →
      (cols.length ≠ s.dev.columns w → exec (.driveReadComplete c cols) s = .next s) ∧
      (∀ j, cols.length = s.dev.columns w → s.dev.job c = some (.read j) → s.dev.hif.notifies = [] →
        ∃ d, exec (.driveReadComplete c cols) s = .next { s with dev := d } ∧
          (j.flags.getLsbD 4 = false → Out.hostWrite (s.dev.regs.hifCfg.getLsbD 0 && Config.hostRelaxed) (j.dest + j.moved)
            (tileCame c w cols s.dev).2.raw ∈ d.out) ∧
          (j.todo = [w.entry] → (tileCame c w cols s.dev).2.status = 0 → j.first = 0 → j.flags.getLsbD 4 = false →
            Answered 0x50 j.h 0 (BitVec.ofNat 64 (j.moved + (tileCame c w cols s.dev).2.raw.length))
              (BitVec.ofNat 64 (j.bad + j.reported * 2 ^ 32)) s.dev d))))

/-- Replication sessions (R341, R343, R345): an R_HELLO is kept, and keys both pages once this head's own is sent, or, refused, ends the session
with its queue pair in ERROR; R_CONFIRM brings the session up; an OFFER is kept for a REPL_ACCEPT or refused after 1 s; REPL_SEND and
REPL_ACCEPT start an operation of their channel, or say why they cannot. It states that .replSend, .replAccept, .rHello, .rConfirm and
.acceptTimeout each complete with the effect given, under conditions on the state and operands alone. -/
def Obligations.ReplicationSessions : Prop :=
  (∀ (s : State) (c : Nat) q, s.dev.replQp c = some q → s.dev.replOn c = true → s.dev.ciph.ended = [] →
    (∀ m,
      (∀ k ch, rHelloFault q.host.peerSerial m = some k → tget s.dev.hif.chans c = some ch →
        ∃ d q', exec (.rHello c m) s = .next { s with dev := d } ∧ Recorded 0x060A noInstance s.dev d ∧ d.qp ch.qp = some q' ∧
          q'.state = .error ∧ q'.cause = 8 ∧ tget d.repl c = none) ∧
      (rHelloFault q.host.peerSerial m = none →
        (tget s.dev.repl c = none → ∃ d, exec (.rHello c m) s = .next { s with dev := d } ∧ Keeps [.repl] s.dev d ∧
          tget d.repl c = some { Repl.fresh (s.dev.isSource c) with peer := some m }) ∧
        (∀ r, tget s.dev.repl c = some r →
          (r.peer ≠ none → exec (.rHello c m) s = .next s) ∧
          (r.peer = none → r.helloSent = false → ∃ d, exec (.rHello c m) s = .next { s with dev := d } ∧ Keeps [.repl] s.dev d ∧
            tget d.repl c = some { r with peer := some m }) ∧
          (r.peer = none → r.helloSent = true → classS q.host.txPage = true → classS q.host.rxPage = true →
            q.host.txPage ≠ q.host.rxPage → (s.dev.page q.host.txPage).state = .assigned → (s.dev.page q.host.rxPage).state = .assigned →
            (s.dev.page q.host.txPage).domain = s.dev.domain c → (s.dev.page q.host.rxPage).domain = s.dev.domain c →
            (s.dev.page q.host.txPage).erase = none → (s.dev.page q.host.rxPage).erase = none →
            ∃ d, exec (.rHello c m) s = .next { s with dev := d } ∧ (d.page q.host.txPage).state = .ready ∧
              (d.page q.host.rxPage).state = .ready ∧ (tget d.repl c).map (·.level) = some (min s.dev.levelMax m.levelMax) ∧
              (s.dev.ciphOn = true → s.dev.ciph.jobs = [] → (s.dev.ciph.lane0 = none ∨ s.dev.ciph.lane1 = none) →
                Out.keyConfirm (some c) ∈ d.out))))) ∧
    ((s.dev.page q.host.rxPage).state ≠ .ready ∨ tget s.dev.repl c = none → exec (.rConfirm c false) s = .next s) ∧
    (∀ r, tget s.dev.repl c = some r → (s.dev.page q.host.rxPage).state = .ready → ∃ d, exec (.rConfirm c false) s = .next { s with dev := d } ∧
      Recorded 0x0702 (BitVec.ofNat 32 q.host.rxPage) s.dev d ∧ tget d.repl c = some r) ∧
    (∀ r, tget s.dev.repl c = some r → s.dev.boot.idOk = true → s.dev.ciphOn = true → r.up = false → r.peer ≠ none → r.helloSent = true →
      (r.source = false ∨ r.offer = none → ∃ d, exec (.rConfirm c true) s = .next { s with dev := d } ∧ Keeps [.repl] s.dev d ∧
        tget d.repl c = some { r with up := true }) ∧
      (∀ o, r.source = true → r.offer = some o → s.dev.replSpeaks c = true → ∃ d, exec (.rConfirm c true) s = .next { s with dev := d } ∧
        tget d.repl c = some { r with up := true, offered := true, txSeq := next64 r.txSeq } ∧
        Out.replOffer c { o with level := r.level } ∈ d.out))) ∧
  (∀ (s : State) (c : Nat) (r : Repl), s.dev.replUp c = true → tget s.dev.repl c = some r → s.dev.job c = none → s.dev.ciph.ended = [] →
    (∀ o, s.dev.isSource c = false → ∃ d, exec (.offer c o) s = .next { s with dev := d } ∧ Keeps [.repl] s.dev d ∧
      tget d.repl c = some { r with offer := some o }) ∧
    (∀ o, s.dev.isSource c = true → exec (.offer c o) s = .next s) ∧
    (r.offer = none ∨ r.source = true → exec (.acceptTimeout c) s = .next s) ∧
    (r.offer ≠ none → r.source = false → s.dev.replSpeaks c = true → ∃ d, exec (.acceptTimeout c) s = .next { s with dev := d } ∧
      (tget d.repl c).map (·.offer) = some none ∧ Out.replAccept c 8 0 ∈ d.out)) ∧
  (∀ (s : State) (c : Nat) m o, (s.dev.replOn c = false → exec (.rHello c m) s = .next s ∧ ∀ a, exec (.rConfirm c a) s = .next s) ∧
    (s.dev.replUp c = false → exec (.offer c o) s = .next s ∧ exec (.acceptTimeout c) s = .next s ∧ ∀ n k, exec (.accept c n k) s = .next s)) ∧
  (∀ (s : State) (h : Hdr) (vol kind part target seg : Nat) (fp : Bool) (tv first n batch : Nat), Starts 0x70 [3] h s.dev →
    s.dev.ciph.ended = [] →
    let c := Instr.replSend h vol kind part target seg fp tv first n batch
    let valid := decide (kind < 3 ∧ part < 2 ∧ 1 ≤ batch ∧ batch ≤ 4096 ∧ (tv = 0 ∨ tv = vol))
    (valid = false ∨ s.dev.volume vol = none ∨ s.dev.source vol kind part target seg = none →
      ∃ d, exec c s = .next { s with dev := d } ∧ Answered 0x70 h 0x10 0 0 s.dev d) ∧
    (∀ v src ch t, valid = true → s.dev.volume vol = some v → s.dev.source vol kind part target seg = some src →
      tget s.dev.hif.chans h.chan = some ch → s.dev.take vol src.takeId = some t →
      (s.dev.decOn ch.decPipe = false ∨ s.dev.decryptPage v ch.domain = none ∨ s.dev.replQp h.chan = none →
        ∃ d, exec c s = .next { s with dev := d } ∧ Answered 0x70 h 8 0 0 s.dev d) ∧
      (∀ q page, s.dev.decOn ch.decPipe = true → s.dev.decryptPage v ch.domain = some page → s.dev.replQp h.chan = some q →
        (tget s.dev.repl h.chan = none → ∃ d m r j, exec c s = .next { s with dev := d } ∧ Out.hello m (some h.chan) ∈ d.out ∧
          m.headB = false ∧ tget d.repl h.chan = some r ∧ r.source = true ∧ r.helloSent = true ∧ r.offer ≠ none ∧ r.offered = false ∧
          d.job h.chan = some (.send j) ∧ j.h = h) ∧
        (∀ r, tget s.dev.repl h.chan = some r → r.helloSent = true →
          ∃ d j r', exec c s = .next { s with dev := d } ∧ d.job h.chan = some (.send j) ∧ j.h = h ∧ j.takeId = src.takeId ∧
            j.entries = src.entries ∧ j.first = first ∧ j.stop = max first (min (first + n) src.entries.length) ∧ j.batch = batch ∧
            j.lookup = fp ∧ j.closed = decide (t.state = .closed_ ∧ kind ≠ 2) ∧ tget d.repl h.chan = some r' ∧
            ∃ o, r'.offer = some o ∧ o.kind = kind ∧ o.kcv = v.kcv ∧ o.dkcv = v.dkcv ∧ o.first = first ∧ o.serial = Config.serial ∧
              r'.offered = r.up ∧ (r.up = false → Keeps [.hif, .repl] s.dev d) ∧
              (r.up = true → s.dev.replSpeaks h.chan = true → Out.replOffer h.chan { o with level := r.level } ∈ d.out))))) ∧
  (∀ (s : State) (h : Hdr) (vol id : Nat), Starts 0x78 [4] h s.dev → s.dev.ciph.ended = [] →
    (s.dev.replQp h.chan = none → ∃ d, exec (.replAccept h vol id) s = .next { s with dev := d } ∧ Answered 0x78 h 0x0A 0 0 s.dev d) ∧
    (∀ r q, s.dev.replQp h.chan = some q → tget s.dev.repl h.chan = some r → r.helloSent = true → r.offer = none →
      ∃ d j, exec (.replAccept h vol id) s = .next { s with dev := d } ∧ Keeps [.hif] s.dev d ∧ d.job h.chan = some (.accept j) ∧
        j.h = h ∧ j.volume = vol ∧ j.takeId = id ∧ j.active = false))

/-- The source of a replication (R343, R348): ACCEPT starts the batches beyond what the target holds or ends the operation, HELD counts what the
target has and lets the next batch go, the tiles to send are read one after another and leave, or end the operation with ERROR, COMMIT moves
the committed count and ends the operation at its range, CLOSED and ERROR end it. It states that .accept, .held, .commit, .closed and .error
each complete with the effect given, under conditions on the state and operands alone. -/
def Obligations.ReplicationSource : Prop :=
  ∀ (s : State) (c : Nat) (j : SendJob) (r : Repl), s.dev.replUp c = true → s.dev.job c = some (.send j) → tget s.dev.repl c = some r →
    s.dev.ciph.ended = [] →
    (∀ n, exec (.held c (j.heldTo + 1) []) s = .next s ∧ (r.offered = false → exec (.accept c 0 n) s = .next s) ∧
      (j.closeSent = false → exec (.closed c n) s = .next s)) ∧
    (∀ next, r.offered = true → s.dev.replSpeaks c = true → max j.first next < j.stop → 0 < j.batch →
      ∃ d, exec (.accept c 0 next) s = .next { s with dev := d } ∧
        Underway (Out.replBatch c (max j.first next) j.lookup
          (batchOf j.entries (max j.first next) (min j.batch (j.stop - max j.first next)))) d) ∧
    (∀ bits, j.heldTo + bits.length ≤ j.next → ∃ d, exec (.held c j.heldTo bits) s = .next { s with dev := d } ∧
      d.rcnt.held = s.dev.rcnt.held + BitVec.ofNat 64 (bits.filter id).length ∧
      (j.next < j.stop → 0 < j.batch → j.next < j.heldTo + bits.length + 2 * j.batch → s.dev.replSpeaks c = true →
        Underway (Out.replBatch c j.next j.lookup (batchOf j.entries j.next (min j.batch (j.stop - j.next)))) d)) ∧
    (∀ b w cols i e rest, (tget s.dev.hif.chans c).bind (·.rbuf) = some b → s.dev.want c = some w → cols.length = s.dev.columns w →
      j.tiles = (i, e) :: rest → s.dev.hif.notifies = [] → ∃ d, exec (.driveReadComplete c cols) s = .next { s with dev := d } ∧
        ((tileCame c w cols s.dev).2.status = 0 → (rest = [] → d.rcnt.tilesSent = s.dev.rcnt.tilesSent + 1) ∧
          (s.dev.replSpeaks c = true → Underway (Out.replTile c i (tileCame c w cols s.dev).2.stored) d)) ∧
        ((tileCame c w cols s.dev).2.status ≠ 0 → s.dev.outstanding j.h.chan j.h.tag = true → tget s.dev.hif.dying j.h.chan = none →
          ∃ r0 r1, Answered 0x70 j.h (tileCame c w cols s.dev).2.status r0 r1 s.dev d)) ∧
    (∀ n, j.tiles ≠ [] → ∃ d, exec (.commit c n) s = .next { s with dev := d } ∧ Keeps [.hif] s.dev d ∧
      d.job c = some (.send { j with committed := max j.committed n })) ∧
    (s.dev.outstanding j.h.chan j.h.tag = true → tget s.dev.hif.dying j.h.chan = none →
      (∀ st n, st ≠ 0 → r.offered = true → ∃ d, exec (.accept c st n) s = .next { s with dev := d } ∧
        Answered 0x70 j.h st (BitVec.ofNat 64 j.sent) (BitVec.ofNat 64 j.heldCnt) s.dev d) ∧
      (∀ n, j.closeSent = false → j.stop ≤ j.next → j.stop ≤ j.heldTo → j.tiles = [] → s.dev.jobsOf c = false →
        (j.closed = true → j.stop = j.entries.length → s.dev.replSpeaks c = true →
          ∃ d, exec (.commit c n) s = .next { s with dev := d } ∧ Out.replClose c j.entries.length ∈ d.out) ∧
        (j.closed = false ∨ j.stop ≠ j.entries.length → j.stop ≤ max j.committed n →
          ∃ d, exec (.commit c n) s = .next { s with dev := d } ∧
            Answered 0x70 j.h 0 (BitVec.ofNat 64 j.sent) (BitVec.ofNat 64 j.heldCnt) s.dev d)) ∧
      (∀ n, j.closeSent = true → ∃ d, exec (.closed c n) s = .next { s with dev := d } ∧
        Answered 0x70 j.h 0 (BitVec.ofNat 64 j.sent) (BitVec.ofNat 64 j.heldCnt) s.dev d) ∧
      (∀ e st, s.dev.isSource c = true → ∃ d, exec (.error c e st) s = .next { s with dev := d } ∧
        Answered 0x70 j.h st (BitVec.ofNat 64 j.sent) (BitVec.ofNat 64 j.heldCnt) s.dev d))

/-- The target of a replication (R344 to R348): an OFFER is answered as R345 orders it, an FP_BATCH waits its turn, a TILE that is expected is
kept for its place or goes to a service lane for the check of its tag, one that is not is discarded, one that fails its check ends the
offer, COMMIT follows its timer, CLOSE waits for the last entry, and ERROR ends the offer. It states that .offer, .fpBatch, .tile,
.replCommitTimer and .close each complete with the effect given, under conditions on the state and operands alone. -/
def Obligations.ReplicationTarget : Prop :=
  ∀ (s : State) (c : Nat) (j : AcceptJob) (r : Repl), s.dev.replUp c = true → s.dev.job c = some (.accept j) → s.dev.repl = [(c, r)] →
    s.dev.ciph.ended = [] →
    (∀ o, s.dev.isSource c = false → s.dev.replSpeaks c = true →
      (s.dev.acceptStatus c r o j ≠ 0 → ∃ d, exec (.offer c o) s = .next { s with dev := d } ∧ Out.replAccept c (s.dev.acceptStatus c r o j)
          ((((s.dev.take o.volume o.takeId).bind (·.part o.part)).map (·.entries.length)).getD 0) ∈ d.out ∧ (tget d.repl c).map (·.offer) = some none) ∧
      (s.dev.acceptStatus c r o j = 0 → ∃ d r', exec (.offer c o) s = .next { s with dev := d } ∧
        Out.replAccept c 0 ((((s.dev.take o.volume o.takeId).bind (·.part o.part)).map (·.entries.length)).getD 0) ∈ d.out ∧
        d.job c = some (.accept { j with takeId := o.takeId, active := true }) ∧ tget d.repl c = some r' ∧ r'.offer = some o ∧
        r'.offered = true ∧ r'.volume = o.volume ∧ r'.takeId = o.takeId ∧ r'.part = o.part ∧
        ∃ t, d.take o.volume o.takeId = some t ∧ ∀ i ∈ offeredParts o, (t.part i).isSome = true)) ∧
    (∀ first look ents, j.active = true → r.offered = true → r.busy = true →
      ∃ d, exec (.fpBatch c first look ents) s = .next { s with dev := d } ∧ Keeps [.repl] s.dev d ∧
        tget d.repl c = some { r with queue := r.queue ++ [(first, look, ents)] }) ∧
    (∀ first look ents v, j.active = true → r.offered = true → r.busy = false → r.queue = [] → s.dev.volume r.volume = some v →
      s.dev.replSpeaks c = true → ents.length ≤ 4096 →
      ∃ d bits, exec (.fpBatch c first look ents) s = .next { s with dev := d } ∧ bits.length = ents.length ∧
        Out.replHeld c first bits ∈ d.out) ∧
    (∀ first look ents, j.active = false ∨ r.offered = false → exec (.fpBatch c first look ents) s = .next s) ∧
    (r.buffers = [] ∨ s.dev.tilesHeld c r < r.buffers.length →
      (∀ e b, r.batch.find? (fun x => x.idx == e && x.held.isNone && x.tile.isNone) = none →
        ∃ d, exec (.tile c e b) s = .next { s with dev := d } ∧ Keeps [.hif] s.dev d ∧
          d.job c = some (.accept { j with tiles := j.tiles + 1 })) ∧
      (∀ e b x, r.batch.find? (fun y => y.idx == e && y.held.isNone && y.tile.isNone) = some x →
        (∀ x0 rest, r.batch = x0 :: rest → r.busy = true → x0.held = none → x0.tile = none → x0.idx ≠ e →
          x0.ent.flags.getLsbD 1 = false → x0.ent.flags.getLsbD 0 = false → s.dev.partLength r ≤ x0.idx →
          tileFits r x.ent b = true → (readHdr b).cipher ≠ 2 →
          ∃ d, exec (.tile c e b) s = .next { s with dev := d } ∧ Keeps [.rcnt, .hif, .repl] s.dev d ∧
            d.rcnt = { s.dev.rcnt with tilesRcvd := s.dev.rcnt.tilesRcvd + 1 } ∧
            tget d.repl c = some { r with batch := r.batch.map (fun y => if y.idx = e then { y with tile := some b } else y) }) ∧
        (tileFits r x.ent b = true → (readHdr b).cipher = 2 → b.length ≤ 2 ^ 32 → s.dev.ciphOn = true → s.dev.ciph.jobs = [] →
          s.dev.ciph.lane0 = none → s.dev.ciph.lane1 = none → (s.dev.page (s.dev.checkPage c r)).state = .ready →
          (s.dev.page (s.dev.checkPage c r)).domain = s.dev.domain c → (s.dev.page (s.dev.checkPage c r)).erase = none →
          (s.dev.page (s.dev.checkPage c r)).rekey = none → 2 ≤ s.dev.checkPage c r → s.dev.checkPage c r < 64 →
          ∃ d k, exec (.tile c e b) s = .next { s with dev := d } ∧ Keeps [.hif, .ciph] s.dev d ∧ d.ciph.lane0 = some k ∧
            k.chan = some c ∧ k.page = s.dev.checkPage c r ∧ k.encrypt = false ∧ k.body = b ∧ k.entry = e) ∧
        (tileFits r x.ent b = false → s.dev.hif.notifies = [] → s.dev.outstanding j.h.chan j.h.tag = true →
          tget s.dev.hif.dying j.h.chan = none → ∃ d, exec (.tile c e b) s = .next { s with dev := d } ∧
            Answered 0x78 j.h 0x0C (BitVec.ofNat 64 j.takeId) (BitVec.ofNat 64 (j.tiles + 1)) s.dev d ∧
            (s.dev.replSpeaks c = true → Out.replError c e 0x0C ∈ d.out)))) ∧
    (∀ e b, 0 < r.buffers.length → r.buffers.length ≤ s.dev.tilesHeld c r → ∃ d, exec (.tile c e b) s = .next { s with dev := d } ∧
      Keeps [.rcnt, .out, .free] s.dev d ∧ d.rcnt.rnrSent = s.dev.rcnt.rnrSent + 1 ∧
      ∃ qp psn t p, d.out = s.dev.out ++ [.rdmaNak qp psn (.rnr t) p]) ∧
    (r.busy = false → exec (.replCommitTimer c) s = .next s) ∧
    (∀ x0 rest, r.batch = x0 :: rest → r.busy = true → r.source = false → x0.held = none → x0.tile = none →
      x0.ent.flags.getLsbD 1 = false → x0.ent.flags.getLsbD 0 = false → s.dev.partLength r ≤ x0.idx → s.dev.replSpeaks c = true →
      ∃ d, exec (.replCommitTimer c) s = .next { s with dev := d } ∧ Out.replCommit c (s.dev.partLength r) ∈ d.out) ∧
    (∀ n, r.source = true ∨ r.offer = none → exec (.close c n) s = .next s) ∧
    (∀ n, r.source = false → r.offer ≠ none → r.busy = true → r.batch ≠ [] → ∃ d, exec (.close c n) s = .next { s with dev := d } ∧
      Keeps [.repl] s.dev d ∧ tget d.repl c = some { r with total := some n }) ∧
    (∀ e st, s.dev.isSource c = false → s.dev.outstanding j.h.chan j.h.tag = true → tget s.dev.hif.dying j.h.chan = none →
      ∃ d r', exec (.error c e st) s = .next { s with dev := d } ∧
        Answered 0x78 j.h st (BitVec.ofNat 64 j.takeId) (BitVec.ofNat 64 j.tiles) s.dev d ∧ tget d.repl c = some r' ∧
        r'.offer = none ∧ r'.batch = [] ∧ r'.buffers = [])

/-- Queue pairs (R320, R323, R324, R326, R335): a valid context enters RTS with its PSNs, and the first of its domain draws the domain's key; an
invalid one is in ERROR with cause 1; a context whose generation has not changed is not read; a fetched context is cached. It states that
.qpContextChange and .contextFetchDone each complete with the effect given, under conditions on the state and operands alone. -/
def Obligations.QueuePairs : Prop :=
  ∀ (s : State) (i : Nat) (gen : Byte) (h : QpHost) (ws : List Window), s.dev.live = true → s.dev.glb.perstLow = false →
    (∀ q, s.dev.qp i = some q → q.gen = gen → s.dev.repl = [] → exec (.qpContextChange i gen h ws) s = .next s) ∧
    (hostQp i = true → s.dev.rdmaOn = true → s.dev.repl = [] → s.dev.qp i = none → gen ≠ 0 → h.stateReq = 1 → s.dev.domainRts h.domain = [] →
      (contextOk h = true → windowsOk ws = true → ∃ d q k, exec (.qpContextChange i gen h ws) s = .next { s with dev := d } ∧
        d.qp i = some q ∧ q.state = .rts ∧ q.host = h ∧ q.gen = gen ∧ q.sPsn = h.sqPsn ∧ q.ePsn = h.rqPsn ∧ q.rate = s.dev.rdma.lineRate ∧
        tget d.rdma.keys h.domain = some k ∧ k.toNat / 2 ^ 26 = h.domain ∧
        tget d.rdma.wins h.domain = some (ws.filter (fun w => w.length != 0))) ∧
      (contextOk h = false ∨ windowsOk ws = false → ∃ d q, exec (.qpContextChange i gen h ws) s = .next { s with dev := d } ∧
        d.qp i = some q ∧ q.state = .error ∧ q.cause = 1 ∧ d.rdma.keys = s.dev.rdma.keys)) ∧
    (s.dev.rdma.waitCtx.contains i = false → exec (.contextFetchDone i) s = .next s) ∧
    (s.dev.rdma.waitCtx.contains i = true → s.dev.inRts i = true → tget s.dev.rdma.cached i = none →
      s.dev.rdma.cached.length < 2043 → s.dev.rdma.parked = [] → (∀ e ∈ s.dev.rdma.qps, e.2.waiting = none) →
      ∃ d, exec (.contextFetchDone i) s = .next { s with dev := d } ∧ Keeps [.rdma] s.dev d ∧
        tget d.rdma.cached i = some s.dev.now ∧ i ∉ d.rdma.waitCtx)

/-- Work requests (R317, R327, R328, R330, R333, R334): one that is valid goes out with the next PSN and waits for its acknowledgement, one that
is not fails with its queue pair, NOP completes in its turn, READ keeps within its context's limit, WAIT holds its queue pair until the
counter it watches is reached. It states that .qpNop, .qpSend, .qpWrite, .qpWriteImm, .qpRead, .qpFlush and .qpWait each complete with the
effect given, under conditions on the state and operands alone. -/
def Obligations.WorkRequests : Prop :=
  ∀ (s : State) (i : Nat) (wr : Wr) (q : Qp), s.dev.qp i = some q →
    (∀ c op, (c = .qpSend i wr ∧ op = 1) ∨ (c = .qpWrite i wr ∧ op = 2) ∨ (c = .qpWriteImm i wr ∧ op = 3) ∨
        (c = .qpRead i wr ∧ op = 4 ∧ q.readsOut < q.host.rdOut) ∨ (c = .qpFlush i wr ∧ op = 5) →
      let n := if op = 5 then 1 else packetsOf q.host wr.length
      (s.dev.qpTakes i wr = false → exec c s = .next s) ∧
      (s.dev.qpTakes i wr = true → wrOk op wr = true → ∃ d q', exec c s = .next { s with dev := d } ∧
        Keeps [.rdma, .rcnt, .free, .out] s.dev d ∧
        Out.rdmaSend i op q.sPsn wr (sendFrames (s.dev.netHdr q.host) op q.sPsn wr (pathMtu q.host) n) ∈ d.out ∧ d.qp i = some q' ∧
        q'.sPsn = q.sPsn + BitVec.ofNat 24 n ∧ q'.sqHead = (wr.slot + 1) % 2 ^ q.host.sqLog2 ∧ q'.ePsn = q.ePsn ∧
        q'.outs = q.outs ++ [WrOut.mk op wr (q.sPsn + BitVec.ofNat 24 (n - 1)) 0]) ∧
      (s.dev.qpTakes i wr = true → wrOk op wr = false → ∃ d q' ph, exec c s = .next { s with dev := d } ∧ d.qp i = some q' ∧
        q'.state = .error ∧ q'.cause = 1 ∧ q'.outs = [] ∧ Out.qpCompletion i wr.tag wr.slot 0x10 op 0 0 0 ph ∈ d.out)) ∧
    (q.host.rdOut ≤ q.readsOut → exec (.qpRead i wr) s = .next s) ∧
    (q.outs ≠ [] ∨ s.dev.qpTakes i wr = false → exec (.qpNop i wr) s = .next s) ∧
    (q.outs = [] → s.dev.qpTakes i wr = true → wrOk 0 wr = true → wr.signal = true → (∀ e ∈ s.dev.rdma.qps, e.2.waiting = none) →
      ∃ d q' ph, exec (.qpNop i wr) s = .next { s with dev := d } ∧ d.qp i = some q' ∧ q'.sendCount = q.sendCount + 1 ∧
        q'.cqTail = q.cqTail + 1 ∧ q'.sPsn = q.sPsn ∧ Out.qpCompletion i wr.tag wr.slot 0 0 0 0 0 ph ∈ d.out) ∧
    (s.dev.qpTakes i wr = false → exec (.qpWait i wr) s = .next s) ∧
    (s.dev.qpTakes i wr = true →
      (wrOk 6 wr = false ∨ wr.localAddr % 2 ^ 24 = i ∨ tangoQp (wr.localAddr % 2 ^ 24) = true → ∃ d q' ph,
        exec (.qpWait i wr) s = .next { s with dev := d } ∧ d.qp i = some q' ∧ q'.state = .error ∧ q'.cause = 1 ∧
          Out.qpCompletion i wr.tag wr.slot 0x10 6 0 0 0 ph ∈ d.out) ∧
      (∀ t, wrOk 6 wr = true → wr.localAddr % 2 ^ 24 ≠ i → tangoQp (wr.localAddr % 2 ^ 24) = false →
        s.dev.qp (wr.localAddr % 2 ^ 24) = some t → t.host.repl = false → (∀ e ∈ s.dev.rdma.qps, e.2.waiting = none) →
        (t.host.domain ≠ q.host.domain → ∃ d q' ph, exec (.qpWait i wr) s = .next { s with dev := d } ∧ d.qp i = some q' ∧
          q'.state = .error ∧ q'.cause = 1 ∧ Out.qpCompletion i wr.tag wr.slot 0x0E 6 0 0 0 ph ∈ d.out) ∧
        (t.host.domain = q.host.domain → t.state = .rts →
          (reached (BitVec.ofNat 64 wr.remote) (watched wr t) = false → ∃ d q', exec (.qpWait i wr) s = .next { s with dev := d } ∧
            Keeps [.rdma, .rcnt, .free, .out] s.dev d ∧ d.qp i = some q' ∧ q'.waiting = some wr ∧ q'.state = q.state) ∧
          (reached (BitVec.ofNat 64 wr.remote) (watched wr t) = true → ∃ d q', exec (.qpWait i wr) s = .next { s with dev := d } ∧
            d.qp i = some q' ∧ q'.waiting = none ∧ q'.state = q.state ∧ q'.sendCount = q.sendCount + 1 ∧
            (wr.signal = true → ∃ ph, Out.qpCompletion i wr.tag wr.slot 0 6 0 0 0 ph ∈ d.out)))))

/-- Acknowledgements, retries and congestion (R317, R319, R328, R329): an acknowledgement completes its work request, a READ's response goes to
host memory first, a sequence NAK or a timeout sends the outstanding ones again and counts a retry, an RNR NAK waits for its timer, retries
that are used up fail the queue pair, CNP halves the rate, which then recovers. It states that .rdmaAck, .rdmaNak, .rdmaAckTimeout,
.rnrRetryTimer, .cnp and .cnpRateTimer each complete with the effect given, under conditions on the state and operands alone. -/
def Obligations.AckAndRetry : Prop :=
  ∀ (s : State) (i : Nat) (q : Qp), s.dev.live = true → s.dev.glb.perstLow = false → s.dev.qp i = some q → q.state = .rts →
    (∀ e ∈ s.dev.rdma.qps, e.2.waiting = none) → s.dev.repl = [] →
    (∀ o, q.outs = [o] → q.names o.lastPsn = true →
      (o.opcode ≠ 4 → o.wr.signal = true → ∃ d q' ph, exec (.rdmaAck i o.lastPsn []) s = .next { s with dev := d } ∧ d.qp i = some q' ∧
        q'.outs = [] ∧ q'.sendCount = q.sendCount + 1 ∧ q'.retries = 0 ∧
        Out.qpCompletion i o.wr.tag o.wr.slot 0 o.opcode o.wr.length 0 0 ph ∈ d.out) ∧
      (∀ data, o.opcode = 4 → o.wr.signal = true → data ≠ [] → ∃ d ro ph, exec (.rdmaAck i o.lastPsn data) s = .next { s with dev := d } ∧
        (d.qp i).map (·.outs) = some [] ∧ ∃ post, d.out = s.dev.out ++ [Out.hostWrite ro o.wr.localAddr data,
          Out.qpCompletion i o.wr.tag o.wr.slot 0 4 o.wr.length 0 0 ph] ++ post) ∧
      (firstPsn q.host o = o.lastPsn → q.retries < q.host.retryCnt →
        ∃ d q', exec (.rdmaNak i o.lastPsn .psnSeq) s = .next { s with dev := d } ∧ Keeps [.rdma, .out] s.dev d ∧
          d.out = s.dev.out ++ [s.dev.sendAgain i q o] ∧ d.qp i = some q' ∧ q'.outs = [o] ∧ q'.retries = q.retries + 1) ∧
      (∀ t, firstPsn q.host o = o.lastPsn → ∃ d q', exec (.rdmaNak i o.lastPsn (.rnr t)) s = .next { s with dev := d } ∧
        Keeps [.rdma] s.dev d ∧ d.qp i = some q' ∧ q'.outs = [o] ∧ q'.rnrWait = true) ∧
      (firstPsn q.host o = o.lastPsn → q.host.repl = false → ∃ d q' ph, exec (.rdmaNak i o.lastPsn .remoteAccess) s = .next { s with dev := d } ∧
        d.qp i = some q' ∧ q'.state = .error ∧ q'.cause = 2 ∧ Out.qpCompletion i o.wr.tag o.wr.slot 0x0E o.opcode 0 0 0 ph ∈ d.out)) ∧
    (∀ psn data, q.names psn = false → exec (.rdmaAck i psn data) s = .next s ∧
      (q.host.repl = false → exec (.rdmaNak i psn .psnSeq) s = .next s)) ∧
    (q.outs ≠ [] → q.retries < q.host.retryCnt → ∃ d q', exec (.rdmaAckTimeout i) s = .next { s with dev := d } ∧
      Keeps [.rdma, .out] s.dev d ∧ d.out = s.dev.out ++ q.outs.map (s.dev.sendAgain i q) ∧
      d.qp i = some q' ∧ q'.retries = q.retries + 1 ∧ q'.outs = q.outs) ∧
    (q.outs ≠ [] → q.host.repl = false → q.host.retryCnt ≤ q.retries → ∃ d q', exec (.rdmaAckTimeout i) s = .next { s with dev := d } ∧
      d.qp i = some q' ∧ q'.state = .error ∧ q'.cause = 3 ∧ q'.outs = []) ∧
    (q.outs = [] → q.host.repl = false → exec (.rdmaAckTimeout i) s = .next s) ∧
    (q.rnrWait = false → exec (.rnrRetryTimer i) s = .next s) ∧
    (q.rnrWait = true → q.host.rnrRetry ≠ 7 → q.rnrLeft ≠ 0 → ∃ d q', exec (.rnrRetryTimer i) s = .next { s with dev := d } ∧
      Keeps [.rdma, .out] s.dev d ∧ d.out = s.dev.out ++ q.outs.map (s.dev.sendAgain i q) ∧ d.qp i = some q' ∧ q'.rnrWait = false ∧
      q'.rnrLeft = q.rnrLeft - 1 ∧ q'.state = .rts) ∧
    (q.rnrWait = true → q.host.repl = false → q.host.rnrRetry ≠ 7 → q.rnrLeft = 0 → ∃ d q', exec (.rnrRetryTimer i) s = .next { s with dev := d } ∧
      d.qp i = some q' ∧ q'.state = .error ∧ q'.cause = 4) ∧
    (s.dev.regs.rdmaCfg.getLsbD 1 = false → exec (.cnp i) s = .next s ∧ exec (.cnpRateTimer i) s = .next s) ∧
    (s.dev.regs.rdmaCfg.getLsbD 1 = true →
      (∃ d q', exec (.cnp i) s = .next { s with dev := d } ∧ Keeps [.rdma, .rcnt] s.dev d ∧ d.rcnt.cnpRcvd = s.dev.rcnt.cnpRcvd + 1 ∧
        d.qp i = some q' ∧ q'.rate = max 1000000000 (q.rate / 2) ∧ q'.outs = q.outs) ∧
      (∃ d q', exec (.cnpRateTimer i) s = .next { s with dev := d } ∧ Keeps [.rdma] s.dev d ∧ d.qp i = some q' ∧
        q'.rate = q.rate + (s.dev.rdma.lineRate - q.rate) / 16))

/-- Incoming requests (R317, R318, R319, R322, R331, R332, R337, R338): a packet whose ICRC does not hold is dropped, one for no queue pair is
dropped and counted, one whose context is not cached is parked, a SEND takes a receive buffer, a WRITE within its window is written and
acknowledged, a READ is answered, a FLUSH reads host memory first, one outside its window is refused, a duplicate is acknowledged again, one
ahead of its turn is asked for again, and a CE mark brings a CNP. It states that .rdmaRequest completes with the effect given, under
conditions on the state and operands alone. -/
def Obligations.IncomingRequests : Prop :=
  ∀ (s : State) (r : RdmaReq), s.dev.live = true →
    (r.icrcOk = false ∨ (tangoQp r.qpn = true ∧ r.port = 0) → exec (.rdmaRequest r) s = .next s) ∧
    (r.icrcOk = true → tangoQp r.qpn = false → r.port ≠ 1 ∨ s.dev.regs.rdmaCfg.getLsbD 0 = false ∨ s.dev.qp r.qpn = none →
      ∃ d, exec (.rdmaRequest r) s = .next { s with dev := d } ∧ Keeps [.rcnt] s.dev d ∧ d.rcnt.noQp = s.dev.rcnt.noQp + 1) ∧
    (∀ q, r.icrcOk = true → tangoQp r.qpn = false → r.port = 1 → s.dev.regs.rdmaCfg.getLsbD 0 = true → s.dev.qp r.qpn = some q →
      (q.state ≠ .rts → ∃ d, exec (.rdmaRequest r) s = .next { s with dev := d } ∧ Keeps [.rcnt] s.dev d ∧ d.rcnt.noQp = s.dev.rcnt.noQp + 1) ∧
      (q.state = .rts → q.host.repl = true → r.op = .send → exec (.rdmaRequest r) s = .next s) ∧
      (q.state = .rts → q.host.repl = false ∨ r.op ≠ .send →
        (tget s.dev.rdma.cached r.qpn = none → s.dev.rdma.parked = [] →
          (r.data.length ≤ 262144 → ∃ d, exec (.rdmaRequest r) s = .next { s with dev := d } ∧ Keeps [.rdma, .rcnt] s.dev d ∧
            d.rdma.parked = [r] ∧ d.rdma.waitCtx.contains r.qpn = true ∧ d.rcnt.parked = s.dev.rcnt.parked + 1) ∧
          (262144 < r.data.length → r.first = true → r.op = .write → ∃ d p, exec (.rdmaRequest r) s = .next { s with dev := d } ∧
            Keeps [.rdma, .rcnt, .out] s.dev d ∧ d.out = s.dev.out ++ [.rdmaNak r.qpn r.psn (.rnr 1) p] ∧ d.rdma.parked = [])) ∧
        ((tget s.dev.rdma.cached r.qpn).isSome = true → s.dev.rdma.parked = [] → (∀ e ∈ s.dev.rdma.qps, e.2.waiting = none) →
          (r.ce = true → s.dev.regs.rdmaCfg.getLsbD 1 = true → q.cnpAt = none → ∃ d, exec (.rdmaRequest r) s = .next { s with dev := d } ∧
            Out.rdmaCnp r.qpn (cnpFrame (s.dev.netHdr q.host)) ∈ d.out) ∧
          (r.ce = false →
            (∀ w, r.psn = q.ePsn → r.op = .write → r.last = true → s.dev.access q r = some w →
              ∃ d q' ro, exec (.rdmaRequest r) s = .next { s with dev := d } ∧ Keeps [.rdma, .out] s.dev d ∧
                d.out = s.dev.out ++ [.hostWrite ro (w.bus + (r.remote - w.offset) + q.inBytes) r.data,
                  .rdmaAck r.qpn r.psn (q.msn + 1) (ackFrame (s.dev.netHdr q.host) r.psn (q.msn + 1))] ∧
                d.qp r.qpn = some q' ∧ q'.ePsn = q.ePsn + 1 ∧ q'.msn = q.msn + 1) ∧
            (∀ w, r.psn = q.ePsn → r.op = .writeImm → r.last = true → s.dev.access q r = some w →
              ∃ d q' k ph, exec (.rdmaRequest r) s = .next { s with dev := d } ∧ d.qp r.qpn = some q' ∧ q'.ePsn = q.ePsn + 1 ∧
                q'.recvCount = q.recvCount + 1 ∧
                Out.qpCompletion r.qpn 0 k 0 0x83 (q.inBytes + r.data.length) r.imm r.srcQpn ph ∈ d.out) ∧
            (∀ w, r.psn = q.ePsn → r.op = .read → s.dev.access q r = some w →
              ∃ d q', exec (.rdmaRequest r) s = .next { s with dev := d } ∧ Keeps [.rdma, .out] s.dev d ∧
                d.out = s.dev.out ++ [.rdmaReadResp r.qpn r.psn (w.bus + (r.remote - w.offset)) r.length] ∧
                d.qp r.qpn = some q' ∧ q'.ePsn = q.ePsn + BitVec.ofNat 24 (packetsOf q.host r.length)) ∧
            (∀ w, r.psn = q.ePsn → r.op = .flush → r.persist = false → r.last = true → s.dev.access q r = some w →
              ∃ d, exec (.rdmaRequest r) s = .next { s with dev := d } ∧ Keeps [.rdma, .out] s.dev d ∧
                d.out = s.dev.out ++ [.zeroRead r.qpn, .rdmaAck r.qpn r.psn (q.msn + 1) (ackFrame (s.dev.netHdr q.host) r.psn (q.msn + 1))]) ∧
            (r.psn = q.ePsn → r.op = .send → q.rqHead = q.rqTail → ∃ d t p, exec (.rdmaRequest r) s = .next { s with dev := d } ∧
              Keeps [.rcnt, .out, .free] s.dev d ∧ d.rcnt.rnrSent = s.dev.rcnt.rnrSent + 1 ∧
              d.out = s.dev.out ++ [.rdmaNak r.qpn r.psn (.rnr t) p]) ∧
            (r.psn = q.ePsn → r.op = .send → q.rqHead ≠ q.rqTail → r.last = true → q.inBytes + r.data.length ≤ 2 ^ q.host.rbufLog2 →
              ∃ d q' ro ph, exec (.rdmaRequest r) s = .next { s with dev := d } ∧ d.qp r.qpn = some q' ∧
                q'.rqHead = (q.rqHead + 1) % 2 ^ q.host.rqLog2 ∧
                Out.hostWrite ro (q.host.rqBase + q.rqHead * 2 ^ q.host.rbufLog2 + q.inBytes) r.data ∈ d.out ∧
                Out.qpCompletion r.qpn 0 q.rqHead 0 0x81 (q.inBytes + r.data.length) 0 r.srcQpn ph ∈ d.out) ∧
            (r.psn = q.ePsn → r.op = .write → s.dev.access q r = none → q.outs = [] →
              ∃ d q', exec (.rdmaRequest r) s = .next { s with dev := d } ∧ d.rcnt.accessNak = s.dev.rcnt.accessNak + 1 ∧
                d.out = s.dev.out ++ [.rdmaNak r.qpn r.psn .remoteAccess (nakFrame (s.dev.netHdr q.host) r.psn q.msn .remoteAccess)] ∧
                d.qp r.qpn = some q' ∧ q'.state = .error ∧ q'.cause = 2) ∧
            (precedes r.psn q.ePsn = true → sdiff r.psn q.ePsn ≤ 256 → r.op ≠ .read → ∃ d msn p,
              exec (.rdmaRequest r) s = .next { s with dev := d } ∧ Keeps [.rcnt, .out] s.dev d ∧ d.rcnt.dupAck = s.dev.rcnt.dupAck + 1 ∧
                d.out = s.dev.out ++ [.rdmaAck r.qpn r.psn msn p] ∧ p = ackFrame (s.dev.netHdr q.host) r.psn msn) ∧
            (r.psn ≠ q.ePsn → precedes r.psn q.ePsn = false → q.nakSent = false →
              ∃ d q', exec (.rdmaRequest r) s = .next { s with dev := d } ∧ Keeps [.rdma, .rcnt, .out] s.dev d ∧
                d.out = s.dev.out ++ [.rdmaNak r.qpn q.ePsn .psnSeq (nakFrame (s.dev.netHdr q.host) q.ePsn q.msn .psnSeq)] ∧
                d.qp r.qpn = some q' ∧ q'.nakSent = true ∧ q'.ePsn = q.ePsn)))))

/-- What arrives from the partner (R147, R280, R281, R282, R311): a message that is not authentic is only counted, and logged where its tag does
not verify; one of a level above the one in force is refused with a NAK; one of another epoch or role is discarded, counted, and refused
with a NAK that carries this head's epoch and table; while the pair does not run nothing happens. -/
def Obligations.PairMessageChecks : Prop :=
  ∀ (s : State) (e : Env) (l : Four LinkSec) (o : Four Nat) (b : Beat) (r : JRec) (st : Option GState) (ok : Bool) (n m k : Nat)
    (t : TakeoverIn) (ents : List LedgerEnt) (w f : W32) (g : Fin 4) (q : OpenReq) (tr : TrigRec) (gs : BitVec 4) (hd : W64)
    (sl : List Slot) (cm : List (Fin 4 × W32)) (c : Ckpt) (ck : NakKind),
    (∀ p, p ∈ [(Instr.linkInfo e l, 0x08), (.frozen e n t, 0x29), (.mirrorRec e r st ok, 0x48), (.claimVerdict e n m k ok, 0x34),
        (.ckptDone e n c, 0x38), (.ledger e ents, 0x11), (.healDone e w g n f hd sl, 0x41), (.takePart e q w f n m, 0x30),
        (.takePartAck e n m k, 0x31), (.triggerFwd e tr n m, 0x32), (.handoverReady e gs, 0x23), (.handoverDone e cm, 0x25),
        (.heartbeat e b, 0x10), (.ownerTable e o, 0x20), (.ownerAck e o, 0x21), (.leaving e n t, 0x28), (.nak e ck n o, 0x7F)] →
      (s.dev.pairOn = false → exec p.1 s = .next s) ∧
      (s.dev.pairOn = true →
        (s.dev.ciphOn = false ∨ (s.dev.page 1).state ≠ .ready →
          exec p.1 s = .next { s with dev := { s.dev with ih := { s.dev.ih with authFail := s.dev.ih.authFail + 1 } } }) ∧
        (s.dev.ciphOn = true → (s.dev.page 1).state = .ready → e.auth = false → ∃ d, exec p.1 s = .next { s with dev := d } ∧
          Keeps [.out, .cat, .hif, .ih, .dma, .evr] s.dev d ∧ d.ih = { s.dev.ih with authFail := s.dev.ih.authFail + 1 } ∧
          Recorded 0x0702 1 s.dev d) ∧
        (s.dev.ciphOn = true → (s.dev.page 1).state = .ready → e.auth = true → s.dev.tango.cl < e.level →
          ∃ d, exec p.1 s = .next { s with dev := d } ∧ Keeps [.out, .cat, .ciph, .hif, .tango, .dma, .evr] s.dev d ∧
            d.tango.owners = s.dev.tango.owners ∧ d.tango.epoch = s.dev.tango.epoch ∧
            (Speaks s.dev → Out.nak p.2 e.seq 2 s.dev.tango.epoch s.dev.tango.owners ∈ d.out)))) ∧
    (∀ p, p ∈ [(Instr.linkInfo e l, 0x08), (.frozen e n t, 0x29), (.mirrorRec e r st ok, 0x48), (.claimVerdict e n m k ok, 0x34),
        (.ckptDone e n c, 0x38), (.ledger e ents, 0x11), (.healDone e w g n f hd sl, 0x41), (.takePart e q w f n m, 0x30),
        (.takePartAck e n m k, 0x31), (.triggerFwd e tr n m, 0x32), (.handoverReady e gs, 0x23), (.handoverDone e cm, 0x25)] →
      s.dev.pairOn = true → Heard e s.dev → e.epoch ≠ s.dev.tango.epoch ∨ e.role ≠ s.dev.role →
      ∃ d, exec p.1 s = .next { s with dev := d } ∧ Keeps [.out, .cat, .ciph, .hif, .tango, .ih, .dma, .evr] s.dev d ∧
        d.ih = { s.dev.ih with roleDiscard := s.dev.ih.roleDiscard + 1 } ∧ d.tango.owners = s.dev.tango.owners ∧
        d.tango.epoch = s.dev.tango.epoch ∧
        (Speaks s.dev → Out.nak p.2 e.seq (if e.epoch ≠ s.dev.tango.epoch then 0 else 1) s.dev.tango.epoch s.dev.tango.owners ∈ d.out))

/-- How a session forms (R279, R280, R285, R286, R291): HELLO is verified, refused with an event, found to clash or to have no level in common,
or answered with keys and KEY_CONFIRM; HELLO_RETRY sends it again and claims the normal groups where no partner is seen; KEY_CONFIRM brings
the session up, where head A proposes the table and a running head announces its own; a queue pair's error takes it down. It states that
.hello, .helloRetry, .keyConfirm and .tangoQpError each complete with the effect given, under conditions on the state and operands alone. -/
def Obligations.SessionSetup : Prop :=
  ∀ (s : State), (s.dev.pairOn = false → ∀ e m, exec (.hello e m) s = .next s ∧ exec .helloRetry s = .next s) ∧
    (s.dev.joins = false → (∀ e, exec (.keyConfirm e) s = .next s) ∧ ∀ q, exec (.tangoQpError q) s = .next s) ∧
    (s.dev.pairOn = true →
      (∀ e m, ∃ d, exec (.hello e m) s = .next { s with dev := d } ∧ d.tango.session = false ∧
        (∀ c, helloFault s.dev.vault.vaultId m = some c → d.tango.verifyFailed = true ∧ d.tango.partner = s.dev.tango.partner ∧
          Recorded 0x060A noInstance s.dev d) ∧
        (helloFault s.dev.vault.vaultId m = none →
          (m.headB = s.dev.glb.headB → d.tango.clash = true ∧
            (s.dev.tango.clash = false → Recorded 0x0601 noInstance s.dev d)) ∧
          (m.headB ≠ s.dev.glb.headB →
            let level := min s.dev.levelMax m.levelMax
            let least := max (max s.dev.levelMin m.levelMin) (max s.dev.vault.vaultLevel m.vaultLevel)
            (level < least → d.tango.partner = s.dev.tango.partner ∧ d.tango.barred = decide (m.levelMax < s.dev.levelMax) ∧
              Recorded 0x0607 noInstance s.dev d) ∧
            (least ≤ level → d.tango.clash = false ∧ d.tango.barred = false ∧
              (s.dev.boot.idOk = true → (s.dev.page 0).erase = none → (s.dev.page 1).erase = none → LaneFree s.dev →
                d.tango.partner = some m ∧ d.tango.cl = level ∧ d.tango.confirmed = true ∧ (d.page 0).state = .ready ∧
                (d.page 1).state = .ready ∧ ((s.dev.page 0).domain = 0 → Out.keyConfirm none ∈ d.out)))))) ∧
      (s.dev.tango.session = true → exec .helloRetry s = .next s) ∧
      (s.dev.tango.session = false → s.dev.joins = false ∨ s.dev.tango.waiting = false → ∃ d m, exec .helloRetry s = .next { s with dev := d } ∧
        d.tango.owners = s.dev.tango.owners ∧ d.tango.helloSent = true ∧ Out.hello m none ∈ d.out ∧ m.serial = Config.serial ∧
        m.headB = s.dev.glb.headB ∧ m.levelMax = s.dev.levelMax ∧ m.epochMax = max s.dev.tango.epochMax s.dev.tango.epoch) ∧
      (s.dev.tango.session = false → s.dev.joins = true → s.dev.tango.waiting = true → s.dev.owned = [] → s.dev.partnerSeen = false →
        max s.dev.tango.epochMax s.dev.tango.epoch + 1 < epochEnd → ∃ d, exec .helloRetry s = .next { s with dev := d } ∧
        d.tango.epoch = max s.dev.tango.epochMax s.dev.tango.epoch + 1 ∧ ∀ g, d.owns g = s.dev.normal.contains g)) ∧
    (s.dev.joins = true →
      (∀ e, s.dev.tango.session = false → Heard e s.dev →
        (s.dev.tango.state = 2 → ∃ d, exec (.keyConfirm e) s = .next { s with dev := d } ∧ d.tango.session = true ∧
          d.tango.silent = false ∧ d.tango.missed = 0 ∧ d.tango.resync = true ∧ d.tango.owners = s.dev.tango.owners ∧
          d.tango.epoch = s.dev.tango.epoch) ∧
        (s.dev.glb.headB = false → s.dev.tango.state ≤ 1 → (∀ m, s.dev.tango.partner = some m → m.state ≤ 1) →
          HasVoice s.dev → ∃ d, exec (.keyConfirm e) s = .next { s with dev := d } ∧ d.tango.session = true ∧
          d.tango.owners = s.dev.tango.owners ∧
          Out.ownerTable ⟨0, 0, 1, 1⟩ (max s.dev.tango.epochMax s.dev.tango.epoch + 1) ∈ d.out) ∧
        (s.dev.tango.state = 3 → (∀ m, s.dev.tango.partner = some m → m.state ≤ 1) → s.dev.tango.epoch + 1 < epochEnd →
          ∃ t, exec (.keyConfirm e) s = .next t ∧ t.dev.tango.session = true ∧ t.dev.tango.owners = s.dev.tango.owners ∧
            t.dev.tango.epoch = s.dev.tango.epoch + 1 ∧
            (HasVoice s.dev → Out.ownerTable s.dev.tango.owners (s.dev.tango.epoch + 1) ∈ t.dev.out))) ∧
      (∀ q, ∃ d m, exec (.tangoQpError q) s = .next { s with dev := d } ∧ d.tango.session = false ∧ d.tango.partOpens = [] ∧
        (d.page 0).state = .assigned ∧ (d.page 1).state = .assigned ∧ d.tango.seqs = [] ∧ d.tango.rxSeqs = [] ∧
        Out.hello m none ∈ d.out ∧ m.serial = Config.serial ∧ m.headB = s.dev.glb.headB))

/-- Who owns the groups (R287, R288, R291, R301, R306): a table of a higher epoch takes effect whole and is acknowledged, one that is not higher
changes nothing; a wait at start that ends without a session claims every group or loses the race; LINK_INFO is kept; a resynchronised head
becomes ready. It states that .startupWaitExpiry, .linkInfo, .ownerTable, .ownerAck and .standbyReady each complete with the effect given,
under conditions on the state and operands alone. -/
def Obligations.OwnershipTable : Prop :=
  (∀ (s : State) (e : Env) (o : Four Nat), s.dev.pairOn = true → Heard e s.dev →
    (e.epoch ≤ s.dev.tango.epoch → exec (.ownerTable e o) s = .next { s with dev := s.dev.noted 0 e } ∧
      exec (.ownerAck e o) s = .next { s with dev := s.dev.noted 0 e }) ∧
    (s.dev.tango.epoch < e.epoch → (∀ g, s.dev.owns g = true → o.at g = s.dev.self) →
      (∃ d, exec (.ownerTable e o) s = .next { s with dev := d } ∧ d.tango.owners = o ∧ d.tango.epoch = e.epoch ∧
        d.tango.epochMax = max s.dev.tango.epochMax e.epoch ∧ d.ih = s.dev.ih ∧
        d.tango.state = (if groupList.any (fun g => o.at g == s.dev.self) then 3 else 1) ∧
        (Speaks s.dev → Out.ownerAck o e.epoch ∈ d.out)) ∧
      (∃ d, exec (.ownerAck e o) s = .next { s with dev := d } ∧ d.tango.owners = o ∧ d.tango.epoch = e.epoch ∧
        d.tango.purge = some e.epoch ∧ ∀ x ∈ s.dev.inService, Out.nvme x 4 (.register (resKey s.dev.glb.headB e.epoch)) ∈ d.out)) ∧
    (s.dev.tango.epoch < e.epoch → (∃ g, s.dev.owns g = true ∧ o.at g ≠ s.dev.self) →
      ∃ d, exec (.ownerTable e o) s = .next { s with dev := d } ∧ d.tango.owners = o ∧ d.tango.epoch = e.epoch ∧
        d.ih.stepdowns = s.dev.ih.stepdowns + 1)) ∧
  (∀ (s : State) (e : Env) (l : Four LinkSec), s.dev.pairOn = true → Agreed e s.dev →
    ∃ d, exec (.linkInfo e l) s = .next { s with dev := d } ∧ Keeps [.out, .cat, .hif, .tango, .dma, .evr] s.dev d ∧
      d.tango.farLink = l ∧ ∀ g : Fin 4, d.tango.paired.getLsbD g.val =
        Dev.pairedNow { s.dev with tango := { s.dev.tango with farLink := l } } g) ∧
  (∀ s : State, (s.dev.becomesReady = false → exec .standbyReady s = .next s) ∧
    (s.dev.becomesReady = true → exec .standbyReady s = .next { s with dev := { s.dev with tango := { s.dev.tango with state := 2 } } })) ∧
  (∀ (s : State) (t : TakeoverIn) (ds : List DumpIn),
    (s.dev.joins = false ∨ s.dev.tango.session = true ∨ s.dev.tango.waiting = false → exec (.startupWaitExpiry t ds) s = .next s) ∧
    (s.dev.joins = true → s.dev.tango.session = false → s.dev.tango.waiting = true →
      (epochEnd ≤ s.dev.epochSeen t + 1 → ∃ d, exec (.startupWaitExpiry t ds) s = .next { s with dev := d } ∧ d.glb.fatal = true) ∧
      (s.dev.epochSeen t + 1 < epochEnd → t.conflicts ≠ [] → ∃ d, exec (.startupWaitExpiry t ds) s = .next { s with dev := d } ∧
        d.tango.lostRace = true ∧ d.tango.state = 1 ∧ d.tango.waiting = false ∧ d.ih.stepdowns = s.dev.ih.stepdowns + 1) ∧
      (s.dev.epochSeen t + 1 < epochEnd → t.conflicts = [] → ∃ d, exec (.startupWaitExpiry t ds) s = .next { s with dev := d } ∧
        d.ih.takeovers = s.dev.ih.takeovers + 1 ∧ d.ih.stepdowns = s.dev.ih.stepdowns ∧ d.tango.epoch = s.dev.epochSeen t + 1 ∧
        ∀ g, d.owns g = true)))

/-- Heartbeats and a partner that is lost (R283, R284, R299, R301, R311): a HEARTBEAT goes out and is counted; one that arrives ends a silence;
after four that are missed the drives are checked, and the head steps down, tells its host, or takes over; LEAVING and FROZEN lead there. It
states that .heartbeatTimer, .heartbeat, .heartbeatMissed, .partnerSilent, .fenceRetry, .leaving and .frozen each complete with the effect
given, under conditions on the state and operands alone. -/
def Obligations.LostPartner : Prop :=
  (∀ s : State, (s.dev.beats = true → Speaks s.dev → ∃ d, exec .heartbeatTimer s = .next { s with dev := d } ∧
      d.ih = { s.dev.ih with hbSent := s.dev.ih.hbSent + 1 } ∧ Out.beat s.dev.beatNow ∈ d.out) ∧
    (s.dev.beats = false ∨ s.dev.tango.session = false → exec .heartbeatTimer s = .next s) ∧
    (∀ e b, s.dev.pairOn = true → Heard e s.dev → ∃ d, exec (.heartbeat e b) s = .next { s with dev := d } ∧ Keeps [.tango] s.dev d ∧
      d.tango = { (s.dev.noted 1 e).tango with beat := some b, missed := 0, silent := false }) ∧
    (s.dev.pairOn = true → s.dev.tango.beat ≠ none → exec .heartbeatMissed s = .next { s with
      dev := { s.dev with tango := { s.dev.tango with missed := s.dev.tango.missed + 1 }, ih := { s.dev.ih with hbMissed := s.dev.ih.hbMissed + 1 } } }) ∧
    (s.dev.pairOn = false ∨ s.dev.tango.beat = none → exec .heartbeatMissed s = .next s)) ∧
  (∀ (s : State) (t : TakeoverIn),
    (s.dev.pairOn = false ∨ s.dev.tango.missed < 4 ∨ s.dev.tango.silent = true → exec (.partnerSilent t) s = .next s) ∧
    (s.dev.pairOn = true →
      (4 ≤ s.dev.tango.missed → s.dev.tango.silent = false →
        (s.dev.keyIntact t = false → ∃ d, exec (.partnerSilent t) s = .next { s with dev := d } ∧ d.tango.silent = true ∧ d.tango.state = 1 ∧
          d.ih.stepdowns = s.dev.ih.stepdowns + 1 ∧ ∀ g, d.owns g = false) ∧
        (s.dev.keyIntact t = true → s.dev.autoTakeover = false → ∃ d, exec (.partnerSilent t) s = .next { s with dev := d } ∧
          d.tango = { s.dev.tango with silent := true, takeoverHeld := true } ∧ Recorded 0x0602 noInstance s.dev d) ∧
        (s.dev.keyIntact t = true → s.dev.autoTakeover = true →
          (s.dev.takeable = [] → ∃ d, exec (.partnerSilent t) s = .next { s with dev := d } ∧
            d.tango = { s.dev.tango with silent := true } ∧ Recorded 0x0602 noInstance s.dev d) ∧
          (s.dev.takeable ≠ [] → s.dev.epochSeen t + 1 < epochEnd → t.conflicts = [] →
            ∃ d, exec (.partnerSilent t) s = .next { s with dev := d } ∧ d.ih.takeovers = s.dev.ih.takeovers + 1 ∧
              d.tango.epoch = s.dev.epochSeen t + 1 ∧ ∀ g, d.owns g = (s.dev.owns g || s.dev.takeable.contains g)) ∧
          (s.dev.takeable ≠ [] → s.dev.epochSeen t + 1 < epochEnd → t.conflicts ≠ [] →
            ∃ d, exec (.partnerSilent t) s = .next { s with dev := d } ∧ d.tango.lostRace = true ∧ d.tango.state = 1 ∧
              d.ih.takeovers = s.dev.ih.takeovers ∧ d.ih.stepdowns = s.dev.ih.stepdowns + 1))) ∧
      (s.dev.tango.owing = false → s.dev.tango.lostRace = true →
        t.reports.any (fun r => r.keys.any (keyOfHead (!s.dev.glb.headB))) = true →
        exec (.fenceRetry t) s = .next { s with dev := { s.dev with tango := { s.dev.tango with lostRace := false } } }) ∧
      (s.dev.tango.owing = true ∨ (s.dev.tango.lostRace = true ∧
          t.reports.any (fun r => r.keys.any (keyOfHead (!s.dev.glb.headB))) = false) →
        s.dev.epochSeen t + 1 < epochEnd → t.conflicts = [] → ∃ d, exec (.fenceRetry t) s = .next { s with dev := d } ∧
          d.ih.takeovers = s.dev.ih.takeovers + 1) ∧
      (s.dev.tango.owing = false → s.dev.tango.lostRace = false → exec (.fenceRetry t) s = .next s) ∧
      (∀ e c, Heard e s.dev → (c ≠ 2 ∨ s.dev.partnerOwns = false) → ∃ d, exec (.leaving e c t) s = .next { s with dev := d } ∧
        Keeps [.tango] s.dev d ∧ d.tango = { (s.dev.noted 0 e).tango with leaving := some c }) ∧
      (∀ e, Heard e s.dev → s.dev.partnerOwns = true → s.dev.keyIntact t = true → s.dev.autoTakeover = false →
        ∃ d, exec (.leaving e 2 t) s = .next { s with dev := d } ∧ d.tango.takeoverHeld = true ∧ d.tango.leaving = some 2) ∧
      (∀ e n, Agreed e s.dev →
        (s.dev.tango.leaving = none ∨ s.dev.partnerOwns = false → exec (.frozen e n t) s = .next { s with dev := s.dev.noted 0 e }) ∧
        (s.dev.tango.leaving ≠ none → s.dev.partnerOwns = true → s.dev.keyIntact t = true → s.dev.autoTakeover = false →
          ∃ d, exec (.frozen e n t) s = .next { s with dev := d } ∧ d.tango.takeoverHeld = true ∧ d.tango.leaving = none))))

/-- Planned handover between the heads (R305, R312): the giving head forms its standby rings and asks, the taking head answers when its rings
have landed 250 ms, each group is cut at a tile boundary, the table at the next epoch changes hands with HANDOVER_STATE, and HANDOVER_DONE
ends it; a timeout ends it with BUSY before the table has changed, and by the check and the fence after it. It states that .handoverReq,
.handoverReady, .handoverState, .handoverDone and .handoverTimeout each complete with the effect given, under conditions on the state and
operands alone. -/
def Obligations.HandoverMessages : Prop :=
  (∀ (s : State) (e : Env) (m : BitVec 4), s.dev.pairOn = true → Agreed e s.dev → m ≠ 0 →
    (((groupsIn m).all s.dev.owns = false ∨ s.dev.handBusy m 0 = true) → exec (.handoverReq e m 1) s = .next { s with dev := s.dev.noted 0 e }) ∧
    ((groupsIn m).all s.dev.owns = true → s.dev.handBusy m 0 = false →
      ∃ d, exec (.handoverReq e m 1) s = .next { s with dev := d } ∧ d.tango.owners = s.dev.tango.owners ∧
        d.tango.hand = some { groups := m, giving := true, h := none,
                              stage := if s.dev.freeAbove (s.dev.ceilingWith m) then 1 else 0, cuts := [] } ∧
        (s.dev.freeAbove (s.dev.ceilingWith m) = true → Speaks s.dev → Out.handReq m 0 ∈ d.out)) ∧
    (s.dev.tango.state = 1 ∨ s.dev.rings250 (groupsIn m) = false ∨ (groupsIn m).any s.dev.owns = true ∨
        (groupsIn m).all (fun g => s.dev.tango.paired.getLsbD g.val) = false →
      exec (.handoverReq e m 0) s = .next { s with dev := s.dev.noted 0 e }) ∧
    (∀ h, s.dev.tango.state ≠ 1 → s.dev.rings250 (groupsIn m) = true → (groupsIn m).any s.dev.owns = false →
      (groupsIn m).all (fun g => s.dev.tango.paired.getLsbD g.val) = true →
      (s.dev.tango.hand = none ∧ h = none ∨ s.dev.tango.hand = some { groups := m, giving := false, h := h, stage := 1, cuts := [] }) →
      ∃ d, exec (.handoverReq e m 0) s = .next { s with dev := d } ∧ d.tango.owners = s.dev.tango.owners ∧
        d.tango.hand = some { groups := m, giving := false, h := h, stage := 2, cuts := [] } ∧ (Speaks s.dev → Out.handReady m ∈ d.out))) ∧
  (∀ (s : State) (e : Env) (h : Hand), s.dev.pairOn = true → Agreed e s.dev → s.dev.tango.hand = some h → h.giving = true → h.stage = 1 →
    (∀ m, m ≠ h.groups → exec (.handoverReady e m) s = .next { s with dev := s.dev.noted 0 e }) ∧
    ((groupsIn h.groups).all s.dev.atBoundary = false → ∃ d, exec (.handoverReady e h.groups) s = .next { s with dev := d } ∧
      Keeps [.tango] s.dev d ∧ d.tango = { (s.dev.noted 0 e).tango with hand := some { h with stage := 2 } }) ∧
    ((groupsIn h.groups).all s.dev.atBoundary = true → s.dev.cat.takes = [] → s.dev.vault.sealedQ ≠ [] →
      (∀ b ∈ s.dev.vault.sealedQ, b.source < 4 ∧ h.groups.getLsbD b.source = true) →
      ∃ d, exec (.handoverReady e h.groups) s = .next { s with dev := d } ∧ d.tango.epoch = s.dev.tango.epoch + 1 ∧
        (∀ g ∈ groupsIn h.groups, d.owns g = false) ∧
        d.tango.hand = some { h with stage := 3, cuts := (groupsIn h.groups).map (fun g => (g, (s.dev.lg.at g).ringPos - 1)) } ∧
        (Speaks s.dev → Out.handState ((groupsIn h.groups).map s.dev.cutOf) [] (s.dev.tango.epoch + 1) ∈ d.out))) ∧
  (∀ (s : State) (e : Env) (h : Hand) (cuts : List (Fin 4 × W32 × GState)), s.dev.pairOn = true → Heard e s.dev →
    e.epoch = s.dev.tango.epoch + 1 → e.role = s.dev.role → s.dev.tango.hand = some h → h.giving = false → h.stage = 2 →
    s.dev.tango.ckpts = [] → s.dev.tango.mirror = [] → s.dev.cat.takes = [] → (∀ c ∈ cuts, (s.dev.lg.at c.1).ring = []) →
    ∃ d, exec (.handoverState e cuts []) s = .next { s with dev := d } ∧ d.tango.epoch = e.epoch ∧ d.tango.state = 3 ∧
      d.tango.hand = some { h with stage := 3, cuts := cuts.map (fun c => (c.1, c.2.1)) } ∧ ∀ c ∈ cuts, d.owns c.1 = true) ∧
  (∀ (s : State) (e : Env) cuts ch, s.dev.pairOn = false ∨ e.epoch ≠ s.dev.tango.epoch + 1 → exec (.handoverState e cuts ch) s = .next s) ∧
  (∀ (s : State) (e : Env) (h : Hand) (cm : List (Fin 4 × W32)), s.dev.pairOn = true → Agreed e s.dev → s.dev.tango.hand = some h →
    (h.giving = true ∨ h.stage ≠ 3 → exec (.handoverDone e cm) s = .next { s with dev := s.dev.noted 0 e }) ∧
    (h.giving = false → h.stage = 3 → s.dev.tango.mirror = [] → s.dev.vault.opened = [] → s.dev.vault.mdc = none → s.dev.repl = [] →
      s.dev.cat.takes = [] → ∃ d, exec (.handoverDone e cm) s = .next { s with dev := d } ∧ d.tango.hand = none ∧
        d.ih.handovers = s.dev.ih.handovers + 1 ∧
        ∀ x, h.h = some x → s.dev.outstanding x.chan x.tag = true → tget s.dev.hif.dying x.chan = none →
          Answered 0x1B x 0 (BitVec.ofNat 64 s.dev.tango.epoch) 0 s.dev d)) ∧
  (∀ (s : State) (t : TakeoverIn), (s.dev.pairOn = false ∨ s.dev.tango.hand = none → exec (.handoverTimeout t) s = .next s) ∧
    (∀ h, s.dev.pairOn = true → s.dev.tango.hand = some h →
      (h.stage = 9 ∨ (h.giving = true ∧ h.stage = 3) → exec (.handoverTimeout t) s = .next s) ∧
      (h.stage < 3 → h.giving = false → (∀ g ∈ groupsIn h.groups, s.dev.owns g = false) →
        ∃ d, exec (.handoverTimeout t) s = .next { s with dev := d } ∧ d.tango = { s.dev.tango with hand := none } ∧
          ∀ x, h.h = some x → s.dev.outstanding x.chan x.tag = true → tget s.dev.hif.dying x.chan = none → Answered 0x1B x 8 0 0 s.dev d) ∧
      (h.stage = 3 → h.giving = false → s.dev.keyIntact t = false → ∃ d, exec (.handoverTimeout t) s = .next { s with dev := d } ∧
        d.tango.state = 1 ∧ d.tango.hand = none ∧ d.ih.stepdowns = s.dev.ih.stepdowns + 1) ∧
      (h.stage = 3 → h.giving = false → s.dev.keyIntact t = true → s.dev.epochSeen t + 1 < epochEnd →
        (t.conflicts = [] → ∃ d, exec (.handoverTimeout t) s = .next { s with dev := d } ∧
          d.ih.takeovers = s.dev.ih.takeovers + 1) ∧
        (t.conflicts ≠ [] → ∃ d, exec (.handoverTimeout t) s = .next { s with dev := d } ∧ d.tango.lostRace = true ∧
          d.tango.state = 1 ∧ d.tango.hand = none ∧ d.ih.stepdowns = s.dev.ih.stepdowns + 1))))

/-- What the pair exchanges while it runs (R90, R91, R189, R191, R292, R295, R297, R298, R508): the journal is mirrored in order and
acknowledged, a DURABLE discards what is no longer live, a claim is judged, a checkpoint is sent and the two newest are kept, a LEDGER is
compared and releases the standby ring up to C, and slots asked for are sent and healed. It states that .claimVerdict, .checkpointTimer,
.ckptDone, .healReq, .healDone, .mirrorRec, .mirrorAck and .ledger each complete with the effect given, under conditions on the state and
operands alone. -/
def Obligations.MirrorAndHeal : Prop :=
  ∀ (s : State) (e : Env), s.dev.pairOn = true →
    (Agreed e s.dev →
      (∀ r st, exec (.mirrorRec e r st false) s = .next { s with dev := s.dev.noted 2 e } ∧
        (s.dev.tango.resync = false → r.jseq ≠ next64 s.dev.tango.placed →
          exec (.mirrorRec e r st true) s = .next { s with dev := s.dev.noted 2 e }) ∧
        (r.jseq = next64 s.dev.tango.placed ∨ s.dev.tango.resync = true →
          ((∀ k, r.body ≠ .durable k) → (∀ k, r.body ≠ .stripeRetire k) → r.body ≠ .periodClaim →
            ∃ d, exec (.mirrorRec e r st true) s = .next { s with dev := d } ∧ d.tango.placed = r.jseq ∧ d.tango.resync = false ∧
              d.tango.mirror = s.dev.tango.mirror ++ [r] ∧ d.ih = { s.dev.ih with mirrorPlaced := s.dev.ih.mirrorPlaced + 1 } ∧
              d.vault = s.dev.vault ∧ (Speaks s.dev → Out.mirrorAck r.jseq ∈ d.out)) ∧
          (∀ k, r.body = .durable k → ∃ d, exec (.mirrorRec e r st true) s = .next { s with dev := d } ∧
            d.tango.placed = r.jseq ∧ d.tango.mirror = (s.dev.tango.mirror ++ [r]).filter (fun x => upTo64 k x.jseq)) ∧
          (r.body = .periodClaim → Speaks s.dev →
            let own := s.dev.vault.claims.any (fun c => c.layout == r.layout && c.period == r.subject && c.headB == s.dev.glb.headB)
            ∃ d, exec (.mirrorRec e r st true) s = .next { s with dev := d } ∧
              Out.claimVerdict r.layout r.subject r.jseq (own && !s.dev.glb.headB) ∈ d.out))) ∧
      (s.dev.retiring = true →
        (∀ j, s.dev.vault.opened = [] → s.dev.vault.mdc = none → s.dev.repl = [] → s.dev.tango.hand = none → s.dev.cat.takes = [] →
          exec (.mirrorAck e j) s = .next { s with dev := { (s.dev.noted 2 e) with
            tango := { (s.dev.noted 2 e).tango with acked := later64 s.dev.tango.acked j } } }) ∧
        (∀ j x, s.dev.vault.opened = [x] → upTo64 x.jseq j = true → x.done = 0 → s.dev.layout x.buf.layout ≠ none →
          (∀ l, s.dev.layout x.buf.layout = some l → l.members ≠ 0) → s.dev.vault.mdc = none → s.dev.repl = [] →
          s.dev.tango.hand = none → s.dev.cat.takes = [] → ∃ d, exec (.mirrorAck e j) s = .next { s with dev := d } ∧
            d.vault.opened = [{ x with acked := true }] ∧ d.tango.acked = later64 s.dev.tango.acked j)) ∧
      (∀ l p j c, s.dev.vault.claims = [c] → c.headB = s.dev.glb.headB → c.layout = l → c.period = p → c.jseq = j →
        (∃ d, exec (.claimVerdict e l p j false) s = .next { s with dev := d } ∧ Keeps [.tango, .vault] s.dev d ∧
          d.vault = { s.dev.vault with claims := [{ c with accepted := true }] }) ∧
        (s.dev.layout l = none → ∃ d, exec (.claimVerdict e l p j true) s = .next { s with dev := d } ∧ d.vault.claims = [])) ∧
      (∀ l p j b, s.dev.vault.claims = [] → exec (.claimVerdict e l p j b) s = .next { s with dev := s.dev.noted 0 e }) ∧
      (∀ n c, ∃ d, exec (.ckptDone e n c) s = .next { s with dev := d } ∧ (c.crcOk = false → Keeps [.tango] s.dev d) ∧
        d.tango.ckpts = (s.dev.tango.ckpts ++ [c]).drop (s.dev.tango.ckpts.length - 1)) ∧
      (∀ x, s.dev.owns x.group = true → exec (.ledger e [x]) s = .next { s with dev := s.dev.noted 1 e }) ∧
      (∀ x, s.dev.owns x.group = false → ∃ d, exec (.ledger e [x]) s = .next { s with dev := d } ∧
        (d.lg.at x.group).ring = (s.dev.lg.at x.group).ring.filter (fun y => !precEq y.pkt.gsn x.c) ∧
        (d.lg.at x.group).ledgerBase = some (x.c, s.dev.audit.ticks) ∧
        (x.crcValid = false → Keeps [.tango, .lg] s.dev d) ∧
        (∀ b ss, x.crcValid = true → (s.dev.lg.at x.group).ledgerBase = some b → (s.dev.lg.at x.group).fedRange b.1 x.c = some ss →
          crc32c ((ss.map (fun y => headerBytes y.pkt)).flatten) ≠ x.crc →
          d.ih.feedMismatch = s.dev.ih.feedMismatch + 1 ∧ Recorded 0x0605 (BitVec.ofNat 32 x.group.val) s.dev d)) ∧
      (∀ q g n f i, 1 ≤ n → n ≤ 64 → s.dev.owns g = true → ∃ d, exec (.healReq e q g n f i) s = .next { s with dev := d } ∧
        d.ih = { s.dev.ih with roleDiscard := s.dev.ih.roleDiscard + 1 } ∧
        (Speaks s.dev → Out.nak 0x40 e.seq 1 s.dev.tango.epoch s.dev.tango.owners ∈ d.out)) ∧
      (∀ q g n f i, n = 0 ∨ 64 < n → exec (.healReq e q g n f i) s = .next s) ∧
      (∀ q g n f i, 1 ≤ n → n ≤ 64 → s.dev.owns g = false → Speaks s.dev → ∃ d held,
        exec (.healReq e q g n f i) s = .next { s with dev := d } ∧ d.lg = s.dev.lg ∧
        d.ih.healServed = s.dev.ih.healServed + BitVec.ofNat 64 ((gsnRun f n).filterMap (s.dev.heldSlot g i)).length ∧
        Out.healDone q g n f held ((gsnRun f n).filterMap (s.dev.heldSlot g i)) ∈ d.out) ∧
      (∀ q g x h, (s.dev.lg.at g).heals = [h] → s.dev.owns g = false →
        ((∃ r, (s.dev.sl.groups.at g).grant = some r ∧ r.streamId = x.pkt.streamId) → x.pkt.gsn = h.gsn →
          x.pkt.group = BitVec.ofNat 8 g.val → ∃ d, exec (.healDone e q g 1 h.gsn 1 [x]) s = .next { s with dev := d } ∧
            (d.lg.at g).heals = [] ∧ (d.lg.at g).healed = (s.dev.lg.at g).healed + 1 ∧
            (d.lg.at g).received = (s.dev.lg.at g).received + 1) ∧
        (h.reqId = q → ∃ d, exec (.healDone e q g 1 h.gsn 0 []) s = .next { s with dev := d } ∧ (d.lg.at g).heals = [] ∧
          (d.lg.at g).received = (s.dev.lg.at g).received + 1))) ∧
    (s.dev.tango.ckptBad = true → exec .checkpointTimer s = .next { s with dev := { s.dev with tango := { s.dev.tango with ckptBad := false } } }) ∧
    (s.dev.tango.ckptBad = false → s.dev.tango.session = false ∨ (s.dev.owned = [] ∧ s.dev.cat.takes = []) →
      exec .checkpointTimer s = .next s) ∧
    (s.dev.tango.ckptBad = false → s.dev.owned ≠ [] → Speaks s.dev → ∃ t, exec .checkpointTimer s = .next t ∧
      t.dev.tango.ckptSeq = next64 s.dev.tango.ckptSeq ∧ Out.ckpt s.dev.checkpoint ∈ t.dev.out)

/-- Drives, takes and refusals across the pair (R218, R219, R282, R290, R294, R304, R311): a drive's news is acted on and answered, a part of a
take is opened and acknowledged, its TAKE_OPEN completes or is undone, a trigger is kept, and a NAK brings the owners' table up to date. It
states that .takePart, .takePartAck, .triggerFwd, .driveNotice and .nak each complete with the effect given, under conditions on the state
and operands alone. -/
def Obligations.PairTakesAndDrives : Prop :=
  ∀ (s : State) (e : Env), s.dev.pairOn = true →
    (∀ x a, 48 ≤ x ∨ 2 < a → exec (.driveNotice e x a) s = .next s) ∧
    (Agreed e s.dev →
      (∀ x, x < 48 → (s.dev.drive x).held = [] →
        (∃ d, exec (.driveNotice e x 0) s = .next { s with dev := d } ∧ Keeps [.tango, .vault] s.dev d ∧
          d.drive x = { s.dev.drive x with partnerReg := true }) ∧
        ((s.dev.drive x).state ≠ .absent → (s.dev.drive x).state ≠ .failed → s.dev.vault.opened = [] →
          ∃ d, exec (.driveNotice e x 1) s = .next { s with dev := d } ∧ (d.drive x).state = .failed) ∧
        (∃ d, exec (.driveNotice e x 2) s = .next { s with dev := d } ∧ (d.drive x).partnerReg = true ∧
          Out.nvme x 4 (.register (resKey s.dev.glb.headB s.dev.tango.epoch)) ∈ d.out ∧ (Speaks s.dev → Out.driveNotice x 0 ∈ d.out))) ∧
      (∀ r w f id p, s.dev.volume r.volume = none → s.dev.rootLayout = none → ∃ d, exec (.takePart e r w f id p) s = .next { s with dev := d } ∧
        d.cat.takes = s.dev.cat.takes ∧ (Speaks s.dev → Out.takePartAck id p 8 ∈ d.out)) ∧
      (∀ r w f id p v, s.dev.volume r.volume = some v → s.dev.hif.notifies = [] →
        (s.dev.take r.volume id ≠ none → ∃ d, exec (.takePart e r w f id p) s = .next { s with dev := d } ∧
          d.cat.takes = s.dev.cat.takes ∧ (Speaks s.dev → Out.takePartAck id p 8 ∈ d.out)) ∧
        (s.dev.take r.volume id = none →
          (∀ st, s.dev.openCheck r none v = some st → ∃ d, exec (.takePart e r w f id p) s = .next { s with dev := d } ∧
            d.cat.takes = s.dev.cat.takes ∧ (Speaks s.dev → Out.takePartAck id p st ∈ d.out)) ∧
          (s.dev.openCheck r none v = none → ∃ d t, exec (.takePart e r w f id p) s = .next { s with dev := d } ∧ t ∈ d.cat.takes ∧
            t.volume = r.volume ∧ t.id = id ∧ t.state = .open_ ∧ t.chan = none ∧ t.groups = r.groups ∧
            (Speaks s.dev → Out.takePartAck id p 0 ∈ d.out)))) ∧
      (∀ h id p r v, s.dev.tango.partOpens = [(h, id, p, r)] → s.dev.volume r.volume = some v → s.dev.hif.notifies = [] →
        s.dev.outstanding h.chan h.tag = true → tget s.dev.hif.dying h.chan = none →
        (∃ d t, exec (.takePartAck e id p 0) s = .next { s with dev := d } ∧ d.tango.partOpens = [] ∧ t ∈ d.cat.takes ∧ t.id = id ∧
          t.chan = some h.chan ∧ Answered 0x40 h 0 (BitVec.ofNat 64 id)
            (BitVec.ofNat 64 (((s.dev.partsOf r.groups).map (fun x => 2 ^ x.1)).sum)) s.dev d) ∧
        (∀ st, st ≠ 0 → ∃ d, exec (.takePartAck e id p st) s = .next { s with dev := d } ∧ d.tango.partOpens = [] ∧
          d.cat.takes.length = s.dev.cat.takes.length ∧ Answered 0x40 h st 0 0 s.dev d)) ∧
      (∀ tr id n, ∃ d, exec (.triggerFwd e tr id n) s = .next { s with dev := d } ∧
        (s.dev.cat.takes.all (fun t => t.id != id || t.reel.isNone) = true → Keeps [.tango] s.dev d) ∧
        d.tango = { (s.dev.noted 0 e).tango with fwdTrigs := s.dev.tango.fwdTrigs ++ [(id, tr)] })) ∧
    (Heard e s.dev → ∀ k o,
      (e.epoch ≤ s.dev.tango.epoch → exec (.nak e k 2 o) s = .next { s with dev := s.dev.noted 0 e } ∧
        exec (.nak e .other 1 o) s = .next { s with dev := s.dev.noted 0 e } ∧
        ∃ d, exec (.nak e .linkInfo 1 o) s = .next { s with dev := d } ∧ d.tango.owners = s.dev.tango.owners ∧
          (Speaks s.dev → Out.linkInfo s.dev.linkSections ∈ d.out)) ∧
      (s.dev.tango.epoch < e.epoch → (∀ g, s.dev.owns g = true → o.at g = s.dev.self) → k ≠ .mirrorRec →
        ∃ d, exec (.nak e k 2 o) s = .next { s with dev := d } ∧ d.tango.owners = o ∧ d.tango.epoch = e.epoch ∧ d.ih = s.dev.ih) ∧
      (s.dev.tango.epoch < e.epoch → (∃ g, s.dev.owns g = true ∧ o.at g ≠ s.dev.self) →
        ∃ d, exec (.nak e k 2 o) s = .next { s with dev := d } ∧ d.tango.owners = o ∧ d.tango.epoch = e.epoch ∧
          d.tango.state = 1 ∧ d.ih.stepdowns = s.dev.ih.stepdowns + 1))

/-- Minuet (R388 to R396, R410): an early warning commands 5 mV more at once and a step down at most 5 mV less, the readback deciding whether
the target moves; a readback that is off stops the steps until the retry; a re-plan accounts the margin, and is held while a takeover or a
handover runs; 105 °C raises its event and 115 °C stops the head; margins and eyes are kept. It states that .earlyWarning, .replan,
.vddStepDown, .avsRetry, .sensorRead, .thermalSample, .thermalTrip, .pcieMargin and .eyeScan each complete with the effect given, under
conditions on the state and operands alone. -/
def Obligations.Ageing : Prop :=
  (∀ (s : State) (r : Fin 24) (avs : AvsIn),
    (s.dev.working = false ∨ s.dev.avsOn = false → exec (.earlyWarning r avs) s = .next s) ∧
    (s.dev.working = true → s.dev.avsOn = true →
      (s.dev.mnt.target < 800 → ∃ d, exec (.earlyWarning r avs) s = .next { s with dev := d } ∧
        Out.avs (s.dev.mnt.target + 5) ∈ d.out ∧ d.mnt.goal = s.dev.mnt.target + 5 ∧
        (∀ mv amp, avs = some (mv, amp) → d.mnt.measured = mv % 1024 ∧ d.mnt.current = amp % 256) ∧
        (∀ mv amp, avs = some (mv, amp) → s.dev.mnt.target ≤ mv + 5 → mv ≤ s.dev.mnt.target + 15 →
          d.mnt.target = s.dev.mnt.target + 5 ∧ d.mnt.ewSteps = (s.dev.mnt.ewSteps + 1) % 256 ∧ d.mnt.avsBad = false ∧
          Recorded 0x0D02 (BitVec.ofNat 32 r.val) s.dev d) ∧
        (∀ mv amp, avs = some (mv, amp) → mv + 5 < s.dev.mnt.target ∨ s.dev.mnt.target + 15 < mv →
          d.mnt.target = s.dev.mnt.target ∧ d.mnt.ewSteps = s.dev.mnt.ewSteps ∧ d.mnt.avsBad = true ∧ Recorded 0x0D08 noInstance s.dev d) ∧
        (avs = none →
          d.mnt.target = s.dev.mnt.target ∧ d.mnt.ewSteps = s.dev.mnt.ewSteps ∧ d.mnt.avsBad = true ∧ Recorded 0x0D08 noInstance s.dev d)) ∧
      (800 ≤ s.dev.mnt.target → ∃ d, exec (.earlyWarning r avs) s = .next { s with dev := d } ∧ d.mnt.target = s.dev.mnt.target ∧
        (s.dev.mnt.outAt = none → Recorded 0x0D04 noInstance s.dev d)))) ∧
  (∀ (s : State) (avs : AvsIn) (c : Instr), s.dev.running = true → s.dev.avsOn = true →
    (c = .vddStepDown avs ∧ s.dev.mnt.avsBad = false ∧ s.dev.mnt.goal < s.dev.mnt.target) ∨ (c = .avsRetry avs ∧ s.dev.mnt.avsBad = true) →
    ∃ d, exec c s = .next { s with dev := d } ∧ Out.avs (nextVdd s.dev.mnt) ∈ d.out ∧
      (∀ mv amp, avs = some (mv, amp) → nextVdd s.dev.mnt ≤ mv + 10 → mv ≤ nextVdd s.dev.mnt + 10 → d.mnt =
        { s.dev.mnt with target := nextVdd s.dev.mnt, avsBad := false, measured := mv % 1024, current := amp % 256 }) ∧
      (avs = none → d.mnt = { s.dev.mnt with avsBad := true } ∧ Recorded 0x0D08 noInstance s.dev d) ∧
      (∀ mv amp, avs = some (mv, amp) → (nextVdd s.dev.mnt + 10 < mv ∨ mv + 10 < nextVdd s.dev.mnt) →
        d.mnt = { s.dev.mnt with avsBad := true, measured := mv % 1024, current := amp % 256 } ∧ Recorded 0x0D08 noInstance s.dev d)) ∧
  (∀ m : Mnt, (m.goal < m.target → nextVdd m = max m.goal (m.target - 5)) ∧ (m.target ≤ m.goal → nextVdd m = m.goal)) ∧
  (∀ (s : State) (avs : AvsIn),
    (s.dev.running = false ∨ s.dev.avsOn = false ∨ s.dev.mnt.avsBad = true ∨ s.dev.mnt.target ≤ s.dev.mnt.goal →
      exec (.vddStepDown avs) s = .next s) ∧
    (s.dev.running = false ∨ s.dev.avsOn = false ∨ s.dev.mnt.avsBad = false → exec (.avsRetry avs) s = .next s)) ∧
  (∀ (s : State) (r : SensorIn) (avs : AvsIn), (s.dev.running = false → exec (.replan r avs) s = .next s ∧ exec (.sensorRead r) s = .next s) ∧
    (s.dev.running = true → s.dev.mnt.planned = true → s.dev.pairMoves = true →
      (s.dev.mnt.heldAt = none → exec (.replan r avs) s = .next { s with dev := onMnt (fun m => { m with heldAt := some s.dev.now }) s.dev }) ∧
      (∀ t, s.dev.mnt.heldAt = some t → s.dev.now < t + 10000000000 → exec (.replan r avs) s = .next s)) ∧
    (s.dev.running = true →
      s.dev.mnt.planned = false ∨ s.dev.pairMoves = false ∨ s.dev.mnt.heldAt.any (fun t => t + 10000000000 ≤ s.dev.now) = true →
      ∃ d, exec (.replan r avs) s = .next { s with dev := d } ∧ d.mnt.replicas = r.replicas ∧ d.mnt.rings = r.rings ∧
        d.mnt.planned = true ∧ d.mnt.heldAt = none ∧ d.mnt.ewSteps = 0 ∧ d.mnt.replans = min 255 (s.dev.mnt.replans + 1) ∧
        (s.dev.avsOn = false → Recorded 0x0D01 noInstance s.dev d ∧ d.mnt.target = s.dev.mnt.target ∧
          d.mnt.headroom = Config.marginAt105 r.replicas r.rings - 20 ∧
          d.mnt.history = s.dev.mnt.history ++ [(((800 : Int) - Config.marginAt105 r.replicas r.rings).toNat, s.dev.opSeconds)]) ∧
        (s.dev.avsOn = true →
          d.mnt.headroom = 780 - ((s.dev.mnt.target : Int) - Config.marginAt105 r.replicas r.rings) ∧
          d.mnt.goal = planGoal s.dev.mnt (plannedMv ((s.dev.mnt.target : Int) - Config.marginAt105 r.replicas r.rings)) ∧
          (d.mnt.goal < s.dev.mnt.target → s.dev.mnt.planned = true → s.dev.mnt.target - 5 ≤ d.mnt.target) ∧
          (s.dev.mnt.target < d.mnt.goal → Out.avs d.mnt.goal ∈ d.out ∧
            (avs = some (d.mnt.goal, 5) → d.mnt.target = d.mnt.goal ∧ Recorded 0x0D01 noInstance s.dev d) ∧
            (avs = none → d.mnt.target = s.dev.mnt.target)))) ∧
    (s.dev.running = true → ∃ d, exec (.sensorRead r) s = .next { s with dev := d } ∧ d.mnt.replicas = r.replicas ∧ d.mnt.rings = r.rings ∧
      d.mnt.target = s.dev.mnt.target ∧ d.mnt.lastHour = s.dev.opHours)) ∧
  (∀ (s : State) (l : List Int), s.dev.live = true →
    (∃ d, exec (.thermalSample l) s = .next { s with dev := d } ∧ ∀ t i, hottest 0 l = some (t, i) →
      d.mnt.maxC = t ∧ d.mnt.maxDiode = i ∧ (∃ p, d.mnt.peakC = some p ∧ t ≤ p) ∧
      (105 ≤ t → d.mnt.critOn = true) ∧ (t ≤ 100 → d.mnt.critOn = false) ∧
      (105 ≤ t → s.dev.mnt.critOn = false → bits s.dev.regs.mntCfg.toNat 15 8 > t.toNat → s.dev.mnt.warnOn = false →
        Recorded 0x0D06 (BitVec.ofNat 32 i) s.dev d)) ∧
    exec (.thermalSample []) s = .next s) ∧
  (∀ (s : State) (n : Nat) (c : Int), (c < 115 ∨ s.dev.glb.porLow = true → exec (.thermalTrip n c) s = .next s) ∧
    (115 ≤ c → s.dev.glb.porLow = false → ∃ d, exec (.thermalTrip n c) s = .next { s with dev := d } ∧ d.glb.fatal = true ∧
      d.evr.fatal.isSome = true)) ∧
  (∀ (s : State) (p m : Nat) (b : Bool) (h w : Nat), s.dev.running = true →
    (p < 49 → s.dev.portBusy p = false →
      exec (.pcieMargin p m) s = .next { s with dev := { s.dev with mnt := { s.dev.mnt with margins := tput s.dev.mnt.margins p m } } }) ∧
    (49 ≤ p ∨ s.dev.portBusy p = true → exec (.pcieMargin p m) s = .next s) ∧
    (s.dev.laneIdle b m = false → exec (.eyeScan b m h w) s = .next s) ∧
    (s.dev.laneIdle b m = true → ∃ d, exec (.eyeScan b m h w) s = .next { s with dev := d } ∧ Keeps [.mnt] s.dev d ∧
      tget d.mnt.eyes (eyeKey b m) = some (min h 4095) ∧ tget d.mnt.starts (eyeKey b m) = some (Config.planReceiver h w) ∧
      d.mnt.target = s.dev.mnt.target))

/-- No command changes a byte of HBM but those that it may store to: the bytes that the cache's dirty lines and the write buffer owe, for the
lines that it cleans, and the hot-index bucket that it writes (R117, R365, R367, R371). -/
def Obligations.HbmByteFrame : Prop :=
  ∀ (c : Instr) (s t : State) (a : Nat), exec c s = .next t → ¬ Blk.stores c s a → memRead t.hbm a = memRead s.hbm a

/-- HEAD_ID is sampled when POR_N deasserts, low for head A and high for head B, and nothing changes it until POR_N is asserted again (R17). -/
def Obligations.HeadIdSampledOnce : Prop :=
  (∀ (pins : BootIn) (s : State), s.dev.glb.porLow = true →
    ∃ t, exec (.porNDeassert pins) s = .next t ∧ t.dev.glb.headB = pins.headHigh) ∧
  (∀ (c : Instr) (s t : State), exec c s = .next t → c ≠ .porNAssert →
    (∀ pins, c = .porNDeassert pins → s.dev.glb.porLow = false) → t.dev.glb.headB = s.dev.glb.headB)

/-- VOLUME_CREATE of a layout that is not loaded completes with INVALID_FIELD and creates nothing; VOLUME_DELETE of a volume that does not exist
completes with ALREADY_COMPLETE and changes nothing (R502). -/
def Obligations.UnknownLayoutAndVolume : Prop :=
  (∀ (s : State) (h : Hdr) (v lay : Nat) (enc ded : Bool) (kcv dkcv : W32), Starts 0x11 [7] h s.dev → s.dev.layout lay = none →
    ∃ d, exec (.volumeCreate h v lay enc ded kcv dkcv) s = .next { s with dev := d } ∧ Answered 0x11 h 0x10 0 0 s.dev d ∧
      Keeps [.hif, .out, .cat, .dma] s.dev d ∧
      d.cat = { s.dev.cat with takes := d.cat.takes } ∧
      d.cat.takes.map (fun t => { t with chan := none }) = s.dev.cat.takes.map (fun t => { t with chan := none })) ∧
  (∀ (s : State) (h : Hdr) (v : Nat), Starts 0x12 [7] h s.dev → s.dev.volume v = none →
    ∃ d, exec (.volumeDelete h v) s = .next { s with dev := d } ∧ Answered 0x12 h 2 0 0 s.dev d ∧ Keeps [.hif, .out, .cat, .dma] s.dev d ∧
      d.cat = { s.dev.cat with takes := d.cat.takes } ∧
      d.cat.takes.map (fun t => { t with chan := none }) = s.dev.cat.takes.map (fun t => { t with chan := none }))

/-- A handle is stale where its index holds no channel, its GEN is not the index's generation, or its TYPE is not that of the channel there:
CHANNEL_DESTROY and ABORT, the descriptors that name a handle, then complete with STALE_HANDLE, destroy no index and abort no descriptor
(R255). -/
def Obligations.StaleHandle : Prop :=
  ∀ (s : State) (h : Hdr) (handle tag : W32) (op : Byte) (c : Instr),
    let i := handle.toNat % 4096
    (op = 0x02 ∧ c = .channelDestroy h handle) ∨ (op = 0x03 ∧ c = .abort h handle tag) → Starts op [7] h s.dev → s.dev.ctype i < 16 →
    (tget s.dev.hif.chans i = none ∨ (tgetD s.dev.hif.gens 0 i).toNat ≠ handle.toNat / 4096 % 65536 ∨
      s.dev.ctype i ≠ handle.toNat / 2 ^ 28) →
    ∃ d, exec c s = .next { s with dev := d } ∧ Answered op h 9 0 0 s.dev d ∧ Keeps [.hif, .out, .cat, .dma] s.dev d ∧
      d.hif.gens = s.dev.hif.gens ∧
      (∀ k ch, tget d.hif.chans k = some ch → ∃ ch0, tget s.dev.hif.chans k = some ch0 ∧
        ∀ x ∈ ch.descs, x.aborted = true → x ∈ ch0.descs) ∧
      d.cat.takes.map (fun t => { t with chan := none }) = s.dev.cat.takes.map (fun t => { t with chan := none })
end

