-- ==== Sys2Proof/Laws/State.lean ====
section
/-! SUPPORT. What each named update of the state does to each field: one lemma for each field, true by definition. -/

namespace Sys2Proof.Machine
open Sys2Proof

/-! ## emit -/

@[simp] theorem emit_out (o : Out) (d : Dev) : (emit o d).out = d.out ++ [o] := rfl
@[simp] theorem emit_now (o : Out) (d : Dev) : (emit o d).now = d.now := rfl
@[simp] theorem emit_free (o : Out) (d : Dev) : (emit o d).free = d.free := rfl
@[simp] theorem emit_glb (o : Out) (d : Dev) : (emit o d).glb = d.glb := rfl
@[simp] theorem emit_regs (o : Out) (d : Dev) : (emit o d).regs = d.regs := rfl
@[simp] theorem emit_sl (o : Out) (d : Dev) : (emit o d).sl = d.sl := rfl
@[simp] theorem emit_lg (o : Out) (d : Dev) : (emit o d).lg = d.lg := rfl
@[simp] theorem emit_audit (o : Out) (d : Dev) : (emit o d).audit = d.audit := rfl
@[simp] theorem emit_pipes (o : Out) (d : Dev) : (emit o d).pipes = d.pipes := rfl
@[simp] theorem emit_vault (o : Out) (d : Dev) : (emit o d).vault = d.vault := rfl
@[simp] theorem emit_vcnt (o : Out) (d : Dev) : (emit o d).vcnt = d.vcnt := rfl
@[simp] theorem emit_cat (o : Out) (d : Dev) : (emit o d).cat = d.cat := rfl
@[simp] theorem emit_disk (o : Out) (d : Dev) : (emit o d).disk = d.disk := rfl
@[simp] theorem emit_ciph (o : Out) (d : Dev) : (emit o d).ciph = d.ciph := rfl
@[simp] theorem emit_dgst (o : Out) (d : Dev) : (emit o d).dgst = d.dgst := rfl
@[simp] theorem emit_hif (o : Out) (d : Dev) : (emit o d).hif = d.hif := rfl
@[simp] theorem emit_tango (o : Out) (d : Dev) : (emit o d).tango = d.tango := rfl
@[simp] theorem emit_ih (o : Out) (d : Dev) : (emit o d).ih = d.ih := rfl
@[simp] theorem emit_rdma (o : Out) (d : Dev) : (emit o d).rdma = d.rdma := rfl
@[simp] theorem emit_rcnt (o : Out) (d : Dev) : (emit o d).rcnt = d.rcnt := rfl
@[simp] theorem emit_repl (o : Out) (d : Dev) : (emit o d).repl = d.repl := rfl
@[simp] theorem emit_bpm (o : Out) (d : Dev) : (emit o d).bpm = d.bpm := rfl
@[simp] theorem emit_mca (o : Out) (d : Dev) : (emit o d).mca = d.mca := rfl
@[simp] theorem emit_dma (o : Out) (d : Dev) : (emit o d).dma = d.dma := rfl
@[simp] theorem emit_evr (o : Out) (d : Dev) : (emit o d).evr = d.evr := rfl
@[simp] theorem emit_mnt (o : Out) (d : Dev) : (emit o d).mnt = d.mnt := rfl
@[simp] theorem emit_boot (o : Out) (d : Dev) : (emit o d).boot = d.boot := rfl

/-! ## emits -/

@[simp] theorem emits_out (os : List Out) (d : Dev) : (emits os d).out = d.out ++ os := rfl
@[simp] theorem emits_now (os : List Out) (d : Dev) : (emits os d).now = d.now := rfl
@[simp] theorem emits_free (os : List Out) (d : Dev) : (emits os d).free = d.free := rfl
@[simp] theorem emits_glb (os : List Out) (d : Dev) : (emits os d).glb = d.glb := rfl
@[simp] theorem emits_regs (os : List Out) (d : Dev) : (emits os d).regs = d.regs := rfl
@[simp] theorem emits_sl (os : List Out) (d : Dev) : (emits os d).sl = d.sl := rfl
@[simp] theorem emits_lg (os : List Out) (d : Dev) : (emits os d).lg = d.lg := rfl
@[simp] theorem emits_audit (os : List Out) (d : Dev) : (emits os d).audit = d.audit := rfl
@[simp] theorem emits_pipes (os : List Out) (d : Dev) : (emits os d).pipes = d.pipes := rfl
@[simp] theorem emits_vault (os : List Out) (d : Dev) : (emits os d).vault = d.vault := rfl
@[simp] theorem emits_vcnt (os : List Out) (d : Dev) : (emits os d).vcnt = d.vcnt := rfl
@[simp] theorem emits_cat (os : List Out) (d : Dev) : (emits os d).cat = d.cat := rfl
@[simp] theorem emits_disk (os : List Out) (d : Dev) : (emits os d).disk = d.disk := rfl
@[simp] theorem emits_ciph (os : List Out) (d : Dev) : (emits os d).ciph = d.ciph := rfl
@[simp] theorem emits_dgst (os : List Out) (d : Dev) : (emits os d).dgst = d.dgst := rfl
@[simp] theorem emits_hif (os : List Out) (d : Dev) : (emits os d).hif = d.hif := rfl
@[simp] theorem emits_tango (os : List Out) (d : Dev) : (emits os d).tango = d.tango := rfl
@[simp] theorem emits_ih (os : List Out) (d : Dev) : (emits os d).ih = d.ih := rfl
@[simp] theorem emits_rdma (os : List Out) (d : Dev) : (emits os d).rdma = d.rdma := rfl
@[simp] theorem emits_rcnt (os : List Out) (d : Dev) : (emits os d).rcnt = d.rcnt := rfl
@[simp] theorem emits_repl (os : List Out) (d : Dev) : (emits os d).repl = d.repl := rfl
@[simp] theorem emits_bpm (os : List Out) (d : Dev) : (emits os d).bpm = d.bpm := rfl
@[simp] theorem emits_mca (os : List Out) (d : Dev) : (emits os d).mca = d.mca := rfl
@[simp] theorem emits_dma (os : List Out) (d : Dev) : (emits os d).dma = d.dma := rfl
@[simp] theorem emits_evr (os : List Out) (d : Dev) : (emits os d).evr = d.evr := rfl
@[simp] theorem emits_mnt (os : List Out) (d : Dev) : (emits os d).mnt = d.mnt := rfl
@[simp] theorem emits_boot (os : List Out) (d : Dev) : (emits os d).boot = d.boot := rfl

/-! ## drawn -/

@[simp] theorem drawn_out (d : Dev) : (drawn d).out = d.out := rfl
@[simp] theorem drawn_now (d : Dev) : (drawn d).now = d.now := rfl
@[simp] theorem drawn_free (d : Dev) : (drawn d).free = d.free + 1 := rfl
@[simp] theorem drawn_glb (d : Dev) : (drawn d).glb = d.glb := rfl
@[simp] theorem drawn_regs (d : Dev) : (drawn d).regs = d.regs := rfl
@[simp] theorem drawn_sl (d : Dev) : (drawn d).sl = d.sl := rfl
@[simp] theorem drawn_lg (d : Dev) : (drawn d).lg = d.lg := rfl
@[simp] theorem drawn_audit (d : Dev) : (drawn d).audit = d.audit := rfl
@[simp] theorem drawn_pipes (d : Dev) : (drawn d).pipes = d.pipes := rfl
@[simp] theorem drawn_vault (d : Dev) : (drawn d).vault = d.vault := rfl
@[simp] theorem drawn_vcnt (d : Dev) : (drawn d).vcnt = d.vcnt := rfl
@[simp] theorem drawn_cat (d : Dev) : (drawn d).cat = d.cat := rfl
@[simp] theorem drawn_disk (d : Dev) : (drawn d).disk = d.disk := rfl
@[simp] theorem drawn_ciph (d : Dev) : (drawn d).ciph = d.ciph := rfl
@[simp] theorem drawn_dgst (d : Dev) : (drawn d).dgst = d.dgst := rfl
@[simp] theorem drawn_hif (d : Dev) : (drawn d).hif = d.hif := rfl
@[simp] theorem drawn_tango (d : Dev) : (drawn d).tango = d.tango := rfl
@[simp] theorem drawn_ih (d : Dev) : (drawn d).ih = d.ih := rfl
@[simp] theorem drawn_rdma (d : Dev) : (drawn d).rdma = d.rdma := rfl
@[simp] theorem drawn_rcnt (d : Dev) : (drawn d).rcnt = d.rcnt := rfl
@[simp] theorem drawn_repl (d : Dev) : (drawn d).repl = d.repl := rfl
@[simp] theorem drawn_bpm (d : Dev) : (drawn d).bpm = d.bpm := rfl
@[simp] theorem drawn_mca (d : Dev) : (drawn d).mca = d.mca := rfl
@[simp] theorem drawn_dma (d : Dev) : (drawn d).dma = d.dma := rfl
@[simp] theorem drawn_evr (d : Dev) : (drawn d).evr = d.evr := rfl
@[simp] theorem drawn_mnt (d : Dev) : (drawn d).mnt = d.mnt := rfl
@[simp] theorem drawn_boot (d : Dev) : (drawn d).boot = d.boot := rfl

/-! ## onGroup -/

@[simp] theorem onGroup_out (g : Fin 4) (f : Group → Group) (d : Dev) : (onGroup g f d).out = d.out := rfl
@[simp] theorem onGroup_now (g : Fin 4) (f : Group → Group) (d : Dev) : (onGroup g f d).now = d.now := rfl
@[simp] theorem onGroup_free (g : Fin 4) (f : Group → Group) (d : Dev) : (onGroup g f d).free = d.free := rfl
@[simp] theorem onGroup_glb (g : Fin 4) (f : Group → Group) (d : Dev) : (onGroup g f d).glb = d.glb := rfl
@[simp] theorem onGroup_regs (g : Fin 4) (f : Group → Group) (d : Dev) : (onGroup g f d).regs = d.regs := rfl
@[simp] theorem onGroup_sl (g : Fin 4) (f : Group → Group) (d : Dev) : (onGroup g f d).sl = { d.sl with groups := d.sl.groups.put g (f (d.sl.groups.at g)) } := rfl
@[simp] theorem onGroup_lg (g : Fin 4) (f : Group → Group) (d : Dev) : (onGroup g f d).lg = d.lg := rfl
@[simp] theorem onGroup_audit (g : Fin 4) (f : Group → Group) (d : Dev) : (onGroup g f d).audit = d.audit := rfl
@[simp] theorem onGroup_pipes (g : Fin 4) (f : Group → Group) (d : Dev) : (onGroup g f d).pipes = d.pipes := rfl
@[simp] theorem onGroup_vault (g : Fin 4) (f : Group → Group) (d : Dev) : (onGroup g f d).vault = d.vault := rfl
@[simp] theorem onGroup_vcnt (g : Fin 4) (f : Group → Group) (d : Dev) : (onGroup g f d).vcnt = d.vcnt := rfl
@[simp] theorem onGroup_cat (g : Fin 4) (f : Group → Group) (d : Dev) : (onGroup g f d).cat = d.cat := rfl
@[simp] theorem onGroup_disk (g : Fin 4) (f : Group → Group) (d : Dev) : (onGroup g f d).disk = d.disk := rfl
@[simp] theorem onGroup_ciph (g : Fin 4) (f : Group → Group) (d : Dev) : (onGroup g f d).ciph = d.ciph := rfl
@[simp] theorem onGroup_dgst (g : Fin 4) (f : Group → Group) (d : Dev) : (onGroup g f d).dgst = d.dgst := rfl
@[simp] theorem onGroup_hif (g : Fin 4) (f : Group → Group) (d : Dev) : (onGroup g f d).hif = d.hif := rfl
@[simp] theorem onGroup_tango (g : Fin 4) (f : Group → Group) (d : Dev) : (onGroup g f d).tango = d.tango := rfl
@[simp] theorem onGroup_ih (g : Fin 4) (f : Group → Group) (d : Dev) : (onGroup g f d).ih = d.ih := rfl
@[simp] theorem onGroup_rdma (g : Fin 4) (f : Group → Group) (d : Dev) : (onGroup g f d).rdma = d.rdma := rfl
@[simp] theorem onGroup_rcnt (g : Fin 4) (f : Group → Group) (d : Dev) : (onGroup g f d).rcnt = d.rcnt := rfl
@[simp] theorem onGroup_repl (g : Fin 4) (f : Group → Group) (d : Dev) : (onGroup g f d).repl = d.repl := rfl
@[simp] theorem onGroup_bpm (g : Fin 4) (f : Group → Group) (d : Dev) : (onGroup g f d).bpm = d.bpm := rfl
@[simp] theorem onGroup_mca (g : Fin 4) (f : Group → Group) (d : Dev) : (onGroup g f d).mca = d.mca := rfl
@[simp] theorem onGroup_dma (g : Fin 4) (f : Group → Group) (d : Dev) : (onGroup g f d).dma = d.dma := rfl
@[simp] theorem onGroup_evr (g : Fin 4) (f : Group → Group) (d : Dev) : (onGroup g f d).evr = d.evr := rfl
@[simp] theorem onGroup_mnt (g : Fin 4) (f : Group → Group) (d : Dev) : (onGroup g f d).mnt = d.mnt := rfl
@[simp] theorem onGroup_boot (g : Fin 4) (f : Group → Group) (d : Dev) : (onGroup g f d).boot = d.boot := rfl

/-! ## onLedger -/

@[simp] theorem onLedger_out (g : Fin 4) (f : Ledger → Ledger) (d : Dev) : (onLedger g f d).out = d.out := rfl
@[simp] theorem onLedger_now (g : Fin 4) (f : Ledger → Ledger) (d : Dev) : (onLedger g f d).now = d.now := rfl
@[simp] theorem onLedger_free (g : Fin 4) (f : Ledger → Ledger) (d : Dev) : (onLedger g f d).free = d.free := rfl
@[simp] theorem onLedger_glb (g : Fin 4) (f : Ledger → Ledger) (d : Dev) : (onLedger g f d).glb = d.glb := rfl
@[simp] theorem onLedger_regs (g : Fin 4) (f : Ledger → Ledger) (d : Dev) : (onLedger g f d).regs = d.regs := rfl
@[simp] theorem onLedger_sl (g : Fin 4) (f : Ledger → Ledger) (d : Dev) : (onLedger g f d).sl = d.sl := rfl
@[simp] theorem onLedger_lg (g : Fin 4) (f : Ledger → Ledger) (d : Dev) : (onLedger g f d).lg = d.lg.put g (f (d.lg.at g)) := rfl
@[simp] theorem onLedger_audit (g : Fin 4) (f : Ledger → Ledger) (d : Dev) : (onLedger g f d).audit = d.audit := rfl
@[simp] theorem onLedger_pipes (g : Fin 4) (f : Ledger → Ledger) (d : Dev) : (onLedger g f d).pipes = d.pipes := rfl
@[simp] theorem onLedger_vault (g : Fin 4) (f : Ledger → Ledger) (d : Dev) : (onLedger g f d).vault = d.vault := rfl
@[simp] theorem onLedger_vcnt (g : Fin 4) (f : Ledger → Ledger) (d : Dev) : (onLedger g f d).vcnt = d.vcnt := rfl
@[simp] theorem onLedger_cat (g : Fin 4) (f : Ledger → Ledger) (d : Dev) : (onLedger g f d).cat = d.cat := rfl
@[simp] theorem onLedger_disk (g : Fin 4) (f : Ledger → Ledger) (d : Dev) : (onLedger g f d).disk = d.disk := rfl
@[simp] theorem onLedger_ciph (g : Fin 4) (f : Ledger → Ledger) (d : Dev) : (onLedger g f d).ciph = d.ciph := rfl
@[simp] theorem onLedger_dgst (g : Fin 4) (f : Ledger → Ledger) (d : Dev) : (onLedger g f d).dgst = d.dgst := rfl
@[simp] theorem onLedger_hif (g : Fin 4) (f : Ledger → Ledger) (d : Dev) : (onLedger g f d).hif = d.hif := rfl
@[simp] theorem onLedger_tango (g : Fin 4) (f : Ledger → Ledger) (d : Dev) : (onLedger g f d).tango = d.tango := rfl
@[simp] theorem onLedger_ih (g : Fin 4) (f : Ledger → Ledger) (d : Dev) : (onLedger g f d).ih = d.ih := rfl
@[simp] theorem onLedger_rdma (g : Fin 4) (f : Ledger → Ledger) (d : Dev) : (onLedger g f d).rdma = d.rdma := rfl
@[simp] theorem onLedger_rcnt (g : Fin 4) (f : Ledger → Ledger) (d : Dev) : (onLedger g f d).rcnt = d.rcnt := rfl
@[simp] theorem onLedger_repl (g : Fin 4) (f : Ledger → Ledger) (d : Dev) : (onLedger g f d).repl = d.repl := rfl
@[simp] theorem onLedger_bpm (g : Fin 4) (f : Ledger → Ledger) (d : Dev) : (onLedger g f d).bpm = d.bpm := rfl
@[simp] theorem onLedger_mca (g : Fin 4) (f : Ledger → Ledger) (d : Dev) : (onLedger g f d).mca = d.mca := rfl
@[simp] theorem onLedger_dma (g : Fin 4) (f : Ledger → Ledger) (d : Dev) : (onLedger g f d).dma = d.dma := rfl
@[simp] theorem onLedger_evr (g : Fin 4) (f : Ledger → Ledger) (d : Dev) : (onLedger g f d).evr = d.evr := rfl
@[simp] theorem onLedger_mnt (g : Fin 4) (f : Ledger → Ledger) (d : Dev) : (onLedger g f d).mnt = d.mnt := rfl
@[simp] theorem onLedger_boot (g : Fin 4) (f : Ledger → Ledger) (d : Dev) : (onLedger g f d).boot = d.boot := rfl

/-! ## onPipe -/

@[simp] theorem onPipe_out (g : Fin 4) (f : Pipe → Pipe) (d : Dev) : (onPipe g f d).out = d.out := rfl
@[simp] theorem onPipe_now (g : Fin 4) (f : Pipe → Pipe) (d : Dev) : (onPipe g f d).now = d.now := rfl
@[simp] theorem onPipe_free (g : Fin 4) (f : Pipe → Pipe) (d : Dev) : (onPipe g f d).free = d.free := rfl
@[simp] theorem onPipe_glb (g : Fin 4) (f : Pipe → Pipe) (d : Dev) : (onPipe g f d).glb = d.glb := rfl
@[simp] theorem onPipe_regs (g : Fin 4) (f : Pipe → Pipe) (d : Dev) : (onPipe g f d).regs = d.regs := rfl
@[simp] theorem onPipe_sl (g : Fin 4) (f : Pipe → Pipe) (d : Dev) : (onPipe g f d).sl = d.sl := rfl
@[simp] theorem onPipe_lg (g : Fin 4) (f : Pipe → Pipe) (d : Dev) : (onPipe g f d).lg = d.lg := rfl
@[simp] theorem onPipe_audit (g : Fin 4) (f : Pipe → Pipe) (d : Dev) : (onPipe g f d).audit = d.audit := rfl
@[simp] theorem onPipe_pipes (g : Fin 4) (f : Pipe → Pipe) (d : Dev) : (onPipe g f d).pipes = d.pipes.put g (f (d.pipes.at g)) := rfl
@[simp] theorem onPipe_vault (g : Fin 4) (f : Pipe → Pipe) (d : Dev) : (onPipe g f d).vault = d.vault := rfl
@[simp] theorem onPipe_vcnt (g : Fin 4) (f : Pipe → Pipe) (d : Dev) : (onPipe g f d).vcnt = d.vcnt := rfl
@[simp] theorem onPipe_cat (g : Fin 4) (f : Pipe → Pipe) (d : Dev) : (onPipe g f d).cat = d.cat := rfl
@[simp] theorem onPipe_disk (g : Fin 4) (f : Pipe → Pipe) (d : Dev) : (onPipe g f d).disk = d.disk := rfl
@[simp] theorem onPipe_ciph (g : Fin 4) (f : Pipe → Pipe) (d : Dev) : (onPipe g f d).ciph = d.ciph := rfl
@[simp] theorem onPipe_dgst (g : Fin 4) (f : Pipe → Pipe) (d : Dev) : (onPipe g f d).dgst = d.dgst := rfl
@[simp] theorem onPipe_hif (g : Fin 4) (f : Pipe → Pipe) (d : Dev) : (onPipe g f d).hif = d.hif := rfl
@[simp] theorem onPipe_tango (g : Fin 4) (f : Pipe → Pipe) (d : Dev) : (onPipe g f d).tango = d.tango := rfl
@[simp] theorem onPipe_ih (g : Fin 4) (f : Pipe → Pipe) (d : Dev) : (onPipe g f d).ih = d.ih := rfl
@[simp] theorem onPipe_rdma (g : Fin 4) (f : Pipe → Pipe) (d : Dev) : (onPipe g f d).rdma = d.rdma := rfl
@[simp] theorem onPipe_rcnt (g : Fin 4) (f : Pipe → Pipe) (d : Dev) : (onPipe g f d).rcnt = d.rcnt := rfl
@[simp] theorem onPipe_repl (g : Fin 4) (f : Pipe → Pipe) (d : Dev) : (onPipe g f d).repl = d.repl := rfl
@[simp] theorem onPipe_bpm (g : Fin 4) (f : Pipe → Pipe) (d : Dev) : (onPipe g f d).bpm = d.bpm := rfl
@[simp] theorem onPipe_mca (g : Fin 4) (f : Pipe → Pipe) (d : Dev) : (onPipe g f d).mca = d.mca := rfl
@[simp] theorem onPipe_dma (g : Fin 4) (f : Pipe → Pipe) (d : Dev) : (onPipe g f d).dma = d.dma := rfl
@[simp] theorem onPipe_evr (g : Fin 4) (f : Pipe → Pipe) (d : Dev) : (onPipe g f d).evr = d.evr := rfl
@[simp] theorem onPipe_mnt (g : Fin 4) (f : Pipe → Pipe) (d : Dev) : (onPipe g f d).mnt = d.mnt := rfl
@[simp] theorem onPipe_boot (g : Fin 4) (f : Pipe → Pipe) (d : Dev) : (onPipe g f d).boot = d.boot := rfl

/-! ## onVault -/

@[simp] theorem onVault_out (f : Vault → Vault) (d : Dev) : (onVault f d).out = d.out := rfl
@[simp] theorem onVault_now (f : Vault → Vault) (d : Dev) : (onVault f d).now = d.now := rfl
@[simp] theorem onVault_free (f : Vault → Vault) (d : Dev) : (onVault f d).free = d.free := rfl
@[simp] theorem onVault_glb (f : Vault → Vault) (d : Dev) : (onVault f d).glb = d.glb := rfl
@[simp] theorem onVault_regs (f : Vault → Vault) (d : Dev) : (onVault f d).regs = d.regs := rfl
@[simp] theorem onVault_sl (f : Vault → Vault) (d : Dev) : (onVault f d).sl = d.sl := rfl
@[simp] theorem onVault_lg (f : Vault → Vault) (d : Dev) : (onVault f d).lg = d.lg := rfl
@[simp] theorem onVault_audit (f : Vault → Vault) (d : Dev) : (onVault f d).audit = d.audit := rfl
@[simp] theorem onVault_pipes (f : Vault → Vault) (d : Dev) : (onVault f d).pipes = d.pipes := rfl
@[simp] theorem onVault_vault (f : Vault → Vault) (d : Dev) : (onVault f d).vault = f d.vault := rfl
@[simp] theorem onVault_vcnt (f : Vault → Vault) (d : Dev) : (onVault f d).vcnt = d.vcnt := rfl
@[simp] theorem onVault_cat (f : Vault → Vault) (d : Dev) : (onVault f d).cat = d.cat := rfl
@[simp] theorem onVault_disk (f : Vault → Vault) (d : Dev) : (onVault f d).disk = d.disk := rfl
@[simp] theorem onVault_ciph (f : Vault → Vault) (d : Dev) : (onVault f d).ciph = d.ciph := rfl
@[simp] theorem onVault_dgst (f : Vault → Vault) (d : Dev) : (onVault f d).dgst = d.dgst := rfl
@[simp] theorem onVault_hif (f : Vault → Vault) (d : Dev) : (onVault f d).hif = d.hif := rfl
@[simp] theorem onVault_tango (f : Vault → Vault) (d : Dev) : (onVault f d).tango = d.tango := rfl
@[simp] theorem onVault_ih (f : Vault → Vault) (d : Dev) : (onVault f d).ih = d.ih := rfl
@[simp] theorem onVault_rdma (f : Vault → Vault) (d : Dev) : (onVault f d).rdma = d.rdma := rfl
@[simp] theorem onVault_rcnt (f : Vault → Vault) (d : Dev) : (onVault f d).rcnt = d.rcnt := rfl
@[simp] theorem onVault_repl (f : Vault → Vault) (d : Dev) : (onVault f d).repl = d.repl := rfl
@[simp] theorem onVault_bpm (f : Vault → Vault) (d : Dev) : (onVault f d).bpm = d.bpm := rfl
@[simp] theorem onVault_mca (f : Vault → Vault) (d : Dev) : (onVault f d).mca = d.mca := rfl
@[simp] theorem onVault_dma (f : Vault → Vault) (d : Dev) : (onVault f d).dma = d.dma := rfl
@[simp] theorem onVault_evr (f : Vault → Vault) (d : Dev) : (onVault f d).evr = d.evr := rfl
@[simp] theorem onVault_mnt (f : Vault → Vault) (d : Dev) : (onVault f d).mnt = d.mnt := rfl
@[simp] theorem onVault_boot (f : Vault → Vault) (d : Dev) : (onVault f d).boot = d.boot := rfl

/-! ## onVcnt -/

@[simp] theorem onVcnt_out (f : VltCnt → VltCnt) (d : Dev) : (onVcnt f d).out = d.out := rfl
@[simp] theorem onVcnt_now (f : VltCnt → VltCnt) (d : Dev) : (onVcnt f d).now = d.now := rfl
@[simp] theorem onVcnt_free (f : VltCnt → VltCnt) (d : Dev) : (onVcnt f d).free = d.free := rfl
@[simp] theorem onVcnt_glb (f : VltCnt → VltCnt) (d : Dev) : (onVcnt f d).glb = d.glb := rfl
@[simp] theorem onVcnt_regs (f : VltCnt → VltCnt) (d : Dev) : (onVcnt f d).regs = d.regs := rfl
@[simp] theorem onVcnt_sl (f : VltCnt → VltCnt) (d : Dev) : (onVcnt f d).sl = d.sl := rfl
@[simp] theorem onVcnt_lg (f : VltCnt → VltCnt) (d : Dev) : (onVcnt f d).lg = d.lg := rfl
@[simp] theorem onVcnt_audit (f : VltCnt → VltCnt) (d : Dev) : (onVcnt f d).audit = d.audit := rfl
@[simp] theorem onVcnt_pipes (f : VltCnt → VltCnt) (d : Dev) : (onVcnt f d).pipes = d.pipes := rfl
@[simp] theorem onVcnt_vault (f : VltCnt → VltCnt) (d : Dev) : (onVcnt f d).vault = d.vault := rfl
@[simp] theorem onVcnt_vcnt (f : VltCnt → VltCnt) (d : Dev) : (onVcnt f d).vcnt = f d.vcnt := rfl
@[simp] theorem onVcnt_cat (f : VltCnt → VltCnt) (d : Dev) : (onVcnt f d).cat = d.cat := rfl
@[simp] theorem onVcnt_disk (f : VltCnt → VltCnt) (d : Dev) : (onVcnt f d).disk = d.disk := rfl
@[simp] theorem onVcnt_ciph (f : VltCnt → VltCnt) (d : Dev) : (onVcnt f d).ciph = d.ciph := rfl
@[simp] theorem onVcnt_dgst (f : VltCnt → VltCnt) (d : Dev) : (onVcnt f d).dgst = d.dgst := rfl
@[simp] theorem onVcnt_hif (f : VltCnt → VltCnt) (d : Dev) : (onVcnt f d).hif = d.hif := rfl
@[simp] theorem onVcnt_tango (f : VltCnt → VltCnt) (d : Dev) : (onVcnt f d).tango = d.tango := rfl
@[simp] theorem onVcnt_ih (f : VltCnt → VltCnt) (d : Dev) : (onVcnt f d).ih = d.ih := rfl
@[simp] theorem onVcnt_rdma (f : VltCnt → VltCnt) (d : Dev) : (onVcnt f d).rdma = d.rdma := rfl
@[simp] theorem onVcnt_rcnt (f : VltCnt → VltCnt) (d : Dev) : (onVcnt f d).rcnt = d.rcnt := rfl
@[simp] theorem onVcnt_repl (f : VltCnt → VltCnt) (d : Dev) : (onVcnt f d).repl = d.repl := rfl
@[simp] theorem onVcnt_bpm (f : VltCnt → VltCnt) (d : Dev) : (onVcnt f d).bpm = d.bpm := rfl
@[simp] theorem onVcnt_mca (f : VltCnt → VltCnt) (d : Dev) : (onVcnt f d).mca = d.mca := rfl
@[simp] theorem onVcnt_dma (f : VltCnt → VltCnt) (d : Dev) : (onVcnt f d).dma = d.dma := rfl
@[simp] theorem onVcnt_evr (f : VltCnt → VltCnt) (d : Dev) : (onVcnt f d).evr = d.evr := rfl
@[simp] theorem onVcnt_mnt (f : VltCnt → VltCnt) (d : Dev) : (onVcnt f d).mnt = d.mnt := rfl
@[simp] theorem onVcnt_boot (f : VltCnt → VltCnt) (d : Dev) : (onVcnt f d).boot = d.boot := rfl

/-! ## onCat -/

@[simp] theorem onCat_out (f : Cat → Cat) (d : Dev) : (onCat f d).out = d.out := rfl
@[simp] theorem onCat_now (f : Cat → Cat) (d : Dev) : (onCat f d).now = d.now := rfl
@[simp] theorem onCat_free (f : Cat → Cat) (d : Dev) : (onCat f d).free = d.free := rfl
@[simp] theorem onCat_glb (f : Cat → Cat) (d : Dev) : (onCat f d).glb = d.glb := rfl
@[simp] theorem onCat_regs (f : Cat → Cat) (d : Dev) : (onCat f d).regs = d.regs := rfl
@[simp] theorem onCat_sl (f : Cat → Cat) (d : Dev) : (onCat f d).sl = d.sl := rfl
@[simp] theorem onCat_lg (f : Cat → Cat) (d : Dev) : (onCat f d).lg = d.lg := rfl
@[simp] theorem onCat_audit (f : Cat → Cat) (d : Dev) : (onCat f d).audit = d.audit := rfl
@[simp] theorem onCat_pipes (f : Cat → Cat) (d : Dev) : (onCat f d).pipes = d.pipes := rfl
@[simp] theorem onCat_vault (f : Cat → Cat) (d : Dev) : (onCat f d).vault = d.vault := rfl
@[simp] theorem onCat_vcnt (f : Cat → Cat) (d : Dev) : (onCat f d).vcnt = d.vcnt := rfl
@[simp] theorem onCat_cat (f : Cat → Cat) (d : Dev) : (onCat f d).cat = f d.cat := rfl
@[simp] theorem onCat_disk (f : Cat → Cat) (d : Dev) : (onCat f d).disk = d.disk := rfl
@[simp] theorem onCat_ciph (f : Cat → Cat) (d : Dev) : (onCat f d).ciph = d.ciph := rfl
@[simp] theorem onCat_dgst (f : Cat → Cat) (d : Dev) : (onCat f d).dgst = d.dgst := rfl
@[simp] theorem onCat_hif (f : Cat → Cat) (d : Dev) : (onCat f d).hif = d.hif := rfl
@[simp] theorem onCat_tango (f : Cat → Cat) (d : Dev) : (onCat f d).tango = d.tango := rfl
@[simp] theorem onCat_ih (f : Cat → Cat) (d : Dev) : (onCat f d).ih = d.ih := rfl
@[simp] theorem onCat_rdma (f : Cat → Cat) (d : Dev) : (onCat f d).rdma = d.rdma := rfl
@[simp] theorem onCat_rcnt (f : Cat → Cat) (d : Dev) : (onCat f d).rcnt = d.rcnt := rfl
@[simp] theorem onCat_repl (f : Cat → Cat) (d : Dev) : (onCat f d).repl = d.repl := rfl
@[simp] theorem onCat_bpm (f : Cat → Cat) (d : Dev) : (onCat f d).bpm = d.bpm := rfl
@[simp] theorem onCat_mca (f : Cat → Cat) (d : Dev) : (onCat f d).mca = d.mca := rfl
@[simp] theorem onCat_dma (f : Cat → Cat) (d : Dev) : (onCat f d).dma = d.dma := rfl
@[simp] theorem onCat_evr (f : Cat → Cat) (d : Dev) : (onCat f d).evr = d.evr := rfl
@[simp] theorem onCat_mnt (f : Cat → Cat) (d : Dev) : (onCat f d).mnt = d.mnt := rfl
@[simp] theorem onCat_boot (f : Cat → Cat) (d : Dev) : (onCat f d).boot = d.boot := rfl

/-! ## onTango -/

@[simp] theorem onTango_out (f : Tango → Tango) (d : Dev) : (onTango f d).out = d.out := rfl
@[simp] theorem onTango_now (f : Tango → Tango) (d : Dev) : (onTango f d).now = d.now := rfl
@[simp] theorem onTango_free (f : Tango → Tango) (d : Dev) : (onTango f d).free = d.free := rfl
@[simp] theorem onTango_glb (f : Tango → Tango) (d : Dev) : (onTango f d).glb = d.glb := rfl
@[simp] theorem onTango_regs (f : Tango → Tango) (d : Dev) : (onTango f d).regs = d.regs := rfl
@[simp] theorem onTango_sl (f : Tango → Tango) (d : Dev) : (onTango f d).sl = d.sl := rfl
@[simp] theorem onTango_lg (f : Tango → Tango) (d : Dev) : (onTango f d).lg = d.lg := rfl
@[simp] theorem onTango_audit (f : Tango → Tango) (d : Dev) : (onTango f d).audit = d.audit := rfl
@[simp] theorem onTango_pipes (f : Tango → Tango) (d : Dev) : (onTango f d).pipes = d.pipes := rfl
@[simp] theorem onTango_vault (f : Tango → Tango) (d : Dev) : (onTango f d).vault = d.vault := rfl
@[simp] theorem onTango_vcnt (f : Tango → Tango) (d : Dev) : (onTango f d).vcnt = d.vcnt := rfl
@[simp] theorem onTango_cat (f : Tango → Tango) (d : Dev) : (onTango f d).cat = d.cat := rfl
@[simp] theorem onTango_disk (f : Tango → Tango) (d : Dev) : (onTango f d).disk = d.disk := rfl
@[simp] theorem onTango_ciph (f : Tango → Tango) (d : Dev) : (onTango f d).ciph = d.ciph := rfl
@[simp] theorem onTango_dgst (f : Tango → Tango) (d : Dev) : (onTango f d).dgst = d.dgst := rfl
@[simp] theorem onTango_hif (f : Tango → Tango) (d : Dev) : (onTango f d).hif = d.hif := rfl
@[simp] theorem onTango_tango (f : Tango → Tango) (d : Dev) : (onTango f d).tango = f d.tango := rfl
@[simp] theorem onTango_ih (f : Tango → Tango) (d : Dev) : (onTango f d).ih = d.ih := rfl
@[simp] theorem onTango_rdma (f : Tango → Tango) (d : Dev) : (onTango f d).rdma = d.rdma := rfl
@[simp] theorem onTango_rcnt (f : Tango → Tango) (d : Dev) : (onTango f d).rcnt = d.rcnt := rfl
@[simp] theorem onTango_repl (f : Tango → Tango) (d : Dev) : (onTango f d).repl = d.repl := rfl
@[simp] theorem onTango_bpm (f : Tango → Tango) (d : Dev) : (onTango f d).bpm = d.bpm := rfl
@[simp] theorem onTango_mca (f : Tango → Tango) (d : Dev) : (onTango f d).mca = d.mca := rfl
@[simp] theorem onTango_dma (f : Tango → Tango) (d : Dev) : (onTango f d).dma = d.dma := rfl
@[simp] theorem onTango_evr (f : Tango → Tango) (d : Dev) : (onTango f d).evr = d.evr := rfl
@[simp] theorem onTango_mnt (f : Tango → Tango) (d : Dev) : (onTango f d).mnt = d.mnt := rfl
@[simp] theorem onTango_boot (f : Tango → Tango) (d : Dev) : (onTango f d).boot = d.boot := rfl

/-! ## onHif -/

@[simp] theorem onHif_out (f : Hif → Hif) (d : Dev) : (onHif f d).out = d.out := rfl
@[simp] theorem onHif_now (f : Hif → Hif) (d : Dev) : (onHif f d).now = d.now := rfl
@[simp] theorem onHif_free (f : Hif → Hif) (d : Dev) : (onHif f d).free = d.free := rfl
@[simp] theorem onHif_glb (f : Hif → Hif) (d : Dev) : (onHif f d).glb = d.glb := rfl
@[simp] theorem onHif_regs (f : Hif → Hif) (d : Dev) : (onHif f d).regs = d.regs := rfl
@[simp] theorem onHif_sl (f : Hif → Hif) (d : Dev) : (onHif f d).sl = d.sl := rfl
@[simp] theorem onHif_lg (f : Hif → Hif) (d : Dev) : (onHif f d).lg = d.lg := rfl
@[simp] theorem onHif_audit (f : Hif → Hif) (d : Dev) : (onHif f d).audit = d.audit := rfl
@[simp] theorem onHif_pipes (f : Hif → Hif) (d : Dev) : (onHif f d).pipes = d.pipes := rfl
@[simp] theorem onHif_vault (f : Hif → Hif) (d : Dev) : (onHif f d).vault = d.vault := rfl
@[simp] theorem onHif_vcnt (f : Hif → Hif) (d : Dev) : (onHif f d).vcnt = d.vcnt := rfl
@[simp] theorem onHif_cat (f : Hif → Hif) (d : Dev) : (onHif f d).cat = d.cat := rfl
@[simp] theorem onHif_disk (f : Hif → Hif) (d : Dev) : (onHif f d).disk = d.disk := rfl
@[simp] theorem onHif_ciph (f : Hif → Hif) (d : Dev) : (onHif f d).ciph = d.ciph := rfl
@[simp] theorem onHif_dgst (f : Hif → Hif) (d : Dev) : (onHif f d).dgst = d.dgst := rfl
@[simp] theorem onHif_hif (f : Hif → Hif) (d : Dev) : (onHif f d).hif = f d.hif := rfl
@[simp] theorem onHif_tango (f : Hif → Hif) (d : Dev) : (onHif f d).tango = d.tango := rfl
@[simp] theorem onHif_ih (f : Hif → Hif) (d : Dev) : (onHif f d).ih = d.ih := rfl
@[simp] theorem onHif_rdma (f : Hif → Hif) (d : Dev) : (onHif f d).rdma = d.rdma := rfl
@[simp] theorem onHif_rcnt (f : Hif → Hif) (d : Dev) : (onHif f d).rcnt = d.rcnt := rfl
@[simp] theorem onHif_repl (f : Hif → Hif) (d : Dev) : (onHif f d).repl = d.repl := rfl
@[simp] theorem onHif_bpm (f : Hif → Hif) (d : Dev) : (onHif f d).bpm = d.bpm := rfl
@[simp] theorem onHif_mca (f : Hif → Hif) (d : Dev) : (onHif f d).mca = d.mca := rfl
@[simp] theorem onHif_dma (f : Hif → Hif) (d : Dev) : (onHif f d).dma = d.dma := rfl
@[simp] theorem onHif_evr (f : Hif → Hif) (d : Dev) : (onHif f d).evr = d.evr := rfl
@[simp] theorem onHif_mnt (f : Hif → Hif) (d : Dev) : (onHif f d).mnt = d.mnt := rfl
@[simp] theorem onHif_boot (f : Hif → Hif) (d : Dev) : (onHif f d).boot = d.boot := rfl

/-! ## onCiph -/

@[simp] theorem onCiph_out (f : Ciph → Ciph) (d : Dev) : (onCiph f d).out = d.out := rfl
@[simp] theorem onCiph_now (f : Ciph → Ciph) (d : Dev) : (onCiph f d).now = d.now := rfl
@[simp] theorem onCiph_free (f : Ciph → Ciph) (d : Dev) : (onCiph f d).free = d.free := rfl
@[simp] theorem onCiph_glb (f : Ciph → Ciph) (d : Dev) : (onCiph f d).glb = d.glb := rfl
@[simp] theorem onCiph_regs (f : Ciph → Ciph) (d : Dev) : (onCiph f d).regs = d.regs := rfl
@[simp] theorem onCiph_sl (f : Ciph → Ciph) (d : Dev) : (onCiph f d).sl = d.sl := rfl
@[simp] theorem onCiph_lg (f : Ciph → Ciph) (d : Dev) : (onCiph f d).lg = d.lg := rfl
@[simp] theorem onCiph_audit (f : Ciph → Ciph) (d : Dev) : (onCiph f d).audit = d.audit := rfl
@[simp] theorem onCiph_pipes (f : Ciph → Ciph) (d : Dev) : (onCiph f d).pipes = d.pipes := rfl
@[simp] theorem onCiph_vault (f : Ciph → Ciph) (d : Dev) : (onCiph f d).vault = d.vault := rfl
@[simp] theorem onCiph_vcnt (f : Ciph → Ciph) (d : Dev) : (onCiph f d).vcnt = d.vcnt := rfl
@[simp] theorem onCiph_cat (f : Ciph → Ciph) (d : Dev) : (onCiph f d).cat = d.cat := rfl
@[simp] theorem onCiph_disk (f : Ciph → Ciph) (d : Dev) : (onCiph f d).disk = d.disk := rfl
@[simp] theorem onCiph_ciph (f : Ciph → Ciph) (d : Dev) : (onCiph f d).ciph = f d.ciph := rfl
@[simp] theorem onCiph_dgst (f : Ciph → Ciph) (d : Dev) : (onCiph f d).dgst = d.dgst := rfl
@[simp] theorem onCiph_hif (f : Ciph → Ciph) (d : Dev) : (onCiph f d).hif = d.hif := rfl
@[simp] theorem onCiph_tango (f : Ciph → Ciph) (d : Dev) : (onCiph f d).tango = d.tango := rfl
@[simp] theorem onCiph_ih (f : Ciph → Ciph) (d : Dev) : (onCiph f d).ih = d.ih := rfl
@[simp] theorem onCiph_rdma (f : Ciph → Ciph) (d : Dev) : (onCiph f d).rdma = d.rdma := rfl
@[simp] theorem onCiph_rcnt (f : Ciph → Ciph) (d : Dev) : (onCiph f d).rcnt = d.rcnt := rfl
@[simp] theorem onCiph_repl (f : Ciph → Ciph) (d : Dev) : (onCiph f d).repl = d.repl := rfl
@[simp] theorem onCiph_bpm (f : Ciph → Ciph) (d : Dev) : (onCiph f d).bpm = d.bpm := rfl
@[simp] theorem onCiph_mca (f : Ciph → Ciph) (d : Dev) : (onCiph f d).mca = d.mca := rfl
@[simp] theorem onCiph_dma (f : Ciph → Ciph) (d : Dev) : (onCiph f d).dma = d.dma := rfl
@[simp] theorem onCiph_evr (f : Ciph → Ciph) (d : Dev) : (onCiph f d).evr = d.evr := rfl
@[simp] theorem onCiph_mnt (f : Ciph → Ciph) (d : Dev) : (onCiph f d).mnt = d.mnt := rfl
@[simp] theorem onCiph_boot (f : Ciph → Ciph) (d : Dev) : (onCiph f d).boot = d.boot := rfl

/-! ## onMca -/

@[simp] theorem onMca_out (f : Mca → Mca) (d : Dev) : (onMca f d).out = d.out := rfl
@[simp] theorem onMca_now (f : Mca → Mca) (d : Dev) : (onMca f d).now = d.now := rfl
@[simp] theorem onMca_free (f : Mca → Mca) (d : Dev) : (onMca f d).free = d.free := rfl
@[simp] theorem onMca_glb (f : Mca → Mca) (d : Dev) : (onMca f d).glb = d.glb := rfl
@[simp] theorem onMca_regs (f : Mca → Mca) (d : Dev) : (onMca f d).regs = d.regs := rfl
@[simp] theorem onMca_sl (f : Mca → Mca) (d : Dev) : (onMca f d).sl = d.sl := rfl
@[simp] theorem onMca_lg (f : Mca → Mca) (d : Dev) : (onMca f d).lg = d.lg := rfl
@[simp] theorem onMca_audit (f : Mca → Mca) (d : Dev) : (onMca f d).audit = d.audit := rfl
@[simp] theorem onMca_pipes (f : Mca → Mca) (d : Dev) : (onMca f d).pipes = d.pipes := rfl
@[simp] theorem onMca_vault (f : Mca → Mca) (d : Dev) : (onMca f d).vault = d.vault := rfl
@[simp] theorem onMca_vcnt (f : Mca → Mca) (d : Dev) : (onMca f d).vcnt = d.vcnt := rfl
@[simp] theorem onMca_cat (f : Mca → Mca) (d : Dev) : (onMca f d).cat = d.cat := rfl
@[simp] theorem onMca_disk (f : Mca → Mca) (d : Dev) : (onMca f d).disk = d.disk := rfl
@[simp] theorem onMca_ciph (f : Mca → Mca) (d : Dev) : (onMca f d).ciph = d.ciph := rfl
@[simp] theorem onMca_dgst (f : Mca → Mca) (d : Dev) : (onMca f d).dgst = d.dgst := rfl
@[simp] theorem onMca_hif (f : Mca → Mca) (d : Dev) : (onMca f d).hif = d.hif := rfl
@[simp] theorem onMca_tango (f : Mca → Mca) (d : Dev) : (onMca f d).tango = d.tango := rfl
@[simp] theorem onMca_ih (f : Mca → Mca) (d : Dev) : (onMca f d).ih = d.ih := rfl
@[simp] theorem onMca_rdma (f : Mca → Mca) (d : Dev) : (onMca f d).rdma = d.rdma := rfl
@[simp] theorem onMca_rcnt (f : Mca → Mca) (d : Dev) : (onMca f d).rcnt = d.rcnt := rfl
@[simp] theorem onMca_repl (f : Mca → Mca) (d : Dev) : (onMca f d).repl = d.repl := rfl
@[simp] theorem onMca_bpm (f : Mca → Mca) (d : Dev) : (onMca f d).bpm = d.bpm := rfl
@[simp] theorem onMca_mca (f : Mca → Mca) (d : Dev) : (onMca f d).mca = f d.mca := rfl
@[simp] theorem onMca_dma (f : Mca → Mca) (d : Dev) : (onMca f d).dma = d.dma := rfl
@[simp] theorem onMca_evr (f : Mca → Mca) (d : Dev) : (onMca f d).evr = d.evr := rfl
@[simp] theorem onMca_mnt (f : Mca → Mca) (d : Dev) : (onMca f d).mnt = d.mnt := rfl
@[simp] theorem onMca_boot (f : Mca → Mca) (d : Dev) : (onMca f d).boot = d.boot := rfl

/-! ## onChan -/

@[simp] theorem onChan_out (c : Nat) (f : Chan → Chan) (d : Dev) : (onChan c f d).out = d.out := by
  unfold onChan; split <;> rfl
@[simp] theorem onChan_now (c : Nat) (f : Chan → Chan) (d : Dev) : (onChan c f d).now = d.now := by
  unfold onChan; split <;> rfl
@[simp] theorem onChan_free (c : Nat) (f : Chan → Chan) (d : Dev) : (onChan c f d).free = d.free := by
  unfold onChan; split <;> rfl
@[simp] theorem onChan_glb (c : Nat) (f : Chan → Chan) (d : Dev) : (onChan c f d).glb = d.glb := by
  unfold onChan; split <;> rfl
@[simp] theorem onChan_regs (c : Nat) (f : Chan → Chan) (d : Dev) : (onChan c f d).regs = d.regs := by
  unfold onChan; split <;> rfl
@[simp] theorem onChan_sl (c : Nat) (f : Chan → Chan) (d : Dev) : (onChan c f d).sl = d.sl := by
  unfold onChan; split <;> rfl
@[simp] theorem onChan_lg (c : Nat) (f : Chan → Chan) (d : Dev) : (onChan c f d).lg = d.lg := by
  unfold onChan; split <;> rfl
@[simp] theorem onChan_audit (c : Nat) (f : Chan → Chan) (d : Dev) : (onChan c f d).audit = d.audit := by
  unfold onChan; split <;> rfl
@[simp] theorem onChan_pipes (c : Nat) (f : Chan → Chan) (d : Dev) : (onChan c f d).pipes = d.pipes := by
  unfold onChan; split <;> rfl
@[simp] theorem onChan_vault (c : Nat) (f : Chan → Chan) (d : Dev) : (onChan c f d).vault = d.vault := by
  unfold onChan; split <;> rfl
@[simp] theorem onChan_vcnt (c : Nat) (f : Chan → Chan) (d : Dev) : (onChan c f d).vcnt = d.vcnt := by
  unfold onChan; split <;> rfl
@[simp] theorem onChan_cat (c : Nat) (f : Chan → Chan) (d : Dev) : (onChan c f d).cat = d.cat := by
  unfold onChan; split <;> rfl
@[simp] theorem onChan_disk (c : Nat) (f : Chan → Chan) (d : Dev) : (onChan c f d).disk = d.disk := by
  unfold onChan; split <;> rfl
@[simp] theorem onChan_ciph (c : Nat) (f : Chan → Chan) (d : Dev) : (onChan c f d).ciph = d.ciph := by
  unfold onChan; split <;> rfl
@[simp] theorem onChan_dgst (c : Nat) (f : Chan → Chan) (d : Dev) : (onChan c f d).dgst = d.dgst := by
  unfold onChan; split <;> rfl
@[simp] theorem onChan_tango (c : Nat) (f : Chan → Chan) (d : Dev) : (onChan c f d).tango = d.tango := by
  unfold onChan; split <;> rfl
@[simp] theorem onChan_ih (c : Nat) (f : Chan → Chan) (d : Dev) : (onChan c f d).ih = d.ih := by
  unfold onChan; split <;> rfl
@[simp] theorem onChan_rdma (c : Nat) (f : Chan → Chan) (d : Dev) : (onChan c f d).rdma = d.rdma := by
  unfold onChan; split <;> rfl
@[simp] theorem onChan_rcnt (c : Nat) (f : Chan → Chan) (d : Dev) : (onChan c f d).rcnt = d.rcnt := by
  unfold onChan; split <;> rfl
@[simp] theorem onChan_repl (c : Nat) (f : Chan → Chan) (d : Dev) : (onChan c f d).repl = d.repl := by
  unfold onChan; split <;> rfl
@[simp] theorem onChan_bpm (c : Nat) (f : Chan → Chan) (d : Dev) : (onChan c f d).bpm = d.bpm := by
  unfold onChan; split <;> rfl
@[simp] theorem onChan_mca (c : Nat) (f : Chan → Chan) (d : Dev) : (onChan c f d).mca = d.mca := by
  unfold onChan; split <;> rfl
@[simp] theorem onChan_dma (c : Nat) (f : Chan → Chan) (d : Dev) : (onChan c f d).dma = d.dma := by
  unfold onChan; split <;> rfl
@[simp] theorem onChan_evr (c : Nat) (f : Chan → Chan) (d : Dev) : (onChan c f d).evr = d.evr := by
  unfold onChan; split <;> rfl
@[simp] theorem onChan_mnt (c : Nat) (f : Chan → Chan) (d : Dev) : (onChan c f d).mnt = d.mnt := by
  unfold onChan; split <;> rfl
@[simp] theorem onChan_boot (c : Nat) (f : Chan → Chan) (d : Dev) : (onChan c f d).boot = d.boot := by
  unfold onChan; split <;> rfl

/-! ## State -/

@[simp] theorem State.onMca_dev (s : State) (f : Mca → Mca) : (s.onMca f).dev = Sys2Proof.Machine.onMca f s.dev := rfl
@[simp] theorem State.onMca_hbm (s : State) (f : Mca → Mca) : (s.onMca f).hbm = s.hbm := rfl
@[simp] theorem State.onMca_pending (s : State) (f : Mca → Mca) : (s.onMca f).pending = s.pending := rfl

/-! ## when -/

@[simp] theorem when_true (f : Dev → Dev) (d : Dev) : when true f d = f d := rfl
@[simp] theorem when_false (f : Dev → Dev) (d : Dev) : when false f d = d := rfl

/-! ## Four -/

@[simp] theorem four_at_put (α : Type) (f : Four α) (g : Fin 4) (v : α) : (f.put g v).at g = v := by
  match g with
  | ⟨0, _⟩ => rfl
  | ⟨1, _⟩ => rfl
  | ⟨2, _⟩ => rfl
  | ⟨3, _⟩ => rfl

theorem four_at_put_ne (α : Type) (f : Four α) (g h : Fin 4) (v : α) (n : h ≠ g) : (f.put g v).at h = f.at h := by
  revert g h; intro g h n
  match g, h with
  | ⟨0, _⟩, ⟨0, _⟩ => exact absurd rfl n
  | ⟨0, _⟩, ⟨1, _⟩ => rfl
  | ⟨0, _⟩, ⟨2, _⟩ => rfl
  | ⟨0, _⟩, ⟨3, _⟩ => rfl
  | ⟨1, _⟩, ⟨0, _⟩ => rfl
  | ⟨1, _⟩, ⟨1, _⟩ => exact absurd rfl n
  | ⟨1, _⟩, ⟨2, _⟩ => rfl
  | ⟨1, _⟩, ⟨3, _⟩ => rfl
  | ⟨2, _⟩, ⟨0, _⟩ => rfl
  | ⟨2, _⟩, ⟨1, _⟩ => rfl
  | ⟨2, _⟩, ⟨2, _⟩ => exact absurd rfl n
  | ⟨2, _⟩, ⟨3, _⟩ => rfl
  | ⟨3, _⟩, ⟨0, _⟩ => rfl
  | ⟨3, _⟩, ⟨1, _⟩ => rfl
  | ⟨3, _⟩, ⟨2, _⟩ => rfl
  | ⟨3, _⟩, ⟨3, _⟩ => exact absurd rfl n

/-! ## Tables -/

@[simp] theorem tget_tput (α : Type) (t : Tab α) (k : Nat) (v : α) : tget (tput t k v) k = some v := by
  induction t with
  | nil => simp [tput, tget]
  | cons e t ih =>
    obtain ⟨i, w⟩ := e
    simp only [tput]
    split
    · simp [tget]
    · split
      · simp [tget]
      · rename_i h2; simp [tget, h2, ih]

theorem tget_tput_ne (α : Type) (t : Tab α) (k j : Nat) (v : α) (n : j ≠ k) : tget (tput t k v) j = tget t j := by
  induction t with
  | nil => simp [tput, tget, n]
  | cons e t ih =>
    obtain ⟨i, w⟩ := e
    simp only [tput]
    split
    · simp [tget, n]
    · split
      · rename_i h2; subst h2; simp [tget, n]
      · simp [tget, ih]

@[simp] theorem tget_tdel (α : Type) (t : Tab α) (k : Nat) : tget (tdel t k) k = none := by
  induction t with
  | nil => rfl
  | cons e t ih =>
    obtain ⟨i, w⟩ := e
    simp only [tdel]
    split
    · exact ih
    · rename_i h; simp [tget, h, ih]

theorem tget_tdel_ne (α : Type) (t : Tab α) (k j : Nat) (n : j ≠ k) : tget (tdel t k) j = tget t j := by
  induction t with
  | nil => rfl
  | cons e t ih =>
    obtain ⟨i, w⟩ := e
    simp only [tdel]
    split
    · rename_i h; subst h; simp [tget, n, ih]
    · simp [tget, ih]

end Sys2Proof.Machine
end

