-- ==== Sys2Proof/Laws/Memory.lean ====
section
/-! SUPPORT. HBM as bytes: what a write changes, and that every operation on it keeps its canonical form. -/

namespace Sys2Proof.Machine
open Sys2Proof

theorem wfFrom_weaken (lo lo' : Nat) (m : List Host.Cell) (h : Memory.wfFrom lo m = true) (l : lo' ≤ lo) :
    Memory.wfFrom lo' m = true := by
  cases m with
  | nil => rfl
  | cons c t =>
    obtain ⟨a, b⟩ := c
    simp only [Memory.wfFrom, Bool.and_eq_true, decide_eq_true_eq] at h ⊢
    exact ⟨⟨Nat.le_trans l h.1.1, h.1.2⟩, h.2⟩

theorem memWrite_wfFrom (lo a : Nat) (b : Byte) (m : List Host.Cell) (h : Memory.wfFrom lo m = true) (l : lo ≤ a) :
    Memory.wfFrom lo (memWrite m a b) = true := by
  induction m generalizing lo with
  | nil => by_cases z : b = 0#8 <;> simp [memWrite, Memory.wfFrom, z, l]
  | cons c t ih =>
    obtain ⟨x, v⟩ := c
    have hx := h
    simp only [Memory.wfFrom, Bool.and_eq_true, decide_eq_true_eq] at h
    simp only [memWrite]
    by_cases c1 : a < x
    · by_cases z : b = 0#8
      · simpa [c1, z] using hx
      · simp only [BitVec.ofNat_eq_ofNat, c1, z, if_true, if_false, Memory.wfFrom, Bool.and_eq_true, decide_eq_true_eq]
        exact ⟨⟨l, by simp [z]⟩, ⟨⟨c1, h.1.2⟩, h.2⟩⟩
    · by_cases c2 : a = x
      · subst c2
        by_cases z : b = 0#8
        · simp only [BitVec.ofNat_eq_ofNat, Nat.lt_irrefl, z, if_true, if_false]
          exact wfFrom_weaken (a + 1) lo t h.2 (by omega)
        · simp only [BitVec.ofNat_eq_ofNat, Nat.lt_irrefl, z, if_true, if_false, Memory.wfFrom, Bool.and_eq_true, decide_eq_true_eq]
          exact ⟨⟨l, by simp [z]⟩, h.2⟩
      · simp only [c1, c2, if_false, Memory.wfFrom, Bool.and_eq_true, decide_eq_true_eq]
        exact ⟨h.1, ih (x + 1) h.2 (by omega)⟩

/-- A write keeps the canonical form. -/
theorem memWrite_wf (a : Nat) (b : Byte) (m : List Host.Cell) (h : Memory.wf m = true) : Memory.wf (memWrite m a b) = true :=
  memWrite_wfFrom 0 a b m h (Nat.zero_le a)

theorem memRead_wfFrom (lo a : Nat) (m : List Host.Cell) (h : Memory.wfFrom lo m = true) (l : a < lo) : memRead m a = 0 := by
  induction m generalizing lo with
  | nil => rfl
  | cons c t ih =>
    obtain ⟨x, v⟩ := c
    simp only [Memory.wfFrom, Bool.and_eq_true, decide_eq_true_eq] at h
    simp only [memRead]
    rw [if_neg (by omega)]
    exact ih (x + 1) h.2 (by omega)

/-- A byte reads as what was written to it last. -/
theorem memRead_memWrite (a : Nat) (b : Byte) (m : List Host.Cell) (lo : Nat) (h : Memory.wfFrom lo m = true) :
    memRead (memWrite m a b) a = b := by
  induction m generalizing lo with
  | nil => by_cases z : b = 0#8 <;> simp [memWrite, memRead, z]
  | cons c t ih =>
    obtain ⟨x, v⟩ := c
    simp only [Memory.wfFrom, Bool.and_eq_true, decide_eq_true_eq] at h
    simp only [memWrite]
    by_cases c1 : a < x
    · by_cases z : b = 0#8
      · simp only [BitVec.ofNat_eq_ofNat, c1, z, if_true, memRead]
        rw [if_neg (by omega)]
        exact memRead_wfFrom (x + 1) a t h.2 (by omega)
      · simp [c1, z, memRead]
    · by_cases c2 : a = x
      · subst c2
        by_cases z : b = 0#8
        · simp only [BitVec.ofNat_eq_ofNat, Nat.lt_irrefl, z, if_true, if_false]
          exact memRead_wfFrom (a + 1) a t h.2 (by omega)
        · simp [z, memRead]
      · simp only [c1, c2, if_false, memRead]
        exact ih (x + 1) h.2

/-- A write leaves every other byte alone. -/
theorem memRead_memWrite_ne (a c : Nat) (b : Byte) (m : List Host.Cell) (n : c ≠ a) : memRead (memWrite m a b) c = memRead m c := by
  induction m with
  | nil => by_cases z : b = 0#8 <;> simp [memWrite, memRead, z, n]
  | cons e t ih =>
    obtain ⟨x, v⟩ := e
    simp only [memWrite]
    by_cases c1 : a < x
    · by_cases z : b = 0#8 <;> simp [c1, z, memRead, n]
    · by_cases c2 : a = x
      · subst c2
        by_cases z : b = 0#8 <;> simp [z, memRead, n]
      · simp only [c1, c2, if_false, memRead, ih]

theorem memStore_wf (m : List Host.Cell) (a : Nat) (l : List Byte) (h : Memory.wf m = true) : Memory.wf (memStore m a l) = true := by
  induction l generalizing m a with
  | nil => exact h
  | cons b t ih => exact ih _ _ (memWrite_wf a b m h)

/-- A byte outside the bytes stored reads as before. -/
theorem memRead_memStore (m : List Host.Cell) (a c : Nat) (l : List Byte) (o : c < a ∨ a + l.length ≤ c) :
    memRead (memStore m a l) c = memRead m c := by
  induction l generalizing m a with
  | nil => rfl
  | cons b t ih =>
    simp only [List.length_cons] at o
    simp only [memStore]
    rw [ih (memWrite m a b) (a + 1) (by omega), memRead_memWrite_ne a c b m (by omega)]

theorem memMasked_wf (m : List Host.Cell) (line : Nat) (e : Tab Byte) (h : Memory.wf m = true) : Memory.wf (memMasked m line e) = true := by
  unfold memMasked
  induction e generalizing m with
  | nil => exact h
  | cons b t ih => exact ih _ (memWrite_wf _ _ m h)

/-! ## The operations of the cache on a state -/

theorem writeBackLine_wf (l : CLine) (s : State) (h : Memory.wf s.hbm = true) : Memory.wf (writeBackLine l s).hbm = true :=
  memStore_wf _ _ _ h

theorem drainOne_wf (s : State) (h : Memory.wf s.hbm = true) : Memory.wf (drainOne s).hbm = true := by
  unfold drainOne; split
  · exact h
  · exact memMasked_wf _ _ _ h

theorem drainN_wf (n : Nat) (s : State) (h : Memory.wf s.hbm = true) : Memory.wf (drainN n s).hbm = true := by
  induction n generalizing s with
  | zero => exact h
  | succ n ih => exact ih _ (drainOne_wf s h)

theorem drainLines_wf (p : Nat → Bool) (s : State) (h : Memory.wf s.hbm = true) : Memory.wf (drainLines p s).hbm = true :=
  drainN_wf _ s h

theorem install_wf (c line : Nat) (b : Bool) (data : List Byte) (s : State) (h : Memory.wf s.hbm = true) :
    Memory.wf (install c line b data s).hbm = true := by
  unfold install; simp only; split
  · split
    · exact memStore_wf _ _ _ h
    · exact h
  · split
    · exact h
    · rw [State.onMca_hbm]
      split
      · split
        · apply writeBackLine_wf; split <;> exact h
        · split <;> exact h
      · split <;> exact h

theorem cleanKey_wf (k : Nat) (s : State) (h : Memory.wf s.hbm = true) : Memory.wf (cleanKey k s).hbm = true := by
  unfold cleanKey; split
  · split
    · exact writeBackLine_wf _ s h
    · exact h
  · exact h

theorem cleanKeys_wf (l : List Nat) (s : State) (h : Memory.wf s.hbm = true) :
    Memory.wf (l.foldl (fun x k => cleanKey k x) s).hbm = true := by
  induction l generalizing s with
  | nil => exact h
  | cons a t ih => exact ih _ (cleanKey_wf a s h)

theorem cleanLines_wf (p : Nat → Bool) (s : State) (h : Memory.wf s.hbm = true) : Memory.wf (cleanLines p s).hbm = true := by
  unfold cleanLines; simp only
  split
  · rw [State.onMca_hbm]; exact cleanKeys_wf _ _ (drainLines_wf p s h)
  · exact cleanKeys_wf _ _ (drainLines_wf p s h)

theorem endDrain_wf (s : State) (h : Memory.wf s.hbm = true) : Memory.wf (endDrain s).hbm = true := by
  unfold endDrain; simp only; rw [State.onMca_hbm]; exact cleanKeys_wf _ _ h

theorem cacheRead_wf (c line : Nat) (s : State) (h : Memory.wf s.hbm = true) : Memory.wf (cacheRead c line s).2.hbm = true := by
  unfold cacheRead; split
  · split
    · split <;> exact h
    · exact h
  · simp only
    split
    · split
      · exact drainLines_wf _ s h
      · exact install_wf _ _ _ _ _ (drainLines_wf _ s h)
    · exact drainLines_wf _ s h

theorem cacheWrite_wf (c a : Nat) (data : List Byte) (s : State) (h : Memory.wf s.hbm = true) :
    Memory.wf (cacheWrite c a data s).hbm = true := by
  unfold cacheWrite; simp only
  split
  · split
    · exact h
    · split
      · apply memStore_wf; rw [State.onMca_hbm]; split
        · exact writeBackLine_wf _ s h
        · exact h
      · split
        · exact h
        · split
          · exact memStore_wf _ _ _ h
          · split
            · exact memStore_wf _ _ _ h
            · exact memStore_wf _ _ _ h
  · split
    · exact install_wf _ _ _ _ _ (drainLines_wf _ _ h)
    · split
      · exact memStore_wf _ _ _ (drainLines_wf _ _ h)
      · exact memStore_wf _ _ _ (drainLines_wf _ s h)

end Sys2Proof.Machine
end

