-- ==== Sys2Proof/Laws/Canon.lean ====
section
/-! SUPPORT. The operations on a state that commands are made of keep the canonical form of HBM. -/

namespace Sys2Proof.Machine
open Sys2Proof

theorem writeLines_wf (c a n : Nat) (b : List Byte) (s : State) (h : Memory.wf s.hbm = true) :
    Memory.wf (writeLines c a n b s).hbm = true := by
  induction n generalizing a b s with
  | zero => exact h
  | succ n ih =>
    unfold writeLines; split
    · exact h
    · exact ih _ _ _ (cacheWrite_wf _ _ _ _ h)

theorem syncBucket_wf (b : Nat) (s : State) (h : Memory.wf s.hbm = true) : Memory.wf (syncBucket b s).hbm = true :=
  writeLines_wf _ _ _ _ s h

theorem syncHot_wf (s : State) (h : Memory.wf s.hbm = true) : Memory.wf (syncHot s).hbm = true := by
  have all : ∀ (l : List Nat) (x : State), Memory.wf x.hbm = true → Memory.wf (l.foldl (fun x b => syncBucket b x) x).hbm = true := by
    intro l
    induction l with
    | nil => intro x w; exact w
    | cons b t ih => intro x w; exact ih _ (syncBucket_wf b x w)
  exact all _ s h

theorem liveState_wf (f : State → State) (s : State) (h : Memory.wf s.hbm = true)
    (hf : ∀ x : State, Memory.wf x.hbm = true → Memory.wf (f x).hbm = true) : Memory.wf (liveState f s).hbm = true := by
  unfold liveState; split
  · exact hf _ (syncHot_wf s h)
  · exact h

theorem maintDone_hbm (s : State) : (maintDone s).hbm = s.hbm := rfl

theorem stagedState_wf (f : Dev → Dev) (s : State) (h : Memory.wf s.hbm = true) : Memory.wf (stagedState f s).hbm = true := by
  have w : Memory.wf ({ s with dev := f s.dev } : State).hbm = true := h
  unfold stagedState
  generalize ({ s with dev := f s.dev } : State) = x at w ⊢
  dsimp only; split
  · exact w
  · rw [maintDone_hbm]; exact cleanLines_wf _ _ (syncHot_wf _ w)

theorem hbmPoison_wf (a : Nat) (h : HbmHolder) (s : State) (w : Memory.wf s.hbm = true) : Memory.wf (hbmPoison a h s).hbm = true := by
  unfold hbmPoison
  have w1 : Memory.wf ({ s with dev := poisoned a h s.dev } : State).hbm = true := w
  generalize ({ s with dev := poisoned a h s.dev } : State) = x at w1 ⊢
  dsimp only; split
  · exact writeLines_wf _ _ _ _ _ w1
  · exact w1

theorem patrolRead_wf (c : List Byte) (u : Bool) (h : HbmHolder) (s : State) (w : Memory.wf s.hbm = true) :
    Memory.wf (patrolRead c u h s).hbm = true := by
  unfold patrolRead; simp only; split
  · exact w
  · split
    · exact hbmPoison_wf _ _ _ w
    · exact w
    · split
      · exact w
      · exact memStore_wf _ _ _ w

theorem parityError_wf (set way : Nat) (e : ParityErr) (s : State) (w : Memory.wf s.hbm = true) :
    Memory.wf (parityError set way e s).hbm = true := by
  unfold parityError; split
  · exact w
  · split <;> exact w

theorem dropLines_wf (p : Nat → Bool) (s : State) (w : Memory.wf s.hbm = true) : Memory.wf (dropLines p s).hbm = true := w

theorem writeRegion_wf (n v : Nat) (s : State) (w : Memory.wf s.hbm = true) : Memory.wf (writeRegion n v s).hbm = true := by
  unfold writeRegion; split
  · exact w
  · exact cleanLines_wf _ s w

theorem putReg_wf (r : SetReg) (a n : Nat) (x : W64) (v : Nat) (s : State) (w : Memory.wf s.hbm = true) :
    Memory.wf (putReg r a n x v s).hbm = true := by
  unfold putReg; split
  · exact writeRegion_wf _ _ s w
  · exact w
  · exact w

theorem barWrite_wf (a n : Nat) (x : W64) (s : State) (w : Memory.wf s.hbm = true) : Memory.wf (barWrite a n x s).hbm = true := by
  unfold barWrite; split
  · split
    · exact w
    · simp only; split
      · exact w
      · split
        · split
          · exact w
          · split
            · exact putReg_wf _ _ _ _ _ _ w
            · exact w
        · split
          · exact putReg_wf _ _ _ _ _ _ w
          · exact w
  · exact w

end Sys2Proof.Machine
end

