-- ==== Sys2Proof/Laws/Frame.lean ====
section
/-! SUPPORT. What the shared operations can change and what they emit: each is told once here, and the lemmas about commands
cite these instead of unfolding them. -/

namespace Sys2Proof.Machine
open Sys2Proof

/-! ## Keeps -/

theorem Keeps.refl (l : List Blk) (d : Dev) : Keeps l d d := by
  intro k _; cases k <;> rfl

theorem Keeps.trans {l : List Blk} {a b c : Dev} (h1 : Keeps l a b) (h2 : Keeps l b c) : Keeps l a c := by
  intro k hk
  have x := h1 k hk
  have y := h2 k hk
  cases k <;> exact y.trans x

theorem Keeps.mono {l m : List Blk} {a b : Dev} (h : Keeps l a b) (s : ∀ k ∈ l, k ∈ m) : Keeps m a b :=
  fun k hk => h k (fun x => hk (s k x))

/-- Two changes one after the other change what either changes. -/
theorem Keeps.then {l m n : List Blk} {a b c : Dev} (h1 : Keeps l a b) (h2 : Keeps m b c)
    (s1 : ∀ k ∈ l, k ∈ n) (s2 : ∀ k ∈ m, k ∈ n) : Keeps n a c :=
  (h1.mono s1).trans (h2.mono s2)

theorem emit_keeps (o : Out) (d : Dev) : Keeps [.out] d (emit o d) := by
  intro k h; cases k <;> first | rfl | simp at h
theorem emits_keeps (o : List Out) (d : Dev) : Keeps [.out] d (emits o d) := by
  intro k h; cases k <;> first | rfl | simp at h
theorem drawn_keeps (d : Dev) : Keeps [.free] d (drawn d) := by
  intro k h; cases k <;> first | rfl | simp at h
theorem onGroup_keeps (g : Fin 4) (f : Group → Group) (d : Dev) : Keeps [.sl] d (onGroup g f d) := by
  intro k h; cases k <;> first | rfl | simp at h
theorem onLedger_keeps (g : Fin 4) (f : Ledger → Ledger) (d : Dev) : Keeps [.lg] d (onLedger g f d) := by
  intro k h; cases k <;> first | rfl | simp at h
theorem onPipe_keeps (g : Fin 4) (f : Pipe → Pipe) (d : Dev) : Keeps [.pipes] d (onPipe g f d) := by
  intro k h; cases k <;> first | rfl | simp at h
theorem onVault_keeps (f : Vault → Vault) (d : Dev) : Keeps [.vault] d (onVault f d) := by
  intro k h; cases k <;> first | rfl | simp at h
theorem onVcnt_keeps (f : VltCnt → VltCnt) (d : Dev) : Keeps [.vcnt] d (onVcnt f d) := by
  intro k h; cases k <;> first | rfl | simp at h
theorem onCat_keeps (f : Cat → Cat) (d : Dev) : Keeps [.cat] d (onCat f d) := by
  intro k h; cases k <;> first | rfl | simp at h
theorem onTango_keeps (f : Tango → Tango) (d : Dev) : Keeps [.tango] d (onTango f d) := by
  intro k h; cases k <;> first | rfl | simp at h
theorem onHif_keeps (f : Hif → Hif) (d : Dev) : Keeps [.hif] d (onHif f d) := by
  intro k h; cases k <;> first | rfl | simp at h
theorem onCiph_keeps (f : Ciph → Ciph) (d : Dev) : Keeps [.ciph] d (onCiph f d) := by
  intro k h; cases k <;> first | rfl | simp at h
theorem onMca_keeps (f : Mca → Mca) (d : Dev) : Keeps [.mca] d (onMca f d) := by
  intro k h; cases k <;> first | rfl | simp at h
theorem setPage_keeps (p : Nat) (v : Page) (d : Dev) : Keeps [.ciph] d (setPage p v d) := onCiph_keeps _ d

theorem onChan_keeps (c : Nat) (f : Chan → Chan) (d : Dev) : Keeps [.hif] d (onChan c f d) := by
  unfold onChan; split
  · exact onHif_keeps _ d
  · exact .refl _ d

theorem setJob_keeps (c : Nat) (j : Option Job) (d : Dev) : Keeps [.hif] d (setJob c j d) := onChan_keeps c _ d

theorem when_keeps {l : List Blk} {f : Dev → Dev} (p : Bool) (d : Dev) (h : Keeps l d (f d)) : Keeps l d (when p f d) := by
  unfold when; split
  · exact h
  · exact .refl l d

theorem each_keeps {α : Type} {l : List Blk} {f : α → Dev → Dev} (h : ∀ a d, Keeps l d (f a d)) (x : List α) (d : Dev) :
    Keeps l d (each f x d) := by
  induction x generalizing d with
  | nil => exact .refl l d
  | cons a t ih => exact (h a d).trans (ih (f a d))

theorem sendMsix_keeps (v : Nat) (d : Dev) : Keeps [.hif, .out] d (sendMsix v d) := by
  unfold sendMsix; split
  · exact .refl _ d
  · split
    · exact (onHif_keeps _ d).then (emit_keeps _ _) (by simp) (by simp)
    · exact (onHif_keeps _ d).mono (by simp)

theorem writeEntry_keeps (c : Nat) (x : Desc) (st : Nat) (r0 r1 : W64) (d : Dev) :
    Keeps [.hif, .out] d (writeEntry c x st r0 r1 d) := by
  unfold writeEntry; split
  · exact .refl _ d
  · split
    · exact .refl _ d
    · simp only
      split
      · exact ((onHif_keeps _ d).then (emit_keeps _ _) (by simp) (by simp)).trans (sendMsix_keeps _ _)
      · exact (onHif_keeps _ d).then (emit_keeps _ _) (by simp) (by simp)

theorem postEntry_keeps (c : Nat) (x : Desc) (st : Nat) (r0 r1 : W64) (d : Dev) :
    Keeps [.hif, .out] d (postEntry c x st r0 r1 d) :=
  ((onChan_keeps c _ d).mono (by simp)).trans (writeEntry_keeps c x st r0 r1 _)

/-- What completion can change. -/
abbrev cplBlks : List Blk := [.hif, .out, .cat, .dma]

theorem settleOne_keeps {d d' : Dev} (h : settleOne d = some d') : Keeps cplBlks d d' := by
  unfold settleOne at h
  split at h
  · rename_i h1
    unfold settleAbort at h1
    split at h1
    · simp at h1
    · cases h; cases h1
      exact ((onHif_keeps _ d).mono (by simp)).trans ((postEntry_keeps _ _ _ _ _ _).mono (by simp))
  · split at h
    · cases h; exact (postEntry_keeps _ _ _ _ _ _).mono (by simp)
    split at h
    · cases h; exact (postEntry_keeps _ _ _ _ _ _).mono (by simp)
    · unfold settleDying at h
      split at h
      · simp at h
      · have base : ∀ (x : Dev) (c : Nat), Keeps cplBlks x
            (onHif (fun hf => { hf with chans := tdel hf.chans c, dying := tdel hf.dying c }) x) :=
          fun x c => (onHif_keeps _ x).mono (by simp)
        have start : ∀ (c : Nat), Keeps cplBlks d { d with
            dma := { d.dma with chs := d.dma.chs.filter (fun e => e.2.chan != c) }
            cat := { d.cat with takes := d.cat.takes.map (fun t => if t.chan = some c then { t with chan := none } else t) } } := by
          intro c k hk; cases k <;> first | rfl | simp at hk
        simp only at h
        split at h <;> cases h
        · exact (start _).trans (base _ _)
        · exact (start _).trans (((sendMsix_keeps _ _).mono (by simp)).trans
            ((base _ _).trans ((postEntry_keeps _ _ _ _ _ _).mono (by simp))))
        · exact (start _).trans ((base _ _).trans ((postEntry_keeps _ _ _ _ _ _).mono (by simp)))

theorem settle_keeps (n : Nat) (d : Dev) : Keeps cplBlks d (settle n d) := by
  induction n generalizing d with
  | zero => exact .refl _ d
  | succ n ih =>
    unfold settle
    split
    · rename_i h; exact (settleOne_keeps h).trans (ih _)
    · split
      · exact (onHif_keeps _ d).mono (by simp)
      · exact .refl _ d

theorem settled_keeps (d : Dev) : Keeps cplBlks d (settled d) := settle_keeps _ d

theorem complete_keeps (h : Hdr) (op : Byte) (st : Nat) (r0 r1 : W64) (d : Dev) :
    Keeps cplBlks d (complete h op st r0 r1 d) := by
  unfold complete; split
  · exact ((postEntry_keeps _ _ _ _ _ d).mono (by simp)).trans (settled_keeps _)
  · exact .refl _ d

theorem recordEvent_keeps (f : Bool) (c : Nat) (i : W32) (w : List W32) (d : Dev) :
    Keeps [.evr] d (recordEvent f c i w d).1 := by
  unfold recordEvent; split <;> (intro k h; cases k <;> first | rfl | simp at h)

theorem notifyWhere_keeps (p : Nat → Bool) (r0 r1 : W64) (d : Dev) : Keeps cplBlks d (notifyWhere p r0 r1 d) :=
  ((onHif_keeps _ d).mono (by simp)).trans (each_keeps (fun (n : Hdr × Nat) x => complete_keeps n.1 4 0 r0 r1 x) _ _)

/-- What raising an event can change. -/
abbrev logBlks : List Blk := [.evr, .hif, .out, .cat, .dma]

theorem logEvent_keeps (c : Nat) (i : W32) (w : List W32) (d : Dev) : Keeps logBlks d (logEvent c i w d) := by
  have r := recordEvent_keeps false c i w d
  unfold logEvent
  generalize recordEvent false c i w d = x at r ⊢
  obtain ⟨d1, _ | r1⟩ := x
  · exact r.mono (by simp)
  · exact (r.mono (by simp)).trans ((notifyWhere_keeps _ _ _ _).mono (by simp))

theorem notifyAll_keeps (d : Dev) : Keeps [.hif, .out, .cat, .dma, .free] d (notifyAll d) :=
  ((notifyWhere_keeps _ _ _ d).mono (by simp)).trans
    (((drawn_keeps _).trans (drawn_keeps _)).mono (by simp))

theorem chanError_keeps (c : Nat) (op : Byte) (st sq : Nat) (d : Dev) :
    Keeps [.evr, .hif, .out, .cat, .dma, .free] d (chanError c op st sq d) := by
  unfold chanError
  simp only
  have r := recordEvent_keeps false 0x0101 (BitVec.ofNat 32 c) [op.setWidth 32, BitVec.ofNat 32 st, BitVec.ofNat 32 sq]
    (onChan c (fun ch => { ch with error := true }) d)
  have o := onChan_keeps c (fun ch => { ch with error := true }) d
  generalize recordEvent false 0x0101 (BitVec.ofNat 32 c) [op.setWidth 32, BitVec.ofNat 32 st, BitVec.ofNat 32 sq]
    (onChan c (fun ch => { ch with error := true }) d) = x at r ⊢
  obtain ⟨d1, _ | r1⟩ := x
  · exact (o.mono (by simp)).trans ((r.mono (by simp)).trans ((notifyAll_keeps _).mono (by simp)))
  · exact (o.mono (by simp)).trans ((r.mono (by simp)).trans ((notifyWhere_keeps _ _ _ _).mono (by simp)))

theorem takeCounter_keeps (p : Nat) (d : Dev) : Keeps [.ciph, .evr, .hif, .out, .cat, .dma] d (takeCounter p d) := by
  unfold takeCounter; simp only; split
  · exact ((setPage_keeps _ _ _).mono (by simp)).trans ((logEvent_keeps _ _ _ _).mono (by simp))
  · exact (setPage_keeps _ _ _).mono (by simp)

theorem pickupWhen_keeps (go : Bool) (h : Hdr) (op : Byte) (d : Dev) : Keeps [.hif] d (pickupWhen go h op d).1 := by
  unfold pickupWhen; split
  · exact .refl _ d
  · dsimp only; split
    · exact .refl _ d
    · exact onHif_keeps _ d

/-- A descriptor changes its channel, what its completion can change, and what its own meaning changes. -/
theorem descriptorWhen_keeps {l : List Blk} {go : Bool} {op : Byte} {ct : List Nat} {h : Hdr} {v : Bool} {body : Dev → Dev} {d : Dev}
    (hl : ∀ k ∈ cplBlks, k ∈ l) (hb : ∀ x, Keeps l x (body x)) : Keeps l d (descriptorWhen go op ct h v body d) := by
  have p := pickupWhen_keeps go h op d
  unfold descriptorWhen; split
  · generalize pickupWhen go h op d = x at p ⊢
    obtain ⟨d1, _ | _⟩ := x
    · exact p.mono (fun k hk => hl k (by revert hk; simp; intro e; subst e; simp))
    · have p1 : Keeps l d d1 := p.mono (fun k hk => hl k (by revert hk; simp; intro e; subst e; simp))
      simp only; split
      · exact p1.trans (hb _)
      · exact p1.trans ((complete_keeps _ _ _ _ _ _).mono hl)
  · exact .refl l d

/-! ## What is emitted is never taken back -/

/-- `d'` has emitted what `d` has, and perhaps more. -/
def Grows (d d' : Dev) : Prop := ∃ l, d'.out = d.out ++ l

theorem Grows.refl (d : Dev) : Grows d d := ⟨[], by simp⟩
theorem Grows.trans {a b c : Dev} (h1 : Grows a b) (h2 : Grows b c) : Grows a c := by
  obtain ⟨x, hx⟩ := h1; obtain ⟨y, hy⟩ := h2; exact ⟨x ++ y, by rw [hy, hx, List.append_assoc]⟩
theorem Grows.of_eq {a b : Dev} (h : b.out = a.out) : Grows a b := ⟨[], by simp [h]⟩
theorem Keeps.grows {l : List Blk} {a b : Dev} (h : Keeps l a b) (n : Blk.out ∉ l) : Grows a b := .of_eq (h .out n)

theorem emit_grows (o : Out) (d : Dev) : Grows d (emit o d) := ⟨[o], rfl⟩
theorem emits_grows (o : List Out) (d : Dev) : Grows d (emits o d) := ⟨o, rfl⟩
theorem each_grows {α : Type} {f : α → Dev → Dev} (h : ∀ a d, Grows d (f a d)) (x : List α) (d : Dev) : Grows d (each f x d) := by
  induction x generalizing d with
  | nil => exact .refl d
  | cons a t ih => exact (h a d).trans (ih (f a d))

theorem sendMsix_grows (v : Nat) (d : Dev) : Grows d (sendMsix v d) := by
  unfold sendMsix; split
  · exact .refl d
  · split
    · exact ((onHif_keeps _ d).grows (by simp)).trans (emit_grows _ _)
    · exact (onHif_keeps _ d).grows (by simp)

theorem writeEntry_grows (c : Nat) (x : Desc) (st : Nat) (r0 r1 : W64) (d : Dev) : Grows d (writeEntry c x st r0 r1 d) := by
  unfold writeEntry; split
  · exact .refl d
  · split
    · exact .refl d
    · simp only
      split
      · exact (((onHif_keeps _ d).grows (by simp)).trans (emit_grows _ _)).trans (sendMsix_grows _ _)
      · exact ((onHif_keeps _ d).grows (by simp)).trans (emit_grows _ _)

theorem postEntry_grows (c : Nat) (x : Desc) (st : Nat) (r0 r1 : W64) (d : Dev) : Grows d (postEntry c x st r0 r1 d) :=
  ((onChan_keeps c _ d).grows (by simp)).trans (writeEntry_grows _ _ _ _ _ _)

theorem settleOne_grows {d d' : Dev} (h : settleOne d = some d') : Grows d d' := by
  unfold settleOne at h
  split at h
  · rename_i h1
    unfold settleAbort at h1
    split at h1
    · simp at h1
    · cases h; cases h1
      exact ((onHif_keeps _ d).grows (by simp)).trans (postEntry_grows _ _ _ _ _ _)
  · split at h
    · cases h; exact postEntry_grows _ _ _ _ _ _
    split at h
    · cases h; exact postEntry_grows _ _ _ _ _ _
    · unfold settleDying at h
      split at h
      · simp at h
      · simp only at h
        split at h <;> cases h
        · exact .of_eq rfl
        · refine Grows.trans (b := sendMsix _ _) ?_ (Grows.trans ((onHif_keeps _ _).grows (by simp)) (postEntry_grows _ _ _ _ _ _))
          exact Grows.trans (b := { d with dma := _, cat := _ }) (.of_eq rfl) (sendMsix_grows _ _)
        · refine Grows.trans ?_ (postEntry_grows _ _ _ _ _ _)
          exact .of_eq rfl

theorem settle_grows (n : Nat) (d : Dev) : Grows d (settle n d) := by
  induction n generalizing d with
  | zero => exact .refl d
  | succ n ih =>
    unfold settle
    split
    · rename_i h; exact (settleOne_grows h).trans (ih _)
    · split
      · exact (onHif_keeps _ d).grows (by simp)
      · exact .refl d

theorem settled_grows (d : Dev) : Grows d (settled d) := settle_grows _ d

theorem complete_grows (h : Hdr) (op : Byte) (st : Nat) (r0 r1 : W64) (d : Dev) : Grows d (complete h op st r0 r1 d) := by
  unfold complete; split
  · exact (postEntry_grows _ _ _ _ _ d).trans (settled_grows _)
  · exact .refl d

theorem notifyWhere_grows (p : Nat → Bool) (r0 r1 : W64) (d : Dev) : Grows d (notifyWhere p r0 r1 d) :=
  ((onHif_keeps _ d).grows (by simp)).trans (each_grows (fun (n : Hdr × Nat) x => complete_grows n.1 4 0 r0 r1 x) _ _)

theorem logEvent_grows (c : Nat) (i : W32) (w : List W32) (d : Dev) : Grows d (logEvent c i w d) := by
  have r := recordEvent_keeps false c i w d
  unfold logEvent
  generalize recordEvent false c i w d = x at r ⊢
  obtain ⟨d1, _ | r1⟩ := x
  · exact r.grows (by simp)
  · exact (r.grows (by simp)).trans (notifyWhere_grows _ _ _ _)

theorem takeCounter_grows (p : Nat) (d : Dev) : Grows d (takeCounter p d) := by
  unfold takeCounter; simp only; split
  · exact ((setPage_keeps _ _ _).grows (by simp)).trans (logEvent_grows _ _ _ _)
  · exact (setPage_keeps _ _ _).grows (by simp)

/-! ## The entry of a completion -/

/-- A channel that lives gets the entry it is given (R261). -/
theorem writeEntry_answers (c : Nat) (x : Desc) (st : Nat) (r0 r1 : W64) (d : Dev) (ch : Chan)
    (hc : tget d.hif.chans c = some ch) (hf : d.glb.fatal = false) (hs : d.silentChan c = false) :
    ∃ ph post, (writeEntry c x st r0 r1 d).out = d.out ++ Out.completion c x.tag x.sqIndex st x.opcode r0 r1 x.dbSeq ph :: post := by
  unfold writeEntry
  rw [hc]
  simp only [hf, hs, Bool.or_self, Bool.false_eq_true, if_false]
  generalize hy : emit _ _ = y
  have o : y.out = d.out ++ [Out.completion c x.tag x.sqIndex st x.opcode r0 r1 x.dbSeq (ch.cplCount / 2 ^ ch.cqLog2 % 2 == 0)] := by
    subst hy; rfl
  split
  · obtain ⟨l, hl⟩ := sendMsix_grows ch.vector y
    exact ⟨_, l, by rw [hl, o, List.append_assoc]; rfl⟩
  · exact ⟨_, [], o⟩

theorem onChan_chan (c : Nat) (f : Chan → Chan) (d : Dev) (ch : Chan) (hc : tget d.hif.chans c = some ch) :
    tget (onChan c f d).hif.chans c = some (f ch) := by
  unfold onChan; rw [hc]; simp

theorem onChan_dying (c : Nat) (f : Chan → Chan) (d : Dev) : (onChan c f d).hif.dying = d.hif.dying := by
  unfold onChan; split <;> rfl

/-- An outstanding descriptor of a channel that is not being destroyed gets its entry, with the status given (R261, R269). -/
theorem complete_answers (h : Hdr) (op : Byte) (st : Nat) (r0 r1 : W64) (d : Dev)
    (ho : d.outstanding h.chan h.tag = true) (hd : tget d.hif.dying h.chan = none) (hf : d.glb.fatal = false) :
    Answered op h st r0 r1 d (complete h op st r0 r1 d) := by
  unfold complete
  rw [if_pos ho, hd]
  cases hc : tget d.hif.chans h.chan with
  | none => simp [Dev.outstanding, hc] at ho
  | some ch =>
    obtain ⟨ph, post, e⟩ := writeEntry_answers h.chan (descOf h op true) st r0 r1
      (onChan h.chan (fun c => { c with descs := dropTag h.tag c.descs }) d) _ (onChan_chan h.chan _ d ch hc)
      (by rw [onChan_glb]; exact hf) (by unfold Dev.silentChan; rw [onChan_dying, hd]; rfl)
    obtain ⟨l, hl⟩ := settled_grows (postEntry h.chan (descOf h op true) st r0 r1 d)
    refine ⟨[], post ++ l, ph, ?_⟩
    simp only [Option.isSome_none, Bool.false_eq_true, if_false]
    rw [hl]
    unfold postEntry
    rw [show (descOf h op true).tag = h.tag from rfl, e, onChan_out]
    simp [descOf]

/-- An entry written between two states stays written. -/
theorem Answered.around {op : Byte} {h : Hdr} {st : Nat} {r0 r1 : W64} {a b c d : Dev}
    (h1 : Grows a b) (h2 : Answered op h st r0 r1 b c) (h3 : Grows c d) : Answered op h st r0 r1 a d := by
  obtain ⟨x, hx⟩ := h1
  obtain ⟨pre, post, ph, e⟩ := h2
  obtain ⟨y, hy⟩ := h3
  exact ⟨x ++ pre, post ++ y, ph, by rw [hy, e, hx]; simp⟩

/-! ## Pickup -/

theorem markStarted_any (tag : W32) (l : List Desc) (h : l.any (·.tag == tag) = true) : (markStarted tag l).any (·.tag == tag) = true := by
  induction l with
  | nil => simp at h
  | cons x t ih =>
    unfold markStarted
    split
    · rename_i c; simp [c.1]
    · simp only [List.any_cons, Bool.or_eq_true] at h ⊢
      cases h with
      | inl a => exact .inl a
      | inr a => exact .inr (ih a)

/-- A descriptor that starts is outstanding on its channel. -/
theorem pickupWhen_outstanding (go : Bool) (h : Hdr) (op : Byte) (d : Dev) (hp : (pickupWhen go h op d).2 = true) :
    (pickupWhen go h op d).1.outstanding h.chan h.tag = true := by
  unfold pickupWhen at hp ⊢
  cases hc : tget d.hif.chans h.chan with
  | none => rw [hc] at hp; simp at hp
  | some ch =>
    rw [hc] at hp
    dsimp only at hp ⊢
    unfold Dev.outstanding
    split at hp
    · cases hp
    rename_i no
    simp only at hp
    rw [if_neg no]
    simp only [onHif_hif, tget_tput, hp, if_true]
    apply markStarted_any
    split
    · rename_i k
      simp only [List.any_eq_true] at k ⊢
      obtain ⟨x, m, hx⟩ := k
      exact ⟨x, m, by simp_all⟩
    · simp [descOf]

theorem pickupWhen_dying (go : Bool) (h : Hdr) (op : Byte) (d : Dev) : (pickupWhen go h op d).1.hif.dying = d.hif.dying := by
  unfold pickupWhen; split
  · rfl
  · dsimp only; split <;> rfl

/-- A descriptor that starts does its own meaning, on a head that differs from the one before in the host interface only, on
which it is outstanding and can be answered. -/
theorem starts_body {go : Bool} {op : Byte} {ct : List Nat} {h : Hdr} {d : Dev} (hs : StartsWhen go op ct h d) (body : Dev → Dev) :
    ∃ x, Keeps [.hif] d x ∧ x.outstanding h.chan h.tag = true ∧ tget x.hif.dying h.chan = none ∧ x.glb.fatal = false ∧
      descriptorWhen go op ct h true body d = body x := by
  obtain ⟨hp, hq, hc, hw⟩ := hs
  refine ⟨(pickupWhen go h op d).1, pickupWhen_keeps go h op d, pickupWhen_outstanding go h op d hq, ?_, ?_, ?_⟩
  · rw [pickupWhen_dying]
    unfold Dev.picksUp at hp
    simp only [Bool.and_eq_true, Option.isNone_iff_eq_none] at hp
    exact hp.1.2
  · have k := pickupWhen_keeps go h op d .glb (by simp)
    simp only [Blk.same] at k
    rw [k]
    unfold Dev.picksUp Dev.running Dev.live at hp
    simp only [Bool.and_eq_true, Bool.not_eq_true'] at hp
    exact hp.1.1.1.1.1.1.2
  · unfold descriptorWhen
    rw [if_pos hp]
    generalize pickupWhen go h op d = x at hq ⊢
    obtain ⟨d1, b⟩ := x
    simp only at hq ⊢
    subst hq
    simp only [hc, hw, Bool.and_self, if_true]

/-- A descriptor that fails a check of R260 is answered INVALID_FIELD and does nothing else. -/
theorem refuses_body {go : Bool} {op : Byte} {ct : List Nat} {h : Hdr} {d : Dev} {v : Bool} (hp : d.picksUp h.chan = true) (hq : (pickupWhen go h op d).2 = true)
    (hc : (ct.contains (d.ctype h.chan) && h.clean && v) = false) (body : Dev → Dev) :
    Answered op h 0x10 0 0 d (descriptorWhen go op ct h v body d) ∧ Keeps [.hif, .out, .cat, .dma] d (descriptorWhen go op ct h v body d) := by
  have o := pickupWhen_outstanding go h op d hq
  have k := pickupWhen_keeps go h op d
  have dy := pickupWhen_dying go h op d
  unfold descriptorWhen
  rw [if_pos hp]
  generalize pickupWhen go h op d = x at hq o k dy ⊢
  obtain ⟨d1, b⟩ := x
  simp only at hq o k dy ⊢
  subst hq
  simp only [hc]
  unfold Dev.picksUp Dev.running Dev.live at hp
  simp only [Bool.and_eq_true, Option.isNone_iff_eq_none, Bool.not_eq_true'] at hp
  have kg := k .glb (by simp)
  have ko := k .out (by simp)
  simp only [Blk.same] at kg ko
  refine ⟨?_, (k.mono (by simp)).trans ((complete_keeps _ _ _ _ _ _).mono (by simp))⟩
  have a := complete_answers h op 0x10 0 0 d1 o (by rw [dy]; exact hp.1.2) (by rw [kg]; exact hp.1.1.1.1.1.1.2)
  obtain ⟨p, q, r, e⟩ := a
  refine ⟨p, q, r, ?_⟩
  rw [← ko]; exact e

/-- A descriptor that starts and whose own meaning is to complete is answered so. -/
theorem ok_body {go : Bool} {op : Byte} {st : Nat} {r0 r1 : W64} {ct : List Nat} {h : Hdr} {d : Dev} {v : Bool} (hv : v = true) (hs : StartsWhen go op ct h d)
    {body : Dev → Dev} (hb : ∀ x, Keeps [.hif] d x → body x = complete h op st r0 r1 x) :
    Answered op h st r0 r1 d (descriptorWhen go op ct h v body d) ∧ Keeps [.hif, .out, .cat, .dma] d (descriptorWhen go op ct h v body d) := by
  subst hv
  obtain ⟨x, k, o, dy, f, e⟩ := starts_body hs body
  rw [e, hb x k]
  have ko := k .out (by simp)
  simp only [Blk.same] at ko
  refine ⟨?_, (k.mono (by simp)).trans ((complete_keeps _ _ _ _ _ _).mono (by simp))⟩
  obtain ⟨p, q, r, e⟩ := complete_answers h op st r0 r1 x o dy f
  refine ⟨p, q, r, ?_⟩
  rw [← ko]; exact e

/-- The recorder keeps the record of an event that its rate limit lets through. -/
theorem recordEvent_recorded (f : Bool) (c : Nat) (i : W32) (w : List W32) (d : Dev) : Recorded c i d (recordEvent f c i w d).1 := by
  intro h
  unfold recordEvent
  split
  · rename_i q; rw [q] at h; cases h
  · refine ⟨eventRecord d c i w, ?_, rfl, rfl, rfl⟩
    have m : ∀ l : List EvRec, eventRecord d c i w ∈ ringPush (eventRecord d c i w) l := fun l => by
      unfold ringPush; split <;> exact List.mem_append_right _ (List.mem_singleton_self _)
    have r : ∀ e : Evr, (persistQueue f (eventRecord d c i w) d.now e).ring = e.ring := fun e => by
      unfold persistQueue; simp only; (repeat' split) <;> rfl
    dsimp only
    split
    · rw [r]; exact m _
    · exact m _

end Sys2Proof.Machine
end

