-- ==== Sys2Proof/Laws/Keeps.lean ====
section
/-! SUPPORT. What the operations of the head can change: one lemma for each operation, in the form "what is known of a head `a` up
to here is known after the operation as well". The parts of the head that an operation can change are listed in its lemma. -/

namespace Sys2Proof.Machine
open Sys2Proof

variable {L : List Blk} {D : Dev}

/-- The parts in one list are all in another. -/
def Blk.sub (x y : List Blk) : Bool := x.all (fun k => y.contains k)

theorem Blk.sub_mem {x y : List Blk} (h : Blk.sub x y = true) : ∀ k ∈ x, k ∈ y := by
  intro k hk
  have := List.all_eq_true.mp h k hk
  simpa using this

theorem Blk.le {x y z : List Blk} (h : Blk.sub x y = true) (s : Blk.sub y z = true) : Blk.sub x z = true :=
  List.all_eq_true.mpr (fun k hk => by simpa using Blk.sub_mem s k (Blk.sub_mem h k hk))

theorem Keeps.step {T : List Blk} {e b : Dev} (h : Keeps T e b) (s : Blk.sub T L = true) (k : Keeps L D e) : Keeps L D b :=
  k.trans (h.mono (Blk.sub_mem s))

theorem Keeps.fstOf {α : Type} {x : Dev} {y : α} {p : Dev × α} (q : p = (x, y)) (h : Keeps L D p.1) : Keeps L D x := by
  subst q; exact h

theorem Keeps.sndOf {α : Type} {x : Dev} {y : α} {p : α × Dev} (q : p = (y, x)) (h : Keeps L D p.2) : Keeps L D x := by
  subst q; exact h

theorem getD_k {x : Dev} {p : Option Dev} (h : ∀ y, p = some y → Keeps L D y) (k : Keeps L D x) : Keeps L D (p.getD x) := by
  cases hp : p with
  | none => exact k
  | some y => exact h y hp

theorem mapGetD_k {α : Type} {d : Dev} {o : Option α} {f : α → Dev} (h : ∀ x, Keeps L D (f x)) (k : Keeps L D d) :
    Keeps L D ((o.map f).getD d) := by
  cases o with
  | none => exact k
  | some x => exact h x

theorem each_k {α : Type} {f : α → Dev → Dev} {x : List α} {d : Dev} (h : ∀ y e, Keeps L D e → Keeps L D (f y e))
    (k : Keeps L D d) : Keeps L D (each f x d) := by
  induction x generalizing d with
  | nil => exact k
  | cons b t ih => exact ih (h b d k)

theorem repeat_k {f : Dev → Dev} {n : Nat} {d : Dev} (h : ∀ e, Keeps L D e → Keeps L D (f e)) (k : Keeps L D d) :
    Keeps L D (Nat.repeat f n d) := by
  induction n with
  | zero => exact k
  | succ n ih => exact h _ ih

theorem foldl_k {α : Type} {f : Dev → α → Dev} {x : List α} {d : Dev} (h : ∀ e y, Keeps L D e → Keeps L D (f e y))
    (k : Keeps L D d) : Keeps L D (x.foldl f d) := by
  induction x generalizing d with
  | nil => exact k
  | cons b t ih => exact ih (h d b k)

theorem foldlP_k {α β : Type} {f : Dev × β → α → Dev × β} {l : List α} {p : Dev × β}
    (h : ∀ x y, Keeps L D x.1 → Keeps L D (f x y).1) (k : Keeps L D p.1) : Keeps L D (l.foldl f p).1 := by
  induction l generalizing p with
  | nil => exact k
  | cons b t ih => exact ih (h p b k)

theorem when_k {p : Bool} {f : Dev → Dev} {d : Dev} (h : Keeps L D (f d)) (k : Keeps L D d) : Keeps L D (when p f d) := by
  unfold when; split
  · exact h
  · exact k

theorem descriptorWhen_k {go : Bool} {op : Byte} {ct : List Nat} {h : Hdr} {v : Bool} {body : Dev → Dev} {d : Dev}
    (s : Blk.sub cplBlks L = true)
    (hb : ∀ x, Keeps L D x → Keeps L D (body x)) (k : Keeps L D d) : Keeps L D (descriptorWhen go op ct h v body d) := by
  have p : Keeps L D (pickupWhen go h op d).1 := k.trans ((pickupWhen_keeps go h op d).mono (fun x hx => Blk.sub_mem s x (by
    revert hx; simp; intro e; subst e; simp)))
  unfold descriptorWhen; split
  · generalize pickupWhen go h op d = y at p ⊢
    obtain ⟨d1, _ | _⟩ := y
    · exact p
    · simp only; split
      · exact hb _ p
      · exact p.trans ((complete_keeps _ _ _ _ _ _).mono (Blk.sub_mem s))
  · exact k

theorem descriptor_k {op : Byte} {ct : List Nat} {h : Hdr} {v : Bool} {body : Dev → Dev} {d : Dev}
    (s : Blk.sub cplBlks L = true)
    (hb : ∀ x, Keeps L D x → Keeps L D (body x)) (k : Keeps L D d) : Keeps L D (descriptor op ct h v body d) :=
  descriptorWhen_k s hb k

/-! ## Updates of fields -/

theorem upd_audit {e : Dev} {v_audit : Audit}
    (s : Blk.sub [.audit] L = true) (k : Keeps L D e) :
    Keeps L D { e with audit := v_audit } :=
  Keeps.step (fun x h => by cases x <;> first | rfl | simp at h) s k
theorem upd_boot {e : Dev} {v_boot : Boot}
    (s : Blk.sub [.boot] L = true) (k : Keeps L D e) :
    Keeps L D { e with boot := v_boot } :=
  Keeps.step (fun x h => by cases x <;> first | rfl | simp at h) s k
theorem upd_bpm {e : Dev} {v_bpm : Bpm}
    (s : Blk.sub [.bpm] L = true) (k : Keeps L D e) :
    Keeps L D { e with bpm := v_bpm } :=
  Keeps.step (fun x h => by cases x <;> first | rfl | simp at h) s k
theorem upd_cat {e : Dev} {v_cat : Cat}
    (s : Blk.sub [.cat] L = true) (k : Keeps L D e) :
    Keeps L D { e with cat := v_cat } :=
  Keeps.step (fun x h => by cases x <;> first | rfl | simp at h) s k
theorem upd_cat_dma {e : Dev} {v_cat : Cat} {v_dma : Dma}
    (s : Blk.sub [.cat, .dma] L = true) (k : Keeps L D e) :
    Keeps L D { e with cat := v_cat, dma := v_dma } :=
  Keeps.step (fun x h => by cases x <;> first | rfl | simp at h) s k
theorem upd_ciph {e : Dev} {v_ciph : Ciph}
    (s : Blk.sub [.ciph] L = true) (k : Keeps L D e) :
    Keeps L D { e with ciph := v_ciph } :=
  Keeps.step (fun x h => by cases x <;> first | rfl | simp at h) s k
theorem upd_dgst {e : Dev} {v_dgst : Dgst}
    (s : Blk.sub [.dgst] L = true) (k : Keeps L D e) :
    Keeps L D { e with dgst := v_dgst } :=
  Keeps.step (fun x h => by cases x <;> first | rfl | simp at h) s k
theorem upd_disk {e : Dev} {v_disk : Disk}
    (s : Blk.sub [.disk] L = true) (k : Keeps L D e) :
    Keeps L D { e with disk := v_disk } :=
  Keeps.step (fun x h => by cases x <;> first | rfl | simp at h) s k
theorem upd_dma {e : Dev} {v_dma : Dma}
    (s : Blk.sub [.dma] L = true) (k : Keeps L D e) :
    Keeps L D { e with dma := v_dma } :=
  Keeps.step (fun x h => by cases x <;> first | rfl | simp at h) s k
theorem upd_evr {e : Dev} {v_evr : Evr}
    (s : Blk.sub [.evr] L = true) (k : Keeps L D e) :
    Keeps L D { e with evr := v_evr } :=
  Keeps.step (fun x h => by cases x <;> first | rfl | simp at h) s k
theorem upd_free {e : Dev} {v_free : Nat}
    (s : Blk.sub [.free] L = true) (k : Keeps L D e) :
    Keeps L D { e with free := v_free } :=
  Keeps.step (fun x h => by cases x <;> first | rfl | simp at h) s k
theorem upd_glb {e : Dev} {v_glb : Glb}
    (s : Blk.sub [.glb] L = true) (k : Keeps L D e) :
    Keeps L D { e with glb := v_glb } :=
  Keeps.step (fun x h => by cases x <;> first | rfl | simp at h) s k
theorem upd_glb_dgst_tango {e : Dev} {v_glb : Glb} {v_dgst : Dgst} {v_tango : Tango}
    (s : Blk.sub [.glb, .dgst, .tango] L = true) (k : Keeps L D e) :
    Keeps L D { e with glb := v_glb, dgst := v_dgst, tango := v_tango } :=
  Keeps.step (fun x h => by cases x <;> first | rfl | simp at h) s k
theorem upd_glb_regs {e : Dev} {v_glb : Glb} {v_regs : Regs}
    (s : Blk.sub [.glb, .regs] L = true) (k : Keeps L D e) :
    Keeps L D { e with glb := v_glb, regs := v_regs } :=
  Keeps.step (fun x h => by cases x <;> first | rfl | simp at h) s k
theorem upd_glb_vault {e : Dev} {v_glb : Glb} {v_vault : Vault}
    (s : Blk.sub [.glb, .vault] L = true) (k : Keeps L D e) :
    Keeps L D { e with glb := v_glb, vault := v_vault } :=
  Keeps.step (fun x h => by cases x <;> first | rfl | simp at h) s k
theorem upd_hif {e : Dev} {v_hif : Hif}
    (s : Blk.sub [.hif] L = true) (k : Keeps L D e) :
    Keeps L D { e with hif := v_hif } :=
  Keeps.step (fun x h => by cases x <;> first | rfl | simp at h) s k
theorem upd_ih {e : Dev} {v_ih : IhCnt}
    (s : Blk.sub [.ih] L = true) (k : Keeps L D e) :
    Keeps L D { e with ih := v_ih } :=
  Keeps.step (fun x h => by cases x <;> first | rfl | simp at h) s k
theorem upd_lg {e : Dev} {v_lg : Four Ledger}
    (s : Blk.sub [.lg] L = true) (k : Keeps L D e) :
    Keeps L D { e with lg := v_lg } :=
  Keeps.step (fun x h => by cases x <;> first | rfl | simp at h) s k
theorem upd_mca {e : Dev} {v_mca : Mca}
    (s : Blk.sub [.mca] L = true) (k : Keeps L D e) :
    Keeps L D { e with mca := v_mca } :=
  Keeps.step (fun x h => by cases x <;> first | rfl | simp at h) s k
theorem upd_mnt {e : Dev} {v_mnt : Mnt}
    (s : Blk.sub [.mnt] L = true) (k : Keeps L D e) :
    Keeps L D { e with mnt := v_mnt } :=
  Keeps.step (fun x h => by cases x <;> first | rfl | simp at h) s k
theorem upd_now {e : Dev} {v_now : Nat}
    (s : Blk.sub [.now] L = true) (k : Keeps L D e) :
    Keeps L D { e with now := v_now } :=
  Keeps.step (fun x h => by cases x <;> first | rfl | simp at h) s k
theorem upd_now_audit {e : Dev} {v_now : Nat} {v_audit : Audit}
    (s : Blk.sub [.now, .audit] L = true) (k : Keeps L D e) :
    Keeps L D { e with now := v_now, audit := v_audit } :=
  Keeps.step (fun x h => by cases x <;> first | rfl | simp at h) s k
theorem upd_out {e : Dev} {v_out : List Out}
    (s : Blk.sub [.out] L = true) (k : Keeps L D e) :
    Keeps L D { e with out := v_out } :=
  Keeps.step (fun x h => by cases x <;> first | rfl | simp at h) s k
theorem upd_out_free_glb_vault_disk_evr_boot {e : Dev} {v_out : List Out} {v_free : Nat} {v_glb : Glb} {v_vault : Vault}
    {v_disk : Disk} {v_evr : Evr} {v_boot : Boot}
    (s : Blk.sub [.out, .free, .glb, .vault, .disk, .evr, .boot] L = true) (k : Keeps L D e) :
    Keeps L D { e with out := v_out, free := v_free, glb := v_glb, vault := v_vault, disk := v_disk, evr := v_evr, boot := v_boot } :=
  Keeps.step (fun x h => by cases x <;> first | rfl | simp at h) s k
theorem upd_pipes {e : Dev} {v_pipes : Four Pipe}
    (s : Blk.sub [.pipes] L = true) (k : Keeps L D e) :
    Keeps L D { e with pipes := v_pipes } :=
  Keeps.step (fun x h => by cases x <;> first | rfl | simp at h) s k
theorem upd_rcnt {e : Dev} {v_rcnt : RdmaCnt}
    (s : Blk.sub [.rcnt] L = true) (k : Keeps L D e) :
    Keeps L D { e with rcnt := v_rcnt } :=
  Keeps.step (fun x h => by cases x <;> first | rfl | simp at h) s k
theorem upd_rdma {e : Dev} {v_rdma : Rdma}
    (s : Blk.sub [.rdma] L = true) (k : Keeps L D e) :
    Keeps L D { e with rdma := v_rdma } :=
  Keeps.step (fun x h => by cases x <;> first | rfl | simp at h) s k
theorem upd_regs {e : Dev} {v_regs : Regs}
    (s : Blk.sub [.regs] L = true) (k : Keeps L D e) :
    Keeps L D { e with regs := v_regs } :=
  Keeps.step (fun x h => by cases x <;> first | rfl | simp at h) s k
theorem upd_repl {e : Dev} {v_repl : Tab Repl}
    (s : Blk.sub [.repl] L = true) (k : Keeps L D e) :
    Keeps L D { e with repl := v_repl } :=
  Keeps.step (fun x h => by cases x <;> first | rfl | simp at h) s k
theorem upd_sl {e : Dev} {v_sl : Sl}
    (s : Blk.sub [.sl] L = true) (k : Keeps L D e) :
    Keeps L D { e with sl := v_sl } :=
  Keeps.step (fun x h => by cases x <;> first | rfl | simp at h) s k
theorem upd_tango {e : Dev} {v_tango : Tango}
    (s : Blk.sub [.tango] L = true) (k : Keeps L D e) :
    Keeps L D { e with tango := v_tango } :=
  Keeps.step (fun x h => by cases x <;> first | rfl | simp at h) s k
theorem upd_vault {e : Dev} {v_vault : Vault}
    (s : Blk.sub [.vault] L = true) (k : Keeps L D e) :
    Keeps L D { e with vault := v_vault } :=
  Keeps.step (fun x h => by cases x <;> first | rfl | simp at h) s k
theorem upd_vault_cat_tango {e : Dev} {v_vault : Vault} {v_cat : Cat} {v_tango : Tango}
    (s : Blk.sub [.vault, .cat, .tango] L = true) (k : Keeps L D e) :
    Keeps L D { e with vault := v_vault, cat := v_cat, tango := v_tango } :=
  Keeps.step (fun x h => by cases x <;> first | rfl | simp at h) s k
theorem upd_vcnt {e : Dev} {v_vcnt : VltCnt}
    (s : Blk.sub [.vcnt] L = true) (k : Keeps L D e) :
    Keeps L D { e with vcnt := v_vcnt } :=
  Keeps.step (fun x h => by cases x <;> first | rfl | simp at h) s k

/-! ## The shared operations -/

theorem emit_k {o : Out} {d : Dev} (s : Blk.sub [.out] L = true) (k : Keeps L D d) :
    Keeps L D (emit o d) :=
  Keeps.step (emit_keeps _ _) s k
theorem emits_k {o : List Out} {d : Dev} (s : Blk.sub [.out] L = true) (k : Keeps L D d) :
    Keeps L D (emits o d) :=
  Keeps.step (emits_keeps _ _) s k
theorem drawn_k {d : Dev} (s : Blk.sub [.free] L = true) (k : Keeps L D d) :
    Keeps L D (drawn d) :=
  Keeps.step (drawn_keeps _) s k
theorem onGroup_k {g : Fin 4} {f : Group → Group} {d : Dev} (s : Blk.sub [.sl] L = true) (k : Keeps L D d) :
    Keeps L D (onGroup g f d) :=
  Keeps.step (onGroup_keeps _ _ _) s k
theorem onLedger_k {g : Fin 4} {f : Ledger → Ledger} {d : Dev} (s : Blk.sub [.lg] L = true) (k : Keeps L D d) :
    Keeps L D (onLedger g f d) :=
  Keeps.step (onLedger_keeps _ _ _) s k
theorem onPipe_k {g : Fin 4} {f : Pipe → Pipe} {d : Dev} (s : Blk.sub [.pipes] L = true) (k : Keeps L D d) :
    Keeps L D (onPipe g f d) :=
  Keeps.step (onPipe_keeps _ _ _) s k
theorem onVault_k {f : Vault → Vault} {d : Dev} (s : Blk.sub [.vault] L = true) (k : Keeps L D d) :
    Keeps L D (onVault f d) :=
  Keeps.step (onVault_keeps _ _) s k
theorem onVcnt_k {f : VltCnt → VltCnt} {d : Dev} (s : Blk.sub [.vcnt] L = true) (k : Keeps L D d) :
    Keeps L D (onVcnt f d) :=
  Keeps.step (onVcnt_keeps _ _) s k
theorem onCat_k {f : Cat → Cat} {d : Dev} (s : Blk.sub [.cat] L = true) (k : Keeps L D d) :
    Keeps L D (onCat f d) :=
  Keeps.step (onCat_keeps _ _) s k
theorem onTango_k {f : Tango → Tango} {d : Dev} (s : Blk.sub [.tango] L = true) (k : Keeps L D d) :
    Keeps L D (onTango f d) :=
  Keeps.step (onTango_keeps _ _) s k
theorem onHif_k {f : Hif → Hif} {d : Dev} (s : Blk.sub [.hif] L = true) (k : Keeps L D d) :
    Keeps L D (onHif f d) :=
  Keeps.step (onHif_keeps _ _) s k
theorem onCiph_k {f : Ciph → Ciph} {d : Dev} (s : Blk.sub [.ciph] L = true) (k : Keeps L D d) :
    Keeps L D (onCiph f d) :=
  Keeps.step (onCiph_keeps _ _) s k
theorem onMca_k {f : Mca → Mca} {d : Dev} (s : Blk.sub [.mca] L = true) (k : Keeps L D d) :
    Keeps L D (onMca f d) :=
  Keeps.step (onMca_keeps _ _) s k
theorem setPage_k {p : Nat} {v : Page} {d : Dev} (s : Blk.sub [.ciph] L = true) (k : Keeps L D d) :
    Keeps L D (setPage p v d) :=
  Keeps.step (setPage_keeps _ _ _) s k
theorem onChan_k {c : Nat} {f : Chan → Chan} {d : Dev} (s : Blk.sub [.hif] L = true) (k : Keeps L D d) :
    Keeps L D (onChan c f d) :=
  Keeps.step (onChan_keeps _ _ _) s k
theorem setJob_k {c : Nat} {j : Option Job} {d : Dev} (s : Blk.sub [.hif] L = true) (k : Keeps L D d) :
    Keeps L D (setJob c j d) :=
  Keeps.step (setJob_keeps _ _ _) s k
theorem sendMsix_k {v : Nat} {d : Dev} (s : Blk.sub [.hif, .out] L = true) (k : Keeps L D d) :
    Keeps L D (sendMsix v d) :=
  Keeps.step (sendMsix_keeps _ _) s k
theorem writeEntry_k {c : Nat} {x : Desc} {st : Nat} {r0 r1 : W64} {d : Dev}
    (s : Blk.sub [.hif, .out] L = true) (k : Keeps L D d) :
    Keeps L D (writeEntry c x st r0 r1 d) :=
  Keeps.step (writeEntry_keeps _ _ _ _ _ _) s k
theorem postEntry_k {c : Nat} {x : Desc} {st : Nat} {r0 r1 : W64} {d : Dev}
    (s : Blk.sub [.hif, .out] L = true) (k : Keeps L D d) :
    Keeps L D (postEntry c x st r0 r1 d) :=
  Keeps.step (postEntry_keeps _ _ _ _ _ _) s k
theorem settle_k {n : Nat} {d : Dev} (s : Blk.sub cplBlks L = true) (k : Keeps L D d) :
    Keeps L D (settle n d) :=
  Keeps.step (settle_keeps _ _) s k
theorem settled_k {d : Dev} (s : Blk.sub cplBlks L = true) (k : Keeps L D d) :
    Keeps L D (settled d) :=
  Keeps.step (settled_keeps _) s k
theorem complete_k {h : Hdr} {op : Byte} {st : Nat} {r0 r1 : W64} {d : Dev} (s : Blk.sub cplBlks L = true) (k : Keeps L D d) :
    Keeps L D (complete h op st r0 r1 d) :=
  Keeps.step (complete_keeps _ _ _ _ _ _) s k
theorem recordEvent_k {f : Bool} {c : Nat} {i : W32} {w : List W32} {d : Dev} (s : Blk.sub [.evr] L = true) (k : Keeps L D d) :
    Keeps L D (recordEvent f c i w d).1 :=
  Keeps.step (recordEvent_keeps _ _ _ _ _) s k
theorem notifyWhere_k {p : Nat → Bool} {r0 r1 : W64} {d : Dev} (s : Blk.sub cplBlks L = true) (k : Keeps L D d) :
    Keeps L D (notifyWhere p r0 r1 d) :=
  Keeps.step (notifyWhere_keeps _ _ _ _) s k
theorem logEvent_k {c : Nat} {i : W32} {w : List W32} {d : Dev} (s : Blk.sub logBlks L = true) (k : Keeps L D d) :
    Keeps L D (logEvent c i w d) :=
  Keeps.step (logEvent_keeps _ _ _ _) s k
theorem notifyAll_k {d : Dev} (s : Blk.sub [.hif, .out, .cat, .dma, .free] L = true) (k : Keeps L D d) :
    Keeps L D (notifyAll d) :=
  Keeps.step (notifyAll_keeps _) s k
theorem chanError_k {c : Nat} {op : Byte} {st sq : Nat} {d : Dev}
    (s : Blk.sub [.evr, .hif, .out, .cat, .dma, .free] L = true) (k : Keeps L D d) :
    Keeps L D (chanError c op st sq d) :=
  Keeps.step (chanError_keeps _ _ _ _ _) s k
theorem takeCounter_k {p : Nat} {d : Dev} (s : Blk.sub [.ciph, .evr, .hif, .out, .cat, .dma] L = true) (k : Keeps L D d) :
    Keeps L D (takeCounter p d) :=
  Keeps.step (takeCounter_keeps _ _) s k
theorem pickupWhen_k {go : Bool} {h : Hdr} {op : Byte} {d : Dev} (s : Blk.sub [.hif] L = true) (k : Keeps L D d) :
    Keeps L D (pickupWhen go h op d).1 :=
  Keeps.step (pickupWhen_keeps _ _ _ _) s k

end Sys2Proof.Machine
end

