-- ==== Sys2Proof/Laws/KeepsVault.lean ====
section
/-! SUPPORT. What the operations of these parts can change: keys, pools, takes, stripes, the vault and its drives. -/

namespace Sys2Proof.Machine
open Sys2Proof

variable {L : List Blk} {D : Dev}

/-! ## Ops -/

theorem idle_k {d : Dev} (sB : Blk.sub [.now] L = true) (kD : Keeps L D d) :
    Keeps L D (idle d) := by
  unfold idle
  with_reducible repeat' (first | exact kD | exact Blk.le (by decide) sB | assumption | split | apply upd_now | dsimp only)

theorem hostData_k {addr : Nat} {data : List Byte} {d : Dev} (sB : Blk.sub [.out] L = true) (kD : Keeps L D d) :
    Keeps L D (hostData addr data d) := by
  unfold hostData
  with_reducible repeat' (first | exact kD | exact Blk.le (by decide) sB | assumption | apply emit_k | split | dsimp only)

/-! ## Keys -/

theorem noteJob_k {j : CJob} {status : Nat} {d : Dev} (sB : Blk.sub [.ciph] L = true) (kD : Keeps L D d) :
    Keeps L D (noteJob j status d) := by
  unfold noteJob
  with_reducible repeat' (first | exact kD | exact Blk.le (by decide) sB | assumption | apply onCiph_k | split | dsimp only)

theorem endJob_k {j : CJob} {d : Dev} (sB : Blk.sub [.out, .ciph] L = true) (kD : Keeps L D d) :
    Keeps L D (endJob j d) := by
  unfold endJob
  with_reducible repeat' (first
      | exact kD | exact Blk.le (by decide) sB | assumption | apply emits_k | apply noteJob_k | apply setPage_k | split
      | dsimp only)

theorem loadKey_k {p : Nat} {key : List Byte} {salt : W32} {ctr : W64} {d : Dev}
    (sB : Blk.sub [.out, .cat, .ciph, .hif, .dma, .evr] L = true) (kD : Keeps L D d) :
    Keeps L D (loadKey p key salt ctr d) := by
  unfold loadKey
  with_reducible repeat' (first
      | exact kD | exact Blk.le (by decide) sB | assumption | apply logEvent_k | apply setPage_k | split | dsimp only)

theorem erasePage_k {p : Nat} {d : Dev} (sB : Blk.sub [.ciph] L = true) (kD : Keeps L D d) :
    Keeps L D (erasePage p d) := by
  unfold erasePage
  with_reducible repeat' (first | exact kD | exact Blk.le (by decide) sB | assumption | apply setPage_k | split | dsimp only)

theorem pageOp_k {op : Byte} {h : Hdr} {p : Nat} {v : Bool} {body : Dev → Dev} {d : Dev} (s : Blk.sub cplBlks L = true)
    (hb : ∀ x, Keeps L D x → Keeps L D (body x)) (k : Keeps L D d) : Keeps L D (pageOp op h p v body d) := descriptorWhen_k s hb k

theorem doPageAssign_k {h : Hdr} {p domain : Nat} {d : Dev}
    (sB : Blk.sub [.out, .cat, .ciph, .hif, .dma] L = true) (kD : Keeps L D d) :
    Keeps L D (doPageAssign h p domain d) := by
  unfold doPageAssign
  with_reducible repeat' (first
      | exact kD | exact Blk.le (by decide) sB | assumption | apply complete_k | apply setPage_k | split | dsimp only)

theorem doKeyLoad_k {h : Hdr} {p : Nat} {key : List Byte} {salt : W32} {ctr : W64} {d : Dev}
    (sB : Blk.sub [.out, .cat, .ciph, .hif, .dma, .evr] L = true) (kD : Keeps L D d) :
    Keeps L D (doKeyLoad h p key salt ctr d) := by
  unfold doKeyLoad
  with_reducible repeat' (first
      | exact kD | exact Blk.le (by decide) sB | assumption | apply complete_k | apply loadKey_k | split | dsimp only)

theorem doPageRekey_k {h : Hdr} {p : Nat} {key : List Byte} {salt : W32} {ctr : W64} {d : Dev}
    (sB : Blk.sub [.out, .cat, .ciph, .hif, .dma, .evr] L = true) (kD : Keeps L D d) :
    Keeps L D (doPageRekey h p key salt ctr d) := by
  unfold doPageRekey
  with_reducible repeat' (first
      | exact kD | exact Blk.le (by decide) sB | assumption | apply complete_k | apply loadKey_k | apply setPage_k | split
      | dsimp only)

theorem stopJobs_k {sel : CJob → Bool} {status : Nat} {d : Dev}
    (sB : Blk.sub [.out, .ciph] L = true) (kD : Keeps L D d) :
    Keeps L D (stopJobs sel status d) := by
  unfold stopJobs
  with_reducible repeat' (first
      | exact kD | exact Blk.le (by decide) sB | assumption | apply endJob_k | apply onCiph_k | (apply each_k; intro _ _ _)
      | split | (apply Keeps.fstOf; assumption) | dsimp only)

theorem eraseWhenIdle_k {h : Option Hdr} {p : Nat} {d : Dev}
    (sB : Blk.sub [.out, .cat, .ciph, .hif, .dma] L = true) (kD : Keeps L D d) :
    Keeps L D (eraseWhenIdle h p d) := by
  unfold eraseWhenIdle
  with_reducible repeat' (first
      | exact kD | exact Blk.le (by decide) sB | assumption | apply complete_k | apply erasePage_k | apply setPage_k
      | apply stopJobs_k | split | dsimp only)

theorem doPageErase_k {h : Hdr} {p : Nat} {d : Dev}
    (sB : Blk.sub [.out, .cat, .ciph, .hif, .dma] L = true) (kD : Keeps L D d) :
    Keeps L D (doPageErase h p d) := by
  unfold doPageErase
  with_reducible repeat' (first
      | exact kD | exact Blk.le (by decide) sB | assumption | apply complete_k | apply eraseWhenIdle_k | split | dsimp only)

theorem doPageRelease_k {h : Hdr} {p : Nat} {d : Dev}
    (sB : Blk.sub [.out, .cat, .ciph, .hif, .dma] L = true) (kD : Keeps L D d) :
    Keeps L D (doPageRelease h p d) := by
  unfold doPageRelease
  with_reducible repeat' (first
      | exact kD | exact Blk.le (by decide) sB | assumption | apply complete_k | apply setPage_k | split | dsimp only)

theorem doHkeyLoad_k {h : Hdr} {slot domain : Nat} {key : List Byte} {d : Dev}
    (sB : Blk.sub [.out, .cat, .ciph, .hif, .dma] L = true) (kD : Keeps L D d) :
    Keeps L D (doHkeyLoad h slot domain key d) := by
  unfold doHkeyLoad
  with_reducible repeat' (first
      | exact kD | exact Blk.le (by decide) sB | assumption | apply complete_k | apply onCiph_k | split | dsimp only)

theorem doHkeyErase_k {h : Hdr} {slot : Nat} {d : Dev}
    (sB : Blk.sub [.out, .cat, .ciph, .hif, .dma] L = true) (kD : Keeps L D d) :
    Keeps L D (doHkeyErase h slot d) := by
  unfold doHkeyErase
  with_reducible repeat' (first
      | exact kD | exact Blk.le (by decide) sB | assumption | apply complete_k | apply onCiph_k | split | dsimp only)

theorem extendMr_k {n : Nat} {value : List Byte} {d : Dev} (sB : Blk.sub [.dgst] L = true) (kD : Keeps L D d) :
    Keeps L D (extendMr n value d) := by
  unfold extendMr
  with_reducible repeat' (first | exact kD | exact Blk.le (by decide) sB | assumption | split | apply upd_dgst | dsimp only)

theorem doMrExtend_k {h : Hdr} {reg : Nat} {value : W384} {d : Dev}
    (sB : Blk.sub [.out, .cat, .dgst, .hif, .dma] L = true) (kD : Keeps L D d) :
    Keeps L D (doMrExtend h reg value d) := by
  unfold doMrExtend
  with_reducible repeat' (first
      | exact kD | exact Blk.le (by decide) sB | assumption | apply complete_k | apply extendMr_k | split | dsimp only)

theorem assignMr_k {n volume takeId part : Nat} {d : Dev} (sB : Blk.sub [.dgst] L = true) (kD : Keeps L D d) :
    Keeps L D (assignMr n volume takeId part d) := by
  unfold assignMr
  with_reducible repeat' (first | exact kD | exact Blk.le (by decide) sB | assumption | split | apply upd_dgst | dsimp only)

theorem freeMr_k {n : Nat} {d : Dev} (sB : Blk.sub [.dgst] L = true) (kD : Keeps L D d) :
    Keeps L D (freeMr n d) := by
  unfold freeMr
  with_reducible repeat' (first | exact kD | exact Blk.le (by decide) sB | assumption | split | apply upd_dgst | dsimp only)

theorem takeCtx_k {n : Nat} {b : Snoop} {d : Dev} (sB : Blk.sub [.dgst] L = true) (kD : Keeps L D d) :
    Keeps L D (takeCtx n b d) := by
  unfold takeCtx
  with_reducible repeat' (first | exact kD | exact Blk.le (by decide) sB | assumption | split | apply upd_dgst | dsimp only)

theorem dropCtx_k {chan : Nat} {d : Dev} (sB : Blk.sub [.dgst] L = true) (kD : Keeps L D d) :
    Keeps L D (dropCtx chan d) := by
  unfold dropCtx
  with_reducible repeat' (first | exact kD | exact Blk.le (by decide) sB | assumption | split | apply upd_dgst | dsimp only)

theorem deliverDigest_k {b : Snoop} {message : List Byte} {d : Dev}
    (sB : Blk.sub [.out, .dgst] L = true) (kD : Keeps L D d) :
    Keeps L D (deliverDigest b message d) := by
  unfold deliverDigest
  with_reducible repeat' (first
      | exact kD | exact Blk.le (by decide) sB | assumption | apply extendMr_k | apply hostData_k | split | dsimp only)

theorem snoop_k {chan : Nat} {bytes : List Byte} {d : Dev} (sB : Blk.sub [.out, .dgst] L = true) (kD : Keeps L D d) :
    Keeps L D (snoop chan bytes d) := by
  unfold snoop
  with_reducible repeat' (first
      | exact kD | exact Blk.le (by decide) sB | assumption | apply deliverDigest_k | apply takeCtx_k
      | (apply each_k; intro _ _ _) | split | (apply Keeps.fstOf; assumption) | dsimp only)

theorem endSnoop_k {chan : Nat} {d : Dev} (sB : Blk.sub [.out, .dgst] L = true) (kD : Keeps L D d) :
    Keeps L D (endSnoop chan d) := by
  unfold endSnoop
  with_reducible repeat' (first
      | exact kD | exact Blk.le (by decide) sB | assumption | apply deliverDigest_k | split | dsimp only)

theorem startJob_k {j : CJob} {d : Dev}
    (sB : Blk.sub [.out, .cat, .ciph, .hif, .dma, .evr] L = true) (kD : Keeps L D d) :
    Keeps L D (startJob j d).2 := by
  unfold startJob
  with_reducible repeat' (first
      | exact kD | exact Blk.le (by decide) sB | assumption | apply setPage_k | apply takeCounter_k | split | dsimp only)

theorem pageIdle_k {p : Nat} {d : Dev}
    (sB : Blk.sub [.out, .cat, .ciph, .hif, .dma, .evr] L = true) (kD : Keeps L D d) :
    Keeps L D (pageIdle p d) := by
  unfold pageIdle
  with_reducible repeat' (first
      | exact kD | exact Blk.le (by decide) sB | assumption | apply complete_k | apply erasePage_k | apply loadKey_k
      | apply onCiph_k | split | dsimp only)

theorem laneNext_k {lane : Fin 2} {n : Nat} {d : Dev}
    (sB : Blk.sub [.out, .cat, .ciph, .hif, .dma, .evr] L = true) (kD : Keeps L D d) :
    Keeps L D (laneNext lane n d) := by
  induction n generalizing d with
  | zero => 
    unfold laneNext
    with_reducible repeat' (first
        | exact kD | exact Blk.le (by decide) sB | assumption | apply endJob_k | apply noteJob_k | apply onCiph_k
        | apply pageIdle_k | apply startJob_k | split | (apply Keeps.sndOf; assumption) | dsimp only)
  | succ n ih =>
    unfold laneNext
    with_reducible repeat' (first
        | apply ih | exact kD | exact Blk.le (by decide) sB | assumption | apply endJob_k | apply noteJob_k | apply onCiph_k
        | apply pageIdle_k | apply startJob_k | split | (apply Keeps.sndOf; assumption) | dsimp only)

theorem kickLanes_k {d : Dev} (sB : Blk.sub [.out, .cat, .ciph, .hif, .dma, .evr] L = true) (kD : Keeps L D d) :
    Keeps L D (kickLanes d) := by
  unfold kickLanes
  with_reducible repeat' (first
      | exact kD | exact Blk.le (by decide) sB | assumption | apply laneNext_k | split | (apply Keeps.fstOf; assumption)
      | dsimp only)

theorem submitJob_k {j : CJob} {d : Dev}
    (sB : Blk.sub [.out, .cat, .ciph, .hif, .dma, .evr] L = true) (kD : Keeps L D d) :
    Keeps L D (submitJob j d) := by
  unfold submitJob
  with_reducible repeat' (first
      | exact kD | exact Blk.le (by decide) sB | assumption | apply kickLanes_k | apply noteJob_k | apply onCiph_k | split
      | dsimp only)

theorem doSegmentEnd_k {lane : Fin 2} {d : Dev}
    (sB : Blk.sub [.out, .cat, .ciph, .hif, .dma, .evr] L = true) (kD : Keeps L D d) :
    Keeps L D (doSegmentEnd lane d) := by
  unfold doSegmentEnd
  with_reducible repeat' (first
      | exact kD | exact Blk.le (by decide) sB | assumption | apply endJob_k | apply kickLanes_k | apply onCiph_k
      | apply pageIdle_k | split | dsimp only)

theorem tangoSend_k {qp : Nat} {o : Out} {d : Dev}
    (sB : Blk.sub [.out, .cat, .ciph, .hif, .tango, .dma, .evr] L = true) (kD : Keeps L D d) :
    Keeps L D (tangoSend qp o d) := by
  unfold tangoSend
  with_reducible repeat' (first
      | exact kD | exact Blk.le (by decide) sB | assumption | apply onTango_k | apply submitJob_k | split | dsimp only)

theorem tangoNow_k {qp : Nat} {o : Out} {d : Dev}
    (sB : Blk.sub [.out, .cat, .ciph, .hif, .tango, .dma, .evr] L = true) (kD : Keeps L D d) :
    Keeps L D (tangoNow qp o d) := by
  unfold tangoNow
  with_reducible repeat' (first
      | exact kD | exact Blk.le (by decide) sB | assumption | apply endJob_k | apply onTango_k | apply startJob_k | split
      | (apply Keeps.sndOf; assumption) | dsimp only)

theorem doReseed_k {inst : Nat} {d : Dev} (sB : Blk.sub [.ciph] L = true) (kD : Keeps L D d) :
    Keeps L D (doReseed inst d) := by
  unfold doReseed
  with_reducible repeat' (first | exact kD | exact Blk.le (by decide) sB | assumption | apply onCiph_k | split | dsimp only)

theorem drbgDraw_k {inst : Nat} {d : Dev} (sB : Blk.sub [.free, .ciph] L = true) (kD : Keeps L D d) :
    Keeps L D (drbgDraw inst d) := by
  unfold drbgDraw
  with_reducible repeat' (first
      | exact kD | exact Blk.le (by decide) sB | assumption | apply doReseed_k | apply drawn_k | apply onCiph_k | split
      | dsimp only)

theorem zeroise_k {d : Dev} (sB : Blk.sub [.ciph] L = true) (kD : Keeps L D d) :
    Keeps L D (zeroise d) := by
  unfold zeroise
  with_reducible repeat' (first | exact kD | exact Blk.le (by decide) sB | assumption | apply onCiph_k | split | dsimp only)

/-! ## Pools -/

theorem poolAlloc_k {n : Nat} {led : Bool} {d : Dev} (sB : Blk.sub [.bpm] L = true) (kD : Keeps L D d) :
    Keeps L D (poolAlloc n led d).1 := by
  unfold poolAlloc
  with_reducible repeat' (first | exact kD | exact Blk.le (by decide) sB | assumption | split | apply upd_bpm | dsimp only)

theorem poolFree_k {n i : Nat} {led : Bool} {d : Dev} (sB : Blk.sub [.bpm] L = true) (kD : Keeps L D d) :
    Keeps L D (poolFree n i led d) := by
  unfold poolFree
  with_reducible repeat' (first | exact kD | exact Blk.le (by decide) sB | assumption | split | apply upd_bpm | dsimp only)

theorem freeTile_k {c : Nat} {d : Dev} (sB : Blk.sub [.hif, .bpm] L = true) (kD : Keeps L D d) :
    Keeps L D (freeTile c d) := by
  unfold freeTile
  with_reducible repeat' (first
      | exact kD | exact Blk.le (by decide) sB | assumption | apply onChan_k | apply poolFree_k | split | dsimp only)

theorem setCeiling_k {c : Nat} {d : Dev} (sB : Blk.sub [.bpm] L = true) (kD : Keeps L D d) :
    Keeps L D (setCeiling c d) := by
  unfold setCeiling
  with_reducible repeat' (first | exact kD | exact Blk.le (by decide) sB | assumption | split | apply upd_bpm | dsimp only)

theorem allocCmd_k {n : Nat} {led : Bool} {d : Dev} (sB : Blk.sub [.out, .bpm] L = true) (kD : Keeps L D d) :
    Keeps L D (allocCmd n led d) := by
  unfold allocCmd
  with_reducible repeat' (first
      | exact kD | exact Blk.le (by decide) sB | assumption | apply emit_k | apply poolAlloc_k | split
      | (apply Keeps.fstOf; assumption) | dsimp only)

theorem freeCmd_k {n i : Nat} {led : Bool} {d : Dev} (sB : Blk.sub [.out, .bpm] L = true) (kD : Keeps L D d) :
    Keeps L D (freeCmd n i led d) := by
  unfold freeCmd
  with_reducible repeat' (first
      | exact kD | exact Blk.le (by decide) sB | assumption | apply emit_k | apply poolFree_k | split | dsimp only)

theorem popCmd_k {n : Nat} {d : Dev} (sB : Blk.sub [.out] L = true) (kD : Keeps L D d) :
    Keeps L D (popCmd n d) := by
  unfold popCmd
  with_reducible repeat' (first | exact kD | exact Blk.le (by decide) sB | assumption | apply emit_k | split | dsimp only)

/-! ## Vault -/

theorem onDrive_k {slot : Nat} {f : Drive → Drive} {d : Dev} (sB : Blk.sub [.vault] L = true) (kD : Keeps L D d) :
    Keeps L D (onDrive slot f d) := by
  unfold onDrive
  with_reducible repeat' (first | exact kD | exact Blk.le (by decide) sB | assumption | apply onVault_k | split | dsimp only)

theorem appendRec_k {source layout subject : Nat} {body : JBody} {st : Option GState} {d : Dev}
    (sB : Blk.sub [.out, .vault, .cat, .ciph, .hif, .tango, .mca, .dma, .evr] L = true) (kD : Keeps L D d) :
    Keeps L D (appendRec source layout subject body st d) := by
  unfold appendRec
  with_reducible repeat' (first
      | exact kD | exact Blk.le (by decide) sB | assumption | apply onVault_k | apply tangoSend_k | split | apply upd_mca
      | dsimp only)

theorem appendDurable_k {j : Nat} {d : Dev}
    (sB : Blk.sub [.out, .vault, .cat, .ciph, .hif, .tango, .mca, .dma, .evr] L = true) (kD : Keeps L D d) :
    Keeps L D (appendDurable j d) := by
  unfold appendDurable
  with_reducible repeat' (first
      | exact kD | exact Blk.le (by decide) sB | assumption | apply appendRec_k | apply onVault_k | split | dsimp only)

theorem holdHead_k {d : Dev} (sB : Blk.sub [.out, .glb, .vault, .cat, .hif, .dma] L = true) (kD : Keeps L D d) :
    Keeps L D (holdHead d) := by
  unfold holdHead
  with_reducible repeat' (first
      | exact kD | exact Blk.le (by decide) sB | assumption | apply complete_k | split | apply upd_glb_vault | dsimp only)

theorem writeBodies_k {d : Dev} (sB : Blk.sub [.out, .glb, .vault, .cat, .hif, .dma] L = true) (kD : Keeps L D d) :
    Keeps L D (writeBodies d) := by
  unfold writeBodies
  with_reducible repeat' (first
      | exact kD | exact Blk.le (by decide) sB | assumption | apply emits_k | apply holdHead_k | apply onVault_k | split
      | dsimp only)

theorem writeHeaders_k {d : Dev} (sB : Blk.sub [.out, .vault] L = true) (kD : Keeps L D d) :
    Keeps L D (writeHeaders d) := by
  unfold writeHeaders
  with_reducible repeat' (first
      | exact kD | exact Blk.le (by decide) sB | assumption | apply emits_k | apply onVault_k | split | dsimp only)

theorem endDump_k {d : Dev} (sB : Blk.sub [.out, .glb, .vault, .cat, .hif, .dma] L = true) (kD : Keeps L D d) :
    Keeps L D (endDump d) := by
  unfold endDump
  with_reducible repeat' (first
      | exact kD | exact Blk.le (by decide) sB | assumption | apply holdHead_k | split | dsimp only)

theorem haltHead_k {d : Dev}
    (sB : Blk.sub [.out, .glb, .cat, .ciph, .dgst, .hif, .tango, .dma, .evr] L = true) (kD : Keeps L D d) :
    Keeps L D (haltHead d) := by
  unfold haltHead
  with_reducible repeat' (first
      | exact kD | exact Blk.le (by decide) sB | assumption | apply emit_k | apply tangoNow_k | apply zeroise_k | split
      | apply upd_glb_dgst_tango | dsimp only)

theorem fatalRecord_k {code : Nat} {inst : W32} {words : List W32} {d : Dev}
    (sB : Blk.sub [.evr] L = true) (kD : Keeps L D d) :
    Keeps L D (fatalRecord code inst words d) := by
  unfold fatalRecord
  with_reducible repeat' (first
      | exact kD | exact Blk.le (by decide) sB | assumption | apply recordEvent_k | split | (apply Keeps.fstOf; assumption)
      | dsimp only)

theorem fatalStop_k {code : Nat} {inst : W32} {words : List W32} {noDump : Bool} {d : Dev}
    (sB : Blk.sub [.out, .glb, .vault, .cat, .ciph, .dgst, .hif, .tango, .dma, .evr] L = true) (kD : Keeps L D d) :
    Keeps L D (fatalStop code inst words noDump d) := by
  unfold fatalStop
  with_reducible repeat' (first
      | exact kD | exact Blk.le (by decide) sB | assumption | apply fatalRecord_k | apply haltHead_k | apply onVault_k
      | apply writeBodies_k | split | dsimp only)

/-! ## Takes -/

theorem onVolume_k {id : Nat} {f : Volume → Volume} {d : Dev} (sB : Blk.sub [.cat] L = true) (kD : Keeps L D d) :
    Keeps L D (onVolume id f d) := by
  unfold onVolume
  with_reducible repeat' (first | exact kD | exact Blk.le (by decide) sB | assumption | apply onCat_k | split | dsimp only)

theorem onTake_k {v id : Nat} {f : Take → Take} {d : Dev} (sB : Blk.sub [.cat] L = true) (kD : Keeps L D d) :
    Keeps L D (onTake v id f d) := by
  unfold onTake
  with_reducible repeat' (first | exact kD | exact Blk.le (by decide) sB | assumption | apply onCat_k | split | dsimp only)

theorem onPart_k {v id p : Nat} {f : Part → Part} {d : Dev} (sB : Blk.sub [.cat] L = true) (kD : Keeps L D d) :
    Keeps L D (onPart v id p f d) := by
  unfold onPart
  with_reducible repeat' (first | exact kD | exact Blk.le (by decide) sB | assumption | apply onTake_k | split | dsimp only)

theorem extendTiles_k {v id p : Nat} {es : List Entry} {d : Dev}
    (sB : Blk.sub [.cat, .dgst] L = true) (kD : Keeps L D d) :
    Keeps L D (extendTiles v id p es d) := by
  unfold extendTiles
  with_reducible repeat' (first
      | exact kD | exact Blk.le (by decide) sB | assumption | apply extendMr_k | apply onPart_k
      | (apply foldl_k; intro _ _ _) | split | (apply foldlP_k; intro _ _ _) | dsimp only)

theorem beginChain_k {v id p : Nat} {link : Option (W384 × Nat)} {d : Dev}
    (sB : Blk.sub [.cat, .dgst] L = true) (kD : Keeps L D d) :
    Keeps L D (beginChain v id p link d) := by
  unfold beginChain
  with_reducible repeat' (first
      | exact kD | exact Blk.le (by decide) sB | assumption | apply assignMr_k | apply extendMr_k | apply extendTiles_k
      | apply onPart_k | split | (apply mapGetD_k; intro _) | dsimp only)

theorem openChain_k {v id p : Nat} {d : Dev} (sB : Blk.sub [.cat, .dgst] L = true) (kD : Keeps L D d) :
    Keeps L D (openChain v id p d) := by
  unfold openChain
  with_reducible repeat' (first
      | exact kD | exact Blk.le (by decide) sB | assumption | apply beginChain_k | split | dsimp only)

theorem settleChains_k {d : Dev} (sB : Blk.sub [.cat, .dgst] L = true) (kD : Keeps L D d) :
    Keeps L D (settleChains d) := by
  unfold settleChains
  with_reducible repeat' (first
      | exact kD | exact Blk.le (by decide) sB | assumption | apply beginChain_k | (apply foldl_k; intro _ _ _) | split
      | (apply foldlP_k; intro _ _ _) | dsimp only)

theorem sealPart_k {v id p : Nat} {d : Dev} (sB : Blk.sub [.free, .cat, .ciph, .dgst] L = true) (kD : Keeps L D d) :
    Keeps L D (sealPart v id p d) := by
  unfold sealPart
  with_reducible repeat' (first
      | exact kD | exact Blk.le (by decide) sB | assumption | apply drbgDraw_k | apply extendMr_k | apply onPart_k | split
      | dsimp only)

/-! ## Ledger -/

theorem fitCeiling_k {d : Dev} (sB : Blk.sub [.bpm] L = true) (kD : Keeps L D d) :
    Keeps L D (fitCeiling d) := by
  unfold fitCeiling
  with_reducible repeat' (first
      | exact kD | exact Blk.le (by decide) sB | assumption | apply setCeiling_k | split | (apply mapGetD_k; intro _)
      | dsimp only)

theorem refreshLimit_k {g : Fin 4} {d : Dev} (sB : Blk.sub [.sl, .lg] L = true) (kD : Keeps L D d) :
    Keeps L D (refreshLimit g d) := by
  unfold refreshLimit
  with_reducible repeat' (first
      | exact kD | exact Blk.le (by decide) sB | assumption | apply onGroup_k | apply onLedger_k | split | dsimp only)

theorem dropHeal_k {g : Fin 4} {gsn : W32} {d : Dev} (sB : Blk.sub [.lg] L = true) (kD : Keeps L D d) :
    Keeps L D (dropHeal g gsn d) := by
  unfold dropHeal
  with_reducible repeat' (first
      | exact kD | exact Blk.le (by decide) sB | assumption | apply onLedger_k | split | dsimp only)

theorem askHeal_k {g : Fin 4} {run : List W32} {d : Dev}
    (sB : Blk.sub [.out, .lg, .cat, .ciph, .hif, .tango, .dma, .evr] L = true) (kD : Keeps L D d) :
    Keeps L D (askHeal g run d) := by
  unfold askHeal
  with_reducible repeat' (first
      | exact kD | exact Blk.le (by decide) sB | assumption | apply onLedger_k | apply onTango_k | apply tangoSend_k | split
      | (apply mapGetD_k; intro _) | dsimp only)

theorem openGap_k {g : Fin 4} {n : Nat} {d : Dev}
    (sB : Blk.sub [.out, .lg, .cat, .ciph, .hif, .tango, .dma, .evr] L = true) (kD : Keeps L D d) :
    Keeps L D (openGap g n d) := by
  unfold openGap
  with_reducible repeat' (first
      | exact kD | exact Blk.le (by decide) sB | assumption | apply askHeal_k | apply dropHeal_k | apply onLedger_k
      | (apply each_k; intro _ _ _) | split | (apply Keeps.fstOf; assumption) | dsimp only)

/-! ## Alloc -/

theorem claimPeriod_k {l : LayoutRec} {d : Dev}
    (sB : Blk.sub [.out, .vault, .cat, .ciph, .hif, .tango, .mca, .dma, .evr] L = true) (kD : Keeps L D d) :
    Keeps L D (claimPeriod l d) := by
  unfold claimPeriod
  with_reducible repeat' (first
      | exact kD | exact Blk.le (by decide) sB | assumption | apply appendRec_k | apply onVault_k | split | dsimp only)

theorem setRemap_k {r : Remap} {d : Dev} (sB : Blk.sub [.vault] L = true) (kD : Keeps L D d) :
    Keeps L D (setRemap r d) := by
  unfold setRemap
  with_reducible repeat' (first | exact kD | exact Blk.le (by decide) sB | assumption | apply onVault_k | split | dsimp only)

theorem allocStripe_k {l : LayoutRec} {d : Dev}
    (sB : Blk.sub [.out, .vault, .cat, .ciph, .hif, .tango, .mca, .dma, .evr] L = true) (kD : Keeps L D d) :
    Keeps L D (allocStripe l d).1 := by
  unfold allocStripe
  with_reducible repeat' (first
      | exact kD | exact Blk.le (by decide) sB | assumption | apply claimPeriod_k | apply onVault_k | split | dsimp only)

theorem freeStripe_k {e : Nat × Nat} {d : Dev} (sB : Blk.sub [.vault] L = true) (kD : Keeps L D d) :
    Keeps L D (freeStripe e d) := by
  unfold freeStripe
  with_reducible repeat' (first | exact kD | exact Blk.le (by decide) sB | assumption | apply onVault_k | split | dsimp only)

theorem allocBuffers_k {d : Dev} (sB : Blk.sub [.bpm] L = true) (kD : Keeps L D d) :
    Keeps L D (allocBuffers d).1 := by
  unfold allocBuffers
  with_reducible repeat' (first
      | exact kD | exact Blk.le (by decide) sB | assumption | apply poolAlloc_k | apply poolFree_k | split
      | (apply Keeps.fstOf; assumption) | dsimp only)

theorem freeBuffers_k {sb : StripeBuf} {d : Dev} (sB : Blk.sub [.bpm] L = true) (kD : Keeps L D d) :
    Keeps L D (freeBuffers sb d) := by
  unfold freeBuffers
  with_reducible repeat' (first
      | exact kD | exact Blk.le (by decide) sB | assumption | apply poolFree_k | split | dsimp only)

theorem makeTile_k {g : Fin 4} {t : Take} {seq : W64} {format : W16} {flags : Nat} {geo : Option TileGeo} {raw : List Byte}
    {d : Dev}
    (sB : Blk.sub [.free, .ciph] L = true) (kD : Keeps L D d) :
    Keeps L D (makeTile g t seq format flags geo raw d).2 := by
  unfold makeTile
  with_reducible repeat' (first
      | exact kD | exact Blk.le (by decide) sB | assumption | apply drbgDraw_k | split | dsimp only)

theorem remapMember_k {l : LayoutRec} {s k : Nat} {d : Dev}
    {y : Dev} (q : remapMember l s k d = some y) (sB : Blk.sub [.out, .vault, .cat, .ciph, .hif, .tango, .mca, .dma,
      .evr] L = true) (kD : Keeps L D d) :
    Keeps L D y := by
  unfold remapMember at q
  try dsimp only at q
  repeat' (first | (cases q; done) | split at q | (simp only [Option.map_eq_some_iff] at q; obtain ⟨_, _, q⟩ := q))
  all_goals try cases q
  all_goals with_reducible repeat' (first
      | exact kD | exact Blk.le (by decide) sB | assumption | apply appendRec_k | apply setRemap_k | split | dsimp only)

theorem spareOut_k {slot layout : Nat} {d : Dev}
    (sB : Blk.sub [.out, .vault, .cat, .hif, .dma, .evr] L = true) (kD : Keeps L D d) :
    Keeps L D (spareOut slot layout d) := by
  unfold spareOut
  with_reducible repeat' (first
      | exact kD | exact Blk.le (by decide) sB | assumption | apply logEvent_k | apply onVault_k | split | dsimp only)

/-! ## Reel -/

theorem onReel_k {v id : Nat} {f : ReelSt → ReelSt} {d : Dev} (sB : Blk.sub [.cat] L = true) (kD : Keeps L D d) :
    Keeps L D (onReel v id f d) := by
  unfold onReel
  with_reducible repeat' (first | exact kD | exact Blk.le (by decide) sB | assumption | apply onTake_k | split | dsimp only)

theorem pinStripes_k {l : LayoutRec} {v id : Nat} {ss : List Nat} {d : Dev}
    (sB : Blk.sub [.out, .vault, .cat, .ciph, .hif, .tango, .mca, .dma, .evr] L = true) (kD : Keeps L D d) :
    Keeps L D (pinStripes l v id ss d) := by
  unfold pinStripes
  with_reducible repeat' (first
      | exact kD | exact Blk.le (by decide) sB | assumption | apply allocStripe_k | apply onReel_k
      | (apply foldl_k; intro _ _ _) | split | (apply Keeps.fstOf; assumption) | (apply foldlP_k; intro _ _ _) | dsimp only)

theorem pinWindow_k {l : LayoutRec} {v id lo hi : Nat} {d : Dev}
    {y : Dev} {z : List (Nat × Nat)} (q : pinWindow l v id lo hi d = some (y, z)) (sB : Blk.sub [.out, .vault, .cat, .ciph,
      .hif, .tango, .mca, .dma, .evr] L = true) (kD : Keeps L D d) :
    Keeps L D y := by
  unfold pinWindow at q
  try dsimp only at q
  repeat' (first | (cases q; done) | split at q | (simp only [Option.map_eq_some_iff] at q; obtain ⟨_, _, q⟩ := q) | (simp only [Option.bind_eq_some_iff] at q; obtain ⟨_, _, q⟩ := q))
  all_goals try cases q
  all_goals with_reducible repeat' (first
      | exact kD | exact Blk.le (by decide) sB | assumption | apply pinStripes_k | split | dsimp only)

theorem pinTrigger_k {l : LayoutRec} {t : Take} {time : W64} {d : Dev}
    (sB : Blk.sub [.out, .vault, .cat, .ciph, .hif, .tango, .mca, .dma, .evr] L = true) (kD : Keeps L D d) :
    Keeps L D (pinTrigger l t time d).1 := by
  unfold pinTrigger
  with_reducible repeat' (first
      | exact kD | exact Blk.le (by decide) sB | assumption | apply onReel_k | (apply pinWindow_k; assumption) | split
      | dsimp only)

theorem takeTrigger_k {t : Take} {source group : Nat} {trigId : W32} {srcField : W16} {time : Option W64} {place : W32}
    {d : Dev}
    (sB : Blk.sub [.out, .glb, .vault, .cat, .ciph, .hif, .tango, .mca, .dma, .evr] L = true) (kD : Keeps L D d) :
    Keeps L D (takeTrigger t source group trigId srcField time place d) := by
  unfold takeTrigger
  with_reducible repeat' (first
      | exact kD | exact Blk.le (by decide) sB | assumption | apply logEvent_k | apply onTake_k | apply pinTrigger_k
      | apply tangoSend_k | split | apply upd_glb | (apply Keeps.fstOf; assumption) | (apply mapGetD_k; intro _) | dsimp only)

theorem pinCommitted_k {l : LayoutRec} {v id : Nat} {d : Dev}
    (sB : Blk.sub [.out, .vault, .cat, .ciph, .hif, .tango, .mca, .dma, .evr] L = true) (kD : Keeps L D d) :
    Keeps L D (pinCommitted l v id d) := by
  unfold pinCommitted
  with_reducible repeat' (first
      | exact kD | exact Blk.le (by decide) sB | assumption | apply onReel_k | apply pinStripes_k | split | dsimp only)

theorem onSegment_k {v id seg : Nat} {f : Segment → Segment} {d : Dev}
    (sB : Blk.sub [.cat] L = true) (kD : Keeps L D d) :
    Keeps L D (onSegment v id seg f d) := by
  unfold onSegment
  with_reducible repeat' (first | exact kD | exact Blk.le (by decide) sB | assumption | apply onReel_k | split | dsimp only)

theorem fixSegment_k {v id seg : Nat} {cut : Bool} {d : Dev} (sB : Blk.sub [.cat] L = true) (kD : Keeps L D d) :
    Keeps L D (fixSegment v id seg cut d) := by
  unfold fixSegment
  with_reducible repeat' (first
      | exact kD | exact Blk.le (by decide) sB | assumption | apply onSegment_k | split | dsimp only)

theorem pageSegment_k {v id seg : Nat} {d : Dev} (sB : Blk.sub [.cat] L = true) (kD : Keeps L D d) :
    Keeps L D (pageSegment v id seg d) := by
  unfold pageSegment
  with_reducible repeat' (first
      | exact kD | exact Blk.le (by decide) sB | assumption | apply onSegment_k | apply onTake_k | split | dsimp only)

theorem sealSegment_k {v id seg : Nat} {d : Dev}
    (sB : Blk.sub [.free, .cat, .ciph, .dgst] L = true) (kD : Keeps L D d) :
    Keeps L D (sealSegment v id seg d) := by
  unfold sealSegment
  with_reducible repeat' (first
      | exact kD | exact Blk.le (by decide) sB | assumption | apply assignMr_k | apply drawn_k | apply drbgDraw_k
      | apply extendMr_k | apply onSegment_k | apply onTake_k | (apply foldl_k; intro _ _ _) | split
      | (apply mapGetD_k; intro _) | (apply foldlP_k; intro _ _ _) | dsimp only)

theorem freeSegment_k {v id seg : Nat} {d : Dev} (sB : Blk.sub [.cat, .dgst] L = true) (kD : Keeps L D d) :
    Keeps L D (freeSegment v id seg d) := by
  unfold freeSegment
  with_reducible repeat' (first
      | exact kD | exact Blk.le (by decide) sB | assumption | apply freeMr_k | apply onSegment_k | split | dsimp only)

theorem stepSegment_k {v id seg : Nat} {d : Dev}
    (sB : Blk.sub [.free, .cat, .ciph, .dgst] L = true) (kD : Keeps L D d) :
    Keeps L D (stepSegment v id seg d) := by
  unfold stepSegment
  with_reducible repeat' (first
      | exact kD | exact Blk.le (by decide) sB | assumption | apply fixSegment_k | apply freeSegment_k | apply pageSegment_k
      | apply sealSegment_k | split | (apply mapGetD_k; intro _) | dsimp only)

theorem closeSegments_k {v id : Nat} {d : Dev}
    (sB : Blk.sub [.free, .cat, .ciph, .dgst] L = true) (kD : Keeps L D d) :
    Keeps L D (closeSegments v id d) := by
  unfold closeSegments
  with_reducible repeat' (first
      | exact kD | exact Blk.le (by decide) sB | assumption | apply stepSegment_k | (apply foldl_k; intro _ _ _) | split
      | (apply foldlP_k; intro _ _ _) | dsimp only)

theorem dropStripes_k {l : LayoutRec} {t : Take} {ss : List Nat} {d : Dev}
    (sB : Blk.sub [.cat] L = true) (kD : Keeps L D d) :
    Keeps L D (dropStripes l t ss d) := by
  unfold dropStripes
  with_reducible repeat' (first
      | exact kD | exact Blk.le (by decide) sB | assumption | apply onCat_k | apply onTake_k | (apply foldl_k; intro _ _ _)
      | split | (apply foldlP_k; intro _ _ _) | dsimp only)

theorem reelNext_k {l : LayoutRec} {t : Take} {d : Dev} (sB : Blk.sub [.cat] L = true) (kD : Keeps L D d) :
    Keeps L D (reelNext l t d).1 := by
  unfold reelNext
  with_reducible repeat' (first
      | exact kD | exact Blk.le (by decide) sB | assumption | apply dropStripes_k | apply onReel_k | split | dsimp only)

theorem allocRing_k {l : LayoutRec} {n : Nat} {acc : List (Nat × Nat)} {d : Dev}
    (s : Blk.sub [.out, .vault, .cat, .ciph, .hif, .tango, .mca, .dma, .evr] L = true) (k : Keeps L D d) :
    Keeps L D (allocRing l n acc d).1 := by
  induction n generalizing acc d with
  | zero => exact k
  | succ n ih =>
    unfold allocRing
    with_reducible repeat' (first
        | exact k | exact Blk.le (by decide) s | apply ih | apply allocStripe_k | split | (apply Keeps.fstOf; assumption))

/-! ## Disk -/

theorem learnLabel_k {sys : List (Nat × List Byte)} {d : Dev} (sB : Blk.sub [.vault] L = true) (kD : Keeps L D d) :
    Keeps L D (learnLabel sys d) := by
  unfold learnLabel
  with_reducible repeat' (first | exact kD | exact Blk.le (by decide) sB | assumption | apply onVault_k | split | dsimp only)

theorem writeLabels_k {slots : List Nat} {d : Dev} (sB : Blk.sub [.out, .vault, .disk] L = true) (kD : Keeps L D d) :
    Keeps L D (writeLabels slots d) := by
  unfold writeLabels
  with_reducible repeat' (first
      | exact kD | exact Blk.le (by decide) sB | assumption | apply emits_k | apply onVault_k | split | apply upd_disk
      | dsimp only)

theorem persistProgress_k {l : LayoutRec} {d : Dev} (sB : Blk.sub [.out, .vault, .disk] L = true) (kD : Keeps L D d) :
    Keeps L D (persistProgress l d) := by
  unfold persistProgress
  with_reducible repeat' (first
      | exact kD | exact Blk.le (by decide) sB | assumption | apply emits_k | apply onVault_k | split | apply upd_disk
      | dsimp only)

theorem resumeProgress_k {reads : List (List (Nat × List Byte))} {l : LayoutRec} {d : Dev}
    (sB : Blk.sub [.out, .vault, .disk] L = true) (kD : Keeps L D d) :
    Keeps L D (resumeProgress reads l d) := by
  unfold resumeProgress
  with_reducible repeat' (first
      | exact kD | exact Blk.le (by decide) sB | assumption | apply emits_k | apply onVault_k | apply persistProgress_k
      | split | dsimp only)

/-! ## Sectors -/

theorem countPi_k {slot n : Nat} {d : Dev} (sB : Blk.sub [.vault] L = true) (kD : Keeps L D d) :
    Keeps L D (countPi slot n d) := by
  unfold countPi
  with_reducible repeat' (first | exact kD | exact Blk.le (by decide) sB | assumption | apply onDrive_k | split | dsimp only)

theorem countStripe_k {l : LayoutRec} {s : Nat} {app : W16} {m : List (List SecRead)} {d : Dev}
    (sB : Blk.sub [.vault] L = true) (kD : Keeps L D d) :
    Keeps L D (countStripe l s app m d) := by
  unfold countStripe
  with_reducible repeat' (first
      | exact kD | exact Blk.le (by decide) sB | assumption | apply countPi_k | (apply foldl_k; intro _ _ _) | split
      | (apply foldlP_k; intro _ _ _) | dsimp only)

theorem owe_k {w : WriteBack} {d : Dev} (sB : Blk.sub [.vault] L = true) (kD : Keeps L D d) :
    Keeps L D (owe w d) := by
  unfold owe
  with_reducible repeat' (first | exact kD | exact Blk.le (by decide) sB | assumption | apply onVault_k | split | dsimp only)

theorem oweSector_k {counts : Bool} {l : LayoutRec} {app : W16} {s k i : Nat} {data : List Byte} {d : Dev}
    (sB : Blk.sub [.vault] L = true) (kD : Keeps L D d) :
    Keeps L D (oweSector counts l app s k i data d) := by
  unfold oweSector
  with_reducible repeat' (first | exact kD | exact Blk.le (by decide) sB | assumption | apply owe_k | split | dsimp only)

theorem oweStrip_k {counts : Bool} {l : LayoutRec} {app : W16} {s k : Nat} {data : List Byte} {d : Dev}
    (sB : Blk.sub [.vault] L = true) (kD : Keeps L D d) :
    Keeps L D (oweStrip counts l app s k data d) := by
  unfold oweStrip
  with_reducible repeat' (first
      | exact kD | exact Blk.le (by decide) sB | assumption | apply oweSector_k | (apply foldl_k; intro _ _ _) | split
      | (apply foldlP_k; intro _ _ _) | dsimp only)

theorem oweRows_k {counts : Bool} {l : LayoutRec} {app : W16} {s : Nat} {m : StripeData} {d : Dev}
    (sB : Blk.sub [.vault] L = true) (kD : Keeps L D d) :
    Keeps L D (oweRows counts l app s m d) := by
  unfold oweRows
  with_reducible repeat' (first
      | exact kD | exact Blk.le (by decide) sB | assumption | apply oweSector_k | (apply foldl_k; intro _ _ _) | split
      | (apply foldlP_k; intro _ _ _) | dsimp only)

theorem loseTile_k {l : LayoutRec} {t : Take} {d : Dev} {e : Entry}
    (s : Blk.sub [.out, .cat, .hif, .dma, .evr] L = true) (k : Keeps L D d) :
    Keeps L D (loseTile l t d e) := by
  unfold loseTile
  with_reducible repeat' (first
      | exact k | exact Blk.le (by decide) s | assumption | apply logEvent_k | apply onTake_k | split | dsimp only)

theorem recordLoss_k {x : Nat × Nat × BitVec 18} {d : Dev}
    (sB : Blk.sub [.out, .vault, .vcnt, .cat, .ciph, .hif, .tango, .mca, .dma, .evr] L = true) (kD : Keeps L D d) :
    Keeps L D (recordLoss x d) := by
  unfold recordLoss
  with_reducible repeat' (first
      | exact kD | exact Blk.le (by decide) sB | assumption | apply appendRec_k | apply onVault_k | apply onVcnt_k | split
      | dsimp only)

theorem loseStripe_k {l : LayoutRec} {s : Nat} {lost : List Nat} {d : Dev}
    (sB : Blk.sub [.out, .vault, .vcnt, .cat, .ciph, .hif, .tango, .mca, .dma, .evr] L = true) (kD : Keeps L D d) :
    Keeps L D (loseStripe l s lost d) := by
  unfold loseStripe
  with_reducible repeat' (first
      | exact kD | exact Blk.le (by decide) sB | assumption | apply logEvent_k | apply loseTile_k | apply onVault_k
      | apply recordLoss_k | (apply foldl_k; intro _ _ _) | split | (apply Keeps.fstOf; assumption)
      | (apply mapGetD_k; intro _) | (apply foldlP_k; intro _ _ _) | dsimp only)

theorem recordLosses_k {d : Dev}
    (sB : Blk.sub [.out, .vault, .vcnt, .cat, .ciph, .hif, .tango, .mca, .dma, .evr] L = true) (kD : Keeps L D d) :
    Keeps L D (recordLosses d) := by
  unfold recordLosses
  with_reducible repeat' (first
      | exact kD | exact Blk.le (by decide) sB | assumption | apply onVault_k | apply recordLoss_k
      | (apply each_k; intro _ _ _) | split | (apply Keeps.fstOf; assumption) | dsimp only)

/-! ## Stripes -/

theorem undoStripe_k {e : Nat × Nat} {d : Dev} (sB : Blk.sub [.vault] L = true) (kD : Keeps L D d) :
    Keeps L D (undoStripe e d) := by
  unfold undoStripe
  with_reducible repeat' (first | exact kD | exact Blk.le (by decide) sB | assumption | apply onVault_k | split | dsimp only)

theorem freshStripe_k {l : LayoutRec} {t : Take} {part source group : Nat} {gsn : W32} {d : Dev}
    (sB : Blk.sub [.out, .vault, .cat, .ciph, .hif, .tango, .bpm, .mca, .dma, .evr] L = true) (kD : Keeps L D d) :
    Keeps L D (freshStripe l t part source group gsn d).1 := by
  unfold freshStripe
  with_reducible repeat' (first
      | exact kD | exact Blk.le (by decide) sB | assumption | apply allocBuffers_k | apply allocStripe_k | apply reelNext_k
      | apply undoStripe_k | split | (apply Keeps.fstOf; assumption) | dsimp only)

theorem setStripe_k {g : Fin 4} {sb : Option StripeBuf} {d : Dev}
    (sB : Blk.sub [.pipes] L = true) (kD : Keeps L D d) :
    Keeps L D (setStripe g sb d) := by
  unfold setStripe
  with_reducible repeat' (first | exact kD | exact Blk.le (by decide) sB | assumption | apply onPipe_k | split | dsimp only)

theorem needStripe_k {g : Fin 4} {t : Take} {part : Nat} {gsn : W32} {d : Dev}
    (sB : Blk.sub [.out, .pipes, .vault, .cat, .ciph, .hif, .tango, .bpm, .mca, .dma, .evr] L = true) (kD : Keeps L D d) :
    Keeps L D (needStripe g t part gsn d).1 := by
  unfold needStripe
  with_reducible repeat' (first
      | exact kD | exact Blk.le (by decide) sB | assumption | apply freshStripe_k | apply setStripe_k | split
      | (apply Keeps.fstOf; assumption) | dsimp only)

theorem placeMeta_k {g : Fin 4} {l : LayoutRec} {t : Take} {part : Nat} {x : StripeBuf × Dev} {recs : List MetaRec}
    (s : Blk.sub [.free, .pipes, .cat, .ciph] L = true) (k : Keeps L D x.2) : Keeps L D (placeMeta g l t part x recs).2 := by
  unfold placeMeta
  with_reducible repeat' (first
      | exact k | exact Blk.le (by decide) s | assumption | apply makeTile_k | apply onPart_k | apply onPipe_k
      | apply onTake_k | split | (apply Keeps.sndOf; assumption) | (apply mapGetD_k; intro _) | dsimp only)

theorem placeAllMeta_k {g : Fin 4} {l : LayoutRec} {t : Take} {part : Nat} {sb : StripeBuf} {d : Dev}
    (s : Blk.sub [.free, .pipes, .cat, .ciph] L = true) (k : Keeps L D d) : Keeps L D (placeAllMeta g l t part sb d).2 := by
  have h : ∀ (r : List (List MetaRec)) (x : StripeBuf × Dev), Keeps L D x.2 → Keeps L D (r.foldl (placeMeta g l t part) x).2 := by
    intro r
    induction r with
    | nil => intro x k; exact k
    | cons b r ih => intro x k; exact ih _ (placeMeta_k s k)
  exact h _ (sb, d) k

theorem backlogRule_k {d : Dev} (sB : Blk.sub [.vault] L = true) (kD : Keeps L D d) :
    Keeps L D (backlogRule d) := by
  unfold backlogRule
  with_reducible repeat' (first | exact kD | exact Blk.le (by decide) sB | assumption | apply onVault_k | split | dsimp only)

theorem queueStripe_k {sb : StripeBuf} {d : Dev} (sB : Blk.sub [.vault] L = true) (kD : Keeps L D d) :
    Keeps L D (queueStripe sb d) := by
  unfold queueStripe
  with_reducible repeat' (first
      | exact kD | exact Blk.le (by decide) sB | assumption | apply backlogRule_k | apply onVault_k | split | dsimp only)

theorem sealPipe_k {g : Fin 4} {d : Dev}
    (sB : Blk.sub [.free, .pipes, .vault, .cat, .ciph] L = true) (kD : Keeps L D d) :
    Keeps L D (sealPipe g d) := by
  unfold sealPipe
  with_reducible repeat' (first
      | exact kD | exact Blk.le (by decide) sB | assumption | apply onPipe_k | apply placeAllMeta_k | apply queueStripe_k
      | split | (apply Keeps.sndOf; assumption) | (apply mapGetD_k; intro _) | dsimp only)

theorem formTilePage_k {v id p : Nat} {final : Bool} {d : Dev} (sB : Blk.sub [.cat] L = true) (kD : Keeps L D d) :
    Keeps L D (formTilePage v id p final d) := by
  unfold formTilePage
  with_reducible repeat' (first
      | exact kD | exact Blk.le (by decide) sB | assumption | apply onTake_k | split | (apply mapGetD_k; intro _)
      | dsimp only)

theorem formFramePage_k {v id p : Nat} {final : Bool} {d : Dev} (sB : Blk.sub [.cat] L = true) (kD : Keeps L D d) :
    Keeps L D (formFramePage v id p final d) := by
  unfold formFramePage
  with_reducible repeat' (first
      | exact kD | exact Blk.le (by decide) sB | assumption | apply onTake_k | split | (apply mapGetD_k; intro _)
      | dsimp only)

theorem formPages_k {d : Dev} (sB : Blk.sub [.cat] L = true) (kD : Keeps L D d) :
    Keeps L D (formPages d) := by
  unfold formPages
  with_reducible repeat' (first
      | exact kD | exact Blk.le (by decide) sB | assumption | apply formFramePage_k | apply formTilePage_k
      | (apply foldl_k; intro _ _ _) | split | (apply foldlP_k; intro _ _ _) | dsimp only)

theorem flushMeta_k {v id p : Nat} {d : Dev}
    (sB : Blk.sub [.out, .free, .pipes, .vault, .cat, .ciph, .hif, .tango, .bpm, .mca, .dma,
      .evr] L = true) (kD : Keeps L D d) :
    Keeps L D (flushMeta v id p d) := by
  unfold flushMeta
  with_reducible repeat' (first
      | exact kD | exact Blk.le (by decide) sB | assumption | apply needStripe_k | apply sealPipe_k | split
      | (apply Keeps.fstOf; assumption) | dsimp only)

theorem issueBuf_k {l : LayoutRec} {sb : StripeBuf} {order : Option Nat} {d : Dev}
    (sB : Blk.sub [.out, .vault, .cat, .ciph, .hif, .tango, .mca, .dma, .evr] L = true) (kD : Keeps L D d) :
    Keeps L D (issueBuf l sb order d).1 := by
  unfold issueBuf
  with_reducible repeat' (first
      | exact kD | exact Blk.le (by decide) sB | assumption | apply appendRec_k | apply emits_k | apply onVault_k
      | (apply remapMember_k; assumption) | (apply foldl_k; intro _ _ _) | (apply getD_k; intro _ _) | split
      | (apply mapGetD_k; intro _) | (apply foldlP_k; intro _ _ _) | dsimp only)

theorem issueSealed_k {d : Dev}
    (sB : Blk.sub [.out, .vault, .cat, .ciph, .hif, .tango, .mca, .dma, .evr] L = true) (kD : Keeps L D d) :
    Keeps L D (issueSealed d) := by
  unfold issueSealed
  with_reducible repeat' (first
      | exact kD | exact Blk.le (by decide) sB | assumption | apply allocStripe_k | apply backlogRule_k | apply freeStripe_k
      | apply issueBuf_k | apply onVault_k | split | (apply Keeps.fstOf; assumption) | dsimp only)

theorem onOpen_k {j : Nat} {f : OpenEnt → OpenEnt} {d : Dev} (sB : Blk.sub [.vault] L = true) (kD : Keeps L D d) :
    Keeps L D (onOpen j f d) := by
  unfold onOpen
  with_reducible repeat' (first | exact kD | exact Blk.le (by decide) sB | assumption | apply onVault_k | split | dsimp only)

theorem movePages_k {l : LayoutRec} {old new : Nat} {d : Dev} (sB : Blk.sub [.cat] L = true) (kD : Keeps L D d) :
    Keeps L D (movePages l old new d) := by
  unfold movePages
  with_reducible repeat' (first | exact kD | exact Blk.le (by decide) sB | assumption | apply onCat_k | split | dsimp only)

theorem reseal_k {l : LayoutRec} {e : OpenEnt} {sb : StripeBuf} {d : Dev}
    {y : Dev} (q : reseal l e sb d = some y) (sB : Blk.sub [.out, .vault, .cat, .ciph, .hif, .tango, .mca, .dma,
      .evr] L = true) (kD : Keeps L D d) :
    Keeps L D y := by
  unfold reseal at q
  try dsimp only at q
  repeat' (first | (cases q; done) | split at q)
  all_goals try cases q
  all_goals with_reducible repeat' (first
      | exact kD | exact Blk.le (by decide) sB | assumption | apply allocStripe_k | apply appendRec_k | apply freeStripe_k
      | apply issueBuf_k | apply movePages_k | apply onVault_k | split | (apply Keeps.fstOf; assumption) | dsimp only)

theorem sealAgain_k {j : Nat} {d : Dev}
    (sB : Blk.sub [.out, .vault, .cat, .ciph, .hif, .tango, .mca, .dma, .evr] L = true) (kD : Keeps L D d) : Keeps L D
    (sealAgain j d) := by
  unfold sealAgain; split
  · exact kD
  · refine getD_k (fun y q => ?_) (onOpen_k (Blk.le (by decide) sB) kD)
    obtain ⟨l, -, q⟩ := Option.bind_eq_some_iff.mp q
    exact reseal_k q (Blk.le (by decide) sB) kD

theorem issueNext_k {d : Dev}
    (sB : Blk.sub [.out, .vault, .cat, .ciph, .hif, .tango, .mca, .dma, .evr] L = true) (kD : Keeps L D d) : Keeps L D
    (issueNext d) := by
  unfold issueNext; split
  · rename_i q
    obtain ⟨e, -, q⟩ := Option.bind_eq_some_iff.mp q
    obtain ⟨l, -, q⟩ := Option.bind_eq_some_iff.mp q
    exact reseal_k q (Blk.le (by decide) sB) kD
  · exact issueSealed_k (Blk.le (by decide) sB) kD

theorem rewriteMember_k {j k : Nat} {d : Dev}
    (sB : Blk.sub [.out, .vault, .cat, .ciph, .hif, .tango, .mca, .dma, .evr] L = true) (kD : Keeps L D d) :
    Keeps L D (rewriteMember j k d) := by
  unfold rewriteMember
  with_reducible repeat' (first
      | exact kD | exact Blk.le (by decide) sB | assumption | apply emit_k | (apply remapMember_k; assumption)
      | apply sealAgain_k | apply spareOut_k | split | dsimp only)

theorem dropReplace_k {slot : Nat} {d : Dev}
    (sB : Blk.sub [.out, .vault, .cat, .hif, .dma] L = true) (kD : Keeps L D d) :
    Keeps L D (dropReplace slot d) := by
  unfold dropReplace
  with_reducible repeat' (first
      | exact kD | exact Blk.le (by decide) sB | assumption | apply complete_k | apply onVault_k | split | dsimp only)

theorem failDrive_k {slot : Nat} {status : Option W32} {d : Dev}
    (sB : Blk.sub [.out, .free, .vault, .cat, .ciph, .hif, .tango, .mca, .dma, .evr] L = true) (kD : Keeps L D d) :
    Keeps L D (failDrive slot status d) := by
  unfold failDrive
  with_reducible repeat' (first
      | exact kD | exact Blk.le (by decide) sB | assumption | apply drawn_k | apply dropReplace_k | apply logEvent_k
      | apply onDrive_k | apply rewriteMember_k | apply tangoSend_k | (apply foldl_k; intro _ _ _) | split | apply upd_vault
      | (apply mapGetD_k; intro _) | (apply foldlP_k; intro _ _ _) | dsimp only)

/-! ## Commit -/

theorem freeTake_k {t : Take} {d : Dev} (sB : Blk.sub [.vault] L = true) (kD : Keeps L D d) :
    Keeps L D (freeTake t d) := by
  unfold freeTake
  with_reducible repeat' (first
      | exact kD | exact Blk.le (by decide) sB | assumption | apply freeStripe_k | (apply foldl_k; intro _ _ _) | split
      | (apply foldlP_k; intro _ _ _) | dsimp only)

theorem purgeSegs_k {t : Take} {d : Dev} (sB : Blk.sub [.vault, .cat] L = true) (kD : Keeps L D d) :
    Keeps L D (purgeSegs t d) := by
  unfold purgeSegs
  with_reducible repeat' (first
      | exact kD | exact Blk.le (by decide) sB | assumption | apply dropStripes_k | apply freeStripe_k | apply onReel_k
      | (apply each_k; intro _ _ _) | split | (apply Keeps.fstOf; assumption) | dsimp only)

theorem purgeTakes_k {d0 : Dev} (sB : Blk.sub [.vault, .cat] L = true) (kD : Keeps L D d0) :
    Keeps L D (purgeTakes d0) := by
  unfold purgeTakes
  with_reducible repeat' (first
      | exact kD | exact Blk.le (by decide) sB | assumption | apply freeTake_k | apply onCat_k | apply purgeSegs_k
      | (apply foldl_k; intro _ _ _) | split | (apply foldlP_k; intro _ _ _) | dsimp only)

theorem systemStripe_k {l : LayoutRec} {s : Nat} {b : Nat × Nat} {raw : List Byte} {d : Dev}
    (sB : Blk.sub [.free] L = true) (kD : Keeps L D d) :
    Keeps L D (systemStripe l s b raw d).2 := by
  unfold systemStripe
  with_reducible repeat' (first | exact kD | exact Blk.le (by decide) sB | assumption | apply drawn_k | split | dsimp only)

theorem startCommit_k {closing : List (Nat × Nat)} {d : Dev}
    (sB : Blk.sub [.out, .free, .vault, .cat, .ciph, .hif, .tango, .bpm, .mca, .dma, .evr] L = true) (kD : Keeps L D d) :
    Keeps L D (startCommit closing d) := by
  unfold startCommit
  with_reducible repeat' (first
      | exact kD | exact Blk.le (by decide) sB | assumption | apply allocBuffers_k | apply allocStripe_k | apply drawn_k
      | apply formPages_k | apply onVault_k | apply queueStripe_k | apply systemStripe_k | split
      | (apply Keeps.fstOf; assumption) | (apply Keeps.sndOf; assumption) | dsimp only)

theorem writeRoot_k {l : LayoutRec} {m : Mdc} {d : Dev}
    (sB : Blk.sub [.free, .vault, .bpm] L = true) (kD : Keeps L D d) :
    Keeps L D (writeRoot l m d) := by
  unfold writeRoot
  with_reducible repeat' (first
      | exact kD | exact Blk.le (by decide) sB | assumption | apply allocBuffers_k | apply onVault_k | apply queueStripe_k
      | apply systemStripe_k | split | (apply Keeps.fstOf; assumption) | (apply Keeps.sndOf; assumption) | dsimp only)

theorem deleteTake_k {t : Take} {d : Dev} (sB : Blk.sub [.cat] L = true) (kD : Keeps L D d) :
    Keeps L D (deleteTake t d) := by
  unfold deleteTake
  with_reducible repeat' (first
      | exact kD | exact Blk.le (by decide) sB | assumption | apply onCat_k | apply onTake_k | (apply foldl_k; intro _ _ _)
      | split | (apply foldlP_k; intro _ _ _) | dsimp only)

theorem takeClosed_k {v id : Nat} {d : Dev}
    (sB : Blk.sub [.out, .cat, .dgst, .hif, .dma] L = true) (kD : Keeps L D d) :
    Keeps L D (takeClosed v id d) := by
  unfold takeClosed
  with_reducible repeat' (first
      | exact kD | exact Blk.le (by decide) sB | assumption | apply complete_k | apply deleteTake_k | apply freeMr_k
      | apply onTake_k | apply settled_k | (apply foldl_k; intro _ _ _) | split | (apply foldlP_k; intro _ _ _) | dsimp only)

theorem writeDisk_k {m : Mdc} {d : Dev} (sB : Blk.sub [.disk] L = true) (kD : Keeps L D d) :
    Keeps L D (writeDisk m d) := by
  unfold writeDisk
  with_reducible repeat' (first | exact kD | exact Blk.le (by decide) sB | assumption | split | apply upd_disk | dsimp only)

theorem migrate_k {d : Dev} (sB : Blk.sub [.out, .cat, .hif, .tango, .dma, .evr] L = true) (kD : Keeps L D d) :
    Keeps L D (migrate d) := by
  unfold migrate
  with_reducible repeat' (first
      | exact kD | exact Blk.le (by decide) sB | assumption | apply logEvent_k | apply onTango_k | split | dsimp only)

theorem relabel_k {d : Dev} (sB : Blk.sub [.out, .vault, .disk] L = true) (kD : Keeps L D d) :
    Keeps L D (relabel d) := by
  unfold relabel
  with_reducible repeat' (first
      | exact kD | exact Blk.le (by decide) sB | assumption | apply onVault_k | apply writeLabels_k | split | dsimp only)

theorem erase_k {x : Nat × Nat × Nat} {d : Dev} (sB : Blk.sub [.cat] L = true) (kD : Keeps L D d) :
    Keeps L D (erase x d) := by
  unfold erase
  with_reducible repeat' (first
      | exact kD | exact Blk.le (by decide) sB | assumption | apply onSegment_k | apply onTake_k | split | dsimp only)

theorem commitDurable_k {m : Mdc} {d : Dev}
    (sB : Blk.sub [.out, .free, .vault, .vcnt, .cat, .disk, .ciph, .dgst, .hif, .tango, .bpm, .mca, .dma,
      .evr] L = true) (kD : Keeps L D d) :
    Keeps L D (commitDurable m d) := by
  unfold commitDurable
  with_reducible repeat' (first
      | exact kD | exact Blk.le (by decide) sB | assumption | apply appendDurable_k | apply erase_k | apply freeStripe_k
      | apply migrate_k | apply onVault_k | apply purgeTakes_k | apply recordLosses_k | apply startCommit_k
      | apply takeClosed_k | apply writeDisk_k | (apply each_k; intro _ _ _) | split | (apply Keeps.fstOf; assumption)
      | dsimp only)

theorem stepCommit_k {d : Dev}
    (sB : Blk.sub [.out, .free, .vault, .vcnt, .cat, .disk, .ciph, .dgst, .hif, .tango, .bpm, .mca, .dma,
      .evr] L = true) (kD : Keeps L D d) :
    Keeps L D (stepCommit d) := by
  unfold stepCommit
  with_reducible repeat' (first
      | exact kD | exact Blk.le (by decide) sB | assumption | apply commitDurable_k | apply writeRoot_k | split | dsimp only)

theorem writePages_k {t : Take} {d : Dev}
    (sB : Blk.sub [.out, .free, .pipes, .vault, .cat, .ciph, .hif, .tango, .bpm, .mca, .dma,
      .evr] L = true) (kD : Keeps L D d) :
    Keeps L D (writePages t d) := by
  unfold writePages
  with_reducible repeat' (first
      | exact kD | exact Blk.le (by decide) sB | assumption | apply flushMeta_k | apply formFramePage_k
      | apply formTilePage_k | (apply foldl_k; intro _ _ _) | split | (apply foldlP_k; intro _ _ _) | dsimp only)

theorem flushParts_k {t : Take} {d : Dev}
    (sB : Blk.sub [.out, .free, .pipes, .vault, .cat, .ciph, .hif, .tango, .bpm, .mca, .dma,
      .evr] L = true) (kD : Keeps L D d) :
    Keeps L D (flushParts t d) := by
  unfold flushParts
  with_reducible repeat' (first
      | exact kD | exact Blk.le (by decide) sB | assumption | apply flushMeta_k | (apply foldl_k; intro _ _ _) | split
      | (apply foldlP_k; intro _ _ _) | dsimp only)

theorem sealParts_k {t : Take} {d : Dev} (sB : Blk.sub [.free, .cat, .ciph, .dgst] L = true) (kD : Keeps L D d) :
    Keeps L D (sealParts t d) := by
  unfold sealParts
  with_reducible repeat' (first
      | exact kD | exact Blk.le (by decide) sB | assumption | apply sealPart_k | (apply foldl_k; intro _ _ _) | split
      | (apply foldlP_k; intro _ _ _) | dsimp only)

theorem writeManifest_k {t : Take} {p : Part} {d : Dev}
    (sB : Blk.sub [.out, .free, .pipes, .vault, .cat, .ciph, .hif, .tango, .bpm, .mca, .dma,
      .evr] L = true) (kD : Keeps L D d) :
    Keeps L D (writeManifest t p d) := by
  unfold writeManifest
  with_reducible repeat' (first
      | exact kD | exact Blk.le (by decide) sB | assumption | apply flushMeta_k | apply onTake_k | split | dsimp only)

theorem setStage_k {t : Take} {n : Nat} {d : Dev} (sB : Blk.sub [.cat] L = true) (kD : Keeps L D d) :
    Keeps L D (setStage t n d) := by
  unfold setStage
  with_reducible repeat' (first | exact kD | exact Blk.le (by decide) sB | assumption | apply onTake_k | split | dsimp only)

theorem cutSegments_k {t : Take} {d : Dev}
    (sB : Blk.sub [.out, .free, .pipes, .vault, .cat, .ciph, .dgst, .hif, .tango, .bpm, .mca, .dma,
      .evr] L = true) (kD : Keeps L D d) :
    Keeps L D (cutSegments t d) := by
  unfold cutSegments
  with_reducible repeat' (first
      | exact kD | exact Blk.le (by decide) sB | assumption | apply fixSegment_k | apply stepSegment_k | apply writePages_k
      | (apply foldl_k; intro _ _ _) | split | (apply mapGetD_k; intro _) | (apply foldlP_k; intro _ _ _) | dsimp only)

theorem stepClose_k {v id : Nat} {d : Dev}
    (sB : Blk.sub [.out, .free, .pipes, .vault, .cat, .ciph, .dgst, .hif, .tango, .bpm, .mca, .dma,
      .evr] L = true) (kD : Keeps L D d) :
    Keeps L D (stepClose v id d) := by
  unfold stepClose
  with_reducible repeat' (first
      | exact kD | exact Blk.le (by decide) sB | assumption | apply cutSegments_k | apply flushParts_k | apply sealParts_k
      | apply setStage_k | apply startCommit_k | apply writeManifest_k | apply writePages_k | split
      | (apply mapGetD_k; intro _) | dsimp only)

theorem advanceTake_k {v id : Nat} {d : Dev}
    (sB : Blk.sub [.out, .free, .pipes, .vault, .cat, .ciph, .dgst, .hif, .tango, .bpm, .mca, .dma,
      .evr] L = true) (kD : Keeps L D d) :
    Keeps L D (advanceTake v id d) := by
  unfold advanceTake
  with_reducible repeat' (first
      | exact kD | exact Blk.le (by decide) sB | assumption | apply stepClose_k | (apply repeat_k; intro _ _) | split
      | dsimp only)

theorem advanceTakes_k {d : Dev}
    (sB : Blk.sub [.out, .free, .pipes, .vault, .cat, .ciph, .dgst, .hif, .tango, .bpm, .mca, .dma,
      .evr] L = true) (kD : Keeps L D d) :
    Keeps L D (advanceTakes d) := by
  unfold advanceTakes
  with_reducible repeat' (first
      | exact kD | exact Blk.le (by decide) sB | assumption | apply advanceTake_k | apply closeSegments_k
      | apply settleChains_k | (apply foldl_k; intro _ _ _) | split | (apply foldlP_k; intro _ _ _) | dsimp only)

theorem onRepl_k {c : Nat} {f : Repl → Repl} {d : Dev} (sB : Blk.sub [.repl] L = true) (kD : Keeps L D d) :
    Keeps L D (onRepl c f d) := by
  unfold onRepl
  with_reducible repeat' (first | exact kD | exact Blk.le (by decide) sB | assumption | split | apply upd_repl | dsimp only)

theorem replMsg_k {c : Nat} {o : Out} {d : Dev}
    (sB : Blk.sub [.out, .cat, .ciph, .hif, .repl, .dma, .evr] L = true) (kD : Keeps L D d) :
    Keeps L D (replMsg c o d) := by
  unfold replMsg
  with_reducible repeat' (first
      | exact kD | exact Blk.le (by decide) sB | assumption | apply onRepl_k | apply submitJob_k | split | dsimp only)

theorem unpinHeld_k {volume : Nat} {e : Entry} {d : Dev} (sB : Blk.sub [.cat, .repl] L = true) (kD : Keeps L D d) :
    Keeps L D (unpinHeld volume e d) := by
  unfold unpinHeld
  with_reducible repeat' (first
      | exact kD | exact Blk.le (by decide) sB | assumption | apply onCat_k | apply onRepl_k | split | dsimp only)

theorem addItem_k {c : Nat} {v : Volume} {lookup : Bool} {x : Nat × FpEntry} {d : Dev}
    (sB : Blk.sub [.cat, .repl] L = true) (kD : Keeps L D d) :
    Keeps L D (addItem c v lookup x d) := by
  unfold addItem
  with_reducible repeat' (first
      | exact kD | exact Blk.le (by decide) sB | assumption | apply onCat_k | apply onRepl_k | split | dsimp only)

theorem replFresh_k {c : Nat} {r : Repl} {d : Dev}
    (sB : Blk.sub [.out, .vault, .cat, .ciph, .hif, .tango, .repl, .bpm, .mca, .dma, .evr] L = true) (kD : Keeps L D d) :
    Keeps L D (replStripe.replFresh c r d).1 := by
  unfold replStripe.replFresh
  with_reducible repeat' (first
      | exact kD | exact Blk.le (by decide) sB | assumption | apply freshStripe_k | apply onRepl_k | split
      | (apply Keeps.fstOf; assumption) | dsimp only)

theorem replStripe_k {c n : Nat} {d : Dev}
    (sB : Blk.sub [.out, .vault, .cat, .ciph, .hif, .tango, .repl, .bpm, .mca, .dma, .evr] L = true) (kD : Keeps L D d) :
    Keeps L D (replStripe c n d).1 := by
  unfold replStripe
  with_reducible repeat' (first
      | exact kD | exact Blk.le (by decide) sB | assumption | apply onRepl_k | apply queueStripe_k | apply replFresh_k
      | split | (apply Keeps.fstOf; assumption) | dsimp only)

theorem packItem_k {c : Nat} {d : Dev}
    {y : Dev} (q : packItem c d = some y) (sB : Blk.sub [.out, .vault, .cat, .ciph, .hif, .tango, .repl, .bpm, .mca, .dma,
      .evr] L = true) (kD : Keeps L D d) :
    Keeps L D y := by
  unfold packItem at q
  try dsimp only at q
  repeat' (first | (cases q; done) | split at q | (simp only [Option.map_eq_some_iff] at q; obtain ⟨_, _, q⟩ := q))
  all_goals try cases q
  all_goals with_reducible repeat' (first
      | exact kD | exact Blk.le (by decide) sB | assumption | apply onCat_k | apply onRepl_k | apply replStripe_k | split
      | (apply Keeps.fstOf; assumption) | dsimp only)

theorem packBatch_k {c n : Nat} {d : Dev}
    (s : Blk.sub [.out, .vault, .cat, .ciph, .hif, .tango, .repl, .bpm, .mca, .dma, .evr] L = true)
    (k : Keeps L D d) : Keeps L D (packBatch c n d) := by
  induction n generalizing d with
  | zero => exact k
  | succ n ih =>
    unfold packBatch
    with_reducible repeat' (first
        | exact k | exact Blk.le (by decide) s | apply ih | (apply packItem_k; assumption) | apply onRepl_k
        | apply queueStripe_k | split)

theorem pumpRepl_k {c : Nat} {d : Dev}
    (sB : Blk.sub [.out, .vault, .cat, .ciph, .hif, .tango, .repl, .bpm, .mca, .dma, .evr] L = true) (kD : Keeps L D d) :
    Keeps L D (pumpRepl c d) := by
  unfold pumpRepl
  with_reducible repeat' (first
      | exact kD | exact Blk.le (by decide) sB | assumption | apply packBatch_k | split | (apply Keeps.fstOf; assumption)
      | (apply mapGetD_k; intro _) | dsimp only)

theorem startBatch_k {c : Nat} {d : Dev}
    (sB : Blk.sub [.out, .vault, .cat, .ciph, .hif, .tango, .repl, .bpm, .mca, .dma, .evr] L = true) (kD : Keeps L D d) :
    Keeps L D (startBatch c d) := by
  unfold startBatch
  with_reducible repeat' (first
      | exact kD | exact Blk.le (by decide) sB | assumption | apply addItem_k | apply onRepl_k | apply pumpRepl_k
      | apply replMsg_k | (apply each_k; intro _ _ _) | split | (apply Keeps.fstOf; assumption) | (apply mapGetD_k; intro _)
      | dsimp only)

theorem endAccept_k {c status : Nat} {d : Dev}
    (sB : Blk.sub [.out, .vault, .cat, .hif, .repl, .bpm, .dma] L = true) (kD : Keeps L D d) :
    Keeps L D (endAccept c status d) := by
  unfold endAccept
  with_reducible repeat' (first
      | exact kD | exact Blk.le (by decide) sB | assumption | apply complete_k | apply freeBuffers_k | apply onCat_k
      | apply onRepl_k | apply poolFree_k | apply setJob_k | apply undoStripe_k | (apply foldl_k; intro _ _ _) | split
      | (apply foldlP_k; intro _ _ _) | dsimp only)

theorem closePart_k {c total : Nat} {r : Repl} {d : Dev}
    (sB : Blk.sub [.out, .free, .pipes, .vault, .cat, .ciph, .hif, .tango, .repl, .bpm, .mca, .dma,
      .evr] L = true) (kD : Keeps L D d) :
    Keeps L D (closePart c total r d) := by
  unfold closePart
  with_reducible repeat' (first
      | exact kD | exact Blk.le (by decide) sB | assumption | apply endAccept_k | apply formTilePage_k | apply onPart_k
      | apply onRepl_k | apply onTake_k | apply placeAllMeta_k | apply queueStripe_k | apply replMsg_k | apply replStripe_k
      | apply startCommit_k | split | (apply Keeps.fstOf; assumption) | (apply Keeps.sndOf; assumption) | dsimp only)

theorem settleSession_k {x : Nat × Repl} {d : Dev}
    (sB : Blk.sub [.out, .free, .pipes, .vault, .cat, .ciph, .hif, .tango, .repl, .bpm, .mca, .dma,
      .evr] L = true) (kD : Keeps L D d) :
    Keeps L D (settleSession x d) := by
  unfold settleSession
  with_reducible repeat' (first
      | exact kD | exact Blk.le (by decide) sB | assumption | apply closePart_k | apply onRepl_k | apply replMsg_k
      | apply startBatch_k | split | dsimp only)

theorem settleRepl_k {d : Dev}
    (sB : Blk.sub [.out, .free, .pipes, .vault, .cat, .ciph, .hif, .tango, .repl, .bpm, .mca, .dma,
      .evr] L = true) (kD : Keeps L D d) :
    Keeps L D (settleRepl d) := by
  unfold settleRepl
  with_reducible repeat' (first
      | exact kD | exact Blk.le (by decide) sB | assumption | apply settleSession_k | (apply each_k; intro _ _ _) | split
      | (apply Keeps.fstOf; assumption) | dsimp only)

theorem commitSlots_k {g : Fin 4} {n : Nat} {gsn : W32} {d : Dev} (sB : Blk.sub [.lg] L = true) (kD : Keeps L D d) :
    Keeps L D (commitSlots g n gsn d) := by
  unfold commitSlots
  with_reducible repeat' (first
      | exact kD | exact Blk.le (by decide) sB | assumption | apply onLedger_k | split | dsimp only)

theorem settleC_k {g : Fin 4} {d : Dev} (sB : Blk.sub [.lg] L = true) (kD : Keeps L D d) :
    Keeps L D (settleC g d) := by
  unfold settleC
  with_reducible repeat' (first
      | exact kD | exact Blk.le (by decide) sB | assumption | apply onLedger_k | split | dsimp only)

theorem commitTiles_k {sb : StripeBuf} {d : Dev} (sB : Blk.sub [.cat, .dgst, .repl] L = true) (kD : Keeps L D d) :
    Keeps L D (commitTiles sb d) := by
  unfold commitTiles
  with_reducible repeat' (first
      | exact kD | exact Blk.le (by decide) sB | assumption | apply extendTiles_k | apply onCat_k | apply onPart_k
      | apply unpinHeld_k | (apply each_k; intro _ _ _) | (apply foldl_k; intro _ _ _) | split
      | (apply Keeps.fstOf; assumption) | (apply mapGetD_k; intro _) | (apply foldlP_k; intro _ _ _) | dsimp only)

theorem retire_k {e : OpenEnt} {d : Dev}
    (sB : Blk.sub [.out, .sl, .lg, .pipes, .vault, .vcnt, .cat, .ciph, .dgst, .hif, .tango, .repl, .bpm, .mca, .dma,
      .evr] L = true) (kD : Keeps L D d) :
    Keeps L D (retire e d) := by
  unfold retire
  with_reducible repeat' (first
      | exact kD | exact Blk.le (by decide) sB | assumption | apply appendRec_k | apply commitSlots_k | apply commitTiles_k
      | apply freeBuffers_k | apply onPipe_k | apply onVault_k | apply onVcnt_k | apply pinCommitted_k | apply refreshLimit_k
      | apply settleC_k | split | dsimp only)

theorem retireAll_k  {n : Nat} {d : Dev}
    (sB : Blk.sub [.out, .sl, .lg, .pipes, .vault, .vcnt, .cat, .ciph, .dgst, .hif, .tango, .repl, .bpm, .mca, .dma,
      .evr] L = true) (kD : Keeps L D d) :
    Keeps L D (retireAll  n d) := by
  induction n generalizing d with
  | zero => exact kD
  | succ n ih =>
    unfold retireAll
    with_reducible repeat' (first
        | apply ih | exact kD | exact Blk.le (by decide) sB | assumption | apply retire_k | split | dsimp only)

theorem settleHand_k {d : Dev}
    (sB : Blk.sub [.out, .free, .cat, .ciph, .hif, .tango, .ih, .dma, .evr] L = true) (kD : Keeps L D d) :
    Keeps L D (settleHand d) := by
  unfold settleHand
  with_reducible repeat' (first
      | exact kD | exact Blk.le (by decide) sB | assumption | apply complete_k | apply notifyAll_k | apply onTango_k
      | apply tangoSend_k | split | apply upd_ih | dsimp only)

theorem retireReady_k {d : Dev}
    (sB : Blk.sub [.out, .free, .sl, .lg, .pipes, .vault, .vcnt, .cat, .disk, .ciph, .dgst, .hif, .tango, .ih, .repl, .bpm,
      .mca, .dma, .evr] L = true) (kD : Keeps L D d) :
    Keeps L D (retireReady d) := by
  unfold retireReady
  with_reducible repeat' (first
      | exact kD | exact Blk.le (by decide) sB | assumption | apply advanceTakes_k | apply retireAll_k | apply settleHand_k
      | apply settleRepl_k | apply stepCommit_k | split | (apply Keeps.fstOf; assumption) | dsimp only)

/-! ## Drives -/

theorem stripDone_k {j k : Nat} {d : Dev}
    (sB : Blk.sub [.out, .free, .sl, .lg, .pipes, .vault, .vcnt, .cat, .disk, .ciph, .dgst, .hif, .tango, .ih, .repl, .bpm,
      .mca, .dma, .evr] L = true) (kD : Keeps L D d) :
    Keeps L D (stripDone j k d) := by
  unfold stripDone
  with_reducible repeat' (first
      | exact kD | exact Blk.le (by decide) sB | assumption | apply onOpen_k | apply onVault_k | apply retireReady_k | split
      | dsimp only)

theorem stripFail_k {j k : Nat} {status : W32} {d : Dev}
    (sB : Blk.sub [.out, .free, .vault, .cat, .ciph, .hif, .tango, .mca, .dma, .evr] L = true) (kD : Keeps L D d) :
    Keeps L D (stripFail j k status d) := by
  unfold stripFail
  with_reducible repeat' (first
      | exact kD | exact Blk.le (by decide) sB | assumption | apply failDrive_k | apply rewriteMember_k | split | dsimp only)

theorem memberLag_k {j k : Nat} {d : Dev}
    (sB : Blk.sub [.out, .free, .vault, .vcnt, .cat, .ciph, .hif, .tango, .mca, .dma, .evr] L = true) (kD : Keeps L D d) :
    Keeps L D (memberLag j k d) := by
  unfold memberLag
  with_reducible repeat' (first
      | exact kD | exact Blk.le (by decide) sB | assumption | apply emit_k | apply failDrive_k | apply logEvent_k
      | apply onDrive_k | apply onVault_k | apply onVcnt_k | (apply remapMember_k; assumption) | apply spareOut_k | split
      | dsimp only)

theorem lagFail_k {j k : Nat} {d : Dev}
    (sB : Blk.sub [.out, .free, .vault, .cat, .ciph, .hif, .tango, .mca, .dma, .evr] L = true) (kD : Keeps L D d) :
    Keeps L D (lagFail j k d) := by
  unfold lagFail
  with_reducible repeat' (first
      | exact kD | exact Blk.le (by decide) sB | assumption | apply failDrive_k | apply onVault_k | split | dsimp only)

theorem linkLoss_k {slot : Nat} {d : Dev}
    (sB : Blk.sub [.out, .free, .vault, .cat, .ciph, .hif, .tango, .mca, .dma, .evr] L = true) (kD : Keeps L D d) :
    Keeps L D (linkLoss slot d) := by
  unfold linkLoss
  with_reducible repeat' (first
      | exact kD | exact Blk.le (by decide) sB | assumption | apply failDrive_k | apply onDrive_k | split | dsimp only)

theorem registerDrive_k {slot : Nat} {d : Dev} (sB : Blk.sub [.out, .vault] L = true) (kD : Keeps L D d) :
    Keeps L D (registerDrive slot d) := by
  unfold registerDrive
  with_reducible repeat' (first
      | exact kD | exact Blk.le (by decide) sB | assumption | apply emit_k | apply onDrive_k | split | dsimp only)

theorem retryHeld_k {slot : Nat} {d : Dev} (sB : Blk.sub [.out, .vault] L = true) (kD : Keeps L D d) :
    Keeps L D (retryHeld slot d) := by
  unfold retryHeld
  with_reducible repeat' (first
      | exact kD | exact Blk.le (by decide) sB | assumption | apply emit_k | apply onDrive_k | (apply foldl_k; intro _ _ _)
      | split | (apply foldlP_k; intro _ _ _) | dsimp only)

theorem conflictHold_k {slot : Nat} {d : Dev}
    (sB : Blk.sub [.out, .free, .vault, .cat, .ciph, .hif, .tango, .mca, .dma, .evr] L = true) (kD : Keeps L D d) :
    Keeps L D (conflictHold slot d) := by
  unfold conflictHold
  with_reducible repeat' (first
      | exact kD | exact Blk.le (by decide) sB | assumption | apply failDrive_k | apply retryHeld_k | split | dsimp only)

theorem noteLink_k {i : DriveInfo} {d : Dev}
    (sB : Blk.sub [.out, .vault, .cat, .hif, .dma, .evr] L = true) (kD : Keeps L D d) :
    Keeps L D (noteLink i d) := by
  unfold noteLink
  with_reducible repeat' (first
      | exact kD | exact Blk.le (by decide) sB | assumption | apply logEvent_k | apply onDrive_k | split | dsimp only)

theorem lookAt_k {i : DriveInfo} {d : Dev}
    (sB : Blk.sub [.out, .vault, .cat, .hif, .dma, .evr] L = true) (kD : Keeps L D d) :
    Keeps L D (lookAt i d) := by
  unfold lookAt
  with_reducible repeat' (first
      | exact kD | exact Blk.le (by decide) sB | assumption | apply emits_k | apply noteLink_k | split | dsimp only)

theorem setUp_k {slot : Nat} {d : Dev}
    (sB : Blk.sub [.out, .vault, .cat, .disk, .ciph, .hif, .tango, .dma, .evr] L = true) (kD : Keeps L D d) :
    Keeps L D (setUp slot d) := by
  unfold setUp
  with_reducible repeat' (first
      | exact kD | exact Blk.le (by decide) sB | assumption | apply emits_k | apply registerDrive_k | apply tangoSend_k
      | apply writeLabels_k | split | dsimp only)

theorem admitSlot_k {i : DriveInfo} {d : Dev}
    (sB : Blk.sub [.out, .vault, .cat, .disk, .ciph, .hif, .tango, .dma, .evr] L = true) (kD : Keeps L D d) :
    Keeps L D (admitSlot i d).1 := by
  unfold admitSlot
  with_reducible repeat' (first
      | exact kD | exact Blk.le (by decide) sB | assumption | apply learnLabel_k | apply logEvent_k | apply lookAt_k
      | apply onDrive_k | apply onVault_k | apply setUp_k | split | dsimp only)

theorem admitAll_k {l : List DriveInfo} {d : Dev}
    (sB : Blk.sub [.out, .vault, .cat, .disk, .ciph, .hif, .tango, .dma, .evr] L = true) (kD : Keeps L D d) :
    Keeps L D (admitAll l d) := by
  unfold admitAll
  with_reducible repeat' (first
      | exact kD | exact Blk.le (by decide) sB | assumption | apply admitSlot_k | (apply foldl_k; intro _ _ _) | split
      | (apply Keeps.fstOf; assumption) | (apply foldlP_k; intro _ _ _) | dsimp only)

theorem readDisk_k {reads : List (List (Nat × List Byte))} {d : Dev}
    (sB : Blk.sub [.vault, .cat, .tango] L = true) (kD : Keeps L D d) :
    Keeps L D (readDisk reads d) := by
  unfold readDisk
  with_reducible repeat' (first
      | exact kD | exact Blk.le (by decide) sB | assumption | apply learnLabel_k | (apply each_k; intro _ _ _) | split
      | apply upd_vault_cat_tango | (apply Keeps.fstOf; assumption) | dsimp only)

theorem resumeAll_k {reads : List (List (Nat × List Byte))} {d : Dev}
    (sB : Blk.sub [.out, .vault, .disk] L = true) (kD : Keeps L D d) :
    Keeps L D (resumeAll reads d) := by
  unfold resumeAll
  with_reducible repeat' (first
      | exact kD | exact Blk.le (by decide) sB | assumption | apply resumeProgress_k | (apply each_k; intro _ _ _) | split
      | (apply Keeps.fstOf; assumption) | dsimp only)

theorem startPorts_k {l : List DriveInfo} {d : Dev}
    (sB : Blk.sub [.out, .glb, .vault, .cat, .disk, .ciph, .hif, .tango, .dma, .evr] L = true) (kD : Keeps L D d) :
    Keeps L D (startPorts l d) := by
  unfold startPorts
  with_reducible repeat' (first
      | exact kD | exact Blk.le (by decide) sB | assumption | apply admitAll_k | apply onDrive_k | apply readDisk_k
      | apply resumeAll_k | (apply foldl_k; intro _ _ _) | split | apply upd_glb | (apply foldlP_k; intro _ _ _) | dsimp only)

theorem doDriveAdmit_k {h : Hdr} {slot : Nat} {i : DriveInfo} {d : Dev}
    (sB : Blk.sub [.out, .vault, .cat, .disk, .ciph, .hif, .tango, .dma, .evr] L = true) (kD : Keeps L D d) :
    Keeps L D (doDriveAdmit h slot i d) := by
  unfold doDriveAdmit
  with_reducible repeat' (first
      | exact kD | exact Blk.le (by decide) sB | assumption | apply admitSlot_k | apply complete_k | split
      | (apply Keeps.fstOf; assumption) | dsimp only)

theorem doDriveFail_k {h : Hdr} {slot : Nat} {d : Dev}
    (sB : Blk.sub [.out, .free, .vault, .cat, .ciph, .hif, .tango, .mca, .dma, .evr] L = true) (kD : Keeps L D d) :
    Keeps L D (doDriveFail h slot d) := by
  unfold doDriveFail
  with_reducible repeat' (first
      | exact kD | exact Blk.le (by decide) sB | assumption | apply complete_k | apply failDrive_k | split | dsimp only)

theorem endReplace_k {slot : Nat} {r : Replacing} {d : Dev}
    (sB : Blk.sub [.out, .vault, .cat, .hif, .dma] L = true) (kD : Keeps L D d) :
    Keeps L D (endReplace slot r d) := by
  unfold endReplace
  with_reducible repeat' (first
      | exact kD | exact Blk.le (by decide) sB | assumption | apply complete_k | apply onDrive_k | apply onVault_k | split
      | dsimp only)

theorem doDriveReplace_k {h : Hdr} {slot : Nat} {i : DriveInfo} {d : Dev}
    (sB : Blk.sub [.out, .vault, .cat, .disk, .ciph, .hif, .tango, .dma, .evr] L = true) (kD : Keeps L D d) :
    Keeps L D (doDriveReplace h slot i d) := by
  unfold doDriveReplace
  with_reducible repeat' (first
      | exact kD | exact Blk.le (by decide) sB | assumption | apply complete_k | apply endReplace_k | apply logEvent_k
      | apply lookAt_k | apply onDrive_k | apply onVault_k | apply setUp_k | split | dsimp only)

theorem doDrivePort_k {h : Hdr} {port action : Nat} {info : List DriveInfo} {d : Dev}
    (sB : Blk.sub [.out, .glb, .vault, .cat, .disk, .ciph, .hif, .tango, .dma, .evr] L = true) (kD : Keeps L D d) :
    Keeps L D (doDrivePort h port action info d) := by
  unfold doDrivePort
  with_reducible repeat' (first
      | exact kD | exact Blk.le (by decide) sB | assumption | apply admitAll_k | apply complete_k | apply noteLink_k
      | apply onDrive_k | apply startPorts_k | (apply each_k; intro _ _ _) | split | (apply Keeps.fstOf; assumption)
      | dsimp only)

theorem clearKeys_k {slot : Nat} {keys : List W64} {held : Bool} {d : Dev}
    (sB : Blk.sub [.out] L = true) (kD : Keeps L D d) :
    Keeps L D (clearKeys slot keys held d) := by
  unfold clearKeys
  with_reducible repeat' (first | exact kD | exact Blk.le (by decide) sB | assumption | apply emits_k | split | dsimp only)

theorem adminDone_k {slot : Nat} {r : DriveAdmin} {d : Dev}
    (sB : Blk.sub [.out, .free, .vault, .cat, .disk, .ciph, .hif, .tango, .mca, .dma, .evr] L = true) (kD : Keeps L D d) :
    Keeps L D (adminDone slot r d) := by
  unfold adminDone
  with_reducible repeat' (first
      | exact kD | exact Blk.le (by decide) sB | assumption | apply admitSlot_k | apply clearKeys_k | apply emit_k
      | apply failDrive_k | apply onDrive_k | apply onTango_k | apply retryHeld_k | split | (apply Keeps.fstOf; assumption)
      | dsimp only)

theorem portRetrain_k {slot rate lanes : Nat} {d : Dev}
    (sB : Blk.sub [.out, .vault, .cat, .hif, .dma, .evr] L = true) (kD : Keeps L D d) :
    Keeps L D (portRetrain slot rate lanes d) := by
  unfold portRetrain
  with_reducible repeat' (first
      | exact kD | exact Blk.le (by decide) sB | assumption | apply logEvent_k | apply onDrive_k | apply registerDrive_k
      | split | dsimp only)

theorem dpCfgWrite_k {value : W32} {drives : List DriveInfo} {d : Dev}
    (sB : Blk.sub [.out, .glb, .regs, .vault, .cat, .disk, .ciph, .hif, .tango, .dma, .evr] L = true) (kD : Keeps L D d) :
    Keeps L D (dpCfgWrite value drives d) := by
  unfold dpCfgWrite
  with_reducible repeat' (first
      | exact kD | exact Blk.le (by decide) sB | assumption | apply startPorts_k | split | apply upd_regs | dsimp only)

theorem doLayoutLoad_k {h : Hdr} {id recLen : Nat} {rec : LayoutRec} {info : List DriveInfo} {d : Dev}
    (sB : Blk.sub [.out, .free, .glb, .vault, .cat, .disk, .ciph, .hif, .tango, .dma, .evr] L = true) (kD : Keeps L D d) :
    Keeps L D (doLayoutLoad h id recLen rec info d) := by
  unfold doLayoutLoad
  with_reducible repeat' (first
      | exact kD | exact Blk.le (by decide) sB | assumption | apply admitAll_k | apply complete_k | apply drawn_k
      | apply onVault_k | apply startPorts_k | apply writeLabels_k | split | dsimp only)

theorem doVolumeCreate_k {h : Hdr} {v layout : Nat} {enc dedup : Bool} {kcv dkcv : W32} {d : Dev}
    (sB : Blk.sub [.out, .cat, .hif, .dma] L = true) (kD : Keeps L D d) :
    Keeps L D (doVolumeCreate h v layout enc dedup kcv dkcv d) := by
  unfold doVolumeCreate
  with_reducible repeat' (first
      | exact kD | exact Blk.le (by decide) sB | assumption | apply complete_k | apply onCat_k | split | dsimp only)

theorem doVolumeDelete_k {h : Hdr} {v : Nat} {d : Dev}
    (sB : Blk.sub [.out, .cat, .hif, .dma] L = true) (kD : Keeps L D d) :
    Keeps L D (doVolumeDelete h v d) := by
  unfold doVolumeDelete
  with_reducible repeat' (first
      | exact kD | exact Blk.le (by decide) sB | assumption | apply complete_k | apply onCat_k | split | dsimp only)

/-! ## Maintenance -/

theorem chargeMaint_k {l : List Out} {d : Dev} (sB : Blk.sub [.vault] L = true) (kD : Keeps L D d) :
    Keeps L D (chargeMaint l d) := by
  unfold chargeMaint
  with_reducible repeat' (first
      | exact kD | exact Blk.le (by decide) sB | assumption | apply onDrive_k | (apply foldl_k; intro _ _ _) | split
      | (apply foldlP_k; intro _ _ _) | dsimp only)

theorem maintain_k {w : List Nat} {d : Dev} {f : Dev → Dev} (s : Blk.sub [.vault] L = true)
    (h : ∀ e, Keeps L D e → Keeps L D (f e)) (k : Keeps L D d) : Keeps L D (maintain w f d) := by
  unfold maintain
  have b : Keeps L D (backlogRule d) := backlogRule_k (Blk.le (by decide) s) k
  dsimp only
  split
  · exact chargeMaint_k (Blk.le (by decide) s) (h _ b)
  · exact b

theorem writeBack_k {slot lba : Nat} {ok : Bool} {d : Dev}
    (sB : Blk.sub [.out, .free, .vault, .vcnt, .cat, .ciph, .hif, .tango, .mca, .dma, .evr] L = true) (kD : Keeps L D d) :
    Keeps L D (writeBack slot lba ok d) := by
  unfold writeBack
  with_reducible repeat' (first
      | exact kD | exact Blk.le (by decide) sB | assumption | apply emit_k | apply failDrive_k | apply onVault_k
      | apply onVcnt_k | split | dsimp only)

theorem scrubWhole_k {l : LayoutRec} {s : Nat} {app : W16} {m : List (List Byte)} {d : Dev}
    (sB : Blk.sub [.out, .vault, .cat, .hif, .dma, .evr] L = true) (kD : Keeps L D d) :
    Keeps L D (scrubWhole l s app m d) := by
  unfold scrubWhole
  with_reducible repeat' (first
      | exact kD | exact Blk.le (by decide) sB | assumption | apply logEvent_k | apply oweStrip_k | split
      | (apply mapGetD_k; intro _) | dsimp only)

theorem scrubData_k {l : LayoutRec} {s : Nat} {app : W16} {data : StripeData} {d : Dev}
    (sB : Blk.sub [.out, .vault, .vcnt, .cat, .ciph, .hif, .tango, .mca, .dma, .evr] L = true) (kD : Keeps L D d) :
    Keeps L D (scrubData l s app data d) := by
  unfold scrubData
  with_reducible repeat' (first
      | exact kD | exact Blk.le (by decide) sB | assumption | apply loseStripe_k | apply oweRows_k | apply scrubWhole_k
      | split | (apply mapGetD_k; intro _) | dsimp only)

theorem scrubOne_k {l : LayoutRec} {r : StripeIn} {d : Dev}
    (sB : Blk.sub [.out, .vault, .vcnt, .cat, .disk, .ciph, .hif, .tango, .mca, .dma, .evr] L = true) (kD : Keeps L D d) :
    Keeps L D (scrubOne l r d) := by
  unfold scrubOne
  with_reducible repeat' (first
      | exact kD | exact Blk.le (by decide) sB | assumption | apply countStripe_k | apply emits_k | apply onVault_k
      | apply onVcnt_k | apply persistProgress_k | apply scrubData_k | split | dsimp only)

theorem endPass_k {l : LayoutRec} {d : Dev}
    (sB : Blk.sub [.out, .vault, .cat, .hif, .dma] L = true) (kD : Keeps L D d) :
    Keeps L D (endPass l d) := by
  unfold endPass
  with_reducible repeat' (first
      | exact kD | exact Blk.le (by decide) sB | assumption | apply complete_k | apply onVault_k | split | dsimp only)

theorem scrubStripe_k {r : StripeIn} {d : Dev}
    (sB : Blk.sub [.out, .vault, .vcnt, .cat, .disk, .ciph, .hif, .tango, .mca, .dma, .evr] L = true) (kD : Keeps L D d) :
    Keeps L D (scrubStripe r d) := by
  unfold scrubStripe
  with_reducible repeat' (first
      | exact kD | exact Blk.le (by decide) sB | assumption | apply endPass_k | apply maintain_k | intro _ _
      | apply scrubOne_k | split | (apply Keeps.fstOf; assumption) | dsimp only)

theorem doScrubCtl_k {h : Hdr} {action : Nat} {d : Dev}
    (sB : Blk.sub [.out, .vault, .cat, .hif, .dma] L = true) (kD : Keeps L D d) :
    Keeps L D (doScrubCtl h action d) := by
  unfold doScrubCtl
  with_reducible repeat' (first
      | exact kD | exact Blk.le (by decide) sB | assumption | apply complete_k | apply onVault_k | split | dsimp only)

theorem rebuildMembers_k {l : LayoutRec} {s : Nat} {app : W16} {rows : List (Option (List (List Byte)))} {lost : List Nat}
    {d : Dev}
    (h : Blk.sub [.out, .vault, .cat, .ciph, .hif, .tango, .mca, .dma,
      .evr] L = true) (k : Keeps L D d) : Keeps L D (rebuildMembers l s app rows lost d).1 := by
  unfold rebuildMembers
  apply foldlP_k
  · intro x j k
    split
    · exact spareOut_k (Blk.le (by decide) h) k
    · exact emit_k (Blk.le (by decide) h) (remapMember_k (by assumption) (Blk.le (by decide) h) k)
  · exact k

theorem rebuilt_k {l : LayoutRec} {s : Nat} {d : Dev}
    (sB : Blk.sub [.out, .vault, .disk] L = true) (kD : Keeps L D d) :
    Keeps L D (rebuilt l s d) := by
  unfold rebuilt
  with_reducible repeat' (first
      | exact kD | exact Blk.le (by decide) sB | assumption | apply onVault_k | apply persistProgress_k | split | dsimp only)

theorem rebuildStripe_k {r : StripeIn} {l : LayoutRec} {d : Dev}
    (sB : Blk.sub [.out, .vault, .vcnt, .cat, .disk, .ciph, .hif, .tango, .mca, .dma, .evr] L = true) (kD : Keeps L D d) :
    Keeps L D (rebuildStripe r l d) := by
  unfold rebuildStripe
  with_reducible repeat' (first
      | exact kD | exact Blk.le (by decide) sB | assumption | apply countStripe_k | apply emits_k | apply loseStripe_k
      | apply onVcnt_k | apply oweRows_k | apply rebuildMembers_k | apply rebuilt_k | split | (apply Keeps.fstOf; assumption)
      | dsimp only)

theorem rebuildNext_k {r : StripeIn} {d : Dev}
    (sB : Blk.sub [.out, .vault, .vcnt, .cat, .disk, .ciph, .hif, .tango, .mca, .dma, .evr] L = true) (kD : Keeps L D d) :
    Keeps L D (rebuildNext r d) := by
  unfold rebuildNext
  with_reducible repeat' (first
      | exact kD | exact Blk.le (by decide) sB | assumption | apply maintain_k | intro _ _ | apply rebuildStripe_k | split
      | (apply Keeps.fstOf; assumption) | dsimp only)

theorem unmap_k {l : LayoutRec} {s slot chunk : Nat} {d : Dev}
    (sB : Blk.sub [.out, .vault, .cat, .ciph, .hif, .tango, .mca, .dma, .evr] L = true) (kD : Keeps L D d) :
    Keeps L D (unmap l s slot chunk d) := by
  unfold unmap
  with_reducible repeat' (first
      | exact kD | exact Blk.le (by decide) sB | assumption | apply appendRec_k | apply onVault_k | split | dsimp only)

theorem chunkBack_k {slot : Nat} {e : Nat × Nat} {d : Dev}
    (sB : Blk.sub [.out, .vault, .cat, .hif, .dma] L = true) (kD : Keeps L D d) :
    Keeps L D (chunkBack slot e d) := by
  unfold chunkBack
  with_reducible repeat' (first
      | exact kD | exact Blk.le (by decide) sB | assumption | apply endReplace_k | apply onVault_k | split | dsimp only)

theorem copyChunk_k {slot : Nat} {e : Nat × Nat} {l : LayoutRec} {s k : Nat} {m : List (List SecRead)} {d : Dev}
    (sB : Blk.sub [.out, .vault, .vcnt, .cat, .ciph, .hif, .tango, .mca, .dma, .evr] L = true) (kD : Keeps L D d) :
    Keeps L D (copyChunk slot e l s k m d) := by
  unfold copyChunk
  with_reducible repeat' (first
      | exact kD | exact Blk.le (by decide) sB | assumption | apply chunkBack_k | apply countStripe_k | apply emit_k
      | apply emits_k | apply loseStripe_k | apply unmap_k | split | dsimp only)

theorem copyBack_k {slot chunk : Nat} {m : List (List SecRead)} {d : Dev}
    (sB : Blk.sub [.out, .vault, .vcnt, .cat, .ciph, .hif, .tango, .mca, .dma, .evr] L = true) (kD : Keeps L D d) :
    Keeps L D (copyBack slot chunk m d) := by
  unfold copyBack
  with_reducible repeat' (first
      | exact kD | exact Blk.le (by decide) sB | assumption | apply chunkBack_k | apply copyChunk_k | apply maintain_k
      | intro _ _ | split | (apply Keeps.fstOf; assumption) | dsimp only)

theorem addFound_k {l : LayoutRec} {s : Nat} {x : Nat × TileHdr} {d : Dev}
    (sB : Blk.sub [.cat] L = true) (kD : Keeps L D d) :
    Keeps L D (addFound l s x d) := by
  unfold addFound
  with_reducible repeat' (first | exact kD | exact Blk.le (by decide) sB | assumption | apply onPart_k | split | dsimp only)

theorem scanStripe_k {l : LayoutRec} {r : StripeIn} {d : Dev}
    (sB : Blk.sub [.out, .vault, .cat] L = true) (kD : Keeps L D d) :
    Keeps L D (scanStripe l r d) := by
  unfold scanStripe
  with_reducible repeat' (first
      | exact kD | exact Blk.le (by decide) sB | assumption | apply addFound_k | apply countStripe_k | apply emits_k
      | apply onVault_k | apply oweRows_k | apply oweStrip_k | (apply each_k; intro _ _ _) | split
      | (apply Keeps.fstOf; assumption) | dsimp only)

theorem pumpScan_k {d : Dev} (sB : Blk.sub [.out, .vault, .cat, .hif, .dma] L = true) (kD : Keeps L D d) :
    Keeps L D (pumpScan d) := by
  unfold pumpScan
  with_reducible repeat' (first
      | exact kD | exact Blk.le (by decide) sB | assumption | apply complete_k | apply maintain_k | intro _ _
      | apply onVault_k | apply scanStripe_k | (apply each_k; intro _ _ _) | split | (apply Keeps.fstOf; assumption)
      | dsimp only)

theorem doLayoutScan_k {h : Hdr} {reads : List StripeIn} {d : Dev}
    (sB : Blk.sub [.out, .vault, .cat, .hif, .dma] L = true) (kD : Keeps L D d) :
    Keeps L D (doLayoutScan h reads d) := by
  unfold doLayoutScan
  with_reducible repeat' (first
      | exact kD | exact Blk.le (by decide) sB | assumption | apply complete_k | apply onVault_k | apply pumpScan_k | split
      | dsimp only)

/-! ## Reshape -/

theorem startMoving_k {src target : Nat} {d : Dev} (sB : Blk.sub [.vault] L = true) (kD : Keeps L D d) :
    Keeps L D (startMoving src target d) := by
  unfold startMoving
  with_reducible repeat' (first | exact kD | exact Blk.le (by decide) sB | assumption | apply onVault_k | split | dsimp only)

theorem doReshape_k {h : Hdr} {v target method : Nat} {d : Dev}
    (sB : Blk.sub [.out, .vault, .cat, .hif, .dma] L = true) (kD : Keeps L D d) :
    Keeps L D (doReshape h v target method d) := by
  unfold doReshape
  with_reducible repeat' (first
      | exact kD | exact Blk.le (by decide) sB | assumption | apply complete_k | apply onVault_k | apply startMoving_k
      | split | dsimp only)

theorem dropLayout_k {id : Nat} {d : Dev} (sB : Blk.sub [.out, .vault, .disk] L = true) (kD : Keeps L D d) :
    Keeps L D (dropLayout id d) := by
  unfold dropLayout
  with_reducible repeat' (first
      | exact kD | exact Blk.le (by decide) sB | assumption | apply onVault_k | apply writeLabels_k | split | dsimp only)

theorem endReshape_k {r : Reshape} {d : Dev}
    (sB : Blk.sub [.out, .free, .vault, .cat, .disk, .ciph, .hif, .tango, .bpm, .mca, .dma, .evr] L = true) (kD : Keeps L D d) :
    Keeps L D (endReshape r d) := by
  unfold endReshape
  with_reducible repeat' (first
      | exact kD | exact Blk.le (by decide) sB | assumption | apply complete_k | apply dropLayout_k | apply onVault_k
      | apply startCommit_k | split | dsimp only)

theorem onReshape_k {f : Reshape → Reshape} {d : Dev} (sB : Blk.sub [.vault] L = true) (kD : Keeps L D d) :
    Keeps L D (onReshape f d) := by
  unfold onReshape
  with_reducible repeat' (first | exact kD | exact Blk.le (by decide) sB | assumption | apply onVault_k | split | dsimp only)

theorem reshapeRead_k {l : LayoutRec} {s : Nat} {app : W16} {data : StripeData} {m : List (List SecRead)} {d : Dev}
    (sB : Blk.sub [.out, .vault, .vcnt, .cat, .ciph, .hif, .tango, .mca, .dma, .evr] L = true) (kD : Keeps L D d) :
    Keeps L D (reshapeRead l s app data m d) := by
  unfold reshapeRead
  with_reducible repeat' (first
      | exact kD | exact Blk.le (by decide) sB | assumption | apply countStripe_k | apply emits_k | apply loseStripe_k
      | apply oweRows_k | split | dsimp only)

theorem freshReshape_k {l : LayoutRec} {t : Take} {d : Dev}
    (sB : Blk.sub [.out, .vault, .cat, .ciph, .hif, .tango, .bpm, .mca, .dma, .evr] L = true) (kD : Keeps L D d) :
    Keeps L D (freshReshape l t d).1 := by
  unfold freshReshape
  with_reducible repeat' (first
      | exact kD | exact Blk.le (by decide) sB | assumption | apply allocBuffers_k | apply allocStripe_k | apply undoStripe_k
      | split | (apply Keeps.fstOf; assumption) | dsimp only)

theorem copyStripe_k {r : Reshape} {src dst : LayoutRec} {t : Take} {x : StripeIn} {d : Dev}
    (sB : Blk.sub [.out, .vault, .vcnt, .cat, .ciph, .hif, .tango, .bpm, .mca, .dma, .evr] L = true) (kD : Keeps L D d) :
    Keeps L D (copyStripe r src dst t x d) := by
  unfold copyStripe
  with_reducible repeat' (first
      | exact kD | exact Blk.le (by decide) sB | assumption | apply freeBuffers_k | apply freshReshape_k | apply onCat_k
      | apply onReshape_k | apply queueStripe_k | apply reshapeRead_k | apply undoStripe_k | (apply foldl_k; intro _ _ _)
      | split | (apply Keeps.fstOf; assumption) | (apply foldlP_k; intro _ _ _) | dsimp only)

theorem switchTake_k {r : Reshape} {src dst : LayoutRec} {t : Take} {d : Dev}
    (sB : Blk.sub [.out, .free, .vault, .cat, .ciph, .hif, .tango, .bpm, .mca, .dma, .evr] L = true) (kD : Keeps L D d) :
    Keeps L D (switchTake r src dst t d) := by
  unfold switchTake
  with_reducible repeat' (first
      | exact kD | exact Blk.le (by decide) sB | assumption | apply onCat_k | apply onReshape_k | apply onTake_k
      | apply startCommit_k | (apply foldl_k; intro _ _ _) | split | (apply mapGetD_k; intro _)
      | (apply foldlP_k; intro _ _ _) | dsimp only)

theorem endSide_k {r : Reshape} {d : Dev}
    (sB : Blk.sub [.out, .free, .vault, .cat, .disk, .ciph, .hif, .tango, .bpm, .mca, .dma, .evr] L = true) (kD : Keeps L D d) :
    Keeps L D (endSide r d) := by
  unfold endSide
  with_reducible repeat' (first
      | exact kD | exact Blk.le (by decide) sB | assumption | apply endReshape_k | apply freeStripe_k | apply onCat_k
      | apply onVolume_k | (apply each_k; intro _ _ _) | split | (apply Keeps.fstOf; assumption) | dsimp only)

theorem sideBatch_k {r : Reshape} {reads : List StripeIn} {d : Dev}
    (sB : Blk.sub [.out, .free, .vault, .vcnt, .cat, .disk, .ciph, .hif, .tango, .bpm, .mca, .dma,
      .evr] L = true) (kD : Keeps L D d) :
    Keeps L D (sideBatch r reads d) := by
  unfold sideBatch
  with_reducible repeat' (first
      | exact kD | exact Blk.le (by decide) sB | assumption | apply copyStripe_k | apply endSide_k | apply switchTake_k
      | split | dsimp only)

theorem loseEntries_k {f : LayoutRec} {x : ReadIn} {d : Dev} (sB : Blk.sub [.cat] L = true) (kD : Keeps L D d) :
    Keeps L D (loseEntries f x d) := by
  unfold loseEntries
  with_reducible repeat' (first | exact kD | exact Blk.le (by decide) sB | assumption | apply onCat_k | split | dsimp only)

theorem onMoving_k {f : Nat} {g : Moving → Moving} {d : Dev} (sB : Blk.sub [.vault] L = true) (kD : Keeps L D d) :
    Keeps L D (onMoving f g d) := by
  unfold onMoving
  with_reducible repeat' (first | exact kD | exact Blk.le (by decide) sB | assumption | apply onVault_k | split | dsimp only)

theorem stopMoving_k {r : Reshape} {l : LayoutRec} {m : Moving} {d : Dev}
    (sB : Blk.sub [.out, .free, .vault, .cat, .hif, .dma, .evr] L = true) (kD : Keeps L D d) :
    Keeps L D (stopMoving r l m d) := by
  unfold stopMoving
  with_reducible repeat' (first
      | exact kD | exact Blk.le (by decide) sB | assumption | apply complete_k | apply drawn_k | apply logEvent_k
      | apply onVault_k | split | dsimp only)

theorem backUp_k {r : Reshape} {l f : LayoutRec} {m : Moving} {reads : List StripeIn} {d : Dev}
    (sB : Blk.sub [.out, .free, .vault, .vcnt, .cat, .disk, .ciph, .hif, .tango, .mca, .dma,
      .evr] L = true) (kD : Keeps L D d) :
    Keeps L D (backUp r l f m reads d) := by
  unfold backUp
  with_reducible repeat' (first
      | exact kD | exact Blk.le (by decide) sB | assumption | apply countStripe_k | apply emits_k | apply loseEntries_k
      | apply onMoving_k | apply persistProgress_k | apply reshapeRead_k | apply stopMoving_k | (apply foldl_k; intro _ _ _)
      | split | (apply mapGetD_k; intro _) | (apply foldlP_k; intro _ _ _) | dsimp only)

theorem endMoving_k {r : Reshape} {d : Dev}
    (sB : Blk.sub [.out, .free, .vault, .cat, .disk, .ciph, .hif, .tango, .bpm, .mca, .dma, .evr] L = true) (kD : Keeps L D d) :
    Keeps L D (endMoving r d) := by
  unfold endMoving
  with_reducible repeat' (first
      | exact kD | exact Blk.le (by decide) sB | assumption | apply endReshape_k | apply onCat_k | apply onVault_k
      | (apply foldl_k; intro _ _ _) | split | (apply foldlP_k; intro _ _ _) | dsimp only)

theorem convert_k {r : Reshape} {l f : LayoutRec} {m : Moving} {x : Batch} {d : Dev}
    (sB : Blk.sub [.out, .free, .vault, .cat, .disk, .ciph, .hif, .tango, .bpm, .mca, .dma, .evr] L = true) (kD : Keeps L D d) :
    Keeps L D (convert r l f m x d) := by
  unfold convert
  with_reducible repeat' (first
      | exact kD | exact Blk.le (by decide) sB | assumption | apply emits_k | apply endMoving_k | apply onMoving_k
      | apply onReshape_k | apply onVault_k | apply persistProgress_k | split | dsimp only)

theorem boundaryBatch_k {r : Reshape} {reads : List StripeIn} {d : Dev}
    (sB : Blk.sub [.out, .free, .vault, .vcnt, .cat, .disk, .ciph, .hif, .tango, .bpm, .mca, .dma,
      .evr] L = true) (kD : Keeps L D d) :
    Keeps L D (boundaryBatch r reads d) := by
  unfold boundaryBatch
  with_reducible repeat' (first
      | exact kD | exact Blk.le (by decide) sB | assumption | apply backUp_k | apply convert_k | split | dsimp only)

theorem reshapeBatch_k {reads : List StripeIn} {d : Dev}
    (sB : Blk.sub [.out, .free, .vault, .vcnt, .cat, .disk, .ciph, .hif, .tango, .bpm, .mca, .dma,
      .evr] L = true) (kD : Keeps L D d) :
    Keeps L D (reshapeBatch reads d) := by
  unfold reshapeBatch
  with_reducible repeat' (first
      | exact kD | exact Blk.le (by decide) sB | assumption | apply boundaryBatch_k | apply maintain_k | intro _ _
      | apply sideBatch_k | split | (apply Keeps.fstOf; assumption) | (apply mapGetD_k; intro _) | dsimp only)

/-! ## Hbm -/

theorem barrierCmd_k {d : Dev} (sB : Blk.sub [.out, .mca] L = true) (kD : Keeps L D d) :
    Keeps L D (barrierCmd d) := by
  unfold barrierCmd
  with_reducible repeat' (first
      | exact kD | exact Blk.le (by decide) sB | assumption | apply emit_k | apply onMca_k | split | dsimp only)

theorem startDrain_k {d : Dev} (sB : Blk.sub [.mca] L = true) (kD : Keeps L D d) :
    Keeps L D (startDrain d) := by
  unfold startDrain
  with_reducible repeat' (first | exact kD | exact Blk.le (by decide) sB | assumption | apply onMca_k | split | dsimp only)

theorem parityLimit_k {d : Dev} (sB : Blk.sub [.out, .cat, .hif, .mca, .dma, .evr] L = true) (kD : Keeps L D d) :
    Keeps L D (parityLimit d) := by
  unfold parityLimit
  with_reducible repeat' (first
      | exact kD | exact Blk.le (by decide) sB | assumption | apply logEvent_k | apply onMca_k | apply startDrain_k | split
      | dsimp only)

end Sys2Proof.Machine
end

