-- ==== Sys2Proof/Laws/KeepsData.lean ====
section
/-! SUPPORT. What the operations of these parts can change: pipes, links, ingest, replay, copies and RDMA. -/

namespace Sys2Proof.Machine
open Sys2Proof

variable {L : List Blk} {D : Dev}

/-! ## Pipe -/

theorem dropResident_k {g : Fin 4} {reason bytes : Nat} {d : Dev} (sB : Blk.sub [.lg] L = true) (kD : Keeps L D d) :
    Keeps L D (dropResident g reason bytes d) := by
  unfold dropResident
  with_reducible repeat' (first
      | exact kD | exact Blk.le (by decide) sB | assumption | apply onLedger_k | split | dsimp only)

theorem endFrame_k {g : Fin 4} {t : Take} {c : Closing} {gsn : W32} {d : Dev}
    (sB : Blk.sub [.lg, .pipes] L = true) (kD : Keeps L D d) :
    Keeps L D (endFrame g t c gsn d) := by
  unfold endFrame
  with_reducible repeat' (first
      | exact kD | exact Blk.le (by decide) sB | assumption | apply onLedger_k | apply onPipe_k | split
      | (apply mapGetD_k; intro _) | dsimp only)

theorem openImplicit_k {g : Fin 4} {s : Slot} {d : Dev} (sB : Blk.sub [.pipes] L = true) (kD : Keeps L D d) :
    Keeps L D (openImplicit g s d) := by
  unfold openImplicit
  with_reducible repeat' (first | exact kD | exact Blk.le (by decide) sB | assumption | apply onPipe_k | split | dsimp only)

theorem haveFrame_k {g : Fin 4} {t : Take} {s : Slot} {d : Dev}
    (sB : Blk.sub [.lg, .pipes] L = true) (kD : Keeps L D d) :
    Keeps L D (haveFrame g t s d) := by
  unfold haveFrame
  with_reducible repeat' (first
      | exact kD | exact Blk.le (by decide) sB | assumption | apply endFrame_k | apply onPipe_k | apply openImplicit_k
      | split | dsimp only)

theorem consumeData_k {g : Fin 4} {t : Take} {s : Slot} {d : Dev}
    (sB : Blk.sub [.lg, .pipes] L = true) (kD : Keeps L D d) :
    Keeps L D (consumeData g t s d) := by
  unfold consumeData
  with_reducible repeat' (first
      | exact kD | exact Blk.le (by decide) sB | assumption | apply dropResident_k | apply haveFrame_k | apply onLedger_k
      | apply onPipe_k | split | (apply mapGetD_k; intro _) | dsimp only)

theorem consumeClose_k {g : Fin 4} {t : Take} {s : Slot} {d : Dev}
    (sB : Blk.sub [.lg, .pipes] L = true) (kD : Keeps L D d) :
    Keeps L D (consumeClose g t s d) := by
  unfold consumeClose
  with_reducible repeat' (first
      | exact kD | exact Blk.le (by decide) sB | assumption | apply endFrame_k | apply haveFrame_k | apply onPipe_k | split
      | dsimp only)

theorem flushLost_k {g : Fin 4} {t : Take} {upto : Nat} {d : Dev}
    (sB : Blk.sub [.lg, .pipes] L = true) (kD : Keeps L D d) :
    Keeps L D (flushLost g t upto d) := by
  unfold flushLost
  with_reducible repeat' (first
      | exact kD | exact Blk.le (by decide) sB | assumption | apply endFrame_k | apply onLedger_k | apply onPipe_k
      | (apply each_k; intro _ _ _) | split | (apply Keeps.fstOf; assumption) | dsimp only)

theorem consumeOpen_k {g : Fin 4} {t : Take} {s : Slot} {d : Dev}
    (sB : Blk.sub [.out, .lg, .pipes, .cat, .hif, .dma, .evr] L = true) (kD : Keeps L D d) :
    Keeps L D (consumeOpen g t s d) := by
  unfold consumeOpen
  with_reducible repeat' (first
      | exact kD | exact Blk.le (by decide) sB | assumption | apply endFrame_k | apply flushLost_k | apply logEvent_k
      | apply onPipe_k | split | dsimp only)

theorem consumeMeta_k {g : Fin 4} {t : Take} {s : Slot} {d : Dev}
    (sB : Blk.sub [.pipes, .cat] L = true) (kD : Keeps L D d) :
    Keeps L D (consumeMeta g t s d) := by
  unfold consumeMeta
  with_reducible repeat' (first
      | exact kD | exact Blk.le (by decide) sB | assumption | apply onPipe_k | apply onTake_k | split
      | (apply mapGetD_k; intro _) | dsimp only)

theorem consumeMissing_k {g : Fin 4} {s : Slot} {d : Dev} (sB : Blk.sub [.lg, .pipes] L = true) (kD : Keeps L D d) :
    Keeps L D (consumeMissing g s d) := by
  unfold consumeMissing
  with_reducible repeat' (first
      | exact kD | exact Blk.le (by decide) sB | assumption | apply onLedger_k | apply onPipe_k | split | dsimp only)

theorem breakOrder_k {g : Fin 4} {s : Slot} {d : Dev} (sB : Blk.sub [.sl, .lg, .pipes] L = true) (kD : Keeps L D d) :
    Keeps L D (breakOrder g s d) := by
  unfold breakOrder
  with_reducible repeat' (first
      | exact kD | exact Blk.le (by decide) sB | assumption | apply consumeMissing_k | apply dropResident_k | apply onGroup_k
      | split | dsimp only)

theorem passSlot_k {g : Fin 4} {s : Slot} {d : Dev} (sB : Blk.sub [.lg] L = true) (kD : Keeps L D d) :
    Keeps L D (passSlot g s d) := by
  unfold passSlot
  with_reducible repeat' (first
      | exact kD | exact Blk.le (by decide) sB | assumption | apply onLedger_k | split | dsimp only)

theorem sealTail_k {g : Fin 4} {t : Take} {d : Dev}
    {y : Dev} (q : sealTail g t d = some y) (sB : Blk.sub [.out, .free, .lg, .pipes, .vault, .cat, .ciph, .hif, .tango, .bpm,
      .mca, .dma, .evr] L = true) (kD : Keeps L D d) :
    Keeps L D y := by
  unfold sealTail at q
  try dsimp only at q
  repeat' (first | (cases q; done) | split at q | (simp only [Option.map_eq_some_iff] at q; obtain ⟨_, _, q⟩ := q))
  all_goals try cases q
  all_goals with_reducible repeat' (first
      | exact kD | exact Blk.le (by decide) sB | assumption | apply needStripe_k | apply onLedger_k | apply onPipe_k
      | apply sealPipe_k | split | (apply Keeps.fstOf; assumption) | (apply mapGetD_k; intro _) | dsimp only)

theorem endTakeOn_k {g : Fin 4} {t : Take} {d : Dev}
    {y : Dev} (q : endTakeOn g t d = some y) (sB : Blk.sub [.out, .free, .lg, .pipes, .vault, .cat, .ciph, .dgst, .hif,
      .tango, .bpm, .mca, .dma, .evr] L = true) (kD : Keeps L D d) :
    Keeps L D y := by
  unfold endTakeOn at q
  try dsimp only at q
  repeat' (first | (cases q; done) | split at q | (simp only [Option.map_eq_some_iff] at q; obtain ⟨_, _, q⟩ := q))
  all_goals try cases q
  all_goals with_reducible repeat' (first
      | exact kD | exact Blk.le (by decide) sB | assumption | apply advanceTake_k | apply endFrame_k | apply flushLost_k
      | apply onPipe_k | apply onTake_k | (apply sealTail_k; assumption) | apply settleC_k | (apply getD_k; intro _ _)
      | split | (apply mapGetD_k; intro _) | dsimp only)

theorem orderPast_k {g : Fin 4} {s : Slot} {d : Dev} (sB : Blk.sub [.pipes] L = true) (kD : Keeps L D d) :
    Keeps L D (orderPast g s d) := onPipe_k sB kD

theorem consumeNone_k {g : Fin 4} {s : Slot} {d : Dev} (sB : Blk.sub [.lg, .pipes] L = true) (kD : Keeps L D d) :
    Keeps L D (consumeNone g s d) := by
  unfold consumeNone
  with_reducible repeat' (first
      | exact kD | exact Blk.le (by decide) sB | assumption | apply dropResident_k | apply onLedger_k | apply orderPast_k
      | apply passSlot_k | apply settleC_k | split | (apply Keeps.fstOf; assumption) | dsimp only)

theorem consumeSound_k {g : Fin 4} {t : Take} {s : Slot} {d : Dev}
    (sB : Blk.sub [.out, .lg, .pipes, .cat, .hif, .dma, .evr] L = true) (kD : Keeps L D d) :
    Keeps L D (consumeSound g t s d) := by
  unfold consumeSound
  with_reducible repeat' (first
      | exact kD | exact Blk.le (by decide) sB | assumption | apply consumeClose_k | apply consumeData_k
      | apply consumeMeta_k | apply consumeOpen_k | apply onPipe_k | split | dsimp only)

theorem consumeAs_k {g : Fin 4} {t : Take} {s : Slot} {d : Dev}
    (sB : Blk.sub [.out, .sl, .lg, .pipes, .cat, .hif, .dma, .evr] L = true) (kD : Keeps L D d) :
    Keeps L D (consumeAs g t s d) := by
  unfold consumeAs
  with_reducible repeat' (first
      | exact kD | exact Blk.le (by decide) sB | assumption | apply breakOrder_k | apply consumeMissing_k
      | apply consumeSound_k | apply orderPast_k | split | (apply Keeps.fstOf; assumption) | dsimp only)

theorem consumeIn_k {g : Fin 4} {t : Take} {s : Slot} {d : Dev}
    (sB : Blk.sub [.out, .sl, .lg, .pipes, .cat, .hif, .dma, .evr] L = true) (kD : Keeps L D d) :
    Keeps L D (consumeIn g t s d) := by
  unfold consumeIn
  with_reducible repeat' (first
      | exact kD | exact Blk.le (by decide) sB | assumption | apply consumeAs_k | apply onLedger_k | apply passSlot_k | split
      | dsimp only)

theorem beginTake_k {g : Fin 4} {t : Take} {s : Slot} {d : Dev}
    (sB : Blk.sub [.lg, .pipes, .cat] L = true) (kD : Keeps L D d) :
    Keeps L D (beginTake g t s d) := by
  unfold beginTake
  with_reducible repeat' (first
      | exact kD | exact Blk.le (by decide) sB | assumption | apply onLedger_k | apply onPipe_k | apply onTake_k | split
      | dsimp only)

theorem consumeOne_k {g : Fin 4} {d : Dev}
    {y : Dev} (q : consumeOne g d = some y) (sB : Blk.sub [.out, .free, .sl, .lg, .pipes, .vault, .cat, .ciph, .dgst, .hif,
      .tango, .bpm, .mca, .dma, .evr] L = true) (kD : Keeps L D d) :
    Keeps L D y := by
  unfold consumeOne at q
  try dsimp only at q
  repeat' (first | (cases q; done) | split at q)
  all_goals try cases q
  all_goals with_reducible repeat' (first
      | exact kD | exact Blk.le (by decide) sB | assumption | apply beginTake_k | apply consumeIn_k | apply consumeNone_k
      | (apply endTakeOn_k; assumption) | split | dsimp only)

theorem consumeN_k {g : Fin 4} {n : Nat} {d : Dev}
    (sB : Blk.sub [.out, .free, .sl, .lg, .pipes, .vault, .cat, .ciph, .dgst, .hif, .tango, .bpm, .mca, .dma, .evr] L = true)
    (kD : Keeps L D d) :
    Keeps L D (consumeN g n d) := by
  induction n generalizing d with
  | zero => exact kD
  | succ n ih =>
    unfold consumeN
    with_reducible repeat' (first
        | apply ih | exact kD | exact Blk.le (by decide) sB | assumption | (apply consumeOne_k; assumption) | split
        | dsimp only)

theorem consume_k {g : Fin 4} {d : Dev}
    (sB : Blk.sub [.out, .free, .sl, .lg, .pipes, .vault, .cat, .ciph, .dgst, .hif, .tango, .bpm, .mca, .dma,
      .evr] L = true) (kD : Keeps L D d) :
    Keeps L D (consume g d) := by
  unfold consume
  with_reducible repeat' (first
      | exact kD | exact Blk.le (by decide) sB | assumption | apply consumeN_k | apply refreshLimit_k | split
      | (apply Keeps.fstOf; assumption) | dsimp only)

theorem tileDone_k {g : Fin 4} {r : RawTile} {f : Pipe → Pipe} {d : Dev}
    (sB : Blk.sub [.lg, .pipes] L = true) (kD : Keeps L D d) :
    Keeps L D (tileDone g r f d) := by
  unfold tileDone
  with_reducible repeat' (first
      | exact kD | exact Blk.le (by decide) sB | assumption | apply onLedger_k | apply onPipe_k | split | dsimp only)

theorem putReference_k {g : Fin 4} {t : Take} {part : Nat} {r : RawTile} {way : Nat} {e : HotEnt} {d : Dev}
    (sB : Blk.sub [.out, .lg, .pipes, .vault, .cat, .ciph, .hif, .tango, .bpm, .mca, .dma, .evr] L = true) (kD : Keeps L D d) :
    Keeps L D (putReference g t part r way e d) := by
  unfold putReference
  with_reducible repeat' (first
      | exact kD | exact Blk.le (by decide) sB | assumption | apply needStripe_k | apply onCat_k | apply setStripe_k
      | apply tileDone_k | split | (apply Keeps.fstOf; assumption) | dsimp only)

theorem putTile_k {g : Fin 4} {t : Take} {part : Nat} {r : RawTile} {m : Made} {again : Bool} {d : Dev}
    {y : Dev} (q : putTile g t part r m again d = some y) (sB : Blk.sub [.out, .lg, .pipes, .vault, .cat, .ciph, .hif, .tango,
      .bpm, .mca, .dma, .evr] L = true) (kD : Keeps L D d) :
    Keeps L D y := by
  unfold putTile at q
  try dsimp only at q
  repeat' (first | (cases q; done) | split at q)
  all_goals try cases q
  all_goals with_reducible repeat' (first
      | exact kD | exact Blk.le (by decide) sB | assumption | apply needStripe_k | apply setStripe_k | apply tileDone_k
      | split | (apply Keeps.fstOf; assumption) | dsimp only)

theorem placeTile_k {g : Fin 4} {t : Take} {part : Nat} {r : RawTile} {d : Dev}
    (sB : Blk.sub [.out, .free, .lg, .pipes, .vault, .cat, .ciph, .hif, .tango, .bpm, .mca, .dma,
      .evr] L = true) (kD : Keeps L D d) :
    Keeps L D (placeTile g t part r d) := by
  unfold placeTile
  with_reducible repeat' (first
      | exact kD | exact Blk.le (by decide) sB | assumption | apply makeTile_k | (apply putTile_k; assumption)
      | apply sealPipe_k | (apply getD_k; intro _ _) | split | (apply Keeps.sndOf; assumption) | (apply mapGetD_k; intro _)
      | dsimp only)

theorem encodeTile_k {g : Fin 4} {d : Dev}
    (sB : Blk.sub [.out, .free, .sl, .lg, .pipes, .vault, .cat, .ciph, .dgst, .hif, .tango, .bpm, .mca, .dma,
      .evr] L = true) (kD : Keeps L D d) :
    Keeps L D (encodeTile g d) := by
  unfold encodeTile
  with_reducible repeat' (first
      | exact kD | exact Blk.le (by decide) sB | assumption | apply consume_k | apply placeTile_k | apply putReference_k
      | split | (apply mapGetD_k; intro _) | dsimp only)

theorem referenceSeal_k {g : Fin 4} {least : Nat} {d : Dev}
    (sB : Blk.sub [.free, .pipes, .vault, .cat, .ciph] L = true) (kD : Keeps L D d) :
    Keeps L D (referenceSeal g least d) := by
  unfold referenceSeal
  with_reducible repeat' (first
      | exact kD | exact Blk.le (by decide) sB | assumption | apply sealPipe_k | split | dsimp only)

theorem releaseSlot_k {g : Fin 4} {s : Slot} {d : Dev} (sB : Blk.sub [.lg] L = true) (kD : Keeps L D d) :
    Keeps L D (releaseSlot g s d) := by
  unfold releaseSlot
  with_reducible repeat' (first
      | exact kD | exact Blk.le (by decide) sB | assumption | apply onLedger_k | split | dsimp only)

theorem moveSlot_k {g : Fin 4} {d : Dev}
    (sB : Blk.sub [.out, .free, .sl, .lg, .pipes, .vault, .cat, .ciph, .dgst, .hif, .tango, .bpm, .mca, .dma,
      .evr] L = true) (kD : Keeps L D d) :
    Keeps L D (moveSlot g d) := by
  unfold moveSlot
  with_reducible repeat' (first
      | exact kD | exact Blk.le (by decide) sB | assumption | apply consume_k | apply onLedger_k | apply refreshLimit_k
      | apply releaseSlot_k | split | dsimp only)

theorem poisonRing_k {g : Fin 4} {gsn : W32} {d : Dev} (sB : Blk.sub [.lg, .cat] L = true) (kD : Keeps L D d) :
    Keeps L D (poisonRing g gsn d) := by
  unfold poisonRing
  with_reducible repeat' (first
      | exact kD | exact Blk.le (by decide) sB | assumption | apply dropResident_k | apply onCat_k | apply onLedger_k | split
      | dsimp only)

theorem loseSlots_k {g : Fin 4} {x : TileDebt} {d : Dev}
    (sB : Blk.sub [.lg, .pipes, .vault] L = true) (kD : Keeps L D d) :
    Keeps L D (loseSlots g x d) := by
  unfold loseSlots
  with_reducible repeat' (first
      | exact kD | exact Blk.le (by decide) sB | assumption | apply onLedger_k | apply onPipe_k | apply onVault_k | split
      | (apply mapGetD_k; intro _) | dsimp only)

theorem unledger_k {g : Fin 4} {x : TileDebt} {sb : StripeBuf} {d : Dev}
    (sB : Blk.sub [.lg] L = true) (kD : Keeps L D d) : Keeps L D (unledger g x sb d) := by
  unfold unledger
  with_reducible repeat' (first
      | exact kD | exact Blk.le (by decide) sB | assumption | apply onLedger_k | split | dsimp only)

theorem poisonTile_k {g : Fin 4} {seq : W64} {d : Dev}
    (sB : Blk.sub [.out, .lg, .pipes, .vault, .cat, .ciph, .hif, .tango, .mca, .dma, .evr] L = true) (kD : Keeps L D d) :
    Keeps L D (poisonTile g seq d) := by
  unfold poisonTile
  with_reducible repeat' (first
      | exact kD | exact Blk.le (by decide) sB | assumption | apply unledger_k | apply loseSlots_k | apply onPipe_k | apply onVault_k
      | apply sealAgain_k | split | dsimp only)

/-! ## Link -/

theorem slSend_k {g : Fin 4} {p : Packet} {d : Dev} (sB : Blk.sub [.out, .sl] L = true) (kD : Keeps L D d) :
    Keeps L D (slSend g p d) := by
  unfold slSend
  with_reducible repeat' (first
      | exact kD | exact Blk.le (by decide) sB | assumption | apply emit_k | apply onGroup_k | split | dsimp only)

theorem notePairing_k {g : Fin 4} {d : Dev}
    (sB : Blk.sub [.out, .cat, .hif, .tango, .dma, .evr] L = true) (kD : Keeps L D d) :
    Keeps L D (notePairing g d) := by
  unfold notePairing
  with_reducible repeat' (first
      | exact kD | exact Blk.le (by decide) sB | assumption | apply logEvent_k | apply onTango_k | split | dsimp only)

theorem notePairings_k {d : Dev} (sB : Blk.sub [.out, .cat, .hif, .tango, .dma, .evr] L = true) (kD : Keeps L D d) :
    Keeps L D (notePairings d) := by
  unfold notePairings
  with_reducible repeat' (first
      | exact kD | exact Blk.le (by decide) sB | assumption | apply notePairing_k | (apply each_k; intro _ _ _) | split
      | (apply Keeps.fstOf; assumption) | dsimp only)

theorem grantChanged_k {d : Dev}
    (sB : Blk.sub [.out, .cat, .ciph, .hif, .tango, .dma, .evr] L = true) (kD : Keeps L D d) :
    Keeps L D (grantChanged d) := by
  unfold grantChanged
  with_reducible repeat' (first
      | exact kD | exact Blk.le (by decide) sB | assumption | apply notePairings_k | apply tangoSend_k | split | dsimp only)

theorem onLane_k {n : Nat} {f : Lane → Lane} {d : Dev} (sB : Blk.sub [.sl] L = true) (kD : Keeps L D d) :
    Keeps L D (onLane n f d) := by
  unfold onLane
  with_reducible repeat' (first | exact kD | exact Blk.le (by decide) sB | assumption | split | apply upd_sl | dsimp only)

theorem sendTrain_k {g : Fin 4} {target lane : Nat} {d : Dev} (sB : Blk.sub [.out, .sl] L = true) (kD : Keeps L D d) :
    Keeps L D (sendTrain g target lane d) := by
  unfold sendTrain
  with_reducible repeat' (first
      | exact kD | exact Blk.le (by decide) sB | assumption | apply emit_k | apply onLane_k | split | dsimp only)

theorem sendTrains_k {g : Fin 4} {target : Nat} {d : Dev} (sB : Blk.sub [.out, .sl] L = true) (kD : Keeps L D d) :
    Keeps L D (sendTrains g target d) := by
  unfold sendTrains
  with_reducible repeat' (first
      | exact kD | exact Blk.le (by decide) sB | assumption | apply sendTrain_k | (apply each_k; intro _ _ _) | split
      | (apply Keeps.fstOf; assumption) | dsimp only)

theorem startAttempt_k {g : Fin 4} {d : Dev} (sB : Blk.sub [.out, .sl] L = true) (kD : Keeps L D d) :
    Keeps L D (startAttempt g d) := by
  unfold startAttempt
  with_reducible repeat' (first
      | exact kD | exact Blk.le (by decide) sB | assumption | apply onGroup_k | apply onLane_k | apply sendTrains_k
      | (apply each_k; intro _ _ _) | split | (apply Keeps.fstOf; assumption) | dsimp only)

theorem linkUp_k {g : Fin 4} {d : Dev} (sB : Blk.sub [.out, .sl] L = true) (kD : Keeps L D d) :
    Keeps L D (linkUp g d) := by
  unfold linkUp
  with_reducible repeat' (first
      | exact kD | exact Blk.le (by decide) sB | assumption | apply onGroup_k | apply startAttempt_k | split | dsimp only)

theorem stopSettled_k {g : Fin 4} {d : Dev}
    (sB : Blk.sub [.out, .free, .sl, .lg, .pipes, .vault, .cat, .ciph, .dgst, .hif, .tango, .bpm, .mca, .dma,
      .evr] L = true) (kD : Keeps L D d) :
    Keeps L D (stopSettled g d) := by
  unfold stopSettled
  with_reducible repeat' (first
      | exact kD | exact Blk.le (by decide) sB | assumption | apply complete_k | apply consume_k | apply onCat_k
      | (apply each_k; intro _ _ _) | split | apply upd_sl | (apply Keeps.fstOf; assumption) | (apply mapGetD_k; intro _)
      | dsimp only)

theorem skipOpenFrame_k {g : Fin 4} {d : Dev} (sB : Blk.sub [.sl, .hif, .bpm] L = true) (kD : Keeps L D d) :
    Keeps L D (skipOpenFrame g d) := by
  unfold skipOpenFrame
  with_reducible repeat' (first
      | exact kD | exact Blk.le (by decide) sB | assumption | apply freeTile_k | apply onGroup_k | apply setJob_k | split
      | dsimp only)

theorem loseGrant_k {g : Fin 4} {d0 : Dev}
    (sB : Blk.sub [.out, .free, .sl, .lg, .pipes, .vault, .cat, .ciph, .dgst, .hif, .tango, .bpm, .mca, .dma,
      .evr] L = true) (kD : Keeps L D d0) :
    Keeps L D (loseGrant g d0) := by
  unfold loseGrant
  with_reducible repeat' (first
      | exact kD | exact Blk.le (by decide) sB | assumption | apply grantChanged_k | apply onGroup_k | apply skipOpenFrame_k
      | apply stopSettled_k | split | dsimp only)

theorem retrain_k {g : Fin 4} {cause : W32} {d : Dev}
    (sB : Blk.sub [.out, .free, .sl, .lg, .pipes, .vault, .cat, .ciph, .dgst, .hif, .tango, .bpm, .mca, .dma,
      .evr] L = true) (kD : Keeps L D d) :
    Keeps L D (retrain g cause d) := by
  unfold retrain
  with_reducible repeat' (first
      | exact kD | exact Blk.le (by decide) sB | assumption | apply logEvent_k | apply loseGrant_k | apply onGroup_k
      | apply startAttempt_k | split | dsimp only)

theorem failAttempt_k {g : Fin 4} {seen : Option (Nat × W32)} {d : Dev}
    (sB : Blk.sub [.out, .free, .sl, .lg, .pipes, .vault, .cat, .ciph, .dgst, .hif, .tango, .bpm, .mca, .dma,
      .evr] L = true) (kD : Keeps L D d) :
    Keeps L D (failAttempt g seen d) := by
  unfold failAttempt
  with_reducible repeat' (first
      | exact kD | exact Blk.le (by decide) sB | assumption | apply drawn_k | apply logEvent_k | apply loseGrant_k
      | apply onGroup_k | apply startAttempt_k | split | dsimp only)

theorem startLine_k {g : Fin 4} {d : Dev} (sB : Blk.sub [.sl] L = true) (kD : Keeps L D d) :
    Keeps L D (startLine g d) := by
  unfold startLine
  with_reducible repeat' (first | exact kD | exact Blk.le (by decide) sB | assumption | apply onGroup_k | split | dsimp only)

theorem countDown_k {g : Fin 4} {target : Nat} {d : Dev} (sB : Blk.sub [.out, .sl] L = true) (kD : Keeps L D d) :
    Keeps L D (countDown g target d) := by
  unfold countDown
  with_reducible repeat' (first
      | exact kD | exact Blk.le (by decide) sB | assumption | apply onGroup_k | apply sendTrains_k | apply startLine_k
      | (apply each_k; intro _ _ _) | split | (apply Keeps.fstOf; assumption) | dsimp only)

theorem answerTrain_k {g : Fin 4} {target : Nat} {d : Dev} (sB : Blk.sub [.out, .sl] L = true) (kD : Keeps L D d) :
    Keeps L D (answerTrain g target d) := by
  unfold answerTrain
  with_reducible repeat' (first
      | exact kD | exact Blk.le (by decide) sB | assumption | apply countDown_k | apply sendTrains_k | split | dsimp only)

theorem trainFrame_k {g : Fin 4} {lane : Fin 16} {control status : W32} {inverted : Bool} {d : Dev}
    (sB : Blk.sub [.out, .free, .sl, .lg, .pipes, .vault, .cat, .ciph, .dgst, .hif, .tango, .bpm, .mca, .dma,
      .evr] L = true) (kD : Keeps L D d) :
    Keeps L D (trainFrame g lane control status inverted d) := by
  unfold trainFrame
  with_reducible repeat' (first
      | exact kD | exact Blk.le (by decide) sB | assumption | apply answerTrain_k | apply drawn_k | apply failAttempt_k
      | apply onGroup_k | apply onLane_k | apply when_k | split | (apply Keeps.fstOf; assumption) | dsimp only)

theorem trainingFrame_k {g : Fin 4} {lane : Fin 16} {control status : W32} {inverted : Bool} {d : Dev}
    (sB : Blk.sub [.out, .free, .sl, .lg, .pipes, .vault, .cat, .ciph, .dgst, .hif, .tango, .bpm, .mca, .dma,
      .evr] L = true) (kD : Keeps L D d) :
    Keeps L D (trainingFrame g lane control status inverted d) := by
  unfold trainingFrame
  with_reducible repeat' (first
      | exact kD | exact Blk.le (by decide) sB | assumption | apply retrain_k | apply trainFrame_k | split | dsimp only)

theorem sendIdle_k {g : Fin 4} {d : Dev} (sB : Blk.sub [.out, .sl] L = true) (kD : Keeps L D d) :
    Keeps L D (sendIdle g d) := by
  unfold sendIdle
  with_reducible repeat' (first | exact kD | exact Blk.le (by decide) sB | assumption | apply slSend_k | split | dsimp only)

theorem sendOffer_k {g : Fin 4} {d : Dev} (sB : Blk.sub [.out, .free, .sl] L = true) (kD : Keeps L D d) :
    Keeps L D (sendOffer g d) := by
  unfold sendOffer
  with_reducible repeat' (first
      | exact kD | exact Blk.le (by decide) sB | assumption | apply drawn_k | apply slSend_k | split | dsimp only)

theorem codewordLock_k {g : Fin 4} {d : Dev} (sB : Blk.sub [.out, .free, .sl] L = true) (kD : Keeps L D d) :
    Keeps L D (codewordLock g d) := by
  unfold codewordLock
  with_reducible repeat' (first
      | exact kD | exact Blk.le (by decide) sB | assumption | apply onGroup_k | apply onLane_k | apply sendIdle_k
      | apply sendOffer_k | apply startLine_k | (apply each_k; intro _ _ _) | split | (apply Keeps.fstOf; assumption)
      | dsimp only)

theorem retireCredit_k {g : Fin 4} {lo oldEnd newEnd : W32} {d : Dev}
    (sB : Blk.sub [.lg] L = true) (kD : Keeps L D d) :
    Keeps L D (retireCredit g lo oldEnd newEnd d) := by
  unfold retireCredit
  with_reducible repeat' (first
      | exact kD | exact Blk.le (by decide) sB | assumption | apply onLedger_k | split | dsimp only)

theorem applyGrant_k {g : Fin 4} {c : Cap} {d : Dev}
    (sB : Blk.sub [.out, .sl, .lg, .cat, .ciph, .hif, .tango, .dma, .evr] L = true) (kD : Keeps L D d) :
    Keeps L D (applyGrant g c d) := by
  unfold applyGrant
  with_reducible repeat' (first
      | exact kD | exact Blk.le (by decide) sB | assumption | apply onGroup_k | apply onLedger_k | apply openGap_k
      | apply retireCredit_k | split | dsimp only)

theorem sendGrant_k {g : Fin 4} {c : Cap} {status : Nat} {init : W32} {d : Dev}
    (sB : Blk.sub [.out, .sl] L = true) (kD : Keeps L D d) :
    Keeps L D (sendGrant g c status init d) := by
  unfold sendGrant
  with_reducible repeat' (first
      | exact kD | exact Blk.le (by decide) sB | assumption | apply onGroup_k | apply slSend_k | split | dsimp only)

theorem answerOffer_k {g : Fin 4} {p : Packet} {d : Dev}
    (sB : Blk.sub [.out, .sl, .lg, .cat, .ciph, .hif, .tango, .dma, .evr] L = true) (kD : Keeps L D d) :
    Keeps L D (answerOffer g p d) := by
  unfold answerOffer
  with_reducible repeat' (first
      | exact kD | exact Blk.le (by decide) sB | assumption | apply applyGrant_k | apply grantChanged_k | apply onGroup_k
      | apply refreshLimit_k | apply sendGrant_k | split | dsimp only)

theorem sendCredit_k {g : Fin 4} {d : Dev} (sB : Blk.sub [.out, .sl] L = true) (kD : Keeps L D d) :
    Keeps L D (sendCredit g d) := by
  unfold sendCredit
  with_reducible repeat' (first
      | exact kD | exact Blk.le (by decide) sB | assumption | apply onGroup_k | apply slSend_k | split | dsimp only)

theorem stopGroup_k {reason : Nat} {g : Fin 4} {d : Dev} (sB : Blk.sub [.out, .sl] L = true) (kD : Keeps L D d) :
    Keeps L D (stopGroup reason g d) := by
  unfold stopGroup
  with_reducible repeat' (first
      | exact kD | exact Blk.le (by decide) sB | assumption | apply onGroup_k | apply slSend_k | split | apply upd_sl
      | dsimp only)

theorem stopGroups_k {reason : Nat} {gs : List (Fin 4)} {d : Dev}
    (sB : Blk.sub [.out, .free, .sl, .lg, .pipes, .vault, .cat, .ciph, .dgst, .hif, .tango, .bpm, .mca, .dma,
      .evr] L = true) (kD : Keeps L D d) :
    Keeps L D (stopGroups reason gs d) := by
  unfold stopGroups
  with_reducible repeat' (first
      | exact kD | exact Blk.le (by decide) sB | assumption | apply stopGroup_k | apply stopSettled_k
      | (apply each_k; intro _ _ _) | split | (apply Keeps.fstOf; assumption) | (apply mapGetD_k; intro _) | dsimp only)

theorem stopRepeat_k {g : Fin 4} {d : Dev} (sB : Blk.sub [.out, .sl] L = true) (kD : Keeps L D d) :
    Keeps L D (stopRepeat g d) := by
  unfold stopRepeat
  with_reducible repeat' (first | exact kD | exact Blk.le (by decide) sB | assumption | apply slSend_k | split | dsimp only)

theorem stopTimeout_k {g : Fin 4} {d : Dev}
    (sB : Blk.sub [.out, .free, .sl, .lg, .pipes, .vault, .cat, .ciph, .dgst, .hif, .tango, .bpm, .mca, .dma,
      .evr] L = true) (kD : Keeps L D d) :
    Keeps L D (stopTimeout g d) := by
  unfold stopTimeout
  with_reducible repeat' (first
      | exact kD | exact Blk.le (by decide) sB | assumption | apply drawn_k | apply logEvent_k | apply retrain_k | split
      | dsimp only)

theorem revealGap_k {g : Fin 4} {x : W32} {d : Dev}
    (sB : Blk.sub [.out, .sl, .lg, .cat, .ciph, .hif, .tango, .dma, .evr] L = true) (kD : Keeps L D d) :
    Keeps L D (revealGap g x d) := by
  unfold revealGap
  with_reducible repeat' (first
      | exact kD | exact Blk.le (by decide) sB | assumption | apply onGroup_k | apply openGap_k | split | dsimp only)

theorem badPacket_k {g : Fin 4} {p : Packet} {d : Dev}
    (sB : Blk.sub [.out, .sl, .cat, .hif, .dma, .evr] L = true) (kD : Keeps L D d) :
    Keeps L D (badPacket g p d) := by
  unfold badPacket
  with_reducible repeat' (first
      | exact kD | exact Blk.le (by decide) sB | assumption | apply logEvent_k | apply onGroup_k | split | dsimp only)

theorem landTrigger_k {g : Fin 4} {p : Packet} {d : Dev}
    (sB : Blk.sub [.out, .glb, .vault, .cat, .ciph, .hif, .tango, .mca, .dma, .evr] L = true) (kD : Keeps L D d) :
    Keeps L D (landTrigger g p d) := by
  unfold landTrigger
  with_reducible repeat' (first
      | exact kD | exact Blk.le (by decide) sB | assumption | apply takeTrigger_k | split | dsimp only)

theorem noteStamp_k {g : Fin 4} {p : Packet} {d : Dev}
    (sB : Blk.sub [.out, .sl, .cat, .hif, .dma, .evr] L = true) (kD : Keeps L D d) :
    Keeps L D (noteStamp g p d) := by
  unfold noteStamp
  with_reducible repeat' (first
      | exact kD | exact Blk.le (by decide) sB | assumption | apply logEvent_k | apply onGroup_k | split | dsimp only)

theorem landPacket_k {g : Fin 4} {p : Packet} {d : Dev}
    (sB : Blk.sub [.out, .glb, .sl, .lg, .vault, .cat, .ciph, .hif, .tango, .mca, .dma, .evr] L = true) (kD : Keeps L D d) :
    Keeps L D (landPacket g p d) := by
  unfold landPacket
  with_reducible repeat' (first
      | exact kD | exact Blk.le (by decide) sB | assumption | apply landTrigger_k | apply onGroup_k | apply onLedger_k
      | split | dsimp only)

theorem newSlot_k {g : Fin 4} {p : Packet} {d : Dev}
    (sB : Blk.sub [.out, .glb, .sl, .lg, .vault, .cat, .ciph, .hif, .tango, .mca, .dma, .evr] L = true) (kD : Keeps L D d) :
    Keeps L D (newSlot g p d) := by
  unfold newSlot
  with_reducible repeat' (first
      | exact kD | exact Blk.le (by decide) sB | assumption | apply landPacket_k | apply onGroup_k | apply onLedger_k
      | apply revealGap_k | split | dsimp only)

theorem slotPacket_k {g : Fin 4} {p : Packet} {d : Dev}
    (sB : Blk.sub [.out, .glb, .sl, .lg, .vault, .cat, .ciph, .hif, .tango, .mca, .dma, .evr] L = true) (kD : Keeps L D d) :
    Keeps L D (slotPacket g p d) := by
  unfold slotPacket
  with_reducible repeat' (first
      | exact kD | exact Blk.le (by decide) sB | assumption | apply newSlot_k | apply noteStamp_k | apply onGroup_k | split
      | dsimp only)

theorem stopDone_k {g : Fin 4} {p : Packet} {d : Dev}
    (sB : Blk.sub [.out, .free, .sl, .lg, .pipes, .vault, .cat, .ciph, .dgst, .hif, .tango, .bpm, .mca, .dma,
      .evr] L = true) (kD : Keeps L D d) :
    Keeps L D (stopDone g p d) := by
  unfold stopDone
  with_reducible repeat' (first
      | exact kD | exact Blk.le (by decide) sB | assumption | apply onGroup_k | apply revealGap_k | apply stopSettled_k
      | split | dsimp only)

theorem faultyPacket_k {g : Fin 4} {p : Packet} {f : PktFault} {d : Dev}
    (sB : Blk.sub [.out, .sl, .cat, .hif, .dma, .evr] L = true) (kD : Keeps L D d) :
    Keeps L D (faultyPacket g p f d) := by
  unfold faultyPacket
  with_reducible repeat' (first
      | exact kD | exact Blk.le (by decide) sB | assumption | apply badPacket_k | apply onGroup_k | split | dsimp only)

theorem receiveAsRecorder_k {g : Fin 4} {p : Packet} {d : Dev}
    (sB : Blk.sub [.out, .free, .glb, .sl, .lg, .pipes, .vault, .cat, .ciph, .dgst, .hif, .tango, .bpm, .mca, .dma,
      .evr] L = true) (kD : Keeps L D d) :
    Keeps L D (receiveAsRecorder g p d) := by
  unfold receiveAsRecorder
  with_reducible repeat' (first
      | exact kD | exact Blk.le (by decide) sB | assumption | apply answerOffer_k | apply noteStamp_k | apply revealGap_k
      | apply slotPacket_k | apply stopDone_k | split | dsimp only)

theorem checked_k {g : Fin 4} {p : Packet} {f : Dev → Dev} {d : Dev} (s : Blk.sub [.out, .sl, .cat, .hif, .dma, .evr] L = true)
    (h : ∀ x, Keeps L D x → Keeps L D (f x)) (k : Keeps L D d) : Keeps L D (checked g p f d) := by
  unfold checked
  with_reducible repeat' (first
      | exact k | exact Blk.le (by decide) s | apply h | apply faultyPacket_k | apply onGroup_k | split | dsimp only)

theorem inCodeword_k {g : Fin 4} {lane : Fin 16} {j : Nat} {rx : List Nat} {d : Dev}
    (sB : Blk.sub [.sl] L = true) (kD : Keeps L D d) :
    Keeps L D (inCodeword g lane j rx d) := by
  unfold inCodeword
  with_reducible repeat' (first
      | exact kD | exact Blk.le (by decide) sB | assumption | apply onGroup_k | apply onLane_k | split
      | (apply mapGetD_k; intro _) | dsimp only)

theorem retrainIf_k {g : Fin 4} {cause : W32} {d : Dev}
    (sB : Blk.sub [.out, .free, .sl, .lg, .pipes, .vault, .cat, .ciph, .dgst, .hif, .tango, .bpm, .mca, .dma,
      .evr] L = true) (kD : Keeps L D d) :
    Keeps L D (retrainIf g cause d) := by
  unfold retrainIf
  with_reducible repeat' (first | exact kD | exact Blk.le (by decide) sB | assumption | apply retrain_k | split | dsimp only)

theorem fecRetrain_k {g : Fin 4} {lane : Fin 16} {d : Dev}
    (sB : Blk.sub [.out, .free, .sl, .lg, .pipes, .vault, .cat, .ciph, .dgst, .hif, .tango, .bpm, .mca, .dma,
      .evr] L = true) (kD : Keeps L D d) :
    Keeps L D (fecRetrain g lane d) := by
  unfold fecRetrain
  with_reducible repeat' (first
      | exact kD | exact Blk.le (by decide) sB | assumption | apply retrainIf_k | split | dsimp only)

theorem healRepeat_k {g : Fin 4} {d : Dev}
    (sB : Blk.sub [.out, .lg, .cat, .ciph, .hif, .tango, .dma, .evr] L = true) (kD : Keeps L D d) :
    Keeps L D (healRepeat g d) := by
  unfold healRepeat
  with_reducible repeat' (first
      | exact kD | exact Blk.le (by decide) sB | assumption | apply askHeal_k | (apply each_k; intro _ _ _) | split
      | (apply Keeps.fstOf; assumption) | dsimp only)

theorem healDeadline_k {g : Fin 4} {d : Dev}
    (sB : Blk.sub [.out, .free, .sl, .lg, .pipes, .vault, .cat, .ciph, .dgst, .hif, .tango, .bpm, .mca, .dma,
      .evr] L = true) (kD : Keeps L D d) :
    Keeps L D (healDeadline g d) := by
  unfold healDeadline
  with_reducible repeat' (first
      | exact kD | exact Blk.le (by decide) sB | assumption | apply consume_k | apply dropHeal_k
      | (apply each_k; intro _ _ _) | split | (apply Keeps.fstOf; assumption) | dsimp only)

theorem doGroupCtl_k {h : Hdr} {g : Fin 4} {action : Nat} {d : Dev}
    (sB : Blk.sub [.out, .free, .sl, .lg, .pipes, .vault, .cat, .ciph, .dgst, .hif, .tango, .bpm, .mca, .dma,
      .evr] L = true) (kD : Keeps L D d) :
    Keeps L D (doGroupCtl h g action d) := by
  unfold doGroupCtl
  with_reducible repeat' (first
      | exact kD | exact Blk.le (by decide) sB | assumption | apply complete_k | apply linkUp_k | apply loseGrant_k
      | apply onGroup_k | split | dsimp only)

theorem doPortRole_k {h : Hdr} {player : Bool} {d : Dev}
    (sB : Blk.sub [.out, .sl, .cat, .hif, .dma] L = true) (kD : Keeps L D d) :
    Keeps L D (doPortRole h player d) := by
  unfold doPortRole
  with_reducible repeat' (first
      | exact kD | exact Blk.le (by decide) sB | assumption | apply complete_k | split | apply upd_sl | dsimp only)

theorem applyRole_k {d : Dev}
    (sB : Blk.sub [.out, .free, .sl, .lg, .pipes, .vault, .cat, .ciph, .dgst, .hif, .tango, .bpm, .mca, .dma,
      .evr] L = true) (kD : Keeps L D d) :
    Keeps L D (applyRole d) := by
  unfold applyRole
  with_reducible repeat' (first
      | exact kD | exact Blk.le (by decide) sB | assumption | apply linkUp_k | apply loseGrant_k | apply onGroup_k
      | (apply each_k; intro _ _ _) | split | apply upd_sl | (apply Keeps.fstOf; assumption) | dsimp only)

/-! ## Ingest -/

theorem openTake_k {r : OpenReq} {v : Volume} {id : Nat} {chan : Option Nat} {domain : Nat} {parts : List (Nat × BitVec 4)}
    {d : Dev}
    (sB : Blk.sub [.out, .vault, .cat, .ciph, .dgst, .hif, .tango, .mca, .dma, .evr] L = true) (kD : Keeps L D d) :
    Keeps L D (openTake r v id chan domain parts d) := by
  unfold openTake
  with_reducible repeat' (first
      | exact kD | exact Blk.le (by decide) sB | assumption | apply allocRing_k | apply onCat_k | apply onReel_k
      | apply openChain_k | (apply foldl_k; intro _ _ _) | split | (apply Keeps.fstOf; assumption)
      | (apply foldlP_k; intro _ _ _) | dsimp only)

theorem setTakeCount_k {v n : Nat} {d : Dev} (sB : Blk.sub [.cat] L = true) (kD : Keeps L D d) :
    Keeps L D (setTakeCount v n d) := by
  unfold setTakeCount
  with_reducible repeat' (first
      | exact kD | exact Blk.le (by decide) sB | assumption | apply onVolume_k | split | dsimp only)

theorem nextTakeId_k {v : Volume} {d : Dev} (sB : Blk.sub [.cat] L = true) (kD : Keeps L D d) :
    Keeps L D (nextTakeId v d).2 := by
  unfold nextTakeId
  with_reducible repeat' (first
      | exact kD | exact Blk.le (by decide) sB | assumption | apply setTakeCount_k | split | dsimp only)

theorem giveBack_k {v id : Nat} {d : Dev} (sB : Blk.sub [.cat] L = true) (kD : Keeps L D d) :
    Keeps L D (giveBack v id d) := by
  unfold giveBack
  with_reducible repeat' (first
      | exact kD | exact Blk.le (by decide) sB | assumption | apply setTakeCount_k | split | dsimp only)

theorem holdMr_k {r : OpenReq} {id : Nat} {d : Dev} (sB : Blk.sub [.dgst] L = true) (kD : Keeps L D d) :
    Keeps L D (holdMr r id d) := by
  unfold holdMr
  with_reducible repeat' (first
      | exact kD | exact Blk.le (by decide) sB | assumption | apply assignMr_k | split | dsimp only)

theorem unholdMr_k {v id : Nat} {d : Dev} (sB : Blk.sub [.dgst] L = true) (kD : Keeps L D d) :
    Keeps L D (unholdMr v id d) := by
  unfold unholdMr
  with_reducible repeat' (first | exact kD | exact Blk.le (by decide) sB | assumption | split | apply upd_dgst | dsimp only)

theorem takeIsOpen_k {h : Hdr} {r : OpenReq} {v : Volume} {id : Nat} {d : Dev}
    (sB : Blk.sub [.out, .vault, .cat, .ciph, .dgst, .hif, .tango, .mca, .dma, .evr] L = true) (kD : Keeps L D d) :
    Keeps L D (takeIsOpen h r v id d) := by
  unfold takeIsOpen
  with_reducible repeat' (first
      | exact kD | exact Blk.le (by decide) sB | assumption | apply complete_k | apply openTake_k | apply unholdMr_k | split
      | dsimp only)

theorem undoPart_k {o : Hdr × Nat × Nat × OpenReq} {status : Nat} {d : Dev}
    (sB : Blk.sub [.out, .vault, .cat, .ciph, .dgst, .hif, .tango, .mca, .dma, .evr] L = true) (kD : Keeps L D d) :
    Keeps L D (undoPart o status d) := by
  unfold undoPart
  with_reducible repeat' (first
      | exact kD | exact Blk.le (by decide) sB | assumption | apply complete_k | apply giveBack_k | apply onTake_k
      | apply onTango_k | apply openTake_k | apply unholdMr_k | split | dsimp only)

theorem doTakeOpen_k {h : Hdr} {r : OpenReq} {d : Dev}
    (sB : Blk.sub [.out, .vault, .cat, .ciph, .dgst, .hif, .tango, .mca, .dma, .evr] L = true) (kD : Keeps L D d) :
    Keeps L D (doTakeOpen h r d) := by
  unfold doTakeOpen
  with_reducible repeat' (first
      | exact kD | exact Blk.le (by decide) sB | assumption | apply complete_k | apply holdMr_k | apply nextTakeId_k
      | apply onTango_k | apply takeIsOpen_k | apply tangoSend_k | split | (apply Keeps.sndOf; assumption)
      | (apply mapGetD_k; intro _) | dsimp only)

theorem closeByStop_k {t : Take} {reason : Nat} {time : W64} {h : Option Hdr} {d : Dev}
    (sB : Blk.sub [.out, .free, .sl, .lg, .pipes, .vault, .cat, .ciph, .dgst, .hif, .tango, .bpm, .mca, .dma,
      .evr] L = true) (kD : Keeps L D d) :
    Keeps L D (closeByStop t reason time h d) := by
  unfold closeByStop
  with_reducible repeat' (first
      | exact kD | exact Blk.le (by decide) sB | assumption | apply advanceTake_k | apply onTake_k | apply stopGroups_k
      | split | dsimp only)

theorem doTakeClose_k {h : Hdr} {id mode successor : Nat} {time : W64} {d : Dev}
    (sB : Blk.sub [.out, .free, .sl, .lg, .pipes, .vault, .cat, .ciph, .dgst, .hif, .tango, .bpm, .mca, .dma,
      .evr] L = true) (kD : Keeps L D d) :
    Keeps L D (doTakeClose h id mode successor time d) := by
  unfold doTakeClose
  with_reducible repeat' (first
      | exact kD | exact Blk.le (by decide) sB | assumption | apply advanceTake_k | apply closeByStop_k | apply complete_k
      | apply consume_k | apply onTake_k | (apply each_k; intro _ _ _) | split | (apply Keeps.fstOf; assumption) | dsimp only)

theorem closeChannel_k {c : Nat} {d : Dev}
    (sB : Blk.sub [.out, .free, .sl, .lg, .pipes, .vault, .cat, .ciph, .dgst, .hif, .tango, .bpm, .mca, .dma,
      .evr] L = true) (kD : Keeps L D d) :
    Keeps L D (closeChannel c d) := by
  unfold closeChannel
  with_reducible repeat' (first
      | exact kD | exact Blk.le (by decide) sB | assumption | apply closeByStop_k | (apply foldl_k; intro _ _ _) | split
      | (apply foldlP_k; intro _ _ _) | dsimp only)

theorem doStop_k {h : Hdr} {groups : BitVec 4} {d : Dev}
    (sB : Blk.sub [.out, .free, .sl, .lg, .pipes, .vault, .cat, .ciph, .dgst, .hif, .tango, .bpm, .mca, .dma,
      .evr] L = true) (kD : Keeps L D d) :
    Keeps L D (doStop h groups d) := by
  unfold doStop
  with_reducible repeat' (first
      | exact kD | exact Blk.le (by decide) sB | assumption | apply complete_k | apply stopGroups_k | split | apply upd_sl
      | dsimp only)

theorem doResume_k {h : Hdr} {groups : BitVec 4} {d : Dev}
    (sB : Blk.sub [.out, .sl, .cat, .hif, .dma] L = true) (kD : Keeps L D d) :
    Keeps L D (doResume h groups d) := by
  unfold doResume
  with_reducible repeat' (first
      | exact kD | exact Blk.le (by decide) sB | assumption | apply complete_k | apply onGroup_k
      | (apply each_k; intro _ _ _) | split | (apply Keeps.fstOf; assumption) | dsimp only)

theorem doTrigger_k {h : Hdr} {id : Nat} {trigId : W32} {time : W64} {since : Nat} {d : Dev}
    (sB : Blk.sub [.out, .glb, .vault, .cat, .ciph, .hif, .tango, .mca, .dma, .evr] L = true) (kD : Keeps L D d) :
    Keeps L D (doTrigger h id trigId time since d) := by
  unfold doTrigger
  with_reducible repeat' (first
      | exact kD | exact Blk.le (by decide) sB | assumption | apply complete_k | apply takeTrigger_k | split
      | (apply mapGetD_k; intro _) | dsimp only)

theorem trigIn_k {since : Nat} {d : Dev}
    (sB : Blk.sub [.out, .glb, .vault, .cat, .ciph, .hif, .tango, .mca, .dma, .evr] L = true) (kD : Keeps L D d) :
    Keeps L D (trigIn since d) := by
  unfold trigIn
  with_reducible repeat' (first
      | exact kD | exact Blk.le (by decide) sB | assumption | apply onCat_k | apply takeTrigger_k
      | (apply foldl_k; intro _ _ _) | split | (apply mapGetD_k; intro _) | (apply foldlP_k; intro _ _ _) | dsimp only)

theorem makeSnap_k {h : Hdr} {op : Byte} {volume : Nat} {ts : List Take} {d : Dev}
    (sB : Blk.sub [.out, .free, .vault, .cat, .ciph, .hif, .tango, .bpm, .mca, .dma, .evr] L = true) (kD : Keeps L D d) :
    Keeps L D (makeSnap h op volume ts d) := by
  unfold makeSnap
  with_reducible repeat' (first
      | exact kD | exact Blk.le (by decide) sB | assumption | apply complete_k | apply onCat_k | apply startCommit_k | split
      | dsimp only)

theorem doSnapTake_k {h : Hdr} {id : Nat} {d : Dev}
    (sB : Blk.sub [.out, .free, .vault, .cat, .ciph, .hif, .tango, .bpm, .mca, .dma, .evr] L = true) (kD : Keeps L D d) :
    Keeps L D (doSnapTake h id d) := by
  unfold doSnapTake
  with_reducible repeat' (first
      | exact kD | exact Blk.le (by decide) sB | assumption | apply complete_k | apply makeSnap_k | split | dsimp only)

theorem doSnapVolume_k {h : Hdr} {v : Nat} {d : Dev}
    (sB : Blk.sub [.out, .free, .vault, .cat, .ciph, .hif, .tango, .bpm, .mca, .dma, .evr] L = true) (kD : Keeps L D d) :
    Keeps L D (doSnapVolume h v d) := by
  unfold doSnapVolume
  with_reducible repeat' (first
      | exact kD | exact Blk.le (by decide) sB | assumption | apply complete_k | apply makeSnap_k | split | dsimp only)

theorem dropSnap_k {s : Nat} {d : Dev} (sB : Blk.sub [.vault, .cat] L = true) (kD : Keeps L D d) :
    Keeps L D (dropSnap s d) := by
  unfold dropSnap
  with_reducible repeat' (first
      | exact kD | exact Blk.le (by decide) sB | assumption | apply onCat_k | apply purgeTakes_k | split | dsimp only)

theorem settleSnaps_k {d : Dev} (sB : Blk.sub [.out, .vault, .cat, .hif, .dma] L = true) (kD : Keeps L D d) :
    Keeps L D (settleSnaps d) := by
  unfold settleSnaps
  with_reducible repeat' (first
      | exact kD | exact Blk.le (by decide) sB | assumption | apply complete_k | apply dropSnap_k | apply onCat_k
      | apply purgeTakes_k | (apply each_k; intro _ _ _) | split | (apply Keeps.fstOf; assumption) | dsimp only)

theorem doSnapRelease_k {h : Hdr} {s : Nat} {d : Dev}
    (sB : Blk.sub [.out, .vault, .cat, .hif, .dma] L = true) (kD : Keeps L D d) :
    Keeps L D (doSnapRelease h s d) := by
  unfold doSnapRelease
  with_reducible repeat' (first
      | exact kD | exact Blk.le (by decide) sB | assumption | apply complete_k | apply onCat_k | apply settleSnaps_k | split
      | dsimp only)

theorem deleteSegment_k {h : Hdr} {t : Take} {r : ReelSt} {seg : Nat} {d : Dev}
    (sB : Blk.sub [.out, .free, .vault, .cat, .ciph, .hif, .tango, .bpm, .mca, .dma, .evr] L = true) (kD : Keeps L D d) :
    Keeps L D (deleteSegment h t r seg d) := by
  unfold deleteSegment
  with_reducible repeat' (first
      | exact kD | exact Blk.le (by decide) sB | assumption | apply complete_k | apply onSegment_k | apply startCommit_k
      | split | dsimp only)

theorem doTakeDelete_k {h : Hdr} {v id seg : Nat} {d : Dev}
    (sB : Blk.sub [.out, .free, .vault, .cat, .ciph, .hif, .tango, .bpm, .mca, .dma, .evr] L = true) (kD : Keeps L D d) :
    Keeps L D (doTakeDelete h v id seg d) := by
  unfold doTakeDelete
  with_reducible repeat' (first
      | exact kD | exact Blk.le (by decide) sB | assumption | apply complete_k | apply deleteSegment_k | apply deleteTake_k
      | apply startCommit_k | split | dsimp only)

theorem doVerifySeal_k {h : Hdr} {v id seg : Nat} {d : Dev}
    (sB : Blk.sub [.out, .cat, .hif, .dma] L = true) (kD : Keeps L D d) :
    Keeps L D (doVerifySeal h v id seg d) := by
  unfold doVerifySeal
  with_reducible repeat' (first
      | exact kD | exact Blk.le (by decide) sB | assumption | apply complete_k | split | (apply mapGetD_k; intro _)
      | dsimp only)

/-! ## Replay -/

theorem countRange_k {l : LayoutRec} {s : Nat} {app : W16} {x : Range} {ks : List Nat} {d : Dev}
    (sB : Blk.sub [.vault] L = true) (kD : Keeps L D d) :
    Keeps L D (countRange l s app x ks d) := by
  unfold countRange
  with_reducible repeat' (first
      | exact kD | exact Blk.le (by decide) sB | assumption | apply countPi_k | (apply foldl_k; intro _ _ _) | split
      | (apply foldlP_k; intro _ _ _) | dsimp only)

theorem mendRange_k {l : LayoutRec} {s : Nat} {app : W16} {x : Range} {d : Dev}
    (sB : Blk.sub [.out, .vault, .vcnt, .cat, .ciph, .hif, .tango, .mca, .dma, .evr] L = true) (kD : Keeps L D d) :
    Keeps L D (mendRange l s app x d).1 := by
  unfold mendRange
  with_reducible repeat' (first
      | exact kD | exact Blk.le (by decide) sB | assumption | apply countRange_k | apply emits_k | apply loseStripe_k
      | apply onVcnt_k | apply oweSector_k | (apply foldl_k; intro _ _ _) | split | (apply mapGetD_k; intro _)
      | (apply foldlP_k; intro _ _ _) | dsimp only)

theorem readRange_k {l : LayoutRec} {s : Nat} {app : W16} {noRecon : Bool} {x : Range} {d : Dev}
    (sB : Blk.sub [.out, .vault, .vcnt, .cat, .ciph, .hif, .tango, .mca, .dma, .evr] L = true) (kD : Keeps L D d) :
    Keeps L D (readRange l s app noRecon x d).1 := by
  unfold readRange
  with_reducible repeat' (first
      | exact kD | exact Blk.le (by decide) sB | assumption | apply countRange_k | apply emits_k | apply mendRange_k | split
      | (apply Keeps.fstOf; assumption) | dsimp only)

theorem readRanges_k {l : LayoutRec} {n : Nat} {app : W16} {noRecon : Bool} {x : List Range} {d : Dev}
    (s : Blk.sub [.out, .vault, .vcnt, .cat, .ciph, .hif, .tango, .mca, .dma,
      .evr] L = true) (k : Keeps L D d) : Keeps L D (readRanges l n app noRecon x d).1 := by
  induction x generalizing d with
  | nil => exact k
  | cons x t ih =>
    have r : Keeps L D (readRange l n app noRecon x d).1 := readRange_k (Blk.le (by decide) s) k
    unfold readRanges
    split
    · exact Keeps.fstOf (by assumption) r
    · rename_i q
      have i := ih (Keeps.fstOf q r)
      split <;> exact Keeps.fstOf (by assumption) i

theorem noteDecode_k {c : Nat} {w : Want} {r : TileRes} {d : Dev}
    (sB : Blk.sub [.out, .pipes, .cat, .hif, .dma, .evr] L = true) (kD : Keeps L D d) :
    Keeps L D (noteDecode c w r d) := by
  unfold noteDecode
  with_reducible repeat' (first
      | exact kD | exact Blk.le (by decide) sB | assumption | apply logEvent_k | apply onPipe_k | split
      | (apply mapGetD_k; intro _) | dsimp only)

theorem decodeTile_k {c : Nat} {w : Want} {stored : List Byte} {d : Dev}
    (sB : Blk.sub [.out, .free, .pipes, .cat, .hif, .dma, .evr] L = true) (kD : Keeps L D d) :
    Keeps L D (decodeTile c w stored d).1 := by
  unfold decodeTile
  with_reducible repeat' (first
      | exact kD | exact Blk.le (by decide) sB | assumption | apply drawn_k | apply noteDecode_k | split | dsimp only)

theorem startTile_k {c : Nat} {d : Dev}
    (sB : Blk.sub [.out, .free, .pipes, .cat, .hif, .bpm, .dma, .evr] L = true) (kD : Keeps L D d) :
    Keeps L D (startTile c d).1 := by
  unfold startTile
  with_reducible repeat' (first
      | exact kD | exact Blk.le (by decide) sB | assumption | apply decodeTile_k | apply drawn_k | apply emits_k
      | apply onChan_k | apply poolAlloc_k | split | (apply Keeps.fstOf; assumption) | dsimp only)

theorem tileCame_k {c : Nat} {w : Want} {cols : List (List SecRead)} {d : Dev}
    (sB : Blk.sub [.out, .free, .pipes, .vault, .vcnt, .cat, .ciph, .hif, .tango, .mca, .dma,
      .evr] L = true) (kD : Keeps L D d) :
    Keeps L D (tileCame c w cols d).1 := by
  unfold tileCame
  with_reducible repeat' (first
      | exact kD | exact Blk.le (by decide) sB | assumption | apply decodeTile_k | apply readRanges_k | split
      | (apply Keeps.fstOf; assumption) | dsimp only)

theorem endRead_k {c : Nat} {j : ReadJob} {status : Nat} {d : Dev}
    (sB : Blk.sub [.out, .vault, .cat, .dgst, .hif, .bpm, .dma] L = true) (kD : Keeps L D d) :
    Keeps L D (endRead c j status d) := by
  unfold endRead
  with_reducible repeat' (first
      | exact kD | exact Blk.le (by decide) sB | assumption | apply complete_k | apply dropCtx_k | apply endSnoop_k
      | apply freeTile_k | apply setJob_k | apply settleSnaps_k | split | dsimp only)

theorem readTile_k {c : Nat} {j : ReadJob} {e : Entry} {r : TileRes} {d : Dev}
    (sB : Blk.sub [.out, .vault, .cat, .dgst, .hif, .bpm, .dma] L = true) (kD : Keeps L D d) :
    Keeps L D (readTile c j e r d) := by
  unfold readTile
  with_reducible repeat' (first
      | exact kD | exact Blk.le (by decide) sB | assumption | apply endRead_k | apply hostData_k | apply setJob_k
      | apply snoop_k | split | dsimp only)

theorem pumpRead_k {c : Nat} {n : Nat} {d : Dev}
    (sB : Blk.sub [.out, .free, .pipes, .vault, .cat, .dgst, .hif, .bpm, .dma, .evr] L = true) (kD : Keeps L D d) :
    Keeps L D (pumpRead c n d) := by
  induction n generalizing d with
  | zero => exact kD
  | succ n ih =>
    unfold pumpRead
    with_reducible repeat' (first
        | apply ih | exact kD | exact Blk.le (by decide) sB | assumption | apply endRead_k | apply readTile_k
        | apply startTile_k | split | (apply Keeps.fstOf; assumption) | dsimp only)

theorem doRead_k {h : Hdr} {volume kind part target segId : Nat} {flags : BitVec 5}
    {group digest first count reportLen dest report
    digestOut : Nat} {d : Dev}
    (sB : Blk.sub [.out, .free, .pipes, .vault, .cat, .dgst, .hif, .bpm, .dma, .evr] L = true) (kD : Keeps L D d) :
    Keeps L D (doRead h volume kind part target segId flags group digest first count reportLen dest report digestOut d) := by
  unfold doRead
  with_reducible repeat' (first
      | exact kD | exact Blk.le (by decide) sB | assumption | apply complete_k | apply pumpRead_k | apply setJob_k
      | apply takeCtx_k | split | (apply Keeps.fstOf; assumption) | dsimp only)

theorem sendSlot_k {g : Fin 4} {mk : W32 → Packet} {d : Dev} (sB : Blk.sub [.out, .sl] L = true) (kD : Keeps L D d) :
    Keeps L D (sendSlot g mk d) := by
  unfold sendSlot
  with_reducible repeat' (first
      | exact kD | exact Blk.le (by decide) sB | assumption | apply onGroup_k | apply slSend_k | split | dsimp only)

theorem endPlay_k {c : Nat} {j : PlayJob} {status : Nat} {d : Dev}
    (sB : Blk.sub [.out, .vault, .cat, .hif, .bpm, .dma] L = true) (kD : Keeps L D d) :
    Keeps L D (endPlay c j status d) := by
  unfold endPlay
  with_reducible repeat' (first
      | exact kD | exact Blk.le (by decide) sB | assumption | apply complete_k | apply freeTile_k | apply setJob_k
      | apply settleSnaps_k | split | dsimp only)

theorem playStopDone_k {g : Fin 4} {id : W32} {sid : W16} {d : Dev}
    (sB : Blk.sub [.out, .sl] L = true) (kD : Keeps L D d) :
    Keeps L D (playStopDone g id sid d) := by
  unfold playStopDone
  with_reducible repeat' (first
      | exact kD | exact Blk.le (by decide) sB | assumption | apply onGroup_k | apply slSend_k | split | dsimp only)

theorem playOne_k {g : Fin 4} {c : Nat} {j : PlayJob} {d : Dev}
    {y : Dev} (q : playOne g c j d = some y) (sB : Blk.sub [.out, .sl, .vault, .cat, .hif, .bpm,
      .dma] L = true) (kD : Keeps L D d) :
    Keeps L D y := by
  unfold playOne at q
  try dsimp only at q
  repeat' (first | (cases q; done) | split at q | (simp only [Option.map_eq_some_iff] at q; obtain ⟨_, _, q⟩ := q))
  all_goals try cases q
  all_goals with_reducible repeat' (first
      | exact kD | exact Blk.le (by decide) sB | assumption | apply endPlay_k | apply onGroup_k | apply playStopDone_k
      | apply sendSlot_k | apply setJob_k | split | (apply mapGetD_k; intro _) | dsimp only)

theorem playTile_k {c : Nat} {j : PlayJob} {r : TileRes} {d : Dev} (sB : Blk.sub [.hif] L = true) (kD : Keeps L D d) :
    Keeps L D (playTile c j r d) := by
  unfold playTile
  with_reducible repeat' (first | exact kD | exact Blk.le (by decide) sB | assumption | apply setJob_k | split | dsimp only)

theorem pumpPlay_k {g : Fin 4} {n : Nat} {d : Dev}
    (sB : Blk.sub [.out, .free, .sl, .pipes, .vault, .cat, .hif, .bpm, .dma, .evr] L = true) (kD : Keeps L D d) :
    Keeps L D (pumpPlay g n d) := by
  induction n generalizing d with
  | zero => exact kD
  | succ n ih =>
    unfold pumpPlay
    with_reducible repeat' (first
        | apply ih | exact kD | exact Blk.le (by decide) sB | assumption | apply endPlay_k | (apply playOne_k; assumption)
        | apply playStopDone_k | apply playTile_k | apply startTile_k | (apply getD_k; intro _ _) | split
        | (apply Keeps.fstOf; assumption) | (apply mapGetD_k; intro _) | dsimp only)

theorem runPlay_k {g : Fin 4} {d : Dev}
    (sB : Blk.sub [.out, .free, .sl, .pipes, .vault, .cat, .hif, .bpm, .dma, .evr] L = true) (kD : Keeps L D d) :
    Keeps L D (runPlay g d) := by
  unfold runPlay
  with_reducible repeat' (first
      | exact kD | exact Blk.le (by decide) sB | assumption | apply pumpPlay_k | split | (apply Keeps.fstOf; assumption)
      | (apply mapGetD_k; intro _) | dsimp only)

theorem doPlay_k {h : Hdr} {volume kind part target segId : Nat} {flags : BitVec 3} {recGroup pace : Nat} {first : BitVec 48}
    {frames : Nat} {gsnBase : W32} {frameBase : BitVec 48} {timeBase : W64} {d : Dev}
    (sB : Blk.sub [.out, .free, .sl, .pipes, .vault, .cat, .hif, .bpm, .dma, .evr] L = true) (kD : Keeps L D d) :
    Keeps L D (doPlay h volume kind part target segId flags recGroup pace first frames gsnBase frameBase timeBase d) := by
  unfold doPlay
  with_reducible repeat' (first
      | exact kD | exact Blk.le (by decide) sB | assumption | apply complete_k | apply onGroup_k | apply runPlay_k
      | apply setJob_k | split | (apply mapGetD_k; intro _) | dsimp only)

theorem paceTimer_k {c : Nat} {d : Dev}
    (sB : Blk.sub [.out, .free, .sl, .pipes, .vault, .cat, .hif, .bpm, .dma, .evr] L = true) (kD : Keeps L D d) :
    Keeps L D (paceTimer c d) := by
  unfold paceTimer
  with_reducible repeat' (first
      | exact kD | exact Blk.le (by decide) sB | assumption | apply runPlay_k | apply setJob_k | split | dsimp only)

theorem stopPlay_k {c : Nat} {j : PlayJob} {status : Nat} {d : Dev}
    (sB : Blk.sub [.out, .free, .sl, .pipes, .vault, .cat, .hif, .bpm, .dma, .evr] L = true) (kD : Keeps L D d) :
    Keeps L D (stopPlay c j status d) := by
  unfold stopPlay
  with_reducible repeat' (first
      | exact kD | exact Blk.le (by decide) sB | assumption | apply endPlay_k | apply freeTile_k | apply runPlay_k
      | apply setJob_k | split | dsimp only)

theorem playCredit_k {g : Fin 4} {p : Packet} {d : Dev}
    (sB : Blk.sub [.out, .free, .sl, .pipes, .vault, .cat, .hif, .bpm, .dma, .evr] L = true) (kD : Keeps L D d) :
    Keeps L D (playCredit g p d) := by
  unfold playCredit
  with_reducible repeat' (first
      | exact kD | exact Blk.le (by decide) sB | assumption | apply onGroup_k | apply runPlay_k | split | dsimp only)

theorem playStopReq_k {g : Fin 4} {p : Packet} {d : Dev}
    (sB : Blk.sub [.out, .free, .sl, .pipes, .vault, .cat, .hif, .bpm, .dma, .evr] L = true) (kD : Keeps L D d) :
    Keeps L D (playStopReq g p d) := by
  unfold playStopReq
  with_reducible repeat' (first
      | exact kD | exact Blk.le (by decide) sB | assumption | apply onGroup_k | apply runPlay_k | apply slSend_k | split
      | dsimp only)

theorem takeGrant_k {g : Fin 4} {p : Packet} {d : Dev}
    (sB : Blk.sub [.out, .free, .sl, .pipes, .vault, .cat, .hif, .bpm, .dma, .evr] L = true) (kD : Keeps L D d) :
    Keeps L D (takeGrant g p d) := by
  unfold takeGrant
  with_reducible repeat' (first
      | exact kD | exact Blk.le (by decide) sB | assumption | apply onGroup_k | apply runPlay_k | split | dsimp only)

theorem receiveAsPlayer_k {g : Fin 4} {p : Packet} {d : Dev}
    (sB : Blk.sub [.out, .free, .glb, .sl, .lg, .pipes, .vault, .cat, .ciph, .hif, .tango, .bpm, .mca, .dma,
      .evr] L = true) (kD : Keeps L D d) :
    Keeps L D (receiveAsPlayer g p d) := by
  unfold receiveAsPlayer
  with_reducible repeat' (first
      | exact kD | exact Blk.le (by decide) sB | assumption | apply playCredit_k | apply playStopReq_k | apply slotPacket_k
      | apply takeGrant_k | split | dsimp only)

/-! ## Copy -/

theorem onDma_k {n : Nat} {f : DmaCh → DmaCh} {d : Dev} (sB : Blk.sub [.dma] L = true) (kD : Keeps L D d) :
    Keeps L D (onDma n f d) := by
  unfold onDma
  with_reducible repeat' (first | exact kD | exact Blk.le (by decide) sB | assumption | split | apply upd_dma | dsimp only)

theorem endCopy_k {c : Nat} {j : CopyJob} {status : Nat} {d : Dev}
    (sB : Blk.sub [.out, .cat, .dgst, .hif, .dma] L = true) (kD : Keeps L D d) :
    Keeps L D (endCopy c j status d) := by
  unfold endCopy
  with_reducible repeat' (first
      | exact kD | exact Blk.le (by decide) sB | assumption | apply complete_k | apply dropCtx_k | apply onDma_k
      | apply setJob_k | split | dsimp only)

theorem doCopy_k {h : Hdr} {source dest length space digest slot out : Nat} {d : Dev}
    (sB : Blk.sub [.out, .cat, .dgst, .hif, .dma] L = true) (kD : Keeps L D d) :
    Keeps L D (doCopy h source dest length space digest slot out d) := by
  unfold doCopy
  with_reducible repeat' (first
      | exact kD | exact Blk.le (by decide) sB | assumption | apply complete_k | apply deliverDigest_k | apply endCopy_k
      | apply onDma_k | apply setJob_k | apply takeCtx_k | split | (apply mapGetD_k; intro _) | dsimp only)

theorem copyBurst_k {c : Nat} {j : CopyJob} {data : List Byte} {bad : Bool} {d : Dev}
    (sB : Blk.sub [.out, .cat, .dgst, .hif, .dma] L = true) (kD : Keeps L D d) :
    Keeps L D (copyBurst c j data bad d) := by
  unfold copyBurst
  with_reducible repeat' (first
      | exact kD | exact Blk.le (by decide) sB | assumption | apply endCopy_k | apply hostData_k | apply setJob_k
      | apply snoop_k | split | apply upd_dma | dsimp only)

/-! ## Rdma -/

theorem onRdma_k {f : Rdma → Rdma} {d : Dev} (sB : Blk.sub [.rdma] L = true) (kD : Keeps L D d) :
    Keeps L D (onRdma f d) := by
  unfold onRdma
  with_reducible repeat' (first | exact kD | exact Blk.le (by decide) sB | assumption | split | apply upd_rdma | dsimp only)

theorem onRcnt_k {f : RdmaCnt → RdmaCnt} {d : Dev} (sB : Blk.sub [.rcnt] L = true) (kD : Keeps L D d) :
    Keeps L D (onRcnt f d) := by
  unfold onRcnt
  with_reducible repeat' (first | exact kD | exact Blk.le (by decide) sB | assumption | split | apply upd_rcnt | dsimp only)

theorem onQp_k {i : Nat} {f : Qp → Qp} {d : Dev} (sB : Blk.sub [.rdma] L = true) (kD : Keeps L D d) :
    Keeps L D (onQp i f d) := by
  unfold onQp
  with_reducible repeat' (first | exact kD | exact Blk.le (by decide) sB | assumption | apply onRdma_k | split | dsimp only)

theorem writeContext_k {i : Nat} {d : Dev} (sB : Blk.sub [.out] L = true) (kD : Keeps L D d) :
    Keeps L D (writeContext i d) := by
  unfold writeContext
  with_reducible repeat' (first | exact kD | exact Blk.le (by decide) sB | assumption | apply emit_k | split | dsimp only)

theorem cacheCtx_k {i : Nat} {d : Dev} (sB : Blk.sub [.out, .free, .rdma, .rcnt] L = true) (kD : Keeps L D d) :
    Keeps L D (cacheCtx i d) := by
  unfold cacheCtx
  with_reducible repeat' (first
      | exact kD | exact Blk.le (by decide) sB | assumption | apply drawn_k | apply onRcnt_k | apply onRdma_k
      | apply writeContext_k | split | dsimp only)

theorem fetchCtx_k {i : Nat} {d : Dev} (sB : Blk.sub [.rdma, .rcnt] L = true) (kD : Keeps L D d) :
    Keeps L D (fetchCtx i d) := by
  unfold fetchCtx
  with_reducible repeat' (first
      | exact kD | exact Blk.le (by decide) sB | assumption | apply onRcnt_k | apply onRdma_k | split | dsimp only)

theorem dropCtxOf_k {i : Nat} {d : Dev} (sB : Blk.sub [.rdma] L = true) (kD : Keeps L D d) :
    Keeps L D (dropCtxOf i d) := by
  unfold dropCtxOf
  with_reducible repeat' (first | exact kD | exact Blk.le (by decide) sB | assumption | apply onRdma_k | split | dsimp only)

theorem qpEntry_k {i : Nat} {tag : W32} {index status opcode bytes : Nat} {imm : W32} {src : Nat} {d : Dev}
    (sB : Blk.sub [.out, .hif, .rdma] L = true) (kD : Keeps L D d) :
    Keeps L D (qpEntry i tag index status opcode bytes imm src d) := by
  unfold qpEntry
  with_reducible repeat' (first
      | exact kD | exact Blk.le (by decide) sB | assumption | apply emit_k | apply onQp_k | apply sendMsix_k | split
      | dsimp only)

theorem wrDone_k {i : Nat} {opcode : Nat} {wr : Wr} {status bytes : Nat} {d : Dev}
    (sB : Blk.sub [.out, .hif, .rdma] L = true) (kD : Keeps L D d) :
    Keeps L D (wrDone i opcode wr status bytes d) := by
  unfold wrDone
  with_reducible repeat' (first
      | exact kD | exact Blk.le (by decide) sB | assumption | apply onQp_k | apply qpEntry_k | split | dsimp only)

theorem recvDone_k {i : Nat} {index opcode bytes : Nat} {imm : W32} {src : Nat} {d : Dev}
    (sB : Blk.sub [.out, .hif, .rdma] L = true) (kD : Keeps L D d) :
    Keeps L D (recvDone i index opcode bytes imm src d) := by
  unfold recvDone
  with_reducible repeat' (first
      | exact kD | exact Blk.le (by decide) sB | assumption | apply onQp_k | apply qpEntry_k | split | dsimp only)

theorem lapseKey_k {dom : Nat} {d : Dev} (sB : Blk.sub [.rdma] L = true) (kD : Keeps L D d) :
    Keeps L D (lapseKey dom d) := by
  unfold lapseKey
  with_reducible repeat' (first | exact kD | exact Blk.le (by decide) sB | assumption | apply onRdma_k | split | dsimp only)

theorem drawKey_k {dom : Nat} {ws : List Window} {d : Dev}
    (sB : Blk.sub [.free, .ciph, .rdma] L = true) (kD : Keeps L D d) :
    Keeps L D (drawKey dom ws d) := by
  unfold drawKey
  with_reducible repeat' (first
      | exact kD | exact Blk.le (by decide) sB | assumption | apply drbgDraw_k | apply onRdma_k | split | dsimp only)

theorem flushOuts_k {i : Nat} {os : List WrOut} {d : Dev}
    (sB : Blk.sub [.out, .hif, .rdma] L = true) (kD : Keeps L D d) :
    Keeps L D (flushOuts i os d) := by
  unfold flushOuts
  with_reducible repeat' (first
      | exact kD | exact Blk.le (by decide) sB | assumption | apply wrDone_k | (apply each_k; intro _ _ _) | split
      | (apply Keeps.fstOf; assumption) | dsimp only)

theorem leaveRts_k {i : Nat} {upto : QpSt} {cause : Nat} {status : Option Nat} {d : Dev}
    (sB : Blk.sub [.out, .hif, .rdma] L = true) (kD : Keeps L D d) :
    Keeps L D (leaveRts i upto cause status d) := by
  unfold leaveRts
  with_reducible repeat' (first
      | exact kD | exact Blk.le (by decide) sB | assumption | apply flushOuts_k | apply lapseKey_k | apply onQp_k
      | apply wrDone_k | split | dsimp only)

theorem settleWaits_k  {n : Nat} {d : Dev} (sB : Blk.sub [.out, .hif, .rdma] L = true) (kD : Keeps L D d) :
    Keeps L D (settleWaits  n d) := by
  induction n generalizing d with
  | zero => exact kD
  | succ n ih =>
    unfold settleWaits
    with_reducible repeat' (first
        | apply ih | exact kD | exact Blk.le (by decide) sB | assumption | apply leaveRts_k | apply onQp_k | apply wrDone_k
        | split | dsimp only)

theorem waits_k {d : Dev} (sB : Blk.sub [.out, .hif, .rdma] L = true) (kD : Keeps L D d) :
    Keeps L D (waits d) := by
  unfold waits
  with_reducible repeat' (first
      | exact kD | exact Blk.le (by decide) sB | assumption | apply settleWaits_k | split | (apply Keeps.fstOf; assumption)
      | dsimp only)

theorem qpFail_k {i cause status : Nat} {d : Dev} (sB : Blk.sub [.out, .hif, .rdma] L = true) (kD : Keeps L D d) :
    Keeps L D (qpFail i cause status d) := by
  unfold qpFail
  with_reducible repeat' (first
      | exact kD | exact Blk.le (by decide) sB | assumption | apply leaveRts_k | apply waits_k | split
      | (apply mapGetD_k; intro _) | dsimp only)

theorem enterRts_k {i : Nat} {q : Qp} {ws : List Window} {d : Dev}
    (sB : Blk.sub [.out, .free, .ciph, .rdma, .rcnt] L = true) (kD : Keeps L D d) :
    Keeps L D (enterRts i q ws d) := by
  unfold enterRts
  with_reducible repeat' (first
      | exact kD | exact Blk.le (by decide) sB | assumption | apply cacheCtx_k | apply drawKey_k | apply onQp_k | split
      | dsimp only)

theorem contextChange_k {i : Nat} {gen : Byte} {h : QpHost} {ws : List Window} {d : Dev}
    (sB : Blk.sub [.out, .free, .ciph, .hif, .rdma, .rcnt] L = true) (kD : Keeps L D d) :
    Keeps L D (contextChange i gen h ws d) := by
  unfold contextChange
  with_reducible repeat' (first
      | exact kD | exact Blk.le (by decide) sB | assumption | apply dropCtxOf_k | apply enterRts_k | apply leaveRts_k
      | apply onRdma_k | apply waits_k | apply writeContext_k | split | dsimp only)

theorem takeWr_k {i : Nat} {wr : Wr} {d : Dev}
    (sB : Blk.sub [.out, .free, .rdma, .rcnt] L = true) (kD : Keeps L D d) :
    Keeps L D (takeWr i wr d) := by
  unfold takeWr
  with_reducible repeat' (first
      | exact kD | exact Blk.le (by decide) sB | assumption | apply cacheCtx_k | apply onQp_k | split | dsimp only)

theorem wrBad_k {i opcode : Nat} {wr : Wr} {status : Nat} {d : Dev}
    (sB : Blk.sub [.out, .hif, .rdma] L = true) (kD : Keeps L D d) :
    Keeps L D (wrBad i opcode wr status d) := by
  unfold wrBad
  with_reducible repeat' (first
      | exact kD | exact Blk.le (by decide) sB | assumption | apply leaveRts_k | apply waits_k | apply wrDone_k | split
      | dsimp only)

theorem sendWr_k {i opcode : Nat} {wr : Wr} {d : Dev} (sB : Blk.sub [.out, .rdma] L = true) (kD : Keeps L D d) :
    Keeps L D (sendWr i opcode wr d) := by
  unfold sendWr
  with_reducible repeat' (first
      | exact kD | exact Blk.le (by decide) sB | assumption | apply emit_k | apply onQp_k | split | dsimp only)

theorem postWr_k {i opcode : Nat} {wr : Wr} {d : Dev}
    (sB : Blk.sub [.out, .free, .hif, .rdma, .rcnt] L = true) (kD : Keeps L D d) :
    Keeps L D (postWr i opcode wr d) := by
  unfold postWr
  with_reducible repeat' (first
      | exact kD | exact Blk.le (by decide) sB | assumption | apply sendWr_k | apply takeWr_k | apply wrBad_k | split
      | dsimp only)

theorem postRead_k {i : Nat} {wr : Wr} {d : Dev}
    (sB : Blk.sub [.out, .free, .hif, .rdma, .rcnt] L = true) (kD : Keeps L D d) :
    Keeps L D (postRead i wr d) := by
  unfold postRead
  with_reducible repeat' (first
      | exact kD | exact Blk.le (by decide) sB | assumption | apply postWr_k | split | (apply mapGetD_k; intro _)
      | dsimp only)

theorem postNop_k {i : Nat} {wr : Wr} {d : Dev}
    (sB : Blk.sub [.out, .free, .hif, .rdma, .rcnt] L = true) (kD : Keeps L D d) :
    Keeps L D (postNop i wr d) := by
  unfold postNop
  with_reducible repeat' (first
      | exact kD | exact Blk.le (by decide) sB | assumption | apply takeWr_k | apply waits_k | apply wrBad_k | apply wrDone_k
      | split | (apply mapGetD_k; intro _) | dsimp only)

theorem postWait_k {i : Nat} {wr : Wr} {d : Dev}
    (sB : Blk.sub [.out, .free, .hif, .rdma, .rcnt] L = true) (kD : Keeps L D d) :
    Keeps L D (postWait i wr d) := by
  unfold postWait
  with_reducible repeat' (first
      | exact kD | exact Blk.le (by decide) sB | assumption | apply onQp_k | apply takeWr_k | apply waits_k | apply wrBad_k
      | split | (apply mapGetD_k; intro _) | dsimp only)

theorem ackUpTo_k {i : Nat} {psn : BitVec 24} {resp : Bool} {data : List Byte} {d : Dev}
    (sB : Blk.sub [.out, .hif, .rdma] L = true) (kD : Keeps L D d) :
    Keeps L D (ackUpTo i psn resp data d) := by
  unfold ackUpTo
  with_reducible repeat' (first
      | exact kD | exact Blk.le (by decide) sB | assumption | apply hostData_k | apply onQp_k | apply wrDone_k
      | (apply each_k; intro _ _ _) | split | (apply Keeps.fstOf; assumption) | dsimp only)

theorem rdmaAck_k {i : Nat} {psn : BitVec 24} {data : List Byte} {d : Dev}
    (sB : Blk.sub [.out, .hif, .rdma] L = true) (kD : Keeps L D d) :
    Keeps L D (rdmaAck i psn data d) := by
  unfold rdmaAck
  with_reducible repeat' (first
      | exact kD | exact Blk.le (by decide) sB | assumption | apply ackUpTo_k | apply waits_k | split | dsimp only)

theorem resend_k {i : Nat} {d : Dev} (sB : Blk.sub [.out] L = true) (kD : Keeps L D d) :
    Keeps L D (resend i d) := by
  unfold resend
  with_reducible repeat' (first | exact kD | exact Blk.le (by decide) sB | assumption | apply emits_k | split | dsimp only)

theorem retry_k {i : Nat} {d : Dev} (sB : Blk.sub [.out, .hif, .rdma] L = true) (kD : Keeps L D d) :
    Keeps L D (retry i d) := by
  unfold retry
  with_reducible repeat' (first
      | exact kD | exact Blk.le (by decide) sB | assumption | apply onQp_k | apply qpFail_k | apply resend_k | split
      | dsimp only)

theorem nakAct_k {i : Nat} {code : NakCode} {d : Dev} (sB : Blk.sub [.out, .hif, .rdma] L = true) (kD : Keeps L D d) :
    Keeps L D (nakAct i code d) := by
  unfold nakAct
  with_reducible repeat' (first
      | exact kD | exact Blk.le (by decide) sB | assumption | apply onQp_k | apply qpFail_k | apply retry_k | split
      | dsimp only)

theorem rdmaNak_k {i : Nat} {psn : BitVec 24} {code : NakCode} {d : Dev}
    (sB : Blk.sub [.out, .hif, .rdma] L = true) (kD : Keeps L D d) :
    Keeps L D (rdmaNak i psn code d) := by
  unfold rdmaNak
  with_reducible repeat' (first
      | exact kD | exact Blk.le (by decide) sB | assumption | apply ackUpTo_k | apply nakAct_k | split | dsimp only)

theorem ackTimeout_k {i : Nat} {d : Dev} (sB : Blk.sub [.out, .hif, .rdma] L = true) (kD : Keeps L D d) :
    Keeps L D (ackTimeout i d) := by
  unfold ackTimeout
  with_reducible repeat' (first | exact kD | exact Blk.le (by decide) sB | assumption | apply retry_k | split | dsimp only)

theorem rnrRetry_k {i : Nat} {d : Dev} (sB : Blk.sub [.out, .hif, .rdma] L = true) (kD : Keeps L D d) :
    Keeps L D (rnrRetry i d) := by
  unfold rnrRetry
  with_reducible repeat' (first
      | exact kD | exact Blk.le (by decide) sB | assumption | apply onQp_k | apply qpFail_k | apply resend_k | split
      | dsimp only)

theorem gotCnp_k {i : Nat} {d : Dev} (sB : Blk.sub [.rdma, .rcnt] L = true) (kD : Keeps L D d) :
    Keeps L D (gotCnp i d) := by
  unfold gotCnp
  with_reducible repeat' (first
      | exact kD | exact Blk.le (by decide) sB | assumption | apply onQp_k | apply onRcnt_k | split | dsimp only)

theorem rateTimer_k {i : Nat} {d : Dev} (sB : Blk.sub [.rdma] L = true) (kD : Keeps L D d) :
    Keeps L D (rateTimer i d) := by
  unfold rateTimer
  with_reducible repeat' (first | exact kD | exact Blk.le (by decide) sB | assumption | apply onQp_k | split | dsimp only)

theorem answerCe_k {i : Nat} {d : Dev} (sB : Blk.sub [.out, .rdma, .rcnt] L = true) (kD : Keeps L D d) :
    Keeps L D (answerCe i d) := by
  unfold answerCe
  with_reducible repeat' (first
      | exact kD | exact Blk.le (by decide) sB | assumption | apply emit_k | apply onQp_k | apply onRcnt_k | split
      | dsimp only)

theorem sendNak_k {i : Nat} {psn : BitVec 24} {code : NakCode} {d : Dev}
    (sB : Blk.sub [.out] L = true) (kD : Keeps L D d) :
    Keeps L D (sendNak i psn code d) := by
  unfold sendNak
  with_reducible repeat' (first | exact kD | exact Blk.le (by decide) sB | assumption | apply emit_k | split | dsimp only)

theorem sendAck_k {i : Nat} {psn msn : BitVec 24} {q : Qp} {d : Dev}
    (sB : Blk.sub [.out] L = true) (kD : Keeps L D d) :
    Keeps L D (sendAck i psn msn q d) := by
  unfold sendAck
  with_reducible repeat' (first | exact kD | exact Blk.le (by decide) sB | assumption | apply emit_k | split | dsimp only)

theorem refuseAccess_k {i : Nat} {psn : BitVec 24} {d : Dev}
    (sB : Blk.sub [.out, .hif, .rdma, .rcnt] L = true) (kD : Keeps L D d) :
    Keeps L D (refuseAccess i psn d) := by
  unfold refuseAccess
  with_reducible repeat' (first
      | exact kD | exact Blk.le (by decide) sB | assumption | apply leaveRts_k | apply onRcnt_k | apply sendNak_k
      | apply waits_k | split | dsimp only)

theorem advance_k {i : Nat} {r : RdmaReq} {n : Nat} {d : Dev} (sB : Blk.sub [.rdma] L = true) (kD : Keeps L D d) :
    Keeps L D (advance i r n d) := by
  unfold advance
  with_reducible repeat' (first
      | exact kD | exact Blk.le (by decide) sB | assumption | apply onQp_k | (apply foldl_k; intro _ _ _) | split
      | (apply foldlP_k; intro _ _ _) | dsimp only)

theorem ackReq_k {i : Nat} {psn : BitVec 24} {d : Dev} (sB : Blk.sub [.out] L = true) (kD : Keeps L D d) :
    Keeps L D (ackReq i psn d) := by
  unfold ackReq
  with_reducible repeat' (first | exact kD | exact Blk.le (by decide) sB | assumption | apply sendAck_k | split | dsimp only)

theorem reqSend_k {i : Nat} {q : Qp} {r : RdmaReq} {d : Dev}
    (sB : Blk.sub [.out, .free, .hif, .rdma, .rcnt] L = true) (kD : Keeps L D d) :
    Keeps L D (reqSend i q r d) := by
  unfold reqSend
  with_reducible repeat' (first
      | exact kD | exact Blk.le (by decide) sB | assumption | apply ackReq_k | apply advance_k | apply drawn_k
      | apply hostData_k | apply onQp_k | apply onRcnt_k | apply recvDone_k | apply sendNak_k | split | dsimp only)

theorem doReq_k {i : Nat} {q : Qp} {r : RdmaReq} {d : Dev}
    (sB : Blk.sub [.out, .free, .hif, .rdma, .rcnt] L = true) (kD : Keeps L D d) :
    Keeps L D (doReq i q r d) := by
  unfold doReq
  with_reducible repeat' (first
      | exact kD | exact Blk.le (by decide) sB | assumption | apply ackReq_k | apply advance_k | apply drawn_k | apply emit_k
      | apply hostData_k | apply onRcnt_k | apply recvDone_k | apply refuseAccess_k | apply reqSend_k | apply sendNak_k
      | split | dsimp only)

theorem dupReq_k {i : Nat} {q : Qp} {r : RdmaReq} {d : Dev}
    (sB : Blk.sub [.out, .hif, .rdma, .rcnt] L = true) (kD : Keeps L D d) :
    Keeps L D (dupReq i q r d) := by
  unfold dupReq
  with_reducible repeat' (first
      | exact kD | exact Blk.le (by decide) sB | assumption | apply emit_k | apply onRcnt_k | apply refuseAccess_k
      | apply sendAck_k | split | (apply mapGetD_k; intro _) | dsimp only)

theorem seqNak_k {i : Nat} {q : Qp} {d : Dev} (sB : Blk.sub [.out, .rcnt] L = true) (kD : Keeps L D d) :
    Keeps L D (seqNak i q d) := by
  unfold seqNak
  with_reducible repeat' (first
      | exact kD | exact Blk.le (by decide) sB | assumption | apply onRcnt_k | apply sendNak_k | split | dsimp only)

theorem psnReq_k {i : Nat} {r : RdmaReq} {d : Dev}
    (sB : Blk.sub [.out, .free, .hif, .rdma, .rcnt] L = true) (kD : Keeps L D d) :
    Keeps L D (psnReq i r d) := by
  unfold psnReq
  with_reducible repeat' (first
      | exact kD | exact Blk.le (by decide) sB | assumption | apply answerCe_k | apply doReq_k | apply dupReq_k
      | apply onQp_k | apply seqNak_k | split | dsimp only)

theorem parkReq_k {i : Nat} {r : RdmaReq} {d : Dev} (sB : Blk.sub [.out, .rdma, .rcnt] L = true) (kD : Keeps L D d) :
    Keeps L D (parkReq i r d) := by
  unfold parkReq
  with_reducible repeat' (first
      | exact kD | exact Blk.le (by decide) sB | assumption | apply fetchCtx_k | apply onRcnt_k | apply onRdma_k
      | apply sendNak_k | split | dsimp only)

theorem rdmaRequest_k {r : RdmaReq} {d : Dev}
    (sB : Blk.sub [.out, .free, .hif, .rdma, .rcnt] L = true) (kD : Keeps L D d) :
    Keeps L D (rdmaRequest r d) := by
  unfold rdmaRequest
  with_reducible repeat' (first
      | exact kD | exact Blk.le (by decide) sB | assumption | apply onRcnt_k | apply parkReq_k | apply psnReq_k
      | apply waits_k | split | dsimp only)

theorem fetchDone_k {i : Nat} {d : Dev} (sB : Blk.sub [.out, .free, .hif, .rdma, .rcnt] L = true) (kD : Keeps L D d) :
    Keeps L D (fetchDone i d) := by
  unfold fetchDone
  with_reducible repeat' (first
      | exact kD | exact Blk.le (by decide) sB | assumption | apply cacheCtx_k | apply onRdma_k | apply psnReq_k
      | apply waits_k | (apply each_k; intro _ _ _) | split | (apply Keeps.fstOf; assumption) | dsimp only)

theorem resetQps_k {d : Dev} (sB : Blk.sub [.rdma] L = true) (kD : Keeps L D d) :
    Keeps L D (resetQps d) := by
  unfold resetQps
  with_reducible repeat' (first | exact kD | exact Blk.le (by decide) sB | assumption | apply onRdma_k | split | dsimp only)

end Sys2Proof.Machine
end

