-- ==== Sys2Proof/Laws/KeepsPair.lean ====
section
/-! SUPPORT. What the operations of these parts can change: the pair: takeover, checkpoints, messages, replicas, handover, and the descriptor rings. -/

namespace Sys2Proof.Machine
open Sys2Proof

variable {L : List Blk} {D : Dev}

/-! ## Takeover -/

theorem registerAll_k {d : Dev} (sB : Blk.sub [.out, .vault, .tango] L = true) (kD : Keeps L D d) :
    Keeps L D (registerAll d) := by
  unfold registerAll
  with_reducible repeat' (first
      | exact kD | exact Blk.le (by decide) sB | assumption | apply onTango_k | apply registerDrive_k
      | (apply each_k; intro _ _ _) | split | (apply Keeps.fstOf; assumption) | dsimp only)

theorem resetBases_k {d : Dev} (sB : Blk.sub [.lg] L = true) (kD : Keeps L D d) :
    Keeps L D (resetBases d) := by
  unfold resetBases
  with_reducible repeat' (first | exact kD | exact Blk.le (by decide) sB | assumption | split | apply upd_lg | dsimp only)

theorem setTable_k {owners : Four Nat} {epoch : Nat} {d : Dev}
    (sB : Blk.sub [.lg, .tango] L = true) (kD : Keeps L D d) :
    Keeps L D (setTable owners epoch d) := by
  unfold setTable
  with_reducible repeat' (first
      | exact kD | exact Blk.le (by decide) sB | assumption | apply onTango_k | apply resetBases_k | split | dsimp only)

theorem freshOwn_k {n : Nat} {g : Fin 4} {d : Dev} (sB : Blk.sub [.lg] L = true) (kD : Keeps L D d) :
    Keeps L D (freshOwn n g d) := by
  unfold freshOwn
  with_reducible repeat' (first
      | exact kD | exact Blk.le (by decide) sB | assumption | apply onLedger_k | split | dsimp only)

theorem releaseCarried_k {g : Fin 4} {d : Dev} (sB : Blk.sub [.lg, .pipes] L = true) (kD : Keeps L D d) :
    Keeps L D (releaseCarried g d) := by
  unfold releaseCarried
  with_reducible repeat' (first
      | exact kD | exact Blk.le (by decide) sB | assumption | apply onLedger_k | apply onPipe_k | split | dsimp only)

theorem unpinStripe_k {sb : StripeBuf} {d : Dev} (sB : Blk.sub [.cat] L = true) (kD : Keeps L D d) :
    Keeps L D (unpinStripe sb d) := by
  unfold unpinStripe
  with_reducible repeat' (first
      | exact kD | exact Blk.le (by decide) sB | assumption | apply onCat_k | (apply foldl_k; intro _ _ _) | split
      | (apply foldlP_k; intro _ _ _) | dsimp only)

theorem freeOpen_k {g : Fin 4} {d : Dev} (sB : Blk.sub [.cat, .bpm] L = true) (kD : Keeps L D d) :
    Keeps L D (freeOpen g d) := by
  unfold freeOpen
  with_reducible repeat' (first
      | exact kD | exact Blk.le (by decide) sB | assumption | apply freeBuffers_k | apply unpinStripe_k | split | dsimp only)

theorem dropParts_k {gs keep : BitVec 4} {t : Take} {d : Dev}
    (sB : Blk.sub [.cat, .dgst] L = true) (kD : Keeps L D d) :
    Keeps L D (dropParts gs keep t d) := by
  unfold dropParts
  with_reducible repeat' (first
      | exact kD | exact Blk.le (by decide) sB | assumption | apply freeMr_k | apply onTake_k | (apply foldl_k; intro _ _ _)
      | split | (apply foldlP_k; intro _ _ _) | dsimp only)

theorem refuseCloses_k {d : Dev} (sB : Blk.sub [.out, .cat, .hif, .dma] L = true) (kD : Keeps L D d) :
    Keeps L D (refuseCloses d) := by
  unfold refuseCloses
  with_reducible repeat' (first
      | exact kD | exact Blk.le (by decide) sB | assumption | apply complete_k | apply onTake_k | apply settled_k
      | (apply foldl_k; intro _ _ _) | split | (apply foldlP_k; intro _ _ _) | dsimp only)

theorem dropHand_k {status : Nat} {r0 : W64} {d : Dev}
    (sB : Blk.sub [.out, .cat, .hif, .tango, .dma] L = true) (kD : Keeps L D d) :
    Keeps L D (dropHand status r0 d) := by
  unfold dropHand
  with_reducible repeat' (first
      | exact kD | exact Blk.le (by decide) sB | assumption | apply complete_k | apply onTango_k | split | dsimp only)

theorem ownReplicas_k {mine : Bool} {d : Dev} (sB : Blk.sub [.cat] L = true) (kD : Keeps L D d) :
    Keeps L D (ownReplicas mine d) := by
  unfold ownReplicas
  with_reducible repeat' (first | exact kD | exact Blk.le (by decide) sB | assumption | apply onCat_k | split | dsimp only)

theorem dropReplicas_k {d : Dev}
    (sB : Blk.sub [.out, .vault, .cat, .ciph, .hif, .repl, .bpm, .dma, .evr] L = true) (kD : Keeps L D d) :
    Keeps L D (dropReplicas d) := by
  unfold dropReplicas
  with_reducible repeat' (first
      | exact kD | exact Blk.le (by decide) sB | assumption | apply endAccept_k | apply ownReplicas_k | apply replMsg_k
      | (apply each_k; intro _ _ _) | split | (apply Keeps.fstOf; assumption) | dsimp only)

theorem stepDown_k {cause : Nat} {d : Dev}
    (sB : Blk.sub [.out, .free, .lg, .pipes, .vault, .cat, .ciph, .dgst, .hif, .tango, .ih, .repl, .bpm, .dma,
      .evr] L = true) (kD : Keeps L D d) :
    Keeps L D (stepDown cause d) := by
  unfold stepDown
  with_reducible repeat' (first
      | exact kD | exact Blk.le (by decide) sB | assumption | apply dropHand_k | apply dropParts_k | apply dropReplicas_k
      | apply freeBuffers_k | apply freeOpen_k | apply logEvent_k | apply notifyAll_k | apply onDrive_k | apply onTango_k
      | apply onVault_k | apply refuseCloses_k | apply releaseCarried_k | apply setTable_k | apply unpinStripe_k
      | (apply each_k; intro _ _ _) | (apply foldl_k; intro _ _ _) | split | apply upd_ih | (apply Keeps.fstOf; assumption)
      | (apply foldlP_k; intro _ _ _) | dsimp only)

theorem useStripe_k {e : Nat × Nat} {d : Dev} (sB : Blk.sub [.vault] L = true) (kD : Keeps L D d) :
    Keeps L D (useStripe e d) := by
  unfold useStripe
  with_reducible repeat' (first | exact kD | exact Blk.le (by decide) sB | assumption | apply onVault_k | split | dsimp only)

theorem commitRec_k {o : OpenRec} {d : Dev} (sB : Blk.sub [.vault, .cat, .dgst, .repl] L = true) (kD : Keeps L D d) :
    Keeps L D (commitRec o d) := by
  unfold commitRec
  with_reducible repeat' (first
      | exact kD | exact Blk.le (by decide) sB | assumption | apply commitTiles_k | apply useStripe_k | split
      | (apply mapGetD_k; intro _) | dsimp only)

theorem adoptEntry_k {o : OpenRec} {d : Dev}
    (sB : Blk.sub [.out, .vault, .vcnt, .cat, .ciph, .dgst, .hif, .tango, .repl, .mca, .dma,
      .evr] L = true) (kD : Keeps L D d) :
    Keeps L D (adoptEntry o d) := by
  unfold adoptEntry
  with_reducible repeat' (first
      | exact kD | exact Blk.le (by decide) sB | assumption | apply appendRec_k | apply commitRec_k | apply onVcnt_k | split
      | dsimp only)

theorem discardEntry_k {o : OpenRec} {d : Dev} (sB : Blk.sub [.vault, .vcnt] L = true) (kD : Keeps L D d) :
    Keeps L D (discardEntry o d) := by
  unfold discardEntry
  with_reducible repeat' (first
      | exact kD | exact Blk.le (by decide) sB | assumption | apply freeStripe_k | apply onVcnt_k | apply useStripe_k | split
      | dsimp only)

theorem judgeEntry_k {reads : List AdoptIn} {o : OpenRec} {d : Dev}
    (sB : Blk.sub [.out, .vault] L = true) (kD : Keeps L D d) :
    Keeps L D (judgeEntry reads o d).1 := by
  unfold judgeEntry
  with_reducible repeat' (first
      | exact kD | exact Blk.le (by decide) sB | assumption | apply countStripe_k | apply emits_k | split
      | (apply mapGetD_k; intro _) | dsimp only)

theorem adoptSource_k {reads : List AdoptIn} {os : List OpenRec} {last : Option OpenRec} {d : Dev}
    (s : Blk.sub [.out, .vault, .vcnt, .cat, .ciph, .dgst, .hif, .tango, .repl, .mca, .dma,
      .evr] L = true) (k : Keeps L D d) : Keeps L D (adoptSource reads os last d).1 := by
  induction os generalizing last d with
  | nil => exact k
  | cons o rest ih =>
    have j : Keeps L D (judgeEntry reads o d).1 := judgeEntry_k (Blk.le (by decide) s) k
    unfold adoptSource
    generalize judgeEntry reads o d = y at j ⊢
    with_reducible repeat' (first
        | exact k | exact j | exact Blk.le (by decide) s | assumption | apply ih | apply oweStrip_k | apply adoptEntry_k
        | apply discardEntry_k | (apply each_k; intro _ _ _) | split | dsimp only)

theorem applyRec_k {r : JRec} {d : Dev} (sB : Blk.sub [.vault] L = true) (kD : Keeps L D d) :
    Keeps L D (applyRec r d) := by
  unfold applyRec
  with_reducible repeat' (first | exact kD | exact Blk.le (by decide) sB | assumption | apply onVault_k | split | dsimp only)

theorem learnCkptVolume_k {v : Volume} {d : Dev} (sB : Blk.sub [.cat] L = true) (kD : Keeps L D d) :
    Keeps L D (learnCkptVolume v d) := by
  unfold learnCkptVolume
  with_reducible repeat' (first
      | exact kD | exact Blk.le (by decide) sB | assumption | apply onCat_k | apply onVolume_k | split | dsimp only)

theorem learnTake_k {i : TakeInfo} {d : Dev} (sB : Blk.sub [.cat] L = true) (kD : Keeps L D d) :
    Keeps L D (learnTake i d) := by
  unfold learnTake
  with_reducible repeat' (first
      | exact kD | exact Blk.le (by decide) sB | assumption | apply onCat_k | apply onTake_k | split | dsimp only)

theorem learnPart_k {v id : Nat} {x : PartInfo} {d : Dev} (sB : Blk.sub [.cat] L = true) (kD : Keeps L D d) :
    Keeps L D (learnPart v id x d) := by
  unfold learnPart
  with_reducible repeat' (first
      | exact kD | exact Blk.le (by decide) sB | assumption | apply onCat_k | apply onTake_k | (apply foldl_k; intro _ _ _)
      | split | (apply foldlP_k; intro _ _ _) | dsimp only)

theorem learnEntries_k {r : Nat × Nat × Nat × List Entry} {d : Dev}
    (sB : Blk.sub [.cat] L = true) (kD : Keeps L D d) :
    Keeps L D (learnEntries r d) := by
  unfold learnEntries
  with_reducible repeat' (first | exact kD | exact Blk.le (by decide) sB | assumption | apply onPart_k | split | dsimp only)

theorem learnFrames_k {r : Nat × Nat × Nat × List FrameRec} {d : Dev}
    (sB : Blk.sub [.cat] L = true) (kD : Keeps L D d) :
    Keeps L D (learnFrames r d) := by
  unfold learnFrames
  with_reducible repeat' (first | exact kD | exact Blk.le (by decide) sB | assumption | apply onPart_k | split | dsimp only)

theorem learnRing_k {i : RingInfo} {d : Dev} (sB : Blk.sub [.cat] L = true) (kD : Keeps L D d) :
    Keeps L D (learnRing i d) := by
  unfold learnRing
  with_reducible repeat' (first
      | exact kD | exact Blk.le (by decide) sB | assumption | apply onReel_k | (apply foldl_k; intro _ _ _) | split
      | (apply foldlP_k; intro _ _ _) | dsimp only)

theorem loadCkpt_k {c : Ckpt} {d : Dev} (sB : Blk.sub [.vault, .cat] L = true) (kD : Keeps L D d) :
    Keeps L D (loadCkpt c d) := by
  unfold loadCkpt
  with_reducible repeat' (first
      | exact kD | exact Blk.le (by decide) sB | assumption | apply learnCkptVolume_k | apply learnEntries_k
      | apply learnFrames_k | apply learnRing_k | apply learnTake_k | apply onCat_k | apply useStripe_k
      | (apply each_k; intro _ _ _) | (apply foldl_k; intro _ _ _) | split | (apply Keeps.fstOf; assumption)
      | (apply foldlP_k; intro _ _ _) | dsimp only)

theorem closeFar_k {i : TakeInfo} {t : Take} {d : Dev}
    (sB : Blk.sub [.out, .free, .sl, .lg, .pipes, .vault, .cat, .ciph, .dgst, .hif, .tango, .bpm, .mca, .dma,
      .evr] L = true) (kD : Keeps L D d) :
    Keeps L D (closeFar i t d) := by
  unfold closeFar
  with_reducible repeat' (first
      | exact kD | exact Blk.le (by decide) sB | assumption | apply advanceTake_k | apply consume_k | apply onTake_k
      | apply stopGroups_k | (apply each_k; intro _ _ _) | split | (apply Keeps.fstOf; assumption) | dsimp only)

theorem undoTake_k {t : Take} {d : Dev}
    (sB : Blk.sub [.out, .free, .pipes, .vault, .cat, .ciph, .dgst, .hif, .tango, .bpm, .mca, .dma,
      .evr] L = true) (kD : Keeps L D d) :
    Keeps L D (undoTake t d) := by
  unfold undoTake
  with_reducible repeat' (first
      | exact kD | exact Blk.le (by decide) sB | assumption | apply advanceTake_k | apply onTake_k | split | dsimp only)

theorem noteTake_k {i : TakeInfo} {d : Dev}
    (sB : Blk.sub [.out, .free, .sl, .lg, .pipes, .vault, .cat, .ciph, .dgst, .hif, .tango, .bpm, .mca, .dma,
      .evr] L = true) (kD : Keeps L D d) :
    Keeps L D (noteTake i d) := by
  unfold noteTake
  with_reducible repeat' (first
      | exact kD | exact Blk.le (by decide) sB | assumption | apply advanceTake_k | apply closeFar_k | apply deleteTake_k
      | apply learnPart_k | apply learnTake_k | apply onTake_k | apply takeClosed_k | apply undoTake_k
      | (apply each_k; intro _ _ _) | split | (apply Keeps.fstOf; assumption) | dsimp only)

theorem noteCkpt_k {c : Ckpt} {d : Dev}
    (sB : Blk.sub [.out, .free, .sl, .lg, .pipes, .vault, .cat, .ciph, .dgst, .hif, .tango, .bpm, .mca, .dma,
      .evr] L = true) (kD : Keeps L D d) :
    Keeps L D (noteCkpt c d) := by
  unfold noteCkpt
  with_reducible repeat' (first
      | exact kD | exact Blk.le (by decide) sB | assumption | apply learnCkptVolume_k | apply noteTake_k | apply purgeTakes_k
      | (apply each_k; intro _ _ _) | split | (apply Keeps.fstOf; assumption) | dsimp only)

theorem adoptRing_k {n : Nat} {r : Resume} {d : Dev} (sB : Blk.sub [.lg] L = true) (kD : Keeps L D d) :
    Keeps L D (adoptRing n r d) := by
  unfold adoptRing
  with_reducible repeat' (first
      | exact kD | exact Blk.le (by decide) sB | assumption | apply onLedger_k | split | dsimp only)

theorem resumePipe_k {r : Resume} {d : Dev} (sB : Blk.sub [.free, .pipes] L = true) (kD : Keeps L D d) :
    Keeps L D (resumePipe r d) := by
  unfold resumePipe
  with_reducible repeat' (first
      | exact kD | exact Blk.le (by decide) sB | assumption | apply drawn_k | apply onPipe_k | split
      | (apply mapGetD_k; intro _) | dsimp only)

theorem resumeTakes_k {r : Resume} {d : Dev} (sB : Blk.sub [.cat] L = true) (kD : Keeps L D d) :
    Keeps L D (resumeTakes r d) := by
  unfold resumeTakes
  with_reducible repeat' (first
      | exact kD | exact Blk.le (by decide) sB | assumption | apply onCat_k | split | (apply mapGetD_k; intro _) | dsimp only)

theorem resumeChain_k {chains : List ChainHand} {t : Take} {p : Part} {d : Dev}
    (sB : Blk.sub [.cat, .dgst] L = true) (kD : Keeps L D d) :
    Keeps L D (resumeChain chains t p d) := by
  unfold resumeChain
  with_reducible repeat' (first
      | exact kD | exact Blk.le (by decide) sB | assumption | apply beginChain_k | apply onPart_k | apply onTake_k
      | apply openChain_k | split | dsimp only)

theorem resumeChains_k {gs : BitVec 4} {chains : List ChainHand} {d : Dev}
    (sB : Blk.sub [.cat, .dgst] L = true) (kD : Keeps L D d) :
    Keeps L D (resumeChains gs chains d) := by
  unfold resumeChains
  with_reducible repeat' (first
      | exact kD | exact Blk.le (by decide) sB | assumption | apply resumeChain_k | (apply foldl_k; intro _ _ _) | split
      | (apply foldlP_k; intro _ _ _) | dsimp only)

theorem attachTakes_k {d : Dev} (sB : Blk.sub [.cat] L = true) (kD : Keeps L D d) :
    Keeps L D (attachTakes d) := by
  unfold attachTakes
  with_reducible repeat' (first
      | exact kD | exact Blk.le (by decide) sB | assumption | apply onTake_k | (apply foldl_k; intro _ _ _) | split
      | (apply foldlP_k; intro _ _ _) | dsimp only)

theorem inheritStop_k {g : Fin 4} {d : Dev} (sB : Blk.sub [.out, .sl] L = true) (kD : Keeps L D d) :
    Keeps L D (inheritStop g d) := by
  unfold inheritStop
  with_reducible repeat' (first
      | exact kD | exact Blk.le (by decide) sB | assumption | apply onGroup_k | apply stopGroup_k | split | dsimp only)

theorem repin_k {r : Nat × TrigRec} {d : Dev}
    (sB : Blk.sub [.out, .vault, .cat, .ciph, .hif, .tango, .mca, .dma, .evr] L = true) (kD : Keeps L D d) :
    Keeps L D (repin r d) := by
  unfold repin
  with_reducible repeat' (first
      | exact kD | exact Blk.le (by decide) sB | assumption | apply onTake_k | apply pinTrigger_k | split
      | (apply Keeps.fstOf; assumption) | (apply mapGetD_k; intro _) | dsimp only)

theorem reportOutput_k {o : Nat × Nat × Nat × Nat × Nat} {d : Dev}
    (sB : Blk.sub [.out, .cat, .hif, .dma, .evr] L = true) (kD : Keeps L D d) :
    Keeps L D (reportOutput o d) := by
  unfold reportOutput
  with_reducible repeat' (first
      | exact kD | exact Blk.le (by decide) sB | assumption | apply logEvent_k | split | dsimp only)

theorem fence_k {t : TakeoverIn} {e : Nat} {d : Dev} (sB : Blk.sub [.out] L = true) (kD : Keeps L D d) :
    Keeps L D (fence t e d) := by
  unfold fence
  with_reducible repeat' (first | exact kD | exact Blk.le (by decide) sB | assumption | apply emits_k | split | dsimp only)

theorem confirmAll_k {d : Dev} (sB : Blk.sub [.vault] L = true) (kD : Keeps L D d) :
    Keeps L D (confirmAll d) := by
  unfold confirmAll
  with_reducible repeat' (first
      | exact kD | exact Blk.le (by decide) sB | assumption | apply onDrive_k | (apply foldl_k; intro _ _ _) | split
      | (apply foldlP_k; intro _ _ _) | dsimp only)

theorem takeGroups_k {t : TakeoverIn} {gs : List (Fin 4)} {e : Nat} {d : Dev}
    (sB : Blk.sub [.out, .free, .sl, .lg, .pipes, .vault, .vcnt, .cat, .disk, .ciph, .dgst, .hif, .tango, .repl, .mca, .dma,
      .evr] L = true) (kD : Keeps L D d) :
    Keeps L D (takeGroups t gs e d) := by
  unfold takeGroups
  with_reducible repeat' (first
      | exact kD | exact Blk.le (by decide) sB | assumption | apply adoptRing_k | apply adoptSource_k | apply applyRec_k
      | apply attachTakes_k | apply commitRec_k | apply inheritStop_k | apply loadCkpt_k | apply onTango_k
      | apply ownReplicas_k | apply repin_k | apply reportOutput_k | apply resumeAll_k | apply resumeChains_k
      | apply resumePipe_k | apply resumeTakes_k | apply setTable_k | (apply each_k; intro _ _ _)
      | (apply foldl_k; intro _ _ _) | split | (apply Keeps.fstOf; assumption) | (apply mapGetD_k; intro _)
      | (apply foldlP_k; intro _ _ _) | dsimp only)

theorem endTakeover_k {gs : List (Fin 4)} {e : Nat} {d : Dev}
    (sB : Blk.sub [.out, .free, .sl, .lg, .pipes, .vault, .vcnt, .cat, .disk, .ciph, .dgst, .hif, .tango, .ih, .repl, .bpm,
      .mca, .dma, .evr] L = true) (kD : Keeps L D d) :
    Keeps L D (endTakeover gs e d) := by
  unfold endTakeover
  with_reducible repeat' (first
      | exact kD | exact Blk.le (by decide) sB | assumption | apply consume_k | apply dropHand_k | apply logEvent_k
      | apply notifyAll_k | apply onTango_k | apply onVault_k | apply retireReady_k | (apply each_k; intro _ _ _) | split
      | apply upd_ih | (apply Keeps.fstOf; assumption) | dsimp only)

theorem takeOver_k {t : TakeoverIn} {gs : List (Fin 4)} {d : Dev}
    (sB : Blk.sub [.out, .free, .glb, .sl, .lg, .pipes, .vault, .vcnt, .cat, .disk, .ciph, .dgst, .hif, .tango, .ih, .repl,
      .bpm, .mca, .dma, .evr] L = true) (kD : Keeps L D d) :
    Keeps L D (takeOver t gs d) := by
  unfold takeOver
  with_reducible repeat' (first
      | exact kD | exact Blk.le (by decide) sB | assumption | apply confirmAll_k | apply endTakeover_k | apply failDrive_k
      | apply fatalStop_k | apply fence_k | apply onTango_k | apply stepDown_k | apply takeGroups_k
      | (apply each_k; intro _ _ _) | split | (apply Keeps.fstOf; assumption) | dsimp only)

theorem closeAtRestart_k {t : Take} {d : Dev} (sB : Blk.sub [.free, .vault, .cat] L = true) (kD : Keeps L D d) :
    Keeps L D (closeAtRestart t d) := by
  unfold closeAtRestart
  with_reducible repeat' (first
      | exact kD | exact Blk.le (by decide) sB | assumption | apply dropStripes_k | apply freeStripe_k | apply onTake_k
      | (apply each_k; intro _ _ _) | split | apply upd_free | (apply Keeps.fstOf; assumption) | (apply mapGetD_k; intro _)
      | dsimp only)

theorem zeroHeaders_k {ds : List DumpIn} {d : Dev} (sB : Blk.sub [.out] L = true) (kD : Keeps L D d) :
    Keeps L D (zeroHeaders ds d) := by
  unfold zeroHeaders
  with_reducible repeat' (first | exact kD | exact Blk.le (by decide) sB | assumption | apply emits_k | split | dsimp only)

theorem pastDump_k {x : DumpIn} {d : Dev} (sB : Blk.sub [.vault] L = true) (kD : Keeps L D d) :
    Keeps L D (pastDump x d) := by
  unfold pastDump
  with_reducible repeat' (first
      | exact kD | exact Blk.le (by decide) sB | assumption | apply onVault_k | split | (apply mapGetD_k; intro _)
      | dsimp only)

theorem startFromDump_k {t : TakeoverIn} {epochBefore : Nat} {ds : List DumpIn} {d : Dev}
    (sB : Blk.sub [.out, .free, .vault, .vcnt, .cat, .ciph, .dgst, .hif, .tango, .repl, .mca, .dma,
      .evr] L = true) (kD : Keeps L D d) :
    Keeps L D (startFromDump t epochBefore ds d) := by
  unfold startFromDump
  with_reducible repeat' (first
      | exact kD | exact Blk.le (by decide) sB | assumption | apply adoptSource_k | apply applyRec_k | apply closeAtRestart_k
      | apply commitRec_k | apply pastDump_k | apply zeroHeaders_k | (apply each_k; intro _ _ _)
      | (apply foldl_k; intro _ _ _) | split | (apply Keeps.fstOf; assumption) | (apply foldlP_k; intro _ _ _) | dsimp only)

/-! ## Checkpoint -/

theorem toldTakes_k {d : Dev} (sB : Blk.sub [.vault, .cat] L = true) (kD : Keeps L D d) :
    Keeps L D (toldTakes d) := by
  unfold toldTakes
  with_reducible repeat' (first
      | exact kD | exact Blk.le (by decide) sB | assumption | apply giveBack_k | apply onCat_k | apply purgeTakes_k
      | (apply each_k; intro _ _ _) | split | (apply Keeps.fstOf; assumption) | dsimp only)

theorem sendCkpt_k {d : Dev}
    (sB : Blk.sub [.out, .vault, .cat, .ciph, .hif, .tango, .dma, .evr] L = true) (kD : Keeps L D d) :
    Keeps L D (sendCkpt d) := by
  unfold sendCkpt
  with_reducible repeat' (first
      | exact kD | exact Blk.le (by decide) sB | assumption | apply onTango_k | apply tangoSend_k | apply toldTakes_k | split
      | dsimp only)

theorem sendLedger_k {d : Dev}
    (sB : Blk.sub [.out, .lg, .cat, .ciph, .hif, .tango, .dma, .evr] L = true) (kD : Keeps L D d) :
    Keeps L D (sendLedger d) := by
  unfold sendLedger
  with_reducible repeat' (first
      | exact kD | exact Blk.le (by decide) sB | assumption | apply onLedger_k | apply tangoSend_k
      | (apply each_k; intro _ _ _) | split | (apply Keeps.fstOf; assumption) | dsimp only)

/-! ## Tango -/

theorem refuseMsg_k {qp type reason : Nat} {seq : W64} {d : Dev}
    (sB : Blk.sub [.out, .cat, .ciph, .hif, .tango, .dma, .evr] L = true) (kD : Keeps L D d) :
    Keeps L D (refuseMsg qp type reason seq d) := by
  unfold refuseMsg
  with_reducible repeat' (first
      | exact kD | exact Blk.le (by decide) sB | assumption | apply tangoSend_k | split | dsimp only)

theorem roleRefuse_k {qp type reason : Nat} {seq : W64} {d : Dev}
    (sB : Blk.sub [.out, .cat, .ciph, .hif, .tango, .ih, .dma, .evr] L = true) (kD : Keeps L D d) :
    Keeps L D (roleRefuse qp type reason seq d) := by
  unfold roleRefuse
  with_reducible repeat' (first
      | exact kD | exact Blk.le (by decide) sB | assumption | apply refuseMsg_k | split | apply upd_ih | dsimp only)

theorem tangoBad_k {e : Env} {d : Dev}
    (sB : Blk.sub [.out, .cat, .hif, .ih, .dma, .evr] L = true) (kD : Keeps L D d) :
    Keeps L D (tangoBad e d) := by
  unfold tangoBad
  with_reducible repeat' (first
      | exact kD | exact Blk.le (by decide) sB | assumption | apply logEvent_k | split | apply upd_ih | dsimp only)

theorem tangoIn_k {qp type : Nat} {exempt : Bool} {epoch : Nat} {e : Env} {f : Dev → Dev} {d : Dev}
    (s : Blk.sub [.out, .cat, .ciph, .hif, .tango, .ih, .dma,
      .evr] L = true) (h : ∀ x, Keeps L D x → Keeps L D (f x)) (k : Keeps L D d) :
    Keeps L D (tangoIn qp type exempt epoch e f d) := by
  unfold tangoIn
  with_reducible repeat' (first
      | exact k | exact Blk.le (by decide) s | apply h | apply refuseMsg_k | apply roleRefuse_k | apply tangoBad_k
      | apply onTango_k | split | apply upd_ih | dsimp only)

theorem checkedIn_k {qp type : Nat} {e : Env} {f : Dev → Dev} {d : Dev}
    (s : Blk.sub [.out, .cat, .ciph, .hif, .tango, .ih, .dma, .evr] L = true)
    (h : ∀ x, Keeps L D x → Keeps L D (f x)) (k : Keeps L D d) : Keeps L D (checkedIn qp type e f d) := tangoIn_k s h k

theorem exemptIn_k {qp type : Nat} {e : Env} {f : Dev → Dev} {d : Dev}
    (s : Blk.sub [.out, .cat, .ciph, .hif, .tango, .ih, .dma, .evr] L = true)
    (h : ∀ x, Keeps L D x → Keeps L D (f x)) (k : Keeps L D d) : Keeps L D (exemptIn qp type e f d) := tangoIn_k s h k

theorem acquireAll_k {d : Dev} (sB : Blk.sub [.out] L = true) (kD : Keeps L D d) :
    Keeps L D (acquireAll d) := by
  unfold acquireAll
  with_reducible repeat' (first | exact kD | exact Blk.le (by decide) sB | assumption | apply emits_k | split | dsimp only)

theorem claimGroups_k {n : Nat} {gs : List (Fin 4)} {e : Nat} {d : Dev}
    (sB : Blk.sub [.out, .glb, .sl, .lg, .vault, .cat, .ciph, .dgst, .hif, .tango, .dma, .evr] L = true) (kD : Keeps L D d) :
    Keeps L D (claimGroups n gs e d) := by
  unfold claimGroups
  with_reducible repeat' (first
      | exact kD | exact Blk.le (by decide) sB | assumption | apply acquireAll_k | apply fatalStop_k | apply freshOwn_k
      | apply refreshLimit_k | apply registerAll_k | apply setTable_k | (apply each_k; intro _ _ _) | split
      | (apply Keeps.fstOf; assumption) | dsimp only)

theorem sendClear_k {qp : Nat} {head : List Byte} {m : Hello} {c : Option Nat} {d : Dev}
    (sB : Blk.sub [.out] L = true) (kD : Keeps L D d) :
    Keeps L D (sendClear qp head m c d) := by
  unfold sendClear
  with_reducible repeat' (first | exact kD | exact Blk.le (by decide) sB | assumption | apply emits_k | split | dsimp only)

theorem sendHello_k {d : Dev} (sB : Blk.sub [.out, .free, .ciph, .tango] L = true) (kD : Keeps L D d) :
    Keeps L D (sendHello d) := by
  unfold sendHello
  with_reducible repeat' (first
      | exact kD | exact Blk.le (by decide) sB | assumption | apply drbgDraw_k | apply onTango_k | apply sendClear_k | split
      | dsimp only)

theorem loadSession_k {m : Hello} {d : Dev}
    (sB : Blk.sub [.out, .cat, .ciph, .hif, .dma, .evr] L = true) (kD : Keeps L D d) :
    Keeps L D (loadSession m d) := by
  unfold loadSession
  with_reducible repeat' (first
      | exact kD | exact Blk.le (by decide) sB | assumption | apply loadKey_k | apply stopJobs_k | split | dsimp only)

theorem sendHelloFirst_k {d : Dev} (sB : Blk.sub [.out, .free, .ciph, .tango] L = true) (kD : Keeps L D d) :
    Keeps L D (acceptHello.sendHelloFirst d) := by
  unfold acceptHello.sendHelloFirst
  with_reducible repeat' (first
      | exact kD | exact Blk.le (by decide) sB | assumption | apply sendHello_k | split | dsimp only)

theorem acceptHello_k {m : Hello} {d : Dev}
    (sB : Blk.sub [.out, .free, .cat, .ciph, .hif, .tango, .dma, .evr] L = true) (kD : Keeps L D d) :
    Keeps L D (acceptHello m d) := by
  unfold acceptHello
  with_reducible repeat' (first
      | exact kD | exact Blk.le (by decide) sB | assumption | apply loadSession_k | apply onTango_k | apply sendHelloFirst_k
      | apply submitJob_k | split | dsimp only)

theorem hello_k {m : Hello} {d : Dev}
    (sB : Blk.sub [.out, .free, .cat, .ciph, .hif, .tango, .dma, .evr] L = true) (kD : Keeps L D d) :
    Keeps L D (hello m d) := by
  unfold hello
  with_reducible repeat' (first
      | exact kD | exact Blk.le (by decide) sB | assumption | apply acceptHello_k | apply logEvent_k | apply notifyAll_k
      | apply onTango_k | split | dsimp only)

theorem helloRetry_k {d : Dev}
    (sB : Blk.sub [.out, .free, .glb, .sl, .lg, .vault, .cat, .ciph, .dgst, .hif, .tango, .dma,
      .evr] L = true) (kD : Keeps L D d) :
    Keeps L D (helloRetry d) := by
  unfold helloRetry
  with_reducible repeat' (first
      | exact kD | exact Blk.le (by decide) sB | assumption | apply claimGroups_k | apply sendHello_k | split | dsimp only)

theorem sendTable_k {o : Four Nat} {e : Nat} {d : Dev}
    (sB : Blk.sub [.out, .cat, .ciph, .hif, .tango, .dma, .evr] L = true) (kD : Keeps L D d) :
    Keeps L D (sendTable o e d) := by
  unfold sendTable
  with_reducible repeat' (first
      | exact kD | exact Blk.le (by decide) sB | assumption | apply tangoSend_k | split | dsimp only)

theorem announce_k {d : Dev}
    (sB : Blk.sub [.out, .glb, .lg, .vault, .cat, .ciph, .dgst, .hif, .tango, .dma, .evr] L = true) (kD : Keeps L D d) :
    Keeps L D (announce d) := by
  unfold announce
  with_reducible repeat' (first
      | exact kD | exact Blk.le (by decide) sB | assumption | apply fatalStop_k | apply sendCkpt_k | apply sendTable_k
      | apply setTable_k | split | dsimp only)

theorem sessionUp_k {d : Dev}
    (sB : Blk.sub [.out, .glb, .lg, .vault, .cat, .ciph, .dgst, .hif, .tango, .dma, .evr] L = true) (kD : Keeps L D d) :
    Keeps L D (sessionUp d) := by
  unfold sessionUp
  with_reducible repeat' (first
      | exact kD | exact Blk.le (by decide) sB | assumption | apply announce_k | apply resetBases_k | apply notePairings_k
      | apply onTango_k
      | apply sendTable_k | split | (apply mapGetD_k; intro _) | dsimp only)

theorem applyTable_k {o : Four Nat} {e : Nat} {d : Dev}
    (sB : Blk.sub [.out, .free, .sl, .lg, .pipes, .vault, .cat, .ciph, .dgst, .hif, .tango, .ih, .repl, .bpm, .dma,
      .evr] L = true) (kD : Keeps L D d) :
    Keeps L D (applyTable o e d) := by
  unfold applyTable
  with_reducible repeat' (first
      | exact kD | exact Blk.le (by decide) sB | assumption | apply freshOwn_k | apply onDrive_k | apply onTango_k
      | apply refreshLimit_k | apply registerAll_k | apply setTable_k | apply stepDown_k | (apply each_k; intro _ _ _)
      | (apply foldl_k; intro _ _ _) | split | (apply Keeps.fstOf; assumption) | (apply foldlP_k; intro _ _ _) | dsimp only)

theorem ownerTable_k {o : Four Nat} {e : Nat} {d : Dev}
    (sB : Blk.sub [.out, .free, .sl, .lg, .pipes, .vault, .cat, .ciph, .dgst, .hif, .tango, .ih, .repl, .bpm, .dma,
      .evr] L = true) (kD : Keeps L D d) :
    Keeps L D (ownerTable o e d) := by
  unfold ownerTable
  with_reducible repeat' (first
      | exact kD | exact Blk.le (by decide) sB | assumption | apply applyTable_k | apply tangoSend_k | split | dsimp only)

theorem ownerAck_k {o : Four Nat} {e : Nat} {d : Dev}
    (sB : Blk.sub [.out, .free, .sl, .lg, .pipes, .vault, .cat, .ciph, .dgst, .hif, .tango, .ih, .repl, .bpm, .dma,
      .evr] L = true) (kD : Keeps L D d) :
    Keeps L D (ownerAck o e d) := by
  unfold ownerAck
  with_reducible repeat' (first
      | exact kD | exact Blk.le (by decide) sB | assumption | apply applyTable_k | apply onTango_k | split | dsimp only)

theorem linkInfo_k {l : Four LinkSec} {d : Dev}
    (sB : Blk.sub [.out, .cat, .hif, .tango, .dma, .evr] L = true) (kD : Keeps L D d) :
    Keeps L D (linkInfo l d) := by
  unfold linkInfo
  with_reducible repeat' (first
      | exact kD | exact Blk.le (by decide) sB | assumption | apply notePairings_k | apply onTango_k | split | dsimp only)

theorem startTango_k {t : TakeoverIn} {dumps : List DumpIn} {d : Dev}
    (sB : Blk.sub [.out, .free, .glb, .sl, .lg, .pipes, .vault, .vcnt, .cat, .ciph, .dgst, .hif, .tango, .repl, .bpm, .mca,
      .dma, .evr] L = true) (kD : Keeps L D d) :
    Keeps L D (startTango t dumps d) := by
  unfold startTango
  with_reducible repeat' (first
      | exact kD | exact Blk.le (by decide) sB | assumption | apply advanceTakes_k | apply claimGroups_k | apply fitCeiling_k
      | apply onTango_k | apply pastDump_k | apply sendHello_k | apply startFromDump_k | split | dsimp only)

theorem startFence_k {t : TakeoverIn} {e : Nat} {d : Dev} (sB : Blk.sub [.out] L = true) (kD : Keeps L D d) :
    Keeps L D (startFence t e d) := by
  unfold startFence
  with_reducible repeat' (first | exact kD | exact Blk.le (by decide) sB | assumption | apply emits_k | split | dsimp only)

theorem startupExpiry_k {t : TakeoverIn} {dumps : List DumpIn} {d : Dev}
    (sB : Blk.sub [.out, .free, .glb, .sl, .lg, .pipes, .vault, .vcnt, .cat, .disk, .ciph, .dgst, .hif, .tango, .ih, .repl,
      .bpm, .mca, .dma, .evr] L = true) (kD : Keeps L D d) :
    Keeps L D (startupExpiry t dumps d) := by
  unfold startupExpiry
  with_reducible repeat' (first
      | exact kD | exact Blk.le (by decide) sB | assumption | apply confirmAll_k | apply endTakeover_k | apply failDrive_k
      | apply fatalStop_k | apply fitCeiling_k | apply freshOwn_k | apply onTango_k | apply refreshLimit_k | apply setTable_k
      | apply startFence_k | apply startFromDump_k | apply stepDown_k | (apply each_k; intro _ _ _) | split
      | (apply Keeps.fstOf; assumption) | dsimp only)

theorem heartbeatTimer_k {d : Dev}
    (sB : Blk.sub [.out, .cat, .ciph, .hif, .tango, .ih, .dma, .evr] L = true) (kD : Keeps L D d) :
    Keeps L D (heartbeatTimer d) := by
  unfold heartbeatTimer
  with_reducible repeat' (first
      | exact kD | exact Blk.le (by decide) sB | assumption | apply tangoSend_k | split | apply upd_ih | dsimp only)

theorem heartbeat_k {b : Beat} {d : Dev} (sB : Blk.sub [.tango] L = true) (kD : Keeps L D d) :
    Keeps L D (heartbeat b d) := by
  unfold heartbeat
  with_reducible repeat' (first | exact kD | exact Blk.le (by decide) sB | assumption | apply onTango_k | split | dsimp only)

theorem heartbeatMissed_k {d : Dev} (sB : Blk.sub [.tango, .ih] L = true) (kD : Keeps L D d) :
    Keeps L D (heartbeatMissed d) := by
  unfold heartbeatMissed
  with_reducible repeat' (first
      | exact kD | exact Blk.le (by decide) sB | assumption | apply onTango_k | split | apply upd_ih | dsimp only)

theorem detect_k {t : TakeoverIn} {d : Dev}
    (sB : Blk.sub [.out, .free, .glb, .sl, .lg, .pipes, .vault, .vcnt, .cat, .disk, .ciph, .dgst, .hif, .tango, .ih, .repl,
      .bpm, .mca, .dma, .evr] L = true) (kD : Keeps L D d) :
    Keeps L D (detect t d) := by
  unfold detect
  with_reducible repeat' (first
      | exact kD | exact Blk.le (by decide) sB | assumption | apply notifyAll_k | apply onTango_k | apply stepDown_k
      | apply takeOver_k | split | dsimp only)

theorem partnerSilent_k {t : TakeoverIn} {d : Dev}
    (sB : Blk.sub [.out, .free, .glb, .sl, .lg, .pipes, .vault, .vcnt, .cat, .disk, .ciph, .dgst, .hif, .tango, .ih, .repl,
      .bpm, .mca, .dma, .evr] L = true) (kD : Keeps L D d) :
    Keeps L D (partnerSilent t d) := by
  unfold partnerSilent
  with_reducible repeat' (first
      | exact kD | exact Blk.le (by decide) sB | assumption | apply detect_k | apply logEvent_k | apply onTango_k | split
      | dsimp only)

theorem fenceRetry_k {t : TakeoverIn} {d : Dev}
    (sB : Blk.sub [.out, .free, .glb, .sl, .lg, .pipes, .vault, .vcnt, .cat, .disk, .ciph, .dgst, .hif, .tango, .ih, .repl,
      .bpm, .mca, .dma, .evr] L = true) (kD : Keeps L D d) :
    Keeps L D (fenceRetry t d) := by
  unfold fenceRetry
  with_reducible repeat' (first
      | exact kD | exact Blk.le (by decide) sB | assumption | apply onTango_k | apply takeOver_k | split | dsimp only)

theorem leaving_k {cause : Nat} {t : TakeoverIn} {d : Dev}
    (sB : Blk.sub [.out, .free, .glb, .sl, .lg, .pipes, .vault, .vcnt, .cat, .disk, .ciph, .dgst, .hif, .tango, .ih, .repl,
      .bpm, .mca, .dma, .evr] L = true) (kD : Keeps L D d) :
    Keeps L D (leaving cause t d) := by
  unfold leaving
  with_reducible repeat' (first
      | exact kD | exact Blk.le (by decide) sB | assumption | apply detect_k | apply onTango_k | split | dsimp only)

theorem frozen_k {t : TakeoverIn} {d : Dev}
    (sB : Blk.sub [.out, .free, .glb, .sl, .lg, .pipes, .vault, .vcnt, .cat, .disk, .ciph, .dgst, .hif, .tango, .ih, .repl,
      .bpm, .mca, .dma, .evr] L = true) (kD : Keeps L D d) :
    Keeps L D (frozen t d) := by
  unfold frozen
  with_reducible repeat' (first
      | exact kD | exact Blk.le (by decide) sB | assumption | apply detect_k | apply onTango_k | split | dsimp only)

theorem undoOpens_k {status : Nat} {d : Dev}
    (sB : Blk.sub [.out, .vault, .cat, .ciph, .dgst, .hif, .tango, .mca, .dma, .evr] L = true) (kD : Keeps L D d) :
    Keeps L D (undoOpens status d) := by
  unfold undoOpens
  with_reducible repeat' (first
      | exact kD | exact Blk.le (by decide) sB | assumption | apply undoPart_k | (apply each_k; intro _ _ _) | split
      | (apply Keeps.fstOf; assumption) | dsimp only)

theorem tangoQpError_k {d : Dev}
    (sB : Blk.sub [.out, .free, .vault, .cat, .ciph, .dgst, .hif, .tango, .mca, .dma, .evr] L = true) (kD : Keeps L D d) :
    Keeps L D (tangoQpError d) := by
  unfold tangoQpError
  with_reducible repeat' (first
      | exact kD | exact Blk.le (by decide) sB | assumption | apply erasePage_k | apply onTango_k | apply sendHello_k
      | apply stopJobs_k | apply undoOpens_k | split | dsimp only)

/-! ## Repl -/

theorem loseSession_k {c : Nat} {d : Dev}
    (sB : Blk.sub [.out, .vault, .cat, .ciph, .hif, .repl, .bpm, .dma] L = true) (kD : Keeps L D d) :
    Keeps L D (loseSession c d) := by
  unfold loseSession
  with_reducible repeat' (first
      | exact kD | exact Blk.le (by decide) sB | assumption | apply complete_k | apply endAccept_k | apply eraseWhenIdle_k
      | apply freeTile_k | apply onCiph_k | apply setJob_k | apply stopJobs_k | (apply each_k; intro _ _ _) | split
      | apply upd_repl | (apply Keeps.fstOf; assumption) | (apply mapGetD_k; intro _) | dsimp only)

theorem failSession_k {c : Nat} {d : Dev}
    (sB : Blk.sub [.out, .vault, .cat, .ciph, .hif, .rdma, .repl, .bpm, .dma] L = true) (kD : Keeps L D d) :
    Keeps L D (failSession c d) := by
  unfold failSession
  with_reducible repeat' (first
      | exact kD | exact Blk.le (by decide) sB | assumption | apply leaveRts_k | apply loseSession_k | apply waits_k | split
      | dsimp only)

theorem dropSessions_k {d : Dev}
    (sB : Blk.sub [.out, .vault, .cat, .ciph, .hif, .repl, .bpm, .dma] L = true) (kD : Keeps L D d) :
    Keeps L D (dropSessions d) := by
  unfold dropSessions
  with_reducible repeat' (first
      | exact kD | exact Blk.le (by decide) sB | assumption | apply loseSession_k | (apply each_k; intro _ _ _) | split
      | (apply Keeps.fstOf; assumption) | dsimp only)

theorem keySession_k {c : Nat} {d : Dev}
    (sB : Blk.sub [.out, .vault, .cat, .ciph, .hif, .rdma, .repl, .bpm, .dma, .evr] L = true) (kD : Keeps L D d) :
    Keeps L D (keySession c d) := by
  unfold keySession
  with_reducible repeat' (first
      | exact kD | exact Blk.le (by decide) sB | assumption | apply failSession_k | apply loadKey_k | apply onRepl_k
      | apply replMsg_k | split | dsimp only)

theorem openSession_k {c : Nat} {d : Dev}
    {y : Dev} (q : openSession c d = some y) (sB : Blk.sub [.out, .free, .vault, .cat, .ciph, .hif, .rdma, .repl, .bpm, .dma,
      .evr] L = true) (kD : Keeps L D d) :
    Keeps L D y := by
  unfold openSession at q
  try dsimp only at q
  repeat' (first | (cases q; done) | split at q | (simp only [Option.map_eq_some_iff] at q; obtain ⟨_, _, q⟩ := q))
  all_goals try cases q
  all_goals with_reducible repeat' (first
      | exact kD | exact Blk.le (by decide) sB | assumption | apply drbgDraw_k | apply keySession_k | apply onRepl_k
      | apply sendClear_k | split | apply upd_repl | (apply mapGetD_k; intro _) | dsimp only)

theorem endSend_k {c status : Nat} {d : Dev}
    (sB : Blk.sub [.out, .vault, .cat, .hif, .bpm, .dma] L = true) (kD : Keeps L D d) :
    Keeps L D (endSend c status d) := by
  unfold endSend
  with_reducible repeat' (first
      | exact kD | exact Blk.le (by decide) sB | assumption | apply complete_k | apply freeTile_k | apply setJob_k
      | apply settleSnaps_k | split | dsimp only)

theorem sendBatches_k {c : Nat} {n : Nat} {d : Dev}
    (sB : Blk.sub [.out, .cat, .ciph, .hif, .repl, .dma, .evr] L = true) (kD : Keeps L D d) :
    Keeps L D (sendBatches c n d) := by
  induction n generalizing d with
  | zero => exact kD
  | succ n ih =>
    unfold sendBatches
    with_reducible repeat' (first
        | apply ih | exact kD | exact Blk.le (by decide) sB | assumption | apply replMsg_k | apply setJob_k | split
        | dsimp only)

theorem sendOne_k {c : Nat} {j : SendJob} {r : TileRes} {d : Dev}
    (sB : Blk.sub [.out, .vault, .cat, .ciph, .hif, .rcnt, .repl, .bpm, .dma, .evr] L = true) (kD : Keeps L D d) :
    Keeps L D (sendOne c j r d) := by
  unfold sendOne
  with_reducible repeat' (first
      | exact kD | exact Blk.le (by decide) sB | assumption | apply endSend_k | apply onRcnt_k | apply replMsg_k
      | apply setJob_k | split | dsimp only)

theorem readNext_k {c : Nat} {n : Nat} {d : Dev}
    (sB : Blk.sub [.out, .free, .pipes, .vault, .cat, .ciph, .hif, .rcnt, .repl, .bpm, .dma, .evr] L = true)
    (kD : Keeps L D d) :
    Keeps L D (readNext c n d) := by
  induction n generalizing d with
  | zero => exact kD
  | succ n ih =>
    unfold readNext
    with_reducible repeat' (first
        | apply ih | exact kD | exact Blk.le (by decide) sB | assumption | apply endSend_k | apply sendOne_k
        | apply startTile_k | split | (apply Keeps.fstOf; assumption) | dsimp only)

theorem sendMore_k {c : Nat} {d : Dev}
    (sB : Blk.sub [.out, .free, .pipes, .vault, .cat, .ciph, .hif, .rcnt, .repl, .bpm, .dma,
      .evr] L = true) (kD : Keeps L D d) :
    Keeps L D (sendMore c d) := by
  unfold sendMore
  with_reducible repeat' (first
      | exact kD | exact Blk.le (by decide) sB | assumption | apply readNext_k | split | (apply Keeps.fstOf; assumption)
      | dsimp only)

theorem settleSend_k {c : Nat} {d : Dev}
    (sB : Blk.sub [.out, .vault, .cat, .ciph, .hif, .repl, .bpm, .dma, .evr] L = true) (kD : Keeps L D d) :
    Keeps L D (settleSend c d) := by
  unfold settleSend
  with_reducible repeat' (first
      | exact kD | exact Blk.le (by decide) sB | assumption | apply endSend_k | apply replMsg_k | apply setJob_k | split
      | dsimp only)

theorem gotAccept_k {c status next : Nat} {d : Dev}
    (sB : Blk.sub [.out, .vault, .cat, .ciph, .hif, .repl, .bpm, .dma, .evr] L = true) (kD : Keeps L D d) :
    Keeps L D (gotAccept c status next d) := by
  unfold gotAccept
  with_reducible repeat' (first
      | exact kD | exact Blk.le (by decide) sB | assumption | apply endSend_k | apply onRepl_k | apply sendBatches_k
      | apply setJob_k | apply settleSend_k | split | (apply Keeps.fstOf; assumption) | dsimp only)

theorem gotHeld_k {c first : Nat} {bits : List Bool} {d : Dev}
    (sB : Blk.sub [.out, .free, .pipes, .vault, .cat, .ciph, .hif, .rcnt, .repl, .bpm, .dma,
      .evr] L = true) (kD : Keeps L D d) :
    Keeps L D (gotHeld c first bits d) := by
  unfold gotHeld
  with_reducible repeat' (first
      | exact kD | exact Blk.le (by decide) sB | assumption | apply onRcnt_k | apply sendBatches_k | apply sendMore_k
      | apply setJob_k | apply settleSend_k | split | (apply Keeps.fstOf; assumption) | (apply mapGetD_k; intro _)
      | dsimp only)

theorem sendTile_k {c : Nat} {j : SendJob} {r : TileRes} {d : Dev}
    (sB : Blk.sub [.out, .free, .pipes, .vault, .cat, .ciph, .hif, .rcnt, .repl, .bpm, .dma,
      .evr] L = true) (kD : Keeps L D d) :
    Keeps L D (sendTile c j r d) := by
  unfold sendTile
  with_reducible repeat' (first
      | exact kD | exact Blk.le (by decide) sB | assumption | apply sendMore_k | apply sendOne_k | apply settleSend_k | split
      | dsimp only)

theorem gotCommit_k {c n : Nat} {d : Dev}
    (sB : Blk.sub [.out, .vault, .cat, .ciph, .hif, .repl, .bpm, .dma, .evr] L = true) (kD : Keeps L D d) :
    Keeps L D (gotCommit c n d) := by
  unfold gotCommit
  with_reducible repeat' (first
      | exact kD | exact Blk.le (by decide) sB | assumption | apply setJob_k | apply settleSend_k | split | dsimp only)

theorem gotClosed_k {c : Nat} {d : Dev}
    (sB : Blk.sub [.out, .vault, .cat, .hif, .bpm, .dma] L = true) (kD : Keeps L D d) :
    Keeps L D (gotClosed c d) := by
  unfold gotClosed
  with_reducible repeat' (first | exact kD | exact Blk.le (by decide) sB | assumption | apply endSend_k | split | dsimp only)

theorem sendOffer__k {c : Nat} {o : Offer} {d : Dev}
    (sB : Blk.sub [.out, .cat, .ciph, .hif, .repl, .dma, .evr] L = true) (kD : Keeps L D d) :
    Keeps L D (doReplSend.sendOffer_ c o d) := by
  unfold doReplSend.sendOffer_
  with_reducible repeat' (first
      | exact kD | exact Blk.le (by decide) sB | assumption | apply onRepl_k | apply replMsg_k | split | dsimp only)

theorem doReplSend_k {h : Hdr} {volume kind part target segId : Nat} {fpExchange : Bool} {first entries batch : Nat} {d : Dev}
    (sB : Blk.sub [.out, .free, .vault, .cat, .ciph, .hif, .rdma, .repl, .bpm, .dma, .evr] L = true) (kD : Keeps L D d) :
    Keeps L D (doReplSend h volume kind part target segId fpExchange first entries batch d) := by
  unfold doReplSend
  with_reducible repeat' (first
      | exact kD | exact Blk.le (by decide) sB | assumption | apply complete_k | (apply openSession_k; assumption)
      | apply sendOffer__k | apply setJob_k | (apply getD_k; intro _ _) | split | (apply mapGetD_k; intro _) | dsimp only)

theorem replicaTake_k {c : Nat} {o : Offer} {v : Volume} {d : Dev} (sB : Blk.sub [.cat] L = true) (kD : Keeps L D d) :
    Keeps L D (replicaTake c o v d) := by
  unfold replicaTake
  with_reducible repeat' (first
      | exact kD | exact Blk.le (by decide) sB | assumption | apply onCat_k | apply onTake_k | split
      | (apply mapGetD_k; intro _) | dsimp only)

theorem takeBuffers_k {n : Nat} {l : List Nat} {d : Dev} (s : Blk.sub [.bpm] L = true) (k : Keeps L D d) :
    Keeps L D (takeBuffers n l d).1 := by
  induction n generalizing l d with
  | zero => exact k
  | succ n ih =>
    unfold takeBuffers
    with_reducible repeat' (first
        | exact k | exact Blk.le (by decide) s | apply ih | apply poolAlloc_k | split | (apply Keeps.fstOf; assumption))

theorem answerOffer__k {c : Nat} {o : Offer} {j : AcceptJob} {d : Dev}
    (sB : Blk.sub [.out, .cat, .ciph, .hif, .repl, .bpm, .dma, .evr] L = true) (kD : Keeps L D d) :
    Keeps L D (answerOffer_ c o j d) := by
  unfold answerOffer_
  with_reducible repeat' (first
      | exact kD | exact Blk.le (by decide) sB | assumption | apply onRepl_k | apply replMsg_k | apply replicaTake_k
      | apply setJob_k | apply takeBuffers_k | split | (apply Keeps.fstOf; assumption) | (apply mapGetD_k; intro _)
      | dsimp only)

theorem doReplAccept_k {h : Hdr} {volume takeId : Nat} {d : Dev}
    (sB : Blk.sub [.out, .free, .vault, .cat, .ciph, .hif, .rdma, .repl, .bpm, .dma, .evr] L = true) (kD : Keeps L D d) :
    Keeps L D (doReplAccept h volume takeId d) := by
  unfold doReplAccept
  with_reducible repeat' (first
      | exact kD | exact Blk.le (by decide) sB | assumption | apply answerOffer__k | apply complete_k
      | (apply openSession_k; assumption) | apply setJob_k | split | dsimp only)

theorem gotOffer_k {c : Nat} {o : Offer} {d : Dev}
    (sB : Blk.sub [.out, .cat, .ciph, .hif, .repl, .bpm, .dma, .evr] L = true) (kD : Keeps L D d) :
    Keeps L D (gotOffer c o d) := by
  unfold gotOffer
  with_reducible repeat' (first
      | exact kD | exact Blk.le (by decide) sB | assumption | apply answerOffer__k | apply onRepl_k | split | dsimp only)

theorem acceptTimeout_k {c : Nat} {d : Dev}
    (sB : Blk.sub [.out, .cat, .ciph, .hif, .repl, .dma, .evr] L = true) (kD : Keeps L D d) :
    Keeps L D (acceptTimeout c d) := by
  unfold acceptTimeout
  with_reducible repeat' (first
      | exact kD | exact Blk.le (by decide) sB | assumption | apply onRepl_k | apply replMsg_k | split | dsimp only)

theorem keepTile_k {c entry : Nat} {stored : List Byte} {d : Dev}
    (sB : Blk.sub [.out, .free, .pipes, .vault, .cat, .ciph, .hif, .tango, .repl, .bpm, .mca, .dma,
      .evr] L = true) (kD : Keeps L D d) :
    Keeps L D (keepTile c entry stored d) := by
  unfold keepTile
  with_reducible repeat' (first
      | exact kD | exact Blk.le (by decide) sB | assumption | apply onRepl_k | apply pumpRepl_k | apply settleRepl_k | split
      | dsimp only)

theorem failTile_k {c entry status : Nat} {d : Dev}
    (sB : Blk.sub [.out, .vault, .cat, .ciph, .hif, .repl, .bpm, .dma, .evr] L = true) (kD : Keeps L D d) :
    Keeps L D (failTile c entry status d) := by
  unfold failTile
  with_reducible repeat' (first
      | exact kD | exact Blk.le (by decide) sB | assumption | apply endAccept_k | apply replMsg_k | split | dsimp only)

theorem gotTile_k {c entry : Nat} {stored : List Byte} {d : Dev}
    (sB : Blk.sub [.out, .free, .pipes, .vault, .cat, .ciph, .hif, .tango, .rcnt, .repl, .bpm, .mca, .dma,
      .evr] L = true) (kD : Keeps L D d) :
    Keeps L D (gotTile c entry stored d) := by
  unfold gotTile
  with_reducible repeat' (first
      | exact kD | exact Blk.le (by decide) sB | assumption | apply failTile_k | apply keepTile_k | apply onRcnt_k
      | apply setJob_k | apply submitJob_k | split | dsimp only)

theorem tileChecked_k {j : CJob} {c : Nat} {d : Dev}
    (sB : Blk.sub [.out, .free, .pipes, .vault, .cat, .ciph, .hif, .tango, .repl, .bpm, .mca, .dma,
      .evr] L = true) (kD : Keeps L D d) :
    Keeps L D (tileChecked j c d) := by
  unfold tileChecked
  with_reducible repeat' (first
      | exact kD | exact Blk.le (by decide) sB | assumption | apply failTile_k | apply keepTile_k | apply logEvent_k | split
      | dsimp only)

theorem countChecked_k {d : Dev} (sB : Blk.sub [.rcnt] L = true) (kD : Keeps L D d) : Keeps L D (countChecked d) := by
  unfold countChecked
  exact onRcnt_k (Blk.le (by decide) sB) kD

theorem jobEnded_k {x : CJob × Nat} {d : Dev}
    (sB : Blk.sub [.out, .free, .pipes, .vault, .cat, .ciph, .hif, .tango, .repl, .bpm, .mca, .dma,
      .evr] L = true) (kD : Keeps L D d) :
    Keeps L D (jobEnded x d) := by
  unfold jobEnded
  with_reducible repeat' (first
      | exact kD | exact Blk.le (by decide) sB | assumption | apply endAccept_k | apply endSend_k | apply tileChecked_k
      | split | dsimp only)

theorem settleJobs_k {d : Dev}
    (sB : Blk.sub [.out, .free, .pipes, .vault, .cat, .ciph, .hif, .tango, .repl, .bpm, .mca, .dma,
      .evr] L = true) (kD : Keeps L D d) :
    Keeps L D (settleJobs d) := by
  unfold settleJobs
  with_reducible repeat' (first
      | exact kD | exact Blk.le (by decide) sB | assumption | apply jobEnded_k | apply onCiph_k | (apply each_k; intro _ _ _)
      | split | (apply Keeps.fstOf; assumption) | dsimp only)

theorem tileArrives_k {c entry : Nat} {stored : List Byte} {d : Dev}
    (sB : Blk.sub [.out, .free, .pipes, .vault, .cat, .ciph, .hif, .tango, .rcnt, .repl, .bpm, .mca, .dma,
      .evr] L = true) (kD : Keeps L D d) :
    Keeps L D (tileArrives c entry stored d) := by
  unfold tileArrives
  with_reducible repeat' (first
      | exact kD | exact Blk.le (by decide) sB | assumption | apply drawn_k | apply gotTile_k | apply onRcnt_k
      | apply sendNak_k | split | (apply mapGetD_k; intro _) | dsimp only)

theorem gotBatch_k {c first : Nat} {lookup : Bool} {ents : List FpEntry} {d : Dev}
    (sB : Blk.sub [.out, .vault, .cat, .ciph, .hif, .tango, .repl, .bpm, .mca, .dma, .evr] L = true) (kD : Keeps L D d) :
    Keeps L D (gotBatch c first lookup ents d) := by
  unfold gotBatch
  with_reducible repeat' (first
      | exact kD | exact Blk.le (by decide) sB | assumption | apply onRepl_k | apply startBatch_k | split | dsimp only)

theorem commitTimer_k {c : Nat} {d : Dev}
    (sB : Blk.sub [.out, .free, .pipes, .vault, .cat, .ciph, .hif, .tango, .repl, .bpm, .mca, .dma,
      .evr] L = true) (kD : Keeps L D d) :
    Keeps L D (commitTimer c d) := by
  unfold commitTimer
  with_reducible repeat' (first
      | exact kD | exact Blk.le (by decide) sB | assumption | apply pumpRepl_k | apply replMsg_k | apply settleRepl_k | split
      | dsimp only)

theorem gotClose_k {c total : Nat} {d : Dev}
    (sB : Blk.sub [.out, .free, .pipes, .vault, .cat, .ciph, .hif, .tango, .repl, .bpm, .mca, .dma,
      .evr] L = true) (kD : Keeps L D d) :
    Keeps L D (gotClose c total d) := by
  unfold gotClose
  with_reducible repeat' (first
      | exact kD | exact Blk.le (by decide) sB | assumption | apply onRepl_k | apply settleRepl_k | split | dsimp only)

theorem gotError_k {c status : Nat} {d : Dev}
    (sB : Blk.sub [.out, .vault, .cat, .hif, .repl, .bpm, .dma] L = true) (kD : Keeps L D d) :
    Keeps L D (gotError c status d) := by
  unfold gotError
  with_reducible repeat' (first
      | exact kD | exact Blk.le (by decide) sB | assumption | apply endAccept_k | apply endSend_k | split | dsimp only)

theorem rHello_k {c : Nat} {m : Hello} {d : Dev}
    (sB : Blk.sub [.out, .vault, .cat, .ciph, .hif, .rdma, .repl, .bpm, .dma, .evr] L = true) (kD : Keeps L D d) :
    Keeps L D (rHello c m d) := by
  unfold rHello
  with_reducible repeat' (first
      | exact kD | exact Blk.le (by decide) sB | assumption | apply failSession_k | apply keySession_k | apply logEvent_k
      | apply onRepl_k | split | apply upd_repl | dsimp only)

theorem rConfirm_k {c : Nat} {auth : Bool} {d : Dev}
    (sB : Blk.sub [.out, .cat, .ciph, .hif, .repl, .dma, .evr] L = true) (kD : Keeps L D d) :
    Keeps L D (rConfirm c auth d) := by
  unfold rConfirm
  with_reducible repeat' (first
      | exact kD | exact Blk.le (by decide) sB | assumption | apply logEvent_k | apply onRepl_k | apply replMsg_k | split
      | (apply mapGetD_k; intro _) | dsimp only)

/-! ## Feed -/

theorem judgeClaim_k {r : JRec} {d : Dev}
    (sB : Blk.sub [.out, .vault, .cat, .ciph, .hif, .tango, .mca, .dma, .evr] L = true) (kD : Keeps L D d) :
    Keeps L D (judgeClaim r d) := by
  unfold judgeClaim
  with_reducible repeat' (first
      | exact kD | exact Blk.le (by decide) sB | assumption | apply applyRec_k | apply claimPeriod_k | apply onTango_k
      | apply onVault_k | apply tangoSend_k | split | dsimp only)

theorem partnerFrees_k {d : Dev} (sB : Blk.sub [.vault] L = true) (kD : Keeps L D d) :
    Keeps L D (partnerFrees d) := by
  unfold partnerFrees
  with_reducible repeat' (first | exact kD | exact Blk.le (by decide) sB | assumption | apply onVault_k | split | dsimp only)

theorem commitShared_k {o : OpenRec} {d : Dev}
    (sB : Blk.sub [.vault, .cat, .dgst, .repl] L = true) (kD : Keeps L D d) :
    Keeps L D (commitShared o d) := by
  unfold commitShared
  with_reducible repeat' (first
      | exact kD | exact Blk.le (by decide) sB | assumption | apply commitRec_k | split | (apply mapGetD_k; intro _)
      | dsimp only)

theorem mirrorRec_k {r : JRec} {st : Option GState} {crcOk : Bool} {d : Dev}
    (sB : Blk.sub [.out, .vault, .cat, .disk, .ciph, .dgst, .hif, .tango, .ih, .repl, .mca, .dma,
      .evr] L = true) (kD : Keeps L D d) :
    Keeps L D (mirrorRec r st crcOk d) := by
  unfold mirrorRec
  with_reducible repeat' (first
      | exact kD | exact Blk.le (by decide) sB | assumption | apply commitShared_k | apply judgeClaim_k | apply onTango_k
      | apply partnerFrees_k | apply relabel_k | apply tangoSend_k | (apply each_k; intro _ _ _) | split | apply upd_ih
      | (apply Keeps.fstOf; assumption) | dsimp only)

theorem mirrorAck_k {j : Nat} {d : Dev}
    (sB : Blk.sub [.out, .free, .sl, .lg, .pipes, .vault, .vcnt, .cat, .disk, .ciph, .dgst, .hif, .tango, .ih, .repl, .bpm,
      .mca, .dma, .evr] L = true) (kD : Keeps L D d) :
    Keeps L D (mirrorAck j d) := by
  unfold mirrorAck
  with_reducible repeat' (first
      | exact kD | exact Blk.le (by decide) sB | assumption | apply onTango_k | apply onVault_k | apply retireReady_k | split
      | dsimp only)

theorem claimVerdict_k {layout period jseq : Nat} {refused : Bool} {d : Dev}
    (sB : Blk.sub [.out, .vault, .cat, .ciph, .hif, .tango, .mca, .dma, .evr] L = true) (kD : Keeps L D d) :
    Keeps L D (claimVerdict layout period jseq refused d) := by
  unfold claimVerdict
  with_reducible repeat' (first
      | exact kD | exact Blk.le (by decide) sB | assumption | apply claimPeriod_k | apply onVault_k | split | dsimp only)

theorem ckptDone_k {c : Ckpt} {d : Dev}
    (sB : Blk.sub [.out, .free, .sl, .lg, .pipes, .vault, .cat, .ciph, .dgst, .hif, .tango, .bpm, .mca, .dma,
      .evr] L = true) (kD : Keeps L D d) :
    Keeps L D (ckptDone c d) := by
  unfold ckptDone
  with_reducible repeat' (first
      | exact kD | exact Blk.le (by decide) sB | assumption | apply noteCkpt_k | apply onTango_k | split | dsimp only)

theorem ledgerEnt_k {x : LedgerEnt} {d : Dev}
    (sB : Blk.sub [.out, .lg, .cat, .hif, .ih, .dma, .evr] L = true) (kD : Keeps L D d) :
    Keeps L D (ledgerEnt x d) := by
  unfold ledgerEnt
  with_reducible repeat' (first
      | exact kD | exact Blk.le (by decide) sB | assumption | apply logEvent_k | apply onLedger_k | split | apply upd_ih
      | dsimp only)

theorem healReq_k {seq : W64} {reqId : W32} {g : Fin 4} {count : Nat} {first : W32} {sid : W16} {d : Dev}
    (sB : Blk.sub [.out, .cat, .ciph, .hif, .tango, .ih, .dma, .evr] L = true) (kD : Keeps L D d) :
    Keeps L D (healReq seq reqId g count first sid d) := by
  unfold healReq
  with_reducible repeat' (first
      | exact kD | exact Blk.le (by decide) sB | assumption | apply roleRefuse_k | apply tangoSend_k | split | apply upd_ih
      | dsimp only)

theorem healSlot_k {g : Fin 4} {gsn : W32} {s : Slot} {d : Dev}
    (sB : Blk.sub [.out, .sl, .lg, .cat, .hif, .dma, .evr] L = true) (kD : Keeps L D d) :
    Keeps L D (healSlot g gsn s d) := by
  unfold healSlot
  with_reducible repeat' (first
      | exact kD | exact Blk.le (by decide) sB | assumption | apply logEvent_k | apply onGroup_k | apply onLedger_k | split
      | (apply mapGetD_k; intro _) | dsimp only)

theorem healDone_k {reqId : W32} {g : Fin 4} {count : Nat} {first : W32} {held : W64} {slots : List Slot} {d : Dev}
    (sB : Blk.sub [.out, .free, .sl, .lg, .pipes, .vault, .cat, .ciph, .dgst, .hif, .tango, .bpm, .mca, .dma,
      .evr] L = true) (kD : Keeps L D d) :
    Keeps L D (healDone reqId g count first held slots d) := by
  unfold healDone
  with_reducible repeat' (first
      | exact kD | exact Blk.le (by decide) sB | assumption | apply consume_k | apply dropHeal_k | apply healSlot_k
      | (apply each_k; intro _ _ _) | split | (apply Keeps.fstOf; assumption) | dsimp only)

theorem driveNotice_k {slot action : Nat} {d : Dev}
    (sB : Blk.sub [.out, .free, .vault, .cat, .ciph, .hif, .tango, .mca, .dma, .evr] L = true) (kD : Keeps L D d) :
    Keeps L D (driveNotice slot action d) := by
  unfold driveNotice
  with_reducible repeat' (first
      | exact kD | exact Blk.le (by decide) sB | assumption | apply failDrive_k | apply onDrive_k | apply registerDrive_k
      | apply retryHeld_k | apply tangoSend_k | split | dsimp only)

theorem learnVolume_k {r : OpenReq} {kcv dkcv : W32} {d : Dev} (sB : Blk.sub [.cat] L = true) (kD : Keeps L D d) :
    Keeps L D (learnVolume r kcv dkcv d) := by
  unfold learnVolume
  with_reducible repeat' (first | exact kD | exact Blk.le (by decide) sB | assumption | apply onCat_k | split | dsimp only)

theorem takePart_k {r : OpenReq} {kcv dkcv : W32} {id part : Nat} {d : Dev}
    (sB : Blk.sub [.out, .vault, .cat, .ciph, .dgst, .hif, .tango, .mca, .dma, .evr] L = true) (kD : Keeps L D d) :
    Keeps L D (takePart r kcv dkcv id part d) := by
  unfold takePart
  with_reducible repeat' (first
      | exact kD | exact Blk.le (by decide) sB | assumption | apply learnVolume_k | apply openTake_k | apply tangoSend_k
      | split | (apply mapGetD_k; intro _) | dsimp only)

theorem takePartAck_k {id status : Nat} {d : Dev}
    (sB : Blk.sub [.out, .vault, .cat, .ciph, .dgst, .hif, .tango, .mca, .dma, .evr] L = true) (kD : Keeps L D d) :
    Keeps L D (takePartAck id status d) := by
  unfold takePartAck
  with_reducible repeat' (first
      | exact kD | exact Blk.le (by decide) sB | assumption | apply complete_k | apply giveBack_k | apply onTango_k
      | apply takeIsOpen_k | apply unholdMr_k | split | dsimp only)

theorem triggerFwd_k {r : TrigRec} {id : Nat} {d : Dev}
    (sB : Blk.sub [.out, .vault, .cat, .ciph, .hif, .tango, .mca, .dma, .evr] L = true) (kD : Keeps L D d) :
    Keeps L D (triggerFwd r id d) := by
  unfold triggerFwd
  with_reducible repeat' (first
      | exact kD | exact Blk.le (by decide) sB | assumption | apply onTango_k | apply pinTrigger_k | split
      | (apply Keeps.fstOf; assumption) | dsimp only)

theorem viewFrom_k {kind : NakKind} {o : Four Nat} {e : Nat} {d : Dev}
    (sB : Blk.sub [.out, .free, .lg, .pipes, .vault, .cat, .ciph, .dgst, .hif, .tango, .ih, .repl, .bpm, .dma,
      .evr] L = true) (kD : Keeps L D d) :
    Keeps L D (viewFrom kind o e d) := by
  unfold viewFrom
  with_reducible repeat' (first
      | exact kD | exact Blk.le (by decide) sB | assumption | apply setTable_k | apply stepDown_k | split | dsimp only)

theorem rerouteOpen_k {o : Hdr × Nat × Nat × OpenReq} {d : Dev}
    (sB : Blk.sub [.out, .vault, .cat, .ciph, .dgst, .hif, .tango, .mca, .dma, .evr] L = true) (kD : Keeps L D d) :
    Keeps L D (rerouteOpen o d) := by
  unfold rerouteOpen
  with_reducible repeat' (first
      | exact kD | exact Blk.le (by decide) sB | assumption | apply onTango_k | apply takeIsOpen_k | apply tangoSend_k
      | apply undoPart_k | split | dsimp only)

theorem resendRec_k {r : JRec} {d : Dev}
    (sB : Blk.sub [.out, .cat, .ciph, .hif, .tango, .dma, .evr] L = true) (kD : Keeps L D d) :
    Keeps L D (resendRec r d) := by
  unfold resendRec
  with_reducible repeat' (first
      | exact kD | exact Blk.le (by decide) sB | assumption | apply tangoSend_k | split | dsimp only)

theorem reroute_k {kind : NakKind} {far : Nat} {d : Dev}
    (sB : Blk.sub [.out, .lg, .vault, .cat, .ciph, .dgst, .hif, .tango, .mca, .dma, .evr] L = true) (kD : Keeps L D d) :
    Keeps L D (reroute kind far d) := by
  unfold reroute
  with_reducible repeat' (first
      | exact kD | exact Blk.le (by decide) sB | assumption | apply dropHand_k | apply healRepeat_k | apply rerouteOpen_k
      | apply resendRec_k | apply tangoSend_k | (apply each_k; intro _ _ _) | split | (apply Keeps.fstOf; assumption)
      | dsimp only)

theorem nak_k {kind : NakKind} {reason : Nat} {o : Four Nat} {e : Nat} {d : Dev}
    (sB : Blk.sub [.out, .free, .lg, .pipes, .vault, .cat, .ciph, .dgst, .hif, .tango, .ih, .repl, .bpm, .mca, .dma,
      .evr] L = true) (kD : Keeps L D d) :
    Keeps L D (nak kind reason o e d) := by
  unfold nak
  with_reducible repeat' (first
      | exact kD | exact Blk.le (by decide) sB | assumption | apply reroute_k | apply viewFrom_k | split | dsimp only)

/-! ## Handover -/

theorem formRings_k {d : Dev}
    (sB : Blk.sub [.out, .cat, .ciph, .hif, .tango, .bpm, .dma, .evr] L = true) (kD : Keeps L D d) :
    Keeps L D (formRings d) := by
  unfold formRings
  with_reducible repeat' (first
      | exact kD | exact Blk.le (by decide) sB | assumption | apply onTango_k | apply setCeiling_k | apply tangoSend_k
      | split | dsimp only)

theorem sealCut_k {g : Fin 4} {d : Dev}
    {y : Dev} (q : sealCut g d = some y) (sB : Blk.sub [.out, .free, .lg, .pipes, .vault, .cat, .ciph, .hif, .tango, .bpm,
      .mca, .dma, .evr] L = true) (kD : Keeps L D d) :
    Keeps L D y := by
  unfold sealCut at q
  try dsimp only at q
  repeat' (first | (cases q; done) | split at q | (simp only [Option.map_eq_some_iff] at q; obtain ⟨_, _, q⟩ := q))
  all_goals try cases q
  all_goals with_reducible repeat' (first
      | exact kD | exact Blk.le (by decide) sB | assumption | apply needStripe_k | apply onLedger_k | apply onPipe_k
      | apply sealPipe_k | split | (apply Keeps.fstOf; assumption) | (apply mapGetD_k; intro _) | dsimp only)

theorem standDown_k {g : Fin 4} {d : Dev} (sB : Blk.sub [.lg, .pipes] L = true) (kD : Keeps L D d) :
    Keeps L D (standDown g d) := by
  unfold standDown
  with_reducible repeat' (first
      | exact kD | exact Blk.le (by decide) sB | assumption | apply onLedger_k | apply onPipe_k | split | dsimp only)

theorem giveGroups_k {h : Hand} {d : Dev}
    (sB : Blk.sub [.out, .free, .lg, .pipes, .cat, .ciph, .dgst, .hif, .tango, .ih, .dma, .evr] L = true) (kD : Keeps L D d) :
    Keeps L D (giveGroups h d) := by
  unfold giveGroups
  with_reducible repeat' (first
      | exact kD | exact Blk.le (by decide) sB | assumption | apply dropParts_k | apply onTango_k | apply refuseCloses_k
      | apply setTable_k | apply settleHand_k | apply standDown_k | apply tangoSend_k | (apply each_k; intro _ _ _)
      | (apply foldl_k; intro _ _ _) | split | (apply Keeps.fstOf; assumption) | (apply foldlP_k; intro _ _ _) | dsimp only)

theorem sealCuts_k {l : List (Fin 4)} {d y : Dev} (q : sealCuts l d = some y)
    (s : Blk.sub [.out, .free, .lg, .pipes, .vault, .cat, .ciph, .hif, .tango, .bpm, .mca, .dma, .evr] L = true)
    (k : Keeps L D d) :
    Keeps L D y := by
  induction l generalizing d with
  | nil => cases q; exact k
  | cons g t ih =>
    unfold sealCuts at q
    simp only [Option.bind_eq_some_iff] at q
    obtain ⟨d1, h1, q⟩ := q
    exact ih q (sealCut_k h1 (Blk.le (by decide) s) k)

theorem tryCut_k {d : Dev}
    (sB : Blk.sub [.out, .free, .lg, .pipes, .vault, .cat, .ciph, .dgst, .hif, .tango, .ih, .bpm, .mca, .dma,
      .evr] L = true) (kD : Keeps L D d) :
    Keeps L D (tryCut d) := by
  unfold tryCut
  with_reducible repeat' (first
      | exact kD | exact Blk.le (by decide) sB | assumption | apply giveGroups_k | (apply sealCuts_k; assumption) | split
      | (apply Keeps.fstOf; assumption) | dsimp only)

theorem doHandover_k {h : Hdr} {m : BitVec 4} {dir : Nat} {d : Dev}
    (sB : Blk.sub [.out, .cat, .ciph, .hif, .tango, .bpm, .dma, .evr] L = true) (kD : Keeps L D d) :
    Keeps L D (doHandover h m dir d) := by
  unfold doHandover
  with_reducible repeat' (first
      | exact kD | exact Blk.le (by decide) sB | assumption | apply complete_k | apply formRings_k | apply onTango_k
      | apply tangoSend_k | split | dsimp only)

theorem handoverReq_k {m : BitVec 4} {dir : Nat} {d : Dev}
    (sB : Blk.sub [.out, .cat, .ciph, .hif, .tango, .bpm, .dma, .evr] L = true) (kD : Keeps L D d) :
    Keeps L D (handoverReq m dir d) := by
  unfold handoverReq
  with_reducible repeat' (first
      | exact kD | exact Blk.le (by decide) sB | assumption | apply formRings_k | apply onTango_k | apply tangoSend_k | split
      | (apply mapGetD_k; intro _) | dsimp only)

theorem handoverReady_k {m : BitVec 4} {d : Dev}
    (sB : Blk.sub [.out, .free, .lg, .pipes, .vault, .cat, .ciph, .dgst, .hif, .tango, .ih, .bpm, .mca, .dma,
      .evr] L = true) (kD : Keeps L D d) :
    Keeps L D (handoverReady m d) := by
  unfold handoverReady
  with_reducible repeat' (first
      | exact kD | exact Blk.le (by decide) sB | assumption | apply onTango_k | apply tryCut_k | split | dsimp only)

theorem commitMirror_k {gs : List (Fin 4)} {keep : List JRec → Nat → Bool} {d : Dev}
    (sB : Blk.sub [.vault, .cat, .dgst, .repl] L = true) (kD : Keeps L D d) :
    Keeps L D (commitMirror gs keep d) := by
  unfold commitMirror
  with_reducible repeat' (first
      | exact kD | exact Blk.le (by decide) sB | assumption | apply commitRec_k | (apply each_k; intro _ _ _) | split
      | (apply Keeps.fstOf; assumption) | dsimp only)

theorem handoverState_k {cuts : List (Fin 4 × W32 × GState)} {chains : List ChainHand} {e : Nat} {d : Dev}
    (sB : Blk.sub [.out, .free, .sl, .lg, .pipes, .vault, .cat, .ciph, .dgst, .hif, .tango, .repl, .bpm, .mca, .dma,
      .evr] L = true) (kD : Keeps L D d) :
    Keeps L D (handoverState cuts chains e d) := by
  unfold handoverState
  with_reducible repeat' (first
      | exact kD | exact Blk.le (by decide) sB | assumption | apply adoptRing_k | apply attachTakes_k | apply commitMirror_k
      | apply consume_k | apply loadCkpt_k | apply onTango_k | apply resumeChains_k | apply resumePipe_k
      | apply resumeTakes_k | apply setTable_k | (apply each_k; intro _ _ _) | split | (apply Keeps.fstOf; assumption)
      | (apply mapGetD_k; intro _) | dsimp only)

theorem handoverDone_k {d : Dev}
    (sB : Blk.sub [.out, .free, .sl, .lg, .pipes, .vault, .vcnt, .cat, .disk, .ciph, .dgst, .hif, .tango, .ih, .repl, .bpm,
      .mca, .dma, .evr] L = true) (kD : Keeps L D d) :
    Keeps L D (handoverDone d) := by
  unfold handoverDone
  with_reducible repeat' (first
      | exact kD | exact Blk.le (by decide) sB | assumption | apply commitMirror_k | apply dropHand_k | apply notifyAll_k
      | apply onVault_k | apply retireReady_k | split | apply upd_ih | dsimp only)

theorem handoverTimeout_k {t : TakeoverIn} {d : Dev}
    (sB : Blk.sub [.out, .free, .glb, .sl, .lg, .pipes, .vault, .vcnt, .cat, .disk, .ciph, .dgst, .hif, .tango, .ih, .repl,
      .bpm, .mca, .dma, .evr] L = true) (kD : Keeps L D d) :
    Keeps L D (handoverTimeout t d) := by
  unfold handoverTimeout
  with_reducible repeat' (first
      | exact kD | exact Blk.le (by decide) sB | assumption | apply confirmAll_k | apply consume_k | apply dropHand_k
      | apply endTakeover_k | apply failDrive_k | apply fatalStop_k | apply fence_k | apply onTango_k | apply stepDown_k
      | apply takeGroups_k | (apply each_k; intro _ _ _) | split | (apply Keeps.fstOf; assumption) | dsimp only)

/-! ## Reads -/

theorem tileArrived_k {c : Nat} {cols : List (List SecRead)} {d : Dev}
    (sB : Blk.sub [.out, .free, .sl, .pipes, .vault, .vcnt, .cat, .ciph, .dgst, .hif, .tango, .rcnt, .repl, .bpm, .mca, .dma,
      .evr] L = true) (kD : Keeps L D d) :
    Keeps L D (tileArrived c cols d) := by
  unfold tileArrived
  with_reducible repeat' (first
      | exact kD | exact Blk.le (by decide) sB | assumption | apply freeTile_k | apply playTile_k | apply pumpRead_k
      | apply readTile_k | apply runPlay_k | apply sendTile_k | apply tileCame_k | split | (apply Keeps.fstOf; assumption)
      | dsimp only)

theorem conflict_k {j k : Nat} {d : Dev}
    (sB : Blk.sub [.out, .free, .lg, .pipes, .vault, .cat, .ciph, .dgst, .hif, .tango, .ih, .repl, .bpm, .dma,
      .evr] L = true) (kD : Keeps L D d) :
    Keeps L D (conflict j k d) := by
  unfold conflict
  with_reducible repeat' (first
      | exact kD | exact Blk.le (by decide) sB | assumption | apply onDrive_k | apply stepDown_k | split | dsimp only)

/-! ## Rings -/

theorem readDoorbell_k {r : DbRead} {d : Dev}
    (sB : Blk.sub [.out, .free, .cat, .hif, .dma, .evr] L = true) (kD : Keeps L D d) :
    Keeps L D (readDoorbell r d).1 := by
  unfold readDoorbell
  with_reducible repeat' (first
      | exact kD | exact Blk.le (by decide) sB | assumption | apply chanError_k | apply onChan_k | apply onHif_k
      | apply writeEntry_k | split | (apply mapGetD_k; intro _) | dsimp only)

theorem pollLine_k {key : Nat} {d : Dev} (sB : Blk.sub [.hif] L = true) (kD : Keeps L D d) :
    Keeps L D (pollLine key d) := by
  unfold pollLine
  with_reducible repeat' (first | exact kD | exact Blk.le (by decide) sB | assumption | apply onHif_k | split | dsimp only)

theorem nextInterval_k {g : Nat} {changed : Bool} {d : Dev} (sB : Blk.sub [.hif] L = true) (kD : Keeps L D d) :
    Keeps L D (nextInterval g changed d) := by
  unfold nextInterval
  with_reducible repeat' (first | exact kD | exact Blk.le (by decide) sB | assumption | apply onHif_k | split | dsimp only)

theorem readQpDoorbell_k {r : DbRead} {d : Dev} (sB : Blk.sub [.rdma] L = true) (kD : Keeps L D d) :
    Keeps L D (readQpDoorbell r d).1 := by
  unfold readQpDoorbell
  with_reducible repeat' (first | exact kD | exact Blk.le (by decide) sB | assumption | apply onQp_k | split | dsimp only)

theorem pollGroup_k {g : Nat} {reads : List DbRead} {d : Dev}
    (sB : Blk.sub [.out, .free, .cat, .hif, .rdma, .dma, .evr] L = true) (kD : Keeps L D d) :
    Keeps L D (pollGroup g reads d) := by
  unfold pollGroup
  with_reducible repeat' (first
      | exact kD | exact Blk.le (by decide) sB | assumption | apply nextInterval_k | apply pollLine_k | apply readDoorbell_k
      | apply readQpDoorbell_k | apply settled_k | (apply each_k; intro _ _ _) | (apply foldl_k; intro _ _ _) | split
      | (apply Keeps.fstOf; assumption) | (apply foldlP_k; intro _ _ _) | dsimp only)

theorem stopJob_k {c status : Nat} {d : Dev}
    {y : Dev} (q : stopJob c status d = some y) (sB : Blk.sub [.out, .free, .sl, .pipes, .vault, .cat, .dgst, .hif, .bpm,
      .dma, .evr] L = true) (kD : Keeps L D d) :
    Keeps L D y := by
  unfold stopJob at q
  try dsimp only at q
  repeat' (first | (cases q; done) | split at q)
  all_goals try cases q
  all_goals with_reducible repeat' (first
      | exact kD | exact Blk.le (by decide) sB | assumption | apply endCopy_k | apply endRead_k | apply endSend_k
      | apply stopPlay_k | split | dsimp only)

theorem undoOpen_k {h : Hdr} {status : Nat} {d : Dev}
    (sB : Blk.sub [.out, .vault, .cat, .ciph, .dgst, .hif, .tango, .mca, .dma, .evr] L = true) (kD : Keeps L D d) :
    Keeps L D (undoOpen h status d) := by
  unfold undoOpen
  with_reducible repeat' (first
      | exact kD | exact Blk.le (by decide) sB | assumption | apply undoPart_k | split | dsimp only)

theorem persistAll_k {d : Dev} (sB : Blk.sub [.out, .vault, .disk] L = true) (kD : Keeps L D d) :
    Keeps L D (persistAll d) := by
  unfold persistAll
  with_reducible repeat' (first
      | exact kD | exact Blk.le (by decide) sB | assumption | apply persistProgress_k | (apply each_k; intro _ _ _) | split
      | (apply Keeps.fstOf; assumption) | dsimp only)

theorem stopDesc_k {c : Nat} {x : Desc} {status : Nat} {d : Dev}
    {y : Dev} (q : stopDesc c x status d = some y) (sB : Blk.sub [.out, .free, .sl, .pipes, .vault, .cat, .disk, .ciph, .dgst,
      .hif, .tango, .bpm, .mca, .dma, .evr, .boot] L = true) (kD : Keeps L D d) :
    Keeps L D y := by
  unfold stopDesc at q
  try dsimp only at q
  repeat' (first | (cases q; done) | split at q | (simp only [Option.map_eq_some_iff] at q; obtain ⟨_, _, q⟩ := q))
  all_goals try cases q
  all_goals with_reducible repeat' (first
      | exact kD | exact Blk.le (by decide) sB | assumption | apply complete_k | apply dropCtx_k | apply onHif_k
      | apply onVault_k | apply persistAll_k | (apply stopJob_k; assumption) | apply undoOpen_k | (apply getD_k; intro _ _)
      | split | apply upd_boot | (apply mapGetD_k; intro _) | dsimp only)

theorem doAbort_k {h : Hdr} {handle tag : W32} {d : Dev}
    (sB : Blk.sub [.out, .free, .sl, .pipes, .vault, .cat, .disk, .ciph, .dgst, .hif, .tango, .bpm, .mca, .dma, .evr,
      .boot] L = true) (kD : Keeps L D d) :
    Keeps L D (doAbort h handle tag d) := by
  unfold doAbort
  with_reducible repeat' (first
      | exact kD | exact Blk.le (by decide) sB | assumption | apply complete_k | apply onChan_k | apply onHif_k
      | apply settled_k | (apply stopDesc_k; assumption) | (apply getD_k; intro _ _) | split | (apply mapGetD_k; intro _)
      | dsimp only)

theorem makeChan_k {n : NewChan} {pipe : Nat} {d : Dev}
    (sB : Blk.sub [.cat, .hif, .dma] L = true) (kD : Keeps L D d) :
    Keeps L D (makeChan n pipe d) := by
  unfold makeChan
  with_reducible repeat' (first
      | exact kD | exact Blk.le (by decide) sB | assumption | apply attachTakes_k | apply onHif_k | split | apply upd_dma
      | dsimp only)

theorem doCreate_k {h : Hdr} {n : NewChan} {d : Dev}
    (sB : Blk.sub [.out, .cat, .hif, .dma] L = true) (kD : Keeps L D d) :
    Keeps L D (doCreate h n d) := by
  unfold doCreate
  with_reducible repeat' (first
      | exact kD | exact Blk.le (by decide) sB | assumption | apply complete_k | apply makeChan_k | split | dsimp only)

theorem teardown_k {c : Nat} {d : Dev}
    (sB : Blk.sub [.out, .free, .sl, .lg, .pipes, .vault, .cat, .disk, .ciph, .dgst, .hif, .tango, .repl, .bpm, .mca, .dma,
      .evr, .boot] L = true) (kD : Keeps L D d) :
    Keeps L D (teardown c d) := by
  unfold teardown
  with_reducible repeat' (first
      | exact kD | exact Blk.le (by decide) sB | assumption | apply closeChannel_k | apply dropCtx_k | apply freeTile_k
      | apply loseSession_k | apply settled_k | (apply stopDesc_k; assumption) | (apply each_k; intro _ _ _)
      | (apply getD_k; intro _ _) | split | (apply Keeps.fstOf; assumption) | (apply mapGetD_k; intro _) | dsimp only)

theorem markDying_k {c : Nat} {by_ : Option Hdr} {d : Dev} (sB : Blk.sub [.hif] L = true) (kD : Keeps L D d) :
    Keeps L D (markDying c by_ d) := by
  unfold markDying
  with_reducible repeat' (first | exact kD | exact Blk.le (by decide) sB | assumption | apply onHif_k | split | dsimp only)

theorem doDestroy_k {h : Hdr} {handle : W32} {d : Dev}
    (sB : Blk.sub [.out, .free, .sl, .lg, .pipes, .vault, .cat, .disk, .ciph, .dgst, .hif, .tango, .repl, .bpm, .mca, .dma,
      .evr, .boot] L = true) (kD : Keeps L D d) :
    Keeps L D (doDestroy h handle d) := by
  unfold doDestroy
  with_reducible repeat' (first
      | exact kD | exact Blk.le (by decide) sB | assumption | apply complete_k | apply markDying_k | apply teardown_k | split
      | dsimp only)

theorem hostReset_k {d : Dev}
    (sB : Blk.sub [.out, .free, .glb, .regs, .sl, .lg, .pipes, .vault, .cat, .disk, .ciph, .dgst, .hif, .tango, .rdma, .repl,
      .bpm, .mca, .dma, .evr, .boot] L = true) (kD : Keeps L D d) :
    Keeps L D (hostReset d) := by
  unfold hostReset
  with_reducible repeat' (first
      | exact kD | exact Blk.le (by decide) sB | assumption | apply markDying_k | apply onChan_k | apply onHif_k
      | apply resetQps_k | apply settled_k | apply teardown_k | (apply each_k; intro _ _ _) | split | apply upd_glb_regs
      | (apply Keeps.fstOf; assumption) | dsimp only)

theorem perst_k {d : Dev}
    (sB : Blk.sub [.out, .free, .glb, .regs, .sl, .lg, .pipes, .vault, .cat, .disk, .ciph, .dgst, .hif, .tango, .rdma, .repl,
      .bpm, .mca, .dma, .evr, .boot] L = true) (kD : Keeps L D d) :
    Keeps L D (perst d) := by
  unfold perst
  with_reducible repeat' (first
      | exact kD | exact Blk.le (by decide) sB | assumption | apply hostReset_k | apply onHif_k | split | apply upd_glb
      | dsimp only)

theorem perstHigh_k {d : Dev} (sB : Blk.sub [.free, .glb, .hif] L = true) (kD : Keeps L D d) :
    Keeps L D (perstHigh d) := by
  unfold perstHigh
  with_reducible repeat' (first
      | exact kD | exact Blk.le (by decide) sB | assumption | apply drawn_k | apply onHif_k | split | apply upd_glb
      | dsimp only)

theorem startAdmin_k {d : Dev} (sB : Blk.sub [.hif] L = true) (kD : Keeps L D d) :
    Keeps L D (startAdmin d) := by
  unfold startAdmin
  with_reducible repeat' (first
      | exact kD | exact Blk.le (by decide) sB | assumption | apply onChan_k | apply onHif_k | split | dsimp only)

theorem writeAdminCtl_k {value : W32} {d : Dev}
    (sB : Blk.sub [.out, .regs, .cat, .hif, .dma] L = true) (kD : Keeps L D d) :
    Keeps L D (writeAdminCtl value d) := by
  unfold writeAdminCtl
  with_reducible repeat' (first
      | exact kD | exact Blk.le (by decide) sB | assumption | apply onHif_k | apply settled_k | apply startAdmin_k | split
      | apply upd_regs | dsimp only)

theorem adminFault_k {d : Dev} (sB : Blk.sub [.hif] L = true) (kD : Keeps L D d) :
    Keeps L D (adminFault d) := by
  unfold adminFault
  with_reducible repeat' (first | exact kD | exact Blk.le (by decide) sB | assumption | apply onHif_k | split | dsimp only)

theorem failChan_k {c : Nat} {op : Byte} {status sq : Nat} {d : Dev}
    (sB : Blk.sub [.out, .free, .cat, .hif, .dma, .evr] L = true) (kD : Keeps L D d) :
    Keeps L D (failChan c op status sq d) := by
  unfold failChan
  with_reducible repeat' (first
      | exact kD | exact Blk.le (by decide) sB | assumption | apply chanError_k | split | (apply mapGetD_k; intro _)
      | dsimp only)

theorem dataError_k {c : Nat} {tag : W32} {d : Dev}
    (sB : Blk.sub [.out, .free, .sl, .pipes, .vault, .cat, .dgst, .hif, .bpm, .dma, .evr] L = true) (kD : Keeps L D d) :
    Keeps L D (dataError c tag d) := by
  unfold dataError
  with_reducible repeat' (first
      | exact kD | exact Blk.le (by decide) sB | assumption | apply complete_k | (apply stopJob_k; assumption)
      | (apply getD_k; intro _ _) | split | dsimp only)

theorem hostError_k {what : HostAccess} {d : Dev}
    (sB : Blk.sub [.out, .free, .sl, .pipes, .vault, .cat, .ciph, .dgst, .hif, .rdma, .repl, .bpm, .dma,
      .evr] L = true) (kD : Keeps L D d) :
    Keeps L D (hostError what d) := by
  unfold hostError
  with_reducible repeat' (first
      | exact kD | exact Blk.le (by decide) sB | assumption | apply adminFault_k | apply dataError_k | apply dropSessions_k
      | apply failChan_k | apply onHif_k | apply qpFail_k | apply writeEntry_k | split | (apply mapGetD_k; intro _)
      | dsimp only)

theorem modTimer_k {c : Nat} {d : Dev} (sB : Blk.sub [.out, .hif] L = true) (kD : Keeps L D d) :
    Keeps L D (modTimer c d) := by
  unfold modTimer
  with_reducible repeat' (first
      | exact kD | exact Blk.le (by decide) sB | assumption | apply onChan_k | apply sendMsix_k | split | dsimp only)

theorem unmask_k {v : Nat} {d : Dev} (sB : Blk.sub [.out, .hif] L = true) (kD : Keeps L D d) :
    Keeps L D (unmask v d) := by
  unfold unmask
  with_reducible repeat' (first
      | exact kD | exact Blk.le (by decide) sB | assumption | apply onHif_k | apply sendMsix_k | split | dsimp only)

theorem doNotify_k {h : Hdr} {minSev : Nat} {d : Dev}
    (sB : Blk.sub [.out, .cat, .hif, .dma] L = true) (kD : Keeps L D d) :
    Keeps L D (doNotify h minSev d) := by
  unfold doNotify
  with_reducible repeat' (first
      | exact kD | exact Blk.le (by decide) sB | assumption | apply complete_k | apply onHif_k | split | dsimp only)

end Sys2Proof.Machine
end

