-- ==== Sys2Proof/Laws/KeepsOwn.lean ====
section
/-! SUPPORT. What the operations of these parts can change: poison, stores, Minuet, events, power, boot, registers and the audit; then the operations of the metadata cache on a whole state. -/

namespace Sys2Proof.Machine
open Sys2Proof

variable {L : List Blk} {D : Dev}

/-! ## Poison -/

theorem rereadTile_k {c : Nat} {second : Bool} {d : Dev} (sB : Blk.sub [.out] L = true) (kD : Keeps L D d) :
    Keeps L D (rereadTile c second d) := by
  unfold rereadTile
  with_reducible repeat' (first | exact kD | exact Blk.le (by decide) sB | assumption | apply emits_k | split | dsimp only)

theorem poisonReceive_k {c : Nat} {d : Dev}
    (sB : Blk.sub [.out, .free, .pipes, .vault, .cat, .ciph, .hif, .tango, .repl, .bpm, .mca, .dma,
      .evr] L = true) (kD : Keeps L D d) :
    Keeps L D (poisonReceive c d) := by
  unfold poisonReceive
  with_reducible repeat' (first
      | exact kD | exact Blk.le (by decide) sB | assumption | apply failTile_k | apply settleJobs_k | split
      | (apply mapGetD_k; intro _) | dsimp only)

theorem poisonDup_k {i : Nat} {d : Dev}
    (sB : Blk.sub [.out, .vault, .cat, .ciph, .hif, .rdma, .repl, .bpm, .dma] L = true) (kD : Keeps L D d) :
    Keeps L D (poisonDup i d) := by
  unfold poisonDup
  with_reducible repeat' (first
      | exact kD | exact Blk.le (by decide) sB | assumption | apply dropSessions_k | apply leaveRts_k | apply waits_k | split
      | dsimp only)

theorem poisoned_k {addr : Nat} {h : HbmHolder} {d0 : Dev}
    (sB : Blk.sub [.out, .free, .glb, .sl, .lg, .pipes, .vault, .cat, .ciph, .dgst, .hif, .tango, .rdma, .repl, .bpm, .mca,
      .dma, .evr] L = true) (kD : Keeps L D d0) :
    Keeps L D (poisoned addr h d0) := by
  unfold poisoned
  with_reducible repeat' (first
      | exact kD | exact Blk.le (by decide) sB | assumption | apply consume_k | apply drawn_k | apply fatalStop_k
      | apply logEvent_k | apply onCat_k | apply onMca_k | apply onTango_k | apply poisonDup_k | apply poisonReceive_k
      | apply poisonRing_k | apply poisonTile_k | apply rereadTile_k | split | dsimp only)

theorem countCe_k {d : Dev} (sB : Blk.sub [.free, .mca] L = true) (kD : Keeps L D d) :
    Keeps L D (countCe d) := by
  unfold countCe
  with_reducible repeat' (first
      | exact kD | exact Blk.le (by decide) sB | assumption | apply drawn_k | apply onMca_k | split | dsimp only)

theorem patrolOn_k {d : Dev} (sB : Blk.sub [.mca] L = true) (kD : Keeps L D d) :
    Keeps L D (patrolOn d) := by
  unfold patrolOn
  with_reducible repeat' (first | exact kD | exact Blk.le (by decide) sB | assumption | apply onMca_k | split | dsimp only)

/-! ## Stores -/

theorem onBoot_k {f : Boot → Boot} {d : Dev} (sB : Blk.sub [.boot] L = true) (kD : Keeps L D d) :
    Keeps L D (onBoot f d) := by
  unfold onBoot
  with_reducible repeat' (first | exact kD | exact Blk.le (by decide) sB | assumption | split | apply upd_boot | dsimp only)

theorem writeDir_k {d : Dev} (sB : Blk.sub [.out, .boot] L = true) (kD : Keeps L D d) :
    Keeps L D (writeDir d) := by
  unfold writeDir
  with_reducible repeat' (first
      | exact kD | exact Blk.le (by decide) sB | assumption | apply emit_k | apply onBoot_k | split | dsimp only)

theorem setSlot_k {s : Nat} {f : SlotEnt → SlotEnt} {d : Dev}
    (sB : Blk.sub [.out, .boot] L = true) (kD : Keeps L D d) :
    Keeps L D (setSlot s f d) := by
  unfold setSlot
  with_reducible repeat' (first
      | exact kD | exact Blk.le (by decide) sB | assumption | apply onBoot_k | apply writeDir_k | split | dsimp only)

theorem keepConfig_k {d : Dev} (sB : Blk.sub [.out, .boot] L = true) (kD : Keeps L D d) :
    Keeps L D (keepConfig d) := by
  unfold keepConfig
  with_reducible repeat' (first
      | exact kD | exact Blk.le (by decide) sB | assumption | apply emits_k | apply onBoot_k | split | dsimp only)

theorem takeConfig_k {d : Dev}
    (sB : Blk.sub [.out, .cat, .hif, .dma, .evr, .mnt, .boot] L = true) (kD : Keeps L D d) :
    Keeps L D (takeConfig d) := by
  unfold takeConfig
  with_reducible repeat' (first
      | exact kD | exact Blk.le (by decide) sB | assumption | apply keepConfig_k | apply logEvent_k | apply onBoot_k | split
      | apply upd_mnt | dsimp only)

/-! ## Minuet -/

theorem onMnt_k {f : Mnt → Mnt} {d : Dev} (sB : Blk.sub [.mnt] L = true) (kD : Keeps L D d) :
    Keeps L D (onMnt f d) := by
  unfold onMnt
  with_reducible repeat' (first | exact kD | exact Blk.le (by decide) sB | assumption | split | apply upd_mnt | dsimp only)

theorem commandVdd_k {want : Nat} {avs : AvsIn} {d : Dev}
    (sB : Blk.sub [.out, .cat, .hif, .dma, .evr, .mnt] L = true) (kD : Keeps L D d) :
    Keeps L D (commandVdd want avs d) := by
  unfold commandVdd
  with_reducible repeat' (first
      | exact kD | exact Blk.le (by decide) sB | assumption | apply emit_k | apply logEvent_k | apply onMnt_k | split
      | dsimp only)

theorem marginOut_k {d : Dev} (sB : Blk.sub [.out, .cat, .hif, .dma, .evr, .mnt] L = true) (kD : Keeps L D d) :
    Keeps L D (marginOut d) := by
  unfold marginOut
  with_reducible repeat' (first
      | exact kD | exact Blk.le (by decide) sB | assumption | apply logEvent_k | apply onMnt_k | split
      | (apply mapGetD_k; intro _) | dsimp only)

theorem earlyWarning_k {replica : Fin 24} {avs : AvsIn} {d : Dev}
    (sB : Blk.sub [.out, .cat, .hif, .dma, .evr, .mnt] L = true) (kD : Keeps L D d) :
    Keeps L D (earlyWarning replica avs d) := by
  unfold earlyWarning
  with_reducible repeat' (first
      | exact kD | exact Blk.le (by decide) sB | assumption | apply commandVdd_k | apply logEvent_k | apply marginOut_k
      | apply onMnt_k | split | dsimp only)

theorem account_k {vReq : Int} {d : Dev}
    (sB : Blk.sub [.out, .cat, .hif, .dma, .evr, .mnt, .boot] L = true) (kD : Keeps L D d) :
    Keeps L D (account vReq d) := by
  unfold account
  with_reducible repeat' (first
      | exact kD | exact Blk.le (by decide) sB | assumption | apply keepConfig_k | apply logEvent_k | apply marginOut_k
      | apply onMnt_k | split | dsimp only)

theorem replan_k {r : SensorIn} {avs : AvsIn} {d : Dev}
    (sB : Blk.sub [.out, .cat, .hif, .dma, .evr, .mnt, .boot] L = true) (kD : Keeps L D d) :
    Keeps L D (replan r avs d) := by
  unfold replan
  with_reducible repeat' (first
      | exact kD | exact Blk.le (by decide) sB | assumption | apply account_k | apply commandVdd_k | apply onMnt_k | split
      | dsimp only)

theorem replanDue_k {r : SensorIn} {avs : AvsIn} {d : Dev}
    (sB : Blk.sub [.out, .cat, .hif, .dma, .evr, .mnt, .boot] L = true) (kD : Keeps L D d) :
    Keeps L D (replanDue r avs d) := by
  unfold replanDue
  with_reducible repeat' (first
      | exact kD | exact Blk.le (by decide) sB | assumption | apply onMnt_k | apply replan_k | split
      | (apply mapGetD_k; intro _) | dsimp only)

theorem stepVdd_k {avs : AvsIn} {d : Dev}
    (sB : Blk.sub [.out, .cat, .hif, .dma, .evr, .mnt] L = true) (kD : Keeps L D d) :
    Keeps L D (stepVdd avs d) := by
  unfold stepVdd
  with_reducible repeat' (first
      | exact kD | exact Blk.le (by decide) sB | assumption | apply commandVdd_k | split | dsimp only)

theorem retryVdd_k {avs : AvsIn} {d : Dev}
    (sB : Blk.sub [.out, .cat, .hif, .dma, .evr, .mnt] L = true) (kD : Keeps L D d) :
    Keeps L D (retryVdd avs d) := by
  unfold retryVdd
  with_reducible repeat' (first
      | exact kD | exact Blk.le (by decide) sB | assumption | apply commandVdd_k | split | dsimp only)

theorem checkTrend_k {n : Nat} {d : Dev}
    (sB : Blk.sub [.out, .cat, .hif, .dma, .evr, .mnt] L = true) (kD : Keeps L D d) :
    Keeps L D (checkTrend n d) := by
  unfold checkTrend
  with_reducible repeat' (first
      | exact kD | exact Blk.le (by decide) sB | assumption | apply logEvent_k | apply onMnt_k | split | dsimp only)

theorem rollHours_k {d : Dev} (sB : Blk.sub [.mnt] L = true) (kD : Keeps L D d) :
    Keeps L D (rollHours d) := by
  unfold rollHours
  with_reducible repeat' (first
      | exact kD | exact Blk.le (by decide) sB | assumption | apply onMnt_k | split | (apply mapGetD_k; intro _) | dsimp only)

theorem sensorRead_k {r : SensorIn} {d : Dev}
    (sB : Blk.sub [.out, .cat, .hif, .dma, .evr, .mnt] L = true) (kD : Keeps L D d) :
    Keeps L D (sensorRead r d) := by
  unfold sensorRead
  with_reducible repeat' (first
      | exact kD | exact Blk.le (by decide) sB | assumption | apply checkTrend_k | apply onMnt_k | apply rollHours_k
      | (apply each_k; intro _ _ _) | split | (apply Keeps.fstOf; assumption) | dsimp only)

theorem threshold_k {code : Nat} {limit t : Int} {diode : Nat} {on : Bool} {f : Bool → Dev → Dev} {d : Dev}
    (s : Blk.sub [.out, .cat, .hif, .dma, .evr] L = true) (h : ∀ b x, Keeps L D x → Keeps L D (f b x)) (k : Keeps L D d) :
    Keeps L D (threshold code limit t diode on f d) := by
  unfold threshold
  with_reducible repeat' (first | exact k | exact Blk.le (by decide) s | apply h | apply logEvent_k | split)

theorem thermalSample_k {diodes : List Int} {d : Dev}
    (sB : Blk.sub [.out, .cat, .hif, .dma, .evr, .mnt] L = true) (kD : Keeps L D d) :
    Keeps L D (thermalSample diodes d) := by
  unfold thermalSample
  with_reducible repeat' (first
      | exact kD | exact Blk.le (by decide) sB | assumption | apply onMnt_k | apply threshold_k | intro _ _ _ | split
      | (apply Keeps.fstOf; assumption) | dsimp only)

theorem thermalTrip_k {diode : Nat} {celsius : Int} {d : Dev}
    (sB : Blk.sub [.out, .glb, .vault, .cat, .ciph, .dgst, .hif, .tango, .dma, .evr] L = true) (kD : Keeps L D d) :
    Keeps L D (thermalTrip diode celsius d) := by
  unfold thermalTrip
  with_reducible repeat' (first
      | exact kD | exact Blk.le (by decide) sB | assumption | apply fatalStop_k | split | dsimp only)

theorem eyeScan_k {ethernet : Bool} {lane height width : Nat} {d : Dev}
    (sB : Blk.sub [.mnt] L = true) (kD : Keeps L D d) :
    Keeps L D (eyeScan ethernet lane height width d) := by
  unfold eyeScan
  with_reducible repeat' (first | exact kD | exact Blk.le (by decide) sB | assumption | apply onMnt_k | split | dsimp only)

/-! ## Events -/

theorem onEvr_k {f : Evr → Evr} {d : Dev} (sB : Blk.sub [.evr] L = true) (kD : Keeps L D d) :
    Keeps L D (onEvr f d) := by
  unfold onEvr
  with_reducible repeat' (first | exact kD | exact Blk.le (by decide) sB | assumption | split | apply upd_evr | dsimp only)

theorem norPersist_k {d : Dev} (sB : Blk.sub [.out, .evr] L = true) (kD : Keeps L D d) :
    Keeps L D (norPersist d) := by
  unfold norPersist
  with_reducible repeat' (first
      | exact kD | exact Blk.le (by decide) sB | assumption | apply emit_k | apply onEvr_k | split | dsimp only)

theorem scanLog_k {d : Dev} (sB : Blk.sub [.evr] L = true) (kD : Keeps L D d) :
    Keeps L D (scanLog d) := by
  unfold scanLog
  with_reducible repeat' (first | exact kD | exact Blk.le (by decide) sB | assumption | apply onEvr_k | split | dsimp only)

theorem writeCursor_k {addr size : Nat} {value : W64} {d : Dev} (sB : Blk.sub [.evr] L = true) (kD : Keeps L D d) :
    Keeps L D (writeCursor addr size value d) := by
  unfold writeCursor
  with_reducible repeat' (first | exact kD | exact Blk.le (by decide) sB | assumption | split | apply upd_evr | dsimp only)

theorem readWindow_k {addr size : Nat} {d : Dev} (sB : Blk.sub [.out, .evr] L = true) (kD : Keeps L D d) :
    Keeps L D (readWindow addr size d) := by
  unfold readWindow
  with_reducible repeat' (first
      | exact kD | exact Blk.le (by decide) sB | assumption | apply emit_k | apply onEvr_k | split | dsimp only)

theorem i2cByte_k {i : Nat} {d : Dev} (sB : Blk.sub [.boot] L = true) (kD : Keeps L D d) :
    Keeps L D (i2cByte i d).2 := by
  unfold i2cByte
  with_reducible repeat' (first
      | exact kD | exact Blk.le (by decide) sB | assumption | apply onBoot_k | split | (apply mapGetD_k; intro _)
      | dsimp only)

theorem i2cBytes_k {n : Nat} {d : Dev} (s : Blk.sub [.boot] L = true) (k : Keeps L D d) : Keeps L D (i2cBytes n d).2 := by
  induction n generalizing d with
  | zero => exact k
  | succ n ih =>
    unfold i2cBytes
    dsimp only
    exact ih (onBoot_k (Blk.le (by decide) s) (i2cByte_k (Blk.le (by decide) s) k))

theorem i2cRead_k {n : Nat} {d : Dev} (sB : Blk.sub [.out, .boot] L = true) (kD : Keeps L D d) :
    Keeps L D (i2cRead n d) := by
  unfold i2cRead
  with_reducible repeat' (first
      | exact kD | exact Blk.le (by decide) sB | assumption | apply emit_k | apply i2cBytes_k | split
      | (apply Keeps.fstOf; assumption) | dsimp only)

theorem i2cWrite_k {l : List Byte} {d : Dev} (sB : Blk.sub [.boot] L = true) (kD : Keeps L D d) :
    Keeps L D (i2cWrite l d) := by
  unfold i2cWrite
  with_reducible repeat' (first | exact kD | exact Blk.le (by decide) sB | assumption | apply onBoot_k | split | dsimp only)

/-! ## Power -/

theorem onGlb_k {f : Glb → Glb} {d : Dev} (sB : Blk.sub [.glb] L = true) (kD : Keeps L D d) :
    Keeps L D (onGlb f d) := by
  unfold onGlb
  with_reducible repeat' (first | exact kD | exact Blk.le (by decide) sB | assumption | split | apply upd_glb | dsimp only)

theorem reducePower_k {cause : Nat} {d : Dev}
    (sB : Blk.sub [.out, .glb, .vault, .cat, .ciph, .hif, .tango, .dma, .evr] L = true) (kD : Keeps L D d) :
    Keeps L D (reducePower cause d) := by
  unfold reducePower
  with_reducible repeat' (first
      | exact kD | exact Blk.le (by decide) sB | assumption | apply emit_k | apply onGlb_k | apply onTango_k
      | apply onVault_k | apply tangoSend_k | split | dsimp only)

theorem powerFail_k {d : Dev}
    (sB : Blk.sub [.out, .glb, .vault, .cat, .ciph, .hif, .tango, .dma, .evr] L = true) (kD : Keeps L D d) :
    Keeps L D (powerFail d) := by
  unfold powerFail
  with_reducible repeat' (first
      | exact kD | exact Blk.le (by decide) sB | assumption | apply onGlb_k | apply reducePower_k | split | dsimp only)

theorem freezeJournal_k {d : Dev}
    (sB : Blk.sub [.out, .glb, .vault, .cat, .ciph, .hif, .tango, .dma, .evr] L = true) (kD : Keeps L D d) :
    Keeps L D (freezeJournal d) := by
  unfold freezeJournal
  with_reducible repeat' (first
      | exact kD | exact Blk.le (by decide) sB | assumption | apply tangoSend_k | apply writeBodies_k | split | dsimp only)

theorem doShutdown_k {h : Hdr} {d : Dev}
    (sB : Blk.sub [.out, .glb, .vault, .cat, .ciph, .hif, .tango, .dma, .evr] L = true) (kD : Keeps L D d) :
    Keeps L D (doShutdown h d) := by
  unfold doShutdown
  with_reducible repeat' (first
      | exact kD | exact Blk.le (by decide) sB | assumption | apply onGlb_k | apply reducePower_k | split | dsimp only)

theorem coreAccess_k {core : Fin 4} {addr : W64} {d : Dev}
    (sB : Blk.sub [.out, .cat, .hif, .dma, .evr] L = true) (kD : Keeps L D d) :
    Keeps L D (coreAccess core addr d) := by
  unfold coreAccess
  with_reducible repeat' (first
      | exact kD | exact Blk.le (by decide) sB | assumption | apply emit_k | apply logEvent_k | split | dsimp only)

theorem entropyFail_k {inst : Fin 6} {d : Dev}
    (sB : Blk.sub [.out, .glb, .vault, .cat, .ciph, .dgst, .hif, .tango, .dma, .evr] L = true) (kD : Keeps L D d) :
    Keeps L D (entropyFail inst d) := by
  unfold entropyFail
  with_reducible repeat' (first
      | exact kD | exact Blk.le (by decide) sB | assumption | apply fatalStop_k | apply onCiph_k | split | dsimp only)

theorem porAssert_k {d : Dev}
    (s : Blk.sub [.now, .glb, .regs, .sl, .lg, .audit, .pipes, .vault, .vcnt, .cat, .ciph, .dgst, .hif, .tango, .ih, .rdma,
      .rcnt, .repl, .bpm, .mca, .dma, .evr, .mnt, .boot] L = true) (k : Keeps L D d) : Keeps L D (porAssert d) :=
  Keeps.step (T := [.now, .glb, .regs, .sl, .lg, .audit, .pipes, .vault, .vcnt, .cat, .ciph, .dgst, .hif, .tango, .ih, .rdma,
      .rcnt, .repl, .bpm, .mca, .dma, .evr, .mnt, .boot]) (fun x h => by cases x <;> first | rfl | simp at h) s k

theorem portLink_k {p : Fin 2} {up fecLock : Bool} {d : Dev} (sB : Blk.sub [.regs] L = true) (kD : Keeps L D d) :
    Keeps L D (portLink p up fecLock d) := by
  unfold portLink
  with_reducible repeat' (first | exact kD | exact Blk.le (by decide) sB | assumption | split | apply upd_regs | dsimp only)

/-! ## Boot -/

theorem measureImage_k {i : Image} {d : Dev} (sB : Blk.sub [.dgst] L = true) (kD : Keeps L D d) :
    Keeps L D (measureImage i d) := by
  unfold measureImage
  with_reducible repeat' (first
      | exact kD | exact Blk.le (by decide) sB | assumption | apply extendMr_k | split | apply upd_dgst | dsimp only)

theorem measureConfig_k {fmt : Nat} {d : Dev} (sB : Blk.sub [.dgst] L = true) (kD : Keeps L D d) :
    Keeps L D (measureConfig fmt d) := by
  unfold measureConfig
  with_reducible repeat' (first
      | exact kD | exact Blk.le (by decide) sB | assumption | apply extendMr_k | split | dsimp only)

theorem measureCode_k {i : Image} {d : Dev} (sB : Blk.sub [.dgst] L = true) (kD : Keeps L D d) :
    Keeps L D (measureCode i d) := by
  unfold measureCode
  with_reducible repeat' (first
      | exact kD | exact Blk.le (by decide) sB | assumption | apply extendMr_k | (apply each_k; intro _ _ _) | split
      | (apply Keeps.fstOf; assumption) | dsimp only)

theorem measureVersion_k {i : Image} {d : Dev} (sB : Blk.sub [.dgst] L = true) (kD : Keeps L D d) :
    Keeps L D (measureVersion i d) := by
  unfold measureVersion
  with_reducible repeat' (first
      | exact kD | exact Blk.le (by decide) sB | assumption | apply extendMr_k | split | dsimp only)

theorem logReject_k {slot : Nat} {v : W32} {d : Dev}
    (sB : Blk.sub [.out, .free, .cat, .hif, .dma, .evr] L = true) (kD : Keeps L D d) :
    Keeps L D (logReject slot v d) := by
  unfold logReject
  with_reducible repeat' (first
      | exact kD | exact Blk.le (by decide) sB | assumption | apply drawn_k | apply logEvent_k | split | dsimp only)

theorem rejectSlot_k {slot : Nat} {d : Dev}
    (sB : Blk.sub [.out, .free, .cat, .hif, .dma, .evr, .boot] L = true) (kD : Keeps L D d) :
    Keeps L D (rejectSlot slot d) := by
  unfold rejectSlot
  with_reducible repeat' (first
      | exact kD | exact Blk.le (by decide) sB | assumption | apply logReject_k | apply setSlot_k | split | dsimp only)

theorem loadSlot_k {slot : Nat} {first : Bool} {d : Dev} (sB : Blk.sub [.dgst] L = true) (kD : Keeps L D d) :
    Keeps L D (loadSlot slot first d).2 := by
  unfold loadSlot
  with_reducible repeat' (first
      | exact kD | exact Blk.le (by decide) sB | assumption | apply measureImage_k | split | dsimp only)

theorem runImage_k {slot : Nat} {i : Image} {d : Dev}
    (sB : Blk.sub [.out, .cat, .dgst, .hif, .dma, .evr, .mnt, .boot] L = true) (kD : Keeps L D d) :
    Keeps L D (runImage slot i d) := by
  unfold runImage
  with_reducible repeat' (first
      | exact kD | exact Blk.le (by decide) sB | assumption | apply logEvent_k | apply measureCode_k | apply measureConfig_k
      | apply measureVersion_k | apply onBoot_k | apply takeConfig_k | split | dsimp only)

theorem logRecovery_k {d : Dev} (sB : Blk.sub [.out, .free, .cat, .hif, .dma, .evr] L = true) (kD : Keeps L D d) :
    Keeps L D (logRecovery d) := by
  unfold logRecovery
  with_reducible repeat' (first
      | exact kD | exact Blk.le (by decide) sB | assumption | apply drawn_k | apply logEvent_k | split | dsimp only)

theorem haltBoot_k {d : Dev} (sB : Blk.sub [.glb, .boot] L = true) (kD : Keeps L D d) :
    Keeps L D (recovery.haltBoot d) := by
  unfold recovery.haltBoot
  with_reducible repeat' (first
      | exact kD | exact Blk.le (by decide) sB | assumption | apply onBoot_k | apply onGlb_k | split | dsimp only)

theorem recovery_k {card : Option Image} {d : Dev}
    (sB : Blk.sub [.out, .free, .glb, .cat, .dgst, .hif, .dma, .evr, .mnt, .boot] L = true) (kD : Keeps L D d) :
    Keeps L D (recovery card d) := by
  unfold recovery
  with_reducible repeat' (first
      | exact kD | exact Blk.le (by decide) sB | assumption | apply haltBoot_k | apply logRecovery_k | apply measureImage_k
      | apply onBoot_k | apply runImage_k | apply writeDir_k | split | dsimp only)

theorem chooseSlot_k {d : Dev}
    (sB : Blk.sub [.out, .free, .cat, .hif, .dma, .evr, .boot] L = true) (kD : Keeps L D d) :
    Keeps L D (chooseSlot d).2 := by
  unfold chooseSlot
  with_reducible repeat' (first
      | exact kD | exact Blk.le (by decide) sB | assumption | apply rejectSlot_k | apply setSlot_k | split | dsimp only)

theorem fallBack_k {slot : Nat} {card : Option Image} {d : Dev}
    (sB : Blk.sub [.out, .free, .glb, .cat, .dgst, .hif, .dma, .evr, .mnt, .boot] L = true) (kD : Keeps L D d) :
    Keeps L D (fallBack slot card d) := by
  unfold fallBack
  with_reducible repeat' (first
      | exact kD | exact Blk.le (by decide) sB | assumption | apply loadSlot_k | apply logEvent_k | apply onBoot_k
      | apply recovery_k | apply runImage_k | split | (apply Keeps.sndOf; assumption) | dsimp only)

theorem bootFrom_k {card : Option Image} {d : Dev}
    (sB : Blk.sub [.out, .free, .glb, .cat, .dgst, .hif, .dma, .evr, .mnt, .boot] L = true) (kD : Keeps L D d) :
    Keeps L D (bootFrom card d) := by
  unfold bootFrom
  with_reducible repeat' (first
      | exact kD | exact Blk.le (by decide) sB | assumption | apply chooseSlot_k | apply fallBack_k | apply loadSlot_k
      | apply onBoot_k | apply recovery_k | apply rejectSlot_k | apply runImage_k | split | (apply Keeps.sndOf; assumption)
      | dsimp only)

theorem startRom_k {pins : BootIn} {d : Dev}
    (sB : Blk.sub [.now, .free, .glb, .dgst, .hif, .evr, .boot] L = true) (kD : Keeps L D d) :
    Keeps L D (startRom pins d) := by
  unfold startRom
  with_reducible repeat' (first
      | exact kD | exact Blk.le (by decide) sB | assumption | apply extendMr_k | apply onBoot_k | apply onGlb_k
      | apply perstHigh_k | apply scanLog_k | split | apply upd_now | (apply mapGetD_k; intro _) | dsimp only)

theorem porDeassert_k {pins : BootIn} {d : Dev}
    (sB : Blk.sub [.out, .now, .free, .glb, .cat, .dgst, .hif, .dma, .evr, .mnt, .boot] L = true) (kD : Keeps L D d) :
    Keeps L D (porDeassert pins d) := by
  unfold porDeassert
  with_reducible repeat' (first
      | exact kD | exact Blk.le (by decide) sB | assumption | apply bootFrom_k | apply onGlb_k | apply startRom_k | split
      | dsimp only)

theorem endHold_k {card : Option Image} {d : Dev}
    (sB : Blk.sub [.out, .free, .glb, .cat, .dgst, .hif, .dma, .evr, .mnt, .boot] L = true) (kD : Keeps L D d) :
    Keeps L D (endHold card d) := by
  unfold endHold
  with_reducible repeat' (first
      | exact kD | exact Blk.le (by decide) sB | assumption | apply bootFrom_k | apply onGlb_k | split | dsimp only)

theorem doFwStage_k {h : Hdr} {length : Nat} {card : Option Image} {sdhc : Bool} {d : Dev}
    (sB : Blk.sub [.out, .cat, .dgst, .hif, .dma, .boot] L = true) (kD : Keeps L D d) :
    Keeps L D (doFwStage h length card sdhc d) := by
  unfold doFwStage
  with_reducible repeat' (first
      | exact kD | exact Blk.le (by decide) sB | assumption | apply complete_k | apply onBoot_k | apply setSlot_k
      | apply takeCtx_k | split | dsimp only)

theorem endStaging_k {outcome : Nat} {i : Image} {d : Dev}
    (sB : Blk.sub [.out, .cat, .dgst, .hif, .dma, .evr, .boot] L = true) (kD : Keeps L D d) :
    Keeps L D (endStaging outcome i d) := by
  unfold endStaging
  with_reducible repeat' (first
      | exact kD | exact Blk.le (by decide) sB | assumption | apply complete_k | apply dropCtx_k | apply logEvent_k
      | apply onBoot_k | apply setSlot_k | split | dsimp only)

theorem doFwActivate_k {h : Hdr} {d : Dev}
    (sB : Blk.sub [.out, .free, .glb, .cat, .dgst, .hif, .dma, .evr, .boot] L = true) (kD : Keeps L D d) :
    Keeps L D (doFwActivate h d) := by
  unfold doFwActivate
  with_reducible repeat' (first
      | exact kD | exact Blk.le (by decide) sB | assumption | apply complete_k | apply measureImage_k | apply onBoot_k
      | apply onGlb_k | apply rejectSlot_k | apply setSlot_k | split | dsimp only)

theorem newSession_k {d : Dev}
    (sB : Blk.sub [.out, .free, .vault, .cat, .ciph, .dgst, .hif, .tango, .mca, .dma, .evr] L = true) (kD : Keeps L D d) :
    Keeps L D (newSession d) := by
  unfold newSession
  with_reducible repeat' (first
      | exact kD | exact Blk.le (by decide) sB | assumption | apply tangoQpError_k | split | dsimp only)

theorem fwRunning_k {d : Dev}
    (sB : Blk.sub [.out, .free, .vault, .cat, .ciph, .dgst, .hif, .tango, .mca, .dma, .evr, .mnt,
      .boot] L = true) (kD : Keeps L D d) :
    Keeps L D (fwRunning d) := by
  unfold fwRunning
  with_reducible repeat' (first
      | exact kD | exact Blk.le (by decide) sB | assumption | apply complete_k | apply logEvent_k | apply measureVersion_k
      | apply newSession_k | apply onBoot_k | apply setSlot_k | apply takeConfig_k | split | dsimp only)

theorem undoActivation_k {silent : Bool} {t : TakeoverIn} {d : Dev}
    (sB : Blk.sub [.out, .free, .glb, .sl, .lg, .pipes, .vault, .vcnt, .cat, .disk, .ciph, .dgst, .hif, .tango, .ih, .repl,
      .bpm, .mca, .dma, .evr, .boot] L = true) (kD : Keeps L D d) :
    Keeps L D (undoActivation silent t d) := by
  unfold undoActivation
  with_reducible repeat' (first
      | exact kD | exact Blk.le (by decide) sB | assumption | apply complete_k | apply drawn_k | apply logEvent_k
      | apply logReject_k | apply onBoot_k | apply partnerSilent_k | apply setSlot_k | split | dsimp only)

theorem doFwConfirm_k {h : Hdr} {d : Dev}
    (sB : Blk.sub [.out, .free, .vault, .cat, .ciph, .dgst, .hif, .tango, .mca, .dma, .evr,
      .boot] L = true) (kD : Keeps L D d) :
    Keeps L D (doFwConfirm h d) := by
  unfold doFwConfirm
  with_reducible repeat' (first
      | exact kD | exact Blk.le (by decide) sB | assumption | apply complete_k | apply logEvent_k | apply newSession_k
      | apply onBoot_k | apply writeDir_k | split | dsimp only)

theorem doAttestQuote_k {h : Hdr} {nonce : W256} {outAddr outLen : Nat} {d : Dev}
    (sB : Blk.sub [.out, .free, .cat, .ciph, .hif, .dma] L = true) (kD : Keeps L D d) :
    Keeps L D (doAttestQuote h nonce outAddr outLen d) := by
  unfold doAttestQuote
  with_reducible repeat' (first
      | exact kD | exact Blk.le (by decide) sB | assumption | apply complete_k | apply drbgDraw_k | apply hostData_k | split
      | dsimp only)

theorem closeJtag_k {d : Dev} (sB : Blk.sub [.boot] L = true) (kD : Keeps L D d) :
    Keeps L D (closeJtag d) := by
  unfold closeJtag
  with_reducible repeat' (first | exact kD | exact Blk.le (by decide) sB | assumption | apply onBoot_k | split | dsimp only)

/-! ## Registers -/

theorem measureLock_k {d : Dev} (sB : Blk.sub [.glb, .dgst] L = true) (kD : Keeps L D d) :
    Keeps L D (measureLock d) := by
  unfold measureLock
  with_reducible repeat' (first
      | exact kD | exact Blk.le (by decide) sB | assumption | apply extendMr_k | apply onGlb_k | split | dsimp only)

theorem firstLock_k {t : TakeoverIn} {dumps : List DumpIn} {d : Dev}
    (sB : Blk.sub [.out, .free, .glb, .regs, .sl, .lg, .pipes, .vault, .vcnt, .cat, .disk, .ciph, .dgst, .hif, .tango, .repl,
      .bpm, .mca, .dma, .evr] L = true) (kD : Keeps L D d) :
    Keeps L D (firstLock t dumps d) := by
  unfold firstLock
  with_reducible repeat' (first
      | exact kD | exact Blk.le (by decide) sB | assumption | apply linkUp_k | apply measureLock_k | apply startPorts_k
      | apply startTango_k | (apply each_k; intro _ _ _) | split | apply upd_glb_regs | apply upd_sl
      | (apply Keeps.fstOf; assumption) | dsimp only)

theorem lockWrite_k {value : W32} {t : TakeoverIn} {dumps : List DumpIn} {d : Dev}
    (sB : Blk.sub [.out, .free, .glb, .regs, .sl, .lg, .pipes, .vault, .vcnt, .cat, .disk, .ciph, .dgst, .hif, .tango, .repl,
      .bpm, .mca, .dma, .evr] L = true) (kD : Keeps L D d) :
    Keeps L D (lockWrite value t dumps d) := by
  unfold lockWrite
  with_reducible repeat' (first
      | exact kD | exact Blk.le (by decide) sB | assumption | apply firstLock_k | apply measureLock_k | apply onGlb_k | split
      | dsimp only)

theorem onRegs_k {f : Regs → Regs} {d : Dev} (sB : Blk.sub [.regs] L = true) (kD : Keeps L D d) :
    Keeps L D (onRegs f d) := by
  unfold onRegs
  with_reducible repeat' (first | exact kD | exact Blk.le (by decide) sB | assumption | split | apply upd_regs | dsimp only)

theorem writeEnable_k {on : Bool} {d : Dev} (sB : Blk.sub [.mca] L = true) (kD : Keeps L D d) :
    Keeps L D (writeEnable on d) := by
  unfold writeEnable
  with_reducible repeat' (first
      | exact kD | exact Blk.le (by decide) sB | assumption | apply onMca_k | apply startDrain_k | split | dsimp only)

theorem writeRate_k {n v : Nat} {d : Dev} (sB : Blk.sub [.evr] L = true) (kD : Keeps L D d) :
    Keeps L D (writeRate n v d) := by
  unfold writeRate
  with_reducible repeat' (first
      | exact kD | exact Blk.le (by decide) sB | assumption | apply onEvr_k | split | (apply mapGetD_k; intro _) | dsimp only)

theorem storeReg_k {r : SetReg} {v : Nat} {d : Dev}
    (sB : Blk.sub [.out, .free, .glb, .regs, .sl, .lg, .pipes, .vault, .vcnt, .cat, .disk, .ciph, .dgst, .hif, .tango, .repl,
      .bpm, .mca, .dma, .evr, .boot] L = true) (kD : Keeps L D d) :
    Keeps L D (storeReg r v d) := by
  unfold storeReg
  with_reducible repeat' (first
      | exact kD | exact Blk.le (by decide) sB | assumption | apply closeJtag_k | apply dpCfgWrite_k | apply lockWrite_k
      | apply onRegs_k | apply writeAdminCtl_k | apply writeEnable_k | apply writeRate_k | split | dsimp only)

theorem stageLow_k {key mask v : Nat} {d : Dev} (sB : Blk.sub [.regs] L = true) (kD : Keeps L D d) :
    Keeps L D (stageLow key mask v d) := by
  unfold stageLow
  with_reducible repeat' (first | exact kD | exact Blk.le (by decide) sB | assumption | apply onRegs_k | split | dsimp only)

/-! ## Audit -/

theorem endWindow_k {g : Fin 4} {d : Dev}
    (sB : Blk.sub [.out, .sl, .cat, .hif, .dma, .evr] L = true) (kD : Keeps L D d) :
    Keeps L D (endWindow g d) := by
  unfold endWindow
  with_reducible repeat' (first
      | exact kD | exact Blk.le (by decide) sB | assumption | apply logEvent_k | apply onGroup_k | split | dsimp only)

theorem endErrorWindow_k {d : Dev} (sB : Blk.sub [.sl] L = true) (kD : Keeps L D d) :
    Keeps L D (endErrorWindow d) := by
  unfold endErrorWindow
  with_reducible repeat' (first | exact kD | exact Blk.le (by decide) sB | assumption | split | apply upd_sl | dsimp only)

theorem releaseRing_k {g : Fin 4} {d : Dev} (sB : Blk.sub [.lg] L = true) (kD : Keeps L D d) :
    Keeps L D (releaseRing g d) := by
  unfold releaseRing
  with_reducible repeat' (first
      | exact kD | exact Blk.le (by decide) sB | assumption | apply onLedger_k | split | dsimp only)

theorem countStandby_k {g : Fin 4} {d : Dev} (sB : Blk.sub [.lg] L = true) (kD : Keeps L D d) :
    Keeps L D (countStandby g d) := by
  unfold countStandby
  with_reducible repeat' (first
      | exact kD | exact Blk.le (by decide) sB | assumption | apply onLedger_k | split | dsimp only)

theorem auditFail_k {a : Audit} {d : Dev}
    (sB : Blk.sub [.out, .free, .glb, .audit, .vault, .cat, .ciph, .dgst, .hif, .tango, .dma,
      .evr] L = true) (kD : Keeps L D d) :
    Keeps L D (auditFail a d) := by
  unfold auditFail
  with_reducible repeat' (first
      | exact kD | exact Blk.le (by decide) sB | assumption | apply drawn_k | apply fatalStop_k | split | apply upd_audit
      | dsimp only)

theorem tickWork_k {d : Dev}
    (sB : Blk.sub [.out, .free, .sl, .lg, .pipes, .vault, .cat, .ciph, .dgst, .hif, .tango, .ih, .bpm, .mca, .dma,
      .evr] L = true) (kD : Keeps L D d) :
    Keeps L D (tickWork d) := by
  unfold tickWork
  with_reducible repeat' (first
      | exact kD | exact Blk.le (by decide) sB | assumption | apply countStandby_k | apply endErrorWindow_k
      | apply endWindow_k | apply fitCeiling_k | apply formRings_k | apply releaseRing_k | apply sendLedger_k
      | apply tryCut_k | (apply each_k; intro _ _ _) | split | (apply Keeps.fstOf; assumption) | dsimp only)

theorem auditTick_k {d : Dev}
    (sB : Blk.sub [.out, .now, .free, .glb, .sl, .lg, .audit, .pipes, .vault, .cat, .ciph, .dgst, .hif, .tango, .ih, .bpm,
      .mca, .dma, .evr] L = true) (kD : Keeps L D d) :
    Keeps L D (auditTick d) := by
  unfold auditTick
  with_reducible repeat' (first
      | exact kD | exact Blk.le (by decide) sB | assumption | apply auditFail_k | apply tickWork_k | split | apply upd_audit
      | apply upd_now | apply upd_now_audit | dsimp only)

theorem idleTick_k {d : Dev}
    (sB : Blk.sub [.out, .now, .free, .sl, .pipes, .vault, .cat, .ciph, .hif, .tango, .repl, .bpm, .mca, .dma,
      .evr] L = true) (kD : Keeps L D d) :
    Keeps L D (idleTick d) := by
  unfold idleTick
  with_reducible repeat' (first
      | exact kD | exact Blk.le (by decide) sB | assumption | apply idle_k | apply pumpScan_k | apply sendIdle_k
      | apply settleJobs_k | (apply each_k; intro _ _ _) | apply when_k | split | (apply Keeps.fstOf; assumption)
      | dsimp only)

/-! ## HBM and the metadata cache: operations on a whole state -/

theorem mca_k {x y : Dev} (h : y = { x with mca := y.mca }) (sB : Blk.sub [.mca] L = true) (k : Keeps L D x) : Keeps L D y := by
  rw [h]; exact Keeps.step (fun k h => by cases k <;> first | rfl | simp at h) sB k

theorem onMcaS_k {s : State} {f : Mca → Mca} (sB : Blk.sub [.mca] L = true) (k : Keeps L D s.dev) : Keeps L D (s.onMca f).dev :=
  mca_k (by rfl) sB k

theorem writeBackLine_k {l : CLine} {s : State} (sB : Blk.sub [.mca] L = true) (k : Keeps L D s.dev) :
    Keeps L D (writeBackLine l s).dev :=
  mca_k (by rfl) sB k

theorem drainOne_k {s : State} (sB : Blk.sub [.out, .mca] L = true) (k : Keeps L D s.dev) : Keeps L D (drainOne s).dev := by
  unfold drainOne; split
  · exact k
  · exact emits_k (Blk.le (by decide) sB) (mca_k (by rfl) (Blk.le (by decide) sB) k)

theorem drainN_k {n : Nat} {s : State} (sB : Blk.sub [.out, .mca] L = true) (k : Keeps L D s.dev) :
    Keeps L D (drainN n s).dev := by
  induction n generalizing s with
  | zero => exact k
  | succ n ih => exact ih (drainOne_k sB k)

theorem drainLines_k {p : Nat → Bool} {s : State} (sB : Blk.sub [.out, .mca] L = true) (k : Keeps L D s.dev) :
    Keeps L D (drainLines p s).dev := drainN_k sB k

theorem install_k {c line : Nat} {b : Bool} {data : List Byte} {s : State} (sB : Blk.sub [.free, .mca] L = true)
    (k : Keeps L D s.dev) : Keeps L D (install c line b data s).dev := by
  have m : Blk.sub [.mca] L = true := Blk.le (by decide) sB
  have f : Blk.sub [.free] L = true := Blk.le (by decide) sB
  unfold install; simp only; split
  · split <;> exact k
  · split
    · exact mca_k (by rfl) m k
    · apply onMcaS_k m
      split
      · split
        · apply writeBackLine_k m; split
          · exact drawn_k f (mca_k (by rfl) m k)
          · exact mca_k (by rfl) m k
        · split
          · exact drawn_k f (mca_k (by rfl) m k)
          · exact mca_k (by rfl) m k
      · split
        · exact drawn_k f (mca_k (by rfl) m k)
        · exact mca_k (by rfl) m k

theorem cleanKey_k {n : Nat} {s : State}
    (sB : Blk.sub [.mca] L = true) (k : Keeps L D s.dev) : Keeps L D (cleanKey n s).dev := by
  unfold cleanKey; split
  · split
    · exact onMcaS_k sB (writeBackLine_k sB k)
    · exact k
  · exact k

theorem cleanKeys_k {l : List Nat} {s : State} (sB : Blk.sub [.mca] L = true) (k : Keeps L D s.dev) :
    Keeps L D (l.foldl (fun x n => cleanKey n x) s).dev := by
  induction l generalizing s with
  | nil => exact k
  | cons a t ih => exact ih (cleanKey_k sB k)

theorem cleanLines_k {p : Nat → Bool} {s : State} (sB : Blk.sub [.out, .mca] L = true) (k : Keeps L D s.dev) :
    Keeps L D (cleanLines p s).dev := by
  have m : Blk.sub [.mca] L = true := Blk.le (by decide) sB
  have h := cleanKeys_k (l := ((drainLines p s).dev.mca.keys p)) m (drainLines_k (p := p) sB k)
  unfold cleanLines; simp only
  split
  · exact onMcaS_k m h
  · exact h

theorem dropLines_k {p : Nat → Bool} {s : State} (sB : Blk.sub [.mca] L = true) (k : Keeps L D s.dev) :
    Keeps L D (dropLines p s).dev := onMcaS_k sB k

theorem maintDone_k {s : State} (sB : Blk.sub [.mca] L = true) (k : Keeps L D s.dev) :
    Keeps L D (maintDone s).dev := onMcaS_k sB k

theorem endDrain_k {s : State} (sB : Blk.sub [.mca] L = true) (k : Keeps L D s.dev) : Keeps L D (endDrain s).dev :=
  onMcaS_k sB (cleanKeys_k sB k)

theorem cacheRead_k {c line : Nat} {s : State} (sB : Blk.sub [.out, .free, .mca] L = true) (k : Keeps L D s.dev) :
    Keeps L D (cacheRead c line s).2.dev := by
  have m : Blk.sub [.mca] L = true := Blk.le (by decide) sB
  have o : Blk.sub [.out, .mca] L = true := Blk.le (by decide) sB
  unfold cacheRead; split
  · split
    · split
      · exact onMcaS_k m k
      · exact k
    · exact k
  · simp only
    split
    · split
      · exact onMcaS_k m (drainLines_k o k)
      · exact install_k (Blk.le (by decide) sB) (onMcaS_k m (drainLines_k o k))
    · exact drainLines_k o k

theorem cacheWrite_k {c a : Nat} {data : List Byte} {s : State} (sB : Blk.sub [.out, .free, .mca] L = true)
    (k : Keeps L D s.dev) : Keeps L D (cacheWrite c a data s).dev := by
  have m : Blk.sub [.mca] L = true := Blk.le (by decide) sB
  have o : Blk.sub [.out, .mca] L = true := Blk.le (by decide) sB
  unfold cacheWrite; simp only
  split
  · split
    · exact k
    · split
      · rename_i l _ _
        have p : Keeps L D (if l.dirty then writeBackLine l s else s).dev := by
          split
          · exact writeBackLine_k m k
          · exact k
        exact mca_k (by rfl) m p
      · split
        · exact mca_k (by rfl) m k
        · split
          · exact mca_k (by rfl) m k
          · split <;> exact mca_k (by rfl) m k
  · split
    · exact install_k (Blk.le (by decide) sB) (drainLines_k o (onMcaS_k m k))
    · split
      · exact drainLines_k o (onMcaS_k m k)
      · exact drainLines_k o k

theorem writeLines_k {c a n : Nat} {b : List Byte} {s : State} (sB : Blk.sub [.out, .free, .mca] L = true)
    (k : Keeps L D s.dev) : Keeps L D (writeLines c a n b s).dev := by
  induction n generalizing a b s with
  | zero => exact k
  | succ n ih =>
    unfold writeLines; split
    · exact k
    · exact ih (cacheWrite_k sB k)

theorem syncBucket_k {b : Nat} {s : State} (sB : Blk.sub [.out, .free, .mca] L = true) (k : Keeps L D s.dev) :
    Keeps L D (syncBucket b s).dev := writeLines_k sB k

theorem syncBuckets_k {l : List Nat} {s : State} (sB : Blk.sub [.out, .free, .mca] L = true) (k : Keeps L D s.dev) :
    Keeps L D (l.foldl (fun x b => syncBucket b x) s).dev := by
  induction l generalizing s with
  | nil => exact k
  | cons a t ih => exact ih (syncBucket_k sB k)

theorem syncHot_k {s : State} (sB : Blk.sub [.out, .free, .mca] L = true) (k : Keeps L D s.dev) : Keeps L D (syncHot s).dev :=
  onMcaS_k (Blk.le (by decide) sB) (syncBuckets_k sB k)

theorem liveState_k {f : State → State} {s : State} (h : ∀ x : State, Keeps L D x.dev → Keeps L D (f x).dev)
    (sB : Blk.sub [.out, .free, .mca] L = true) (k : Keeps L D s.dev) : Keeps L D (liveState f s).dev := by
  unfold liveState; split
  · exact h _ (syncHot_k sB k)
  · exact k

theorem stagedState_k {f : Dev → Dev} {s : State} (h : Keeps L D (f s.dev)) (sB : Blk.sub [.out, .free, .mca] L = true) :
    Keeps L D (stagedState f s).dev := by
  unfold stagedState; simp only; split
  · exact h
  · exact maintDone_k (Blk.le (by decide) sB) (cleanLines_k (Blk.le (by decide) sB) (syncHot_k sB h))

theorem hbmPoison_k {a : Nat} {h : HbmHolder} {s : State}
    (sB : Blk.sub [.out, .free, .glb, .sl, .lg, .pipes, .vault, .cat, .ciph, .dgst, .hif, .tango, .rdma, .repl, .bpm, .mca,
      .dma, .evr] L = true) (k : Keeps L D s.dev) :
    Keeps L D (hbmPoison a h s).dev := by
  have p : Keeps L D (poisoned a h s.dev) := poisoned_k (Blk.le (by decide) sB) k
  unfold hbmPoison; simp only; split
  · exact writeLines_k (Blk.le (by decide) sB) p
  · exact p

theorem patrolRead_k {c : List Byte} {u : Bool} {h : HbmHolder} {s : State}
    (sB : Blk.sub [.out, .free, .glb, .sl, .lg, .pipes, .vault, .cat, .ciph, .dgst, .hif, .tango, .rdma, .repl, .bpm, .mca,
      .dma, .evr] L = true) (k : Keeps L D s.dev) :
    Keeps L D (patrolRead c u h s).dev := by
  have p : Keeps L D (patrolOn s.dev) := patrolOn_k (Blk.le (by decide) sB) k
  have q : Keeps L D (countCe (patrolOn s.dev)) := countCe_k (Blk.le (by decide) sB) p
  unfold patrolRead; simp only; split
  · exact k
  · split
    · exact hbmPoison_k sB p
    · exact p
    · split <;> exact q

theorem refetch_k {set way : Nat} {l : CLine} {s : State} (sB : Blk.sub [.out, .cat, .hif, .mca, .dma, .evr] L = true)
    (k : Keeps L D s.dev) : Keeps L D (refetch set way l s).dev :=
  logEvent_k (Blk.le (by decide) sB) (mca_k (by rfl) (Blk.le (by decide) sB) k)

theorem parityError_k {set way : Nat} {e : ParityErr} {s : State}
    (sB : Blk.sub [.out, .glb, .vault, .cat, .ciph, .dgst, .hif, .tango, .mca, .dma, .evr] L = true) (k : Keeps L D s.dev) :
    Keeps L D (parityError set way e s).dev := by
  unfold parityError; split
  · exact k
  · split
    · exact refetch_k (Blk.le (by decide) sB) k
    · exact fatalStop_k (Blk.le (by decide) sB) k

theorem writeRegion_k {n v : Nat} {s : State} (sB : Blk.sub [.out, .regs, .mca] L = true) (k : Keeps L D s.dev) :
    Keeps L D (writeRegion n v s).dev := by
  unfold writeRegion; split
  · exact k
  · exact onRegs_k (Blk.le (by decide) sB) (dropLines_k (Blk.le (by decide) sB) (cleanLines_k (Blk.le (by decide) sB) k))

theorem putReg_k {r : SetReg} {a n : Nat} {x : W64} {v : Nat} {s : State}
    (sB : Blk.sub [.out, .free, .glb, .regs, .sl, .lg, .pipes, .vault, .vcnt, .cat, .disk, .ciph, .dgst, .hif, .tango, .repl,
      .bpm, .mca, .dma, .evr, .boot] L = true) (k : Keeps L D s.dev) :
    Keeps L D (putReg r a n x v s).dev := by
  unfold putReg; split
  · exact writeRegion_k (Blk.le (by decide) sB) k
  · exact writeCursor_k (Blk.le (by decide) sB) k
  · exact storeReg_k (Blk.le (by decide) sB) k

theorem barWrite_k {a n : Nat} {x : W64} {s : State}
    (sB : Blk.sub [.out, .free, .glb, .regs, .sl, .lg, .pipes, .vault, .vcnt, .cat, .disk, .ciph, .dgst, .hif, .tango, .repl,
      .bpm, .mca, .dma, .evr, .boot] L = true) (k : Keeps L D s.dev) :
    Keeps L D (barWrite a n x s).dev := by
  unfold barWrite; split
  · split
    · exact k
    · simp only; split
      · exact k
      · split
        · split
          · exact stageLow_k (Blk.le (by decide) sB) k
          · split
            · exact putReg_k sB (onRegs_k (Blk.le (by decide) sB) k)
            · exact onRegs_k (Blk.le (by decide) sB) k
        · split
          · exact putReg_k sB k
          · exact k
  · exact k

theorem dmaBurst_k {b : List Byte} {p : Bool} {s : State}
    (sB : Blk.sub [.out, .cat, .dgst, .hif, .dma] L = true) (k : Keeps L D s.dev) :
    Keeps L D (dmaBurst b p s) := by
  unfold dmaBurst; simp only; split
  · exact k
  · split
    · exact copyBurst_k (Blk.le (by decide) sB) k
    · exact k

end Sys2Proof.Machine
end

