-- ==== Sys2Proof/Laws/Commands.lean ====
section
/-! SUPPORT. What each command can change of the head: one lemma for each. -/

namespace Sys2Proof.Machine
open Sys2Proof

variable {L : List Blk}

theorem execRegisterWrite_frame {addr : BitVec 26} {size : Nat} {value : W64} {s : State} {tS : State}
    (sB : Blk.sub [.out, .free, .glb, .regs, .sl, .lg, .pipes, .vault, .vcnt, .cat, .disk, .ciph, .dgst, .hif, .tango, .repl,
      .bpm, .mca, .dma, .evr, .boot] L = true) (qE : execRegisterWrite addr size value s = .next tS) :
    Keeps L s.dev tS.dev := by
  unfold execRegisterWrite at qE
  cases qE
  exact barWrite_k sB (Keeps.refl _ _)

theorem execGlbLock_frame {value : W32} {t : TakeoverIn} {dumps : List DumpIn} {s : State} {tS : State}
    (sB : Blk.sub [.out, .free, .glb, .regs, .sl, .lg, .pipes, .vault, .vcnt, .cat, .disk, .ciph, .dgst, .hif, .tango, .repl,
      .bpm, .mca, .dma, .evr] L = true) (qE : execGlbLock value t dumps s = .next tS) :
    Keeps L s.dev tS.dev := by
  unfold execGlbLock at qE
  try dsimp only at qE
  repeat' (first | (cases qE; done) | split at qE)
  all_goals try cases qE
  all_goals with_reducible repeat' (first
      | exact Keeps.refl _ _ | exact Blk.le (by decide) sB | assumption | apply lockWrite_k | apply when_k | split
      | (apply Keeps.fstOf; assumption) | dsimp only)

theorem execDpCfgWrite_frame {value : W32} {drives : List DriveInfo} {s : State} {tS : State}
    (sB : Blk.sub [.out, .glb, .regs, .vault, .cat, .disk, .ciph, .hif, .tango, .dma, .evr] L = true)
    (qE : execDpCfgWrite value drives s = .next tS) :
    Keeps L s.dev tS.dev := by
  unfold execDpCfgWrite at qE
  try dsimp only at qE
  repeat' (first | (cases qE; done) | split at qE)
  all_goals try cases qE
  all_goals with_reducible repeat' (first
      | exact Keeps.refl _ _ | exact Blk.le (by decide) sB | assumption | apply dpCfgWrite_k | apply when_k | split
      | (apply Keeps.fstOf; assumption) | dsimp only)

theorem execAdminEnable_frame {value : W32} {s : State} {tS : State}
    (sB : Blk.sub [.out, .regs, .cat, .hif, .dma] L = true) (qE : execAdminEnable value s = .next tS) :
    Keeps L s.dev tS.dev := by
  unfold execAdminEnable at qE
  try dsimp only at qE
  repeat' (first | (cases qE; done) | split at qE)
  all_goals try cases qE
  all_goals with_reducible repeat' (first
      | exact Keeps.refl _ _ | exact Blk.le (by decide) sB | assumption | apply writeAdminCtl_k | (apply each_k; intro _ _ _)
      | apply when_k | split | (apply Keeps.fstOf; assumption) | dsimp only)

theorem execAdminStop_frame {value : W32} {s : State} {tS : State}
    (sB : Blk.sub [.out, .regs, .cat, .hif, .dma] L = true) (qE : execAdminStop value s = .next tS) :
    Keeps L s.dev tS.dev := by
  unfold execAdminStop at qE
  try dsimp only at qE
  repeat' (first | (cases qE; done) | split at qE)
  all_goals try cases qE
  all_goals with_reducible repeat' (first
      | exact Keeps.refl _ _ | exact Blk.le (by decide) sB | assumption | apply writeAdminCtl_k | (apply each_k; intro _ _ _)
      | apply when_k | split | (apply Keeps.fstOf; assumption) | dsimp only)

theorem execRegionTableWrite_frame {addr : BitVec 26} {size : Nat} {value : W64} {s : State} {tS : State}
    (sB : Blk.sub [.out, .free, .glb, .regs, .sl, .lg, .pipes, .vault, .vcnt, .cat, .disk, .ciph, .dgst, .hif, .tango, .repl,
      .bpm, .mca, .dma, .evr, .boot] L = true) (qE : execRegionTableWrite addr size value s = .next tS) :
    Keeps L s.dev tS.dev := by
  unfold execRegionTableWrite at qE
  cases qE
  split
  · exact barWrite_k sB (Keeps.refl _ _)
  · exact Keeps.refl _ _

theorem execCacheDisable_frame {s : State} {tS : State} (sB : Blk.sub [.mca] L = true) (qE : execCacheDisable s = .next tS) :
    Keeps L s.dev tS.dev := by
  unfold execCacheDisable at qE
  try dsimp only at qE
  repeat' (first | (cases qE; done) | split at qE)
  all_goals try cases qE
  all_goals with_reducible repeat' (first
      | exact Keeps.refl _ _ | exact Blk.le (by decide) sB | assumption | apply startDrain_k | apply when_k | split
      | (apply Keeps.fstOf; assumption) | dsimp only)

theorem execCacheDrainDone_frame {s : State} {tS : State}
    (sB : Blk.sub [.out, .free, .mca] L = true) (qE : execCacheDrainDone s = .next tS) :
    Keeps L s.dev tS.dev := by
  unfold execCacheDrainDone at qE
  cases qE
  refine liveState_k (fun x k => ?_) sB (Keeps.refl _ _)
  split
  · exact endDrain_k (Blk.le (by decide) sB) k
  · exact k

theorem execEvrCursorWrite_frame {addr : BitVec 26} {size : Nat} {value : W64} {s : State} {tS : State}
    (sB : Blk.sub [.evr] L = true) (qE : execEvrCursorWrite addr size value s = .next tS) :
    Keeps L s.dev tS.dev := by
  unfold execEvrCursorWrite at qE
  try dsimp only at qE
  repeat' (first | (cases qE; done) | split at qE)
  all_goals try cases qE
  all_goals with_reducible repeat' (first
      | exact Keeps.refl _ _ | exact Blk.le (by decide) sB | assumption | apply writeCursor_k | apply when_k | split
      | (apply Keeps.fstOf; assumption) | dsimp only)

theorem execEvrWindowRead_frame {addr : BitVec 26} {size : Nat} {s : State} {tS : State}
    (sB : Blk.sub [.out, .evr] L = true) (qE : execEvrWindowRead addr size s = .next tS) :
    Keeps L s.dev tS.dev := by
  unfold execEvrWindowRead at qE
  try dsimp only at qE
  repeat' (first | (cases qE; done) | split at qE)
  all_goals try cases qE
  all_goals with_reducible repeat' (first
      | exact Keeps.refl _ _ | exact Blk.le (by decide) sB | assumption | apply readWindow_k | apply when_k | split
      | (apply Keeps.fstOf; assumption) | dsimp only)

theorem execJtagClose_frame {value : W32} {s : State} {tS : State}
    (sB : Blk.sub [.boot] L = true) (qE : execJtagClose value s = .next tS) :
    Keeps L s.dev tS.dev := by
  unfold execJtagClose at qE
  try dsimp only at qE
  repeat' (first | (cases qE; done) | split at qE)
  all_goals try cases qE
  all_goals with_reducible repeat' (first
      | exact Keeps.refl _ _ | exact Blk.le (by decide) sB | assumption | apply closeJtag_k | apply when_k | split
      | (apply Keeps.fstOf; assumption) | dsimp only)

theorem execPorNAssert_frame {s : State} {tS : State}
    (sB : Blk.sub [.now, .glb, .regs, .sl, .lg, .audit, .pipes, .vault, .vcnt, .cat, .ciph, .dgst, .hif, .tango, .ih, .rdma,
      .rcnt, .repl, .bpm, .mca, .dma, .evr, .mnt, .boot] L = true) (qE : execPorNAssert s = .next tS) :
    Keeps L s.dev tS.dev := by
  unfold execPorNAssert at qE
  try dsimp only at qE
  repeat' (first | (cases qE; done) | split at qE)
  all_goals try cases qE
  all_goals with_reducible repeat' (first
      | exact Keeps.refl _ _ | exact Blk.le (by decide) sB | assumption | apply porAssert_k | split | dsimp only)

theorem execPorNDeassert_frame {pins : BootIn} {s : State} {tS : State}
    (sB : Blk.sub [.out, .now, .free, .glb, .cat, .dgst, .hif, .dma, .evr, .mnt, .boot] L = true)
    (qE : execPorNDeassert pins s = .next tS) :
    Keeps L s.dev tS.dev := by
  unfold execPorNDeassert at qE
  try dsimp only at qE
  repeat' (first | (cases qE; done) | split at qE)
  all_goals try cases qE
  all_goals with_reducible repeat' (first
      | exact Keeps.refl _ _ | exact Blk.le (by decide) sB | assumption | apply porDeassert_k | apply when_k | split
      | (apply Keeps.fstOf; assumption) | dsimp only)

theorem execBootPwrfailHoldEnd_frame {card : Option Image} {s : State} {tS : State}
    (sB : Blk.sub [.out, .free, .glb, .cat, .dgst, .hif, .dma, .evr, .mnt, .boot] L = true)
    (qE : execBootPwrfailHoldEnd card s = .next tS) :
    Keeps L s.dev tS.dev := by
  unfold execBootPwrfailHoldEnd at qE
  try dsimp only at qE
  repeat' (first | (cases qE; done) | split at qE)
  all_goals try cases qE
  all_goals with_reducible repeat' (first
      | exact Keeps.refl _ _ | exact Blk.le (by decide) sB | assumption | apply endHold_k | apply when_k | split
      | (apply Keeps.fstOf; assumption) | dsimp only)

theorem execPerstN_frame {s : State} {tS : State}
    (sB : Blk.sub [.out, .free, .glb, .regs, .sl, .lg, .pipes, .vault, .cat, .disk, .ciph, .dgst, .hif, .tango, .rdma, .repl,
      .bpm, .mca, .dma, .evr, .boot] L = true) (qE : execPerstN s = .next tS) :
    Keeps L s.dev tS.dev := by
  unfold execPerstN at qE
  try dsimp only at qE
  repeat' (first | (cases qE; done) | split at qE)
  all_goals try cases qE
  all_goals with_reducible repeat' (first
      | exact Keeps.refl _ _ | exact Blk.le (by decide) sB | assumption | apply perst_k | apply when_k | split
      | (apply Keeps.fstOf; assumption) | dsimp only)

theorem execFunctionLevelReset_frame {s : State} {tS : State}
    (sB : Blk.sub [.out, .free, .glb, .regs, .sl, .lg, .pipes, .vault, .cat, .disk, .ciph, .dgst, .hif, .tango, .rdma, .repl,
      .bpm, .mca, .dma, .evr, .boot] L = true) (qE : execFunctionLevelReset s = .next tS) :
    Keeps L s.dev tS.dev := by
  unfold execFunctionLevelReset at qE
  try dsimp only at qE
  repeat' (first | (cases qE; done) | split at qE)
  all_goals try cases qE
  all_goals with_reducible repeat' (first
      | exact Keeps.refl _ _ | exact Blk.le (by decide) sB | assumption | apply hostReset_k | apply when_k | split
      | (apply Keeps.fstOf; assumption) | dsimp only)

theorem execPwrfailN_frame {s : State} {tS : State}
    (sB : Blk.sub [.out, .glb, .vault, .cat, .ciph, .hif, .tango, .dma, .evr] L = true) (qE : execPwrfailN s = .next tS) :
    Keeps L s.dev tS.dev := by
  unfold execPwrfailN at qE
  try dsimp only at qE
  repeat' (first | (cases qE; done) | split at qE)
  all_goals try cases qE
  all_goals with_reducible repeat' (first
      | exact Keeps.refl _ _ | exact Blk.le (by decide) sB | assumption | apply onGlb_k | apply powerFail_k | apply when_k
      | split | (apply Keeps.fstOf; assumption) | dsimp only)

theorem execSupplyMonitorTrip_frame {_rail : Fin 3} {s : State} {tS : State}
    (sB : Blk.sub [.out, .glb, .vault, .cat, .ciph, .hif, .tango, .dma, .evr] L = true)
    (qE : execSupplyMonitorTrip _rail s = .next tS) :
    Keeps L s.dev tS.dev := by
  unfold execSupplyMonitorTrip at qE
  try dsimp only at qE
  repeat' (first | (cases qE; done) | split at qE)
  all_goals try cases qE
  all_goals with_reducible repeat' (first
      | exact Keeps.refl _ _ | exact Blk.le (by decide) sB | assumption | apply powerFail_k | apply when_k | split
      | (apply Keeps.fstOf; assumption) | dsimp only)

theorem execDumpFreeze_frame {s : State} {tS : State}
    (sB : Blk.sub [.out, .glb, .vault, .cat, .ciph, .hif, .tango, .dma, .evr] L = true) (qE : execDumpFreeze s = .next tS) :
    Keeps L s.dev tS.dev := by
  unfold execDumpFreeze at qE
  try dsimp only at qE
  repeat' (first | (cases qE; done) | split at qE)
  all_goals try cases qE
  all_goals with_reducible repeat' (first
      | exact Keeps.refl _ _ | exact Blk.le (by decide) sB | assumption | apply freezeJournal_k | apply when_k | split
      | (apply Keeps.fstOf; assumption) | dsimp only)

theorem execDumpBodiesDone_frame {s : State} {tS : State}
    (sB : Blk.sub [.out, .vault] L = true) (qE : execDumpBodiesDone s = .next tS) :
    Keeps L s.dev tS.dev := by
  unfold execDumpBodiesDone at qE
  try dsimp only at qE
  repeat' (first | (cases qE; done) | split at qE)
  all_goals try cases qE
  all_goals with_reducible repeat' (first
      | exact Keeps.refl _ _ | exact Blk.le (by decide) sB | assumption | apply writeHeaders_k | apply when_k | split
      | (apply Keeps.fstOf; assumption) | dsimp only)

theorem execDumpComplete_frame {s : State} {tS : State}
    (sB : Blk.sub [.out, .glb, .vault, .cat, .hif, .dma] L = true) (qE : execDumpComplete s = .next tS) :
    Keeps L s.dev tS.dev := by
  unfold execDumpComplete at qE
  try dsimp only at qE
  repeat' (first | (cases qE; done) | split at qE)
  all_goals try cases qE
  all_goals with_reducible repeat' (first
      | exact Keeps.refl _ _ | exact Blk.le (by decide) sB | assumption | apply endDump_k | apply when_k | split
      | (apply Keeps.fstOf; assumption) | dsimp only)

theorem execWatchdog_frame {core : Fin 4} {pc : W64} {s : State} {tS : State}
    (sB : Blk.sub [.out, .glb, .vault, .cat, .ciph, .dgst, .hif, .tango, .dma, .evr] L = true)
    (qE : execWatchdog core pc s = .next tS) :
    Keeps L s.dev tS.dev := by
  unfold execWatchdog at qE
  try dsimp only at qE
  repeat' (first | (cases qE; done) | split at qE)
  all_goals try cases qE
  all_goals with_reducible repeat' (first
      | exact Keeps.refl _ _ | exact Blk.le (by decide) sB | assumption | apply fatalStop_k | apply when_k | split
      | (apply Keeps.fstOf; assumption) | dsimp only)

theorem execCoreAccess_frame {core : Fin 4} {addr : W64} {s : State} {tS : State}
    (sB : Blk.sub [.out, .cat, .hif, .dma, .evr] L = true) (qE : execCoreAccess core addr s = .next tS) :
    Keeps L s.dev tS.dev := by
  unfold execCoreAccess at qE
  try dsimp only at qE
  repeat' (first | (cases qE; done) | split at qE)
  all_goals try cases qE
  all_goals with_reducible repeat' (first
      | exact Keeps.refl _ _ | exact Blk.le (by decide) sB | assumption | apply coreAccess_k | apply when_k | split
      | (apply Keeps.fstOf; assumption) | dsimp only)

theorem execNorPersist_frame {s : State} {tS : State} (sB : Blk.sub [.out, .evr] L = true) (qE : execNorPersist s = .next tS) :
    Keeps L s.dev tS.dev := by
  unfold execNorPersist at qE
  try dsimp only at qE
  repeat' (first | (cases qE; done) | split at qE)
  all_goals try cases qE
  all_goals with_reducible repeat' (first
      | exact Keeps.refl _ _ | exact Blk.le (by decide) sB | assumption | apply norPersist_k | apply when_k | split
      | (apply Keeps.fstOf; assumption) | dsimp only)

theorem execEvrTimeMark_frame {s : State} {tS : State}
    (sB : Blk.sub [.out, .cat, .hif, .dma, .evr] L = true) (qE : execEvrTimeMark s = .next tS) :
    Keeps L s.dev tS.dev := by
  unfold execEvrTimeMark at qE
  try dsimp only at qE
  repeat' (first | (cases qE; done) | split at qE)
  all_goals try cases qE
  all_goals with_reducible repeat' (first
      | exact Keeps.refl _ _ | exact Blk.le (by decide) sB | assumption | apply logEvent_k | apply when_k | split
      | (apply Keeps.fstOf; assumption) | dsimp only)

theorem execAuditTick_frame {s : State} {tS : State}
    (sB : Blk.sub [.out, .now, .free, .glb, .sl, .lg, .audit, .pipes, .vault, .cat, .ciph, .dgst, .hif, .tango, .ih, .bpm,
      .mca, .dma, .evr] L = true) (qE : execAuditTick s = .next tS) :
    Keeps L s.dev tS.dev := by
  unfold execAuditTick at qE
  try dsimp only at qE
  repeat' (first | (cases qE; done) | split at qE)
  all_goals try cases qE
  all_goals with_reducible repeat' (first
      | exact Keeps.refl _ _ | exact Blk.le (by decide) sB | assumption | apply auditTick_k | apply when_k | split
      | (apply Keeps.fstOf; assumption) | dsimp only)

theorem execTrainingFrame_frame {g : Fin 4} {lane : Fin 16} {control status : W32} {inverted : Bool} {s : State} {tS : State}
    (sB : Blk.sub [.out, .free, .sl, .lg, .pipes, .vault, .cat, .ciph, .dgst, .hif, .tango, .bpm, .mca, .dma, .evr] L = true)
    (qE : execTrainingFrame g lane control status inverted s = .next tS) :
    Keeps L s.dev tS.dev := by
  unfold execTrainingFrame at qE
  try dsimp only at qE
  repeat' (first | (cases qE; done) | split at qE)
  all_goals try cases qE
  all_goals with_reducible repeat' (first
      | exact Keeps.refl _ _ | exact Blk.le (by decide) sB | assumption | apply trainingFrame_k | apply when_k | split
      | (apply Keeps.fstOf; assumption) | dsimp only)

theorem execCodewordLock_frame {g : Fin 4} {s : State} {tS : State}
    (sB : Blk.sub [.out, .free, .sl] L = true) (qE : execCodewordLock g s = .next tS) :
    Keeps L s.dev tS.dev := by
  unfold execCodewordLock at qE
  try dsimp only at qE
  repeat' (first | (cases qE; done) | split at qE)
  all_goals try cases qE
  all_goals with_reducible repeat' (first
      | exact Keeps.refl _ _ | exact Blk.le (by decide) sB | assumption | apply codewordLock_k | apply when_k | split
      | (apply Keeps.fstOf; assumption) | dsimp only)

theorem execLinkUpTimeout_frame {g : Fin 4} {linkStep : Nat} {s : State} {tS : State}
    (sB : Blk.sub [.out, .free, .sl, .lg, .pipes, .vault, .cat, .ciph, .dgst, .hif, .tango, .bpm, .mca, .dma, .evr] L = true)
    (qE : execLinkUpTimeout g linkStep s = .next tS) :
    Keeps L s.dev tS.dev := by
  unfold execLinkUpTimeout at qE
  try dsimp only at qE
  repeat' (first | (cases qE; done) | split at qE)
  all_goals try cases qE
  all_goals with_reducible repeat' (first
      | exact Keeps.refl _ _ | exact Blk.le (by decide) sB | assumption | apply failAttempt_k | apply when_k | split
      | (apply Keeps.fstOf; assumption) | dsimp only)

theorem execCapOffer_frame {g : Fin 4} {p : Packet} {s : State} {tS : State}
    (sB : Blk.sub [.out, .free, .glb, .sl, .lg, .pipes, .vault, .cat, .ciph, .dgst, .hif, .tango, .bpm, .mca, .dma,
      .evr] L = true) (qE : execCapOffer g p s = .next tS) :
    Keeps L s.dev tS.dev := by
  unfold execCapOffer at qE
  try dsimp only at qE
  repeat' (first | (cases qE; done) | split at qE)
  all_goals try cases qE
  all_goals with_reducible repeat' (first
      | exact Keeps.refl _ _ | exact Blk.le (by decide) sB | assumption | apply checked_k | intro _ _
      | apply receiveAsRecorder_k | apply when_k | split | (apply Keeps.fstOf; assumption) | dsimp only)

theorem execCapGrant_frame {g : Fin 4} {p : Packet} {s : State} {tS : State}
    (sB : Blk.sub [.out, .free, .glb, .sl, .lg, .pipes, .vault, .cat, .ciph, .hif, .tango, .bpm, .mca, .dma, .evr] L = true)
    (qE : execCapGrant g p s = .next tS) :
    Keeps L s.dev tS.dev := by
  unfold execCapGrant at qE
  try dsimp only at qE
  repeat' (first | (cases qE; done) | split at qE)
  all_goals try cases qE
  all_goals with_reducible repeat' (first
      | exact Keeps.refl _ _ | exact Blk.le (by decide) sB | assumption | apply checked_k | intro _ _
      | apply receiveAsPlayer_k | apply when_k | split | (apply Keeps.fstOf; assumption) | dsimp only)

theorem execCapOfferRepeat_frame {g : Fin 4} {s : State} {tS : State}
    (sB : Blk.sub [.out, .free, .sl] L = true) (qE : execCapOfferRepeat g s = .next tS) :
    Keeps L s.dev tS.dev := by
  unfold execCapOfferRepeat at qE
  try dsimp only at qE
  repeat' (first | (cases qE; done) | split at qE)
  all_goals try cases qE
  all_goals with_reducible repeat' (first
      | exact Keeps.refl _ _ | exact Blk.le (by decide) sB | assumption | apply sendOffer_k | apply when_k | split
      | (apply Keeps.fstOf; assumption) | dsimp only)

theorem execPacketReceive_frame {g : Fin 4} {p : Packet} {s : State} {tS : State}
    (sB : Blk.sub [.out, .free, .glb, .sl, .lg, .pipes, .vault, .cat, .ciph, .dgst, .hif, .tango, .bpm, .mca, .dma,
      .evr] L = true) (qE : execPacketReceive g p s = .next tS) :
    Keeps L s.dev tS.dev := by
  unfold execPacketReceive at qE
  try dsimp only at qE
  repeat' (first | (cases qE; done) | split at qE)
  all_goals try cases qE
  all_goals with_reducible repeat' (first
      | exact Keeps.refl _ _ | exact Blk.le (by decide) sB | assumption | apply checked_k | intro _ _
      | apply receiveAsPlayer_k | apply receiveAsRecorder_k | apply when_k | split | (apply Keeps.fstOf; assumption)
      | dsimp only)

theorem execUncorrectableCodeword_frame {g : Fin 4} {lane : Fin 16} {j : Nat} {rx : List Nat} {s : State} {tS : State}
    (sB : Blk.sub [.sl] L = true) (qE : execUncorrectableCodeword g lane j rx s = .next tS) :
    Keeps L s.dev tS.dev := by
  unfold execUncorrectableCodeword at qE
  try dsimp only at qE
  repeat' (first | (cases qE; done) | split at qE)
  all_goals try cases qE
  all_goals with_reducible repeat' (first
      | exact Keeps.refl _ _ | exact Blk.le (by decide) sB | assumption | apply inCodeword_k | apply when_k | split
      | (apply Keeps.fstOf; assumption) | dsimp only)

theorem execFecRetrain_frame {g : Fin 4} {lane : Fin 16} {s : State} {tS : State}
    (sB : Blk.sub [.out, .free, .sl, .lg, .pipes, .vault, .cat, .ciph, .dgst, .hif, .tango, .bpm, .mca, .dma, .evr] L = true)
    (qE : execFecRetrain g lane s = .next tS) :
    Keeps L s.dev tS.dev := by
  unfold execFecRetrain at qE
  try dsimp only at qE
  repeat' (first | (cases qE; done) | split at qE)
  all_goals try cases qE
  all_goals with_reducible repeat' (first
      | exact Keeps.refl _ _ | exact Blk.le (by decide) sB | assumption | apply fecRetrain_k | apply when_k | split
      | (apply Keeps.fstOf; assumption) | dsimp only)

theorem execHdrCrcRetrain_frame {g : Fin 4} {s : State} {tS : State}
    (sB : Blk.sub [.out, .free, .sl, .lg, .pipes, .vault, .cat, .ciph, .dgst, .hif, .tango, .bpm, .mca, .dma, .evr] L = true)
    (qE : execHdrCrcRetrain g s = .next tS) :
    Keeps L s.dev tS.dev := by
  unfold execHdrCrcRetrain at qE
  try dsimp only at qE
  repeat' (first | (cases qE; done) | split at qE)
  all_goals try cases qE
  all_goals with_reducible repeat' (first
      | exact Keeps.refl _ _ | exact Blk.le (by decide) sB | assumption | apply retrainIf_k | apply when_k | split
      | (apply Keeps.fstOf; assumption) | dsimp only)

theorem execLossOfSignal_frame {g : Fin 4} {lane : Fin 16} {s : State} {tS : State}
    (sB : Blk.sub [.out, .free, .sl, .lg, .pipes, .vault, .cat, .ciph, .dgst, .hif, .tango, .bpm, .mca, .dma, .evr] L = true)
    (qE : execLossOfSignal g lane s = .next tS) :
    Keeps L s.dev tS.dev := by
  unfold execLossOfSignal at qE
  try dsimp only at qE
  repeat' (first | (cases qE; done) | split at qE)
  all_goals try cases qE
  all_goals with_reducible repeat' (first
      | exact Keeps.refl _ _ | exact Blk.le (by decide) sB | assumption | apply retrainIf_k | apply when_k | split
      | (apply Keeps.fstOf; assumption) | dsimp only)

theorem execCapTimeout_frame {g : Fin 4} {s : State} {tS : State}
    (sB : Blk.sub [.out, .free, .sl, .lg, .pipes, .vault, .cat, .ciph, .dgst, .hif, .tango, .bpm, .mca, .dma, .evr] L = true)
    (qE : execCapTimeout g s = .next tS) :
    Keeps L s.dev tS.dev := by
  unfold execCapTimeout at qE
  try dsimp only at qE
  repeat' (first | (cases qE; done) | split at qE)
  all_goals try cases qE
  all_goals with_reducible repeat' (first
      | exact Keeps.refl _ _ | exact Blk.le (by decide) sB | assumption | apply failAttempt_k | apply when_k | split
      | (apply Keeps.fstOf; assumption) | dsimp only)

theorem execCreditThreshold_frame {g : Fin 4} {s : State} {tS : State}
    (sB : Blk.sub [.out, .sl] L = true) (qE : execCreditThreshold g s = .next tS) :
    Keeps L s.dev tS.dev := by
  unfold execCreditThreshold at qE
  try dsimp only at qE
  repeat' (first | (cases qE; done) | split at qE)
  all_goals try cases qE
  all_goals with_reducible repeat' (first
      | exact Keeps.refl _ _ | exact Blk.le (by decide) sB | assumption | apply sendCredit_k | apply when_k | split
      | (apply Keeps.fstOf; assumption) | dsimp only)

theorem execCreditDelay_frame {g : Fin 4} {s : State} {tS : State}
    (sB : Blk.sub [.out, .sl] L = true) (qE : execCreditDelay g s = .next tS) :
    Keeps L s.dev tS.dev := by
  unfold execCreditDelay at qE
  try dsimp only at qE
  repeat' (first | (cases qE; done) | split at qE)
  all_goals try cases qE
  all_goals with_reducible repeat' (first
      | exact Keeps.refl _ _ | exact Blk.le (by decide) sB | assumption | apply sendCredit_k | apply when_k | split
      | (apply Keeps.fstOf; assumption) | dsimp only)

theorem execCreditKeepalive_frame {g : Fin 4} {s : State} {tS : State}
    (sB : Blk.sub [.out, .sl] L = true) (qE : execCreditKeepalive g s = .next tS) :
    Keeps L s.dev tS.dev := by
  unfold execCreditKeepalive at qE
  try dsimp only at qE
  repeat' (first | (cases qE; done) | split at qE)
  all_goals try cases qE
  all_goals with_reducible repeat' (first
      | exact Keeps.refl _ _ | exact Blk.le (by decide) sB | assumption | apply sendCredit_k | apply when_k | split
      | (apply Keeps.fstOf; assumption) | dsimp only)

theorem execCredit_frame {g : Fin 4} {p : Packet} {s : State} {tS : State}
    (sB : Blk.sub [.out, .free, .glb, .sl, .lg, .pipes, .vault, .cat, .ciph, .hif, .tango, .bpm, .mca, .dma, .evr] L = true)
    (qE : execCredit g p s = .next tS) :
    Keeps L s.dev tS.dev := by
  unfold execCredit at qE
  try dsimp only at qE
  repeat' (first | (cases qE; done) | split at qE)
  all_goals try cases qE
  all_goals with_reducible repeat' (first
      | exact Keeps.refl _ _ | exact Blk.le (by decide) sB | assumption | apply checked_k | intro _ _
      | apply receiveAsPlayer_k | apply when_k | split | (apply Keeps.fstOf; assumption) | dsimp only)

theorem execStopReqRepeat_frame {g : Fin 4} {s : State} {tS : State}
    (sB : Blk.sub [.out, .sl] L = true) (qE : execStopReqRepeat g s = .next tS) :
    Keeps L s.dev tS.dev := by
  unfold execStopReqRepeat at qE
  try dsimp only at qE
  repeat' (first | (cases qE; done) | split at qE)
  all_goals try cases qE
  all_goals with_reducible repeat' (first
      | exact Keeps.refl _ _ | exact Blk.le (by decide) sB | assumption | apply stopRepeat_k | apply when_k | split
      | (apply Keeps.fstOf; assumption) | dsimp only)

theorem execStopDone_frame {g : Fin 4} {p : Packet} {s : State} {tS : State}
    (sB : Blk.sub [.out, .free, .glb, .sl, .lg, .pipes, .vault, .cat, .ciph, .dgst, .hif, .tango, .bpm, .mca, .dma,
      .evr] L = true) (qE : execStopDone g p s = .next tS) :
    Keeps L s.dev tS.dev := by
  unfold execStopDone at qE
  try dsimp only at qE
  repeat' (first | (cases qE; done) | split at qE)
  all_goals try cases qE
  all_goals with_reducible repeat' (first
      | exact Keeps.refl _ _ | exact Blk.le (by decide) sB | assumption | apply checked_k | intro _ _
      | apply receiveAsRecorder_k | apply when_k | split | (apply Keeps.fstOf; assumption) | dsimp only)

theorem execStopTimeout_frame {g : Fin 4} {s : State} {tS : State}
    (sB : Blk.sub [.out, .free, .sl, .lg, .pipes, .vault, .cat, .ciph, .dgst, .hif, .tango, .bpm, .mca, .dma, .evr] L = true)
    (qE : execStopTimeout g s = .next tS) :
    Keeps L s.dev tS.dev := by
  unfold execStopTimeout at qE
  try dsimp only at qE
  repeat' (first | (cases qE; done) | split at qE)
  all_goals try cases qE
  all_goals with_reducible repeat' (first
      | exact Keeps.refl _ _ | exact Blk.le (by decide) sB | assumption | apply stopTimeout_k | apply when_k | split
      | (apply Keeps.fstOf; assumption) | dsimp only)

theorem execStopReq_frame {g : Fin 4} {p : Packet} {s : State} {tS : State}
    (sB : Blk.sub [.out, .free, .glb, .sl, .lg, .pipes, .vault, .cat, .ciph, .hif, .tango, .bpm, .mca, .dma, .evr] L = true)
    (qE : execStopReq g p s = .next tS) :
    Keeps L s.dev tS.dev := by
  unfold execStopReq at qE
  try dsimp only at qE
  repeat' (first | (cases qE; done) | split at qE)
  all_goals try cases qE
  all_goals with_reducible repeat' (first
      | exact Keeps.refl _ _ | exact Blk.le (by decide) sB | assumption | apply checked_k | intro _ _
      | apply receiveAsPlayer_k | apply when_k | split | (apply Keeps.fstOf; assumption) | dsimp only)

theorem execRoleChangeApply_frame {s : State} {tS : State}
    (sB : Blk.sub [.out, .free, .sl, .lg, .pipes, .vault, .cat, .ciph, .dgst, .hif, .tango, .bpm, .mca, .dma, .evr] L = true)
    (qE : execRoleChangeApply s = .next tS) :
    Keeps L s.dev tS.dev := by
  unfold execRoleChangeApply at qE
  try dsimp only at qE
  repeat' (first | (cases qE; done) | split at qE)
  all_goals try cases qE
  all_goals with_reducible repeat' (first
      | exact Keeps.refl _ _ | exact Blk.le (by decide) sB | assumption | apply applyRole_k | apply when_k | split
      | (apply Keeps.fstOf; assumption) | dsimp only)

theorem execMoverCopy_frame {g : Fin 4} {s : State} {tS : State}
    (sB : Blk.sub [.out, .free, .sl, .lg, .pipes, .vault, .cat, .ciph, .dgst, .hif, .tango, .bpm, .mca, .dma, .evr] L = true)
    (qE : execMoverCopy g s = .next tS) :
    Keeps L s.dev tS.dev := by
  unfold execMoverCopy at qE
  try dsimp only at qE
  repeat' (first | (cases qE; done) | split at qE)
  all_goals try cases qE
  all_goals with_reducible repeat' (first
      | exact Keeps.refl _ _ | exact Blk.le (by decide) sB | assumption | apply moveSlot_k | apply when_k | split
      | (apply Keeps.fstOf; assumption) | dsimp only)

theorem execHealRepeat_frame {g : Fin 4} {s : State} {tS : State}
    (sB : Blk.sub [.out, .lg, .cat, .ciph, .hif, .tango, .dma, .evr] L = true) (qE : execHealRepeat g s = .next tS) :
    Keeps L s.dev tS.dev := by
  unfold execHealRepeat at qE
  try dsimp only at qE
  repeat' (first | (cases qE; done) | split at qE)
  all_goals try cases qE
  all_goals with_reducible repeat' (first
      | exact Keeps.refl _ _ | exact Blk.le (by decide) sB | assumption | apply healRepeat_k | apply when_k | split
      | (apply Keeps.fstOf; assumption) | dsimp only)

theorem execHealDeadline_frame {g : Fin 4} {s : State} {tS : State}
    (sB : Blk.sub [.out, .free, .sl, .lg, .pipes, .vault, .cat, .ciph, .dgst, .hif, .tango, .bpm, .mca, .dma, .evr] L = true)
    (qE : execHealDeadline g s = .next tS) :
    Keeps L s.dev tS.dev := by
  unfold execHealDeadline at qE
  try dsimp only at qE
  repeat' (first | (cases qE; done) | split at qE)
  all_goals try cases qE
  all_goals with_reducible repeat' (first
      | exact Keeps.refl _ _ | exact Blk.le (by decide) sB | assumption | apply healDeadline_k | apply when_k | split
      | (apply Keeps.fstOf; assumption) | dsimp only)

theorem execTileEncode_frame {g : Fin 4} {s : State} {tS : State}
    (sB : Blk.sub [.out, .free, .sl, .lg, .pipes, .vault, .cat, .ciph, .dgst, .hif, .tango, .ih, .bpm, .mca, .dma,
      .evr] L = true) (qE : execTileEncode g s = .next tS) :
    Keeps L s.dev tS.dev := by
  unfold execTileEncode at qE
  try dsimp only at qE
  repeat' (first | (cases qE; done) | split at qE)
  all_goals try cases qE
  all_goals with_reducible repeat' (first
      | apply syncHot_k | apply cacheRead_k | exact Keeps.refl _ _ | exact Blk.le (by decide) sB | assumption
      | apply encodeTile_k | apply tryCut_k | split | dsimp only)

theorem execReferenceSealTimer_frame {g : Fin 4} {s : State} {tS : State}
    (sB : Blk.sub [.free, .pipes, .vault, .cat, .ciph] L = true) (qE : execReferenceSealTimer g s = .next tS) :
    Keeps L s.dev tS.dev := by
  unfold execReferenceSealTimer at qE
  try dsimp only at qE
  repeat' (first | (cases qE; done) | split at qE)
  all_goals try cases qE
  all_goals with_reducible repeat' (first
      | exact Keeps.refl _ _ | exact Blk.le (by decide) sB | assumption | apply referenceSeal_k | apply when_k | split
      | (apply Keeps.fstOf; assumption) | dsimp only)

theorem execReferenceSealCount_frame {g : Fin 4} {s : State} {tS : State}
    (sB : Blk.sub [.free, .pipes, .vault, .cat, .ciph] L = true) (qE : execReferenceSealCount g s = .next tS) :
    Keeps L s.dev tS.dev := by
  unfold execReferenceSealCount at qE
  try dsimp only at qE
  repeat' (first | (cases qE; done) | split at qE)
  all_goals try cases qE
  all_goals with_reducible repeat' (first
      | exact Keeps.refl _ _ | exact Blk.le (by decide) sB | assumption | apply referenceSeal_k | apply when_k | split
      | (apply Keeps.fstOf; assumption) | dsimp only)

theorem execStripeIssue_frame {s : State} {tS : State}
    (sB : Blk.sub [.out, .vault, .cat, .ciph, .hif, .tango, .mca, .dma, .evr] L = true) (qE : execStripeIssue s = .next tS) :
    Keeps L s.dev tS.dev := by
  unfold execStripeIssue at qE
  try dsimp only at qE
  repeat' (first | (cases qE; done) | split at qE)
  all_goals try cases qE
  all_goals with_reducible repeat' (first
      | exact Keeps.refl _ _ | exact Blk.le (by decide) sB | assumption | apply issueNext_k | apply when_k | split
      | (apply Keeps.fstOf; assumption) | dsimp only)

theorem execStripWriteComplete_frame {jseq member : Nat} {s : State} {tS : State}
    (sB : Blk.sub [.out, .free, .sl, .lg, .pipes, .vault, .vcnt, .cat, .disk, .ciph, .dgst, .hif, .tango, .ih, .repl, .bpm,
      .mca, .dma, .evr] L = true) (qE : execStripWriteComplete jseq member s = .next tS) :
    Keeps L s.dev tS.dev := by
  unfold execStripWriteComplete at qE
  try dsimp only at qE
  repeat' (first | (cases qE; done) | split at qE)
  all_goals try cases qE
  all_goals with_reducible repeat' (first
      | exact Keeps.refl _ _ | exact Blk.le (by decide) sB | assumption | apply stripDone_k | apply when_k | split
      | (apply Keeps.fstOf; assumption) | dsimp only)

theorem execStripWriteFail_frame {jseq member : Nat} {status : W32} {s : State} {tS : State}
    (sB : Blk.sub [.out, .free, .vault, .cat, .ciph, .hif, .tango, .mca, .dma, .evr] L = true)
    (qE : execStripWriteFail jseq member status s = .next tS) :
    Keeps L s.dev tS.dev := by
  unfold execStripWriteFail at qE
  try dsimp only at qE
  repeat' (first | (cases qE; done) | split at qE)
  all_goals try cases qE
  all_goals with_reducible repeat' (first
      | exact Keeps.refl _ _ | exact Blk.le (by decide) sB | assumption | apply stripFail_k | apply when_k | split
      | (apply Keeps.fstOf; assumption) | dsimp only)

theorem execMemberLag_frame {jseq member : Nat} {s : State} {tS : State}
    (sB : Blk.sub [.out, .free, .vault, .vcnt, .cat, .ciph, .hif, .tango, .mca, .dma, .evr] L = true)
    (qE : execMemberLag jseq member s = .next tS) :
    Keeps L s.dev tS.dev := by
  unfold execMemberLag at qE
  try dsimp only at qE
  repeat' (first | (cases qE; done) | split at qE)
  all_goals try cases qE
  all_goals with_reducible repeat' (first
      | exact Keeps.refl _ _ | exact Blk.le (by decide) sB | assumption | apply memberLag_k | apply when_k | split
      | (apply Keeps.fstOf; assumption) | dsimp only)

theorem execLagFailTimer_frame {jseq member : Nat} {s : State} {tS : State}
    (sB : Blk.sub [.out, .free, .vault, .cat, .ciph, .hif, .tango, .mca, .dma, .evr] L = true)
    (qE : execLagFailTimer jseq member s = .next tS) :
    Keeps L s.dev tS.dev := by
  unfold execLagFailTimer at qE
  try dsimp only at qE
  repeat' (first | (cases qE; done) | split at qE)
  all_goals try cases qE
  all_goals with_reducible repeat' (first
      | exact Keeps.refl _ _ | exact Blk.le (by decide) sB | assumption | apply lagFail_k | apply when_k | split
      | (apply Keeps.fstOf; assumption) | dsimp only)

theorem execReservationConflict_frame {jseq member : Nat} {s : State} {tS : State}
    (sB : Blk.sub [.out, .free, .lg, .pipes, .vault, .cat, .ciph, .dgst, .hif, .tango, .ih, .repl, .bpm, .dma, .evr] L = true)
    (qE : execReservationConflict jseq member s = .next tS) :
    Keeps L s.dev tS.dev := by
  unfold execReservationConflict at qE
  try dsimp only at qE
  repeat' (first | (cases qE; done) | split at qE)
  all_goals try cases qE
  all_goals with_reducible repeat' (first
      | exact Keeps.refl _ _ | exact Blk.le (by decide) sB | assumption | apply conflict_k | apply when_k | split
      | (apply Keeps.fstOf; assumption) | dsimp only)

theorem execConflictHoldTimer_frame {slot : Nat} {s : State} {tS : State}
    (sB : Blk.sub [.out, .free, .vault, .cat, .ciph, .hif, .tango, .mca, .dma, .evr] L = true)
    (qE : execConflictHoldTimer slot s = .next tS) :
    Keeps L s.dev tS.dev := by
  unfold execConflictHoldTimer at qE
  try dsimp only at qE
  repeat' (first | (cases qE; done) | split at qE)
  all_goals try cases qE
  all_goals with_reducible repeat' (first
      | exact Keeps.refl _ _ | exact Blk.le (by decide) sB | assumption | apply conflictHold_k | apply when_k | split
      | (apply Keeps.fstOf; assumption) | dsimp only)

theorem execDriveLinkLoss_frame {slot : Nat} {s : State} {tS : State}
    (sB : Blk.sub [.out, .free, .vault, .cat, .ciph, .hif, .tango, .mca, .dma, .evr] L = true)
    (qE : execDriveLinkLoss slot s = .next tS) :
    Keeps L s.dev tS.dev := by
  unfold execDriveLinkLoss at qE
  try dsimp only at qE
  repeat' (first | (cases qE; done) | split at qE)
  all_goals try cases qE
  all_goals with_reducible repeat' (first
      | exact Keeps.refl _ _ | exact Blk.le (by decide) sB | assumption | apply linkLoss_k | apply when_k | split
      | (apply Keeps.fstOf; assumption) | dsimp only)

theorem execDriveCriticalWarning_frame {slot : Nat} {s : State} {tS : State}
    (sB : Blk.sub [.out, .free, .vault, .cat, .ciph, .hif, .tango, .mca, .dma, .evr] L = true)
    (qE : execDriveCriticalWarning slot s = .next tS) :
    Keeps L s.dev tS.dev := by
  unfold execDriveCriticalWarning at qE
  try dsimp only at qE
  repeat' (first | (cases qE; done) | split at qE)
  all_goals try cases qE
  all_goals with_reducible repeat' (first
      | exact Keeps.refl _ _ | exact Blk.le (by decide) sB | assumption | apply failDrive_k | apply when_k | split
      | (apply Keeps.fstOf; assumption) | dsimp only)

theorem execDriveReadComplete_frame {chan : Nat} {cols : List (List SecRead)} {s : State} {tS : State}
    (sB : Blk.sub [.out, .free, .sl, .pipes, .vault, .vcnt, .cat, .ciph, .dgst, .hif, .tango, .rcnt, .repl, .bpm, .mca, .dma,
      .evr] L = true) (qE : execDriveReadComplete chan cols s = .next tS) :
    Keeps L s.dev tS.dev := by
  unfold execDriveReadComplete at qE
  try dsimp only at qE
  repeat' (first | (cases qE; done) | split at qE)
  all_goals try cases qE
  all_goals with_reducible repeat' (first
      | exact Keeps.refl _ _ | exact Blk.le (by decide) sB | assumption | apply tileArrived_k | apply when_k | split
      | (apply Keeps.fstOf; assumption) | dsimp only)

theorem execWriteBack_frame {slot lba : Nat} {ok : Bool} {s : State} {tS : State}
    (sB : Blk.sub [.out, .free, .vault, .vcnt, .cat, .ciph, .hif, .tango, .mca, .dma, .evr] L = true)
    (qE : execWriteBack slot lba ok s = .next tS) :
    Keeps L s.dev tS.dev := by
  unfold execWriteBack at qE
  try dsimp only at qE
  repeat' (first | (cases qE; done) | split at qE)
  all_goals try cases qE
  all_goals with_reducible repeat' (first
      | exact Keeps.refl _ _ | exact Blk.le (by decide) sB | assumption | apply maintain_k | intro _ _ | apply writeBack_k
      | apply when_k | split | (apply Keeps.fstOf; assumption) | dsimp only)

theorem execScrubStripe_frame {r : StripeIn} {s : State} {tS : State}
    (sB : Blk.sub [.out, .vault, .vcnt, .cat, .disk, .ciph, .hif, .tango, .mca, .dma, .evr] L = true)
    (qE : execScrubStripe r s = .next tS) :
    Keeps L s.dev tS.dev := by
  unfold execScrubStripe at qE
  try dsimp only at qE
  repeat' (first | (cases qE; done) | split at qE)
  all_goals try cases qE
  all_goals with_reducible repeat' (first
      | exact Keeps.refl _ _ | exact Blk.le (by decide) sB | assumption | apply scrubStripe_k | apply when_k | split
      | (apply Keeps.fstOf; assumption) | dsimp only)

theorem execRebuildStripe_frame {r : StripeIn} {s : State} {tS : State}
    (sB : Blk.sub [.out, .vault, .vcnt, .cat, .disk, .ciph, .hif, .tango, .mca, .dma, .evr] L = true)
    (qE : execRebuildStripe r s = .next tS) :
    Keeps L s.dev tS.dev := by
  unfold execRebuildStripe at qE
  try dsimp only at qE
  repeat' (first | (cases qE; done) | split at qE)
  all_goals try cases qE
  all_goals with_reducible repeat' (first
      | exact Keeps.refl _ _ | exact Blk.le (by decide) sB | assumption | apply rebuildNext_k | apply when_k | split
      | (apply Keeps.fstOf; assumption) | dsimp only)

theorem execCopyBackChunk_frame {slot chunk : Nat} {members : List (List SecRead)} {s : State} {tS : State}
    (sB : Blk.sub [.out, .vault, .vcnt, .cat, .ciph, .hif, .tango, .mca, .dma, .evr] L = true)
    (qE : execCopyBackChunk slot chunk members s = .next tS) :
    Keeps L s.dev tS.dev := by
  unfold execCopyBackChunk at qE
  try dsimp only at qE
  repeat' (first | (cases qE; done) | split at qE)
  all_goals try cases qE
  all_goals with_reducible repeat' (first
      | exact Keeps.refl _ _ | exact Blk.le (by decide) sB | assumption | apply copyBack_k | apply when_k | split
      | (apply Keeps.fstOf; assumption) | dsimp only)

theorem execReshapeBatch_frame {reads : List StripeIn} {s : State} {tS : State}
    (sB : Blk.sub [.out, .free, .vault, .vcnt, .cat, .disk, .ciph, .hif, .tango, .bpm, .mca, .dma, .evr] L = true)
    (qE : execReshapeBatch reads s = .next tS) :
    Keeps L s.dev tS.dev := by
  unfold execReshapeBatch at qE
  try dsimp only at qE
  repeat' (first | (cases qE; done) | split at qE)
  all_goals try cases qE
  all_goals with_reducible repeat' (first
      | exact Keeps.refl _ _ | exact Blk.le (by decide) sB | assumption | apply reshapeBatch_k | apply when_k | split
      | (apply Keeps.fstOf; assumption) | dsimp only)

theorem execMetadataCommit_frame {s : State} {tS : State}
    (sB : Blk.sub [.out, .free, .pipes, .vault, .cat, .ciph, .dgst, .hif, .tango, .bpm, .mca, .dma, .evr] L = true)
    (qE : execMetadataCommit s = .next tS) :
    Keeps L s.dev tS.dev := by
  unfold execMetadataCommit at qE
  try dsimp only at qE
  repeat' (first | (cases qE; done) | split at qE)
  all_goals try cases qE
  all_goals with_reducible repeat' (first
      | exact Keeps.refl _ _ | exact Blk.le (by decide) sB | assumption | apply advanceTakes_k | apply startCommit_k
      | apply when_k | split | (apply Keeps.fstOf; assumption) | dsimp only)

theorem execAlloc_frame {pool : Nat} {ledger : Bool} {s : State} {tS : State}
    (sB : Blk.sub [.out, .bpm] L = true) (qE : execAlloc pool ledger s = .next tS) :
    Keeps L s.dev tS.dev := by
  unfold execAlloc at qE
  try dsimp only at qE
  repeat' (first | (cases qE; done) | split at qE)
  all_goals try cases qE
  all_goals with_reducible repeat' (first
      | exact Keeps.refl _ _ | exact Blk.le (by decide) sB | assumption | apply allocCmd_k | apply when_k | split
      | (apply Keeps.fstOf; assumption) | dsimp only)

theorem execFree_frame {pool index : Nat} {ledger : Bool} {s : State} {tS : State}
    (sB : Blk.sub [.out, .bpm] L = true) (qE : execFree pool index ledger s = .next tS) :
    Keeps L s.dev tS.dev := by
  unfold execFree at qE
  try dsimp only at qE
  repeat' (first | (cases qE; done) | split at qE)
  all_goals try cases qE
  all_goals with_reducible repeat' (first
      | exact Keeps.refl _ _ | exact Blk.le (by decide) sB | assumption | apply freeCmd_k | apply when_k | split
      | (apply Keeps.fstOf; assumption) | dsimp only)

theorem execPop_frame {pool : Nat} {_ledger : Bool} {s : State} {tS : State}
    (sB : Blk.sub [.out] L = true) (qE : execPop pool _ledger s = .next tS) :
    Keeps L s.dev tS.dev := by
  unfold execPop at qE
  try dsimp only at qE
  repeat' (first | (cases qE; done) | split at qE)
  all_goals try cases qE
  all_goals with_reducible repeat' (first
      | exact Keeps.refl _ _ | exact Blk.le (by decide) sB | assumption | apply popCmd_k | apply when_k | split
      | (apply Keeps.fstOf; assumption) | dsimp only)

theorem execHbmUncorrectable_frame {addr : Nat} {holder : HbmHolder} {s : State} {tS : State}
    (sB : Blk.sub [.out, .free, .glb, .sl, .lg, .pipes, .vault, .cat, .ciph, .dgst, .hif, .tango, .rdma, .repl, .bpm, .mca,
      .dma, .evr] L = true) (qE : execHbmUncorrectable addr holder s = .next tS) :
    Keeps L s.dev tS.dev := by
  unfold execHbmUncorrectable at qE
  cases qE
  exact liveState_k (fun x k => hbmPoison_k sB k) (Blk.le (by decide) sB) (Keeps.refl _ _)

theorem execPatrolRead_frame {err : List Byte} {onDie : Bool} {holder : HbmHolder} {s : State} {tS : State}
    (sB : Blk.sub [.out, .free, .glb, .sl, .lg, .pipes, .vault, .cat, .ciph, .dgst, .hif, .tango, .rdma, .repl, .bpm, .mca,
      .dma, .evr] L = true) (qE : execPatrolRead err onDie holder s = .next tS) :
    Keeps L s.dev tS.dev := by
  unfold execPatrolRead at qE
  cases qE
  exact liveState_k (fun x k => patrolRead_k sB k) (Blk.le (by decide) sB) (Keeps.refl _ _)

theorem execCacheParityError_frame {set : Fin 8192} {way : Fin 16} {err : ParityErr} {s : State} {tS : State}
    (sB : Blk.sub [.out, .free, .glb, .vault, .cat, .ciph, .dgst, .hif, .tango, .mca, .dma, .evr] L = true)
    (qE : execCacheParityError set way err s = .next tS) :
    Keeps L s.dev tS.dev := by
  unfold execCacheParityError at qE
  cases qE
  exact liveState_k (fun x k => parityError_k (Blk.le (by decide) sB) k) (Blk.le (by decide) sB) (Keeps.refl _ _)

theorem execCacheParityLimit_frame {s : State} {tS : State}
    (sB : Blk.sub [.out, .cat, .hif, .mca, .dma, .evr] L = true) (qE : execCacheParityLimit s = .next tS) :
    Keeps L s.dev tS.dev := by
  unfold execCacheParityLimit at qE
  try dsimp only at qE
  repeat' (first | (cases qE; done) | split at qE)
  all_goals try cases qE
  all_goals with_reducible repeat' (first
      | exact Keeps.refl _ _ | exact Blk.le (by decide) sB | assumption | apply parityLimit_k | apply when_k | split
      | (apply Keeps.fstOf; assumption) | dsimp only)

theorem execWriteBufferDrain_frame {s : State} {tS : State}
    (sB : Blk.sub [.out, .free, .mca] L = true) (qE : execWriteBufferDrain s = .next tS) :
    Keeps L s.dev tS.dev := by
  unfold execWriteBufferDrain at qE
  cases qE
  exact liveState_k (fun x k => drainOne_k (Blk.le (by decide) sB) k) sB (Keeps.refl _ _)

theorem execBarrier_frame {_journal : Bool} {s : State} {tS : State}
    (sB : Blk.sub [.out, .mca] L = true) (qE : execBarrier _journal s = .next tS) :
    Keeps L s.dev tS.dev := by
  unfold execBarrier at qE
  try dsimp only at qE
  repeat' (first | (cases qE; done) | split at qE)
  all_goals try cases qE
  all_goals with_reducible repeat' (first
      | exact Keeps.refl _ _ | exact Blk.le (by decide) sB | assumption | apply barrierCmd_k | apply when_k | split
      | (apply Keeps.fstOf; assumption) | dsimp only)

theorem execClean_frame {addr : Nat} {s : State} {tS : State}
    (sB : Blk.sub [.out, .free, .mca] L = true) (qE : execClean addr s = .next tS) :
    Keeps L s.dev tS.dev := by
  unfold execClean at qE
  split at qE <;> cases qE
  exact liveState_k (fun x k => maintDone_k (Blk.le (by decide) sB) (cleanLines_k (Blk.le (by decide) sB) k)) sB (Keeps.refl _ _)

theorem execInval_frame {addr : Nat} {s : State} {tS : State}
    (sB : Blk.sub [.out, .free, .mca] L = true) (qE : execInval addr s = .next tS) :
    Keeps L s.dev tS.dev := by
  unfold execInval at qE
  split at qE <;> cases qE
  refine liveState_k (fun x k => maintDone_k (Blk.le (by decide) sB) ?_) sB (Keeps.refl _ _)
  split
  · exact cleanLines_k (Blk.le (by decide) sB) k
  · exact dropLines_k (Blk.le (by decide) sB) k

theorem execCleanInval_frame {addr : Nat} {s : State} {tS : State}
    (sB : Blk.sub [.out, .free, .mca] L = true) (qE : execCleanInval addr s = .next tS) :
    Keeps L s.dev tS.dev := by
  unfold execCleanInval at qE
  split at qE <;> cases qE
  exact liveState_k (fun x k => maintDone_k (Blk.le (by decide) sB) (dropLines_k (Blk.le (by decide) sB) (cleanLines_k (Blk.le (by decide) sB) k))) sB (Keeps.refl _ _)

theorem execCleanRegion_frame {entry : Fin 64} {s : State} {tS : State}
    (sB : Blk.sub [.out, .free, .mca] L = true) (qE : execCleanRegion entry s = .next tS) :
    Keeps L s.dev tS.dev := by
  unfold execCleanRegion at qE
  cases qE
  exact liveState_k (fun x k => maintDone_k (Blk.le (by decide) sB) (cleanLines_k (Blk.le (by decide) sB) k)) sB (Keeps.refl _ _)

theorem execCleanInvalRegion_frame {entry : Fin 64} {s : State} {tS : State}
    (sB : Blk.sub [.out, .free, .mca] L = true) (qE : execCleanInvalRegion entry s = .next tS) :
    Keeps L s.dev tS.dev := by
  unfold execCleanInvalRegion at qE
  cases qE
  exact liveState_k (fun x k => maintDone_k (Blk.le (by decide) sB) (dropLines_k (Blk.le (by decide) sB) (cleanLines_k (Blk.le (by decide) sB) k))) sB (Keeps.refl _ _)

theorem execDmaBurst_frame {hostData : List Byte} {poisoned : Bool} {s : State} {tS : State}
    (sB : Blk.sub [.out, .free, .cat, .dgst, .hif, .mca, .dma] L = true) (qE : execDmaBurst hostData poisoned s = .next tS) :
    Keeps L s.dev tS.dev := by
  unfold execDmaBurst at qE
  cases qE
  split
  · exact dmaBurst_k (Blk.le (by decide) sB) (syncHot_k (Blk.le (by decide) sB) (Keeps.refl _ _))
  · exact Keeps.refl _ _

theorem execCipherSegmentEnd_frame {lane : Fin 2} {s : State} {tS : State}
    (sB : Blk.sub [.out, .free, .pipes, .vault, .cat, .ciph, .hif, .tango, .rcnt, .repl, .bpm, .mca, .dma, .evr] L = true)
    (qE : execCipherSegmentEnd lane s = .next tS) :
    Keeps L s.dev tS.dev := by
  unfold execCipherSegmentEnd at qE
  try dsimp only at qE
  repeat' (first | (cases qE; done) | split at qE)
  all_goals try cases qE
  all_goals with_reducible repeat' (first
      | exact Keeps.refl _ _ | exact Blk.le (by decide) sB | assumption | apply doSegmentEnd_k | apply countChecked_k
      | apply settleJobs_k
      | apply settleSend_k | (apply each_k; intro _ _ _) | apply when_k | split | (apply Keeps.fstOf; assumption)
      | dsimp only)

theorem execDrbgReseed_frame {inst : Fin 6} {s : State} {tS : State}
    (sB : Blk.sub [.ciph] L = true) (qE : execDrbgReseed inst s = .next tS) :
    Keeps L s.dev tS.dev := by
  unfold execDrbgReseed at qE
  try dsimp only at qE
  repeat' (first | (cases qE; done) | split at qE)
  all_goals try cases qE
  all_goals with_reducible repeat' (first
      | exact Keeps.refl _ _ | exact Blk.le (by decide) sB | assumption | apply doReseed_k | apply when_k | split
      | (apply Keeps.fstOf; assumption) | dsimp only)

theorem execEntropyHealthFail_frame {inst : Fin 6} {s : State} {tS : State}
    (sB : Blk.sub [.out, .glb, .vault, .cat, .ciph, .dgst, .hif, .tango, .dma, .evr] L = true)
    (qE : execEntropyHealthFail inst s = .next tS) :
    Keeps L s.dev tS.dev := by
  unfold execEntropyHealthFail at qE
  try dsimp only at qE
  repeat' (first | (cases qE; done) | split at qE)
  all_goals try cases qE
  all_goals with_reducible repeat' (first
      | exact Keeps.refl _ _ | exact Blk.le (by decide) sB | assumption | apply entropyFail_k | apply when_k | split
      | (apply Keeps.fstOf; assumption) | dsimp only)

theorem execDoorbellPoll_frame {group : Nat} {reads : List DbRead} {s : State} {tS : State}
    (sB : Blk.sub [.out, .free, .cat, .hif, .rdma, .dma, .evr] L = true) (qE : execDoorbellPoll group reads s = .next tS) :
    Keeps L s.dev tS.dev := by
  unfold execDoorbellPoll at qE
  try dsimp only at qE
  repeat' (first | (cases qE; done) | split at qE)
  all_goals try cases qE
  all_goals with_reducible repeat' (first
      | exact Keeps.refl _ _ | exact Blk.le (by decide) sB | assumption | apply pollGroup_k | apply when_k | split
      | (apply Keeps.fstOf; assumption) | dsimp only)

theorem execHostAccessError_frame {what : HostAccess} {s : State} {tS : State}
    (sB : Blk.sub [.out, .free, .sl, .pipes, .vault, .cat, .ciph, .dgst, .hif, .rdma, .repl, .bpm, .dma, .evr] L = true)
    (qE : execHostAccessError what s = .next tS) :
    Keeps L s.dev tS.dev := by
  unfold execHostAccessError at qE
  try dsimp only at qE
  repeat' (first | (cases qE; done) | split at qE)
  all_goals try cases qE
  all_goals with_reducible repeat' (first
      | exact Keeps.refl _ _ | exact Blk.le (by decide) sB | assumption | apply hostError_k | apply when_k | split
      | (apply Keeps.fstOf; assumption) | dsimp only)

theorem execMsixModTimer_frame {chan : Nat} {s : State} {tS : State}
    (sB : Blk.sub [.out, .hif] L = true) (qE : execMsixModTimer chan s = .next tS) :
    Keeps L s.dev tS.dev := by
  unfold execMsixModTimer at qE
  try dsimp only at qE
  repeat' (first | (cases qE; done) | split at qE)
  all_goals try cases qE
  all_goals with_reducible repeat' (first
      | exact Keeps.refl _ _ | exact Blk.le (by decide) sB | assumption | apply modTimer_k | apply when_k | split
      | (apply Keeps.fstOf; assumption) | dsimp only)

theorem execMsixUnmask_frame {vector : Nat} {s : State} {tS : State}
    (sB : Blk.sub [.out, .hif] L = true) (qE : execMsixUnmask vector s = .next tS) :
    Keeps L s.dev tS.dev := by
  unfold execMsixUnmask at qE
  try dsimp only at qE
  repeat' (first | (cases qE; done) | split at qE)
  all_goals try cases qE
  all_goals with_reducible repeat' (first
      | exact Keeps.refl _ _ | exact Blk.le (by decide) sB | assumption | apply unmask_k | apply when_k | split
      | (apply Keeps.fstOf; assumption) | dsimp only)

theorem execNop_frame {h : Hdr} {s : State} {tS : State}
    (sB : Blk.sub [.out, .cat, .hif, .dma] L = true) (qE : execNop h s = .next tS) :
    Keeps L s.dev tS.dev := by
  unfold execNop at qE
  try dsimp only at qE
  repeat' (first | (cases qE; done) | split at qE)
  all_goals try cases qE
  all_goals with_reducible repeat' (first
      | exact Keeps.refl _ _ | exact Blk.le (by decide) sB | assumption | apply complete_k | apply descriptor_k | split
      | (apply Keeps.fstOf; assumption) | dsimp only | intro _ _)

theorem execChannelCreate_frame {h : Hdr}
    {index ctype domain sqLog2 cqLog2 vector modCount decPipe modTime group priority layout : Nat}
    {sqBase cqBase qp dbTail : Nat} {s : State} {tS : State}
    (sB : Blk.sub [.out, .cat, .hif, .dma] L = true)
    (qE : execChannelCreate h index ctype domain sqLog2 cqLog2 vector modCount decPipe modTime group priority layout sqBase cqBase qp dbTail s = .next tS) :
    Keeps L s.dev tS.dev := by
  unfold execChannelCreate at qE
  try dsimp only at qE
  repeat' (first | (cases qE; done) | split at qE)
  all_goals try cases qE
  all_goals with_reducible repeat' (first
      | exact Keeps.refl _ _ | exact Blk.le (by decide) sB | assumption | apply doCreate_k | apply descriptor_k | split
      | (apply Keeps.fstOf; assumption) | dsimp only | intro _ _)

theorem execChannelDestroy_frame {h : Hdr} {handle : W32} {s : State} {tS : State}
    (sB : Blk.sub [.out, .free, .sl, .lg, .pipes, .vault, .cat, .disk, .ciph, .dgst, .hif, .tango, .repl, .bpm, .mca, .dma,
      .evr, .boot] L = true) (qE : execChannelDestroy h handle s = .next tS) :
    Keeps L s.dev tS.dev := by
  unfold execChannelDestroy at qE
  try dsimp only at qE
  repeat' (first | (cases qE; done) | split at qE)
  all_goals try cases qE
  all_goals with_reducible repeat' (first
      | exact Keeps.refl _ _ | exact Blk.le (by decide) sB | assumption | apply doDestroy_k | apply descriptor_k | split
      | (apply Keeps.fstOf; assumption) | dsimp only | intro _ _)

theorem execAbort_frame {h : Hdr} {handle tag : W32} {s : State} {tS : State}
    (sB : Blk.sub [.out, .free, .sl, .pipes, .vault, .cat, .disk, .ciph, .dgst, .hif, .tango, .bpm, .mca, .dma, .evr,
      .boot] L = true) (qE : execAbort h handle tag s = .next tS) :
    Keeps L s.dev tS.dev := by
  unfold execAbort at qE
  try dsimp only at qE
  repeat' (first | (cases qE; done) | split at qE)
  all_goals try cases qE
  all_goals with_reducible repeat' (first
      | exact Keeps.refl _ _ | exact Blk.le (by decide) sB | assumption | apply doAbort_k | apply descriptor_k | split
      | (apply Keeps.fstOf; assumption) | dsimp only | intro _ _)

theorem execNotify_frame {h : Hdr} {minSev : Nat} {s : State} {tS : State}
    (sB : Blk.sub [.out, .cat, .hif, .dma] L = true) (qE : execNotify h minSev s = .next tS) :
    Keeps L s.dev tS.dev := by
  unfold execNotify at qE
  try dsimp only at qE
  repeat' (first | (cases qE; done) | split at qE)
  all_goals try cases qE
  all_goals with_reducible repeat' (first
      | exact Keeps.refl _ _ | exact Blk.le (by decide) sB | assumption | apply doNotify_k | apply descriptor_k | split
      | (apply Keeps.fstOf; assumption) | dsimp only | intro _ _)

theorem execPageAssign_frame {h : Hdr} {page domain : Nat} {s : State} {tS : State}
    (sB : Blk.sub [.out, .cat, .ciph, .hif, .dma] L = true) (qE : execPageAssign h page domain s = .next tS) :
    Keeps L s.dev tS.dev := by
  unfold execPageAssign at qE
  try dsimp only at qE
  repeat' (first | (cases qE; done) | split at qE)
  all_goals try cases qE
  all_goals with_reducible repeat' (first
      | exact Keeps.refl _ _ | exact Blk.le (by decide) sB | assumption | apply doPageAssign_k | apply pageOp_k | split
      | (apply Keeps.fstOf; assumption) | dsimp only | intro _ _)

theorem execKeyLoad_frame {h : Hdr} {page : Nat} {key : List Byte} {salt : W32} {ctr : W64} {s : State} {tS : State}
    (sB : Blk.sub [.out, .cat, .ciph, .hif, .dma, .evr] L = true) (qE : execKeyLoad h page key salt ctr s = .next tS) :
    Keeps L s.dev tS.dev := by
  unfold execKeyLoad at qE
  try dsimp only at qE
  repeat' (first | (cases qE; done) | split at qE)
  all_goals try cases qE
  all_goals with_reducible repeat' (first
      | exact Keeps.refl _ _ | exact Blk.le (by decide) sB | assumption | apply doKeyLoad_k | apply pageOp_k | split
      | (apply Keeps.fstOf; assumption) | dsimp only | intro _ _)

theorem execPageRekey_frame {h : Hdr} {page : Nat} {key : List Byte} {salt : W32} {ctr : W64} {s : State} {tS : State}
    (sB : Blk.sub [.out, .free, .pipes, .vault, .cat, .ciph, .hif, .tango, .repl, .bpm, .mca, .dma, .evr] L = true)
    (qE : execPageRekey h page key salt ctr s = .next tS) :
    Keeps L s.dev tS.dev := by
  unfold execPageRekey at qE
  try dsimp only at qE
  repeat' (first | (cases qE; done) | split at qE)
  all_goals try cases qE
  all_goals with_reducible repeat' (first
      | exact Keeps.refl _ _ | exact Blk.le (by decide) sB | assumption | apply doPageRekey_k | apply settleJobs_k
      | apply pageOp_k | split | (apply Keeps.fstOf; assumption) | dsimp only | intro _ _)

theorem execPageErase_frame {h : Hdr} {page : Nat} {s : State} {tS : State}
    (sB : Blk.sub [.out, .free, .pipes, .vault, .cat, .ciph, .hif, .tango, .repl, .bpm, .mca, .dma, .evr] L = true)
    (qE : execPageErase h page s = .next tS) :
    Keeps L s.dev tS.dev := by
  unfold execPageErase at qE
  try dsimp only at qE
  repeat' (first | (cases qE; done) | split at qE)
  all_goals try cases qE
  all_goals with_reducible repeat' (first
      | exact Keeps.refl _ _ | exact Blk.le (by decide) sB | assumption | apply doPageErase_k | apply settleJobs_k
      | apply pageOp_k | split | (apply Keeps.fstOf; assumption) | dsimp only | intro _ _)

theorem execPageRelease_frame {h : Hdr} {page : Nat} {s : State} {tS : State}
    (sB : Blk.sub [.out, .cat, .ciph, .hif, .dma] L = true) (qE : execPageRelease h page s = .next tS) :
    Keeps L s.dev tS.dev := by
  unfold execPageRelease at qE
  try dsimp only at qE
  repeat' (first | (cases qE; done) | split at qE)
  all_goals try cases qE
  all_goals with_reducible repeat' (first
      | exact Keeps.refl _ _ | exact Blk.le (by decide) sB | assumption | apply doPageRelease_k | apply pageOp_k | split
      | (apply Keeps.fstOf; assumption) | dsimp only | intro _ _)

theorem execHkeyLoad_frame {h : Hdr} {slot domain : Nat} {key : List Byte} {s : State} {tS : State}
    (sB : Blk.sub [.out, .cat, .ciph, .hif, .dma] L = true) (qE : execHkeyLoad h slot domain key s = .next tS) :
    Keeps L s.dev tS.dev := by
  unfold execHkeyLoad at qE
  try dsimp only at qE
  repeat' (first | (cases qE; done) | split at qE)
  all_goals try cases qE
  all_goals with_reducible repeat' (first
      | exact Keeps.refl _ _ | exact Blk.le (by decide) sB | assumption | apply doHkeyLoad_k | apply descriptor_k | split
      | (apply Keeps.fstOf; assumption) | dsimp only | intro _ _)

theorem execHkeyErase_frame {h : Hdr} {slot : Nat} {s : State} {tS : State}
    (sB : Blk.sub [.out, .cat, .ciph, .hif, .dma] L = true) (qE : execHkeyErase h slot s = .next tS) :
    Keeps L s.dev tS.dev := by
  unfold execHkeyErase at qE
  try dsimp only at qE
  repeat' (first | (cases qE; done) | split at qE)
  all_goals try cases qE
  all_goals with_reducible repeat' (first
      | exact Keeps.refl _ _ | exact Blk.le (by decide) sB | assumption | apply doHkeyErase_k | apply descriptor_k | split
      | (apply Keeps.fstOf; assumption) | dsimp only | intro _ _)

theorem execMrExtend_frame {h : Hdr} {reg : Nat} {value : W384} {s : State} {tS : State}
    (sB : Blk.sub [.out, .cat, .dgst, .hif, .dma] L = true) (qE : execMrExtend h reg value s = .next tS) :
    Keeps L s.dev tS.dev := by
  unfold execMrExtend at qE
  try dsimp only at qE
  repeat' (first | (cases qE; done) | split at qE)
  all_goals try cases qE
  all_goals with_reducible repeat' (first
      | exact Keeps.refl _ _ | exact Blk.le (by decide) sB | assumption | apply doMrExtend_k | apply descriptor_k | split
      | (apply Keeps.fstOf; assumption) | dsimp only | intro _ _)

theorem execLayoutLoad_frame {h : Hdr} {layoutId recLen : Nat} {rec : LayoutRec} {drives : List DriveInfo} {s : State}
    {tS : State}
    (sB : Blk.sub [.out, .free, .glb, .vault, .cat, .disk, .ciph, .hif, .tango, .dma, .evr] L = true)
    (qE : execLayoutLoad h layoutId recLen rec drives s = .next tS) :
    Keeps L s.dev tS.dev := by
  unfold execLayoutLoad at qE
  try dsimp only at qE
  repeat' (first | (cases qE; done) | split at qE)
  all_goals try cases qE
  all_goals with_reducible repeat' (first
      | exact Keeps.refl _ _ | exact Blk.le (by decide) sB | assumption | apply doLayoutLoad_k | apply descriptor_k | split
      | (apply Keeps.fstOf; assumption) | dsimp only | intro _ _)

theorem execVolumeCreate_frame {h : Hdr} {volume layout : Nat} {encrypted dedup : Bool} {kcv dkcv : W32} {s : State}
    {tS : State}
    (sB : Blk.sub [.out, .cat, .hif, .dma] L = true)
    (qE : execVolumeCreate h volume layout encrypted dedup kcv dkcv s = .next tS) :
    Keeps L s.dev tS.dev := by
  unfold execVolumeCreate at qE
  try dsimp only at qE
  repeat' (first | (cases qE; done) | split at qE)
  all_goals try cases qE
  all_goals with_reducible repeat' (first
      | exact Keeps.refl _ _ | exact Blk.le (by decide) sB | assumption | apply doVolumeCreate_k | apply descriptor_k | split
      | (apply Keeps.fstOf; assumption) | dsimp only | intro _ _)

theorem execVolumeDelete_frame {h : Hdr} {volume : Nat} {s : State} {tS : State}
    (sB : Blk.sub [.out, .cat, .hif, .dma] L = true) (qE : execVolumeDelete h volume s = .next tS) :
    Keeps L s.dev tS.dev := by
  unfold execVolumeDelete at qE
  try dsimp only at qE
  repeat' (first | (cases qE; done) | split at qE)
  all_goals try cases qE
  all_goals with_reducible repeat' (first
      | exact Keeps.refl _ _ | exact Blk.le (by decide) sB | assumption | apply doVolumeDelete_k | apply descriptor_k | split
      | (apply Keeps.fstOf; assumption) | dsimp only | intro _ _)

theorem execTakeDelete_frame {h : Hdr} {volume takeId segId : Nat} {s : State} {tS : State}
    (sB : Blk.sub [.out, .free, .vault, .cat, .ciph, .hif, .tango, .bpm, .mca, .dma, .evr] L = true)
    (qE : execTakeDelete h volume takeId segId s = .next tS) :
    Keeps L s.dev tS.dev := by
  unfold execTakeDelete at qE
  try dsimp only at qE
  repeat' (first | (cases qE; done) | split at qE)
  all_goals try cases qE
  all_goals with_reducible repeat' (first
      | exact Keeps.refl _ _ | exact Blk.le (by decide) sB | assumption | apply doTakeDelete_k | apply descriptor_k | split
      | (apply Keeps.fstOf; assumption) | dsimp only | intro _ _)

theorem execSnapVolume_frame {h : Hdr} {volume : Nat} {s : State} {tS : State}
    (sB : Blk.sub [.out, .free, .vault, .cat, .ciph, .hif, .tango, .bpm, .mca, .dma, .evr] L = true)
    (qE : execSnapVolume h volume s = .next tS) :
    Keeps L s.dev tS.dev := by
  unfold execSnapVolume at qE
  try dsimp only at qE
  repeat' (first | (cases qE; done) | split at qE)
  all_goals try cases qE
  all_goals with_reducible repeat' (first
      | exact Keeps.refl _ _ | exact Blk.le (by decide) sB | assumption | apply doSnapVolume_k | apply descriptor_k | split
      | (apply Keeps.fstOf; assumption) | dsimp only | intro _ _)

theorem execSnapRelease_frame {h : Hdr} {snapId : Nat} {s : State} {tS : State}
    (sB : Blk.sub [.out, .vault, .cat, .hif, .dma] L = true) (qE : execSnapRelease h snapId s = .next tS) :
    Keeps L s.dev tS.dev := by
  unfold execSnapRelease at qE
  try dsimp only at qE
  repeat' (first | (cases qE; done) | split at qE)
  all_goals try cases qE
  all_goals with_reducible repeat' (first
      | exact Keeps.refl _ _ | exact Blk.le (by decide) sB | assumption | apply doSnapRelease_k | apply descriptor_k | split
      | (apply Keeps.fstOf; assumption) | dsimp only | intro _ _)

theorem execVerifySeal_frame {h : Hdr} {volume takeId segId : Nat} {s : State} {tS : State}
    (sB : Blk.sub [.out, .cat, .hif, .dma] L = true) (qE : execVerifySeal h volume takeId segId s = .next tS) :
    Keeps L s.dev tS.dev := by
  unfold execVerifySeal at qE
  try dsimp only at qE
  repeat' (first | (cases qE; done) | split at qE)
  all_goals try cases qE
  all_goals with_reducible repeat' (first
      | exact Keeps.refl _ _ | exact Blk.le (by decide) sB | assumption | apply doVerifySeal_k | apply descriptor_k | split
      | (apply Keeps.fstOf; assumption) | dsimp only | intro _ _)

theorem execGroupCtl_frame {h : Hdr} {group action : Nat} {s : State} {tS : State}
    (sB : Blk.sub [.out, .free, .sl, .lg, .pipes, .vault, .cat, .ciph, .dgst, .hif, .tango, .bpm, .mca, .dma, .evr] L = true)
    (qE : execGroupCtl h group action s = .next tS) :
    Keeps L s.dev tS.dev := by
  unfold execGroupCtl at qE
  try dsimp only at qE
  repeat' (first | (cases qE; done) | split at qE)
  all_goals try cases qE
  all_goals with_reducible repeat' (first
      | (dsimp only [id]; assumption) | exact Keeps.refl _ _ | exact Blk.le (by decide) sB | assumption | apply doGroupCtl_k
      | apply descriptor_k | split | (apply Keeps.fstOf; assumption) | dsimp only | intro _ _)

theorem execPortRole_frame {h : Hdr} {role : Nat} {s : State} {tS : State}
    (sB : Blk.sub [.out, .sl, .cat, .hif, .dma] L = true) (qE : execPortRole h role s = .next tS) :
    Keeps L s.dev tS.dev := by
  unfold execPortRole at qE
  try dsimp only at qE
  repeat' (first | (cases qE; done) | split at qE)
  all_goals try cases qE
  all_goals with_reducible repeat' (first
      | exact Keeps.refl _ _ | exact Blk.le (by decide) sB | assumption | apply doPortRole_k | apply descriptor_k | split
      | (apply Keeps.fstOf; assumption) | dsimp only | intro _ _)

theorem execDrivePort_frame {h : Hdr} {port action : Nat} {info : List DriveInfo} {s : State} {tS : State}
    (sB : Blk.sub [.out, .glb, .vault, .cat, .disk, .ciph, .hif, .tango, .dma, .evr] L = true)
    (qE : execDrivePort h port action info s = .next tS) :
    Keeps L s.dev tS.dev := by
  unfold execDrivePort at qE
  try dsimp only at qE
  repeat' (first | (cases qE; done) | split at qE)
  all_goals try cases qE
  all_goals with_reducible repeat' (first
      | exact Keeps.refl _ _ | exact Blk.le (by decide) sB | assumption | apply doDrivePort_k | apply descriptor_k | split
      | (apply Keeps.fstOf; assumption) | dsimp only | intro _ _)

theorem execHandover_frame {h : Hdr} {groups : BitVec 4} {direction : Nat} {s : State} {tS : State}
    (sB : Blk.sub [.out, .cat, .ciph, .hif, .tango, .bpm, .dma, .evr] L = true)
    (qE : execHandover h groups direction s = .next tS) :
    Keeps L s.dev tS.dev := by
  unfold execHandover at qE
  try dsimp only at qE
  repeat' (first | (cases qE; done) | split at qE)
  all_goals try cases qE
  all_goals with_reducible repeat' (first
      | exact Keeps.refl _ _ | exact Blk.le (by decide) sB | assumption | apply doHandover_k | apply descriptor_k | split
      | (apply Keeps.fstOf; assumption) | dsimp only | intro _ _)

theorem execShutdown_frame {h : Hdr} {s : State} {tS : State}
    (sB : Blk.sub [.out, .glb, .vault, .cat, .ciph, .hif, .tango, .dma, .evr] L = true) (qE : execShutdown h s = .next tS) :
    Keeps L s.dev tS.dev := by
  unfold execShutdown at qE
  try dsimp only at qE
  repeat' (first | (cases qE; done) | split at qE)
  all_goals try cases qE
  all_goals with_reducible repeat' (first
      | exact Keeps.refl _ _ | exact Blk.le (by decide) sB | assumption | apply doShutdown_k | apply descriptor_k | split
      | (apply Keeps.fstOf; assumption) | dsimp only | intro _ _)

theorem execFwStage_frame {h : Hdr} {_block length : Nat} {card : Option Image} {sdhc : Bool} {s : State} {tS : State}
    (sB : Blk.sub [.out, .cat, .dgst, .hif, .dma, .boot] L = true) (qE : execFwStage h _block length card sdhc s = .next tS) :
    Keeps L s.dev tS.dev := by
  unfold execFwStage at qE
  try dsimp only at qE
  repeat' (first | (cases qE; done) | split at qE)
  all_goals try cases qE
  all_goals with_reducible repeat' (first
      | exact Keeps.refl _ _ | exact Blk.le (by decide) sB | assumption | apply doFwStage_k | apply descriptor_k | split
      | (apply Keeps.fstOf; assumption) | dsimp only | intro _ _)

theorem execFwActivate_frame {h : Hdr} {s : State} {tS : State}
    (sB : Blk.sub [.out, .free, .glb, .cat, .dgst, .hif, .dma, .evr, .boot] L = true) (qE : execFwActivate h s = .next tS) :
    Keeps L s.dev tS.dev := by
  unfold execFwActivate at qE
  try dsimp only at qE
  repeat' (first | (cases qE; done) | split at qE)
  all_goals try cases qE
  all_goals with_reducible repeat' (first
      | exact Keeps.refl _ _ | exact Blk.le (by decide) sB | assumption | apply doFwActivate_k | apply descriptor_k | split
      | (apply Keeps.fstOf; assumption) | dsimp only | intro _ _)

theorem execFwRunning_frame {s : State} {tS : State}
    (sB : Blk.sub [.out, .free, .vault, .cat, .ciph, .dgst, .hif, .tango, .mca, .dma, .evr, .mnt, .boot] L = true)
    (qE : execFwRunning s = .next tS) :
    Keeps L s.dev tS.dev := by
  unfold execFwRunning at qE
  try dsimp only at qE
  repeat' (first | (cases qE; done) | split at qE)
  all_goals try cases qE
  all_goals with_reducible repeat' (first
      | exact Keeps.refl _ _ | exact Blk.le (by decide) sB | assumption | apply fwRunning_k | apply when_k | split
      | (apply Keeps.fstOf; assumption) | dsimp only)

theorem execActivationTimeout_frame {partnerSilent : Bool} {t : TakeoverIn} {s : State} {tS : State}
    (sB : Blk.sub [.out, .free, .glb, .sl, .lg, .pipes, .vault, .vcnt, .cat, .disk, .ciph, .dgst, .hif, .tango, .ih, .repl,
      .bpm, .mca, .dma, .evr, .boot] L = true) (qE : execActivationTimeout partnerSilent t s = .next tS) :
    Keeps L s.dev tS.dev := by
  unfold execActivationTimeout at qE
  try dsimp only at qE
  repeat' (first | (cases qE; done) | split at qE)
  all_goals try cases qE
  all_goals with_reducible repeat' (first
      | exact Keeps.refl _ _ | exact Blk.le (by decide) sB | assumption | apply undoActivation_k | apply when_k | split
      | (apply Keeps.fstOf; assumption) | dsimp only)

theorem execFwConfirm_frame {h : Hdr} {s : State} {tS : State}
    (sB : Blk.sub [.out, .free, .vault, .cat, .ciph, .dgst, .hif, .tango, .mca, .dma, .evr, .boot] L = true)
    (qE : execFwConfirm h s = .next tS) :
    Keeps L s.dev tS.dev := by
  unfold execFwConfirm at qE
  try dsimp only at qE
  repeat' (first | (cases qE; done) | split at qE)
  all_goals try cases qE
  all_goals with_reducible repeat' (first
      | exact Keeps.refl _ _ | exact Blk.le (by decide) sB | assumption | apply doFwConfirm_k | apply descriptor_k | split
      | (apply Keeps.fstOf; assumption) | dsimp only | intro _ _)

theorem execAttestQuote_frame {h : Hdr} {nonce : W256} {outAddr outLen : Nat} {s : State} {tS : State}
    (sB : Blk.sub [.out, .free, .cat, .ciph, .hif, .dma] L = true) (qE : execAttestQuote h nonce outAddr outLen s = .next tS) :
    Keeps L s.dev tS.dev := by
  unfold execAttestQuote at qE
  try dsimp only at qE
  repeat' (first | (cases qE; done) | split at qE)
  all_goals try cases qE
  all_goals with_reducible repeat' (first
      | exact Keeps.refl _ _ | exact Blk.le (by decide) sB | assumption | apply doAttestQuote_k | apply descriptor_k | split
      | (apply Keeps.fstOf; assumption) | dsimp only | intro _ _)

theorem execTakeOpen_frame {h : Hdr} {r : OpenReq} {s : State} {tS : State}
    (sB : Blk.sub [.out, .vault, .cat, .ciph, .dgst, .hif, .tango, .mca, .dma, .evr] L = true)
    (qE : execTakeOpen h r s = .next tS) :
    Keeps L s.dev tS.dev := by
  unfold execTakeOpen at qE
  try dsimp only at qE
  repeat' (first | (cases qE; done) | split at qE)
  all_goals try cases qE
  all_goals with_reducible repeat' (first
      | exact Keeps.refl _ _ | exact Blk.le (by decide) sB | assumption | apply doTakeOpen_k | apply descriptor_k | split
      | (apply Keeps.fstOf; assumption) | dsimp only | intro _ _)

theorem execTakeClose_frame {h : Hdr} {takeId mode successor : Nat} {closeTime : W64} {s : State} {tS : State}
    (sB : Blk.sub [.out, .free, .sl, .lg, .pipes, .vault, .cat, .ciph, .dgst, .hif, .tango, .bpm, .mca, .dma, .evr] L = true)
    (qE : execTakeClose h takeId mode successor closeTime s = .next tS) :
    Keeps L s.dev tS.dev := by
  unfold execTakeClose at qE
  try dsimp only at qE
  repeat' (first | (cases qE; done) | split at qE)
  all_goals try cases qE
  all_goals with_reducible repeat' (first
      | exact Keeps.refl _ _ | exact Blk.le (by decide) sB | assumption | apply doTakeClose_k | apply descriptor_k | split
      | (apply Keeps.fstOf; assumption) | dsimp only | intro _ _)

theorem execTrigger_frame {h : Hdr} {takeId : Nat} {trigId : W32} {time : W64} {sinceLanding : Nat} {s : State} {tS : State}
    (sB : Blk.sub [.out, .glb, .vault, .cat, .ciph, .hif, .tango, .mca, .dma, .evr] L = true)
    (qE : execTrigger h takeId trigId time sinceLanding s = .next tS) :
    Keeps L s.dev tS.dev := by
  unfold execTrigger at qE
  try dsimp only at qE
  repeat' (first | (cases qE; done) | split at qE)
  all_goals try cases qE
  all_goals with_reducible repeat' (first
      | exact Keeps.refl _ _ | exact Blk.le (by decide) sB | assumption | apply doTrigger_k | apply descriptor_k | split
      | (apply Keeps.fstOf; assumption) | dsimp only | intro _ _)

theorem execResume_frame {h : Hdr} {groups : BitVec 4} {s : State} {tS : State}
    (sB : Blk.sub [.out, .sl, .cat, .hif, .dma] L = true) (qE : execResume h groups s = .next tS) :
    Keeps L s.dev tS.dev := by
  unfold execResume at qE
  try dsimp only at qE
  repeat' (first | (cases qE; done) | split at qE)
  all_goals try cases qE
  all_goals with_reducible repeat' (first
      | exact Keeps.refl _ _ | exact Blk.le (by decide) sB | assumption | apply doResume_k | apply descriptor_k | split
      | (apply Keeps.fstOf; assumption) | dsimp only | intro _ _)

theorem execStop_frame {h : Hdr} {groups : BitVec 4} {s : State} {tS : State}
    (sB : Blk.sub [.out, .free, .sl, .lg, .pipes, .vault, .cat, .ciph, .dgst, .hif, .tango, .bpm, .mca, .dma, .evr] L = true)
    (qE : execStop h groups s = .next tS) :
    Keeps L s.dev tS.dev := by
  unfold execStop at qE
  try dsimp only at qE
  repeat' (first | (cases qE; done) | split at qE)
  all_goals try cases qE
  all_goals with_reducible repeat' (first
      | exact Keeps.refl _ _ | exact Blk.le (by decide) sB | assumption | apply doStop_k | apply descriptor_k | split
      | (apply Keeps.fstOf; assumption) | dsimp only | intro _ _)

theorem execSnapTake_frame {h : Hdr} {takeId : Nat} {s : State} {tS : State}
    (sB : Blk.sub [.out, .free, .vault, .cat, .ciph, .hif, .tango, .bpm, .mca, .dma, .evr] L = true)
    (qE : execSnapTake h takeId s = .next tS) :
    Keeps L s.dev tS.dev := by
  unfold execSnapTake at qE
  try dsimp only at qE
  repeat' (first | (cases qE; done) | split at qE)
  all_goals try cases qE
  all_goals with_reducible repeat' (first
      | exact Keeps.refl _ _ | exact Blk.le (by decide) sB | assumption | apply doSnapTake_k | apply descriptor_k | split
      | (apply Keeps.fstOf; assumption) | dsimp only | intro _ _)

theorem execRead_frame {h : Hdr} {volume kind part target segId : Nat} {flags : BitVec 5}
    {group digest first count reportLen dest report
    digestOut : Nat} {s : State} {tS : State} (sB : Blk.sub [.out, .free, .pipes, .vault, .cat, .dgst, .hif, .bpm, .dma,
      .evr] L = true) (qE : execRead h volume kind part target segId flags group digest first count reportLen dest report digestOut s = .next tS) :
    Keeps L s.dev tS.dev := by
  unfold execRead at qE
  try dsimp only at qE
  repeat' (first | (cases qE; done) | split at qE)
  all_goals try cases qE
  all_goals with_reducible repeat' (first
      | exact Keeps.refl _ _ | exact Blk.le (by decide) sB | assumption | apply doRead_k | apply descriptor_k | split
      | (apply Keeps.fstOf; assumption) | dsimp only | intro _ _)

theorem execPlay_frame {h : Hdr} {volume kind part target segId : Nat} {flags : BitVec 3} {recGroup pace : Nat}
    {first : BitVec 48} {frames : Nat} {gsnBase : W32} {frameBase : BitVec 48} {timeBase : W64} {s : State} {tS : State}
    (sB : Blk.sub [.out, .free, .sl, .pipes, .vault, .cat, .hif, .bpm, .dma, .evr] L = true)
    (qE : execPlay h volume kind part target segId flags recGroup pace first frames gsnBase frameBase timeBase s = .next tS) :
    Keeps L s.dev tS.dev := by
  unfold execPlay at qE
  try dsimp only at qE
  repeat' (first | (cases qE; done) | split at qE)
  all_goals try cases qE
  all_goals with_reducible repeat' (first
      | exact Keeps.refl _ _ | exact Blk.le (by decide) sB | assumption | apply doPlay_k | apply descriptor_k | split
      | (apply Keeps.fstOf; assumption) | dsimp only | intro _ _)

theorem execCopy_frame {h : Hdr} {source dest length space digest slot digestOut : Nat} {s : State} {tS : State}
    (sB : Blk.sub [.out, .cat, .dgst, .hif, .dma] L = true)
    (qE : execCopy h source dest length space digest slot digestOut s = .next tS) :
    Keeps L s.dev tS.dev := by
  unfold execCopy at qE
  try dsimp only at qE
  repeat' (first | (cases qE; done) | split at qE)
  all_goals try cases qE
  all_goals with_reducible repeat' (first
      | exact Keeps.refl _ _ | exact Blk.le (by decide) sB | assumption | apply doCopy_k | apply descriptor_k | split
      | (apply Keeps.fstOf; assumption) | dsimp only | intro _ _)

theorem execReplSend_frame {h : Hdr} {volume kind part target segId : Nat} {fpExchange : Bool}
    {targetVol first entries batch : Nat} {s : State} {tS : State}
    (sB : Blk.sub [.out, .free, .pipes, .vault, .cat, .ciph, .hif, .tango, .rdma, .repl, .bpm, .mca, .dma, .evr] L = true)
    (qE : execReplSend h volume kind part target segId fpExchange targetVol first entries batch s = .next tS) :
    Keeps L s.dev tS.dev := by
  unfold execReplSend at qE
  try dsimp only at qE
  repeat' (first | (cases qE; done) | split at qE)
  all_goals try cases qE
  all_goals with_reducible repeat' (first
      | exact Keeps.refl _ _ | exact Blk.le (by decide) sB | assumption | apply doReplSend_k | apply settleJobs_k
      | apply descriptor_k | split | (apply Keeps.fstOf; assumption) | dsimp only | intro _ _)

theorem execReplAccept_frame {h : Hdr} {volume takeId : Nat} {s : State} {tS : State}
    (sB : Blk.sub [.out, .free, .pipes, .vault, .cat, .ciph, .hif, .tango, .rdma, .repl, .bpm, .mca, .dma, .evr] L = true)
    (qE : execReplAccept h volume takeId s = .next tS) :
    Keeps L s.dev tS.dev := by
  unfold execReplAccept at qE
  try dsimp only at qE
  repeat' (first | (cases qE; done) | split at qE)
  all_goals try cases qE
  all_goals with_reducible repeat' (first
      | exact Keeps.refl _ _ | exact Blk.le (by decide) sB | assumption | apply doReplAccept_k | apply settleJobs_k
      | apply descriptor_k | split | (apply Keeps.fstOf; assumption) | dsimp only | intro _ _)

theorem execScrubCtl_frame {h : Hdr} {action : Nat} {s : State} {tS : State}
    (sB : Blk.sub [.out, .vault, .cat, .hif, .dma] L = true) (qE : execScrubCtl h action s = .next tS) :
    Keeps L s.dev tS.dev := by
  unfold execScrubCtl at qE
  try dsimp only at qE
  repeat' (first | (cases qE; done) | split at qE)
  all_goals try cases qE
  all_goals with_reducible repeat' (first
      | exact Keeps.refl _ _ | exact Blk.le (by decide) sB | assumption | apply doScrubCtl_k | apply descriptor_k | split
      | (apply Keeps.fstOf; assumption) | dsimp only | intro _ _)

theorem execReshape_frame {h : Hdr} {volume target method : Nat} {s : State} {tS : State}
    (sB : Blk.sub [.out, .vault, .cat, .hif, .dma] L = true) (qE : execReshape h volume target method s = .next tS) :
    Keeps L s.dev tS.dev := by
  unfold execReshape at qE
  try dsimp only at qE
  repeat' (first | (cases qE; done) | split at qE)
  all_goals try cases qE
  all_goals with_reducible repeat' (first
      | exact Keeps.refl _ _ | exact Blk.le (by decide) sB | assumption | apply doReshape_k | apply descriptor_k | split
      | (apply Keeps.fstOf; assumption) | dsimp only | intro _ _)

theorem execDriveAdmit_frame {h : Hdr} {slot : Nat} {info : DriveInfo} {s : State} {tS : State}
    (sB : Blk.sub [.out, .vault, .cat, .disk, .ciph, .hif, .tango, .dma, .evr] L = true)
    (qE : execDriveAdmit h slot info s = .next tS) :
    Keeps L s.dev tS.dev := by
  unfold execDriveAdmit at qE
  try dsimp only at qE
  repeat' (first | (cases qE; done) | split at qE)
  all_goals try cases qE
  all_goals with_reducible repeat' (first
      | exact Keeps.refl _ _ | exact Blk.le (by decide) sB | assumption | apply doDriveAdmit_k | apply descriptor_k | split
      | (apply Keeps.fstOf; assumption) | dsimp only | intro _ _)

theorem execDriveReplace_frame {h : Hdr} {slot : Nat} {info : DriveInfo} {s : State} {tS : State}
    (sB : Blk.sub [.out, .vault, .cat, .disk, .ciph, .hif, .tango, .dma, .evr] L = true)
    (qE : execDriveReplace h slot info s = .next tS) :
    Keeps L s.dev tS.dev := by
  unfold execDriveReplace at qE
  try dsimp only at qE
  repeat' (first | (cases qE; done) | split at qE)
  all_goals try cases qE
  all_goals with_reducible repeat' (first
      | exact Keeps.refl _ _ | exact Blk.le (by decide) sB | assumption | apply doDriveReplace_k | apply descriptor_k | split
      | (apply Keeps.fstOf; assumption) | dsimp only | intro _ _)

theorem execDriveFail_frame {h : Hdr} {slot : Nat} {s : State} {tS : State}
    (sB : Blk.sub [.out, .free, .vault, .cat, .ciph, .hif, .tango, .mca, .dma, .evr] L = true)
    (qE : execDriveFail h slot s = .next tS) :
    Keeps L s.dev tS.dev := by
  unfold execDriveFail at qE
  try dsimp only at qE
  repeat' (first | (cases qE; done) | split at qE)
  all_goals try cases qE
  all_goals with_reducible repeat' (first
      | exact Keeps.refl _ _ | exact Blk.le (by decide) sB | assumption | apply doDriveFail_k | apply descriptor_k | split
      | (apply Keeps.fstOf; assumption) | dsimp only | intro _ _)

theorem execLayoutScan_frame {h : Hdr} {reads : List StripeIn} {s : State} {tS : State}
    (sB : Blk.sub [.out, .vault, .cat, .hif, .dma] L = true) (qE : execLayoutScan h reads s = .next tS) :
    Keeps L s.dev tS.dev := by
  unfold execLayoutScan at qE
  try dsimp only at qE
  repeat' (first | (cases qE; done) | split at qE)
  all_goals try cases qE
  all_goals with_reducible repeat' (first
      | exact Keeps.refl _ _ | exact Blk.le (by decide) sB | assumption | apply doLayoutScan_k | apply descriptor_k | split
      | (apply Keeps.fstOf; assumption) | dsimp only | intro _ _)

theorem execTrigIn_frame {sinceLanding : Nat} {s : State} {tS : State}
    (sB : Blk.sub [.out, .glb, .vault, .cat, .ciph, .hif, .tango, .mca, .dma, .evr] L = true)
    (qE : execTrigIn sinceLanding s = .next tS) :
    Keeps L s.dev tS.dev := by
  unfold execTrigIn at qE
  try dsimp only at qE
  repeat' (first | (cases qE; done) | split at qE)
  all_goals try cases qE
  all_goals with_reducible repeat' (first
      | exact Keeps.refl _ _ | exact Blk.le (by decide) sB | assumption | apply trigIn_k | apply when_k | split
      | (apply Keeps.fstOf; assumption) | dsimp only)

theorem execTrigOutEnd_frame {s : State} {tS : State} (sB : Blk.sub [.glb] L = true) (qE : execTrigOutEnd s = .next tS) :
    Keeps L s.dev tS.dev := by
  unfold execTrigOutEnd at qE
  cases qE
  exact Keeps.step (fun k h => by cases k <;> first | rfl | simp at h) sB (Keeps.refl _ _)

theorem execHeartbeatTimer_frame {s : State} {tS : State}
    (sB : Blk.sub [.out, .cat, .ciph, .hif, .tango, .ih, .dma, .evr] L = true) (qE : execHeartbeatTimer s = .next tS) :
    Keeps L s.dev tS.dev := by
  unfold execHeartbeatTimer at qE
  try dsimp only at qE
  repeat' (first | (cases qE; done) | split at qE)
  all_goals try cases qE
  all_goals with_reducible repeat' (first
      | exact Keeps.refl _ _ | exact Blk.le (by decide) sB | assumption | apply heartbeatTimer_k | apply when_k | split
      | (apply Keeps.fstOf; assumption) | dsimp only)

theorem execHeartbeat_frame {e : Env} {b : Beat} {s : State} {tS : State}
    (sB : Blk.sub [.out, .cat, .ciph, .hif, .tango, .ih, .dma, .evr] L = true) (qE : execHeartbeat e b s = .next tS) :
    Keeps L s.dev tS.dev := by
  unfold execHeartbeat at qE
  try dsimp only at qE
  repeat' (first | (cases qE; done) | split at qE)
  all_goals try cases qE
  all_goals with_reducible repeat' (first
      | exact Keeps.refl _ _ | exact Blk.le (by decide) sB | assumption | apply exemptIn_k | intro _ _ | apply heartbeat_k
      | apply when_k | split | (apply Keeps.fstOf; assumption) | dsimp only)

theorem execHeartbeatMissed_frame {s : State} {tS : State}
    (sB : Blk.sub [.tango, .ih] L = true) (qE : execHeartbeatMissed s = .next tS) :
    Keeps L s.dev tS.dev := by
  unfold execHeartbeatMissed at qE
  try dsimp only at qE
  repeat' (first | (cases qE; done) | split at qE)
  all_goals try cases qE
  all_goals with_reducible repeat' (first
      | exact Keeps.refl _ _ | exact Blk.le (by decide) sB | assumption | apply heartbeatMissed_k | apply when_k | split
      | (apply Keeps.fstOf; assumption) | dsimp only)

theorem execPartnerSilent_frame {t : TakeoverIn} {s : State} {tS : State}
    (sB : Blk.sub [.out, .free, .glb, .sl, .lg, .pipes, .vault, .vcnt, .cat, .disk, .ciph, .dgst, .hif, .tango, .ih, .repl,
      .bpm, .mca, .dma, .evr] L = true) (qE : execPartnerSilent t s = .next tS) :
    Keeps L s.dev tS.dev := by
  unfold execPartnerSilent at qE
  try dsimp only at qE
  repeat' (first | (cases qE; done) | split at qE)
  all_goals try cases qE
  all_goals with_reducible repeat' (first
      | exact Keeps.refl _ _ | exact Blk.le (by decide) sB | assumption | apply partnerSilent_k | apply when_k | split
      | (apply Keeps.fstOf; assumption) | dsimp only)

theorem execFenceRetry_frame {t : TakeoverIn} {s : State} {tS : State}
    (sB : Blk.sub [.out, .free, .glb, .sl, .lg, .pipes, .vault, .vcnt, .cat, .disk, .ciph, .dgst, .hif, .tango, .ih, .repl,
      .bpm, .mca, .dma, .evr] L = true) (qE : execFenceRetry t s = .next tS) :
    Keeps L s.dev tS.dev := by
  unfold execFenceRetry at qE
  try dsimp only at qE
  repeat' (first | (cases qE; done) | split at qE)
  all_goals try cases qE
  all_goals with_reducible repeat' (first
      | exact Keeps.refl _ _ | exact Blk.le (by decide) sB | assumption | apply fenceRetry_k | apply when_k | split
      | (apply Keeps.fstOf; assumption) | dsimp only)

theorem execHello_frame {_e : Env} {m : Hello} {s : State} {tS : State}
    (sB : Blk.sub [.out, .free, .cat, .ciph, .hif, .tango, .dma, .evr] L = true) (qE : execHello _e m s = .next tS) :
    Keeps L s.dev tS.dev := by
  unfold execHello at qE
  try dsimp only at qE
  repeat' (first | (cases qE; done) | split at qE)
  all_goals try cases qE
  all_goals with_reducible repeat' (first
      | exact Keeps.refl _ _ | exact Blk.le (by decide) sB | assumption | apply hello_k | apply when_k | split
      | (apply Keeps.fstOf; assumption) | dsimp only)

theorem execHelloRetry_frame {s : State} {tS : State}
    (sB : Blk.sub [.out, .free, .glb, .sl, .lg, .vault, .cat, .ciph, .dgst, .hif, .tango, .dma, .evr] L = true)
    (qE : execHelloRetry s = .next tS) :
    Keeps L s.dev tS.dev := by
  unfold execHelloRetry at qE
  try dsimp only at qE
  repeat' (first | (cases qE; done) | split at qE)
  all_goals try cases qE
  all_goals with_reducible repeat' (first
      | exact Keeps.refl _ _ | exact Blk.le (by decide) sB | assumption | apply helloRetry_k | apply when_k | split
      | (apply Keeps.fstOf; assumption) | dsimp only)

theorem execKeyConfirm_frame {e : Env} {s : State} {tS : State}
    (sB : Blk.sub [.out, .free, .glb, .lg, .vault, .cat, .ciph, .dgst, .hif, .tango, .ih, .mca, .dma, .evr] L = true)
    (qE : execKeyConfirm e s = .next tS) :
    Keeps L s.dev tS.dev := by
  unfold execKeyConfirm at qE
  cases qE
  refine stagedState_k ?_ (Blk.le (by decide) sB)
  exact when_k (exemptIn_k (Blk.le (by decide) sB) (fun x k => sessionUp_k (Blk.le (by decide) sB) k) (Keeps.refl _ _)) (Keeps.refl _ _)

theorem execTangoQpError_frame {_qp : Fin 5} {s : State} {tS : State}
    (sB : Blk.sub [.out, .free, .vault, .cat, .ciph, .dgst, .hif, .tango, .mca, .dma, .evr] L = true)
    (qE : execTangoQpError _qp s = .next tS) :
    Keeps L s.dev tS.dev := by
  unfold execTangoQpError at qE
  try dsimp only at qE
  repeat' (first | (cases qE; done) | split at qE)
  all_goals try cases qE
  all_goals with_reducible repeat' (first
      | exact Keeps.refl _ _ | exact Blk.le (by decide) sB | assumption | apply tangoQpError_k | apply when_k | split
      | (apply Keeps.fstOf; assumption) | dsimp only)

theorem execStartupWaitExpiry_frame {t : TakeoverIn} {dumps : List DumpIn} {s : State} {tS : State}
    (sB : Blk.sub [.out, .free, .glb, .sl, .lg, .pipes, .vault, .vcnt, .cat, .disk, .ciph, .dgst, .hif, .tango, .ih, .repl,
      .bpm, .mca, .dma, .evr] L = true) (qE : execStartupWaitExpiry t dumps s = .next tS) :
    Keeps L s.dev tS.dev := by
  unfold execStartupWaitExpiry at qE
  try dsimp only at qE
  repeat' (first | (cases qE; done) | split at qE)
  all_goals try cases qE
  all_goals with_reducible repeat' (first
      | exact Keeps.refl _ _ | exact Blk.le (by decide) sB | assumption | apply startupExpiry_k | apply when_k | split
      | (apply Keeps.fstOf; assumption) | dsimp only)

theorem execLinkInfo_frame {e : Env} {link : Four LinkSec} {s : State} {tS : State}
    (sB : Blk.sub [.out, .cat, .ciph, .hif, .tango, .ih, .dma, .evr] L = true) (qE : execLinkInfo e link s = .next tS) :
    Keeps L s.dev tS.dev := by
  unfold execLinkInfo at qE
  try dsimp only at qE
  repeat' (first | (cases qE; done) | split at qE)
  all_goals try cases qE
  all_goals with_reducible repeat' (first
      | exact Keeps.refl _ _ | exact Blk.le (by decide) sB | assumption | apply checkedIn_k | intro _ _ | apply linkInfo_k
      | apply when_k | split | (apply Keeps.fstOf; assumption) | dsimp only)

theorem execOwnerTable_frame {e : Env} {owners : Four Nat} {s : State} {tS : State}
    (sB : Blk.sub [.out, .free, .sl, .lg, .pipes, .vault, .cat, .ciph, .dgst, .hif, .tango, .ih, .repl, .bpm, .dma,
      .evr] L = true) (qE : execOwnerTable e owners s = .next tS) :
    Keeps L s.dev tS.dev := by
  unfold execOwnerTable at qE
  try dsimp only at qE
  repeat' (first | (cases qE; done) | split at qE)
  all_goals try cases qE
  all_goals with_reducible repeat' (first
      | exact Keeps.refl _ _ | exact Blk.le (by decide) sB | assumption | apply exemptIn_k | intro _ _ | apply ownerTable_k
      | apply when_k | split | (apply Keeps.fstOf; assumption) | dsimp only)

theorem execOwnerAck_frame {e : Env} {owners : Four Nat} {s : State} {tS : State}
    (sB : Blk.sub [.out, .free, .sl, .lg, .pipes, .vault, .cat, .ciph, .dgst, .hif, .tango, .ih, .repl, .bpm, .dma,
      .evr] L = true) (qE : execOwnerAck e owners s = .next tS) :
    Keeps L s.dev tS.dev := by
  unfold execOwnerAck at qE
  try dsimp only at qE
  repeat' (first | (cases qE; done) | split at qE)
  all_goals try cases qE
  all_goals with_reducible repeat' (first
      | exact Keeps.refl _ _ | exact Blk.le (by decide) sB | assumption | apply exemptIn_k | intro _ _ | apply ownerAck_k
      | apply when_k | split | (apply Keeps.fstOf; assumption) | dsimp only)

theorem execHandoverReq_frame {e : Env} {groups : BitVec 4} {direction : Nat} {s : State} {tS : State}
    (sB : Blk.sub [.out, .cat, .ciph, .hif, .tango, .ih, .bpm, .dma, .evr] L = true)
    (qE : execHandoverReq e groups direction s = .next tS) :
    Keeps L s.dev tS.dev := by
  unfold execHandoverReq at qE
  try dsimp only at qE
  repeat' (first | (cases qE; done) | split at qE)
  all_goals try cases qE
  all_goals with_reducible repeat' (first
      | exact Keeps.refl _ _ | exact Blk.le (by decide) sB | assumption | apply checkedIn_k | intro _ _ | apply handoverReq_k
      | apply when_k | split | (apply Keeps.fstOf; assumption) | dsimp only)

theorem execHandoverReady_frame {e : Env} {groups : BitVec 4} {s : State} {tS : State}
    (sB : Blk.sub [.out, .free, .lg, .pipes, .vault, .cat, .ciph, .dgst, .hif, .tango, .ih, .bpm, .mca, .dma, .evr] L = true)
    (qE : execHandoverReady e groups s = .next tS) :
    Keeps L s.dev tS.dev := by
  unfold execHandoverReady at qE
  try dsimp only at qE
  repeat' (first | (cases qE; done) | split at qE)
  all_goals try cases qE
  all_goals with_reducible repeat' (first
      | exact Keeps.refl _ _ | exact Blk.le (by decide) sB | assumption | apply checkedIn_k | intro _ _
      | apply handoverReady_k | apply when_k | split | (apply Keeps.fstOf; assumption) | dsimp only)

theorem execHandoverState_frame {e : Env} {cuts : List (Fin 4 × W32 × GState)} {chains : List ChainHand} {s : State}
    {tS : State}
    (sB : Blk.sub [.out, .free, .sl, .lg, .pipes, .vault, .cat, .ciph, .dgst, .hif, .tango, .ih, .repl, .bpm, .mca, .dma,
      .evr] L = true) (qE : execHandoverState e cuts chains s = .next tS) :
    Keeps L s.dev tS.dev := by
  unfold execHandoverState at qE
  try dsimp only at qE
  repeat' (first | (cases qE; done) | split at qE)
  all_goals try cases qE
  all_goals with_reducible repeat' (first
      | exact Keeps.refl _ _ | exact Blk.le (by decide) sB | assumption | apply handoverState_k | apply tangoIn_k | intro _ _
      | apply when_k | split | (apply Keeps.fstOf; assumption) | dsimp only)

theorem execHandoverDone_frame {e : Env} {_commits : List (Fin 4 × W32)} {s : State} {tS : State}
    (sB : Blk.sub [.out, .free, .sl, .lg, .pipes, .vault, .vcnt, .cat, .disk, .ciph, .dgst, .hif, .tango, .ih, .repl, .bpm,
      .mca, .dma, .evr] L = true) (qE : execHandoverDone e _commits s = .next tS) :
    Keeps L s.dev tS.dev := by
  unfold execHandoverDone at qE
  try dsimp only at qE
  repeat' (first | (cases qE; done) | split at qE)
  all_goals try cases qE
  all_goals with_reducible repeat' (first
      | exact Keeps.refl _ _ | exact Blk.le (by decide) sB | assumption | apply checkedIn_k | intro _ _
      | apply handoverDone_k | apply when_k | split | (apply Keeps.fstOf; assumption) | dsimp only)

theorem execHandoverTimeout_frame {t : TakeoverIn} {s : State} {tS : State}
    (sB : Blk.sub [.out, .free, .glb, .sl, .lg, .pipes, .vault, .vcnt, .cat, .disk, .ciph, .dgst, .hif, .tango, .ih, .repl,
      .bpm, .mca, .dma, .evr] L = true) (qE : execHandoverTimeout t s = .next tS) :
    Keeps L s.dev tS.dev := by
  unfold execHandoverTimeout at qE
  try dsimp only at qE
  repeat' (first | (cases qE; done) | split at qE)
  all_goals try cases qE
  all_goals with_reducible repeat' (first
      | exact Keeps.refl _ _ | exact Blk.le (by decide) sB | assumption | apply handoverTimeout_k | apply when_k | split
      | (apply Keeps.fstOf; assumption) | dsimp only)

theorem execLeaving_frame {e : Env} {cause : Nat} {t : TakeoverIn} {s : State} {tS : State}
    (sB : Blk.sub [.out, .free, .glb, .sl, .lg, .pipes, .vault, .vcnt, .cat, .disk, .ciph, .dgst, .hif, .tango, .ih, .repl,
      .bpm, .mca, .dma, .evr] L = true) (qE : execLeaving e cause t s = .next tS) :
    Keeps L s.dev tS.dev := by
  unfold execLeaving at qE
  try dsimp only at qE
  repeat' (first | (cases qE; done) | split at qE)
  all_goals try cases qE
  all_goals with_reducible repeat' (first
      | exact Keeps.refl _ _ | exact Blk.le (by decide) sB | assumption | apply exemptIn_k | intro _ _ | apply leaving_k
      | apply when_k | split | (apply Keeps.fstOf; assumption) | dsimp only)

theorem execFrozen_frame {e : Env} {_lastJseq : Nat} {t : TakeoverIn} {s : State} {tS : State}
    (sB : Blk.sub [.out, .free, .glb, .sl, .lg, .pipes, .vault, .vcnt, .cat, .disk, .ciph, .dgst, .hif, .tango, .ih, .repl,
      .bpm, .mca, .dma, .evr] L = true) (qE : execFrozen e _lastJseq t s = .next tS) :
    Keeps L s.dev tS.dev := by
  unfold execFrozen at qE
  try dsimp only at qE
  repeat' (first | (cases qE; done) | split at qE)
  all_goals try cases qE
  all_goals with_reducible repeat' (first
      | exact Keeps.refl _ _ | exact Blk.le (by decide) sB | assumption | apply checkedIn_k | intro _ _ | apply frozen_k
      | apply when_k | split | (apply Keeps.fstOf; assumption) | dsimp only)

theorem execTakePart_frame {e : Env} {r : OpenReq} {kcv dkcv : W32} {takeId part : Nat} {s : State} {tS : State}
    (sB : Blk.sub [.out, .vault, .cat, .ciph, .dgst, .hif, .tango, .ih, .mca, .dma, .evr] L = true)
    (qE : execTakePart e r kcv dkcv takeId part s = .next tS) :
    Keeps L s.dev tS.dev := by
  unfold execTakePart at qE
  try dsimp only at qE
  repeat' (first | (cases qE; done) | split at qE)
  all_goals try cases qE
  all_goals with_reducible repeat' (first
      | exact Keeps.refl _ _ | exact Blk.le (by decide) sB | assumption | apply checkedIn_k | intro _ _ | apply takePart_k
      | apply when_k | split | (apply Keeps.fstOf; assumption) | dsimp only)

theorem execTakePartAck_frame {e : Env} {takeId _part status : Nat} {s : State} {tS : State}
    (sB : Blk.sub [.out, .vault, .cat, .ciph, .dgst, .hif, .tango, .ih, .mca, .dma, .evr] L = true)
    (qE : execTakePartAck e takeId _part status s = .next tS) :
    Keeps L s.dev tS.dev := by
  unfold execTakePartAck at qE
  try dsimp only at qE
  repeat' (first | (cases qE; done) | split at qE)
  all_goals try cases qE
  all_goals with_reducible repeat' (first
      | exact Keeps.refl _ _ | exact Blk.le (by decide) sB | assumption | apply checkedIn_k | intro _ _ | apply takePartAck_k
      | apply when_k | split | (apply Keeps.fstOf; assumption) | dsimp only)

theorem execTriggerFwd_frame {e : Env} {r : TrigRec} {takeId _segId : Nat} {s : State} {tS : State}
    (sB : Blk.sub [.out, .vault, .cat, .ciph, .hif, .tango, .ih, .mca, .dma, .evr] L = true)
    (qE : execTriggerFwd e r takeId _segId s = .next tS) :
    Keeps L s.dev tS.dev := by
  unfold execTriggerFwd at qE
  try dsimp only at qE
  repeat' (first | (cases qE; done) | split at qE)
  all_goals try cases qE
  all_goals with_reducible repeat' (first
      | exact Keeps.refl _ _ | exact Blk.le (by decide) sB | assumption | apply checkedIn_k | intro _ _ | apply triggerFwd_k
      | apply when_k | split | (apply Keeps.fstOf; assumption) | dsimp only)

theorem execDriveNotice_frame {e : Env} {slot action : Nat} {s : State} {tS : State}
    (sB : Blk.sub [.out, .free, .vault, .cat, .ciph, .hif, .tango, .ih, .mca, .dma, .evr] L = true)
    (qE : execDriveNotice e slot action s = .next tS) :
    Keeps L s.dev tS.dev := by
  unfold execDriveNotice at qE
  try dsimp only at qE
  repeat' (first | (cases qE; done) | split at qE)
  all_goals try cases qE
  all_goals with_reducible repeat' (first
      | exact Keeps.refl _ _ | exact Blk.le (by decide) sB | assumption | apply checkedIn_k | intro _ _ | apply driveNotice_k
      | apply when_k | split | (apply Keeps.fstOf; assumption) | dsimp only)

theorem execClaimVerdict_frame {e : Env} {layout period jseq : Nat} {refused : Bool} {s : State} {tS : State}
    (sB : Blk.sub [.out, .vault, .cat, .ciph, .hif, .tango, .ih, .mca, .dma, .evr] L = true)
    (qE : execClaimVerdict e layout period jseq refused s = .next tS) :
    Keeps L s.dev tS.dev := by
  unfold execClaimVerdict at qE
  try dsimp only at qE
  repeat' (first | (cases qE; done) | split at qE)
  all_goals try cases qE
  all_goals with_reducible repeat' (first
      | exact Keeps.refl _ _ | exact Blk.le (by decide) sB | assumption | apply checkedIn_k | intro _ _
      | apply claimVerdict_k | apply when_k | split | (apply Keeps.fstOf; assumption) | dsimp only)

theorem execCheckpointTimer_frame {s : State} {tS : State}
    (sB : Blk.sub [.out, .free, .vault, .cat, .ciph, .hif, .tango, .mca, .dma, .evr] L = true)
    (qE : execCheckpointTimer s = .next tS) :
    Keeps L s.dev tS.dev := by
  unfold execCheckpointTimer at qE
  cases qE
  refine stagedState_k ?_ (Blk.le (by decide) sB)
  exact when_k (sendCkpt_k (Blk.le (by decide) sB) (Keeps.refl _ _)) (Keeps.refl _ _)

theorem execCkptDone_frame {e : Env} {_buffer : Nat} {c : Ckpt} {s : State} {tS : State}
    (sB : Blk.sub [.out, .free, .sl, .lg, .pipes, .vault, .cat, .ciph, .dgst, .hif, .tango, .ih, .bpm, .mca, .dma,
      .evr] L = true) (qE : execCkptDone e _buffer c s = .next tS) :
    Keeps L s.dev tS.dev := by
  unfold execCkptDone at qE
  try dsimp only at qE
  repeat' (first | (cases qE; done) | split at qE)
  all_goals try cases qE
  all_goals with_reducible repeat' (first
      | exact Keeps.refl _ _ | exact Blk.le (by decide) sB | assumption | apply checkedIn_k | intro _ _ | apply ckptDone_k
      | apply when_k | split | (apply Keeps.fstOf; assumption) | dsimp only)

theorem execHealReq_frame {e : Env} {reqId : W32} {g : Fin 4} {count : Nat} {first : W32} {streamId : W16} {s : State}
    {tS : State}
    (sB : Blk.sub [.out, .cat, .ciph, .hif, .tango, .ih, .dma, .evr] L = true)
    (qE : execHealReq e reqId g count first streamId s = .next tS) :
    Keeps L s.dev tS.dev := by
  unfold execHealReq at qE
  try dsimp only at qE
  repeat' (first | (cases qE; done) | split at qE)
  all_goals try cases qE
  all_goals with_reducible repeat' (first
      | exact Keeps.refl _ _ | exact Blk.le (by decide) sB | assumption | apply checkedIn_k | intro _ _ | apply healReq_k
      | apply when_k | split | (apply Keeps.fstOf; assumption) | dsimp only)

theorem execHealDone_frame {e : Env} {reqId : W32} {g : Fin 4} {count : Nat} {first : W32} {held : W64} {slots : List Slot}
    {s : State} {tS : State}
    (sB : Blk.sub [.out, .free, .sl, .lg, .pipes, .vault, .cat, .ciph, .dgst, .hif, .tango, .ih, .bpm, .mca, .dma,
      .evr] L = true) (qE : execHealDone e reqId g count first held slots s = .next tS) :
    Keeps L s.dev tS.dev := by
  unfold execHealDone at qE
  try dsimp only at qE
  repeat' (first | (cases qE; done) | split at qE)
  all_goals try cases qE
  all_goals with_reducible repeat' (first
      | exact Keeps.refl _ _ | exact Blk.le (by decide) sB | assumption | apply checkedIn_k | intro _ _ | apply healDone_k
      | apply when_k | split | (apply Keeps.fstOf; assumption) | dsimp only)

theorem execMirrorRec_frame {e : Env} {r : JRec} {st : Option GState} {crcOk : Bool} {s : State} {tS : State}
    (sB : Blk.sub [.out, .vault, .cat, .disk, .ciph, .dgst, .hif, .tango, .ih, .repl, .mca, .dma, .evr] L = true)
    (qE : execMirrorRec e r st crcOk s = .next tS) :
    Keeps L s.dev tS.dev := by
  unfold execMirrorRec at qE
  try dsimp only at qE
  repeat' (first | (cases qE; done) | split at qE)
  all_goals try cases qE
  all_goals with_reducible repeat' (first
      | exact Keeps.refl _ _ | exact Blk.le (by decide) sB | assumption | apply checkedIn_k | intro _ _ | apply mirrorRec_k
      | apply when_k | split | (apply Keeps.fstOf; assumption) | dsimp only)

theorem execMirrorAck_frame {e : Env} {jseq : Nat} {s : State} {tS : State}
    (sB : Blk.sub [.out, .free, .sl, .lg, .pipes, .vault, .vcnt, .cat, .disk, .ciph, .dgst, .hif, .tango, .ih, .repl, .bpm,
      .mca, .dma, .evr] L = true) (qE : execMirrorAck e jseq s = .next tS) :
    Keeps L s.dev tS.dev := by
  unfold execMirrorAck at qE
  try dsimp only at qE
  repeat' (first | (cases qE; done) | split at qE)
  all_goals try cases qE
  all_goals with_reducible repeat' (first
      | exact Keeps.refl _ _ | exact Blk.le (by decide) sB | assumption | apply checkedIn_k | intro _ _ | apply mirrorAck_k
      | apply when_k | split | (apply Keeps.fstOf; assumption) | dsimp only)

theorem execNak_frame {e : Env} {kind : NakKind} {reason : Nat} {owners : Four Nat} {s : State} {tS : State}
    (sB : Blk.sub [.out, .free, .lg, .pipes, .vault, .cat, .ciph, .dgst, .hif, .tango, .ih, .repl, .bpm, .mca, .dma,
      .evr] L = true) (qE : execNak e kind reason owners s = .next tS) :
    Keeps L s.dev tS.dev := by
  unfold execNak at qE
  try dsimp only at qE
  repeat' (first | (cases qE; done) | split at qE)
  all_goals try cases qE
  all_goals with_reducible repeat' (first
      | exact Keeps.refl _ _ | exact Blk.le (by decide) sB | assumption | apply exemptIn_k | intro _ _ | apply nak_k
      | apply when_k | split | (apply Keeps.fstOf; assumption) | dsimp only)

theorem execLedger_frame {e : Env} {ents : List LedgerEnt} {s : State} {tS : State}
    (sB : Blk.sub [.out, .lg, .cat, .ciph, .hif, .tango, .ih, .dma, .evr] L = true) (qE : execLedger e ents s = .next tS) :
    Keeps L s.dev tS.dev := by
  unfold execLedger at qE
  try dsimp only at qE
  repeat' (first | (cases qE; done) | split at qE)
  all_goals try cases qE
  all_goals with_reducible repeat' (first
      | exact Keeps.refl _ _ | exact Blk.le (by decide) sB | assumption | apply checkedIn_k | intro _ _ | apply ledgerEnt_k
      | (apply each_k; intro _ _ _) | apply when_k | split | (apply Keeps.fstOf; assumption) | dsimp only)

theorem execStandbyReady_frame {s : State} {tS : State} (sB : Blk.sub [.tango] L = true) (qE : execStandbyReady s = .next tS) :
    Keeps L s.dev tS.dev := by
  unfold execStandbyReady at qE
  try dsimp only at qE
  repeat' (first | (cases qE; done) | split at qE)
  all_goals try cases qE
  all_goals with_reducible repeat' (first
      | exact Keeps.refl _ _ | exact Blk.le (by decide) sB | assumption | apply onTango_k | apply when_k | split
      | (apply Keeps.fstOf; assumption) | dsimp only)

theorem execQpContextChange_frame {qp : Nat} {gen : Byte} {host : QpHost} {windows : List Window} {s : State} {tS : State}
    (sB : Blk.sub [.out, .free, .vault, .cat, .ciph, .hif, .rdma, .rcnt, .repl, .bpm, .dma] L = true)
    (qE : execQpContextChange qp gen host windows s = .next tS) :
    Keeps L s.dev tS.dev := by
  unfold execQpContextChange at qE
  try dsimp only at qE
  repeat' (first | (cases qE; done) | split at qE)
  all_goals try cases qE
  all_goals with_reducible repeat' (first
      | exact Keeps.refl _ _ | exact Blk.le (by decide) sB | assumption | apply contextChange_k | apply dropSessions_k
      | apply when_k | split | (apply Keeps.fstOf; assumption) | dsimp only)

theorem execQpNop_frame {qp : Nat} {wr : Wr} {s : State} {tS : State}
    (sB : Blk.sub [.out, .free, .hif, .rdma, .rcnt] L = true) (qE : execQpNop qp wr s = .next tS) :
    Keeps L s.dev tS.dev := by
  unfold execQpNop at qE
  try dsimp only at qE
  repeat' (first | (cases qE; done) | split at qE)
  all_goals try cases qE
  all_goals with_reducible repeat' (first
      | exact Keeps.refl _ _ | exact Blk.le (by decide) sB | assumption | apply postNop_k | split | dsimp only)

theorem execQpSend_frame {qp : Nat} {wr : Wr} {s : State} {tS : State}
    (sB : Blk.sub [.out, .free, .hif, .rdma, .rcnt] L = true) (qE : execQpSend qp wr s = .next tS) :
    Keeps L s.dev tS.dev := by
  unfold execQpSend at qE
  try dsimp only at qE
  repeat' (first | (cases qE; done) | split at qE)
  all_goals try cases qE
  all_goals with_reducible repeat' (first
      | exact Keeps.refl _ _ | exact Blk.le (by decide) sB | assumption | apply postWr_k | split | dsimp only)

theorem execQpWrite_frame {qp : Nat} {wr : Wr} {s : State} {tS : State}
    (sB : Blk.sub [.out, .free, .hif, .rdma, .rcnt] L = true) (qE : execQpWrite qp wr s = .next tS) :
    Keeps L s.dev tS.dev := by
  unfold execQpWrite at qE
  try dsimp only at qE
  repeat' (first | (cases qE; done) | split at qE)
  all_goals try cases qE
  all_goals with_reducible repeat' (first
      | exact Keeps.refl _ _ | exact Blk.le (by decide) sB | assumption | apply postWr_k | split | dsimp only)

theorem execQpWriteImm_frame {qp : Nat} {wr : Wr} {s : State} {tS : State}
    (sB : Blk.sub [.out, .free, .hif, .rdma, .rcnt] L = true) (qE : execQpWriteImm qp wr s = .next tS) :
    Keeps L s.dev tS.dev := by
  unfold execQpWriteImm at qE
  try dsimp only at qE
  repeat' (first | (cases qE; done) | split at qE)
  all_goals try cases qE
  all_goals with_reducible repeat' (first
      | exact Keeps.refl _ _ | exact Blk.le (by decide) sB | assumption | apply postWr_k | split | dsimp only)

theorem execQpRead_frame {qp : Nat} {wr : Wr} {s : State} {tS : State}
    (sB : Blk.sub [.out, .free, .hif, .rdma, .rcnt] L = true) (qE : execQpRead qp wr s = .next tS) :
    Keeps L s.dev tS.dev := by
  unfold execQpRead at qE
  try dsimp only at qE
  repeat' (first | (cases qE; done) | split at qE)
  all_goals try cases qE
  all_goals with_reducible repeat' (first
      | exact Keeps.refl _ _ | exact Blk.le (by decide) sB | assumption | apply postRead_k | split | dsimp only)

theorem execQpFlush_frame {qp : Nat} {wr : Wr} {s : State} {tS : State}
    (sB : Blk.sub [.out, .free, .hif, .rdma, .rcnt] L = true) (qE : execQpFlush qp wr s = .next tS) :
    Keeps L s.dev tS.dev := by
  unfold execQpFlush at qE
  try dsimp only at qE
  repeat' (first | (cases qE; done) | split at qE)
  all_goals try cases qE
  all_goals with_reducible repeat' (first
      | exact Keeps.refl _ _ | exact Blk.le (by decide) sB | assumption | apply postWr_k | split | dsimp only)

theorem execQpWait_frame {qp : Nat} {wr : Wr} {s : State} {tS : State}
    (sB : Blk.sub [.out, .free, .hif, .rdma, .rcnt] L = true) (qE : execQpWait qp wr s = .next tS) :
    Keeps L s.dev tS.dev := by
  unfold execQpWait at qE
  try dsimp only at qE
  repeat' (first | (cases qE; done) | split at qE)
  all_goals try cases qE
  all_goals with_reducible repeat' (first
      | exact Keeps.refl _ _ | exact Blk.le (by decide) sB | assumption | apply postWait_k | split | dsimp only)

theorem execRdmaRequest_frame {r : RdmaReq} {s : State} {tS : State}
    (sB : Blk.sub [.out, .free, .hif, .rdma, .rcnt] L = true) (qE : execRdmaRequest r s = .next tS) :
    Keeps L s.dev tS.dev := by
  unfold execRdmaRequest at qE
  try dsimp only at qE
  repeat' (first | (cases qE; done) | split at qE)
  all_goals try cases qE
  all_goals with_reducible repeat' (first
      | exact Keeps.refl _ _ | exact Blk.le (by decide) sB | assumption | apply rdmaRequest_k | apply when_k | split
      | (apply Keeps.fstOf; assumption) | dsimp only)

theorem execRdmaAck_frame {qp : Nat} {psn : BitVec 24} {data : List Byte} {s : State} {tS : State}
    (sB : Blk.sub [.out, .hif, .rdma] L = true) (qE : execRdmaAck qp psn data s = .next tS) :
    Keeps L s.dev tS.dev := by
  unfold execRdmaAck at qE
  try dsimp only at qE
  repeat' (first | (cases qE; done) | split at qE)
  all_goals try cases qE
  all_goals with_reducible repeat' (first
      | exact Keeps.refl _ _ | exact Blk.le (by decide) sB | assumption | apply rdmaAck_k | apply when_k | split
      | (apply Keeps.fstOf; assumption) | dsimp only)

theorem execRdmaNak_frame {qp : Nat} {psn : BitVec 24} {code : NakCode} {s : State} {tS : State}
    (sB : Blk.sub [.out, .vault, .cat, .ciph, .hif, .rdma, .repl, .bpm, .dma] L = true)
    (qE : execRdmaNak qp psn code s = .next tS) :
    Keeps L s.dev tS.dev := by
  unfold execRdmaNak at qE
  try dsimp only at qE
  repeat' (first | (cases qE; done) | split at qE)
  all_goals try cases qE
  all_goals with_reducible repeat' (first
      | exact Keeps.refl _ _ | exact Blk.le (by decide) sB | assumption | apply dropSessions_k | apply rdmaNak_k
      | apply when_k | split | (apply Keeps.fstOf; assumption) | dsimp only)

theorem execRdmaAckTimeout_frame {qp : Nat} {s : State} {tS : State}
    (sB : Blk.sub [.out, .vault, .cat, .ciph, .hif, .rdma, .repl, .bpm, .dma] L = true)
    (qE : execRdmaAckTimeout qp s = .next tS) :
    Keeps L s.dev tS.dev := by
  unfold execRdmaAckTimeout at qE
  try dsimp only at qE
  repeat' (first | (cases qE; done) | split at qE)
  all_goals try cases qE
  all_goals with_reducible repeat' (first
      | exact Keeps.refl _ _ | exact Blk.le (by decide) sB | assumption | apply ackTimeout_k | apply dropSessions_k
      | apply when_k | split | (apply Keeps.fstOf; assumption) | dsimp only)

theorem execRnrRetryTimer_frame {qp : Nat} {s : State} {tS : State}
    (sB : Blk.sub [.out, .vault, .cat, .ciph, .hif, .rdma, .repl, .bpm, .dma] L = true)
    (qE : execRnrRetryTimer qp s = .next tS) :
    Keeps L s.dev tS.dev := by
  unfold execRnrRetryTimer at qE
  try dsimp only at qE
  repeat' (first | (cases qE; done) | split at qE)
  all_goals try cases qE
  all_goals with_reducible repeat' (first
      | exact Keeps.refl _ _ | exact Blk.le (by decide) sB | assumption | apply dropSessions_k | apply rnrRetry_k
      | apply when_k | split | (apply Keeps.fstOf; assumption) | dsimp only)

theorem execCnp_frame {qp : Nat} {s : State} {tS : State}
    (sB : Blk.sub [.rdma, .rcnt] L = true) (qE : execCnp qp s = .next tS) :
    Keeps L s.dev tS.dev := by
  unfold execCnp at qE
  try dsimp only at qE
  repeat' (first | (cases qE; done) | split at qE)
  all_goals try cases qE
  all_goals with_reducible repeat' (first
      | exact Keeps.refl _ _ | exact Blk.le (by decide) sB | assumption | apply gotCnp_k | apply when_k | split
      | (apply Keeps.fstOf; assumption) | dsimp only)

theorem execCnpRateTimer_frame {qp : Nat} {s : State} {tS : State}
    (sB : Blk.sub [.rdma] L = true) (qE : execCnpRateTimer qp s = .next tS) :
    Keeps L s.dev tS.dev := by
  unfold execCnpRateTimer at qE
  try dsimp only at qE
  repeat' (first | (cases qE; done) | split at qE)
  all_goals try cases qE
  all_goals with_reducible repeat' (first
      | exact Keeps.refl _ _ | exact Blk.le (by decide) sB | assumption | apply rateTimer_k | apply when_k | split
      | (apply Keeps.fstOf; assumption) | dsimp only)

theorem execContextFetchDone_frame {qp : Nat} {s : State} {tS : State}
    (sB : Blk.sub [.out, .free, .hif, .rdma, .rcnt] L = true) (qE : execContextFetchDone qp s = .next tS) :
    Keeps L s.dev tS.dev := by
  unfold execContextFetchDone at qE
  try dsimp only at qE
  repeat' (first | (cases qE; done) | split at qE)
  all_goals try cases qE
  all_goals with_reducible repeat' (first
      | exact Keeps.refl _ _ | exact Blk.le (by decide) sB | assumption | apply fetchDone_k | apply when_k | split
      | (apply Keeps.fstOf; assumption) | dsimp only)

theorem execRHello_frame {chan : Nat} {m : Hello} {s : State} {tS : State}
    (sB : Blk.sub [.out, .free, .pipes, .vault, .cat, .ciph, .hif, .tango, .rdma, .repl, .bpm, .mca, .dma, .evr] L = true)
    (qE : execRHello chan m s = .next tS) :
    Keeps L s.dev tS.dev := by
  unfold execRHello at qE
  try dsimp only at qE
  repeat' (first | (cases qE; done) | split at qE)
  all_goals try cases qE
  all_goals with_reducible repeat' (first
      | exact Keeps.refl _ _ | exact Blk.le (by decide) sB | assumption | apply rHello_k | apply settleJobs_k | apply when_k
      | split | (apply Keeps.fstOf; assumption) | dsimp only)

theorem execRConfirm_frame {chan : Nat} {auth : Bool} {s : State} {tS : State}
    (sB : Blk.sub [.out, .free, .pipes, .vault, .cat, .ciph, .hif, .tango, .repl, .bpm, .mca, .dma, .evr] L = true)
    (qE : execRConfirm chan auth s = .next tS) :
    Keeps L s.dev tS.dev := by
  unfold execRConfirm at qE
  try dsimp only at qE
  repeat' (first | (cases qE; done) | split at qE)
  all_goals try cases qE
  all_goals with_reducible repeat' (first
      | exact Keeps.refl _ _ | exact Blk.le (by decide) sB | assumption | apply rConfirm_k | apply settleJobs_k
      | apply when_k | split | (apply Keeps.fstOf; assumption) | dsimp only)

theorem execOffer_frame {chan : Nat} {o : Offer} {s : State} {tS : State}
    (sB : Blk.sub [.out, .free, .pipes, .vault, .cat, .ciph, .hif, .tango, .repl, .bpm, .mca, .dma, .evr] L = true)
    (qE : execOffer chan o s = .next tS) :
    Keeps L s.dev tS.dev := by
  unfold execOffer at qE
  try dsimp only at qE
  repeat' (first | (cases qE; done) | split at qE)
  all_goals try cases qE
  all_goals with_reducible repeat' (first
      | exact Keeps.refl _ _ | exact Blk.le (by decide) sB | assumption | apply gotOffer_k | apply settleJobs_k
      | apply when_k | split | (apply Keeps.fstOf; assumption) | dsimp only)

theorem execAcceptTimeout_frame {chan : Nat} {s : State} {tS : State}
    (sB : Blk.sub [.out, .free, .pipes, .vault, .cat, .ciph, .hif, .tango, .repl, .bpm, .mca, .dma, .evr] L = true)
    (qE : execAcceptTimeout chan s = .next tS) :
    Keeps L s.dev tS.dev := by
  unfold execAcceptTimeout at qE
  try dsimp only at qE
  repeat' (first | (cases qE; done) | split at qE)
  all_goals try cases qE
  all_goals with_reducible repeat' (first
      | exact Keeps.refl _ _ | exact Blk.le (by decide) sB | assumption | apply acceptTimeout_k | apply settleJobs_k
      | apply when_k | split | (apply Keeps.fstOf; assumption) | dsimp only)

theorem execAccept_frame {chan : Nat} {status nextEntry : Nat} {s : State} {tS : State}
    (sB : Blk.sub [.out, .free, .pipes, .vault, .cat, .ciph, .hif, .tango, .repl, .bpm, .mca, .dma, .evr] L = true)
    (qE : execAccept chan status nextEntry s = .next tS) :
    Keeps L s.dev tS.dev := by
  unfold execAccept at qE
  try dsimp only at qE
  repeat' (first | (cases qE; done) | split at qE)
  all_goals try cases qE
  all_goals with_reducible repeat' (first
      | exact Keeps.refl _ _ | exact Blk.le (by decide) sB | assumption | apply gotAccept_k | apply settleJobs_k
      | apply when_k | split | (apply Keeps.fstOf; assumption) | dsimp only)

theorem execFpBatch_frame {chan : Nat} {first : Nat} {lookup : Bool} {entries : List FpEntry} {s : State} {tS : State}
    (sB : Blk.sub [.out, .free, .pipes, .vault, .cat, .ciph, .hif, .tango, .repl, .bpm, .mca, .dma, .evr] L = true)
    (qE : execFpBatch chan first lookup entries s = .next tS) :
    Keeps L s.dev tS.dev := by
  unfold execFpBatch at qE
  try dsimp only at qE
  repeat' (first | (cases qE; done) | split at qE)
  all_goals try cases qE
  all_goals with_reducible repeat' (first
      | exact Keeps.refl _ _ | exact Blk.le (by decide) sB | assumption | apply gotBatch_k | apply settleJobs_k
      | apply when_k | split | (apply Keeps.fstOf; assumption) | dsimp only)

theorem execHeld_frame {chan : Nat} {first : Nat} {bitmap : List Bool} {s : State} {tS : State}
    (sB : Blk.sub [.out, .free, .pipes, .vault, .cat, .ciph, .hif, .tango, .rcnt, .repl, .bpm, .mca, .dma, .evr] L = true)
    (qE : execHeld chan first bitmap s = .next tS) :
    Keeps L s.dev tS.dev := by
  unfold execHeld at qE
  try dsimp only at qE
  repeat' (first | (cases qE; done) | split at qE)
  all_goals try cases qE
  all_goals with_reducible repeat' (first
      | exact Keeps.refl _ _ | exact Blk.le (by decide) sB | assumption | apply gotHeld_k | apply settleJobs_k | apply when_k
      | split | (apply Keeps.fstOf; assumption) | dsimp only)

theorem execTile_frame {chan : Nat} {entry : Nat} {stored : List Byte} {s : State} {tS : State}
    (sB : Blk.sub [.out, .free, .pipes, .vault, .cat, .ciph, .hif, .tango, .rcnt, .repl, .bpm, .mca, .dma, .evr] L = true)
    (qE : execTile chan entry stored s = .next tS) :
    Keeps L s.dev tS.dev := by
  unfold execTile at qE
  try dsimp only at qE
  repeat' (first | (cases qE; done) | split at qE)
  all_goals try cases qE
  all_goals with_reducible repeat' (first
      | exact Keeps.refl _ _ | exact Blk.le (by decide) sB | assumption | apply settleJobs_k | apply tileArrives_k
      | apply when_k | split | (apply Keeps.fstOf; assumption) | dsimp only)

theorem execCommit_frame {chan : Nat} {entries : Nat} {s : State} {tS : State}
    (sB : Blk.sub [.out, .free, .pipes, .vault, .cat, .ciph, .hif, .tango, .repl, .bpm, .mca, .dma, .evr] L = true)
    (qE : execCommit chan entries s = .next tS) :
    Keeps L s.dev tS.dev := by
  unfold execCommit at qE
  try dsimp only at qE
  repeat' (first | (cases qE; done) | split at qE)
  all_goals try cases qE
  all_goals with_reducible repeat' (first
      | exact Keeps.refl _ _ | exact Blk.le (by decide) sB | assumption | apply gotCommit_k | apply settleJobs_k
      | apply when_k | split | (apply Keeps.fstOf; assumption) | dsimp only)

theorem execReplCommitTimer_frame {chan : Nat} {s : State} {tS : State}
    (sB : Blk.sub [.out, .free, .pipes, .vault, .cat, .ciph, .hif, .tango, .repl, .bpm, .mca, .dma, .evr] L = true)
    (qE : execReplCommitTimer chan s = .next tS) :
    Keeps L s.dev tS.dev := by
  unfold execReplCommitTimer at qE
  try dsimp only at qE
  repeat' (first | (cases qE; done) | split at qE)
  all_goals try cases qE
  all_goals with_reducible repeat' (first
      | exact Keeps.refl _ _ | exact Blk.le (by decide) sB | assumption | apply commitTimer_k | apply settleJobs_k
      | apply when_k | split | (apply Keeps.fstOf; assumption) | dsimp only)

theorem execClose_frame {chan : Nat} {total : Nat} {s : State} {tS : State}
    (sB : Blk.sub [.out, .free, .pipes, .vault, .cat, .ciph, .hif, .tango, .repl, .bpm, .mca, .dma, .evr] L = true)
    (qE : execClose chan total s = .next tS) :
    Keeps L s.dev tS.dev := by
  unfold execClose at qE
  try dsimp only at qE
  repeat' (first | (cases qE; done) | split at qE)
  all_goals try cases qE
  all_goals with_reducible repeat' (first
      | exact Keeps.refl _ _ | exact Blk.le (by decide) sB | assumption | apply gotClose_k | apply settleJobs_k
      | apply when_k | split | (apply Keeps.fstOf; assumption) | dsimp only)

theorem execClosed_frame {chan : Nat} {_total : Nat} {s : State} {tS : State}
    (sB : Blk.sub [.out, .free, .pipes, .vault, .cat, .ciph, .hif, .tango, .repl, .bpm, .mca, .dma, .evr] L = true)
    (qE : execClosed chan _total s = .next tS) :
    Keeps L s.dev tS.dev := by
  unfold execClosed at qE
  try dsimp only at qE
  repeat' (first | (cases qE; done) | split at qE)
  all_goals try cases qE
  all_goals with_reducible repeat' (first
      | exact Keeps.refl _ _ | exact Blk.le (by decide) sB | assumption | apply gotClosed_k | apply settleJobs_k
      | apply when_k | split | (apply Keeps.fstOf; assumption) | dsimp only)

theorem execError_frame {chan : Nat} {_entry status : Nat} {s : State} {tS : State}
    (sB : Blk.sub [.out, .free, .pipes, .vault, .cat, .ciph, .hif, .tango, .repl, .bpm, .mca, .dma, .evr] L = true)
    (qE : execError chan _entry status s = .next tS) :
    Keeps L s.dev tS.dev := by
  unfold execError at qE
  try dsimp only at qE
  repeat' (first | (cases qE; done) | split at qE)
  all_goals try cases qE
  all_goals with_reducible repeat' (first
      | exact Keeps.refl _ _ | exact Blk.le (by decide) sB | assumption | apply gotError_k | apply settleJobs_k
      | apply when_k | split | (apply Keeps.fstOf; assumption) | dsimp only)

theorem execEarlyWarning_frame {replica : Fin 24} {avs : AvsIn} {s : State} {tS : State}
    (sB : Blk.sub [.out, .cat, .hif, .dma, .evr, .mnt] L = true) (qE : execEarlyWarning replica avs s = .next tS) :
    Keeps L s.dev tS.dev := by
  unfold execEarlyWarning at qE
  try dsimp only at qE
  repeat' (first | (cases qE; done) | split at qE)
  all_goals try cases qE
  all_goals with_reducible repeat' (first
      | exact Keeps.refl _ _ | exact Blk.le (by decide) sB | assumption | apply earlyWarning_k | apply when_k | split
      | (apply Keeps.fstOf; assumption) | dsimp only)

theorem execReplan_frame {r : SensorIn} {avs : AvsIn} {s : State} {tS : State}
    (sB : Blk.sub [.out, .cat, .hif, .dma, .evr, .mnt, .boot] L = true) (qE : execReplan r avs s = .next tS) :
    Keeps L s.dev tS.dev := by
  unfold execReplan at qE
  try dsimp only at qE
  repeat' (first | (cases qE; done) | split at qE)
  all_goals try cases qE
  all_goals with_reducible repeat' (first
      | exact Keeps.refl _ _ | exact Blk.le (by decide) sB | assumption | apply replanDue_k | apply when_k | split
      | (apply Keeps.fstOf; assumption) | dsimp only)

theorem execVddStepDown_frame {avs : AvsIn} {s : State} {tS : State}
    (sB : Blk.sub [.out, .cat, .hif, .dma, .evr, .mnt] L = true) (qE : execVddStepDown avs s = .next tS) :
    Keeps L s.dev tS.dev := by
  unfold execVddStepDown at qE
  try dsimp only at qE
  repeat' (first | (cases qE; done) | split at qE)
  all_goals try cases qE
  all_goals with_reducible repeat' (first
      | exact Keeps.refl _ _ | exact Blk.le (by decide) sB | assumption | apply stepVdd_k | apply when_k | split
      | (apply Keeps.fstOf; assumption) | dsimp only)

theorem execAvsRetry_frame {avs : AvsIn} {s : State} {tS : State}
    (sB : Blk.sub [.out, .cat, .hif, .dma, .evr, .mnt] L = true) (qE : execAvsRetry avs s = .next tS) :
    Keeps L s.dev tS.dev := by
  unfold execAvsRetry at qE
  try dsimp only at qE
  repeat' (first | (cases qE; done) | split at qE)
  all_goals try cases qE
  all_goals with_reducible repeat' (first
      | exact Keeps.refl _ _ | exact Blk.le (by decide) sB | assumption | apply retryVdd_k | apply when_k | split
      | (apply Keeps.fstOf; assumption) | dsimp only)

theorem execSensorRead_frame {r : SensorIn} {s : State} {tS : State}
    (sB : Blk.sub [.out, .cat, .hif, .dma, .evr, .mnt] L = true) (qE : execSensorRead r s = .next tS) :
    Keeps L s.dev tS.dev := by
  unfold execSensorRead at qE
  try dsimp only at qE
  repeat' (first | (cases qE; done) | split at qE)
  all_goals try cases qE
  all_goals with_reducible repeat' (first
      | exact Keeps.refl _ _ | exact Blk.le (by decide) sB | assumption | apply sensorRead_k | apply when_k | split
      | (apply Keeps.fstOf; assumption) | dsimp only)

theorem execThermalSample_frame {diodes : List Int} {s : State} {tS : State}
    (sB : Blk.sub [.out, .cat, .hif, .dma, .evr, .mnt] L = true) (qE : execThermalSample diodes s = .next tS) :
    Keeps L s.dev tS.dev := by
  unfold execThermalSample at qE
  try dsimp only at qE
  repeat' (first | (cases qE; done) | split at qE)
  all_goals try cases qE
  all_goals with_reducible repeat' (first
      | exact Keeps.refl _ _ | exact Blk.le (by decide) sB | assumption | apply thermalSample_k | apply when_k | split
      | (apply Keeps.fstOf; assumption) | dsimp only)

theorem execThermalTrip_frame {diode : Nat} {celsius : Int} {s : State} {tS : State}
    (sB : Blk.sub [.out, .glb, .vault, .cat, .ciph, .dgst, .hif, .tango, .dma, .evr] L = true)
    (qE : execThermalTrip diode celsius s = .next tS) :
    Keeps L s.dev tS.dev := by
  unfold execThermalTrip at qE
  try dsimp only at qE
  repeat' (first | (cases qE; done) | split at qE)
  all_goals try cases qE
  all_goals with_reducible repeat' (first
      | exact Keeps.refl _ _ | exact Blk.le (by decide) sB | assumption | apply thermalTrip_k | apply when_k | split
      | (apply Keeps.fstOf; assumption) | dsimp only)

theorem execPcieMargin_frame {port margin : Nat} {s : State} {tS : State}
    (sB : Blk.sub [.mnt] L = true) (qE : execPcieMargin port margin s = .next tS) :
    Keeps L s.dev tS.dev := by
  unfold execPcieMargin at qE
  try dsimp only at qE
  repeat' (first | (cases qE; done) | split at qE)
  all_goals try cases qE
  all_goals with_reducible repeat' (first
      | exact Keeps.refl _ _ | exact Blk.le (by decide) sB | assumption | apply onMnt_k | apply when_k | split
      | (apply Keeps.fstOf; assumption) | dsimp only)

theorem execEyeScan_frame {ethernet : Bool} {lane height width : Nat} {s : State} {tS : State}
    (sB : Blk.sub [.mnt] L = true) (qE : execEyeScan ethernet lane height width s = .next tS) :
    Keeps L s.dev tS.dev := by
  unfold execEyeScan at qE
  try dsimp only at qE
  repeat' (first | (cases qE; done) | split at qE)
  all_goals try cases qE
  all_goals with_reducible repeat' (first
      | exact Keeps.refl _ _ | exact Blk.le (by decide) sB | assumption | apply eyeScan_k | apply when_k | split
      | (apply Keeps.fstOf; assumption) | dsimp only)

theorem execI2cIndexWrite_frame {bytes : List Byte} {s : State} {tS : State}
    (sB : Blk.sub [.boot] L = true) (qE : execI2cIndexWrite bytes s = .next tS) :
    Keeps L s.dev tS.dev := by
  unfold execI2cIndexWrite at qE
  try dsimp only at qE
  repeat' (first | (cases qE; done) | split at qE)
  all_goals try cases qE
  all_goals with_reducible repeat' (first
      | exact Keeps.refl _ _ | exact Blk.le (by decide) sB | assumption | apply i2cWrite_k | apply when_k | split
      | (apply Keeps.fstOf; assumption) | dsimp only)

theorem execI2cRead_frame {count : Nat} {s : State} {tS : State}
    (sB : Blk.sub [.out, .boot] L = true) (qE : execI2cRead count s = .next tS) :
    Keeps L s.dev tS.dev := by
  unfold execI2cRead at qE
  try dsimp only at qE
  repeat' (first | (cases qE; done) | split at qE)
  all_goals try cases qE
  all_goals with_reducible repeat' (first
      | exact Keeps.refl _ _ | exact Blk.le (by decide) sB | assumption | apply i2cRead_k | apply when_k | split
      | (apply Keeps.fstOf; assumption) | dsimp only)

theorem execPerstNDeassert_frame {s : State} {tS : State}
    (sB : Blk.sub [.free, .glb, .hif] L = true) (qE : execPerstNDeassert s = .next tS) :
    Keeps L s.dev tS.dev := by
  unfold execPerstNDeassert at qE
  try dsimp only at qE
  repeat' (first | (cases qE; done) | split at qE)
  all_goals try cases qE
  all_goals with_reducible repeat' (first
      | exact Keeps.refl _ _ | exact Blk.le (by decide) sB | assumption | apply perstHigh_k | apply when_k | split
      | (apply Keeps.fstOf; assumption) | dsimp only)

theorem execDriveAdminCommandComplete_frame {slot : Nat} {r : DriveAdmin} {s : State} {tS : State}
    (sB : Blk.sub [.out, .free, .vault, .cat, .disk, .ciph, .hif, .tango, .mca, .dma, .evr] L = true)
    (qE : execDriveAdminCommandComplete slot r s = .next tS) :
    Keeps L s.dev tS.dev := by
  unfold execDriveAdminCommandComplete at qE
  try dsimp only at qE
  repeat' (first | (cases qE; done) | split at qE)
  all_goals try cases qE
  all_goals with_reducible repeat' (first
      | exact Keeps.refl _ _ | exact Blk.le (by decide) sB | assumption | apply adminDone_k | apply when_k | split
      | (apply Keeps.fstOf; assumption) | dsimp only)

theorem execStagingComplete_frame {outcome : Nat} {img : Image} {s : State} {tS : State}
    (sB : Blk.sub [.out, .cat, .dgst, .hif, .dma, .evr, .boot] L = true) (qE : execStagingComplete outcome img s = .next tS) :
    Keeps L s.dev tS.dev := by
  unfold execStagingComplete at qE
  try dsimp only at qE
  repeat' (first | (cases qE; done) | split at qE)
  all_goals try cases qE
  all_goals with_reducible repeat' (first
      | exact Keeps.refl _ _ | exact Blk.le (by decide) sB | assumption | apply endStaging_k | apply when_k | split
      | (apply Keeps.fstOf; assumption) | dsimp only)

theorem execDrivePortRetrain_frame {slot rateGT lanes : Nat} {s : State} {tS : State}
    (sB : Blk.sub [.out, .vault, .cat, .hif, .dma, .evr] L = true) (qE : execDrivePortRetrain slot rateGT lanes s = .next tS) :
    Keeps L s.dev tS.dev := by
  unfold execDrivePortRetrain at qE
  try dsimp only at qE
  repeat' (first | (cases qE; done) | split at qE)
  all_goals try cases qE
  all_goals with_reducible repeat' (first
      | exact Keeps.refl _ _ | exact Blk.le (by decide) sB | assumption | apply portRetrain_k | apply when_k | split
      | (apply Keeps.fstOf; assumption) | dsimp only)

theorem execEthPortLinkChange_frame {port : Fin 2} {up fecLock : Bool} {s : State} {tS : State}
    (sB : Blk.sub [.regs] L = true) (qE : execEthPortLinkChange port up fecLock s = .next tS) :
    Keeps L s.dev tS.dev := by
  unfold execEthPortLinkChange at qE
  try dsimp only at qE
  repeat' (first | (cases qE; done) | split at qE)
  all_goals try cases qE
  all_goals with_reducible repeat' (first
      | exact Keeps.refl _ _ | exact Blk.le (by decide) sB | assumption | apply portLink_k | apply when_k | split
      | (apply Keeps.fstOf; assumption) | dsimp only)

theorem execPlayPaceTimer_frame {chan : Nat} {s : State} {tS : State}
    (sB : Blk.sub [.out, .free, .sl, .pipes, .vault, .cat, .hif, .bpm, .dma, .evr] L = true)
    (qE : execPlayPaceTimer chan s = .next tS) :
    Keeps L s.dev tS.dev := by
  unfold execPlayPaceTimer at qE
  try dsimp only at qE
  repeat' (first | (cases qE; done) | split at qE)
  all_goals try cases qE
  all_goals with_reducible repeat' (first
      | exact Keeps.refl _ _ | exact Blk.le (by decide) sB | assumption | apply paceTimer_k | apply when_k | split
      | (apply Keeps.fstOf; assumption) | dsimp only)

end Sys2Proof.Machine
end

