-- ==== Sys2Proof/Laws/Queue.lean ====
section
/-! SUPPORT. The operations on a whole state leave the queue of waiting commands alone. -/

namespace Sys2Proof.Machine
open Sys2Proof

theorem writeBackLine_pending (l : CLine) (s : State) : (writeBackLine l s).pending = s.pending := rfl

theorem drainOne_pending (s : State) : (drainOne s).pending = s.pending := by
  unfold drainOne; split <;> rfl

theorem drainN_pending (n : Nat) (s : State) : (drainN n s).pending = s.pending := by
  induction n generalizing s with
  | zero => rfl
  | succ n ih => exact (ih _).trans (drainOne_pending s)

theorem drainLines_pending (p : Nat → Bool) (s : State) : (drainLines p s).pending = s.pending := drainN_pending _ s

theorem install_pending (c line : Nat) (b : Bool) (data : List Byte) (s : State) :
    (install c line b data s).pending = s.pending := by
  unfold install; simp only; split
  · split <;> rfl
  · split
    · rfl
    · rw [State.onMca_pending]
      split
      · split
        · rw [writeBackLine_pending]; split <;> rfl
        · split <;> rfl
      · split <;> rfl

theorem cleanKey_pending (k : Nat) (s : State) : (cleanKey k s).pending = s.pending := by
  unfold cleanKey; split
  · split <;> rfl
  · rfl

theorem cleanKeys_pending (l : List Nat) (s : State) : (l.foldl (fun x k => cleanKey k x) s).pending = s.pending := by
  induction l generalizing s with
  | nil => rfl
  | cons a t ih => exact (ih _).trans (cleanKey_pending a s)

theorem cleanLines_pending (p : Nat → Bool) (s : State) : (cleanLines p s).pending = s.pending := by
  have h := (cleanKeys_pending ((drainLines p s).dev.mca.keys p) (drainLines p s)).trans (drainLines_pending p s)
  unfold cleanLines; simp only; split
  · exact h
  · exact h

theorem dropLines_pending (p : Nat → Bool) (s : State) : (dropLines p s).pending = s.pending := rfl

theorem maintDone_pending (s : State) : (maintDone s).pending = s.pending := rfl

theorem endDrain_pending (s : State) : (endDrain s).pending = s.pending := cleanKeys_pending _ s

theorem cacheRead_pending (c line : Nat) (s : State) : (cacheRead c line s).2.pending = s.pending := by
  unfold cacheRead; split
  · split
    · split <;> rfl
    · rfl
  · simp only
    split
    · split
      · exact drainLines_pending _ s
      · exact (install_pending _ _ _ _ _).trans (drainLines_pending _ s)
    · exact drainLines_pending _ s

theorem cacheWrite_pending (c a : Nat) (data : List Byte) (s : State) : (cacheWrite c a data s).pending = s.pending := by
  unfold cacheWrite; simp only
  split
  · split
    · rfl
    · split
      · simp only [State.onMca_pending]; split <;> rfl
      · split
        · rfl
        · split
          · rfl
          · split <;> rfl
  · split
    · exact (install_pending _ _ _ _ _).trans (drainLines_pending _ _)
    · split
      · exact drainLines_pending _ _
      · exact drainLines_pending _ s

theorem writeLines_pending (c a n : Nat) (b : List Byte) (s : State) : (writeLines c a n b s).pending = s.pending := by
  induction n generalizing a b s with
  | zero => rfl
  | succ n ih =>
    unfold writeLines; split
    · rfl
    · exact (ih _ _ _).trans (cacheWrite_pending _ _ _ s)

theorem syncBucket_pending (b : Nat) (s : State) : (syncBucket b s).pending = s.pending := writeLines_pending _ _ _ _ s

theorem syncHot_pending (s : State) : (syncHot s).pending = s.pending := by
  have all : ∀ (l : List Nat) (x : State), (l.foldl (fun x b => syncBucket b x) x).pending = x.pending := by
    intro l
    induction l with
    | nil => intro x; rfl
    | cons b t ih => intro x; exact (ih _).trans (syncBucket_pending b x)
  exact all _ s

theorem liveState_pending (f : State → State) (s : State) (h : ∀ x : State, (f x).pending = x.pending) :
    (liveState f s).pending = s.pending := by
  unfold liveState; split
  · exact (h _).trans (syncHot_pending s)
  · rfl

theorem stagedState_pending (f : Dev → Dev) (s : State) : (stagedState f s).pending = s.pending := by
  have h : ({ s with dev := f s.dev } : State).pending = s.pending := rfl
  unfold stagedState
  generalize ({ s with dev := f s.dev } : State) = x at h ⊢
  dsimp only; split
  · exact h
  · rw [maintDone_pending, cleanLines_pending, syncHot_pending]; exact h

theorem hbmPoison_pending (a : Nat) (h : HbmHolder) (s : State) : (hbmPoison a h s).pending = s.pending := by
  unfold hbmPoison; simp only; split
  · exact writeLines_pending _ _ _ _ _
  · rfl

theorem patrolRead_pending (c : List Byte) (u : Bool) (h : HbmHolder) (s : State) : (patrolRead c u h s).pending = s.pending := by
  unfold patrolRead; simp only; split
  · rfl
  · split
    · exact hbmPoison_pending _ _ _
    · rfl
    · split <;> rfl

theorem parityError_pending (set way : Nat) (e : ParityErr) (s : State) : (parityError set way e s).pending = s.pending := by
  unfold parityError; split
  · rfl
  · split <;> rfl

theorem writeRegion_pending (n v : Nat) (s : State) : (writeRegion n v s).pending = s.pending := by
  unfold writeRegion; split
  · rfl
  · exact cleanLines_pending _ s

theorem putReg_pending (r : SetReg) (a n : Nat) (x : W64) (v : Nat) (s : State) : (putReg r a n x v s).pending = s.pending := by
  unfold putReg; split
  · exact writeRegion_pending _ _ s
  · rfl
  · rfl

theorem barWrite_pending (a n : Nat) (x : W64) (s : State) : (barWrite a n x s).pending = s.pending := by
  unfold barWrite; split
  · split
    · rfl
    · simp only; split
      · rfl
      · split
        · split
          · rfl
          · split
            · exact putReg_pending _ _ _ _ _ _
            · rfl
        · split
          · exact putReg_pending _ _ _ _ _ _
          · rfl
  · rfl

end Sys2Proof.Machine
end

