-- ==== Sys2Proof/Laws/Stores.lean ====
section
/-! SUPPORT. Which bytes of HBM the operations of the metadata cache can store to. `Covers W s` says that every byte that the
cache and its write buffer owe HBM lies in `W`; an operation within `W` then changes no other byte. -/

namespace Sys2Proof.Machine
open Sys2Proof

/-- Every byte that the cache and the write buffer owe HBM lies in `W`. -/
def Covers (W : Nat → Prop) (s : State) : Prop :=
  (∀ k l, tget s.dev.mca.lines k = some l → l.dirty = true → ∀ a, l.addr ≤ a → a < l.addr + l.data.length → W a) ∧
  (∀ e ∈ s.dev.mca.wbuf, ∀ x ∈ e.data, W (e.line + x.1))

/-- From `s` to `t` no byte outside `W` changes, and what is owed after lies in `W` still. -/
def Within (W : Nat → Prop) (s t : State) : Prop :=
  Covers W t ∧ ∀ a, ¬ W a → memRead t.hbm a = memRead s.hbm a

variable {W : Nat → Prop} {s t u : State}

theorem tget_mem {α : Type} (t : Tab α) (k : Nat) (v : α) (h : tget t k = some v) : (k, v) ∈ t := by
  induction t with
  | nil => simp [tget] at h
  | cons c t ih =>
    obtain ⟨i, w⟩ := c
    unfold tget at h
    split at h
    · rename_i q; subst q; cases h; exact List.mem_cons_self
    · exact List.mem_cons_of_mem _ (ih h)

/-- A line that stands in the table with `v` at key `k` is `v` or stood there before. -/
theorem tget_tput_cases {α : Type} (t : Tab α) (k j : Nat) (v w : α) (h : tget (tput t k v) j = some w) :
    (j = k ∧ w = v) ∨ tget t j = some w := by
  by_cases q : j = k
  · subst q; rw [tget_tput] at h; exact .inl ⟨rfl, (Option.some.inj h).symm⟩
  · rw [tget_tput_ne _ _ _ _ _ q] at h; exact .inr h

theorem tget_tdel_some {α : Type} (t : Tab α) (k j : Nat) (w : α) (h : tget (tdel t k) j = some w) : tget t j = some w := by
  by_cases q : j = k
  · subst q; rw [tget_tdel] at h; cases h
  · rwa [tget_tdel_ne _ _ _ _ q] at h

theorem Within.refl (h : Covers W s) : Within W s s := ⟨h, fun _ _ => rfl⟩

theorem Within.trans (h : Within W s t) (k : Within W t u) : Within W s u :=
  ⟨k.1, fun a n => (k.2 a n).trans (h.2 a n)⟩

/-- A byte outside the bytes that an entry of the write buffer masks in reads as before. -/
theorem memRead_memMasked (m : List Host.Cell) (line : Nat) (e : Tab Byte) (a : Nat) (h : ∀ x ∈ e, a ≠ line + x.1) :
    memRead (memMasked m line e) a = memRead m a := by
  unfold memMasked
  induction e generalizing m with
  | nil => rfl
  | cons b t ih =>
    simp only [List.foldl_cons]
    rw [ih _ (fun x hx => h x (List.mem_cons_of_mem _ hx)), memRead_memWrite_ne _ _ _ _ (h b List.mem_cons_self)]

theorem drainOne_within (h : Covers W s) : Within W s (drainOne s) := by
  unfold drainOne
  split
  · exact .refl h
  · rename_i e t q
    refine ⟨⟨h.1, fun x hx => h.2 x (by rw [q]; exact List.mem_cons_of_mem _ hx)⟩, fun a n => ?_⟩
    exact memRead_memMasked _ _ _ _ (fun x hx z => n (z ▸ h.2 e (by rw [q]; exact List.mem_cons_self) x hx))

theorem drainN_within (n : Nat) (h : Covers W s) : Within W s (drainN n s) := by
  induction n generalizing s with
  | zero => exact .refl h
  | succ n ih => exact (drainOne_within h).trans (ih (drainOne_within h).1)

theorem drainLines_within (p : Nat → Bool) (h : Covers W s) : Within W s (drainLines p s) := drainN_within _ h

theorem writeBackLine_within (l : CLine) (h : Covers W s) (b : ∀ a, l.addr ≤ a → a < l.addr + l.data.length → W a) :
    Within W s (writeBackLine l s) :=
  ⟨h, fun a n => memRead_memStore _ _ _ _ (by by_contra q; push Not at q; exact n (b a q.1 q.2))⟩

/-- An update of the cache that adds no dirty byte outside `W`, and leaves HBM and the write buffer alone, stays within `W`. -/
theorem onMca_within (f : Mca → Mca) (h : Covers W s) (w : (f s.dev.mca).wbuf = s.dev.mca.wbuf)
    (l : ∀ k l, tget (f s.dev.mca).lines k = some l → l.dirty = true → ∀ a, l.addr ≤ a → a < l.addr + l.data.length → W a) :
    Within W s (s.onMca f) :=
  ⟨⟨l, fun e he => h.2 e (by rw [← w]; exact he)⟩, fun _ _ => rfl⟩

theorem cleanKey_within (k : Nat) (h : Covers W s) : Within W s (cleanKey k s) := by
  unfold cleanKey
  split
  · rename_i l q
    split
    · rename_i dt
      refine (writeBackLine_within l h (h.1 _ _ q dt)).trans (onMca_within _ h rfl ?_)
      intro j v hv d
      rcases tget_tput_cases _ _ _ _ _ hv with ⟨-, z⟩ | z
      · subst z; simp at d
      · exact h.1 _ _ z d
    · exact .refl h
  · exact .refl h

theorem cleanKeys_within (ks : List Nat) (h : Covers W s) : Within W s (ks.foldl (fun x k => cleanKey k x) s) := by
  induction ks generalizing s with
  | nil => exact .refl h
  | cons k t ih => exact (cleanKey_within k h).trans (ih (cleanKey_within k h).1)

theorem ageSet_lines (set mask : Nat) (t : Tab CLine) (k : Nat) (e : CLine) (h : tget (ageSet set mask t) k = some e) :
    ∃ x, tget t k = some x ∧ x.addr = e.addr ∧ x.dirty = e.dirty ∧ x.data = e.data := by
  unfold ageSet at h
  simp only at h
  generalize (List.foldl max 0 _) = top at h
  generalize candidates mask = ws at h
  induction ws generalizing t with
  | nil => exact ⟨e, h, rfl, rfl, rfl⟩
  | cons w r ih =>
    simp only [List.foldl_cons] at h
    obtain ⟨x, hx, a1, a2, a3⟩ := ih _ h
    split at hx
    · rename_i l q
      rcases tget_tput_cases _ _ _ _ _ hx with ⟨z1, z2⟩ | z
      · subst z1 z2; exact ⟨_, q, a1, a2, a3⟩
      · exact ⟨x, z, a1, a2, a3⟩
    · exact ⟨x, hx, a1, a2, a3⟩

/-- A store to HBM of bytes in `W`. -/
theorem store_within (a : Nat) (l : List Byte) (h : Covers W s) (b : ∀ x, a ≤ x → x < a + l.length → W x) :
    Within W s { s with hbm := memStore s.hbm a l } :=
  ⟨h, fun x n => memRead_memStore _ _ _ _ (by by_contra q; push Not at q; exact n (b x q.1 q.2))⟩

/-- A fill: a dirty one only of bytes in `W`. -/
theorem install_within (c line : Nat) (dirty : Bool) (data : List Byte) (h : Covers W s)
    (b : dirty = true → ∀ a, line ≤ a → a < line + data.length → W a) : Within W s (install c line dirty data s) := by
  have put : ∀ (x : State) (k : Nat) (f : CLine), Covers W x → f.addr = line → f.dirty = dirty → f.data = data →
      Within W x (x.onMca (fun m => { m with lines := tput m.lines k f })) := by
    intro x k f hx f1 f2 f3
    refine onMca_within _ hx rfl ?_
    intro j v hv d
    rcases tget_tput_cases _ _ _ _ _ hv with ⟨-, z⟩ | z
    · subst z
      intro a a1 a2
      exact b (f2 ▸ d) a (by simpa [f1] using a1) (by simpa [f1, f3] using a2)
    · exact hx.1 _ _ z d
  unfold install
  simp only
  split
  · split
    · rename_i dt; exact store_within _ _ h (b dt)
    · exact .refl h
  · split
    · exact put _ _ _ h rfl rfl rfl
    · have step1 : ∀ r : Bool, Within W s (if r = true then
            { s with dev := drawn (onMca (fun m => { m with lfsr := lfsrRun (Config.freeNat s.dev.free) m.lfsr }) s.dev) }
          else s.onMca (fun m => { m with lines := ageSet (setOf line) (s.dev.ways c) m.lines })) := by
        intro r; split
        · exact ⟨h, fun _ _ => rfl⟩
        · refine onMca_within _ h rfl ?_
          intro j v hv d a a1 a2
          obtain ⟨x, hx, e1, e2, e3⟩ := ageSet_lines _ _ _ _ _ hv
          exact h.1 _ x hx (e2.trans d) a (e1 ▸ a1) (by rw [e1, e3]; exact a2)
      have s1 := step1 (((s.dev.region line).getD 0).getLsbD 3)
      refine s1.trans ?_
      generalize (if (((s.dev.region line).getD 0).getLsbD 3) = true then _ else _) = x at s1 ⊢
      split
      · rename_i v q
        split
        · rename_i dt
          have w := writeBackLine_within v s1.1 (s1.1.1 _ _ q dt)
          exact w.trans (put _ _ _ w.1 rfl rfl rfl)
        · exact put _ _ _ s1.1 rfl rfl rfl
      · exact put _ _ _ s1.1 rfl rfl rfl

theorem cacheRead_within (c line : Nat) (h : Covers W s) : Within W s (cacheRead c line s).2 := by
  unfold cacheRead
  split
  · split
    · rename_i _ l q
      split
      · refine onMca_within _ h rfl ?_
        intro j v hv d
        rcases tget_tput_cases _ _ _ _ _ hv with ⟨-, z⟩ | z
        · subst z; exact fun x x1 x2 => h.1 _ _ q d x x1 x2
        · exact h.1 _ _ z d
      · exact .refl h
    · exact .refl h
  · have w := drainLines_within (· == line) h
    simp only
    split
    · have m : Within W (drainLines (· == line) s) ((drainLines (· == line) s).onMca (fun m => { m with misses := m.misses + 1 })) :=
        onMca_within _ w.1 rfl w.1.1
      split
      · exact w.trans m
      · exact w.trans (m.trans (install_within _ _ _ _ m.1 (by simp)))
    · exact w

/-- A write of bytes within one line, all of which is in `W`. -/
theorem cacheWrite_within (c a : Nat) (data : List Byte) (h : Covers W s) (f : a - lineOf a + data.length ≤ 128)
    (b : ∀ x, lineOf a ≤ x → x < lineOf a + 128 → W x) : Within W s (cacheWrite c a data s) := by
  have la : lineOf a ≤ a := by unfold lineOf; omega
  have hb : ∀ (y : State), Covers W y → Within W y { y with hbm := memStore y.hbm a data } := fun y hy =>
    store_within _ _ hy (fun x x1 x2 => b x (by omega) (by omega))
  unfold cacheWrite
  simp only
  split
  · split
    · exact .refl h
    · rename_i w hw _ l q
      have ad : l.addr = lineOf a := by
        unfold Mca.hit at hw
        have := List.find?_some hw
        rw [q] at this
        simpa using this
      have put : ∀ (d : Bool) (y : List Byte), y.length ≤ 128 → Within W s (s.onMca (fun m =>
          { m with hits := m.hits + 1, lines := tput m.lines (wayKey (setOf (lineOf a)) w) { l with data := y, dirty := d, age := 0 } })) := by
        intro d y hy
        refine onMca_within _ h rfl ?_
        intro j v hv dt
        rcases tget_tput_cases _ _ _ _ _ hv with ⟨-, z⟩ | z
        · subst z; intro x x1 x2; simp only [ad] at x1 x2; exact b x x1 (by omega)
        · exact h.1 _ _ z dt
      have tl : ((List.take (a - lineOf a) l.data ++ data ++ List.drop (a - lineOf a + data.length) l.data).take 128).length ≤ 128 := by
        simp only [List.length_take]; omega
      split
      · have z : Within W s (if l.dirty = true then writeBackLine l s else s) := by
          split
          · rename_i dt; exact writeBackLine_within l h (h.1 _ _ q dt)
          · exact .refl h
        have z2 : Within W (if l.dirty = true then writeBackLine l s else s) ((if l.dirty = true then writeBackLine l s else s).onMca
            (fun m => { m with lines := tdel m.lines (wayKey (setOf (lineOf a)) w) })) :=
          onMca_within _ z.1 rfl (fun _ _ he => z.1.1 _ _ (tget_tdel_some _ _ _ _ he))
        exact (z.trans z2).trans (hb _ z2.1)
      · split
        · exact put _ _ tl
        · split
          · exact (put _ _ tl).trans (hb _ (put _ _ tl).1)
          · split
            · have z : Within W s (s.onMca (fun m =>
                  { m with hits := m.hits + 1, lines := tdel m.lines (wayKey (setOf (lineOf a)) w) })) :=
                onMca_within _ h rfl (fun _ _ he => h.1 _ _ (tget_tdel_some _ _ _ _ he))
              exact z.trans (hb _ z.1)
            · exact (put _ _ tl).trans (hb _ (put _ _ tl).1)
  · have m : Within W s (s.onMca (fun m => { m with misses := m.misses + 1 })) := onMca_within _ h rfl h.1
    split
    · have w := m.trans (drainLines_within (· == lineOf a) m.1)
      refine w.trans (install_within _ _ _ _ w.1 (fun _ x x1 x2 => b x x1 ?_))
      have : ∀ y : List Byte, (y.take 128).length ≤ 128 := fun y => by simp only [List.length_take]; omega
      have := this (List.take (a - lineOf a) (memBytes (drainLines (· == lineOf a) (s.onMca fun m => { m with misses := m.misses + 1 })).hbm (lineOf a) 128) ++ data ++
        List.drop (a - lineOf a + data.length) (memBytes (drainLines (· == lineOf a) (s.onMca fun m => { m with misses := m.misses + 1 })).hbm (lineOf a) 128))
      omega
    · split
      · have w := m.trans (drainLines_within (· == lineOf a) m.1)
        exact w.trans (hb _ w.1)
      · have w := drainLines_within (· == lineOf a) h
        exact w.trans (hb _ w.1)

/-- Writes from `a` on, over the lines that the bytes lie in, all of which are in `W`. -/
theorem writeLines_within (c n a : Nat) (data : List Byte) (h : Covers W s)
    (b : ∀ x, lineOf a ≤ x → x < lineOf (a + data.length - 1) + 128 → W x) : Within W s (writeLines c a n data s) := by
  induction n generalizing a data s with
  | zero => exact .refl h
  | succ n ih =>
    unfold writeLines
    split
    · exact .refl h
    · rename_i ne
      have len : 0 < data.length := by
        cases data with
        | nil => simp at ne
        | cons _ _ => simp
      simp only
      have w : Within W s (cacheWrite c a (data.take (min data.length (lineOf a + 128 - a))) s) := by
        refine cacheWrite_within _ _ _ h ?_ (fun x x1 x2 => b x x1 ?_)
        · simp only [List.length_take]; unfold lineOf; omega
        · unfold lineOf at *; omega
      refine w.trans (ih _ _ w.1 (fun x x1 x2 => ?_))
      simp only [List.length_drop] at x2
      by_cases z : data.length ≤ lineOf a + 128 - a
      · refine b x ?_ ?_
        · unfold lineOf at *; omega
        · rw [Nat.min_eq_left z] at x2
          have : a + data.length + (data.length - data.length) - 1 = a + data.length - 1 := by omega
          rw [this] at x2; exact x2
      · refine b x ?_ ?_
        · unfold lineOf at *; omega
        · have : a + min data.length (lineOf a + 128 - a) + (data.length - min data.length (lineOf a + 128 - a)) - 1 = a + data.length - 1 := by
            omega
          rw [this] at x2; exact x2

/-! ## Maintenance of the lines that `p` names -/

theorem drainN_bytes (n : Nat) (s : State) (h : ∀ e ∈ s.dev.mca.wbuf.take n, ∀ x ∈ e.data, W (e.line + x.1)) (a : Nat) (na : ¬ W a) :
    memRead (drainN n s).hbm a = memRead s.hbm a := by
  induction n generalizing s with
  | zero => rfl
  | succ n ih =>
    simp only [drainN]
    cases q : s.dev.mca.wbuf with
    | nil => rw [ih _ (by simp [drainOne, q])]; simp [drainOne, q]
    | cons e t =>
      rw [q] at h
      rw [ih _ (fun x hx => h x (by simp only [drainOne, q] at hx; exact List.mem_cons_of_mem _ hx))]
      simp only [drainOne, q]
      exact memRead_memMasked _ _ _ _ (fun x hx z => na (z ▸ h e List.mem_cons_self x hx))

theorem drainN_lines (n : Nat) (s : State) : (drainN n s).dev.mca.lines = s.dev.mca.lines := by
  induction n generalizing s with
  | zero => rfl
  | succ n ih => simp only [drainN]; rw [ih]; unfold drainOne; split <;> rfl

theorem cleanKeys_bytes (ks : List Nat) (s : State)
    (h : ∀ k ∈ ks, ∀ l, tget s.dev.mca.lines k = some l → l.dirty = true → ∀ a, l.addr ≤ a → a < l.addr + l.data.length → W a)
    (a : Nat) (na : ¬ W a) : memRead (ks.foldl (fun x k => cleanKey k x) s).hbm a = memRead s.hbm a := by
  induction ks generalizing s with
  | nil => rfl
  | cons k t ih =>
    simp only [List.foldl_cons]
    rw [ih]
    · unfold cleanKey; split
      · rename_i l q; split
        · rename_i dt
          refine memRead_memStore _ _ _ _ ?_
          by_contra z; push Not at z
          exact na (h k List.mem_cons_self l q dt a z.1 z.2)
        · rfl
      · rfl
    · intro j hj l q dt
      refine h j (List.mem_cons_of_mem _ hj) l ?_ dt
      unfold cleanKey at q; split at q
      · rename_i v hv; split at q
        · by_cases jk : j = k
          · subst jk
            have : tget (tput s.dev.mca.lines j { v with dirty := false }) j = some l := q
            rw [tget_tput] at this; cases this; simp at dt
          · have : tget (tput s.dev.mca.lines k { v with dirty := false }) j = some l := q
            rw [tget_tput_ne _ _ _ _ _ jk] at this; exact this
        · exact q
      · exact q

theorem keys_tget (m : Mca) (k : Nat) (l : CLine) (h : tget m.lines k = some l) : k ∈ m.keys (fun _ => true) := by
  unfold Mca.keys
  exact List.mem_map.2 ⟨(k, l), List.mem_filter.2 ⟨tget_mem _ _ _ h, rfl⟩, rfl⟩

/-- What the whole cache and the whole write buffer owe is covered. -/
theorem covers_owes (s : State) : Covers (s.owes (fun _ => true)) s := by
  refine ⟨fun k l h d a x y => .inl ⟨k, keys_tget _ _ _ h, l, h, d, x, y⟩, fun e h x hx => .inr ⟨e, ?_, x, hx, rfl⟩⟩
  have all : ∀ w : List WEnt, drainsFor (fun _ => true) w = w.length := by
    intro w
    induction w with
    | nil => rfl
    | cons e t ih =>
      unfold drainsFor
      cases t with
      | nil => simp
      | cons f u => simp only [List.any_cons, Bool.true_or, if_true, ih, List.length_cons]; omega
  rw [all, List.take_length]; exact h

theorem endDrain_bytes (s : State) (a : Nat) (n : ¬ s.owes (fun _ => true) a) : memRead (endDrain s).hbm a = memRead s.hbm a :=
  cleanKeys_bytes (W := s.owes (fun _ => true)) _ _ (fun _ _ l q d _ x y => (covers_owes s).1 _ l q d _ x y) a n

/-- A clean of the lines that `p` names writes no byte but those that they and the entries before them owe. -/
theorem cleanLines_bytes (p : Nat → Bool) (s : State) (a : Nat) (n : ¬ s.owes p a) :
    memRead (cleanLines p s).hbm a = memRead s.hbm a := by
  have e : memRead ((((drainLines p s).dev.mca.keys p).foldl (fun x k => cleanKey k x) (drainLines p s))).hbm a = memRead s.hbm a := by
    rw [cleanKeys_bytes (W := s.owes p) _ _ ?_ a n]
    · exact drainN_bytes (W := s.owes p) _ s (fun e h x hx => .inr ⟨e, h, x, hx, rfl⟩) a n
    · intro k hk l q d x x1 x2
      have z := drainN_lines (drainsFor p s.dev.mca.wbuf) s
      refine .inl ⟨k, ?_, l, ?_, d, x1, x2⟩
      · have : (drainLines p s).dev.mca.keys p = s.dev.mca.keys p := by unfold Mca.keys drainLines; rw [z]
        rw [← this]; exact hk
      · unfold drainLines at q; rw [z] at q; exact q
  unfold cleanLines
  simp only
  split
  · exact e
  · exact e

end Sys2Proof.Machine
end

