-- ==== Sys2Proof/WellFormed.lean ====
section
/-! DEFINITION. Which commands are well formed: every operand that the manual holds in a field fits that field's width, a
drive, channel or port number names one that the head has, and a list has the length that the manual fixes. Operands that
are words of their width or `Fin` need no check. A meaning is total all the same: it does not assume these checks. -/

namespace Sys2Proof

/-! ## Field widths -/

/-- Fits in one byte. -/
def u8 (n : Nat) : Bool := decide (n < 2 ^ 8)
/-- Fits in two bytes. -/
def u16 (n : Nat) : Bool := decide (n < 2 ^ 16)
/-- Fits in three bytes: a queue pair number (R323, R338). -/
def u24 (n : Nat) : Bool := decide (n < 2 ^ 24)
/-- Fits in four bytes. -/
def u32 (n : Nat) : Bool := decide (n < 2 ^ 32)
/-- Fits in a claim epoch's 40 bits (R288). -/
def u40 (n : Nat) : Bool := decide (n < 2 ^ 40)
/-- Fits in a location's 52 bits (R117, R224). -/
def u52 (n : Nat) : Bool := decide (n < 2 ^ 52)
/-- Fits in the 56 bits of a tile number (R99). -/
def u56 (n : Nat) : Bool := decide (n < 2 ^ 56)
/-- Fits in eight bytes. -/
def u64 (n : Nat) : Bool := decide (n < 2 ^ 64)
/-- A channel index (R254). -/
def chanOk (n : Nat) : Bool := decide (n < 4096)
/-- A drive slot (R15). -/
def slotOk (n : Nat) : Bool := decide (n < 48)
/-- A queue pair index (R320). -/
def qpOk (n : Nat) : Bool := decide (n < 16384)
/-- A buffer pool number (R358). -/
def poolOk (n : Nat) : Bool := decide (n < 32)
/-- The size of a register access: 4 or 8 bytes (R450). -/
def sizeOk (n : Nat) : Bool := n == 4 || n == 8

/-! ## Structures -/

/-- A descriptor's header (R254, R261). -/
def Hdr.wf (h : Hdr) : Bool := chanOk h.chan && u16 h.sqIndex
/-- A doorbell as read (R263). -/
def DbRead.wf (r : DbRead) : Bool := chanOk r.chan && u16 r.tail && decide (r.descs.length < 2 ^ 16)
/-- A packet: its payload fits the payload area (R47). -/
def Packet.wf (p : Packet) : Bool := decide (p.payload.length ≤ 2048)
/-- A sector of 4,096 bytes (R173). -/
def Sector.wf (s : Sector) : Bool := s.data.length == 4096
/-- A sector as a Read returned it (R506). -/
def SecRead.wf : SecRead → Bool
  | .multi s => s.wf
  | .single s => s.wf
  | .badCheck => true
  | .unreadable => true
/-- One member's strip: 64 sectors (R174). -/
def memberOk (m : List SecRead) : Bool := m.length == 64 && m.all SecRead.wf
/-- The 18 members of a stripe. -/
def membersOk (ms : List (List SecRead)) : Bool := ms.length == 18 && ms.all memberOk
/-- Sectors read below LBA 32,768 (R173). -/
def sysOk (l : List (Nat × List Byte)) : Bool := l.all (fun x => decide (x.1 < 32768) && x.2.length == 4096)
/-- A slot record and its payload (R74). -/
def Slot.wf (s : Slot) : Bool := s.pkt.wf
/-- A tile-map entry (R188, R224). -/
def Entry.wf (e : Entry) : Bool := u52 e.loc && u32 e.storedLen
/-- A frame record (R226) with the account of R293. -/
def FrameRec.wf (f : FrameRec) : Bool :=
  u8 f.group && u8 f.cls && u56 f.firstTile && u32 f.declared && u32 f.recorded && u32 f.width && u32 f.lines &&
  u32 f.firstLine && u16 f.lineStep && u32 f.lineBytes && u32 f.committed && u32 f.lostOnLink && u32 f.overRun &&
  u32 f.landingOverflow && u32 f.hbmUnc && u32 f.excess
/-- A group state (R293). -/
def GState.wf (g : GState) : Bool :=
  u8 g.group && u8 g.part && u56 g.nextTile && u64 g.nextMeta && g.frame.all FrameRec.wf && g.closed.all FrameRec.wf
/-- A journal record's body (R188). -/
def JBody.wf : JBody → Bool
  | .stripeOpen volume takeId _ group _ _ entries _ =>
    u16 volume && u32 takeId && u8 group && u16 entries.length && entries.all Entry.wf
  | .stripeRetire j => u64 j
  | .periodClaim => true
  | .remap failed spare fc sc => u8 failed && u8 spare && u64 fc && u64 sc
  | .stripeLost _ => true
  | .durable j => u64 j
  | .stripeDiscard a b => u64 a && u64 b
/-- A journal record (R188). -/
def JRec.wf (r : JRec) : Bool :=
  u8 r.source && u16 r.layout && u64 r.jseq && u40 r.epoch && u64 r.subject && u16 r.units && r.body.wf
/-- A layout record (R173). -/
def LayoutRec.wf (l : LayoutRec) : Bool :=
  u16 l.layoutId && u8 l.kind && u8 l.width && u8 l.drives && u64 l.baseLba && u64 l.periods && u64 l.spares && l.table.all u8
/-- What admission finds of a drive in one of the 48 slots (R15). -/
def DriveInfo.wf (d : DriveInfo) : Bool := slotOk d.slot && sysOk d.sys
/-- The answer of an admin command (R171). -/
def DriveAdmin.wf : DriveAdmin → Bool
  | .identify info => info.wf
  | .registered => true
  | .acquired => true
  | .report _ _ => true
  | .error _ => true
/-- What the drives answer in a takeover: slots that exist, 18 members for each entry (R192, R299). -/
def TakeoverIn.wf (t : TakeoverIn) : Bool :=
  t.reports.all (fun r => slotOk r.slot) && t.conflicts.all slotOk && t.failed.all slotOk &&
  t.adoption.all (fun a => u64 a.jseq && membersOk a.members) && t.sys.all sysOk
/-- A journal dump as read (R195): its header is one sector. -/
def DumpIn.wf (d : DumpIn) : Bool := slotOk d.slot && d.header.length == 4096
/-- A Tango envelope (R281). -/
def Env.wf (e : Env) : Bool := u8 e.level && u40 e.epoch
/-- A HELLO (R285). -/
def Hello.wf (h : Hello) : Bool :=
  u8 h.state && u16 h.levelMax && u16 h.levelMin && u16 h.vaultLevel && u64 h.epochMax && h.ecdhPub.length == 96 &&
  u16 h.certs.length
/-- The four owner bytes (R282). -/
def ownersOk (o : Four Nat) : Bool := o.list.all u8
/-- A HEARTBEAT (R283). -/
def Beat.wf (b : Beat) : Bool := u8 b.state && u16 b.level && ownersOk b.owners && u64 b.mirrorAcked && u64 b.ckptSeq
/-- The body of TAKE_OPEN (R267). -/
def OpenReq.wf (r : OpenReq) : Bool :=
  u16 r.volume && u8 r.page && u8 r.hkey && u32 r.ringN && u32 r.segLimit && u64 r.preNs && u64 r.postNs
/-- A TRIGGER record (R229). -/
def TrigRec.wf (r : TrigRec) : Bool := u8 r.source && u8 r.group && u8 r.outcome
/-- One part's seal chain as handed over (R282). -/
def ChainHand.wf (c : ChainHand) : Bool := u16 c.volume && u32 c.takeId && u8 c.part && u64 c.count && u16 c.segments.length
/-- A volume record (R234). -/
def Volume.wf (v : Volume) : Bool := u16 v.id && u16 v.layout && u32 v.ctrA && u32 v.ctrB
/-- A take record of a checkpoint (R295). -/
def TakeInfo.wf (t : TakeInfo) : Bool := t.r.wf && u32 t.takeId && u16 t.layout && u8 t.domain && u8 t.state && u8 t.reason
/-- A ring record of a checkpoint (R295). -/
def RingInfo.wf (r : RingInfo) : Bool := u16 r.volume && u32 r.takeId && u32 r.minimum
/-- A checkpoint (R295). -/
def Ckpt.wf (c : Ckpt) : Bool :=
  u64 c.seq && u40 c.epoch && u64 c.coversJseq && u64 c.metadataSeq && c.volumes.all Volume.wf && c.groups.all GState.wf &&
  c.chains.all ChainHand.wf && c.takes.all TakeInfo.wf && c.rings.all RingInfo.wf && c.triggers.all (fun t => u32 t.1 && t.2.wf)
/-- The host part of a queue pair context (R323). -/
def QpHost.wf (q : QpHost) : Bool :=
  u8 q.stateReq && u8 q.domain && u8 q.srcIp && u24 q.destQpn && u8 q.dscp && u8 q.pmtu && u16 q.vlan && u8 q.timeout &&
  u8 q.retryCnt && u8 q.rnrRetry && u8 q.rdOut && u8 q.rdIn && u8 q.sqLog2 && u8 q.cqLog2 && u8 q.rqLog2 &&
  u8 q.rbufLog2 && u16 q.vector && u64 q.sqBase && u64 q.cqBase && u64 q.rqBase && u64 q.counterAddr && u8 q.txPage &&
  u8 q.rxPage
/-- A window (R321). -/
def Window.wf (w : Window) : Bool := u64 w.offset && u64 w.length && u64 w.bus
/-- A send work request (R327). -/
def Wr.wf (w : Wr) : Bool := u16 w.slot && u64 w.localAddr && u32 w.length && u64 w.remote && u8 w.option
/-- An incoming RDMA request (R317, R338): one of the two ports. -/
def RdmaReq.wf (r : RdmaReq) : Bool :=
  decide (r.port < 2) && u24 r.qpn && u64 r.remote && u32 r.length && u24 r.srcQpn
/-- An entry of FP_BATCH (R342). -/
def FpEntry.wf (e : FpEntry) : Bool := u64 e.loc && u32 e.storedLen
/-- An OFFER (R342). -/
def Offer.wf (o : Offer) : Bool :=
  u8 o.kind && u32 o.segId && u64 o.first && u64 o.entries && u16 o.volume && u32 o.takeId && decide (o.part < 2) &&
  u8 o.level
/-- An image on a card: at most 33,554,432 bytes (R420). -/
def Image.wf (i : Image) : Bool := decide (i.bytes.length ≤ 33554432)
/-- What stands at power-on (R424). -/
def BootIn.wf (b : BootIn) : Bool := b.card.all Image.wf
/-- What a maintenance read finds in a stripe of 18 members (R198). -/
def StripeIn.wf (s : StripeIn) : Bool := u16 s.layout && u64 s.stripe && membersOk s.members
/-- What the voltage regulator answers: 16-bit fields (R391). -/
def AvsIn.wf (a : AvsIn) : Bool := a.all (fun x => u16 x.1 && u16 x.2)
/-- Readings of the 24 replicas and 96 ring oscillators (R388). -/
def SensorIn.wf (r : SensorIn) : Bool := r.replicas.length == 24 && r.rings.length == 96
/-- The holder of a burst (R356). -/
def HbmHolder.wf : HbmHolder → Bool
  | .rawSlot _ _ => true
  | .standbySlot _ _ => true
  | .storedTile _ _ => true
  | .parityBuffer j => u64 j
  | .replayBuffer c _ => chanOk c
  | .replReceive c => chanOk c
  | .hotIndex b => u32 b
  | .dupRecord q => qpOk q
  | .ckptReceive b => decide (b < 2)
  | .ckptStaging => true
  | .journal => true
  | .mirror => true
  | .metaArea => true
  | .other => true
/-- Which host access failed (R251). -/
def HostAccess.wf : HostAccess → Bool
  | .descData c _ => chanOk c
  | .descFetch c s => chanOk c && u16 s
  | .cplWrite c => chanOk c
  | .doorbell c => chanOk c
  | .qp q => qpOk q

/-! ## Commands -/

/-- A command is well formed. -/
def Instr.wf : Instr → Bool
  | .registerWrite _ size _ => sizeOk size
  | .glbLock _ t dumps => t.wf && dumps.all DumpIn.wf
  | .dpCfgWrite _ drives => drives.all DriveInfo.wf
  | .adminEnable _ => true
  | .adminStop _ => true
  | .regionTableWrite _ size _ => sizeOk size
  | .cacheDisable => true
  | .cacheDrainDone => true
  | .evrCursorWrite _ size _ => sizeOk size
  | .evrWindowRead _ size => sizeOk size
  | .jtagClose _ => true
  | .porNAssert => true
  | .porNDeassert pins => pins.wf
  | .bootPwrfailHoldEnd card => card.all Image.wf
  | .perstN => true
  | .functionLevelReset => true
  | .pwrfailN => true
  | .supplyMonitorTrip _ => true
  | .dumpFreeze => true
  | .dumpBodiesDone => true
  | .dumpComplete => true
  | .watchdog _ _ => true
  | .coreAccess _ _ => true
  | .norPersist => true
  | .evrTimeMark => true
  | .auditTick => true
  | .trainingFrame _ _ _ _ _ => true
  | .codewordLock _ => true
  | .linkUpTimeout _ linkStep => u8 linkStep
  | .capOffer _ p => p.wf
  | .capGrant _ p => p.wf
  | .capOfferRepeat _ => true
  | .packetReceive _ p => p.wf
  | .uncorrectableCodeword _ _ j rx => u64 j && rx.length == 544 && rx.all (fun x => decide (x < 1024))
  | .fecRetrain _ _ => true
  | .hdrCrcRetrain _ => true
  | .lossOfSignal _ _ => true
  | .capTimeout _ => true
  | .creditThreshold _ => true
  | .creditDelay _ => true
  | .creditKeepalive _ => true
  | .credit _ p => p.wf
  | .stopReqRepeat _ => true
  | .stopDone _ p => p.wf
  | .stopTimeout _ => true
  | .stopReq _ p => p.wf
  | .roleChangeApply => true
  | .moverCopy _ => true
  | .healRepeat _ => true
  | .healDeadline _ => true
  | .tileEncode _ => true
  | .referenceSealTimer _ => true
  | .referenceSealCount _ => true
  | .stripeIssue => true
  | .stripWriteComplete jseq member => u64 jseq && decide (member < 18)
  | .stripWriteFail jseq member _ => u64 jseq && decide (member < 18)
  | .memberLag jseq member => u64 jseq && decide (member < 18)
  | .lagFailTimer jseq member => u64 jseq && decide (member < 18)
  | .reservationConflict jseq member => u64 jseq && decide (member < 18)
  | .conflictHoldTimer slot => slotOk slot
  | .driveLinkLoss slot => slotOk slot
  | .driveCriticalWarning slot => slotOk slot
  | .driveReadComplete chan cols => chanOk chan && cols.all (fun c => c.all SecRead.wf)
  | .writeBack slot lba _ => slotOk slot && u64 lba
  | .scrubStripe s => s.wf
  | .rebuildStripe s => s.wf
  | .copyBackChunk slot chunk members => slotOk slot && u64 chunk && membersOk members
  | .reshapeBatch reads => reads.all StripeIn.wf
  | .metadataCommit => true
  | .alloc pool _ => poolOk pool
  | .free pool index _ => poolOk pool && u32 index
  | .pop pool _ => poolOk pool
  | .hbmUncorrectable addr holder => u64 addr && holder.wf
  | .patrolRead err _ holder => err.length == 36 && holder.wf
  | .cacheParityError _ _ _ => true
  | .cacheParityLimit => true
  | .writeBufferDrain => true
  | .barrier _ => true
  | .clean addr => u64 addr
  | .inval addr => u64 addr
  | .cleanInval addr => u64 addr
  | .cleanRegion _ => true
  | .cleanInvalRegion _ => true
  | .dmaBurst _ _ => true
  | .cipherSegmentEnd _ => true
  | .drbgReseed _ => true
  | .entropyHealthFail _ => true
  | .doorbellPoll group reads => u8 group && reads.all DbRead.wf
  | .hostAccessError what => what.wf
  | .msixModTimer chan => chanOk chan
  | .msixUnmask vector => u16 vector
  | .nop h => h.wf
  | .channelCreate h index ctype domain sqLog2 cqLog2 vector modCount decPipe modTime group priority layout sqBase cqBase qp dbTail =>
    h.wf && u16 index && u8 ctype && u8 domain && u8 sqLog2 && u8 cqLog2 && u16 vector && u8 modCount && u8 decPipe &&
    u16 modTime && u8 group && u8 priority && u16 layout && u64 sqBase && u64 cqBase && qpOk qp && u16 dbTail
  | .channelDestroy h _ => h.wf
  | .abort h _ _ => h.wf
  | .notify h minSev => h.wf && u8 minSev
  | .pageAssign h page domain => h.wf && u8 page && u8 domain
  | .keyLoad h page key _ _ => h.wf && u8 page && key.length == 32
  | .pageRekey h page key _ _ => h.wf && u8 page && key.length == 32
  | .pageErase h page => h.wf && u8 page
  | .pageRelease h page => h.wf && u8 page
  | .hkeyLoad h slot domain key => h.wf && u8 slot && u8 domain && u8 key.length
  | .hkeyErase h slot => h.wf && u8 slot
  | .mrExtend h reg _ => h.wf && u8 reg
  | .layoutLoad h layoutId recLen rec drives =>
    h.wf && u16 layoutId && u32 recLen && rec.wf && drives.all DriveInfo.wf
  | .volumeCreate h volume layout _ _ _ _ => h.wf && u16 volume && u16 layout
  | .volumeDelete h volume => h.wf && u16 volume
  | .takeDelete h volume takeId segId => h.wf && u16 volume && u32 takeId && u32 segId
  | .snapVolume h volume => h.wf && u16 volume
  | .snapRelease h snapId => h.wf && u32 snapId
  | .verifySeal h volume takeId segId => h.wf && u16 volume && u32 takeId && u32 segId
  | .groupCtl h group action => h.wf && u8 group && u8 action
  | .portRole h role => h.wf && u8 role
  | .drivePort h port action info => h.wf && u8 port && u8 action && info.all DriveInfo.wf
  | .handover h _ direction => h.wf && u8 direction
  | .shutdown h => h.wf
  | .fwStage h block length card _ => h.wf && u64 block && u32 length && card.all Image.wf
  | .fwActivate h => h.wf
  | .fwRunning => true
  | .activationTimeout _ t => t.wf
  | .fwConfirm h => h.wf
  | .attestQuote h _ outAddr outLen => h.wf && u64 outAddr && u32 outLen
  | .takeOpen h r => h.wf && r.wf
  | .takeClose h takeId mode successor _ => h.wf && u32 takeId && u8 mode && u32 successor
  | .trigger h takeId _ _ sinceLanding => h.wf && u32 takeId && u64 sinceLanding
  | .resume h _ => h.wf
  | .stop h _ => h.wf
  | .snapTake h takeId => h.wf && u32 takeId
  | .read h volume kind part target segId _ group digest first count reportLen dest report digestOut =>
    h.wf && u16 volume && u8 kind && u8 part && u32 target && u32 segId && u8 group && u8 digest && u64 first &&
    u64 count && u32 reportLen && u64 dest && u64 report && u64 digestOut
  | .play h volume kind part target segId _ recGroup pace _ frames _ _ _ =>
    h.wf && u16 volume && u8 kind && u8 part && u32 target && u32 segId && u8 recGroup && u8 pace && u64 frames
  | .copy h source dest length space digest slot digestOut =>
    h.wf && u64 source && u64 dest && u32 length && u8 space && u8 digest && u8 slot && u64 digestOut
  | .replSend h volume kind part target segId _ targetVol first entries batch =>
    h.wf && u16 volume && u8 kind && u8 part && u32 target && u32 segId && u16 targetVol && u64 first &&
    u64 entries && u16 batch
  | .replAccept h volume takeId => h.wf && u16 volume && u32 takeId
  | .scrubCtl h action => h.wf && u8 action
  | .reshape h volume target method => h.wf && u16 volume && u16 target && u8 method
  | .driveAdmit h slot info => h.wf && u8 slot && info.wf
  | .driveReplace h slot info => h.wf && u8 slot && info.wf
  | .driveFail h slot => h.wf && u8 slot
  | .layoutScan h reads => h.wf && reads.all StripeIn.wf
  | .trigIn sinceLanding => u64 sinceLanding
  | .trigOutEnd => true
  | .heartbeatTimer => true
  | .heartbeat e b => e.wf && b.wf
  | .heartbeatMissed => true
  | .partnerSilent t => t.wf
  | .fenceRetry t => t.wf
  | .hello e m => e.wf && m.wf
  | .helloRetry => true
  | .keyConfirm e => e.wf
  | .tangoQpError _ => true
  | .startupWaitExpiry t dumps => t.wf && dumps.all DumpIn.wf
  | .linkInfo e _ => e.wf
  | .ownerTable e owners => e.wf && ownersOk owners
  | .ownerAck e owners => e.wf && ownersOk owners
  | .handoverReq e _ direction => e.wf && u8 direction
  | .handoverReady e _ => e.wf
  | .handoverState e cuts chains => e.wf && cuts.all (fun c => c.2.2.wf) && chains.all ChainHand.wf
  | .handoverDone e _ => e.wf
  | .handoverTimeout t => t.wf
  | .leaving e cause t => e.wf && u8 cause && t.wf
  | .frozen e lastJseq t => e.wf && u64 lastJseq && t.wf
  | .takePart e r _ _ takeId part => e.wf && r.wf && u32 takeId && u8 part
  | .takePartAck e takeId part status => e.wf && u32 takeId && u8 part && u8 status
  | .triggerFwd e r takeId segId => e.wf && r.wf && u32 takeId && u32 segId
  | .driveNotice e slot action => e.wf && u8 slot && u8 action
  | .claimVerdict e layout period jseq _ => e.wf && u16 layout && u64 period && u64 jseq
  | .checkpointTimer => true
  | .ckptDone e buffer c => e.wf && decide (buffer < 2) && c.wf
  | .healReq e _ _ count _ _ => e.wf && u16 count
  | .healDone e _ _ count _ _ slots => e.wf && u16 count && slots.all Slot.wf
  | .mirrorRec e r st _ => e.wf && r.wf && st.all GState.wf
  | .mirrorAck e jseq => e.wf && u64 jseq
  | .nak e _ reason owners => e.wf && u8 reason && ownersOk owners
  | .ledger e _ => e.wf
  | .standbyReady => true
  | .qpContextChange qp _ host windows => qpOk qp && host.wf && windows.all Window.wf
  | .qpNop qp wr => qpOk qp && wr.wf
  | .qpSend qp wr => qpOk qp && wr.wf
  | .qpWrite qp wr => qpOk qp && wr.wf
  | .qpWriteImm qp wr => qpOk qp && wr.wf
  | .qpRead qp wr => qpOk qp && wr.wf
  | .qpFlush qp wr => qpOk qp && wr.wf
  | .qpWait qp wr => qpOk qp && wr.wf
  | .rdmaRequest r => r.wf
  | .rdmaAck qp _ _ => qpOk qp
  | .rdmaNak qp _ _ => qpOk qp
  | .rdmaAckTimeout qp => qpOk qp
  | .rnrRetryTimer qp => qpOk qp
  | .cnp qp => qpOk qp
  | .cnpRateTimer qp => qpOk qp
  | .contextFetchDone qp => qpOk qp
  | .rHello chan m => chanOk chan && m.wf
  | .rConfirm chan _ => chanOk chan
  | .offer chan o => chanOk chan && o.wf
  | .acceptTimeout chan => chanOk chan
  | .accept chan status nextEntry => chanOk chan && u8 status && u64 nextEntry
  | .fpBatch chan first _ entries => chanOk chan && u64 first && entries.all FpEntry.wf
  | .held chan first _ => chanOk chan && u64 first
  | .tile chan entry _ => chanOk chan && u64 entry
  | .commit chan entries => chanOk chan && u64 entries
  | .replCommitTimer chan => chanOk chan
  | .close chan total => chanOk chan && u64 total
  | .closed chan total => chanOk chan && u64 total
  | .error chan entry status => chanOk chan && u64 entry && u8 status
  | .earlyWarning _ avs => avs.wf
  | .replan r avs => r.wf && avs.wf
  | .vddStepDown avs => avs.wf
  | .avsRetry avs => avs.wf
  | .sensorRead r => r.wf
  | .thermalSample diodes => diodes.length == 32
  | .thermalTrip diode _ => decide (diode < 32)
  | .pcieMargin port margin => u8 port && u16 margin
  | .eyeScan _ lane height width => u8 lane && u32 height && u32 width
  | .i2cIndexWrite _ => true
  | .i2cRead count => u32 count
  | .perstNDeassert => true
  | .driveAdminCommandComplete slot r => slotOk slot && r.wf
  | .stagingComplete outcome img => u8 outcome && img.wf
  | .drivePortRetrain slot rateGT lanes => slotOk slot && u8 rateGT && u8 lanes
  | .ethPortLinkChange _ _ _ => true
  | .playPaceTimer chan => chanOk chan

end Sys2Proof
end

