-- ==== Sys2Proof/Tests/Slice0.lean ====
section
/-! SUPPORT. Small tests of single commands (expected results from spec/), and for every obligation of
Sys2Proof/Certificates/Slice0/Obligations.lean a state and operands that meet the hypotheses of its clauses (`wit_<its name>`). -/

namespace Sys2Proof.Tests
open Sys2Proof Sys2Proof.Machine
set_option Elab.async false

/-! ## Small states and operands -/

/-- A channel of a type, in domain 0 with its own decode pipe and group 0. -/
def chan (ctype : Nat) : Chan := { Chan.admin with ctype := ctype, decPipe := 0, group := 0, qp := 1, dma := if ctype = 6 then 0 else 255 }

/-- Channels 0 to 8, each of the type of its number, with ADMIN at 0 (and 7 alike). -/
def chans : Tab Chan := (0, Chan.admin) :: [1, 2, 3, 4, 5, 6, 7, 8].map (fun c => (c, chan c))

/-- A head controller that runs, locked, with all four groups its own. -/
def dev : Dev := { Dev.reset with
  glb := { Glb.reset with porLow := false, perstLow := false, locked := true, hifLocked := true, dpStarted := true }
  boot := { Boot.reset with stage := 3, idOk := true }
  tango := { Tango.reset with started := true, state := 3, owners := .all 0, epoch := 5, epochMax := 5 }
  hif := { Hif.reset with running := true, chans := chans }
  regs := { Regs.reset with dbPage := [(0, 4096)] }
  dma := { Dev.reset.dma with chs := [(0, { chan := 6, active := true, priority := 0, waited := 0 })] } }

/-- The same before the lock. -/
def fresh : Dev := { dev with glb := { dev.glb with locked := false, hifLocked := false, dpStarted := false } }

/-- A state of it with nothing waiting. -/
def st (d : Dev) : State := { pending := [], hbm := [], dev := d }

/-- The head after a command. -/
def after (c : Instr) (d : Dev) : Dev :=
  match exec c (st d) with
  | .next t => t.dev
  | _ => d

/-- HBM after a command. -/
def hbmAfter (c : Instr) (d : Dev) : List Host.Cell :=
  match exec c (st d) with
  | .next t => t.hbm
  | _ => []

/-- The header of a descriptor on a channel. -/
def hdr (c : Nat) : Hdr := { chan := c, irq := false, fence := false, clean := true, tag := 9, sqIndex := 0, dbSeq := 1 }

/-- Whether a descriptor starts. -/
def starts (op : Byte) (ctypes : List Nat) (h : Hdr) (d : Dev) : Bool :=
  d.picksUp h.chan && (pickup h op d).2 && ctypes.contains (d.ctype h.chan) && h.clean

/-- The status and results of the first entry written for the descriptor of `hdr c`. -/
def answer (c : Nat) (d : Dev) : Option (Nat × W64 × W64) := d.out.findSome? (fun o => match o with
  | .completion x t _ s _ r0 r1 _ _ => if x = c ∧ t = 9 then some (s, r0, r1) else none
  | _ => none)

/-- The codes and instances recorded. -/
def events (d : Dev) : List (Nat × W32) := d.evr.ring.map (fun r => (r.code, r.instance_))

/-- A layout of 18 drives. -/
def lay : LayoutRec :=
  { layoutId := 1, kind := 0, width := 16, drives := 18, flags := 0, driveMask := 0x3FFFF, baseLba := 65536, periods := 4,
    spares := 0, table := List.range 18 }

/-- A volume in the clear. -/
def vol : Volume := { id := 1, layout := 1, encrypted := false, dedup := false, kcv := 0, dkcv := 0, ctrA := 1, ctrB := 1 }

/-- A healthy, registered drive. -/
def drv : Drive := { Drive.none_ with state := .healthy, portOn := true, linked := true, registered := true, partnerReg := true }

/-- An authentic envelope of this head's epoch and role. -/
def env (d : Dev) : Env := { level := 1, sender := true, role := d.role, epoch := d.tango.epoch, seq := 1, auth := true }

/-- The head in a pair with a session, its pages 0 and 1 with keys. -/
def paired : Dev := { dev with
  tango := { dev.tango with session := true, cl := 1, owners := ⟨0, 0, 1, 1⟩ }
  ciph := { dev.ciph with pages := [(0, { Page.reset 0 with state := .ready }), (1, { Page.reset 1 with state := .ready })] } }

/-- Drives that answer nothing. -/
def tin : TakeoverIn := { reports := [], conflicts := [], failed := [], adoption := [], sys := [] }

/-! ## The queue, reset and the whole machine -/

/-- A dirty line of the cache at 0x1000. -/
def lineA : CLine := { addr := 0x1000, dirty := true, age := 0, data := 7 :: zeros 127 }
/-- The head with that line, dirty or clean. -/
def withLine (dirty : Bool) : Dev :=
  { dev with mca := { dev.mca with lines := [(wayKey (setOf 0x1000) 3, { lineA with dirty := dirty })] } }
/-- The head in a fatal stop. -/
def stopped : Dev := { dev with glb := { dev.glb with fatal := true } }
/-- A state with bytes in HBM and a command waiting. -/
def loaded : State := { pending := [.barrier true, .clean 0x1010], hbm := [(0x1000, 3), (0x2000, 5)], dev := withLine true }

theorem test_step_takes_front : step loaded = exec (.barrier true) { loaded with pending := [.clean 0x1010] } := rfl
theorem test_idle_counts : (match step (st dev) with | .next t => t.dev.now | _ => 0) = 1 := by decide

/-- The head with group 2 sending codewords. -/
def sending : Dev := { dev with sl := { dev.sl with groups := dev.sl.groups.put 2 { dev.sl.groups.a2 with tx := { dev.sl.groups.a2.tx with on := true } } } }
theorem wit_IdleAndAuditTick_IdleStep : (State.reset.pending = [] ∧ State.reset.dev.glb.porLow = true) ∧
    ((st sending).pending = [] ∧ sending.glb.porLow = false ∧ sending.live = true ∧ (sending.sl.groups.at 2).tx.on = true) ∧
    ((∀ g : Fin 4, (dev.sl.groups.at g).tx.on = false) ∧ dev.ciph.ended = [] ∧ dev.vault.scan = none) := by decide
theorem wit_StepKeepsCanonicalHbm : loaded.Inv ∧ ∃ t, step loaded = .next t := ⟨rfl, _, rfl⟩
theorem wit_CommandFrame : (∃ t, exec (.clean 0x1010) loaded = .next t) ∧
    (∃ t, exec (.barrier true) loaded = .next t) ∧ Blk.storesHbm (.barrier true) = false := ⟨⟨_, rfl⟩, ⟨_, rfl⟩, rfl⟩
theorem wit_HbmByteFrame : (∃ t, exec (.clean 0x1010) loaded = .next t) ∧ ¬ Blk.stores (.clean 0x1010) loaded 0x2000 := by
  refine ⟨⟨_, rfl⟩, ?_⟩
  have q : loaded.dev.lateBuckets = [] := by decide
  have w : loaded.dev.mca.wbuf = [] := rfl
  have k : loaded.dev.mca.keys (· == lineOf 0x1010) = [wayKey (setOf 0x1000) 3] := by decide
  have l : tget loaded.dev.mca.lines (wayKey (setOf 0x1000) 3) = some lineA := by decide
  have n : lineA.addr + lineA.data.length = 0x1080 := by simp [lineA, zeros]
  rintro ((⟨x, hx, y, hy, -, a, b⟩ | h) | h)
  · rw [k, List.mem_singleton] at hx
    subst hx
    rw [l] at hy; cases hy
    omega
  · rw [w] at h; simp at h
  · exact h.1 q
theorem wit_OnlyPorEndsFatal : Instr.barrier true ≠ .porNAssert ∧ (st stopped).dev.glb.fatal = true ∧
    ∃ t, exec (.barrier true) (st stopped) = .next t := ⟨by decide, by decide, _, rfl⟩
theorem wit_CommandsGoOn : Dev.sound (.clean 71999999999) = true ∧ Dev.sound (.barrier true) = true ∧ hbmSize ≤ 72000000000 := by decide
theorem wit_HeadIdSampledOnce : State.reset.dev.glb.porLow = true ∧ (∃ t, exec (.barrier true) loaded = .next t) ∧
    Instr.barrier true ≠ .porNAssert ∧ (∀ pins, Instr.barrier true = .porNDeassert pins → loaded.dev.glb.porLow = false) ∧
    loaded.dev.glb.porLow = false :=
  ⟨rfl, ⟨_, rfl⟩, by simp, by simp, rfl⟩

/-! ## Registers, cache and HBM -/

theorem test_scratch_write : (after (.registerWrite 0x20 8 0x1122334455667788) dev).regs.scratch = 0x1122334455667788 ∧
    (after (.registerWrite 0x24 4 1) { dev with regs := { dev.regs with scratch := 7 } }).regs.scratch = 7 := by decide
theorem test_wide_register_staged :
    tget (after (.registerWrite 0x600508 8 3) (after (.registerWrite 0x600500 8 5) fresh)).regs.ip 0 = some 0x30000000000000005 := by decide
theorem test_waymask_before_lock_only :
    tget (after (.regionTableWrite 0x880100 8 0xABCD1234) fresh).regs.wayMask 0 = some 0x1234 ∧
    tget (after (.regionTableWrite 0x880100 8 0xABCD1234) dev).regs.wayMask 0 = some 0xFFFF := by decide
theorem wit_RegisterServices_RegisterWriteCovers :
    ¬((3 = 4 ∨ 3 = 8) ∧ (0x20#26).toNat % 3 = 0) ∧ ¬((8 = 4 ∨ 8 = 8) ∧ (0x24#26).toNat % 8 = 0) ∧
    regAt ((0x28#26).toNat / 8 * 8) = none ∧ dev.barFree = true ∧ (fresh.barWrites = true ∧ fresh.glb.locked = false) ∧
    (dev.glb.locked = true ∨ regionAddr (0x880100#26).toNat = false) ∧ regionAddr (0x20#26).toNat = false := by decide

/-- The head with HIF open again after PERST_N. -/
def hifOpen : Dev := { dev with glb := { dev.glb with hifLocked := false } }
/-- The same with ADMIN stopped. -/
def adminOff : Dev := { hifOpen with hif := { hifOpen.hif with running := false } }
/-- A descriptor of an opcode and a tag, submitted. -/
def ds (op : Byte) (tag : W32) (started : Bool) : Desc := ⟨op, tag, 0, 1, false, false, started, false⟩
/-- HIF open again with a descriptor at ADMIN. -/
def adminDescs : Dev := { hifOpen with hif := { hifOpen.hif with chans := tput hifOpen.hif.chans 0 { Chan.admin with descs := [ds 0 1 false] } } }
/-- The head before its drive ports start. -/
def portsOff : Dev := { dev with glb := { dev.glb with dpStarted := false } }

theorem test_lock : (after (.glbLock 1 tin []) fresh).glb.locked = false ∧ (after (.glbLock 0x4C4F434B tin []) fresh).glb.locked = true ∧
    (after (.glbLock 0x4C4F434B tin []) fresh).tango.started = true := by decide
theorem test_lock_again : (after (.glbLock 0x4C4F434B tin []) hifOpen).glb.hifLocked = true := by decide
theorem wit_LockAndPorts_LockCommand : (dev.running = true ∧ dev.glb.perstLow = false) ∧ (0x4C4F434A : W32) ≠ 0x4C4F434B ∧
    (fresh.running = true ∧ fresh.glb.perstLow = false ∧ fresh.glb.locked = false) ∧ (dev.glb.locked = true ∧ dev.glb.hifLocked = true) ∧
    (hifOpen.running = true ∧ hifOpen.glb.perstLow = false ∧ hifOpen.glb.locked = true ∧ hifOpen.glb.hifLocked = false) ∧
    (fresh.cat.takes = [] ∧ ∀ g : Fin 4, fresh.groupEn g = true ∧ (fresh.sl.groups.at g).link = .disabled) := by decide
theorem test_dp_cfg : (after (.dpCfgWrite 0 []) dev).regs.dpCfg = 3 ∧ (after (.dpCfgWrite 6 []) fresh).regs.dpCfg = 2 := by decide
theorem test_admin_sizes : (tget (after (.adminEnable 0x800000C4) adminOff).hif.chans 0).map (fun c => (c.sqLog2, c.cqLog2)) = some (4, 12) ∧
    (after (.adminEnable 0x8000008C) hifOpen).regs.adminCtl = hifOpen.regs.adminCtl := by decide
theorem test_admin_waits : (after (.adminStop 0x8C) adminDescs).hif.stopping = true := by decide
theorem test_admin_stops : (after (.adminStop 0x8C) hifOpen).hif.running = false := by decide
theorem wit_LockAndPorts_AdminAndPorts :
    (dev.running = true ∧ dev.glb.perstLow = false ∧ dev.glb.locked = true ∧ dev.glb.dpStarted = true) ∧
    (portsOff.running = true ∧ portsOff.glb.dpStarted = false) ∧ (fresh.running = true ∧ fresh.glb.dpStarted = false) ∧
    (hifOpen.hifReach = true ∧ hifOpen.glb.hifLocked = false ∧ (0x80000088#32).getLsbD 31 = true ∧ hifOpen.hif.running = true) ∧
    (adminOff.hifReach = true ∧ adminOff.glb.hifLocked = false ∧ adminOff.hif.running = false ∧ adminOff.hif.fault = false ∧
      tget adminOff.hif.chans 0 = some Chan.admin ∧ 4 ≤ bits (0x800000C4#32).toNat 3 0 ∧ bits (0x800000CC#32).toNat 3 0 ≤ 12) ∧
    ((0x88#32).getLsbD 31 = false ∧ adminOff.hif.stopping = false) ∧
    (hifOpen.hif.aborts = [] ∧ hifOpen.hif.dying = [] ∧ dueEntry [] hifOpen.hif.chans = none ∧
      tget hifOpen.hif.chans 0 = some Chan.admin ∧ Chan.admin.descs = []) ∧
    (adminDescs.hifReach = true ∧ adminDescs.glb.hifLocked = false ∧ adminDescs.hif.running = true ∧ adminDescs.hif.aborts = [] ∧
      adminDescs.hif.dying = [] ∧ dueEntry [] adminDescs.hif.chans = none ∧
      (tget adminDescs.hif.chans 0).map (fun c => decide (c.descs ≠ [])) = some true) ∧
    (dev.hifReach = true ∧ dev.glb.hifLocked = true) := by decide
theorem test_jtag_close : (after (.jtagClose 1) fresh).boot.jtagClosed = true ∧ (after (.jtagClose 2) fresh).boot.jtagClosed = false := by decide
theorem test_cursor : (after (.evrCursorWrite 0x980018 4 7) dev).evr.index = 7 := by decide
theorem test_window : (after (.evrWindowRead 0x980040 8) (logEvent 0x0402 3 [1] dev)).evr.window.length = 64 := by decide
theorem wit_RegisterServices_ServiceRegisters :
    (fresh.working = true ∧ fresh.glb.perstLow = false ∧ fresh.glb.locked = false ∧ fresh.mca.enabled = true) ∧
    (fresh.barWrites = true ∧ (1#32).getLsbD 0 = true) ∧ (dev.barFree = true ∧ dev.evr.source = false) ∧
    (dev.barReads = true ∧ dev.evr.autoInc = false) := by decide

/-! ## The write buffer, the cache and HBM -/

/-- The head with two entries in its write buffer. -/
def buffered : Dev :=
  { dev with mca := { dev.mca with wbuf := [⟨0x2000, [(0, 7)]⟩, ⟨0x1000, [(127, 9)]⟩], barriers := [1] } }
/-- An entry of the hot index. -/
def hotE : HotEnt := { fp := 5, layout := 1, volume := 1, pinned := 0, hits := 0, storedLen := 100, loc := 7, next := none, leave := false }
/-- The head with a bucket that memory does not show yet. -/
def lateBucket : Dev := { withLine true with cat := { dev.cat with hot := [(3, [(0, hotE)])] } }
theorem test_drain : hbmAfter .writeBufferDrain buffered = [(0x2000, 7)] ∧ (after .writeBufferDrain buffered).out = [.barrierDone] := by decide
theorem test_barrier_waits : (after (.barrier true) buffered).mca.barriers = [1, 2] ∧ (after (.barrier true) dev).out = [.barrierDone] := by decide
theorem wit_BufferAndCache_WriteBufferOrder : (st dev).dev.mca.hot = (st dev).dev.cat.hot ∧ (dev.live = true ∧ (syncHot (st dev)).dev.mca.wbuf = []) ∧
    (buffered.live = true ∧ (syncHot (st buffered)).dev.mca.wbuf = ⟨0x2000, [(0, 7)]⟩ :: [⟨0x1000, [(127, 9)]⟩]) ∧
    (dev.mca.wbuf = [] ∧ buffered.mca.wbuf ≠ []) ∧ lateBucket.lateBuckets = [3] := by decide

/-- The head while its cache drains. -/
def draining (d : Dev) : Dev := { d with mca := { d.mca with draining := true } }
theorem test_clean : hbmAfter (.clean 0x1010) (withLine true) = [(0x1000, 7)] ∧
    (after (.clean 0x1010) (withLine true)).mca.lines.map (·.2.dirty) = [false] := by decide
theorem test_inval : hbmAfter (.inval 0x107F) (withLine true) = [] ∧ (after (.inval 0x107F) (withLine true)).mca.lines = [] := by decide
theorem test_clean_inval : hbmAfter (.cleanInval 0x1000) (withLine true) = [(0x1000, 7)] ∧
    (after (.cleanInval 0x1000) (withLine true)).mca.lines = [] := by decide
theorem test_clean_region : (after (.cleanRegion 0) (withLine true)).mca.lines.map (·.2.dirty) = [false] ∧
    (after (.cleanInvalRegion 0) (withLine true)).mca.lines = [] := by decide
theorem test_clean_no_such_address : exec (.clean 72000000000) (st dev) = .fault (.hbmAddress 72000000000) := by
  simp [exec, execClean, hbmSize]
theorem wit_BufferAndCache_CacheMaintenance :
    ((withLine true).live = true ∧ 71999999999 < hbmSize ∧ (withLine true).mca.draining = false ∧ (syncHot (st (withLine true))).dev.mca.wbuf = [] ∧
      (syncHot (st (withLine true))).dev.mca.keys (· == lineOf 0x1010) = [wayKey (setOf 0x1000) 3] ∧
      tget (syncHot (st (withLine true))).dev.mca.lines (wayKey (setOf 0x1000) 3) = some lineA ∧ lineA.dirty = true ∧
      lineA.addr = lineOf 0x1010) ∧
    (withLine true).inEntry 0 0x1000 = true ∧ ((draining (withLine true)).live = true ∧ (draining (withLine true)).mca.draining = true) := by decide

theorem test_drain_done : hbmAfter .cacheDrainDone (draining (withLine true)) = [(0x1000, 7)] ∧
    (after .cacheDrainDone (draining (withLine true))).mca.enabled = false := by decide
theorem test_parity : (after (.cacheParityError 32 3 .data) (withLine true)).glb.fatal = true ∧
    events (after (.cacheParityError 32 3 .tag) (withLine false)) = [(0x0A01, 32)] := by decide
theorem test_parity_limit : events (after .cacheParityLimit dev) = [(0x0A05, noInstance)] := by decide
theorem wit_CacheAndHbmErrors_CacheErrors :
    ((draining (withLine true)).live = true ∧ (draining (withLine true)).mca.draining = true ∧
      tget (syncHot (st (draining (withLine true)))).dev.mca.lines (wayKey 32 3) = some lineA ∧ lineA.dirty = true ∧
      ((draining (withLine true)).mca.lines.all (fun e => e.1 == wayKey 32 3)) = true) ∧
    ((withLine true).live = true ∧ (withLine true).mca.draining = false) ∧
    tget (syncHot (st dev)).dev.mca.lines (wayKey 8191 15) = none ∧
    (tget (syncHot (st (withLine false))).dev.mca.lines (wayKey 32 3) = some { lineA with dirty := false } ∧ ParityErr.tag ≠ .copies) ∧
    tget (syncHot (st (withLine true))).dev.mca.lines (wayKey 32 3) = some lineA ∧
    (dev.running = true ∧ dev.cacheOn = true ∧ (draining dev).running = true ∧ (draining dev).cacheOn = false) := by decide

/-- A packet of frame data. -/
def pkt : Packet :=
  { ptype := 2, flags := 0, streamId := 0, gsn := 5, frame := 0, length := 0, timestamp := 0, word := 0, group := 0, reserved := 0,
    hcrc := 0, payload := [], crc := 0 }
/-- The head with one landed slot in the ring of group 0. -/
def ringed : Dev :=
  { dev with lg := dev.lg.put 0 { dev.lg.a0 with ring := [⟨pkt, 1, 0⟩], ringPos := 5, expect := 6, resident := 1, received := 1 } }
/-- Patrol stands at an address. -/
def patrolAt (a : Nat) : Dev := { dev with mca := { dev.mca with patrolAt := a } }
/-- The same without patrol. -/
def noPatrol : Dev := { dev with regs := { dev.regs with hbmCfg := 0 } }
/-- A checkpoint of an even sequence. -/
def ckpt : Ckpt :=
  { seq := 4, epoch := 5, coversJseq := 0, metadataSeq := 0, volumes := [], groups := [], commits := ⟨0, 0, 0, 0⟩, chains := [], entries := [],
    frames := [], inUse := [], freed := [], refs := [], rings := [], takes := [], outputs := [], triggers := [], crcOk := true }
/-- The context of a queue pair. -/
def qpHost : QpHost :=
  { stateReq := 1, domain := 1, ipv6 := false, repl := false, srcIp := 0, destQpn := 1, sqPsn := 5, rqPsn := 6, destIp := 0, destMac := 0,
    dscp := 0, pmtu := 3, udpSport := 0xC000, vlan := 0, timeout := 10, retryCnt := 3, rnrRetry := 3, rdOut := 4, rdIn := 4, sqLog2 := 4,
    cqLog2 := 4, rqLog2 := 4, rbufLog2 := 12, vector := 1, sqBase := 0, cqBase := 0, rqBase := 0, counterAddr := 0, peerSerial := 0,
    txPage := 0, rxPage := 0, clean := true }
/-- A queue pair that sends and receives. -/
def qpRts : Qp :=
  { host := qpHost, gen := 1, state := .rts, cause := 0, sendCount := 0, recvCount := 0, sqHead := 0, cqTail := 0, rqHead := 0, rqTail := 0,
    sPsn := 5, ePsn := 6, msn := 0, dups := [], outs := [], waiting := none, nakSent := false, retries := 0, rnrLeft := 3, rate := 10,
    cnpAt := none, inMsg := false, inBytes := 0, rnrWait := false }
/-- The head with a queue pair 5. -/
def withQp (q : Qp) (d : Dev) : Dev := { d with rdma := { d.rdma with qps := [(5, q)] } }
/-- The head with a checkpoint received. -/
def ckptHeld : Dev := { dev with tango := { dev.tango with ckpts := [ckpt] } }
theorem test_uncorrectable : (after (.hbmUncorrectable 0 .journal) dev).glb.fatal = true ∧
    ((after (.hbmUncorrectable 0 (.standbySlot 0 5)) ringed).lg.at 0).dropped = 1 := by decide
set_option maxRecDepth 20000 in
theorem test_patrol_round : (after (.patrolRead (zeros 36) false .other) (patrolAt 71999999968)).mca.passes = 1 := by decide
theorem test_patrol_off : (after (.patrolRead (zeros 36) false .other) noPatrol).mca.patrolAt = noPatrol.mca.patrolAt := by decide
theorem wit_CacheAndHbmErrors_HbmErrors : dev.live = true ∧ HbmHolder.journal = .journal ∧ HbmHolder.hotIndex 3 = .hotIndex 3 ∧
    (ckptHeld.live = true ∧ ∃ c ∈ ckptHeld.tango.ckpts, c.seq % 2 = 0 % 2) ∧
    ((withQp qpRts dev).live = true ∧ (withQp qpRts dev).qp 5 = some qpRts ∧ qpRts.state = .rts) ∧
    (ringAt (ringed.lg.at 0).ring 5 = some ⟨pkt, 1, 0⟩ ∧ (Slot.mk pkt 1 0).state ≠ 0) ∧
    bits noPatrol.regs.hbmCfg.toNat 7 0 = 0 ∧ bits dev.regs.hbmCfg.toNat 7 0 ≠ 0 ∧
    (patrolAt 71999999935).mca.patrolAt + 32 < hbmSize ∧ hbmSize ≤ (patrolAt 71999999968).mca.patrolAt + 32 := by decide
set_option maxRecDepth 100000 in
/-- A burst read without an error is clean, one with a byte off is corrected, and one with four bytes off is uncorrectable. -/
theorem wit_CacheAndHbmErrors_HbmErrors_burst : burstRead (xorBytes (burstCode (zeros 32)) (zeros 36)) false = .clean (zeros 32) ∧
    burstRead (xorBytes (burstCode (zeros 32)) (9 :: zeros 35)) false = .corrected (zeros 32) ∧
    burstRead (xorBytes (burstCode (zeros 32)) ([1, 2, 3, 4] ++ zeros 32)) false = .uncorrectable ∧
    memBytes (syncHot (st dev)).hbm (syncHot (st dev)).dev.mca.patrolAt 32 = zeros 32 := by decide

/-! ## Pools, cipher, copies -/

theorem test_alloc : (after (.alloc 2 false) dev).out.map (fun o => match o with
      | .poolResp n i _ p q => (n, i, p, q) | _ => (9, none, 9, 9)) = [(2, some 0, 1, 1)] ∧
    (after (.alloc 5 true) dev).out = [.poolResp 5 none none 0 1] := by decide
theorem test_free : (after (.free 2 0 false) (after (.alloc 2 false) dev)).bpm.bits = [] := by decide
theorem test_pop : (after (.pop 2 true) dev).out = [.poolResp 2 none none 0 0] := by decide
theorem wit_PoolAndCipherEvents_PoolOperations : dev.live = true ∧ (dev.bpm.alloc 2).2 = some 0 ∧ (dev.bpm.alloc 5).2 = none ∧
    dev.bpm.bits.Pairwise (· < ·) ∧ (after (.alloc 2 false) dev).bpm.bits.Pairwise (· < ·) ∧
    ((after (.alloc 2 false) dev).bpm.alloc 2).2 = some 1 := by decide

/-- A long job of page 5 in three segments. -/
def jobLong : CJob :=
  { page := 5, segs := 3, long := true, timed := true, started := true, encrypt := true, chan := some 4, handle := 0, qp := 0, head := [],
    tail := [], body := [1, 2], ctr := 3, msg := none, entry := 0, later := false, aborting := none }
/-- A message of page 0 in one segment. -/
def jobMsg : CJob := { jobLong with page := 0, segs := 1, long := false, chan := none, msg := some .slIdle, qp := 0x100 }
/-- The head with jobs on its two lanes. -/
def laned (a b : Option CJob) (d : Dev) : Dev := { d with ciph := { d.ciph with lane0 := a, lane1 := b } }
theorem test_reseed : (after (.drbgReseed 3) dev).ciph.reseeds = 1 := by decide
theorem test_entropy : (after (.entropyHealthFail 5) paired).glb.fatal = true ∧ ((after (.entropyHealthFail 5) paired).page 0).state = .assigned := by
  decide
theorem test_segment_next : (laneJob 0 (after (.cipherSegmentEnd 0) (laned (some jobLong) (some jobMsg) dev)).ciph).map (·.segs) = some 2 := by
  decide
theorem wit_PoolAndCipherEvents_CipherEvents : dev.live = true ∧ (dev.glb.porLow = false ∧ dev.glb.fatal = false) ∧ dev.ciph.fail.getLsbD 3 = false ∧
    (paired.live = true ∧ laneJob 1 (laned none (some jobMsg) paired).ciph = some jobMsg ∧ jobMsg.aborting = none ∧ jobMsg.segs ≤ 1 ∧
      jobMsg.msg = some .slIdle) ∧
    (let d := laned (some jobLong) (some jobMsg) dev
     d.live = true ∧ laneJob 0 d.ciph = some jobLong ∧ jobLong.aborting = none ∧ 1 < jobLong.segs ∧ d.ciph.jobs = [] ∧
      laneJob (1 - 0) d.ciph ≠ none ∧ jobLong.started = true ∧ jobLong.timed = true ∧ 2 ≤ jobLong.page ∧ jobLong.page < 64 ∧
      d.ciph.ended = [] ∧ d.repl = []) ∧
    (dev.repl = [] ∧ dev.ciph.ended = [] ∧ laneJob 0 dev.ciph = none) := by decide

/-- A copy from host memory, to the end of a page of 4 KiB. -/
def copyJob (left : Nat) (hbm : Bool) : CopyJob :=
  { h := hdr 6, dma := 0, src := 0x40, dst := 0x2F80, left := left, hbm := hbm, moved := 0, bad := false }
/-- The head with that copy under way. -/
def copying (j : CopyJob) : Dev :=
  { dev with hif := { dev.hif with chans := tput dev.hif.chans 6 { chan 6 with job := some (.copy j), descs := [ds 0x90 9 true] } } }
/-- The head with a key in hash-key slot 3, of domain 0. -/
def hkeyed : Dev := { dev with ciph := { dev.ciph with hkeys := [(3, ⟨0, [1, 2, 3]⟩), (1, ⟨5, [1, 2]⟩)] } }
/-- The head with no digest context free. -/
def noCtx : Dev :=
  { hkeyed with dgst := { hkeyed.dgst with ctx := (List.range 8).map (fun i =>
      (8 + i, { chan := 2, kind := 1, key := [], dest := .host 0, declared := none, seen := [] })) } }
theorem test_copy : answer 6 (after (.copy (hdr 6) 32 0 64 0 0 0 0) dev) = some (4, 0, 0) ∧
    answer 6 (after (.copy (hdr 6) 0 0 (2^40+64) 0 0 0 0) dev) = some (0x0D, 0, 0) := by decide
theorem test_burst : (after (.dmaBurst [1, 2, 3] false) (copying (copyJob 8192 false))).out.map (fun o => match o with
      | .hostWrite _ a l => (a, l.take 4) | _ => (0, [])) = [(0x2F80, [1, 2, 3, 0])] ∧
    (after (.dmaBurst [] false) (copying (copyJob 8192 false))).dma.bytes = 128 := by decide
theorem wit_CopyAndBurst : (Starts 0x90 [6] (hdr 6) hkeyed ∧ 1 < 2 ∧ 4 < 5) ∧ (32 % 64 ≠ 0 ∧ 4096 % 64 = 0) ∧
    (2 ^ 40 < 2 ^ 40 + 64 ∧ (2 ^ 40 + 64) % 64 = 0) ∧ (bar2Size < 64 + bar2Size ∧ bar2Size % 64 = 0) ∧
    (2 ^ 40 ≤ 2 ^ 40 ∧ (1 = 1 → bar2Size - 64 + 64 ≤ bar2Size)) ∧
    (Starts 0x90 [6] (hdr 6) noCtx ∧ 1 ≠ 0 ∧ noCtx.freeCtx = none) ∧
    (3 ≤ 3 ∧ hkeyed.freeCtx = some 8 ∧ (tget hkeyed.ciph.hkeys 1).map (·.domain) ≠ some (hkeyed.domain 6) ∧
      (tget hkeyed.ciph.hkeys 3).map (·.domain) = some (hkeyed.domain 6)) ∧
    (hkeyed.live = true ∧ hkeyed.glb.perstLow = false ∧ { dev with dma := Dev.reset.dma }.dma.grant = none) ∧
    (let d := copying (copyJob 8192 true)
     d.dma.grant = some 0 ∧ (tget d.dma.chs 0).map (·.chan) = some 6 ∧ d.job 6 = some (.copy (copyJob 8192 true)) ∧
      burstLength (copyJob 8192 true) < (copyJob 8192 true).left) := by decide

/-- A COPY channel to create. -/
def newCopy : NewChan :=
  { index := 20, ctype := 6, domain := 1, sqLog2 := 4, cqLog2 := 4, vector := 1, modCount := 0, decPipe := 255, modTime := 0, group := 255,
    priority := 1, layout := 0, sqBase := 4096, cqBase := 8192, qp := 0, dbTail := 0 }
/-- The command that creates it. -/
def create (n : NewChan) : Instr :=
  .channelCreate (hdr 0) n.index n.ctype n.domain n.sqLog2 n.cqLog2 n.vector n.modCount n.decPipe n.modTime n.group n.priority n.layout
    n.sqBase n.cqBase n.qp n.dbTail
theorem test_nop : answer 0 (after (.nop (hdr 0)) dev) = some (0, 0, 0) ∧
    answer 2 (after (.nop { hdr 2 with clean := false }) dev) = some (0x10, 0, 0) := by decide
theorem test_notify : (after (.notify (hdr 0) 2) dev).hif.notifies = [(hdr 0, 2)] := by decide
theorem wit_DescriptorChecks : Starts 0x00 [1, 2, 3, 4, 5, 6, 7, 8] (hdr 1) dev ∧ Starts 0x00 [1, 2, 3, 4, 5, 6, 7, 8] (hdr 8) dev ∧
    (dev.picksUp 2 = true ∧ (pickup { hdr 2 with clean := false } 0x00 dev).2 = true ∧ ({ hdr 2 with clean := false }).clean = false) ∧
    ((pickup (hdr 6) 0x0C dev).2 = true ∧ dev.ctype 6 ≠ 7) ∧ dev.picksUp 99 = false ∧
    (15 < 16 ∧ Starts 0x04 [7] (hdr 0) dev ∧ dev.hif.notifies.length < 16) ∧
    (Starts 0x04 [7] (hdr 0) { dev with hif := { dev.hif with notifies := List.replicate 16 (hdr 0, 1) } } ∧
      16 ≤ (List.replicate 16 (hdr 0, 1)).length) := by decide
theorem test_channel_create : answer 0 (after (create newCopy) dev) = some (0, 0x60000014, 0) ∧
    answer 0 (after (create { newCopy with index := 6 }) dev) = some (8, 0, 0) := by decide
theorem test_channel_destroy : answer 0 (after (.channelDestroy (hdr 0) (dev.handle 6)) dev) = some (0, 0, 0) ∧
    (tget (after (.channelDestroy (hdr 0) (dev.handle 6)) dev).hif.chans 6).isSome = false := by decide
theorem test_abort : answer 0 (after (.abort (hdr 0) 0x99006 1) dev) = some (9, 0, 0) ∧
    answer 0 (after (.abort (hdr 0) (dev.handle 6) 1) dev) = some (2, 0, 0) := by decide
/-- The head with one descriptor of COPY that has not started. -/
def oneDesc : Dev := { dev with hif := { dev.hif with chans := tput dev.hif.chans 6 { chan 6 with descs := [ds 0x90 4 false] } } }
theorem test_abort_unstarted : answer 0 (after (.abort (hdr 0) (oneDesc.handle 6) 4) oneDesc) = some (0, 0, 0) ∧
    ((tget (after (.abort (hdr 0) (oneDesc.handle 6) 4) oneDesc).hif.chans 6).map (·.descs.length)) = some 0 := by decide
theorem wit_ChannelLife :
    (Starts 0x01 [7] (hdr 0) dev ∧ dev.newChanOk { newCopy with ctype := 0 } = false) ∧
    (dev.newChanOk newCopy = true ∧ dev.newChanOk { newCopy with index := 6 } = true ∧ (tget dev.hif.chans 6).isSome = true) ∧
    (Starts 0x01 [7] (hdr 0) fresh ∧ fresh.newChanOk newCopy = true ∧ fresh.glb.locked = false) ∧
    (dev.glb.locked = true ∧ tget dev.hif.chans 20 = none ∧ dev.typeFull newCopy = false ∧ dev.newChanOk { newCopy with dbTail := 1 } = true ∧
      dev.typeFull { newCopy with dbTail := 1 } = false ∧ ({ newCopy with dbTail := 1 }).dbTail ≠ 0 ∧ newCopy.dbTail = 0 ∧
      (dev.choosePipe newCopy).isSome = true ∧ dev.hif.dying = [] ∧ newCopy.ctype ≠ 1) ∧
    (dev.stale 0x99006 = true ∧ Starts 0x02 [7] (hdr 0) dev ∧ Starts 0x03 [7] (hdr 0) dev) ∧
    (oneDesc.stale (oneDesc.handle 6) = false ∧ (oneDesc.handle 6).toNat % 4096 ≠ (hdr 0).chan ∧
      tget oneDesc.hif.chans ((oneDesc.handle 6).toNat % 4096) = some { chan 6 with descs := [ds 0x90 4 false] } ∧
      (ds 0x90 4 false).started = false ∧ (ds 0x90 4 false).aborted = false ∧ oneDesc.hif.dying = [] ∧ oneDesc.hif.aborts = [] ∧
      Starts 0x03 [7] (hdr 0) oneDesc) ∧
    (dev.stale (dev.handle 6) = false ∧ (dev.handle 6).toNat % 4096 ≠ (hdr 0).chan ∧ tget dev.hif.chans ((dev.handle 6).toNat % 4096) = some (chan 6) ∧
      (chan 6).descs = [] ∧ (dev.handle 6).toNat % 4096 ≠ 0 ∧ (chan 6).job = none ∧ (chan 6).ctype = 6 ∧ dev.hif.aborts = []) := by decide

/-- Interrupts: channel 6 with two entries without a message, vector 3 unmasked, vector 4 pending. -/
def msixDev : Dev :=
  { dev with hif := { dev.hif with chans := tput chans 6 { chan 6 with modTime := 5, unsig := 2, vector := 3 }, unmasked := [3], pendBits := [4] } }
theorem test_doorbell : (after (.doorbellPoll 0 [⟨6, 2, 1, [(0, 0, 5), (0, 0, 6)]⟩]) dev).hif.fetched = 2 := by decide
theorem test_host_error : (after (.hostAccessError (.doorbell 0)) dev).hif.running = false ∧
    events (after (.hostAccessError (.cplWrite 6)) dev) = [(0x0101, 6)] := by decide
theorem wit_RingsAndInterrupts_HostRings : (dev.running = true ∧ dev.glb.perstLow = false ∧ 0 < 8) ∧ (7 < 8 ∧ tgetD dev.regs.dbPage 0 7 = 0) ∧
    tgetD dev.regs.dbPage 0 0 ≠ 0 ∧
    (6 / 512 = 0 ∧ tget dev.hif.chans 6 = some (chan 6) ∧ dev.picksUp 6 = true ∧ submitted (chan 6) 2 ≠ 0 ∧
      submitted (chan 6) 2 + (chan 6).descs.length ≤ 2 ^ (chan 6).sqLog2 - 1) ∧
    (dev.live = true ∧ (chan 6).error = false ∧ dev.hif.notifies = []) := by decide
theorem test_mod_timer : (after (.msixModTimer 6) msixDev).out = [.msix 3] := by decide
theorem test_unmask : (after (.msixUnmask 4) msixDev).out = [.msix 4] ∧ (after (.msixUnmask 5) msixDev).out = [] := by decide
theorem wit_RingsAndInterrupts_Interrupts : msixDev.live = true ∧ msixDev.glb.perstLow = false ∧ (tget msixDev.hif.chans 5 = some (chan 5) ∧ (chan 5).modTime = 0) ∧
    (match tget msixDev.hif.chans 6 with
      | some ch => ch.modTime != 0 && decide (0 < ch.unsig) && ch.vector != 0xFFFF && msixDev.hif.unmasked.contains ch.vector
      | none => false) = true ∧ 2047 < 2048 := by decide

theorem wit_StaleHandle : Starts 0x02 [7] (hdr 0) dev ∧ Starts 0x03 [7] (hdr 0) dev ∧ dev.ctype (0x60099006 % 4096) < 16 ∧ dev.ctype (0x60000020 % 4096) < 16 ∧
    tget dev.hif.chans (0x60000020 % 4096) = none ∧ (tgetD dev.hif.gens 0 (0x60099006 % 4096)).toNat ≠ 0x60099006 / 4096 % 65536 ∧
    dev.ctype (0x50000006 % 4096) ≠ 0x50000006 / 2 ^ 28 := by decide

/-! ## Key pages, hash-key slots, measurement registers -/

/-- The head with one page in a state. -/
def pageIn (p : Nat) (x : PageSt) : Dev :=
  { dev with ciph := { dev.ciph with pages := tput dev.ciph.pages p { Page.reset p with state := x, domain := 1 },
                                     hkeys := [(0, { domain := 1, key := [1] })] } }
/-- A page that an open job holds. -/
def pageBusy : Dev := { pageIn 47 .ready with ciph := { (pageIn 47 .ready).ciph with lane0 := some { jobLong with page := 47 } } }
/-- A page that an erasure of its own waits on. -/
def pageWaits : Dev := { dev with ciph := { dev.ciph with pages := [(47, { Page.reset 47 with state := .ready, erase := some none })] } }
theorem test_page_assign : ((after (.pageAssign (hdr 0) 40 1) dev).page 40).state = .assigned ∧
    answer 0 (after (.pageAssign (hdr 0) 40 2) (pageIn 40 .ready)) = some (0x0E, 0, 0) := by decide
theorem test_key_load : ((after (.keyLoad (hdr 0) 47 [1] 3 4) (pageIn 47 .assigned)).page 47).ctr = 4 ∧
    answer 0 (after (.keyLoad (hdr 0) 48 [1] 0 4) (pageIn 48 .assigned)) = some (0x10, 0, 0) := by decide
theorem test_page_rekey : ((after (.pageRekey (hdr 0) 47 [] 0 5) (pageIn 47 .ready)).page 47).ctr = 5 ∧
    answer 0 (after (.pageRekey (hdr 0) 48 [] 0 0) (pageIn 48 .ready)) = some (8, 0, 0) := by decide
theorem test_page_erase : answer 0 (after (.pageErase (hdr 0) 47) (pageIn 47 .ready)) = some (0, 0, 0) := by decide
theorem test_page_release : ((after (.pageRelease (hdr 0) 47) (pageIn 47 .assigned)).page 47).state = .free := by decide
theorem wit_PageLife : (63 < 64 ∧ 1 ≤ 1 ∧ 63 ≤ 63 ∧ Starts 0x08 [7] (hdr 0) dev ∧ (dev.page 63).state = .free) ∧
    (Starts 0x08 [7] (hdr 0) (pageIn 40 .ready) ∧ ((pageIn 40 .ready).page 40).state ≠ .free) ∧
    (Starts 0x09 [7] (hdr 0) dev ∧ 1 < 2 ∧ 2 ≤ 2 ∧ (dev.page 2).state ≠ .assigned) ∧
    (Starts 0x09 [7] (hdr 0) (pageIn 47 .assigned) ∧ ((pageIn 47 .assigned).page 47).state = .assigned ∧ classS 47 = true ∧
      (4 : W64) ≠ ctrEnd ∧ classS 47 = true ∧ ctrEnd = ctrEnd) ∧
    (Starts 0x09 [7] (hdr 0) (pageIn 48 .assigned) ∧ ((pageIn 48 .assigned).page 48).state = .assigned ∧ classS 48 = false ∧
      (7 : W32) ≠ 0) ∧
    (Starts 0x0A [7] (hdr 0) (pageIn 48 .ready) ∧ Starts 0x0A [7] (hdr 0) (pageIn 47 .ready) ∧ ((pageIn 47 .ready).page 47).state = .ready ∧
      ((pageIn 47 .ready).page 47).rekey = none ∧ ((pageIn 47 .ready).page 47).erase = none ∧ (pageIn 47 .ready).ciph.jobs = [] ∧ (pageIn 47 .ready).pageInUse 47 = false ∧ (pageIn 47 .ready).ciph.ended = []) ∧
    (Starts 0x0A [7] (hdr 0) pageBusy ∧ (pageBusy.page 47).state = .ready ∧ (pageBusy.page 47).rekey = none ∧ pageBusy.pageInUse 47 = true) ∧
    (Starts 0x0B [7] (hdr 0) (pageIn 47 .assigned) ∧ Starts 0x0B [7] (hdr 0) (pageIn 47 .ready)) ∧
    (Starts 0x0C [7] (hdr 0) (pageIn 47 .ready) ∧ ((pageIn 47 .ready).page 47).state ≠ .assigned ∧ Starts 0x0C [7] (hdr 0) (pageIn 47 .assigned)) ∧
    (pageWaits.picksUp (hdr 0).chan = true ∧ (pageWaits.page 47).erase ≠ none) := by
  refine ⟨?_, ?_, ?_, ?_, ?_, ?_, ?_, ?_, ?_, ?_⟩ <;> decide
theorem test_hkey : answer 0 (after (.hkeyLoad (hdr 0) 5 1 [1]) dev) = some (0, 0, 0) ∧
    answer 0 (after (.hkeyErase (hdr 0) 5) dev) = some (2, 0, 0) := by decide
theorem test_mr_extend : answer 0 (after (.mrExtend (hdr 0) 5 0) dev) = some (0x0E, 0, 0) ∧ answer 0 (after (.mrExtend (hdr 0) 7 0) dev) = some (0, 0, 0) := by
  decide
/-- A part of a take on groups 0 and 1, its chain in register 8. -/
def part0 : Part :=
  { idx := 0, groups := 3, reg := some 8, records := 0, segments := [(Config.serial, 0)], entries := [], frames := [], metaIdx := 0,
    nextTile := .all 0, pagedEnts := 0, pagedFrames := 0, tilePageLoc := 0, tileFullLoc := 0, framePageLoc := 0, frameFullLoc := 0,
    closeDone := false, sealed_ := none, mine := true, lent := false, due := none }
/-- An open take of volume 1 on channel 1, with that part. -/
def take0 : Take :=
  { volume := 1, id := 1, layout := 1, state := .open_, groups := 3, chan := some 1, domain := 0, page := 255, kcv := 0, hkey := 0,
    dedup := false, start := none, limitFrame := none, openGsn := [], begun := 0, ended := 0, endAt := [], stage := 0, parts := [part0],
    pending := [], openTime := 5, closeTime := 0, reason := 0, reel := none, closeHdr := none, addenda := [], lossDue := [],
    replica := false, told := true, away := false, adopted := false, undone := false, erased := false }
/-- A take added to the head. -/
def withTake (t : Take) (d : Dev) : Dev := { d with cat := { d.cat with takes := d.cat.takes ++ [t] } }
/-- The open take holds slot 0. -/
def slotHeld : Dev := withTake take0 (pageIn 40 .free)
theorem wit_MeasurementAndQuote_KeySlotsAndMeasurement :
    (63 < 64 ∧ 1 ≤ [1#8].length ∧ 63 ≤ 128 ∧ Starts 0x0D [7] (hdr 0) dev ∧ tget dev.ciph.hkeys 63 = none) ∧
    (Starts 0x0D [7] (hdr 0) (pageIn 40 .free) ∧ tget (pageIn 40 .free).ciph.hkeys 0 = some { domain := 1, key := [1] } ∧ 1 ≠ 2) ∧
    (Starts 0x0E [7] (hdr 0) dev ∧ tget dev.ciph.hkeys 5 = none) ∧
    (Starts 0x0E [7] (hdr 0) slotHeld ∧ (tget slotHeld.ciph.hkeys 0).isSome = true ∧ slotHeld.hkeyHeld 0 = true) ∧
    (Starts 0x0E [7] (hdr 0) (pageIn 40 .free) ∧ (tget (pageIn 40 .free).ciph.hkeys 0).isSome = true ∧ (pageIn 40 .free).hkeyHeld 0 = false) ∧
    (31 < 32 ∧ Starts 0x0F [7] (hdr 0) dev ∧ 31 ≠ 6 ∧ 31 ≠ 7) := by decide

/-! ## Volumes, catalogue, link and firmware operations -/

/-- A take 2 of volume 1 in a state. -/
def takeIn (x : TakeSt) : Take := { take0 with id := 2, state := x, groups := 1, parts := [Part.blank 0 1 true] }
/-- A closed segment of a Reel take. -/
def seg0 : Segment :=
  { id := 1, trigTime := 3, winStart := 1, winEnd := 9, closed := true, reason := 1, stripes := [(1, 3)], frames := [], sealed_ := none,
    full := true, pagedEnts := 0, pagedFrames := 0, tileFullLoc := 0, frameFullLoc := 0, reg := none, manEnd := none, gone := 0 }
/-- The ring of a Reel take with that segment, one that is open, and one that is not sealed yet. -/
def reel0 : ReelSt :=
  { n := 4, preNs := 10, postNs := 10, limit := 100, minimum := 10, stripes := [(1, 3)],
    segs := [seg0, { seg0 with id := 2, closed := false }, { seg0 with id := 3, reg := some 9 }], nextSeg := 4 }
/-- A layout of 10 drives, 8+2. -/
def layOld : LayoutRec :=
  { layoutId := 1, kind := 1, width := 8, drives := 10, flags := 0, driveMask := 0x3FF, baseLba := 65536, periods := 4, spares := 0,
    table := (List.replicate 256 (List.range 10)).flatten }
/-- The head with one layout loaded. -/
def layDev : Dev := { dev with vault := { dev.vault with layouts := [lay] } }
/-- The same with one volume. -/
def volDev : Dev := { layDev with cat := { layDev.cat with volumes := [vol] } }
/-- The same with one take, while a metadata commit runs. -/
def takeDev (x : TakeSt) : Dev :=
  withTake (takeIn x) { volDev with vault := { volDev.vault with mdcAgain := true } }
/-- The same with snapshot 7. -/
def snapDev : Dev := { volDev with cat := { volDev.cat with snaps := [⟨7, 1, []⟩] } }
/-- A read of snapshot 7 under way on channel 1. -/
def snapRead : Dev :=
  { snapDev with hif := { snapDev.hif with chans := tput snapDev.hif.chans 1 { chan 1 with job := some (.read
      { h := hdr 1, snap := some 7, volume := 1, takeId := 2, part := 0, flags := 0, next := 0, todo := [], page := none, hkey := none,
        dest := 0, report := 0, reportMax := 0, moved := 0, bad := 0, reported := 0, first := 0 }) } } }
/-- The Reel take. -/
def reelDev : Dev := withTake { takeIn .open_ with reel := some reel0 } volDev
/-- A HELLO of head B with other firmware. -/
def hello0 : Hello :=
  { serial := 77, headB := true, state := 0, levelMax := 1, levelMin := 1, vaultLevel := 1, fwVersion := 99, vaultId := 0, epochMax := 5,
    nonce := 3, ecdhPub := [], link := .all ⟨0, 0, 0, false⟩, certs := [1], body := [], signature := 0 }
/-- The pair while the partner runs other firmware. -/
def otherFw : Dev := { paired with tango := { paired.tango with partner := some hello0 } }
/-- Eight layouts are loaded. -/
def eightDev : Dev := { dev with vault := { dev.vault with layouts := List.replicate 8 { lay with layoutId := 9, driveMask := 0 } } }
theorem test_volume_create : (after (.volumeCreate (hdr 0) 1 1 false false 0 0) layDev).cat.volumes = [vol] ∧
    answer 0 (after (.volumeCreate (hdr 0) 1 1 false false 0 0) dev) = some (0x10, 0, 0) := by decide
theorem test_volume_delete : (after (.volumeDelete (hdr 0) 1) volDev).cat.volumes = [] ∧
    answer 0 (after (.volumeDelete (hdr 0) 1) (takeDev .open_)) = some (8, 0, 0) := by decide
theorem test_drive_port : ((after (.drivePort (hdr 0) 5 1 []) dev).drive 5).portOn = true := by decide
theorem wit_VolumesAndCatalogue_VolumesAndLayouts :
    (1 ≤ 1 ∧ 0xFFFE ≤ 0xFFFE ∧ Starts 0x11 [7] (hdr 0) dev ∧ dev.layout 1 = none) ∧
    (Starts 0x11 [7] (hdr 0) volDev ∧ (volDev.layout 1).isSome = true ∧ (volDev.volume 1).isSome = true ∧ volDev.volume 2 = none) ∧
    (Starts 0x12 [7] (hdr 0) dev ∧ dev.volume 1 = none) ∧
    (Starts 0x12 [7] (hdr 0) (takeDev .open_) ∧ ((takeDev .open_).volume 1).isSome = true ∧
      ((takeDev .open_).cat.takes.any (fun t => t.volume == 1 && t.state != .deleted)) = true) ∧
    (Starts 0x12 [7] (hdr 0) volDev ∧ volDev.cat.takes.any (fun t => t.volume == 1 && t.state != .deleted) = false ∧
      volDev.cat.snaps.any (fun x => x.volume == 1) = false) ∧
    (Starts 0x10 [7] (hdr 0) dev ∧ dev.glb.dpStarted = true ∧ dev.versionHeld = false ∧
      layoutOk dev 1 1 (withTable lay) (dev.leastNs (withTable lay) []) = false) ∧
    (Starts 0x10 [7] (hdr 0) otherFw ∧ otherFw.glb.dpStarted = true ∧ otherFw.versionHeld = true) ∧
    (47 < 48 ∧ Starts 0x1A [7] (hdr 0) dev) := by
  refine ⟨?_, ?_, ?_, ?_, ?_, ?_, ?_, ?_⟩ <;> decide
theorem rows_flat (r : List Nat) : ∀ n k, k < n → (((List.replicate n r).flatten).drop (k * r.length)).take r.length = r
  | n + 1, 0, _ => by simp [List.replicate_succ]
  | n + 1, k + 1, h => by
    have : (k + 1) * r.length = r.length + k * r.length := by ring
    rw [List.replicate_succ, List.flatten_cons, this, ← List.drop_drop, List.drop_left]
    exact rows_flat r n k (by omega)
theorem layOld_rows : (List.range 256).map layOld.row = List.replicate 256 (List.range 10) := by
  rw [List.eq_replicate_iff]
  refine ⟨by simp, fun x hx => ?_⟩
  obtain ⟨k, hk, rfl⟩ := List.mem_map.1 hx
  exact rows_flat (List.range 10) 256 k (List.mem_range.1 hk)
theorem layOld_table : tableOk layOld = true := by
  have h : layOld.table.length = 256 * layOld.members := by
    show ((List.replicate 256 (List.range 10)).flatten).length = 256 * 10
    rw [List.length_flatten, List.map_replicate, List.sum_replicate]; rfl
  have a : layOld.table.all (fun s => decide (s < 48) && layOld.has s) = true := by
    rw [List.all_eq_true]; intro x hx
    obtain ⟨l, hl, hx⟩ := List.mem_flatten.1 hx
    rw [(List.mem_replicate.1 hl).2] at hx
    have : ∀ y ∈ List.range 10, (decide (y < 48) && layOld.has y) = true := by decide
    exact this x hx
  simp only [tableOk, layOld_rows, h, a, List.all_replicate, List.filter_replicate]
  decide +kernel
theorem layOld_ok (d : Dev) (h : d.vault.layouts.all (fun m => m.layoutId != 1 && m.driveMask &&& layOld.driveMask == 0) = true) :
    layoutOk d 1 2608 (withTable layOld) (2 ^ 40) = true := by
  have w : withTable layOld = layOld := if_neg (by rintro ⟨-, h, -⟩; exact absurd h (by decide))
  have a : d.vault.layouts.all (fun m => m.layoutId != 1 && (m.driveMask &&& layOld.driveMask == 0 ||
      decide (LayoutEnd layOld ≤ m.baseLba) || decide (LayoutEnd m ≤ layOld.baseLba) ||
      (m.kind == 1 && layOld.kind == 0 && m.baseLba == layOld.baseLba && m.driveMask == layOld.driveMask))) = true := by
    rw [List.all_eq_true] at h ⊢
    intro m hm; have := h m hm; simp only [Bool.and_eq_true] at this ⊢; exact ⟨this.1, by rw [this.2]; simp only [Bool.true_or]⟩
  rw [w]; unfold layoutOk; rw [layOld_table, a]; decide +kernel
theorem wit_VolumesAndCatalogue_VolumesAndLayouts_load :
    (layOld.table.isEmpty = false ∧ layoutOk dev 1 2608 (withTable layOld) (2 ^ 40) = true ∧ dev.vault.layouts.length < 8) ∧
    (layoutOk eightDev 1 2608 (withTable layOld) (2 ^ 40) = true ∧ 8 ≤ eightDev.vault.layouts.length) :=
  ⟨⟨by decide +kernel, layOld_ok dev (by decide), by decide⟩, layOld_ok eightDev (by decide), by decide⟩
theorem wit_UnknownLayoutAndVolume : (Starts 0x11 [7] (hdr 0) dev ∧ dev.layout 1 = none) ∧ (Starts 0x12 [7] (hdr 0) dev ∧ dev.volume 1 = none) := by
  decide
theorem test_take_delete : (after (.takeDelete (hdr 0) 1 2 0) (takeDev .closed_)).cat.takes.all (·.state == .deleted) = true ∧
    answer 0 (after (.takeDelete (hdr 0) 1 2 0) (takeDev .open_)) = some (8, 0, 0) := by decide
theorem test_snap_volume : answer 0 (after (.snapVolume (hdr 0) 1) (takeDev .closed_)) = some (0, 1, 0) := by decide
theorem test_snap_release : answer 0 (after (.snapRelease (hdr 0) 7) snapDev) = some (0, 0, 0) ∧
    (after (.snapRelease (hdr 0) 7) snapRead).out = [] := by decide
theorem test_verify_seal : answer 0 (after (.verifySeal (hdr 0) 1 2 0) (takeDev .open_)) = some (8, 0, 0) := by decide
theorem wit_VolumesAndCatalogue_CatalogueOperations :
    (Starts 0x13 [7] (hdr 0) dev ∧ dev.take 1 2 = none) ∧
    (Starts 0x13 [7] (hdr 0) (takeDev .open_) ∧ (takeDev .open_).take 1 2 = some (takeIn .open_) ∧ (takeIn .open_).active = true) ∧
    (Starts 0x13 [7] (hdr 0) (takeDev .closed_) ∧ (takeDev .closed_).take 1 2 = some (takeIn .closed_) ∧ (takeIn .closed_).state ≠ .deleted ∧
      (takeIn .closed_).active = false ∧ (takeDev .closed_).readsTake 1 2 = false ∧ (takeDev .closed_).vault.mdcAgain = true) ∧
    (Starts 0x13 [7] (hdr 0) reelDev ∧ reelDev.take 1 2 = some { takeIn .open_ with reel := some reel0 } ∧
      (reel0.segs.find? (fun x => x.id == 9 && x.gone == 0)).isSome = false ∧
      (reel0.segs.find? (fun x => x.id == 2 && x.gone == 0)) = some { seg0 with id := 2, closed := false } ∧
      (reel0.segs.find? (fun x => x.id == 3 && x.gone == 0)) = some { seg0 with id := 3, reg := some 9 } ∧
      (reel0.segs.find? (fun x => x.id == 1 && x.gone == 0)) = some seg0 ∧ seg0.closed = true ∧ seg0.reg = none ∧ reelDev.readsTake 1 2 = false ∧
      Starts 0x16 [7] (hdr 0) reelDev ∧ verifySegment reelDev { takeIn .open_ with reel := some reel0 } seg0 ≠ 0) ∧
    (Starts 0x14 [7] (hdr 0) dev ∧ dev.volume 1 = none) ∧
    (Starts 0x14 [7] (hdr 0) (takeDev .closed_) ∧ ((takeDev .closed_).volume 1).isSome = true ∧ (takeDev .closed_).cat.snaps.length < 1024) ∧
    (Starts 0x15 [7] (hdr 0) dev ∧ dev.cat.snaps.any (·.id == 7) = false) ∧
    (Starts 0x15 [7] (hdr 0) snapDev ∧ snapDev.cat.snaps.any (·.id == 7) = true ∧ snapDev.readsSnap 7 = false ∧ snapDev.cat.snapWaits = []) ∧
    (Starts 0x15 [7] (hdr 0) snapRead ∧ snapRead.cat.snaps.any (·.id == 7) = true ∧ snapRead.readsSnap 7 = true ∧ snapRead.cat.snapWaits = []) ∧
    (Starts 0x16 [7] (hdr 0) dev ∧ dev.take 1 2 = none) ∧
    (Starts 0x16 [7] (hdr 0) (takeDev .closing) ∧ (takeIn .closing).state = .closing) ∧
    (Starts 0x16 [7] (hdr 0) (takeDev .closed_) ∧ (takeIn .closed_).state = .closed_) := by
  refine ⟨?_, ?_, ?_, ?_, ?_, ?_, ?_, ?_, ?_, ?_, ?_, ?_⟩ <;> decide
theorem wit_VolumesAndCatalogue_CatalogueOperations_full : Starts 0x14 [7] (hdr 0) { volDev with cat := { volDev.cat with snaps := List.replicate 1024 ⟨7, 1, []⟩ } } ∧
    1024 ≤ (List.replicate 1024 (Snap.mk 7 1 [])).length := ⟨by decide, by rw [List.length_replicate]⟩

/-- The head with group 2 in a state. -/
def linkIn (l : LinkSt) : Dev := { dev with sl := { dev.sl with groups := dev.sl.groups.put 2 { dev.sl.groups.a2 with link := l } } }
theorem test_group_ctl : ((after (.groupCtl (hdr 0) 2 1) dev).sl.groups.at 2).link = .training ∧
    ((after (.groupCtl (hdr 0) 2 0) (linkIn .granted)).sl.groups.at 2).link = .disabled := by decide
theorem test_port_role : (after (.portRole (hdr 0) 1) dev).sl.roleReq = some true ∧ answer 0 (after (.portRole (hdr 0) 0) dev) = some (2, 0, 0) := by
  decide
theorem wit_LinkOperations :
    (Starts 0x18 [7] (hdr 0) fresh ∧ 1 < 2 ∧ fresh.glb.locked = false) ∧
    (Starts 0x18 [7] (hdr 0) dev ∧ dev.glb.locked = true ∧ dev.groupEn 2 = true ∧ ((dev.sl.groups.at 2).link = .disabled ∨ (dev.sl.groups.at 2).link = .down)) ∧
    (Starts 0x18 [7] (hdr 0) (linkIn .granted) ∧ (linkIn .granted).groupEn 2 = true ∧ ((linkIn .granted).sl.groups.at 2).link ≠ .disabled ∧
      ((linkIn .granted).sl.groups.at 2).link ≠ .down) ∧
    (4 ≤ 4 ∧ dev.picksUp 0 = true ∧ (pickup (hdr 0) 0x18 dev).2 = true) ∧
    (1 < 2 ∧ Starts 0x19 [7] (hdr 0) fresh) ∧
    (Starts 0x19 [7] (hdr 0) dev ∧ dev.roleFree = true ∧ dev.sl.player = (0 == 1) ∧ dev.sl.roleReq = none) ∧
    (dev.sl.player ≠ (1 == 1)) := by
  refine ⟨?_, ?_, ?_, ?_, ?_, ?_, ?_⟩ <;> decide

/-! ## Firmware, attestation, power -/

/-- A firmware image of 4,160 bytes with no signature. -/
def image (ty : Nat) : Image := { bytes := [0x4F, 0x43, 0x46, 0x57, 1, 0, BitVec.ofNat 8 ty, 0, 0x40, 0x10] ++ zeros 4150 }
/-- A slot with an image in a state, its digest not computed. -/
def slotIn (n : Nat) : SlotEnt :=
  { state := n, trialBoots := 0, fwVersion := 3, svn := 2, length := 4160, digest := 0, image := some (image 1) }
/-- The head in a trial. -/
def trialDev : Dev := { dev with boot := { dev.boot with trial := true, slot := 0, slot0 := { SlotEnt.empty with state := 2, svn := 4 } } }
/-- The head with a staging under way. -/
def staging : Dev :=
  { dev with boot := { dev.boot with staging := some { h := hdr 0, slot := 1, length := 4160 } }
             hif := { dev.hif with chans := tput dev.hif.chans 0 { Chan.admin with descs := [ds 0x20 9 true] } } }
/-- The head that may activate slot 1. -/
def stagedDev : Dev :=
  { dev with tango := { dev.tango with owners := .all 3 }, boot := { dev.boot with slot1 := slotIn 1 } }
/-- The head in the pause of an activation of slot 1. -/
def activating : Dev :=
  { dev with
    hif := { dev.hif with chans := tput dev.hif.chans 0 { Chan.admin with descs := [ds 0x21 9 true] } }
    boot := { dev.boot with stage := 4, slot1 := slotIn 2,
                                     activating := some { h := hdr 0, slot := 1, paused := true, fallback := false } } }
theorem test_fw_stage_length : answer 0 (after (.fwStage (hdr 0) 0 4161 (some (image 1)) true) dev) = some (0x0D, 0, 0) ∧
    answer 0 (after (.fwStage (hdr 0) 0 4160 none true) dev) = some (8, 0, 0) := by decide
theorem test_staging_complete : answer 0 (after (.stagingComplete 1 (image 1)) staging) = some (0x0C, 0, 0) := by decide
theorem test_fw_activate : answer 0 (after (.fwActivate (hdr 0)) dev) = some (8, 0, 0) := by decide
theorem test_fw_running : (after .fwRunning activating).boot.slot = 1 ∧ (after .fwRunning activating).boot.trial = true := by decide
theorem test_activation_timeout : (after (.activationTimeout false tin) activating).boot.slot1.state = 5 := by decide
theorem test_fw_confirm : (after (.fwConfirm (hdr 0)) trialDev).boot.otpSvn = 4 ∧ answer 0 (after (.fwConfirm (hdr 0)) dev) = some (2, 0, 0) := by
  decide
theorem wit_FirmwareUpdate :
    (Starts 0x20 [7] (hdr 0) trialDev ∧ (trialDev.boot.trial || trialDev.boot.busy) = true) ∧
    (Starts 0x20 [7] (hdr 0) dev ∧ (dev.boot.trial || dev.boot.busy) = false ∧ 33554432 % 64 = 0 ∧ 33554433 % 64 ≠ 0 ∧ 4160 % 64 = 0 ∧
      dev.openCtx.isSome = true) ∧
    (Starts 0x20 [7] (hdr 0) noCtx ∧ (noCtx.boot.trial || noCtx.boot.busy) = false ∧ noCtx.openCtx = none) ∧
    (dev.working = true ∧ dev.boot.staging = none) ∧
    (staging.working = true ∧ staging.boot.staging = some { h := hdr 0, slot := 1, length := 4160 } ∧ staging.outstanding 0 9 = true ∧
      tget staging.hif.dying 0 = none ∧ staging.hif.notifies = []) ∧
    (Starts 0x21 [7] (hdr 0) dev ∧ dev.mayActivate = false) ∧
    (Starts 0x21 [7] (hdr 0) stagedDev ∧ stagedDev.mayActivate = true ∧ stagedDev.hif.notifies = []) ∧
    (stagedDev.boot.slotEnt (otherSlot stagedDev.boot.slot)).image = some (image 1) ∧
    (activating.live = true ∧ activating.boot.stage = 4 ∧
      activating.boot.activating = some { h := hdr 0, slot := 1, paused := true, fallback := false } ∧ activating.hif.notifies = [] ∧
      activating.outstanding 0 9 = true ∧ tget activating.hif.dying 0 = none ∧ activating.glb.fatal = false ∧
      activating.silentChan 0 = false) ∧
    (activating.boot.slotEnt 1).image = some (image 1) ∧
    (Starts 0x22 [7] (hdr 0) dev ∧ dev.boot.trial = false) ∧
    (Starts 0x22 [7] (hdr 0) trialDev ∧ trialDev.boot.trial = true ∧ trialDev.hif.notifies = []) := by
  refine ⟨?_, ?_, ?_, ?_, ?_, ?_, ?_, rfl, ?_, rfl, ?_, ?_⟩ <;> decide
theorem wit_FirmwareUpdate_image : 4160 = (image 1).length ∧ (image 1).imageType ≠ 2 ∧ (image 2).imageType = 2 ∧ 4160 = (image 2).length := by
  decide +kernel
/-- The head without an identity. -/
def noIdentity : Dev := { dev with boot := { dev.boot with idOk := false } }
theorem test_quote : answer 0 (after (.attestQuote (hdr 0) 5 4096 543) dev) = some (0x0D, 0, 0) := by decide
theorem wit_MeasurementAndQuote_Attestation : (Starts 0x23 [7] (hdr 0) noIdentity ∧ noIdentity.boot.idOk = false) ∧
    (Starts 0x23 [7] (hdr 0) dev ∧ dev.boot.idOk = true ∧ 543 < dev.quoteLen ∧ dev.quoteLen ≤ 544) := by decide

theorem test_handover : answer 0 (after (.handover (hdr 0) 8 0) paired) = some (0x0E, 0, 0) ∧
    answer 0 (after (.handover (hdr 0) 3 1) paired) = some (2, 0, 0) := by decide
theorem test_shutdown : (after (.shutdown (hdr 0)) dev).vault.dump = .armed ∧ Out.slIdle ∈ (after (.shutdown (hdr 0)) dev).out := by decide
/-- A heartbeat of a partner that runs. -/
def beatOf (x : Nat) : Beat :=
  { state := x, level := 1, owners := ⟨0, 0, 1, 1⟩, mirrorAcked := 0, ckptSeq := 0, commitGsn := .all 0, nextGsn := .all 0, stop := .all 0, time := 0 }
/-- The pair while it runs, with rings that span 250 ms. -/
def mayTake : Dev :=
  { paired with tango := { paired.tango with beat := some (beatOf 3), paired := 15 }
                lg := paired.lg.put 3 { paired.lg.a3 with expect := 1, standbyNs := 250000000 } }
/-- A head whose takeover waits for HANDOVER. -/
def heldBack : Dev := { dev with tango := { dev.tango with owners := ⟨0, 0, 1, 1⟩, takeoverHeld := true, state := 2 } }
theorem wit_HandoverAndShutdown :
    ((8 : BitVec 4) ≠ 0 ∧ Starts 0x1B [7] (hdr 0) paired ∧ (groupsIn 8).all paired.owns = false) ∧
    ((3 : BitVec 4) ≠ 0 ∧ (groupsIn 3).all paired.owns = true) ∧
    (paired.tango.takeoverHeld = false ∧ paired.handBusy 8 1 = true) ∧
    (Starts 0x1B [7] (hdr 0) mayTake ∧ (groupsIn 8).all mayTake.owns = false ∧ mayTake.tango.takeoverHeld = false ∧
      mayTake.handBusy 8 1 = false) ∧
    (Starts 0x1B [7] (hdr 0) mayTake ∧ (groupsIn 3).all mayTake.owns = true ∧ mayTake.handBusy 3 0 = false) ∧
    ((groupsIn 3).all paired.owns = true ∧ paired.handBusy 3 0 = true) ∧
    (Starts 0x1B [7] (hdr 0) heldBack ∧ (groupsIn 8).all heldBack.owns = false ∧ heldBack.tango.takeoverHeld = true ∧
      heldBack.tango.hand = none) ∧ (Starts 0x1C [7] (hdr 0) dev) ∧ Speaks mayTake := by
  refine ⟨?_, ?_, ?_, ?_, ?_, ?_, ?_, ?_, ?_⟩ <;> decide
theorem test_pwrfail : (after .pwrfailN dev).vault.dump = .armed ∧ (after .pwrfailN dev).glb.pwrHigh = false := by decide
theorem test_supply : (after (.supplyMonitorTrip 2) dev).glb.pwrfail = true ∧ (after (.supplyMonitorTrip 2) dev).glb.pwrHigh = true := by decide
theorem test_watchdog : (after (.watchdog 3 5) paired).glb.fatal = true ∧ ((after (.watchdog 3 5) paired).page 0).state = .assigned := by decide
theorem test_core_access : events (after (.coreAccess 3 5) dev) = [(2, 3)] := by decide
theorem wit_PowerAndDump_PowerAndCores : State.reset.dev.glb.porLow = true ∧ (dev.live = true ∧ dev.glb.bootHold = false) ∧ dev.coresRun = true ∧
    Dev.reset.coresRun = false ∧ (stopped.glb.porLow = false ∧ stopped.live = false) ∧
    ({ dev with glb := { dev.glb with bootHold := true } }).glb.bootHold = true := by decide

/-! ## Boot, resets, the dump, events and pins -/

/-- What the pins hold at POR_N. -/
def bootPins : BootIn := { headHigh := true, pwrHigh := true, perstHigh := true, trigHigh := true, card := none }
/-- A head at reset with a CONFIRMED image in slot 1. -/
def bootable : Dev := { Dev.reset with boot := { Boot.reset with slot1 := { slotIn 3 with digest := (image 1).digest } } }
/-- The same, held by PWRFAIL_N. -/
def bootHeld : Dev := { bootable with glb := { bootable.glb with porLow := false, bootHold := true } }
theorem test_por_assert : (after .porNAssert dev).glb.locked = false ∧ (after .porNAssert dev).mca.lines = [] := by decide
theorem test_por_deassert : (after (.porNDeassert { bootPins with pwrHigh := false }) bootable).glb.headB = true ∧
    (after (.porNDeassert bootPins) Dev.reset).boot.stage = 6 := by decide
theorem test_hold_end : (after (.bootPwrfailHoldEnd none) { bootHeld with boot := Boot.reset }).glb.pwrHigh = true := by decide
theorem wit_ResetAndBoot : dev.glb.porLow = false ∧ (Dev.reset.glb.porLow = true ∧ ({ bootPins with pwrHigh := false }).pwrHigh = false) ∧
    (bootable.glb.porLow = true ∧ bootPins.pwrHigh = true ∧ bootable.boot.inState 2 = none ∧ bootable.boot.inState 3 = some 1 ∧
      (bootable.boot.slotEnt 1).image = some (image 1) ∧ (image 1).imageType = 1) ∧ (image 1).digest = (bootable.boot.slotEnt 1).digest ∧
    (Dev.reset.boot.inState 2 = none ∧ Dev.reset.boot.inState 3 = none ∧ bootPins.card = none) ∧ dev.glb.bootHold = false ∧
    (bootHeld.live = true ∧ bootHeld.glb.bootHold = true ∧ bootHeld.boot.inState 2 = none ∧ bootHeld.boot.inState 3 = some 1) :=
  ⟨by decide, by decide, ⟨by decide, by decide, by decide, by decide, rfl, by decide⟩, rfl, by decide, by decide, by decide⟩
theorem test_perst : (after .perstN dev).hif.running = false ∧ (after .perstN dev).regs.hifCfg = 0x07001001 := by decide
theorem test_flr : (after .functionLevelReset dev).regs.adminCtl = 0x88 ∧ (after .functionLevelReset dev).regs.slCfg = dev.regs.slCfg := by decide
theorem test_perst_deassert : (after .perstNDeassert (after .perstN dev)).glb.perstLow = false := by decide
theorem wit_HostReset : dev.glb.porLow = false ∧ dev.glb.perstLow = false ∧
    (6 ≠ 0 ∧ tget dev.hif.chans 6 = some (chan 6) ∧ (chan 6).job = none ∧ (chan 6).descs = [] ∧ (chan 6).ctype = 6) ∧ (after .perstN dev).glb.porLow = false ∧
    (after .perstN dev).glb.perstLow = true := by decide

/-- A journal record. -/
def jrec : JRec := { source := 0, layout := 1, jseq := 1, epoch := 5, headB := false, subject := 3, body := .stripeRetire 1, units := 1 }
/-- The head with a dump armed, a live journal and three healthy drives. -/
def armed : Dev :=
  { dev with vault := { dev.vault with dump := .armed, journal := [jrec], drives := [(3, drv), (7, drv), (9, drv)] }, glb := { dev.glb with reduced := true } }
/-- The dump at a step. -/
def dumpAt (x : DumpSt) : Dev := { armed with vault := { armed.vault with dump := x } }
/-- The head in a shutdown, its headers being written. -/
def shutting : Dev := { after (.shutdown (hdr 0)) dev with vault := (dumpAt (.headers (3, 7))).vault }
theorem test_dump_freeze : (after .dumpFreeze { armed with vault := { armed.vault with journal := [] } }).glb.held = true := by decide
theorem test_dump_bodies : (after .dumpBodiesDone (dumpAt (.bodies (3, 7)))).vault.dump = .headers (3, 7) := by decide
theorem test_dump_complete : answer 0 (after .dumpComplete shutting) = some (0, 0, 0) := by decide
theorem wit_PowerAndDump_JournalDump : dev.glb.porLow = false ∧ dev.vault.dump ≠ .armed ∧
    (armed.vault.dump = .armed ∧ ({ armed with vault := { armed.vault with journal := [] } }).vault.journal = []) ∧
    ({ armed with vault := { armed.vault with drives := [] } }).dumpPair = none ∧ (armed.vault.journal ≠ [] ∧ armed.dumpPair = some (3, 7)) ∧ (dumpAt (.bodies (3, 7))).vault.dump = .bodies (3, 7) ∧
    ((dumpAt (.headers (3, 7))).vault.dump = .headers (3, 7) ∧ (dumpAt (.headers (3, 7))).glb.shut = none) ∧
    (shutting.glb.shut = some (hdr 0) ∧ shutting.outstanding 0 9 = true ∧ tget shutting.hif.dying 0 = none ∧ shutting.glb.fatal = false) := by
  refine ⟨?_, ?_, ?_, ?_, ?_, ?_, ?_, ?_⟩ <;> decide
/-- The head with a record to persist. -/
def recorded : Dev := logEvent 0x0402 3 [] dev
theorem test_nor : (after .norPersist recorded).evr.queue = [] ∧ (after .norPersist recorded).out.length = 2 := by decide
theorem test_time_mark : events (after .evrTimeMark dev) = [(0x0C01, noInstance)] := by decide
theorem test_eth_link : tgetD (after (.ethPortLinkChange 1 false true) { dev with regs := { dev.regs with ethUp := 3 } }).regs.ethDowns 0 1 = 1 := by
  decide
theorem test_i2c : (after (.i2cIndexWrite [7]) dev).boot.i2cIndex = 7 ∧
    (after (.i2cRead 3) { dev with boot := { dev.boot with i2cIndex := 254 } }).boot.i2cIndex = 1 := by decide
theorem test_trig_in : (after (.trigIn 5) (takeDev .open_)).cat.trigIns = 1 := by decide
theorem test_trig_out_end : (after .trigOutEnd { dev with glb := { dev.glb with trigOut := true } }).glb.trigOut = false := by decide
theorem wit_EventsAndPins : (dev.norOpen = true ∧ dev.evr.queue = []) ∧ (recorded.norOpen = true ∧ recorded.evr.queue.length = 1) ∧
    dev.live = true ∧ (dev.glb.porLow = false ∧ dev.boot.i2cIndex < 256) ∧
    (({ dev with regs := { dev.regs with ethUp := 3 } }).regs.ethUp.getLsbD 1 = true) ∧
    (dev.working = true ∧ dev.cat.takes.filter (fun t => t.state == .open_ && !t.replica) = []) ∧
    ((takeDev .open_).working = true ∧ (takeDev .open_).cat.takes.filter (fun t => t.state == .open_ && !t.replica) ≠ []) := by
  refine ⟨?_, ?_, ?_, ?_, ?_, ?_, ?_⟩ <;> decide
theorem test_audit : (after .auditTick dev).now = 1000000 ∧
    (after .auditTick { dev with lg := dev.lg.put 1 { dev.lg.a1 with received := 1 } }).glb.fatal = true := by decide
theorem wit_IdleAndAuditTick_AuditTick : stopped.live = false ∧ (dev.live = true ∧ dev.auditNow.clean = true) ∧
    ({ dev with lg := dev.lg.put 1 { dev.lg.a1 with received := 1 } }).auditNow.clean = false := by decide

/-! ## SiethLink -/

/-- A sealed packet of a defined type, for its own group, passes the checks of R70 on a group without a grant or for CAP. -/
theorem sealed_passes (d : Dev) (g : Fin 4) (p : Packet) (a : p.ptype.toNat ≤ 9) (b : p.group.toNat = g.val)
    (c : p.ptype = 1 ∨ ((d.sl.groups.at g).grant.map (fun r => r.streamId != p.streamId)).getD false = false) :
    d.checkPacket g (sealPacket p) = none := by
  unfold Dev.checkPacket
  rw [if_neg (fun h => h rfl), if_neg, if_neg (fun h => h rfl)]
  rintro (h | h | ⟨h1, h2⟩)
  · exact absurd h (by show ¬ 9 < p.ptype.toNat; omega)
  · exact h b
  · rcases c with c | c
    · exact h1 c
    · have : ((d.sl.groups.at g).grant.map (fun r => r.streamId != p.streamId)).getD false = true := h2
      rw [c] at this; cases this

/-- Group 2 with its state changed. -/
def grp (f : Group → Group) : Dev := onGroup 2 f dev
/-- Group 2 in a link state, at an attempt. -/
def linkAt (l : LinkSt) (n : Nat) : Dev := grp (fun x => { x with link := l, attempt := n })
/-- A training frame's status word for a lane of group 2, its countdown 9. -/
def statusOf (lane : Nat) : W32 := BitVec.ofNat 32 (lane + 2 * 2^24 + 9 * 2^12)
theorem test_training_frame : ((after (.trainingFrame 2 3 0x00010800 (statusOf 3) true) (linkAt .training 1)).sl.lane 32).post = -150 := by decide
theorem test_codeword_lock : ((after (.codewordLock 2) (linkAt .training 1)).sl.groups.at 2).link = .awaitCap := by decide
theorem test_link_up_timeout : ((after (.linkUpTimeout 2 3) (linkAt .training 1)).sl.groups.at 2).attempt = 2 := by decide
theorem test_cap_timeout : events (after (.capTimeout 2) (linkAt .awaitCap 4)) = [(0x0201, 2)] := by decide
/-- A head in player role. -/
def player (d : Dev) : Dev := { d with sl := { d.sl with player := true } }
theorem wit_TrainingAndRetraining_Training : (dev.live = true ∧ (player dev).live = true ∧ (player dev).hears 1 = false ∧ dev.hears 15 = true) ∧
    ((linkAt .training 1).live = true ∧ ((linkAt .training 1).sl.groups.at 2).link = .training ∧
      bits (statusOf 3).toNat 3 0 = 3 ∧ bits (statusOf 3).toNat 25 24 = 2 ∧ (linkAt .training 1).sl.txLanes.contains (bits (0x00010800#32).toNat 3 0) = true ∧
      ((linkAt .training 1).sl.lane 32).acted ≠ some (BitVec.ofNat 8 (bits (0x00010800#32).toNat 23 16)) ∧
      bits (0x00010400#32).toNat 11 10 = 1 ∧ bits (0x00010800#32).toNat 11 10 = 2 ∧ bits (0x00010C00#32).toNat 11 10 = 3) ∧
    (((linkAt .training 3).sl.groups.at 2).link = .training ∧ ((linkAt .training 3).sl.groups.at 2).attempt < 4 ∧
      bits (statusOf 3).toNat 3 0 ≠ 4 ∧ bits (0x01000003#32).toNat 25 24 ≠ 2) ∧
    (linkIsUp ((linkAt .granted 1).sl.groups.at 2).link = true ∧ bits (statusOf 0).toNat 3 0 = 0) ∧
    (((player (linkAt .training 1)).sl.groups.at 2).link = .training ∧ (player (linkAt .training 1)).sl.player = true) ∧
    (((linkAt .awaitCap 3).sl.groups.at 2).link = .awaitCap ∧ ((linkAt .awaitCap 3).sl.groups.at 2).attempt < 4 ∧
      (linkAt .awaitCap 3).sl.player = false) ∧
    (4 ≤ ((linkAt .awaitCap 4).sl.groups.at 2).attempt ∧ ((linkAt .training 4).sl.groups.at 2).link = .training) ∧
    ((dev.sl.groups.at 2).link ≠ .training ∧ (dev.sl.groups.at 2).link ≠ .awaitCap) := by
  refine ⟨?_, ?_, ?_, ?_, ?_, ?_, ?_, ?_⟩ <;> decide
/-- Group 2 granted, eight bad headers in a row, lane 3 with bad codewords. -/
def badRun (run win : Nat) : Dev :=
  let d := grp (fun x => { x with link := .granted, crcRun := 8, limit := 7 })
  { d with sl := { d.sl with lanes := tput d.sl.lanes 35 { d.sl.lane 35 with badRun := run, badWin := win } } }
theorem test_retrains : [Instr.fecRetrain 2 3, .lossOfSignal 2 3, .hdrCrcRetrain 2].all (fun c =>
    ((after c (badRun 3 3)).sl.groups.at 2).link == .training && ((after c (badRun 3 3)).sl.groups.at 2).limit == 7) = true := by decide
theorem test_no_retrain : ((after (.fecRetrain 2 3) (badRun 2 16)).sl.groups.at 2).link = .granted ∧
    ((after (.fecRetrain 2 3) (badRun 2 17)).sl.groups.at 2).link = .training := by decide
/-- Group 2 with a stop under way. -/
def stopping2 : Dev :=
  onGroup 2 (fun x => { x with stop := some { id := 5, reason := 1, portScope := false, byReq := true, exhaustion := false, done := false, hostAllows := false } })
    (badRun 3 3)
theorem wit_TrainingAndRetraining_Retraining : (badRun 3 3).live = true ∧ linkIsUp ((badRun 3 3).sl.groups.at 2).link = true ∧ (badRun 3 3).hears 3 = true ∧
    linkIsUp (dev.sl.groups.at 2).link = false ∧ (player dev).hears 1 = false ∧
    (((badRun 3 3).sl.groups.at 2).stop = none ∧ 8 ≤ ((badRun 3 3).sl.groups.at 2).crcRun ∧ 3 ≤ ((badRun 3 3).sl.lane 35).badRun) ∧
    (16 < ((badRun 0 17).sl.lane 35).badWin ∧ ((badRun 2 16).sl.lane 35).badRun < 3 ∧ ((badRun 2 16).sl.lane 35).badWin ≤ 16) ∧
    (dev.sl.groups.at 2).crcRun < 8 ∧ ((stopping2.sl.groups.at 2).stop).isSome = true := by decide
theorem rsMul_zero (a : Nat) : rsMul a 0 = 0 := by
  have : ∀ n a, rsMulBits n a 0 = 0 := by
    intro n; induction n with
    | zero => intro a; rfl
    | succ n ih => intro a; simp [rsMulBits, ih]
  exact this 10 a
theorem rsEval_zeros (x n : Nat) : rsEval x (List.replicate n 0) = 0 := by
  induction n with
  | zero => rfl
  | succ n ih =>
    show 0 ^^^ rsMul x (rsEval x (List.replicate n 0)) = 0
    rw [ih, rsMul_zero]; rfl
/-- The codeword of zeros has no symbol in error; what is no codeword's length does not decode. -/
theorem wit_TrainingAndRetraining_Retraining_codeword : rsDecode (List.replicate 544 0) = some (List.replicate 544 0, 0) ∧ rsDecode [] = none := by
  refine ⟨?_, rfl⟩
  have h : (rsSyndromes (List.replicate 544 0).reverse).all (· == 0) = true := by
    rw [List.reverse_replicate]
    simp only [rsSyndromes, rsEval_zeros]
    decide
  unfold rsDecode
  rw [if_neg (by rw [List.length_replicate]; simp)]
  simp only [h, if_true]

/-- A CAP body of a kind, for group 2. -/
def capBody (version kind status g : Nat) : List Byte :=
  leBytes 2 version ++ leBytes 1 kind ++ leBytes 1 0 ++ leBytes 1 g ++ leBytes 1 4 ++ leBytes 1 0 ++ leBytes 1 0 ++ leBytes 8 77 ++ leBytes 2 5 ++
    leBytes 2 status ++ leBytes 4 1000 ++ leBytes 4 1000 ++ leBytes 4 100 ++ leBytes 4 50 ++ leBytes 4 2 ++ leBytes 8 4096 ++ leBytes 2 1 ++
    zeros 2 ++ leBytes 2 1 ++ zeros 30
/-- A packet of a type on stream 5. -/
def packet (t : Byte) (g : Byte) (gsn word : W32) (body : List Byte) : Packet :=
  { pkt with ptype := t, group := g, streamId := 5, gsn := gsn, word := word, payload := body }
/-- An offer for group 2. -/
def offerPkt (version : Nat) : Packet := sealPacket (packet 1 2 0 0 (capBody version 0 0 2))
/-- A grant of stream 5. -/
def grantOf5 : Grant :=
  { streamId := 5, groupsMask := 4, port := 0, deviceId := 0, rate := 1000, maxFrame := 1000, nRo := 2, bRo := 1000, formats := [1] }
/-- Group 2 granted, its limit 32 slots beyond what it has told, its ledger at gsn 100. -/
def granted : Dev :=
  let d := grp (fun x => { x with link := .granted, grant := some grantOf5, limit := 132, creditSent := 100 })
  { d with lg := d.lg.put 2 { d.lg.a2 with expect := 100, commit := 99, credited := true } }
theorem test_credit : [Instr.creditKeepalive 2, .creditThreshold 2, .creditDelay 2].all (fun c =>
    ((after c granted).sl.groups.at 2).creditSent == 132) = true := by decide
theorem wit_GrantAndCredit :
    ((linkAt .awaitCap 1).live = true ∧ (linkAt .awaitCap 1).sl.player = false ∧ linkIsUp ((linkAt .awaitCap 1).sl.groups.at 2).link = true) ∧
    ((offerPkt 0x100).ptype = 1 ∧ (linkAt .awaitCap 1).checkPacket 2 (offerPkt 0x100) = none ∧ (readCap (offerPkt 0x100).payload).kind = 0 ∧
      (linkAt .awaitCap 1).grantStatus 2 (readCap (offerPkt 0x100).payload) = 0 ∧
      ((linkAt .awaitCap 1).lg.at 2).credited = false) ∧
    ((linkAt .awaitCap 1).checkPacket 2 (offerPkt 0x200) = none ∧ (readCap (offerPkt 0x200).payload).kind = 0 ∧
      (linkAt .awaitCap 1).grantStatus 2 (readCap (offerPkt 0x200).payload) ≠ 0) ∧
    (granted.live = true ∧ granted.sl.player = false ∧ (granted.sl.groups.at 2).link = .granted ∧ (granted.sl.groups.at 2).grant = some grantOf5 ∧
      32 ≤ sdiff (granted.sl.groups.at 2).creditSent (granted.sl.groups.at 2).limit ∧
      (granted.sl.groups.at 2).creditSent ≠ (granted.sl.groups.at 2).limit) ∧ (dev.sl.groups.at 2).link ≠ .granted :=
  ⟨by decide, ⟨rfl, sealed_passes _ _ _ (by decide) (by decide) (.inl rfl), by decide, by decide, by decide⟩,
    ⟨sealed_passes _ _ _ (by decide) (by decide) (.inl rfl), by decide, by decide⟩, by decide, by decide⟩

/-- Frame data on stream 5. -/
def dataPkt (gsn : W32) : Packet := sealPacket (packet 3 2 gsn 0 [1, 2, 3])
/-- The same with the partner owning every group. -/
def standby (d : Dev) : Dev := { d with tango := { d.tango with owners := .all 1 } }
theorem wit_PacketReception : granted.live = true ∧ linkIsUp (dev.sl.groups.at 2).link = false ∧ linkIsUp (granted.sl.groups.at 2).link = true ∧
    (granted.sl.player = false ∧ (granted.sl.groups.at 2).link = .granted ∧ (granted.sl.groups.at 2).grant ≠ none) ∧
    (granted.checkPacket 2 (dataPkt 99) = none ∧ slotBearing (dataPkt 99).ptype = true ∧
      precedes (dataPkt 99).gsn (granted.lg.at 2).expect = true) ∧
    ((standby granted).checkPacket 2 (dataPkt 100) = none ∧ (dataPkt 100).gsn = ((standby granted).lg.at 2).expect ∧
      precedes ((standby granted).lastGranted 2) (dataPkt 100).gsn = false ∧ (standby granted).owns 2 = false ∧
      ((standby granted).lg.at 2).landing = []) ∧
    (precedes ((onGroup 2 (fun x => { x with limit := 99 }) granted).lastGranted 2) (dataPkt 100).gsn = true) :=
  ⟨by decide, by decide, by decide, by decide, ⟨sealed_passes _ _ _ (by decide) (by decide) (.inr (by decide)), by decide, by decide⟩,
    ⟨sealed_passes _ _ _ (by decide) (by decide) (.inr (by decide)), by decide, by decide, by decide, by decide⟩, by decide⟩
theorem ne_succ {w : Nat} (x : BitVec (w + 1)) : x + 1 ≠ x := fun h => by
  have h := congrArg BitVec.toNat h
  have l := x.isLt
  have p : 1 < 2 ^ (w + 1) := Nat.one_lt_two_pow (Nat.succ_ne_zero w)
  have q : (1 : BitVec (w + 1)).toNat = 1 := by
    show 1 % 2 ^ (w + 1) = 1
    exact Nat.mod_eq_of_lt p
  rw [BitVec.toNat_add, q] at h
  by_cases e : x.toNat + 1 < 2 ^ (w + 1)
  · rw [Nat.mod_eq_of_lt e] at h; omega
  · have : x.toNat + 1 = 2 ^ (w + 1) := by omega
    rw [this, Nat.mod_self] at h; omega
/-- A packet with another header CRC than its own fails it. -/
theorem header_fails (p : Packet) : { p with hcrc := hcrcOf p + 1 }.hcrc ≠ hcrcOf { p with hcrc := hcrcOf p + 1 } := ne_succ (hcrcOf p)
/-- A sealed packet of a defined type, for its own group, with another packet CRC, fails the CRC check. -/
theorem spoiled_fails (d : Dev) (g : Fin 4) (p : Packet) (a : p.ptype.toNat ≤ 9) (b : p.group.toNat = g.val)
    (c : p.ptype = 1 ∨ ((d.sl.groups.at g).grant.map (fun r => r.streamId != p.streamId)).getD false = false) :
    d.checkPacket g { sealPacket p with crc := pcrcOf (sealPacket p) + 1 } = some .crc := by
  unfold Dev.checkPacket
  rw [if_neg (fun h => h rfl), if_neg, if_pos]
  · exact ne_succ _
  rintro (h | h | ⟨h1, h2⟩)
  · exact absurd h (by show ¬ 9 < p.ptype.toNat; omega)
  · exact h b
  · rcases c with c | c
    · exact h1 c
    · have : ((d.sl.groups.at g).grant.map (fun r => r.streamId != p.streamId)).getD false = true := h2
      rw [c] at this; cases this
theorem wit_PacketReception_bad : (∃ p : Packet, p.hcrc ≠ hcrcOf p) ∧ granted.live = true ∧ linkIsUp (granted.sl.groups.at 2).link = true ∧
    ∃ p : Packet, granted.checkPacket 2 p = some .crc :=
  ⟨⟨_, header_fails (packet 3 2 100 0 [])⟩, by decide, by decide,
    ⟨_, spoiled_fails granted 2 (packet 3 2 100 0 [1, 2, 3]) (by decide) (by decide) (.inr (by decide))⟩⟩

/-- A packet that overlaps a bad block; a landing buffer that holds a slot 8,192 before; a first slot in order on an owned group. -/
theorem wit_PacketReception_more :
    ((onGroup 2 (fun x => { x with rx := { count := 0, bad := [3] } }) granted).sl.groups.at 2).rx.spoilt = true ∧
    (∃ x ∈ [Slot.mk (dataPkt 8292) 1 0], x.pkt.gsn.toNat % 8192 = (dataPkt 100).gsn.toNat % 8192) ∧
    (onGroup 2 (fun x => { x with order := { x.order with gap := true } }) granted).owns 2 = true ∧
    ((onGroup 2 (fun x => { x with order := { x.order with gap := true } }) granted).sl.groups.at 2).order.ok true (dataPkt 100) = true ∧
    (dataPkt 100).timestamp.ult (granted.sl.groups.at 2).lastTs = false := by decide
theorem wit_GrantAndCredit_stopped :
    ((onGroup 2 (fun x => { x with comeStopped := true }) (linkAt .awaitCap 1)).sl.groups.at 2).upStopped = true := by decide

/-- The head in player role, group 0 in a link state, its next gsn 10. -/
def playing (l : LinkSt) : Dev :=
  onGroup 0 (fun x => { x with link := l, grant := some grantOf5, playLimit := some 50, playNext := 10 }) { dev with sl := { dev.sl with player := true } }
theorem test_offer_repeat : (match (after (.capOfferRepeat 0) (playing .awaitCap)).out with
    | [.slTx 0 q _] => decide (q.ptype = 1 ∧ (readCap q.payload).kind = 0) | _ => false) = true := by decide
theorem wit_PlayerRole : ((playing .awaitCap).live = true ∧ (playing .awaitCap).sl.player = true ∧ ((playing .awaitCap).sl.groups.at 0).link = .awaitCap) ∧
    ((playing .granted).sl.groups.at 0).link ≠ .awaitCap ∧
    ((playing .awaitCap).playOn 0 = none ∧ ((playing .awaitCap).sl.groups.at 0).playStop = none ∧
      (playing .awaitCap).checkPacket 0 (sealPacket (packet 1 0 0 0 (capBody 0x100 1 0 0))) = none ∧
      linkIsUp ((playing .awaitCap).sl.groups.at 0).link = true ∧ (readCap (capBody 0x100 1 0 0)).kind = 1 ∧
      (readCap (capBody 0x100 1 0 0)).status = 0) ∧
    ((playing .granted).playOn 0 = none ∧ ((playing .granted).sl.groups.at 0).playStop = none ∧ ((playing .granted).sl.groups.at 0).link = .granted ∧
      (playing .granted).checkPacket 0 (sealPacket (packet 7 0 0 90 [])) = none ∧
      (playing .granted).checkPacket 0 (sealPacket (packet 8 0 0 33 [])) = none ∧ ((playing .granted).sl.groups.at 0).playDone = none) :=
  ⟨by decide, by decide, ⟨by decide, by decide, sealed_passes _ _ _ (by decide) (by decide) (.inl rfl), by decide, by decide, by decide⟩,
    ⟨by decide, by decide, by decide, sealed_passes _ _ _ (by decide) (by decide) (.inr (by decide)),
      sealed_passes _ _ _ (by decide) (by decide) (.inr (by decide)), by decide⟩⟩

/-- A frame record of 100 bytes on group 2. -/
def frameRec : FrameRec :=
  { frame := 7, group := 2, cls := 1, flags := 0, format := 1, firstGsn := 0, timestamp := 55, firstTile := 0, declared := 100, recorded := 100,
    width := 0, lines := 0, firstLine := 0, lineStep := 0, lineBytes := 0, closeCrc := 0, exposure := 0, dataPackets := 1, partnerStatus := 0,
    committed := 100, dnr := 0, lostOnLink := 0, overRun := 0, landingOverflow := 0, hbmUnc := 0, excess := 0, truncated := 0 }
/-- Its tile. -/
def frameEnt : Entry := { loc := 0, flags := 0, tileSeq := frameSeq 2 0, fp := 0, storedLen := 4096 }
/-- A closed take that holds the frame. -/
def playTake : Take :=
  { takeIn .closed_ with told := true, groups := 4, chan := none, parts := [{ Part.blank 0 4 true with frames := [frameRec], entries := [frameEnt] }] }
/-- The player with that take in its vault. -/
def playHead : Dev :=
  { playing .granted with vault := { dev.vault with layouts := [lay] }, cat := { dev.cat with volumes := [vol], takes := [playTake] } }
/-- PLAY of the take's group 2. -/
def play (flags : BitVec 3) (frames : Nat) (gsn : W32) (pace : Nat) : Instr := .play (hdr 8) 1 0 0 2 0 flags 2 pace 0 frames gsn 0 0
/-- A paced PLAY about to open its frame. -/
def pacedJob : PlayJob :=
  { h := hdr 8, snap := none, volume := 1, takeId := 2, part := 0, group := 0, renumber := false, paced := true, sendMeta := false, pace := 5, frames := [frameRec],
    entries := [frameEnt], page := none, hkey := none, frameBase := 0, timeBase := 0, tbase := 0, done := 0, opened := false, buf := [], pos := 0,
    crc := 0, mayStart := false, sentIn := 0, metas := [], metaLeft := [], first := 0, endAs := none }
/-- The player with that job. -/
def paced : Dev := setJob 8 (some (.play pacedJob)) playHead
theorem test_play : answer 8 (after (play 0 0 10 0) { playHead with sl := { playHead.sl with player := false } }) = some (8, 0, 0) ∧ answer 8 (after (play 0 0 10 0) playHead) = some (0, 0, 9) := by decide
theorem wit_PlayFrames :
    (Starts 0x60 [8] (hdr 8) playHead ∧ 2 < 4 ∧ ((0 : BitVec 48) = 0 ∧ (0 : W64) = 0) ∧ (2 : BitVec 3).getLsbD 1 = true ∧
      (2 : BitVec 3).getLsbD 2 = false ∧ playHead.volume 1 = some vol ∧ vol.encrypted = false ∧ (playHead.source 1 0 0 2 0).isSome = true) ∧
    (tget playHead.hif.chans 8 = some (chan 8) ∧ (chan 8).group = 0) ∧
    (playHead.sl.player = true ∧ (playHead.sl.groups.at 0).link = .granted ∧ playHead.decOn (chan 8).decPipe = true ∧ playHead.playOn 0 = none ∧
      (playHead.sl.groups.at 0).playStop = none ∧ (playHead.sl.groups.at 0).playLimit = some 50 ∧ precEq (50 : W32) 50 = true) ∧
    ((playHead.source 1 0 0 2 0).map (fun src => src.frames.filter (fun f => f.group == 2 && decide (0 ≤ f.frame.toNat))) = some [frameRec]) ∧
    (Starts 0x60 [8] (hdr 8) { playHead with sl := { playHead.sl with player := false } }) ∧
    (dev.live = true ∧ dev.job 8 = none) ∧
    (paced.live = true ∧ paced.job 8 = some (.play pacedJob) ∧ (paced.playOn 0).map (·.1) = some 8 ∧ pacedJob.paced = true ∧
      pacedJob.opened = false ∧ pacedJob.metaLeft = [] ∧ (paced.sl.groups.at 0).link = .granted ∧ (paced.sl.groups.at 0).playStop = none ∧
      (paced.sl.groups.at 0).playLimit = some 50 ∧ precEq (paced.sl.groups.at 0).playNext 50 = true) := by
  refine ⟨?_, ?_, ?_, ?_, ?_, ?_, ?_⟩ <;> decide

/-- A stop of group 2 asked for and not answered. -/
def stopOpen : StopSt :=
  { id := 1, reason := 0, portScope := true, byReq := true, exhaustion := false, done := false, hostAllows := false }
/-- Group 2 granted without a ledger, and a stop of it. -/
def stopDev (x : Option StopSt) : Dev := grp (fun y => { y with link := .granted, grant := some grantOf5, stop := x })
/-- The port asked to change its role. -/
def roleDev : Dev := { dev with sl := { dev.sl with roleReq := some true } }
theorem test_stop : (match ((after (.stop (hdr 1) 4) (stopDev none)).sl.groups.at 2).stop with
    | some x => x.byReq && !x.done && x.id != 0 | none => false) = true ∧ answer 1 (after (.stop (hdr 1) 0) (stopDev none)) = some (0, 0, 0) := by decide
theorem test_resume : answer 1 (after (.resume (hdr 1) 15) (stopDev none)) = some (2, 0, 0) := by decide
theorem test_stop_repeat : (after (.stopReqRepeat 2) (stopDev (some stopOpen))).out.length = 1 := by decide
theorem test_stop_timeout : ((after (.stopTimeout 2) (stopDev (some stopOpen))).sl.groups.at 2).link = .training := by decide
theorem test_role_change : (after .roleChangeApply roleDev).sl.player = true := by decide
theorem wit_StopsAndRole :
    (Starts 0x44 [1] (hdr 1) (stopDev none) ∧ (4 : BitVec 4) = 1#4 <<< 2 ∧ ((stopDev none).sl.groups.at 2).grant = some grantOf5 ∧
      ((stopDev none).sl.groups.at 2).stop = none) ∧
    (Starts 0x43 [1] (hdr 1) (stopDev none) ∧ ∀ g : Fin 4, (15 : BitVec 4).getLsbD g.val = true → ((stopDev none).sl.groups.at g).stop = none) ∧
    (Starts 0x43 [1] (hdr 1) (stopDev (some stopOpen)) ∧ (4 : BitVec 4).getLsbD 2 = true ∧ ((stopDev (some stopOpen)).sl.groups.at 2).stop ≠ none) ∧
    ((stopDev (some stopOpen)).live = true ∧ (stopDev (some stopOpen)).stopping 2 = some stopOpen ∧ (stopDev none).stopping 2 = none) ∧
    ((stopDev none).checkPacket 2 (sealPacket (packet 9 2 0 0 [1])) = none ∧ ((stopDev none).lg.at 2).credited = false ∧
      (stopDev none).sl.player = false ∧ ((stopDev none).sl.groups.at 2).link = .granted) ∧
    ((standby (stopDev (some stopOpen))).checkPacket 2 (sealPacket (packet 9 2 0 1 [])) = none ∧
      ((standby (stopDev (some stopOpen))).sl.groups.at 2).stop = some stopOpen ∧ stopOpen.byReq = true ∧ stopOpen.done = false ∧
      (packet 9 2 0 1 []).word = stopOpen.id ∧ (standby (stopDev (some stopOpen))).owns 2 = false ∧
      (standby (stopDev (some stopOpen))).sl.stopWaits = []) ∧
    (dev.live = true ∧ dev.sl.roleReq = none) ∧
    (roleDev.live = true ∧ roleDev.sl.roleReq = some true ∧ roleDev.roleFree = true ∧
      ∀ h, roleDev.groupEn h = true → (roleDev.sl.groups.at h).stop = none ∨ roleDev.owns h = false) ∧
    (onGroup 1 (fun x => { x with link := .granted }) roleDev).roleFree = false :=
  ⟨by decide, by decide, by decide, by decide, ⟨sealed_passes _ _ _ (by decide) (by decide) (.inr (by decide)), by decide, by decide, by decide⟩,
    ⟨sealed_passes _ _ _ (by decide) (by decide) (.inr (by decide)), by decide, by decide, by decide, by decide, by decide, by decide⟩,
    by decide, by decide, by decide⟩

/-- A landed slot. -/
def slot (gsn : W32) : Slot := ⟨{ packet 3 0 gsn 0 [] with frame := 0 }, 1, 0⟩
/-- Group 0 with two landed slots. -/
def landedDev (d : Dev) : Dev :=
  onLedger 0 (fun l => { l with landing := [slot 5, slot 6], expect := 7, ringPos := 5, commit := 4, received := 2, resident := 2 }) d
/-- Group 0 with a batch of lost slots, asked for `n` times. -/
def healing (d : Dev) (n : Nat) : Dev := onLedger 0 (fun l => { l with heals := [⟨5, 3, n, 0⟩], expect := 7, ringPos := 5, commit := 4 }) d
/-- The pair with group 0 paired. -/
def covered : Dev := { paired with tango := { paired.tango with paired := 1 } }
/-- A head that keeps no standby rings. -/
def barred : Dev := { standby dev with tango := { (standby dev).tango with barred := true } }
theorem test_mover : ((after (.moverCopy 0) (landedDev (standby dev))).lg.at 0).ring = [slot 5] ∧
    ((after (.moverCopy 0) (landedDev barred)).lg.at 0).released = 1 := by decide
theorem test_heal_repeat : ((after (.healRepeat 0) (healing covered 1)).lg.at 0).heals = [⟨5, 1, 2, 0⟩] := by decide
theorem test_heal_deadline : tgetD ((after (.healDeadline 0) (healing (standby dev) 3)).lg.at 0).drops 0 2 = 1 := by decide
theorem wit_MoverAndHeal :
    ((landedDev (standby dev)).live = true ∧ (landedDev (standby dev)).owns 0 = false ∧
      ((landedDev (standby dev)).lg.at 0).landing = slot 5 :: [slot 6] ∧ (landedDev (standby dev)).tango.barred = false ∧
      ((landedDev (standby dev)).lg.at 0).ring.length < 12259615) ∧
    ((landedDev barred).live = true ∧ (landedDev barred).tango.barred = true ∧ (slot 5).state ≠ 0) ∧
    ((standby dev).owns 0 = false ∧ ((standby dev).lg.at 0).landing = [] ∧ ((standby dev).lg.at 0).heals = []) ∧
    ((healing covered 2).live = true ∧ (healing covered 2).owns 0 = true ∧ (healing covered 2).cover 0 = true ∧
      ((healing covered 2).lg.at 0).heals = [⟨5, 3, 2, 0⟩] ∧ 2 < 3 ∧ ((healing covered 3).lg.at 0).heals = [⟨5, 3, 3, 0⟩]) ∧
    ((healing (standby dev) 3).owns 0 = false ∧ ((healing (standby dev) 3).lg.at 0).ring.length < 12259615) := by
  refine ⟨?_, ?_, ?_, ?_, ?_⟩ <;> decide
/-- The player that has answered a STOP_REQ of identifier 33. -/
def stopAnswered : Dev := onGroup 0 (fun x => { x with playStop := some 33, playDone := some (packet 9 0 10 33 []) }) (playing .granted)
theorem wit_PlayerRole_more : (dev.live = true ∧ dev.sl.player = false) ∧ (readCap (capBody 0x100 1 3 0)).status ≠ 0 ∧
    ((stopAnswered.sl.groups.at 0).playDone.isSome = true ∧ (stopAnswered.sl.groups.at 0).playStop = some (packet 8 0 0 33 []).word ∧
      (stopAnswered.sl.groups.at 0).link = .granted ∧ (stopAnswered.sl.groups.at 0).rx.spoilt = false) ∧
    fieldAt [1#8] 0 1 % 2 = 1 ∧ fieldAt ([] : List Byte) 0 1 % 2 = 0 := by decide
theorem wit_StopsAndRole_more : (player (stopDev none)).sl.player = true ∧
    (precedes (granted.lg.at 2).expect (101 : W32) = true ∧ (granted.lg.at 2).credited = true ∧
      precedes (granted.lastGranted 2 + 1) (101 : W32) = false) ∧
    ((stopDev (some { stopOpen with done := true })).sl.groups.at 2).stop.all (fun x => x.done) = true ∧
    (onGroup 1 (fun x => { x with link := .training }) roleDev).groupEn 1 = true ∧
    ({ roleDev with regs := { roleDev.regs with slCfg := 0x12 } }).groupEn 1 = false := by decide
theorem wit_MoverAndHeal_more : ((landedDev (standby dev)).keepsRing 0 = true ∧ ((landedDev (standby dev)).lg.at 0).ring = []) ∧
    ((landedDev dev).owns 0 = true ∧ ((landedDev dev).lg.at 0).landing = slot 5 :: [slot 6]) ∧
    ((healing covered 2).owns 0 = true ∧ ((healing covered 2).lg.at 0).oldestHeal = some 0 ∧ (⟨5, 3, 2, 0⟩ : Heal).found = 0) := by decide

/-! ## The vault -/

/-- The head with twenty drives, one layout, one volume and one claimed period. -/
def vlt : Dev := { dev with
  vault := { dev.vault with layouts := [{ lay with drives := 20, driveMask := 0xFFFFF, spares := 10 }], drives := (List.range 20).map (fun s => (s, drv)), claims := [⟨1, 0, false, true, 0⟩], vaultId := 5 }
  cat := { dev.cat with volumes := [vol] }
  hif := { dev.hif with chans := dev.hif.chans.map (fun c => (c.1, { c.2 with layout := 1 })) } }
/-- The layout of twenty drives. -/
def lay20 : LayoutRec := { lay with drives := 20, driveMask := 0xFFFFF, spares := 10 }
/-- A take in a state, with its part of group 0. -/
def tk (s : TakeSt) : Take := { takeIn s with openGsn := [(0, 0)] }
/-- A stripe buffer of take 2. -/
def sbuf : StripeBuf := { StripeBuf.fresh 1 0 1 2 0 0 0 (0, 0) 5 with slots := 1 }
/-- A finished tile of four bytes of take 2. -/
def rawT : RawTile :=
  { bytes := [1, 2, 3, 4], frame := none, frameOpen := false, offset := 0, index := 0, first := true, last := true, lossZero := false,
    slots := 2, good := 4, lastGsn := 7, takeId := 2, volume := 1 }
/-- Pipe 0 with that tile ready, LZB off, the dedup key of its volume in slot 0. -/
def enc : Dev :=
  { vlt with
    ciph := { vlt.ciph with hkeys := [(0, ⟨0, [1, 2, 3]⟩)] }
    cat := { vlt.cat with takes := [tk .open_], volumes := [{ vol with dedup := true, dkcv := dkcvOf [1, 2, 3] }] }
    pipes := vlt.pipes.put 0 { vlt.pipes.a0 with ready := [rawT], stripe := some sbuf }
    regs := { vlt.regs with pipeCfg := Four.all (vlt.regs.pipeCfg.a0 &&& 0xFFFFFFF7) } }
/-- The same with a hot index that holds the tile. -/
def encHit : Dev :=
  let fp := enc.takeFp (tk .open_) rawT.bytes
  { enc with
    regs := { enc.regs with pipeCfg := Four.all (enc.regs.pipeCfg.a0 ||| 0x10) }
    cat := { enc.cat with takes := [{ tk .open_ with dedup := true }], hot := [(hotBucket fp, [(0, { hotE with fp := fp, storedLen := 4096, loc := 64 })])] } }
/-- Pipe 0 with references pending. -/
def refs (n : Nat) : Dev :=
  { vlt with cat := { vlt.cat with takes := [tk .open_] }, pipes := vlt.pipes.put 0 { vlt.pipes.a0 with refPend := n, stripe := some sbuf } }
theorem test_tile_encode : ((after (.tileEncode 0) enc).lg.at 0).carried = 2 ∧ ((after (.tileEncode 0) enc).pipes.at 0).ready = [] := by decide +kernel
theorem test_reference_seal : ((after (.referenceSealCount 0) (refs 4096)).pipes.at 0).stripe = none ∧
    (after (.referenceSealTimer 0) (refs 1)).vault.sealedQ.length = 1 := by decide
theorem wit_EncodeAndSeal : enc.working = true ∧
    ((enc.pipes.at 0).ready = [rawT] ∧ enc.take 1 2 = some (tk .open_) ∧ (enc.pipes.at 0).encoding = true ∧ enc.looksUp 0 (tk .open_) rawT = false ∧
      (enc.pipes.at 0).stripe = some sbuf ∧ enc.layout sbuf.layout = some lay20 ∧ enc.tango.hand = none ∧ (enc.lg.at 0).ring = [] ∧
      ∀ x ∈ enc.cat.takes, tget x.endAt 0 = none) ∧
    (((refs 0).pipes.at 0).refPend < 1 ∧ ((refs 4095).pipes.at 0).refPend < 4096) ∧
    (1 ≤ ((refs 1).pipes.at 0).refPend ∧ 4096 ≤ ((refs 4096).pipes.at 0).refPend ∧ ((refs 1).pipes.at 0).stripe = some sbuf ∧
      (refs 1).take sbuf.volume sbuf.takeId = some (tk .open_) ∧ (tk .open_).pending = [] ∧ (refs 1).layout sbuf.layout = some lay20) :=
  ⟨by decide, by decide, by decide, by decide⟩
/-- The keys of the take are held and its tile fits; in another domain they are not; the tile hits in the hot index. -/
theorem wit_EncodeAndSeal_tile : enc.mayEncode (tk .open_) = true ∧
    sbuf.fits (makeTile 0 (tk .open_) (frameSeq 0 rawT.index) ((rawT.frame.map (·.format)).getD 0) (tileFlags rawT) (tileGeo rawT) rawT.bytes enc).1.stored.length
      (enc.metaRoom 0 (tk .open_) ((((tk .open_).partOf 0).map (·.idx)).getD 0) rawT.lastGsn) = true ∧
    (refs 0).mayEncode (tk .open_) = false ∧
    (encHit.hotHit 0 { tk .open_ with dedup := true } rawT).isSome = true ∧ encHit.mayEncode { tk .open_ with dedup := true } = true := by decide +kernel

/-- One sealed stripe waiting. -/
def sealedOne : Dev := { vlt with vault := { vlt.vault with sealedQ := [sbuf] } }
/-- One open stripe, with the members of a mask done. -/
def opened (m : Nat) : Dev :=
  { vlt with vault := { vlt.vault with opened := [{ jseq := 1, order := 1, buf := sbuf, remapMask := 0, done := BitVec.ofNat 18 m, acked := true, waitHand := false, again := false, state := none }], jseq := 2 },
             cat := { vlt.cat with takes := [tk .open_] } }
/-- Its entry. -/
def entryOf (m : Nat) : OpenEnt := { jseq := 1, order := 1, buf := sbuf, remapMask := 0, done := BitVec.ofNat 18 m, acked := true, waitHand := false, again := false, state := none }
theorem test_stripe_issue : (after .stripeIssue sealedOne).vault.opened.map (·.jseq) = [1] ∧ (after .stripeIssue sealedOne).vault.sealedQ = [] := by decide
theorem test_strip_write_complete : (after (.stripWriteComplete 1 17) (opened 0x1FFFF)).vault.opened = [] := by decide
theorem wit_StripeWrites : (vlt.live = true ∧ vlt.vault.sealedQ = []) ∧
    (sealedOne.live = true ∧ sealedOne.vault.sealedQ = [sbuf] ∧ sealedOne.layout sbuf.layout = some lay20 ∧ sealedOne.mayIssue lay20 sbuf = true ∧
      sealedOne.lostMembers lay20 sbuf.stripe = []) ∧
    (vlt.openEnt 1 = none ∧ vlt.vault.lagW = []) ∧
    ((opened 0).live = true ∧ (opened 0).vault.opened = [entryOf 0] ∧ (entryOf 0).jseq = 1 ∧ (entryOf 0).done.getLsbD 17 = false ∧
      (opened 0).vault.lagW = [] ∧ (opened 0).vault.mdc = none ∧ (opened 0).repl = [] ∧ (opened 0).tango.hand = none ∧
      (∀ t ∈ (opened 0).cat.takes, t.state ≠ .closing ∧ t.reel = none) ∧
      (entryOf 0).done ||| maskOf [17] ≠ fullMask ((((opened 0).layout sbuf.layout).map (·.members)).getD 18)) ∧
    ((opened 0x1FFFF).vault.opened = [entryOf 0x1FFFF] ∧ (entryOf 0x1FFFF).done.getLsbD 17 = false ∧
      (entryOf 0x1FFFF).done ||| maskOf [17] = fullMask ((((opened 0x1FFFF).layout sbuf.layout).map (·.members)).getD 18)) :=
  ⟨by decide, by decide, by decide, by refine ⟨?_, ?_, ?_, ?_, ?_, ?_, ?_, ?_, ?_, ?_⟩ <;> decide, by decide⟩

/-- A write of drive 5 that has lagged. -/
def lagged : Dev := { vlt with vault := { vlt.vault with lagW := [(1, 3, 5)] } }
/-- A write held for drive 5, which is not registered. -/
def holding : Dev := onDrive 5 (fun x => { x with held := [(1, 2)], registered := false }) vlt
/-- Drive 5 not registered, one stripe open. -/
def unregistered : Dev := onDrive 5 (fun x => { x with registered := false }) (opened 0)
theorem test_strip_write_fail : ((after (.stripWriteFail 1 3 7) lagged).drive 5).state = .failed := by decide
theorem test_lag_fail_timer : events (after (.lagFailTimer 1 3) lagged) = [(0x0402, 5)] := by decide
theorem test_drive_link_loss : ((after (.driveLinkLoss 5) vlt).drive 5).state = .failed := by decide
theorem test_drive_critical_warning : ((after (.driveCriticalWarning 5) vlt).drive 5).state = .failed := by decide
theorem test_conflict_hold : ((after (.conflictHoldTimer 5) holding).drive 5).held = [] ∧ ((after (.reservationConflict 1 5) unregistered).drive 5).held = [(1, 5)] := by decide
theorem test_member_lag : ((after (.memberLag 1 5) (opened 0x3FFDF)).drive 5).state = .suspect := by decide
theorem wit_DriveFailures : (vlt.live = true ∧ (vlt.drive 5).state ≠ .absent ∧ (vlt.drive 5).state ≠ .failed ∧ vlt.vault.opened = [] ∧ vlt.boot.stage = 3) ∧
    (lagged.live = true ∧ lagged.vault.lagW = [(1, 3, 5)] ∧ (lagged.drive 5).state ≠ .failed ∧ (lagged.drive 5).state ≠ .absent ∧ lagged.vault.opened = []) ∧
    ((holding.drive 5).held ≠ [] ∧ (holding.drive 5).registered = false ∧ (holding.drive 5).state ≠ .failed ∧ (holding.drive 5).state ≠ .absent) ∧
    ((onDrive 5 (fun x => { x with state := .failed }) vlt).drive 5).state = .failed ∧ ((vlt.drive 5).held = [] ∧ vlt.vault.lagW = [] ∧ vlt.openEnt 1 = none) ∧
    ((opened 0x3FFDF).vault.opened = [entryOf 0x3FFDF] ∧ (opened 0x3FFDF).layout sbuf.layout = some lay20 ∧ (opened 0x3FFDF).memberSlot (entryOf 0x3FFDF) 5 = some 5 ∧
      (entryOf 0x3FFDF).done.getLsbD 5 = false ∧ (entryOf 0x3FFDF).done ||| maskOf [5] = fullMask lay20.members ∧
      (recentLags ((opened 0x3FFDF).drive 5) (opened 0x3FFDF).now).length < 2) ∧
    (unregistered.live = true ∧ unregistered.memberSlot (entryOf 0) 5 = some 5 ∧ (unregistered.drive 5).registered = false ∧ (unregistered.drive 5).held = []) :=
  ⟨by decide, by decide, by decide, by decide, by decide, by decide, by decide⟩

/-- One sealed stripe waiting while drive 4 has failed; a late write whose stripe has retired; a stripe that waits for a handover. -/
theorem wit_StripeWrites_more :
    (let d := onDrive 4 (fun x => { x with state := .failed }) sealedOne
     d.live = true ∧ d.vault.opened.find? (·.again) = none ∧ d.lostMembers lay20 sbuf.stripe = [4] ∧ d.mayIssue lay20 sbuf = true) ∧
    (lagged.openEnt 1 = none ∧ ∃ w ∈ lagged.vault.lagW, w.1 = 1 ∧ w.2.1 = 3) ∧
    ({ entryOf 0x1FFFF with waitHand := true }.waitHand = true ∧ { entryOf 0x1FFFF with again := true }.again = true) ∧
    ((opened 0x1FFFF).alone = true ∧ (opened 0x1FFFF).vault.live + 64 ≤ liveMax ∧ (entryOf 0x1FFFF).acked = true) := by decide

/-! ## Drives and maintenance -/

/-- What a drive that fits the table reports. -/
def good : DriveInfo :=
  { slot := 3, linked := true, rateGT := 64, lanes := 2, nsId := 1, lbaFormat := true, piType2 := true, mdts := 262144, queues := 4,
    durable := true, plpRate := true, nsSectors := 1000000, nvme := 0, sys := [] }
/-- Drive 3 in a state. -/
def three (x : DriveSt) (d : Dev) : Dev := onDrive 3 (fun y => { y with state := x }) d
/-- A sector with its guard and tags. -/
def sec (s k i : Nat) (b : List Byte) : SecRead := .multi { data := b, guard := crc64 b, appTag := 7, refTag := lay20.tagOf s k i }
/-- Stripe 0 as read: each member's sectors hold one byte, some members missing. -/
def stripe0 (bad : List Nat) (v : Nat → List Byte) : StripeIn :=
  { layout := 1, stripe := 0, members := (List.range 18).map (fun k => if bad.contains k then [] else (List.range 64).map (fun i => sec 0 k i (v k))) }
/-- The head with a maintenance rate. -/
def rate (n : W32) (d : Dev) : Dev := { d with regs := { d.regs with maintCfg := n } }
/-- One sector to write back. -/
def wb : WriteBack := ⟨true, 3, 77, 1, 2, [5]⟩
/-- The vault with it, one written stripe and scrub on. -/
def maint : Dev := rate 0x6401 { vlt with vault := { vlt.vault with inUse := [(1, 0)], writeBacks := [wb], scrubOn := true } }
/-- Drive 3 failed. -/
def broken : Dev := three .failed maint
/-- Drive 3 replaced, with chunks to copy back. -/
def replacing (l : List (Nat × Nat)) : Dev :=
  { three .replacing maint with vault := { (three .replacing maint).vault with remaps := [⟨1, 3, 0, 18, 0⟩], replaces := [(3, { h := some (hdr 5), done := 0, left := l })] } }
/-- The forerunner that a re-shape moves from. -/
def srcLay : LayoutRec := { lay20 with layoutId := 2, kind := 1, width := 8, periods := 10 }
/-- A re-shape of volume 1, along the moving boundary or side by side. -/
def rsh (m : Bool) : Reshape := Reshape.mk (hdr 5) 1 (if m then 2 else 1) (if m then 1 else 2) m 3 [] []
/-- A batch whose homes are to be written. -/
def bat : Batch := { data := [(7, [])], first := 0, rows := 1, homes := [], saved := [] }
/-- The boundary of layout 2. -/
def mov (b : Option Batch) (n : Nat) : Moving := { target := 1, boundary := 0, relocs := List.replicate n ⟨2, 3, 0, 18, 0⟩, batch := b }
/-- A descriptor of code `op` outstanding on channel 5. -/
def descd (op : Byte) (d : Dev) : Dev :=
  { d with hif := { d.hif with chans := d.hif.chans.map (fun c => if c.1 == 5 then (c.1, { c.2 with descs := [ds op 9 true] }) else c) } }
/-- A re-shape along the boundary under way. -/
def reshM (m : Moving) : Dev := descd 0x81 { maint with vault := { maint.vault with layouts := [lay20, srcLay], reshape := some (rsh true), moving := [(2, m)] } }
/-- One side by side. -/
def sideD (t : Take) : Dev :=
  descd 0x81 { withTake t maint with vault := { maint.vault with layouts := [lay20, { lay20 with layoutId := 2, baseLba := 5000000 }], reshape := some (rsh false) } }
/-- The drives that both layouts of a re-shape take in. -/
def rshSlots (d : Dev) (r : Reshape) : List Nat := (List.range 48).filter (fun x =>
  ((d.layout r.source).map (fun l => l.has x)).getD false || ((d.layout r.target).map (fun l => l.has x)).getD false)
theorem test_drive_admit : answer 5 (after (.driveAdmit (hdr 5) 3 { good with durable := false }) (three .absent vlt)) = some (0xC, 6, 0) := by decide
theorem test_drive_fail : answer 5 (after (.driveFail (hdr 5) 3) vlt) = some (0, 0, 0) ∧
    answer 5 (after (.driveFail (hdr 5) 3) (three .failed vlt)) = some (2, 0, 0) := by decide
theorem test_drive_replace : answer 5 (after (.driveReplace (hdr 5) 3 good) vlt) = some (2, 0, 0) := by decide
theorem test_drive_report :
    ((after (.driveAdminCommandComplete 3 (.report [resKey false 5] true)) (onDrive 3 (fun y => { y with registered := false }) vlt)).drive 3).registered = true := by decide
theorem test_drive_port_retrain : ((after (.drivePortRetrain 3 32 2) vlt).drive 3).retrains = 1 := by decide
theorem wit_DriveLife : vlt.maintSlot 5 3 = true ∧ (Starts 0x82 [5] (hdr 5) vlt ∧ Starts 0x83 [5] (hdr 5) vlt ∧ Starts 0x84 [5] (hdr 5) vlt ∧ vlt.hif.notifies = []) ∧
    (((three .failed vlt).drive 3).state = .failed ∧ (vlt.drive 3).state = .healthy ∧ ((three .failed vlt).drive 3).portOn = true) ∧
    (((three .absent vlt).drive 3).state = .absent ∧ vlt.linkOk { good with linked := false } = false ∧ vlt.linkOk good = true ∧
      failingRow vlt.vault.nsId { good with durable := false } = some 6 ∧ failingRow vlt.vault.nsId good = none) ∧
    (tget vlt.vault.replaces 3 = none ∧ (three .failed vlt).copyWork 3 = [] ∧ broken.copyWork 3 ≠ []) ∧
    (tget (replacing [(1, 0)]).vault.replaces 3 = some ⟨some (hdr 5), 0, [(1, 0)]⟩) ∧
    (vlt.working = true ∧ (vlt.drive 3).held = [] ∧ vlt.tango.waiting = false ∧ vlt.tango.session = false ∧ vlt.tango.stepped = false ∧
      [resKey false vlt.tango.epoch].any (keyOfHead vlt.glb.headB) = true) := by
  refine ⟨?_, ?_, ?_, ?_, ?_, ?_, ?_⟩ <;> decide
theorem test_write_back : (after (.writeBack 3 77 true) maint).out = [.nvmeWrite 3 3 77 1 1 2 [5]] ∧
    (after (.writeBack 3 77 true) maint).vcnt.repairs = 1 := by decide
theorem test_scrub_stripe : (after (.scrubStripe (stripe0 [2, 3, 4] (fun _ => []))) maint).vault.lost = [(1, 0, 0x1C)] := by decide +kernel
theorem test_copy_back : tget (after (.copyBackChunk 3 0 []) (replacing [(1, 0), (1, 3)])).vault.replaces 3 = some ⟨some (hdr 5), 1, [(1, 3)]⟩ := by decide +kernel
theorem test_reshape_batch : ((after (.reshapeBatch []) (reshM (mov (some bat) 0))).vault.reshape.map (·.moved)) = some 67 := by decide +kernel
theorem wit_MaintenanceWork : ((rate 0 vlt).working = true ∧ bits (rate 0 vlt).regs.maintCfg.toNat 15 0 = 0) ∧
    (maint.working = true ∧ maint.vault.writeBacks.find? (fun x => x.slot == wb.slot && x.lba == wb.lba) = some wb ∧
      (backlogRule maint).maintOpen [wb.slot] = true ∧ maint.gone wb.slot = false ∧ broken.gone wb.slot = true) ∧
    (maint.layout 1 = some lay20 ∧ (backlogRule maint).maintOpen (maint.stripeSlots lay20 0) = true ∧
      maint.regs.vltCfg.getLsbD 1 = true ∧ maint.vault.scrubOn = true ∧ maint.nextScrub lay20 = some 0 ∧ maint.rebuildDue = false ∧
      maint.copyDue = false ∧ maint.reshapeDue = false ∧ maint.erased lay20 0 lay20.width = false) ∧
    (broken.nextRebuild = some (1, 0) ∧ broken.lostMembers lay20 0 = [3] ∧ broken.remapTarget lay20 0 = some (18, 0) ∧ broken.vault.live + 64 ≤ liveMax) ∧
    ((replacing [(1, 0)]).copyTurn 3 [(1, 0)] (1, 0) = true ∧ (replacing [(1, 0)]).chunkMember lay20 3 0 = some (0, 3) ∧
      (replacing [(1, 0)]).rebuildDue = false ∧ (replacing [(1, 0)]).journalRoom 64 = true ∧
      (backlogRule (replacing [(1, 0)])).maintOpen (3 :: (replacing [(1, 0)]).stripeSlots lay20 0) = true ∧
      ((replacing [(1, 0)]).drive 3).state = .replacing) := by decide +kernel
theorem wit_MaintenanceWork_sectors :
    (let m := (stripe0 [2, 3, 4] (fun _ => [])).members
     lostIn 16 (maint.readStripe lay20 0 (maint.stripeTag lay20 0 m) m) ≠ []) ∧
    (let m := (stripe0 [] (fun _ => [])).members
     let x := maint.readStripe lay20 0 (maint.stripeTag lay20 0 m) m
     x.all (fun y => (wholeStrip y).isSome) = true ∧ scrubFinding 16 262144 (x.map (fun y => (wholeStrip y).getD [])) = .ok) ∧
    (let m := (stripe0 [] (fun k => if k = 16 then [1] else [0])).members
     let x := maint.readStripe lay20 0 (maint.stripeTag lay20 0 m) m
     x.all (fun y => (wholeStrip y).isSome) = true ∧ scrubFinding 16 262144 (x.map (fun y => (wholeStrip y).getD [])) = .badP) ∧
    (let m := (stripe0 [3] (fun _ => [])).members
     lostIn 16 (broken.readStripe lay20 0 (broken.stripeTag lay20 0 m) m) = [] ∧
     (memberData lay20 3 (broken.readStripe lay20 0 (broken.stripeTag lay20 0 m) m)).isSome = true) := by decide +kernel
theorem wit_MaintenanceWork_reshape :
    ((reshM (mov (some bat) 0)).vault.reshape = some (rsh true) ∧ (reshM (mov (some bat) 0)).outstanding 5 9 = true ∧
      (reshM (mov (some bat) 0)).rebuildDue = false ∧ (reshM (mov (some bat) 0)).copyDue = false ∧
      (backlogRule (reshM (mov (some bat) 0))).maintOpen (rshSlots (reshM (mov (some bat) 0)) (rsh true)) = true ∧
      tget (reshM (mov (some bat) 0)).vault.moving 2 = some (mov (some bat) 0) ∧ (mov (some bat) 0).boundary + 64 < 128 * srcLay.periods) ∧
    ((sideD (takeIn .closed_)).outstanding 5 9 = true ∧ (sideD (takeIn .closed_)).rebuildDue = false ∧ (sideD (takeIn .closed_)).copyDue = false ∧
      (sideD (takeIn .closed_)).reshapeTake (rsh false) = some (takeIn .closed_) ∧ uncopiedTiles (rsh false) (takeIn .closed_) = [] ∧
      (sideD (takeIn .closed_)).takeBusy (takeIn .closed_) = false) ∧
    (sideD { takeIn .closed_ with layout := 2 }).toSwitch (rsh false) = [] := by decide +kernel
theorem wit_MaintenanceWork_relocations : tget (reshM (mov none 4097)).vault.moving 2 = some (mov none 4097) ∧ (mov none 4097).batch = none ∧
    4096 < (mov none 4097).relocs.length := ⟨rfl, rfl, Nat.lt_of_lt_of_eq (by decide : 4096 < 4097) (List.length_replicate (n := 4097) (a := (⟨2, 3, 0, 18, 0⟩ : Remap))).symm⟩

/-- The vault in a scrub pass. -/
def scrubbing : Dev := { vlt with vault := { vlt.vault with scrubCount := 7, scrubOn := true } }
/-- With a second layout. -/
def twoLays : Dev := { vlt with vault := { vlt.vault with layouts := [lay20, { lay20 with layoutId := 2, baseLba := 5000000 }] } }
theorem test_scrub_ctl : answer 5 (after (.scrubCtl (hdr 5) 0) scrubbing) = some (0, 7, 0) := by decide
theorem test_reshape : answer 5 (after (.reshape (hdr 5) 9 1 0) vlt) = some (0x10, 0, 0) := by decide
theorem test_layout_scan : answer 5 (after (.layoutScan (hdr 5) []) maint) = some (0, 0, 0) := by decide +kernel
theorem test_metadata_commit : (after .metadataCommit { vlt with vault := { vlt.vault with layouts := [] } }).vault.mdcAgain = true := by decide
theorem wit_MaintDescriptors : (Starts 0x80 [5] (hdr 5) scrubbing ∧ scrubbing.vault.scrubJob = none ∧
      ({ scrubbing with vault := { scrubbing.vault with scrubJob := some (hdr 5) } } : Dev).vault.scrubJob ≠ none) ∧
    (Starts 0x81 [5] (hdr 5) twoLays ∧ twoLays.versionHeld = false ∧ twoLays.volume 9 = none ∧ twoLays.volume 1 = some vol ∧
      twoLays.layout 2 = some { lay20 with layoutId := 2, baseLba := 5000000 } ∧ twoLays.layout vol.layout = some lay20 ∧
      reshapeFits 0 lay20 { lay20 with layoutId := 2, baseLba := 5000000 } = true ∧ reshapeFits 0 lay20 lay20 = false ∧ twoLays.vault.reshape = none) ∧
    (Starts 0x85 [5] (hdr 5) vlt ∧ ({ vlt with vault := { vlt.vault with layouts := [] } } : Dev).maintLayout 5 = none ∧ vlt.maintLayout 5 = some lay20 ∧
      (∀ t ∈ vlt.cat.takes, t.layout ≠ lay20.layoutId ∨ t.active = false) ∧ vlt.vault.scan = none ∧
      (backlogRule maint).maintOpen ((List.range 48).filter lay20.has) = true ∧ (backlogRule (rate 0 vlt)).maintOpen ((List.range 48).filter lay20.has) = false) ∧
    (vlt.working = true ∧ vlt.vault.mdc = none ∧ ({ vlt with vault := { vlt.vault with layouts := [] } } : Dev).rootLayout = none ∧
      vlt.rootLayout = some lay20 ∧ (∀ t ∈ vlt.cat.takes, t.state ≠ .closing ∧ t.reel = none)) := by
  refine ⟨?_, ?_, ?_, ?_⟩ <;> decide +kernel
theorem wit_MaintDescriptors_commit : (allocStripe lay20 (formPages vlt)).2 = some 0 ∧
    (allocBuffers (allocStripe lay20 (formPages vlt)).1).2 ≠ none := by decide +kernel

/-! ## Takes -/

/-- The vault with the dedup key of its volume in slot 3. -/
def keyed : Dev := { vlt with
  cat := { vlt.cat with volumes := [{ vol with dkcv := dkcvOf [1] }] }
  ciph := { vlt.ciph with hkeys := [(3, { domain := 0, key := [1] })] } }
/-- A TAKE_OPEN on groups 0 and 1. -/
def openReq : OpenReq :=
  { volume := 1, groups := 3, reel := false, page := 255, hkey := 3, dedup := false, startFrame := none, openTime := 5, ringN := 0,
    segLimit := 0, preNs := 0, postNs := 0 }
/-- The head in a session whose partner owns groups 2 and 3, with the same key. -/
def keyedPair : Dev := { keyed with tango := { paired.tango with owners := ⟨0, 0, 1, 1⟩ }, ciph := { paired.ciph with hkeys := keyed.ciph.hkeys } }
/-- The grant of a stream on every group. -/
def grantAll : Grant := { streamId := 1, groupsMask := 1, port := 0, deviceId := 0, rate := 10, maxFrame := 100, nRo := 1, bRo := 1, formats := [] }
/-- A take of groups 0 and 1. -/
def take01 (s : TakeSt) : Take := { takeIn s with groups := 3, begun := 3, parts := [Part.blank 0 3 true] }
/-- The head with that take, every group granted. -/
def inTake (t : Take) : Dev :=
  { withTake t keyed with sl := { keyed.sl with groups := Four.all { keyed.sl.groups.a0 with link := .granted, grant := some grantAll } } }
/-- The successor of the take, from frame 9. -/
def nextTake : Take := { takeIn .open_ with id := 3, groups := 3, start := some 9, parts := [Part.blank 0 3 true] }
/-- A take and its successor. -/
def inTwo (t : Take) : Dev := withTake nextTake (inTake t)
theorem test_take_open : answer 1 (after (.takeOpen (hdr 1) { openReq with hkey := 4 }) keyed) = some (6, 0, 0) := by decide
theorem test_take_open_runs : answer 1 (after (.takeOpen (hdr 1) openReq) keyed) = some (0, 1, 1) := by decide +kernel
theorem test_take_close : answer 1 (after (.takeClose (hdr 1) 7 0 0 44) (inTake (take01 .open_))) = some (9, 0, 0) ∧
    answer 1 (after (.takeClose (hdr 1) 2 0 0 44) (inTake (take01 .closed_))) = some (2, 0, 0) := by decide
theorem test_take_close_stops : (after (.takeClose (hdr 1) 2 0 0 44) (inTake (take01 .open_))).cat.takes.map (·.state) = [.closing] := by decide
theorem test_trigger : answer 1 (after (.trigger (hdr 1) 2 0x33 55 0) (inTake (take01 .open_))) = some (0, 4, 0) := by decide
theorem wit_TakeLife_open :
    (Starts 0x40 [1] (hdr 1) keyed ∧ keyed.hif.notifies = [] ∧ keyed.openValid openReq = true ∧ keyed.openValid { openReq with groups := 0 } = false ∧
      (keyed.volume 1).isSome = true ∧ openReq.page = 255 ∧ (tget keyed.ciph.hkeys 3).any (fun k => k.domain != keyed.domain 1) = false ∧
      (keyed.cat.takes.filter (fun t => t.active && t.chan == some 1)).length < 2) ∧
    (let d := { keyed with cat := { keyed.cat with volumes := [{ vol with encrypted := true }] } }
     d.openValid { openReq with page := 50 } = true ∧ (d.page 50).state = .free) ∧
    (let d := withTake { take01 .open_ with chan := some 1 } (withTake { nextTake with chan := some 1 } keyed)
     2 ≤ (d.cat.takes.filter (fun t => t.active && t.chan == some 1)).length ∧ Starts 0x40 [1] (hdr 1) d) ∧
    (keyed.openCheck { openReq with hkey := 4 } (some 1) { vol with dkcv := dkcvOf [1] } = some 6 ∧ keyed.openValid { openReq with hkey := 4 } = true ∧
      tget keyed.ciph.hkeys 4 = none) ∧
    (keyed.groupsOf 3 keyed.self = 3 ∧ keyed.groupsOf 3 (1 - keyed.self) = 0 ∧ keyed.openCheck openReq (some 1) { vol with dkcv := dkcvOf [1] } = none) ∧
    (Starts 0x40 [1] (hdr 1) keyedPair ∧ keyedPair.openValid { openReq with groups := 6 } = true ∧ keyedPair.tango.session = true ∧
      keyedPair.groupsOf 6 (1 - keyedPair.self) = 4 ∧ keyedPair.groupsOf 6 keyedPair.self = 2 ∧
      keyedPair.openCheck { openReq with groups := 6 } (some 1) { vol with dkcv := dkcvOf [1] } = none) := by
  refine ⟨?_, ?_, ?_, ?_, ?_, ?_⟩ <;> decide +kernel
theorem wit_TakeLife_close :
    (Starts 0x41 [1] (hdr 1) (inTake (take01 .open_)) ∧ (inTake (take01 .open_)).chanTake 1 7 = none ∧ (inTake (take01 .closed_)).chanTake 1 2 = some (take01 .closed_) ∧
      (take01 .closed_).active = false ∧ (inTake { take01 .open_ with away := true }).chanTake 1 2 = some { take01 .open_ with away := true }) ∧
    ((inTake (take01 .open_)).chanTake 1 2 = some (take01 .open_) ∧ (inTake (take01 .open_)).take 1 2 = some (take01 .open_) ∧
      (take01 .open_).stage = 0 ∧ (take01 .open_).groups ≠ 0 ∧ (take01 .open_).ended = 0 ∧ (inTake (take01 .open_)).sl.player = false ∧
      (∀ g, (inTake (take01 .open_)).owns g = true) ∧
      ∀ g, (take01 .open_).hasGroup g = true → ((inTake (take01 .open_)).sl.groups.at g).grant ≠ none ∧ ((inTake (take01 .open_)).sl.groups.at g).stop = none) ∧
    ((inTwo (take01 .open_)).chanTake 1 3 = some nextTake ∧ nextTake.begun = 0 ∧ isSuccessor (take01 .open_) nextTake = true ∧
      (∀ g, (inTwo (take01 .open_)).owns g = true) ∧ (∀ g, ((inTwo (take01 .open_)).lg.at g).ring = []) ∧ (take01 .open_).endAt = []) ∧
    (Starts 0x42 [1] (hdr 1) (inTake (take01 .open_)) ∧ (inTake (take01 .open_)).hif.notifies = [] ∧
      (inTake (take01 .open_)).layoutOf (take01 .open_) = some lay20 ∧ (55 : W64) ≠ 0 ∧ (inTake (take01 .open_)).triggerOutcome (take01 .open_) (some 55) = 4) := by
  refine ⟨by decide, by refine ⟨?_, ?_, ?_, ?_, ?_, ?_, ?_, ?_⟩ <;> decide, by refine ⟨?_, ?_, ?_, ?_, ?_, ?_⟩ <;> decide, by decide⟩

/-- The open take among 1,024 snapshots. -/
def snapFull : Dev := { inTake (take01 .open_) with cat := { (inTake (take01 .open_)).cat with snaps := List.replicate 1024 ⟨1, 1, []⟩ } }
/-- A tile of four bytes of take 2, as stored. -/
def tile4 : List Byte := (makeTile 0 (tk .open_) (frameSeq 0 0) 0 (tileFlags rawT) (tileGeo rawT) rawT.bytes enc).1.stored
/-- Its entry. -/
def ent1 : Entry := { loc := 0, flags := 0, tileSeq := frameSeq 0 0, fp := 0, storedLen := tile4.length }
/-- An entry of a tile known to be lost. -/
def lostEnt : Entry := { loc := 0, flags := 2, tileSeq := 0, fp := 0, storedLen := 200 }
/-- A closed take with the entries. -/
def readable (l : List Entry) : Dev :=
  let d := inTake { take01 .closed_ with parts := [{ Part.blank 0 3 true with entries := l }] }
  { d with ciph := { d.ciph with hkeys := [(0, { domain := 0, key := [1, 2, 3] })] }, cat := { d.cat with volumes := [{ vol with dkcv := dkcvOf [1, 2, 3] }] } }
/-- READ of its entries from the first. -/
def readOf (v dest count : Nat) : Instr := .read (hdr 2) v 0 0 2 0 0 0 0 0 count 0 dest 0 0
/-- The decode pipes off. -/
def pipesOff : Dev := { readable [ent1] with regs := { (readable [ent1]).regs with pipeCfg := Four.all 0 } }
/-- The read under way. -/
def reading : Dev := after (readOf 1 64 1) (readable [ent1])
/-- The column of sectors that holds the tile. -/
def cols1 : List (List SecRead) := [.multi { data := tile4, guard := crc64 tile4, appTag := 1, refTag := lay20.tagOf 0 0 0 } :: List.replicate 17 .unreadable]
theorem test_snap_take : answer 1 (after (.snapTake (hdr 1) 2) (inTake (take01 .open_))) = some (0, 1, 0) ∧
    answer 1 (after (.snapTake (hdr 1) 3) (inTake (take01 .open_))) = some (9, 0, 0) := by decide +kernel
theorem test_read : answer 2 (after (readOf 9 64 1) (readable [ent1])) = some (0x10, 0, 0) ∧
    answer 2 (after (readOf 1 63 1) (readable [ent1])) = some (4, 0, 0) := by decide +kernel
set_option maxRecDepth 100000 in
theorem test_read_tile : answer 2 (after (.driveReadComplete 2 cols1) reading) = some (0, 4, 0) := by decide +kernel
theorem wit_SnapAndRead : (Starts 0x45 [1] (hdr 1) (inTake (take01 .open_)) ∧ (inTake (take01 .open_)).chanTake 1 3 = none ∧
      (inTake (take01 .open_)).chanTake 1 2 = some (take01 .open_) ∧ (inTake (take01 .closing)).chanTake 1 2 = some (take01 .closing) ∧
      (inTake (take01 .open_)).cat.snaps.length < 1024) ∧
    (Starts 0x45 [1] (hdr 1) snapFull ∧ 1024 ≤ snapFull.cat.snaps.length ∧ snapFull.chanTake 1 2 = some (take01 .open_)) ∧
    (Starts 0x50 [2] (hdr 2) (readable [ent1]) ∧ (readable [ent1]).volume 9 = none ∧ ((readable [ent1]).volume 1).isSome = true ∧
      (tget (readable [ent1]).hif.chans 2).isSome = true ∧ (63 % 64 ≠ 0) ∧ pipesOff.decOn 0 = false) ∧
    (((readable [ent1]).source 1 0 0 2 0).isSome = true ∧ (readable [ent1]).decOn 0 = true ∧
      (readable [ent1]).decryptPage { vol with dkcv := dkcvOf [1, 2, 3] } 0 = some none ∧ (poolAlloc 2 true (readable [ent1])).2 = some 0 ∧
      (readable [ent1]).batchTile 1 ent1 = none) ∧
    (∀ x, (readable [ent1]).source 1 0 0 2 0 = some x → readEntries x false 0 0 0 = [] ∧ readEntries x false 0 0 1 = [ent1]) ∧
    (∀ x, (readable [lostEnt]).jobSource 1 2 0 = some x → (readable [lostEnt]).knownLost x lostEnt = true) ∧
    ((readable [ent1]).working = true ∧ (tget (readable [ent1]).hif.chans 2).bind (·.rbuf) = none) := by
  refine ⟨by decide, by decide +kernel, by decide +kernel, by decide +kernel, ?_, ?_, by decide +kernel⟩
  · intro x hx; cases hx; decide +kernel
  · intro x hx; cases hx; decide +kernel
set_option maxRecDepth 100000 in
theorem wit_SnapAndRead_tile : reading.working = true ∧ (tget reading.hif.chans 2).bind (·.rbuf) = some 0 ∧ reading.hif.notifies = [] ∧
    (match reading.want 2, reading.job 2 with
      | some w, some (.read j) => decide (cols1.length = reading.columns w ∧ j.todo = [w.entry] ∧ (tileCame 2 w cols1 reading).2.status = 0 ∧
          j.first = 0 ∧ j.flags.getLsbD 4 = false)
      | _, _ => false) = true := by decide +kernel

/-! ## Replication -/

/-- Channels 3 and 4 share a replication pair in RTS, its pages ready. -/
def rep : Dev := { keyed with
  rdma := { keyed.rdma with qps := [(1, { qpRts with host := { qpHost with domain := 0, repl := true, txPage := 10, rxPage := 11 } })] }
  regs := { keyed.regs with rdmaCfg := 0xA03 }
  ciph := { keyed.ciph with pages := [(10, { Page.reset 10 with state := .ready }), (11, { Page.reset 11 with state := .ready })] } }
/-- The same before the keys. -/
def assigned : Dev := { rep with ciph := { rep.ciph with pages := [(10, { Page.reset 10 with state := .assigned }), (11, { Page.reset 11 with state := .assigned })] } }
/-- A session that is up. -/
def upRepl (src : Bool) : Repl := { Repl.fresh src with helloSent := true, up := true, level := 1, peer := some hello0 }
/-- A head with a session on a channel. -/
def onChan (c : Nat) (r : Repl) (d : Dev) : Dev := { d with repl := [(c, r)] }
/-- A session before its R_CONFIRM. -/
def awaiting (src : Bool) : Repl := { upRepl src with up := false }
/-- An OFFER of ten entries. -/
def offer : Offer :=
  { kind := 0, parts := 1, segId := 0, kcv := 0, dkcv := dkcvOf [1], first := 0, entries := 10, closed := true, serial := 1, volume := 1, takeId := 3,
    part := 0, level := 1 }
/-- An entry of a part. -/
def entN (n : Nat) : Entry := { loc := n * 64, flags := 0, tileSeq := BitVec.ofNat 64 n, fp := 0, storedLen := 200 }
/-- The head with a closed take of three entries. -/
def saved (d : Dev) : Dev := withTake { take01 .closed_ with parts := [{ Part.blank 0 3 true with entries := [entN 0, entN 1, entN 2] }] } d
/-- REPL_SEND of take 2. -/
def sendOf (v : Nat) : Instr := .replSend (hdr 3) v 0 0 2 0 false 0 0 1 4
/-- No pair at all. -/
def noPair : Dev := { rep with rdma := { rep.rdma with qps := [] } }
theorem test_r_confirm : (after (.rConfirm 4 true) (onChan 4 (awaiting false) rep)).repl.map (·.2.up) = [true] := by decide
theorem test_offer : (after (.offer 4 offer) (onChan 4 (upRepl false) rep)).repl.map (·.2.offer) = [some offer] := by decide +kernel
theorem test_accept_timeout : (after (.acceptTimeout 4) (onChan 4 { upRepl false with offer := some offer } rep)).out.contains (.replAccept 4 8 0) = true := by decide +kernel
theorem test_repl_send : answer 3 (after (sendOf 9) rep) = some (0x10, 0, 0) ∧ answer 3 (after (sendOf 1) (saved noPair)) = some (8, 0, 0) := by decide +kernel
theorem test_repl_accept : answer 4 (after (.replAccept (hdr 4) 1 2) noPair) = some (0xA, 0, 0) := by decide
theorem wit_ReplicationSessions :
    ((rep.replOn 3 = true ∧ (rep.replQp 3).isSome = true ∧ rep.ciph.ended = [] ∧ tget rep.repl 3 = none) ∧
      (rHelloFault 0 hello0 = none ∨ ∃ k, rHelloFault 0 hello0 = some k) ∧ (tget rep.hif.chans 3).isSome = true) ∧
    (let r : Repl := { Repl.fresh false with helloSent := true }
     let d := onChan 4 r assigned
     d.replOn 4 = true ∧ tget d.repl 4 = some r ∧ r.peer = none ∧ classS 10 = true ∧ classS 11 = true ∧
      (d.page 10).state = .assigned ∧ (d.page 11).state = .assigned ∧ (d.page 10).domain = d.domain 4 ∧ (d.page 11).domain = d.domain 4 ∧
      (d.page 10).erase = none ∧ (d.page 11).erase = none ∧ d.ciphOn = true ∧ d.ciph.jobs = [] ∧ d.ciph.lane0 = none) ∧
    (let d := onChan 4 (awaiting false) rep
     d.replOn 4 = true ∧ tget d.repl 4 = some (awaiting false) ∧ d.boot.idOk = true ∧ d.ciphOn = true ∧ (awaiting false).up = false ∧
      (awaiting false).peer ≠ none ∧ (awaiting false).helloSent = true ∧ (awaiting false).source = false ∧ (d.page 11).state = .ready ∧
      (assigned.page 11).state ≠ .ready) ∧
    ({ awaiting true with offer := some offer }.source = true ∧ (onChan 3 { awaiting true with offer := some offer } rep).replSpeaks 3 = true) ∧
    (let d := onChan 4 { upRepl false with offer := some offer } rep
     d.replUp 4 = true ∧ d.job 4 = none ∧ d.ciph.ended = [] ∧ d.isSource 4 = false ∧ d.replSpeaks 4 = true) ∧
    ((onChan 3 (upRepl true) rep).isSource 3 = true ∧ noPair.replOn 3 = false ∧ noPair.replUp 3 = false) ∧
    (Starts 0x70 [3] (hdr 3) rep ∧ rep.volume 9 = none ∧ Starts 0x70 [3] (hdr 3) (saved noPair) ∧ ((saved noPair).volume 1).isSome = true ∧
      (saved noPair).replQp 3 = none ∧ (tget (saved noPair).hif.chans 3).isSome = true) ∧
    (((saved rep).source 1 0 0 2 0).map (·.takeId) = some 2 ∧ ((saved rep).take 1 2).isSome = true ∧ (saved rep).decOn 0 = true ∧
      (saved rep).decryptPage { vol with dkcv := dkcvOf [1] } 0 = some none ∧ ((saved rep).replQp 3).isSome = true ∧ tget (saved rep).repl 3 = none) ∧
    (let d := saved (onChan 3 (upRepl true) rep)
     Starts 0x70 [3] (hdr 3) d ∧ tget d.repl 3 = some (upRepl true) ∧ (upRepl true).helloSent = true ∧ d.replSpeaks 3 = true ∧ d.decOn 0 = true) ∧
    (Starts 0x78 [4] (hdr 4) noPair ∧ noPair.replQp 4 = none ∧ Starts 0x78 [4] (hdr 4) (onChan 4 (upRepl false) rep) ∧
      ((onChan 4 (upRepl false) rep).replQp 4).isSome = true ∧ (upRepl false).offer = none) := by
  refine ⟨⟨by decide +kernel, by cases rHelloFault 0 hello0 <;> simp, by decide⟩, ?_, ?_, ?_, ?_, ?_, ?_, ?_, ?_, ?_⟩ <;> decide +kernel

/-- A REPL_SEND of three entries under way. -/
def sendJob : SendJob :=
  { h := hdr 3, snap := none, volume := 1, takeId := 2, part := 0, first := 0, stop := 3, batch := 2, lookup := false, closed := false,
    entries := [entN 0, entN 1, entN 2], next := 0, heldTo := 0, tiles := [], sent := 0, heldCnt := 0, committed := 0, closeSent := false,
    page := none, hkey := none }
/-- The head with a descriptor and its job on a channel. -/
def withJob (c : Nat) (op : Byte) (j : Job) (d : Dev) : Dev :=
  { d with hif := { d.hif with chans := d.hif.chans.map (fun x => if x.1 == c then (x.1, { x.2 with job := some j, descs := [ds op 9 true] }) else x) } }
/-- The source. -/
def source (j : SendJob) (r : Repl) : Dev := withJob 3 0x70 (.send j) (saved (onChan 3 r rep))
/-- Every entry sent and held. -/
def sentAll : SendJob := { sendJob with next := 3, heldTo := 3, sent := 5, heldCnt := 6 }
/-- The take whose one tile the source has read. -/
def tileJob : SendJob := { sendJob with stop := 1, next := 1, entries := [ent1], tiles := [(0, ent1)], hkey := some 0 }
/-- The source that waits for it. -/
def tileSource : Dev :=
  let d := withJob 3 0x70 (.send tileJob) (onChan 3 { upRepl true with offered := true } { readable [ent1] with
    rdma := rep.rdma, ciph := { (readable [ent1]).ciph with pages := rep.ciph.pages } })
  { d with hif := { d.hif with chans := d.hif.chans.map (fun x => if x.1 == 3 then (x.1, { x.2 with rbuf := some 0 }) else x) } }
theorem test_accept : Underway (.replBatch 3 1 false (batchOf sendJob.entries 1 2))
    (after (.accept 3 0 1) (source sendJob { upRepl true with offered := true })) := by unfold Underway; decide +kernel
theorem test_held : (after (.held 3 0 [true, false]) (source { sendJob with next := 2 } (upRepl true))).rcnt.held = 1 := by decide +kernel
theorem test_commit : answer 3 (after (.commit 3 3) (source sentAll (upRepl true))) = some (0, 5, 6) := by decide +kernel
theorem test_closed : answer 3 (after (.closed 3 3) (source { sentAll with closeSent := true } (upRepl true))) = some (0, 5, 6) := by decide +kernel
theorem test_error : answer 3 (after (.error 3 3 7) (source sentAll (upRepl true))) = some (7, 5, 6) := by decide +kernel
theorem wit_ReplicationSource :
    ((source sendJob (upRepl true)).replUp 3 = true ∧ (source sendJob (upRepl true)).job 3 = some (.send sendJob) ∧
      tget (source sendJob (upRepl true)).repl 3 = some (upRepl true) ∧ (source sendJob (upRepl true)).ciph.ended = [] ∧
      (upRepl true).offered = false ∧ sendJob.closeSent = false) ∧
    ((source sendJob { upRepl true with offered := true }).replUp 3 = true ∧ (source sendJob { upRepl true with offered := true }).replSpeaks 3 = true ∧
      max sendJob.first 1 < sendJob.stop ∧ 0 < sendJob.batch) ∧
    ({ sendJob with next := 2 }.heldTo + [true, false].length ≤ { sendJob with next := 2 }.next ∧ 2 < sendJob.stop ∧ 2 < 0 + 2 + 2 * sendJob.batch) ∧
    (let d := source sentAll (upRepl true)
     d.outstanding 3 9 = true ∧ tget d.hif.dying 3 = none ∧ d.jobsOf 3 = false ∧ sentAll.closed = false ∧ sentAll.closeSent = false ∧
      sentAll.stop ≤ sentAll.next ∧ sentAll.stop ≤ sentAll.heldTo ∧ sentAll.tiles = [] ∧ sentAll.stop ≤ max sentAll.committed 3 ∧
      d.isSource 3 = true ∧ d.replSpeaks 3 = true ∧ sentAll.stop = sentAll.entries.length) ∧
    ((source { sentAll with closeSent := true } (upRepl true)).outstanding 3 9 = true ∧ { sentAll with closed := true }.closed = true) := by
  refine ⟨?_, ?_, ?_, ?_, ?_⟩ <;> decide +kernel
set_option maxRecDepth 100000 in
theorem wit_ReplicationSource_tile : tileSource.replUp 3 = true ∧ tileSource.hif.notifies = [] ∧ tileJob.tiles = [(0, ent1)] ∧
    (tget tileSource.hif.chans 3).bind (·.rbuf) = some 0 ∧ tileSource.replSpeaks 3 = true ∧ tileSource.outstanding 3 9 = true ∧
    (match tileSource.want 3 with
      | some w => decide (cols1.length = tileSource.columns w ∧ (tileCame 3 w cols1 tileSource).2.status = 0 ∧
          (tileCame 3 w [List.replicate 18 .unreadable] tileSource).2.status ≠ 0)
      | none => false) = true := by decide +kernel

/-- A REPL_ACCEPT under way. -/
def acceptJob : AcceptJob := { h := hdr 4, volume := 1, takeId := 0, active := true, tiles := 4 }
/-- The target. -/
def target (j : AcceptJob) (r : Repl) : Dev := withJob 4 0x78 (.accept j) (onChan 4 r rep)
/-- A stored tile of one byte, enciphered or not. -/
def tile1 (n : Nat) (cipher : Nat) : List Byte :=
  ({ volume := 1, takeId := 3, tileSeq := BitVec.ofNat 64 n, raw := 1, stored := 129, mode := 0, format := 0, flags := 0, cipher := cipher,
     nonce := 0, tag := 0, fp := 0 } : TileHdr).bytes ++ [7]
/-- A batch item. -/
def item (n : Nat) : RItem := { idx := n, ent := { fp := 0, tileSeq := BitVec.ofNat 64 n, loc := n, storedLen := 129, flags := 0 }, held := none, tile := none }
/-- The session while a batch of two commits. -/
def taking : Repl := { upRepl false with offered := true, busy := true, offer := some offer, batch := [item 0, item 1], volume := 1, takeId := 3 }
/-- The target of an encrypted volume, its key in page 50. -/
def secret : Dev :=
  let d := target acceptJob taking
  { d with cat := { d.cat with volumes := [{ vol with encrypted := true, kcv := 9, dkcv := dkcvOf [1] }] },
           ciph := { d.ciph with pages := d.ciph.pages ++ [(50, { Page.reset 50 with state := .ready, kcv := 9 })] } }
theorem test_fp_batch : (after (.fpBatch 4 2 false []) (target acceptJob taking)).repl.map (·.2.queue) = [[(2, false, [])]] := by decide +kernel
theorem test_tile : answer 4 (after (.tile 4 1 []) (target acceptJob taking)) = some (0xC, 0, 5) := by decide +kernel
theorem test_repl_commit : Underway (.replCommit 4 0) (after (.replCommitTimer 4) (target acceptJob taking)) := by unfold Underway; decide +kernel
theorem test_close : (after (.close 4 3) (target acceptJob taking)).repl.map (·.2.total) = [some 3] := by decide +kernel
theorem wit_ReplicationTarget :
    ((target acceptJob taking).replUp 4 = true ∧ (target acceptJob taking).job 4 = some (.accept acceptJob) ∧ (target acceptJob taking).ciph.ended = [] ∧
      (target acceptJob taking).repl = [(4, taking)] ∧ acceptJob.active = true ∧ taking.offered = true ∧ taking.busy = true ∧
      (target acceptJob taking).isSource 4 = false ∧ (target acceptJob taking).replSpeaks 4 = true) ∧
    (let r := upRepl false
     (target { acceptJob with active := false } r).acceptStatus 4 r offer acceptJob = 0 ∧
      (target { acceptJob with active := false } r).acceptStatus 4 r { offer with level := 2 } acceptJob = 15) ∧
    ((target acceptJob { taking with busy := false, batch := [] }).volume taking.volume ≠ none ∧
      (target acceptJob { taking with busy := false, batch := [] }).replSpeaks 4 = true ∧ taking.queue = [] ∧ taking.buffers = []) ∧
    taking.batch.find? (fun x => x.idx == 7 && x.held.isNone && x.tile.isNone) = none ∧
    (taking.batch = item 0 :: [item 1] ∧ (item 0).idx ≠ 1 ∧ (item 0).ent.flags.getLsbD 1 = false ∧ (item 0).ent.flags.getLsbD 0 = false ∧
      (target acceptJob taking).partLength taking ≤ (item 0).idx ∧
      taking.batch.find? (fun y => y.idx == 1 && y.held.isNone && y.tile.isNone) = some (item 1) ∧
      tileFits taking (item 1).ent (tile1 1 0) = true ∧ (readHdr (tile1 1 0)).cipher ≠ 2 ∧ taking.source = false ∧
      (item 0).held = none ∧ (item 0).tile = none) ∧
    (tileFits taking (item 1).ent (tile1 1 2) = true ∧ (readHdr (tile1 1 2)).cipher = 2 ∧ secret.ciphOn = true ∧ secret.ciph.jobs = [] ∧
      secret.ciph.lane0 = none ∧ secret.ciph.lane1 = none ∧ secret.checkPage 4 taking = 50 ∧ (secret.page 50).state = .ready ∧
      (secret.page 50).domain = secret.domain 4 ∧ (secret.page 50).erase = none ∧ (secret.page 50).rekey = none ∧ (tile1 1 2).length ≤ 2 ^ 32) ∧
    (tileFits taking (item 1).ent [] = false ∧ (target acceptJob taking).hif.notifies = [] ∧
      (target acceptJob taking).outstanding 4 9 = true ∧ tget (target acceptJob taking).hif.dying 4 = none) ∧
    (let r := { taking with buffers := [1], batch := [{ item 0 with tile := some [1] }, item 1] }
     0 < r.buffers.length ∧ r.buffers.length ≤ (target acceptJob r).tilesHeld 4 r) ∧
    ({ taking with busy := false }.busy = false ∧ { acceptJob with active := false }.active = false ∧ { taking with offer := none }.offer = none ∧
      taking.offer ≠ none ∧ taking.batch ≠ []) := by
  refine ⟨?_, ?_, ?_, ?_, ?_, ?_, ?_, ?_, ?_⟩ <;> decide +kernel

/-! ## RDMA -/

/-- A valid context of domain 1. -/
def ctx : QpHost :=
  { stateReq := 1, domain := 1, ipv6 := false, repl := false, srcIp := 1, destQpn := 2, sqPsn := 100, rqPsn := 200, destIp := 0, destMac := 0,
    dscp := 0, pmtu := 5, udpSport := 0, vlan := 0, timeout := 5, retryCnt := 3, rnrRetry := 2, rdOut := 2, rdIn := 2, sqLog2 := 4,
    cqLog2 := 5, rqLog2 := 4, rbufLog2 := 12, vector := 0xFFFF, sqBase := 4096, cqBase := 4096, rqBase := 4096, counterAddr := 0,
    peerSerial := 0, txPage := 10, rxPage := 11, clean := true }
/-- A window of 64 KiB. -/
def win : Window := { offset := 0, length := 65536, bus := 0x100000, read := true, write := true, flush := true, clean := true }
/-- RDMA on, no queue pair. -/
def rdmaUp : Dev := { dev with regs := { dev.regs with rdmaCfg := 0xA03, qpcBase := 4096, winBase := 4096 }, rdma := { dev.rdma with lineRate := 400000000000 } }
/-- The key of domain 1. -/
def key1 : W32 := 0x04000001
/-- The pair in RTS. -/
def rtsQp : Qp := { Qp.fresh ctx 1 with state := .rts, sPsn := 100, ePsn := 200, rate := 400000000000, rnrLeft := 2 }
/-- Pair 5 in RTS, its context cached, and pair 6. -/
def rts : Dev := { rdmaUp with rdma := { rdmaUp.rdma with qps := [(5, rtsQp), (6, rtsQp)], keys := [(1, key1)], wins := [(1, [win])], cached := [(5, 0)] } }
/-- Its context not cached, a fetch under way. -/
def fetching : Dev := { rts with rdma := { rts.rdma with cached := [], waitCtx := [5] } }
theorem test_qp_context : ((after (.qpContextChange 5 1 { ctx with pmtu := 9 } [win]) rdmaUp).qp 5).map (·.cause) = some 1 ∧
    ((after (.qpContextChange 5 1 ctx [win]) rdmaUp).qp 5).map (·.ePsn) = some 200 := by decide
theorem test_context_fetch : tget (after (.contextFetchDone 5) fetching).rdma.cached 5 = some 0 := by decide
theorem wit_QueuePairs : (rts.live = true ∧ rts.glb.perstLow = false ∧ rts.qp 5 = some rtsQp ∧ rtsQp.gen = 1 ∧ rts.repl = []) ∧
    (rdmaUp.live = true ∧ hostQp 5 = true ∧ rdmaUp.rdmaOn = true ∧ rdmaUp.repl = [] ∧ rdmaUp.qp 5 = none ∧ ctx.stateReq = 1 ∧
      rdmaUp.domainRts 1 = [] ∧ contextOk ctx = true ∧ windowsOk [win] = true) ∧
    (contextOk { ctx with pmtu := 9 } = false ∧ windowsOk [win, win] = false) ∧ rts.rdma.waitCtx.contains 5 = false ∧
    (fetching.rdma.waitCtx.contains 5 = true ∧ fetching.inRts 5 = true ∧ tget fetching.rdma.cached 5 = none ∧ fetching.rdma.cached.length < 2043 ∧
      fetching.rdma.parked = [] ∧ ∀ e ∈ fetching.rdma.qps, e.2.waiting = none) :=
  by
  refine ⟨?_, ?_, ?_, ?_, ?_⟩ <;> decide

/-- A work request of 10,000 bytes. -/
def wrq : Wr :=
  { signal := true, fence := false, solicited := false, clean := true, tag := 7, slot := 3, localAddr := 0, length := 10000, imm := 0,
    remote := 0, rkey := 0, option := 0, data := [] }
/-- A WAIT on pair 6. -/
def waitWr : Wr := { wrq with localAddr := 6, remote := 4, length := 0 }
/-- Pair 5 at its limit of reads. -/
def readsFull : Dev := onQp 5 (fun q => { q with outs := [⟨4, wrq, 90, 0⟩, ⟨4, wrq, 99, 0⟩] }) rts
/-- The request as it is outstanding. -/
def outst : WrOut := ⟨1, wrq, 102, 0⟩
/-- Pair 5 with one request outstanding. -/
def sentOne : Dev := onQp 5 (fun q => { q with outs := [outst], sPsn := 103 }) rts
/-- What goes out on RDMA: the queue pair, the opcode and the first PSN. -/
def sends (d : Dev) : List (Nat × Nat × BitVec 24) := d.out.filterMap (fun o => match o with
  | .rdmaSend i op psn _ _ => some (i, op, psn)
  | _ => none)
theorem test_qp_send : sends (after (.qpSend 5 wrq) rts) = [(5, 1, 100)] := by decide
theorem test_qp_write : ((after (.qpWrite 5 wrq) rts).qp 5).map (·.sPsn) = some 103 := by decide
theorem test_qp_write_imm : sends (after (.qpWriteImm 5 wrq) rts) = [(5, 3, 100)] := by decide
theorem test_qp_read : sends (after (.qpRead 5 wrq) rts) = [(5, 4, 100)] ∧ sends (after (.qpRead 5 wrq) readsFull) = [] := by decide
theorem test_qp_flush : ((after (.qpFlush 5 wrq) rts).qp 5).map (·.sPsn) = some 101 := by decide
theorem test_qp_nop : ((after (.qpNop 5 wrq) rts).qp 5).map (·.sendCount) = some 1 := by decide
theorem test_qp_wait : ((after (.qpWait 5 waitWr) rts).qp 5).map (·.waiting) = some (some waitWr) := by decide
theorem wit_WorkRequests : (rts.qp 5 = some rtsQp ∧ rtsQp.readsOut < rtsQp.host.rdOut ∧ rts.qpTakes 5 wrq = true) ∧
    (wrOk 1 wrq = true ∧ wrOk 2 wrq = true ∧ wrOk 3 wrq = true ∧ wrOk 4 wrq = true ∧ wrOk 5 wrq = true ∧ wrOk 0 wrq = true ∧
      wrOk 1 { wrq with clean := false } = false ∧ rts.qpTakes 5 { wrq with clean := false } = true) ∧
    (onQp 5 (fun q => { q with rnrWait := true }) rts).qpTakes 5 wrq = false ∧
    ((readsFull.qp 5).map (fun q => decide (q.host.rdOut ≤ q.readsOut)) = some true) ∧ ((sentOne.qp 5).map (fun q => q.outs.isEmpty) = some false) ∧
    (rtsQp.outs = [] ∧ wrq.signal = true ∧ ∀ e ∈ rts.rdma.qps, e.2.waiting = none) ∧
    (rts.qpTakes 5 waitWr = true ∧ wrOk 6 waitWr = true ∧ waitWr.localAddr % 2 ^ 24 ≠ 5 ∧ tangoQp (waitWr.localAddr % 2 ^ 24) = false ∧
      rts.qp (waitWr.localAddr % 2 ^ 24) = some rtsQp ∧ rtsQp.host.repl = false ∧ rtsQp.state = .rts ∧
      reached (BitVec.ofNat 64 waitWr.remote) (watched waitWr rtsQp) = false ∧
      reached (BitVec.ofNat 64 waitWr.remote) (watched waitWr { rtsQp with sendCount := 9, recvCount := 9 }) = true ∧
      tangoQp 0x100 = true ∧ { ctx with domain := 2 }.domain ≠ rtsQp.host.domain) := by
  refine ⟨?_, ?_, ?_, ?_, ?_, ?_, ?_⟩ <;> decide

/-- The same waiting after an RNR NAK. -/
def rnrWait5 : Dev := onQp 5 (fun q => { q with rnrWait := true }) sentOne
theorem test_ack : ((after (.rdmaAck 5 102 []) sentOne).qp 5).map (·.outs) = some [] := by decide
theorem test_nak : sends (after (.rdmaNak 5 102 .psnSeq) sentOne) = [(5, 1, 102)] := by decide
theorem test_ack_timeout : ((after (.rdmaAckTimeout 5) sentOne).qp 5).map (·.retries) = some 1 := by decide
theorem test_rnr : ((after (.rnrRetryTimer 5) rnrWait5).qp 5).map (·.rnrLeft) = some 1 := by decide
theorem test_cnp : ((after (.cnp 5) rts).qp 5).map (·.rate) = some 200000000000 := by decide
theorem test_cnp_rate : ((after (.cnpRateTimer 5) (onQp 5 (fun q => { q with rate := 200000000000 }) rts)).qp 5).map (·.rate) = some 212500000000 := by decide
theorem wit_AckAndRetry :
    (sentOne.live = true ∧ sentOne.glb.perstLow = false ∧ (∀ e ∈ sentOne.rdma.qps, e.2.waiting = none) ∧ sentOne.repl = [] ∧
      sentOne.regs.rdmaCfg.getLsbD 1 = true ∧ (sentOne.qp 5).map (fun q => decide (q.state = .rts ∧ q.outs = [outst] ∧ q.names 102 = true ∧
        q.names 300 = false ∧ q.retries < q.host.retryCnt ∧ q.host.repl = false ∧ q.rnrWait = false)) = some true ∧
      outst.opcode ≠ 4 ∧ outst.wr.signal = true) ∧
    (let w := { wrq with length := 10 }
     firstPsn ctx ⟨1, w, 102, 0⟩ = 102 ∧ firstPsn ctx ⟨4, w, 102, 0⟩ = 102 ∧ ({ rtsQp with outs := [⟨4, w, 102, 0⟩], sPsn := 103 }).names 102 = true) ∧
    (rts.qp 5 = some rtsQp ∧ rtsQp.outs = [] ∧ rtsQp.host.retryCnt ≤ { rtsQp with retries := 3 }.retries) ∧
    ((rnrWait5.qp 5).map (fun q => decide (q.rnrWait = true ∧ q.host.rnrRetry ≠ 7 ∧ q.rnrLeft ≠ 0)) = some true ∧ { rtsQp with rnrLeft := 0 }.rnrLeft = 0) ∧
    ({ rts with regs := { rts.regs with rdmaCfg := 1 } } : Dev).regs.rdmaCfg.getLsbD 1 = false := by
  refine ⟨?_, ?_, ?_, ?_, ?_⟩ <;> decide

/-- An incoming WRITE of four bytes. -/
def wreq : RdmaReq :=
  { port := 1, qpn := 5, psn := 200, op := .write, first := true, last := true, remote := 64, length := 4, rkey := key1, imm := 0,
    persist := false, ce := false, srcQpn := 9, data := [1, 2, 3, 4] }
/-- Acknowledgements and refusals that go out. -/
def replies (d : Dev) : List (Bool × BitVec 24) := d.out.filterMap (fun o => match o with
  | .rdmaAck _ psn _ _ => some (true, psn)
  | .rdmaNak _ psn _ _ => some (false, psn)
  | _ => none)
theorem test_write_in : replies (after (.rdmaRequest wreq) rts) = [(true, 200)] ∧
    ((after (.rdmaRequest wreq) rts).qp 5).map (·.ePsn) = some 201 := by decide
theorem test_write_refused : replies (after (.rdmaRequest { wreq with rkey := 0 }) rts) = [(false, 200)] ∧
    ((after (.rdmaRequest { wreq with rkey := 0 }) rts).qp 5).map (·.cause) = some 2 := by decide
theorem wit_IncomingRequests : (rts.live = true ∧ tangoQp 5 = false ∧ tangoQp 0x100 = true ∧ ({ wreq with port := 0 }).port ≠ 1 ∧ rts.qp 7 = none ∧
      wreq.icrcOk = true ∧ { wreq with icrcOk := false }.icrcOk = false) ∧
    (rts.regs.rdmaCfg.getLsbD 0 = true ∧ rts.qp 5 = some rtsQp ∧ rtsQp.state = .rts ∧ rtsQp.host.repl = false ∧ { rtsQp with state := .error }.state ≠ .rts) ∧
    (tget fetching.rdma.cached 5 = none ∧ fetching.qp 5 = some rtsQp ∧ fetching.rdma.parked = [] ∧ wreq.data.length ≤ 262144) ∧
    ((tget rts.rdma.cached 5).isSome = true ∧ rts.rdma.parked = [] ∧ (∀ e ∈ rts.rdma.qps, e.2.waiting = none) ∧ wreq.psn = rtsQp.ePsn ∧
      rts.access rtsQp wreq = some win ∧ rts.access rtsQp { wreq with op := .writeImm } = some win ∧ rts.access rtsQp { wreq with op := .read } = some win ∧
      rts.access rtsQp { wreq with op := .flush } = some win ∧ wreq.ce = false ∧ rtsQp.cnpAt = none ∧ rts.regs.rdmaCfg.getLsbD 1 = true) ∧
    (rts.access rtsQp { wreq with rkey := 0 } = none ∧ rtsQp.outs = [] ∧ rtsQp.rqHead = rtsQp.rqTail ∧ { rtsQp with rqTail := 3 }.rqTail ≠ rtsQp.rqHead ∧
      rtsQp.inBytes + wreq.data.length ≤ 2 ^ rtsQp.host.rbufLog2) ∧
    ((210 : BitVec 24) ≠ rtsQp.ePsn ∧ precedes (210 : BitVec 24) rtsQp.ePsn = false ∧ rtsQp.nakSent = false ∧
      precedes (199 : BitVec 24) rtsQp.ePsn = true ∧ sdiff (199 : BitVec 24) rtsQp.ePsn ≤ 256) := by
  refine ⟨?_, ?_, ?_, ?_, ?_, ?_⟩ <;> decide
theorem wit_IncomingRequests_long : 262144 < (List.replicate 262145 (0 : Byte)).length ∧ ({ wreq with data := List.replicate 262145 0 }).first = true :=
  ⟨by rw [List.length_replicate]; decide, rfl⟩

/-! ## Tango -/

/-- The head in a pair, every group paired, takeover automatic. -/
def pair : Dev := { paired with tango := { paired.tango with paired := 15 }, regs := { paired.regs with ihCfg := 3 } }
/-- An envelope of that head's epoch and role. -/
def env0 : Env := env pair
/-- A HEARTBEAT. -/
def beat2 : Beat := { pair.beatNow with state := 2 }
/-- A journal record of the partner. -/
def pairRec (j : Nat) : JRec := { source := 0, layout := 1, jseq := j, epoch := 5, headB := true, subject := 4, body := .stripeRetire 2, units := 1 }
/-- A trigger record. -/
def trig1 : TrigRec := { trigId := 1, source := 2, group := 0xFF, srcField := 0, time := 5, place := 0, outcome := 4 }
/-- Sections of a LINK_INFO. -/
def linkSecs : Four LinkSec := Four.all ⟨1, 2, 0, true⟩
/-- The head with the interlock off. -/
def pairOff : Dev := { pair with regs := { pair.regs with ihCfg := 0 } }
theorem test_link_info : (after (.linkInfo { env0 with auth := false } linkSecs) pair).ih.authFail = 1 ∧
    (after (.linkInfo env0 linkSecs) pair).tango.farLink = linkSecs := by decide
theorem test_other_epoch : (after (.triggerFwd { env0 with epoch := 9 } trig1 1 1) pair).out.contains (.nak 0x32 env0.seq 0 5 pair.tango.owners) = true ∧
    (after (.triggerFwd { env0 with role := 0 } trig1 1 1) pair).ih.roleDiscard = 1 := by decide
theorem wit_PairMessageChecks : pairOff.pairOn = false ∧ pair.pairOn = true ∧ ({ env0 with auth := false }).auth = false ∧
    (Heard { env0 with epoch := 9 } pair ∧ ({ env0 with epoch := 9 }).epoch ≠ pair.tango.epoch ∧ Speaks pair) ∧
    (Heard { env0 with role := 0 } pair ∧ ({ env0 with role := 0 }).role ≠ pair.role) := by decide

/-- No session. -/
def apart (d : Dev) : Dev := { d with tango := { d.tango with session := false } }
/-- A HELLO of head B. -/
def helloB (st : Nat) : Hello := { hello0 with headB := true, state := st }
/-- The head that waits at start. -/
def startWait : Dev := { apart pair with tango := { (apart pair).tango with waiting := true, owners := .all 2, state := 0 } }
/-- The head in a state of the interlock, with what it knows of the partner. -/
def inState (n : Nat) (p : Option Hello) : Dev := { apart pair with tango := { (apart pair).tango with state := n, partner := p } }
theorem test_hello_retry : (after .helloRetry startWait).tango.epoch = 6 ∧ (after .helloRetry (apart pair)).tango.helloSent = true := by decide
theorem test_key_confirm : (after (.keyConfirm env0) (inState 2 none)).tango.resync = true ∧
    (after (.keyConfirm env0) (inState 0 (some (helloB 1)))).out.contains (.ownerTable ⟨0, 0, 1, 1⟩ 6) = true := by decide
theorem test_qp_error : (after (.tangoQpError 2) pair).tango.session = false ∧ ((after (.tangoQpError 2) pair).page 1).state = .assigned := by decide
theorem wit_SessionSetup : pairOff.joins = false ∧ pair.joins = true ∧
    ((helloFault pair.vault.vaultId (helloB 0) = none ∨ ∃ c, helloFault pair.vault.vaultId (helloB 0) = some c) ∧
      (helloFault pair.vault.vaultId { hello0 with headB := false } = none ∨ ∃ c, helloFault pair.vault.vaultId { hello0 with headB := false } = some c) ∧ ({ hello0 with headB := false } : Hello).headB = pair.glb.headB ∧
      (helloB 0).headB ≠ pair.glb.headB ∧ (helloB 0).levelMin ≤ 1 ∧ 1 ≤ (helloB 0).levelMax ∧ pair.vault.vaultLevel ≤ 1 ∧ (helloB 0).vaultLevel ≤ 1 ∧
      pair.boot.idOk = true) ∧
    ((apart pair).joins = true ∧ (apart pair).tango.session = false ∧ (apart pair).tango.waiting = false) ∧
    (startWait.joins = true ∧ startWait.tango.waiting = true ∧ startWait.owned = [] ∧ startWait.partnerSeen = false ∧
      max startWait.tango.epochMax startWait.tango.epoch + 1 < epochEnd) ∧
    ((inState 2 none).joins = true ∧ (inState 2 none).tango.session = false ∧ Heard env0 (inState 2 none) ∧ (inState 2 none).tango.state = 2) ∧
    ((inState 0 (some (helloB 1))).glb.headB = false ∧ (inState 0 (some (helloB 1))).tango.state ≤ 1 ∧ (helloB 1).state ≤ 1 ∧
      ((inState 0 (some (helloB 1))).page 0).state = .ready ∧ Heard env0 (inState 0 (some (helloB 1)))) ∧
    ((inState 3 (some (helloB 1))).tango.state = 3 ∧ (inState 3 (some (helloB 1))).tango.epoch + 1 < epochEnd ∧ Heard env0 (inState 3 (some (helloB 1)))) := by
  refine ⟨by decide, by decide, ⟨?_, ?_, by decide, by decide, by decide, by decide, by decide, by decide, by decide⟩, by decide, by decide, by decide,
    by decide, by decide⟩
  · cases helloFault pair.vault.vaultId (helloB 0) <;> simp
  · cases helloFault pair.vault.vaultId { hello0 with headB := false } <;> simp

/-- An envelope of a later epoch. -/
def later : Env := { env0 with epoch := 7 }
/-- The pair with drive 3 in service. -/
def pairDrive : Dev := { pair with vault := { pair.vault with drives := [(3, drv)] } }
/-- A standby head with 250 ms of every group. -/
def nearReady : Dev := { pair with tango := { pair.tango with state := 1 }, lg := Four.all { pair.lg.a0 with standbyNs := 250000000 } }
/-- A drive that reports an epoch. -/
def drvRep (p : Bool) (n : Nat) : TakeoverIn := { tin with reports := [⟨3, resKey false n :: (if p then [resKey true n] else [])⟩] }
theorem test_owner_table : (after (.ownerTable later ⟨0, 1, 1, 1⟩) pair).ih.stepdowns = 1 ∧
    (after (.ownerTable env0 ⟨0, 1, 1, 1⟩) pair).tango.owners = ⟨0, 0, 1, 1⟩ := by decide
theorem test_owner_ack : (after (.ownerAck later ⟨0, 0, 0, 1⟩) pairDrive).out.contains (.nvme 3 4 (.register (resKey false 7))) = true := by decide
theorem test_standby_ready : (after .standbyReady nearReady).tango.state = 2 ∧ (after .standbyReady pair).tango.state = 3 := by decide
theorem test_startup_wait : (after (.startupWaitExpiry { tin with conflicts := [3] } []) startWait).tango.lostRace = true := by decide
theorem wit_OwnershipTable : (pair.pairOn = true ∧ Heard env0 pair ∧ env0.epoch ≤ pair.tango.epoch ∧ Heard later pair ∧ pair.tango.epoch < later.epoch ∧
      (∀ g, pair.owns g = true → (⟨0, 0, 0, 1⟩ : Four Nat).at g = pair.self) ∧ Speaks pair ∧ 3 ∈ pairDrive.inService) ∧
    (pair.owns 1 = true ∧ (⟨0, 1, 1, 1⟩ : Four Nat).at 1 ≠ pair.self) ∧ Agreed env0 pair ∧ pair.becomesReady = false ∧ nearReady.becomesReady = true ∧
    ((apart pair).joins = true ∧ (apart pair).tango.session = false ∧ (apart pair).tango.waiting = false ∧ startWait.tango.session = false ∧
      startWait.joins = true ∧ startWait.tango.waiting = true) ∧
    (epochEnd ≤ startWait.epochSeen (drvRep false (2 ^ 40 - 2)) + 1 ∧ startWait.epochSeen { tin with conflicts := [3] } + 1 < epochEnd ∧
      startWait.epochSeen tin + 1 < epochEnd ∧ tin.conflicts = []) :=
  ⟨by decide, by decide, by decide, by decide, by decide, by decide, by decide⟩

/-- The pair after a first HEARTBEAT. -/
def beaten : Dev := { pair with tango := { pair.tango with beat := some beat2 } }
/-- Four of them missed. -/
def missing : Dev := { beaten with tango := { beaten.tango with missed := 4 }, vault := { beaten.vault with drives := [(3, drv), (4, drv)] } }
/-- Takeover left to the host. -/
def manual (d : Dev) : Dev := { d with regs := { d.regs with ihCfg := 1 } }
/-- This head's key is gone from a drive. -/
def keyGone : TakeoverIn := { tin with reports := [⟨3, [resKey true 5]⟩] }
/-- The head after a lost race. -/
def raceLost : Dev := { pair with tango := { pair.tango with lostRace := true, state := 1, owners := .all 1 } }
theorem test_heartbeat_timer : (after .heartbeatTimer pair).ih.hbSent = 1 ∧ (after (.heartbeat env0 beat2) missing).tango.missed = 0 := by decide
theorem test_heartbeat_missed : (after .heartbeatMissed beaten).ih.hbMissed = 1 ∧ (after .heartbeatMissed pair).ih.hbMissed = 0 := by decide
theorem test_partner_silent : (after (.partnerSilent keyGone) missing).tango.state = 1 := by decide
theorem test_fence_retry : (after (.fenceRetry (drvRep true 5)) raceLost).tango.lostRace = false := by decide
theorem test_leaving : (after (.leaving env0 1 tin) pair).tango.leaving = some 1 ∧
    (after (.leaving env0 2 (drvRep true 5)) (manual pair)).tango.takeoverHeld = true := by decide
theorem test_frozen : (after (.frozen env0 1 tin) (manual { pair with tango := { pair.tango with leaving := some 1 } })).tango.takeoverHeld = true := by decide
theorem wit_LostPartner : (pair.beats = true ∧ Speaks pair ∧ (apart pair).tango.session = false ∧ pair.pairOn = true ∧ Heard env0 pair ∧
      beaten.pairOn = true ∧ beaten.tango.beat ≠ none ∧ pair.tango.beat = none ∧ pair.tango.missed < 4) ∧
    (missing.pairOn = true ∧ 4 ≤ missing.tango.missed ∧ missing.tango.silent = false ∧ missing.keyIntact keyGone = false) ∧
    (missing.keyIntact (drvRep true 5) = true ∧ (manual missing).autoTakeover = false ∧ (manual missing).pairOn = true ∧ missing.autoTakeover = true ∧
      ({ missing with tango := { missing.tango with paired := 0 } } : Dev).takeable = [] ∧ missing.takeable ≠ [] ∧
      missing.epochSeen (drvRep true 5) + 1 < epochEnd ∧ (drvRep true 5).conflicts = []) ∧
    (raceLost.pairOn = true ∧ raceLost.tango.owing = false ∧ raceLost.tango.lostRace = true ∧ (drvRep true 5).reports.any (fun r => r.keys.any (keyOfHead (!raceLost.glb.headB))) = true ∧
      (drvRep false 5).reports.any (fun r => r.keys.any (keyOfHead (!raceLost.glb.headB))) = false ∧ raceLost.epochSeen (drvRep false 5) + 1 < epochEnd ∧
      ({ raceLost with tango := { raceLost.tango with owing := true } } : Dev).tango.owing = true ∧ pair.tango.owing = false ∧ pair.tango.lostRace = false) ∧
    (pair.partnerOwns = true ∧ (manual pair).autoTakeover = false ∧ (manual pair).partnerOwns = true ∧ Heard env0 (manual pair) ∧ (manual pair).pairOn = true) ∧
    (Agreed env0 pair ∧ pair.tango.leaving = none ∧
      (manual { pair with tango := { pair.tango with leaving := some 1 } }).tango.leaving ≠ none ∧
      (manual { pair with tango := { pair.tango with leaving := some 1 } }).partnerOwns = true ∧
      Agreed env0 (manual { pair with tango := { pair.tango with leaving := some 1 } })) :=
  ⟨by decide, by decide, by decide, by decide, by decide, by decide⟩
/-- A message at a level above the one in force, and a head whose cipher engine is off or has no key. -/
theorem wit_PairMessageChecks_more : pair.ciphOn = true ∧ (pair.page 1).state = .ready ∧ pair.tango.cl < ({ env0 with level := 9 }).level ∧
    env0.auth = true ∧ ({ pair with regs := { pair.regs with ciphCfg := 0 } } : Dev).ciphOn = false ∧
    (({ pair with ciph := { pair.ciph with pages := [] } } : Dev).page 1).state ≠ .ready := by decide
/-- Two HELLOs: one of levels in common, one of none; and a head that can answer. -/
theorem wit_SessionSetup_levels :
    max (max pair.levelMin (helloB 0).levelMin) (max pair.vault.vaultLevel (helloB 0).vaultLevel) ≤ min pair.levelMax (helloB 0).levelMax ∧
    (let m : Hello := { helloB 0 with levelMin := 5, levelMax := 6 }
     min pair.levelMax m.levelMax < max (max pair.levelMin m.levelMin) (max pair.vault.vaultLevel m.vaultLevel)) ∧
    pair.tango.clash = false ∧ (pair.page 0).erase = none ∧ (pair.page 1).erase = none ∧ LaneFree pair ∧ (pair.page 0).domain = 0 ∧
    HasVoice (inState 0 (some (helloB 1))) ∧ HasVoice (inState 3 (some (helloB 1))) := by decide

/-! ## Handover and the running pair -/

/-- A handover of a head. -/
def handOf (g : Bool) (st : Nat) (m : BitVec 4) : Hand := { groups := m, giving := g, h := some (hdr 7), stage := st, cuts := [] }
/-- The pair with it under way. -/
def withHand (h : Hand) (d : Dev) : Dev := { d with tango := { d.tango with hand := some h } }
/-- The pair before a handover, 250 ms landed, ADMIN's HANDOVER outstanding on channel 7. -/
def ready : Dev := { pair with
  tango := { pair.tango with beat := some beat2 }
  lg := Four.all { pair.lg.a0 with standbyNs := 250000000, expect := 1 }
  hif := { pair.hif with chans := pair.hif.chans.map (fun c => if c.1 == 7 then (c.1, { c.2 with descs := [ds 0x1B 9 true] }) else c) } }
/-- A group's state at its cut. -/
def cutState : GState := { group := 0, part := 0, frameOpen := false, commitGsn := 3, nextTile := 0, nextMeta := 0, frame := none, closed := [] }
/-- The giving head with a tile under way in pipe 0. -/
def midTile : Dev := let d := withHand (handOf true 1 1) ready; { d with pipes := d.pipes.put 0 { d.pipes.a0 with tileBuf := [1] } }
/-- The giving head with a sealed stripe of group 0. -/
def cutting : Dev := let d := withHand (handOf true 1 1) ready; { d with vault := { d.vault with sealedQ := [sbuf] } }
/-- The next epoch. -/
def next6 : Env := { env0 with epoch := 6 }
theorem test_handover_req : (after (.handoverReq env0 1 1) ready).out.contains (.handReq 1 0) = true ∧
    (after (.handoverReq env0 12 0) ready).out.contains (.handReady 12) = true := by decide
theorem test_handover_ready : (after (.handoverReady env0 1) cutting).tango.epoch = 6 ∧ ((after (.handoverReady env0 1) midTile).tango.hand.map (·.stage)) = some 2 := by
  decide +kernel
theorem test_handover_state : (after (.handoverState next6 [(2, 7, cutState), (3, 7, cutState)] []) (withHand (handOf false 2 12) ready)).owns 2 = true := by decide +kernel
theorem test_handover_done : (after (.handoverDone env0 []) (withHand (handOf false 3 12) ready)).ih.handovers = 1 := by decide
theorem test_handover_timeout : answer 7 (after (.handoverTimeout tin) (withHand (handOf false 2 12) ready)) = some (8, 0, 0) := by decide
theorem wit_HandoverMessages :
    (ready.pairOn = true ∧ Agreed env0 ready ∧ (groupsIn 4).all ready.owns = false ∧ (groupsIn 1).all ready.owns = true ∧ ready.handBusy 1 0 = false ∧
      (withHand (handOf true 1 1) ready).handBusy 1 0 = true ∧ (ready.page 0).state = .ready ∧
      ready.freeAbove (ready.ceilingWith 1) = true) ∧
    (ready.tango.hand = none ∧ ready.tango.state ≠ 1 ∧ ready.rings250 (groupsIn 12) = true ∧ (∀ g ∈ groupsIn 12, ready.owns g = false) ∧
      ∀ g ∈ groupsIn 12, ready.tango.paired.getLsbD g.val = true) ∧
    ((withHand (handOf true 1 1) ready).pairOn = true ∧ Agreed env0 (withHand (handOf true 1 1) ready) ∧ Agreed env0 midTile ∧ midTile.pairOn = true ∧
      (groupsIn 1).all midTile.atBoundary = false ∧ midTile.tango.hand = some (handOf true 1 1)) ∧
    (cutting.pairOn = true ∧ Agreed env0 cutting ∧ (groupsIn 1).all cutting.atBoundary = true ∧ cutting.cat.takes = [] ∧ cutting.vault.sealedQ ≠ [] ∧
      (∀ b ∈ cutting.vault.sealedQ, b.source < 4 ∧ (1 : BitVec 4).getLsbD b.source = true) ∧ cutting.tango.hand = some (handOf true 1 1)) ∧
    (Heard next6 (withHand (handOf false 2 12) ready) ∧ next6.epoch = ready.tango.epoch + 1 ∧ next6.role = ready.role ∧ ready.tango.ckpts = [] ∧
      ready.tango.mirror = [] ∧ ready.cat.takes = [] ∧ (ready.lg.at 2).ring = []) ∧
    (Agreed env0 (withHand (handOf true 3 12) ready) ∧ Agreed env0 (withHand (handOf false 3 12) ready) ∧ ready.vault.opened = [] ∧ ready.vault.mdc = none ∧
      ready.repl = [] ∧ (withHand (handOf false 3 12) ready).outstanding 7 9 = true ∧ tget ready.hif.dying 7 = none ∧
      (withHand (handOf false 3 12) ready).pairOn = true) ∧
    ((∀ g ∈ groupsIn 12, (withHand (handOf false 2 12) ready).owns g = false) ∧ (withHand (handOf false 3 12) ready).epochSeen tin + 1 < epochEnd ∧
      ({ tin with conflicts := [3] } : TakeoverIn).conflicts ≠ []) := by
  refine ⟨?_, ?_, ?_, ?_, ?_, ?_, ?_⟩ <;> decide

/-- An open stripe that the partner has not acknowledged. -/
def unacked : OpenEnt := { jseq := 1, order := 1, buf := sbuf, remapMask := 0, done := 0, acked := false, waitHand := false, again := false, state := none }
/-- The pair with it. -/
def mirrored : Dev := { pair with vault := { pair.vault with layouts := [lay], opened := [unacked], jseq := 2 } }
/-- A claim that awaits its verdict. -/
def claiming : Dev := { pair with vault := { pair.vault with claims := [⟨1, 3, false, false, 9⟩] } }
/-- A checkpoint of a number. -/
def ckptN (n : Nat) : Ckpt := { pair.checkpoint with seq := n }
/-- A landed slot. -/
def slotOf (n : W32) (g : Fin 4) : Slot := ⟨packet 3 (BitVec.ofNat 8 g.val) n 0 [], 1, 0⟩
/-- Group 2 in standby with three slots. -/
def standby2 : Dev := onLedger 2 (fun l => { l with ring := [slotOf 5 2, slotOf 6 2, slotOf 7 2], ledgerBase := some (4, 0), expect := 8 }) pair
/-- Group 2 with one slot asked for. -/
def healing2 : Dev :=
  { onLedger 2 (fun l => { l with heals := [⟨5, 3, 1, 0⟩], expect := 7, ringPos := 5, commit := 4 }) pair with
    sl := { pair.sl with groups := Four.all { pair.sl.groups.a0 with link := .granted, grant := some { grantAll with streamId := (slotOf 5 2).pkt.streamId } } } }
theorem test_mirror_rec : (after (.mirrorRec env0 (pairRec 1) none true) pair).tango.placed = 1 ∧
    (after (.mirrorRec env0 (pairRec 4) none true) pair).tango.placed = 0 := by decide
theorem test_mirror_ack : (after (.mirrorAck env0 4) mirrored).vault.opened.map (·.acked) = [true] := by decide
theorem test_claim_verdict : (after (.claimVerdict env0 1 3 9 false) claiming).vault.claims = [⟨1, 3, false, true, 9⟩] ∧
    (after (.claimVerdict env0 1 3 9 true) claiming).vault.claims = [] := by decide
theorem test_ckpt_done : (after (.ckptDone env0 1 (ckptN 3)) { pair with tango := { pair.tango with ckpts := [ckptN 1, ckptN 2] } }).tango.ckpts.map (·.seq) = [2, 3] := by
  decide
theorem test_ledger : ((after (.ledger env0 [⟨2, false, 6, 1, 1, 1⟩]) standby2).lg.at 2).ring.map (·.pkt.gsn) = [7] := by decide
theorem test_heal_req : (after (.healReq env0 1 0 3 5 5) standby2).ih.roleDiscard = 1 ∧ (after (.healReq env0 1 2 4 5 5) standby2).ih.healServed = 3 := by decide
theorem test_heal_done : ((after (.healDone env0 9 2 1 5 1 [slotOf 5 2]) healing2).lg.at 2).healed = 1 := by decide
theorem test_checkpoint : (after .checkpointTimer pair).tango.ckptSeq = next64 pair.tango.ckptSeq := by decide
theorem wit_MirrorAndHeal : (pair.pairOn = true ∧ Agreed env0 pair ∧ pair.tango.resync = false ∧ (pairRec 4).jseq ≠ next64 pair.tango.placed ∧
      (pairRec 1).jseq = next64 pair.tango.placed ∧ (∀ k, (pairRec 1).body ≠ .durable k) ∧ (pairRec 1).body ≠ .periodClaim ∧ Speaks pair) ∧
    (pair.vault.opened = [] ∧ pair.vault.mdc = none ∧ pair.repl = [] ∧ pair.tango.hand = none ∧ pair.cat.takes = []) ∧
    (mirrored.pairOn = true ∧ Agreed env0 mirrored ∧ mirrored.vault.opened = [unacked] ∧ upTo64 unacked.jseq 4 = true ∧ unacked.done = 0 ∧
      mirrored.layout unacked.buf.layout = some lay ∧ lay.members ≠ 0) ∧
    (claiming.pairOn = true ∧ Agreed env0 claiming ∧ claiming.vault.claims = [⟨1, 3, false, false, 9⟩] ∧ claiming.glb.headB = false ∧
      claiming.layout 1 = none ∧ pair.vault.claims = []) ∧
    (pair.owns 0 = true ∧ standby2.owns 2 = false ∧ standby2.pairOn = true ∧ Agreed env0 standby2 ∧ Speaks standby2) ∧
    ((healing2.lg.at 2).heals = [⟨5, 3, 1, 0⟩] ∧ healing2.owns 2 = false ∧ healing2.pairOn = true ∧ Agreed env0 healing2 ∧
      (∃ r, (healing2.sl.groups.at 2).grant = some r ∧ r.streamId = (slotOf 5 2).pkt.streamId) ∧ (slotOf 5 2).pkt.gsn = 5 ∧
      (slotOf 5 2).pkt.group = BitVec.ofNat 8 2) ∧
    (({ pair with tango := { pair.tango with ckptBad := true } } : Dev).tango.ckptBad = true ∧ pair.tango.ckptBad = false ∧ pair.owned ≠ []) :=
  ⟨⟨by decide, by decide, by decide, by decide, by decide, nofun, nofun, by decide⟩, by decide, by decide, by decide, by decide,
    ⟨by decide, by decide, by decide, by decide, ⟨_, rfl, by decide⟩, by decide, by decide⟩, by decide⟩

/-- Drive 3 without the partner's key. -/
def newDrive : Dev := { pair with vault := { pair.vault with drives := [(3, { drv with partnerReg := false })] } }
/-- The pair with a layout, a volume and its key. -/
def pairVault : Dev := { keyed with tango := pair.tango, regs := pair.regs, ciph := { pair.ciph with hkeys := keyed.ciph.hkeys } }
/-- A TAKE_OPEN that waits for the partner. -/
def partOpen : Dev := { pairVault with
  tango := { pairVault.tango with partOpens := [(hdr 1, 8, 1, openReq)] }
  hif := { pairVault.hif with chans := pairVault.hif.chans.map (fun c => if c.1 == 1 then (c.1, { c.2 with descs := [ds 0x40 9 true] }) else c) } }
theorem test_drive_notice : (after (.driveNotice env0 3 0) newDrive).drive 3 = drv ∧ ((after (.driveNotice env0 3 1) newDrive).drive 3).state = .failed := by decide
theorem test_take_part : (after (.takePart env0 { openReq with hkey := 4 } 0 0 8 1) pairVault).out.contains (.takePartAck 8 1 6) = true := by decide
theorem test_take_part_ack : answer 1 (after (.takePartAck env0 8 1 6) partOpen) = some (6, 0, 0) := by decide
theorem test_trigger_fwd : (after (.triggerFwd env0 trig1 8 1) pair).tango.fwdTrigs = [(8, trig1)] := by decide
theorem test_pair_nak : (after (.nak later .other 2 ⟨0, 0, 0, 1⟩) pair).tango.owners = ⟨0, 0, 0, 1⟩ ∧
    (after (.nak later .mirrorRec 2 ⟨0, 1, 0, 1⟩) pair).ih.stepdowns = 1 := by decide
theorem wit_PairTakesAndDrives : (newDrive.pairOn = true ∧ Agreed env0 newDrive ∧ (newDrive.drive 3).held = [] ∧ (newDrive.drive 3).state ≠ .absent ∧
      (newDrive.drive 3).state ≠ .failed ∧ newDrive.vault.opened = [] ∧ Speaks newDrive ∧ 3 < 48) ∧
    (pairVault.pairOn = true ∧ Agreed env0 pairVault ∧ (pairVault.volume 1).isSome = true ∧ pairVault.hif.notifies = [] ∧
      pairVault.take 1 8 = none ∧ pairVault.openCheck { openReq with hkey := 4 } none { vol with dkcv := dkcvOf [1] } = some 6 ∧
      pairVault.openCheck openReq none { vol with dkcv := dkcvOf [1] } = none ∧ Speaks pairVault) ∧
    (pair.volume 1 = none ∧ pair.rootLayout = none ∧ (withTake { take01 .open_ with id := 8 } pairVault).take 1 8 ≠ none) ∧
    (partOpen.pairOn = true ∧ Agreed env0 partOpen ∧ partOpen.tango.partOpens = [(hdr 1, 8, 1, openReq)] ∧ (partOpen.volume 1).isSome = true ∧
      partOpen.outstanding 1 9 = true ∧ tget partOpen.hif.dying 1 = none ∧ pair.cat.takes = []) ∧
    (pair.pairOn = true ∧ Heard env0 pair ∧ env0.epoch ≤ pair.tango.epoch ∧ Heard later pair ∧ pair.tango.epoch < later.epoch ∧
      (∀ g, pair.owns g = true → (⟨0, 0, 0, 1⟩ : Four Nat).at g = pair.self) ∧ pair.owns 1 = true ∧ (⟨0, 1, 0, 1⟩ : Four Nat).at 1 ≠ pair.self) := by
  refine ⟨?_, ?_, ?_, ?_, ?_⟩ <;> decide +kernel
/-- What a LEDGER is compared with, and a claim that both heads have made. -/
theorem wit_MirrorAndHeal_more : ((standby2.lg.at 2).ledgerBase = some (4, 0) ∧ ((standby2.lg.at 2).fedRange 4 6).isSome = true ∧
      ∀ ss, (standby2.lg.at 2).fedRange 4 6 = some ss → crc32c ((ss.map (fun y => headerBytes y.pkt)).flatten) ≠ 1) ∧
    (mirrored.retiring = true ∧ pair.retiring = true ∧ (apart pair).tango.session = false ∧
      ({ pair with tango := { pair.tango with resync := true } } : Dev).tango.resync = true) := by
  refine ⟨⟨by decide, by decide +kernel, ?_⟩, by decide⟩
  intro ss h; cases h; decide +kernel

/-! ## Minuet -/

/-- The head with AVS on, targets and goals of VDD_CORE. -/
def volts (t g : Nat) (bad : Bool) : Dev :=
  { dev with regs := { dev.regs with mntCfg := 0x5F01 }, mnt := { dev.mnt with target := t, goal := g, avsBad := bad } }
/-- AVS off. -/
def avsOff : Dev := { dev with regs := { dev.regs with mntCfg := 0x5F00 } }
/-- The warning threshold at 255 °C. -/
def warnHigh : Dev := { dev with regs := { dev.regs with mntCfg := 0x0000FF01 } }
/-- Sensors. -/
def sense : SensorIn := { replicas := List.replicate 24 60, rings := List.replicate 96 50 }
/-- The plan is in force while the pair changes hands. -/
def pairMoving (held : Option Nat) : Dev :=
  { volts 790 790 false with tango := { dev.tango with owing := true }, mnt := { (volts 790 790 false).mnt with planned := true, heldAt := held } }
theorem test_early_warning : (after (.earlyWarning 3 (some (755, 3))) (volts 750 740 false)).mnt.target = 755 ∧
    events (after (.earlyWarning 3 none) (volts 800 800 false)) = [(0x0D04, noInstance)] := by decide
theorem test_step_down : (after (.vddStepDown (some (742, 3))) (volts 750 740 false)).mnt.target = 745 ∧
    (after (.vddStepDown none) (volts 750 740 false)).mnt.avsBad = true := by decide
theorem test_avs_retry : (after (.avsRetry (some (760, 3))) (volts 750 760 true)).mnt.target = 760 := by decide
theorem test_replan : (after (.replan sense none) Dev.reset).mnt.replicas = [] ∧ (after (.sensorRead sense) Dev.reset).mnt.rings = [] := by decide
theorem test_thermal_sample : (after (.thermalSample [40, 106, 106]) dev).mnt.maxDiode = 1 ∧ (after (.thermalSample [40, 106, 106]) dev).mnt.critOn = true := by
  decide
theorem test_thermal_trip : (after (.thermalTrip 3 114) dev).glb.fatal = false ∧ (after (.thermalTrip 3 115) dev).glb.fatal = true := by decide
theorem test_margin : (after (.pcieMargin 48 7) dev).mnt.margins = [(48, 7)] ∧ (after (.pcieMargin 49 7) dev).mnt.margins = [] := by decide
theorem test_eye_scan : tget (after (.eyeScan false 3 5000 2) dev).mnt.eyes 3 = some 4095 := by decide
theorem wit_Ageing : (avsOff.avsOn = false ∧ (volts 750 740 false).mnt.target < 800 ∧
      (volts 750 740 false).working = true ∧ (volts 750 740 false).avsOn = true ∧ 800 ≤ (volts 800 800 false).mnt.target ∧
      (volts 800 800 false).mnt.outAt = none ∧ (750 ≤ 755 + 5 ∧ 755 ≤ 750 + 15) ∧ (740 + 5 < 750 ∧ 750 + 15 < 766)) ∧
    ((volts 750 740 false).running = true ∧ (volts 750 740 false).mnt.avsBad = false ∧ (volts 750 740 false).mnt.goal < (volts 750 740 false).mnt.target ∧
      (volts 750 760 true).mnt.avsBad = true ∧ (volts 750 760 true).mnt.target ≤ (volts 750 760 true).mnt.goal ∧
      (nextVdd (volts 750 740 false).mnt ≤ 742 + 10 ∧ 742 ≤ nextVdd (volts 750 740 false).mnt + 10) ∧ nextVdd (volts 750 740 false).mnt + 10 < 756) ∧
    ((volts 740 740 false).mnt.target ≤ (volts 740 740 false).mnt.goal) ∧
    (fresh.running = true ∧ Dev.reset.running = false ∧ avsOff.running = true ∧ dev.running = true) ∧
    ((pairMoving none).running = true ∧ (pairMoving none).pairMoves = true ∧ (pairMoving none).mnt.planned = true ∧ (pairMoving none).mnt.heldAt = none ∧
      (pairMoving (some 0)).now < 0 + 10000000000 ∧ (volts 750 740 false).mnt.planned = false ∧ (volts 750 740 false).pairMoves = false) ∧
    (dev.live = true ∧ hottest 0 [40, 106, 106] = some (106, 1) ∧ dev.mnt.critOn = false ∧ bits warnHigh.regs.mntCfg.toNat 15 8 > (106 : Int).toNat ∧
      warnHigh.live = true ∧ warnHigh.mnt.critOn = false ∧ dev.mnt.warnOn = false ∧ hottest 0 [100] = some (100, 0)) ∧
    ((114 : Int) < 115 ∧ dev.glb.porLow = false) ∧
    (dev.portBusy 48 = false ∧ dev.laneIdle false 3 = true ∧ dev.laneIdle false 99 = false) := by
  refine ⟨?_, ?_, ?_, ?_, ?_, ?_, ?_, ?_⟩ <;> decide

/-! ## Well-formed commands: one ill-formed term for each check -/

/-- The widths of fields. -/
theorem test_wf_widths : [Instr.registerWrite 0 3 0, .alloc 32 false, .clean (2 ^ 64), .stripWriteComplete 1 18, .driveLinkLoss 48,
    .msixModTimer 4096, .msixUnmask 65536, .linkUpTimeout 0 256, .contextFetchDone 16384, .uncorrectableCodeword 0 1 (2 ^ 64) [],
    .uncorrectableCodeword 0 1 0 (List.replicate 544 1024), .free 0 (2 ^ 32) false,
    .ownerTable { env0 with epoch := 2 ^ 40 } ⟨0, 0, 1, 1⟩, .ownerTable env0 ⟨0, 0, 1, 256⟩, .ownerAck { env0 with level := 256 } ⟨0, 0, 1, 1⟩,
    .ckptDone env0 2 ckpt, .nop (hdr 4096), .nop { hdr 1 with sqIndex := 65536 }, .driveFail (hdr 5) 256,
    .keyLoad (hdr 0) 47 [1] 0 0, .hkeyLoad (hdr 0) 5 1 (List.replicate 256 0)].all (fun c => !c.wf) = true := by decide +kernel
/-- Structures of the vault. -/
theorem test_wf_vault : [Instr.driveAdmit (hdr 5) 3 { good with slot := 48 }, .driveAdmit (hdr 5) 3 { good with sys := [(32768, zeros 4096)] },
    .scrubStripe { stripe0 [] (fun _ => []) with members := [] }, .rebuildStripe { stripe0 [] (fun _ => []) with layout := 65536 },
    .mirrorRec env0 { pairRec 1 with layout := 65536 } none true, .mirrorRec env0 { pairRec 1 with body := .remap 256 0 0 0 } none true,
    .mirrorRec env0 { pairRec 1 with body := .stripeOpen 1 1 0 0 0 0 [{ ent1 with loc := 2 ^ 52 }] 0 } none true,
    .mirrorRec env0 (pairRec 1) (some { cutState with nextTile := 2 ^ 56 }) true,
    .mirrorRec env0 (pairRec 1) (some { cutState with frame := some { frameRec with declared := 2 ^ 32 } }) true,
    .layoutLoad (hdr 0) 1 256 { lay with drives := 256 } [], .partnerSilent { tin with conflicts := [48] },
    .partnerSilent { tin with adoption := [⟨1, []⟩] }, .driveReadComplete 2 [[.multi ⟨[], 0, 0, 0⟩]], .driveReadComplete 2 [[.single ⟨[], 0, 0, 0⟩]],
    .copyBackChunk 3 0 [[]], .takeOpen (hdr 1) { openReq with page := 256 }, .startupWaitExpiry tin [{ slot := 48, header := zeros 4096, body := [], readOk := true }],
    .startupWaitExpiry tin [{ slot := 4, header := [], body := [], readOk := true }],
    .driveAdminCommandComplete 3 (.identify { good with slot := 48 })].all (fun c => !c.wf) = true := by decide +kernel
/-- Structures of the pair. -/
theorem test_wf_pair : [Instr.hello env0 { helloB 0 with levelMax := 65536, ecdhPub := zeros 96 }, .hello env0 { helloB 0 with ecdhPub := [] },
    .heartbeat env0 { beat2 with state := 256 },
    .triggerFwd env0 { trig1 with source := 256 } 1 1, .ckptDone env0 0 { ckpt with epoch := 2 ^ 40 },
    .ckptDone env0 0 { ckpt with volumes := [{ vol with id := 65536 }] },
    .ckptDone env0 0 { ckpt with triggers := [(2 ^ 32, trig1)] }, .takePart env0 openReq 0 0 8 256, .takePartAck env0 8 1 256,
    .driveNotice env0 256 0, .claimVerdict env0 65536 0 0 true, .healReq env0 0 0 65536 0 0,
    .healDone env0 1 0 1 0 1 [{ slotOf 5 2 with pkt := { (slotOf 5 2).pkt with payload := zeros 2049 } }],
    .leaving env0 256 tin, .nak env0 .other 256 ⟨0, 0, 1, 1⟩].all (fun c => !c.wf) = true := by decide +kernel
/-- Structures of RDMA, replication and the rest. -/
theorem test_wf_messages : [Instr.qpContextChange 5 1 { ctx with destQpn := 2 ^ 24 } [], .qpContextChange 5 1 ctx [{ win with bus := 2 ^ 64 }],
    .qpSend 5 { wrq with option := 256 }, .rdmaRequest { wreq with port := 2 },
    .fpBatch 4 0 false [{ (item 0).ent with loc := 2 ^ 64 }], .offer 4 { offer with part := 2 },
    .doorbellPoll 0 [⟨4096, 0, 0, []⟩], .hbmUncorrectable 0 (.ckptReceive 2), .hbmUncorrectable 0 (.dupRecord 16384), .patrolRead [] 0 .other,
    .hostAccessError (.cplWrite 4096), .hostAccessError (.descFetch 0 65536), .sensorRead { sense with rings := [] }, .avsRetry (some (65536, 0)),
    .thermalSample [40], .thermalTrip 32 115].all (fun c => !c.wf) = true := by decide +kernel
/-- Terms that are well formed. -/
theorem test_wf_accepts : [Instr.registerWrite 0 4 0, .alloc 31 false, .stripWriteComplete 1 17, .driveLinkLoss 47, .nop (hdr 4095),
    .driveAdmit (hdr 5) 3 good, .mirrorRec env0 (pairRec 1) (some cutState) true, .takeOpen (hdr 1) openReq, .qpSend 5 wrq, .offer 4 offer].all Instr.wf = true := by
  decide
/-- No row of the table has bits. -/
theorem test_decode_none : decodeTableWord 32 0 = none ∧ (State.reset.withFetchWord 32 0).pending = [] := ⟨rfl, rfl⟩

end Sys2Proof.Tests
end

section
/-! PROOF. What every step keeps of HBM: the commands that store to it, and all others (R353, R354). -/

namespace Sys2Proof.Machine
open Sys2Proof

/-- A command that does not store to HBM goes on to a state of which the head alone may differ. -/
theorem exec_next_dev {c : Instr} (q : Blk.storesHbm c = false) (s : State) : ∃ d, exec c s = .next { s with dev := d } := by
  cases c
  case registerWrite | regionTableWrite | cacheDrainDone | porNAssert | hbmUncorrectable | patrolRead | writeBufferDrain | clean | inval
      | cleanInval | cleanRegion | cleanInvalRegion | cacheParityError | tileEncode | dmaBurst | keyConfirm | checkpointTimer =>
    simp [Blk.storesHbm] at q
  all_goals exact ⟨_, rfl⟩

theorem execClean_wf {a : Nat} {s t : State} (w : Memory.wf s.hbm = true) (h : execClean a s = .next t) : Memory.wf t.hbm = true := by
  unfold execClean at h
  split at h
  · cases h
    exact liveState_wf _ s w fun x k => cleanLines_wf _ x k
  · cases h

theorem execInval_wf {a : Nat} {s t : State} (w : Memory.wf s.hbm = true) (h : execInval a s = .next t) : Memory.wf t.hbm = true := by
  unfold execInval at h
  split at h
  · cases h
    refine liveState_wf _ s w fun x k => ?_
    rw [maintDone_hbm]
    split
    · exact cleanLines_wf _ x k
    · exact dropLines_wf _ x k
  · cases h

theorem execCleanInval_wf {a : Nat} {s t : State} (w : Memory.wf s.hbm = true) (h : execCleanInval a s = .next t) :
    Memory.wf t.hbm = true := by
  unfold execCleanInval at h
  split at h
  · cases h
    refine liveState_wf _ s w fun x k => ?_
    rw [maintDone_hbm]
    exact dropLines_wf _ _ (cleanLines_wf _ x k)
  · cases h

theorem execDmaBurst_wf {b : List Byte} {p : Bool} {s t : State} (w : Memory.wf s.hbm = true) (h : execDmaBurst b p s = .next t) :
    Memory.wf t.hbm = true := by
  cases h
  split
  · exact syncHot_wf s w
  · exact w

theorem execTileEncode_wf {g : Fin 4} {s t : State} (w : Memory.wf s.hbm = true) (h : execTileEncode g s = .next t) :
    Memory.wf t.hbm = true := by
  unfold execTileEncode at h
  split at h
  · split at h
    · cases h; exact w
    · cases h
      exact syncHot_wf _ (cacheRead_wf _ _ _ (cacheRead_wf _ _ _ (syncHot_wf s w)))
  · cases h; exact w

/-- Every command that goes on keeps HBM in its canonical form. -/
theorem exec_keeps_wf {c : Instr} {s t : State} (w : Memory.wf s.hbm = true) (h : exec c s = .next t) : Memory.wf t.hbm = true := by
  by_cases q : Blk.storesHbm c = false
  · obtain ⟨d, e⟩ := exec_next_dev q s
    cases e.symm.trans h
    exact w
  · cases c
    case registerWrite => cases h; exact barWrite_wf _ _ _ s w
    case regionTableWrite =>
      cases h
      split
      · exact barWrite_wf _ _ _ s w
      · exact w
    case cacheDrainDone =>
      cases h
      refine liveState_wf _ s w fun x k => ?_
      split
      · exact endDrain_wf x k
      · exact k
    case porNAssert => cases h; rfl
    case hbmUncorrectable => cases h; exact liveState_wf _ s w fun x k => hbmPoison_wf _ _ x k
    case patrolRead => cases h; exact liveState_wf _ s w fun x k => patrolRead_wf _ _ _ x k
    case cacheParityError => cases h; exact liveState_wf _ s w fun x k => parityError_wf _ _ _ x k
    case writeBufferDrain => cases h; exact liveState_wf _ s w fun x k => drainOne_wf x k
    case clean => exact execClean_wf w h
    case inval => exact execInval_wf w h
    case cleanInval => exact execCleanInval_wf w h
    case cleanRegion => cases h; exact liveState_wf _ s w fun x k => cleanLines_wf _ x k
    case cleanInvalRegion =>
      cases h
      refine liveState_wf _ s w fun x k => ?_
      rw [maintDone_hbm]
      exact dropLines_wf _ _ (cleanLines_wf _ x k)
    case dmaBurst => exact execDmaBurst_wf w h
    case tileEncode => exact execTileEncode_wf w h
    case keyConfirm => cases h; exact stagedState_wf _ s w
    case checkpointTimer => cases h; exact stagedState_wf _ s w
    all_goals exact absurd rfl q

/-- Settles O4: a step is a nanosecond, which leaves HBM alone, or the command at the front of the queue. -/
theorem stepKeepsCanonicalHbm : Obligations.StepKeepsCanonicalHbm := by
  unfold Obligations.StepKeepsCanonicalHbm
  intro s t w h
  unfold step at h
  split at h
  · cases h; exact w
  · next c rest _ => exact exec_keeps_wf (s := { s with pending := rest }) w h

end Sys2Proof.Machine
end

section
/-! PROOF. What no command but the edges of POR_N does: sample HEAD_ID (R17) or end a fatal stop (R407). One lemma for each operation that
changes pins, reset or power state. -/

namespace Sys2Proof.Machine
open Sys2Proof

variable {D d e : Dev}

/-- From `D` to `d` nothing has happened that only POR_N undoes or does: HEAD_ID stands as it was sampled (R17), and a fatal stop goes
on (R407). -/
structure Lasts (D d : Dev) : Prop where
  headB : d.glb.headB = D.glb.headB
  fatal : D.glb.fatal = true → d.glb.fatal = true

/-- Every part of the head but its pins, its reset and its power state. -/
def Blk.butGlb : List Blk :=
  [.out, .now, .free, .regs, .sl, .lg, .audit, .pipes, .vault, .vcnt, .cat, .disk, .ciph, .dgst, .hif, .tango, .ih, .rdma, .rcnt, .repl,
    .bpm, .mca, .dma, .evr, .mnt, .boot]

namespace Lasts

theorem refl (d : Dev) : Lasts d d := ⟨rfl, id⟩

theorem trans (h : Lasts D d) (k : Lasts d e) : Lasts D e := ⟨k.headB.trans h.headB, k.fatal ∘ h.fatal⟩

theorem after (k : Lasts d e) (h : Lasts D d) : Lasts D e := h.trans k

theorem of_glb (h : d.glb = D.glb) : Lasts D d := ⟨by rw [h], by rw [h]; exact id⟩

/-- A change after which HEAD_ID and the fatal stop are what they were. -/
theorem of_pins (h : d.glb.headB = D.glb.headB) (k : d.glb.fatal = D.glb.fatal) : Lasts D d := ⟨h, by rw [k]; exact id⟩

theorem ite {p : Prop} [Decidable p] (h : Lasts D d) (k : Lasts D e) : Lasts D (if p then d else e) := by
  split
  · exact h
  · exact k

theorem each {α : Type} {f : α → Dev → Dev} (h : ∀ a x, Lasts x (f a x)) (l : List α) (d : Dev) : Lasts d (each f l d) := by
  induction l generalizing d with
  | nil => exact refl d
  | cons a t ih => exact (h a d).trans (ih (f a d))

theorem foldl {α : Type} {f : Dev → α → Dev} (h : ∀ x a, Lasts x (f x a)) (l : List α) (d : Dev) : Lasts d (l.foldl f d) :=
  each (f := fun a x => f x a) (fun a x => h x a) l d

theorem when {p : Bool} {f : Dev → Dev} (h : Lasts d (f d)) : Lasts d (when p f d) := ite h (refl d)

end Lasts

theorem Keeps.ite {L : List Blk} {p : Prop} [Decidable p] (h : Keeps L D d) (k : Keeps L D e) : Keeps L D (if p then d else e) := by
  split
  · exact h
  · exact k

theorem Keeps.lasts (h : Keeps Blk.butGlb D d) : Lasts D d := .of_glb (h .glb (by decide))

/-! ## Stops -/

theorem holdHead_lasts (d : Dev) : Lasts d (holdHead d) := by
  unfold holdHead
  dsimp only
  split
  · exact (complete_k rfl (.refl _ d)).lasts.trans (.of_pins rfl rfl)
  · exact .of_pins rfl rfl

theorem writeBodies_lasts (d : Dev) : Lasts d (writeBodies d) := by
  unfold writeBodies
  split
  · exact holdHead_lasts d
  · split
    · exact holdHead_lasts d
    · exact (emits_k rfl (onVault_k rfl (.refl _ d))).lasts

theorem endDump_lasts (d : Dev) : Lasts d (endDump d) := by
  unfold endDump
  split
  · exact holdHead_lasts d
  · exact .refl d

theorem haltHead_lasts (d : Dev) : Lasts d (haltHead d) := by
  unfold haltHead
  have told : Lasts d (emit .slIdle (tangoNow 0 (.leaving 2) d)) := (emit_k rfl (tangoNow_k rfl (.refl _ d))).lasts
  exact told.trans ⟨rfl, fun _ => rfl⟩

theorem fatalStop_lasts (code : Nat) (inst : W32) (words : List W32) (noDump : Bool) (d : Dev) :
    Lasts d (fatalStop code inst words noDump d) := by
  unfold fatalStop
  have halts : Lasts d (fatalRecord code inst words (haltHead d)) := (haltHead_lasts d).trans (fatalRecord_k rfl (.refl _ _)).lasts
  split
  · exact (fatalRecord_k rfl (.refl _ d)).lasts
  · exact .ite (halts.trans (onVault_k rfl (.refl _ _)).lasts) (.ite (halts.trans (writeBodies_lasts _)) halts)

theorem reducePower_lasts (cause : Nat) (d : Dev) : Lasts d (reducePower cause d) := by
  have idles : Lasts d (emit .slIdle (tangoSend 0 (.leaving cause) d)) := (emit_k rfl (tangoSend_k rfl (.refl _ d))).lasts
  exact idles.trans (.of_pins rfl rfl)

theorem powerFail_lasts (d : Dev) : Lasts d (powerFail d) := by
  unfold powerFail
  have fails : Lasts d (onGlb (fun g => { g with pwrfail := true }) d) := .of_pins rfl rfl
  exact .ite (fails.trans (reducePower_lasts 0 _)) fails

theorem freezeJournal_lasts (d : Dev) : Lasts d (freezeJournal d) :=
  (tangoSend_k rfl (.refl _ d)).lasts.trans (writeBodies_lasts _)

theorem doShutdown_lasts (h : Hdr) (d : Dev) : Lasts d (doShutdown h d) :=
  .trans (d := onGlb (fun g => { g with shut := some h }) d) (.of_pins rfl rfl) (reducePower_lasts 1 _)

theorem entropyFail_lasts (i : Fin 6) (d : Dev) : Lasts d (entropyFail i d) := by
  unfold entropyFail
  refine .trans ?_ (fatalStop_lasts _ _ _ _ _)
  exact .ite (.refl d) (.of_pins rfl rfl)

theorem auditTick_lasts (d : Dev) : Lasts d (auditTick d) := by
  unfold auditTick
  dsimp only
  refine .ite ?_ ?_
  · exact (tickWork_k rfl (upd_now_audit rfl (.refl _ d))).lasts
  · exact (fatalStop_lasts _ _ _ _ _).after (.of_pins rfl rfl)

/-! ## Drive ports -/

theorem startPorts_lasts (l : List DriveInfo) (d : Dev) : Lasts d (startPorts l d) := by
  unfold startPorts
  dsimp only
  refine .ite (.refl d) (.trans (d := { d with glb := { d.glb with dpStarted := true } }) (.of_pins rfl rfl) (.ite ?_ ?_))
  · exact (resumeAll_k rfl (admitAll_k rfl (readDisk_k rfl (foldl_k (fun _ _ q => onDrive_k rfl q) (.refl _ _))))).lasts
  · exact (resumeAll_k rfl (readDisk_k rfl (.refl _ _))).lasts

theorem doDrivePort_lasts (h : Hdr) (port action : Nat) (info : List DriveInfo) (d : Dev) :
    Lasts d (doDrivePort h port action info d) := by
  unfold doDrivePort
  refine .ite ((startPorts_lasts info d).trans ?_) ((startPorts_lasts info d).trans ?_)
  · exact (complete_k rfl (admitAll_k rfl (each_k (fun _ _ q => noteLink_k rfl q) (onDrive_k rfl (.refl _ _))))).lasts
  · exact (complete_k rfl (onDrive_k rfl (.refl _ _))).lasts

theorem dpCfgWrite_lasts (v : W32) (l : List DriveInfo) (d : Dev) : Lasts d (dpCfgWrite v l d) :=
  (startPorts_lasts l _).after (.ite (.refl d) (.of_pins rfl rfl))

theorem doLayoutLoad_lasts (h : Hdr) (id recLen : Nat) (rec : LayoutRec) (info : List DriveInfo) (d : Dev) :
    Lasts d (doLayoutLoad h id recLen rec info d) := by
  unfold doLayoutLoad
  dsimp only
  have starts := startPorts_lasts info d
  generalize startPorts info d = x at starts ⊢
  have done (st : Nat) (r0 r1 : W64) : Lasts d (complete h 0x10 st r0 r1 x) := starts.trans (complete_k rfl (.refl _ x)).lasts
  refine .ite (complete_k rfl (.refl _ d)).lasts (.ite (done _ _ _) (.ite (done _ _ _) ?_))
  refine starts.trans (complete_k rfl (writeLabels_k rfl ?_)).lasts
  have loads (f : Vault → Vault) (l : List DriveInfo) : Keeps Blk.butGlb x (onVault f (admitAll l x)) :=
    onVault_k rfl (admitAll_k rfl (.refl _ x))
  split
  · exact drawn_k rfl (onVault_k rfl (loads _ _))
  · exact loads _ _

/-! ## Triggers and packets -/

theorem takeTrigger_lasts (t : Take) (source group : Nat) (id : W32) (f : W16) (time : Option W64) (place : W32) (d : Dev) :
    Lasts d (takeTrigger t source group id f time place d) := by
  unfold takeTrigger
  split
  · exact .refl d
  next l _ =>
    have pins : Keeps Blk.butGlb d (match time with | some x => pinTrigger l t x d | none => (d, 5, 0)).1 := by
      split
      · exact pinTrigger_k rfl (.refl _ d)
      · exact .refl _ d
    dsimp only
    refine (tangoSend_k rfl (.refl _ _)).lasts.after ?_
    have noted (f : Take → Take) := onTake_k (v := t.volume) (id := t.id) (f := f) rfl pins
    have pulses (x : Dev) : Lasts x { x with glb := { x.glb with trigOut := true } } := .of_pins rfl rfl
    refine .ite ((pulses _).after (Keeps.lasts ?_)) (Keeps.lasts ?_)
    all_goals exact .ite (logEvent_k rfl (noted _)) (noted _)

theorem doTrigger_lasts (h : Hdr) (id : Nat) (trigId : W32) (time : W64) (since : Nat) (d : Dev) :
    Lasts d (doTrigger h id trigId time since d) := by
  unfold doTrigger
  split
  · exact (complete_k rfl (.refl _ d)).lasts
  · refine .ite (complete_k rfl (.refl _ d)).lasts (.ite (complete_k rfl (.refl _ d)).lasts ?_)
    exact (takeTrigger_lasts _ _ _ _ _ _ _ d).trans (complete_k rfl (.refl _ _)).lasts

theorem trigIn_lasts (since : Nat) (d : Dev) : Lasts d (trigIn since d) := by
  unfold trigIn
  refine .ite (.refl d) ?_
  exact .trans (d := onCat _ d) (.of_pins rfl rfl) (.foldl (fun x t => takeTrigger_lasts _ _ _ _ _ _ _ x) _ _)

theorem landTrigger_lasts (g : Fin 4) (p : Packet) (d : Dev) : Lasts d (landTrigger g p d) := by
  unfold landTrigger
  refine .ite ?_ (.refl d)
  split
  · exact takeTrigger_lasts _ _ _ _ _ _ _ d
  · exact .refl d

theorem landPacket_lasts (g : Fin 4) (p : Packet) (d : Dev) : Lasts d (landPacket g p d) :=
  .trans (onGroup_k rfl (onLedger_k rfl (.refl _ d))).lasts (landTrigger_lasts g p _)

theorem newSlot_lasts (g : Fin 4) (p : Packet) (d : Dev) : Lasts d (newSlot g p d) := by
  unfold newSlot
  dsimp only
  have gap : Keeps Blk.butGlb d (revealGap g p.gsn d) := revealGap_k rfl (.refl _ d)
  have next : Keeps Blk.butGlb d (onLedger g (fun x => { x with expect := p.gsn + 1 }) (revealGap g p.gsn d)) := onLedger_k rfl gap
  refine .ite (onLedger_k rfl gap).lasts (.ite ?_ (.ite ?_ ?_))
  · exact (onGroup_k rfl (onLedger_k rfl (onGroup_k rfl next))).lasts
  · exact (onGroup_k rfl (onLedger_k rfl next)).lasts
  · exact next.lasts.trans (landPacket_lasts g p _)

theorem slotPacket_lasts (g : Fin 4) (p : Packet) (d : Dev) : Lasts d (slotPacket g p d) := by
  unfold slotPacket
  refine .ite (onGroup_k rfl (.refl _ d)).lasts (.ite (onGroup_k rfl (.refl _ d)).lasts ?_)
  exact .trans (onGroup_k rfl (noteStamp_k rfl (.refl _ d))).lasts (newSlot_lasts g p _)

theorem receiveAsRecorder_lasts (g : Fin 4) (p : Packet) (d : Dev) : Lasts d (receiveAsRecorder g p d) := by
  unfold receiveAsRecorder
  have stamped : Keeps Blk.butGlb d (noteStamp g p d) := noteStamp_k rfl (.refl _ d)
  have gap : Keeps Blk.butGlb d (revealGap g p.gsn (noteStamp g p d)) := revealGap_k rfl stamped
  refine .ite (.ite (answerOffer_k rfl stamped).lasts (.refl d)) (.ite (slotPacket_lasts g p d) (.ite ?_ (.ite ?_ (.refl d))))
  · exact .ite (stopDone_k rfl gap).lasts (.refl d)
  · exact .ite gap.lasts stamped.lasts

theorem receiveAsPlayer_lasts (g : Fin 4) (p : Packet) (d : Dev) : Lasts d (receiveAsPlayer g p d) := by
  unfold receiveAsPlayer
  refine .ite (takeGrant_k rfl (.refl _ d)).lasts (.ite (slotPacket_lasts g p d) (.ite ?_ (.ite ?_ (.refl d))))
  · exact .ite (playCredit_k rfl (.refl _ d)).lasts (.refl d)
  · exact .ite (playStopReq_k rfl (.refl _ d)).lasts (.refl d)

theorem checked_lasts {f : Dev → Dev} (h : ∀ x, Lasts x (f x)) (g : Fin 4) (p : Packet) (d : Dev) : Lasts d (checked g p f d) := by
  unfold checked
  dsimp only
  refine .ite ?_ (.refl d)
  have counted (a : Group → Group) : Keeps Blk.butGlb d (onGroup g a d) := onGroup_k rfl (.refl _ d)
  refine .ite (counted _).lasts ?_
  split
  · exact (faultyPacket_k rfl (counted _)).lasts
  · exact (onGroup_k rfl (counted _)).lasts.trans (h _)

/-! ## The pair -/

theorem takeOver_lasts (t : TakeoverIn) (gs : List (Fin 4)) (d : Dev) : Lasts d (takeOver t gs d) := by
  unfold takeOver
  have fenced : Keeps Blk.butGlb d (fence t (d.epochSeen t + 1) (each (fun s x => failDrive s none x) t.failed d)) :=
    fence_k rfl (each_k (fun _ _ q => failDrive_k rfl q) (.refl _ d))
  refine .ite (fatalStop_lasts _ _ _ _ d) (.ite ?_ ?_)
  · exact (endTakeover_k rfl (takeGroups_k rfl (confirmAll_k rfl fenced))).lasts
  · exact (stepDown_k rfl (onTango_k rfl fenced)).lasts

theorem detect_lasts (t : TakeoverIn) (d : Dev) : Lasts d (detect t d) := by
  unfold detect
  refine .ite (stepDown_k rfl (.refl _ d)).lasts (.ite ?_ (.ite (.refl d) (takeOver_lasts t _ d)))
  exact (notifyAll_k rfl (onTango_k rfl (.refl _ d))).lasts

theorem partnerSilent_lasts (t : TakeoverIn) (d : Dev) : Lasts d (partnerSilent t d) :=
  (detect_lasts t _).after (logEvent_k rfl (onTango_k rfl (.refl _ d))).lasts

theorem fenceRetry_lasts (t : TakeoverIn) (d : Dev) : Lasts d (fenceRetry t d) :=
  .ite (takeOver_lasts t _ d) (.ite (onTango_k rfl (.refl _ d)).lasts (takeOver_lasts t _ d))

theorem leaving_lasts (cause : Nat) (t : TakeoverIn) (d : Dev) : Lasts d (leaving cause t d) := by
  have told (f : Tango → Tango) : Lasts d (onTango f d) := (onTango_k rfl (.refl _ d)).lasts
  exact .ite ((detect_lasts t _).after (told _)) (told _)

theorem frozen_lasts (t : TakeoverIn) (d : Dev) : Lasts d (frozen t d) :=
  .ite ((detect_lasts t _).after (onTango_k rfl (.refl _ d)).lasts) (.refl d)

theorem handoverTimeout_lasts (t : TakeoverIn) (d : Dev) : Lasts d (handoverTimeout t d) := by
  unfold handoverTimeout
  split
  · exact .refl d
  have fenced : Keeps Blk.butGlb d (fence t (d.epochSeen t + 1) (each (fun s x => failDrive s none x) t.failed d)) :=
    fence_k rfl (each_k (fun _ _ q => failDrive_k rfl q) (.refl _ d))
  refine .ite (.refl d) (.ite ?_ (.ite (stepDown_k rfl (.refl _ d)).lasts (.ite (fatalStop_lasts _ _ _ _ d) (.ite ?_ ?_))))
  · exact (each_k (fun _ _ q => consume_k rfl q) (dropHand_k rfl (.refl _ d))).lasts
  · exact (endTakeover_k rfl (takeGroups_k rfl (confirmAll_k rfl fenced))).lasts
  · exact (stepDown_k rfl (onTango_k rfl fenced)).lasts

theorem claimGroups_lasts (n : Nat) (gs : List (Fin 4)) (e : Nat) (d : Dev) : Lasts d (claimGroups n gs e d) := by
  refine .ite (fatalStop_lasts _ _ _ _ d) (Keeps.lasts (each_k (fun _ _ q => refreshLimit_k rfl q) ?_))
  exact acquireAll_k rfl (registerAll_k rfl (each_k (fun _ _ q => freshOwn_k rfl q) (setTable_k rfl (.refl _ d))))

theorem helloRetry_lasts (d : Dev) : Lasts d (helloRetry d) := by
  have greets : Lasts d (sendHello d) := (sendHello_k rfl (.refl _ d)).lasts
  exact .ite ((claimGroups_lasts _ _ _ _).after greets) greets

theorem announce_lasts (d : Dev) : Lasts d (announce d) :=
  .ite (fatalStop_lasts _ _ _ _ d) (sendCkpt_k rfl (sendTable_k rfl (setTable_k rfl (.refl _ d)))).lasts

theorem sessionUp_lasts (d : Dev) : Lasts d (sessionUp d) := by
  unfold sessionUp
  have up (f : Tango → Tango) : Keeps Blk.butGlb d (notePairings (resetBases (onTango f d))) :=
    notePairings_k rfl (resetBases_k rfl (onTango_k rfl (.refl _ d)))
  exact .ite ((announce_lasts _).after (up _).lasts) (.ite (sendTable_k rfl (up _)).lasts (up _).lasts)

theorem startTango_lasts (t : TakeoverIn) (dumps : List DumpIn) (d : Dev) : Lasts d (startTango t dumps d) := by
  unfold startTango
  refine .ite (.refl d) ?_
  have past : Keeps Blk.butGlb d (match bestDump d.glb.headB dumps with
      | some x => onTango (fun t => { t with epochMax := max t.epochMax (dumpEpoch x) }) (pastDump x d)
      | none => d) := by
    split
    · exact onTango_k rfl (pastDump_k rfl (.refl _ d))
    · exact .refl _ d
  have starts (f : Tango → Tango) := onTango_k (f := f) rfl past
  refine .ite (sendHello_k rfl (onTango_k rfl (starts _))).lasts ?_
  refine Lasts.trans ?_ (advanceTakes_k rfl (startFromDump_k rfl (onTango_k rfl (fitCeiling_k rfl (.refl _ _))))).lasts
  exact (claimGroups_lasts _ _ _ _).after (starts _).lasts

theorem startupExpiry_lasts (t : TakeoverIn) (dumps : List DumpIn) (d : Dev) : Lasts d (startupExpiry t dumps d) := by
  unfold startupExpiry
  have fenced : Keeps Blk.butGlb d (startFence t (d.epochSeen t + 1) (each (fun s x => failDrive s none x) t.failed d)) :=
    startFence_k rfl (each_k (fun _ _ q => failDrive_k rfl q) (.refl _ d))
  refine .ite (fatalStop_lasts _ _ _ _ d) (.ite (stepDown_k rfl (onTango_k rfl fenced)).lasts (Keeps.lasts ?_))
  refine fitCeiling_k rfl (each_k (fun _ _ q => refreshLimit_k rfl q) (endTakeover_k rfl (startFromDump_k rfl ?_)))
  exact confirmAll_k rfl (onTango_k rfl (each_k (fun _ _ q => freshOwn_k rfl q) (setTable_k rfl fenced)))

theorem tangoIn_lasts {f : Dev → Dev} (h : ∀ x, Lasts x (f x)) (qp type : Nat) (exempt : Bool) (epoch : Nat) (e : Env) (d : Dev) :
    Lasts d (tangoIn qp type exempt epoch e f d) := by
  unfold tangoIn
  have noted (a : Tango → Tango) : Keeps Blk.butGlb d (onTango a d) := onTango_k rfl (.refl _ d)
  have acts := (h _).after (noted (fun t => { t with rxSeqs := tput t.rxSeqs qp (next64 e.seq.toNat) })).lasts
  refine .ite (tangoBad_k rfl (.refl _ d)).lasts (.ite (refuseMsg_k rfl (noted _)).lasts (.ite acts ?_))
  exact .ite (roleRefuse_k rfl (noted _)).lasts (.ite (roleRefuse_k rfl (noted _)).lasts acts)

/-! ## Descriptors -/

theorem descriptor_lasts {body : Dev → Dev} (h : ∀ x, Lasts x (body x)) (op : Byte) (ct : List Nat) (hd : Hdr) (v : Bool) (d : Dev) :
    Lasts d (descriptor op ct hd v body d) := by
  unfold descriptor descriptorWhen
  have picks : Keeps Blk.butGlb d (pickupWhen true hd op d).1 := (pickupWhen_keeps true hd op d).mono (by decide)
  refine .ite ?_ (.refl d)
  generalize pickupWhen true hd op d = y at picks ⊢
  obtain ⟨x, _ | _⟩ := y
  · exact picks.lasts
  · exact .ite (picks.lasts.trans (h x)) (complete_k rfl picks).lasts

/-! ## Host reset, boot and the lock -/

theorem hostReset_lasts (d : Dev) : Lasts d (hostReset d) := by
  unfold hostReset
  refine (resetQps_k rfl (.refl _ _)).lasts.after (.trans (Keeps.lasts (each_k (fun c x k => ?_) ?_)) (.of_pins rfl rfl))
  · split
    · exact settled_k rfl (onHif_k rfl k)
    · exact teardown_k rfl (markDying_k rfl k)
  · exact onHif_k rfl (onChan_k rfl (.refl _ d))

theorem perst_lasts (d : Dev) : Lasts d (perst d) := (hostReset_lasts d).trans (.of_pins rfl rfl)

theorem perstHigh_lasts (d : Dev) : Lasts d (perstHigh d) := .of_pins rfl rfl

theorem recovery_lasts (card : Option Image) (d : Dev) : Lasts d (recovery card d) := by
  have logged : Keeps Blk.butGlb d (logRecovery d) := logRecovery_k rfl (.refl _ d)
  have halts : Lasts d (recovery.haltBoot (logRecovery d)) := logged.lasts.trans (.of_pins rfl rfl)
  unfold recovery
  split
  · exact .ite (runImage_k rfl (measureImage_k rfl (writeDir_k rfl (onBoot_k rfl logged)))).lasts halts
  · exact halts

theorem fallBack_lasts (slot : Nat) (card : Option Image) (d : Dev) : Lasts d (fallBack slot card d) := by
  unfold fallBack
  refine .ite ?_ (recovery_lasts card d)
  have loads : Keeps Blk.butGlb d (loadSlot (otherSlot slot) false d).2 := loadSlot_k rfl (.refl _ d)
  generalize loadSlot (otherSlot slot) false d = y at loads ⊢
  obtain ⟨_ | i, x⟩ := y
  · exact loads.lasts.trans (recovery_lasts card x)
  · exact (runImage_k rfl (logEvent_k rfl (onBoot_k rfl loads))).lasts

theorem bootFrom_lasts (card : Option Image) (d : Dev) : Lasts d (bootFrom card d) := by
  unfold bootFrom
  have chosen : Keeps Blk.butGlb d (chooseSlot (onBoot (fun b => { b with stage := 1 }) d)).2 := chooseSlot_k rfl (onBoot_k rfl (.refl _ d))
  generalize chooseSlot (onBoot (fun b => { b with stage := 1 }) d) = y at chosen ⊢
  obtain ⟨_ | s, x⟩ := y
  · exact chosen.lasts.trans (recovery_lasts card x)
  · have loads : Keeps Blk.butGlb d (loadSlot s true x).2 := loadSlot_k rfl chosen
    dsimp only
    generalize loadSlot s true x = z at loads ⊢
    obtain ⟨_ | i, u⟩ := z
    · exact (fallBack_lasts _ _ _).after (rejectSlot_k rfl loads).lasts
    · exact (runImage_k rfl loads).lasts

theorem endHold_lasts (card : Option Image) (d : Dev) : Lasts d (endHold card d) := (bootFrom_lasts card _).after (.of_pins rfl rfl)

theorem doFwActivate_lasts (h : Hdr) (d : Dev) : Lasts d (doFwActivate h d) := by
  have refused : Lasts d (complete h 0x21 6 0 0 (rejectSlot (otherSlot d.boot.slot) d)) :=
    (complete_k rfl (rejectSlot_k rfl (.refl _ d))).lasts
  unfold doFwActivate
  refine .ite (complete_k rfl (.refl _ d)).lasts ?_
  split
  · exact refused
  · refine .ite refused ?_
    have pauses (x : Dev) : Lasts x (onGlb (fun g => { g with pauseAt := d.now }) x) := .of_pins rfl rfl
    refine (measureImage_k rfl (.refl _ _)).lasts.after ((pauses _).after (onBoot_k rfl ?_).lasts)
    exact .ite (setSlot_k rfl (.refl _ d)) (.refl _ d)

theorem undoActivation_lasts (silent : Bool) (t : TakeoverIn) (d : Dev) : Lasts d (undoActivation silent t d) := by
  unfold undoActivation
  split
  · exact .refl d
  · have undone (f : Boot → Boot) (w : List W32) (a : W32) : Keeps Blk.butGlb d (drawn (logEvent 0x0E08 a w (onBoot f d))) :=
      drawn_k rfl (logEvent_k rfl (onBoot_k rfl (.refl _ d)))
    refine .ite ?_ ?_
    · exact (partnerSilent_lasts t _).after (complete_k rfl (setSlot_k rfl (undone _ _ _))).lasts
    · exact (complete_k rfl (logReject_k rfl (setSlot_k rfl (undone _ _ _)))).lasts

theorem firstLock_lasts (t : TakeoverIn) (dumps : List DumpIn) (d : Dev) : Lasts d (firstLock t dumps d) := by
  unfold firstLock
  refine (startTango_lasts t dumps _).after ((startPorts_lasts [] _).after ?_)
  exact (each_k (fun _ _ q => linkUp_k rfl q) (.refl _ _)).lasts.after (.of_pins rfl rfl)

theorem lockWrite_lasts (v : W32) (t : TakeoverIn) (dumps : List DumpIn) (d : Dev) : Lasts d (lockWrite v t dumps d) :=
  .ite (.refl d) (.ite (firstLock_lasts t dumps d) (.ite (.of_pins rfl rfl) (.refl d)))

theorem storeReg_lasts (r : SetReg) (v : Nat) (d : Dev) : Lasts d (storeReg r v d) := by
  cases r
  case lock => exact .ite (lockWrite_lasts _ _ _ d) (.refl d)
  case adminCtl => exact (writeAdminCtl_k rfl (.refl _ d)).lasts
  case dpCfg => exact dpCfgWrite_lasts _ _ d
  case mcaCtl => exact (writeEnable_k rfl (.refl _ d)).lasts
  case rate => exact (writeRate_k rfl (.refl _ d)).lasts
  case secCtl => exact .ite (.of_pins rfl rfl) (.refl d)
  all_goals exact .of_pins rfl rfl

/-! ## What reads or writes HBM -/

theorem poisoned_lasts (a : Nat) (h : HbmHolder) (d : Dev) : Lasts d (poisoned a h d) := by
  have counted : Keeps Blk.butGlb d (onMca (fun m => { m with hbmUe := m.hbmUe + 1 }) d) := onMca_k rfl (.refl _ d)
  have drew := drawn_k rfl counted
  cases h
  case rawSlot => exact (consume_k rfl (poisonRing_k rfl counted)).lasts
  case standbySlot => exact (poisonRing_k rfl counted).lasts
  case storedTile => exact (poisonTile_k rfl counted).lasts
  case replayBuffer => exact (rereadTile_k rfl counted).lasts
  case replReceive => exact (poisonReceive_k rfl counted).lasts
  case dupRecord => exact (poisonDup_k rfl counted).lasts
  case journal | mirror | metaArea => exact (fatalStop_lasts _ _ _ _ _).after drew.lasts
  case other => exact (logEvent_k rfl drew).lasts
  all_goals exact .of_pins rfl rfl

theorem syncHot_lasts (s : State) : Lasts s.dev (syncHot s).dev := (syncHot_k rfl (.refl _ s.dev)).lasts

theorem liveState_lasts {f : State → State} (h : ∀ x, Lasts x.dev (f x).dev) (s : State) : Lasts s.dev (liveState f s).dev := by
  unfold liveState
  split
  · exact (syncHot_lasts s).trans (h _)
  · exact .refl _

theorem stagedState_lasts {f : Dev → Dev} {s : State} (h : Lasts s.dev (f s.dev)) : Lasts s.dev (stagedState f s).dev := by
  unfold stagedState
  dsimp only
  split
  · exact h
  · exact (maintDone_k rfl (cleanLines_k rfl (syncHot_k rfl (.refl _ _)))).lasts.after h

theorem hbmPoison_lasts (a : Nat) (h : HbmHolder) (s : State) : Lasts s.dev (hbmPoison a h s).dev := by
  unfold hbmPoison
  dsimp only
  split
  · exact (writeLines_k rfl (.refl _ _)).lasts.after (poisoned_lasts a (.hotIndex _) s.dev)
  · exact poisoned_lasts a h s.dev

theorem patrolRead_lasts (err : List Byte) (onDie : Bool) (h : HbmHolder) (s : State) : Lasts s.dev (patrolRead err onDie h s).dev := by
  have on : Keeps Blk.butGlb s.dev (patrolOn s.dev) := patrolOn_k rfl (.refl _ _)
  unfold patrolRead
  dsimp only
  split
  · exact .refl _
  split
  · exact (hbmPoison_lasts _ h _).after on.lasts
  · exact on.lasts
  split
  · exact (countCe_k rfl on).lasts
  · exact (countCe_k rfl on).lasts

theorem parityError_lasts (set way : Nat) (e : ParityErr) (s : State) : Lasts s.dev (parityError set way e s).dev := by
  unfold parityError
  split
  · exact .refl _
  split
  · exact (refetch_k rfl (.refl _ _)).lasts
  · exact fatalStop_lasts _ _ _ _ _

theorem putReg_lasts (r : SetReg) (a n : Nat) (x : W64) (v : Nat) (s : State) : Lasts s.dev (putReg r a n x v s).dev := by
  unfold putReg
  split
  · exact (writeRegion_k rfl (.refl _ _)).lasts
  · exact (writeCursor_k rfl (.refl _ _)).lasts
  · exact storeReg_lasts r v s.dev

theorem barWrite_lasts (a n : Nat) (x : W64) (s : State) : Lasts s.dev (barWrite a n x s).dev := by
  have put (r : SetReg) (v : Nat) (f : Regs → Regs) : Lasts s.dev (putReg r a n x v { s with dev := onRegs f s.dev }).dev :=
    (putReg_lasts r a n x v _).after (onRegs_k rfl (.refl _ _)).lasts
  unfold barWrite
  split
  case isFalse => exact .refl _
  split
  · exact .refl _
  dsimp only
  split
  · exact .refl _
  split
  · split
    · exact (stageLow_k rfl (.refl _ _)).lasts
    split
    · exact put _ _ _
    · exact .of_pins rfl rfl
  · split
    · exact putReg_lasts _ _ _ _ _ s
    · exact .refl _

/-! ## Commands -/

/-- What a command that goes on can have changed of the head. -/
theorem exec_touched {c : Instr} {s t : State} (h : exec c s = .next t) : Keeps (Blk.touched c) s.dev t.dev := by
  cases c with
  | registerWrite => exact execRegisterWrite_frame rfl h
  | glbLock => exact execGlbLock_frame rfl h
  | dpCfgWrite => exact execDpCfgWrite_frame rfl h
  | adminEnable => exact execAdminEnable_frame rfl h
  | adminStop => exact execAdminStop_frame rfl h
  | regionTableWrite => exact execRegionTableWrite_frame rfl h
  | cacheDisable => exact execCacheDisable_frame rfl h
  | cacheDrainDone => exact execCacheDrainDone_frame rfl h
  | evrCursorWrite => exact execEvrCursorWrite_frame rfl h
  | evrWindowRead => exact execEvrWindowRead_frame rfl h
  | jtagClose => exact execJtagClose_frame rfl h
  | porNAssert => exact execPorNAssert_frame rfl h
  | porNDeassert => exact execPorNDeassert_frame rfl h
  | bootPwrfailHoldEnd => exact execBootPwrfailHoldEnd_frame rfl h
  | perstN => exact execPerstN_frame rfl h
  | functionLevelReset => exact execFunctionLevelReset_frame rfl h
  | pwrfailN => exact execPwrfailN_frame rfl h
  | supplyMonitorTrip => exact execSupplyMonitorTrip_frame (_rail := 0) rfl h
  | dumpFreeze => exact execDumpFreeze_frame rfl h
  | dumpBodiesDone => exact execDumpBodiesDone_frame rfl h
  | dumpComplete => exact execDumpComplete_frame rfl h
  | watchdog => exact execWatchdog_frame rfl h
  | coreAccess => exact execCoreAccess_frame rfl h
  | norPersist => exact execNorPersist_frame rfl h
  | evrTimeMark => exact execEvrTimeMark_frame rfl h
  | auditTick => exact execAuditTick_frame rfl h
  | trainingFrame => exact execTrainingFrame_frame rfl h
  | codewordLock => exact execCodewordLock_frame rfl h
  | linkUpTimeout => exact execLinkUpTimeout_frame rfl h
  | capOffer => exact execCapOffer_frame rfl h
  | capGrant => exact execCapGrant_frame rfl h
  | capOfferRepeat => exact execCapOfferRepeat_frame rfl h
  | packetReceive => exact execPacketReceive_frame rfl h
  | uncorrectableCodeword => exact execUncorrectableCodeword_frame rfl h
  | fecRetrain => exact execFecRetrain_frame rfl h
  | hdrCrcRetrain => exact execHdrCrcRetrain_frame rfl h
  | lossOfSignal => exact execLossOfSignal_frame rfl h
  | capTimeout => exact execCapTimeout_frame rfl h
  | creditThreshold => exact execCreditThreshold_frame rfl h
  | creditDelay => exact execCreditDelay_frame rfl h
  | creditKeepalive => exact execCreditKeepalive_frame rfl h
  | credit => exact execCredit_frame rfl h
  | stopReqRepeat => exact execStopReqRepeat_frame rfl h
  | stopDone => exact execStopDone_frame rfl h
  | stopTimeout => exact execStopTimeout_frame rfl h
  | stopReq => exact execStopReq_frame rfl h
  | roleChangeApply => exact execRoleChangeApply_frame rfl h
  | moverCopy => exact execMoverCopy_frame rfl h
  | healRepeat => exact execHealRepeat_frame rfl h
  | healDeadline => exact execHealDeadline_frame rfl h
  | tileEncode => exact execTileEncode_frame rfl h
  | referenceSealTimer => exact execReferenceSealTimer_frame rfl h
  | referenceSealCount => exact execReferenceSealCount_frame rfl h
  | stripeIssue => exact execStripeIssue_frame rfl h
  | stripWriteComplete => exact execStripWriteComplete_frame rfl h
  | stripWriteFail => exact execStripWriteFail_frame rfl h
  | memberLag => exact execMemberLag_frame rfl h
  | lagFailTimer => exact execLagFailTimer_frame rfl h
  | reservationConflict => exact execReservationConflict_frame rfl h
  | conflictHoldTimer => exact execConflictHoldTimer_frame rfl h
  | driveLinkLoss => exact execDriveLinkLoss_frame rfl h
  | driveCriticalWarning => exact execDriveCriticalWarning_frame rfl h
  | driveReadComplete => exact execDriveReadComplete_frame rfl h
  | writeBack => exact execWriteBack_frame rfl h
  | scrubStripe => exact execScrubStripe_frame rfl h
  | rebuildStripe => exact execRebuildStripe_frame rfl h
  | copyBackChunk => exact execCopyBackChunk_frame rfl h
  | reshapeBatch => exact execReshapeBatch_frame rfl h
  | metadataCommit => exact execMetadataCommit_frame rfl h
  | alloc => exact execAlloc_frame rfl h
  | free => exact execFree_frame rfl h
  | pop => exact execPop_frame (_ledger := false) rfl h
  | hbmUncorrectable => exact execHbmUncorrectable_frame rfl h
  | patrolRead => exact execPatrolRead_frame rfl h
  | cacheParityError => exact execCacheParityError_frame rfl h
  | cacheParityLimit => exact execCacheParityLimit_frame rfl h
  | writeBufferDrain => exact execWriteBufferDrain_frame rfl h
  | barrier => exact execBarrier_frame (_journal := false) rfl h
  | clean => exact execClean_frame rfl h
  | inval => exact execInval_frame rfl h
  | cleanInval => exact execCleanInval_frame rfl h
  | cleanRegion => exact execCleanRegion_frame rfl h
  | cleanInvalRegion => exact execCleanInvalRegion_frame rfl h
  | dmaBurst => exact execDmaBurst_frame rfl h
  | cipherSegmentEnd => exact execCipherSegmentEnd_frame rfl h
  | drbgReseed => exact execDrbgReseed_frame rfl h
  | entropyHealthFail => exact execEntropyHealthFail_frame rfl h
  | doorbellPoll => exact execDoorbellPoll_frame rfl h
  | hostAccessError => exact execHostAccessError_frame rfl h
  | msixModTimer => exact execMsixModTimer_frame rfl h
  | msixUnmask => exact execMsixUnmask_frame rfl h
  | nop => exact execNop_frame rfl h
  | channelCreate => exact execChannelCreate_frame rfl h
  | channelDestroy => exact execChannelDestroy_frame rfl h
  | abort => exact execAbort_frame rfl h
  | notify => exact execNotify_frame rfl h
  | pageAssign => exact execPageAssign_frame rfl h
  | keyLoad => exact execKeyLoad_frame rfl h
  | pageRekey => exact execPageRekey_frame rfl h
  | pageErase => exact execPageErase_frame rfl h
  | pageRelease => exact execPageRelease_frame rfl h
  | hkeyLoad => exact execHkeyLoad_frame rfl h
  | hkeyErase => exact execHkeyErase_frame rfl h
  | mrExtend => exact execMrExtend_frame rfl h
  | layoutLoad => exact execLayoutLoad_frame rfl h
  | volumeCreate => exact execVolumeCreate_frame rfl h
  | volumeDelete => exact execVolumeDelete_frame rfl h
  | takeDelete => exact execTakeDelete_frame rfl h
  | snapVolume => exact execSnapVolume_frame rfl h
  | snapRelease => exact execSnapRelease_frame rfl h
  | verifySeal => exact execVerifySeal_frame rfl h
  | groupCtl => exact execGroupCtl_frame rfl h
  | portRole => exact execPortRole_frame rfl h
  | drivePort => exact execDrivePort_frame rfl h
  | handover => exact execHandover_frame rfl h
  | shutdown => exact execShutdown_frame rfl h
  | fwStage => exact execFwStage_frame (_block := 0) rfl h
  | fwActivate => exact execFwActivate_frame rfl h
  | fwRunning => exact execFwRunning_frame rfl h
  | activationTimeout => exact execActivationTimeout_frame rfl h
  | fwConfirm => exact execFwConfirm_frame rfl h
  | attestQuote => exact execAttestQuote_frame rfl h
  | takeOpen => exact execTakeOpen_frame rfl h
  | takeClose => exact execTakeClose_frame rfl h
  | trigger => exact execTrigger_frame rfl h
  | resume => exact execResume_frame rfl h
  | stop => exact execStop_frame rfl h
  | snapTake => exact execSnapTake_frame rfl h
  | read => exact execRead_frame rfl h
  | play => exact execPlay_frame rfl h
  | copy => exact execCopy_frame rfl h
  | replSend => exact execReplSend_frame rfl h
  | replAccept => exact execReplAccept_frame rfl h
  | scrubCtl => exact execScrubCtl_frame rfl h
  | reshape => exact execReshape_frame rfl h
  | driveAdmit => exact execDriveAdmit_frame rfl h
  | driveReplace => exact execDriveReplace_frame rfl h
  | driveFail => exact execDriveFail_frame rfl h
  | layoutScan => exact execLayoutScan_frame rfl h
  | trigIn => exact execTrigIn_frame rfl h
  | trigOutEnd => exact execTrigOutEnd_frame rfl h
  | heartbeatTimer => exact execHeartbeatTimer_frame rfl h
  | heartbeat => exact execHeartbeat_frame rfl h
  | heartbeatMissed => exact execHeartbeatMissed_frame rfl h
  | partnerSilent => exact execPartnerSilent_frame rfl h
  | fenceRetry => exact execFenceRetry_frame rfl h
  | hello e => exact execHello_frame (_e := e) rfl h
  | helloRetry => exact execHelloRetry_frame rfl h
  | keyConfirm => exact execKeyConfirm_frame rfl h
  | tangoQpError => exact execTangoQpError_frame (_qp := 0) rfl h
  | startupWaitExpiry => exact execStartupWaitExpiry_frame rfl h
  | linkInfo => exact execLinkInfo_frame rfl h
  | ownerTable => exact execOwnerTable_frame rfl h
  | ownerAck => exact execOwnerAck_frame rfl h
  | handoverReq => exact execHandoverReq_frame rfl h
  | handoverReady => exact execHandoverReady_frame rfl h
  | handoverState => exact execHandoverState_frame rfl h
  | handoverDone => exact execHandoverDone_frame (_commits := []) rfl h
  | handoverTimeout => exact execHandoverTimeout_frame rfl h
  | leaving => exact execLeaving_frame rfl h
  | frozen => exact execFrozen_frame (_lastJseq := 0) rfl h
  | takePart => exact execTakePart_frame rfl h
  | takePartAck => exact execTakePartAck_frame (_part := 0) rfl h
  | triggerFwd => exact execTriggerFwd_frame (_segId := 0) rfl h
  | driveNotice => exact execDriveNotice_frame rfl h
  | claimVerdict => exact execClaimVerdict_frame rfl h
  | checkpointTimer => exact execCheckpointTimer_frame rfl h
  | ckptDone => exact execCkptDone_frame (_buffer := 0) rfl h
  | healReq => exact execHealReq_frame rfl h
  | healDone => exact execHealDone_frame rfl h
  | mirrorRec => exact execMirrorRec_frame rfl h
  | mirrorAck => exact execMirrorAck_frame rfl h
  | nak => exact execNak_frame rfl h
  | ledger => exact execLedger_frame rfl h
  | standbyReady => exact execStandbyReady_frame rfl h
  | qpContextChange => exact execQpContextChange_frame rfl h
  | qpNop => exact execQpNop_frame rfl h
  | qpSend => exact execQpSend_frame rfl h
  | qpWrite => exact execQpWrite_frame rfl h
  | qpWriteImm => exact execQpWriteImm_frame rfl h
  | qpRead => exact execQpRead_frame rfl h
  | qpFlush => exact execQpFlush_frame rfl h
  | qpWait => exact execQpWait_frame rfl h
  | rdmaRequest => exact execRdmaRequest_frame rfl h
  | rdmaAck => exact execRdmaAck_frame rfl h
  | rdmaNak => exact execRdmaNak_frame rfl h
  | rdmaAckTimeout => exact execRdmaAckTimeout_frame rfl h
  | rnrRetryTimer => exact execRnrRetryTimer_frame rfl h
  | cnp => exact execCnp_frame rfl h
  | cnpRateTimer => exact execCnpRateTimer_frame rfl h
  | contextFetchDone => exact execContextFetchDone_frame rfl h
  | rHello => exact execRHello_frame rfl h
  | rConfirm => exact execRConfirm_frame rfl h
  | offer => exact execOffer_frame rfl h
  | acceptTimeout => exact execAcceptTimeout_frame rfl h
  | accept => exact execAccept_frame rfl h
  | fpBatch => exact execFpBatch_frame rfl h
  | held => exact execHeld_frame rfl h
  | tile => exact execTile_frame rfl h
  | commit => exact execCommit_frame rfl h
  | replCommitTimer => exact execReplCommitTimer_frame rfl h
  | close => exact execClose_frame rfl h
  | closed => exact execClosed_frame (_total := 0) rfl h
  | error => exact execError_frame (_entry := 0) rfl h
  | earlyWarning => exact execEarlyWarning_frame rfl h
  | replan => exact execReplan_frame rfl h
  | vddStepDown => exact execVddStepDown_frame rfl h
  | avsRetry => exact execAvsRetry_frame rfl h
  | sensorRead => exact execSensorRead_frame rfl h
  | thermalSample => exact execThermalSample_frame rfl h
  | thermalTrip => exact execThermalTrip_frame rfl h
  | pcieMargin => exact execPcieMargin_frame rfl h
  | eyeScan => exact execEyeScan_frame rfl h
  | i2cIndexWrite => exact execI2cIndexWrite_frame rfl h
  | i2cRead => exact execI2cRead_frame rfl h
  | perstNDeassert => exact execPerstNDeassert_frame rfl h
  | driveAdminCommandComplete => exact execDriveAdminCommandComplete_frame rfl h
  | stagingComplete => exact execStagingComplete_frame rfl h
  | drivePortRetrain => exact execDrivePortRetrain_frame rfl h
  | ethPortLinkChange => exact execEthPortLinkChange_frame rfl h
  | playPaceTimer => exact execPlayPaceTimer_frame rfl h

/-- No command but POR_N's two edges samples HEAD_ID or ends a fatal stop. -/
theorem exec_lasts {c : Instr} {s t : State} (h : exec c s = .next t) (low : c ≠ .porNAssert)
    (high : ∀ pins, c ≠ .porNDeassert pins) : Lasts s.dev t.dev := by
  by_cases q : Blk.glb ∈ Blk.touched c
  case neg => exact .of_glb (exec_touched h .glb q)
  cases c
  case porNAssert => exact absurd rfl low
  case porNDeassert pins => exact absurd rfl (high pins)
  case registerWrite => cases h; exact barWrite_lasts _ _ _ s
  case regionTableWrite =>
    cases h
    split
    · exact barWrite_lasts _ _ _ s
    · exact .refl _
  case glbLock => cases h; exact .when (lockWrite_lasts _ _ _ _)
  case dpCfgWrite => cases h; exact .when (dpCfgWrite_lasts _ _ _)
  case bootPwrfailHoldEnd => cases h; exact .when (endHold_lasts _ _)
  case perstN => cases h; exact .when (perst_lasts _)
  case functionLevelReset => cases h; exact .when (hostReset_lasts _)
  case perstNDeassert => cases h; exact .when (perstHigh_lasts _)
  case pwrfailN =>
    cases h
    dsimp only
    refine .when ?_
    exact .trans (d := onGlb _ s.dev) (.of_pins rfl rfl) (powerFail_lasts _)
  case supplyMonitorTrip => cases h; exact .when (powerFail_lasts _)
  case dumpFreeze => cases h; exact .when (freezeJournal_lasts _)
  case dumpComplete => cases h; exact .when (endDump_lasts _)
  case watchdog => cases h; exact .when (fatalStop_lasts _ _ _ _ _)
  case entropyHealthFail => cases h; exact .when (entropyFail_lasts _ _)
  case thermalTrip => cases h; exact .when (fatalStop_lasts _ _ _ _ _)
  case auditTick => cases h; exact .when (auditTick_lasts _)
  case capOffer => cases h; exact .when (checked_lasts (receiveAsRecorder_lasts _ _) _ _ _)
  case stopDone => cases h; exact .when (checked_lasts (receiveAsRecorder_lasts _ _) _ _ _)
  case capGrant => cases h; exact .when (checked_lasts (receiveAsPlayer_lasts _ _) _ _ _)
  case credit => cases h; exact .when (checked_lasts (receiveAsPlayer_lasts _ _) _ _ _)
  case stopReq => cases h; exact .when (checked_lasts (receiveAsPlayer_lasts _ _) _ _ _)
  case packetReceive =>
    cases h
    refine .when (checked_lasts (fun x => ?_) _ _ _)
    split
    · exact receiveAsPlayer_lasts _ _ x
    · exact receiveAsRecorder_lasts _ _ x
  case hbmUncorrectable => cases h; exact liveState_lasts (hbmPoison_lasts _ _) s
  case patrolRead => cases h; exact liveState_lasts (patrolRead_lasts _ _ _) s
  case cacheParityError => cases h; exact liveState_lasts (parityError_lasts _ _ _) s
  case layoutLoad => cases h; exact descriptor_lasts (doLayoutLoad_lasts _ _ _ _ _) _ _ _ _ _
  case drivePort => cases h; exact descriptor_lasts (doDrivePort_lasts _ _ _ _) _ _ _ _ _
  case shutdown => cases h; exact descriptor_lasts (doShutdown_lasts _) _ _ _ _ _
  case fwActivate => cases h; exact descriptor_lasts (doFwActivate_lasts _) _ _ _ _ _
  case trigger => cases h; exact descriptor_lasts (doTrigger_lasts _ _ _ _ _) _ _ _ _ _
  case trigIn => cases h; exact .when (trigIn_lasts _ _)
  case trigOutEnd => cases h; exact .of_pins rfl rfl
  case activationTimeout => cases h; exact .when (undoActivation_lasts _ _ _)
  case partnerSilent => cases h; exact .when (partnerSilent_lasts _ _)
  case fenceRetry => cases h; exact .when (fenceRetry_lasts _ _)
  case helloRetry => cases h; exact .when (helloRetry_lasts _)
  case keyConfirm => cases h; exact stagedState_lasts (.when (tangoIn_lasts sessionUp_lasts _ _ _ _ _ _))
  case startupWaitExpiry => cases h; exact .when (startupExpiry_lasts _ _ _)
  case handoverTimeout => cases h; exact .when (handoverTimeout_lasts _ _)
  case leaving => cases h; exact .when (tangoIn_lasts (leaving_lasts _ _) _ _ _ _ _ _)
  case frozen => cases h; exact .when (tangoIn_lasts (frozen_lasts _) _ _ _ _ _ _)
  all_goals simp [Blk.touched] at q

/-! ## HEAD_ID -/

/-- HEAD_ID is the level of its pin as POR_N goes high (R17). -/
theorem porDeassert_headB (pins : BootIn) (d : Dev) : (porDeassert pins d).glb.headB = pins.headHigh := by
  have sampled : (startRom pins d).glb.headB = pins.headHigh := by
    unfold startRom
    refine (extendMr_k rfl (onBoot_k rfl (scanLog_k rfl (upd_now rfl (.refl _ _))))).lasts.headB.trans ?_
    split
    · rfl
    · rfl
  have boots : Lasts (startRom pins d) (porDeassert pins d) := .ite (bootFrom_lasts _ _) (.of_pins rfl rfl)
  exact boots.headB.trans sampled

/-- Settles O58: POR_N going high samples the pin, and every other command keeps what `Lasts` holds. -/
theorem headIdSampledOnce : Obligations.HeadIdSampledOnce := by
  unfold Obligations.HeadIdSampledOnce
  refine ⟨fun pins s low => ⟨_, rfl, ?_⟩, fun c s t h low high => ?_⟩
  · rw [low]
    exact porDeassert_headB pins s.dev
  · by_cases q : ∃ pins, c = .porNDeassert pins
    · obtain ⟨pins, rfl⟩ := q
      cases h
      rw [high pins rfl]
      rfl
    · exact (exec_lasts h low (fun pins e => q ⟨pins, e⟩)).headB

end Sys2Proof.Machine
end

section
/-! PROOF. The mover and the timers of cross-heal (R22, R74, R78, R90): what they do to a group's ledger, and what its pipe leaves alone of it. -/

namespace Sys2Proof.Machine
open Sys2Proof

/-! ## What consuming leaves alone of a ledger -/

variable {g : Fin 4} {d e u : Dev}

/-- From `d` to `e` no slot of group `g` that waits for the mover has come or gone, and no gap that awaits heal (R74, R89). -/
structure Waits (g : Fin 4) (d e : Dev) : Prop where
  landing : (e.lg.at g).landing = (d.lg.at g).landing
  heals : (e.lg.at g).heals = (d.lg.at g).heals

/-- Every part of the head but the ledgers. -/
def Blk.butLg : List Blk :=
  [.out, .now, .free, .glb, .regs, .sl, .audit, .pipes, .vault, .vcnt, .cat, .disk, .ciph, .dgst, .hif, .tango, .ih, .rdma, .rcnt, .repl,
    .bpm, .mca, .dma, .evr, .mnt, .boot]

namespace Waits

theorem refl (d : Dev) : Waits g d d := ⟨rfl, rfl⟩

theorem trans (h : Waits g d e) (k : Waits g e u) : Waits g d u := ⟨k.landing.trans h.landing, k.heals.trans h.heals⟩

theorem after (k : Waits g e u) (h : Waits g d e) : Waits g d u := h.trans k

theorem ite {p : Prop} [Decidable p] (h : Waits g d e) (k : Waits g d u) : Waits g d (if p then e else u) := by
  split
  · exact h
  · exact k

theorem each {α : Type} {f : α → Dev → Dev} (h : ∀ a x, Waits g x (f a x)) (l : List α) (d : Dev) : Waits g d (each f l d) := by
  induction l generalizing d with
  | nil => exact refl d
  | cons a t ih => exact (h a d).trans (ih (f a d))

/-- A change of the group's ledger that leaves both lists alone. -/
theorem onLedger {f : Ledger → Ledger} (d : Dev) (h : ∀ l, (f l).landing = l.landing) (k : ∀ l, (f l).heals = l.heals) :
    Waits g d (onLedger g f d) := by
  constructor
  · rw [onLedger_lg, four_at_put, h]
  · rw [onLedger_lg, four_at_put, k]

end Waits

theorem Keeps.waits (h : Keeps Blk.butLg d e) : Waits g d e := by
  have same : e.lg = d.lg := h .lg (by decide)
  exact ⟨by rw [same], by rw [same]⟩

theorem addDropBytes_landing (l : Ledger) (reason n : Nat) : (l.addDropBytes reason n).landing = l.landing := by
  unfold Ledger.addDropBytes; split <;> rfl

theorem addDropBytes_heals (l : Ledger) (reason n : Nat) : (l.addDropBytes reason n).heals = l.heals := by
  unfold Ledger.addDropBytes; split <;> rfl

theorem dropResident_waits (reason bytes : Nat) (d : Dev) : Waits g d (dropResident g reason bytes d) :=
  .onLedger d (fun _ => rfl) (fun _ => rfl)

theorem refreshLimit_waits (d : Dev) : Waits g d (refreshLimit g d) :=
  .ite (.after (.onLedger _ (fun _ => rfl) (fun _ => rfl)) (onGroup_k rfl (.refl _ d)).waits) (.refl d)

theorem endFrame_waits (t : Take) (c : Closing) (gsn : W32) (d : Dev) : Waits g d (endFrame g t c gsn d) := by
  unfold endFrame
  dsimp only
  split
  · exact .refl d
  · refine .after (.onLedger _ (fun l => ?_) (fun l => ?_)) (onPipe_k rfl (.refl _ d)).waits
    · exact addDropBytes_landing _ _ _
    · exact addDropBytes_heals _ _ _

theorem haveFrame_waits (t : Take) (s : Slot) (d : Dev) : Waits g d (haveFrame g t s d) := by
  have opens (x : Dev) : Waits g x (openImplicit g s x) := (onPipe_k rfl (.refl _ x)).waits
  unfold haveFrame
  split
  · exact opens d
  · exact .ite (.refl d) ((opens _).after ((endFrame_waits t _ _ _).after (onPipe_k rfl (.refl _ d)).waits))

theorem consumeData_waits (t : Take) (s : Slot) (d : Dev) : Waits g d (consumeData g t s d) := by
  unfold consumeData
  dsimp only
  have marked (f : Pipe → Pipe) : Waits g d (onPipe g f (haveFrame g t s d)) :=
    (onPipe_k rfl (.refl _ _)).waits.after (haveFrame_waits t s d)
  refine .ite ((dropResident_waits _ _ _).after ((onPipe_k rfl (.refl _ _)).waits.after (marked _))) ?_
  refine .after (.onLedger _ (fun l => ?_) (fun l => ?_)) ((onPipe_k rfl (.refl _ _)).waits.after (marked _))
  · exact addDropBytes_landing _ _ _
  · exact addDropBytes_heals _ _ _

theorem consumeClose_waits (t : Take) (s : Slot) (d : Dev) : Waits g d (consumeClose g t s d) := by
  unfold consumeClose
  refine (onPipe_k rfl (.refl _ _)).waits.after ((endFrame_waits t _ _ _).after ?_)
  exact (onPipe_k rfl (.refl _ _)).waits.after (haveFrame_waits t s d)

theorem flushLost_waits (t : Take) (upto : Nat) (d : Dev) : Waits g d (flushLost g t upto d) := by
  unfold flushLost
  refine .after (.onLedger _ (fun _ => rfl) (fun _ => rfl)) (.each (fun e x => ?_) _ d)
  exact (endFrame_waits t _ _ _).after (onPipe_k rfl (.refl _ x)).waits

theorem consumeOpen_waits (t : Take) (s : Slot) (d : Dev) : Waits g d (consumeOpen g t s d) := by
  unfold consumeOpen
  have opened (f : Pipe → Pipe) : Waits g d (onPipe g f (flushLost g t s.pkt.frame.toNat (endFrame g t .implicit s.pkt.gsn d))) :=
    (onPipe_k rfl (.refl _ _)).waits.after ((flushLost_waits t _ _).after (endFrame_waits t _ _ d))
  exact .ite ((logEvent_k rfl (.refl _ _)).waits.after (opened _)) (opened _)

theorem consumeMeta_waits (t : Take) (s : Slot) (d : Dev) : Waits g d (consumeMeta g t s d) := by
  unfold consumeMeta
  exact (onPipe_k rfl (onTake_k rfl (.refl _ d))).waits

theorem consumeMissing_waits (s : Slot) (d : Dev) : Waits g d (consumeMissing g s d) := by
  have gap (f : Pipe → Pipe) : Waits g d (onPipe g f d) := (onPipe_k rfl (.refl _ d)).waits
  exact .ite (gap _) (.after (.onLedger _ (fun _ => rfl) (fun _ => rfl)) (gap _))

theorem breakOrder_waits (s : Slot) (d : Dev) : Waits g d (breakOrder g s d) :=
  (consumeMissing_waits _ _).after ((dropResident_waits _ _ _).after (onGroup_k rfl (.refl _ d)).waits)

theorem passSlot_waits (s : Slot) (d : Dev) : Waits g d (passSlot g s d) := .onLedger d (fun _ => rfl) (fun _ => rfl)

theorem orderPast_waits (s : Slot) (d : Dev) : Waits g d (orderPast g s d) := (onPipe_k rfl (.refl _ d)).waits

theorem settleC_waits (d : Dev) : Waits g d (settleC g d) := by
  unfold settleC
  exact .ite (.onLedger d (fun _ => rfl) (fun _ => rfl)) (.refl d)

theorem sealTail_waits {t : Take} (h : sealTail g t d = some e) : Waits g d e := by
  unfold sealTail at h
  dsimp only at h
  split at h
  · cases h; exact .refl d
  have needs : Waits g d (needStripe g t (((t.partOf g).map (·.idx)).getD 0) (d.pipes.at g).lastGsn d).1 :=
    (needStripe_k rfl (.refl _ d)).waits
  generalize needStripe g t (((t.partOf g).map (·.idx)).getD 0) (d.pipes.at g).lastGsn d = y at needs h
  obtain ⟨x, _ | sb⟩ := y
  · cases h
  · cases h
    refine (sealPipe_k rfl (.refl _ _)).waits.after (.after (.onLedger _ (fun _ => rfl) (fun _ => rfl)) ?_)
    exact (onPipe_k rfl (.refl _ _)).waits.after needs

theorem endTakeOn_waits {t : Take} (h : endTakeOn g t d = some e) : Waits g d e := by
  unfold endTakeOn at h
  dsimp only at h
  split at h
  · cases h; exact endFrame_waits t _ _ d
  split at h
  · cases h; exact flushLost_waits t _ d
  · obtain ⟨x, sealed_, rfl⟩ := Option.map_eq_some_iff.mp h
    refine (advanceTake_k rfl (.refl _ _)).waits.after ((settleC_waits _).after ?_)
    exact (onTake_k rfl (onPipe_k rfl (.refl _ _))).waits.after (sealTail_waits sealed_)

theorem consumeNone_waits (s : Slot) (d : Dev) : Waits g d (consumeNone g s d) := by
  have past : Waits g d (orderPast g s (passSlot g s d)) := (orderPast_waits s _).after (passSlot_waits s d)
  exact (settleC_waits _).after (.ite past ((dropResident_waits _ _ _).after past))

theorem consumeSound_waits (t : Take) (s : Slot) (d : Dev) : Waits g d (consumeSound g t s d) :=
  .ite (consumeOpen_waits t s d) (.ite (consumeData_waits t s d) (.ite (consumeClose_waits t s d) (.ite (consumeMeta_waits t s d)
    (onPipe_k rfl (.refl _ d)).waits)))

theorem consumeIn_waits (t : Take) (s : Slot) (d : Dev) : Waits g d (consumeIn g t s d) := by
  have acts (x : Dev) : Waits g x (consumeAs g t s x) :=
    .ite (consumeMissing_waits s x) (.ite (breakOrder_waits s x) ((consumeSound_waits t s _).after (orderPast_waits s x)))
  have passed : Waits g d (consumeAs g t s (passSlot g s d)) := (acts _).after (passSlot_waits s d)
  exact .ite (.after (.onLedger _ (fun _ => rfl) (fun _ => rfl)) passed) passed

theorem beginTake_waits (t : Take) (s : Slot) (d : Dev) : Waits g d (beginTake g t s d) :=
  (onTake_k rfl (.refl _ _)).waits.after (.after (.onLedger _ (fun _ => rfl) (fun _ => rfl)) (onPipe_k rfl (.refl _ d)).waits)

theorem consumeOne_waits (h : consumeOne g d = some e) : Waits g d e := by
  unfold consumeOne at h
  dsimp only at h
  split at h
  · cases h
  split at h
  · cases h
  · cases h; exact consumeNone_waits _ d
  · split at h
    · exact endTakeOn_waits h
    · cases h
  · split at h
    · exact endTakeOn_waits h
    split at h
    · cases h; exact consumeIn_waits _ _ d
    split at h
    · cases h; exact (consumeIn_waits _ _ _).after (beginTake_waits _ _ d)
    · cases h; exact consumeNone_waits _ d

theorem consumeN_waits (n : Nat) (d : Dev) : Waits g d (consumeN g n d) := by
  induction n generalizing d with
  | zero => exact .refl d
  | succ n ih =>
    unfold consumeN
    split
    · next e h => exact (consumeOne_waits h).trans (ih e)
    · exact .refl d

theorem consume_waits (d : Dev) : Waits g d (consume g d) := (refreshLimit_waits _).after (consumeN_waits _ d)

/-! ## A ring in gsn order -/

variable {pos : W32} {x y : Slot} {l : List Slot}

theorem mem_ringInsert_self (pos : W32) (y : Slot) (l : List Slot) : y ∈ ringInsert pos y l := by
  induction l with
  | nil => exact List.mem_singleton_self y
  | cons a t ih =>
    unfold ringInsert
    split
    · exact List.mem_cons_self
    split
    · exact List.mem_cons_self
    · exact List.mem_cons_of_mem a ih

/-- Only a slot of its own gsn makes way for a slot. -/
theorem mem_ringInsert_of_mem (h : x ∈ l) (n : x.pkt.gsn ≠ y.pkt.gsn) : x ∈ ringInsert pos y l := by
  induction l with
  | nil => cases h
  | cons a t ih =>
    unfold ringInsert
    split
    · exact List.mem_cons_of_mem y h
    split
    · next same =>
      rcases List.mem_cons.mp h with rfl | h
      · exact absurd same.symm n
      · exact List.mem_cons_of_mem y h
    · rcases List.mem_cons.mp h with rfl | h
      · exact List.mem_cons_self
      · exact List.mem_cons_of_mem a (ih h)

theorem eq_or_mem_of_mem_ringInsert (h : x ∈ ringInsert pos y l) : x = y ∨ x ∈ l := by
  induction l with
  | nil => exact .inl (List.mem_singleton.mp h)
  | cons a t ih =>
    unfold ringInsert at h
    split at h
    · exact List.mem_cons.mp h
    split at h
    · exact (List.mem_cons.mp h).imp_right (List.mem_cons_of_mem a)
    · rcases List.mem_cons.mp h with rfl | h
      · exact .inr List.mem_cons_self
      · exact (ih h).imp_right (List.mem_cons_of_mem a)

theorem length_ringInsert_le (pos : W32) (y : Slot) (l : List Slot) : (ringInsert pos y l).length ≤ l.length + 1 := by
  induction l with
  | nil => exact le_rfl
  | cons a t ih =>
    unfold ringInsert
    split
    · exact le_rfl
    split
    · exact Nat.le_succ _
    · exact Nat.succ_le_succ ih

/-- A standby ring within its size releases nothing: at most its position moves. -/
theorem trimStandby_of_fits {l : Ledger} (h : l.ring.length ≤ standbySlots) : ∃ p, trimStandby l = { l with ringPos := p } := by
  unfold trimStandby
  rw [Nat.sub_eq_zero_of_le h]
  exact ⟨_, by
    simp only [List.take_zero, List.filter_nil, List.length_nil, List.drop_zero, BitVec.ofNat_eq_ofNat, BitVec.add_zero, BitVec.sub_zero]
    rfl⟩

theorem onLedger_at (g : Fin 4) (f : Ledger → Ledger) (d : Dev) : (onLedger g f d).lg.at g = f (d.lg.at g) := by
  rw [onLedger_lg, four_at_put]

/-- Credit that follows a limit is all that `refreshLimit` changes of a ledger. -/
theorem refreshLimit_at (g : Fin 4) (d : Dev) : ∃ n, (refreshLimit g d).lg.at g = { d.lg.at g with granted := n } := by
  unfold refreshLimit
  dsimp only
  split
  · exact ⟨_, onLedger_at g _ _⟩
  · exact ⟨_, rfl⟩

/-- A group that this head does not own has no pipe to consume: credit alone follows. -/
theorem consume_of_not_owned (h : d.owns g = false) : consume g d = refreshLimit g d := by
  have waits : consumeOne g d = none := by
    unfold consumeOne
    rw [h]
    rfl
  unfold consume
  congr 1
  unfold consumeN
  rw [waits]

/-! ## The mover -/

theorem moveSlot_of_owned {rest : List Slot} (h : (d.lg.at g).landing = y :: rest) (own : d.owns g = true) :
    ((moveSlot g d).lg.at g).landing = rest := by
  unfold moveSlot
  dsimp only
  rw [h]
  dsimp only
  rw [if_pos own, (consume_waits _).landing, (refreshLimit_waits _).landing, onLedger_at]

theorem moveSlot_of_released {rest : List Slot} (h : (d.lg.at g).landing = y :: rest) (own : d.owns g = false)
    (none_ : d.tango.barred = true ∨ d.keepsRing g = false) (held : y.state ≠ 0) : ∃ n,
    (moveSlot g d).lg.at g = { d.lg.at g with
      landing := rest, granted := n, resident := (d.lg.at g).resident - 1, released := (d.lg.at g).released + 1 } := by
  have drops : (d.tango.barred || !d.keepsRing g) = true := by
    rcases none_ with b | k
    · rw [b]; rfl
    · rw [k, Bool.not_false, Bool.or_true]
  unfold moveSlot releaseSlot
  dsimp only
  rw [h]
  dsimp only
  rw [own, if_neg Bool.false_ne_true, if_pos drops, if_neg held]
  obtain ⟨n, e⟩ := refreshLimit_at g (onLedger g (fun l => { l with released := l.released + 1, resident := l.resident - 1 })
    (onLedger g (fun _ => { d.lg.at g with landing := rest }) d))
  exact ⟨n, by rw [e, onLedger_at, onLedger_at]⟩

theorem moveSlot_of_kept {rest : List Slot} (h : (d.lg.at g).landing = y :: rest) (own : d.owns g = false)
    (up : d.tango.barred = false) (keeps : d.keepsRing g = true) (room : (d.lg.at g).ring.length < standbySlots) : ∃ n p q,
    (moveSlot g d).lg.at g = { d.lg.at g with
      landing := rest, granted := n, ringPos := p, ring := ringInsert q y (d.lg.at g).ring } := by
  unfold moveSlot
  dsimp only
  rw [h]
  dsimp only
  rw [own, if_neg Bool.false_ne_true, up, keeps, if_neg (by decide)]
  generalize (if (d.lg.at g).ring.isEmpty && !false then y.pkt.gsn else (d.lg.at g).ringPos) = q
  have fits : (ringInsert q y (d.lg.at g).ring).length ≤ standbySlots := (length_ringInsert_le q y _).trans room
  obtain ⟨p, t⟩ := trimStandby_of_fits
    (l := { d.lg.at g with landing := rest, ringPos := q, ring := ringInsert q y (d.lg.at g).ring }) fits
  rw [t]
  obtain ⟨n, e⟩ := refreshLimit_at g (onLedger g (fun _ => { d.lg.at g with
    landing := rest, ringPos := p, ring := ringInsert q y (d.lg.at g).ring }) d)
  exact ⟨n, p, q, by rw [e, onLedger_at]⟩

theorem moveSlot_of_empty (h : (d.lg.at g).landing = []) (own : d.owns g = false) : moveSlot g d = d := by
  unfold moveSlot
  dsimp only
  rw [h]
  dsimp only
  rw [own, if_neg Bool.false_ne_true]

theorem moveSlot_keeps_of_not_owned (own : d.owns g = false) : Keeps [.sl, .lg] d (moveSlot g d) := by
  unfold moveSlot
  dsimp only
  split
  · rw [own, if_neg Bool.false_ne_true]
    exact .refl _ d
  · rw [own, if_neg Bool.false_ne_true]
    split
    · exact refreshLimit_k rfl (releaseSlot_k rfl (onLedger_k rfl (.refl _ d)))
    · exact refreshLimit_k rfl (onLedger_k rfl (.refl _ d))

/-! ## Cross-heal -/

theorem dropHeal_heals (g : Fin 4) (a : W32) (d : Dev) :
    ((dropHeal g a d).lg.at g).heals = (d.lg.at g).heals.filter (fun h => h.gsn != a) := by
  unfold dropHeal
  rw [onLedger_at]
  dsimp only
  split
  · rfl
  · rfl

/-- What is dropped awaits heal no more. -/
theorem each_dropHeal_heals {late : List W32} {a : W32} (h : a ∈ late) (d : Dev) :
    ∀ y ∈ ((each (dropHeal g) late d).lg.at g).heals, y.gsn ≠ a := by
  have keeps (l : List W32) (d : Dev) : ∀ y ∈ ((each (dropHeal g) l d).lg.at g).heals, y ∈ (d.lg.at g).heals := by
    induction l generalizing d with
    | nil => exact fun y h => h
    | cons b t ih =>
      intro y h
      have dropped := ih (dropHeal g b d) y h
      rw [dropHeal_heals] at dropped
      exact List.mem_of_mem_filter dropped
  induction late generalizing d with
  | nil => cases h
  | cons b t ih =>
    rcases List.mem_cons.mp h with rfl | h
    · intro y hy
      have dropped := keeps t _ y hy
      rw [dropHeal_heals] at dropped
      simpa using List.of_mem_filter dropped
    · exact ih h (dropHeal g b d)

/-- A standby group's gap that is given up is received and dropped as lost-on-link (R79, R84, R90). -/
theorem dropHeal_of_not_owned (a : W32) (own : d.owns g = false) (room : (d.lg.at g).ring.length < standbySlots) : ∃ p r b,
    (dropHeal g a d).lg.at g = { d.lg.at g with
      heals := (d.lg.at g).heals.filter (fun h => h.gsn != a), received := (d.lg.at g).received + 1, ringPos := p, ring := r
      dropped := (d.lg.at g).dropped + 1, drops := tput (d.lg.at g).drops 2 (tgetD (d.lg.at g).drops 0 2 + 1), dropBytes := b } := by
  unfold dropHeal
  rw [onLedger_at]
  dsimp only
  rw [own, if_neg Bool.false_ne_true]
  obtain ⟨p, t⟩ := trimStandby_of_fits
    (l := Ledger.dropReceived { d.lg.at g with heals := (d.lg.at g).heals.filter (fun h => h.gsn != a) } (missingSlot g a 2) 0)
    ((length_ringInsert_le _ _ _).trans room)
  exact ⟨p, _, _, t⟩

theorem oldestHeal_of_single {l : Ledger} {h : Heal} (e : l.heals = [h]) : l.oldestHeal = some h.found := by
  unfold Ledger.oldestHeal
  rw [e]
  rfl

/-- The one gap that has a repeat left is due: by the clock, or as the oldest that has one. -/
theorem dueHeals_of_single {l : Ledger} {h : Heal} (now : Nat) (e : l.heals = [h]) (left : h.tries < 3) : l.dueHeals now = [h] := by
  unfold Ledger.dueHeals
  rw [e]
  cases due : h.due now with
  | true => simp [due]
  | false => simp [due, left]

theorem dueHeals_of_exhausted {l : Ledger} (now : Nat) (done : ∀ h ∈ l.heals, 3 ≤ h.tries) : l.dueHeals now = [] := by
  have none_due : l.heals.filter (Heal.due now) = [] := by
    refine List.filter_eq_nil_iff.mpr fun h m => ?_
    have := done h m
    unfold Heal.due
    simp
    omega
  have none_left : l.heals.filter (fun h => decide (h.tries < 3)) = [] := by
    refine List.filter_eq_nil_iff.mpr fun h m => ?_
    have := done h m
    simp
    omega
  unfold Ledger.dueHeals
  rw [none_due, none_left]
  rfl

theorem tangoSend_healCtr (qp : Nat) (o : Out) (d : Dev) : (tangoSend qp o d).tango.healCtr = d.tango.healCtr := by
  have same (j : CJob) (x : Dev) : (submitJob j x).tango = x.tango :=
    submitJob_k (L := [.out, .cat, .ciph, .hif, .dma, .evr]) rfl (.refl _ x) .tango (by decide)
  unfold tangoSend
  split
  · split
    · rw [same]; rfl
    · rfl
  · rfl

theorem tangoSend_lg (qp : Nat) (o : Out) (d : Dev) : (tangoSend qp o d).lg = d.lg :=
  tangoSend_k (L := Blk.butLg) rfl (.refl _ d) .lg (by decide)

/-- One gap is asked for under the next number. -/
theorem askHeal_of_single {h : Heal} (e : (d.lg.at g).heals = [h]) :
    ((askHeal g [h.gsn] d).lg.at g).heals = [{ h with reqId := d.tango.healCtr + 1, tries := h.tries + 1 }] ∧
    (askHeal g [h.gsn] d).tango.healCtr = d.tango.healCtr + 1 := by
  unfold askHeal
  dsimp only
  rw [tangoSend_lg, tangoSend_healCtr, onLedger_at, onTango_lg, e]
  simp

theorem healRepeat_of_single {h : Heal} (e : (d.lg.at g).heals = [h]) (left : h.tries < 3) : healRepeat g d = askHeal g [h.gsn] d := by
  unfold healRepeat
  rw [dueHeals_of_single d.now e left]
  rfl

theorem healRepeat_of_exhausted (done : ∀ h ∈ (d.lg.at g).heals, 3 ≤ h.tries) : healRepeat g d = d := by
  unfold healRepeat
  rw [dueHeals_of_exhausted d.now done]
  rfl

theorem healDeadline_of_none (e : (d.lg.at g).heals = []) : healDeadline g d = d := by
  unfold healDeadline Ledger.oldestHeal
  rw [e]
  rfl

theorem healDeadline_of_single {h : Heal} (e : (d.lg.at g).heals = [h]) (own : d.owns g = false) :
    healDeadline g d = refreshLimit g (dropHeal g h.gsn d) := by
  unfold healDeadline
  rw [oldestHeal_of_single e, e]
  dsimp only
  rw [← consume_of_not_owned (d := dropHeal g h.gsn d) own]
  simp [each]

theorem healDeadline_heals {h : Heal} (m : h ∈ (d.lg.at g).heals) (oldest : some h.found = (d.lg.at g).oldestHeal) :
    ∀ y ∈ ((healDeadline g d).lg.at g).heals, y.gsn ≠ h.gsn := by
  unfold healDeadline
  rw [← oldest]
  dsimp only
  rw [(consume_waits _).heals]
  exact each_dropHeal_heals (List.mem_map_of_mem (List.mem_filter.mpr ⟨m, by simp⟩)) d

/-! ## The commands -/

variable {s : State}

theorem exec_moverCopy (g : Fin 4) (live : s.dev.live = true) : exec (.moverCopy g) s = .next { s with dev := moveSlot g s.dev } := by
  change Host.Outcome.next { s with dev := when s.dev.live (moveSlot g) s.dev } = _
  rw [live, when_true]

theorem exec_healDeadline (g : Fin 4) (live : s.dev.live = true) :
    exec (.healDeadline g) s = .next { s with dev := healDeadline g s.dev } := by
  change Host.Outcome.next { s with dev := when s.dev.live (healDeadline g) s.dev } = _
  rw [live, when_true]

theorem exec_healRepeat (g : Fin 4) (live : s.dev.live = true) (own : s.dev.owns g = true) (cover : s.dev.cover g = true) :
    exec (.healRepeat g) s = .next { s with dev := healRepeat g s.dev } := by
  change Host.Outcome.next { s with dev := when (s.dev.live && s.dev.owns g && s.dev.cover g) (healRepeat g) s.dev } = _
  rw [live, own, cover, Bool.and_self, Bool.and_self, when_true]

/-- Settles O33: the mover case by case of who keeps the ring, then the timers by the gaps that await heal. -/
theorem moverAndHeal : Obligations.MoverAndHeal := by
  unfold Obligations.MoverAndHeal
  intro s g live
  refine ⟨fun y rest land => ⟨fun own up keeps room => ?_, fun own none_ held => ?_, fun own => ?_⟩, fun own land => ?_,
    fun none_ => ?_, fun own cover => ⟨fun x one left => ?_, fun done => ?_⟩, fun x own one room => ?_, fun x own m oldest => ?_⟩
  · obtain ⟨n, p, q, e⟩ := moveSlot_of_kept land own up keeps room
    refine ⟨_, exec_moverCopy g live, ?_⟩
    rw [e]
    exact ⟨rfl, mem_ringInsert_self _ _ _, fun x => mem_ringInsert_of_mem, fun x => eq_or_mem_of_mem_ringInsert, rfl, rfl⟩
  · obtain ⟨n, e⟩ := moveSlot_of_released land own none_ held
    refine ⟨_, exec_moverCopy g live, moveSlot_keeps_of_not_owned own, ?_⟩
    rw [e]
    exact ⟨rfl, rfl, rfl, rfl⟩
  · exact ⟨_, exec_moverCopy g live, moveSlot_of_owned land own⟩
  · rw [exec_moverCopy g live, moveSlot_of_empty land own]
  · constructor
    · have quiet : healRepeat g s.dev = s.dev := healRepeat_of_exhausted (by rw [none_]; exact List.forall_mem_nil _)
      change Host.Outcome.next { s with dev := when _ (healRepeat g) s.dev } = _
      unfold when
      rw [quiet, ite_self]
    · rw [exec_healDeadline g live, healDeadline_of_none none_]
  · refine ⟨_, exec_healRepeat g live own cover, ?_⟩
    rw [healRepeat_of_single one left]
    exact askHeal_of_single one
  · rw [exec_healRepeat g live own cover, healRepeat_of_exhausted done]
  · refine ⟨_, exec_healDeadline g live, ?_⟩
    rw [healDeadline_of_single one own]
    obtain ⟨n, e⟩ := refreshLimit_at g (dropHeal g x.gsn s.dev)
    obtain ⟨p, r, b, f⟩ := dropHeal_of_not_owned x.gsn own room
    refine ⟨refreshLimit_k rfl (dropHeal_k rfl (.refl _ _)), ?_⟩
    rw [e, f, one]
    refine ⟨?_, rfl, rfl, ?_, rfl⟩
    · simp
    · simp [tgetD]
  · exact ⟨_, exec_healDeadline g live, healDeadline_heals m oldest⟩

end Sys2Proof.Machine
end

section
/-! PROOF. A message to the partner leaves at once where page 0 and a service lane serve it (R149, R280). -/

namespace Sys2Proof.Machine
open Sys2Proof

variable {d e : Dev} {j : CJob} {o : Out}

/-! ## What the service lanes emit stays emitted -/

theorem Grows.mem (h : Grows d e) (m : o ∈ d.out) : o ∈ e.out := by
  obtain ⟨l, hl⟩ := h
  rw [hl]
  exact List.mem_append_left l m

theorem noteJob_grows (j : CJob) (status : Nat) (d : Dev) : Grows d (noteJob j status d) :=
  (noteJob_k (L := [.ciph]) rfl (.refl _ d)).grows (by decide)

theorem startJob_grows (j : CJob) (d : Dev) : Grows d (startJob j d).2 := by
  have counts (b : Bool) : Grows d (if b then takeCounter j.page d else d) := by
    split
    · exact takeCounter_grows j.page d
    · exact .refl d
  unfold startJob
  split
  · exact .refl d
  · dsimp only
    split
    · exact (counts _).trans ((setPage_keeps _ _ _).grows (by decide))
    · exact counts _

theorem endJob_grows (j : CJob) (d : Dev) : Grows d (endJob j d) := by
  have frees (b : Bool) (p : Page) : Grows d (if b then setPage j.page p d else d) := by
    split
    · exact (setPage_keeps _ _ _).grows (by decide)
    · exact .refl d
  unfold endJob
  dsimp only
  split
  · exact (frees _ _).trans (noteJob_grows _ _ _)
  · exact (frees _ _).trans (emits_grows _ _)
  · exact (frees _ _).trans (noteJob_grows _ _ _)

theorem loadKey_grows (p : Nat) (key : List Byte) (salt : W32) (ctr : W64) (d : Dev) : Grows d (loadKey p key salt ctr d) := by
  have sets (v : Page) : Grows d (setPage p v d) := (setPage_keeps p v d).grows (by decide)
  unfold loadKey
  dsimp only
  split
  · exact (sets _).trans (logEvent_grows _ _ _ _)
  · exact sets _

theorem pageIdle_grows (p : Nat) (d : Dev) : Grows d (pageIdle p d) := by
  have frees (f : Ciph → Ciph) (x : Dev) : Grows x (onCiph f x) := (onCiph_keeps f x).grows (by decide)
  have erases : Grows d (erasePage p d) := (erasePage_k (L := [.ciph]) rfl (.refl _ d)).grows (by decide)
  unfold pageIdle
  split
  · exact .refl d
  dsimp only
  split
  · exact (erases.trans (frees _ _)).trans (complete_grows _ _ _ _ _ _)
  · exact erases.trans (frees _ _)
  · exact ((loadKey_grows p _ _ _ d).trans (frees _ _)).trans (complete_grows _ _ _ _ _ _)
  · exact .refl d

theorem laneNext_grows (lane : Fin 2) (n : Nat) (d : Dev) : Grows d (laneNext lane n d) := by
  have ciph (f : Ciph → Ciph) (x : Dev) : Grows x (onCiph f x) := (onCiph_keeps f x).grows (by decide)
  induction n generalizing d with
  | zero => exact ciph _ d
  | succ n ih =>
    unfold laneNext
    split
    · exact ciph _ d
    · next j _ =>
      have takes := ciph (fun c => { c with jobs := c.jobs.erase j }) d
      dsimp only
      split
      · exact takes.trans (((noteJob_grows _ _ _).trans (pageIdle_grows _ _)).trans (ih _))
      · have starts (f : Ciph → Ciph) := (takes.trans (startJob_grows j _)).trans (ciph f _)
        split
        · exact (starts _).trans (ciph _ _)
        · exact (starts _).trans (((endJob_grows _ _).trans (pageIdle_grows _ _)).trans (ih _))

/-! ## A message to the partner leaves at once -/

/-- A job that waits on page 0 to encrypt a message of one segment to the partner (R280). -/
structure Announces (o : Out) (j : CJob) : Prop where
  page : j.page = 0
  chan : j.chan = none
  started : j.started = false
  later : j.later = false
  long : j.long = false
  timed : j.timed = false
  aborting : j.aborting = none
  msg : j.msg = some o

theorem ready_of_announces (a : Announces o j) : ready d j = true := by
  unfold ready
  rw [a.started, a.later, a.long]
  rfl

theorem pickJob_of_only (jobs : d.ciph.jobs = [j]) (a : Announces o j) (last : Bool) : pickJob d last = some j := by
  have own : jobOf d 0 = some j := by
    unfold jobOf
    rw [jobs]
    simp [a.page, ready_of_announces a]
  have others : (rrOrder d.ciph.rrNext).findSome? (jobOf d) = none := by
    refine List.findSome?_eq_none_iff.mpr fun p hp => ?_
    obtain ⟨i, -, rfl⟩ := List.mem_map.mp hp
    unfold jobOf
    rw [jobs]
    simp [a.page]
  unfold pickJob
  dsimp only
  rw [own, others]
  cases last with
  | true => rfl
  | false => rfl

theorem jobRefused_of_announces (on : d.ciphOn = true) (keyed : (d.page 0).state = .ready) (own : (d.page 0).domain = 0)
    (a : Announces o j) : jobRefused d j = none := by
  unfold jobRefused
  rw [a.page, a.chan]
  dsimp only
  rw [on, keyed, own]
  simp

theorem mem_endJob (msg : j.msg = some o) (aborting : j.aborting = none) (d : Dev) : o ∈ (endJob j d).out := by
  unfold endJob
  rw [msg, aborting]
  simp

theorem startJob_msg (j : CJob) (d : Dev) : (startJob j d).1.msg = j.msg := by
  unfold startJob; split <;> rfl

theorem startJob_aborting (j : CJob) (d : Dev) : (startJob j d).1.aborting = j.aborting := by
  unfold startJob; split <;> rfl

/-- A lane that finds the message alone sends it. -/
theorem mem_laneNext (lane : Fin 2) (n : Nat) (jobs : d.ciph.jobs = [j]) (a : Announces o j) (free : jobRefused d j = none) :
    o ∈ (laneNext lane (n + 1) d).out := by
  have accepted (f : Ciph → Ciph) (h : ∀ c, (f c).pages = c.pages) : jobRefused (onCiph f d) j = none := by
    unfold jobRefused Dev.page at free ⊢
    rw [onCiph_ciph, h]
    exact free
  unfold laneNext
  rw [pickJob_of_only jobs a]
  dsimp only
  rw [a.started, if_neg Bool.false_ne_true, accepted (fun c => { c with jobs := c.jobs.erase j }) (fun _ => rfl)]
  dsimp only
  rw [a.timed, if_neg Bool.false_ne_true]
  refine ((pageIdle_grows _ _).trans (laneNext_grows _ _ _)).mem (mem_endJob ?_ ?_ _)
  · rw [startJob_msg, a.msg]
  · rw [startJob_aborting, a.aborting]

/-- One lane's part of `kickLanes`. -/
def kickLane (lane : Fin 2) (d : Dev) : Dev :=
  if (laneJob lane d.ciph).isNone then laneNext lane (d.ciph.jobs.length + 1) d else d

theorem kickLanes_eq (d : Dev) : kickLanes d = kickLane 1 (kickLane 0 d) := rfl

theorem kickLane_grows (lane : Fin 2) (d : Dev) : Grows d (kickLane lane d) := by
  unfold kickLane
  split
  · exact laneNext_grows _ _ _
  · exact .refl d

theorem mem_kickLane (lane : Fin 2) (free : laneJob lane d.ciph = none) (jobs : d.ciph.jobs = [j]) (a : Announces o j)
    (accepted : jobRefused d j = none) : o ∈ (kickLane lane d).out := by
  unfold kickLane
  rw [free, Option.isNone_none, if_pos rfl]
  exact mem_laneNext lane _ jobs a accepted

theorem kickLane_of_busy (lane : Fin 2) (busy : laneJob lane d.ciph ≠ none) : kickLane lane d = d := by
  unfold kickLane
  rw [if_neg (by rwa [Option.isNone_iff_eq_none])]

theorem mem_kickLanes (jobs : d.ciph.jobs = [j]) (a : Announces o j) (accepted : jobRefused d j = none)
    (lane : d.ciph.lane0 = none ∨ d.ciph.lane1 = none) : o ∈ (kickLanes d).out := by
  rw [kickLanes_eq]
  by_cases first : laneJob 0 d.ciph = none
  · exact (kickLane_grows 1 _).mem (mem_kickLane 0 first jobs a accepted)
  · rw [kickLane_of_busy 0 first]
    exact mem_kickLane 1 (lane.resolve_left first) jobs a accepted

theorem leBytes_length (n v : Nat) : (leBytes n v).length = n := by
  induction n generalizing v with
  | zero => rfl
  | succ n ih => exact congrArg (· + 1) (ih _)

theorem tangoHead_length (type level sender : Nat) (role : Byte) (length epoch seq : Nat) :
    (tangoHead type level sender role length epoch seq).length = 24 := by
  unfold tangoHead wordBytes zeros
  simp [leBytes_length]

/-- A head that speaks sends what it has for its partner at once (R280, R281). -/
theorem mem_tangoSend {m : Nat × List Byte} (v : Speaks d) (is : tangoMsg o = some m) (fits : m.2.length ≤ 2 ^ 32) (qp : Nat) :
    o ∈ (tangoSend qp o d).out := by
  obtain ⟨session, ⟨on, none_, lane⟩, keyed, own, -, erase, rekey⟩ := v
  unfold tangoSend Dev.tangoJob
  rw [session, keyed, is]
  simp only [Option.map_some, beq_self_eq_true, Bool.and_self, if_true]
  unfold submitJob
  dsimp only
  rw [if_neg (by rw [tangoHead_length, List.length_nil]; omega)]
  have quiet : ((d.page 0).erase.isSome || (d.page 0).rekey.isSome) = false := by rw [erase, rekey]; rfl
  refine mem_kickLanes (j := _) (by rw [onCiph_ciph, onTango_ciph, none_]; rfl) ?_ ?_ lane
  · exact ⟨rfl, rfl, rfl, quiet, rfl, rfl, rfl, rfl⟩
  · exact jobRefused_of_announces on keyed own ⟨rfl, rfl, rfl, quiet, rfl, rfl, rfl, rfl⟩

end Sys2Proof.Machine
end

section
/-! PROOF. Reduced power and the journal dump (R194), the watchdog and the cores (R29, R30). -/

namespace Sys2Proof.Machine
open Sys2Proof

variable {d e : Dev} {s : State}

theorem tangoSend_keeps (qp : Nat) (o : Out) (d : Dev) : Keeps [.out, .cat, .ciph, .hif, .tango, .dma, .evr] d (tangoSend qp o d) :=
  tangoSend_k rfl (.refl _ d)

theorem porLow_of_live (live : d.live = true) : d.glb.porLow = false := by
  unfold Dev.live at live
  simp_all

/-! ## Reduced power (R194) -/

theorem reducePower_glb (cause : Nat) (d : Dev) : (reducePower cause d).glb = { d.glb with reduced := true } := by
  rw [← tangoSend_keeps 0 (.leaving cause) d .glb (by decide)]
  rfl

theorem reducePower_live (cause : Nat) (d : Dev) : (reducePower cause d).live = false := by
  unfold Dev.live
  rw [reducePower_glb]
  simp

theorem slIdle_mem_reducePower (cause : Nat) (d : Dev) : Out.slIdle ∈ (reducePower cause d).out :=
  List.mem_append_right _ (List.mem_singleton_self _)

theorem leaving_mem_reducePower (v : Speaks d) (cause : Nat) : Out.leaving cause ∈ (reducePower cause d).out :=
  List.mem_append_left _ (mem_tangoSend v rfl (by rw [leBytes_length]; decide) 0)

theorem powerFail_of_live (live : d.live = true) (booted : d.glb.bootHold = false) :
    powerFail d = reducePower 0 (onGlb (fun g => { g with pwrfail := true }) d) := by
  unfold powerFail
  rw [live, booted]
  rfl

/-- A head that stops already, or that the boot ROM holds, notes the failure alone. -/
theorem powerFail_of_stopped (h : d.live = false ∨ d.glb.bootHold = true) :
    powerFail d = onGlb (fun g => { g with pwrfail := true }) d := by
  unfold powerFail
  refine if_neg ?_
  rcases h with l | b
  · rw [l]; simp
  · rw [b]; simp

/-! ## The watchdog (R30, R407) -/

theorem page_congr (h : e.ciph = d.ciph) (p : Nat) : e.page p = d.page p := by
  unfold Dev.page
  rw [h]

/-- No page is READY once the keys are gone (R136). -/
theorem zeroise_page (p : Nat) (d : Dev) : ((zeroise d).page p).state ≠ .ready := by
  unfold zeroise Dev.page tgetD
  rw [onCiph_ciph]
  dsimp only
  induction d.ciph.pages with
  | nil =>
    unfold Page.reset
    simp only [List.map_nil, tget, Option.getD_none]
    split <;> decide
  | cons x t ih =>
    simp only [List.map_cons, tget]
    split
    · simp only [Option.getD_some]
      split <;> decide
    · exact ih

theorem haltHead_fatal (d : Dev) : (haltHead d).glb.fatal = true := rfl

theorem haltHead_page (p : Nat) (d : Dev) : ((haltHead d).page p).state ≠ .ready := zeroise_page p _

/-- A head that ran is halted, recorded, and dumps what it must: after the halt no key comes back. -/
theorem fatalStop_of_running (runs : d.glb.fatal = false) (code : Nat) (inst : W32) (words : List W32) (noDump : Bool) :
    (fatalStop code inst words noDump d).glb.fatal = true ∧ ∀ p, ((fatalStop code inst words noDump d).page p).state ≠ .ready := by
  have stays {x : Dev} (l : Lasts (haltHead d) x) (k : Keeps [.evr, .out, .glb, .vault, .cat, .hif, .dma] (haltHead d) x) :
      x.glb.fatal = true ∧ ∀ p, (x.page p).state ≠ .ready :=
    ⟨l.fatal (haltHead_fatal d), fun p => by rw [page_congr (k .ciph (by decide))]; exact haltHead_page p d⟩
  have last : Lasts (haltHead d) (fatalRecord code inst words (haltHead d)) := (fatalRecord_k rfl (.refl _ _)).lasts
  unfold fatalStop
  rw [runs, if_neg Bool.false_ne_true]
  dsimp only
  split
  · exact stays (last.trans (onVault_k rfl (.refl _ _)).lasts) (onVault_k rfl (fatalRecord_k rfl (.refl _ _)))
  split
  · exact stays (last.trans (writeBodies_lasts _)) (writeBodies_k rfl (fatalRecord_k rfl (.refl _ _)))
  · exact stays last (fatalRecord_k rfl (.refl _ _))

theorem running_of_coresRun (run : d.coresRun = true) : d.glb.fatal = false := by
  unfold Dev.coresRun at run
  simp_all

/-! ## A core's access to nothing (R29) -/

theorem logEvent_recorded (code : Nat) (inst : W32) (words : List W32) (d : Dev) : Recorded code inst d (logEvent code inst words d) := by
  have recorded := recordEvent_recorded false code inst words d
  unfold logEvent
  generalize recordEvent false code inst words d = x at recorded ⊢
  obtain ⟨d1, _ | r⟩ := x
  · exact recorded
  · intro passes
    dsimp only
    rw [notifyWhere_keeps _ _ _ d1 .evr (by decide)]
    exact recorded passes

theorem coreAccess_glb (core : Fin 4) (addr : W64) (d : Dev) : (coreAccess core addr d).glb = d.glb :=
  logEvent_keeps _ _ _ _ .glb (by decide)

theorem coreError_mem_coreAccess (core : Fin 4) (addr : W64) (d : Dev) : Out.coreError core ∈ (coreAccess core addr d).out :=
  (logEvent_grows _ _ _ _).mem (List.mem_append_right _ (List.mem_singleton_self _))

theorem coreAccess_recorded (core : Fin 4) (addr : W64) (d : Dev) :
    Recorded 0x0002 (BitVec.ofNat 32 core.val) d (coreAccess core addr d) :=
  logEvent_recorded _ _ _ (emit (.coreError core) d)

/-! ## The journal dump (R194) -/

theorem holdHead_held (d : Dev) : (holdHead d).glb.held = true := rfl

theorem holdHead_shut (d : Dev) : (holdHead d).glb.shut = none := rfl

theorem holdHead_dump (d : Dev) : (holdHead d).vault.dump = .complete := rfl

theorem holdHead_of_no_shutdown (quiet : d.glb.shut = none) :
    holdHead d = { d with glb := { d.glb with held := true }, vault := { d.vault with dump := .complete } } := by
  unfold holdHead
  dsimp only
  rw [quiet]

theorem holdHead_answers {h : Hdr} (shut : d.glb.shut = some h) (waits : d.outstanding h.chan h.tag = true)
    (lives : tget d.hif.dying h.chan = none) (runs : d.glb.fatal = false) : Answered 0x1C h 0 0 0 d (holdHead d) := by
  obtain ⟨pre, post, ph, out⟩ := complete_answers h 0x1C 0 0 0 d waits lives runs
  refine ⟨pre, post, ph, ?_⟩
  unfold holdHead
  rw [shut]
  exact out

/-- The dump pair and the records that the dump writes rest on the vault, the clock and HEAD_ID alone. -/
theorem dumpPair_congr (v : e.vault = d.vault) (n : e.now = d.now) (g : e.glb = d.glb) : e.dumpPair = d.dumpPair := by
  unfold Dev.dumpPair Dev.drive
  rw [v, n, g]

theorem dumpBody_congr (v : e.vault = d.vault) : dumpBody e = dumpBody d := by
  unfold dumpBody
  rw [v]

theorem writeBodies_of_empty (empty : d.vault.journal = []) : writeBodies d = holdHead d := by
  unfold writeBodies
  rw [empty]
  split
  · rfl
  · rfl

theorem writeBodies_of_no_pair (none_ : d.dumpPair = none) : writeBodies d = holdHead d := by
  unfold writeBodies
  rw [none_]

/-- The writes of the bodies to the two drives of the dump pair (R194, step 4). -/
def bodyWrites (p : Nat × Nat) (d : Dev) : List Out :=
  dumpWrites p.1 (stripLba d.glb.headB + 1) ((dumpBody d).length / 262144 + 1) (dumpBody d) ++
    dumpWrites p.2 (stripLba d.glb.headB + 1) ((dumpBody d).length / 262144 + 1) (dumpBody d)

theorem bodyWrites_congr (v : e.vault = d.vault) (g : e.glb = d.glb) (p : Nat × Nat) : bodyWrites p e = bodyWrites p d := by
  unfold bodyWrites
  rw [dumpBody_congr v, g]

theorem writeBodies_of_pair {p : Nat × Nat} (pair : d.dumpPair = some p) (live : d.vault.journal ≠ []) :
    writeBodies d = emits (bodyWrites p d) (onVault (fun v => { v with dump := .bodies p, dumpSeq := next64 v.dumpSeq }) d) := by
  obtain ⟨a, b⟩ := p
  unfold writeBodies
  rw [pair]
  dsimp only
  rw [if_neg (by rwa [List.isEmpty_iff])]
  rfl

theorem freezeJournal_of_empty (empty : d.vault.journal = []) :
    freezeJournal d = holdHead (tangoSend 0 (.frozen (prev64 d.vault.jseq)) d) :=
  writeBodies_of_empty (by rw [tangoSend_keeps _ _ d .vault (by decide), empty])

theorem freezeJournal_of_no_pair (none_ : d.dumpPair = none) :
    freezeJournal d = holdHead (tangoSend 0 (.frozen (prev64 d.vault.jseq)) d) := by
  have told := tangoSend_keeps 0 (.frozen (prev64 d.vault.jseq)) d
  exact writeBodies_of_no_pair
    ((dumpPair_congr (told .vault (by decide)) (told .now (by decide)) (told .glb (by decide))).trans none_)

theorem freezeJournal_of_pair {p : Nat × Nat} (pair : d.dumpPair = some p) (live : d.vault.journal ≠ []) :
    freezeJournal d = emits (bodyWrites p d) (onVault (fun v => { v with dump := .bodies p, dumpSeq := next64 v.dumpSeq })
      (tangoSend 0 (.frozen (prev64 d.vault.jseq)) d)) := by
  have told := tangoSend_keeps 0 (.frozen (prev64 d.vault.jseq)) d
  have vault := told .vault (by decide)
  have glb := told .glb (by decide)
  unfold freezeJournal
  rw [writeBodies_of_pair ((dumpPair_congr vault (told .now (by decide)) glb).trans pair) (by rw [vault]; exact live),
    bodyWrites_congr vault glb]

theorem frozen_mem_tangoSend (v : Speaks d) (n : Nat) : Out.frozen n ∈ (tangoSend 0 (.frozen n) d).out :=
  mem_tangoSend v rfl (by rw [leBytes_length]; decide) 0

theorem writeHeaders_of_bodies {p : Nat × Nat} (bodies : d.vault.dump = .bodies p) :
    writeHeaders d = emits [.nvmeWrite 4 p.1 (stripLba d.glb.headB) 1 (sysTag (stripLba d.glb.headB)) 0 (dumpHeader d 0 p.2),
      .nvmeWrite 4 p.2 (stripLba d.glb.headB) 1 (sysTag (stripLba d.glb.headB)) 0 (dumpHeader d 1 p.1)]
      (onVault (fun v => { v with dump := .headers p }) d) := by
  unfold writeHeaders
  rw [bodies]

theorem writeHeaders_of_no_bodies (h : ∀ p, d.vault.dump ≠ .bodies p) : writeHeaders d = d := by
  unfold writeHeaders
  split
  · next a b e => exact absurd e (h (a, b))
  · rfl

theorem endDump_of_headers {p : Nat × Nat} (headers : d.vault.dump = .headers p) : endDump d = holdHead d := by
  unfold endDump
  rw [headers]

theorem endDump_of_no_headers (h : ∀ p, d.vault.dump ≠ .headers p) : endDump d = d := by
  unfold endDump
  split
  · next p e => exact absurd e (h p)
  · rfl

/-! ## The commands -/

theorem exec_pwrfailN (high : s.dev.glb.porLow = false) :
    exec .pwrfailN s = .next { s with dev := powerFail (onGlb (fun g => { g with pwrHigh := false }) s.dev) } := by
  change Host.Outcome.next { s with dev := when (!s.dev.glb.porLow) (fun d => powerFail (onGlb _ d)) s.dev } = _
  rw [high, Bool.not_false, when_true]

theorem exec_supplyMonitorTrip (r : Fin 3) (high : s.dev.glb.porLow = false) :
    exec (.supplyMonitorTrip r) s = .next { s with dev := powerFail s.dev } := by
  change Host.Outcome.next { s with dev := when (!s.dev.glb.porLow) powerFail s.dev } = _
  rw [high, Bool.not_false, when_true]

theorem exec_power_of_porLow (r : Fin 3) (low : s.dev.glb.porLow = true) :
    exec .pwrfailN s = .next s ∧ exec (.supplyMonitorTrip r) s = .next s := by
  constructor
  · change Host.Outcome.next { s with dev := when (!s.dev.glb.porLow) (fun d => powerFail (onGlb _ d)) s.dev } = _
    rw [low, Bool.not_true, when_false]
  · change Host.Outcome.next { s with dev := when (!s.dev.glb.porLow) powerFail s.dev } = _
    rw [low, Bool.not_true, when_false]

theorem exec_core (c : Fin 4) (x : W64) {run : Bool} (h : s.dev.coresRun = run) :
    exec (.watchdog c x) s = .next { s with
      dev := when run (fatalStop 0x0001 (BitVec.ofNat 32 c.val) [x.setWidth 32, (x >>> 32).setWidth 32] false) s.dev } ∧
    exec (.coreAccess c x) s = .next { s with dev := when run (coreAccess c x) s.dev } := by
  subst h
  exact ⟨rfl, rfl⟩

theorem exec_dumpFreeze (high : s.dev.glb.porLow = false) (armed : s.dev.vault.dump = .armed) :
    exec .dumpFreeze s = .next { s with dev := freezeJournal s.dev } := by
  change Host.Outcome.next { s with dev := when (!s.dev.glb.porLow && s.dev.vault.dump == DumpSt.armed) freezeJournal s.dev } = _
  rw [high, armed]
  rfl

theorem exec_dumpFreeze_of_not_armed (h : s.dev.vault.dump ≠ .armed) : exec .dumpFreeze s = .next s := by
  change Host.Outcome.next { s with dev := when (!s.dev.glb.porLow && s.dev.vault.dump == DumpSt.armed) freezeJournal s.dev } = _
  rw [beq_false_of_ne h, Bool.and_false, when_false]

theorem exec_dumpBodiesDone (high : s.dev.glb.porLow = false) : exec .dumpBodiesDone s = .next { s with dev := writeHeaders s.dev } := by
  change Host.Outcome.next { s with dev := when (!s.dev.glb.porLow) writeHeaders s.dev } = _
  rw [high, Bool.not_false, when_true]

theorem exec_dumpComplete (high : s.dev.glb.porLow = false) : exec .dumpComplete s = .next { s with dev := endDump s.dev } := by
  change Host.Outcome.next { s with dev := when (!s.dev.glb.porLow) endDump s.dev } = _
  rw [high, Bool.not_false, when_true]

/-- A running head whose power fails goes into reduced power: what its pins show, and that it tells its partner. -/
theorem powerFail_stops (live : d.live = true) (booted : d.glb.bootHold = false) :
    (powerFail d).glb = { d.glb with pwrfail := true, reduced := true } ∧ (powerFail d).vault.dump = .armed ∧
    (powerFail d).live = false ∧ Out.slIdle ∈ (powerFail d).out ∧ (Speaks d → Out.leaving 0 ∈ (powerFail d).out) := by
  rw [powerFail_of_live live booted]
  refine ⟨reducePower_glb 0 _, rfl, reducePower_live 0 _, slIdle_mem_reducePower 0 _, fun v => ?_⟩
  exact leaving_mem_reducePower (d := onGlb (fun g => { g with pwrfail := true }) d) v 0

/-- Settles O23: the power commands by whether the head runs, the cores' by whether they run, and the dump step by step. -/
theorem powerAndDump : Obligations.PowerAndDump := by
  unfold Obligations.PowerAndDump
  refine ⟨⟨fun s r low => exec_power_of_porLow r low, fun s r live booted => ⟨?_, ?_⟩, fun s r high stopped => ⟨?_, ?_⟩,
    fun s c x run => ⟨?_, ?_⟩, fun s c x halted => exec_core c x halted⟩, fun s high => ⟨fun h => exec_dumpFreeze_of_not_armed h,
    fun armed empty => ?_, fun armed none_ => ?_, fun p armed live pair => ?_, fun h => ?_, fun h => ?_, fun p bodies => ?_,
    fun p headers => ⟨fun quiet => ?_, fun h shut waits lives runs => ?_⟩⟩⟩
  · obtain ⟨glb, dump, stopped, idle, told⟩ := powerFail_stops (d := onGlb (fun g => { g with pwrHigh := false }) s.dev) live booted
    exact ⟨_, exec_pwrfailN (porLow_of_live live), by rw [glb], by rw [glb]; rfl, by rw [glb], dump, stopped, idle, told⟩
  · obtain ⟨glb, dump, stopped, idle, -⟩ := powerFail_stops live booted
    exact ⟨_, exec_supplyMonitorTrip r (porLow_of_live live), by rw [glb], by rw [glb], by rw [glb], dump, stopped, idle⟩
  · rw [exec_pwrfailN high, powerFail_of_stopped (d := onGlb (fun g => { g with pwrHigh := false }) s.dev) stopped]
    rfl
  · rw [exec_supplyMonitorTrip r high, powerFail_of_stopped stopped]
    rfl
  · exact ⟨_, (exec_core c x run).1, fatalStop_of_running (running_of_coresRun run) _ _ _ _⟩
  · exact ⟨_, (exec_core c x run).2, coreAccess_glb c x _, coreError_mem_coreAccess c x _, coreAccess_recorded c x _⟩
  · exact ⟨_, exec_dumpFreeze high armed, by rw [freezeJournal_of_empty empty]; exact ⟨holdHead_held _, holdHead_dump _⟩⟩
  · exact ⟨_, exec_dumpFreeze high armed, by rw [freezeJournal_of_no_pair none_]; exact ⟨holdHead_held _, holdHead_dump _⟩⟩
  · have told := tangoSend_keeps 0 (.frozen (prev64 s.dev.vault.jseq)) s.dev
    have vault := told .vault (by decide)
    refine ⟨_, (tangoSend 0 (.frozen (prev64 s.dev.vault.jseq)) s.dev).out, exec_dumpFreeze high armed, ?_⟩
    rw [freezeJournal_of_pair pair live]
    refine ⟨rfl, ?_, told .glb (by decide), ?_, fun v => List.mem_append_left _ (frozen_mem_tangoSend v _), ?_⟩
    · exact congrArg (fun v => next64 v.dumpSeq) vault
    · exact (congrArg Vault.journal vault :)
    · rw [emits_out, onVault_out, bodyWrites, List.append_assoc]
  · rw [exec_dumpBodiesDone high, writeHeaders_of_no_bodies h]
  · rw [exec_dumpComplete high, endDump_of_no_headers h]
  · rw [exec_dumpBodiesDone high, writeHeaders_of_bodies bodies]
    rfl
  · rw [exec_dumpComplete high, endDump_of_headers headers, holdHead_of_no_shutdown quiet]
  · refine ⟨_, exec_dumpComplete high, ?_⟩
    rw [endDump_of_headers headers]
    exact ⟨holdHead_answers shut waits lives runs, holdHead_held _, holdHead_shut _, holdHead_dump _⟩

end Sys2Proof.Machine
end

section
/-! PROOF. Packets of SiethLink (R47 to R55): their checksums, the fields of a body, what sending one changes of a group, and which checks
of R70 a packet passes. -/

namespace Sys2Proof.Machine
open Sys2Proof

variable {g : Fin 4} {p : Packet} {d e x y : Dev} {o : Out}

/-! ## Fields of a body (R6) -/

theorem leNat_leBytes (n v : Nat) : leNat (leBytes n v) = v % 256 ^ n := by
  induction n generalizing v with
  | zero => rw [pow_zero, Nat.mod_one]; rfl
  | succ n ih =>
    unfold leBytes leNat
    rw [ih, BitVec.toNat_ofNat, pow_succ' 256 n, Nat.mod_mul (a := 256)]

theorem wordBytes_length {w : Nat} (v : BitVec w) : (wordBytes v).length = w / 8 := leBytes_length _ _

theorem zeros_length (n : Nat) : (zeros n).length = n := List.length_replicate

theorem fieldAt_append_right {a : List Byte} {start : Nat} (h : a.length ≤ start) (b : List Byte) (n : Nat) :
    fieldAt (a ++ b) start n = fieldAt b (start - a.length) n := by
  unfold fieldAt slice
  rw [List.drop_append, List.drop_eq_nil_of_le h, List.nil_append]

theorem fieldAt_append_left {a : List Byte} {n : Nat} (h : a.length = n) (b : List Byte) : fieldAt (a ++ b) 0 n = leNat a := by
  unfold fieldAt slice
  rw [List.drop_zero, List.take_left' h]

theorem leNat_wordBytes_byte (v : Byte) : leNat (wordBytes v) = v.toNat :=
  (leNat_leBytes 1 v.toNat).trans (Nat.mod_eq_of_lt v.isLt)

theorem leNat_wordBytes_half (v : W16) : leNat (wordBytes v) = v.toNat :=
  (leNat_leBytes 2 v.toNat).trans (Nat.mod_eq_of_lt v.isLt)

theorem leNat_wordBytes_word (v : W32) : leNat (wordBytes v) = v.toNat :=
  (leNat_leBytes 4 v.toNat).trans (Nat.mod_eq_of_lt v.isLt)

/-- The fields of a CAP body, each in its place (R55). -/
theorem capBytes_fields (c : Cap) :
    fieldAt (capBytes c) 2 1 = c.kind.toNat ∧ fieldAt (capBytes c) 18 2 = c.status.toNat ∧
    fieldAt (capBytes c) 20 4 = c.maxRate % 2 ^ 32 ∧ fieldAt (capBytes c) 28 4 = c.nextGsn.toNat ∧
    fieldAt (capBytes c) 32 4 = c.initLimit.toNat ∧ fieldAt (capBytes c) 36 2 = c.runoutFrames % 2 ^ 16 ∧
    fieldAt (capBytes c) 40 8 = c.runoutBytes % 2 ^ 64 := by
  unfold capBytes
  simp only [List.append_assoc, fieldAt_append_right, fieldAt_append_left, wordBytes_length, leBytes_length, zeros_length,
    leNat_wordBytes_byte, leNat_wordBytes_half, leNat_wordBytes_word, leNat_leBytes, Nat.reduceDiv, Nat.reduceLeDiff, Nat.reduceSub,
    Nat.reducePow, and_self]

/-! ## Checksums (R49) -/

theorem sealPacket_hcrc (p : Packet) : (sealPacket p).hcrc = hcrcOf (sealPacket p) := rfl

theorem sealPacket_crc (p : Packet) : (sealPacket p).crc = pcrcOf (sealPacket p) := rfl

theorem controlPacket_hcrc (g : Fin 4) (t : Byte) (sid : W16) (gsn word : W32) (now : Nat) (l : List Byte) :
    (controlPacket g t sid gsn word now l).hcrc = hcrcOf (controlPacket g t sid gsn word now l) := sealPacket_hcrc _

theorem controlPacket_crc (g : Fin 4) (t : Byte) (sid : W16) (gsn word : W32) (now : Nat) (l : List Byte) :
    (controlPacket g t sid gsn word now l).crc = pcrcOf (controlPacket g t sid gsn word now l) := sealPacket_crc _

/-! ## One group -/

theorem onGroup_at (g : Fin 4) (f : Group → Group) (d : Dev) : (onGroup g f d).sl.groups.at g = f (d.sl.groups.at g) := by
  rw [onGroup_sl, four_at_put]

theorem onGroup_at_ne {h : Fin 4} (n : h ≠ g) (f : Group → Group) (d : Dev) : (onGroup g f d).sl.groups.at h = d.sl.groups.at h := by
  rw [onGroup_sl, four_at_put_ne _ _ _ _ _ n]

/-- A packet sent moves the line of its group on, and nothing else of the link (R38, R39). -/
theorem slSend_at (g : Fin 4) (p : Packet) (d : Dev) : ∃ t, (slSend g p d).sl.groups.at g = { d.sl.groups.at g with tx := t } := by
  unfold slSend
  rw [emit_sl, onGroup_at]
  exact ⟨_, rfl⟩

theorem slSend_at_ne {h : Fin 4} (n : h ≠ g) (p : Packet) (d : Dev) : (slSend g p d).sl.groups.at h = d.sl.groups.at h := by
  unfold slSend
  rw [emit_sl, onGroup_at_ne n]

theorem slSend_out (g : Fin 4) (p : Packet) (d : Dev) : ∃ l, (slSend g p d).out = d.out ++ [.slTx g p l] := ⟨_, rfl⟩

theorem slSend_keeps (g : Fin 4) (p : Packet) (d : Dev) : Keeps [.sl, .out] d (slSend g p d) := slSend_k rfl (.refl _ d)

theorem slSend_grows (g : Fin 4) (p : Packet) (d : Dev) : Grows d (slSend g p d) := ⟨_, rfl⟩

/-- What leaves between two states is among what is new. -/
theorem Grows.mem_new (h : Grows d x) (sent : y.out = x.out ++ [o]) (k : Grows y e) : o ∈ e.out.drop d.out.length := by
  obtain ⟨l, hl⟩ := h
  obtain ⟨m, hm⟩ := k
  rw [hm, sent, hl, List.append_assoc, List.append_assoc, List.drop_left]
  simp

end Sys2Proof.Machine
end

section
/-! PROOF. A packet received (R36, R60, R68, R70, R73, R75, R84): the checks, then the slot that it takes. -/

namespace Sys2Proof.Machine
open Sys2Proof

variable {g : Fin 4} {p : Packet} {d : Dev} {s : State}

/-! ## Serial order (R11) -/

theorem precedes_self {w : Nat} (a : BitVec w) : precedes a a = false := by
  unfold precedes sdiff
  simp

theorem precedes_asymm {a b : W32} (h : precedes a b = true) : precedes b a = false := by
  unfold precedes sdiff at *
  simp only [decide_eq_true_eq, decide_eq_false_iff_not] at *
  bv_omega

/-! ## The checks of R70 -/

/-- A packet has come on a group's line: counted, and the bad blocks behind it forgotten (R36, R38). -/
def arrive (g : Fin 4) (d : Dev) : Dev :=
  let x := d.sl.groups.at g
  onGroup g (fun y => { y with rx := { count := x.rx.count + 1,
                                       bad := x.rx.bad.filter (fun k => decide ((packetBlocks x.rx.count).2 ≤ k)) } }) d

/-- A packet has come that passes every check. -/
def passed (g : Fin 4) (d : Dev) : Dev := onGroup g (fun x => { x with crcRun := 0 }) (arrive g d)

theorem arrive_at (g : Fin 4) (d : Dev) : ∃ r, (arrive g d).sl.groups.at g = { d.sl.groups.at g with rx := r } := ⟨_, onGroup_at g _ d⟩

theorem arrive_keeps (g : Fin 4) (d : Dev) : Keeps [.sl] d (arrive g d) := onGroup_keeps g _ d

theorem arrive_check (g : Fin 4) (p : Packet) (d : Dev) : (arrive g d).checkPacket g p = d.checkPacket g p := by
  obtain ⟨r, e⟩ := arrive_at g d
  unfold Dev.checkPacket
  rw [e]

theorem passed_at (g : Fin 4) (d : Dev) : ∃ r, (passed g d).sl.groups.at g = { d.sl.groups.at g with rx := r, crcRun := 0 } := by
  obtain ⟨r, e⟩ := arrive_at g d
  unfold passed
  rw [onGroup_at, e]
  exact ⟨r, rfl⟩

theorem passed_at_ne {h : Fin 4} (n : h ≠ g) (d : Dev) : (passed g d).sl.groups.at h = d.sl.groups.at h :=
  (onGroup_at_ne n _ _).trans (onGroup_at_ne n _ d)

theorem passed_keeps (g : Fin 4) (d : Dev) : Keeps [.sl] d (passed g d) := onGroup_k rfl (arrive_keeps g d)

theorem checked_of_down {f : Dev → Dev} (down : linkIsUp (d.sl.groups.at g).link = false) : checked g p f d = d := by
  unfold checked
  dsimp only
  rw [down, if_neg Bool.false_ne_true]

theorem checked_of_spoilt {f : Dev → Dev} (up : linkIsUp (d.sl.groups.at g).link = true) (bad : (d.sl.groups.at g).rx.spoilt = true) :
    checked g p f d = arrive g d := by
  unfold checked
  dsimp only
  rw [if_pos up, if_pos bad]
  rfl

theorem checked_of_fault {f : Dev → Dev} {e : PktFault} (up : linkIsUp (d.sl.groups.at g).link = true)
    (clean : (d.sl.groups.at g).rx.spoilt = false) (wrong : d.checkPacket g p = some e) :
    checked g p f d = faultyPacket g p e (arrive g d) := by
  rw [← arrive_check] at wrong
  unfold checked
  dsimp only
  rw [if_pos up, clean, if_neg Bool.false_ne_true]
  change (match (arrive g d).checkPacket g p with
    | some e => faultyPacket g p e (arrive g d)
    | none => _) = _
  rw [wrong]

theorem checked_of_sound {f : Dev → Dev} (up : linkIsUp (d.sl.groups.at g).link = true) (clean : (d.sl.groups.at g).rx.spoilt = false)
    (sound : d.checkPacket g p = none) : checked g p f d = f (passed g d) := by
  rw [← arrive_check] at sound
  unfold checked
  dsimp only
  rw [if_pos up, clean, if_neg Bool.false_ne_true]
  change (match (arrive g d).checkPacket g p with
    | some e => _
    | none => f (passed g d)) = _
  rw [sound]

theorem checkPacket_of_hcrc (h : p.hcrc ≠ hcrcOf p) : d.checkPacket g p = some .hcrc := by
  unfold Dev.checkPacket
  rw [if_pos h]

theorem checkPacket_of_kind (h : p.hcrc = hcrcOf p) (k : 9 < p.ptype.toNat ∨ p.group.toNat ≠ g.val) : d.checkPacket g p = some .kind := by
  unfold Dev.checkPacket
  rw [if_neg (not_not_intro h), if_pos (k.imp_right .inl)]

theorem badPacket_at (g : Fin 4) (p : Packet) (d : Dev) : ∃ b, (badPacket g p d).sl.groups.at g =
    { d.sl.groups.at g with pktBad := (d.sl.groups.at g).pktBad + 1, badLogged := b } := by
  unfold badPacket
  dsimp only
  split
  · exact ⟨_, onGroup_at g _ d⟩
  · rw [logEvent_keeps _ _ _ _ .sl (by decide)]
    exact ⟨_, onGroup_at g _ d⟩

theorem badPacket_lg (g : Fin 4) (p : Packet) (d : Dev) : (badPacket g p d).lg = d.lg :=
  badPacket_k (L := [.out, .sl, .cat, .hif, .dma, .evr]) rfl (.refl _ d) .lg (by decide)

/-- A packet whose time stands before that of the last is logged; the ledger and the link stay but for that time (R52). -/
theorem noteStamp_at (g : Fin 4) (p : Packet) (d : Dev) :
    (noteStamp g p d).sl.groups.at g = { d.sl.groups.at g with lastTs := p.timestamp } := by
  unfold noteStamp
  dsimp only
  split
  · rw [logEvent_keeps _ _ _ _ .sl (by decide), onGroup_at]
  · rw [onGroup_at]

theorem noteStamp_keeps (g : Fin 4) (p : Packet) (d : Dev) : Keeps [.out, .sl, .cat, .hif, .dma, .evr] d (noteStamp g p d) :=
  noteStamp_k rfl (.refl _ d)

theorem noteStamp_of_later (later : p.timestamp.ult (d.sl.groups.at g).lastTs = false) :
    noteStamp g p d = onGroup g (fun x => { x with lastTs := p.timestamp }) d := by
  unfold noteStamp
  dsimp only
  rw [later, if_neg Bool.false_ne_true]

/-! ## A slot-bearing packet (R60, R68, R73, R75, R84) -/

/-- What stands at the next expected gsn reveals no gap (R89). -/
theorem revealGap_of_next {a : W32} (next : a = (d.lg.at g).expect) : revealGap g a d = d := by
  have none_ : precedes (d.lg.at g).expect (if precedes (d.lastGranted g + 1) a then d.lastGranted g + 1 else a) = false := by
    rw [← next]
    split
    · next h => exact precedes_asymm h
    · exact precedes_self a
  unfold revealGap
  dsimp only
  rw [none_, Bool.and_false, if_neg Bool.false_ne_true]

/-- A slot-bearing packet counts on a granted group of a data receiver. -/
structure Takes (g : Fin 4) (d : Dev) : Prop where
  grant : (d.sl.groups.at g).grant ≠ none
  link : (d.sl.groups.at g).link = .granted
  role : d.sl.player = false

theorem Takes.open_ (t : Takes g d) :
    ((d.sl.groups.at g).grant.isNone || (d.sl.groups.at g).link != .granted || d.sl.player) = false := by
  obtain ⟨grant, link, role⟩ := t
  rw [link, role, Option.isNone_eq_false_iff.mpr (Option.isSome_iff_ne_none.mpr grant)]
  rfl

theorem slotPacket_of_duplicate (t : Takes g d) (old : precedes p.gsn (d.lg.at g).expect = true) :
    slotPacket g p d = onGroup g (fun x => { x with dup := x.dup + 1 }) d := by
  unfold slotPacket
  dsimp only
  rw [t.open_, if_neg Bool.false_ne_true, if_pos old]

theorem slotPacket_of_next (t : Takes g d) (next : p.gsn = (d.lg.at g).expect) :
    slotPacket g p d = newSlot g p (onGroup g (fun x => { x with winBytes := x.winBytes + dataBytes p }) (noteStamp g p d)) := by
  unfold slotPacket
  dsimp only
  rw [t.open_, if_neg Bool.false_ne_true, next, precedes_self, if_neg Bool.false_ne_true]

theorem newSlot_of_overrun (next : p.gsn = (d.lg.at g).expect) (beyond : precedes (d.lastGranted g) p.gsn = true) :
    newSlot g p d = onLedger g (·.overRun p) d := by
  unfold newSlot
  rw [if_pos beyond, revealGap_of_next next]

/-- The next slot of a group takes its gsn. -/
def expectAfter (g : Fin 4) (p : Packet) (d : Dev) : Dev := onLedger g (fun x => { x with expect := p.gsn + 1 }) d

theorem newSlot_of_granted (next : p.gsn = (d.lg.at g).expect) (within : precedes (d.lastGranted g) p.gsn = false)
    (order : d.owns g = false ∨ (d.sl.groups.at g).order.ok true p = true) :
    newSlot g p d = if (d.lg.at g).landing.any (fun x => x.pkt.gsn.toNat % 8192 == p.gsn.toNat % 8192) then
      onGroup g (fun y => { y with order := { y.order with gap := true } })
        (onLedger g (fun y => y.dropReceived (droppedSlot p 4) (payloadBytes p)) (expectAfter g p d))
    else landPacket g p (expectAfter g p d) := by
  have keeps : (d.owns g && !(d.sl.groups.at g).order.ok true p) = false := by
    rcases order with own | ok
    · rw [own, Bool.false_and]
    · rw [ok, Bool.not_true, Bool.and_false]
  unfold newSlot
  rw [within, if_neg Bool.false_ne_true, revealGap_of_next next]
  dsimp only
  rw [keeps, if_neg Bool.false_ne_true]
  rfl

theorem landPacket_at (g : Fin 4) (p : Packet) (d : Dev) : (landPacket g p d).lg.at g = { d.lg.at g with
    landing := (d.lg.at g).landing ++ [{ pkt := p, state := 1, reason := 0 }], received := (d.lg.at g).received + 1
    resident := (d.lg.at g).resident + 1, lastLand := some (p.gsn, p.timestamp) } := by
  unfold landPacket
  dsimp only
  rw [landTrigger_k (L := [.out, .glb, .vault, .cat, .ciph, .hif, .tango, .mca, .dma, .evr]) rfl (.refl _ _) .lg (by decide),
    onGroup_lg, onLedger_at]

theorem tgetD_tput {α : Type} (t : Tab α) (k : Nat) (v z : α) : tgetD (tput t k v) z k = v := by
  unfold tgetD
  rw [tget_tput, Option.getD_some]

/-- What an over-run counts, and what it leaves alone (R60, R84). -/
theorem overRun_counts (l : Ledger) (p : Packet) : (l.overRun p).overrun = l.overrun + 1 ∧ (l.overRun p).landing = l.landing ∧
    (l.overRun p).expect = l.expect ∧ (l.overRun p).received = l.received ∧
    tgetD (l.overRun p).drops 0 1 = tgetD l.drops 0 1 + 1 := by
  unfold Ledger.overRun
  dsimp only
  split
  · exact ⟨rfl, rfl, rfl, rfl, tgetD_tput _ _ _ _⟩
  · exact ⟨rfl, rfl, rfl, rfl, tgetD_tput _ _ _ _⟩

/-! ## The command -/

/-- Who takes what a packet says, by the port's role. -/
def receiver (g : Fin 4) (p : Packet) (d : Dev) : Dev → Dev := if d.sl.player then receiveAsPlayer g p else receiveAsRecorder g p

theorem exec_packetReceive (g : Fin 4) (p : Packet) (live : s.dev.live = true) :
    exec (.packetReceive g p) s = .next { s with dev := checked g p (receiver g p s.dev) s.dev } := by
  change Host.Outcome.next { s with dev := when s.dev.live (checked g p (receiver g p s.dev)) s.dev } = _
  rw [live, when_true]

theorem receiver_of_slot (role : d.sl.player = false) (slot : slotBearing p.ptype = true) (x : Dev) :
    receiver g p d x = slotPacket g p x := by
  have other : p.ptype ≠ 1 := by
    rintro h
    rw [h] at slot
    exact absurd slot (by decide)
  unfold receiver receiveAsRecorder
  rw [role, if_neg Bool.false_ne_true, if_neg other, if_pos slot]

/-- A slot-bearing packet that is new has passed the checks: its time is noted, its bytes count in the contract window (R35, R52). -/
def counted (g : Fin 4) (p : Packet) (d : Dev) : Dev :=
  onGroup g (fun x => { x with winBytes := x.winBytes + dataBytes p }) (noteStamp g p (passed g d))

theorem counted_at (g : Fin 4) (p : Packet) (d : Dev) : ∃ r n, (counted g p d).sl.groups.at g =
    { d.sl.groups.at g with rx := r, crcRun := 0, lastTs := p.timestamp, winBytes := n } := by
  obtain ⟨r, e⟩ := passed_at g d
  unfold counted
  rw [onGroup_at, noteStamp_at, e]
  exact ⟨r, _, rfl⟩

theorem counted_keeps (g : Fin 4) (p : Packet) (d : Dev) : Keeps [.out, .sl, .cat, .hif, .dma, .evr] d (counted g p d) :=
  onGroup_k rfl (noteStamp_k rfl ((passed_keeps g d).mono (by decide)))

theorem counted_keeps_of_later (later : p.timestamp.ult (d.sl.groups.at g).lastTs = false) : Keeps [.sl] d (counted g p d) := by
  obtain ⟨r, e⟩ := passed_at g d
  unfold counted
  rw [noteStamp_of_later (by rw [e]; exact later)]
  exact onGroup_k rfl (onGroup_k rfl (passed_keeps g d))

theorem counted_lg (g : Fin 4) (p : Packet) (d : Dev) : (counted g p d).lg = d.lg := counted_keeps g p d .lg (by decide)

theorem counted_lastGranted (g : Fin 4) (p : Packet) (d : Dev) : (counted g p d).lastGranted g = d.lastGranted g := by
  obtain ⟨r, n, e⟩ := counted_at g p d
  unfold Dev.lastGranted
  rw [e, counted_lg]

theorem counted_owns (g : Fin 4) (p : Packet) (d : Dev) : (counted g p d).owns g = d.owns g := by
  unfold Dev.owns Dev.self
  rw [counted_keeps g p d .tango (by decide), counted_keeps g p d .glb (by decide)]

/-- A sound slot-bearing packet at the next expected gsn is new. -/
theorem slotPacket_passed_of_next (t : Takes g (passed g d)) (next : p.gsn = (d.lg.at g).expect) :
    slotPacket g p (passed g d) = newSlot g p (counted g p d) :=
  slotPacket_of_next t (by rw [passed_keeps g d .lg (by decide)]; exact next)

theorem slotPacket_passed_of_granted (t : Takes g (passed g d)) (next : p.gsn = (d.lg.at g).expect)
    (within : precedes (d.lastGranted g) p.gsn = false) (order : d.owns g = false ∨ (d.sl.groups.at g).order.ok true p = true) :
    slotPacket g p (passed g d) =
      if (d.lg.at g).landing.any (fun x => x.pkt.gsn.toNat % 8192 == p.gsn.toNat % 8192) then
        onGroup g (fun y => { y with order := { y.order with gap := true } })
          (onLedger g (fun y => y.dropReceived (droppedSlot p 4) (payloadBytes p)) (expectAfter g p (counted g p d)))
      else landPacket g p (expectAfter g p (counted g p d)) := by
  obtain ⟨r, n, e⟩ := counted_at g p d
  rw [slotPacket_passed_of_next t next, newSlot_of_granted (by rw [counted_lg]; exact next) (by rw [counted_lastGranted]; exact within)
    (by rw [counted_owns, e]; exact order), counted_lg]

theorem expectAfter_at (g : Fin 4) (p : Packet) (d : Dev) : (expectAfter g p d).lg.at g = { d.lg.at g with expect := p.gsn + 1 } :=
  onLedger_at g _ d

/-- Settles O29: the checks in their order, then the slot-bearing packet by its gsn. -/
theorem packetReception : Obligations.PacketReception := by
  unfold Obligations.PacketReception
  intro s g p live
  have runs := exec_packetReceive (s := s) g p live
  refine ⟨fun down => ?_, fun up bad => ?_, fun up clean => ⟨fun wrong => ?_, fun header kind => ?_, fun wrong => ?_⟩,
    fun role link grant clean sound slot => ?_⟩
  · rw [runs, checked_of_down down]
  · refine ⟨_, runs, ?_⟩
    rw [checked_of_spoilt up bad]
    obtain ⟨r, e⟩ := arrive_at g s.dev
    exact ⟨arrive_keeps g s.dev, by rw [e]⟩
  · refine ⟨_, runs, ?_⟩
    rw [checked_of_fault up clean (checkPacket_of_hcrc wrong)]
    obtain ⟨r, e⟩ := arrive_at g s.dev
    exact ⟨onGroup_k rfl (arrive_keeps g s.dev), by rw [faultyPacket, onGroup_at, e], by rw [faultyPacket, onGroup_at, e]⟩
  · refine ⟨_, runs, ?_⟩
    rw [checked_of_fault up clean (checkPacket_of_kind header kind)]
    obtain ⟨r, e⟩ := arrive_at g s.dev
    obtain ⟨b, f⟩ := badPacket_at g p (onGroup g (fun x => { x with crcRun := 0 }) (arrive g s.dev))
    rw [faultyPacket, badPacket_lg, f, onGroup_at, e]
    exact ⟨arrive_keeps g s.dev .lg (by decide), rfl, rfl⟩
  · refine ⟨_, runs, ?_⟩
    rw [checked_of_fault up clean wrong]
    obtain ⟨r, e⟩ := arrive_at g s.dev
    exact ⟨onGroup_k rfl (arrive_keeps g s.dev), by rw [faultyPacket, onGroup_at, e], by rw [faultyPacket, onGroup_at, e]⟩
  · obtain ⟨r, e⟩ := passed_at g s.dev
    have takes : Takes g (passed g s.dev) := by
      refine ⟨by rw [e]; exact grant, by rw [e]; exact link, role⟩
    rw [runs, checked_of_sound (by rw [link]; rfl) clean sound, receiver_of_slot role slot]
    refine ⟨fun old => ⟨_, rfl, ?_⟩, fun next beyond later => ⟨_, rfl, ?_⟩, fun next within order => ⟨fun room => ⟨_, rfl, ?_⟩,
      fun full => ⟨_, rfl, ?_⟩⟩⟩
    · rw [slotPacket_of_duplicate takes (by rw [passed_keeps g s.dev .lg (by decide)]; exact old), onGroup_at, e]
      exact ⟨onGroup_k rfl (passed_keeps g s.dev), rfl⟩
    · rw [slotPacket_passed_of_next takes next, newSlot_of_overrun (by rw [counted_lg]; exact next)
        (by rw [counted_lastGranted]; exact beyond), onLedger_at, counted_lg]
      obtain ⟨counts, landing, expect, received, drops⟩ := overRun_counts (s.dev.lg.at g) p
      exact ⟨onLedger_k rfl ((counted_keeps_of_later later).mono (by decide)), counts, landing, expect, received, drops⟩
    · have free : (s.dev.lg.at g).landing.any (fun x => x.pkt.gsn.toNat % 8192 == p.gsn.toNat % 8192) = false := by
        simpa using room
      rw [slotPacket_passed_of_granted takes next within order, free, if_neg Bool.false_ne_true, landPacket_at, expectAfter_at, counted_lg]
      exact ⟨rfl, rfl, rfl, rfl, rfl⟩
    · have taken : (s.dev.lg.at g).landing.any (fun x => x.pkt.gsn.toNat % 8192 == p.gsn.toNat % 8192) = true := by
        simpa using full
      rw [slotPacket_passed_of_granted takes next within order, if_pos taken, onGroup_lg, onLedger_at, expectAfter_at, counted_lg]
      exact ⟨rfl, rfl, rfl, rfl, tgetD_tput _ _ _ _⟩

end Sys2Proof.Machine
end

section
/-! PROOF. A head in player role (R54, R55, R58, R62, R67, R245): its offers, the grants it takes, the limit it follows, and the stops it
answers. -/

namespace Sys2Proof.Machine
open Sys2Proof

variable {g : Fin 4} {p : Packet} {d : Dev} {s : State}

/-! ## Offers (R55, R67) -/

theorem sendOffer_keeps (g : Fin 4) (d : Dev) : Keeps [.sl, .out, .free] d (sendOffer g d) := sendOffer_k rfl (.refl _ d)

/-- The CAP packet of an offer. -/
def offerPacket (g : Fin 4) (d : Dev) : Packet :=
  controlPacket g 1 (offerCap g d).streamId (offerCap g d).nextGsn 0 (d.sendTime g) (capBytes (offerCap g d))

theorem offerPacket_sums (g : Fin 4) (d : Dev) :
    (offerPacket g d).hcrc = hcrcOf (offerPacket g d) ∧ (offerPacket g d).crc = pcrcOf (offerPacket g d) :=
  ⟨controlPacket_hcrc _ _ _ _ _ _ _, controlPacket_crc _ _ _ _ _ _ _⟩

theorem sendOffer_out (g : Fin 4) (d : Dev) : ∃ l, (sendOffer g d).out = d.out ++ [.slTx g (offerPacket g d) l] := ⟨_, rfl⟩

/-! ## The output of a group that plays nothing (R62, R67) -/

/-- With no PLAY and no stop to answer, nothing goes out. -/
theorem runPlay_of_quiet (idle : d.playOn g = none)
    (answered : (d.sl.groups.at g).playStop = none ∨ (d.sl.groups.at g).playDone.isSome = true) : runPlay g d = d := by
  unfold runPlay
  rw [idle]
  change pumpPlay g (1 + 1) d = _
  rw [pumpPlay, idle]
  dsimp only
  split
  · next id stop =>
    rcases answered with none_ | done
    · rw [none_] at stop; cases stop
    · rw [if_pos done]
  · rfl

/-- With no PLAY, a stop is answered at once. -/
theorem runPlay_of_stop {id : W32} (idle : d.playOn g = none) (stop : (d.sl.groups.at g).playStop = some id)
    (open_ : (d.sl.groups.at g).playDone = none) :
    runPlay g d = playStopDone g id (((d.sl.groups.at g).grant.map (·.streamId)).getD 0) d := by
  unfold runPlay
  rw [idle]
  change pumpPlay g (1 + 1) d = _
  rw [pumpPlay, idle]
  dsimp only
  rw [stop]
  dsimp only
  rw [open_, if_neg (by decide)]

theorem playOn_congr {e : Dev} (h : e.hif = d.hif) : e.playOn g = d.playOn g := by
  unfold Dev.playOn
  rw [h]

/-- The STOP_DONE of a group that plays nothing (R54). -/
def donePacket (g : Fin 4) (id : W32) (sid : W16) (d : Dev) : Packet :=
  controlPacket g 9 sid (d.sl.groups.at g).playNext id (d.sendTime g)
    (zeros 4 ++ wordBytes ((d.sl.groups.at g).playNext - 1) ++ leBytes 8 (d.sl.groups.at g).playFrame.toNat ++ zeros 8)

theorem playStopDone_eq (g : Fin 4) (id : W32) (sid : W16) (d : Dev) : playStopDone g id sid d =
    slSend g (donePacket g id sid d) (onGroup g (fun x => { x with playDone := some (donePacket g id sid d) }) d) := rfl

theorem donePacket_sums (g : Fin 4) (id : W32) (sid : W16) (d : Dev) :
    (donePacket g id sid d).hcrc = hcrcOf (donePacket g id sid d) ∧ (donePacket g id sid d).crc = pcrcOf (donePacket g id sid d) :=
  ⟨controlPacket_hcrc _ _ _ _ _ _ _, controlPacket_crc _ _ _ _ _ _ _⟩

theorem donePacket_lastGsn (g : Fin 4) (id : W32) (sid : W16) (d : Dev) :
    BitVec.ofNat 32 (fieldAt (donePacket g id sid d).payload 4 4) = (d.sl.groups.at g).playNext - 1 := by
  change BitVec.ofNat 32 (fieldAt (zeros 4 ++ wordBytes ((d.sl.groups.at g).playNext - 1) ++ leBytes 8 _ ++ zeros 8) 4 4) = _
  rw [List.append_assoc, List.append_assoc, fieldAt_append_right (by rw [zeros_length]), zeros_length,
    fieldAt_append_left (wordBytes_length _), leNat_wordBytes_word, BitVec.ofNat_toNat, BitVec.setWidth_eq]

/-- A stop is answered with STOP_DONE, which the group keeps (R54, R62). -/
theorem playStopDone_sends (g : Fin 4) (id : W32) (sid : W16) (d : Dev) : ∃ l t,
    (playStopDone g id sid d).out = d.out ++ [.slTx g (donePacket g id sid d) l] ∧ (playStopDone g id sid d).sl.groups.at g =
      { d.sl.groups.at g with playDone := some (donePacket g id sid d), tx := t } := by
  rw [playStopDone_eq]
  generalize donePacket g id sid d = q
  obtain ⟨l, out⟩ := slSend_out g q (onGroup g (fun x => { x with playDone := some q }) d)
  obtain ⟨t, sent⟩ := slSend_at g q (onGroup g (fun x => { x with playDone := some q }) d)
  rw [out, sent, onGroup_at]
  exact ⟨l, t, rfl, rfl⟩

theorem playStopDone_keeps (g : Fin 4) (id : W32) (sid : W16) (d : Dev) : Keeps [.sl, .out] d (playStopDone g id sid d) :=
  slSend_k rfl ((onGroup_keeps _ _ _).mono (by decide))

/-! ## What comes from a data receiver -/

theorem receiveAsPlayer_of_cap (cap : p.ptype = 1) : receiveAsPlayer g p d = takeGrant g p d := by
  unfold receiveAsPlayer
  rw [if_pos cap]

theorem receiveAsPlayer_of_credit (credit : p.ptype = 7) (link : (d.sl.groups.at g).link = .granted) :
    receiveAsPlayer g p d = playCredit g p d := by
  unfold receiveAsPlayer
  rw [credit, if_neg (by decide), if_neg (by decide), if_pos rfl, if_pos link]

theorem receiveAsPlayer_of_stop (stop : p.ptype = 8) (link : (d.sl.groups.at g).link = .granted) :
    receiveAsPlayer g p d = playStopReq g p d := by
  unfold receiveAsPlayer
  rw [stop, if_neg (by decide), if_neg (by decide), if_neg (by decide), if_pos rfl, if_pos link]

/-- The grant that a CAP gives, as a data sender keeps it (R55). -/
def grantFrom (c : Cap) : Grant :=
  { streamId := c.streamId, groupsMask := c.groupsMask, port := c.port, deviceId := c.deviceId, rate := c.maxRate
    maxFrame := c.maxFrame, nRo := c.runoutFrames, bRo := c.runoutBytes, formats := c.formats }

/-- The limit after a grant: the first one after a link-up sets it, one repeated moves it on only (R58, R71). -/
def limitAfter (x : Group) (l : W32) : W32 :=
  match x.link, x.playLimit with
  | .granted, some a => if precedes a l then l else a
  | _, _ => l

theorem takeGrant_of_granted (idle : d.playOn g = none)
    (answered : (d.sl.groups.at g).playStop = none ∨ (d.sl.groups.at g).playDone.isSome = true)
    (kind : (readCap p.payload).kind = 1) (ok : (readCap p.payload).status = 0) :
    takeGrant g p d = onGroup g (fun x => { x with link := .granted, retraining := false, attempt := 0
                                                   grant := some (grantFrom (readCap p.payload))
                                                   playLimit := some (limitAfter x (readCap p.payload).initLimit) }) d := by
  unfold takeGrant
  dsimp only
  rw [if_pos ⟨kind, ok⟩]
  refine runPlay_of_quiet ((playOn_congr rfl).trans idle) ?_
  rw [onGroup_at]
  exact answered

theorem takeGrant_of_refused (no : (readCap p.payload).status ≠ 0) : takeGrant g p d = d := by
  unfold takeGrant
  dsimp only
  rw [if_neg fun h => no h.2]

/-- The limit after a CREDIT, which never moves back (R58). -/
def limitWith (a : Option W32) (l : W32) : W32 :=
  match a with
  | some a => if precedes a l then l else a
  | none => l

/-- Whether a CREDIT sets RESUME (R58, R62). -/
def resumes (p : Packet) : Bool := (BitVec.ofNat 8 (fieldAt p.payload 0 1)).getLsbD 0

theorem resumes_iff (p : Packet) : resumes p = true ↔ fieldAt p.payload 0 1 % 2 = 1 := by
  unfold resumes
  rw [BitVec.getLsbD_ofNat]
  simp

theorem playCredit_of_quiet (idle : d.playOn g = none)
    (answered : (d.sl.groups.at g).playStop = none ∨ (d.sl.groups.at g).playDone.isSome = true) :
    playCredit g p d = onGroup g (fun x => { x with playLimit := some (limitWith x.playLimit p.word)
                                                    playStop := if resumes p then none else x.playStop
                                                    playDone := if resumes p then none else x.playDone }) d := by
  unfold playCredit
  refine runPlay_of_quiet ((playOn_congr rfl).trans idle) ?_
  rw [onGroup_at]
  dsimp only
  split
  · exact .inl rfl
  · exact answered

/-- A group that stops: the identifier of the STOP_REQ is kept (R62). -/
def stopAt (g : Fin 4) (p : Packet) (d : Dev) : Dev := onGroup g (fun x => { x with playStop := some p.word }) d

theorem playStopReq_of_first (idle : d.playOn g = none) (first : (d.sl.groups.at g).playDone = none) : ∃ sid,
    playStopReq g p d = playStopDone g p.word sid (stopAt g p d) := by
  unfold playStopReq
  dsimp only
  rw [first]
  refine ⟨_, runPlay_of_stop ((playOn_congr rfl).trans idle) ?_ ?_⟩
  · rw [onGroup_at]
  · rw [onGroup_at]; exact first

theorem playStopReq_of_repeated {q : Packet} (done : (d.sl.groups.at g).playDone = some q)
    (same : (d.sl.groups.at g).playStop = some p.word) : playStopReq g p d = slSend g q d := by
  unfold playStopReq
  dsimp only
  rw [done]
  dsimp only
  rw [if_pos same]

/-! ## The commands -/

theorem exec_as_recorder (role : s.dev.sl.player = false) (g : Fin 4) : exec (.capOfferRepeat g) s = .next s ∧
    ∀ p, exec (.capGrant g p) s = .next s ∧ exec (.credit g p) s = .next s ∧ exec (.stopReq g p) s = .next s := by
  have never (b : Bool) : (s.dev.live && s.dev.sl.player && b) = false := by rw [role, Bool.and_false, Bool.false_and]
  have stays (b : Bool) (f : Dev → Dev) :
      Host.Outcome.next (φ := Fault) (ρ := Refusal) { s with dev := when (s.dev.live && s.dev.sl.player && b) f s.dev } = .next s := by
    rw [never, when_false]
  exact ⟨stays _ _, fun p => ⟨stays _ _, stays _ _, stays _ _⟩⟩

theorem exec_capOfferRepeat (g : Fin 4) (live : s.dev.live = true) (role : s.dev.sl.player = true) :
    exec (.capOfferRepeat g) s = .next { s with dev := when ((s.dev.sl.groups.at g).link == LinkSt.awaitCap) (sendOffer g) s.dev } := by
  change Host.Outcome.next { s with
    dev := when (s.dev.live && s.dev.sl.player && (s.dev.sl.groups.at g).link == LinkSt.awaitCap) (sendOffer g) s.dev } = _
  rw [live, role, Bool.true_and, Bool.true_and]

/-- The commands of a data receiver's control packets, where the packet is of the command's type and passes the checks. -/
theorem exec_as_player (live : s.dev.live = true) (role : s.dev.sl.player = true)
    (up : linkIsUp (s.dev.sl.groups.at g).link = true) (clean : (s.dev.sl.groups.at g).rx.spoilt = false)
    (sound : s.dev.checkPacket g p = none) :
    (p.ptype = 1 → exec (.capGrant g p) s = .next { s with dev := receiveAsPlayer g p (passed g s.dev) }) ∧
    (p.ptype = 7 → exec (.credit g p) s = .next { s with dev := receiveAsPlayer g p (passed g s.dev) }) ∧
    (p.ptype = 8 → exec (.stopReq g p) s = .next { s with dev := receiveAsPlayer g p (passed g s.dev) }) := by
  have runs (n : Byte) (h : p.ptype = n) : Host.Outcome.next (φ := Fault) (ρ := Refusal)
      { s with dev := when (s.dev.live && s.dev.sl.player && p.ptype == n) (checked g p (receiveAsPlayer g p)) s.dev } =
      .next { s with dev := receiveAsPlayer g p (passed g s.dev) } := by
    rw [live, role, h, Bool.true_and, Bool.true_and, beq_self_eq_true, when_true, checked_of_sound up clean sound]
  exact ⟨runs 1, runs 7, runs 8⟩

/-- Settles O30: the offer, then each control packet on a group that plays nothing. -/
theorem playerRole : Obligations.PlayerRole := by
  unfold Obligations.PlayerRole
  refine fun s g live => ⟨fun role => exec_as_recorder role g, fun role => ⟨fun waits => ?_, fun other => ?_,
    fun p up clean idle sound => ?_⟩⟩
  · obtain ⟨l, sent⟩ := sendOffer_out g s.dev
    obtain ⟨kind, -, -, next, -, frames, bytes⟩ := capBytes_fields (offerCap g s.dev)
    obtain ⟨hcrc, crc⟩ := offerPacket_sums g s.dev
    refine ⟨sendOffer g s.dev, offerPacket g s.dev, l, ?_, sendOffer_keeps g s.dev, sent, rfl, hcrc, crc, kind, next, frames, bytes⟩
    rw [exec_capOfferRepeat g live role, waits, beq_self_eq_true, when_true]
  · rw [exec_capOfferRepeat g live role, beq_false_of_ne other, when_false]
  · obtain ⟨r, e⟩ := passed_at g s.dev
    obtain ⟨asCap, asCredit, asStop⟩ := exec_as_player live role up clean sound
    have keeps := passed_keeps g s.dev
    have idle' : (passed g s.dev).playOn g = none := (playOn_congr (keeps .hif (by decide))).trans idle
    refine ⟨fun cap kind => ⟨fun ok answered => ?_, fun no => ?_⟩, fun link credit answered => ?_, fun link stop =>
      ⟨fun first => ?_, fun q done same => ?_⟩⟩
    · refine ⟨_, asCap cap, ?_⟩
      rw [receiveAsPlayer_of_cap cap, takeGrant_of_granted idle' (by rw [e]; exact answered) kind ok, onGroup_at, e]
      exact ⟨onGroup_k rfl keeps, rfl, rfl, _, rfl, rfl, rfl, rfl, rfl, rfl⟩
    · refine ⟨_, asCap cap, ?_⟩
      rw [receiveAsPlayer_of_cap cap, takeGrant_of_refused no, e]
      exact ⟨keeps, rfl, rfl, rfl⟩
    · refine ⟨_, asCredit credit, ?_⟩
      rw [receiveAsPlayer_of_credit credit (by rw [e]; exact link), playCredit_of_quiet idle' (by rw [e]; exact answered), onGroup_at, e]
      refine ⟨onGroup_k rfl keeps, rfl, fun odd => ?_, fun even => ?_⟩
      · dsimp only
        rw [(resumes_iff p).mpr odd]
        exact ⟨rfl, rfl⟩
      · have no : resumes p = false := by
          rw [← Bool.not_eq_true, resumes_iff]
          omega
        dsimp only
        rw [no]
        rfl
    · obtain ⟨sid, answers⟩ := playStopReq_of_first (p := p) idle' (by rw [e]; exact first)
      have stopped : (stopAt g p (passed g s.dev)).sl.groups.at g =
          { s.dev.sl.groups.at g with rx := r, crcRun := 0, playStop := some p.word } := by
        rw [stopAt, onGroup_at, e]
      have same : Keeps [.sl] s.dev (stopAt g p (passed g s.dev)) := onGroup_k rfl keeps
      generalize stopAt g p (passed g s.dev) = x at answers stopped same
      obtain ⟨l, t, out, sent⟩ := playStopDone_sends g p.word sid x
      obtain ⟨hcrc, crc⟩ := donePacket_sums g p.word sid x
      have next : (x.sl.groups.at g).playNext = (s.dev.sl.groups.at g).playNext := by rw [stopped]
      refine ⟨_, donePacket g p.word sid x, l, asStop stop, ?_⟩
      rw [receiveAsPlayer_of_stop stop (by rw [e]; exact link), answers, sent, stopped, out, same .out (by decide), ← next]
      exact ⟨(same.mono (by decide)).trans (playStopDone_keeps g p.word sid x), rfl, rfl, rfl, rfl, hcrc, crc,
        donePacket_lastGsn g p.word sid x, rfl, rfl⟩
    · obtain ⟨t, sent⟩ := slSend_at g q (passed g s.dev)
      obtain ⟨l, out⟩ := slSend_out g q (passed g s.dev)
      refine ⟨_, l, asStop stop, ?_⟩
      rw [receiveAsPlayer_of_stop stop (by rw [e]; exact link), playStopReq_of_repeated (by rw [e]; exact done) (by rw [e]; exact same),
        sent, e, out, keeps .out (by decide)]
      exact ⟨slSend_k rfl (keeps.mono (by decide)), rfl, done⟩

end Sys2Proof.Machine
end

section
/-! PROOF. What the messages of a link change sends stays sent: messages to the partner (R280), pairings (R287), heal requests (R90). -/

namespace Sys2Proof.Machine
open Sys2Proof

variable {d : Dev}

theorem kickLanes_grows (d : Dev) : Grows d (kickLanes d) := by
  rw [kickLanes_eq]
  exact (kickLane_grows 0 d).trans (kickLane_grows 1 _)

theorem submitJob_grows (j : CJob) (d : Dev) : Grows d (submitJob j d) := by
  unfold submitJob
  dsimp only
  split
  · exact noteJob_grows _ _ d
  · exact .trans (.of_eq rfl) (kickLanes_grows _)

theorem tangoSend_grows (qp : Nat) (o : Out) (d : Dev) : Grows d (tangoSend qp o d) := by
  unfold tangoSend
  split
  · split
    · exact .trans (.of_eq rfl) (submitJob_grows _ _)
    · exact .refl d
  · exact .refl d

theorem notePairing_grows (g : Fin 4) (d : Dev) : Grows d (notePairing g d) := by
  unfold notePairing
  dsimp only
  split
  · exact .refl d
  · exact .trans (.of_eq rfl) (logEvent_grows _ _ _ _)

theorem grantChanged_grows (d : Dev) : Grows d (grantChanged d) := (tangoSend_grows _ _ d).trans (each_grows notePairing_grows _ _)

theorem askHeal_grows (g : Fin 4) (run : List W32) (d : Dev) : Grows d (askHeal g run d) := by
  unfold askHeal
  split
  · exact .refl d
  · exact .trans (.of_eq rfl) (tangoSend_grows _ _ _)

theorem openGap_grows (g : Fin 4) (n : Nat) (d : Dev) : Grows d (openGap g n d) := by
  unfold openGap
  split
  · exact .refl d
  · dsimp only
    split
    · exact .trans (.of_eq rfl) (each_grows (askHeal_grows g) _ _)
    · exact .trans (.of_eq rfl) (each_grows (fun _ x => .of_eq (b := dropHeal g _ x) rfl) _ _)

theorem retireCredit_grows (g : Fin 4) (lo a b : W32) (d : Dev) : Grows d (retireCredit g lo a b d) :=
  (retireCredit_k (L := [.lg]) rfl (.refl _ d)).grows (by decide)

theorem noteStamp_grows (g : Fin 4) (p : Packet) (d : Dev) : Grows d (noteStamp g p d) := by
  unfold noteStamp
  dsimp only
  split
  · exact .trans (.of_eq rfl) (logEvent_grows _ _ _ _)
  · exact .of_eq rfl

end Sys2Proof.Machine
end

section
/-! PROOF. Grants and credit of a recorder (R55, R56, R58, R61, R76, R77, R85). -/

namespace Sys2Proof.Machine
open Sys2Proof

variable {g : Fin 4} {c : Cap} {p : Packet} {d e x : Dev} {s : State} {init : W32} {st : Nat}

/-! ## What an offer is judged by (R56) -/

theorem grantRate_congr (regs : e.regs = d.regs) (nrz : (e.sl.groups.at g).nrz = (d.sl.groups.at g).nrz) :
    e.grantRate g c = d.grantRate g c := by
  unfold Dev.grantRate
  rw [regs, nrz]

theorem grantOf_congr (regs : e.regs = d.regs) (nrz : (e.sl.groups.at g).nrz = (d.sl.groups.at g).nrz) :
    e.grantOf g c = d.grantOf g c := by
  unfold Dev.grantOf
  rw [grantRate_congr regs nrz]

theorem grantStatus_congr (regs : e.regs = d.regs) (grants : ∀ h, h ≠ g → (e.sl.groups.at h).grant = (d.sl.groups.at h).grant) :
    e.grantStatus g c = d.grantStatus g c := by
  have others : (fun h => if h = g then none else (e.sl.groups.at h).grant) =
      fun h => if h = g then none else (d.sl.groups.at h).grant := by
    funext h
    split
    · rfl
    · next n => exact grants h n
  unfold Dev.grantStatus Dev.groupEn
  rw [regs, others]

theorem grantStatus_le (d : Dev) (g : Fin 4) (c : Cap) : d.grantStatus g c ≤ 6 := by
  unfold Dev.grantStatus
  dsimp only
  repeat' split
  all_goals decide

/-! ## A gap that a grant opens leaves the terms of the grant (R85, R89) -/

/-- Whether a group has credit, and its allowance, stay. -/
structure SameTerms (g : Fin 4) (d e : Dev) : Prop where
  credited : (e.lg.at g).credited = (d.lg.at g).credited
  allow : (e.lg.at g).allow = (d.lg.at g).allow

theorem SameTerms.refl (g : Fin 4) (d : Dev) : SameTerms g d d := ⟨rfl, rfl⟩

theorem SameTerms.trans (h : SameTerms g d e) (k : SameTerms g e x) : SameTerms g d x :=
  ⟨k.credited.trans h.credited, k.allow.trans h.allow⟩

theorem SameTerms.of_lg (h : e.lg = d.lg) : SameTerms g d e := ⟨by rw [h], by rw [h]⟩

theorem SameTerms.onLedger {f : Ledger → Ledger} (credited : ∀ l, (f l).credited = l.credited) (allow : ∀ l, (f l).allow = l.allow) :
    SameTerms g d (onLedger g f d) := by
  refine ⟨?_, ?_⟩
  · rw [onLedger_at, credited]
  · rw [onLedger_at, allow]

theorem SameTerms.each {α : Type} {f : α → Dev → Dev} (h : ∀ a y, SameTerms g y (f a y)) (l : List α) (d : Dev) :
    SameTerms g d (each f l d) := by
  induction l generalizing d with
  | nil => exact .refl g d
  | cons a t ih => exact (h a d).trans (ih (f a d))

theorem askHeal_terms (g : Fin 4) (run : List W32) (d : Dev) : SameTerms g d (askHeal g run d) := by
  unfold askHeal
  split
  · exact .refl g d
  · dsimp only
    refine .trans ?_ (.of_lg (tangoSend_keeps _ _ _ .lg (by decide)))
    refine .trans (.of_lg (onTango_keeps _ d .lg (by decide))) (.onLedger (fun _ => ?_) (fun _ => ?_)) <;> rfl

theorem trimStandby_terms (l : Ledger) : (trimStandby l).credited = l.credited ∧ (trimStandby l).allow = l.allow := by
  unfold trimStandby
  exact ⟨rfl, rfl⟩

theorem dropReceived_terms (l : Ledger) (y : Slot) (bytes : Nat) :
    (l.dropReceived y bytes).credited = l.credited ∧ (l.dropReceived y bytes).allow = l.allow := ⟨rfl, rfl⟩

theorem dropHeal_terms (g : Fin 4) (gsn : W32) (d : Dev) : SameTerms g d (dropHeal g gsn d) := by
  unfold dropHeal
  refine .onLedger (fun l => ?_) (fun l => ?_)
  · dsimp only
    split
    · exact (dropReceived_terms _ _ _).1
    · exact (trimStandby_terms _).1.trans (dropReceived_terms _ _ _).1
  · dsimp only
    split
    · exact (dropReceived_terms _ _ _).2
    · exact (trimStandby_terms _).2.trans (dropReceived_terms _ _ _).2

theorem openGap_terms (g : Fin 4) (n : Nat) (d : Dev) : SameTerms g d (openGap g n d) := by
  unfold openGap
  split
  · exact .refl g d
  · dsimp only
    split
    · refine .trans ?_ (.each (askHeal_terms g) _ _)
      exact .onLedger (fun _ => rfl) (fun _ => rfl)
    · refine .trans ?_ (.each (dropHeal_terms g) _ _)
      exact .onLedger (fun _ => rfl) (fun _ => rfl)

theorem retireCredit_terms (g : Fin 4) (lo a b : W32) (d : Dev) : SameTerms g d (retireCredit g lo a b d) := by
  unfold retireCredit
  split
  · exact .onLedger (fun _ => rfl) (fun _ => rfl)
  · exact .refl g d

/-! ## A grant takes effect (R76, R79, R85) -/

/-- The group that a grant leaves, at its limit. -/
def grantedGroup (r : Grant) (limit : W32) (x : Group) : Group :=
  { x with grant := some r, link := .granted, retraining := false, attempt := 0, limit := limit }

theorem applyGrant_at (g : Fin 4) (c : Cap) (d : Dev) :
    ∃ limit, (applyGrant g c d).sl.groups.at g = grantedGroup (d.grantOf g c) limit (d.sl.groups.at g) := by
  unfold applyGrant
  dsimp only
  split
  · rw [onLedger_sl, onGroup_at, onLedger_sl, onGroup_at]
    exact ⟨_, rfl⟩
  · rw [retireCredit_k (L := [.lg]) rfl (.refl _ _) .sl (by decide), onLedger_sl, onGroup_at,
      openGap_k (L := [.out, .lg, .cat, .ciph, .hif, .tango, .dma, .evr]) rfl (.refl _ _) .sl (by decide), onLedger_sl, onGroup_at]
    exact ⟨_, rfl⟩

theorem applyGrant_terms (g : Fin 4) (c : Cap) (d : Dev) : ((applyGrant g c d).lg.at g).credited = true ∧
    ((applyGrant g c d).lg.at g).allow = (d.grantOf g c).allowance := by
  unfold applyGrant
  dsimp only
  split
  · rw [onLedger_at, onGroup_lg, onLedger_at]
    exact ⟨rfl, rfl⟩
  · next credited =>
    have retired (lo a b : W32) (y : Dev) := retireCredit_terms g lo a b y
    rw [(retired _ _ _ _).credited, (retired _ _ _ _).allow, onLedger_at, onGroup_lg]
    dsimp only
    rw [(openGap_terms _ _ _).credited, (openGap_terms _ _ _).allow, onLedger_at]
    exact ⟨by simpa using credited, rfl⟩

/-- The first grant sets the positions (R76). -/
theorem applyGrant_of_first (first : (d.lg.at g).credited = false) : ((applyGrant g c d).lg.at g).expect = c.nextGsn ∧
    ((applyGrant g c d).lg.at g).commit = c.nextGsn - 1 ∧ ((applyGrant g c d).lg.at g).ringPos = c.nextGsn := by
  unfold applyGrant
  dsimp only
  rw [if_pos (by rw [first]; rfl), onLedger_at, onGroup_lg, onLedger_at]
  exact ⟨rfl, rfl, rfl⟩

theorem applyGrant_regs (g : Fin 4) (c : Cap) (d : Dev) : (applyGrant g c d).regs = d.regs :=
  applyGrant_k (L := [.out, .sl, .lg, .cat, .ciph, .hif, .tango, .dma, .evr]) rfl (.refl _ d) .regs (by decide)

theorem applyGrant_grows (g : Fin 4) (c : Cap) (d : Dev) : Grows d (applyGrant g c d) := by
  unfold applyGrant
  dsimp only
  split
  · exact .of_eq rfl
  · refine .trans ?_ (retireCredit_grows _ _ _ _ _)
    refine .trans (.trans ?_ (openGap_grows g _ _)) (((onGroup_keeps _ _ _).grows (by decide)).trans ((onLedger_keeps _ _ _).grows (by decide)))
    exact .of_eq rfl

/-! ## The answer to an offer (R55) -/

/-- The body of a CAP grant. -/
def grantCap (g : Fin 4) (c : Cap) (st : Nat) (init : W32) (d : Dev) : Cap :=
  { c with version := 0x0100, kind := 1, role := 1, group := BitVec.ofNat 8 g.val, port := BitVec.ofNat 8 d.self,
           deviceId := Config.serial, status := BitVec.ofNat 16 st,
           maxRate := if st = 0 then d.grantRate g c else 0, initLimit := if st = 0 then init else 0,
           formatCount := (c.formats.filter formatDefined).length, formats := c.formats.filter formatDefined }

/-- The packet of a CAP grant. -/
def grantPacket (g : Fin 4) (c : Cap) (st : Nat) (init : W32) (d : Dev) : Packet :=
  controlPacket g 1 c.streamId 0 0 d.now (capBytes (grantCap g c st init d))

theorem sendGrant_eq (g : Fin 4) (c : Cap) (st : Nat) (init : W32) (d : Dev) : sendGrant g c st init d =
    slSend g (grantPacket g c st init d) (onGroup g (fun x => { x with creditSent := x.limit }) d) := rfl

theorem sendGrant_out (g : Fin 4) (c : Cap) (st : Nat) (init : W32) (d : Dev) :
    ∃ l, (sendGrant g c st init d).out = d.out ++ [.slTx g (grantPacket g c st init d) l] := ⟨_, rfl⟩

theorem sendGrant_at (g : Fin 4) (c : Cap) (st : Nat) (init : W32) (d : Dev) : ∃ t, (sendGrant g c st init d).sl.groups.at g =
    { d.sl.groups.at g with creditSent := (d.sl.groups.at g).limit, tx := t } := by
  rw [sendGrant_eq]
  obtain ⟨t, sent⟩ := slSend_at g (grantPacket g c st init d) (onGroup g (fun x => { x with creditSent := x.limit }) d)
  rw [sent, onGroup_at]
  exact ⟨t, rfl⟩

theorem sendGrant_keeps (g : Fin 4) (c : Cap) (st : Nat) (init : W32) (d : Dev) : Keeps [.out, .sl] d (sendGrant g c st init d) :=
  sendGrant_k rfl (.refl _ d)

theorem grantPacket_sums (g : Fin 4) (c : Cap) (st : Nat) (init : W32) (d : Dev) :
    (grantPacket g c st init d).hcrc = hcrcOf (grantPacket g c st init d) ∧
    (grantPacket g c st init d).crc = pcrcOf (grantPacket g c st init d) :=
  ⟨controlPacket_hcrc _ _ _ _ _ _ _, controlPacket_crc _ _ _ _ _ _ _⟩

theorem grantPacket_payload (g : Fin 4) (c : Cap) (st : Nat) (init : W32) (d : Dev) :
    (grantPacket g c st init d).payload = capBytes (grantCap g c st init d) := rfl

/-- What a CAP grant says: that it grants, and its status. -/
theorem grantPacket_status (small : st ≤ 6) : fieldAt (grantPacket g c st init d).payload 2 1 = 1 ∧
    fieldAt (grantPacket g c st init d).payload 18 2 = st := by
  obtain ⟨kind, status, -⟩ := capBytes_fields (grantCap g c st init d)
  refine ⟨kind, status.trans ?_⟩
  change (BitVec.ofNat 16 st).toNat = st
  rw [BitVec.toNat_ofNat]
  omega

/-- A CAP grant that grants says the rate and the initial limit. -/
theorem grantPacket_terms (g : Fin 4) (c : Cap) (init : W32) (d : Dev) :
    fieldAt (grantPacket g c 0 init d).payload 20 4 = d.grantRate g c % 2 ^ 32 ∧
    fieldAt (grantPacket g c 0 init d).payload 32 4 = init.toNat := by
  obtain ⟨-, -, rate, -, limit, -⟩ := capBytes_fields (grantCap g c 0 init d)
  exact ⟨rate, limit⟩

theorem answerOffer_of_refused (no : d.grantStatus g (readCap p.payload) ≠ 0) :
    answerOffer g p d = sendGrant g (readCap p.payload) (d.grantStatus g (readCap p.payload)) 0 d := by
  unfold answerOffer
  dsimp only
  rw [if_pos no]

/-- A head that has taken a grant and told its partner, before it answers. -/
def accepted (g : Fin 4) (c : Cap) (d : Dev) : Dev :=
  grantChanged (onGroup g (fun x => { x with comeStopped := false, order := { x.order with gap := true } }) (applyGrant g c d))

/-- The initial limit of a grant (R64, R76, R498). -/
def firstLimit (g : Fin 4) (c : Cap) (d : Dev) : W32 :=
  if (d.sl.groups.at g).upStopped then c.nextGsn - 1 else ((accepted g c d).sl.groups.at g).limit

theorem answerOffer_of_granted (ok : d.grantStatus g (readCap p.payload) = 0) :
    answerOffer g p d = refreshLimit g (sendGrant g (readCap p.payload) 0 (firstLimit g (readCap p.payload) d)
      (accepted g (readCap p.payload) d)) := by
  unfold answerOffer
  dsimp only
  rw [if_neg (not_not_intro ok)]
  rfl

theorem grantChanged_keeps (d : Dev) : Keeps [.out, .cat, .ciph, .hif, .tango, .dma, .evr] d (grantChanged d) :=
  grantChanged_k rfl (.refl _ d)

theorem accepted_at (g : Fin 4) (c : Cap) (d : Dev) : ∃ limit o, (accepted g c d).sl.groups.at g =
    { grantedGroup (d.grantOf g c) limit (d.sl.groups.at g) with comeStopped := false, order := o } := by
  obtain ⟨limit, e⟩ := applyGrant_at g c d
  unfold accepted
  rw [grantChanged_keeps _ .sl (by decide), onGroup_at, e]
  exact ⟨limit, _, rfl⟩

theorem accepted_lg (g : Fin 4) (c : Cap) (d : Dev) : (accepted g c d).lg = (applyGrant g c d).lg :=
  (grantChanged_keeps _ .lg (by decide)).trans (onGroup_keeps _ _ _ .lg (by decide))

theorem accepted_regs (g : Fin 4) (c : Cap) (d : Dev) : (accepted g c d).regs = d.regs :=
  (grantChanged_keeps _ .regs (by decide)).trans ((onGroup_keeps _ _ _ .regs (by decide)).trans (applyGrant_regs g c d))

theorem accepted_grows (g : Fin 4) (c : Cap) (d : Dev) : Grows d (accepted g c d) :=
  (applyGrant_grows g c d).trans (((onGroup_keeps _ _ _).grows (by decide)).trans (grantChanged_grows _))

theorem accepted_rate (g : Fin 4) (c : Cap) (d : Dev) : (accepted g c d).grantRate g c = d.grantRate g c := by
  obtain ⟨limit, o, e⟩ := accepted_at g c d
  exact grantRate_congr (accepted_regs g c d) (by rw [e]; rfl)

/-! ## The limit (R58, R76) -/

theorem refreshLimit_group (g : Fin 4) (d : Dev) : ∃ limit, (refreshLimit g d).sl.groups.at g = { d.sl.groups.at g with limit := limit } := by
  unfold refreshLimit
  dsimp only
  split
  · rw [onLedger_sl, onGroup_at]
    exact ⟨_, rfl⟩
  · exact ⟨_, rfl⟩

/-! ## An offer that is granted -/

/-- The packet that grants an offer. -/
def grantAnswer (g : Fin 4) (c : Cap) (d : Dev) : Packet := grantPacket g c 0 (firstLimit g c d) (accepted g c d)

theorem answerOffer_group (ok : d.grantStatus g (readCap p.payload) = 0) : ∃ limit sent o t,
    (answerOffer g p d).sl.groups.at g = { grantedGroup (d.grantOf g (readCap p.payload)) limit (d.sl.groups.at g) with
      comeStopped := false, order := o, creditSent := sent, tx := t } := by
  rw [answerOffer_of_granted ok]
  generalize firstLimit g (readCap p.payload) d = a
  obtain ⟨m, o, taken⟩ := accepted_at g (readCap p.payload) d
  obtain ⟨t, sent⟩ := sendGrant_at g (readCap p.payload) 0 a (accepted g (readCap p.payload) d)
  obtain ⟨limit, fresh⟩ := refreshLimit_group g (sendGrant g (readCap p.payload) 0 a (accepted g (readCap p.payload) d))
  rw [fresh, sent, taken]
  exact ⟨limit, _, o, t, rfl⟩

theorem answerOffer_ledger (ok : d.grantStatus g (readCap p.payload) = 0) : ∃ n,
    (answerOffer g p d).lg.at g = { (applyGrant g (readCap p.payload) d).lg.at g with granted := n } := by
  rw [answerOffer_of_granted ok]
  obtain ⟨n, ledger⟩ := refreshLimit_at g
    (sendGrant g (readCap p.payload) 0 (firstLimit g (readCap p.payload) d) (accepted g (readCap p.payload) d))
  rw [ledger, sendGrant_keeps g _ _ _ _ .lg (by decide), accepted_lg]
  exact ⟨n, rfl⟩

theorem answerOffer_sends (ok : d.grantStatus g (readCap p.payload) = 0) (grows : Grows x d) :
    ∃ l, Out.slTx g (grantAnswer g (readCap p.payload) d) l ∈ (answerOffer g p d).out.drop x.out.length := by
  rw [answerOffer_of_granted ok]
  obtain ⟨l, out⟩ := sendGrant_out g (readCap p.payload) 0 (firstLimit g (readCap p.payload) d) (accepted g (readCap p.payload) d)
  exact ⟨l, Grows.mem_new (grows.trans (accepted_grows g _ d)) out ((refreshLimit_k (L := [.sl, .lg]) rfl (.refl _ _)).grows (by decide))⟩

/-- What a grant says: that it grants, its rate, and the initial limit of a group that comes up stopped. -/
theorem grantAnswer_says (g : Fin 4) (c : Cap) (d : Dev) : fieldAt (grantAnswer g c d).payload 2 1 = 1 ∧
    fieldAt (grantAnswer g c d).payload 18 2 = 0 ∧ fieldAt (grantAnswer g c d).payload 20 4 = d.grantRate g c % 2 ^ 32 ∧
    ((d.sl.groups.at g).upStopped = true → fieldAt (grantAnswer g c d).payload 32 4 = (c.nextGsn - 1).toNat) := by
  obtain ⟨kind, granted⟩ := grantPacket_status (g := g) (c := c) (init := firstLimit g c d) (d := accepted g c d) (Nat.zero_le 6)
  obtain ⟨rate, limit⟩ := grantPacket_terms g c (firstLimit g c d) (accepted g c d)
  refine ⟨kind, granted, by rw [← accepted_rate]; exact rate, fun stopped => limit.trans ?_⟩
  rw [firstLimit, if_pos stopped]

/-! ## CREDIT (R58, R61, R77) -/

/-- Whether a CREDIT carries RESUME (R61, R77). -/
def Dev.sendsResume (d : Dev) (g : Fin 4) : Bool := (d.sl.groups.at g).resumeSet || d.mayResume g

/-- The CREDIT of a group with a grant. -/
def creditPacket (g : Fin 4) (r : Grant) (d : Dev) : Packet :=
  controlPacket g 7 r.streamId 0 (d.sl.groups.at g).limit d.now
    (leBytes 1 (bit (d.sendsResume g)) ++ zeros 3 ++ leBytes 4 (8192 - (d.lg.at g).landing.length))

theorem sendCredit_of_granted {r : Grant} (grant : (d.sl.groups.at g).grant = some r) : sendCredit g d =
    slSend g (creditPacket g r d) (onGroup g (fun x => { x with creditSent := x.limit, resumeSet := d.sendsResume g }) d) := by
  unfold sendCredit
  dsimp only
  rw [grant]
  rfl

theorem creditPacket_resume (g : Fin 4) (r : Grant) (d : Dev) :
    fieldAt (creditPacket g r d).payload 0 1 = 1 ↔ (d.sl.groups.at g).resumeSet = true ∨ d.mayResume g = true := by
  have first : fieldAt (creditPacket g r d).payload 0 1 = bit (d.sendsResume g) := by
    change fieldAt (leBytes 1 (bit (d.sendsResume g)) ++ zeros 3 ++ leBytes 4 _) 0 1 = _
    rw [List.append_assoc, fieldAt_append_left (leBytes_length 1 _), leNat_leBytes]
    unfold bit
    split <;> rfl
  rw [first]
  unfold bit Dev.sendsResume
  rw [← Bool.or_eq_true]
  split
  · next yes => exact iff_of_true rfl yes
  · next no => exact iff_of_false (by decide) no

/-- The commands that send CREDIT, each under its condition. -/
theorem exec_credit_due {k : Instr} (live : s.dev.live = true) (role : s.dev.sl.player = false)
    (link : (s.dev.sl.groups.at g).link = .granted)
    (due : k = .creditKeepalive g ∨
      (k = .creditThreshold g ∧ 32 ≤ sdiff (s.dev.sl.groups.at g).creditSent (s.dev.sl.groups.at g).limit) ∨
      (k = .creditDelay g ∧ (s.dev.sl.groups.at g).creditSent ≠ (s.dev.sl.groups.at g).limit)) :
    exec k s = .next { s with dev := sendCredit g s.dev } := by
  have credits : s.dev.credits g = true := by
    unfold Dev.credits
    rw [live, role, link]
    rfl
  have runs (b : Bool) (h : b = true) : Host.Outcome.next (φ := Fault) (ρ := Refusal)
      { s with dev := when (s.dev.credits g && b) (sendCredit g) s.dev } = .next { s with dev := sendCredit g s.dev } := by
    rw [credits, h, Bool.and_self, when_true]
  rcases due with rfl | ⟨rfl, far⟩ | ⟨rfl, moved⟩
  · have always := runs true rfl
    rw [Bool.and_true] at always
    exact always
  · exact runs _ (decide_eq_true far)
  · exact runs _ (bne_iff_ne.mpr moved)

theorem exec_credit_of_other (other : (s.dev.sl.groups.at g).link ≠ .granted) : exec (.creditKeepalive g) s = .next s ∧
    exec (.creditThreshold g) s = .next s ∧ exec (.creditDelay g) s = .next s := by
  have credits : s.dev.credits g = false := by
    unfold Dev.credits
    rw [beq_false_of_ne other, Bool.and_false]
  have stays (b : Bool) (h : b = false) :
      Host.Outcome.next (φ := Fault) (ρ := Refusal) { s with dev := when b (sendCredit g) s.dev } = .next s := by
    rw [h, when_false]
  exact ⟨stays _ credits, stays _ (by rw [credits, Bool.false_and]), stays _ (by rw [credits, Bool.false_and])⟩

/-! ## The commands -/

theorem noteStamp_at_ne {h : Fin 4} (n : h ≠ g) (p : Packet) (d : Dev) : (noteStamp g p d).sl.groups.at h = d.sl.groups.at h := by
  unfold noteStamp
  dsimp only
  split
  · rw [logEvent_keeps _ _ _ _ .sl (by decide), onGroup_at_ne n]
  · rw [onGroup_at_ne n]

/-- A head that has checked an offer and noted its time. -/
def offered (g : Fin 4) (p : Packet) (d : Dev) : Dev := noteStamp g p (passed g d)

theorem offered_at (g : Fin 4) (p : Packet) (d : Dev) : ∃ r, (offered g p d).sl.groups.at g =
    { d.sl.groups.at g with rx := r, crcRun := 0, lastTs := p.timestamp } := by
  obtain ⟨r, e⟩ := passed_at g d
  unfold offered
  rw [noteStamp_at, e]
  exact ⟨r, rfl⟩

theorem offered_keeps (g : Fin 4) (p : Packet) (d : Dev) : Keeps [.out, .sl, .cat, .hif, .dma, .evr] d (offered g p d) :=
  noteStamp_k rfl ((passed_keeps g d).mono (by decide))

theorem offered_grows (g : Fin 4) (p : Packet) (d : Dev) : Grows d (offered g p d) :=
  ((passed_keeps g d).grows (by decide)).trans (noteStamp_grows g p _)

theorem offered_status (g : Fin 4) (p : Packet) (d : Dev) : (offered g p d).grantStatus g c = d.grantStatus g c :=
  grantStatus_congr (offered_keeps g p d .regs (by decide)) fun h n => by
    unfold offered
    rw [noteStamp_at_ne n, passed_at_ne n]

theorem offered_grant (g : Fin 4) (p : Packet) (d : Dev) : (offered g p d).grantOf g c = d.grantOf g c ∧
    (offered g p d).grantRate g c = d.grantRate g c := by
  obtain ⟨r, e⟩ := offered_at g p d
  have regs := offered_keeps g p d .regs (by decide)
  exact ⟨grantOf_congr regs (by rw [e]), grantRate_congr regs (by rw [e])⟩

theorem exec_capOffer (live : s.dev.live = true) (role : s.dev.sl.player = false) (cap : p.ptype = 1)
    (up : linkIsUp (s.dev.sl.groups.at g).link = true) (clean : (s.dev.sl.groups.at g).rx.spoilt = false)
    (sound : s.dev.checkPacket g p = none) (offer : (readCap p.payload).kind = 0) :
    exec (.capOffer g p) s = .next { s with dev := answerOffer g p (offered g p s.dev) } := by
  change Host.Outcome.next { s with
    dev := when (s.dev.live && !s.dev.sl.player && p.ptype == 1) (checked g p (receiveAsRecorder g p)) s.dev } = _
  rw [live, role, cap, beq_self_eq_true, Bool.not_false, Bool.and_self, Bool.and_self, when_true, checked_of_sound up clean sound]
  unfold receiveAsRecorder
  rw [if_pos cap, if_pos offer]
  rfl

/-- Settles O28: the answer to an offer by its status, then CREDIT. -/
theorem grantAndCredit : Obligations.GrantAndCredit := by
  unfold Obligations.GrantAndCredit
  refine fun s g live role => ⟨fun p cap up clean sound offer => ?_, fun k r link grant due => ?_, fun other => exec_credit_of_other other⟩
  · have runs := exec_capOffer live role cap up clean sound offer
    have status := offered_status (c := readCap p.payload) g p s.dev
    obtain ⟨same, rate⟩ := offered_grant (c := readCap p.payload) g p s.dev
    obtain ⟨i, was⟩ := offered_at g p s.dev
    have grows := offered_grows g p s.dev
    have keeps := offered_keeps g p s.dev
    generalize offered g p s.dev = x at *
    refine ⟨fun ok => ⟨_, runs, ?_⟩, fun no => ?_⟩
    · have granted := status.trans ok
      obtain ⟨limit, sent, o, t, group⟩ := answerOffer_group granted
      obtain ⟨n, ledger⟩ := answerOffer_ledger granted
      obtain ⟨credited, allow⟩ := applyGrant_terms g (readCap p.payload) x
      obtain ⟨l, answer⟩ := answerOffer_sends granted grows
      obtain ⟨kind, status', terms, stopped⟩ := grantAnswer_says g (readCap p.payload) x
      rw [group, ledger, ← same, ← rate]
      exact ⟨rfl, rfl, credited, allow, rfl, fun first => applyGrant_of_first (by rw [keeps .lg (by decide)]; exact first), _, l, answer, rfl,
        kind, status', terms, fun up => stopped (by rw [was]; exact up)⟩
    · rw [answerOffer_of_refused (by rw [status]; exact no), status] at runs
      obtain ⟨l, out⟩ := sendGrant_out g (readCap p.payload) (s.dev.grantStatus g (readCap p.payload)) 0 x
      obtain ⟨t, sent⟩ := sendGrant_at g (readCap p.payload) (s.dev.grantStatus g (readCap p.payload)) 0 x
      obtain ⟨hcrc, crc⟩ := grantPacket_sums g (readCap p.payload) (s.dev.grantStatus g (readCap p.payload)) 0 x
      obtain ⟨kind, status'⟩ := grantPacket_status (g := g) (c := readCap p.payload) (init := 0) (d := x)
        (grantStatus_le s.dev g (readCap p.payload))
      refine ⟨_, _, l, runs, Grows.mem_new grows out (.refl _), rfl, rfl, hcrc, crc, kind, status', ?_, ?_, ?_⟩
      · rw [sent, was]
      · rw [sent, was]
      · rw [sendGrant_keeps g _ _ _ _ .lg (by decide), keeps .lg (by decide)]
  · obtain ⟨t, sent⟩ := slSend_at g (creditPacket g r s.dev)
      (onGroup g (fun x => { x with creditSent := x.limit, resumeSet := s.dev.sendsResume g }) s.dev)
    obtain ⟨l, out⟩ := slSend_out g (creditPacket g r s.dev)
      (onGroup g (fun x => { x with creditSent := x.limit, resumeSet := s.dev.sendsResume g }) s.dev)
    refine ⟨_, creditPacket g r s.dev, l, exec_credit_due live role link due, ?_⟩
    rw [sendCredit_of_granted grant, sent, onGroup_at, out]
    exact ⟨slSend_k rfl ((onGroup_keeps _ _ _).mono (by decide)), rfl, rfl, rfl, rfl, rfl, controlPacket_hcrc _ _ _ _ _ _ _,
      controlPacket_crc _ _ _ _ _ _ _, rfl, creditPacket_resume g r s.dev⟩

end Sys2Proof.Machine
end

section
/-! PROOF. What an idle step sends stays sent: the work that waits behind the service lanes (R152, R346) and a layout scan (R202) add to
what has left the head. -/

namespace Sys2Proof.Machine
open Sys2Proof

variable {d e : Dev}

/-- Every part of the head but what has left it. -/
def Blk.butOut : List Blk :=
  [.now, .free, .glb, .regs, .sl, .lg, .audit, .pipes, .vault, .vcnt, .cat, .disk, .ciph, .dgst, .hif, .tango, .ih, .rdma, .rcnt, .repl,
    .bpm, .mca, .dma, .evr, .mnt, .boot]

theorem Keeps.silent (h : Keeps Blk.butOut d e) : Grows d e := h.grows (by decide)

/-! ## Stripes and the journal -/

theorem appendRec_grows (source layout subject : Nat) (body : JBody) (st : Option GState) (d : Dev) :
    Grows d (appendRec source layout subject body st d) := by
  unfold appendRec
  exact .trans (.of_eq rfl) (tangoSend_grows _ _ _)

theorem claimPeriod_grows (l : LayoutRec) (d : Dev) : Grows d (claimPeriod l d) := by
  unfold claimPeriod
  split
  · exact .refl d
  split
  · exact .refl d
  split
  · exact .refl d
  · exact .trans (.of_eq rfl) (appendRec_grows _ _ _ _ _ _)

theorem allocStripe_grows (l : LayoutRec) (d : Dev) : Grows d (allocStripe l d).1 := by
  have claims : Grows d (if (d.lowestStripe l).isSome then d else claimPeriod l d) := by
    split
    · exact .refl d
    · exact claimPeriod_grows l d
  unfold allocStripe
  split
  · exact .refl d
  dsimp only
  split
  · exact claims.trans (onVault_k rfl (.refl _ _)).silent
  · exact claims

theorem freshStripe_grows (l : LayoutRec) (t : Take) (part source group : Nat) (gsn : W32) (d : Dev) :
    Grows d (freshStripe l t part source group gsn d).1 := by
  have takes : Grows d (if t.reel.isSome then reelNext l t d else allocStripe l d).1 := by
    split
    · exact (reelNext_k rfl (.refl _ _)).silent
    · exact allocStripe_grows l d
  unfold freshStripe
  dsimp only
  split
  · next q => rw [q] at takes; exact takes
  · next d1 n q =>
    rw [q] at takes
    have buffers : Keeps Blk.butOut d1 (allocBuffers d1).1 := allocBuffers_k rfl (.refl _ d1)
    split
    · next r => rw [r] at buffers; exact takes.trans buffers.silent
    · next r =>
      rw [r] at buffers
      dsimp only
      split
      · exact takes.trans buffers.silent
      · exact takes.trans (undoStripe_k rfl buffers).silent

theorem startCommit_grows (closing : List (Nat × Nat)) (d : Dev) : Grows d (startCommit closing d) := by
  have waits (f : Vault → Vault) : Grows d (onVault f d) := (onVault_k rfl (.refl _ _)).silent
  unfold startCommit
  dsimp only
  split
  · exact waits _
  split
  · exact waits _
  · next l _ =>
    have forms : Grows d (allocStripe l (formPages d)).1 :=
      .trans (formPages_k rfl (.refl _ _)).silent (allocStripe_grows l _)
    split
    · exact waits _
    · next d1 n q =>
      rw [q] at forms
      have buffers : Keeps Blk.butOut d1 (allocBuffers d1).1 := allocBuffers_k rfl (.refl _ d1)
      split
      · exact waits _
      · next r =>
        rw [r] at buffers
        exact forms.trans (queueStripe_k rfl (onVault_k rfl (systemStripe_k rfl (drawn_k rfl buffers)))).silent

/-! ## A session of replication (R337 to R346) -/

theorem replMsg_grows (c : Nat) (o : Out) (d : Dev) : Grows d (replMsg c o d) := by
  unfold replMsg
  split
  · exact .refl d
  split
  · exact .trans (onRepl_k rfl (.refl _ _)).silent (submitJob_grows _ _)
  · exact .refl d

theorem replFresh_grows (c : Nat) (r : Repl) (d : Dev) : Grows d (replStripe.replFresh c r d).1 := by
  unfold replStripe.replFresh
  split
  · exact .refl d
  · next t _ =>
    split
    · exact .refl d
    · next l _ =>
      have fresh := freshStripe_grows l t r.part 4 255 0 d
      split
      · next q => rw [q] at fresh; exact fresh.trans (onRepl_k rfl (.refl _ _)).silent
      · next q => rw [q] at fresh; exact fresh

theorem replStripe_grows (c n : Nat) (d : Dev) : Grows d (replStripe c n d).1 := by
  unfold replStripe
  split
  · exact .refl d
  split
  · split
    · exact .refl d
    · exact .trans (onRepl_k rfl (queueStripe_k rfl (.refl _ _))).silent (replFresh_grows _ _ _)
  · exact replFresh_grows _ _ d

theorem packItem_grows (c : Nat) (h : packItem c d = some e) : Grows d e := by
  unfold packItem at h
  split at h
  · cases h
  · next r _ =>
    split at h
    · cases h
    · dsimp only at h
      split at h
      · cases h
        exact (onRepl_k rfl (.refl _ _)).silent
      split at h
      · have stripe := replStripe_grows c 0 d
        split at h
        · next q =>
          cases h
          rw [q] at stripe
          exact stripe.trans (onRepl_k rfl (.refl _ _)).silent
        · cases h
      · next b _ _ =>
        have stripe := replStripe_grows c b.length d
        split at h
        · next q =>
          rw [q] at stripe
          obtain ⟨l, -, rfl⟩ := Option.map_eq_some_iff.mp h
          refine stripe.trans (onRepl_k rfl ?_).silent
          split
          · exact onCat_k rfl (.refl _ _)
          · exact .refl _ _
        · cases h
      · cases h

theorem packBatch_grows (c n : Nat) (d : Dev) : Grows d (packBatch c n d) := by
  induction n generalizing d with
  | zero => exact .refl d
  | succ n ih =>
    unfold packBatch
    split
    · next q => exact (packItem_grows c q).trans (ih _)
    split
    · split
      · exact (onRepl_k rfl (queueStripe_k rfl (.refl _ _))).silent
      · exact .refl d
    · exact .refl d

theorem pumpRepl_grows (c : Nat) (d : Dev) : Grows d (pumpRepl c d) := packBatch_grows _ _ d

theorem startBatch_grows (c : Nat) (d : Dev) : Grows d (startBatch c d) := by
  unfold startBatch
  split
  · exact .refl d
  split
  · dsimp only
    refine .trans (.trans ?_ (replMsg_grows _ _ _)) (pumpRepl_grows _ _)
    exact (each_k (fun _ _ k => addItem_k rfl k) (onRepl_k rfl (.refl _ _))).silent
  · exact .refl d

/-- What `endAccept` gives back before it answers. -/
theorem poolFrees_keeps (l : List Nat) (d : Dev) : Keeps Blk.butOut d (l.foldl (fun x i => poolFree 3 i false x) d) := by
  induction l generalizing d with
  | nil => exact .refl _ d
  | cons a t ih => exact (poolFree_k rfl (.refl _ d)).trans (ih _)

theorem endAccept_grows (c status : Nat) (d : Dev) : Grows d (endAccept c status d) := by
  unfold endAccept
  split
  · exact .refl d
  · next r _ =>
    have pins : Keeps Blk.butOut d (onCat (fun k => r.pinned.foldl (fun y p => y.unpin r.volume p.2) k)
        (r.buffers.foldl (fun x i => poolFree 3 i false x) d)) := onCat_k rfl (poolFrees_keeps _ d)
    have stripe : Keeps Blk.butOut d (match r.stripe with
        | some sb => freeBuffers sb (undoStripe (sb.layout, sb.stripe) (onCat (fun k => r.pinned.foldl (fun y p => y.unpin r.volume p.2) k)
            (r.buffers.foldl (fun x i => poolFree 3 i false x) d)))
        | none => onCat (fun k => r.pinned.foldl (fun y p => y.unpin r.volume p.2) k)
            (r.buffers.foldl (fun x i => poolFree 3 i false x) d)) := by
      split
      · exact freeBuffers_k rfl (undoStripe_k rfl pins)
      · exact pins
    dsimp only
    split
    · exact .trans (setJob_k rfl (onRepl_k rfl stripe)).silent (complete_grows _ _ _ _ _ _)
    · exact (onRepl_k rfl stripe).silent

theorem closePart_grows (c total : Nat) (r : Repl) (d : Dev) : Grows d (closePart c total r d) := by
  unfold closePart
  split
  · exact .refl d
  · next t _ =>
    split
    · exact .refl d
    · next p _ =>
      split
      · split
        · exact .refl d
        split
        · dsimp only
          have stripe : Grows d (replStripe c 0 (formTilePage t.volume t.id p.idx true d)).1 :=
            .trans (formTilePage_k rfl (.refl _ _)).silent (replStripe_grows _ _ _)
          split
          · next q _ =>
            rw [q] at stripe
            split
            · exact stripe.trans (onRepl_k rfl (queueStripe_k rfl (placeAllMeta_k rfl (.refl _ _)))).silent
            · exact stripe
          · next q => rw [q] at stripe; exact stripe
          · next _ q _ => rw [q] at stripe; exact stripe
        split
        · exact .refl d
        · dsimp only
          have closes (f : Part → Part) : Keeps Blk.butOut d (onPart t.volume t.id p.idx f d) := onPart_k rfl (.refl _ _)
          split
          · split
            · exact .trans (onTake_k rfl (closes _)).silent (startCommit_grows _ _)
            · exact (closes _).silent
          · exact (closes _).silent
      · split
        · exact (replMsg_grows _ _ _).trans (endAccept_grows _ _ _)
        · exact .refl d

/-- A session starts its next batch once the batch in hand is recorded (R346). -/
def nextBatch (c : Nat) (r : Repl) (d : Dev) : Dev :=
  if r.busy && r.batch.isEmpty && r.stripe.isNone && decide (r.goal ≤ d.partLength r) then
    startBatch c (replMsg c (.replCommit c (d.partLength r)) (onRepl c (fun q => { q with busy := false }) d))
  else d

theorem nextBatch_grows (c : Nat) (r : Repl) (d : Dev) : Grows d (nextBatch c r d) := by
  unfold nextBatch
  split
  · exact .trans (.trans (onRepl_k rfl (.refl _ _)).silent (replMsg_grows _ _ _)) (startBatch_grows _ _)
  · exact .refl d

theorem settleSession_grows (x : Nat × Repl) (d : Dev) : Grows d (settleSession x d) := by
  unfold settleSession
  dsimp only
  split
  · exact .refl d
  · next r _ =>
    split
    · exact .refl d
    · have next := nextBatch_grows x.1 r d
      unfold nextBatch at next
      generalize (if r.busy && r.batch.isEmpty && r.stripe.isNone && decide (r.goal ≤ d.partLength r) then
        startBatch x.1 (replMsg x.1 (.replCommit x.1 (d.partLength r)) (onRepl x.1 (fun q => { q with busy := false }) d))
        else d) = y at next ⊢
      split
      · split
        · split
          · exact next.trans (closePart_grows _ _ _ _)
          · exact next
        · exact next
      · exact next

theorem settleRepl_grows (d : Dev) : Grows d (settleRepl d) := each_grows settleSession_grows _ d

/-! ## What the service lanes have ended (R152) -/

theorem settleSnaps_grows (d : Dev) : Grows d (settleSnaps d) := by
  unfold settleSnaps
  refine .trans (purgeTakes_k rfl (onCat_k rfl (.refl _ _))).silent (each_grows (fun w x => ?_) _ _)
  exact .trans (dropSnap_k rfl (.refl _ _)).silent (complete_grows _ _ _ _ _ _)

theorem endSend_grows (c status : Nat) (d : Dev) : Grows d (endSend c status d) := by
  unfold endSend
  split
  · exact .trans (.trans (setJob_k rfl (freeTile_k rfl (.refl _ _))).silent (complete_grows _ _ _ _ _ _)) (settleSnaps_grows _)
  · exact .refl d

theorem tileChecked_grows (j : CJob) (c : Nat) (d : Dev) : Grows d (tileChecked j c d) := by
  unfold tileChecked
  split
  · exact .trans (.trans (onRepl_k rfl (.refl _ _)).silent (pumpRepl_grows _ _)) (settleRepl_grows _)
  · exact .trans (.trans (logEvent_grows _ _ _ _) (replMsg_grows _ _ _)) (endAccept_grows _ _ _)

theorem jobEnded_grows (x : CJob × Nat) (d : Dev) : Grows d (jobEnded x d) := by
  unfold jobEnded
  split
  · exact .refl d
  split
  · split
    · exact .refl d
    · exact endSend_grows _ _ d
  · split
    · exact endAccept_grows _ _ d
    split
    · exact .refl d
    · exact tileChecked_grows _ _ d
  · exact .refl d

theorem settleJobs_grows (d : Dev) : Grows d (settleJobs d) :=
  .trans (onCiph_k rfl (.refl _ _)).silent (each_grows jobEnded_grows _ _)

/-! ## A layout scan (R202) -/

theorem scanStripe_grows (l : LayoutRec) (r : StripeIn) (d : Dev) : Grows d (scanStripe l r d) := by
  have finds (y : List (Nat × TileHdr)) (x : Dev) : Keeps Blk.butOut x (each (addFound l r.stripe) y x) :=
    each_k (fun _ _ k => addFound_k rfl k) (.refl _ x)
  unfold scanStripe
  dsimp only
  have reads (o : List Out) (m : List (List SecRead)) (app : W16) : Grows d (countStripe l r.stripe app m (emits o d)) :=
    .trans (emits_grows o d) (countStripe_k rfl (.refl _ _)).silent
  refine (reads (d.stripeReads l r.stripe none (List.range l.members) r.members) r.members (d.stripeTag l r.stripe r.members)).trans ?_
  split
  · exact (Keeps.trans (oweRows_k rfl (.refl _ _)) (finds _ _)).silent
  split
  · exact .refl _
  · exact (Keeps.trans (onVault_k rfl (.refl _ _)) (finds _ _)).silent
  · exact (oweStrip_k rfl (Keeps.trans (onVault_k rfl (.refl _ _)) (finds _ _))).silent

theorem chargeMaint_keeps (l : List Out) (d : Dev) : Keeps Blk.butOut d (chargeMaint l d) := chargeMaint_k rfl (.refl _ d)

theorem maintain_grows {f : Dev → Dev} (slots : List Nat) (h : ∀ x, Grows x (f x)) (d : Dev) : Grows d (maintain slots f d) := by
  have backlog : Keeps Blk.butOut d (backlogRule d) := backlogRule_k rfl (.refl _ d)
  unfold maintain
  dsimp only
  split
  · exact .trans (.trans backlog.silent (h _)) (chargeMaint_keeps _ _).silent
  · exact backlog.silent

theorem pumpScan_grows (d : Dev) : Grows d (pumpScan d) := by
  unfold pumpScan
  split
  · exact .refl d
  split
  · exact .refl d
  · exact maintain_grows _ (fun x => .trans (.trans (onVault_k rfl (.refl _ _)).silent (each_grows (scanStripe_grows _) _ _))
      (complete_grows _ _ _ _ _ _)) d

end Sys2Proof.Machine
end

section
/-! PROOF. An idle step (R39, R152, R202) and an audit tick (R80 to R83). -/

namespace Sys2Proof.Machine
open Sys2Proof

variable {d : Dev} {s : State}

/-! ## IDLE (R39) -/

theorem sendIdle_grows (g : Fin 4) (d : Dev) : Grows d (sendIdle g d) := by
  unfold sendIdle
  split
  · exact slSend_grows g _ d
  · exact .refl d

theorem sendIdle_at_ne {g h : Fin 4} (n : g ≠ h) (d : Dev) : (sendIdle h d).sl.groups.at g = d.sl.groups.at g := by
  unfold sendIdle
  split
  · exact slSend_at_ne n _ d
  · rfl

theorem sendIdle_of_off {g : Fin 4} (off : (d.sl.groups.at g).tx.on = false) : sendIdle g d = d := by
  unfold sendIdle
  rw [off, if_neg Bool.false_ne_true]

/-- Every group of a list whose codewords run sends IDLE. -/
theorem sendIdle_each {g : Fin 4} {l : List (Fin 4)} (mem : g ∈ l) (on : (d.sl.groups.at g).tx.on = true) :
    ∃ p m, Out.slTx g p m ∈ (each sendIdle l d).out ∧ p.ptype = 0 := by
  induction l generalizing d with
  | nil => exact absurd mem (List.not_mem_nil)
  | cons h t ih =>
    by_cases same : g = h
    · subst same
      obtain ⟨m, sent⟩ := slSend_out g (idlePacket g d) d
      refine ⟨idlePacket g d, m, (each_grows sendIdle_grows t (sendIdle g d)).mem ?_, rfl⟩
      unfold sendIdle
      rw [if_pos on, sent]
      exact List.mem_append_right _ (List.mem_singleton_self _)
    · exact ih ((List.mem_cons.mp mem).resolve_left same) (by rw [sendIdle_at_ne same]; exact on)

theorem sendIdle_each_of_off (off : ∀ g, (d.sl.groups.at g).tx.on = false) (l : List (Fin 4)) : each sendIdle l d = d := by
  induction l with
  | nil => rfl
  | cons h t ih =>
    change each sendIdle t (sendIdle h d) = d
    rw [sendIdle_of_off (off h), ih]

/-! ## An idle step -/

/-- What a live head does while no command waits. -/
def attend (d : Dev) : Dev := settleJobs (each sendIdle groupList d)

theorem attend_keeps (d : Dev) : Keeps [.out, .free, .sl, .pipes, .vault, .cat, .ciph, .hif, .tango, .repl, .bpm, .mca, .dma, .evr] d (attend d) :=
  settleJobs_k rfl (each_k (fun _ _ k => sendIdle_k rfl k) (.refl _ d))

theorem settleJobs_of_none (none_ : d.ciph.ended = []) : settleJobs d = d := by
  unfold settleJobs
  rw [none_]
  change onCiph (fun k => { k with ended := [] }) d = d
  unfold onCiph
  rw [← none_]

theorem attend_of_quiet (off : ∀ g, (d.sl.groups.at g).tx.on = false) (none_ : d.ciph.ended = []) : attend d = d := by
  unfold attend
  rw [sendIdle_each_of_off off, settleJobs_of_none none_]

theorem pumpScan_of_none (none_ : d.vault.scan = none) : pumpScan d = d := by
  unfold pumpScan
  rw [none_]

/-- What a head does in an idle step, before its time moves on. -/
def idleWork (d : Dev) : Dev := when d.working pumpScan (when d.live attend d)

theorem idleTick_eq (d : Dev) : idleTick d = idle (idleWork d) := rfl

theorem idleWork_keeps (d : Dev) :
    Keeps [.out, .free, .sl, .pipes, .vault, .cat, .ciph, .hif, .tango, .repl, .bpm, .mca, .dma, .evr] d (idleWork d) :=
  .trans (when_keeps d.live d (attend_keeps d)) (when_keeps d.working _ (pumpScan_k rfl (.refl _ _)))

theorem idle_of_powered (up : d.glb.porLow = false) : idle d = { d with now := d.now + 1 } := by
  unfold idle
  rw [up, if_neg Bool.false_ne_true]

theorem idleTick_of_powered (up : d.glb.porLow = false) : idleTick d = { idleWork d with now := d.now + 1 } := by
  have keeps := idleWork_keeps d
  rw [idleTick_eq, idle_of_powered (by rw [keeps .glb (by decide)]; exact up), keeps .now (by decide)]

theorem idleTick_of_low (low : d.glb.porLow = true) : idleTick d = d := by
  have dead : d.live = false := by
    unfold Dev.live
    rw [low]
    rfl
  have rests : d.working = false := by
    unfold Dev.working
    rw [dead]
    rfl
  rw [idleTick_eq, idleWork, dead, rests, when_false, when_false]
  unfold idle
  rw [if_pos low]

theorem idleWork_of_quiet (off : ∀ g, (d.sl.groups.at g).tx.on = false) (none_ : d.ciph.ended = []) (scan : d.vault.scan = none) :
    idleWork d = d := by
  have attends (b : Bool) : when b attend d = d := by
    cases b
    · exact when_false _ d
    · exact attend_of_quiet off none_
  have scans (b : Bool) : when b pumpScan d = d := by
    cases b
    · exact when_false _ d
    · exact pumpScan_of_none scan
  rw [idleWork, attends, scans]

theorem idleWork_sends {g : Fin 4} (live : d.live = true) (on : (d.sl.groups.at g).tx.on = true) :
    ∃ p m, Out.slTx g p m ∈ (idleWork d).out ∧ p.ptype = 0 := by
  obtain ⟨p, m, sent, type⟩ := sendIdle_each (l := groupList) (by fin_cases g <;> decide) on
  have scans (b : Bool) (x : Dev) : Grows x (when b pumpScan x) := by
    cases b
    · exact .of_eq rfl
    · exact pumpScan_grows x
  refine ⟨p, m, (scans _ _).mem ?_, type⟩
  rw [live, when_true]
  exact (settleJobs_grows _).mem sent

/-! ## An audit tick (R80 to R83) -/

theorem exec_auditTick (live : s.dev.live = true) : exec .auditTick s = .next { s with dev := auditTick s.dev } := by
  change Host.Outcome.next { s with dev := when s.dev.live auditTick s.dev } = _
  rw [live, when_true]

theorem exec_auditTick_of_dead (dead : s.dev.live = false) : exec .auditTick s = .next s := by
  change Host.Outcome.next { s with dev := when s.dev.live auditTick s.dev } = _
  rw [dead, when_false]

/-- The head that an audit tick leaves when it finds no difference. -/
def audited (d : Dev) : Dev := { d with now := max d.now (d.auditNow.ticks * 1000000), audit := d.auditNow }

theorem auditTick_of_clean (clean : d.auditNow.clean = true) : auditTick d = tickWork (audited d) := by
  unfold auditTick
  dsimp only
  rw [if_pos clean]
  rfl

/-- The head at an audit tick that finds a difference, before the stop. -/
def latched (d : Dev) : Dev :=
  drawn { d with now := max d.now (d.auditNow.ticks * 1000000), audit := { d.auditNow with latched := true } }

theorem auditTick_of_failed (failed : d.auditNow.clean = false) :
    ∃ words, auditTick d = fatalStop 0x0209 noInstance words false (latched d) := by
  unfold auditTick
  dsimp only
  rw [failed, if_neg Bool.false_ne_true]
  exact ⟨_, rfl⟩

theorem fatal_of_live (live : d.live = true) : d.glb.fatal = false := by
  unfold Dev.live at live
  simp_all

/-- Settles O2: the idle step, powered and not, then the audit tick, clean and failed. -/
theorem idleAndAuditTick : Obligations.IdleAndAuditTick := by
  unfold Obligations.IdleAndAuditTick
  refine ⟨fun s empty => ?_, fun s => ⟨exec_auditTick_of_dead, fun live clean => ?_, fun live failed => ?_⟩⟩
  · have steps : step s = .next { s with dev := idleTick s.dev } := by
      unfold step
      rw [empty]
    refine ⟨fun low => by rw [steps, idleTick_of_low low], fun up => ⟨_, steps, ?_⟩⟩
    have keeps := idleWork_keeps s.dev
    rw [idleTick_of_powered up]
    exact ⟨rfl, keeps .glb (by decide), keeps .regs (by decide), keeps .lg (by decide), fun live g on => idleWork_sends live on,
      fun off none_ scan => by rw [idleWork_of_quiet off none_ scan]⟩
  · refine ⟨_, exec_auditTick live, ?_⟩
    rw [auditTick_of_clean clean]
    have keeps : Keeps [.out, .free, .sl, .lg, .pipes, .vault, .cat, .ciph, .dgst, .hif, .tango, .ih, .bpm, .mca, .dma, .evr]
        (audited s.dev) (tickWork (audited s.dev)) := tickWork_k rfl (.refl _ _)
    rw [keeps .audit (by decide), keeps .glb (by decide), keeps .regs (by decide), keeps .now (by decide)]
    exact ⟨rfl, rfl, rfl, rfl, rfl⟩
  · obtain ⟨words, stops⟩ := auditTick_of_failed failed
    refine ⟨_, exec_auditTick live, ?_⟩
    rw [stops]
    have keeps : Keeps [.out, .glb, .vault, .cat, .ciph, .dgst, .hif, .tango, .dma, .evr] (latched s.dev)
        (fatalStop 0x0209 noInstance words false (latched s.dev)) := fatalStop_k rfl (.refl _ _)
    have runs : (latched s.dev).glb.fatal = false := fatal_of_live live
    exact ⟨(fatalStop_of_running runs _ _ _ _).1, keeps .audit (by decide), keeps .lg (by decide)⟩

end Sys2Proof.Machine
end

section
/-! PROOF. Two answers that a waiting STOP takes: `complete` finds a descriptor by its channel and tag alone, so a waiting STOP that gives
those of the command in hand writes its entry. -/

namespace Sys2Proof.Machine
open Sys2Proof

variable {d e : Dev} {s : State} {h : Hdr} {op : Byte} {st : Nat} {r0 r1 : W64}

theorem Answered.mem (a : Answered op h st r0 r1 d e) : ∃ ph, Out.completion h.chan h.tag h.sqIndex st op r0 r1 h.dbSeq ph ∈ e.out := by
  obtain ⟨pre, post, ph, out⟩ := a
  rw [out]
  exact ⟨ph, List.mem_append_right _ (List.mem_cons_self)⟩

/-- What a command makes leave the head. -/
def leaves (c : Instr) (s : State) : List Out :=
  match exec c s with
  | .next t => t.dev.out
  | _ => []

theorem leaves_of_exec {c : Instr} (runs : exec c s = .next { s with dev := d }) : leaves c s = d.out := by
  unfold leaves
  rw [runs]

/-! ## A head with ADMIN and one INGEST channel -/

/-- An INGEST channel. -/
def ingestChan : Chan := { Chan.admin with ctype := 1 }

/-- A head that runs, locked, with ADMIN at 0 and an INGEST channel at 1, and STOPs that wait. -/
def waitingHead (waits : List (Hdr × BitVec 4)) (group : Group) : Dev :=
  { Dev.reset with
    glb := { Glb.reset with porLow := false, perstLow := false, locked := true }
    boot := { Boot.reset with stage := 3 }
    hif := { Hif.reset with running := true, chans := [(0, Chan.admin), (1, ingestChan)] }
    sl := { Dev.reset.sl with stopWaits := waits, groups := Dev.reset.sl.groups.put 0 group } }

/-- The header of a descriptor on a channel, in slot `i` of its queue. -/
def hdrAt (c i : Nat) : Hdr := { chan := c, irq := false, fence := false, clean := true, tag := 9, sqIndex := i, dbSeq := 0 }

/-! ## GROUP_CTL (O20) -/

/-- A group that is down, with its stop done. -/
def downGroup : Group :=
  { Group.reset with link := .down
                     stop := some { id := 1, reason := 0, portScope := false, byReq := true, exhaustion := false, done := true,
                                    hostAllows := false } }

/-- A head on which a STOP with the channel and tag of the coming GROUP_CTL waits. -/
def sharedTag : State := { pending := [], hbm := [], dev := waitingHead [(hdrAt 0 0, 0)] downGroup }

theorem leaves_sharedTag : leaves (.groupCtl (hdrAt 0 0) 0 0) sharedTag = [.completion 0 9 0 0 0x44 0 0 0 true] := rfl

/-- Refutes O20: GROUP_CTL disables a group that is down with its stop done. That settles a STOP that waits, which is completed first, under
the channel and tag that it shares with GROUP_CTL: GROUP_CTL's descriptor is gone, and no entry gives opcode 0x18. -/
theorem not_linkOperations : ¬ Obligations.LinkOperations := by
  unfold Obligations.LinkOperations
  intro claim
  obtain ⟨-, disables, -⟩ := claim.1 sharedTag (hdrAt 0 0) 0 (by decide)
  obtain ⟨d, runs, -, answered⟩ := disables rfl
  obtain ⟨ph, entry⟩ := answered.mem
  rw [← leaves_of_exec runs] at entry
  exact absurd (leaves_sharedTag ▸ entry) (by simp)

/-! ## STOP (O32) -/

/-- A head on which an older STOP, in slot 5 of its queue, has the tag of the coming one and waits for nothing. -/
def olderStop : State := { pending := [], hbm := [], dev := waitingHead [(hdrAt 1 5, 0)] Group.reset }

theorem leaves_olderStop : leaves (.stop (hdrAt 1 0) 1) olderStop = [.completion 1 9 5 0 0x44 0 0 0 true] := rfl

/-- Refutes O32: a STOP names a group with no grant and no stop, which is stopped at once. That settles the STOPs that wait, in their order, and
an older one with the same tag writes the entry, with its own slot of the queue: no entry gives the slot of the STOP in hand. -/
theorem not_stopsAndRole : ¬ Obligations.StopsAndRole := by
  unfold Obligations.StopsAndRole
  intro claim
  obtain ⟨-, d, runs, answered, -⟩ := claim.1 olderStop (hdrAt 1 0) 1 (by decide)
  obtain ⟨ph, entry⟩ := (answered (by decide)).mem
  rw [← leaves_of_exec runs] at entry
  exact absurd (leaves_olderStop ▸ entry) (by simp [hdrAt])

end Sys2Proof.Machine
end

section
/-! PROOF. The event ring keeps the newest 8,192 records (R403), and one command can raise more: a group that goes down settles its stop, and its
pipe then consumes the ring of its ledger, whose FRAME_OPENs with no declared bytes raise FORMAT_REPLACED, one each (R54). -/

namespace Sys2Proof.Machine
open Sys2Proof

variable {d e : Dev} {p : Pipe} {l : List EvRec} {n : Nat}

/-! ## The event ring (R403) -/

/-- The newest 8,192 records of a list. -/
def newest (l : List EvRec) : List EvRec := l.drop (l.length - 8192)

theorem ringPush_newest (r : EvRec) (l : List EvRec) : ringPush r (newest l) = newest (l ++ [r]) := by
  unfold ringPush newest
  rw [List.length_drop, List.length_append, List.length_singleton]
  split
  · next short =>
    have whole : l.length + 1 - 8192 = l.length - 8192 := by omega
    rw [whole, List.drop_append_of_le_length (by omega)]
  · next full =>
    have more : l.length + 1 - 8192 = l.length - 8192 + 1 := by omega
    rw [more, List.drop_drop, List.drop_append_of_le_length (by omega)]

theorem foldl_ringPush_newest (rs l : List EvRec) : rs.foldl (fun x r => ringPush r x) (newest l) = newest (l ++ rs) := by
  induction rs generalizing l with
  | nil => rw [List.append_nil, List.foldl_nil]
  | cons r t ih => rw [List.foldl_cons, ringPush_newest, ih, List.append_assoc, List.singleton_append]

/-- Once 8,192 records have come, nothing older is left. -/
theorem mem_of_mem_newest {r : EvRec} {rs : List EvRec} (many : 8192 ≤ rs.length) (h : r ∈ newest (l ++ rs)) : r ∈ rs := by
  unfold newest at h
  rw [List.length_append, List.drop_append, List.drop_eq_nil_of_le (by omega), List.nil_append] at h
  exact List.mem_of_mem_drop h

/-! ## An event with no NOTIFY outstanding and no rate limit -/

theorem persistQueue_ring (first : Bool) (r : EvRec) (now : Nat) (v : Evr) :
    (persistQueue first r now v).ring = v.ring ∧ (persistQueue first r now v).buckets = v.buckets := by
  unfold persistQueue
  dsimp only
  repeat' split
  all_goals exact ⟨rfl, rfl⟩

theorem rateLimit_of_free (code now : Nat) : rateLimit [] code now = ([], true) := by
  unfold rateLimit
  rw [show (if exemptCode code then none else boundEntry [] code) = none by split <;> rfl]

theorem recordEvent_of_free (free : d.evr.buckets = []) (first : Bool) (code : Nat) (inst : W32) (words : List W32) :
    ∃ v, recordEvent first code inst words d = ({ d with evr := v }, some (eventRecord d code inst words)) ∧
      v.ring = ringPush (eventRecord d code inst words) d.evr.ring ∧ v.buckets = [] := by
  unfold recordEvent
  rw [free, rateLimit_of_free]
  dsimp only
  refine ⟨_, rfl, ?_⟩
  split
  · exact persistQueue_ring _ _ _ _
  · exact ⟨rfl, rfl⟩

theorem notifyWhere_of_none (quiet : d.hif.notifies = []) (want : Nat → Bool) (r0 r1 : W64) : notifyWhere want r0 r1 d = d := by
  unfold notifyWhere
  dsimp only
  rw [quiet, List.filter_nil]
  change onHif (fun h => { h with notifies := h.notifies.filter (fun n => !want n.2) }) d = d
  unfold onHif
  dsimp only
  rw [quiet, List.filter_nil, ← quiet]

theorem logEvent_of_free (free : d.evr.buckets = []) (quiet : d.hif.notifies = []) (code : Nat) (inst : W32) (words : List W32) :
    ∃ v r, logEvent code inst words d = { d with evr := v } ∧ v.ring = ringPush r d.evr.ring ∧ v.buckets = [] ∧ r.code = code := by
  obtain ⟨v, records, ring, buckets⟩ := recordEvent_of_free free false code inst words
  refine ⟨v, eventRecord d code inst words, ?_, ring, buckets, rfl⟩
  unfold logEvent
  rw [records]
  dsimp only
  exact notifyWhere_of_none (d := { d with evr := v }) quiet _ _ _

/-! ## A pipe with nothing under assembly -/

/-- A pipe that holds no byte: no tile, and a frame only as it opened, with no byte declared. -/
structure Blank (p : Pipe) : Prop where
  ready : p.ready = []
  tileBuf : p.tileBuf = []
  held : p.held = false
  unchecked : p.unchecked = none
  framePos : p.framePos = 0
  known : p.fromOpen = false
  frame : ∀ f, p.frame = some f → f.committed = 0 ∧ f.hbmUnc = 0

theorem Blank.free (b : Blank p) : p.encoding = false := by
  unfold Pipe.encoding
  rw [b.ready]
  rfl

theorem Blank.inOrder {s : Slot} (b : Blank p) (opens : s.pkt.ptype = 2) : p.inOrder s = true := by
  unfold Pipe.inOrder Order.ok
  rw [b.unchecked, if_pos opens]
  simp

theorem recorded_of_blank {f : FrameRec} (none_ : f.committed = 0 ∧ f.hbmUnc = 0) (gap : Bool) (crc : W32) :
    (closeAccount f 0 gap false crc none .implicit).recorded = 0 := by
  unfold closeAccount
  obtain ⟨committed, hbm⟩ := none_
  cases gap <;> simp [committed, hbm, setFlag, flagIf, FrameLoss.none_, FrameLoss.total]

/-- A frame that ends with no byte leaves no tile. -/
theorem ends_of_empty (t : Take) (at_ : p.framePos = 0) (empty : p.tileBuf = []) (held : p.held = false) :
    markLast (cutTile t true (fillTo t 0 p)) = p := by
  have fills : fillTo t 0 p = p := by
    unfold fillTo
    rw [at_]
    rfl
  have cuts : cutTile t true p = p := by
    unfold cutTile
    rw [empty, List.isEmpty_nil, if_pos rfl]
  rw [fills, cuts]
  unfold markLast
  rw [held, if_neg Bool.false_ne_true]

theorem account_of_blank {f : FrameRec} (b : Blank p) (open_ : p.frame = some f) :
    ∃ r, p.account .implicit none = some r ∧ r.recorded = 0 := by
  unfold Pipe.account
  rw [open_, b.framePos, b.known, Option.map_some]
  exact ⟨_, rfl, recorded_of_blank (b.frame f open_) _ _⟩

theorem closeFrame_of_blank {f : FrameRec} (t : Take) (gsn : W32) (b : Blank p) (open_ : p.frame = some f) :
    ∃ r, closeFrame t .implicit gsn none p =
      { p with frame := none, fromOpen := false, frameGap := false, closed := p.closed ++ [(gsn, r)] } := by
  obtain ⟨r, account, empty⟩ := account_of_blank b open_
  have ends := ends_of_empty (p := { p with frame := some r, fromOpen := false }) t b.framePos b.tileBuf b.held
  rw [← empty] at ends
  refine ⟨r, ?_⟩
  unfold closeFrame
  rw [account]
  change ({ markLast (cutTile t true (fillTo t r.recorded { p with frame := some r, fromOpen := false })) with
    frame := none, frameGap := false
    closed := (markLast (cutTile t true (fillTo t r.recorded { p with frame := some r, fromOpen := false }))).closed ++ [(gsn, r)] } : Pipe) = _
  rw [ends]

/-! ## FRAME_OPENs that declare nothing -/

/-- A FRAME_OPEN with no declared bytes, in its slot. -/
def openSlot (a : W32) : Slot :=
  { pkt := { ptype := 2, flags := 0, streamId := 0, gsn := a, frame := 0, length := 0, timestamp := 0, word := 0, group := 0
             reserved := 0, hcrc := 0, payload := [], crc := 0 }
    state := 1, reason := 0 }

/-- `n` of them in a row. -/
def openRun (a : W32) : Nat → List Slot
  | 0 => []
  | n + 1 => openSlot a :: openRun (a + 1) n

theorem openRun_length (a : W32) (n : Nat) : (openRun a n).length = n := by
  induction n generalizing a with
  | zero => rfl
  | succ n ih => exact congrArg (· + 1) (ih _)

theorem gsn_of_mem_openRun {a : W32} {s : Slot} (h : s ∈ openRun a n) : ∃ i < n, s.pkt.gsn = a + BitVec.ofNat 32 i := by
  induction n generalizing a with
  | zero => exact absurd h List.not_mem_nil
  | succ n ih =>
    rcases List.mem_cons.mp h with rfl | later
    · exact ⟨0, by omega, (BitVec.add_zero a).symm⟩
    · obtain ⟨i, below, gsn⟩ := ih later
      exact ⟨i + 1, by omega, by rw [gsn]; bv_omega⟩

theorem ringAt_openRun (a : W32) (n : Nat) : ringAt (openRun a (n + 1)) a = some (openSlot a) := by
  unfold ringAt openRun
  rw [List.find?_cons_of_pos (by simp [openSlot])]

/-- A slot that is consumed leaves the run behind it. -/
theorem openRun_pass (a : W32) (few : n < 2 ^ 32) : (openRun a (n + 1)).filter (fun x => x.pkt.gsn != a) = openRun (a + 1) n := by
  change (openSlot a :: openRun (a + 1) n).filter (fun x => x.pkt.gsn != a) = _
  rw [List.filter_cons_of_neg (by simp [openSlot])]
  refine List.filter_eq_self.mpr fun s mem => ?_
  obtain ⟨i, below, gsn⟩ := gsn_of_mem_openRun mem
  rw [gsn, bne_iff_ne]
  bv_omega

end Sys2Proof.Machine
end

section
/-! PROOF. A flood of FORMAT_REPLACED: a pipe consumes a run of FRAME_OPENs that declare nothing, one event each (R54). -/

namespace Sys2Proof.Machine
open Sys2Proof

variable {d e : Dev} {n : Nat}

/-- A take that has begun on group 0, with neither an end nor a limit. -/
def floodTake : Take :=
  { volume := 0, id := 0, layout := 0, state := .open_, groups := 1, chan := none, domain := 0, page := 0, kcv := 0, hkey := 0
    dedup := false, start := none, limitFrame := none, openGsn := [], begun := 1, ended := 0, endAt := [], stage := 0, parts := []
    pending := [], openTime := 0, closeTime := 0, reason := 0, reel := none, closeHdr := none, addenda := [], lossDue := []
    replica := false, told := false, away := false, adopted := false, undone := false, erased := false }

/-- The pipe of group 0 has `n` FRAME_OPENs before it, and nothing holds it back; every event is recorded. -/
structure Flooded (n : Nat) (d : Dev) : Prop where
  owns : d.owns 0 = true
  enabled : d.pipeBit 0 0 = true
  hand : d.tango.hand = none
  takes : d.cat.takes = [floodTake]
  ring : (d.lg.at 0).ring = openRun (d.lg.at 0).ringPos n
  lossOf : (d.lg.at 0).lossOf = []
  pipe : Blank (d.pipes.at 0)
  notifies : d.hif.notifies = []
  buckets : d.evr.buckets = []

/-- The pipe that a FRAME_OPEN leaves. -/
def openPipe (r : FrameRec) (s : Slot) (p : Pipe) : Pipe :=
  markHealed s (startFrame r (decide (r.declared ≠ 0)) false { takeSlot p with lastGsn := s.pkt.gsn })

theorem openPipe_blank {p : Pipe} (b : Blank p) (a : W32) (k : Nat) :
    Blank (openPipe (openRecord 0 (openSlot a).pkt k).1 (openSlot a) p) :=
  ⟨b.ready, b.tileBuf, b.held, b.unchecked, rfl, rfl, fun f is => by
    obtain rfl := Option.some.inj is
    exact ⟨rfl, rfl⟩⟩

theorem openSlot_replaced (a : W32) (k : Nat) : (openRecord 0 (openSlot a).pkt k).2 = true := by
  have replaced (f : W16) (w l b : Nat) : (recordedFormat f w l b 0).2 = true := by
    unfold recordedFormat
    rw [if_pos (by simp)]
  exact replaced _ _ _ _

/-- A FRAME_OPEN that declares nothing ends the frame before it, and raises FORMAT_REPLACED. -/
theorem consumeOpen_of_open (t : Take) (a : W32) (d : Dev) : consumeOpen 0 t (openSlot a) d =
    logEvent 0x0206 (BitVec.ofNat 32 0)
      [(openSlot a).pkt.frame.setWidth 32, BitVec.ofNat 32 (fieldAt (openSlot a).pkt.payload 0 2),
        BitVec.ofNat 32 (fieldAt (openSlot a).pkt.payload 20 4)]
      (onPipe 0 (openPipe (openRecord 0 (openSlot a).pkt ((flushLost 0 t 0 (endFrame 0 t .implicit a d)).pipes.at 0).nextTile).1 (openSlot a))
        (flushLost 0 t 0 (endFrame 0 t .implicit a d))) := by
  unfold consumeOpen
  exact if_pos (openSlot_replaced a _)

namespace Flooded

theorem onPipe {f : Pipe → Pipe} (h : Flooded n d) (b : Blank (f (d.pipes.at 0))) : Flooded n (onPipe 0 f d) :=
  ⟨h.owns, h.enabled, h.hand, h.takes, h.ring, h.lossOf, by rw [onPipe_pipes, four_at_put]; exact b, h.notifies, h.buckets⟩

theorem onLedger {m : Nat} {f : Ledger → Ledger} (h : Flooded n d) (ring : (f (d.lg.at 0)).ring = openRun (f (d.lg.at 0)).ringPos m)
    (lossOf : (f (d.lg.at 0)).lossOf = []) : Flooded m (onLedger 0 f d) :=
  ⟨h.owns, h.enabled, h.hand, h.takes, by rw [onLedger_at]; exact ring, by rw [onLedger_at]; exact lossOf, h.pipe, h.notifies, h.buckets⟩

/-- What a head does elsewhere leaves the flood. -/
theorem of_keeps (h : Flooded n d) (k : Keeps [.sl, .free, .evr] d e) (buckets : e.evr.buckets = []) : Flooded n e := by
  refine ⟨?_, ?_, ?_, ?_, ?_, ?_, ?_, ?_, buckets⟩
  · unfold Dev.owns Dev.self
    rw [k .tango (by decide), k .glb (by decide)]
    exact h.owns
  · unfold Dev.pipeBit
    rw [k .regs (by decide)]
    exact h.enabled
  · rw [k .tango (by decide)]
    exact h.hand
  · rw [k .cat (by decide)]
    exact h.takes
  · rw [k .lg (by decide)]
    exact h.ring
  · rw [k .lg (by decide)]
    exact h.lossOf
  · rw [k .pipes (by decide)]
    exact h.pipe
  · rw [k .hif (by decide)]
    exact h.notifies

theorem logEvent (h : Flooded n d) (code : Nat) (inst : W32) (words : List W32) : Flooded n (logEvent code inst words d) ∧
    ∃ r, (logEvent code inst words d).evr.ring = ringPush r d.evr.ring ∧ r.code = code := by
  obtain ⟨v, r, logs, ring, buckets, is⟩ := logEvent_of_free h.buckets h.notifies code inst words
  rw [logs]
  exact ⟨⟨h.owns, h.enabled, h.hand, h.takes, h.ring, h.lossOf, h.pipe, h.notifies, buckets⟩, r, ring, is⟩

/-! ## One FRAME_OPEN -/

theorem passSlot (h : Flooded (n + 1) d) (few : n < 2 ^ 32) : Flooded n (passSlot 0 (openSlot (d.lg.at 0).ringPos) d) := by
  unfold Machine.passSlot
  refine h.onLedger ?_ h.lossOf
  dsimp only
  rw [h.ring]
  exact openRun_pass _ few

theorem orderPast (h : Flooded n d) (s : Slot) : Flooded n (orderPast 0 s d) :=
  h.onPipe ⟨h.pipe.ready, h.pipe.tileBuf, h.pipe.held, h.pipe.unchecked, h.pipe.framePos, h.pipe.known, h.pipe.frame⟩

theorem endFrame (h : Flooded n d) (t : Take) (gsn : W32) : Flooded n (endFrame 0 t .implicit gsn d) := by
  unfold Machine.endFrame
  dsimp only
  split
  · exact h
  · next f open_ =>
    rw [h.lossOf]
    obtain ⟨r, closes⟩ := closeFrame_of_blank t gsn h.pipe open_
    refine (h.onPipe (f := closeFrame t .implicit gsn none) ?_).onLedger ?_ ?_
    · rw [closes]
      exact ⟨h.pipe.ready, h.pipe.tileBuf, h.pipe.held, h.pipe.unchecked, h.pipe.framePos, rfl, fun _ no => nomatch no⟩
    · unfold Ledger.addDropBytes
      split <;> exact h.ring
    · unfold Ledger.addDropBytes
      split
      · exact congrArg (tdel · _) h.lossOf
      · exact congrArg (tdel · _) h.lossOf

theorem flushLost (h : Flooded n d) (t : Take) (upto : Nat) : Flooded n (flushLost 0 t upto d) := by
  unfold Machine.flushLost
  dsimp only
  rw [h.lossOf]
  refine h.onLedger h.ring ?_
  dsimp only
  rw [h.lossOf]
  rfl

theorem consumeOpen (h : Flooded n d) (t : Take) (a : W32) : Flooded n (consumeOpen 0 t (openSlot a) d) ∧
    ∃ r, (consumeOpen 0 t (openSlot a) d).evr.ring = ringPush r d.evr.ring ∧ r.code = 0x0206 := by
  have ended := (h.endFrame t a).flushLost t 0
  have keeps : Keeps [.lg, .pipes] d (Machine.flushLost 0 t 0 (Machine.endFrame 0 t .implicit a d)) :=
    flushLost_k rfl (endFrame_k rfl (.refl _ d))
  rw [← keeps .evr (by decide)]
  rw [consumeOpen_of_open]
  have opened := ended.onPipe (f := openPipe (openRecord 0 (openSlot a).pkt
    ((Machine.flushLost 0 t 0 (Machine.endFrame 0 t .implicit a d)).pipes.at 0).nextTile).1 (openSlot a)) (openPipe_blank ended.pipe _ _)
  exact opened.logEvent _ _ _

theorem consumeIn (h : Flooded (n + 1) d) (few : n < 2 ^ 32) (t : Take) :
    Flooded n (consumeIn 0 t (openSlot (d.lg.at 0).ringPos) d) ∧
    ∃ r, (consumeIn 0 t (openSlot (d.lg.at 0).ringPos) d).evr.ring = ringPush r d.evr.ring ∧ r.code = 0x0206 := by
  generalize at_ : openSlot (d.lg.at 0).ringPos = s
  have passed : Flooded n (Machine.passSlot 0 s d) := at_ ▸ h.passSlot few
  have opens : consumeAs 0 t s (Machine.passSlot 0 s d) = Machine.consumeOpen 0 t s (Machine.orderPast 0 s (Machine.passSlot 0 s d)) := by
    unfold consumeAs consumeSound
    rw [passed.pipe.inOrder (by rw [← at_]; rfl), ← at_]
    rfl
  obtain ⟨floods, r, ring, code⟩ := (passed.orderPast s).consumeOpen t (d.lg.at 0).ringPos
  rw [at_] at floods ring
  have keeps : Keeps [.lg, .pipes] d (Machine.orderPast 0 s (Machine.passSlot 0 s d)) := orderPast_k rfl (passSlot_k rfl (.refl _ d))
  rw [keeps .evr (by decide)] at ring
  unfold Machine.consumeIn
  dsimp only
  rw [opens]
  split
  · exact ⟨floods.onLedger floods.ring floods.lossOf, r, ring, code⟩
  · exact ⟨floods, r, ring, code⟩

/-! ## The pipe runs -/

theorem head (h : Flooded n d) : (d.bound 0).head? = some floodTake := by
  unfold Dev.bound
  rw [h.takes]
  rfl

theorem atCut (h : Flooded n d) : d.atCut 0 = false := by
  unfold Dev.atCut
  rw [h.hand]
  rfl

theorem goes (h : Flooded n d) : (!d.owns 0 || !d.pipeBit 0 0 || (d.pipes.at 0).encoding || d.atCut 0) = false := by
  rw [h.owns, h.enabled, h.pipe.free, h.atCut]
  rfl

theorem consumeOne (h : Flooded (n + 1) d) :
    consumeOne 0 d = some (Machine.consumeIn 0 floodTake (openSlot (d.lg.at 0).ringPos) d) := by
  unfold Machine.consumeOne
  dsimp only
  rw [h.goes, if_neg Bool.false_ne_true, h.head, h.ring, ringAt_openRun]
  rfl

theorem consumeOne_of_empty (h : Flooded 0 d) : Machine.consumeOne 0 d = none := by
  unfold Machine.consumeOne
  dsimp only
  rw [h.goes, if_neg Bool.false_ne_true, h.head, h.ring]
  rfl

/-- The pipe consumes the whole run, and each slot of it is an event. -/
theorem consumeN (h : Flooded n d) (few : n ≤ 2 ^ 32) {k : Nat} (fuel : n ≤ k) :
    ∃ rs : List EvRec, rs.length = n ∧ (∀ r ∈ rs, r.code = 0x0206) ∧
    (consumeN 0 k d).evr.ring = rs.foldl (fun x r => ringPush r x) d.evr.ring := by
  induction n generalizing d k with
  | zero =>
    refine ⟨[], rfl, fun _ no => absurd no List.not_mem_nil, ?_⟩
    cases k with
    | zero => rfl
    | succ k =>
      unfold Machine.consumeN
      rw [h.consumeOne_of_empty]
      rfl
  | succ n ih =>
    obtain ⟨k, rfl⟩ : ∃ m, k = m + 1 := ⟨k - 1, by omega⟩
    obtain ⟨floods, r, ring, code⟩ := h.consumeIn (by omega) floodTake
    obtain ⟨rs, length, codes, ring'⟩ := ih floods (by omega) (k := k) (by omega)
    refine ⟨r :: rs, congrArg (· + 1) length, List.forall_mem_cons.mpr ⟨code, codes⟩, ?_⟩
    unfold Machine.consumeN
    rw [h.consumeOne]
    dsimp only
    rw [ring', ring, List.foldl_cons]

/-- With 8,192 slots or more, nothing of the event ring is left that came before them. -/
theorem consume (h : Flooded n d) (few : n ≤ 2 ^ 32) (many : 8192 ≤ n) (short : d.evr.ring.length ≤ 8192) :
    ∀ r ∈ (consume 0 d).evr.ring, r.code = 0x0206 := by
  have fuel : n ≤ (d.lg.at 0).ring.length + 3 * (d.bound 0).length + 1 := by
    rw [h.ring, openRun_length]
    omega
  obtain ⟨rs, length, codes, ring⟩ := h.consumeN few fuel
  have whole : newest d.evr.ring = d.evr.ring := by
    unfold newest
    rw [show d.evr.ring.length - 8192 = 0 by omega, List.drop_zero]
  rw [← whole, foldl_ringPush_newest] at ring
  have same : (Machine.consume 0 d).evr = (Machine.consumeN 0 ((d.lg.at 0).ring.length + 3 * (d.bound 0).length + 1) d).evr :=
    refreshLimit_k (L := [.sl, .lg]) rfl (.refl _ _) .evr (by decide)
  rw [same, ring]
  exact fun r mem => codes r (mem_of_mem_newest (by omega) mem)

end Flooded

end Sys2Proof.Machine
end

section
/-! PROOF. The record of a group that goes down can be lost in one command (R46, R403, R404): the stop of the group is settled, and its pipe
raises 8,192 events more. -/

namespace Sys2Proof.Machine
open Sys2Proof

variable {d : Dev} {g : Fin 4} {n : Nat}

/-! ## The last attempt of a group whose stop is in progress (R46, R65) -/

theorem stopSettled_of_flooded (h : Flooded n d) (none_ : d.sl.stopWaits = []) :
    ∃ e, stopSettled 0 d = consume 0 e ∧ Flooded n e ∧ e.evr = d.evr := by
  unfold stopSettled
  dsimp only
  rw [onCat_sl, none_]
  refine ⟨_, rfl, ⟨h.owns, h.enabled, h.hand, ?_, h.ring, h.lossOf, h.pipe, h.notifies, h.buckets⟩, rfl⟩
  change d.cat.takes.map _ = _
  rw [h.takes]
  rfl

theorem skipOpenFrame_of_idle (idle : d.playOn g = none) : skipOpenFrame g d = d := by
  unfold skipOpenFrame
  rw [idle]

theorem loseGrant_of_stopping {st : StopSt} (idle : d.playOn g = none) (grant : (d.sl.groups.at g).grant = none)
    (stop : (d.sl.groups.at g).stop = some st) : ∃ f, loseGrant g d = stopSettled g (onGroup g f d) := by
  unfold loseGrant
  dsimp only
  rw [skipOpenFrame_of_idle idle, grant, stop, Option.isSome_none, if_neg Bool.false_ne_true, Option.isSome_some, if_pos rfl]
  exact ⟨_, rfl⟩

theorem failAttempt_of_last (last : 4 ≤ (d.sl.groups.at g).attempt) : ∃ f words, failAttempt g none d =
    onGroup g f (loseGrant g (drawn (drawn (logEvent 0x0201 (BitVec.ofNat 32 g.val) words d)))) := by
  unfold failAttempt
  dsimp only
  rw [if_pos last, if_pos (by rw [decide_eq_true last, Bool.or_true])]
  exact ⟨_, _, rfl⟩

/-! ## A head in flood -/

/-- A group that fails its fourth attempt, with a stop in force. -/
def failingGroup : Group :=
  { Group.reset with link := .training, attempt := 4
                     stop := some { id := 1, reason := 0, portScope := false, byReq := true, exhaustion := false, done := true,
                                    hostAllows := false } }

/-- A head whose ring of group 0 holds 8,192 FRAME_OPENs that declare nothing. -/
def floodHead : Dev :=
  { Dev.reset with
    glb := { Glb.reset with porLow := false }
    tango := { Tango.reset with owners := .all 0 }
    evr := { Evr.reset with buckets := [] }
    cat := { Dev.reset.cat with takes := [floodTake] }
    lg := Dev.reset.lg.put 0 { Ledger.reset with ring := openRun 0 8192 }
    sl := { Dev.reset.sl with groups := Dev.reset.sl.groups.put 0 failingGroup } }

theorem floodHead_flooded : Flooded 8192 floodHead where
  owns := by decide
  enabled := by decide
  hand := rfl
  takes := rfl
  ring := by
    change openRun 0 8192 = openRun 0 8192
    rfl
  lossOf := rfl
  pipe := ⟨rfl, rfl, rfl, rfl, rfl, rfl, fun _ no => nomatch no⟩
  notifies := rfl
  buckets := rfl

/-- The head after the record of its failed attempt. -/
def floodLogged (v : Evr) : Dev := drawn (drawn { floodHead with evr := v })

theorem floodLogged_keeps (v : Evr) : Keeps [.sl, .free, .evr] floodHead (floodLogged v) :=
  drawn_k rfl (drawn_k rfl (fun k n => by cases k <;> first | rfl | simp at n))

/-- Every record that the head in flood is left with is of the flood. -/
theorem floodHead_events : ∀ r ∈ (failAttempt 0 none floodHead).evr.ring, r.code = 0x0206 := by
  obtain ⟨f, words, fails⟩ := failAttempt_of_last (d := floodHead) (g := 0) (Nat.le_refl 4)
  obtain ⟨v, r, logs, ring, buckets, -⟩ :=
    logEvent_of_free floodHead_flooded.buckets floodHead_flooded.notifies 0x0201 (BitVec.ofNat 32 (0 : Fin 4).val) words
  obtain ⟨f', loses⟩ := loseGrant_of_stopping (d := floodLogged v) (g := 0) rfl rfl rfl
  have floods : Flooded 8192 (onGroup 0 f' (floodLogged v)) :=
    floodHead_flooded.of_keeps (onGroup_k rfl (floodLogged_keeps v)) buckets
  obtain ⟨e, settles, flooded, evr⟩ := stopSettled_of_flooded floods rfl
  have short : e.evr.ring.length ≤ 8192 := by
    rw [evr]
    change v.ring.length ≤ 8192
    rw [ring, show ringPush r floodHead.evr.ring = [r] from rfl, List.length_singleton]
    omega
  rw [fails, logs]
  change ∀ r ∈ (onGroup 0 f (loseGrant 0 (floodLogged v))).evr.ring, r.code = 0x0206
  rw [loses, settles]
  exact flooded.consume (by decide) (Nat.le_refl _) short

theorem exec_linkUpTimeout {s : State} {k : Nat} (live : s.dev.live = true) (fails : s.dev.stepFails g k = true) :
    exec (.linkUpTimeout g k) s = .next { s with dev := failAttempt g none s.dev } := by
  change Host.Outcome.next { s with dev := when (s.dev.live && s.dev.stepFails g k) (failAttempt g none) s.dev } = _
  rw [live, fails, Bool.and_self, when_true]

/-- Refutes O27: the fourth attempt of a group fails and is recorded, but the group's stop is then settled. Its pipe consumes 8,192 FRAME_OPENs
that declare nothing, each an event of its own, and the ring keeps the newest 8,192 records: that of the failed attempt is gone. -/
theorem not_trainingAndRetraining : ¬ Obligations.TrainingAndRetraining := by
  unfold Obligations.TrainingAndRetraining
  intro claim
  obtain ⟨-, -, -, -, -, -, timeouts, -⟩ := claim.1 { pending := [], hbm := [], dev := floodHead } 0 rfl
  obtain ⟨-, last⟩ := timeouts (.linkUpTimeout 0 3) (.inl ⟨3, rfl, .inl ⟨.inl rfl, rfl⟩⟩)
  obtain ⟨d, runs, -, recorded⟩ := last (Nat.le_refl 4)
  rw [exec_linkUpTimeout rfl rfl] at runs
  have left := congrArg State.dev (Host.Outcome.next.inj runs)
  dsimp only at left
  have events := floodHead_events
  rw [left] at events
  obtain ⟨r, mem, code, -⟩ := recorded rfl
  exact absurd (code.symm.trans (events r mem)) (by decide)

end Sys2Proof.Machine
end

section
/-! PROOF. What posting does to Tango (R278 to R281): every message to the partner takes a sequence number of its queue pair and
leaves the rest of the protocol's state alone, so consuming, closing takes and metadata commit do too. -/

namespace Sys2Proof.Machine
open Sys2Proof

variable {d e u : Dev}

/-- From `d` to `e` the inter-head protocol has moved on its sequence numbers at most. -/
def Posts (d e : Dev) : Prop := ∃ n, e.tango = { d.tango with seqs := n }

/-- Every part of the head but the inter-head protocol. -/
def Blk.butTango : List Blk :=
  [.out, .now, .free, .glb, .regs, .sl, .lg, .audit, .pipes, .vault, .vcnt, .cat, .disk, .ciph, .dgst, .hif, .ih, .rdma, .rcnt, .repl,
    .bpm, .mca, .dma, .evr, .mnt, .boot]

namespace Posts

theorem of_eq (h : e.tango = d.tango) : Posts d e := ⟨d.tango.seqs, h⟩

theorem refl (d : Dev) : Posts d d := .of_eq rfl

theorem trans (h : Posts d e) (k : Posts e u) : Posts d u := by
  obtain ⟨n, h⟩ := h
  obtain ⟨m, k⟩ := k
  exact ⟨m, by rw [k, h]⟩

theorem after (k : Posts e u) (h : Posts d e) : Posts d u := h.trans k

theorem ite {p : Prop} [Decidable p] (h : Posts d e) (k : Posts d u) : Posts d (if p then e else u) := by
  split
  · exact h
  · exact k

theorem each {α : Type} {f : α → Dev → Dev} (h : ∀ a x, Posts x (f a x)) (l : List α) (d : Dev) : Posts d (each f l d) := by
  induction l generalizing d with
  | nil => exact refl d
  | cons a t ih => exact (h a d).trans (ih (f a d))

theorem foldl {α : Type} {f : Dev → α → Dev} (h : ∀ x a, Posts x (f x a)) (l : List α) (d : Dev) : Posts d (l.foldl f d) :=
  each (fun a x => h x a) l d

theorem placed (h : Posts d e) : e.tango.placed = d.tango.placed := by
  obtain ⟨n, h⟩ := h
  rw [h]

theorem resync (h : Posts d e) : e.tango.resync = d.tango.resync := by
  obtain ⟨n, h⟩ := h
  rw [h]

theorem mirror (h : Posts d e) : e.tango.mirror = d.tango.mirror := by
  obtain ⟨n, h⟩ := h
  rw [h]

theorem ckpts (h : Posts d e) : e.tango.ckpts = d.tango.ckpts := by
  obtain ⟨n, h⟩ := h
  rw [h]

theorem ckptSeq (h : Posts d e) : e.tango.ckptSeq = d.tango.ckptSeq := by
  obtain ⟨n, h⟩ := h
  rw [h]

theorem session (h : Posts d e) : e.tango.session = d.tango.session := by
  obtain ⟨n, h⟩ := h
  rw [h]

end Posts

theorem Keeps.posts (h : Keeps Blk.butTango d e) : Posts d e := .of_eq (h .tango (by decide))

theorem tangoSend_posts (qp : Nat) (o : Out) (d : Dev) : Posts d (tangoSend qp o d) := by
  have same (j : CJob) (x : Dev) : Posts x (submitJob j x) := (submitJob_k rfl (.refl Blk.butTango x)).posts
  unfold tangoSend
  split
  · split
    · exact .trans ⟨_, rfl⟩ (same _ _)
    · exact .refl d
  · exact .refl d

/-! ## Stripes and the journal -/

theorem appendRec_posts (source layout subject : Nat) (body : JBody) (st : Option GState) (d : Dev) :
    Posts d (appendRec source layout subject body st d) := by
  unfold appendRec
  exact .trans (.of_eq rfl) (tangoSend_posts _ _ _)

theorem claimPeriod_posts (l : LayoutRec) (d : Dev) : Posts d (claimPeriod l d) := by
  unfold claimPeriod
  refine .ite (.refl d) (.ite (.refl d) ?_)
  split
  · exact .refl d
  · exact .trans (.of_eq rfl) (appendRec_posts _ _ _ _ _ _)

theorem allocStripe_posts (l : LayoutRec) (d : Dev) : Posts d (allocStripe l d).1 := by
  have claims : Posts d (if (d.lowestStripe l).isSome then d else claimPeriod l d) := .ite (.refl d) (claimPeriod_posts l d)
  unfold allocStripe
  split
  · exact .refl d
  dsimp only
  split
  · exact claims.trans (.of_eq rfl)
  · exact claims

theorem freshStripe_posts (l : LayoutRec) (t : Take) (part source group : Nat) (gsn : W32) (d : Dev) :
    Posts d (freshStripe l t part source group gsn d).1 := by
  have takes : Posts d (if t.reel.isSome then reelNext l t d else allocStripe l d).1 := by
    split
    · exact (reelNext_k rfl (.refl _ _)).posts
    · exact allocStripe_posts l d
  unfold freshStripe
  dsimp only
  split
  · next q => rw [q] at takes; exact takes
  · next d1 n q =>
    rw [q] at takes
    have buffers : Keeps Blk.butTango d1 (allocBuffers d1).1 := allocBuffers_k rfl (.refl _ d1)
    split
    · next r => rw [r] at buffers; exact takes.trans buffers.posts
    · next r =>
      rw [r] at buffers
      exact takes.trans (.ite buffers.posts (undoStripe_k rfl buffers).posts)

theorem needStripe_posts (g : Fin 4) (t : Take) (part : Nat) (gsn : W32) (d : Dev) : Posts d (needStripe g t part gsn d).1 := by
  unfold needStripe
  split
  · exact .refl d
  split
  · exact .refl d
  · next l _ =>
    have fresh := freshStripe_posts l t part g.val g.val gsn d
    split
    · next q => rw [q] at fresh; exact fresh.trans (.of_eq rfl)
    · next q => rw [q] at fresh; exact fresh

theorem sealPipe_posts (g : Fin 4) (d : Dev) : Posts d (sealPipe g d) := (sealPipe_k rfl (.refl _ d)).posts

theorem flushMeta_posts (v id p : Nat) (d : Dev) : Posts d (flushMeta v id p d) := by
  unfold flushMeta
  split
  · exact .refl d
  · next t _ =>
    split
    · exact .refl d
    · next g _ =>
      have needs := needStripe_posts g t p (d.lg.at g).commit d
      split
      · next q => rw [q] at needs; exact needs.trans (sealPipe_posts g _)
      · next q => rw [q] at needs; exact needs

theorem startCommit_posts (closing : List (Nat × Nat)) (d : Dev) : Posts d (startCommit closing d) := by
  unfold startCommit
  dsimp only
  split
  · exact .of_eq rfl
  split
  · exact .of_eq rfl
  · next l _ =>
    have forms : Posts d (allocStripe l (formPages d)).1 :=
      .trans (formPages_k rfl (.refl _ d)).posts (allocStripe_posts l _)
    split
    · exact .of_eq rfl
    · next d1 n q =>
      rw [q] at forms
      have buffers : Keeps Blk.butTango d1 (allocBuffers d1).1 := allocBuffers_k rfl (.refl _ d1)
      split
      · exact .of_eq rfl
      · next r =>
        rw [r] at buffers
        exact forms.trans (queueStripe_k rfl (onVault_k rfl (systemStripe_k rfl (drawn_k rfl buffers)))).posts

/-! ## The close of a take (R223) -/

theorem onTake_posts (v id : Nat) (f : Take → Take) (d : Dev) : Posts d (onTake v id f d) := .of_eq rfl

theorem writePages_posts (t : Take) (d : Dev) : Posts d (writePages t d) := by
  refine .foldl (fun x p => (flushMeta_posts _ _ _ _).after (.ite (.refl x) ?_)) _ d
  exact (formFramePage_k rfl (formTilePage_k rfl (.refl _ x))).posts

theorem flushParts_posts (t : Take) (d : Dev) : Posts d (flushParts t d) := .foldl (fun _ _ => flushMeta_posts _ _ _ _) _ d

theorem writeManifest_posts (t : Take) (p : Part) (d : Dev) : Posts d (writeManifest t p d) := by
  unfold writeManifest
  exact (onTake_posts _ _ _ d).trans (flushMeta_posts _ _ _ _)

theorem cutSegments_posts (t : Take) (d : Dev) : Posts d (cutSegments t d) := by
  have steps (l : List Nat) : Posts d (l.foldl (fun x s => stepSegment t.volume t.id s (fixSegment t.volume t.id s true x)) d) :=
    .foldl (fun x _ => (stepSegment_k rfl (fixSegment_k rfl (.refl _ x))).posts) l d
  unfold cutSegments
  dsimp only
  split
  · exact .ite (steps _) ((steps _).trans (writePages_posts _ _))
  · exact steps _

theorem stepClose_posts (v id : Nat) (d : Dev) : Posts d (stepClose v id d) := by
  have stage (t : Take) (n : Nat) (x : Dev) : Posts x (setStage t n x) := onTake_posts _ _ _ x
  unfold stepClose
  split
  · exact .refl d
  · next t _ =>
    refine .ite (.refl d) (.ite (.ite (stage t 1 d) (.refl d)) (.ite ?_ (.ite ?_ (.ite ?_ (.ite ?_ (.refl d))))))
    · exact .ite (cutSegments_posts t d) (.ite (.refl d) (.ite (writePages_posts t d) (stage t 2 d)))
    · exact .ite (.refl d) ((sealParts_k rfl (.refl _ d)).posts.trans (stage t 3 _))
    · split
      · exact .ite ((writeManifest_posts t _ d).trans (stage t 4 _)) (.refl d)
      · exact .refl d
    · exact .ite (.refl d) (.ite (flushParts_posts t d) ((stage t 5 d).trans (startCommit_posts _ _)))

theorem repeat_posts {f : Dev → Dev} (h : ∀ x, Posts x (f x)) (n : Nat) (d : Dev) : Posts d (Nat.repeat f n d) := by
  induction n with
  | zero => exact .refl d
  | succ n ih => exact ih.trans (h _)

theorem advanceTake_posts (v id : Nat) (d : Dev) : Posts d (advanceTake v id d) := repeat_posts (stepClose_posts v id) 6 d

/-! ## Consuming (R74, R220, R223) -/

variable {g : Fin 4}

theorem sealTail_posts {t : Take} (h : sealTail g t d = some e) : Posts d e := by
  unfold sealTail at h
  dsimp only at h
  split at h
  · cases h; exact .refl d
  have needs := needStripe_posts g t (((t.partOf g).map (·.idx)).getD 0) (d.pipes.at g).lastGsn d
  generalize needStripe g t (((t.partOf g).map (·.idx)).getD 0) (d.pipes.at g).lastGsn d = y at needs h
  obtain ⟨x, _ | sb⟩ := y
  · cases h
  · cases h
    exact needs.trans (.trans (.of_eq rfl) (sealPipe_posts g _))

theorem endFrame_posts (t : Take) (c : Closing) (gsn : W32) (d : Dev) : Posts d (endFrame g t c gsn d) :=
  (endFrame_k rfl (.refl _ d)).posts

theorem endTakeOn_posts {t : Take} (h : endTakeOn g t d = some e) : Posts d e := by
  unfold endTakeOn at h
  dsimp only at h
  split at h
  · cases h; exact endFrame_posts t _ _ d
  split at h
  · cases h; exact (flushLost_k rfl (.refl _ d)).posts
  · obtain ⟨x, sealed_, rfl⟩ := Option.map_eq_some_iff.mp h
    refine (sealTail_posts sealed_).trans (.trans ?_ (advanceTake_posts _ _ _))
    exact (settleC_k rfl (onTake_k rfl (onPipe_k rfl (.refl _ x)))).posts

theorem consumeOne_posts (h : consumeOne g d = some e) : Posts d e := by
  unfold consumeOne at h
  dsimp only at h
  split at h
  · cases h
  split at h
  · cases h
  · cases h; exact (consumeNone_k rfl (.refl _ d)).posts
  · split at h
    · exact endTakeOn_posts h
    · cases h
  · split at h
    · exact endTakeOn_posts h
    split at h
    · cases h; exact (consumeIn_k rfl (.refl _ d)).posts
    split at h
    · cases h; exact (consumeIn_k rfl (beginTake_k rfl (.refl _ d))).posts
    · cases h; exact (consumeNone_k rfl (.refl _ d)).posts

theorem consumeN_posts (n : Nat) (d : Dev) : Posts d (consumeN g n d) := by
  induction n generalizing d with
  | zero => exact .refl d
  | succ n ih =>
    unfold consumeN
    split
    · next e h => exact (consumeOne_posts h).trans (ih e)
    · exact .refl d

theorem refreshLimit_posts (g : Fin 4) (d : Dev) : Posts d (refreshLimit g d) := (refreshLimit_k rfl (.refl _ d)).posts

theorem consume_posts (g : Fin 4) (d : Dev) : Posts d (consume g d) := (consumeN_posts _ d).trans (refreshLimit_posts g _)

/-! ## A checkpoint that has come (R295) -/

theorem stopSettled_posts (g : Fin 4) (d : Dev) : Posts d (stopSettled g d) := by
  have ends (l : List (Hdr × BitVec 4)) (x : Dev) : Posts x (each (fun w y => complete w.1 0x44 0 0 0 y) l x) :=
    .each (fun _ y => (complete_k rfl (.refl _ y)).posts) l x
  unfold stopSettled
  exact (consume_posts g _).after ((ends _ _).after (.of_eq rfl))

theorem stopGroups_posts (reason : Nat) (gs : List (Fin 4)) (d : Dev) : Posts d (stopGroups reason gs d) := by
  unfold stopGroups
  refine .trans (.each (fun g x => (stopGroup_k rfl (.refl _ x)).posts) gs d) (.each (fun g x => ?_) gs _)
  exact .ite (stopSettled_posts g x) (.refl x)

theorem closeFar_posts (i : TakeInfo) (t : Take) (d : Dev) : Posts d (closeFar i t d) := by
  unfold closeFar
  refine (advanceTake_posts _ _ _).after (.after (.ite ?_ (stopGroups_posts _ _ _)) (onTake_posts _ _ _ d))
  exact .each consume_posts _ _

theorem undoTake_posts (t : Take) (d : Dev) : Posts d (undoTake t d) := (onTake_posts _ _ _ d).trans (advanceTake_posts _ _ _)

theorem noteTake_posts (i : TakeInfo) (d : Dev) : Posts d (noteTake i d) := by
  have learns : Posts d (if i.state = 2 then learnTake i d
      else if (d.take i.r.volume i.takeId).isSome then onTake i.r.volume i.takeId (learnParts i) d else d) :=
    .ite (learnTake_k rfl (.refl _ d)).posts (.ite (onTake_posts _ _ _ d) (.refl d))
  have told (f : Take → Take) {x : Dev} (h : Posts d x) : Posts d (onTake i.r.volume i.takeId f x) := h.trans (onTake_posts _ _ _ x)
  unfold noteTake
  have parts := learns.trans (.each (fun p x => (learnPart_k (v := i.r.volume) (id := i.takeId) (x := p) rfl (.refl _ x)).posts) i.closed _)
  dsimp only
  generalize each (learnPart i.r.volume i.takeId) i.closed _ = y at parts ⊢
  split
  · exact parts
  · next t _ =>
    have ended := told (fun x => { x with ended := x.ended ||| i.ended }) parts
    refine .ite ended (.ite (.ite (ended.trans (undoTake_posts t _)) (.ite (told _ ?_) ended)) (.ite (told _ (.ite ?_ ended)) (.ite ?_ ?_)))
    · exact ended.trans (deleteTake_k rfl (.refl _ _)).posts
    · exact ended.trans (takeClosed_k rfl (.refl _ _)).posts
    · exact ended.trans (closeFar_posts i t _)
    · exact ended.trans (advanceTake_posts _ _ _)

/-- The take records of a checkpoint that has come are heeded with messages alone: the checkpoints held stay. -/
theorem noteCkpt_posts (c : Ckpt) (d : Dev) : Posts d (noteCkpt c d) := by
  unfold noteCkpt
  refine .trans (.trans (.each (fun v x => ?_) _ d) (.each noteTake_posts _ _)) (purgeTakes_k rfl (.refl _ _)).posts
  exact (learnCkptVolume_k rfl (.refl _ x)).posts

end Sys2Proof.Machine
end

section
/-! PROOF. A head that speaks may go on speaking: the message that it sends leaves the service lanes as free as they were (R149, R280). -/

namespace Sys2Proof.Machine
open Sys2Proof

variable {d e : Dev} {o : Out} {j : CJob}

/-- The service lanes wait for nothing, and page 0 encrypts: keyed, of the service domain, with nothing that waits on it (R132, R153). -/
structure Dev.OpenLanes (d : Dev) : Prop where
  jobs : d.ciph.jobs = []
  lane : d.ciph.lane0 = none ∨ d.ciph.lane1 = none
  keyed : (d.page 0).state = .ready
  own : (d.page 0).domain = 0
  erase : (d.page 0).erase = none
  rekey : (d.page 0).rekey = none

/-- A head that can send a message: what `Speaks` says, but for the margin of page 0's counter. -/
structure Dev.Voiced (d : Dev) : Prop where
  session : d.tango.session = true
  on : d.ciphOn = true
  serves : d.OpenLanes

theorem Speaks.voiced (v : Speaks d) : d.Voiced := by
  obtain ⟨session, ⟨on, none_, lane⟩, keyed, own, -, erase, rekey⟩ := v
  exact ⟨session, on, none_, lane, keyed, own, erase, rekey⟩

/-- A message of a head with a voice is the only job that its lanes find. -/
theorem Dev.Voiced.tangoSend_eq {m : Nat × List Byte} (v : d.Voiced) (is : tangoMsg o = some m) (fits : m.2.length ≤ 2 ^ 32) (qp : Nat) :
    ∃ j x, tangoSend qp o d = kickLanes x ∧ Announces o j ∧ j.encrypt = true ∧ x.regs = d.regs ∧ x.ciph = { d.ciph with jobs := [j] } := by
  obtain ⟨session, on, none_, lane, keyed, own, erase, rekey⟩ := v
  have quiet : ((d.page 0).erase.isSome || (d.page 0).rekey.isSome) = false := by rw [erase, rekey]; rfl
  unfold tangoSend Dev.tangoJob
  rw [session, keyed, is]
  simp only [Option.map_some, beq_self_eq_true, Bool.and_self, if_true]
  unfold submitJob
  dsimp only
  rw [if_neg (by rw [tangoHead_length, List.length_nil]; omega)]
  apply Exists.intro
  apply Exists.intro
  refine ⟨rfl, ?_, ?_, rfl, by rw [onCiph_ciph, onTango_ciph, none_]; rfl⟩
  · exact ⟨rfl, rfl, rfl, quiet, rfl, rfl, rfl, rfl⟩
  · rfl

theorem accepted_of_serves {x : Dev} (s : d.OpenLanes) (on : d.ciphOn = true) (a : Announces o j) (regs : x.regs = d.regs)
    (ciph : x.ciph = { d.ciph with jobs := [j] }) : jobRefused x j = none := by
  have page : x.page 0 = d.page 0 := by unfold Dev.page; rw [ciph]
  refine jobRefused_of_announces ?_ (page ▸ s.keyed) (page ▸ s.own) a
  unfold Dev.ciphOn at on ⊢
  rw [regs]
  exact on

/-- What a head with a voice has for its partner leaves at once (R280, R281). -/
theorem Dev.Voiced.mem_tangoSend {m : Nat × List Byte} (v : d.Voiced) (is : tangoMsg o = some m) (fits : m.2.length ≤ 2 ^ 32) (qp : Nat) :
    o ∈ (tangoSend qp o d).out := by
  obtain ⟨j, x, sends, a, -, regs, ciph⟩ := v.tangoSend_eq is fits qp
  rw [sends]
  refine mem_kickLanes (by rw [ciph]) a (accepted_of_serves v.serves v.on a regs ciph) ?_
  rw [ciph]
  exact v.serves.lane

/-! ## The lanes after a message -/

theorem pickJob_of_none (jobs : d.ciph.jobs = []) (last : Bool) : pickJob d last = none := by
  have own (p : Nat) : jobOf d p = none := by
    unfold jobOf
    rw [jobs]
    rfl
  unfold pickJob
  dsimp only
  rw [own, own, List.findSome?_eq_none_iff.mpr fun p _ => own p]
  cases last <;> rfl

theorem laneNext_of_none (jobs : d.ciph.jobs = []) (lane : Fin 2) (n : Nat) : laneNext lane n d = onCiph (setLane lane none) d := by
  cases n with
  | zero => rfl
  | succ n =>
    unfold laneNext
    rw [pickJob_of_none jobs]

theorem takeCounter_page (margin : (d.page 0).ctr.ult ctrLow = true) :
    ∃ c w, (takeCounter 0 d).page 0 = { d.page 0 with ctr := c, warned := w } ∧
      (takeCounter 0 d).ciph = { d.ciph with pages := tput d.ciph.pages 0 ((takeCounter 0 d).page 0) } := by
  have below : (d.page 0).ctr + 1 ≠ ctrEnd := by
    intro last
    have at_ : (d.page 0).ctr = ctrEnd - 1 := by rw [← last]; simp
    rw [at_] at margin
    exact absurd margin (by decide)
  have logs (c : Nat) (i : W32) (w : List W32) (x : Dev) : (logEvent c i w x).ciph = x.ciph :=
    logEvent_k (L := logBlks) rfl (.refl _ x) .ciph (by decide)
  have same : ∃ w, (takeCounter 0 d).ciph = { d.ciph with pages := tput d.ciph.pages 0 { d.page 0 with ctr := (d.page 0).ctr + 1, warned := w } } := by
    unfold takeCounter
    dsimp only
    rw [if_neg below]
    split
    · exact ⟨_, logs _ _ _ _⟩
    · exact ⟨_, rfl⟩
  obtain ⟨w, same⟩ := same
  have page : (takeCounter 0 d).page 0 = { d.page 0 with ctr := (d.page 0).ctr + 1, warned := w } := by
    unfold Dev.page
    rw [same, tgetD_tput]
    rfl
  exact ⟨_, w, page, by rw [page, same]⟩

theorem startJob_of_announces (a : Announces o j) (encrypt : j.encrypt = true) (d : Dev) : (startJob j d).2 = takeCounter 0 d := by
  unfold startJob
  rw [a.started, a.page, a.long, encrypt]
  rfl

theorem endJob_ciph (long : j.long = false) (msg : j.msg = some o) (aborting : j.aborting = none) (d : Dev) : (endJob j d).ciph = d.ciph := by
  unfold endJob
  rw [long, msg, aborting]
  rfl

theorem pageIdle_of_none {p : Nat} (erase : (d.page p).erase = none) (rekey : (d.page p).rekey = none) : pageIdle p d = d := by
  unfold pageIdle
  rw [erase, rekey]
  split <;> rfl

/-- The job of a message as its lane runs it. -/
theorem startJob_message (a : Announces o j) (d : Dev) : (startJob j d).1.long = false ∧ (startJob j d).1.msg = some o ∧
    (startJob j d).1.aborting = none := by
  refine ⟨?_, (startJob_msg j d).trans a.msg, (startJob_aborting j d).trans a.aborting⟩
  unfold startJob
  split <;> exact a.long

/-- A message has left, and its lane finds no other job. -/
theorem laneNext_after_message (long : j.long = false) (msg : j.msg = some o) (aborting : j.aborting = none) (jobs : d.ciph.jobs = [])
    (erase : (d.page 0).erase = none) (rekey : (d.page 0).rekey = none) (lane : Fin 2) (n : Nat) :
    laneNext lane n (pageIdle 0 (endJob j d)) = onCiph (setLane lane none) (endJob j d) := by
  have ciph : (endJob j d).ciph = d.ciph := endJob_ciph long msg aborting d
  have page : (endJob j d).page 0 = d.page 0 := by unfold Dev.page; rw [ciph]
  rw [pageIdle_of_none (by rw [page, erase]) (by rw [page, rekey]), laneNext_of_none (by rw [ciph, jobs])]

/-- The lane that takes the message is free again after it, and page 0 has lost one counter value. -/
theorem laneNext_of_only (jobs : d.ciph.jobs = [j]) (a : Announces o j) (encrypt : j.encrypt = true) (accepted : jobRefused d j = none)
    (margin : (d.page 0).ctr.ult ctrLow = true) (erase : (d.page 0).erase = none) (rekey : (d.page 0).rekey = none) (lane : Fin 2) (n : Nat) :
    ∃ c w x, laneNext lane (n + 1) d = onCiph (setLane lane none) x ∧ x.ciph.jobs = [] ∧ x.ciph.lane0 = d.ciph.lane0 ∧
      x.ciph.lane1 = d.ciph.lane1 ∧ x.page 0 = { d.page 0 with ctr := c, warned := w } := by
  have taken (f : Ciph → Ciph) (h : ∀ c, (f c).pages = c.pages) : jobRefused (onCiph f d) j = none := by
    unfold jobRefused Dev.page at accepted ⊢
    rw [onCiph_ciph, h]
    exact accepted
  obtain ⟨long, msg, aborting⟩ := startJob_message a (onCiph (fun c => { c with jobs := c.jobs.erase j }) d)
  obtain ⟨c, w, page, ciph⟩ := takeCounter_page (d := onCiph (fun c => { c with jobs := c.jobs.erase j }) d) margin
  have none_ : (takeCounter 0 (onCiph (fun c => { c with jobs := c.jobs.erase j }) d)).ciph.jobs = [] := by
    rw [ciph, onCiph_ciph, jobs]
    simp
  unfold laneNext
  rw [pickJob_of_only jobs a]
  dsimp only
  rw [a.started, if_neg Bool.false_ne_true, taken (fun c => { c with jobs := c.jobs.erase j }) (fun _ => rfl)]
  dsimp only
  rw [a.timed, if_neg Bool.false_ne_true, startJob_of_announces a encrypt, a.page]
  refine ⟨c, w, _, laneNext_after_message long msg aborting ?_ ?_ ?_ lane n, ?_⟩
  · exact none_
  · exact (congrArg Page.erase page).trans erase
  · exact (congrArg Page.rekey page).trans rekey
  · unfold Dev.page at page ⊢
    rw [endJob_ciph long msg aborting]
    exact ⟨none_, by rw [onCiph_ciph, ciph]; rfl, by rw [onCiph_ciph, ciph]; rfl, page⟩

theorem Dev.OpenLanes.free (s : d.OpenLanes) (lane : Fin 2) : (onCiph (setLane lane none) d).OpenLanes := by
  obtain ⟨jobs, lanes, keyed, own, erase, rekey⟩ := s
  have page : (onCiph (setLane lane none) d).page 0 = d.page 0 := by
    unfold Dev.page setLane
    rw [onCiph_ciph]
    split <;> rfl
  refine ⟨?_, ?_, page ▸ keyed, page ▸ own, page ▸ erase, page ▸ rekey⟩ <;> rw [onCiph_ciph] <;> unfold setLane <;> split
  · exact jobs
  · exact jobs
  · exact .inl rfl
  · exact .inr rfl

theorem kickLane_serves_of_none (s : d.OpenLanes) (lane : Fin 2) : (kickLane lane d).OpenLanes := by
  unfold kickLane
  split
  · rw [laneNext_of_none s.jobs]
    exact s.free lane
  · exact s

/-- After the one message of a free lane both lanes serve as they did. -/
theorem kickLane_serves_of_only (jobs : d.ciph.jobs = [j]) (a : Announces o j) (encrypt : j.encrypt = true) (accepted : jobRefused d j = none)
    (s : Dev.OpenLanes { d with ciph := { d.ciph with jobs := [] } }) (margin : (d.page 0).ctr.ult ctrLow = true) (lane : Fin 2)
    (free : laneJob lane d.ciph = none) : (kickLane lane d).OpenLanes := by
  obtain ⟨-, lanes, keyed, own, erase, rekey⟩ := s
  obtain ⟨c, w, x, runs, none_, lane0, lane1, page⟩ := laneNext_of_only jobs a encrypt accepted margin erase rekey lane d.ciph.jobs.length
  have serves : x.OpenLanes := ⟨none_, by rw [lane0, lane1]; exact lanes, by rw [page]; exact keyed, by rw [page]; exact own,
    by rw [page]; exact erase, by rw [page]; exact rekey⟩
  unfold kickLane
  rw [free, Option.isNone_none, if_pos rfl, runs]
  exact serves.free lane

theorem kickLanes_serves (jobs : d.ciph.jobs = [j]) (a : Announces o j) (encrypt : j.encrypt = true) (accepted : jobRefused d j = none)
    (s : Dev.OpenLanes { d with ciph := { d.ciph with jobs := [] } }) (margin : (d.page 0).ctr.ult ctrLow = true) : (kickLanes d).OpenLanes := by
  rw [kickLanes_eq]
  by_cases first : laneJob 0 d.ciph = none
  · exact kickLane_serves_of_none (kickLane_serves_of_only jobs a encrypt accepted s margin 0 first) 1
  · rw [kickLane_of_busy 0 first]
    exact kickLane_serves_of_only jobs a encrypt accepted s margin 1 (s.lane.resolve_left first)

/-- A head that speaks has a voice after a message still: at worst its counter has reached the warning (R138). -/
theorem tangoSend_voiced {m : Nat × List Byte} (v : Speaks d) (is : tangoMsg o = some m) (fits : m.2.length ≤ 2 ^ 32) (qp : Nat) :
    (tangoSend qp o d).Voiced := by
  have kept := tangoSend_keeps qp o d
  obtain ⟨session, on, serves⟩ := v.voiced
  refine ⟨(tangoSend_posts qp o d).session.trans session, ?_, ?_⟩
  · unfold Dev.ciphOn at on ⊢
    rw [kept .regs (by decide)]
    exact on
  · obtain ⟨j, x, sends, a, encrypt, regs, ciph⟩ := v.voiced.tangoSend_eq is fits qp
    obtain ⟨-, -, -, -, margin, -⟩ := v
    have page : x.page 0 = d.page 0 := by unfold Dev.page; rw [ciph]
    have accepted := accepted_of_serves serves on a regs ciph
    obtain ⟨none_, lane, keyed, own, erase, rekey⟩ := serves
    rw [sends]
    refine kickLanes_serves (by rw [ciph]) a encrypt accepted ⟨rfl, ?_, ?_, ?_, ?_, ?_⟩ (page ▸ margin)
    · rw [ciph]; exact lane
    · exact page ▸ keyed
    · exact page ▸ own
    · exact page ▸ erase
    · exact page ▸ rekey

end Sys2Proof.Machine
end

section
/-! PROOF. The mirrored journal, its acknowledgement and the verdicts on claims (R189, R191, R292, R508). -/

namespace Sys2Proof.Machine
open Sys2Proof

variable {d : Dev} {s : State} {e : Env}

/-! ## A message that is heard (R280, R311) -/

theorem checkedIn_of_agreed (a : Agreed e d) (qp type : Nat) (f : Dev → Dev) : checkedIn qp type e f d = f (d.noted qp e) := by
  obtain ⟨⟨on, keyed, auth, level⟩, epoch, role⟩ := a
  unfold checkedIn tangoIn
  rw [if_neg (by simp [on, keyed, auth])]
  dsimp only
  rw [if_neg (by omega), if_neg Bool.false_ne_true, if_neg (fun h => h.1 epoch), if_neg (fun h => h role)]
  rfl

/-- A command that a message of the pair gives runs where the pair does. -/
theorem heard_next (on : s.dev.pairOn = true) (a : Agreed e s.dev) (qp type : Nat) (f : Dev → Dev) :
    (Host.Outcome.next { s with dev := when s.dev.pairOn (checkedIn qp type e f) s.dev } : Host.Outcome State Fault Refusal) =
      .next { s with dev := f (s.dev.noted qp e) } := by
  rw [on, when_true, checkedIn_of_agreed a]

theorem noted_keeps (qp : Nat) (e : Env) (d : Dev) : Keeps [.tango] d (d.noted qp e) := onTango_keeps _ d

theorem noted_speaks (v : Speaks d) (qp : Nat) : Speaks (d.noted qp e) := v

theorem parts_of_pairOn (on : d.pairOn = true) : d.working = true ∧ d.tango.started = true ∧ d.pairEn = true := by
  unfold Dev.pairOn at on
  rwa [Bool.and_eq_true, Bool.and_eq_true, and_assoc] at on

theorem live_of_pairOn (on : d.pairOn = true) : d.live = true := by
  obtain ⟨works, -⟩ := parts_of_pairOn on
  unfold Dev.working at works
  exact (Bool.and_eq_true_iff.mp works).1

/-! ## MIRROR_REC (R191, R292) -/

/-- Whether a record of number `j` is still live after record `r`: a DURABLE ends those up to its own number (R191). -/
def outlives (r : JRec) (j : Nat) : Bool :=
  match r.body with
  | .durable k => upTo64 k j
  | _ => true

/-- The mirror with a record placed in it, and the record counted. -/
def placeRec (r : JRec) (st : Option GState) (d : Dev) : Dev :=
  let d1 := onTango (fun t => { t with
    mirror := (t.mirror ++ [r]).filter (fun x => outlives r x.jseq)
    mirrorSt := (t.mirrorSt ++ (st.map (fun s => (r.jseq, s))).toList).filter (fun x => outlives r x.1)
    placed := r.jseq, resync := false }) d
  { d1 with ih := { d1.ih with mirrorPlaced := d1.ih.mirrorPlaced + 1 } }

/-- A record placed and acknowledged. -/
def ackRec (r : JRec) (st : Option GState) (d : Dev) : Dev := tangoSend 2 (.mirrorAck r.jseq) (placeRec r st d)

variable {r : JRec} {st : Option GState}

theorem mirrorRec_of_gap (sync : d.tango.resync = false) (gap : r.jseq ≠ next64 d.tango.placed) (st : Option GState) :
    mirrorRec r st true d = d := by
  unfold mirrorRec
  rw [if_pos (by simp [sync, gap])]

theorem mirrorRec_of_durable {k : Nat} (due : r.jseq = next64 d.tango.placed ∨ d.tango.resync = true) (body : r.body = .durable k) :
    mirrorRec r st true d = relabel (partnerFrees (ackRec r st d)) := by
  unfold mirrorRec
  rw [if_neg (by rcases due with h | h <;> simp [h])]
  unfold ackRec placeRec outlives
  rw [body]

theorem mirrorRec_of_claim (due : r.jseq = next64 d.tango.placed ∨ d.tango.resync = true) (body : r.body = .periodClaim) :
    mirrorRec r st true d = judgeClaim r (ackRec r st d) := by
  unfold mirrorRec
  rw [if_neg (by rcases due with h | h <;> simp [h])]
  unfold ackRec placeRec outlives
  rw [body]

theorem mirrorRec_of_plain (due : r.jseq = next64 d.tango.placed ∨ d.tango.resync = true) (durable : ∀ k, r.body ≠ .durable k)
    (retire : ∀ k, r.body ≠ .stripeRetire k) (claim : r.body ≠ .periodClaim) : mirrorRec r st true d = ackRec r st d := by
  unfold mirrorRec
  rw [if_neg (by rcases due with h | h <;> simp [h])]
  unfold ackRec placeRec outlives
  cases body : r.body with
  | durable k => exact absurd body (durable k)
  | stripeRetire k => exact absurd body (retire k)
  | periodClaim => exact absurd body claim
  | stripeOpen => rfl
  | remap => rfl
  | stripeLost => rfl
  | stripeDiscard => rfl

theorem outlives_of_plain (durable : ∀ k, r.body ≠ .durable k) (j : Nat) : outlives r j = true := by
  unfold outlives
  split
  · next k body => exact absurd body (durable k)
  · rfl

theorem outlives_of_durable {k : Nat} (body : r.body = .durable k) (j : Nat) : outlives r j = upTo64 k j := by
  unfold outlives
  rw [body]

theorem ackRec_posts (r : JRec) (st : Option GState) (d : Dev) : Posts (placeRec r st d) (ackRec r st d) := tangoSend_posts _ _ _

theorem ackRec_keeps (r : JRec) (st : Option GState) (d : Dev) :
    Keeps [.out, .cat, .ciph, .hif, .tango, .dma, .evr] (placeRec r st d) (ackRec r st d) := tangoSend_keeps _ _ _

theorem ack_short (j : Nat) : (leBytes 8 j).length ≤ 2 ^ 32 := by
  rw [leBytes_length]
  decide

theorem placeRec_speaks (v : Speaks d) (r : JRec) (st : Option GState) : Speaks (placeRec r st d) := v

theorem mem_ackRec (v : Speaks d) (r : JRec) (st : Option GState) : Out.mirrorAck r.jseq ∈ (ackRec r st d).out :=
  (placeRec_speaks v r st).voiced.mem_tangoSend rfl (ack_short _) 2

theorem ackRec_voiced (v : Speaks d) (r : JRec) (st : Option GState) : (ackRec r st d).Voiced :=
  tangoSend_voiced (placeRec_speaks v r st) rfl (ack_short _) 2

/-! ## The verdict on a claim (R508) -/

theorem Dev.Voiced.of_keeps {x : Dev} (v : d.Voiced) (k : Keeps [.vault] d x) : x.Voiced := by
  have tango : x.tango = d.tango := k .tango (by decide)
  have regs : x.regs = d.regs := k .regs (by decide)
  have ciph : x.ciph = d.ciph := k .ciph (by decide)
  obtain ⟨session, on, jobs, lane, keyed, own, erase, rekey⟩ := v
  unfold Dev.ciphOn at on
  have page : x.page 0 = d.page 0 := by unfold Dev.page; rw [ciph]
  exact ⟨by rw [tango, session], by unfold Dev.ciphOn; rw [regs, on], by rw [ciph, jobs], by rw [ciph]; exact lane, page ▸ keyed, page ▸ own,
    page ▸ erase, page ▸ rekey⟩

/-- This head has claimed the period that a record claims. -/
def Dev.claimed (d : Dev) (r : JRec) : Bool :=
  d.vault.claims.any (fun c => c.layout == r.layout && c.period == r.subject && c.headB == d.glb.headB)

theorem verdict_short (l p j : Nat) (b : Bool) :
    (leBytes 2 l ++ leBytes 1 (bit b) ++ zeros 5 ++ leBytes 8 p ++ leBytes 8 j).length ≤ 2 ^ 32 := by
  simp [leBytes_length, zeros]

/-- The partner learns the verdict on its claim: head A refuses one that it has made itself. -/
theorem verdict_mem_judgeClaim (v : d.Voiced) (r : JRec) :
    Out.claimVerdict r.layout r.subject r.jseq (d.claimed r && !d.glb.headB) ∈ (judgeClaim r d).out := by
  have told (x : Dev) (b : Bool) (k : x.Voiced) : Out.claimVerdict r.layout r.subject r.jseq b ∈
      (tangoSend 0 (.claimVerdict r.layout r.subject r.jseq b) x).out := k.mem_tangoSend rfl (verdict_short _ _ _ _) 0
  have found : d.claimed r =
      (d.vault.claims.find? (fun c => c.layout == r.layout && c.period == r.subject && c.headB == d.glb.headB)).isSome :=
    List.isSome_find?.symm
  have other : (applyRec r (onVault (fun v => { v with
      claims := v.claims.filter (fun c => !(c.layout == r.layout && c.period == r.subject)) }) d)).Voiced :=
    v.of_keeps (applyRec_k rfl (onVault_k rfl (.refl _ d)))
  have refuses : (onTango (fun t => { t with refused := t.refused ++ [(r.layout, r.subject, r.jseq)] }) d).Voiced :=
    ⟨v.session, v.on, v.serves.jobs, v.serves.lane, v.serves.keyed, v.serves.own, v.serves.erase, v.serves.rekey⟩
  have claims (l : LayoutRec) (x : Dev) : Grows x (claimPeriod l x) := claimPeriod_grows l x
  rw [found]
  unfold judgeClaim
  dsimp only
  split
  · next q b =>
    rw [q, b]
    exact told _ true refuses
  · next b _ free =>
    have accepts : ((d.vault.claims.find? (fun c => c.layout == r.layout && c.period == r.subject && c.headB == d.glb.headB)).isSome &&
        !d.glb.headB) = false := by
      refine Bool.eq_false_iff.mpr fun both => ?_
      obtain ⟨own, headA⟩ := Bool.and_eq_true_iff.mp both
      obtain ⟨c, q⟩ := Option.isSome_iff_exists.mp own
      exact free c q (by simpa using headA)
    rw [accepts]
    split
    · exact (claims _ _).mem (told _ false other)
    · exact told _ false other

/-! ## MIRROR_ACK (R185, R189) -/

theorem maskOf_ne_zero {l : List Nat} (h : 0 ∈ l) : maskOf l ≠ 0 := by
  have keeps (l : List Nat) (m : BitVec 18) (b : m.getLsbD 0 = true) : (l.foldl (fun (m : BitVec 18) k => m ||| (1 <<< k)) m).getLsbD 0 = true := by
    induction l generalizing m with
    | nil => exact b
    | cons k t ih => exact ih _ (by simp [b])
  have sets (l : List Nat) (m : BitVec 18) (h : 0 ∈ l) : (l.foldl (fun (m : BitVec 18) k => m ||| (1 <<< k)) m).getLsbD 0 = true := by
    induction l generalizing m with
    | nil => cases h
    | cons k t ih =>
      rcases List.mem_cons.mp h with rfl | h
      · exact keeps t _ (by simp)
      · exact ih _ h
  intro zero
  have set_ := sets l 0 h
  unfold maskOf at zero
  rw [zero] at set_
  exact absurd set_ (by decide)

/-- An entry of which no member is written may not retire (R185). -/
theorem retirable_of_unwritten {x : OpenEnt} (done : x.done = 0) (placed : d.layout x.buf.layout ≠ none)
    (members : ∀ l, d.layout x.buf.layout = some l → l.members ≠ 0) : d.retirable x = false := by
  obtain ⟨l, found⟩ := Option.ne_none_iff_exists'.mp placed
  have left : ((0 : BitVec 18) == fullMask l.members) = false :=
    beq_eq_false_iff_ne.mpr (maskOf_ne_zero (List.mem_range.mpr (Nat.pos_of_ne_zero (members l found)))).symm
  unfold Dev.retirable
  rw [found, done]
  dsimp only [Option.map_some, Option.getD_some]
  rw [left]
  simp only [Bool.false_and]

theorem retireAll_of_none (none_ : d.vault.opened.find? d.retirable = none) (n : Nat) : retireAll n d = d := by
  cases n with
  | zero => rfl
  | succ n =>
    unfold retireAll
    rw [none_]

/-- A head on which nothing waits for a retirement but entries that may not retire has nothing to go on with. -/
structure Dev.Settled (d : Dev) : Prop where
  live : d.live = true
  retired : d.vault.opened.find? d.retirable = none
  mdc : d.vault.mdc = none
  repl : d.repl = []
  hand : d.tango.hand = none
  takes : d.cat.takes = []

theorem Dev.Settled.retireReady (h : d.Settled) : retireReady d = d := by
  have commits : stepCommit d = d := by unfold stepCommit; rw [h.mdc]
  have takes : advanceTakes d = d := by unfold advanceTakes settleChains; rw [h.takes]; exact congrArg (List.foldl _ d) h.takes
  have hands : settleHand d = d := by unfold settleHand; rw [h.hand]
  have repls : settleRepl d = d := by unfold settleRepl; rw [h.repl]; rfl
  unfold Machine.retireReady
  rw [retireAll_of_none h.retired]
  dsimp only
  rw [commits, takes, hands, repls, h.live, if_pos rfl]

/-- The open entries up to a number are mirrored, and the number is the newest acknowledged. -/
def ackOpened (j : Nat) (d : Dev) : Dev :=
  onVault (fun v => { v with opened := v.opened.map (fun e => if upTo64 e.jseq j then { e with acked := true } else e) })
    (onTango (fun t => { t with acked := later64 t.acked j }) d)

theorem mirrorAck_eq (j : Nat) (d : Dev) : mirrorAck j d = retireReady (ackOpened j d) := rfl

end Sys2Proof.Machine
end

section
/-! PROOF. Checkpoints (R295) and the memory that they are staged in: what has left the head stays sent while the write buffer drains, the
hot index is written back and the staging region is cleaned (R117, R371). -/

namespace Sys2Proof.Machine
open Sys2Proof

variable {d : Dev} {s : State}

/-! ## The cache sends nothing back -/

theorem drainOne_grows (s : State) : Grows s.dev (drainOne s).dev := by
  unfold drainOne
  split
  · exact .refl _
  · exact .trans (.of_eq rfl) (emits_grows _ _)

theorem drainN_grows (n : Nat) (s : State) : Grows s.dev (drainN n s).dev := by
  induction n generalizing s with
  | zero => exact .refl _
  | succ n ih => exact (drainOne_grows s).trans (ih _)

theorem drainLines_grows (p : Nat → Bool) (s : State) : Grows s.dev (drainLines p s).dev := drainN_grows _ s

theorem install_grows (cls line : Nat) (dirty : Bool) (data : List Byte) (s : State) : Grows s.dev (install cls line dirty data s).dev :=
  (install_k (L := [.free, .mca]) rfl (.refl _ s.dev)).grows (by decide)

theorem cacheWrite_grows (cls a : Nat) (data : List Byte) (s : State) : Grows s.dev (cacheWrite cls a data s).dev := by
  have drains (p : Nat → Bool) (f : Mca → Mca) : Grows s.dev (drainLines p (s.onMca f)).dev :=
    .trans (.of_eq rfl) (drainLines_grows p _)
  unfold cacheWrite
  dsimp only
  split
  · split
    · exact .refl _
    · next l _ =>
      have back : Grows s.dev (if l.dirty then writeBackLine l s else s).dev := by split <;> exact .of_eq rfl
      split
      · exact .trans back (.of_eq rfl)
      · repeat' split
        all_goals exact .of_eq rfl
  · split
    · exact (drains _ _).trans (install_grows _ _ _ _ _)
    split
    · exact drains _ _
    · exact drainLines_grows _ s

theorem writeLines_grows (cls a n : Nat) (b : List Byte) (s : State) : Grows s.dev (writeLines cls a n b s).dev := by
  induction n generalizing a b s with
  | zero => exact .refl _
  | succ n ih =>
    unfold writeLines
    split
    · exact .refl _
    · exact (cacheWrite_grows _ _ _ s).trans (ih _ _ _)

theorem syncHot_grows (s : State) : Grows s.dev (syncHot s).dev := by
  have buckets (l : List Nat) (x : State) : Grows x.dev (l.foldl (fun x b => syncBucket b x) x).dev := by
    induction l generalizing x with
    | nil => exact .refl _
    | cons b t ih => exact (writeLines_grows _ _ _ _ x).trans (ih _)
  exact .trans (buckets _ s) (.of_eq rfl)

theorem cleanLines_grows (p : Nat → Bool) (s : State) : Grows s.dev (cleanLines p s).dev := by
  have keys (l : List Nat) (x : State) : Grows x.dev (l.foldl (fun x n => cleanKey n x) x).dev :=
    (cleanKeys_k (L := [.mca]) rfl (.refl _ x.dev)).grows (by decide)
  have cleans := (drainLines_grows p s).trans (keys ((drainLines p s).dev.mca.keys p) _)
  unfold cleanLines
  dsimp only
  split
  · exact cleans.trans (.of_eq rfl)
  · exact cleans

theorem stagedState_grows (f : Dev → Dev) (s : State) : Grows (f s.dev) (stagedState f s).dev := by
  have counts (x : State) : Grows x.dev (maintDone x).dev := .of_eq rfl
  unfold stagedState
  dsimp only
  split
  · exact .refl _
  · exact ((syncHot_grows { s with dev := f s.dev }).trans (cleanLines_grows _ _)).trans (counts _)

/-! ## CHECKPOINT_TIMER (R295, R356) -/

theorem stagedState_of_same {f : Dev → Dev} (same : (f s.dev).tango.ckptSeq = s.dev.tango.ckptSeq) :
    stagedState f s = { s with dev := f s.dev } := by
  unfold stagedState
  exact if_pos same

theorem sendCkpt_of_bad (bad : d.tango.ckptBad = true) : sendCkpt d = onTango (fun t => { t with ckptBad := false }) d := by
  unfold sendCkpt
  exact if_pos bad

theorem sendCkpt_of_silent (good : d.tango.ckptBad = false)
    (none_ : d.tango.session = false ∨ (d.owned = [] ∧ d.cat.takes = [])) : sendCkpt d = d := by
  unfold sendCkpt
  rw [good, if_neg Bool.false_ne_true, if_neg]
  rcases none_ with apart | ⟨owned, takes⟩
  · simp [apart]
  · simp [owned, takes]

theorem sendCkpt_of_owner (good : d.tango.ckptBad = false) (session : d.tango.session = true) (owns : d.owned ≠ []) :
    sendCkpt d = toldTakes (onTango (fun t => { t with ckptSeq := next64 t.ckptSeq }) (tangoSend 3 (.ckpt d.checkpoint) d)) := by
  unfold sendCkpt
  rw [good, if_neg Bool.false_ne_true, session, if_pos (by simp [owns])]

/-- An owner's checkpoint leaves at once, and is counted. -/
theorem sendCkpt_tells (good : d.tango.ckptBad = false) (v : Speaks d) (owns : d.owned ≠ []) :
    (sendCkpt d).tango.ckptSeq = next64 d.tango.ckptSeq ∧ Out.ckpt d.checkpoint ∈ (sendCkpt d).out := by
  have told (x : Dev) : Keeps [.vault, .cat] x (toldTakes x) := toldTakes_k rfl (.refl _ x)
  have tango (x : Dev) : (toldTakes x).tango = x.tango := told x .tango (by decide)
  have out (x : Dev) : (toldTakes x).out = x.out := told x .out (by decide)
  rw [sendCkpt_of_owner good v.voiced.session owns, tango, out]
  exact ⟨congrArg next64 (tangoSend_posts _ _ d).ckptSeq, v.voiced.mem_tangoSend rfl (by decide) 3⟩

theorem exec_checkpointTimer (on : s.dev.pairOn = true) : exec .checkpointTimer s = .next (stagedState sendCkpt s) := by
  change Host.Outcome.next (stagedState (when s.dev.pairOn sendCkpt) s) = _
  rw [on]
  rfl

theorem exec_checkpointTimer_tells (on : s.dev.pairOn = true) (good : s.dev.tango.ckptBad = false) (v : Speaks s.dev) (owns : s.dev.owned ≠ []) :
    ∃ t, exec .checkpointTimer s = .next t ∧ t.dev.tango.ckptSeq = next64 s.dev.tango.ckptSeq ∧ Out.ckpt s.dev.checkpoint ∈ t.dev.out := by
  obtain ⟨seq, sent⟩ := sendCkpt_tells good v owns
  have staged : Keeps [.out, .free, .mca] (sendCkpt s.dev) (stagedState sendCkpt s).dev := stagedState_k (.refl _ _) rfl
  refine ⟨_, exec_checkpointTimer on, ?_, (stagedState_grows sendCkpt s).mem sent⟩
  rw [staged .tango (by decide), seq]

/-! ## CKPT_DONE (R295) -/

/-- A checkpoint that has come takes the place of the older of the two held. -/
theorem ckptDone_ckpts (c : Ckpt) (d : Dev) : (ckptDone c d).tango.ckpts = (d.tango.ckpts ++ [c]).drop (d.tango.ckpts.length - 1) := by
  unfold ckptDone
  dsimp only
  split
  · rw [(noteCkpt_posts c _).ckpts]
    rfl
  · rfl

theorem ckptDone_of_bad {c : Ckpt} (bad : c.crcOk = false) (d : Dev) : Keeps [.tango] d (ckptDone c d) := by
  unfold ckptDone
  dsimp only
  rw [bad]
  exact onTango_keeps _ d

end Sys2Proof.Machine
end

section
/-! PROOF. LEDGER (R297) and cross-heal (R90, R91, R298). -/

namespace Sys2Proof.Machine
open Sys2Proof

variable {d : Dev} {g : Fin 4}

/-! ## LEDGER (R297) -/

/-- The headers of a LEDGER's range differ from those that this head holds. -/
def feedBad (x : LedgerEnt) (d : Dev) : Bool :=
  match (d.lg.at x.group).ledgerBase with
  | some b => x.crcValid && (match (d.lg.at x.group).fedRange b.1 x.c with
    | some ss => crc32c ((ss.map (fun s => headerBytes s.pkt)).flatten) != x.crc
    | none => false)
  | none => false

/-- A mismatch of the feed is counted and logged. -/
def noteMismatch (x : LedgerEnt) (d : Dev) : Dev :=
  logEvent 0x0605 (BitVec.ofNat 32 x.group.val) [x.c] { d with ih := { d.ih with feedMismatch := d.ih.feedMismatch + 1 } }

/-- The standby ring up to C is released, and C is the next LEDGER's baseline. -/
def releaseTo (x : LedgerEnt) (ticks : Nat) (y : Ledger) : Ledger :=
  let k := heldSlots (y.ring.filter (fun s => precEq s.pkt.gsn x.c))
  { y with ring := y.ring.filter (fun s => !precEq s.pkt.gsn x.c), ringPos := if precEq y.ringPos x.c then x.c + 1 else y.ringPos,
           released := y.released + BitVec.ofNat 64 k, resident := y.resident - BitVec.ofNat 64 k, ledgerBase := some (x.c, ticks) }

theorem ledgerEnt_of_owned {x : LedgerEnt} (own : d.owns x.group = true) : ledgerEnt x d = d := by
  unfold ledgerEnt
  exact if_pos own

theorem ledgerEnt_of_standby {x : LedgerEnt} (own : d.owns x.group = false) :
    ledgerEnt x d = onLedger x.group (releaseTo x d.audit.ticks) (if feedBad x d then noteMismatch x d else d) := by
  unfold ledgerEnt
  rw [own]
  rfl

theorem feedBad_of_unchecked {x : LedgerEnt} (unchecked : x.crcValid = false) (d : Dev) : feedBad x d = false := by
  unfold feedBad
  rw [unchecked]
  split <;> rfl

theorem feedBad_of_mismatch {x : LedgerEnt} {b : W32 × Nat} {ss : List Slot} (valid : x.crcValid = true)
    (base : (d.lg.at x.group).ledgerBase = some b) (fed : (d.lg.at x.group).fedRange b.1 x.c = some ss)
    (differ : crc32c ((ss.map (fun y => headerBytes y.pkt)).flatten) ≠ x.crc) : feedBad x d = true := by
  unfold feedBad
  rw [base]
  dsimp only
  rw [fed, valid]
  simpa using differ

theorem noteMismatch_keeps (x : LedgerEnt) (d : Dev) : Keeps [.out, .cat, .hif, .ih, .dma, .evr] d (noteMismatch x d) :=
  logEvent_k rfl fun k n => by
    cases k with
    | ih => simp at n
    | _ => rfl

theorem noteMismatch_ih (x : LedgerEnt) (d : Dev) : (noteMismatch x d).ih = { d.ih with feedMismatch := d.ih.feedMismatch + 1 } :=
  logEvent_k (L := logBlks) rfl (.refl _ _) .ih (by decide)

theorem noteMismatch_recorded (x : LedgerEnt) (d : Dev) : Recorded 0x0605 (BitVec.ofNat 32 x.group.val) d (noteMismatch x d) :=
  logEvent_recorded 0x0605 (BitVec.ofNat 32 x.group.val) [x.c] { d with ih := { d.ih with feedMismatch := d.ih.feedMismatch + 1 } }

/-- The ledger of a standby group after a LEDGER is released up to C, whether the feed agreed or not. -/
theorem ledgerEnt_at {x : LedgerEnt} (own : d.owns x.group = false) :
    (ledgerEnt x d).lg.at x.group = releaseTo x d.audit.ticks (d.lg.at x.group) := by
  rw [ledgerEnt_of_standby own, onLedger_at]
  split
  · rw [noteMismatch_keeps x d .lg (by decide)]
  · rfl

theorem ledgerEnt_of_mismatch {x : LedgerEnt} (own : d.owns x.group = false) (bad : feedBad x d = true) :
    (ledgerEnt x d).ih.feedMismatch = d.ih.feedMismatch + 1 ∧ Recorded 0x0605 (BitVec.ofNat 32 x.group.val) d (ledgerEnt x d) := by
  rw [ledgerEnt_of_standby own, bad, if_pos rfl]
  exact ⟨congrArg (·.feedMismatch) (noteMismatch_ih x d), noteMismatch_recorded x d⟩

theorem ledgerEnt_of_unchecked {x : LedgerEnt} (own : d.owns x.group = false) (unchecked : x.crcValid = false) :
    Keeps [.lg] d (ledgerEnt x d) := by
  rw [ledgerEnt_of_standby own, feedBad_of_unchecked unchecked, if_neg Bool.false_ne_true]
  exact onLedger_keeps _ _ d

/-! ## HEAL_REQ (R90, R298) -/

variable {q : W32} {n : Nat} {f : W32} {i : W16}

theorem nak_short (type reason epoch : Nat) (seq : W64) (o : Four Nat) :
    (leBytes 1 type ++ wordBytes seq ++ leBytes 1 reason ++ leBytes 8 epoch ++ ownerBytes o).length ≤ 2 ^ 32 := by
  simp [wordBytes, ownerBytes, Four.list, leBytes_length]

/-- An owner asked for its own group refuses, and counts it. -/
theorem healReq_of_owned (own : d.owns g = true) (seq : W64) :
    healReq seq q g n f i d = tangoSend 4 (.nak 0x40 seq 1 d.tango.epoch d.tango.owners)
      { d with ih := { d.ih with roleDiscard := d.ih.roleDiscard + 1 } } := by
  unfold healReq
  rw [own, if_pos rfl]
  rfl

/-- The slots that this head holds of a run that its partner asks for. -/
def Dev.heldRun (d : Dev) (g : Fin 4) (sid : W16) (first : W32) (count : Nat) : List Slot :=
  (gsnRun first count).filterMap (d.heldSlot g sid)

theorem healReq_of_standby (own : d.owns g = false) (seq : W64) : ∃ held,
    healReq seq q g n f i d = tangoSend 4 (.healDone q g n f held (d.heldRun g i f n))
      { d with ih := { d.ih with healServed := d.ih.healServed + BitVec.ofNat 64 (d.heldRun g i f n).length } } := by
  have run : ((gsnRun f n).map (d.heldSlot g i)).filterMap id = d.heldRun g i f n := by
    unfold Dev.heldRun
    rw [List.filterMap_map]
    rfl
  unfold healReq
  rw [own, if_neg Bool.false_ne_true]
  dsimp only
  rw [run]
  exact ⟨_, rfl⟩

theorem healDone_short (id f : W32) (g : Fin 4) (n : Nat) (held : W64) :
    (wordBytes id ++ leBytes 1 g.val ++ leBytes 1 n ++ zeros 2 ++ wordBytes f ++ zeros 4 ++ wordBytes held).length ≤ 2 ^ 32 := by
  simp [wordBytes, zeros, leBytes_length]

/-! ## HEAL_DONE (R91) -/

variable {h : Heal} {x : Slot}

/-- A ledger with a healed slot of a gap in it. -/
def healed (gsn : W32) (x : Slot) (l : Ledger) : Ledger :=
  { l with heals := l.heals.filter (fun h => h.gsn != gsn), ring := ringInsert l.ringPos { x with state := 2, reason := 0 } l.ring
           received := l.received + 1, resident := l.resident + 1, healed := l.healed + 1 }

theorem healSlot_of_sound (asked : (d.lg.at g).heals = [h]) (stream : ∃ r, (d.sl.groups.at g).grant = some r ∧ r.streamId = x.pkt.streamId)
    (gsn : x.pkt.gsn = h.gsn) (group : x.pkt.group = BitVec.ofNat 8 g.val) : healSlot g h.gsn x d = onLedger g (healed h.gsn x) d := by
  obtain ⟨r, grant, sid⟩ := stream
  unfold healSlot
  dsimp only
  rw [asked, grant, if_neg (by simp), if_neg (by simp [gsn, group, sid])]
  rfl

theorem healDone_of_slot (q : W32) (g : Fin 4) (a : W32) (x : Slot) (d : Dev) (left : ((healSlot g a x d).lg.at g).heals = []) :
    healDone q g 1 a 1 [x] d = consume g (healSlot g a x d) := by
  unfold healDone
  have first : a + BitVec.ofNat 32 0 = a := by simp
  have bits : (List.range (min 1 64)).filter (BitVec.getLsbD (1 : W64)) = [0] := by decide
  rw [bits]
  simp only [List.zip_cons_cons, List.zip_nil_right, each, List.foldl_cons, List.foldl_nil, first, left, List.filter_nil, List.map_nil]

theorem healDone_of_none (asked : (d.lg.at g).heals = [h]) (mine : h.reqId = q) :
    healDone q g 1 h.gsn 0 [] d = consume g (dropHeal g h.gsn d) := by
  unfold healDone
  simp [each, asked, mine]

theorem dropHeal_received (g : Fin 4) (a : W32) (d : Dev) : ((dropHeal g a d).lg.at g).received = (d.lg.at g).received + 1 := by
  unfold dropHeal
  rw [onLedger_at]
  dsimp only
  split <;> rfl

/-- What a standby group's consumption changes of its ledger is the credit granted alone. -/
theorem consume_at_of_standby (own : d.owns g = false) : ∃ n, (consume g d).lg.at g = { d.lg.at g with granted := n } := by
  rw [consume_of_not_owned own]
  exact refreshLimit_at g d

theorem healDone_heals_slot (asked : (d.lg.at g).heals = [h]) (own : d.owns g = false)
    (stream : ∃ r, (d.sl.groups.at g).grant = some r ∧ r.streamId = x.pkt.streamId) (gsn : x.pkt.gsn = h.gsn)
    (group : x.pkt.group = BitVec.ofNat 8 g.val) : ∃ n,
      (healDone q g 1 h.gsn 1 [x] d).lg.at g = { healed h.gsn x (d.lg.at g) with granted := n } ∧ (healed h.gsn x (d.lg.at g)).heals = [] := by
  have none_ : (healed h.gsn x (d.lg.at g)).heals = [] := by simp [healed, asked]
  have heals := healSlot_of_sound asked stream gsn group
  have at_ : (healSlot g h.gsn x d).lg.at g = healed h.gsn x (d.lg.at g) := by rw [heals, onLedger_at]
  rw [healDone_of_slot q g h.gsn x d (by rw [at_, none_]), ← at_]
  obtain ⟨n, credit⟩ := consume_at_of_standby (d := healSlot g h.gsn x d) (g := g) (by rw [heals]; exact own)
  exact ⟨n, credit, by rw [at_, none_]⟩

theorem healDone_drops_missing (asked : (d.lg.at g).heals = [h]) (own : d.owns g = false) (mine : h.reqId = q) :
    ((healDone q g 1 h.gsn 0 [] d).lg.at g).heals = [] ∧
    ((healDone q g 1 h.gsn 0 [] d).lg.at g).received = (d.lg.at g).received + 1 := by
  obtain ⟨n, credit⟩ := consume_at_of_standby (d := dropHeal g h.gsn d) (g := g) own
  rw [healDone_of_none asked mine, credit]
  exact ⟨by rw [dropHeal_heals, asked]; simp, dropHeal_received g h.gsn d⟩

end Sys2Proof.Machine
end

section
/-! PROOF. What the pair exchanges while it runs: the journal mirrored, verdicts, checkpoints, LEDGER and cross-heal (R90, R91, R189, R191,
R292, R295, R297, R298, R508). -/

namespace Sys2Proof.Machine
open Sys2Proof

variable {s : State} {e : Env}

/-! ## The commands -/

theorem exec_mirrorRec (on : s.dev.pairOn = true) (a : Agreed e s.dev) (r : JRec) (st : Option GState) (ok : Bool) :
    exec (.mirrorRec e r st ok) s = .next { s with dev := mirrorRec r st ok (s.dev.noted 2 e) } := heard_next on a 2 0x48 _

theorem exec_mirrorAck (on : s.dev.pairOn = true) (a : Agreed e s.dev) (retiring : s.dev.retiring = true) (j : Nat) :
    exec (.mirrorAck e j) s = .next { s with dev := retireReady (ackOpened j (s.dev.noted 2 e)) } := by
  obtain ⟨-, started, enabled⟩ := parts_of_pairOn on
  change Host.Outcome.next { s with dev := when (s.dev.retiring && s.dev.tango.started && s.dev.pairEn) (checkedIn 2 0x49 e (mirrorAck j)) s.dev } = _
  rw [retiring, started, enabled, Bool.and_self, Bool.and_self, when_true, checkedIn_of_agreed a, mirrorAck_eq]

theorem exec_claimVerdict (on : s.dev.pairOn = true) (a : Agreed e s.dev) (l p j : Nat) (refused : Bool) :
    exec (.claimVerdict e l p j refused) s = .next { s with dev := claimVerdict l p j refused (s.dev.noted 0 e) } := heard_next on a 0 0x34 _

theorem exec_ckptDone (on : s.dev.pairOn = true) (a : Agreed e s.dev) (n : Nat) (c : Ckpt) :
    exec (.ckptDone e n c) s = .next { s with dev := ckptDone c (s.dev.noted 3 e) } := heard_next on a 3 0x38 _

theorem exec_ledger (on : s.dev.pairOn = true) (a : Agreed e s.dev) (x : LedgerEnt) :
    exec (.ledger e [x]) s = .next { s with dev := ledgerEnt x (s.dev.noted 1 e) } := heard_next on a 1 0x11 _

theorem exec_healReq (on : s.dev.pairOn = true) (a : Agreed e s.dev) (q : W32) (g : Fin 4) {n : Nat} (some_ : 1 ≤ n) (most : n ≤ 64)
    (f : W32) (i : W16) :
    exec (.healReq e q g n f i) s = .next { s with dev := healReq e.seq q g n f i (s.dev.noted 4 e) } := by
  change Host.Outcome.next { s with
    dev := when (s.dev.pairOn && decide (1 ≤ n ∧ n ≤ 64)) (checkedIn 4 0x40 e (healReq e.seq q g n f i)) s.dev } = _
  rw [on, decide_eq_true ⟨some_, most⟩, Bool.and_self, when_true, checkedIn_of_agreed a]

theorem exec_healReq_of_wrong {n : Nat} (wrong : n = 0 ∨ 64 < n) (q : W32) (g : Fin 4) (f : W32) (i : W16) :
    exec (.healReq e q g n f i) s = .next s := by
  change Host.Outcome.next { s with
    dev := when (s.dev.pairOn && decide (1 ≤ n ∧ n ≤ 64)) (checkedIn 4 0x40 e (healReq e.seq q g n f i)) s.dev } = _
  rw [decide_eq_false (by omega), Bool.and_false, when_false]

theorem exec_healDone (on : s.dev.pairOn = true) (a : Agreed e s.dev) (q : W32) (g : Fin 4) (n : Nat) (f : W32) (held : W64) (l : List Slot) :
    exec (.healDone e q g n f held l) s = .next { s with dev := healDone q g n f held l (s.dev.noted 4 e) } := heard_next on a 4 0x41 _

/-! ## MIRROR_REC in each of its cases -/

variable {r : JRec}

/-- A record of no other meaning is placed and acknowledged. -/
theorem exec_mirrorRec_plain (on : s.dev.pairOn = true) (a : Agreed e s.dev) (st : Option GState)
    (due : r.jseq = next64 s.dev.tango.placed ∨ s.dev.tango.resync = true) (durable : ∀ k, r.body ≠ .durable k)
    (retire : ∀ k, r.body ≠ .stripeRetire k) (claim : r.body ≠ .periodClaim) :
    ∃ d, exec (.mirrorRec e r st true) s = .next { s with dev := d } ∧ d.tango.placed = r.jseq ∧ d.tango.resync = false ∧
      d.tango.mirror = s.dev.tango.mirror ++ [r] ∧ d.ih = { s.dev.ih with mirrorPlaced := s.dev.ih.mirrorPlaced + 1 } ∧
      d.vault = s.dev.vault ∧ (Speaks s.dev → Out.mirrorAck r.jseq ∈ d.out) := by
  have posts := ackRec_posts r st (s.dev.noted 2 e)
  have kept := ackRec_keeps r st (s.dev.noted 2 e)
  have all : (s.dev.tango.mirror ++ [r]).filter (fun x => outlives r x.jseq) = s.dev.tango.mirror ++ [r] :=
    List.filter_eq_self.mpr fun x _ => outlives_of_plain durable x.jseq
  refine ⟨_, (exec_mirrorRec on a r st true).trans (by rw [mirrorRec_of_plain (d := s.dev.noted 2 e) due durable retire claim]), posts.placed, posts.resync, ?_,
    kept .ih (by decide), kept .vault (by decide), fun v => mem_ackRec (noted_speaks (e := e) v 2) r st⟩
  rw [posts.mirror, ← all]
  rfl

/-- A DURABLE of the partner ends the records up to its number. -/
theorem exec_mirrorRec_durable (on : s.dev.pairOn = true) (a : Agreed e s.dev) (st : Option GState) {k : Nat}
    (due : r.jseq = next64 s.dev.tango.placed ∨ s.dev.tango.resync = true) (body : r.body = .durable k) :
    ∃ d, exec (.mirrorRec e r st true) s = .next { s with dev := d } ∧ d.tango.placed = r.jseq ∧
      d.tango.mirror = (s.dev.tango.mirror ++ [r]).filter (fun x => upTo64 k x.jseq) := by
  have frees (x : Dev) : Posts x (relabel (partnerFrees x)) := (relabel_k rfl (partnerFrees_k rfl (.refl Blk.butTango x))).posts
  have posts := (ackRec_posts r st (s.dev.noted 2 e)).trans (frees _)
  refine ⟨_, (exec_mirrorRec on a r st true).trans (by rw [mirrorRec_of_durable (d := s.dev.noted 2 e) due body]), posts.placed, ?_⟩
  rw [posts.mirror]
  exact List.filter_congr fun x _ => outlives_of_durable body x.jseq

/-- A claim of the partner is answered. -/
theorem exec_mirrorRec_claim (on : s.dev.pairOn = true) (a : Agreed e s.dev) (st : Option GState)
    (due : r.jseq = next64 s.dev.tango.placed ∨ s.dev.tango.resync = true) (body : r.body = .periodClaim) (v : Speaks s.dev) :
    ∃ d, exec (.mirrorRec e r st true) s = .next { s with dev := d } ∧
      Out.claimVerdict r.layout r.subject r.jseq (s.dev.claimed r && !s.dev.glb.headB) ∈ d.out := by
  have kept := ackRec_keeps r st (s.dev.noted 2 e)
  have vault : (ackRec r st (s.dev.noted 2 e)).vault = s.dev.vault := kept .vault (by decide)
  have glb : (ackRec r st (s.dev.noted 2 e)).glb = s.dev.glb := kept .glb (by decide)
  have told := verdict_mem_judgeClaim (ackRec_voiced (noted_speaks (e := e) v 2) r st) r
  refine ⟨_, (exec_mirrorRec on a r st true).trans (by rw [mirrorRec_of_claim (d := s.dev.noted 2 e) due body]), ?_⟩
  unfold Dev.claimed at told ⊢
  rw [vault, glb] at told
  exact told

/-! ## MIRROR_ACK -/

theorem onVault_opened_of_none {d : Dev} (none_ : d.vault.opened = []) (f : OpenEnt → OpenEnt) :
    onVault (fun v => { v with opened := v.opened.map f }) d = d := by
  have same : { d.vault with opened := d.vault.opened.map f } = d.vault :=
    calc { d.vault with opened := d.vault.opened.map f }
      _ = { d.vault with opened := d.vault.opened } := by rw [none_, List.map_nil]
      _ = d.vault := rfl
  exact congrArg (fun v => { d with vault := v }) same

theorem ackOpened_of_none {d : Dev} (none_ : d.vault.opened = []) (j : Nat) :
    ackOpened j d = onTango (fun t => { t with acked := later64 t.acked j }) d :=
  onVault_opened_of_none (d := onTango _ d) none_ _

/-- With nothing open an acknowledgement is noted alone. -/
theorem exec_mirrorAck_of_none (on : s.dev.pairOn = true) (a : Agreed e s.dev) (retiring : s.dev.retiring = true) (j : Nat)
    (opened : s.dev.vault.opened = []) (mdc : s.dev.vault.mdc = none) (repl : s.dev.repl = []) (hand : s.dev.tango.hand = none)
    (takes : s.dev.cat.takes = []) :
    exec (.mirrorAck e j) s = .next { s with dev := onTango (fun t => { t with acked := later64 t.acked j }) (s.dev.noted 2 e) } := by
  rw [exec_mirrorAck on a retiring, ackOpened_of_none (d := s.dev.noted 2 e) opened]
  have settled : (onTango (fun t => { t with acked := later64 t.acked j }) (s.dev.noted 2 e)).Settled :=
    ⟨live_of_pairOn on, congrArg (List.find? _) opened, mdc, repl, hand, takes⟩
  rw [settled.retireReady]

/-- An entry of which no member is written is mirrored, and stays open. -/
theorem exec_mirrorAck_of_unwritten (on : s.dev.pairOn = true) (a : Agreed e s.dev) (retiring : s.dev.retiring = true) {j : Nat} {x : OpenEnt}
    (opened : s.dev.vault.opened = [x]) (upTo : upTo64 x.jseq j = true) (done : x.done = 0) (placed : s.dev.layout x.buf.layout ≠ none)
    (members : ∀ l, s.dev.layout x.buf.layout = some l → l.members ≠ 0) (mdc : s.dev.vault.mdc = none) (repl : s.dev.repl = [])
    (hand : s.dev.tango.hand = none) (takes : s.dev.cat.takes = []) :
    ∃ d, exec (.mirrorAck e j) s = .next { s with dev := d } ∧ d.vault.opened = [{ x with acked := true }] ∧
      d.tango.acked = later64 s.dev.tango.acked j := by
  have mirrored : (ackOpened j (s.dev.noted 2 e)).vault.opened = [{ x with acked := true }] := by
    change s.dev.vault.opened.map _ = _
    rw [opened, List.map_singleton, if_pos upTo]
  have stays : (ackOpened j (s.dev.noted 2 e)).retirable { x with acked := true } = false := retirable_of_unwritten done placed members
  have settled : (ackOpened j (s.dev.noted 2 e)).Settled :=
    ⟨live_of_pairOn on, by rw [mirrored, List.find?_singleton, stays]; rfl, mdc, repl, hand, takes⟩
  refine ⟨_, exec_mirrorAck on a retiring j, ?_⟩
  rw [settled.retireReady]
  exact ⟨mirrored, rfl⟩

/-! ## CLAIM_VERDICT (R508) -/

variable {c : Claim} {d : Dev}

theorem claimVerdict_of_none (none_ : d.vault.claims = []) (l p j : Nat) (refused : Bool) : claimVerdict l p j refused d = d := by
  unfold claimVerdict
  rw [none_]
  rfl

theorem claimVerdict_accepts (only : d.vault.claims = [c]) (mine : c.headB = d.glb.headB) :
    claimVerdict c.layout c.period c.jseq false d = onVault (fun v => { v with claims := [{ c with accepted := true }] }) d := by
  unfold claimVerdict onVault
  simp [only, mine]

theorem claimVerdict_refuses (only : d.vault.claims = [c]) (mine : c.headB = d.glb.headB) (unplaced : d.layout c.layout = none) :
    claimVerdict c.layout c.period c.jseq true d = onVault (fun v => { v with claims := [] }) d := by
  unfold claimVerdict onVault
  simp [only, mine, unplaced]

/-- Settles O54: each message by what it does once it is heard; a checkpoint's own takes are heeded with messages alone, so that the two
newest stay, and a second message leaves a head that speaks, so that a claim's verdict follows its acknowledgement. -/
theorem mirrorAndHeal : Obligations.MirrorAndHeal := by
  unfold Obligations.MirrorAndHeal
  intro s e on
  refine ⟨fun a => ⟨fun r st => ⟨?_, ?_, ?_⟩, fun retiring => ⟨?_, ?_⟩, ?_, ?_, ?_, ?_, ?_, ?_, ?_, ?_, ?_⟩, ?_, ?_, ?_⟩
  · exact exec_mirrorRec on a r st false
  · intro sync gap
    rw [exec_mirrorRec on a, mirrorRec_of_gap (d := s.dev.noted 2 e) sync gap]
  · intro due
    exact ⟨exec_mirrorRec_plain on a st due, fun k => exec_mirrorRec_durable on a st due, exec_mirrorRec_claim on a st due⟩
  · exact exec_mirrorAck_of_none on a retiring
  · intro j x
    exact exec_mirrorAck_of_unwritten on a retiring
  · rintro l p j c only mine rfl rfl rfl
    refine ⟨⟨_, exec_claimVerdict on a _ _ _ false, ?_⟩, fun unplaced => ⟨_, exec_claimVerdict on a _ _ _ true, ?_⟩⟩
    · rw [claimVerdict_accepts (d := s.dev.noted 0 e) only mine]
      exact ⟨onVault_k rfl (onTango_k rfl (.refl _ s.dev)), rfl⟩
    · rw [claimVerdict_refuses (d := s.dev.noted 0 e) only mine unplaced]
      rfl
  · intro l p j b none_
    rw [exec_claimVerdict on a, claimVerdict_of_none (d := s.dev.noted 0 e) none_]
  · intro n c
    refine ⟨_, exec_ckptDone on a n c, fun bad => ?_, ckptDone_ckpts c _⟩
    exact (noted_keeps 3 e s.dev).trans (ckptDone_of_bad bad _)
  · intro x own
    rw [exec_ledger on a, ledgerEnt_of_owned (d := s.dev.noted 1 e) own]
  · intro x own
    have at_ := ledgerEnt_at (d := s.dev.noted 1 e) own
    refine ⟨_, exec_ledger on a x, congrArg (·.ring) at_, congrArg (·.ledgerBase) at_, fun unchecked => ?_, fun b ss valid base fed differ => ?_⟩
    · exact (noted_keeps 1 e s.dev).then (ledgerEnt_of_unchecked (d := s.dev.noted 1 e) own unchecked) (by decide) (by decide)
    · exact ledgerEnt_of_mismatch (d := s.dev.noted 1 e) own (feedBad_of_mismatch valid base fed differ)
  · intro q g n f i some_ most own
    refine ⟨_, exec_healReq on a q g some_ most f i, ?_⟩
    rw [healReq_of_owned (d := s.dev.noted 4 e) own]
    refine ⟨tangoSend_keeps _ _ _ .ih (by decide), fun v => ?_⟩
    refine Dev.Voiced.mem_tangoSend ?_ rfl (nak_short _ _ _ _ _) 4
    exact Speaks.voiced (noted_speaks (e := e) v 4)
  · exact fun q g n f i wrong => exec_healReq_of_wrong wrong q g f i
  · intro q g n f i some_ most own v
    obtain ⟨held, serves⟩ := healReq_of_standby (d := s.dev.noted 4 e) (q := q) (n := n) (f := f) (i := i) own e.seq
    refine ⟨_, held, exec_healReq on a q g some_ most f i, ?_⟩
    rw [serves]
    refine ⟨tangoSend_keeps _ _ _ .lg (by decide), congrArg (·.healServed) (tangoSend_keeps _ _ _ .ih (by decide)), ?_⟩
    refine Dev.Voiced.mem_tangoSend ?_ rfl (healDone_short _ _ _ _ _) 4
    exact Speaks.voiced (noted_speaks (e := e) v 4)
  · intro q g x h asked own
    refine ⟨fun stream gsn group => ⟨_, exec_healDone on a q g 1 h.gsn 1 [x], ?_⟩, fun mine => ⟨_, exec_healDone on a q g 1 h.gsn 0 [], ?_⟩⟩
    · obtain ⟨n, at_, none_⟩ := healDone_heals_slot (d := s.dev.noted 4 e) (q := q) asked own stream gsn group
      rw [at_]
      exact ⟨none_, rfl, rfl⟩
    · exact healDone_drops_missing (d := s.dev.noted 4 e) asked own mine
  · intro bad
    have cleared := sendCkpt_of_bad bad
    rw [exec_checkpointTimer on, stagedState_of_same (by rw [cleared]; rfl), cleared]
    rfl
  · intro good none_
    have silent := sendCkpt_of_silent good none_
    rw [exec_checkpointTimer on, stagedState_of_same (by rw [silent]), silent]
  · exact fun good owns v => exec_checkpointTimer_tells on good v owns

end Sys2Proof.Machine
end

section
/-! PROOF. CLEAN of a line over an HBM that is out of its canonical form (R371; notes/assumptions/9.md). -/

namespace Sys2Proof.Machine
open Sys2Proof

/-- A dirty line of the cache: one byte, zero, at 0x1000. -/
def zeroLine : CLine := { addr := 0x1000, dirty := true, age := 0, data := [0] }

/-- A head that runs with that line in its cache, and HBM out of its canonical form: the byte at 0x1000 is listed behind the one at
0x2000. -/
def unsortedHbm : State :=
  { pending := [], hbm := [(0x2000, 1), (0x1000, 7)]
    dev := { Dev.reset with
      glb := { Glb.reset with porLow := false }
      mca := { Mca.reset with lines := [(wayKey (setOf 0x1000) 0, zeroLine)] } } }

theorem exec_clean_unsortedHbm : ∃ t, exec (.clean 0x1000) unsortedHbm = .next t ∧ memRead t.hbm 0x1000 = 7 := ⟨_, rfl, rfl⟩

/-- Refutes O10: no hypothesis asks that HBM stands in its canonical form. Where it does not, CLEAN of a dirty line whose byte is zero leaves a
byte of HBM standing that is listed out of order: 7 is read where the line held 0. No step leaves the canonical form (O4), so no run reaches such
a state. -/
theorem not_bufferAndCache : ¬ Obligations.BufferAndCache := by
  unfold Obligations.BufferAndCache
  rintro ⟨-, maintains, -⟩
  obtain ⟨⟨t, runs, -, -, cleaned⟩, -⟩ := maintains unsortedHbm 0x1000 rfl (by decide) rfl
  obtain ⟨bytes, -⟩ := cleaned (wayKey (setOf 0x1000) 0) zeroLine (by decide) (by decide) rfl
  obtain ⟨u, ran, stays⟩ := exec_clean_unsortedHbm
  cases ran.symm.trans runs
  have zero : [memRead t.hbm 0x1000] = [0] := bytes
  rw [stays] at zero
  exact absurd zero (by decide)

end Sys2Proof.Machine
end

section
/-! PROOF. What the encode path does to the metadata cache (R184, R188, R366): it puts records of the journal into the write buffer, in the
journal ring's own addresses, and leaves the rest of the cache alone. -/

namespace Sys2Proof.Machine
open Sys2Proof

variable {d e u : Dev} {g : Fin 4}

/-! ## The write buffer takes a record of the journal (R188, R367) -/

/-- An address of the journal ring. -/
def inJournal (a : Nat) : Prop := 0xC0000000 ≤ a ∧ a < 0xC0000000 + 67108864

/-- An entry of a write buffer holds a byte for an address. -/
def buffers (w : List WEnt) (a : Nat) : Prop := ∃ x ∈ w, ∃ b ∈ x.data, a = x.line + b.1

theorem mem_tput {α : Type} {t : Tab α} {k : Nat} {v : α} {x : Nat × α} (h : x ∈ tput t k v) : x = (k, v) ∨ x ∈ t := by
  induction t with
  | nil => exact .inl (List.mem_singleton.mp h)
  | cons c t ih =>
    obtain ⟨i, w⟩ := c
    unfold tput at h
    split at h
    · exact List.mem_cons.mp h
    split at h
    · exact (List.mem_cons.mp h).imp id (List.mem_cons_of_mem _)
    · rcases List.mem_cons.mp h with rfl | h
      · exact .inr List.mem_cons_self
      · exact (ih h).imp id (List.mem_cons_of_mem _)

theorem buffers_mergeByte {addr a : Nat} {b : Byte} {w : List WEnt} (h : buffers (mergeByte addr b w) a) : a = addr ∨ buffers w a := by
  have whole : addr / 128 * 128 + addr % 128 = addr := Nat.div_add_mod' _ _
  induction w with
  | nil =>
    obtain ⟨x, hx, y, hy, rfl⟩ := h
    cases List.mem_singleton.mp hx
    cases List.mem_singleton.mp hy
    exact .inl whole
  | cons f t ih =>
    unfold mergeByte at h
    split at h
    · next line =>
      obtain ⟨x, hx, y, hy, rfl⟩ := h
      rcases List.mem_cons.mp hx with rfl | hx
      · rcases mem_tput hy with rfl | hy
        · exact .inl (line ▸ whole)
        · exact .inr ⟨f, List.mem_cons_self, y, hy, rfl⟩
      · exact .inr ⟨x, List.mem_cons_of_mem _ hx, y, hy, rfl⟩
    · obtain ⟨x, hx, held⟩ := h
      rcases List.mem_cons.mp hx with rfl | hx
      · exact .inr ⟨x, List.mem_cons_self, held⟩
      · exact (ih ⟨x, hx, held⟩).imp id (fun ⟨y, hy, held⟩ => ⟨y, List.mem_cons_of_mem _ hy, held⟩)

theorem buffers_journalWrite {pos a : Nat} {l : List Byte} {w : List WEnt} (h : buffers (journalWrite pos l w) a) :
    buffers w a ∨ inJournal a := by
  induction l generalizing pos w with
  | nil => exact .inl h
  | cons b t ih =>
    rcases ih h with h | h
    · rcases buffers_mergeByte h with rfl | h
      · exact .inr ⟨by omega, by omega⟩
      · exact .inl h
    · exact .inr h

/-! ## From one head to a later one -/

/-- From `d` to `e` the metadata cache has taken records of the journal into its write buffer, at most. -/
def Journals (d e : Dev) : Prop := ∃ w, e.mca = { d.mca with wbuf := w } ∧ ∀ a, buffers w a → buffers d.mca.wbuf a ∨ inJournal a

/-- Every part of the head but the metadata cache. -/
def Blk.butMca : List Blk :=
  [.out, .now, .free, .glb, .regs, .sl, .lg, .audit, .pipes, .vault, .vcnt, .cat, .disk, .ciph, .dgst, .hif, .tango, .ih, .rdma, .rcnt,
    .repl, .bpm, .dma, .evr, .mnt, .boot]

namespace Journals

theorem of_eq (h : e.mca = d.mca) : Journals d e := ⟨d.mca.wbuf, h, fun _ => .inl⟩

theorem refl (d : Dev) : Journals d d := .of_eq rfl

theorem trans (h : Journals d e) (k : Journals e u) : Journals d u := by
  obtain ⟨v, he, hv⟩ := h
  obtain ⟨w, hu, hw⟩ := k
  rw [he] at hu hw
  exact ⟨w, hu, fun a b => (hw a b).elim (hv a) .inr⟩

theorem after (k : Journals e u) (h : Journals d e) : Journals d u := h.trans k

theorem ite {p : Prop} [Decidable p] (h : Journals d e) (k : Journals d u) : Journals d (if p then e else u) := by
  split
  · exact h
  · exact k

theorem foldl {α : Type} {f : Dev → α → Dev} (h : ∀ x a, Journals x (f x a)) (l : List α) (d : Dev) : Journals d (l.foldl f d) := by
  induction l generalizing d with
  | nil => exact refl d
  | cons a t ih => exact (h d a).trans (ih (f d a))

theorem lines (h : Journals d e) : e.mca.lines = d.mca.lines := by
  obtain ⟨w, h, -⟩ := h
  rw [h]

theorem hot (h : Journals d e) : e.mca.hot = d.mca.hot := by
  obtain ⟨w, h, -⟩ := h
  rw [h]

theorem wbuf (h : Journals d e) {a : Nat} (b : buffers e.mca.wbuf a) : buffers d.mca.wbuf a ∨ inJournal a := by
  obtain ⟨w, h, k⟩ := h
  rw [h] at b
  exact k a b

end Journals

theorem Keeps.journals (h : Keeps Blk.butMca d e) : Journals d e := .of_eq (h .mca (by decide))

/-! ## Stripes and the journal -/

theorem appendRec_journals (source layout subject : Nat) (body : JBody) (st : Option GState) (d : Dev) :
    Journals d (appendRec source layout subject body st d) := by
  unfold appendRec
  refine (tangoSend_k rfl (.refl _ _)).journals.after ?_
  exact ⟨_, rfl, fun _ => buffers_journalWrite⟩

theorem claimPeriod_journals (l : LayoutRec) (d : Dev) : Journals d (claimPeriod l d) := by
  unfold claimPeriod
  refine .ite (.refl d) (.ite (.refl d) ?_)
  split
  · exact .refl d
  · exact .trans (.of_eq rfl) (appendRec_journals _ _ _ _ _ _)

theorem allocStripe_journals (l : LayoutRec) (d : Dev) : Journals d (allocStripe l d).1 := by
  have claims : Journals d (if (d.lowestStripe l).isSome then d else claimPeriod l d) := .ite (.refl d) (claimPeriod_journals l d)
  unfold allocStripe
  split
  · exact .refl d
  dsimp only
  split
  · exact claims.trans (.of_eq rfl)
  · exact claims

theorem allocBuffers_journals (d : Dev) : Journals d (allocBuffers d).1 := (allocBuffers_k rfl (.refl _ d)).journals

theorem freshStripe_journals (l : LayoutRec) (t : Take) (part source group : Nat) (gsn : W32) (d : Dev) :
    Journals d (freshStripe l t part source group gsn d).1 := by
  have takes : Journals d (if t.reel.isSome then reelNext l t d else allocStripe l d).1 := by
    split
    · exact (reelNext_k rfl (.refl _ _)).journals
    · exact allocStripe_journals l d
  unfold freshStripe
  generalize (if t.reel.isSome then reelNext l t d else allocStripe l d) = r at takes ⊢
  obtain ⟨d1, _ | n⟩ := r
  · exact takes
  · have bufs := takes.trans (allocBuffers_journals d1)
    dsimp only at bufs ⊢
    generalize allocBuffers d1 = b at bufs ⊢
    obtain ⟨d2, _ | b⟩ := b
    · exact .ite bufs (bufs.trans (.of_eq rfl))
    · exact bufs

theorem needStripe_journals (g : Fin 4) (t : Take) (part : Nat) (gsn : W32) (d : Dev) : Journals d (needStripe g t part gsn d).1 := by
  unfold needStripe
  split
  · exact .refl d
  split
  · exact .refl d
  · next l _ =>
    have fresh := freshStripe_journals l t part g.val g.val gsn d
    generalize freshStripe l t part g.val g.val gsn d = r at fresh ⊢
    obtain ⟨d1, _ | sb⟩ := r
    · exact fresh
    · exact fresh.trans (.of_eq rfl)

theorem sealPipe_journals (g : Fin 4) (d : Dev) : Journals d (sealPipe g d) := (sealPipe_k rfl (.refl _ d)).journals

theorem flushMeta_journals (v id p : Nat) (d : Dev) : Journals d (flushMeta v id p d) := by
  unfold flushMeta
  split
  · exact .refl d
  · next t _ =>
    split
    · exact .refl d
    · next g _ =>
      have needs := needStripe_journals g t p (d.lg.at g).commit d
      generalize needStripe g t p (d.lg.at g).commit d = r at needs ⊢
      obtain ⟨d1, _ | sb⟩ := r
      · exact needs
      · exact needs.trans (sealPipe_journals g d1)

theorem startCommit_journals (closing : List (Nat × Nat)) (d : Dev) : Journals d (startCommit closing d) := by
  unfold startCommit
  dsimp only
  split
  · exact .of_eq rfl
  split
  · exact .of_eq rfl
  · next l _ =>
    have forms : Journals d (allocStripe l (formPages d)).1 :=
      .trans (formPages_k rfl (.refl _ d)).journals (allocStripe_journals l _)
    generalize allocStripe l (formPages d) = r at forms ⊢
    obtain ⟨d1, _ | n⟩ := r
    · exact .of_eq rfl
    · have bufs := forms.trans (allocBuffers_journals d1)
      dsimp only at bufs ⊢
      generalize allocBuffers d1 = b at bufs ⊢
      obtain ⟨d2, _ | b⟩ := b
      · exact .of_eq rfl
      · exact bufs.trans (queueStripe_k rfl (onVault_k rfl (systemStripe_k rfl (drawn_k rfl (.refl _ d2))))).journals

/-! ## The close of a take (R223) -/

theorem onTake_journals (v id : Nat) (f : Take → Take) (d : Dev) : Journals d (onTake v id f d) := .of_eq rfl

theorem writePages_journals (t : Take) (d : Dev) : Journals d (writePages t d) := by
  refine .foldl (fun x p => (flushMeta_journals _ _ _ _).after (.ite (.refl x) ?_)) _ d
  exact (formFramePage_k rfl (formTilePage_k rfl (.refl _ x))).journals

theorem writeManifest_journals (t : Take) (p : Part) (d : Dev) : Journals d (writeManifest t p d) := by
  unfold writeManifest
  exact (onTake_journals _ _ _ d).trans (flushMeta_journals _ _ _ _)

theorem cutSegments_journals (t : Take) (d : Dev) : Journals d (cutSegments t d) := by
  have steps (l : List Nat) : Journals d (l.foldl (fun x s => stepSegment t.volume t.id s (fixSegment t.volume t.id s true x)) d) :=
    .foldl (fun x _ => (stepSegment_k rfl (fixSegment_k rfl (.refl _ x))).journals) l d
  unfold cutSegments
  dsimp only
  split
  · exact .ite (steps _) ((steps _).trans (writePages_journals _ _))
  · exact steps _

theorem stepClose_journals (v id : Nat) (d : Dev) : Journals d (stepClose v id d) := by
  have stage (t : Take) (n : Nat) (x : Dev) : Journals x (setStage t n x) := onTake_journals _ _ _ x
  have flushes (t : Take) : Journals d (flushParts t d) := .foldl (fun _ _ => flushMeta_journals _ _ _ _) _ d
  unfold stepClose
  split
  · exact .refl d
  · next t _ =>
    refine .ite (.refl d) (.ite (.ite (stage t 1 d) (.refl d)) (.ite ?_ (.ite ?_ (.ite ?_ (.ite ?_ (.refl d))))))
    · exact .ite (cutSegments_journals t d) (.ite (.refl d) (.ite (writePages_journals t d) (stage t 2 d)))
    · exact .ite (.refl d) ((sealParts_k rfl (.refl _ d)).journals.trans (stage t 3 _))
    · split
      · exact .ite ((writeManifest_journals t _ d).trans (stage t 4 _)) (.refl d)
      · exact .refl d
    · exact .ite (.refl d) (.ite (flushes t) ((stage t 5 d).trans (startCommit_journals _ _)))

theorem advanceTake_journals (v id : Nat) (d : Dev) : Journals d (advanceTake v id d) := by
  have steps (n : Nat) : Journals d (Nat.repeat (stepClose v id) n d) := by
    induction n with
    | zero => exact .refl d
    | succ n ih => exact ih.trans (stepClose_journals v id _)
  exact steps 6

/-! ## Consuming (R74, R220, R223) -/

theorem sealTail_journals {t : Take} (h : sealTail g t d = some e) : Journals d e := by
  unfold sealTail at h
  dsimp only at h
  split at h
  · cases h; exact .refl d
  have needs := needStripe_journals g t (((t.partOf g).map (·.idx)).getD 0) (d.pipes.at g).lastGsn d
  generalize needStripe g t (((t.partOf g).map (·.idx)).getD 0) (d.pipes.at g).lastGsn d = y at needs h
  obtain ⟨x, _ | sb⟩ := y
  · cases h
  · cases h
    exact needs.trans (.trans (.of_eq rfl) (sealPipe_journals g _))

theorem endTakeOn_journals {t : Take} (h : endTakeOn g t d = some e) : Journals d e := by
  unfold endTakeOn at h
  dsimp only at h
  split at h
  · cases h; exact (endFrame_k rfl (.refl _ d)).journals
  split at h
  · cases h; exact (flushLost_k rfl (.refl _ d)).journals
  · obtain ⟨x, sealed_, rfl⟩ := Option.map_eq_some_iff.mp h
    refine (sealTail_journals sealed_).trans (.trans ?_ (advanceTake_journals _ _ _))
    exact (settleC_k rfl (onTake_k rfl (onPipe_k rfl (.refl _ x)))).journals

theorem consumeOne_journals (h : consumeOne g d = some e) : Journals d e := by
  unfold consumeOne at h
  dsimp only at h
  split at h
  · cases h
  split at h
  · cases h
  · cases h; exact (consumeNone_k rfl (.refl _ d)).journals
  · split at h
    · exact endTakeOn_journals h
    · cases h
  · split at h
    · exact endTakeOn_journals h
    split at h
    · cases h; exact (consumeIn_k rfl (.refl _ d)).journals
    split at h
    · cases h; exact (consumeIn_k rfl (beginTake_k rfl (.refl _ d))).journals
    · cases h; exact (consumeNone_k rfl (.refl _ d)).journals

theorem consumeN_journals (n : Nat) (d : Dev) : Journals d (consumeN g n d) := by
  induction n generalizing d with
  | zero => exact .refl d
  | succ n ih =>
    unfold consumeN
    split
    · next e h => exact (consumeOne_journals h).trans (ih e)
    · exact .refl d

theorem consume_journals (g : Fin 4) (d : Dev) : Journals d (consume g d) :=
  (consumeN_journals _ d).trans (refreshLimit_k rfl (.refl _ _)).journals

/-! ## Encoding a tile (R100) -/

theorem putReference_journals (g : Fin 4) (t : Take) (part : Nat) (r : RawTile) (way : Nat) (h : HotEnt) (d : Dev) :
    Journals d (putReference g t part r way h d) := by
  unfold putReference
  have needs := needStripe_journals g t part r.lastGsn d
  generalize needStripe g t part r.lastGsn d = y at needs ⊢
  obtain ⟨x, _ | sb⟩ := y
  · exact .refl d
  · exact needs.trans (.of_eq rfl)

theorem putTile_journals {t : Take} {part : Nat} {r : RawTile} {m : Made} {again : Bool} (h : putTile g t part r m again d = some e) :
    Journals d e := by
  unfold putTile at h
  have needs := needStripe_journals g t part r.lastGsn d
  generalize needStripe g t part r.lastGsn d = y at needs h
  obtain ⟨x, _ | sb⟩ := y
  · cases h
  · dsimp only at h
    split at h
    · cases h
    split at h
    · cases h
      exact needs.trans (.of_eq rfl)
    · cases h

theorem makeTile_journals (g : Fin 4) (t : Take) (seq : W64) (format : W16) (flags : Nat) (geo : Option TileGeo) (raw : List Byte) (d : Dev) :
    Journals d (makeTile g t seq format flags geo raw d).2 := (makeTile_k rfl (.refl _ d)).journals

theorem placeTile_journals (g : Fin 4) (t : Take) (part : Nat) (r : RawTile) (d : Dev) : Journals d (placeTile g t part r d) := by
  unfold placeTile
  have makes := makeTile_journals g t (frameSeq g.val r.index) ((r.frame.map (·.format)).getD 0) (tileFlags r) (tileGeo r) r.bytes d
  generalize makeTile g t (frameSeq g.val r.index) ((r.frame.map (·.format)).getD 0) (tileFlags r) (tileGeo r) r.bytes d = m at makes ⊢
  dsimp only
  split
  · next h => exact makes.trans (putTile_journals h)
  split
  · exact .refl d
  · cases h : putTile g t part r m.1 true (sealPipe g m.2) with
    | none => exact sealPipe_journals g d
    | some e => exact makes.trans ((sealPipe_journals g m.2).trans (putTile_journals h))

theorem encodeTile_journals (g : Fin 4) (d : Dev) : Journals d (encodeTile g d) := by
  unfold encodeTile
  split
  · exact consume_journals g d
  refine .ite (consume_journals g d) ?_
  split
  · exact .refl d
  refine .ite (.refl d) ((consume_journals g _).after ?_)
  split
  · exact putReference_journals _ _ _ _ _ _ d
  · exact placeTile_journals _ _ _ _ d

/-! ## The cut of a handover (R305) -/

theorem sealCut_journals (h : sealCut g d = some e) : Journals d e := by
  unfold sealCut at h
  split at h
  · cases h; exact .refl d
  dsimp only at h
  split at h
  · cases h; exact .refl d
  · next t _ _ =>
    have needs := needStripe_journals g t (((t.partOf g).map (·.idx)).getD 0) (d.pipes.at g).lastGsn d
    generalize needStripe g t (((t.partOf g).map (·.idx)).getD 0) (d.pipes.at g).lastGsn d = y at needs h
    obtain ⟨x, _ | sb⟩ := y
    · cases h
    · cases h
      exact needs.trans (.trans (.of_eq rfl) (sealPipe_journals g _))

theorem sealCuts_journals {l : List (Fin 4)} (h : sealCuts l d = some e) : Journals d e := by
  induction l generalizing d with
  | nil => cases h; exact .refl _
  | cons g t ih =>
    obtain ⟨x, cut, rest⟩ := Option.bind_eq_some_iff.mp h
    exact (sealCut_journals cut).trans (ih rest)

theorem tryCut_journals (d : Dev) : Journals d (tryCut d) := by
  unfold tryCut
  split
  · exact .refl d
  refine .ite ?_ (.refl d)
  split
  · next h => exact (sealCuts_journals h).trans (giveGroups_k rfl (.refl _ _)).journals
  · exact .refl d

end Sys2Proof.Machine
end

section
/-! PROOF. Which bytes of HBM a command may store to (R117, R365, R367, R371). -/

namespace Sys2Proof.Machine
open Sys2Proof

variable {W V : Nat → Prop} {s t : State} {a : Nat}

/-! ## What accesses to the cache leave alone -/

/-- Where patrol stands and the buckets as they were last written: no access to the cache changes them. -/
def Mca.still (m : Mca) : Nat × Tab (List (Nat × HotEnt)) := (m.patrolAt, m.hot)

theorem drainOne_still (s : State) : (drainOne s).dev.mca.still = s.dev.mca.still := by
  unfold drainOne
  split <;> rfl

theorem drainLines_still (p : Nat → Bool) (s : State) : (drainLines p s).dev.mca.still = s.dev.mca.still := by
  have drains (n : Nat) (x : State) : (drainN n x).dev.mca.still = x.dev.mca.still := by
    induction n generalizing x with
    | zero => rfl
    | succ n ih => exact (ih (drainOne x)).trans (drainOne_still x)
  exact drains _ s

theorem install_still (c line : Nat) (dirty : Bool) (data : List Byte) (s : State) :
    (install c line dirty data s).dev.mca.still = s.dev.mca.still := by
  unfold install
  dsimp only
  repeat' split
  all_goals rfl

theorem cacheRead_still (c line : Nat) (s : State) : (cacheRead c line s).2.dev.mca.still = s.dev.mca.still := by
  unfold cacheRead
  split
  · repeat' split
    all_goals rfl
  · dsimp only
    split
    · split
      · exact drainLines_still _ s
      · exact (install_still _ _ _ _ _).trans (drainLines_still _ s)
    · exact drainLines_still _ s

theorem cacheWrite_still (c b : Nat) (data : List Byte) (s : State) : (cacheWrite c b data s).dev.mca.still = s.dev.mca.still := by
  have drains (p : Nat → Bool) : (drainLines p (s.onMca (fun m => { m with misses := m.misses + 1 }))).dev.mca.still = s.dev.mca.still :=
    drainLines_still p _
  unfold cacheWrite
  dsimp only
  split
  · repeat' split
    all_goals rfl
  · split
    · exact (install_still _ _ _ _ _).trans (drains _)
    split
    · exact drains _
    · exact drainLines_still _ s

theorem writeLines_still (c b n : Nat) (data : List Byte) (s : State) : (writeLines c b n data s).dev.mca.still = s.dev.mca.still := by
  induction n generalizing b data s with
  | zero => rfl
  | succ n ih =>
    unfold writeLines
    split
    · rfl
    · exact (ih _ _ _).trans (cacheWrite_still _ _ _ s)

theorem syncHot_patrolAt (s : State) : (syncHot s).dev.mca.patrolAt = s.dev.mca.patrolAt := by
  have buckets (l : List Nat) (x : State) : (l.foldl (fun x b => syncBucket b x) x).dev.mca.still = x.dev.mca.still := by
    induction l generalizing x with
    | nil => rfl
    | cons b t ih => exact (ih _).trans (writeLines_still _ _ _ _ x)
  exact congrArg (·.1) (buckets _ s)

theorem cacheRead_hot (c line : Nat) (s : State) : (cacheRead c line s).2.dev.mca.hot = s.dev.mca.hot :=
  congrArg (·.2) (cacheRead_still c line s)

/-! ## What is owed -/

theorem Covers.mono (h : Covers W s) (le : ∀ a, W a → V a) : Covers V s :=
  ⟨fun k l q d a x y => le a (h.1 k l q d a x y), fun e m x y => le _ (h.2 e m x y)⟩

/-- What is owed depends on the lines of the cache and on its write buffer. -/
theorem Covers.of_mca (h : Covers W s) (lines : t.dev.mca.lines = s.dev.mca.lines)
    (wbuf : ∀ a, buffers t.dev.mca.wbuf a → W a) : Covers W t :=
  ⟨fun k l q => h.1 k l (lines ▸ q), fun e m x y => wbuf _ ⟨e, m, x, y, rfl⟩⟩

theorem Covers.buffers (h : Covers W s) (b : buffers s.dev.mca.wbuf a) : W a := by
  obtain ⟨e, m, x, y, rfl⟩ := b
  exact h.2 e m x y

/-- Nothing is owed outside what covers the cache. -/
theorem Covers.owes (h : Covers W s) {p : Nat → Bool} (o : s.owes p a) : W a := by
  rcases o with ⟨k, -, l, q, d, x, y⟩ | ⟨e, m, x, y, rfl⟩
  · exact h.1 k l q d a x y
  · exact h.2 e (List.mem_of_mem_take m) x y

theorem State.owes.all {p : Nat → Bool} (h : s.owes p a) : s.owes (fun _ => true) a := (covers_owes s).owes h

/-! ## The buckets of the hot index (R117, R368) -/

theorem hotBytes_length (h : Option HotEnt) : (hotBytes h).length = 48 := by
  cases h with
  | none => exact zeros_length 48
  | some e => simp [hotBytes, beBytes, leBytes_length, wordBytes_length]

theorem bucketBytes_length (l : List (Nat × HotEnt)) : (bucketBytes l).length = 192 := by
  simp [bucketBytes, hotBytes_length, List.range_succ]

/-- A write of a bucket's 192 bytes stays within its two lines. -/
theorem writeBucket_within {b : Nat} {data : List Byte} (whole : data.length = 192) (h : Covers W s) (w : ∀ a, inBucket b a → W a) :
    Within W s (writeLines 2 (192 * b) 3 data s) :=
  writeLines_within _ _ _ _ h fun x low high => w x ⟨low, by rw [whole] at high; exact high⟩

theorem syncHot_within (h : Covers W s) (w : ∀ b ∈ s.dev.lateBuckets, ∀ a, inBucket b a → W a) : Within W s (syncHot s) := by
  have buckets (l : List Nat) (x : State) (hx : Covers W x) (wl : ∀ b ∈ l, ∀ a, inBucket b a → W a) :
      Within W x (l.foldl (fun x b => syncBucket b x) x) := by
    induction l generalizing x with
    | nil => exact .refl hx
    | cons b t ih =>
      have first : Within W x (syncBucket b x) := writeBucket_within (bucketBytes_length _) hx (wl b List.mem_cons_self)
      exact first.trans (ih _ first.1 fun c m => wl c (List.mem_cons_of_mem _ m))
  have all := buckets s.dev.lateBuckets s h w
  exact all.trans (onMca_within _ all.1 rfl all.1.1)

theorem mem_lateBuckets {d : Dev} {b : Nat} (h : b ∈ d.lateBuckets) : tgetD d.cat.hot [] b ≠ tgetD d.mca.hot [] b := by
  simpa using (List.mem_filter.mp h).2

theorem syncHot_cat (s : State) : (syncHot s).dev.cat = s.dev.cat := syncHot_k (L := [.out, .free, .mca]) rfl (.refl _ s.dev) .cat (by decide)

/-- The bytes that a live head may store before a memory command acts. -/
def State.late (s : State) (a : Nat) : Prop := s.owes (fun _ => true) a ∨ ∃ b ∈ s.dev.lateBuckets, inBucket b a

theorem syncHot_late (s : State) : Within s.late s (syncHot s) :=
  syncHot_within ((covers_owes s).mono fun _ => .inl) fun b m _ i => .inr ⟨b, m, i⟩

/-- Bringing the hot index to memory changes no byte but those it may store; and of what is owed after, the byte was owed before. -/
theorem syncHot_of_not_syncs (n : ¬ s.syncs a) : memRead (syncHot s).hbm a = memRead s.hbm a ∧
    (∀ p, (syncHot s).owes p a → s.owes p a) ∧ (∀ k, buffers ((syncHot s).dev.mca.wbuf.take k) a → buffers (s.dev.mca.wbuf.take k) a) := by
  by_cases q : s.dev.lateBuckets = []
  · have same : syncHot s = s.onMca (fun m => { m with hot := s.dev.cat.hot }) := by
      unfold syncHot
      rw [q]
      rfl
    rw [same]
    exact ⟨rfl, fun _ => id, fun _ => id⟩
  · have out : ¬ s.late a := by
      rintro (o | i)
      · exact n ⟨q, .inl o⟩
      · exact n ⟨q, .inr i⟩
    obtain ⟨covers, same⟩ := syncHot_late s
    refine ⟨same a out, fun p o => absurd (covers.owes o) out, fun k ⟨e, m, held⟩ => absurd (covers.buffers ⟨e, ?_, held⟩) out⟩
    exact List.mem_of_mem_take m

theorem syncHot_bytes (n : ¬ s.syncs a) : memRead (syncHot s).hbm a = memRead s.hbm a := (syncHot_of_not_syncs n).1

theorem owes_of_syncHot (n : ¬ s.syncs a) {p : Nat → Bool} (o : (syncHot s).owes p a) : s.owes p a := by
  obtain ⟨-, owed, -⟩ := syncHot_of_not_syncs n
  exact owed p o

theorem buffers_of_syncHot (n : ¬ s.syncs a) {k : Nat} (b : buffers ((syncHot s).dev.mca.wbuf.take k) a) :
    buffers (s.dev.mca.wbuf.take k) a := by
  obtain ⟨-, -, held⟩ := syncHot_of_not_syncs n
  exact held k b

/-- A memory command of a live head: the hot index first, then what the command does. -/
theorem liveState_bytes {f : State → State} (n : ¬ s.syncs a)
    (h : memRead (f (syncHot s)).hbm a = memRead (syncHot s).hbm a) : memRead (liveState f s).hbm a = memRead s.hbm a := by
  unfold liveState
  split
  · exact h.trans (syncHot_bytes n)
  · rfl

/-! ## Maintenance and the write buffer (R367, R371) -/

theorem syncHot_inEntry (s : State) (k : Nat) : (syncHot s).dev.inEntry k = s.dev.inEntry k := by
  have regs : (syncHot s).dev.regs = s.dev.regs := syncHot_k (L := [.out, .free, .mca]) rfl (.refl _ s.dev) .regs (by decide)
  unfold Dev.inEntry
  rw [regs]

/-- A clean of the lines that `p` names, after the hot index. -/
theorem cleanLines_syncHot_bytes {p : Nat → Bool} (n : ¬ s.owes p a) (q : ¬ s.syncs a) :
    memRead (cleanLines p (syncHot s)).hbm a = memRead (syncHot s).hbm a :=
  cleanLines_bytes p _ a fun o => n (owes_of_syncHot q o)

theorem execClean_bytes {x : Nat} (h : execClean x s = .next t) (n : ¬ s.owes (· == lineOf x) a) (q : ¬ s.syncs a) :
    memRead t.hbm a = memRead s.hbm a := by
  unfold execClean at h
  split at h
  · cases h
    refine liveState_bytes q ?_
    rw [maintDone_hbm]
    exact cleanLines_syncHot_bytes n q
  · cases h

theorem execInval_bytes {x : Nat} (h : execInval x s = .next t) (n : ¬ s.owes (· == lineOf x) a) (q : ¬ s.syncs a) :
    memRead t.hbm a = memRead s.hbm a := by
  unfold execInval at h
  split at h
  · cases h
    refine liveState_bytes q ?_
    rw [maintDone_hbm]
    split
    · exact cleanLines_syncHot_bytes n q
    · rfl
  · cases h

theorem dropLines_hbm (p : Nat → Bool) (s : State) : (dropLines p s).hbm = s.hbm := rfl

theorem execCleanInval_bytes {x : Nat} (h : execCleanInval x s = .next t) (n : ¬ s.owes (· == lineOf x) a) (q : ¬ s.syncs a) :
    memRead t.hbm a = memRead s.hbm a := by
  unfold execCleanInval at h
  split at h
  · cases h
    refine liveState_bytes q ?_
    rw [maintDone_hbm, dropLines_hbm]
    exact cleanLines_syncHot_bytes n q
  · cases h

theorem execCleanRegion_bytes {k : Fin 64} (h : execCleanRegion k s = .next t) (n : ¬ s.owes (s.dev.inEntry k.val) a) (q : ¬ s.syncs a) :
    memRead t.hbm a = memRead s.hbm a := by
  cases h
  refine liveState_bytes q ?_
  rw [maintDone_hbm, syncHot_inEntry]
  exact cleanLines_syncHot_bytes n q

theorem execCleanInvalRegion_bytes {k : Fin 64} (h : execCleanInvalRegion k s = .next t) (n : ¬ s.owes (s.dev.inEntry k.val) a)
    (q : ¬ s.syncs a) : memRead t.hbm a = memRead s.hbm a := by
  cases h
  refine liveState_bytes q ?_
  dsimp only
  rw [maintDone_hbm, dropLines_hbm, syncHot_inEntry]
  exact cleanLines_syncHot_bytes n q

theorem drainOne_bytes (n : ¬ buffers (s.dev.mca.wbuf.take 1) a) : memRead (drainOne s).hbm a = memRead s.hbm a :=
  drainN_bytes (W := (buffers (s.dev.mca.wbuf.take 1))) 1 s (fun e m x y => ⟨e, m, x, y, rfl⟩) a n

/-! ## Registers -/

theorem writeRegion_bytes (k v : Nat) (n : ¬ s.owes (fun _ => true) a) : memRead (writeRegion k v s).hbm a = memRead s.hbm a := by
  unfold writeRegion
  split
  · rfl
  · exact cleanLines_bytes _ s a fun o => n o.all

theorem putReg_bytes (r : SetReg) (b k : Nat) (x : W64) (v : Nat) (n : ¬ s.owes (fun _ => true) a) :
    memRead (putReg r b k x v s).hbm a = memRead s.hbm a := by
  unfold putReg
  split
  · exact writeRegion_bytes _ _ n
  · rfl
  · rfl

theorem barWrite_bytes (b k : Nat) (x : W64) (n : ¬ s.owes (fun _ => true) a) : memRead (barWrite b k x s).hbm a = memRead s.hbm a := by
  have put (r : SetReg) (v : Nat) (f : Regs → Regs) :
      memRead (putReg r b k x v { s with dev := onRegs f s.dev }).hbm a = memRead s.hbm a := putReg_bytes r b k x v n
  unfold barWrite
  split
  case isFalse => rfl
  split
  · rfl
  dsimp only
  split
  · rfl
  split
  · split
    · rfl
    split
    · exact put _ _ _
    · rfl
  · split
    · exact putReg_bytes _ _ _ _ _ n
    · rfl

/-! ## Uncorrectable bursts and patrol (R355 to R357) -/

/-- The bytes that a burst of a holder may make the head store: for the hot index, its bucket, and what makes way for it. -/
def rewrites (h : HbmHolder) (s : State) (a : Nat) : Prop :=
  match h with
  | .hotIndex b => s.late a ∨ inBucket b a
  | _ => False

theorem hbmPoison_bytes {b : Nat} {h : HbmHolder} (covers : Covers s.late t) (n : ¬ rewrites h s a) :
    memRead (hbmPoison b h t).hbm a = memRead t.hbm a := by
  cases h
  case hotIndex c =>
    have rewritten : Covers (fun x => s.late x ∨ inBucket c x) ({ t with dev := poisoned b (.hotIndex c) t.dev } : State) :=
      covers.mono fun _ => .inl
    exact (writeBucket_within (zeros_length 192) rewritten fun _ => .inr).2 a n
  all_goals rfl

theorem patrolOn_covers (h : Covers W t) : Covers W ({ t with dev := patrolOn t.dev } : State) := by
  unfold patrolOn onMca
  dsimp only
  split
  · exact h
  · exact h

theorem corrected_length {code data : List Byte} {onDie : Bool} (h : burstRead code onDie = .corrected data) : data.length ≤ 32 := by
  unfold burstRead at h
  dsimp only at h
  repeat' split at h
  all_goals cases h
  exact List.length_take_le _ _

theorem patrolRead_bytes {err : List Byte} {onDie : Bool} {h : HbmHolder} (covers : Covers s.late t) (n : ¬ rewrites h s a)
    (m : ¬ (t.dev.mca.patrolAt ≤ a ∧ a < t.dev.mca.patrolAt + 32)) :
    memRead (patrolRead err onDie h t).hbm a = memRead t.hbm a := by
  unfold patrolRead
  dsimp only
  split
  · rfl
  split
  · exact hbmPoison_bytes (patrolOn_covers covers) n
  · rfl
  · next data read =>
    split
    · rfl
    · refine memRead_memStore _ _ _ _ ?_
      have short := corrected_length read
      omega

/-! ## TILE_ENCODE (R117, R118, R188) -/

theorem execTileEncode_bytes {g : Fin 4} (h : execTileEncode g s = .next t) (n : ¬ s.late a)
    (m : ∀ b, tgetD t.dev.cat.hot [] b ≠ tgetD s.dev.cat.hot [] b → ¬ inBucket b a) (j : ¬ inJournal a) :
    memRead t.hbm a = memRead s.hbm a := by
  unfold execTileEncode at h
  split at h
  case isFalse => cases h; rfl
  split at h
  · cases h; rfl
  next b _ =>
    dsimp only at h
    have synced := syncHot_late s
    have read1 := synced.trans (cacheRead_within 2 (lineOf (192 * b)) synced.1)
    have hot1 := cacheRead_hot 2 (lineOf (192 * b)) (syncHot s)
    have read2 := read1.trans (cacheRead_within 2 (lineOf (192 * b + 191)) read1.1)
    have hot2 := (cacheRead_hot 2 (lineOf (192 * b + 191)) (cacheRead 2 (lineOf (192 * b)) (syncHot s)).2).trans hot1
    generalize (cacheRead 2 (lineOf (192 * b + 191)) (cacheRead 2 (lineOf (192 * b)) (syncHot s)).2).2 = x at h read2 hot2
    have encodes := (encodeTile_journals g x.dev).trans (tryCut_journals _)
    generalize tryCut (encodeTile g x.dev) = d at h encodes
    cases h
    have written : Covers (fun c => s.late c ∨ inJournal c ∨ ∃ b, tgetD d.cat.hot [] b ≠ tgetD s.dev.cat.hot [] b ∧ inBucket b c)
        ({ x with dev := d } : State) :=
      (read2.1.mono fun _ => .inl).of_mca encodes.lines fun c held =>
        (encodes.wbuf held).elim (fun o => .inl (read2.1.buffers o)) fun i => .inr (.inl i)
    have late := syncHot_within written fun b l c i => .inr (.inr ⟨b, ?_, i⟩)
    · rw [syncHot_cat] at m
      refine (late.2 a ?_).trans (read2.2 a n)
      rintro (o | o | ⟨b, changed, i⟩)
      · exact n o
      · exact j o
      · exact m b changed i
    · have changed := mem_lateBuckets l
      rw [show ({ x with dev := d } : State).dev.mca.hot = s.dev.cat.hot from encodes.hot.trans hot2] at changed
      exact changed

/-! ## Checkpoints (R295, R371) -/

/-- The bytes that a command may store that leaves the head `d` and stages a checkpoint. -/
def State.stages (s : State) (d : Dev) (a : Nat) : Prop :=
  s.owes (fun _ => true) a ∨ ∃ b, tgetD d.cat.hot [] b ≠ tgetD s.dev.mca.hot [] b ∧ inBucket b a

theorem stagedState_bytes {f : Dev → Dev} (same : (f s.dev).mca = s.dev.mca) (n : ¬ s.stages (stagedState f s).dev a) :
    memRead (stagedState f s).hbm a = memRead s.hbm a := by
  have stages : Keeps [.out, .free, .mca] (f s.dev) (stagedState f s).dev := stagedState_k (.refl _ _) rfl
  unfold State.stages at n
  rw [stages .cat (by decide)] at n
  unfold stagedState
  generalize f s.dev = d at same n
  dsimp only
  split
  · rfl
  · have covers : Covers (s.stages d) ({ s with dev := d } : State) :=
      ((covers_owes s).mono fun _ => .inl).of_mca (congrArg Mca.lines same) fun c held => .inl ((covers_owes s).buffers (same ▸ held))
    have synced := syncHot_within covers fun b late c i => .inr ⟨b, same ▸ mem_lateBuckets late, i⟩
    rw [maintDone_hbm]
    exact (cleanLines_bytes _ _ a fun o => n (synced.1.owes o)).trans (synced.2 a n)

/-! ## The commands -/

theorem parityError_hbm (set way : Nat) (e : ParityErr) (s : State) : (parityError set way e s).hbm = s.hbm := by
  unfold parityError
  split
  · rfl
  · split <;> rfl

theorem hbmUncorrectable_bytes {b : Nat} {h : HbmHolder} (q : ¬ s.syncs a) (n : ¬ rewrites h s a) :
    memRead (liveState (hbmPoison b h) s).hbm a = memRead s.hbm a :=
  liveState_bytes q (hbmPoison_bytes (syncHot_late s).1 n)

theorem patrolRead_live_bytes {err : List Byte} {onDie : Bool} {h : HbmHolder} (q : ¬ s.syncs a) (n : ¬ rewrites h s a)
    (m : ¬ (s.dev.mca.patrolAt ≤ a ∧ a < s.dev.mca.patrolAt + 32)) :
    memRead (liveState (patrolRead err onDie h) s).hbm a = memRead s.hbm a :=
  liveState_bytes q (patrolRead_bytes (syncHot_late s).1 n (by rw [syncHot_patrolAt]; exact m))

/-- A byte that neither the cache, the buckets that are late nor bucket `b` may store to. -/
theorem not_rewrites_hotIndex {b : Nat} (o : ¬ s.owes (fun _ => true) a) (q : ¬ s.syncs a) (i : ¬ inBucket b a) :
    ¬ rewrites (.hotIndex b) s a := by
  rintro ((h | ⟨c, late, h⟩) | h)
  · exact o h
  · exact q ⟨List.ne_nil_of_mem late, .inr ⟨c, late, h⟩⟩
  · exact i h

/-- Settles O57: a command that does not store to HBM leaves it as it is; each that does stores what the cache owes, the buckets that are late,
and what its own rule names. -/
theorem hbmByteFrame : Obligations.HbmByteFrame := by
  unfold Obligations.HbmByteFrame
  intro c s t a h n
  by_cases q : Blk.storesHbm c = false
  · obtain ⟨d, e⟩ := exec_next_dev q s
    cases e.symm.trans h
    rfl
  · cases c
    case registerWrite => cases h; exact barWrite_bytes _ _ _ n
    case regionTableWrite =>
      cases h
      split
      · exact barWrite_bytes _ _ _ n
      · rfl
    case cacheDrainDone =>
      obtain ⟨o, y⟩ := not_or.mp n
      cases h
      refine liveState_bytes y ?_
      split
      · exact endDrain_bytes _ a fun z => o (owes_of_syncHot y z)
      · rfl
    case porNAssert => exact absurd trivial n
    case hbmUncorrectable b holder =>
      cases h
      cases holder
      case hotIndex =>
        obtain ⟨o, n⟩ := not_or.mp n
        obtain ⟨y, i⟩ := not_or.mp n
        exact hbmUncorrectable_bytes y (not_rewrites_hotIndex o y i)
      all_goals exact hbmUncorrectable_bytes n id
    case patrolRead holder =>
      cases h
      cases holder
      case hotIndex =>
        obtain ⟨o, n⟩ := not_or.mp n
        obtain ⟨y, n⟩ := not_or.mp n
        obtain ⟨i, m⟩ := not_or.mp n
        exact patrolRead_live_bytes y (not_rewrites_hotIndex o y i) m
      all_goals
        obtain ⟨y, m⟩ := not_or.mp n
        exact patrolRead_live_bytes y id m
    case writeBufferDrain =>
      obtain ⟨o, y⟩ := not_or.mp n
      cases h
      exact liveState_bytes y (drainOne_bytes fun z => o (buffers_of_syncHot y z))
    case clean => obtain ⟨o, y⟩ := not_or.mp n; exact execClean_bytes h o y
    case inval => obtain ⟨o, y⟩ := not_or.mp n; exact execInval_bytes h o y
    case cleanInval => obtain ⟨o, y⟩ := not_or.mp n; exact execCleanInval_bytes h o y
    case cleanRegion => obtain ⟨o, y⟩ := not_or.mp n; exact execCleanRegion_bytes h o y
    case cleanInvalRegion => obtain ⟨o, y⟩ := not_or.mp n; exact execCleanInvalRegion_bytes h o y
    case cacheParityError => cases h; exact liveState_bytes n (congrArg (memRead · a) (parityError_hbm _ _ _ _))
    case dmaBurst =>
      cases h
      split
      · exact syncHot_bytes n
      · rfl
    case tileEncode =>
      have out : ¬ (_ ∨ _ ∨ _ ∨ _) := fun o => n ⟨t, h, o⟩
      obtain ⟨o, out⟩ := not_or.mp out
      obtain ⟨l, out⟩ := not_or.mp out
      obtain ⟨m, j⟩ := not_or.mp out
      exact execTileEncode_bytes h (not_or.mpr ⟨o, l⟩) (fun b d i => m ⟨b, d, i⟩) j
    case keyConfirm =>
      have out : ¬ s.stages t.dev a := fun o => n ⟨t, h, o⟩
      cases h
      refine stagedState_bytes ?_ out
      exact (when_k (exemptIn_k rfl (fun x k => sessionUp_k rfl k) (.refl Blk.butMca _)) (.refl _ _)) .mca (by decide)
    case checkpointTimer =>
      have out : ¬ s.stages t.dev a := fun o => n ⟨t, h, o⟩
      cases h
      refine stagedState_bytes ?_ out
      exact (when_k (sendCkpt_k rfl (.refl Blk.butMca _)) (.refl _ _)) .mca (by decide)
    all_goals exact absurd rfl q

end Sys2Proof.Machine
end

section
/-! PROOF. A tile is encoded (R100, R115, R118) and references seal a stripe (R121, R183). -/

namespace Sys2Proof.Machine
open Sys2Proof

variable {g : Fin 4} {d e : Dev} {s : State} {r : RawTile} {rest : List RawTile} {t : Take} {sb : StripeBuf} {l : LayoutRec}

/-! ## A pipe that has a tile to encode -/

/-- The next tile of pipe `g` is `r`, of take `t`, and it is known whether it is its frame's last (R102). -/
structure Turn (g : Fin 4) (r : RawTile) (rest : List RawTile) (t : Take) (d : Dev) : Prop where
  front : (d.pipes.at g).ready = r :: rest
  take : d.take r.volume r.takeId = some t
  on : (d.pipes.at g).encoding = true

/-- The ring of group `g` is empty, and no take has an end on the group: its pipe consumes nothing (R220, R223). -/
structure Dry (g : Fin 4) (d : Dev) : Prop where
  ring : (d.lg.at g).ring = []
  ends : ∀ x ∈ d.cat.takes, tget x.endAt g.val = none

theorem consume_of_dry (h : Dry g d) : consume g d = refreshLimit g d := by
  have still : consumeOne g d = none := by
    have slot : ringAt (d.lg.at g).ring (d.lg.at g).ringPos = none := by rw [h.ring]; rfl
    cases first : (d.bound g).head? with
    | none => simp [consumeOne, slot, first]
    | some t =>
      have bound : t ∈ d.cat.takes := (List.mem_filter.mp (List.mem_of_mem_head? first)).1
      simp [consumeOne, slot, first, atEnd, h.ends t bound]
  have run (n : Nat) : consumeN g n d = d := by
    cases n with
    | zero => rfl
    | succ n =>
      unfold consumeN
      rw [still]
  unfold consume
  rw [run]

theorem needStripe_of_open (part : Nat) (gsn : W32) (h : (d.pipes.at g).stripe = some sb) : needStripe g t part gsn d = (d, some sb) := by
  unfold needStripe
  rw [h]

/-- The part of a take that pipe `g` writes. -/
def Take.partNo (t : Take) (g : Fin 4) : Nat := ((t.partOf g).map (·.idx)).getD 0

/-- The stored tile that the encoder makes of a raw tile (R100). -/
def Dev.made (d : Dev) (g : Fin 4) (t : Take) (r : RawTile) : Made × Dev :=
  makeTile g t (frameSeq g.val r.index) ((r.frame.map (·.format)).getD 0) (tileFlags r) (tileGeo r) r.bytes d

theorem made_keeps (d : Dev) (g : Fin 4) (t : Take) (r : RawTile) : Keeps [.free, .ciph] d (d.made g t r).2 := makeTile_k rfl (.refl _ d)

theorem metaRoom_of_regs (h : e.regs = d.regs) (part : Nat) (gsn : W32) : e.metaRoom g t part gsn = d.metaRoom g t part gsn := by
  unfold Dev.metaRoom Dev.metaLength Dev.pipeBit Dev.kInit
  rw [h]

/-! ## What encoding a tile does -/

theorem encodeTile_of_no_keys (h : Turn g r rest t d) (no : d.mayEncode t = false) : encodeTile g d = d := by
  simp [encodeTile, h.front, h.on, h.take, no]

theorem encodeTile_of_miss (h : Turn g r rest t d) (keys : d.mayEncode t = true) (miss : d.hotHit g t r = none) :
    encodeTile g d = consume g (placeTile g t (t.partNo g) r d) := by
  simp [encodeTile, Take.partNo, h.front, h.on, h.take, keys, miss]

theorem encodeTile_of_hit {w : Nat} {x : HotEnt} (h : Turn g r rest t d) (keys : d.mayEncode t = true) (hit : d.hotHit g t r = some (w, x)) :
    encodeTile g d = consume g (putReference g t (t.partNo g) r w x d) := by
  simp [encodeTile, Take.partNo, h.front, h.on, h.take, keys, hit]

/-- The stripe with a stored tile in it. -/
def StripeBuf.stored (sb : StripeBuf) (l : LayoutRec) (g : Fin 4) (t : Take) (r : RawTile) (m : Made) : StripeBuf :=
  chargeTile g (t.partNo g) r (sb.place l m.stored (entryFlags false r) (frameSeq g.val r.index) m.fp)

theorem placeTile_of_fit (open_ : (d.pipes.at g).stripe = some sb) (placed : d.layout sb.layout = some l)
    (fits : sb.fits (d.made g t r).1.stored.length (d.metaRoom g t (t.partNo g) r.lastGsn) = true) :
    placeTile g t (t.partNo g) r d = tileDone g r (Pipe.countTile (d.made g t r).1 r.bytes.length)
      (setStripe g (some (sb.stored l g t r (d.made g t r).1)) (d.made g t r).2) := by
  have keeps := made_keeps d g t r
  have puts : putTile g t (t.partNo g) r (d.made g t r).1 false (d.made g t r).2 = some (tileDone g r
      (Pipe.countTile (d.made g t r).1 r.bytes.length) (setStripe g (some (sb.stored l g t r (d.made g t r).1)) (d.made g t r).2)) := by
    have same : (d.made g t r).2.layout sb.layout = some l := by
      rw [← placed]
      exact congrArg (fun v : Vault => v.layouts.find? (·.layoutId == sb.layout)) (keeps .vault (by decide))
    unfold putTile
    rw [needStripe_of_open _ _ ((congrArg (fun p => (p.at g).stripe) (keeps .pipes (by decide))).trans open_)]
    dsimp only
    rw [same]
    dsimp only
    rw [metaRoom_of_regs (keeps .regs (by decide)), fits]
    rfl
  unfold Dev.made at puts ⊢
  unfold placeTile
  dsimp only
  rw [puts]

/-- The stripe with a reference in it. -/
def StripeBuf.referring (sb : StripeBuf) (g : Fin 4) (t : Take) (r : RawTile) (x : HotEnt) : StripeBuf :=
  chargeTile g (t.partNo g) r { sb with
    entries := sb.entries ++ [{ loc := x.loc, flags := entryFlags true r, tileSeq := frameSeq g.val r.index, fp := x.fp,
                                storedLen := x.storedLen }] }

/-- A reference that a pipe has encoded counts (R118, R121, R128). -/
def Pipe.countReference (raw : Nat) (p : Pipe) : Pipe :=
  { p with refPend := p.refPend + 1, dedupHit := p.dedupHit + 1, tilesEnc := p.tilesEnc + 1, bytesRaw := p.bytesRaw + BitVec.ofNat 64 raw }

theorem putReference_of_open {w : Nat} {x : HotEnt} (open_ : (d.pipes.at g).stripe = some sb) :
    putReference g t (t.partNo g) r w x d = tileDone g r (Pipe.countReference r.bytes.length)
      (onCat (fun c => c.pinHit (hotBucket x.fp) w) (setStripe g (some (sb.referring g t r x)) d)) := by
  unfold putReference
  rw [needStripe_of_open _ _ open_]
  rfl

/-- What a tile that leaves the encoder changes: its pipe, which has the stripe `sb` open and counts by `f`, and the slots carried. -/
structure Encodes (g : Fin 4) (rest : List RawTile) (slots : Nat) (sb : StripeBuf) (f : Pipe → Pipe) (d e : Dev) : Prop where
  pipe : e.pipes.at g = f { d.pipes.at g with stripe := some sb, ready := rest }
  carried : (e.lg.at g).carried = (d.lg.at g).carried + slots
  tango : e.tango = d.tango

/-- A tile leaves the encoder of a pipe that then consumes nothing. -/
theorem consume_tileDone {f : Pipe → Pipe} (front : (d.pipes.at g).ready = r :: rest) (dry : Dry g d) (pipes : e.pipes = d.pipes) (lg : e.lg = d.lg)
    (takes : e.cat.takes = d.cat.takes) (tango : e.tango = d.tango) :
    Encodes g rest r.slots sb f d (consume g (tileDone g r f (setStripe g (some sb) e))) := by
  have still : Dry g (tileDone g r f (setStripe g (some sb) e)) := by
    refine ⟨?_, fun x m => dry.ends x (takes ▸ m)⟩
    rw [← dry.ring, ← lg]
    simp [tileDone, setStripe]
  have keeps : Keeps [.sl, .lg] _ (refreshLimit g (tileDone g r f (setStripe g (some sb) e))) := refreshLimit_k rfl (.refl _ _)
  rw [consume_of_dry still]
  constructor
  · rw [keeps .pipes (by decide)]
    simp [tileDone, setStripe, pipes, front]
  · obtain ⟨n, ledger⟩ := refreshLimit_at g (tileDone g r f (setStripe g (some sb) e))
    rw [ledger]
    simp [tileDone, setStripe, lg]
  · exact (keeps .tango (by decide)).trans tango

theorem encodeTile_stores (h : Turn g r rest t d) (dry : Dry g d) (keys : d.mayEncode t = true) (miss : d.hotHit g t r = none)
    (open_ : (d.pipes.at g).stripe = some sb) (placed : d.layout sb.layout = some l)
    (fits : sb.fits (d.made g t r).1.stored.length (d.metaRoom g t (t.partNo g) r.lastGsn) = true) :
    Encodes g rest r.slots (sb.stored l g t r (d.made g t r).1) (Pipe.countTile (d.made g t r).1 r.bytes.length) d (encodeTile g d) := by
  have keeps := made_keeps d g t r
  rw [encodeTile_of_miss h keys miss, placeTile_of_fit open_ placed fits]
  exact consume_tileDone h.front dry (keeps .pipes (by decide)) (keeps .lg (by decide)) (congrArg Cat.takes (keeps .cat (by decide)))
    (keeps .tango (by decide))

theorem encodeTile_refers {w : Nat} {x : HotEnt} (h : Turn g r rest t d) (dry : Dry g d) (keys : d.mayEncode t = true)
    (hit : d.hotHit g t r = some (w, x)) (open_ : (d.pipes.at g).stripe = some sb) :
    Encodes g rest r.slots (sb.referring g t r x) (Pipe.countReference r.bytes.length) d (encodeTile g d) := by
  rw [encodeTile_of_hit h keys hit, putReference_of_open open_]
  exact consume_tileDone (e := onCat (fun c => c.pinHit (hotBucket x.fp) w) d) h.front dry rfl rfl rfl rfl

/-! ## TILE_ENCODE -/

theorem tryCut_of_no_hand (h : d.tango.hand = none) : tryCut d = d := by
  unfold tryCut
  rw [h]

theorem nextLookup_of_turn (h : Turn g r rest t d) :
    d.nextLookup g = if d.looksUp g t r then some (hotBucket (d.takeFp t r.bytes)) else none := by
  simp [Dev.nextLookup, h.front, h.take]

theorem hotHit_of_not_looked_up (h : d.looksUp g t r = false) : d.hotHit g t r = none := by
  unfold Dev.hotHit
  rw [h]
  rfl

theorem looksUp_of_hit {x : Nat × HotEnt} (h : d.hotHit g t r = some x) : d.looksUp g t r = true := by
  by_contra q
  rw [hotHit_of_not_looked_up (Bool.eq_false_iff.mpr q)] at h
  cases h

theorem exec_tileEncode_of_not_looked_up (on : s.dev.working = true) (h : Turn g r rest t s.dev) (q : s.dev.looksUp g t r = false) :
    exec (.tileEncode g) s = .next { s with dev := tryCut (encodeTile g s.dev) } := by
  change execTileEncode g s = _
  unfold execTileEncode
  rw [on, nextLookup_of_turn h, q]
  rfl

/-- With a lookup, the head encodes after its reads through the cache, and what has changed of the hot index goes to memory. -/
theorem exec_tileEncode_of_looked_up (on : s.dev.working = true) (h : Turn g r rest t s.dev) (q : s.dev.looksUp g t r = true) :
    ∃ x : State, Keeps [.out, .free, .mca] s.dev x.dev ∧
      exec (.tileEncode g) s = .next (syncHot { x with dev := tryCut (encodeTile g x.dev) }) := by
  have reads (b : Nat) :
      Keeps [.out, .free, .mca] s.dev (cacheRead 2 (lineOf (192 * b + 191)) (cacheRead 2 (lineOf (192 * b)) (syncHot s)).2).2.dev :=
    cacheRead_k rfl (cacheRead_k rfl (syncHot_k rfl (.refl _ _)))
  refine ⟨_, reads (hotBucket (s.dev.takeFp t r.bytes)), ?_⟩
  change execTileEncode g s = _
  unfold execTileEncode
  rw [on, nextLookup_of_turn h, q]
  rfl

/-- The reads of a lookup leave what the encoder works on as it was. -/
theorem hit_of_keeps {x : Nat × HotEnt} (k : Keeps [.out, .free, .mca] d e) (h : Turn g r rest t d) (dry : Dry g d)
    (keys : d.mayEncode t = true) (hit : d.hotHit g t r = some x) :
    Turn g r rest t e ∧ Dry g e ∧ e.mayEncode t = true ∧ e.hotHit g t r = some x := by
  have pipes : e.pipes = d.pipes := k .pipes (by decide)
  have lg : e.lg = d.lg := k .lg (by decide)
  have cat : e.cat = d.cat := k .cat (by decide)
  have ciph : e.ciph = d.ciph := k .ciph (by decide)
  have regs : e.regs = d.regs := k .regs (by decide)
  refine ⟨⟨by rw [pipes, h.front], ?_, by rw [pipes, h.on]⟩, ⟨by rw [lg, dry.ring], by rw [cat]; exact dry.ends⟩, ?_, ?_⟩
  · rw [← h.take]
    unfold Dev.take
    rw [cat]
  · rw [← keys]
    unfold Dev.mayEncode Dev.encPage Dev.keySlot Dev.page
    rw [cat, ciph, regs]
  · rw [← hit]
    unfold Dev.hotHit Dev.looksUp Dev.takeFp Dev.fingerprint Dev.keySlot Dev.pipeBit Dev.volume
    rw [cat, ciph, regs]

theorem Encodes.of_keeps {slots : Nat} {f : Pipe → Pipe} {x y : Dev} (before : Keeps [.out, .free, .mca] d x) (h : Encodes g rest slots sb f x e)
    (after : Keeps [.out, .free, .mca] e y) : Encodes g rest slots sb f d y where
  pipe := by rw [after .pipes (by decide), h.pipe, before .pipes (by decide)]
  carried := by rw [after .lg (by decide), h.carried, before .lg (by decide)]
  tango := by rw [after .tango (by decide), h.tango, before .tango (by decide)]

theorem exec_tileEncode_waits (on : s.dev.working = true) (h : Turn g r rest t s.dev) (no : s.dev.mayEncode t = false)
    (q : s.dev.looksUp g t r = false) (hand : s.dev.tango.hand = none) : exec (.tileEncode g) s = .next s := by
  rw [exec_tileEncode_of_not_looked_up on h q, encodeTile_of_no_keys h no, tryCut_of_no_hand hand]

theorem exec_tileEncode_stores (on : s.dev.working = true) (h : Turn g r rest t s.dev) (dry : Dry g s.dev) (hand : s.dev.tango.hand = none)
    (keys : s.dev.mayEncode t = true) (q : s.dev.looksUp g t r = false) (open_ : (s.dev.pipes.at g).stripe = some sb)
    (placed : s.dev.layout sb.layout = some l)
    (fits : sb.fits (s.dev.made g t r).1.stored.length (s.dev.metaRoom g t (t.partNo g) r.lastGsn) = true) :
    ∃ d, exec (.tileEncode g) s = .next { s with dev := d } ∧ Encodes g rest r.slots (sb.stored l g t r (s.dev.made g t r).1)
      (Pipe.countTile (s.dev.made g t r).1 r.bytes.length) s.dev d := by
  have encodes := encodeTile_stores h dry keys (hotHit_of_not_looked_up q) open_ placed fits
  refine ⟨_, exec_tileEncode_of_not_looked_up on h q, ?_⟩
  rw [tryCut_of_no_hand (encodes.tango ▸ hand)]
  exact encodes

theorem exec_tileEncode_refers {w : Nat} {x : HotEnt} (on : s.dev.working = true) (h : Turn g r rest t s.dev) (dry : Dry g s.dev)
    (hand : s.dev.tango.hand = none) (keys : s.dev.mayEncode t = true) (hit : s.dev.hotHit g t r = some (w, x))
    (open_ : (s.dev.pipes.at g).stripe = some sb) :
    ∃ y, exec (.tileEncode g) s = .next y ∧
      Encodes g rest r.slots (sb.referring g t r x) (Pipe.countReference r.bytes.length) s.dev y.dev := by
  obtain ⟨z, reads, runs⟩ := exec_tileEncode_of_looked_up on h (looksUp_of_hit hit)
  obtain ⟨turn, still, held, found⟩ := hit_of_keeps reads h dry keys hit
  have encodes := encodeTile_refers turn still held found ((congrArg (fun p => (p.at g).stripe) (reads .pipes (by decide))).trans open_)
  have none_ : (encodeTile g z.dev).tango.hand = none := by rw [encodes.tango, reads .tango (by decide), hand]
  refine ⟨_, runs, encodes.of_keeps reads ?_⟩
  rw [tryCut_of_no_hand none_]
  exact syncHot_k rfl (.refl _ _)

/-! ## References seal a stripe (R121, R183) -/

theorem placeAllMeta_of_nothing_due {part : Nat} (h : t.pending = []) : placeAllMeta g l t part sb d = (sb, d) := by
  unfold placeAllMeta
  rw [h]
  cases d.mayEncode t <;> rfl

theorem queueStripe_sealedQ (sb : StripeBuf) (d : Dev) : sb ∈ (queueStripe sb d).vault.sealedQ ∧
    (queueStripe sb d).vault.sealedQ.length = d.vault.sealedQ.length + 1 := by
  change sb ∈ (if sb.source < 4 then _ ++ [sb] ++ _ else _ ++ [sb]) ∧ (if sb.source < 4 then _ ++ [sb] ++ _ else _ ++ [sb]).length = _
  split
  · refine ⟨by simp, ?_⟩
    rw [List.length_append, List.length_append, Nat.add_right_comm, ← List.length_append, List.takeWhile_append_dropWhile]
    rfl
  · simp

/-- A pipe that has sealed its stripe, with the records of the frames that closed up to `gsn`. -/
def Pipe.sealedAt (gsn : W32) (p : Pipe) : Pipe :=
  { p with stripe := none, refPend := 0, closed := p.closed.filter (fun e => !precEq e.1 gsn) }

/-- A pipe whose take has no record to place seals its open stripe as it is: of what the drives will hold nothing changes. -/
theorem sealPipe_of_nothing_due (open_ : (d.pipes.at g).stripe = some sb) (take : d.take sb.volume sb.takeId = some t) (none_ : t.pending = [])
    (placed : d.layout sb.layout = some l) : ∃ x : StripeBuf, x.stripe = sb.stripe ∧ x.data = sb.data ∧ x.entries = sb.entries ∧
      sealPipe g d = queueStripe x (onPipe g (Pipe.sealedAt sb.commitGsn) d) := by
  unfold sealPipe
  dsimp only
  rw [open_]
  dsimp only
  rw [take, placed]
  dsimp only
  rw [placeAllMeta_of_nothing_due none_]
  refine ⟨_, ?_, ?_, ?_, rfl⟩
  all_goals rfl

theorem exec_referenceSeal {c : Instr} {n : Nat} (on : s.dev.working = true)
    (h : (c = .referenceSealTimer g ∧ n = 1) ∨ (c = .referenceSealCount g ∧ n = 4096)) :
    exec c s = .next { s with dev := referenceSeal g n s.dev } := by
  rcases h with ⟨rfl, rfl⟩ | ⟨rfl, rfl⟩
  · change Host.Outcome.next { s with dev := when s.dev.working (referenceSeal g 1) s.dev } = _
    rw [on]
    rfl
  · change Host.Outcome.next { s with dev := when s.dev.working (referenceSeal g 4096) s.dev } = _
    rw [on]
    rfl

theorem referenceSeal_of_few {n : Nat} (h : (d.pipes.at g).refPend < n) : referenceSeal g n d = d := by
  unfold referenceSeal
  rw [if_neg]
  simp [Nat.not_le.mpr h]

theorem referenceSeal_of_enough {n : Nat} (pos : 0 < n) (h : n ≤ (d.pipes.at g).refPend) : referenceSeal g n d = sealPipe g d := by
  unfold referenceSeal
  rw [if_pos]
  simp [h, Nat.lt_of_lt_of_le pos h]

/-- Settles O34: the encoder's turn is a wait, a stored tile or a reference, by the keys and the lookup; a seal takes the stripe as it stands. -/
theorem encodeAndSeal : Obligations.EncodeAndSeal := by
  unfold Obligations.EncodeAndSeal
  intro s g on
  refine ⟨fun r rest t front take turn => ⟨?_, fun sb l keys open_ placed hand ring ends => ⟨fun miss fits => ?_, fun w x hit => ?_⟩⟩,
    fun c n which => ⟨fun few => ?_, fun sb t l enough open_ take none_ placed => ?_⟩⟩
  · exact exec_tileEncode_waits on ⟨front, take, turn⟩
  · obtain ⟨d, runs, encodes⟩ := exec_tileEncode_stores on ⟨front, take, turn⟩ ⟨ring, ends⟩ hand keys miss open_ placed fits
    refine ⟨d, runs, ?_, ?_, ?_, encodes.carried, _, congrArg Pipe.stripe encodes.pipe, ?_, rfl, rfl⟩
    · rw [encodes.pipe]; rfl
    · rw [encodes.pipe]; rfl
    · rw [encodes.pipe]; rfl
    · exact List.length_append
  · obtain ⟨y, runs, encodes⟩ := exec_tileEncode_refers on ⟨front, take, turn⟩ ⟨ring, ends⟩ hand keys hit open_
    refine ⟨y, runs, ?_, ?_, ?_, ?_, ?_, encodes.carried, _, congrArg Pipe.stripe encodes.pipe, rfl, rfl⟩
    all_goals
      rw [encodes.pipe]
      rfl
  · rw [exec_referenceSeal on which, referenceSeal_of_few few]
  · have pos : 0 < n := by omega
    obtain ⟨x, stripe, data, entries, seals⟩ := sealPipe_of_nothing_due open_ take none_ placed
    obtain ⟨queued, length⟩ := queueStripe_sealedQ x (onPipe g (Pipe.sealedAt sb.commitGsn) s.dev)
    have pipe : (queueStripe x (onPipe g (Pipe.sealedAt sb.commitGsn) s.dev)).pipes.at g = Pipe.sealedAt sb.commitGsn (s.dev.pipes.at g) :=
      four_at_put _ _ _ _
    refine ⟨_, exec_referenceSeal on which, ?_⟩
    rw [referenceSeal_of_enough pos enough, seals]
    exact ⟨congrArg Pipe.stripe pipe, congrArg Pipe.refPend pipe, rfl, length, x, queued, stripe, data, entries⟩

end Sys2Proof.Machine
end

section
/-! PROOF. A descriptor between its pickup and its entry (R256, R261). -/

namespace Sys2Proof.Machine
open Sys2Proof

variable {d e : Dev} {s : State} {h : Hdr} {op : Byte} {l : List Blk}

/-- The descriptor of `h` can be answered (R261): it is outstanding on a channel that lives, and the head has not stopped. -/
structure Awaits (h : Hdr) (d : Dev) : Prop where
  outstanding : d.outstanding h.chan h.tag = true
  dying : tget d.hif.dying h.chan = none
  alive : d.glb.fatal = false

theorem Awaits.of_keeps (a : Awaits h d) (k : Keeps l d e) (hif : Blk.hif ∉ l) (glb : Blk.glb ∉ l) : Awaits h e := by
  have sameHif : e.hif = d.hif := k .hif hif
  have sameGlb : e.glb = d.glb := k .glb glb
  obtain ⟨outstanding, dying, alive⟩ := a
  refine ⟨?_, sameHif ▸ dying, sameGlb ▸ alive⟩
  unfold Dev.outstanding at outstanding ⊢
  rw [sameHif]
  exact outstanding

theorem setJob_outstanding (c : Nat) (j : Option Job) (d : Dev) (k : Nat) (tag : W32) :
    (setJob c j d).outstanding k tag = d.outstanding k tag := by
  unfold setJob onChan
  split
  · next ch at_ =>
    unfold Dev.outstanding
    rw [onHif_hif]
    by_cases same : k = c
    · subst same
      rw [tget_tput, at_]
    · rw [tget_tput_ne _ _ _ _ _ same]
  · rfl

theorem Awaits.setJob (a : Awaits h d) (c : Nat) (j : Option Job) : Awaits h (setJob c j d) := by
  obtain ⟨outstanding, dying, alive⟩ := a
  refine ⟨(setJob_outstanding c j d _ _).trans outstanding, ?_, ?_⟩
  · unfold Machine.setJob
    rw [onChan_dying]
    exact dying
  · unfold Machine.setJob
    rw [onChan_glb]
    exact alive

/-- What awaits its answer gets it, whatever has left the head since `d`. -/
theorem Awaits.answered (a : Awaits h e) (g : Grows d e) (op : Byte) (st : Nat) (r0 r1 : W64) :
    Answered op h st r0 r1 d (complete h op st r0 r1 e) :=
  .around g (complete_answers h op st r0 r1 e a.outstanding a.dying a.alive) (.refl _)

theorem chan_of_outstanding {c : Nat} {tag : W32} (o : d.outstanding c tag = true) : ∃ ch, tget d.hif.chans c = some ch := by
  unfold Dev.outstanding at o
  split at o
  · cases o
  · next ch at_ => exact ⟨ch, at_⟩

theorem setJob_job {ch : Chan} {c : Nat} (at_ : tget d.hif.chans c = some ch) (j : Option Job) : (setJob c j d).job c = j := by
  unfold Dev.job setJob
  rw [onChan_chan c _ d ch at_]
  rfl

theorem chan_of_job {c : Nat} {j : Job} (at_ : d.job c = some j) : ∃ ch, tget d.hif.chans c = some ch := by
  unfold Dev.job at at_
  obtain ⟨ch, found, -⟩ := Option.bind_eq_some_iff.mp at_
  exact ⟨ch, found⟩

/-! ## Pickup -/

theorem pickupWhen_domain (go : Bool) (h : Hdr) (op : Byte) (d : Dev) : (pickupWhen go h op d).1.domain h.chan = d.domain h.chan := by
  unfold pickupWhen Dev.domain
  cases at_ : tget d.hif.chans h.chan with
  | none => simp [at_]
  | some ch =>
    dsimp only
    split
    · simp [at_]
    · simp

/-- `x` is the head `d` with the descriptor of `h` picked up and started (R256). -/
structure PickedUp (h : Hdr) (d x : Dev) : Prop where
  keeps : Keeps [.hif] d x
  awaits : Awaits h x
  domain : x.domain h.chan = d.domain h.chan

theorem alive_of_picksUp {c : Nat} (p : d.picksUp c = true) : d.glb.fatal = false ∧ tget d.hif.dying c = none := by
  unfold Dev.picksUp Dev.running Dev.live at p
  simp only [Bool.and_eq_true, Bool.not_eq_true', Option.isNone_iff_eq_none] at p
  exact ⟨p.1.1.1.1.1.1.2, p.1.2⟩

/-- A descriptor that starts, with valid fields, does its own meaning on the head that has picked it up. -/
theorem starts_pickedUp {go : Bool} {ct : List Nat} {v : Bool} (on : StartsWhen go op ct h d) (valid : v = true) :
    ∃ x, PickedUp h d x ∧ ∀ body, descriptorWhen go op ct h v body d = body x := by
  obtain ⟨picks, turn, type, clean⟩ := on
  obtain ⟨alive, dying⟩ := alive_of_picksUp picks
  have keeps := pickupWhen_keeps go h op d
  refine ⟨(pickupWhen go h op d).1, ⟨keeps, ⟨pickupWhen_outstanding go h op d turn, ?_, ?_⟩, pickupWhen_domain go h op d⟩, fun body => ?_⟩
  · rw [pickupWhen_dying]
    exact dying
  · rw [keeps .glb (by decide)]
    exact alive
  · unfold descriptorWhen
    rw [if_pos picks]
    generalize pickupWhen go h op d = p at turn
    obtain ⟨x, started⟩ := p
    obtain rfl : started = true := turn
    dsimp only
    rw [type, clean, valid]
    rfl

/-- A command whose descriptor starts, with valid fields. -/
theorem descriptor_next {ct : List Nat} {v : Bool} (on : Starts op ct h s.dev) (valid : v = true) (body : Dev → Dev) :
    ∃ x, PickedUp h s.dev x ∧ (Host.Outcome.next { s with dev := descriptor op ct h v body s.dev } : Host.Outcome State Fault Refusal) =
      .next { s with dev := body x } := by
  obtain ⟨x, picked, runs⟩ := starts_pickedUp on valid
  refine ⟨x, picked, ?_⟩
  unfold descriptor
  rw [runs]

namespace PickedUp

variable {x : Dev}

theorem grows (p : PickedUp h d x) : Grows d x := p.keeps.grows (by decide)

theorem answered (p : PickedUp h d x) (op : Byte) (st : Nat) (r0 r1 : W64) : Answered op h st r0 r1 d (complete h op st r0 r1 x) :=
  p.awaits.answered p.grows op st r0 r1

/-- What is answered after work that left the host interface alone. -/
theorem answered_after (p : PickedUp h d x) (k : Keeps l x e) (g : Grows x e) (hif : Blk.hif ∉ l) (glb : Blk.glb ∉ l) (op : Byte) (st : Nat)
    (r0 r1 : W64) : Answered op h st r0 r1 d (complete h op st r0 r1 e) :=
  (p.awaits.of_keeps k hif glb).answered (p.grows.trans g) op st r0 r1

theorem out (p : PickedUp h d x) : x.out = d.out := p.keeps .out (by decide)
theorem ciph (p : PickedUp h d x) : x.ciph = d.ciph := p.keeps .ciph (by decide)
theorem dgst (p : PickedUp h d x) : x.dgst = d.dgst := p.keeps .dgst (by decide)
theorem regs (p : PickedUp h d x) : x.regs = d.regs := p.keeps .regs (by decide)
theorem cat (p : PickedUp h d x) : x.cat = d.cat := p.keeps .cat (by decide)
theorem boot (p : PickedUp h d x) : x.boot = d.boot := p.keeps .boot (by decide)

end PickedUp

end Sys2Proof.Machine
end

section
/-! PROOF. COPY and its bursts (R156, R374 to R376). -/

namespace Sys2Proof.Machine
open Sys2Proof

variable {d : Dev} {s : State} {h : Hdr} {src dst len space dig slot out : Nat}

/-! ## What leaves the head -/

theorem hostData_grows (addr : Nat) (data : List Byte) (d : Dev) : Grows d (hostData addr data d) := emit_grows _ d

theorem extendMr_grows (n : Nat) (v : List Byte) (d : Dev) : Grows d (extendMr n v d) :=
  (extendMr_k (L := [.dgst]) rfl (.refl _ d)).grows (by decide)

theorem takeCtx_grows (n : Nat) (b : Snoop) (d : Dev) : Grows d (takeCtx n b d) :=
  (takeCtx_k (L := [.dgst]) rfl (.refl _ d)).grows (by decide)

theorem deliverDigest_grows (b : Snoop) (message : List Byte) (d : Dev) : Grows d (deliverDigest b message d) := by
  unfold deliverDigest
  dsimp only
  split
  · exact hostData_grows _ _ d
  · exact extendMr_grows _ _ d
  · exact .refl d

theorem snoop_grows (chan : Nat) (bytes : List Byte) (d : Dev) : Grows d (snoop chan bytes d) := by
  unfold snoop
  split
  · exact .refl d
  split
  · exact takeCtx_grows _ _ d
  · exact (each_grows (deliverDigest_grows _) _ d).trans (takeCtx_grows _ _ _)

/-- A copy's channel with its context and its engine channel released: what is left to do is to answer. -/
def releaseCopy (c n : Nat) (d : Dev) : Dev := onDma n (fun x => { x with active := false }) (dropCtx c (setJob c none d))

theorem endCopy_eq (c : Nat) (j : CopyJob) (st : Nat) (d : Dev) :
    endCopy c j st d = complete j.h 0x90 st (BitVec.ofNat 64 j.moved) 0 (releaseCopy c j.dma d) := rfl

theorem dropCtx_keeps (c : Nat) (d : Dev) : Keeps [.dgst] d (dropCtx c d) := dropCtx_k rfl (.refl _ d)

theorem onDma_keeps (n : Nat) (f : DmaCh → DmaCh) (d : Dev) : Keeps [.dma] d (onDma n f d) := onDma_k rfl (.refl _ d)

theorem releaseCopy_grows (c n : Nat) (d : Dev) : Grows d (releaseCopy c n d) :=
  (((setJob_keeps c none d).grows (by decide)).trans ((dropCtx_keeps c _).grows (by decide))).trans
    ((onDma_keeps n _ _).grows (by decide))

theorem Awaits.releaseCopy (a : Awaits h d) (c n : Nat) : Awaits h (releaseCopy c n d) :=
  ((a.setJob c none).of_keeps (dropCtx_keeps c _) (by decide) (by decide)).of_keeps (onDma_keeps n _ _) (by decide) (by decide)

theorem endCopy_grows (c : Nat) (j : CopyJob) (st : Nat) (d : Dev) : Grows d (endCopy c j st d) :=
  (releaseCopy_grows c j.dma d).trans (complete_grows _ _ _ _ _ _)

/-! ## The checks of COPY (R374) -/

theorem doCopy_of_unaligned (bad : src % 64 ≠ 0 ∨ dst % 64 ≠ 0 ∨ len % 64 ≠ 0) :
    doCopy h src dst len space dig slot out d = complete h 0x90 4 0 0 d := by
  unfold doCopy
  dsimp only
  rw [if_pos bad]

/-- Addresses and length of a COPY are multiples of 64. -/
def copyAligned (src dst len : Nat) : Prop := src % 64 = 0 ∧ dst % 64 = 0 ∧ len % 64 = 0

theorem not_unaligned (a : copyAligned src dst len) : ¬ (src % 64 ≠ 0 ∨ dst % 64 ≠ 0 ∨ len % 64 ≠ 0) := by
  unfold copyAligned at a
  omega

theorem doCopy_of_long (a : copyAligned src dst len) (long : 2 ^ 40 < len ∨ (space = 1 ∧ bar2Size < src + len)) :
    doCopy h src dst len space dig slot out d = complete h 0x90 0x0D 0 0 d := by
  unfold doCopy
  dsimp only
  rw [if_neg (not_unaligned a), if_pos long]

/-- A COPY that is aligned and fits: at most 2^40 bytes, and within BAR2 where it reads HBM. -/
structure CopyFits (src dst len space : Nat) : Prop where
  aligned : copyAligned src dst len
  short : len ≤ 2 ^ 40
  inside : space = 1 → src + len ≤ bar2Size

theorem CopyFits.not_long (f : CopyFits src dst len space) : ¬ (2 ^ 40 < len ∨ (space = 1 ∧ bar2Size < src + len)) := by
  rintro (long | ⟨hbm, beyond⟩)
  · exact absurd f.short (by omega)
  · exact absurd (f.inside hbm) (by omega)

theorem doCopy_of_no_context (f : CopyFits src dst len space) (digest : dig ≠ 0) (full : d.freeCtx = none) :
    doCopy h src dst len space dig slot out d = complete h 0x90 8 0 0 d := by
  unfold doCopy
  dsimp only
  rw [if_neg (not_unaligned f.aligned), if_neg f.not_long, if_neg digest, full]
  rfl

/-- Whether a keyed digest has a key slot of the channel's domain (R157). -/
def Dev.copyKeyed (d : Dev) (c slot : Nat) : Prop := (tget d.ciph.hkeys slot).map (·.domain) = some (d.domain c)

theorem foreign_iff (d : Dev) (c slot : Nat) :
    ((tget d.ciph.hkeys slot).map (fun k => k.domain != d.domain c)).getD true = true ↔ ¬ d.copyKeyed c slot := by
  unfold Dev.copyKeyed
  cases tget d.ciph.hkeys slot with
  | none => simp
  | some k => simp

theorem doCopy_of_foreign_key (f : CopyFits src dst len space) (keyed : 3 ≤ dig) (ctx : d.freeCtx ≠ none)
    (foreign : ¬ d.copyKeyed h.chan slot) : doCopy h src dst len space dig slot out d = complete h 0x90 0x0E 0 0 d := by
  obtain ⟨k, ctx⟩ := Option.ne_none_iff_exists'.mp ctx
  unfold doCopy
  dsimp only
  rw [if_neg (not_unaligned f.aligned), if_neg f.not_long, if_neg (by omega), ctx]
  dsimp only [Option.map_some]
  rw [if_pos ⟨keyed, (foreign_iff d h.chan slot).mpr foreign⟩]

/-- The job of a COPY as it starts. -/
def Dev.copyJob (d : Dev) (h : Hdr) (src dst len space : Nat) : CopyJob :=
  { h := h, dma := ((tget d.hif.chans h.chan).map (·.dma)).getD 255, src := src, dst := dst, left := len, hbm := space == 1, moved := 0,
    bad := false }

/-- The binding of its digest context (R156). -/
def Dev.copySnoop (d : Dev) (h : Hdr) (len dig slot out : Nat) : Snoop :=
  { chan := h.chan, kind := dig, key := if dig < 3 then [] else ((tget d.ciph.hkeys slot).map (·.key)).getD [], dest := .host out
    declared := some len, seen := [] }

/-- The head with a COPY's digest context bound, where it asks for a digest. -/
def bindCopy (b : Snoop) (d : Dev) : Dev :=
  if b.kind = 0 then d
  else match d.freeCtx with
    | some k => takeCtx k b d
    | none => d

theorem bindCopy_of_plain {b : Snoop} (plain : b.kind = 0) : bindCopy b d = d := if_pos plain

theorem bindCopy_of_context {b : Snoop} {k : Nat} (digest : b.kind ≠ 0) (ctx : d.freeCtx = some k) : bindCopy b d = takeCtx k b d := by
  unfold bindCopy
  rw [if_neg digest, ctx]

/-- The digest of a copy of nothing goes to host memory, where the COPY asks for one. -/
def digestNothing (b : Snoop) (d : Dev) : Dev := if b.kind = 0 then d else deliverDigest b [] d

theorem digestNothing_of_plain {b : Snoop} (plain : b.kind = 0) : digestNothing b d = d := if_pos plain

theorem digestNothing_of_digest {b : Snoop} (digest : b.kind ≠ 0) : digestNothing b d = deliverDigest b [] d := if_neg digest

/-- What a COPY needs for its digest: a free context, and where it is keyed a key slot of the channel's domain (R156). -/
structure CopyReady (h : Hdr) (dig slot : Nat) (d : Dev) : Prop where
  context : dig = 0 ∨ d.freeCtx ≠ none
  keyed : 3 ≤ dig → d.copyKeyed h.chan slot

theorem doCopy_of_ready (f : CopyFits src dst len space) (r : CopyReady h dig slot d) :
    doCopy h src dst len space dig slot out d =
      if len = 0 then
        endCopy h.chan (d.copyJob h src dst len space) 0 (digestNothing (d.copySnoop h len dig slot out) d)
      else onDma (d.copyJob h src dst len space).dma (fun x => { x with active := true, waited := 0 })
        (setJob h.chan (some (.copy (d.copyJob h src dst len space))) (bindCopy (d.copySnoop h len dig slot out) d)) := by
  have own : ¬ (3 ≤ dig ∧ ((tget d.ciph.hkeys slot).map (fun k => k.domain != d.domain h.chan)).getD true = true) :=
    fun ⟨keyed, foreign⟩ => (foreign_iff d h.chan slot).mp foreign (r.keyed keyed)
  unfold doCopy
  dsimp only
  rw [if_neg (not_unaligned f.aligned), if_neg f.not_long]
  by_cases plain : dig = 0
  · rw [bindCopy_of_plain plain, digestNothing_of_plain plain]
    simp only [if_pos plain, if_neg own]
    rfl
  · obtain ⟨k, ctx⟩ := Option.ne_none_iff_exists'.mp (r.context.resolve_left plain)
    rw [bindCopy_of_context plain ctx, digestNothing_of_digest plain]
    simp only [if_neg plain, ctx, Option.map_some, if_neg own]
    rfl

/-! ## A COPY that may run -/

theorem bindCopy_keeps (b : Snoop) (d : Dev) : Keeps [.dgst] d (bindCopy b d) := by
  unfold bindCopy
  split
  · exact .refl _ d
  split
  · exact takeCtx_k rfl (.refl _ d)
  · exact .refl _ d

theorem bindCopy_ctx {b : Snoop} {k : Nat} (digest : b.kind ≠ 0) (ctx : d.freeCtx = some k) : tget (bindCopy b d).dgst.ctx k = some b := by
  rw [bindCopy_of_context digest ctx]
  exact tget_tput _ _ _ _

theorem digestNothing_keeps (b : Snoop) (d : Dev) : Keeps [.out, .dgst] d (digestNothing b d) := by
  unfold digestNothing
  split
  · exact .refl _ d
  · exact deliverDigest_k rfl (.refl _ d)

theorem digestNothing_grows (b : Snoop) (d : Dev) : Grows d (digestNothing b d) := by
  unfold digestNothing
  split
  · exact .refl d
  · exact deliverDigest_grows _ _ d

/-- A COPY of nothing is done at once. -/
theorem endCopy_of_nothing {x : Dev} (p : PickedUp h d x) (b : Snoop) (src dst space : Nat) :
    Answered 0x90 h 0 0 0 d (endCopy h.chan (x.copyJob h src dst 0 space) 0 (digestNothing b x)) ∧
    Keeps [.hif, .out, .cat, .dma, .dgst] d (endCopy h.chan (x.copyJob h src dst 0 space) 0 (digestNothing b x)) := by
  have keeps := digestNothing_keeps b x
  have waits := (p.awaits.of_keeps keeps (by decide) (by decide)).releaseCopy h.chan (x.copyJob h src dst 0 space).dma
  refine ⟨waits.answered ((p.grows.trans (digestNothing_grows b x)).trans (releaseCopy_grows _ _ _)) 0x90 0 0 0, ?_⟩
  exact endCopy_k rfl ((p.keeps.mono (by simp)).trans (keeps.mono (by simp)))

/-- A COPY that waits for the engine: the head has its job and its context, and nothing has left it. -/
def startCopy (j : CopyJob) (b : Snoop) (d : Dev) : Dev :=
  onDma j.dma (fun x => { x with active := true, waited := 0 }) (setJob j.h.chan (some (.copy j)) (bindCopy b d))

theorem startCopy_out (j : CopyJob) (b : Snoop) (d : Dev) : (startCopy j b d).out = d.out :=
  (((bindCopy_keeps b d).mono (m := [.dgst, .hif, .dma]) (by simp)).trans (((setJob_keeps _ _ _).mono (by simp)).trans
    ((onDma_keeps _ _ _).mono (by simp)))) .out (by decide)

theorem startCopy_job {j : CopyJob} (waits : Awaits j.h d) (b : Snoop) : (startCopy j b d).job j.h.chan = some (.copy j) := by
  obtain ⟨ch, at_⟩ := chan_of_outstanding waits.outstanding
  have hif : (bindCopy b d).hif = d.hif := bindCopy_keeps b d .hif (by decide)
  have set_ : (setJob j.h.chan (some (.copy j)) (bindCopy b d)).job j.h.chan = some (.copy j) :=
    setJob_job (hif ▸ at_) (some (.copy j))
  unfold Dev.job startCopy at *
  rw [onDma_keeps _ _ _ .hif (by decide)]
  exact set_

theorem startCopy_ctx {b : Snoop} {k : Nat} (digest : b.kind ≠ 0) (ctx : d.freeCtx = some k) (j : CopyJob) :
    tget (startCopy j b d).dgst.ctx k = some b := by
  unfold startCopy
  rw [onDma_keeps _ _ _ .dgst (by decide), setJob_keeps _ _ _ .dgst (by decide)]
  exact bindCopy_ctx digest ctx

theorem PickedUp.freeCtx {x : Dev} (p : PickedUp h d x) : x.freeCtx = d.freeCtx := by
  unfold Dev.freeCtx Dev.openCtx
  rw [p.regs, p.dgst]

theorem PickedUp.copyKeyed {x : Dev} (p : PickedUp h d x) (slot : Nat) : x.copyKeyed h.chan slot ↔ d.copyKeyed h.chan slot := by
  unfold Dev.copyKeyed
  rw [p.ciph, p.domain]

/-! ## A burst (R375, R376) -/

/-- The bytes of a copy's next burst: zeros where it is uncorrectable. -/
def burstBytes (j : CopyJob) (data : List Byte) (bad : Bool) : List Byte :=
  if bad = true then zeros (burstLength j) else padTo (burstLength j) data

/-- A copy after its next burst. -/
def nextBurst (j : CopyJob) (bad : Bool) : CopyJob :=
  { j with src := j.src + burstLength j, dst := j.dst + burstLength j, left := j.left - burstLength j, moved := j.moved + burstLength j
           bad := j.bad || bad }

/-- The burst granted and counted, and its bytes in host memory. -/
def landBurst (j : CopyJob) (data : List Byte) (bad : Bool) (d : Dev) : Dev :=
  hostData j.dst (burstBytes j data bad)
    { d with dma := { d.dma.granted j.dma with bytes := d.dma.bytes + BitVec.ofNat 64 (burstLength j) } }

theorem copyBurst_eq (c : Nat) (j : CopyJob) (data : List Byte) (bad : Bool) (d : Dev) :
    copyBurst c j data bad d =
      if (nextBurst j bad).left = 0 then
        endCopy c (nextBurst j bad) (if (nextBurst j bad).bad then 0x0C else 0) (snoop c (burstBytes j data bad) (landBurst j data bad d))
      else setJob c (some (.copy (nextBurst j bad))) (snoop c (burstBytes j data bad) (landBurst j data bad d)) := rfl

/-- The bytes of a burst are the first to leave the head with it. -/
theorem copyBurst_out (c : Nat) (j : CopyJob) (data : List Byte) (bad : Bool) (d : Dev) :
    ∃ ro post, (copyBurst c j data bad d).out = d.out ++ Out.hostWrite ro j.dst (burstBytes j data bad) :: post := by
  have rest : Grows (landBurst j data bad d) (copyBurst c j data bad d) := by
    rw [copyBurst_eq]
    split
    · exact (snoop_grows _ _ _).trans (endCopy_grows _ _ _ _)
    · exact (snoop_grows _ _ _).trans ((setJob_keeps _ _ _).grows (by decide))
  obtain ⟨post, out⟩ := rest
  exact ⟨_, post, out.trans (List.append_assoc d.out [_] post)⟩

/-- A burst that does not end its copy: the copy goes on where it left off. -/
theorem copyBurst_of_more {c : Nat} {j : CopyJob} (more : burstLength j < j.left) (at_ : d.job c = some (.copy j)) (data : List Byte)
    (bad : Bool) : (copyBurst c j data bad d).dma.bytes = d.dma.bytes + BitVec.ofNat 64 (burstLength j) ∧
      Keeps [.out, .dma, .hif, .dgst] d (copyBurst c j data bad d) ∧ (copyBurst c j data bad d).job c = some (.copy (nextBurst j bad)) := by
  have goesOn : (nextBurst j bad).left ≠ 0 := Nat.sub_ne_zero_of_lt more
  have snooped : Keeps [.out, .dgst] (landBurst j data bad d) (snoop c (burstBytes j data bad) (landBurst j data bad d)) :=
    snoop_k rfl (.refl _ _)
  obtain ⟨ch, chan⟩ := chan_of_job at_
  rw [copyBurst_eq, if_neg goesOn]
  refine ⟨?_, ?_, setJob_job (ch := ch) ?_ _⟩
  · rw [setJob_keeps _ _ _ .dma (by decide), snooped .dma (by decide)]
    rfl
  · exact setJob_k rfl (snoop_k rfl (hostData_k rfl (upd_dma rfl (.refl _ d))))
  · rw [snooped .hif (by decide)]
    exact chan

/-! ## DMA_BURST -/

theorem exec_dmaBurst (live : s.dev.live = true) (link : s.dev.glb.perstLow = false) (data : List Byte) (bad : Bool) :
    exec (.dmaBurst data bad) s = .next { syncHot s with dev := dmaBurst data bad (syncHot s) } := by
  change Host.Outcome.next (if (s.dev.live && !s.dev.glb.perstLow) = true then _ else s) = _
  rw [live, link]
  rfl

theorem dmaBurst_of_none (none_ : s.dev.dma.grant = none) (data : List Byte) (bad : Bool) : dmaBurst data bad s = s.dev := by
  unfold dmaBurst
  dsimp only
  rw [none_]
  rfl

theorem dmaBurst_of_copy {n : Nat} {x : DmaCh} {j : CopyJob} (grant : s.dev.dma.grant = some n) (chan : tget s.dev.dma.chs n = some x)
    (at_ : s.dev.job x.chan = some (.copy j)) (data : List Byte) (bad : Bool) :
    dmaBurst data bad s = copyBurst x.chan j (if j.hbm then bar2Bytes s j.src (burstLength j) else data) (j.hbm && bad) s.dev := by
  unfold dmaBurst
  dsimp only
  rw [grant, Option.bind_some, chan]
  dsimp only
  rw [at_]

theorem syncHot_keeps (s : State) : Keeps [.out, .free, .mca] s.dev (syncHot s).dev := syncHot_k rfl (.refl _ s.dev)

theorem syncHot_dma (s : State) : (syncHot s).dev.dma = s.dev.dma := syncHot_keeps s .dma (by decide)

theorem syncHot_job (s : State) (c : Nat) : (syncHot s).dev.job c = s.dev.job c := by
  unfold Dev.job
  rw [syncHot_keeps s .hif (by decide)]

/-! ## The commands -/

theorem exec_copy (on : Starts 0x90 [6] h s.dev) (from_ : space < 2) (kind : dig < 5) :
    ∃ x, PickedUp h s.dev x ∧ exec (.copy h src dst len space dig slot out) s =
      .next { s with dev := doCopy h src dst len space dig slot out x } :=
  descriptor_next on (decide_eq_true ⟨from_, kind⟩) _

/-- Settles O13: the checks of COPY in their order, then the copy of nothing and the one that waits; a burst by what is granted. -/
theorem copyAndBurst : Obligations.CopyAndBurst := by
  unfold Obligations.CopyAndBurst
  refine ⟨fun s h src dst len space dig slot out on from_ kind => ?_, fun s data bad live link => ?_⟩
  · obtain ⟨x, p, runs⟩ := exec_copy (src := src) (dst := dst) (len := len) (slot := slot) (out := out) on from_ kind
    refine ⟨fun odd => ⟨_, runs, ?_⟩, fun src_ dst_ len_ => ?_⟩
    · rw [doCopy_of_unaligned odd]
      exact p.answered _ _ _ _
    have aligned : copyAligned src dst len := ⟨src_, dst_, len_⟩
    refine ⟨fun long => ⟨_, runs, ?_⟩, fun short inside => ?_⟩
    · rw [doCopy_of_long aligned long]
      exact p.answered _ _ _ _
    have fits : CopyFits src dst len space := ⟨aligned, short, inside⟩
    refine ⟨fun digest full => ⟨_, runs, ?_⟩, fun keyed ctx foreign => ⟨_, runs, ?_⟩, fun context keyed => ?_⟩
    · rw [doCopy_of_no_context fits digest (p.freeCtx.trans full)]
      exact p.answered _ _ _ _
    · rw [doCopy_of_foreign_key fits keyed (by rwa [p.freeCtx]) (mt (p.copyKeyed slot).mp foreign)]
      exact p.answered _ _ _ _
    have ready : CopyReady h dig slot x := ⟨by rwa [p.freeCtx], fun three => (p.copyKeyed slot).mpr (keyed three)⟩
    rw [doCopy_of_ready fits ready] at runs
    refine ⟨fun none_ => ?_, fun some_ => ?_⟩
    · subst none_
      rw [if_pos rfl] at runs
      exact ⟨_, runs, endCopy_of_nothing p _ _ _ _⟩
    · rw [if_neg (by omega)] at runs
      refine ⟨_, x.copyJob h src dst len space, runs, (startCopy_out _ _ x).trans p.out, startCopy_job p.awaits _, rfl, rfl, rfl, rfl, rfl,
        fun k digest free => ⟨_, startCopy_ctx digest (p.freeCtx.trans free) _, rfl, rfl, rfl, rfl⟩⟩
  · have runs := exec_dmaBurst live link data bad
    refine ⟨fun none_ => ?_, fun n x j grant chan at_ => ?_⟩
    · rw [runs, dmaBurst_of_none (by rwa [syncHot_dma])]
    rw [dmaBurst_of_copy (by rwa [syncHot_dma]) (by rwa [syncHot_dma]) ((syncHot_job s _).trans at_)] at runs
    refine ⟨?_, fun more => ⟨_, runs, syncHot_pending s, ?_⟩⟩
    · obtain ⟨ro, post, out⟩ := copyBurst_out x.chan j (if j.hbm then bar2Bytes (syncHot s) j.src (burstLength j) else data) (j.hbm && bad)
        (syncHot s).dev
      exact ⟨_, ro, post, runs, rfl, out⟩
    · obtain ⟨bytes, keeps, job⟩ := copyBurst_of_more more ((syncHot_job s _).trans at_)
        (if j.hbm then bar2Bytes (syncHot s) j.src (burstLength j) else data) (j.hbm && bad)
      refine ⟨bytes.trans (by rw [syncHot_dma]), ?_, _, job, rfl, rfl, rfl⟩
      exact ((syncHot_keeps s).mono (by simp)).trans (keeps.mono (by simp))

end Sys2Proof.Machine
end

section
/-! PROOF. HMAC key slots, measurement registers and the quote (R157, R158, R441). -/

namespace Sys2Proof.Machine
open Sys2Proof

variable {d x : Dev} {s : State} {h : Hdr} {slot dom reg : Nat} {key : List Byte}

/-! ## HMAC key slots (R157) -/

/-- The head with a key in a slot. -/
def putHkey (slot : Nat) (k : HKey) (d : Dev) : Dev := onCiph (fun c => { c with hkeys := tput c.hkeys slot k }) d

theorem putHkey_pages (slot : Nat) (k : HKey) (d : Dev) : (putHkey slot k d).ciph.pages = d.ciph.pages := rfl

theorem doHkeyLoad_of_free (free : tget d.ciph.hkeys slot = none) :
    doHkeyLoad h slot dom key d = complete h 0x0D 0 0 0 (putHkey slot { domain := dom, key := key } d) := by
  unfold doHkeyLoad
  rw [free]
  rfl

theorem doHkeyLoad_of_own {k : HKey} (used : tget d.ciph.hkeys slot = some k) (own : k.domain = dom) :
    doHkeyLoad h slot dom key d = complete h 0x0D 0 0 0 (putHkey slot { domain := dom, key := key } d) := by
  unfold doHkeyLoad
  rw [used]
  dsimp only
  rw [if_pos own, ← own]
  rfl

theorem doHkeyLoad_of_foreign {k : HKey} (used : tget d.ciph.hkeys slot = some k) (foreign : k.domain ≠ dom) :
    doHkeyLoad h slot dom key d = complete h 0x0D 0x0E 0 0 d := by
  unfold doHkeyLoad
  rw [used]
  exact if_neg foreign

theorem doHkeyErase_of_free (free : tget d.ciph.hkeys slot = none) : doHkeyErase h slot d = complete h 0x0E 2 0 0 d := by
  unfold doHkeyErase
  rw [free]

theorem doHkeyErase_of_held (used : (tget d.ciph.hkeys slot).isSome = true) (held : d.hkeyHeld slot = true) :
    doHkeyErase h slot d = complete h 0x0E 8 0 0 d := by
  obtain ⟨k, used⟩ := Option.isSome_iff_exists.mp used
  unfold doHkeyErase
  rw [used]
  exact if_pos held

/-- The head with a slot free. -/
def dropHkey (slot : Nat) (d : Dev) : Dev := onCiph (fun c => { c with hkeys := tdel c.hkeys slot }) d

theorem doHkeyErase_of_unheld (used : (tget d.ciph.hkeys slot).isSome = true) (unheld : d.hkeyHeld slot = false) :
    doHkeyErase h slot d = complete h 0x0E 0 0 0 (dropHkey slot d) := by
  obtain ⟨k, used⟩ := Option.isSome_iff_exists.mp used
  unfold doHkeyErase
  rw [used]
  exact if_neg (by rw [unheld]; exact Bool.false_ne_true)

theorem PickedUp.hkeyHeld (p : PickedUp h d x) (slot : Nat) : x.hkeyHeld slot = d.hkeyHeld slot := by
  unfold Dev.hkeyHeld Dev.keySlot
  rw [p.cat, p.ciph]

theorem complete_ciph (h : Hdr) (op : Byte) (st : Nat) (r0 r1 : W64) (d : Dev) : (complete h op st r0 r1 d).ciph = d.ciph :=
  complete_keeps h op st r0 r1 d .ciph (by decide)

theorem complete_dgst (h : Hdr) (op : Byte) (st : Nat) (r0 r1 : W64) (d : Dev) : (complete h op st r0 r1 d).dgst = d.dgst :=
  complete_keeps h op st r0 r1 d .dgst (by decide)

theorem PickedUp.complete_ciph (p : PickedUp h d x) (op : Byte) (st : Nat) (r0 r1 : W64) : (complete h op st r0 r1 x).ciph = d.ciph :=
  (Machine.complete_ciph h op st r0 r1 x).trans p.ciph

/-- What a change of the cipher engine's state does before its answer. -/
theorem PickedUp.answered_onCiph (p : PickedUp h d x) (f : Ciph → Ciph) (op : Byte) (st : Nat) (r0 r1 : W64) :
    Answered op h st r0 r1 d (complete h op st r0 r1 (onCiph f x)) :=
  p.answered_after (onCiph_keeps f x) ((onCiph_keeps f x).grows (by decide)) (by decide) (by decide) op st r0 r1

theorem exec_hkeyLoad (on : Starts 0x0D [7] h s.dev) (slot64 : slot < 64) (low : 1 ≤ dom) (high : dom ≤ 63) (some_ : 1 ≤ key.length)
    (most : key.length ≤ 128) : ∃ x, PickedUp h s.dev x ∧ exec (.hkeyLoad h slot dom key) s =
      .next { s with dev := doHkeyLoad h slot dom key x } :=
  descriptor_next on (decide_eq_true ⟨slot64, low, high, some_, most⟩) _

theorem exec_hkeyErase (on : Starts 0x0E [7] h s.dev) (slot64 : slot < 64) :
    ∃ x, PickedUp h s.dev x ∧ exec (.hkeyErase h slot) s = .next { s with dev := doHkeyErase h slot x } :=
  descriptor_next on (decide_eq_true slot64) _

/-! ## Measurement registers (R158, R159) -/

theorem doMrExtend_of_reserved {v : W384} (six : reg ≠ 6) (seven : reg ≠ 7) : doMrExtend h reg v d = complete h 0x0F 0x0E 0 0 d := by
  unfold doMrExtend
  rw [if_neg (by rintro (e | e) <;> contradiction)]

theorem doMrExtend_of_host {v : W384} (own : reg = 6 ∨ reg = 7) :
    doMrExtend h reg v d = complete h 0x0F 0 0 0 (extendMr reg (beBytes v) d) := by
  unfold doMrExtend
  rw [if_pos own]

theorem mr_of_dgst {e : Dev} (same : e.dgst = d.dgst) (n : Nat) : e.mr n = d.mr n := by
  unfold Dev.mr
  rw [same]

theorem extendMr_mr (n : Nat) (v : List Byte) (d : Dev) : (extendMr n v d).mr n = extendValue (d.mr n) v := by
  unfold extendMr
  exact tgetD_tput _ _ _ _

theorem extendMr_mr_ne {m n : Nat} (other : m ≠ n) (v : List Byte) (d : Dev) : (extendMr n v d).mr m = d.mr m := by
  unfold extendMr Dev.mr tgetD
  dsimp only
  rw [tget_tput_ne _ _ _ _ _ other]

theorem extendMr_keeps (n : Nat) (v : List Byte) (d : Dev) : Keeps [.dgst] d (extendMr n v d) := extendMr_k rfl (.refl _ d)

theorem exec_mrExtend {v : W384} (on : Starts 0x0F [7] h s.dev) (reg32 : reg < 32) :
    ∃ x, PickedUp h s.dev x ∧ exec (.mrExtend h reg v) s = .next { s with dev := doMrExtend h reg v x } :=
  descriptor_next on (decide_eq_true reg32) _

/-! ## The quote (R441) -/

variable {nonce : W256} {a n : Nat}

theorem doAttestQuote_of_unidentified (no : d.boot.idOk = false) : doAttestQuote h nonce a n d = complete h 0x23 0x0C 0 0 d := by
  unfold doAttestQuote
  rw [no]
  rfl

theorem doAttestQuote_of_short (id : d.boot.idOk = true) (short : n < d.quoteLen) :
    doAttestQuote h nonce a n d = complete h 0x23 0x0D 0 0 d := by
  unfold doAttestQuote
  rw [id, if_neg (by decide), if_pos short]

/-- A quote of this head, signed with the free value of a draw. -/
def Dev.quote (d : Dev) (nonce : W256) : List Byte := d.quoteBody nonce ++ beBytes (deviceSign (sha384 (d.quoteBody nonce)) d.free)

/-- The head with its quote in host memory. -/
def writeQuote (nonce : W256) (a : Nat) (d : Dev) : Dev := hostData a (d.quote nonce) (drbgDraw 4 d)

theorem doAttestQuote_of_room (id : d.boot.idOk = true) (room : d.quoteLen ≤ n) :
    doAttestQuote h nonce a n d = complete h 0x23 0 (BitVec.ofNat 64 d.quoteLen) 0 (writeQuote nonce a d) := by
  unfold doAttestQuote
  rw [id, if_neg (by decide), if_neg (by omega)]
  rfl

theorem drbgDraw_keeps (i : Nat) (d : Dev) : Keeps [.free, .ciph] d (drbgDraw i d) := drbgDraw_k rfl (.refl _ d)

theorem writeQuote_keeps (nonce : W256) (a : Nat) (d : Dev) : Keeps [.out, .free, .ciph] d (writeQuote nonce a d) :=
  hostData_k rfl (drbgDraw_k rfl (.refl _ d))

theorem writeQuote_grows (nonce : W256) (a : Nat) (d : Dev) : Grows d (writeQuote nonce a d) :=
  ((drbgDraw_keeps 4 d).grows (by decide)).trans (hostData_grows _ _ _)

theorem mem_writeQuote (nonce : W256) (a : Nat) (d : Dev) : ∃ ro, Out.hostWrite ro a (d.quote nonce) ∈ (writeQuote nonce a d).out :=
  ⟨_, List.mem_append_right _ (List.mem_singleton_self _)⟩

theorem beBytes_length {w : Nat} (v : BitVec w) : (beBytes v).length = w / 8 := by
  unfold beBytes
  rw [List.length_reverse, wordBytes_length]

/-- The record of a quote's log entry has 56 bytes. -/
theorem quoteLog_length (log : List (W32 × W384)) :
    ((log.map (fun e => wordBytes e.1 ++ zeros 4 ++ beBytes e.2)).flatten).length = 56 * log.length := by
  induction log with
  | nil => rfl
  | cons e t ih =>
    simp only [List.map_cons, List.flatten_cons, List.length_append, List.length_cons, ih, wordBytes_length, zeros_length, beBytes_length]
    omega

theorem quoteRegisters_length (d : Dev) : (((List.range 8).map (fun n => beBytes (d.mr n))).flatten).length = 384 := by
  simp [List.length_flatten, beBytes_length, Function.comp_def]

theorem quoteBody_length (d : Dev) (nonce : W256) : (d.quoteBody nonce).length = d.quoteLen - 96 := by
  unfold Dev.quoteBody Dev.quoteLen
  simp only [List.length_append, quoteLog_length, quoteRegisters_length, wordBytes_length, zeros_length, beBytes_length, leBytes_length,
    List.length_cons, List.length_nil]
  omega

theorem PickedUp.quoteLen (p : PickedUp h d x) : x.quoteLen = d.quoteLen := by
  unfold Dev.quoteLen
  rw [p.dgst]

theorem PickedUp.quoteBody (p : PickedUp h d x) (nonce : W256) : x.quoteBody nonce = d.quoteBody nonce := by
  have evr : x.evr = d.evr := p.keeps .evr (by decide)
  have now : x.now = d.now := p.keeps .now (by decide)
  have glb : x.glb = d.glb := p.keeps .glb (by decide)
  unfold Dev.quoteBody Dev.opSeconds Dev.self Dev.mr
  rw [evr, now, glb, p.dgst, p.boot]

theorem PickedUp.quote (p : PickedUp h d x) (nonce : W256) : x.quote nonce = d.quote nonce := by
  have free : x.free = d.free := p.keeps .free (by decide)
  unfold Dev.quote
  rw [p.quoteBody, free]

theorem exec_attestQuote (on : Starts 0x23 [7] h s.dev) :
    ∃ x, PickedUp h s.dev x ∧ exec (.attestQuote h nonce a n) s = .next { s with dev := doAttestQuote h nonce a n x } :=
  descriptor_next on rfl _

/-- Settles O18: each command by its checks in their order, then its effect and its answer. -/
theorem measurementAndQuote : Obligations.MeasurementAndQuote := by
  unfold Obligations.MeasurementAndQuote
  refine ⟨fun s h => ⟨?_, ?_, ?_⟩, fun s h nonce a n on => ?_⟩
  · intro slot dom key slot64 low high some_ most on
    obtain ⟨x, p, runs⟩ := exec_hkeyLoad on slot64 low high some_ most
    refine ⟨fun free => ?_, fun k used own => ?_, fun k used foreign => ?_⟩
    · rw [doHkeyLoad_of_free (by rwa [p.ciph])] at runs
      refine ⟨_, runs, p.answered_onCiph _ _ _ _ _, ?_, ?_⟩ <;> rw [complete_ciph]
      · exact tget_tput _ _ _ _
      · rw [putHkey_pages, p.ciph]
    · rw [doHkeyLoad_of_own (by rwa [p.ciph]) own] at runs
      refine ⟨_, runs, p.answered_onCiph _ _ _ _ _, ?_⟩
      rw [complete_ciph]
      exact tget_tput _ _ _ _
    · rw [doHkeyLoad_of_foreign (by rwa [p.ciph]) foreign] at runs
      exact ⟨_, runs, p.answered _ _ _ _, p.complete_ciph _ _ _ _⟩
  · intro slot slot64 on
    obtain ⟨x, p, runs⟩ := exec_hkeyErase on slot64
    refine ⟨fun free => ?_, fun used held => ?_, fun used unheld => ?_⟩
    · rw [doHkeyErase_of_free (by rwa [p.ciph])] at runs
      exact ⟨_, runs, p.answered _ _ _ _, p.complete_ciph _ _ _ _⟩
    · rw [doHkeyErase_of_held (by rwa [p.ciph]) ((p.hkeyHeld slot).trans held)] at runs
      exact ⟨_, runs, p.answered _ _ _ _, p.complete_ciph _ _ _ _⟩
    · rw [doHkeyErase_of_unheld (by rwa [p.ciph]) ((p.hkeyHeld slot).trans unheld)] at runs
      refine ⟨_, runs, p.answered_onCiph _ _ _ _ _, ?_⟩
      rw [complete_ciph]
      exact tget_tdel _ _ _
  · intro reg v reg32 on
    obtain ⟨x, p, runs⟩ := exec_mrExtend (v := v) on reg32
    refine ⟨fun six seven => ?_, fun own => ?_⟩
    · rw [doMrExtend_of_reserved six seven] at runs
      exact ⟨_, runs, p.answered _ _ _ _, (complete_dgst _ _ _ _ _ _).trans p.dgst⟩
    · rw [doMrExtend_of_host own] at runs
      have keeps := extendMr_keeps reg (beBytes v) x
      refine ⟨_, runs, p.answered_after keeps (extendMr_grows _ _ _) (by decide) (by decide) _ _ _ _, ?_, fun n other => ?_⟩ <;>
        rw [mr_of_dgst (complete_dgst _ _ _ _ _ _)]
      · rw [extendMr_mr, mr_of_dgst p.dgst]
      · rw [extendMr_mr_ne other, mr_of_dgst p.dgst]
  · obtain ⟨x, p, runs⟩ := exec_attestQuote (nonce := nonce) (a := a) (n := n) on
    refine ⟨fun no => ?_, fun id short => ?_, fun id room => ?_⟩
    · rw [doAttestQuote_of_unidentified (by rwa [p.boot])] at runs
      exact ⟨_, runs, p.answered _ _ _ _⟩
    · rw [doAttestQuote_of_short (by rwa [p.boot]) (by rwa [p.quoteLen])] at runs
      exact ⟨_, runs, p.answered _ _ _ _⟩
    · rw [doAttestQuote_of_room (by rwa [p.boot]) (by rwa [p.quoteLen]), p.quoteLen] at runs
      obtain ⟨ro, written⟩ := mem_writeQuote nonce a x
      rw [p.quote] at written
      refine ⟨_, runs, ?_, quoteBody_length _ _, ro, (complete_grows _ _ _ _ _ _).mem written⟩
      exact p.answered_after (writeQuote_keeps nonce a x) (writeQuote_grows nonce a x) (by decide) (by decide) _ _ _ _

end Sys2Proof.Machine
end

section
/-! PROOF. The checks of a message from the partner (R147, R280, R281, R282, R311). -/

namespace Sys2Proof.Machine
open Sys2Proof

variable {d : Dev} {s : State} {e : Env} {qp type epoch reason : Nat} {exempt : Bool} {f : Dev → Dev} {c : Instr}

/-! ## A message that is not authentic (R147, R280) -/

/-- A message that does not authenticate, counted. -/
def countBad (d : Dev) : Dev := { d with ih := { d.ih with authFail := d.ih.authFail + 1 } }

theorem tangoIn_of_keyless (keyless : d.ciphOn = false ∨ (d.page 1).state ≠ .ready) : tangoIn qp type exempt epoch e f d = countBad d := by
  have silent : (d.ciphOn && (d.page 1).state == .ready && !e.auth) = false := by
    rcases keyless with off | unready
    · simp [off]
    · simp [unready]
  unfold tangoIn tangoBad
  rw [if_pos (by rcases keyless with off | unready <;> simp [*])]
  dsimp only
  rw [silent, if_neg Bool.false_ne_true]
  rfl

theorem tangoIn_of_forged (on : d.ciphOn = true) (keyed : (d.page 1).state = .ready) (forged : e.auth = false) :
    tangoIn qp type exempt epoch e f d = logEvent 0x0702 1 [0xFFFFFFFF] (countBad d) := by
  unfold tangoIn tangoBad
  rw [if_pos (by simp [forged])]
  dsimp only
  rw [on, keyed, forged, if_pos (by decide)]
  rfl

theorem logEvent_countBad_keeps (c : Nat) (i : W32) (w : List W32) (d : Dev) :
    Keeps [.out, .cat, .hif, .ih, .dma, .evr] d (logEvent c i w (countBad d)) := logEvent_k rfl (upd_ih rfl (.refl _ d))

/-! ## A message that is refused (R282, R311) -/

theorem tangoIn_of_level (on : d.ciphOn = true) (keyed : (d.page 1).state = .ready) (auth : e.auth = true) (above : d.tango.cl < e.level) :
    tangoIn qp type exempt epoch e f d = refuseMsg qp type 2 e.seq (d.noted qp e) := by
  unfold tangoIn
  rw [if_neg (by simp [on, keyed, auth])]
  dsimp only
  rw [if_pos above]
  rfl

theorem checkedIn_of_other (a : Heard e d) (other : e.epoch ≠ d.tango.epoch ∨ e.role ≠ d.role) :
    checkedIn qp type e f d = roleRefuse qp type (if e.epoch ≠ d.tango.epoch then 0 else 1) e.seq (d.noted qp e) := by
  obtain ⟨on, keyed, auth, level⟩ := a
  unfold checkedIn tangoIn
  rw [if_neg (by simp [on, keyed, auth])]
  dsimp only
  rw [if_neg (by omega), if_neg Bool.false_ne_true]
  by_cases same : e.epoch = d.tango.epoch
  · rw [if_neg (fun h => h.1 same), if_pos (other.resolve_left (fun h => h same)), if_neg (fun h => h same)]
    rfl
  · rw [if_pos ⟨same, same⟩, if_pos same]
    rfl

/-- Between `d` and `x` a message is refused: nothing changes but what sending a NAK does, the NAK names this head's epoch and table, which
stay as they are, and it leaves where the head speaks. -/
structure Refuses (type reason : Nat) (seq : W64) (d x : Dev) : Prop where
  keeps : Keeps [.out, .cat, .ciph, .hif, .tango, .dma, .evr] d x
  owners : x.tango.owners = d.tango.owners
  epoch : x.tango.epoch = d.tango.epoch
  sent : Speaks d → Out.nak type seq reason d.tango.epoch d.tango.owners ∈ x.out

theorem refuseMsg_refuses (qp type reason : Nat) (seq : W64) (d : Dev) : Refuses type reason seq d (refuseMsg qp type reason seq d) := by
  obtain ⟨n, posted⟩ := tangoSend_posts qp (.nak type seq reason d.tango.epoch d.tango.owners) d
  refine ⟨tangoSend_keeps qp _ d, (congrArg Tango.owners posted :), (congrArg Tango.epoch posted :), fun v => ?_⟩
  exact mem_tangoSend v rfl (nak_short type reason d.tango.epoch seq d.tango.owners) qp

theorem refuse_noted (qp type reason : Nat) (d : Dev) (e : Env) : Refuses type reason e.seq d (refuseMsg qp type reason e.seq (d.noted qp e)) := by
  obtain ⟨keeps, owners, epoch, sent⟩ := refuseMsg_refuses qp type reason e.seq (d.noted qp e)
  exact ⟨.trans ((noted_keeps qp e d).mono (by simp)) keeps, owners, epoch, fun v => sent (noted_speaks v qp)⟩

/-- The head with a message discarded for its epoch or role. -/
def countDiscard (d : Dev) : Dev := { d with ih := { d.ih with roleDiscard := d.ih.roleDiscard + 1 } }

theorem roleRefuse_refuses (qp type reason : Nat) (d : Dev) (e : Env) :
    Refuses type reason e.seq (countDiscard d) (roleRefuse qp type reason e.seq (d.noted qp e)) :=
  refuse_noted qp type reason (countDiscard d) e

/-! ## The commands -/

/-- A command that runs a message of a type through the checks of R280 to R282, where the pair runs. -/
def Receives (c : Instr) (type : Nat) (e : Env) (s : State) : Prop :=
  ∃ qp exempt epoch f, exec c s = .next { s with dev := when s.dev.pairOn (tangoIn qp type exempt epoch e f) s.dev }

/-- A command that runs a message of a type through the checks of R311 as well. -/
def ReceivesChecked (c : Instr) (type : Nat) (e : Env) (s : State) : Prop :=
  ∃ qp f, exec c s = .next { s with dev := when s.dev.pairOn (checkedIn qp type e f) s.dev }

theorem ReceivesChecked.receives (r : ReceivesChecked c type e s) : Receives c type e s := by
  obtain ⟨qp, f, runs⟩ := r
  exact ⟨qp, false, _, f, runs⟩

namespace Receives

theorem of_pair_off (r : Receives c type e s) (off : s.dev.pairOn = false) : exec c s = .next s := by
  obtain ⟨qp, exempt, epoch, f, runs⟩ := r
  rw [runs, off, when_false]

theorem of_keyless (r : Receives c type e s) (on : s.dev.pairOn = true) (keyless : s.dev.ciphOn = false ∨ (s.dev.page 1).state ≠ .ready) :
    exec c s = .next { s with dev := countBad s.dev } := by
  obtain ⟨qp, exempt, epoch, f, runs⟩ := r
  rw [runs, on, when_true, tangoIn_of_keyless keyless]

theorem of_forged (r : Receives c type e s) (on : s.dev.pairOn = true) (ciph : s.dev.ciphOn = true) (keyed : (s.dev.page 1).state = .ready)
    (forged : e.auth = false) : exec c s = .next { s with dev := logEvent 0x0702 1 [0xFFFFFFFF] (countBad s.dev) } := by
  obtain ⟨qp, exempt, epoch, f, runs⟩ := r
  rw [runs, on, when_true, tangoIn_of_forged ciph keyed forged]

theorem of_level (r : Receives c type e s) (on : s.dev.pairOn = true) (ciph : s.dev.ciphOn = true) (keyed : (s.dev.page 1).state = .ready)
    (auth : e.auth = true) (above : s.dev.tango.cl < e.level) :
    ∃ x, exec c s = .next { s with dev := x } ∧ Refuses type 2 e.seq s.dev x := by
  obtain ⟨qp, exempt, epoch, f, runs⟩ := r
  rw [on, when_true, tangoIn_of_level ciph keyed auth above] at runs
  exact ⟨_, runs, refuse_noted qp type 2 s.dev e⟩

end Receives

theorem ReceivesChecked.of_other (r : ReceivesChecked c type e s) (on : s.dev.pairOn = true) (a : Heard e s.dev)
    (other : e.epoch ≠ s.dev.tango.epoch ∨ e.role ≠ s.dev.role) : ∃ x, exec c s = .next { s with dev := x } ∧
      Refuses type (if e.epoch ≠ s.dev.tango.epoch then 0 else 1) e.seq (countDiscard s.dev) x := by
  obtain ⟨qp, f, runs⟩ := r
  rw [on, when_true, checkedIn_of_other a other] at runs
  exact ⟨_, runs, roleRefuse_refuses qp type _ s.dev e⟩

/-- Settles O49: every message runs through the same checks, and each check that fails answers alike for all of them. -/
theorem pairMessageChecks : Obligations.PairMessageChecks := by
  unfold Obligations.PairMessageChecks
  intro s e l o b r st ok n m k t ents w f g q tr gs hd sl cm c ck
  have checked : ∀ p ∈ [(Instr.linkInfo e l, 0x08), (.frozen e n t, 0x29), (.mirrorRec e r st ok, 0x48), (.claimVerdict e n m k ok, 0x34),
      (.ckptDone e n c, 0x38), (.ledger e ents, 0x11), (.healDone e w g n f hd sl, 0x41), (.takePart e q w f n m, 0x30),
      (.takePartAck e n m k, 0x31), (.triggerFwd e tr n m, 0x32), (.handoverReady e gs, 0x23), (.handoverDone e cm, 0x25)],
      ReceivesChecked p.1 p.2 e s := by
    simp only [List.forall_mem_cons, List.not_mem_nil, false_imp_iff, implies_true, and_true]
    exact ⟨⟨0, _, rfl⟩, ⟨0, _, rfl⟩, ⟨2, _, rfl⟩, ⟨0, _, rfl⟩, ⟨3, _, rfl⟩, ⟨1, _, rfl⟩, ⟨4, _, rfl⟩, ⟨0, _, rfl⟩, ⟨0, _, rfl⟩, ⟨0, _, rfl⟩,
      ⟨0, _, rfl⟩, ⟨0, _, rfl⟩⟩
  have exempt : ∀ p ∈ [(Instr.heartbeat e b, 0x10), (.ownerTable e o, 0x20), (.ownerAck e o, 0x21), (.leaving e n t, 0x28),
      (.nak e ck n o, 0x7F)], Receives p.1 p.2 e s := by
    simp only [List.forall_mem_cons, List.not_mem_nil, false_imp_iff, implies_true, and_true]
    exact ⟨⟨1, true, 0, _, rfl⟩, ⟨0, true, 0, _, rfl⟩, ⟨0, true, 0, _, rfl⟩, ⟨0, true, 0, _, rfl⟩, ⟨0, true, 0, _, rfl⟩⟩
  refine ⟨fun p hp => ?_, fun p hp on a other => ?_⟩
  · have receives : Receives p.1 p.2 e s :=
      (List.forall_mem_append (p := fun p => Receives p.1 p.2 e s)).mpr ⟨fun p hp => (checked p hp).receives, exempt⟩ p hp
    refine ⟨receives.of_pair_off, fun on => ⟨receives.of_keyless on, fun ciph keyed forged => ?_, fun ciph keyed auth above => ?_⟩⟩
    · exact ⟨_, receives.of_forged on ciph keyed forged, logEvent_countBad_keeps _ _ _ _, logEvent_keeps _ _ _ _ .ih (by decide),
        logEvent_recorded _ _ _ (countBad s.dev)⟩
    · obtain ⟨x, runs, refuses⟩ := receives.of_level on ciph keyed auth above
      exact ⟨x, runs, refuses.keeps, refuses.owners, refuses.epoch, refuses.sent⟩
  · obtain ⟨x, runs, refuses⟩ := (checked p hp).of_other on a other
    refine ⟨x, runs, ?_, refuses.keeps .ih (by decide), refuses.owners, refuses.epoch, refuses.sent⟩
    exact .trans (upd_ih rfl (.refl _ s.dev)) (refuses.keeps.mono (by simp))

end Sys2Proof.Machine
end

section
/-! PROOF. Right after reset (R131, R462, R463, R468). -/

namespace Sys2Proof.Machine
open Sys2Proof

/-- No page has been touched: those of the host are FREE. -/
theorem reset_page_free {p : Nat} (host : 2 ≤ p) : (State.reset.dev.page p).state = .free := by
  change (Page.reset p).state = .free
  unfold Page.reset
  exact if_neg (by omega)

theorem reset_ledger (g : Fin 4) : State.reset.dev.lg.at g = Ledger.reset := by
  match g with
  | ⟨0, _⟩ => rfl
  | ⟨1, _⟩ => rfl
  | ⟨2, _⟩ => rfl
  | ⟨3, _⟩ => rfl

theorem reset_inv : State.reset.Inv := rfl

/-- Settles O3: each field as the reset state gives it, the pages and the ledgers by their own lemmas. -/
theorem resetState : Obligations.ResetState := by
  unfold Obligations.ResetState
  refine ⟨⟨rfl, rfl, rfl, rfl, rfl, rfl, rfl, rfl, rfl, rfl, rfl, rfl, rfl, fun p host _ => reset_page_free host, fun g => ?_, rfl, rfl, rfl, rfl,
    rfl, rfl⟩, reset_inv⟩
  rw [reset_ledger]
  exact ⟨rfl, rfl⟩

end Sys2Proof.Machine
end

section
/-! PROOF. A NOTIFY takes the answer of KEY_LOAD (R138, R267): the key's counter is near its end, so loading it raises an event, and the event's
NOTIFY is completed first, under the channel and tag that both share. -/

namespace Sys2Proof.Machine
open Sys2Proof

/-- A head with page 2 ASSIGNED and a NOTIFY of every severity, of the channel and tag of the coming KEY_LOAD, with no outstanding descriptor
of its own: no hypothesis of the statement rules it out. -/
def notifiedHead : State :=
  let d := waitingHead [] Group.reset
  { pending := [], hbm := []
    dev := { d with ciph := { d.ciph with pages := [(2, { Page.reset 2 with state := .assigned, domain := 1 })] }
                    hif := { d.hif with notifies := [(hdrAt 0 5, 0)] } } }

theorem leaves_notifiedHead : ∃ r0 r1 ph, leaves (.keyLoad (hdrAt 0 0) 2 [] 0 ctrLow) notifiedHead = [.completion 0 9 5 0 0x04 r0 r1 0 ph] :=
  ⟨_, _, _, rfl⟩

/-- Refutes O17: KEY_LOAD of a counter in its last range logs CIPH_NONCE_LOW before it is answered. The NOTIFY that waits for events writes its
entry under the channel and tag that it shares with KEY_LOAD: KEY_LOAD's descriptor is gone, and no entry gives opcode 0x09. -/
theorem not_pageLife : ¬ Obligations.PageLife := by
  unfold Obligations.PageLife
  intro claim
  obtain ⟨-, load, -⟩ := claim.1 notifiedHead (hdrAt 0 0) 2 (by decide) rfl rfl
  obtain ⟨-, -, assigned⟩ := load [] 0 ctrLow (by decide)
  obtain ⟨d, runs, answered, -⟩ := (assigned (by decide) rfl).2 (.inl (by decide))
  obtain ⟨ph, entry⟩ := answered.mem
  obtain ⟨r0, r1, ph', out⟩ := leaves_notifiedHead
  rw [← leaves_of_exec runs, out] at entry
  exact absurd entry (by simp [hdrAt])

end Sys2Proof.Machine
end

section
/-! PROOF. A refused TAKE_OPEN changes a take of another channel (R261, R271): a completion lets the destruction of a channel go through of which
nothing is left, and its closed takes lose their channel with it. -/

namespace Sys2Proof.Machine
open Sys2Proof

/-- A CLOSED take of channel 2. -/
def closedTake : Take :=
  { volume := 1, id := 1, layout := 1, state := .closed_, groups := 1, chan := some 2, domain := 0, page := 255, kcv := 0, hkey := 0,
    dedup := false, start := none, limitFrame := none, openGsn := [], begun := 0, ended := 0, endAt := [], stage := 6, parts := [],
    pending := [], openTime := 0, closeTime := 0, reason := 0, reel := none, closeHdr := none, addenda := [], lossDue := [],
    replica := false, told := true, away := false, adopted := false, undone := false, erased := false }

/-- A head on which channel 2 is being destroyed and has nothing outstanding and no take left to close, so that the next completion ends its
destruction: no hypothesis of the statement rules it out. -/
def dyingChannel : State :=
  let d := waitingHead [] Group.reset
  { pending := [], hbm := []
    dev := { d with cat := { d.cat with takes := [closedTake] }
                    hif := { d.hif with chans := d.hif.chans ++ [(2, ingestChan)], dying := [(2, none)] } } }

/-- A TAKE_OPEN that names no group. -/
def groupless : OpenReq :=
  { volume := 1, groups := 0, reel := false, page := 255, hkey := 0, dedup := false, startFrame := none, openTime := 0, ringN := 0,
    segLimit := 0, preNs := 0, postNs := 0 }

/-- The takes that a command leaves. -/
def takesAfter (c : Instr) (s : State) : List Take :=
  match exec c s with
  | .next t => t.dev.cat.takes
  | _ => []

theorem takesAfter_of_exec {c : Instr} {s : State} {d : Dev} (runs : exec c s = .next { s with dev := d }) :
    takesAfter c s = d.cat.takes := by
  unfold takesAfter
  rw [runs]

theorem takesAfter_dyingChannel :
    takesAfter (.takeOpen (hdrAt 1 0) groupless) dyingChannel = [{ closedTake with chan := none }] := rfl

/-- Refutes O40: a TAKE_OPEN that names no group is answered INVALID_FIELD. Its completion lets the destruction of channel 2 go through, so the
take of that channel loses its channel, and the takes are not as they were. -/
theorem not_takeLife : ¬ Obligations.TakeLife := by
  unfold Obligations.TakeLife
  intro claim
  obtain ⟨d, runs, -, kept⟩ := (claim.1 dyingChannel (hdrAt 1 0) groupless (by decide) rfl).1 rfl
  rw [← takesAfter_of_exec runs, takesAfter_dyingChannel] at kept
  exact absurd kept (by decide)

end Sys2Proof.Machine
end

section
/-! PROOF. A HANDOVER that gives takes its first step at once where its standby rings are free (R305, step 1). -/

namespace Sys2Proof.Machine
open Sys2Proof

/-- The planned handover that a command leaves. -/
def handAfter (c : Instr) (s : State) : Option Hand :=
  match exec c s with
  | .next t => t.dev.tango.hand
  | _ => none

theorem handAfter_of_exec {c : Instr} {s : State} {d : Dev} (runs : exec c s = .next { s with dev := d }) :
    handAfter c s = d.tango.hand := by
  unfold handAfter
  rw [runs]

/-- A heartbeat of a partner that stands by. -/
def standbyBeat : Beat :=
  { state := 2, level := 1, owners := .all 0, mirrorAcked := 0, ckptSeq := 0, commitGsn := .all 0, nextGsn := .all 0, stop := .all 0,
    time := 0 }

/-- A head that owns every group, in a session with a partner that stands by and receives group 0 too; no stripe buffer is in use. -/
def givingHead : State :=
  let d := waitingHead [] Group.reset
  { pending := [], hbm := []
    dev := { d with tango := { d.tango with session := true, state := 3, owners := .all 0, beat := some standbyBeat, paired := 1 } } }

theorem handAfter_givingHead : handAfter (.handover (hdrAt 0 0) 1 0) givingHead = some (.start 1 true (some (hdrAt 0 0)) 1) := rfl

/-- Refutes O22: a HANDOVER that gives group 0 may go ahead, and no buffer lies where the standby rings are to be. The rings are formed in the
same command and HANDOVER_REQ goes out, so the handover stands at stage 1 after it, not at stage 0. -/
theorem not_handoverAndShutdown : ¬ Obligations.HandoverAndShutdown := by
  unfold Obligations.HandoverAndShutdown
  intro claim
  obtain ⟨-, gives, -⟩ := claim.1 givingHead (hdrAt 0 0) 1 (by decide) (by decide)
  obtain ⟨d, runs, hand⟩ := (gives (by decide)).2 (by decide)
  rw [← handAfter_of_exec runs, handAfter_givingHead] at hand
  exact absurd hand (by decide)

end Sys2Proof.Machine
end

section
/-! PROOF. A drive that fails admission at 32 GT/s raises two events (R170, R172): the slow port takes the first sequence number. -/

namespace Sys2Proof.Machine
open Sys2Proof

/-- The codes and sequence numbers of the records that a command leaves in the event ring. -/
def recordsAfter (c : Instr) (s : State) : List (Nat × Nat) :=
  match exec c s with
  | .next t => t.dev.evr.ring.map (fun r => (r.code, r.seq.toNat))
  | _ => []

theorem recordsAfter_of_exec {c : Instr} {s : State} {d : Dev} (runs : exec c s = .next { s with dev := d }) :
    recordsAfter c s = d.evr.ring.map (fun r => (r.code, r.seq.toNat)) := by
  unfold recordsAfter
  rw [runs]

/-- A layout that names slot 0 alone. -/
def slotLayout : LayoutRec :=
  { layoutId := 1, kind := 0, width := 16, drives := 18, flags := 0, driveMask := 1, baseLba := 65536, periods := 4, spares := 0,
    table := [] }

/-- A head with a MAINT channel of that layout at 1, and with no drive at slot 0, whose port is on. -/
def emptySlot : State :=
  let d := waitingHead [] Group.reset
  { pending := [], hbm := []
    dev := { d with hif := { d.hif with chans := [(0, Chan.admin), (1, { Chan.admin with ctype := 5, layout := 1 })] }
                    vault := { d.vault with layouts := [slotLayout], drives := [(0, { Drive.none_ with portOn := true })] } } }

/-- A drive that has trained at 32 GT/s and gives no namespace. -/
def slowDrive : DriveInfo :=
  { slot := 0, linked := true, rateGT := 32, lanes := 2, nsId := 0, lbaFormat := true, piType2 := true, mdts := 262144, queues := 4,
    durable := true, plpRate := true, nsSectors := 0, nvme := 0, sys := [] }

theorem recordsAfter_emptySlot : recordsAfter (.driveAdmit (hdrAt 1 0) 0 slowDrive) emptySlot = [(0x0407, 0), (0x040B, 1)] := by decide

/-- Refutes O37: a drive at 32 GT/s fails row 1. The slow port is logged first and takes the sequence number that was next; the record of the
failed admission has the one after it. -/
theorem not_driveLife : ¬ Obligations.DriveLife := by
  unfold Obligations.DriveLife
  intro claim
  obtain ⟨answers, -⟩ := claim.1 emptySlot (hdrAt 1 0) 0 slowDrive (by decide) rfl
  obtain ⟨-, -, absent⟩ := answers (by decide)
  obtain ⟨-, links⟩ := absent (by decide)
  obtain ⟨fails, -⟩ := links (by decide) (by decide)
  obtain ⟨d, runs, -, -, recorded⟩ := fails 1 (by decide)
  obtain ⟨r, mem, code, -, seq⟩ := recorded (by decide)
  have left : (r.code, r.seq.toNat) ∈ recordsAfter (.driveAdmit (hdrAt 1 0) 0 slowDrive) emptySlot :=
    recordsAfter_of_exec runs ▸ List.mem_map_of_mem mem
  rw [recordsAfter_emptySlot, code, seq] at left
  exact absurd left (by decide)

end Sys2Proof.Machine
end

section
/-! PROOF. A RESHAPE that ends while its channel is being destroyed (R271): its entry tells of the destruction, or none is written. -/

namespace Sys2Proof.Machine
open Sys2Proof

/-- A native layout of 18 drives by its number. -/
def nativeLayout (id : Nat) : LayoutRec :=
  { layoutId := id, kind := 0, width := 16, drives := 18, flags := 0, driveMask := 0, baseLba := 65536, periods := 4, spares := 0,
    table := [] }

/-- A reshape side by side that has moved every take. -/
def doneReshape : Reshape :=
  { h := hdrAt 1 0, volume := 1, source := 1, target := 2, moving := false, moved := 3, map := [], freed := [] }

/-- A head whose reshape has nothing left to move, on a MAINT channel that is being destroyed. -/
def dyingReshape : State :=
  let d := waitingHead [] Group.reset
  { pending := [], hbm := []
    dev := { d with hif := { d.hif with chans := [(0, Chan.admin),
                                                  (1, { Chan.admin with ctype := 5, descs := [descOf (hdrAt 1 0) 0x81 true] })]
                                        dying := [(1, some (hdrAt 0 5))] }
                    vault := { d.vault with layouts := [nativeLayout 1, nativeLayout 2], reshape := some doneReshape } } }

theorem leaves_dyingReshape : leaves (.reshapeBatch []) dyingReshape =
    [.completion 1 9 0 3 0x81 3 0 0 true, .completion 0 9 5 0 0x02 0 0 0 true] := by decide

/-- Refutes O38: the last step of a reshape ends it, and its entry is due. Its channel is being destroyed, so the entry's status is
FLUSHED_BY_DESTROY, not OK. -/
theorem not_maintenanceWork : ¬ Obligations.MaintenanceWork := by
  unfold Obligations.MaintenanceWork
  intro claim
  obtain ⟨-, -, -, -, steps⟩ := claim dyingReshape (by decide)
  obtain ⟨-, side⟩ := steps [] doneReshape rfl (by decide) (by decide) (by decide) (by decide)
  obtain ⟨-, ends⟩ := side (nativeLayout 1) (nativeLayout 2) rfl (by decide) (by decide)
  obtain ⟨d, runs, -, answered⟩ := ends (by decide)
  obtain ⟨ph, entry⟩ := answered.mem
  rw [← leaves_of_exec runs, leaves_dyingReshape] at entry
  exact absurd entry (by simp [doneReshape, hdrAt])

end Sys2Proof.Machine
end

section
/-! PROOF. SCRUB_CTL answers the pass that it stops before itself (R198, R261, R271), and that entry lets a destruction go through. -/

namespace Sys2Proof.Machine
open Sys2Proof

/-- A head that scrubs for an older SCRUB_CTL of MAINT channel 1, and on which channel 2 is being destroyed, with nothing of it left, by a
CHANNEL_DESTROY of the channel and tag of the coming SCRUB_CTL. -/
def scrubbedOver : State :=
  let d := waitingHead [] Group.reset
  let older : Hdr := { hdrAt 1 4 with tag := 8 }
  { pending := [], hbm := []
    dev := { d with hif := { d.hif with chans := [(0, Chan.admin), (1, { Chan.admin with ctype := 5, descs := [descOf older 0x80 true] }),
                                                  (2, ingestChan)]
                                        dying := [(2, some (hdrAt 1 5))] }
                    vault := { d.vault with scrubJob := some older } } }

theorem leaves_scrubbedOver : leaves (.scrubCtl (hdrAt 1 0) 0) scrubbedOver =
    [.completion 1 8 4 0 0x80 0 0 0 true, .completion 1 9 5 0 0x02 0 0 0 true] := by decide

/-- Refutes O39: SCRUB_CTL stops a pass, whose own SCRUB_CTL is answered first. That entry lets the destruction of channel 2 end, and its
CHANNEL_DESTROY writes its entry under the channel and tag that it shares with the SCRUB_CTL in hand: that descriptor is gone. -/
theorem not_maintDescriptors : ¬ Obligations.MaintDescriptors := by
  unfold Obligations.MaintDescriptors
  intro claim
  obtain ⟨stops, -⟩ := claim.1 scrubbedOver (hdrAt 1 0) (by decide)
  obtain ⟨d, runs, answered, -⟩ := stops (fun x is => .inr (by obtain rfl := Option.some.inj is; decide))
  obtain ⟨ph, entry⟩ := answered.mem
  rw [← leaves_of_exec runs, leaves_scrubbedOver] at entry
  exact absurd entry (by simp [hdrAt])

end Sys2Proof.Machine
end

section
/-! PROOF. A snapshot whose metadata commit warns of a key (R134, R263): the commit claims a period, the claim's record goes to the partner
under the session's key, and the warning that the key is near its end completes a NOTIFY that shares the snapshot's channel and tag. -/

namespace Sys2Proof.Machine
open Sys2Proof

variable {d e : Dev} {h : Hdr} {op : Byte} {st : Nat} {r0 r1 : W64}

/-- An entry that gives an opcode. -/
def givesOp (op : Byte) : Out → Bool
  | .completion _ _ _ _ o _ _ _ _ => o == op
  | _ => false

/-- An answer is an entry that gives the command's opcode. -/
theorem Answered.any_givesOp (a : Answered op h st r0 r1 d e) : e.out.any (givesOp op) = true := by
  obtain ⟨ph, entry⟩ := a.mem
  exact List.any_eq_true.mpr ⟨_, entry, beq_self_eq_true op⟩

/-- The session's key, with its counter where R134 warns. -/
def spentPage : Page := { Page.reset 0 with state := .ready, ctr := ctrLow }

/-- A native layout of 18 drives, with none of its periods claimed. -/
def unclaimedLayout : LayoutRec := { nativeLayout 1 with driveMask := 0x3FFFF }

/-- An OPEN take of channel 1, with nothing written. -/
def emptyTake : Take := { closedTake with state := .open_, chan := some 1 }

/-- A volume on that layout. -/
def snapVolume1 : Volume := { id := 1, layout := 1, encrypted := false, dedup := false, kcv := 0, dkcv := 0, ctrA := 1, ctrB := 1 }

/-- A head that runs alone in a session whose key is near its end, with 18 healthy drives, a volume and an open take, and a NOTIFY with the
tag of the coming command on channel `c`. -/
def spentKey (c : Nat) : State :=
  let d := waitingHead [] Group.reset
  { pending := [], hbm := []
    dev := { d with tango := { d.tango with session := true, owners := .all 0 }
                    ciph := { d.ciph with pages := [(0, spentPage)] }
                    hif := { d.hif with notifies := [(hdrAt c 5, 0)] }
                    vault := { d.vault with layouts := [unclaimedLayout]
                                            drives := (List.range 18).map (·, { Drive.none_ with state := .healthy, linked := true }) }
                    cat := { d.cat with volumes := [snapVolume1], takes := [emptyTake] } } }

theorem snapVolume_unanswered : (leaves (.snapVolume (hdrAt 0 0) 1) (spentKey 0)).any (givesOp 0x14) = false := by decide +kernel

theorem snapTake_unanswered : (leaves (.snapTake (hdrAt 1 0) 1) (spentKey 1)).any (givesOp 0x45) = false := by decide +kernel

/-- Refutes O19: SNAP_VOLUME of a volume joins a metadata commit, which claims the first period. The record of the claim goes to the partner,
the key warns, and the NOTIFY that waits for the warning takes the descriptor: no entry gives opcode 0x14. -/
theorem not_volumesAndCatalogue : ¬ Obligations.VolumesAndCatalogue := by
  unfold Obligations.VolumesAndCatalogue
  intro claim
  obtain ⟨-, -, snaps, -⟩ := claim
  obtain ⟨-, -, snap⟩ := snaps (spentKey 0) (hdrAt 0 0) 1 (by decide)
  obtain ⟨d, runs, answered, -⟩ := snap rfl (by decide)
  have entry := answered.any_givesOp
  rw [← leaves_of_exec runs, snapVolume_unanswered] at entry
  exact Bool.false_ne_true entry

/-- Refutes O41: SNAP_TAKE of an open take joins a metadata commit, as SNAP_VOLUME does, and loses its descriptor the same way: no entry gives
opcode 0x45. -/
theorem not_snapAndRead : ¬ Obligations.SnapAndRead := by
  unfold Obligations.SnapAndRead
  intro claim
  obtain ⟨-, takes⟩ := claim.1 (spentKey 1) (hdrAt 1 0) 1 (by decide)
  obtain ⟨-, -, opens⟩ := takes emptyTake rfl (fun _ => rfl)
  obtain ⟨-, snap⟩ := opens rfl
  obtain ⟨d, runs, answered, -⟩ := snap (by decide)
  have entry := answered.any_givesOp
  rw [← leaves_of_exec runs, snapTake_unanswered] at entry
  exact Bool.false_ne_true entry

end Sys2Proof.Machine
end

section
/-! PROOF. A failed drive's own record can be lost in one command (R199, R212, R403): every open entry that waits on the drive and finds no spare
chunk raises SPARE_EXHAUSTED, and the event ring keeps the newest 8,192 records. -/

namespace Sys2Proof.Machine
open Sys2Proof

variable {d e : Dev} {j k n : Nat} {l : LayoutRec}

theorem newest_singleton (r : EvRec) : newest [r] = [r] := by
  unfold newest
  rw [List.length_singleton, show 1 - 8192 = 0 by omega, List.drop_zero]

/-! ## A layout that names no drive -/

theorem healthyIn_of_bare (bare : l.driveMask = 0) (d : Dev) : d.healthyIn l = 0 := by
  unfold Dev.healthyIn LayoutRec.has
  simp [bare]

theorem spareFor_of_bare (bare : l.driveMask = 0) (d : Dev) (s k : Nat) : d.spareFor l s k = none := by
  unfold Dev.spareFor Dev.remapTarget LayoutRec.has
  simp [bare, argMin]

theorem remapMember_of_bare (bare : l.driveMask = 0) (s k : Nat) (d : Dev) : remapMember l s k d = none := by
  unfold remapMember
  rw [spareFor_of_bare bare, Option.map_none, ite_self]

theorem reseal_of_bare (bare : l.driveMask = 0) (o : OpenEnt) (sb : StripeBuf) (d : Dev) : reseal l o sb d = none := by
  unfold reseal allocStripe
  rw [if_pos (.inl (by rw [healthyIn_of_bare bare]; decide))]

/-! ## Open entries that can neither be remapped nor sealed again -/

theorem openEnt_onOpen (f : OpenEnt → OpenEnt) (keeps : ∀ o, (f o).jseq = o.jseq) (d : Dev) :
    (onOpen j f d).openEnt j = (d.openEnt j).map f := by
  have same : ((fun o : OpenEnt => o.jseq == j) ∘ fun o => if o.jseq = j then f o else o) = fun o => o.jseq == j := by
    funext o
    simp only [Function.comp_apply]
    split
    · rw [keeps]
    · rfl
  unfold Dev.openEnt
  change (d.vault.opened.map _).find? _ = _
  rw [List.find?_map, same]
  cases found : d.vault.opened.find? (fun o => o.jseq == j) with
  | none => rfl
  | some o => exact congrArg some (if_pos (by simpa using List.find?_some found))

/-- The open entries of `j` lie in a layout that names no drive, and every event is recorded. -/
structure Stranded (j : Nat) (l : LayoutRec) (d : Dev) : Prop where
  opened : ∃ o, d.openEnt j = some o ∧ d.layout o.buf.layout = some l
  bare : l.driveMask = 0
  notifies : d.hif.notifies = []
  buckets : d.evr.buckets = []

/-- An entry in a layout that names no drive is left where it is, to be sealed again. -/
theorem rewriteMember_of_bare {o : OpenEnt} (opened : d.openEnt j = some o) (lies : d.layout o.buf.layout = some l) (bare : l.driveMask = 0)
    (k : Nat) : ∃ slot, rewriteMember j k d = sealAgain j (spareOut slot l.layoutId d) := by
  unfold rewriteMember
  rw [opened]
  dsimp only
  rw [lies]
  dsimp only
  rw [remapMember_of_bare bare]
  exact ⟨_, rfl⟩

theorem sealAgain_of_bare {o : OpenEnt} (opened : d.openEnt j = some o) (lies : d.layout o.buf.layout = some l) (bare : l.driveMask = 0) :
    sealAgain j d = onOpen j (fun x => { x with again := true }) d := by
  unfold sealAgain
  rw [opened]
  dsimp only
  rw [lies, Option.bind_some, reseal_of_bare bare, Option.getD_none]

namespace Stranded

theorem spareOut (h : Stranded j l d) (slot layout : Nat) : Stranded j l (spareOut slot layout d) ∧
    ∃ r, (spareOut slot layout d).evr.ring = ringPush r d.evr.ring ∧ r.code = 0x0406 := by
  obtain ⟨v, r, logs, ring, buckets, code⟩ := logEvent_of_free (d := onVault (fun v => { v with spareOut := true }) d) h.buckets
    h.notifies 0x0406 (BitVec.ofNat 32 slot) [BitVec.ofNat 32 layout]
  unfold Machine.spareOut
  rw [logs]
  exact ⟨⟨h.opened, h.bare, h.notifies, buckets⟩, r, ring, code⟩

theorem sealAgain (h : Stranded j l d) : Stranded j l (sealAgain j d) ∧ (sealAgain j d).evr = d.evr := by
  obtain ⟨o, opened, lies⟩ := h.opened
  rw [sealAgain_of_bare opened lies h.bare]
  have marked := openEnt_onOpen (j := j) (fun x => { x with again := true }) (fun _ => rfl) d
  rw [opened, Option.map_some] at marked
  exact ⟨⟨⟨_, marked, lies⟩, h.bare, h.notifies, h.buckets⟩, rfl⟩

/-- An entry that is left where it is raises SPARE_EXHAUSTED. -/
theorem rewriteMember (h : Stranded j l d) (k : Nat) : Stranded j l (rewriteMember j k d) ∧
    ∃ r, (rewriteMember j k d).evr.ring = ringPush r d.evr.ring ∧ r.code = 0x0406 := by
  obtain ⟨o, opened, lies⟩ := h.opened
  obtain ⟨slot, rewrites⟩ := rewriteMember_of_bare opened lies h.bare k
  obtain ⟨raised, r, ring, code⟩ := h.spareOut slot l.layoutId
  obtain ⟨left, evr⟩ := raised.sealAgain
  rw [rewrites]
  exact ⟨left, r, evr ▸ ring, code⟩

/-- Each of them raises one. -/
theorem foldl_rewriteMember (h : Stranded j l d) (n : Nat) : ∃ rs : List EvRec, rs.length = n ∧ (∀ r ∈ rs, r.code = 0x0406) ∧
    ((List.replicate n (j, k)).foldl (fun x jk => Machine.rewriteMember jk.1 jk.2 x) d).evr.ring =
      rs.foldl (fun x r => ringPush r x) d.evr.ring := by
  induction n generalizing d with
  | zero => exact ⟨[], rfl, fun _ no => absurd no List.not_mem_nil, rfl⟩
  | succ n ih =>
    obtain ⟨after, r, ring, code⟩ := h.rewriteMember k
    obtain ⟨rs, length, codes, ring'⟩ := ih after
    refine ⟨r :: rs, congrArg (· + 1) length, List.forall_mem_cons.mpr ⟨code, codes⟩, ?_⟩
    rw [List.replicate_succ, List.foldl_cons, ring', ring, List.foldl_cons]

end Stranded

/-! ## A drive that fails -/

/-- The writes that wait on a slot, in the order of the open entries. -/
def waitsOn (d : Dev) (slot : Nat) : List (Nat × Nat) :=
  (d.vault.opened.map (fun o => (waitingOn d slot o).map (fun k => (o.jseq, k)))).flatten

theorem dropReplace_of_none {slot : Nat} (stays : tget d.vault.replaces slot = none) : dropReplace slot d = d := by
  unfold dropReplace
  rw [stays]

theorem tangoSend_of_silent {qp : Nat} {o : Out} (silent : d.tango.session = false) : tangoSend qp o d = d := by
  unfold tangoSend
  rw [silent, Bool.false_and, if_neg Bool.false_ne_true]

/-- The head after the record of a failed drive and its notice to the partner. -/
def driveNoticed (slot : Nat) (status : Option W32) (d : Dev) : Dev :=
  tangoSend 0 (.driveNotice slot 1) (drawn (drawn (logEvent 0x0402 (BitVec.ofNat 32 slot)
    [Config.free32 d.free, status.getD (Config.free32 (d.free + 1))]
    (dropReplace slot (onDrive slot (fun x => { x with state := .failed, held := [] }) d)))))

/-- A drive that fails has its record, and then each write that waits on it is written elsewhere. -/
theorem failDrive_of_present {slot : Nat} (present : ((d.drive slot).state == .absent || (d.drive slot).state == .failed) = false)
    (status : Option W32) : failDrive slot status d =
      (waitsOn (driveNoticed slot status d) slot).foldl (fun x jk => rewriteMember jk.1 jk.2 x)
        (onVault (fun v => { v with rebuildPos := [] }) (driveNoticed slot status d)) := by
  unfold failDrive
  rw [if_neg (by rw [present]; exact Bool.false_ne_true)]
  rfl

/-! ## A drive that 8,192 stripes wait on -/

/-- A layout of two members and no table: each of its members is taken to lie at slot 0. -/
def bareLayout : LayoutRec :=
  { layoutId := 1, kind := 0, width := 0, drives := 18, flags := 0, driveMask := 0, baseLba := 65536, periods := 4, spares := 0,
    table := [] }

/-- An open entry of that layout, with its member 1 to come. -/
def waitingEnt : OpenEnt :=
  { jseq := 1, order := 0, buf := StripeBuf.fresh 1 0 1 1 0 0 0 (0, 0) 0, remapMask := 0, done := 1, acked := true, waitHand := false,
    again := false, state := none }

/-- A head with drive 0 healthy, `n` open entries that wait on it, and no rate limit on its events. -/
def floodedDrive (n : Nat) : Dev :=
  let d := waitingHead [] Group.reset
  { d with evr := { d.evr with buckets := [] }
           vault := { d.vault with layouts := [bareLayout], drives := [(0, { Drive.none_ with state := .healthy, linked := true })]
                                   opened := List.replicate n waitingEnt } }

theorem floodedDrive_state (n : Nat) : ((floodedDrive n).drive 0).state = .healthy := rfl

theorem waitsOn_of_replicate (opened : e.vault.opened = List.replicate n waitingEnt) (layouts : e.vault.layouts = [bareLayout])
    (remaps : e.vault.remaps = []) (moving : e.vault.moving = []) : waitsOn e 0 = List.replicate n (1, 1) := by
  have one : waitingOn e 0 waitingEnt = [1] := by
    unfold waitingOn Dev.layout Dev.memberAt Dev.memberChunk Dev.remapOf Dev.relocOf
    rw [layouts, remaps, moving]
    decide
  unfold waitsOn
  rw [opened, List.map_replicate, one]
  exact List.flatten_replicate_singleton

/-- The head after the record of its failed drive. -/
def driveLogged (n : Nat) (v : Evr) : Dev :=
  drawn (drawn { onDrive 0 (fun x => { x with state := .failed, held := [] }) (floodedDrive n) with evr := v })

theorem driveNoticed_floodedDrive (n : Nat) :
    ∃ v r, driveNoticed 0 none (floodedDrive n) = driveLogged n v ∧ v.ring = [r] ∧ v.buckets = [] := by
  obtain ⟨v, r, logs, ring, buckets, -⟩ := logEvent_of_free
    (d := onDrive 0 (fun x => { x with state := .failed, held := [] }) (floodedDrive n)) rfl rfl 0x0402 (BitVec.ofNat 32 0)
    [Config.free32 (floodedDrive n).free, (none : Option W32).getD (Config.free32 ((floodedDrive n).free + 1))]
  refine ⟨v, r, ?_, ring, buckets⟩
  unfold driveNoticed
  rw [dropReplace_of_none rfl, logs, tangoSend_of_silent rfl]
  rfl

theorem driveLogged_stranded {v : Evr} (some_ : 0 < n) (buckets : v.buckets = []) :
    Stranded 1 bareLayout (onVault (fun v => { v with rebuildPos := [] }) (driveLogged n v)) where
  opened := by
    refine ⟨waitingEnt, ?_, rfl⟩
    obtain ⟨m, rfl⟩ : ∃ m, n = m + 1 := ⟨n - 1, by omega⟩
    change (List.replicate (m + 1) waitingEnt).find? _ = _
    rw [List.replicate_succ, List.find?_cons_of_pos (by decide)]
  bare := rfl
  notifies := rfl
  buckets := buckets

/-- Every record that the head is left with is of the flood. -/
theorem floodedDrive_events (many : 8192 ≤ n) : ∀ r ∈ (failDrive 0 none (floodedDrive n)).evr.ring, r.code = 0x0406 := by
  obtain ⟨v, r, notices, ring, buckets⟩ := driveNoticed_floodedDrive n
  obtain ⟨rs, length, codes, left⟩ := (driveLogged_stranded (n := n) (by omega) buckets).foldl_rewriteMember (k := 1) n
  have short : (onVault (fun v => { v with rebuildPos := [] }) (driveLogged n v)).evr.ring = newest [r] :=
    ring.trans (newest_singleton r).symm
  rw [failDrive_of_present (d := floodedDrive n) rfl, notices, waitsOn_of_replicate (e := driveLogged n v) rfl rfl rfl rfl, left, short,
    foldl_ringPush_newest]
  exact fun x mem => codes x (mem_of_mem_newest (by omega) mem)

/-- Refutes O36: a critical warning fails drive 0, which is recorded. Each of the 8,192 open entries that wait on it then raises
SPARE_EXHAUSTED, and the ring keeps the newest 8,192 records: that of the failed drive is gone. -/
theorem not_driveFailures : ¬ Obligations.DriveFailures := by
  unfold Obligations.DriveFailures
  intro claim
  obtain ⟨n, many⟩ : ∃ n, 8192 ≤ n := ⟨8192, Nat.le_refl 8192⟩
  have healthy : ((floodedDrive n).drive 0).state = .healthy := floodedDrive_state _
  obtain ⟨fails, -⟩ := claim { pending := [], hbm := [], dev := floodedDrive n } 0 0 0 rfl
  obtain ⟨d, runs, -, -, -, recorded⟩ := fails (.driveCriticalWarning 0) (by rw [healthy]; decide) (by rw [healthy]; decide)
    (.inr (.inr (.inr (.inl rfl))))
  have left : failDrive 0 none (floodedDrive n) = d := congrArg State.dev (Host.Outcome.next.inj runs)
  obtain ⟨r, mem, code, -⟩ := recorded rfl
  have flood := floodedDrive_events many r (left.symm ▸ mem)
  exact absurd (code.symm.trans flood) (by decide)

end Sys2Proof.Machine
end

section
/-! PROOF. A message to the partner closes no take and makes none of Reel: the entries that it brings with it take a channel from its takes
at most (R149, R271, R280). -/

namespace Sys2Proof.Machine
open Sys2Proof

variable {d e u : Dev}

/-- No take is closing, and none is of Reel. -/
def Cat.Still (c : Cat) : Prop := ∀ t ∈ c.takes, t.state ≠ .closing ∧ t.reel = none

theorem Cat.Still.map {c k : Cat} {f : Take → Take} (h : c.Still) (takes : k.takes = c.takes.map f)
    (same : ∀ t, (f t).state = t.state ∧ (f t).reel = t.reel) : k.Still := by
  intro t mem
  rw [takes] at mem
  obtain ⟨x, old, rfl⟩ := List.mem_map.mp mem
  obtain ⟨state, reel⟩ := same x
  rw [state, reel]
  exact h x old

/-- Takes that are still in `d` are still in `e`. -/
def Rests (d e : Dev) : Prop := d.cat.Still → e.cat.Still

namespace Rests

theorem of_eq (h : e.cat = d.cat) : Rests d e := fun still => h ▸ still

theorem refl (d : Dev) : Rests d d := id

theorem trans (h : Rests d e) (k : Rests e u) : Rests d u := k ∘ h

theorem after (k : Rests e u) (h : Rests d e) : Rests d u := h.trans k

theorem ite {p : Prop} [Decidable p] (h : Rests d e) (k : Rests d u) : Rests d (if p then e else u) := by
  split
  · exact h
  · exact k

theorem each {α : Type} {f : α → Dev → Dev} (h : ∀ a x, Rests x (f a x)) (l : List α) (d : Dev) : Rests d (each f l d) := by
  induction l generalizing d with
  | nil => exact refl d
  | cons a t ih => exact (h a d).trans (ih (f a d))

theorem foldl {α : Type} {f : Dev → α → Dev} (h : ∀ x a, Rests x (f x a)) (l : List α) (d : Dev) : Rests d (l.foldl f d) :=
  each (fun a x => h x a) l d

end Rests

theorem Keeps.rests {L : List Blk} (h : Keeps L d e) (n : Blk.cat ∉ L) : Rests d e := .of_eq (h .cat n)

theorem onHif_rests (f : Hif → Hif) (d : Dev) : Rests d (onHif f d) := .of_eq rfl

theorem onCiph_rests (f : Ciph → Ciph) (d : Dev) : Rests d (onCiph f d) := .of_eq rfl

/-! ## What a completion brings with it -/

theorem postEntry_rests (c : Nat) (x : Desc) (st : Nat) (r0 r1 : W64) (d : Dev) : Rests d (postEntry c x st r0 r1 d) :=
  (postEntry_keeps c x st r0 r1 d).rests (by decide)

theorem settleAbort_rests (h : settleAbort d = some e) : Rests d e := by
  unfold settleAbort at h
  split at h
  · cases h
  · cases h
    exact (onHif_rests _ d).trans (postEntry_rests _ _ _ _ _ _)

/-- A catalogue whose takes of a channel have lost it. -/
def Cat.unlink (c : Nat) (k : Cat) : Cat :=
  { k with takes := k.takes.map (fun t => if t.chan = some c then { t with chan := none } else t) }

theorem rests_of_unlink {c : Nat} (h : e.cat = d.cat.unlink c) : Rests d e := fun still =>
  h ▸ still.map (f := fun t => if t.chan = some c then { t with chan := none } else t) rfl fun t => by split <;> exact ⟨rfl, rfl⟩

/-- A channel that is gone leaves its takes without one. -/
theorem settleDying_rests (h : settleDying d = some e) : Rests d e := by
  unfold settleDying at h
  split at h
  · cases h
  next c by_ _ =>
    dsimp only at h
    split at h <;> cases h
    · exact rests_of_unlink (c := c) rfl
    · refine rests_of_unlink (c := c) (((postEntry_keeps _ _ _ _ _ _) .cat (by decide)).trans ?_)
      exact (sendMsix_keeps _ _) .cat (by decide)
    · exact rests_of_unlink (c := c) ((postEntry_keeps _ _ _ _ _ _) .cat (by decide))

theorem settleOne_rests (h : settleOne d = some e) : Rests d e := by
  unfold settleOne at h
  split at h
  · next aborts =>
    cases h
    exact settleAbort_rests aborts
  split at h
  · cases h
    exact postEntry_rests _ _ _ _ _ _
  split at h
  · cases h
    exact postEntry_rests _ _ _ _ _ _
  · exact settleDying_rests h

theorem settle_rests (n : Nat) (d : Dev) : Rests d (settle n d) := by
  induction n generalizing d with
  | zero => exact .refl d
  | succ n ih =>
    unfold settle
    split
    · next one => exact (settleOne_rests one).trans (ih _)
    · exact .ite (.of_eq rfl) (.refl d)

theorem complete_rests (h : Hdr) (op : Byte) (st : Nat) (r0 r1 : W64) (d : Dev) : Rests d (complete h op st r0 r1 d) := by
  unfold complete settled
  exact .ite ((postEntry_rests _ _ _ _ _ d).trans (settle_rests _ _)) (.refl d)

theorem notifyWhere_rests (want : Nat → Bool) (r0 r1 : W64) (d : Dev) : Rests d (notifyWhere want r0 r1 d) :=
  (onHif_rests _ d).trans (.each (fun _ _ => complete_rests _ _ _ _ _ _) _ _)

theorem logEvent_rests (code : Nat) (inst : W32) (words : List W32) (d : Dev) : Rests d (logEvent code inst words d) := by
  have records := (recordEvent_keeps false code inst words d).rests (by decide)
  unfold logEvent
  generalize recordEvent false code inst words d = x at records ⊢
  obtain ⟨d1, _ | r⟩ := x
  · exact records
  · exact records.trans (notifyWhere_rests _ _ _ _)

/-! ## What a job of the service lanes brings with it -/

theorem takeCounter_rests (p : Nat) (d : Dev) : Rests d (takeCounter p d) := by
  unfold takeCounter
  exact .ite ((onCiph_rests _ d).trans (logEvent_rests _ _ _ _)) (onCiph_rests _ d)

theorem startJob_rests (j : CJob) (d : Dev) : Rests d (startJob j d).2 := by
  have counts (b : Bool) : Rests d (if b then takeCounter j.page d else d) := .ite (takeCounter_rests _ d) (.refl d)
  unfold startJob
  split
  · exact .refl d
  · exact .ite ((counts _).trans (onCiph_rests _ _)) (counts _)

theorem loadKey_rests (p : Nat) (key : List Byte) (salt : W32) (ctr : W64) (d : Dev) : Rests d (loadKey p key salt ctr d) := by
  unfold loadKey
  exact .ite ((onCiph_rests _ d).trans (logEvent_rests _ _ _ _)) (onCiph_rests _ d)

theorem pageIdle_rests (p : Nat) (d : Dev) : Rests d (pageIdle p d) := by
  have erases : Rests d (erasePage p d) := onCiph_rests _ d
  unfold pageIdle
  split
  · exact .refl d
  dsimp only
  split
  · exact (erases.trans (onCiph_rests _ _)).trans (complete_rests _ _ _ _ _ _)
  · exact erases.trans (onCiph_rests _ _)
  · exact ((loadKey_rests _ _ _ _ d).trans (onCiph_rests _ _)).trans (complete_rests _ _ _ _ _ _)
  · exact .refl d

theorem noteJob_rests (j : CJob) (st : Nat) (d : Dev) : Rests d (noteJob j st d) :=
  (noteJob_k (L := [.ciph]) rfl (.refl _ d)).rests (by decide)

theorem endJob_rests (j : CJob) (d : Dev) : Rests d (endJob j d) :=
  (endJob_k (L := [.out, .ciph]) rfl (.refl _ d)).rests (by decide)

theorem laneNext_rests (lane : Fin 2) (n : Nat) (d : Dev) : Rests d (laneNext lane n d) := by
  induction n generalizing d with
  | zero => exact onCiph_rests _ d
  | succ n ih =>
    unfold laneNext
    split
    · exact onCiph_rests _ d
    · next j _ =>
      have takes := onCiph_rests (fun c => { c with jobs := c.jobs.erase j }) d
      dsimp only
      split
      · exact takes.trans ((noteJob_rests _ _ _).trans ((pageIdle_rests _ _).trans (ih _)))
      · have starts (f : Ciph → Ciph) := (takes.trans (startJob_rests j _)).trans (onCiph_rests f _)
        split
        · exact (starts _).trans (onCiph_rests _ _)
        · exact (starts _).trans ((endJob_rests _ _).trans ((pageIdle_rests _ _).trans (ih _)))

theorem kickLane_rests (lane : Fin 2) (d : Dev) : Rests d (kickLane lane d) := by
  unfold kickLane
  exact .ite (laneNext_rests _ _ d) (.refl d)

theorem kickLanes_rests (d : Dev) : Rests d (kickLanes d) := by
  rw [kickLanes_eq]
  exact (kickLane_rests 0 d).trans (kickLane_rests 1 _)

theorem submitJob_rests (j : CJob) (d : Dev) : Rests d (submitJob j d) := by
  unfold submitJob
  exact .ite (noteJob_rests _ _ d) ((onCiph_rests _ d).trans (kickLanes_rests _))

theorem tangoSend_rests (qp : Nat) (o : Out) (d : Dev) : Rests d (tangoSend qp o d) := by
  have marks (f : Tango → Tango) : Rests d (onTango f d) := .of_eq rfl
  unfold tangoSend
  split
  · split
    · exact (marks _).trans (submitJob_rests _ _)
    · exact .refl d
  · exact .refl d

theorem appendRec_rests (source layout subject : Nat) (body : JBody) (st : Option GState) (d : Dev) :
    Rests d (appendRec source layout subject body st d) := by
  unfold appendRec
  exact .after (tangoSend_rests _ _ _) (.of_eq rfl)

end Sys2Proof.Machine
end

section
/-! PROOF. A sealed stripe is issued (R184, R200): the REMAP of its lost member, its open record and its Writes. -/

namespace Sys2Proof.Machine
open Sys2Proof

variable {d e : Dev} {l : LayoutRec} {sb : StripeBuf}

/-! ## A record of the journal (R188) -/

/-- The record that is appended next. -/
def Dev.nextRec (d : Dev) (source layout subject : Nat) (body : JBody) : JRec :=
  { source := source, layout := layout, jseq := d.vault.jseq, epoch := d.tango.epoch, headB := d.glb.headB, subject := subject
    body := body, units := body.units }

theorem appendRec_vault (source layout subject : Nat) (body : JBody) (st : Option GState) (d : Dev) :
    (appendRec source layout subject body st d).vault =
      { d.vault with journal := d.vault.journal ++ [d.nextRec source layout subject body], jseq := next64 d.vault.jseq
                     jPos := (d.vault.jPos + 64 * body.units) % 67108864 } := by
  unfold appendRec
  exact tangoSend_keeps _ _ _ .vault (by decide)

/-! ## The Writes of a stripe (R171) -/

theorem stripWrite_congr (remaps : e.vault.remaps = d.vault.remaps) (moving : e.vault.moving = d.vault.moving) (l : LayoutRec)
    (sb : StripeBuf) (k : Nat) : e.stripWrite l sb k = d.stripWrite l sb k := by
  unfold Dev.stripWrite Dev.memberAt Dev.memberChunk Dev.remapOf Dev.relocOf
  rw [remaps, moving]

/-! ## The remap of a lost member (R200) -/

/-- A stripe that can be written whole has a spare chunk for its one lost member. -/
theorem spareFor_of_stripeOk {s k : Nat} (lost : d.lostMembers l s = [k]) (ok : d.stripeOk l s = true) :
    ∃ r, d.spareFor l s k = some r := by
  unfold Dev.stripeOk at ok
  rw [lost] at ok
  change ((d.spareFor l s k).map (fun r => setRemap r d)).isSome = true at ok
  rw [Option.isSome_map] at ok
  exact Option.isSome_iff_exists.mp ok

theorem mayIssue_stripeOk (may : d.mayIssue l sb = true) : d.stripeOk l sb.stripe = true := by
  unfold Dev.mayIssue Dev.mayWrite at may
  simp only [Bool.and_eq_true] at may
  obtain ⟨-, ⟨⟨-, ok⟩, -⟩⟩ := may
  exact ok

theorem mayIssue_live (may : d.mayIssue l sb = true) : d.vault.live + 64 ≤ liveMax := by
  unfold Dev.mayIssue Dev.mayWrite Dev.stripeRoom Dev.journalRoom at may
  simp only [Bool.and_eq_true, decide_eq_true_eq] at may
  omega

/-- With room for its record, a lost member is remapped to its spare chunk. -/
theorem remapMember_of_spare {s k : Nat} {r : Remap} (room : d.vault.live + 64 ≤ liveMax) (spare : d.spareFor l s k = some r) :
    remapMember l s k d = some (appendRec 4 l.layoutId s (.remap r.failed r.spare r.chunk r.spareChunk) none (setRemap r d)) := by
  unfold remapMember
  rw [if_neg (by omega), spare, Option.map_some]

/-! ## The open entry and its record (R184) -/

/-- A head with its lost members of a stripe remapped. -/
def remapLost (l : LayoutRec) (s : Nat) (d : Dev) : Dev := (d.lostMembers l s).foldl (fun x k => (remapMember l s k x).getD x) d

/-- A head with the open record of a stripe and its open entry. -/
def openStripe (sb : StripeBuf) (mask : BitVec 18) (alone wait : Bool) (d : Dev) : Dev :=
  let body : JBody := .stripeOpen sb.volume sb.takeId sb.commitGsn sb.group sb.padded sb.maint sb.entries mask
  let o : OpenEnt :=
    { jseq := d.vault.jseq, order := d.vault.jseq, buf := sb, remapMask := mask, done := 0, acked := alone, waitHand := wait, again := false
      state := sb.gstate }
  onVault (fun v => { v with opened := v.opened ++ [o] }) (appendRec sb.source sb.layout sb.stripe body sb.gstate d)

theorem issueBuf_fst (l : LayoutRec) (sb : StripeBuf) (d : Dev) :
    let x := openStripe sb (maskOf (d.lostMembers l sb.stripe)) d.alone (d.handWait sb.source) (remapLost l sb.stripe d)
    (issueBuf l sb none d).1 = emits ((List.range l.members).map (x.stripWrite l sb)) x := rfl

/-- What the issue of a stripe leaves of a head `d` whose lost members are remapped. -/
structure Issues (l : LayoutRec) (sb : StripeBuf) (mask : BitVec 18) (alone : Bool) (d e : Dev) : Prop where
  sealedQ : e.vault.sealedQ = d.vault.sealedQ
  journal : ∃ r, e.vault.journal = d.vault.journal ++ [r] ∧ r.jseq = d.vault.jseq ∧ r.body.code = 1 ∧ r.subject = sb.stripe
  opened : ∃ o, e.vault.opened = d.vault.opened ++ [o] ∧ o.jseq = d.vault.jseq ∧ o.buf = sb ∧ o.done = 0 ∧ o.remapMask = mask ∧
    o.acked = alone
  jseq : e.vault.jseq = next64 d.vault.jseq
  remaps : e.vault.remaps = d.vault.remaps
  moving : e.vault.moving = d.vault.moving
  writes : ∀ k < l.members, e.stripWrite l sb k ∈ e.out

theorem issueBuf_issues (l : LayoutRec) (sb : StripeBuf) (d : Dev) : Issues l sb (maskOf (d.lostMembers l sb.stripe)) d.alone
    (remapLost l sb.stripe d) (backlogRule (issueBuf l sb none d).1) := by
  rw [issueBuf_fst]
  generalize maskOf (d.lostMembers l sb.stripe) = mask, remapLost l sb.stripe d = d1
  unfold openStripe
  dsimp only
  generalize sends : appendRec sb.source sb.layout sb.stripe _ sb.gstate d1 = x
  have vault := (congrArg Dev.vault sends).symm.trans (appendRec_vault _ _ _ _ _ _)
  constructor
  · exact (congrArg Vault.sealedQ vault :)
  · exact ⟨_, (congrArg Vault.journal vault :), rfl, rfl, rfl⟩
  · exact ⟨_, (congrArg (fun v : Vault => v.opened ++ [_]) vault :), rfl, rfl, rfl, rfl, rfl⟩
  · exact (congrArg Vault.jseq vault :)
  · exact (congrArg Vault.remaps vault :)
  · exact (congrArg Vault.moving vault :)
  · intro k few
    refine List.mem_append_right _ (List.mem_map.mpr ⟨k, List.mem_range.mpr few, ?_⟩)
    exact stripWrite_congr rfl rfl l sb k

/-! ## STRIPE_ISSUE -/

theorem exec_stripeIssue {s : State} (live : s.dev.live = true) : exec .stripeIssue s = .next { s with dev := issueNext s.dev } := by
  change Host.Outcome.next { s with dev := when s.dev.live issueNext s.dev } = _
  rw [live, when_true]

theorem issueNext_of_none (none_ : d.vault.opened.find? (·.again) = none) : issueNext d = issueSealed d := by
  unfold issueNext
  rw [none_]
  rfl

/-- A head with its first sealed stripe taken out of the queue. -/
def takenOut (rest : List StripeBuf) (d : Dev) : Dev := onVault (fun v => { v with sealedQ := rest }) d

theorem issueSealed_of_mayIssue {rest : List StripeBuf} (queue : d.vault.sealedQ = sb :: rest) (lies : d.layout sb.layout = some l)
    (may : d.mayIssue l sb = true) : issueSealed d = backlogRule (issueBuf l sb none (takenOut rest d)).1 := by
  unfold issueSealed
  rw [queue]
  dsimp only
  rw [lies]
  dsimp only
  rw [if_pos may]
  rfl

theorem remapLost_of_none {s : Nat} (lost : d.lostMembers l s = []) : remapLost l s d = d := by
  unfold remapLost
  rw [lost]
  rfl

/-- The one lost member of a stripe is remapped to its spare chunk, with a record. -/
theorem remapLost_of_one {s k : Nat} {r : Remap} (lost : d.lostMembers l s = [k]) (spare : d.spareFor l s k = some r)
    (room : d.vault.live + 64 ≤ liveMax) : ∃ q, q.body.code = 4 ∧ (remapLost l s d).vault.journal = d.vault.journal ++ [q] ∧
      (remapLost l s d).vault.jseq = next64 d.vault.jseq ∧ (remapLost l s d).vault.opened = d.vault.opened ∧
      (remapLost l s d).vault.sealedQ = d.vault.sealedQ := by
  have remaps : remapLost l s d = (remapMember l s k d).getD d := by
    unfold remapLost
    rw [lost]
    rfl
  rw [remaps, remapMember_of_spare room spare, Option.getD_some, appendRec_vault]
  exact ⟨_, rfl, rfl, rfl, rfl, rfl⟩

section
variable {rest : List StripeBuf} (none_ : d.vault.opened.find? (·.again) = none) (queue : d.vault.sealedQ = sb :: rest)
  (lies : d.layout sb.layout = some l) (may : d.mayIssue l sb = true)
include none_ queue lies may

/-- Where the first sealed stripe may be issued, it is, behind the remaps of its lost members. -/
theorem issueNext_issues :
    Issues l sb (maskOf (d.lostMembers l sb.stripe)) d.alone (remapLost l sb.stripe (takenOut rest d)) (issueNext d) := by
  rw [issueNext_of_none none_, issueSealed_of_mayIssue queue lies may]
  exact issueBuf_issues l sb (takenOut rest d)

theorem issueNext_of_whole (lost : d.lostMembers l sb.stripe = []) : Issues l sb 0 d.alone (takenOut rest d) (issueNext d) := by
  have issues := issueNext_issues none_ queue lies may
  rw [remapLost_of_none (d := takenOut rest d) lost, lost] at issues
  exact issues

theorem issueNext_of_one {k : Nat} (lost : d.lostMembers l sb.stripe = [k]) : (issueNext d).vault.sealedQ = rest ∧
    (∃ q r, (issueNext d).vault.journal = d.vault.journal ++ [q, r] ∧ q.body.code = 4 ∧ r.body.code = 1 ∧
      r.jseq = next64 d.vault.jseq) ∧
    (∃ o, (issueNext d).vault.opened = d.vault.opened ++ [o] ∧ o.remapMask = maskOf [k] ∧ o.buf = sb) ∧
    ∀ m < l.members, (issueNext d).stripWrite l sb m ∈ (issueNext d).out := by
  obtain ⟨sealedQ, ⟨r, journal, number, code, -⟩, ⟨o, opened, -, buf, -, mask, -⟩, -, -, -, writes⟩ :=
    issueNext_issues none_ queue lies may
  obtain ⟨x, spare⟩ := spareFor_of_stripeOk lost (mayIssue_stripeOk may)
  obtain ⟨q, remap, journal', number', opened', sealedQ'⟩ :=
    remapLost_of_one (d := takenOut rest d) lost spare (mayIssue_live (d := d) may)
  rw [journal'] at journal
  exact ⟨sealedQ.trans sealedQ', ⟨q, r, journal.trans (List.append_assoc _ _ _), remap, code, number.trans number'⟩,
    ⟨o, opened.trans (congrArg (· ++ [o]) opened'), lost ▸ mask, buf⟩, writes⟩

end

end Sys2Proof.Machine
end

section
/-! PROOF. A stripe retires once its members are written (R185): what goes on after it, where no commit, no session, no handover and no
closing or Reel take waits for it. -/

namespace Sys2Proof.Machine
open Sys2Proof

variable {d e : Dev} {o : OpenEnt} {j : Nat}

theorem foldl_eq_of_mem {α β : Type} {f : α → β → α} {a : α} (l : List β) (h : ∀ b ∈ l, f a b = a) : l.foldl f a = a := by
  induction l with
  | nil => rfl
  | cons b t ih => rw [List.foldl_cons, h b (by simp), ih (fun c mem => h c (by simp [mem]))]

/-! ## Takes that are still -/

theorem still_take {v id : Nat} {t : Take} (still : d.cat.Still) (found : d.take v id = some t) : t.reel = none :=
  (still t (List.mem_of_find?_eq_some found)).2

theorem pinCommitted_of_still (still : d.cat.Still) (l : LayoutRec) (v id : Nat) : pinCommitted l v id d = d := by
  unfold pinCommitted
  split
  · rfl
  · next t found => rw [still_take still found]

theorem advanceTakes_of_still (still : d.cat.Still) : advanceTakes d = settleChains d := by
  unfold advanceTakes
  refine congrArg settleChains (foldl_eq_of_mem _ fun t mem => ?_)
  obtain ⟨state, reel⟩ := still t mem
  dsimp only
  rw [reel, if_neg state]
  rfl

/-! ## What a retirement commits (R185) -/

theorem commitRef_takes (layout volume : Nat) (hot pins : Bool) (c : Cat) (x : Entry) :
    (commitRef layout volume hot pins c x).takes = c.takes := by
  have inserts (k : Cat) : (k.hotInsert layout volume x).takes = k.takes := by
    unfold Cat.hotInsert
    dsimp only
    split
    · split <;> rfl
    · split
      · rfl
      · split <;> rfl
  unfold commitRef
  dsimp only
  split
  · rfl
  split
  · split <;> rfl
  · split
    · exact inserts _
    · rfl

theorem foldl_commitRef_takes (layout volume : Nat) (hot pins : Bool) (l : List Entry) (c : Cat) :
    (l.foldl (commitRef layout volume hot pins) c).takes = c.takes := by
  induction l generalizing c with
  | nil => rfl
  | cons x t ih => rw [List.foldl_cons, ih, commitRef_takes]

theorem each_unpinHeld_of_none (none_ : d.repl = []) (volume : Nat) (l : List Entry) : each (fun x => unpinHeld volume x) l d = d := by
  refine foldl_eq_of_mem l fun x _ => ?_
  unfold unpinHeld
  dsimp only
  rw [none_]
  split
  · next found => split at found <;> cases found
  · rfl

theorem onPart_rests (v id p : Nat) (f : Part → Part) (d : Dev) : Rests d (onPart v id p f d) := fun still =>
  still.map (f := fun t => if t.volume = v ∧ t.id = id then t.onPart p f else t) rfl fun t => by split <;> exact ⟨rfl, rfl⟩

theorem extendTiles_rests (v id p : Nat) (es : List Entry) (d : Dev) : Rests d (extendTiles v id p es d) := by
  have extends_ (r : Nat) (value : List Byte) (x : Dev) : Rests x (extendMr r value x) :=
    (extendMr_keeps r value x).rests (by decide)
  refine Rests.foldl (fun x a => ?_) es d
  split
  · split
    · split
      · exact .refl x
      · exact (extends_ _ _ x).trans (onPart_rests _ _ _ _ _)
    · exact .refl x
  · exact .refl x

/-- With no session, a commit enters the entries in the catalogue, in the chain of their part and in the part. -/
theorem commitTiles_of_none (none_ : d.repl = []) (sb : StripeBuf) : commitTiles sb d = d ∨
    ∃ (c : Cat → Cat) (es : List Entry) (f : Part → Part), (∀ k, (c k).takes = k.takes) ∧ commitTiles sb d =
      onPart sb.volume sb.takeId sb.part f (extendTiles sb.volume sb.takeId sb.part es (onCat c d)) := by
  unfold commitTiles
  split
  · exact .inl rfl
  · dsimp only
    rw [each_unpinHeld_of_none (d := onCat _ d) none_]
    exact .inr ⟨_, _, _, fun k => foldl_commitRef_takes _ _ _ _ _ k, rfl⟩

theorem commitTiles_rests (none_ : d.repl = []) (sb : StripeBuf) : Rests d (commitTiles sb d) ∧ (commitTiles sb d).repl = [] := by
  rcases commitTiles_of_none none_ sb with same | ⟨c, es, f, takes, commits⟩
  · rw [same]
    exact ⟨.refl d, none_⟩
  · rw [commits]
    have enters : Rests d (onCat c d) := fun still t mem => still t (takes d.cat ▸ mem)
    refine ⟨(enters.trans (extendTiles_rests _ _ _ _ _)).trans (onPart_rests _ _ _ _ _), ?_⟩
    exact (extendTiles_k (L := [.cat, .dgst]) rfl (.refl _ (onCat c d)) .repl (by decide)).trans none_

/-! ## A head that nothing waits at -/

/-- No metadata commit, no replication session, no planned handover, and no take that is closing or of Reel. -/
structure Dev.Quiet (d : Dev) : Prop where
  mdc : d.vault.mdc = none
  repl : d.repl = []
  hand : d.tango.hand = none
  takes : d.cat.Still

/-- What goes on after the retirements of a quiet head is the chains that wait for a register. -/
theorem retireReady_of_quiet (q : (retireAll d.vault.opened.length d).Quiet) :
    Keeps [.cat, .dgst] (retireAll d.vault.opened.length d) (retireReady d) := by
  unfold retireReady
  generalize retireAll d.vault.opened.length d = x at q ⊢
  have chains : Keeps [.cat, .dgst] x (settleChains x) := settleChains_k rfl (.refl _ x)
  have commits : stepCommit x = x := by unfold stepCommit; rw [q.mdc]
  have hands : settleHand (settleChains x) = settleChains x := by
    unfold settleHand
    rw [chains .tango (by decide), q.hand]
  have repls : settleRepl (settleChains x) = settleChains x := by
    unfold settleRepl
    rw [chains .repl (by decide), q.repl]
    rfl
  dsimp only
  rw [commits, advanceTakes_of_still q.takes, hands, repls]
  split
  · exact chains
  · exact .refl _ x

/-! ## Retirement of the only open entry -/

theorem before64_self (a : Nat) : before64 a a = false := precedes_self _

/-- Whether an entry that has had all of its other members written may retire, where it is the only one. -/
theorem retirable_iff (only : d.vault.opened = [o]) : d.retirable o = true ↔
    o.done = fullMask (((d.layout o.buf.layout).map (·.members)).getD 18) ∧ (o.acked = true ∨ d.alone = true) ∧
      o.waitHand = false ∧ o.again = false ∧ d.vault.live + 64 ≤ liveMax := by
  unfold Dev.retirable
  rw [only]
  simp [before64_self, and_assoc]

/-- A head with the retire record of an open entry, which is closed. -/
def recordRetire (o : OpenEnt) (d : Dev) : Dev :=
  appendRec o.buf.source o.buf.layout o.buf.stripe (.stripeRetire o.jseq) none
    (onVault (fun v => { v with opened := v.opened.filter (fun x => x.jseq != o.jseq) }) d)

theorem recordRetire_vault (o : OpenEnt) (d : Dev) : (recordRetire o d).vault =
    { d.vault with opened := d.vault.opened.filter (fun x => x.jseq != o.jseq)
                   journal := d.vault.journal ++ [d.nextRec o.buf.source o.buf.layout o.buf.stripe (.stripeRetire o.jseq)]
                   jseq := next64 d.vault.jseq, jPos := (d.vault.jPos + 64 * (JBody.stripeRetire o.jseq).units) % 67108864 } :=
  appendRec_vault _ _ _ _ _ _

theorem recordRetire_quiet (q : d.Quiet) (o : OpenEnt) : (recordRetire o d).Quiet where
  mdc := (congrArg Vault.mdc (recordRetire_vault o d)).trans q.mdc
  repl := (appendRec_k (L := [.out, .vault, .cat, .ciph, .hif, .tango, .mca, .dma, .evr]) rfl (.refl _ _) .repl (by decide)).trans q.repl
  hand := by
    obtain ⟨n, tango⟩ := appendRec_posts o.buf.source o.buf.layout o.buf.stripe (.stripeRetire o.jseq) none
      (onVault (fun v => { v with opened := v.opened.filter (fun x => x.jseq != o.jseq) }) d)
    exact (congrArg Tango.hand tango).trans q.hand
  takes := appendRec_rests _ _ _ _ _ _ q.takes

/-- A head with the retirement counted and its entries committed. -/
def countRetire (o : OpenEnt) (d : Dev) : Dev :=
  commitTiles o.buf (onVcnt (fun c => { c with retired := c.retired + 1 }) (recordRetire o d))

theorem countRetire_keeps (o : OpenEnt) (d : Dev) :
    Keeps [.cat, .dgst, .repl] (onVcnt (fun c => { c with retired := c.retired + 1 }) (recordRetire o d)) (countRetire o d) :=
  commitTiles_k rfl (.refl _ _)

theorem countRetire_quiet (q : d.Quiet) (o : OpenEnt) : (countRetire o d).Quiet := by
  have recorded := recordRetire_quiet q o
  have keeps := countRetire_keeps o d
  obtain ⟨rests, repl⟩ :=
    commitTiles_rests (d := onVcnt (fun c => { c with retired := c.retired + 1 }) (recordRetire o d)) recorded.repl o.buf
  exact ⟨by rw [keeps .vault (by decide)]; exact recorded.mdc, repl, by rw [keeps .tango (by decide)]; exact recorded.hand,
    rests recorded.takes⟩

theorem Dev.Quiet.of_keeps (q : d.Quiet) (k : Keeps [.bpm, .pipes, .lg, .sl] d e) : e.Quiet :=
  ⟨by rw [k .vault (by decide)]; exact q.mdc, by rw [k .repl (by decide)]; exact q.repl, by rw [k .tango (by decide)]; exact q.hand,
    by rw [k .cat (by decide)]; exact q.takes⟩

/-- Beside its record, its count and its commits, a retirement frees buffers, commits slots and computes the limit anew. -/
theorem retire_keeps (q : d.Quiet) (o : OpenEnt) : Keeps [.bpm, .pipes, .lg, .sl] (countRetire o d) (retire o d) := by
  have freed : Keeps [.bpm, .pipes, .lg, .sl] (countRetire o d) (freeBuffers o.buf (countRetire o d)) := freeBuffers_k rfl (.refl _ _)
  have ledger (g : Fin 4) (f : Pipe → Pipe) (n : Nat) (gsn : W32) : Keeps [.bpm, .pipes, .lg, .sl] (countRetire o d)
      (refreshLimit g (settleC g (onPipe g f (commitSlots g n gsn (freeBuffers o.buf (countRetire o d)))))) :=
    refreshLimit_k rfl (settleC_k rfl (onPipe_k rfl (commitSlots_k rfl freed)))
  have pins (l : Option LayoutRec) (x : Dev) (k : Keeps [.bpm, .pipes, .lg, .sl] (countRetire o d) x) :
      Keeps [.bpm, .pipes, .lg, .sl] (countRetire o d) (match l with
        | some l => pinCommitted l o.buf.volume o.buf.takeId x
        | none => x) := by
    split
    · rw [pinCommitted_of_still ((countRetire_quiet q o).of_keeps k).takes]
      exact k
    · exact k
  refine pins _ _ ?_
  split
  · exact ledger _ _ _ _
  · exact freed

/-- What the retirement of the only open entry of a quiet head leaves. -/
theorem retire_of_quiet (q : d.Quiet) (only : d.vault.opened = [o]) : (retire o d).Quiet ∧ (retire o d).vault.opened = [] ∧
    (retire o d).vcnt.retired = d.vcnt.retired + 1 ∧
    ∃ r, (retire o d).vault.journal = d.vault.journal ++ [r] ∧ r.body = .stripeRetire o.jseq := by
  have ends := retire_keeps q o
  have commits := countRetire_keeps o d
  have vault : (retire o d).vault = (recordRetire o d).vault := (ends .vault (by decide)).trans (commits .vault (by decide))
  have counts : (recordRetire o d).vcnt = d.vcnt :=
    appendRec_k (L := [.out, .vault, .cat, .ciph, .hif, .tango, .mca, .dma, .evr]) rfl (.refl _ _) .vcnt (by decide)
  refine ⟨(countRetire_quiet q o).of_keeps ends, ?_, ?_,
    ⟨d.nextRec o.buf.source o.buf.layout o.buf.stripe (.stripeRetire o.jseq), ?_, rfl⟩⟩
  · rw [vault, recordRetire_vault, only]
    simp
  · rw [ends .vcnt (by decide), commits .vcnt (by decide), ← counts]
    rfl
  · rw [vault, recordRetire_vault]

/-! ## STRIP_WRITE_COMPLETE -/

theorem exec_stripWriteComplete {s : State} (live : s.dev.live = true) (j k : Nat) :
    exec (.stripWriteComplete j k) s = .next { s with dev := stripDone j k s.dev } := by
  have retiring : s.dev.retiring = true := by
    unfold Dev.live at live
    unfold Dev.retiring
    simp_all
  change Host.Outcome.next { s with dev := when s.dev.retiring (stripDone j k) s.dev } = _
  rw [retiring, when_true]

theorem stripDone_of_closed {k : Nat} (closed : d.openEnt j = none) (quiet : ∀ w ∈ d.vault.lagW, w.1 ≠ j ∨ w.2.1 ≠ k) :
    stripDone j k d = d := by
  have none_ : d.vault.lagW.any (fun w => w.1 == j && w.2.1 == k) = false := by
    rw [List.any_eq_false]
    intro w mem
    have := quiet w mem
    simp only [Bool.and_eq_true, beq_iff_eq]
    tauto
  unfold stripDone
  rw [closed]
  dsimp only
  rw [none_, if_neg Bool.false_ne_true]

/-- A lagging write that completes after its stripe has retired is no longer waited for. -/
theorem stripDone_of_lagging {k : Nat} (closed : d.openEnt j = none) (lags : ∃ w ∈ d.vault.lagW, w.1 = j ∧ w.2.1 = k) :
    stripDone j k d = onVault (fun v => { v with lagW := v.lagW.filter (fun w => !(w.1 == j && w.2.1 == k)) }) d := by
  have some_ : d.vault.lagW.any (fun w => w.1 == j && w.2.1 == k) = true := by
    obtain ⟨w, mem, is, member⟩ := lags
    exact List.any_eq_true.mpr ⟨w, mem, by simp [is, member]⟩
  unfold stripDone
  rw [closed]
  dsimp only
  rw [some_, if_pos rfl]

/-- A head with member `k` of an open entry noted as written. -/
def noteWritten (j k : Nat) (d : Dev) : Dev := onOpen j (fun x => { x with done := x.done ||| maskOf [k] }) d

theorem noteWritten_opened {k : Nat} (only : d.vault.opened = [o]) (is : o.jseq = j) :
    (noteWritten j k d).vault.opened = [{ o with done := o.done ||| maskOf [k] }] := by
  change d.vault.opened.map _ = _
  rw [only, List.map_singleton, if_pos is]

theorem stripDone_of_due {k : Nat} (only : d.vault.opened = [o]) (is : o.jseq = j) (due : o.done.getLsbD k = false) :
    stripDone j k d = retireReady (noteWritten j k d) := by
  have found : d.openEnt j = some o := by
    unfold Dev.openEnt
    rw [only, List.find?_cons_of_pos (by simp [is])]
  unfold stripDone
  rw [found]
  dsimp only
  rw [due, if_neg Bool.false_ne_true]
  rfl

/-- An only entry that may not retire stays open. -/
theorem retireReady_of_open (q : d.Quiet) (only : d.vault.opened = [o]) (stays : d.retirable o = false) :
    Keeps [.cat, .dgst] d (retireReady d) := by
  have none_ (n : Nat) : retireAll n d = d := retireAll_of_none (by rw [only]; simp [stays]) n
  have goes := retireReady_of_quiet (d := d) (by rw [none_]; exact q)
  rwa [none_] at goes

/-- An only entry that may retire does. -/
theorem retireReady_of_retirable (q : d.Quiet) (only : d.vault.opened = [o]) (may : d.retirable o = true) :
    Keeps [.cat, .dgst] (retire o d) (retireReady d) := by
  obtain ⟨quiet, -⟩ := retire_of_quiet q only
  have retires : retireAll d.vault.opened.length d = retire o d := by
    rw [only]
    change retireAll 1 d = _
    unfold retireAll
    rw [only, List.find?_cons_of_pos may]
    rfl
  have goes := retireReady_of_quiet (d := d) (by rw [retires]; exact quiet)
  rwa [retires] at goes

section
variable {k : Nat} (q : d.Quiet) (only : d.vault.opened = [o]) (is : o.jseq = j) (due : o.done.getLsbD k = false)
include q only is due

/-- The completion of a member of the only open entry, where something still holds it. -/
theorem stripDone_of_held (holds : o.done ||| maskOf [k] ≠ fullMask (((d.layout o.buf.layout).map (·.members)).getD 18) ∨
    (o.acked = false ∧ d.alone = false) ∨ o.waitHand = true ∨ o.again = true) :
    (stripDone j k d).vcnt = d.vcnt ∧ (stripDone j k d).lg = d.lg ∧
      (stripDone j k d).vault.opened = [{ o with done := o.done ||| maskOf [k] }] := by
  have noted := noteWritten_opened (k := k) only is
  have stays : (noteWritten j k d).retirable { o with done := o.done ||| maskOf [k] } = false := by
    rw [Bool.eq_false_iff, Ne, retirable_iff noted]
    rintro ⟨done, placed, hand, again, -⟩
    rcases holds with part | ⟨acked, alone⟩ | waits | sealed_
    · exact part done
    · exact placed.elim (fun h => Bool.false_ne_true (acked.symm.trans h)) (fun h => Bool.false_ne_true (alone.symm.trans h))
    · exact Bool.false_ne_true (hand.symm.trans waits)
    · exact Bool.false_ne_true (again.symm.trans sealed_)
  have keeps := retireReady_of_open (d := noteWritten j k d) ⟨q.mdc, q.repl, q.hand, q.takes⟩ noted stays
  rw [stripDone_of_due only is due, keeps .vcnt (by decide), keeps .lg (by decide), keeps .vault (by decide)]
  exact ⟨rfl, rfl, noted⟩

/-- The completion of the last member of the only open entry, where nothing else holds it. -/
theorem stripDone_of_last (done : o.done ||| maskOf [k] = fullMask (((d.layout o.buf.layout).map (·.members)).getD 18))
    (placed : o.acked = true ∨ d.alone = true) (hand : o.waitHand = false) (again : o.again = false)
    (room : d.vault.live + 64 ≤ liveMax) :
    (stripDone j k d).vault.opened = [] ∧ (stripDone j k d).vcnt.retired = d.vcnt.retired + 1 ∧
      ∃ r, (stripDone j k d).vault.journal = d.vault.journal ++ [r] ∧ r.body = .stripeRetire j := by
  have noted := noteWritten_opened (k := k) only is
  have quiet : (noteWritten j k d).Quiet := ⟨q.mdc, q.repl, q.hand, q.takes⟩
  have may : (noteWritten j k d).retirable { o with done := o.done ||| maskOf [k] } = true :=
    (retirable_iff noted).mpr ⟨done, placed, hand, again, room⟩
  have keeps := retireReady_of_retirable quiet noted may
  obtain ⟨-, opened, retired, r, journal, body⟩ := retire_of_quiet quiet noted
  rw [stripDone_of_due only is due, keeps .vcnt (by decide), keeps .vault (by decide)]
  exact ⟨opened, retired, r, journal, body.trans (congrArg _ is)⟩

end

/-- Settles O35: a stripe that may be issued is, behind the REMAP of its one lost member; the completion of a member is noted, and the
stripe retires where nothing else holds it. -/
theorem stripeWrites : Obligations.StripeWrites := by
  unfold Obligations.StripeWrites
  refine ⟨fun s live none_ => ⟨fun empty => ?_, fun sb rest l queue lies may => ⟨fun whole => ?_, fun k lost => ?_⟩⟩,
    fun s j k live => ⟨fun closed quiet => ?_, fun closed lags => ?_, fun o only is due mdc repl hand takes =>
      ⟨fun holds => ?_, fun done placed waits again room => ?_⟩⟩⟩
  · rw [exec_stripeIssue live, issueNext_of_none none_]
    unfold issueSealed
    rw [empty]
  · obtain ⟨sealedQ, journal, opened, jseq, remaps, moving, writes⟩ := issueNext_of_whole none_ queue lies may whole
    refine ⟨_, exec_stripeIssue live, sealedQ, journal, opened, jseq, fun k few => ?_⟩
    rw [← stripWrite_congr (d := s.dev) remaps moving]
    exact writes k few
  · exact ⟨_, exec_stripeIssue live, issueNext_of_one none_ queue lies may lost⟩
  · rw [exec_stripWriteComplete live, stripDone_of_closed closed quiet]
  · rw [exec_stripWriteComplete live, stripDone_of_lagging closed lags]
    exact ⟨_, rfl, onVault_keeps _ _, rfl⟩
  · exact ⟨_, exec_stripWriteComplete live j k, stripDone_of_held ⟨mdc, repl, hand, takes⟩ only is due holds⟩
  · exact ⟨_, exec_stripWriteComplete live j k, stripDone_of_last ⟨mdc, repl, hand, takes⟩ only is due done placed waits again room⟩

end Sys2Proof.Machine
end

section
/-! PROOF. The pair's news of a drive at a head that has stepped down (R290, R304): it registers nothing until an OWNER_TABLE has come. -/

namespace Sys2Proof.Machine
open Sys2Proof

/-- A head of a pair that has stepped down and awaits its OWNER_TABLE, with its partner's key loaded. -/
def steppedDownHead : State :=
  let d := waitingHead [] Group.reset
  { pending := [], hbm := []
    dev := { d with regs := { d.regs with ihCfg := 1, ciphCfg := 1 }
                    tango := { d.tango with started := true, state := 1, stepped := true, cl := 1 }
                    ciph := { d.ciph with pages := [(1, { Page.reset 1 with state := .ready })] } } }

/-- A message that the partner forms under its key, with the epoch and role of a head. -/
def partnersEnv (d : Dev) : Env := { level := 1, sender := true, role := d.role, epoch := d.tango.epoch, seq := 1, auth := true }

theorem steppedDownHead_heeds : steppedDownHead.dev.pairOn = true ∧ Agreed (partnersEnv steppedDownHead.dev) steppedDownHead.dev := by decide

theorem leaves_steppedDownHead : leaves (.driveNotice (partnersEnv steppedDownHead.dev) 0 2) steppedDownHead = [] := by decide

/-- Refutes O55: a DRIVE_NOTICE of an admitted drive makes no head register its key that has stepped down (R304), so no registration leaves the
head of `steppedDownHead`. -/
theorem not_pairTakesAndDrives : ¬ Obligations.PairTakesAndDrives := by
  unfold Obligations.PairTakesAndDrives
  intro claim
  obtain ⟨on, agreed⟩ := steppedDownHead_heeds
  obtain ⟨-, heeds, -⟩ := claim steppedDownHead (partnersEnv steppedDownHead.dev) on
  obtain ⟨drives, -⟩ := heeds agreed
  obtain ⟨-, -, d, runs, -, registers, -⟩ := drives 0 (by decide) rfl
  rw [← leaves_of_exec runs, leaves_steppedDownHead] at registers
  exact List.not_mem_nil registers

end Sys2Proof.Machine
end

section
/-! PROOF. What the catalogue keeps apart from its takes: a completion unlinks takes from a channel that is gone (R271, R272), a trigger
changes its take, and the volumes, snapshots, references and counters stay. -/

namespace Sys2Proof.Machine
open Sys2Proof

variable {d e : Dev}

/-- The catalogue apart from its takes. -/
def Cat.base (c : Cat) : Cat := { c with takes := [] }

theorem Cat.trigIns_of_base {c k : Cat} (h : c.base = k.base) : c.trigIns = k.trigIns := (congrArg Cat.trigIns h :)

theorem Keeps.base {L : List Blk} (h : Keeps L d e) (n : Blk.cat ∉ L) : e.cat.base = d.cat.base := congrArg Cat.base (h .cat n)

theorem each_base {α : Type} {f : α → Dev → Dev} (h : ∀ a x, (f a x).cat.base = x.cat.base) (l : List α) (d : Dev) :
    (each f l d).cat.base = d.cat.base := by
  induction l generalizing d with
  | nil => rfl
  | cons a t ih => exact (ih (f a d)).trans (h a d)

theorem ite_base {p : Prop} [Decidable p] {c : Cat} (h : d.cat.base = c) (k : e.cat.base = c) : (if p then d else e).cat.base = c := by
  split
  · exact h
  · exact k

/-! ## What a completion brings with it -/

theorem postEntry_base (c : Nat) (x : Desc) (st : Nat) (r0 r1 : W64) (d : Dev) : (postEntry c x st r0 r1 d).cat.base = d.cat.base :=
  (postEntry_keeps c x st r0 r1 d).base (by decide)

theorem settleAbort_base (h : settleAbort d = some e) : e.cat.base = d.cat.base := by
  unfold settleAbort at h
  split at h
  · cases h
  · cases h
    exact postEntry_base _ _ _ _ _ _

/-- A channel that is gone changes no more of the catalogue than the takes that name it. -/
theorem settleDying_base (h : settleDying d = some e) : e.cat.base = d.cat.base := by
  unfold settleDying at h
  split at h
  · cases h
  dsimp only at h
  split at h <;> cases h
  · rfl
  · exact (postEntry_base _ _ _ _ _ _).trans ((sendMsix_keeps _ _).base (by decide))
  · exact postEntry_base _ _ _ _ _ _

theorem settleOne_base (h : settleOne d = some e) : e.cat.base = d.cat.base := by
  unfold settleOne at h
  split at h
  · next aborts =>
    cases h
    exact settleAbort_base aborts
  split at h
  · cases h
    exact postEntry_base _ _ _ _ _ _
  split at h
  · cases h
    exact postEntry_base _ _ _ _ _ _
  · exact settleDying_base h

theorem settle_base (n : Nat) (d : Dev) : (settle n d).cat.base = d.cat.base := by
  induction n generalizing d with
  | zero => rfl
  | succ n ih =>
    unfold settle
    split
    · next one => exact (ih _).trans (settleOne_base one)
    · exact ite_base rfl rfl

theorem complete_base (h : Hdr) (op : Byte) (st : Nat) (r0 r1 : W64) (d : Dev) : (complete h op st r0 r1 d).cat.base = d.cat.base := by
  unfold complete settled
  exact ite_base ((settle_base _ _).trans (postEntry_base _ _ _ _ _ _)) rfl

theorem logEvent_base (code : Nat) (inst : W32) (words : List W32) (d : Dev) : (logEvent code inst words d).cat.base = d.cat.base := by
  have records := (recordEvent_keeps false code inst words d).base (by decide)
  unfold logEvent notifyWhere
  generalize recordEvent false code inst words d = x at records ⊢
  obtain ⟨d1, _ | r⟩ := x
  · exact records
  · exact (each_base (fun _ _ => complete_base _ _ _ _ _ _) _ _).trans records

/-! ## What a job of the service lanes brings with it -/

theorem takeCounter_base (p : Nat) (d : Dev) : (takeCounter p d).cat.base = d.cat.base := by
  unfold takeCounter
  exact ite_base (logEvent_base _ _ _ _) rfl

theorem startJob_base (j : CJob) (d : Dev) : (startJob j d).2.cat.base = d.cat.base := by
  have counts (b : Bool) : (if b then takeCounter j.page d else d).cat.base = d.cat.base := ite_base (takeCounter_base _ d) rfl
  unfold startJob
  split
  · rfl
  · exact ite_base (counts _) (counts _)

theorem pageIdle_base (p : Nat) (d : Dev) : (pageIdle p d).cat.base = d.cat.base := by
  have loads (key : List Byte) (salt : W32) (ctr : W64) : (loadKey p key salt ctr d).cat.base = d.cat.base :=
    ite_base (logEvent_base _ _ _ _) rfl
  unfold pageIdle
  split
  · rfl
  dsimp only
  split
  · exact complete_base _ _ _ _ _ _
  · rfl
  · exact (complete_base _ _ _ _ _ _).trans (loads _ _ _)
  · rfl

theorem laneNext_base (lane : Fin 2) (n : Nat) (d : Dev) : (laneNext lane n d).cat.base = d.cat.base := by
  induction n generalizing d with
  | zero => rfl
  | succ n ih =>
    unfold laneNext
    split
    · rfl
    · next j _ =>
      dsimp only
      split
      · exact (ih _).trans ((pageIdle_base _ _).trans ((noteJob_k (L := [.ciph]) rfl (.refl _ _)).base (by decide)))
      · split
        · exact startJob_base j _
        · exact (ih _).trans ((pageIdle_base _ _).trans (((endJob_k (L := [.out, .ciph]) rfl (.refl _ _)).base (by decide)).trans
            (startJob_base j _)))

theorem submitJob_base (j : CJob) (d : Dev) : (submitJob j d).cat.base = d.cat.base := by
  have kicks (lane : Fin 2) (x : Dev) : (kickLane lane x).cat.base = x.cat.base := ite_base (laneNext_base _ _ x) rfl
  unfold submitJob
  dsimp only
  rw [kickLanes_eq]
  exact ite_base ((noteJob_k (L := [.ciph]) rfl (.refl _ d)).base (by decide)) ((kicks 1 _).trans (kicks 0 _))

theorem tangoSend_base (qp : Nat) (o : Out) (d : Dev) : (tangoSend qp o d).cat.base = d.cat.base := by
  unfold tangoSend
  split
  · split
    · exact submitJob_base _ _
    · rfl
  · rfl

/-! ## What a trigger brings with it (R239 to R241) -/

theorem claimPeriod_base (l : LayoutRec) (d : Dev) : (claimPeriod l d).cat.base = d.cat.base := by
  unfold claimPeriod
  split
  · rfl
  split
  · rfl
  split
  · rfl
  · unfold appendRec
    exact tangoSend_base _ _ _

theorem allocStripe_base (l : LayoutRec) (d : Dev) : (allocStripe l d).1.cat.base = d.cat.base := by
  have claims : (if (d.lowestStripe l).isSome then d else claimPeriod l d).cat.base = d.cat.base := ite_base rfl (claimPeriod_base l d)
  unfold allocStripe
  split
  · rfl
  dsimp only
  split
  · exact claims
  · exact claims

theorem onReel_base (v id : Nat) (f : ReelSt → ReelSt) (d : Dev) : (onReel v id f d).cat.base = d.cat.base := rfl

theorem pinStripes_base (l : LayoutRec) (v id : Nat) (ss : List Nat) (d : Dev) : (pinStripes l v id ss d).cat.base = d.cat.base := by
  unfold pinStripes
  refine each_base (f := fun s x => _) (fun s x => ?_) ss d
  have allocated := allocStripe_base l x
  split
  · next got => rw [got] at allocated; exact allocated
  · next got => rw [got] at allocated; exact allocated

theorem pinWindow_base {l : LayoutRec} {v id lo hi : Nat} {ss : List (Nat × Nat)} (pins : pinWindow l v id lo hi d = some (e, ss)) :
    e.cat.base = d.cat.base := by
  unfold pinWindow at pins
  split at pins
  · cases pins
  split at pins
  · cases pins
  dsimp only at pins
  split at pins
  · split at pins
    · cases pins
    · cases pins
      exact pinStripes_base _ _ _ _ _
  · cases pins

theorem pinTrigger_base (l : LayoutRec) (t : Take) (time : W64) (d : Dev) : (pinTrigger l t time d).1.cat.base = d.cat.base := by
  unfold pinTrigger
  split
  · rfl
  dsimp only
  split
  · split
    · rfl
    · next pins => exact (onReel_base _ _ _ _).trans (pinWindow_base pins)
  · split
    · rfl
    · split
      · rfl
      · next pins => exact (onReel_base _ _ _ _).trans (pinWindow_base pins)

theorem takeTrigger_base (t : Take) (source group : Nat) (trigId : W32) (srcField : W16) (time : Option W64) (place : W32) (d : Dev) :
    (takeTrigger t source group trigId srcField time place d).cat.base = d.cat.base := by
  unfold takeTrigger
  split
  · rfl
  · next l _ =>
    refine (tangoSend_base _ _ _).trans ?_
    cases time with
    | none => rfl
    | some x =>
      have logs {p : Prop} [Decidable p] (inst : W32) (words : List W32) (f : Take → Take) :
          (if p then logEvent 0x040A inst words (onTake t.volume t.id f (pinTrigger l t x d).1)
            else onTake t.volume t.id f (pinTrigger l t x d).1).cat.base = d.cat.base :=
        ite_base ((logEvent_base _ _ _ _).trans (pinTrigger_base l t x d)) (pinTrigger_base l t x d)
      exact ite_base (logs _ _ _) (logs _ _ _)

theorem trigIn_of_none {since : Nat} (none_ : d.cat.takes.filter (fun t => t.state == .open_ && !t.replica) = []) :
    trigIn since d = d := by
  unfold trigIn
  dsimp only
  rw [none_]
  rfl

/-- TRIG_IN is counted once, whatever the takes that it triggers bring with it (R239). -/
theorem trigIn_counts {since : Nat} (open_ : d.cat.takes.filter (fun t => t.state == .open_ && !t.replica) ≠ []) :
    (trigIn since d).cat.trigIns = d.cat.trigIns + 1 := by
  unfold trigIn
  dsimp only
  rw [if_neg (by simpa using open_)]
  exact Cat.trigIns_of_base (each_base (f := fun t x => _) (fun t x => takeTrigger_base t 1 255 _ 0 _ _ x) _ _)

end Sys2Proof.Machine
end

section
/-! PROOF. The event recorder's log in SPI NOR (R404, R410), the I2C target (R442), the Ethernet ports (R469) and TRIG_IN (R239). -/

namespace Sys2Proof.Machine
open Sys2Proof

variable {d : Dev} {s : State}

/-! ## The log in SPI NOR -/

/-- The oldest record of the queue goes to the next position, behind the erasure of a sector that it opens (R404). -/
theorem norPersist_writes {r : EvRec} {l : List EvRec} (queue : d.evr.queue = r :: l) : Keeps [.evr, .out] d (norPersist d) ∧
    (norPersist d).evr.queue = l ∧ tget (norPersist d).evr.nor d.evr.nextNor = some r ∧ (norPersist d).evr.norHead = d.evr.nextNor ∧
    (norPersist d).out = d.out ++ (if d.evr.nextNor % 64 = 0 then [.norErase (d.evr.nextNor / 64)] else []) ++
      [.norWrite d.evr.nextNor r] ∧ (norPersist d).evr.ring = d.evr.ring := by
  refine ⟨norPersist_k rfl (.refl _ d), ?_⟩
  unfold norPersist
  rw [queue]
  by_cases opens : d.evr.nextNor % 64 = 0
  · simp only [opens, decide_true, if_true]
    exact ⟨rfl, tget_tput _ _ _ _, rfl, rfl, rfl⟩
  · simp only [opens, decide_false, if_false, Bool.false_eq_true, List.append_nil]
    exact ⟨rfl, tget_tput _ _ _ _, rfl, rfl, rfl⟩

theorem norPersist_of_empty (queue : d.evr.queue = []) : norPersist d = d := by
  unfold norPersist
  rw [queue]

/-! ## The I2C target -/

/-- A byte read may capture its field, and leaves the index where it is. -/
theorem i2cByte_index (i : Nat) (d : Dev) : (i2cByte i d).2.boot.i2cIndex = d.boot.i2cIndex := by
  unfold i2cByte
  split
  · dsimp only
    split
    · rfl
    · rfl
  · split
    · rfl
    · rfl

theorem i2cBytes_reads (n : Nat) (d : Dev) (index : d.boot.i2cIndex < 256) :
    (i2cBytes n d).1.length = n ∧ (i2cBytes n d).2.boot.i2cIndex = (d.boot.i2cIndex + n) % 256 := by
  induction n generalizing d with
  | zero => exact ⟨rfl, (Nat.mod_eq_of_lt index).symm⟩
  | succ n ih =>
    obtain ⟨length, at_⟩ := ih (onBoot (fun x => { x with i2cIndex := (x.i2cIndex + 1) % 256 }) (i2cByte d.boot.i2cIndex d).2)
      (Nat.mod_lt _ (by decide))
    refine ⟨congrArg (· + 1) length, at_.trans ?_⟩
    change (((i2cByte d.boot.i2cIndex d).2.boot.i2cIndex + 1) % 256 + n) % 256 = _
    rw [i2cByte_index]
    omega

/-! ## The Ethernet ports -/

theorem putBit_same (v : BitVec 2) (p : Fin 2) (b : Bool) : (putBit v p.val b).getLsbD p.val = b := by
  unfold putBit
  cases b with
  | true => simp [Nat.lt_of_lt_of_le p.isLt]
  | false => simp

/-- A port's falls are counted (R469). -/
theorem portLink_downs (p : Fin 2) (up fec : Bool) (d : Dev) : tgetD (portLink p up fec d).regs.ethDowns 0 p.val =
    (if d.regs.ethUp.getLsbD p.val && !up then satInc32 (tgetD d.regs.ethDowns 0 p.val) else tgetD d.regs.ethDowns 0 p.val) := by
  unfold portLink
  dsimp only
  split
  · exact tgetD_tput _ _ _ _
  · rfl

/-! ## The commands -/

theorem exec_norPersist (open_ : s.dev.norOpen = true) : exec .norPersist s = .next { s with dev := norPersist s.dev } := by
  change Host.Outcome.next { s with dev := when s.dev.norOpen norPersist s.dev } = _
  rw [open_, when_true]

theorem exec_evrTimeMark (live : s.dev.live = true) :
    exec .evrTimeMark s = .next { s with dev := logEvent 0x0C01 noInstance [] s.dev } := by
  change Host.Outcome.next { s with dev := when s.dev.live (logEvent 0x0C01 noInstance []) s.dev } = _
  rw [live, when_true]

theorem exec_trigIn (on : s.dev.working = true) (n : Nat) : exec (.trigIn n) s = .next { s with dev := trigIn n s.dev } := by
  change Host.Outcome.next { s with dev := when s.dev.working (trigIn n) s.dev } = _
  rw [on, when_true]

/-- Commands at pins that work while POR_N is high. -/
theorem exec_of_high (high : s.dev.glb.porLow = false) :
    (∀ p up fec, exec (.ethPortLinkChange p up fec) s = .next { s with dev := portLink p up fec s.dev }) ∧
    (∀ l, exec (.i2cIndexWrite l) s = .next { s with dev := i2cWrite l s.dev }) ∧
    (∀ n, exec (.i2cRead n) s = .next { s with dev := i2cRead n s.dev }) := by
  have runs (f : Dev → Dev) : Host.Outcome.next (φ := Fault) (ρ := Refusal) { s with dev := when (!s.dev.glb.porLow) f s.dev } =
      .next { s with dev := f s.dev } := by
    rw [high, Bool.not_false, when_true]
  exact ⟨fun _ _ _ => runs _, fun _ => runs _, fun _ => runs _⟩

/-- Settles O26: the log in SPI NOR, the time mark, the ports, the I2C target and the trigger pins. -/
theorem eventsAndPins : Obligations.EventsAndPins := by
  unfold Obligations.EventsAndPins
  refine fun s => ⟨fun open_ empty => ?_, fun r l open_ queue => ?_, fun live => ?_, fun p up fec high => ?_, fun b l high => ?_,
    fun n high index => ?_, fun n on none_ => ?_, fun n on some_ => ?_, rfl⟩
  · rw [exec_norPersist open_, norPersist_of_empty empty]
  · exact ⟨_, exec_norPersist open_, norPersist_writes queue⟩
  · refine ⟨_, exec_evrTimeMark live, logEvent_recorded _ _ _ _, ?_⟩
    exact logEvent_keeps _ _ _ _ .now (by decide)
  · obtain ⟨links, -⟩ := exec_of_high high
    refine ⟨_, links p up fec, portLink_k rfl (.refl _ _), putBit_same _ p up, portLink_downs p up fec s.dev⟩
  · obtain ⟨-, writes, -⟩ := exec_of_high high
    exact writes (b :: l)
  · obtain ⟨-, -, reads⟩ := exec_of_high high
    obtain ⟨length, at_⟩ := i2cBytes_reads n s.dev index
    have keeps : Keeps [.boot] s.dev (i2cBytes n s.dev).2 := i2cBytes_k rfl (.refl _ _)
    refine ⟨_, _, reads n, ?_, ?_, length, at_⟩
    · exact (keeps.mono (by decide)).trans ((emit_keeps _ _).mono (by decide))
    · exact congrArg (· ++ [Out.i2cData _]) (keeps .out (by decide))
  · rw [exec_trigIn on, trigIn_of_none none_]
  · exact ⟨_, exec_trigIn on n, trigIn_counts some_⟩

end Sys2Proof.Machine
end

section
/-! PROOF. What a PLAY sends stays sent (R67, R245): its packets, the reads of its tiles, and its entry. -/

namespace Sys2Proof.Machine
open Sys2Proof

variable {d e : Dev}

theorem sendSlot_grows (g : Fin 4) (mk : W32 → Packet) (d : Dev) : Grows d (sendSlot g mk d) :=
  .trans (.of_eq rfl) (slSend_grows _ _ _)

theorem playStopDone_grows (g : Fin 4) (id : W32) (sid : W16) (d : Dev) : Grows d (playStopDone g id sid d) :=
  .trans (.of_eq rfl) (slSend_grows _ _ _)

theorem setJob_grows (c : Nat) (j : Option Job) (d : Dev) : Grows d (setJob c j d) := (setJob_keeps c j d).grows (by decide)

theorem freeTile_grows (c : Nat) (d : Dev) : Grows d (freeTile c d) :=
  (freeTile_k (L := [.hif, .bpm]) rfl (.refl _ d)).grows (by decide)

theorem endPlay_grows (c : Nat) (j : PlayJob) (status : Nat) (d : Dev) : Grows d (endPlay c j status d) := by
  unfold endPlay
  exact .trans (setJob_grows _ _ d) (.trans (freeTile_grows _ _) (.trans (complete_grows _ _ _ _ _ _) (settleSnaps_grows _)))

theorem noteDecode_grows (c : Nat) (w : Want) (r : TileRes) (d : Dev) : Grows d (noteDecode c w r d) := by
  unfold noteDecode
  extract_lets pipe d1 d2
  have counts : Grows d d1 := by
    change Grows d (dite _ _ _)
    split
    · exact .of_eq rfl
    · exact .refl d
  have logs : Grows d d2 := by
    change Grows d (ite _ _ _)
    split
    · exact counts.trans (logEvent_grows _ _ _ _)
    · exact counts
  split
  · exact logs.trans (logEvent_grows _ _ _ _)
  · exact logs

theorem decodeTile_grows (c : Nat) (w : Want) (stored : List Byte) (d : Dev) : Grows d (decodeTile c w stored d).1 :=
  .trans (noteDecode_grows c w _ d) (.of_eq rfl)

theorem startTile_grows (c : Nat) (d : Dev) : Grows d (startTile c d).1 := by
  have allocated : Grows d (poolAlloc 2 true d).1 := (poolAlloc_k (L := [.bpm]) rfl (.refl _ d)).grows (by decide)
  unfold startTile
  split
  · exact .refl d
  split
  · exact .of_eq rfl
  split
  · exact decodeTile_grows _ _ _ d
  split
  · next got => rw [got] at allocated; exact allocated
  · next got =>
    rw [got] at allocated
    exact allocated.trans (.trans ((onChan_keeps _ _ _).grows (by decide)) (emits_grows _ _))

theorem playTile_grows (c : Nat) (j : PlayJob) (r : TileRes) (d : Dev) : Grows d (playTile c j r d) :=
  (playTile_k (L := [.hif]) rfl (.refl _ d)).grows (by decide)

/-- Each packet of a PLAY goes out behind what has left, and the job and the group move on. -/
theorem playOne_grows {g : Fin 4} {c : Nat} {j : PlayJob} (one : playOne g c j d = some e) : Grows d e := by
  have sends (mk : W32 → Packet) (f : Group → Group) (k : Option Job) : Grows d (setJob c k (onGroup g f (sendSlot g mk d))) :=
    .trans (sendSlot_grows g mk d) (.trans (.of_eq rfl) (setJob_grows _ _ _))
  have fills (mk : W32 → Packet) (k : Option Job) : Grows d (setJob c k (sendSlot g mk d)) :=
    .trans (sendSlot_grows g mk d) (setJob_grows _ _ _)
  unfold playOne at one
  dsimp only at one
  split at one
  · split at one
    · cases one
    · obtain ⟨id, -, rfl⟩ := Option.map_eq_some_iff.mp one
      exact playStopDone_grows _ _ _ d
  split at one
  · cases one
    exact endPlay_grows _ _ _ d
  split at one
  · cases one
  split at one
  · split at one
    · cases one
    · cases one
      exact sends _ _ _
  split at one
  · cases one
    exact fills _ _
  split at one
  · split at one
    · cases one
    · cases one
      exact fills _ _
  · cases one
    exact sends _ _ _

theorem pumpPlay_grows (g : Fin 4) (n : Nat) (d : Dev) : Grows d (pumpPlay g n d) := by
  induction n generalizing d with
  | zero => exact .refl d
  | succ n ih =>
    unfold pumpPlay
    split
    · split
      · split
        · exact .refl d
        · exact playStopDone_grows _ _ _ d
      · exact .refl d
    split
    · next one => exact (playOne_grows one).trans (ih _)
    split
    · exact .refl d
    split
    · exact .refl d
    split
    · next c _ _ _ _ _ _ _ _ _ _ _ tile =>
      have started := startTile_grows c d
      rw [tile] at started
      exact started.trans ((playTile_grows _ _ _ _).trans (ih _))
    · next c _ _ _ _ _ _ _ _ _ _ tile =>
      have started := startTile_grows c d
      rw [tile] at started
      split
      · exact started
      · exact started.trans (endPlay_grows _ _ _ _)

end Sys2Proof.Machine
end

section
/-! PROOF. PLAY and its pacing (R242, R245, R267, R307, R500): what makes a PLAY refuse, the FRAME_OPEN of its first frame, and its entry where
it names no frame. -/

namespace Sys2Proof.Machine
open Sys2Proof

variable {d e : Dev} {s : State} {h : Hdr} {g : Fin 4} {c : Nat} {j : PlayJob} {ch : Chan}

/-! ## The channel whose PLAY drives a group -/

/-- The PLAY of a channel, where it drives group `g`. -/
def chanPlay (g : Fin 4) (x : Nat × Chan) : Option (Nat × PlayJob) :=
  match x.2.job with
  | some (.play j) => if j.group = g then some (x.1, j) else none
  | _ => none

theorem playOn_eq (g : Fin 4) (d : Dev) : d.playOn g = d.hif.chans.findSome? (chanPlay g) := rfl

theorem chanPlay_congr {a b : Chan} (same : a.job = b.job) : chanPlay g (c, a) = chanPlay g (c, b) := by
  unfold chanPlay
  dsimp only
  rw [same]

theorem chanPlay_of_job (at_ : ch.job = some (.play j)) (group : j.group = g) : chanPlay g (c, ch) = some (c, j) := by
  unfold chanPlay
  dsimp only
  rw [at_]
  exact if_pos group

theorem chanPlay_fst {y : Nat × PlayJob} (plays : chanPlay g (c, ch) = some y) : y.1 = c := by
  unfold chanPlay at plays
  split at plays
  · obtain ⟨-, is⟩ := Option.ite_none_right_eq_some.mp plays
    exact congrArg Prod.fst (Option.some.inj is).symm
  · cases plays

/-- A value put where one like it stood makes no difference to whether something is found. -/
theorem findSome?_tput_eq_none {α β : Type} {f : Nat × α → Option β} {t : Tab α} {v w : α} (at_ : tget t c = some w)
    (same : f (c, v) = f (c, w)) : (tput t c v).findSome? f = none ↔ t.findSome? f = none := by
  simp only [List.findSome?_eq_none_iff]
  induction t with
  | nil => cases at_
  | cons y t ih =>
    obtain ⟨i, a⟩ := y
    have stood := tget_mem _ _ _ at_
    unfold tget at at_
    unfold tput
    split
    · rw [List.forall_mem_cons, same]
      exact ⟨fun none_ => none_.2, fun none_ => ⟨none_ _ stood, none_⟩⟩
    split
    · next eq =>
      rw [if_pos eq] at at_
      cases at_
      subst eq
      simp only [List.forall_mem_cons, same]
    · next ne =>
      rw [if_neg ne] at at_
      simp only [List.forall_mem_cons, ih at_]

/-- Where no other channel's PLAY drives the group, the one put does. -/
theorem findSome?_tput_chanPlay {t : Tab Chan} {z : Nat × PlayJob} (only : ∀ y, t.findSome? (chanPlay g) = some y → y.1 = c)
    (plays : chanPlay g (c, ch) = some z) : (tput t c ch).findSome? (chanPlay g) = some z := by
  induction t with
  | nil => exact List.findSome?_cons_of_isSome (by rw [plays]; rfl) |>.trans plays
  | cons y t ih =>
    obtain ⟨i, a⟩ := y
    unfold tput
    split
    · rw [List.findSome?_cons, plays]
    split
    · rw [List.findSome?_cons, plays]
    · next ne =>
      have idle : chanPlay g (i, a) = none := by
        by_contra found
        obtain ⟨y, found⟩ := Option.ne_none_iff_exists'.mp found
        exact ne ((only y (by rw [List.findSome?_cons, found])).symm.trans (chanPlay_fst found))
      rw [List.findSome?_cons, idle]
      exact ih fun y first => only y (by rw [List.findSome?_cons, idle]; exact first)

theorem playOn_setJob (at_ : tget d.hif.chans c = some ch) (only : ∀ y, d.playOn g = some y → y.1 = c) (group : j.group = g) :
    (setJob c (some (.play j)) d).playOn g = some (c, j) := by
  rw [playOn_eq]
  unfold setJob onChan
  rw [at_]
  exact findSome?_tput_chanPlay only (chanPlay_of_job rfl group)

theorem setJob_sl (c : Nat) (j : Option Job) (d : Dev) : (setJob c j d).sl = d.sl := onChan_sl _ _ _

theorem setJob_out (c : Nat) (j : Option Job) (d : Dev) : (setJob c j d).out = d.out := onChan_out _ _ _

/-! ## Pickup -/

theorem pickupWhen_onHif (go : Bool) (h : Hdr) (op : Byte) (d : Dev) : ∃ f, (pickupWhen go h op d).1 = onHif f d := by
  unfold pickupWhen
  split
  · exact ⟨id, rfl⟩
  · dsimp only
    split
    · exact ⟨id, rfl⟩
    · dsimp only
      exact ⟨_, rfl⟩

theorem pickupWhen_playOn (go : Bool) (h : Hdr) (op : Byte) (d : Dev) (g : Fin 4) :
    (pickupWhen go h op d).1.playOn g = none ↔ d.playOn g = none := by
  rw [playOn_eq, playOn_eq]
  unfold pickupWhen
  split
  · exact .rfl
  · next at_ =>
    dsimp only
    split
    · exact .rfl
    · exact findSome?_tput_eq_none at_ (chanPlay_congr rfl)

theorem pickupWhen_chan (go : Bool) (h : Hdr) (op : Byte) (d : Dev) (at_ : tget d.hif.chans h.chan = some ch) :
    ∃ k, tget (pickupWhen go h op d).1.hif.chans h.chan = some k ∧ k.group = ch.group ∧ k.decPipe = ch.decPipe ∧ k.domain = ch.domain := by
  unfold pickupWhen
  rw [at_]
  dsimp only
  split
  · exact ⟨ch, at_, rfl, rfl, rfl⟩
  · exact ⟨_, tget_tput _ _ _ _, rfl, rfl, rfl⟩

/-- A PLAY whose descriptor starts does its own meaning on a head that differs in the host interface only, with the channel's own fields and
the PLAYs as they were. -/
theorem play_starts (on : Starts 0x60 [8] h d) : ∃ f, PickedUp h d (onHif f d) ∧
    (∀ g, (onHif f d).playOn g = none ↔ d.playOn g = none) ∧
    (∀ ch, tget d.hif.chans h.chan = some ch →
      ∃ k, tget (onHif f d).hif.chans h.chan = some k ∧ k.group = ch.group ∧ k.decPipe = ch.decPipe ∧ k.domain = ch.domain) ∧
    ∀ body, descriptor 0x60 [8] h true body d = body (onHif f d) := by
  obtain ⟨x, picked, runs⟩ := starts_pickedUp on rfl
  have same : x = (pickupWhen true h 0x60 d).1 := by
    obtain ⟨picks, turn, type, clean⟩ := on
    refine (runs id).symm.trans ?_
    unfold descriptorWhen
    rw [if_pos picks]
    generalize pickupWhen true h 0x60 d = p at turn
    obtain ⟨y, started⟩ := p
    obtain rfl : started = true := turn
    dsimp only
    rw [type, clean]
    rfl
  obtain ⟨f, changes⟩ := pickupWhen_onHif true h 0x60 d
  obtain rfl : x = onHif f d := same.trans changes
  refine ⟨f, picked, fun g => ?_, fun ch at_ => ?_, runs⟩
  · rw [same]
    exact pickupWhen_playOn true h 0x60 d g
  · rw [same]
    exact pickupWhen_chan true h 0x60 d at_

/-! ## The job of a PLAY -/

/-- A PLAY that has sent nothing yet. -/
structure PlayJob.Fresh (j : PlayJob) (h : Hdr) (g : Fin 4) : Prop where
  hdr : j.h = h
  group : j.group = g
  closed : j.opened = false
  may : j.mayStart = true
  done : j.done = 0
  sound : j.first = 0 ∧ j.endAs = none

/-- The FRAME_OPEN of a PLAY's next frame (R53, R245). -/
def openPacket (g : Fin 4) (j : PlayJob) (f : FrameRec) (d : Dev) : Packet :=
  playPacket g 2 (((d.sl.groups.at g).grant.map (·.streamId)).getD 0) (d.sl.groups.at g).playNext (playStamp j f).1 (playStamp j f).2
    (BitVec.ofNat 32 f.recorded) 0 (openBody f)

theorem openPacket_sums (g : Fin 4) (j : PlayJob) (f : FrameRec) (d : Dev) :
    (openPacket g j f d).hcrc = hcrcOf (openPacket g j f d) ∧ (openPacket g j f d).crc = pcrcOf (openPacket g j f d) :=
  ⟨sealPacket_hcrc _, sealPacket_crc _⟩

theorem sendSlot_out (g : Fin 4) (mk : W32 → Packet) (d : Dev) :
    ∃ l, (sendSlot g mk d).out = d.out ++ [.slTx g (mk (d.sl.groups.at g).playNext) l] := ⟨_, rfl⟩

/-- The first frame opens where credit, the stop, the metadata and the pace allow it (R245). -/
theorem playOne_opens {f : FrameRec} {rest : List FrameRec} {l : W32} (frames : j.frames = f :: rest) (closed : j.opened = false)
    (may : j.mayStart = true) (metas : j.metaLeft = []) (runs : (d.sl.groups.at g).playStop = none)
    (link : (d.sl.groups.at g).link = .granted) (limit : (d.sl.groups.at g).playLimit = some l)
    (credit : precEq (d.sl.groups.at g).playNext l = true) :
    ∃ e w, playOne g c j d = some e ∧ e.out = d.out ++ [.slTx g (openPacket g j f d) w] := by
  obtain ⟨w, sent⟩ := sendSlot_out g (fun n => playPacket g 2 (((d.sl.groups.at g).grant.map (·.streamId)).getD 0) n (playStamp j f).1
    (playStamp j f).2 (BitVec.ofNat 32 f.recorded) 0 (openBody f)) d
  unfold playOne
  simp only [frames, closed, may, metas, runs, link, limit, credit, Option.isSome_none, Bool.and_false, Bool.false_eq_true, if_false,
    beq_self_eq_true, Option.map_some, Option.getD_some, Bool.and_true, Bool.not_true, List.isEmpty_nil, Bool.or_self, Bool.not_false, if_true]
  refine ⟨_, w, rfl, ?_⟩
  rw [setJob_out]
  exact sent

theorem playOne_of_noFrames (frames : j.frames = []) (runs : (d.sl.groups.at g).playStop = none) :
    playOne g c j d = some (endPlay c j (j.endAs.getD j.first) d) := by
  unfold playOne
  simp only [frames, runs, Option.isSome_none, Bool.and_false, Bool.false_eq_true, if_false]

/-- The first thing that a PLAY does stays done. -/
theorem runPlay_after (on : d.playOn g = some (c, j)) (one : playOne g c j d = some e) : Grows e (runPlay g d) := by
  obtain ⟨n, fuel⟩ : ∃ n, playFuel j = n + 1 := ⟨_, rfl⟩
  unfold runPlay
  rw [on, Option.map_some, Option.getD_some, fuel, pumpPlay, on]
  dsimp only
  rw [one]
  exact pumpPlay_grows g n e

theorem runPlay_opens {f : FrameRec} {rest : List FrameRec} {l : W32} (on : d.playOn g = some (c, j)) (frames : j.frames = f :: rest)
    (closed : j.opened = false) (may : j.mayStart = true) (metas : j.metaLeft = []) (runs : (d.sl.groups.at g).playStop = none)
    (link : (d.sl.groups.at g).link = .granted) (limit : (d.sl.groups.at g).playLimit = some l)
    (credit : precEq (d.sl.groups.at g).playNext l = true) :
    ∃ w post, (runPlay g d).out = d.out ++ .slTx g (openPacket g j f d) w :: post := by
  obtain ⟨e, w, one, sent⟩ := playOne_opens frames closed may metas runs link limit credit
  obtain ⟨post, after⟩ := runPlay_after on one
  exact ⟨w, post, by rw [after, sent, List.append_assoc, List.singleton_append]⟩

/-! ## The entry of a PLAY -/

theorem onChan_outstanding {f : Chan → Chan} (same : ∀ ch, (f ch).descs = ch.descs) (c : Nat) (d : Dev) (k : Nat) (tag : W32) :
    (onChan c f d).outstanding k tag = d.outstanding k tag := by
  unfold onChan
  split
  · next at_ =>
    unfold Dev.outstanding
    rw [onHif_hif]
    by_cases is : k = c
    · subst is
      rw [tget_tput, at_]
      dsimp only
      rw [same]
    · rw [tget_tput_ne _ _ _ _ _ is]
  · rfl

theorem Awaits.freeTile (a : Awaits h d) (c : Nat) : Awaits h (freeTile c d) := by
  unfold Machine.freeTile
  split
  · next b _ =>
    obtain ⟨outstanding, dying, alive⟩ := a.of_keeps (poolFree_k (L := [.bpm]) (n := 2) (i := b) (led := true) rfl (.refl _ d))
      (by decide) (by decide)
    refine ⟨?_, ?_, ?_⟩
    · refine (onChan_outstanding ?_ _ _ _ _).trans outstanding
      exact fun _ => rfl
    · rw [onChan_dying]
      exact dying
    · rw [onChan_glb]
      exact alive
  · exact a

theorem endPlay_answers (a : Awaits j.h d) (c status : Nat) : Answered 0x60 j.h status (BitVec.ofNat 64 j.done)
    (((d.sl.groups.at j.group).playNext - 1).setWidth 64) d (endPlay c j status d) := by
  have ready := (a.setJob c none).freeTile c
  unfold endPlay
  exact .around ((setJob_grows _ _ _).trans (freeTile_grows _ _))
    (complete_answers _ _ _ _ _ _ ready.outstanding ready.dying ready.alive) (settleSnaps_grows _)

/-! ## A PLAY as it starts (R245) -/

/-- The head with a PLAY on a channel, and the gsn that its group goes on at. -/
def startPlay (g : Fin 4) (c : Nat) (gsn : W32) (j : PlayJob) (d : Dev) : Dev :=
  setJob c (some (.play j)) (onGroup g (fun x => { x with playNext := gsn }) d)

theorem startPlay_out (g : Fin 4) (c : Nat) (gsn : W32) (j : PlayJob) (d : Dev) : (startPlay g c gsn j d).out = d.out := setJob_out _ _ _

theorem startPlay_at (g : Fin 4) (c : Nat) (gsn : W32) (j : PlayJob) (d : Dev) :
    (startPlay g c gsn j d).sl.groups.at g = { d.sl.groups.at g with playNext := gsn } := by
  unfold startPlay
  rw [setJob_sl, onGroup_at]

theorem startPlay_playOn (at_ : tget d.hif.chans c = some ch) (idle : d.playOn g = none) (group : j.group = g) (gsn : W32) :
    (startPlay g c gsn j d).playOn g = some (c, j) := by
  refine playOn_setJob at_ (fun y first => ?_) group
  cases idle.symm.trans first

/-- With no frame to send, the entry names the gsn before the first. -/
theorem startPlay_answers {gsn : W32} (fresh : j.Fresh h g) (awaits : Awaits h d) (plays : (startPlay g c gsn j d).playOn g = some (c, j))
    (runs : (d.sl.groups.at g).playStop = none) (frames : j.frames = []) :
    Answered 0x60 h 0 0 ((gsn - 1).setWidth 64) d (runPlay g (startPlay g c gsn j d)) := by
  obtain ⟨rfl, rfl, -, -, done, first, endAs⟩ := fresh
  have ready : Awaits j.h (startPlay j.group c gsn j d) := (awaits.of_keeps (onGroup_keeps _ _ _) (by decide) (by decide)).setJob c _
  have answers := endPlay_answers ready c (j.endAs.getD j.first)
  rw [startPlay_at, done, first, endAs] at answers
  have one : playOne j.group c j (startPlay j.group c gsn j d) = _ := playOne_of_noFrames frames (by rw [startPlay_at]; exact runs)
  rw [first, endAs] at one
  exact .around (.of_eq (startPlay_out _ _ _ _ _)) answers (runPlay_after plays one)

/-! ## What makes a PLAY refuse, and what it starts (R245, R267) -/

section
variable {volume kind part target seg pace frames recGroup : Nat} {flags : BitVec 3} {first : BitVec 48} {gsnBase : W32}
  {frameBase : BitVec 48} {timeBase : W64} {v : Volume} {src : Source}

theorem doPlay_of_absent (absent : d.volume volume = none ∨ d.source volume kind part target seg = none) :
    doPlay h volume kind part target seg flags recGroup pace first frames gsnBase frameBase timeBase d = complete h 0x60 0x10 0 0 d := by
  unfold doPlay
  split
  · next vol source _ =>
    rcases absent with none_ | none_
    · rw [none_] at vol
      cases vol
    · rw [none_] at source
      cases source
  · rfl

variable (vol : d.volume volume = some v) (source : d.source volume kind part target seg = some src)
  (chan : tget d.hif.chans h.chan = some ch) (group : ch.group = g.val)
include vol source chan group

theorem doPlay_of_busy (busy : d.sl.player = false ∨ (d.sl.groups.at g).link ≠ .granted ∨ d.decOn ch.decPipe = false ∨
      (d.playOn g).isSome = true ∨ d.decryptPage v ch.domain = none) :
    doPlay h volume kind part target seg flags recGroup pace first frames gsnBase frameBase timeBase d = complete h 0x60 8 0 0 d := by
  have lt : ch.group < 4 := group ▸ g.isLt
  have is : (⟨ch.group, lt⟩ : Fin 4) = g := Fin.ext group
  have refuses : (!d.sl.player || (d.sl.groups.at g).link != .granted || !d.decOn ch.decPipe || (d.playOn g).isSome) = true ∨
      d.decryptPage v ch.domain = none := by
    rcases busy with player | link | decodes | plays | page
    · exact .inl (by rw [player]; rfl)
    · exact .inl (by rw [bne_iff_ne.mpr link, Bool.or_true]; rfl)
    · exact .inl (by rw [decodes, Bool.not_false, Bool.or_true]; rfl)
    · exact .inl (by rw [plays, Bool.or_true])
    · exact .inr page
  unfold doPlay
  rw [vol, source, chan]
  simp only [dif_pos lt, is]
  rcases refuses with refuses | page
  · exact if_pos refuses
  · rw [page]
    exact ite_self _

/-- A PLAY that may go on sets the group's next gsn, takes the frames asked for, and sends what it can. -/
theorem doPlay_of_ready {page : Option Nat} (player : d.sl.player = true) (link : (d.sl.groups.at g).link = .granted)
    (decodes : d.decOn ch.decPipe = true) (idle : d.playOn g = none) (key : d.decryptPage v ch.domain = some page) :
    ∃ j : PlayJob, doPlay h volume kind part target seg flags recGroup pace first frames gsnBase frameBase timeBase d =
        runPlay g (startPlay g h.chan gsnBase j d) ∧ j.Fresh h g ∧
      j.frames = (src.frames.filter (fun f => f.group == recGroup && decide (first.toNat ≤ f.frame.toNat))).take frames ∧
      j.metaLeft = (if flags.getLsbD 2 then src.entries.filter (fun e => e.flags.getLsbD 3) else []) ∧
      j.renumber = flags.getLsbD 0 ∧ j.frameBase = frameBase ∧ j.timeBase = timeBase ∧
      j.tbase = ((j.frames.head?).map (·.timestamp)).getD 0 := by
  have lt : ch.group < 4 := group ▸ g.isLt
  have is : (⟨ch.group, lt⟩ : Fin 4) = g := Fin.ext group
  unfold doPlay
  rw [vol, source, chan]
  simp only [dif_pos lt, is, player, link, decodes, idle, key, Option.isSome_none, bne_self_eq_false, Bool.not_true, Bool.or_self,
    Bool.false_eq_true, if_false]
  exact ⟨_, rfl, ⟨rfl, rfl, rfl, rfl, rfl, rfl, rfl⟩, rfl, rfl, rfl, rfl, rfl, rfl⟩

end

/-! ## The commands -/

/-- The numbers that a fresh PLAY gives its first frame: those of the record, or the bases of the command (R245). -/
theorem playStamp_of_fresh {f : FrameRec} {rest : List FrameRec} (fresh : j.Fresh h g) (frames : j.frames = f :: rest)
    (base : j.tbase = ((j.frames.head?).map (·.timestamp)).getD 0) :
    playStamp j f = if j.renumber then (j.frameBase, j.timeBase) else (f.frame, f.timestamp) := by
  have tbase : j.tbase = f.timestamp := by rw [base, frames]; rfl
  unfold playStamp
  rw [fresh.done, tbase, BitVec.sub_self, BitVec.add_zero, BitVec.add_zero]

/-- The field checks of PLAY (R267). -/
theorem playFields_eq (kind part recGroup pace : Nat) (flags : BitVec 3) (frameBase : BitVec 48) (timeBase : W64) :
    (decide (kind < 3 ∧ part < 2 ∧ recGroup < 4) && (flags.getLsbD 0 || (frameBase == 0 && timeBase == 0)) &&
      (flags.getLsbD 1 || pace == 0)) =
    decide (kind < 3 ∧ part < 2 ∧ recGroup < 4 ∧ (flags.getLsbD 0 = true ∨ (frameBase = 0 ∧ timeBase = 0)) ∧
      (flags.getLsbD 1 = true ∨ pace = 0)) := by
  rw [Bool.eq_iff_iff]
  simp only [Bool.and_eq_true, Bool.or_eq_true, beq_iff_eq, decide_eq_true_eq, and_assoc]

theorem exec_play (h : Hdr) (volume kind part target seg : Nat) (flags : BitVec 3) (recGroup pace : Nat) (first : BitVec 48) (frames : Nat)
    (gsnBase : W32) (frameBase : BitVec 48) (timeBase : W64) (s : State) :
    exec (.play h volume kind part target seg flags recGroup pace first frames gsnBase frameBase timeBase) s =
      .next { s with
        dev := descriptor 0x60 [8] h (decide (kind < 3 ∧ part < 2 ∧ recGroup < 4 ∧
          (flags.getLsbD 0 = true ∨ (frameBase = 0 ∧ timeBase = 0)) ∧ (flags.getLsbD 1 = true ∨ pace = 0)))
          (doPlay h volume kind part target seg flags recGroup pace first frames gsnBase frameBase timeBase) s.dev } := by
  rw [← playFields_eq]
  rfl

theorem exec_playPaceTimer (live : s.dev.live = true) (c : Nat) :
    exec (.playPaceTimer c) s = .next { s with dev := paceTimer c s.dev } := by
  change Host.Outcome.next { s with dev := when s.dev.live (paceTimer c) s.dev } = _
  rw [live, when_true]

theorem paceTimer_of_unpaced (unpaced : ∀ j, d.job c = some (.play j) → j.paced = false) : paceTimer c d = d := by
  unfold paceTimer
  split
  · next j job => rw [unpaced j job, if_neg Bool.false_ne_true]
  · rfl

theorem paceTimer_of_paced (job : d.job c = some (.play j)) (paced : j.paced = true) :
    paceTimer c d = runPlay j.group (setJob c (some (.play { j with mayStart := true })) d) := by
  unfold paceTimer
  rw [job]
  exact if_pos paced

/-- Settles O31: the refusals of PLAY, its entry where it names no frame, the FRAME_OPEN of its first frame, and that of the next frame of a
paced PLAY. -/
theorem playFrames : Obligations.PlayFrames := by
  unfold Obligations.PlayFrames
  refine ⟨fun s h g volume kind part target seg pace frames flags recGroup first gsnBase frameBase timeBase on => ?_,
    fun s c live => ⟨fun unpaced => ?_, fun j f rest l job plays paced closed metas frames link runs limit credit => ?_⟩⟩
  · intro cmd valid
    have next : exec cmd s = .next { s with
        dev := descriptor 0x60 [8] h valid
          (doPlay h volume kind part target seg flags recGroup pace first frames gsnBase frameBase timeBase) s.dev } :=
      exec_play h volume kind part target seg flags recGroup pace first frames gsnBase frameBase timeBase s
    obtain ⟨f, picked, plays, chans, body⟩ := play_starts on
    refine ⟨fun wrong => ⟨_, next, ?_⟩, fun v src ch ok vol source chan group => ?_⟩
    · cases ok : valid with
      | false => exact (refuses_body on.1 on.2.1 (Bool.and_false _) _).1
      | true =>
        have absent := wrong.resolve_left (by rw [ok]; exact Bool.noConfusion)
        rw [body, doPlay_of_absent (d := onHif f s.dev) absent]
        exact picked.answered _ _ _ _
    · obtain ⟨k, at_, groupAs, pipeAs, domainAs⟩ := chans ch chan
      rw [ok, body] at next
      refine ⟨fun busy => ⟨_, next, ?_⟩, fun page player link decodes idle key runs => ?_⟩
      · rw [doPlay_of_busy (d := onHif f s.dev) (g := g) vol source at_ (groupAs.trans group)]
        · exact picked.answered _ _ _ _
        rw [pipeAs, domainAs]
        refine busy.imp_right (.imp_right (.imp_right (.imp_left fun some_ => ?_)))
        exact Option.isSome_iff_ne_none.mpr fun none_ => Option.isSome_iff_ne_none.mp some_ ((plays g).mp none_)
      · intro fs
        obtain ⟨j, starts, fresh, taken, metas, renumber, frameBaseAs, timeBaseAs, tbase⟩ :=
          doPlay_of_ready (recGroup := recGroup) (flags := flags) (pace := pace) (first := first) (frames := frames) (gsnBase := gsnBase)
            (frameBase := frameBase) (timeBase := timeBase) (d := onHif f s.dev) (g := g) vol source at_ (groupAs.trans group) player link
            (by rw [pipeAs]; exact decodes) ((plays g).mpr idle) (by rw [domainAs]; exact key)
        have drives := startPlay_playOn (gsn := gsnBase) at_ ((plays g).mpr idle) fresh.group
        have at_g := startPlay_at g h.chan gsnBase j (onHif f s.dev)
        rw [starts] at next
        refine ⟨fun nothing => ⟨_, next, ?_⟩, fun r rest l frames_ some_ tiles limit credit => ?_⟩
        · refine .around picked.grows (startPlay_answers fresh picked.awaits drives runs ?_) (.refl _)
          rw [taken]
          rcases nothing with none_ | none_
          · rw [none_, List.take_zero]
          · exact (congrArg (List.take frames) none_).trans List.take_nil
        · obtain ⟨m, rfl⟩ := Nat.exists_eq_add_one.mpr some_
          have head : j.frames = r :: rest.take m := taken.trans (congrArg (List.take (m + 1)) frames_)
          have noMetas : j.metaLeft = [] := by
            rw [metas]
            split
            · next sends => exact tiles sends
            · rfl
          obtain ⟨w, post, out⟩ := runPlay_opens drives head fresh.closed fresh.may noMetas (by rw [at_g]; exact runs)
            (by rw [at_g]; exact link) (by rw [at_g]; exact limit) (by rw [at_g]; exact credit)
          have stamp := playStamp_of_fresh fresh head tbase
          rw [renumber, frameBaseAs, timeBaseAs] at stamp
          obtain ⟨hcrc, crc⟩ := openPacket_sums g j r (startPlay g h.chan gsnBase j (onHif f s.dev))
          refine ⟨_, next, _, w, post, out.trans (congrArg (· ++ _) ((startPlay_out _ _ _ _ _).trans picked.out)), rfl,
            congrArg Group.playNext at_g, (congrArg Prod.fst stamp).trans (apply_ite _ _ _ _),
            (congrArg Prod.snd stamp).trans (apply_ite _ _ _ _), rfl, hcrc, crc⟩
  · rw [exec_playPaceTimer live, paceTimer_of_unpaced unpaced]
  · obtain ⟨ch, at_⟩ := chan_of_job job
    have on : (setJob c (some (.play { j with mayStart := true })) s.dev).playOn j.group = some (c, { j with mayStart := true }) :=
      playOn_setJob at_ (fun y first => by rw [plays] at first; cases first; rfl) rfl
    have same := setJob_sl c (some (.play { j with mayStart := true })) s.dev
    obtain ⟨w, post, out⟩ := runPlay_opens on frames closed rfl metas (by rw [same]; exact runs) (by rw [same]; exact link)
      (by rw [same]; exact limit) (by rw [same]; exact credit)
    obtain ⟨hcrc, crc⟩ := openPacket_sums j.group { j with mayStart := true } f (setJob c (some (.play { j with mayStart := true })) s.dev)
    refine ⟨_, exec_playPaceTimer live c, _, w, post, ?_, rfl, ?_, hcrc, crc⟩
    · rw [paceTimer_of_paced job paced, out, setJob_out]
    · exact congrArg (fun x : Sl => (x.groups.at j.group).playNext) same

end Sys2Proof.Machine
end

section
/-! PROOF. A descriptor that does nothing but complete (R256, R260, R261): no channel, no generation and no take is new after it, and no
descriptor is aborted by it. -/

namespace Sys2Proof.Machine
open Sys2Proof

variable {d e u : Dev} {h : Hdr} {op : Byte} {go v : Bool} {ct : List Nat}

/-- A take apart from its channel. -/
def Take.unlinked (t : Take) : Take := { t with chan := none }

/-- Nothing is new in `e`: it has channels of `d` alone, each with aborted descriptors that it had in `d`; the generations are those of `d`,
and so are the takes, but for their channels. -/
structure Sheds (d e : Dev) : Prop where
  gens : e.hif.gens = d.hif.gens
  chans : ∀ k ch, tget e.hif.chans k = some ch →
    ∃ ch0, tget d.hif.chans k = some ch0 ∧ ∀ x ∈ ch.descs, x.aborted = true → x ∈ ch0.descs
  takes : e.cat.takes.map Take.unlinked = d.cat.takes.map Take.unlinked

namespace Sheds

theorem of_same (gens : e.hif.gens = d.hif.gens) (chans : e.hif.chans = d.hif.chans) (cat : e.cat = d.cat) : Sheds d e :=
  ⟨gens, fun _ ch at_ => ⟨ch, chans ▸ at_, fun _ mem _ => mem⟩, by rw [cat]⟩

theorem refl (d : Dev) : Sheds d d := of_same rfl rfl rfl

theorem trans (a : Sheds d e) (b : Sheds e u) : Sheds d u := by
  refine ⟨b.gens.trans a.gens, fun k ch at_ => ?_, b.takes.trans a.takes⟩
  obtain ⟨ch1, at1, sub1⟩ := b.chans k ch at_
  obtain ⟨ch0, at0, sub0⟩ := a.chans k ch1 at1
  exact ⟨ch0, at0, fun x mem aborted => sub0 x (sub1 x mem aborted) aborted⟩

/-- A channel may change as long as no descriptor of it is aborted. -/
theorem of_tput {c : Nat} {ch k : Chan} (at_ : tget d.hif.chans c = some ch) (chans : e.hif.chans = tput d.hif.chans c k)
    (fewer : ∀ x ∈ k.descs, x.aborted = true → x ∈ ch.descs) (gens : e.hif.gens = d.hif.gens) (cat : e.cat = d.cat) : Sheds d e := by
  refine ⟨gens, fun j w found => ?_, by rw [cat]⟩
  rw [chans] at found
  obtain ⟨rfl, rfl⟩ | before := tget_tput_cases _ _ _ _ _ found
  · exact ⟨ch, at_, fewer⟩
  · exact ⟨w, before, fun _ mem _ => mem⟩

/-- A channel that was not there is not there after. -/
theorem absent (a : Sheds d e) {k : Nat} (none_ : tget d.hif.chans k = none) : tget e.hif.chans k = none := by
  cases at_ : tget e.hif.chans k with
  | none => rfl
  | some ch =>
    obtain ⟨ch0, at0, -⟩ := a.chans k ch at_
    exact absurd (none_.symm.trans at0) nofun

end Sheds

/-! ## Completion -/

theorem mem_of_mem_dropTag {tag : W32} {l : List Desc} {x : Desc} (mem : x ∈ dropTag tag l) : x ∈ l := by
  induction l with
  | nil => exact mem
  | cons y t ih =>
    unfold dropTag at mem
    split at mem
    · exact List.mem_cons_of_mem _ mem
    · rcases List.mem_cons.mp mem with rfl | rest
      · exact List.mem_cons_self
      · exact List.mem_cons_of_mem _ (ih rest)

theorem sendMsix_sheds (n : Nat) (d : Dev) : Sheds d (sendMsix n d) := by
  unfold sendMsix
  split
  · exact .refl d
  · split <;> exact .of_same rfl rfl rfl

theorem writeEntry_sheds (c : Nat) (x : Desc) (st : Nat) (r0 r1 : W64) (d : Dev) : Sheds d (writeEntry c x st r0 r1 d) := by
  unfold writeEntry
  split
  · exact .refl d
  next ch at_ =>
    split
    · exact .refl d
    · dsimp only
      split
      · refine .trans ?_ (sendMsix_sheds _ _)
        refine .of_tput at_ rfl ?_ rfl rfl
        exact fun _ mem _ => mem
      · refine .of_tput at_ rfl ?_ rfl rfl
        exact fun _ mem _ => mem

theorem onChan_sheds {c : Nat} {f : Chan → Chan} (fewer : ∀ ch, ∀ x ∈ (f ch).descs, x ∈ ch.descs) (d : Dev) : Sheds d (onChan c f d) := by
  unfold onChan
  split
  · next ch at_ => exact .of_tput at_ rfl (fun x mem _ => fewer ch x mem) rfl rfl
  · exact .refl d

theorem postEntry_sheds (c : Nat) (x : Desc) (st : Nat) (r0 r1 : W64) (d : Dev) : Sheds d (postEntry c x st r0 r1 d) :=
  (onChan_sheds (fun _ _ => mem_of_mem_dropTag) d).trans (writeEntry_sheds _ _ _ _ _ _)

theorem settleAbort_sheds (one : settleAbort d = some e) : Sheds d e := by
  unfold settleAbort at one
  split at one
  · cases one
  · cases one
    refine .trans ?_ (postEntry_sheds _ _ _ _ _ _)
    exact .of_same rfl rfl rfl

theorem unlinked_ite (c : Nat) (t : Take) : (if t.chan = some c then { t with chan := none } else t).unlinked = t.unlinked := by
  split <;> rfl

/-- The takes of a channel that is gone lose it. -/
theorem sheds_of_unlink {c : Nat} (cat : e.cat = d.cat.unlink c) (hif : e.hif = d.hif) : Sheds d e := by
  refine ⟨by rw [hif], fun k ch at_ => ⟨ch, hif ▸ at_, fun _ mem _ => mem⟩, ?_⟩
  rw [cat]
  unfold Cat.unlink
  rw [List.map_map]
  exact List.map_congr_left fun t _ => unlinked_ite c t

/-- A channel goes, and its destruction with it. -/
theorem tdel_sheds (c : Nat) (d : Dev) : Sheds d (onHif (fun f => { f with chans := tdel f.chans c, dying := tdel f.dying c }) d) :=
  ⟨rfl, fun _ ch at_ => ⟨ch, tget_tdel_some _ _ _ _ at_, fun _ mem _ => mem⟩, rfl⟩

theorem settleDying_sheds (one : settleDying d = some e) : Sheds d e := by
  unfold settleDying at one
  split at one
  · cases one
  next c by_ _ =>
    dsimp only at one
    have unlinks : Sheds d { d with
        dma := { d.dma with chs := d.dma.chs.filter (fun x => x.2.chan != c) }
        cat := d.cat.unlink c } := sheds_of_unlink (c := c) rfl rfl
    split at one <;> cases one
    · exact unlinks.trans (tdel_sheds c _)
    · exact ((unlinks.trans (sendMsix_sheds _ _)).trans (tdel_sheds c _)).trans (postEntry_sheds _ _ _ _ _ _)
    · exact (unlinks.trans (tdel_sheds c _)).trans (postEntry_sheds _ _ _ _ _ _)

theorem settleOne_sheds (one : settleOne d = some e) : Sheds d e := by
  unfold settleOne at one
  split at one
  · next aborts =>
    cases one
    exact settleAbort_sheds aborts
  split at one
  · cases one
    exact postEntry_sheds _ _ _ _ _ _
  split at one
  · cases one
    exact postEntry_sheds _ _ _ _ _ _
  · exact settleDying_sheds one

theorem settle_sheds (n : Nat) (d : Dev) : Sheds d (settle n d) := by
  induction n generalizing d with
  | zero => exact .refl d
  | succ n ih =>
    unfold settle
    split
    · next one => exact (settleOne_sheds one).trans (ih _)
    · split
      · exact .of_same rfl rfl rfl
      · exact .refl d

theorem complete_sheds (h : Hdr) (op : Byte) (st : Nat) (r0 r1 : W64) (d : Dev) : Sheds d (complete h op st r0 r1 d) := by
  unfold complete
  split
  · exact (postEntry_sheds _ _ _ _ _ d).trans (settle_sheds _ _)
  · exact .refl d

/-! ## Pickup -/

theorem mem_of_aborted_markStarted {tag : W32} {l : List Desc} {x : Desc} (mem : x ∈ markStarted tag l) (aborted : x.aborted = true) :
    x ∈ l := by
  induction l with
  | nil => exact mem
  | cons y t ih =>
    unfold markStarted at mem
    split at mem
    · next starts =>
      rcases List.mem_cons.mp mem with rfl | rest
      · exact absurd (aborted.symm.trans starts.2.2) nofun
      · exact List.mem_cons_of_mem _ rest
    · rcases List.mem_cons.mp mem with rfl | rest
      · exact List.mem_cons_self
      · exact List.mem_cons_of_mem _ (ih rest)

theorem mem_of_aborted_turn {c : Prop} [Decidable c] {tag : W32} {l : List Desc} {x : Desc}
    (mem : x ∈ if c then markStarted tag l else l) (aborted : x.aborted = true) : x ∈ l := by
  split at mem
  · exact mem_of_aborted_markStarted mem aborted
  · exact mem

/-- A descriptor that the pickup itself fetches is not aborted. -/
theorem mem_of_aborted_fetched {c : Prop} [Decidable c] {l : List Desc} {x : Desc}
    (mem : x ∈ if c then l else l ++ [descOf h op false]) (aborted : x.aborted = true) : x ∈ l := by
  split at mem
  · exact mem
  · rcases List.mem_append.mp mem with old | new
    · exact old
    · obtain rfl := List.mem_singleton.mp new
      exact absurd aborted nofun

theorem pickupWhen_sheds (go : Bool) (h : Hdr) (op : Byte) (d : Dev) : Sheds d (pickupWhen go h op d).1 := by
  unfold pickupWhen
  split
  · exact .refl d
  next ch at_ =>
    dsimp only
    split
    · exact .refl d
    refine .of_tput at_ rfl (fun x mem aborted => ?_) rfl rfl
    exact mem_of_aborted_fetched (mem_of_aborted_turn mem aborted) aborted

theorem pickupWhen_ctype (go : Bool) (h : Hdr) (op : Byte) (d : Dev) (k : Nat) : (pickupWhen go h op d).1.ctype k = d.ctype k := by
  unfold pickupWhen
  split
  · rfl
  next ch at_ =>
    dsimp only
    split
    · rfl
    unfold Dev.ctype
    rw [onHif_hif]
    by_cases same : k = h.chan
    · rw [same, tget_tput, at_]
      rfl
    · rw [tget_tput_ne _ _ _ _ _ same]

theorem pickupWhen_notifies (go : Bool) (h : Hdr) (op : Byte) (d : Dev) : (pickupWhen go h op d).1.hif.notifies = d.hif.notifies := by
  unfold pickupWhen
  split
  · rfl
  · dsimp only
    split <;> rfl

/-- A descriptor that starts, with valid fields, does its own meaning after its pickup. -/
theorem descriptorWhen_of_starts (on : StartsWhen go op ct h d) (valid : v = true) (body : Dev → Dev) :
    descriptorWhen go op ct h v body d = body (pickupWhen go h op d).1 := by
  obtain ⟨picks, turn, type, clean⟩ := on
  unfold descriptorWhen
  rw [if_pos picks]
  generalize pickupWhen go h op d = p at turn ⊢
  obtain ⟨x, started⟩ := p
  obtain rfl : started = true := turn
  dsimp only
  rw [type, clean, valid]
  rfl

/-- A descriptor that starts with an invalid field is answered INVALID_FIELD. -/
theorem descriptorWhen_of_invalid (on : StartsWhen go op ct h d) (invalid : v = false) (body : Dev → Dev) :
    descriptorWhen go op ct h v body d = complete h op 0x10 0 0 (pickupWhen go h op d).1 := by
  obtain ⟨picks, turn, -, -⟩ := on
  unfold descriptorWhen
  rw [if_pos picks]
  generalize pickupWhen go h op d = p at turn ⊢
  obtain ⟨x, started⟩ := p
  obtain rfl : started = true := turn
  dsimp only
  rw [invalid, Bool.and_false]
  rfl

/-- A channel that the head picks nothing up from leaves the head as it was. -/
theorem descriptorWhen_of_deaf (deaf : d.picksUp h.chan = false) (body : Dev → Dev) : descriptorWhen go op ct h v body d = d := by
  unfold descriptorWhen
  rw [deaf]
  rfl

theorem pickedUp_of_starts (on : StartsWhen go op ct h d) : PickedUp h d (pickupWhen go h op d).1 := by
  obtain ⟨x, picked, runs⟩ := starts_pickedUp on rfl
  have same : (pickupWhen go h op d).1 = x := (descriptorWhen_of_starts on rfl id).symm.trans (runs id)
  exact same ▸ picked

/-- From `d` to `e` a descriptor is answered; what else changes are the parts that every completion can change, and nothing is new in them. -/
structure Completed (op : Byte) (h : Hdr) (status : Nat) (d e : Dev) : Prop where
  answered : Answered op h status 0 0 d e
  keeps : Keeps cplBlks d e
  sheds : Sheds d e
  base : e.cat.base = d.cat.base

theorem completed_of_complete (on : StartsWhen go op ct h d) (status : Nat) :
    Completed op h status d (complete h op status 0 0 (pickupWhen go h op d).1) where
  answered := (pickedUp_of_starts on).answered op status 0 0
  keeps := ((pickedUp_of_starts on).keeps.mono (by decide)).trans (complete_keeps _ _ _ _ _ _)
  sheds := (pickupWhen_sheds go h op d).trans (complete_sheds _ _ _ _ _ _)
  base := (complete_base _ _ _ _ _ _).trans ((pickupWhen_keeps go h op d).base (by decide))

/-- A descriptor that starts and whose own meaning is to complete. -/
theorem completed_of_starts {status : Nat} {body : Dev → Dev} (on : StartsWhen go op ct h d) (valid : v = true)
    (ends : body (pickupWhen go h op d).1 = complete h op status 0 0 (pickupWhen go h op d).1) :
    Completed op h status d (descriptorWhen go op ct h v body d) := by
  rw [descriptorWhen_of_starts on valid, ends]
  exact completed_of_complete on status

theorem completed_of_invalid (on : StartsWhen go op ct h d) (invalid : v = false) (body : Dev → Dev) :
    Completed op h 0x10 d (descriptorWhen go op ct h v body d) := by
  rw [descriptorWhen_of_invalid on invalid]
  exact completed_of_complete on 0x10

end Sys2Proof.Machine
end

section
/-! PROOF. The checks of every descriptor and NOTIFY (R260, R267), VOLUME_CREATE and VOLUME_DELETE of what is not there (R502), and stale
handles (R255). -/

namespace Sys2Proof.Machine
open Sys2Proof

variable {d e : Dev} {h : Hdr}

/-! ## NOP and NOTIFY -/

theorem next_of_dev (s : State) (same : d = e) :
    (.next { s with dev := d } : Host.Outcome State Fault Refusal) = .next { s with dev := e } := by
  rw [same]

theorem doNotify_of_full (full : 16 ≤ d.hif.notifies.length) (sev : Nat) : doNotify h sev d = complete h 0x04 8 0 0 d := if_pos full

theorem doNotify_of_room (room : d.hif.notifies.length < 16) (sev : Nat) :
    doNotify h sev d = onHif (fun f => { f with notifies := f.notifies ++ [(h, sev)] }) d := if_neg (Nat.not_le.mpr room)

/-- Settles O14: the checks of R260 come before a descriptor's own meaning, and a NOTIFY that is picked up finds those that wait as they
were. -/
theorem descriptorChecks : Obligations.DescriptorChecks := by
  unfold Obligations.DescriptorChecks
  intro s h
  refine ⟨fun on => ?_, fun picks turn dirty => ?_, fun r v picks turn type => ?_, fun deaf => ?_,
    fun sev on => ⟨fun large => ?_, fun small full => ?_, fun small room => ?_⟩⟩
  · exact ⟨_, rfl, ok_body rfl on fun _ _ => rfl⟩
  · exact ⟨_, rfl, refuses_body picks turn (by rw [dirty, Bool.and_false, Bool.false_and]) _⟩
  · have other : [7].contains (s.dev.ctype h.chan) = false := by simpa using type
    exact ⟨_, rfl, refuses_body picks turn (by rw [other, Bool.false_and, Bool.false_and]) _⟩
  · exact next_of_dev s (descriptorWhen_of_deaf deaf _)
  · exact ⟨_, rfl, (completed_of_invalid on (decide_eq_false (Nat.not_lt.mpr large)) _).answered⟩
  · have full' : 16 ≤ (pickup h 0x04 s.dev).1.hif.notifies.length := by rwa [pickupWhen_notifies]
    exact ⟨_, rfl, (completed_of_starts on (decide_eq_true small) (doNotify_of_full full' sev)).answered⟩
  · have room' : (pickup h 0x04 s.dev).1.hif.notifies.length < 16 := by rwa [pickupWhen_notifies]
    have runs := descriptorWhen_of_starts on (decide_eq_true small) (doNotify h sev)
    rw [doNotify_of_room room'] at runs
    refine ⟨_, next_of_dev s runs, (pickedUp_of_starts on).keeps.trans (onHif_keeps _ _), ?_⟩
    rw [onHif_hif, pickupWhen_notifies]

/-! ## Layouts and volumes that are not there (R502) -/

theorem Cat.eq_of_base {c k : Cat} (same : c.base = k.base) : c = { k with takes := c.takes } :=
  congrArg (fun b : Cat => { b with takes := c.takes }) same

theorem doVolumeCreate_of_absent {lay : Nat} (absent : d.layout lay = none) (v : Nat) (enc dedup : Bool) (kcv dkcv : W32) :
    doVolumeCreate h v lay enc dedup kcv dkcv d = complete h 0x11 0x10 0 0 d := if_pos (by rw [absent]; rfl)

theorem doVolumeDelete_of_absent {v : Nat} (absent : d.volume v = none) : doVolumeDelete h v d = complete h 0x12 2 0 0 d :=
  if_pos (by rw [absent]; rfl)

/-- Settles O59: either descriptor does no more than complete, and a completion changes no more of the catalogue than the channels of its
takes. -/
theorem unknownLayoutAndVolume : Obligations.UnknownLayoutAndVolume := by
  unfold Obligations.UnknownLayoutAndVolume
  refine ⟨fun s h v lay enc ded kcv dkcv on absent => ?_, fun s h v on absent => ?_⟩
  · have absent' : (pickup h 0x11 s.dev).1.layout lay = none := by
      unfold Dev.layout
      rw [(pickupWhen_keeps true h 0x11 s.dev) .vault (by decide)]
      exact absent
    have done : Completed 0x11 h 0x10 s.dev (descriptor 0x11 [7] h (decide (1 ≤ v ∧ v ≤ 0xFFFE))
        (doVolumeCreate h v lay enc ded kcv dkcv) s.dev) := by
      cases valid : decide (1 ≤ v ∧ v ≤ 0xFFFE) with
      | true => exact completed_of_starts on rfl (doVolumeCreate_of_absent absent' v enc ded kcv dkcv)
      | false => exact completed_of_invalid on rfl _
    exact ⟨_, rfl, done.answered, done.keeps, Cat.eq_of_base done.base, done.sheds.takes⟩
  · have absent' : (pickup h 0x12 s.dev).1.volume v = none := by
      unfold Dev.volume
      rw [(pickupWhen_keeps true h 0x12 s.dev) .cat (by decide)]
      exact absent
    have done := completed_of_starts (body := doVolumeDelete h v) on rfl (doVolumeDelete_of_absent absent')
    exact ⟨_, rfl, done.answered, done.keeps, Cat.eq_of_base done.base, done.sheds.takes⟩

/-! ## Stale handles (R255) -/

/-- What makes a handle stale: its index holds no channel, or has another generation or a channel of another type. -/
abbrev Misnamed (handle : W32) (d : Dev) : Prop :=
  tget d.hif.chans (handle.toNat % 4096) = none ∨ (tgetD d.hif.gens 0 (handle.toNat % 4096)).toNat ≠ handle.toNat / 4096 % 65536 ∨
    d.ctype (handle.toNat % 4096) ≠ handle.toNat / 2 ^ 28

/-- The fields of a handle lie side by side (R254). -/
theorem handle_toNat {i : Nat} (index : i < 4096) (type : d.ctype i < 16) :
    (d.handle i).toNat = d.ctype i * 2 ^ 28 + (tgetD d.hif.gens 0 i).toNat * 2 ^ 12 + i := by
  have gen := (tgetD d.hif.gens 0 i).isLt
  unfold Dev.handle
  rw [BitVec.toNat_ofNat]
  omega

theorem stale_of_misnamed {handle : W32} (type : d.ctype (handle.toNat % 4096) < 16) (wrong : Misnamed handle d) : d.stale handle = true := by
  have index : handle.toNat % 4096 < 4096 := Nat.mod_lt _ (by decide)
  have fields := handle_toNat index type
  have gen := (tgetD d.hif.gens 0 (handle.toNat % 4096)).isLt
  unfold Dev.stale
  dsimp only
  rw [Bool.or_eq_true, Bool.or_eq_true, bne_iff_ne, Option.isNone_iff_eq_none]
  rcases wrong with absent | differs
  · exact .inl (.inl absent)
  · refine .inr fun same => ?_
    rw [same] at fields
    omega

theorem pickup_misnamed {handle : W32} (op : Byte) (wrong : Misnamed handle d) : Misnamed handle (pickup h op d).1 := by
  have sheds := pickupWhen_sheds true h op d
  rw [Misnamed, sheds.gens, pickupWhen_ctype]
  exact wrong.imp_left sheds.absent

theorem doAbort_of_stale {handle : W32} (stale : d.stale handle = true) (tag : W32) : doAbort h handle tag d = complete h 0x03 9 0 0 d :=
  if_pos stale

theorem doDestroy_of_stale {handle : W32} (stale : d.stale handle = true) : doDestroy h handle d = complete h 0x02 9 0 0 d := if_pos stale

/-- Settles O60: the handle is as stale after the pickup as before, so either descriptor does no more than complete. -/
theorem staleHandle : Obligations.StaleHandle := by
  unfold Obligations.StaleHandle
  intro s h handle tag op c i names on type wrong
  have stale : (pickup h op s.dev).1.stale handle = true :=
    stale_of_misnamed (by rw [pickupWhen_ctype]; exact type) (pickup_misnamed op wrong)
  have done : ∃ d, exec c s = .next { s with dev := d } ∧ Completed op h 9 s.dev d := by
    rcases names with ⟨rfl, rfl⟩ | ⟨rfl, rfl⟩
    · exact ⟨_, rfl, completed_of_starts on rfl (doDestroy_of_stale stale)⟩
    · exact ⟨_, rfl, completed_of_starts on rfl (doAbort_of_stale stale tag)⟩
  obtain ⟨d, runs, answered, keeps, sheds, -⟩ := done
  exact ⟨d, runs, answered, keeps, sheds.gens, sheds.chans, sheds.takes⟩

end Sys2Proof.Machine
end

section
/-! PROOF. What the head does of itself at a doorbell poll and as ADMIN is to stop (R264, R501): a descriptor of an opcode that its channel does
not define, whose turn has come, is completed with INVALID_FIELD (R260). -/

namespace Sys2Proof.Machine
open Sys2Proof

/-- The channels that a command leaves. -/
def chansAfter (c : Instr) (s : State) : Tab Chan :=
  match exec c s with
  | .next t => t.dev.hif.chans
  | _ => []

theorem chansAfter_of_exec {c : Instr} {s : State} {d : Dev} (runs : exec c s = .next { s with dev := d }) :
    chansAfter c s = d.hif.chans := by
  unfold chansAfter
  rw [runs]

/-- A head whose INGEST channel holds a descriptor of the opcode 0x90, which is COPY's, and that polls doorbells of channel group 0: no
hypothesis of either statement rules it out. -/
def oddHead : State :=
  let d := waitingHead [] Group.reset
  { pending := [], hbm := []
    dev := { d with regs := { d.regs with dbPage := [(0, 4096)] }
                    hif := { d.hif with chans := [(0, Chan.admin), (1, { ingestChan with descs := [descOf (hdrAt 1 0) 0x90 false] })] } } }

theorem doorbellPoll_oddHead : chansAfter (.doorbellPoll 0 []) oddHead ≠ oddHead.dev.hif.chans := by decide

/-- Refutes O16: a poll that reads no doorbell leaves the channels as they were. The head answers the descriptor of the undefined opcode as the
poll ends, and the channel holds it no longer. -/
theorem not_ringsAndInterrupts : ¬ Obligations.RingsAndInterrupts := by
  unfold Obligations.RingsAndInterrupts
  intro claim
  obtain ⟨polls, -⟩ := claim
  obtain ⟨polled, -⟩ := polls
  obtain ⟨-, present, -⟩ := polled oddHead 0 (by decide) rfl (by decide)
  obtain ⟨d, runs, -, -, same⟩ := present (by decide)
  exact doorbellPoll_oddHead ((chansAfter_of_exec runs).trans same)

theorem adminStop_oddHead : chansAfter (.adminStop 0x88) oddHead ≠ oddHead.dev.hif.chans := by decide

/-- Refutes O9: ADMIN_STOP with no ABORT, destruction or aborted descriptor in hand leaves the channels as they were. The head answers the
descriptor of the undefined opcode with it. -/
theorem not_lockAndPorts : ¬ Obligations.LockAndPorts := by
  unfold Obligations.LockAndPorts
  intro claim
  obtain ⟨-, ports⟩ := claim
  obtain ⟨-, opened, -⟩ := ports oddHead
  obtain ⟨-, -, -, stops⟩ := opened (by decide) rfl 0x88
  obtain ⟨d, runs, -, same, -⟩ := stops (by decide) rfl rfl rfl (by decide) Chan.admin rfl
  exact adminStop_oddHead ((chansAfter_of_exec runs).trans same)

end Sys2Proof.Machine
end

section
/-! PROOF. An open take keeps the channel that it names, of whatever type (R92, R253, R271): a channel that is destroyed goes once no take of
its own is still to close, and the destruction closes those of an INGEST channel alone. -/

namespace Sys2Proof.Machine
open Sys2Proof

/-- A head with a COPY channel at 2, with nothing outstanding, that an OPEN take names: no hypothesis of either statement rules it out. -/
def heldCopy : State :=
  let d := waitingHead [] Group.reset
  { pending := [], hbm := []
    dev := { d with cat := { d.cat with takes := [{ closedTake with state := .open_ }] }
                    hif := { d.hif with chans := [(0, Chan.admin), (2, { Chan.admin with ctype := 6 })] } } }

theorem channelDestroy_heldCopy : (tget (chansAfter (.channelDestroy (hdrAt 0 0) 0x60000002) heldCopy) 2).isSome = true := by decide

/-- Refutes O15: CHANNEL_DESTROY of a COPY channel with nothing outstanding leaves no channel at its index. The take that names the channel is
not closed, and the channel stays until it is. -/
theorem not_channelLife : ¬ Obligations.ChannelLife := by
  unfold Obligations.ChannelLife
  intro claim
  obtain ⟨-, -, -, ends⟩ := claim
  obtain ⟨-, destroys⟩ := ends heldCopy (hdrAt 0 0) 0x60000002 0 { Chan.admin with ctype := 6 } (by decide) (by decide) rfl rfl
  obtain ⟨d, runs, gone, -⟩ := destroys (by decide) (by decide) rfl rfl rfl rfl
  have stays := channelDestroy_heldCopy
  rw [chansAfter_of_exec runs] at stays
  exact absurd ((congrArg Option.isSome gone).symm.trans stays) (by decide)

theorem perstN_heldCopy : (tget (chansAfter .perstN heldCopy) 2).isSome = true := by decide

/-- Refutes O25: PERST_N leaves no COPY channel that had nothing outstanding. The take that names the channel is not closed, and the channel
stays until it is. -/
theorem not_hostReset : ¬ Obligations.HostReset := by
  unfold Obligations.HostReset
  intro claim
  obtain ⟨high, -⟩ := claim heldCopy rfl
  obtain ⟨⟨d, runs, -, -, -, -, -, -, -, -, -, -, -, -, gone⟩, -⟩ := high rfl
  have stays := perstN_heldCopy
  rw [chansAfter_of_exec runs, gone 2 { Chan.admin with ctype := 6 } (by decide) rfl rfl rfl rfl] at stays
  exact absurd stays (by decide)

end Sys2Proof.Machine
end

section
/-! PROOF. What else posts to the partner (R278 to R281): the journal's other records, drives that fail, sessions of replication and the
entries that a takeover adopts move Tango on its sequence numbers at most. -/

namespace Sys2Proof.Machine
open Sys2Proof

variable {d e : Dev}

/-! ## The journal's other records (R188, R205) -/

theorem appendDurable_posts (j : Nat) (d : Dev) : Posts d (appendDurable j d) := by
  unfold appendDurable
  exact (appendRec_posts _ _ _ _ _ d).trans (.of_eq rfl)

theorem remapMember_posts {l : LayoutRec} {s k : Nat} (h : remapMember l s k d = some e) : Posts d e := by
  unfold remapMember at h
  split at h
  · cases h
  · obtain ⟨r, -, rfl⟩ := Option.map_eq_some_iff.mp h
    exact .trans (setRemap_k rfl (.refl _ d)).posts (appendRec_posts _ _ _ _ _ _)

theorem remapMember_getD_posts (l : LayoutRec) (s k : Nat) (d : Dev) : Posts d ((remapMember l s k d).getD d) := by
  cases h : remapMember l s k d with
  | none => exact .refl d
  | some e => exact remapMember_posts h

theorem recordLoss_posts (x : Nat × Nat × BitVec 18) (d : Dev) : Posts d (recordLoss x d) := by
  unfold recordLoss
  exact .ite ((appendRec_posts _ _ _ _ _ _).after (.of_eq rfl)) (.of_eq rfl)

theorem recordLosses_posts (d : Dev) : Posts d (recordLosses d) := .after (.each recordLoss_posts _ _) (.of_eq rfl)

/-! ## A drive that fails (R199, R205) -/

theorem issueBuf_posts (l : LayoutRec) (sb : StripeBuf) (order : Option Nat) (d : Dev) : Posts d (issueBuf l sb order d).1 := by
  have remaps : Posts d ((d.lostMembers l sb.stripe).foldl (fun x k => (remapMember l sb.stripe k x).getD x) d) :=
    .foldl (fun x k => remapMember_getD_posts l sb.stripe k x) _ d
  unfold issueBuf
  exact (remaps.trans (appendRec_posts _ _ _ _ _ _)).trans (emits_k rfl (onVault_k rfl (.refl _ _))).posts

theorem reseal_posts {l : LayoutRec} {o : OpenEnt} {sb : StripeBuf} (h : reseal l o sb d = some e) : Posts d e := by
  have fresh := allocStripe_posts l d
  unfold reseal at h
  split at h
  · cases h
  · next q =>
    rw [q] at fresh
    split at h
    · cases h
    · cases h
      exact .after (movePages_k rfl (freeStripe_k rfl (onVault_k rfl (.refl _ _)))).posts
         (.after (appendRec_posts _ _ _ _ _ _) (fresh.trans (issueBuf_posts _ _ _ _)))

theorem sealAgain_posts (j : Nat) (d : Dev) : Posts d (sealAgain j d) := by
  unfold sealAgain
  split
  · exact .refl d
  · next o _ =>
    cases h : (d.layout o.buf.layout).bind (fun l => reseal l o o.buf d) with
    | none => exact (onOpen_k rfl (.refl _ d)).posts
    | some e =>
      obtain ⟨l, -, sealed_⟩ := Option.bind_eq_some_iff.mp h
      exact reseal_posts sealed_

theorem rewriteMember_posts (j k : Nat) (d : Dev) : Posts d (rewriteMember j k d) := by
  unfold rewriteMember
  split
  · exact .refl d
  split
  · exact .refl d
  split
  · next q => exact (remapMember_posts q).trans (.of_eq rfl)
  · exact .trans (spareOut_k rfl (.refl _ d)).posts (sealAgain_posts _ _)

theorem failDrive_posts (slot : Nat) (status : Option W32) (d : Dev) : Posts d (failDrive slot status d) := by
  unfold failDrive
  refine .ite (.refl d) ?_
  have fails (w : List W32) : Posts d (drawn (drawn (logEvent 0x0402 (BitVec.ofNat 32 slot) w
      (dropReplace slot (onDrive slot (fun x => { x with state := .failed, held := [] }) d))))) :=
    (drawn_k rfl (drawn_k rfl (logEvent_k rfl (dropReplace_k rfl (onDrive_k rfl (.refl _ d)))))).posts
  refine (fails _).trans ((tangoSend_posts _ _ _).trans (.trans (.of_eq rfl) (.foldl (fun x jk => ?_) _ _)))
  exact rewriteMember_posts _ _ x

/-! ## Reel windows (R240, R241) -/

theorem pinStripes_posts (l : LayoutRec) (v id : Nat) (ss : List Nat) (d : Dev) : Posts d (pinStripes l v id ss d) := by
  refine .foldl (fun x s => ?_) ss d
  have fresh := allocStripe_posts l x
  split
  · next q => rw [q] at fresh; exact fresh.trans (onReel_k rfl (.refl _ _)).posts
  · next q => rw [q] at fresh; exact fresh.trans (onReel_k rfl (.refl _ _)).posts

theorem pinWindow_posts {l : LayoutRec} {v id lo hi : Nat} {x : List (Nat × Nat)} (h : pinWindow l v id lo hi d = some (e, x)) : Posts d e := by
  unfold pinWindow at h
  split at h
  · cases h
  split at h
  · cases h
  dsimp only at h
  split at h
  · split at h
    · cases h
    · cases h; exact pinStripes_posts _ _ _ _ d
  · cases h

theorem pinTrigger_posts (l : LayoutRec) (t : Take) (time : W64) (d : Dev) : Posts d (pinTrigger l t time d).1 := by
  unfold pinTrigger
  split
  · exact .refl d
  dsimp only
  split
  · split
    · exact .refl d
    · next q => exact (pinWindow_posts q).trans (onReel_k rfl (.refl _ _)).posts
  · split
    · exact .refl d
    split
    · exact .refl d
    · next q => exact (pinWindow_posts q).trans (onReel_k rfl (.refl _ _)).posts

theorem pinCommitted_posts (l : LayoutRec) (v id : Nat) (d : Dev) : Posts d (pinCommitted l v id d) := by
  unfold pinCommitted
  split
  · exact .refl d
  split
  · exact .refl d
  · exact .ite (.refl d) ((pinStripes_posts _ _ _ _ d).trans (onReel_k rfl (.refl _ _)).posts)

theorem repin_posts (r : Nat × TrigRec) (d : Dev) : Posts d (repin r d) := by
  unfold repin
  split
  · exact .refl d
  · refine Posts.trans ?_ (onTake_posts _ _ _ _)
    split
    · exact .ite (pinTrigger_posts _ _ _ d) (.refl d)
    · exact .refl d

/-! ## Entries adopted (R192) -/

theorem adoptEntry_posts (o : OpenRec) (d : Dev) : Posts d (adoptEntry o d) := by
  unfold adoptEntry
  exact (appendRec_posts _ _ _ _ _ d).trans (onVcnt_k rfl (commitRec_k rfl (.refl _ _))).posts

theorem adoptSource_posts (reads : List AdoptIn) (os : List OpenRec) (last : Option OpenRec) (d : Dev) :
    Posts d (adoptSource reads os last d).1 := by
  induction os generalizing last d with
  | nil => exact .refl d
  | cons o rest ih =>
    have judged : Posts d (judgeEntry reads o d).1 := (judgeEntry_k rfl (.refl _ d)).posts
    unfold adoptSource
    split
    · next q =>
      rw [q] at judged
      exact judged.trans ((adoptEntry_posts _ _).trans (ih _ _))
    · next q =>
      rw [q] at judged
      exact judged.trans (((adoptEntry_posts _ _).trans (oweStrip_k rfl (.refl _ _)).posts).trans (ih _ _))
    · next q =>
      rw [q] at judged
      exact judged.trans (each_k (fun _ _ k => discardEntry_k rfl k) (.refl _ _)).posts

theorem startFromDump_posts (t : TakeoverIn) (epoch : Nat) (ds : List DumpIn) (d : Dev) : Posts d (startFromDump t epoch ds d) := by
  have ends (x : Dev) (l : List Take) : Posts x (zeroHeaders ds (l.foldl (fun y k => closeAtRestart k y) x)) :=
    (zeroHeaders_k rfl (foldl_k (fun _ _ k => closeAtRestart_k rfl k) (.refl _ x))).posts
  unfold startFromDump
  dsimp only
  refine Posts.trans ?_ (ends _ _)
  split
  · refine .ite (.trans ?_ (.foldl (fun x _ => adoptSource_posts _ _ _ x) _ _)) (pastDump_k rfl (.refl _ d)).posts
    exact (each_k (fun _ _ k => commitRec_k rfl k) (each_k (fun _ _ k => applyRec_k rfl k) (pastDump_k rfl (.refl _ d)))).posts
  · exact .refl d

/-! ## Retirement (R185) -/

theorem retire_posts (o : OpenEnt) (d : Dev) : Posts d (retire o d) := by
  unfold retire
  dsimp only
  have commits : Posts d (freeBuffers o.buf (commitTiles o.buf (onVcnt (fun c => { c with retired := c.retired + 1 })
      (appendRec o.buf.source o.buf.layout o.buf.stripe (.stripeRetire o.jseq) none
        (onVault (fun v => { v with opened := v.opened.filter (fun x => x.jseq != o.jseq) }) d))))) :=
    .after (freeBuffers_k rfl (commitTiles_k rfl (onVcnt_k rfl (.refl _ _)))).posts (.after (appendRec_posts _ _ _ _ _ _) (.of_eq rfl))
  have slots (x : Dev) (h : Posts d x) : Posts d (if k : o.buf.source < 4 then
      refreshLimit ⟨o.buf.source, k⟩ (settleC ⟨o.buf.source, k⟩
        (onPipe ⟨o.buf.source, k⟩ (fun p => { p with cstate := o.buf.gstate.orElse (fun _ => p.cstate) })
          (commitSlots ⟨o.buf.source, k⟩ o.buf.slots o.buf.commitGsn x)))
      else x) := by
    split
    · exact h.trans (refreshLimit_k rfl (settleC_k rfl (onPipe_k rfl (commitSlots_k rfl (.refl _ _))))).posts
    · exact h
  split
  · exact (slots _ commits).trans (pinCommitted_posts _ _ _ _)
  · exact slots _ commits

theorem retireAll_posts (n : Nat) (d : Dev) : Posts d (retireAll n d) := by
  induction n generalizing d with
  | zero => exact .refl d
  | succ n ih =>
    unfold retireAll
    split
    · exact (retire_posts _ _).trans (ih _)
    · exact .refl d

theorem advanceTakes_posts (d : Dev) : Posts d (advanceTakes d) := by
  unfold advanceTakes
  refine Posts.trans (.foldl (fun x t => ?_) _ d) (settleChains_k rfl (.refl _ _)).posts
  have segments : Posts x (if t.reel.isSome then closeSegments t.volume t.id x else x) :=
    .ite (closeSegments_k rfl (.refl _ x)).posts (.refl x)
  exact .ite (segments.trans (advanceTake_posts _ _ _)) segments

/-! ## A session of replication (R337 to R346) -/

theorem replFresh_posts (c : Nat) (r : Repl) (d : Dev) : Posts d (replStripe.replFresh c r d).1 := by
  unfold replStripe.replFresh
  split
  · exact .refl d
  · next t _ =>
    split
    · exact .refl d
    · next l _ =>
      have fresh := freshStripe_posts l t r.part 4 255 0 d
      split
      · next q => rw [q] at fresh; exact fresh.trans (onRepl_k rfl (.refl _ _)).posts
      · next q => rw [q] at fresh; exact fresh

theorem replStripe_posts (c n : Nat) (d : Dev) : Posts d (replStripe c n d).1 := by
  unfold replStripe
  split
  · exact .refl d
  split
  · split
    · exact .refl d
    · exact .trans (onRepl_k rfl (queueStripe_k rfl (.refl _ _))).posts (replFresh_posts _ _ _)
  · exact replFresh_posts _ _ d

theorem packItem_posts {c : Nat} (h : packItem c d = some e) : Posts d e := by
  unfold packItem at h
  split at h
  · cases h
  split at h
  · cases h
  dsimp only at h
  split at h
  · cases h; exact (onRepl_k rfl (.refl _ d)).posts
  split at h
  · have stripe := replStripe_posts c 0 d
    split at h
    · next q => cases h; rw [q] at stripe; exact stripe.trans (onRepl_k rfl (.refl _ _)).posts
    · cases h
  · next b _ _ =>
    have stripe := replStripe_posts c b.length d
    split at h
    · next q =>
      rw [q] at stripe
      obtain ⟨l, -, rfl⟩ := Option.map_eq_some_iff.mp h
      refine stripe.trans (onRepl_k rfl ?_).posts
      split
      · exact onCat_k rfl (.refl _ _)
      · exact .refl _ _
    · cases h
  · cases h

theorem packBatch_posts (c n : Nat) (d : Dev) : Posts d (packBatch c n d) := by
  induction n generalizing d with
  | zero => exact .refl d
  | succ n ih =>
    unfold packBatch
    split
    · next q => exact (packItem_posts q).trans (ih _)
    split
    · split
      · exact (onRepl_k rfl (queueStripe_k rfl (.refl _ _))).posts
      · exact .refl d
    · exact .refl d

theorem replMsg_posts (c : Nat) (o : Out) (d : Dev) : Posts d (replMsg c o d) := (replMsg_k rfl (.refl _ d)).posts

theorem startBatch_posts (c : Nat) (d : Dev) : Posts d (startBatch c d) := by
  unfold startBatch
  split
  · exact .refl d
  split
  · refine Posts.trans ?_ (packBatch_posts _ _ _)
    exact .trans (each_k (fun _ _ k => addItem_k rfl k) (onRepl_k rfl (.refl _ d))).posts (replMsg_posts _ _ _)
  · exact .refl d

theorem closePart_posts (c total : Nat) (r : Repl) (d : Dev) : Posts d (closePart c total r d) := by
  unfold closePart
  split
  · exact .refl d
  · next t _ =>
    split
    · exact .refl d
    · next p _ =>
      refine .ite (.ite (.refl d) (.ite ?_ (.ite (.refl d) ?_))) (.ite ?_ (.refl d))
      · have stripe : Posts d (replStripe c 0 (formTilePage t.volume t.id p.idx true d)).1 :=
          .trans (formTilePage_k rfl (.refl _ d)).posts (replStripe_posts _ _ _)
        dsimp only
        split
        · next q _ =>
          rw [q] at stripe
          split
          · exact stripe.trans (onRepl_k rfl (queueStripe_k rfl (placeAllMeta_k rfl (.refl _ _)))).posts
          · exact stripe
        · next q => rw [q] at stripe; exact stripe
        · next _ q _ => rw [q] at stripe; exact stripe
      · have closes (f : Part → Part) : Posts d (onPart t.volume t.id p.idx f d) := (onPart_k rfl (.refl _ d)).posts
        dsimp only
        split
        · exact .ite ((closes _).trans ((onTake_posts _ _ _ _).trans (startCommit_posts _ _))) (closes _)
        · exact closes _
      · exact (replMsg_posts _ _ d).trans (endAccept_k rfl (.refl _ _)).posts

theorem nextBatch_posts (c : Nat) (r : Repl) (d : Dev) : Posts d (nextBatch c r d) := by
  unfold nextBatch
  exact .ite ((onRepl_k rfl (.refl _ d)).posts.trans ((replMsg_posts _ _ _).trans (startBatch_posts _ _))) (.refl d)

theorem settleSession_posts (x : Nat × Repl) (d : Dev) : Posts d (settleSession x d) := by
  unfold settleSession
  dsimp only
  split
  · exact .refl d
  · next r _ =>
    refine .ite (.refl d) ?_
    have next := nextBatch_posts x.1 r d
    unfold nextBatch at next
    generalize (if r.busy && r.batch.isEmpty && r.stripe.isNone && decide (r.goal ≤ d.partLength r) then
      startBatch x.1 (replMsg x.1 (.replCommit x.1 (d.partLength r)) (onRepl x.1 (fun q => { q with busy := false }) d))
      else d) = y at next ⊢
    split
    · split
      · exact .ite (next.trans (closePart_posts _ _ _ _)) next
      · exact next
    · exact next

theorem settleRepl_posts (d : Dev) : Posts d (settleRepl d) := .each settleSession_posts _ d

end Sys2Proof.Machine
end

section
/-! PROOF. What commit does to Tango (R233 to R235, R438): beside what it posts, a metadata commit may begin the migration of the vault's
metadata. A head without a planned handover retires with nothing more. -/

namespace Sys2Proof.Machine
open Sys2Proof

variable {d e u : Dev}

/-- From `d` to `e` the inter-head protocol has moved on its sequence numbers, and has begun the migration of metadata (R438), at most. -/
def Runs (d e : Dev) : Prop := ∃ n m, e.tango = { d.tango with seqs := n, migrated := m }

theorem Posts.runs (h : Posts d e) : Runs d e := by
  obtain ⟨n, h⟩ := h
  exact ⟨n, d.tango.migrated, h⟩

namespace Runs

theorem refl (d : Dev) : Runs d d := (Posts.refl d).runs

theorem trans (h : Runs d e) (k : Runs e u) : Runs d u := by
  obtain ⟨n, m, h⟩ := h
  obtain ⟨n', m', k⟩ := k
  exact ⟨n', m', by rw [k, h]⟩

theorem after (k : Runs e u) (h : Runs d e) : Runs d u := h.trans k

theorem owners (h : Runs d e) : e.tango.owners = d.tango.owners := by obtain ⟨n, m, h⟩ := h; rw [h]

theorem epoch (h : Runs d e) : e.tango.epoch = d.tango.epoch := by obtain ⟨n, m, h⟩ := h; rw [h]

theorem hand (h : Runs d e) : e.tango.hand = d.tango.hand := by obtain ⟨n, m, h⟩ := h; rw [h]

end Runs

theorem migrate_runs (d : Dev) : Runs d (migrate d) := by
  unfold migrate
  split
  · exact .trans ⟨d.tango.seqs, true, rfl⟩ (Keeps.posts (logEvent_k rfl (.refl _ _))).runs
  · exact .refl d

theorem commitDurable_runs (m : Mdc) (d : Dev) : Runs d (commitDurable m d) := by
  unfold commitDurable
  dsimp only
  have starts : Posts d (onVault (fun v => { v with mdc := none }) d) := .of_eq rfl
  have migrates := (starts.trans (appendDurable_posts m.covers _)).runs.trans (migrate_runs _)
  generalize migrate (appendDurable m.covers (onVault (fun v => { v with mdc := none }) d)) = d1 at migrates ⊢
  have settles (f : Vault → Vault) : Posts d1 (recordLosses (purgeTakes (each erase m.removed (writeDisk m
      (each (fun e x => takeClosed e.1 e.2 x) m.closing (each freeStripe d.vault.catStripes (onVault f d1))))))) :=
    Posts.trans (Keeps.posts (purgeTakes_k rfl (each_k (fun _ _ k => erase_k rfl k) (writeDisk_k rfl
      (each_k (fun _ _ k => takeClosed_k rfl k) (each_k (fun _ _ k => freeStripe_k rfl k) (onVault_k rfl (.refl _ _)))))))) (recordLosses_posts _)
  exact migrates.trans (Posts.ite ((settles _).trans (startCommit_posts _ _)) (settles _)).runs

theorem writeRoot_posts (l : LayoutRec) (m : Mdc) (d : Dev) : Posts d (writeRoot l m d) := (writeRoot_k rfl (.refl _ d)).posts

theorem stepCommit_runs (d : Dev) : Runs d (stepCommit d) := by
  unfold stepCommit
  split
  · exact .refl d
  dsimp only
  split
  · exact .refl d
  split
  · exact commitDurable_runs _ d
  split
  · exact (writeRoot_posts _ _ d).runs
  · exact .refl d

theorem settleHand_of_none (h : d.tango.hand = none) : settleHand d = d := by
  unfold settleHand
  rw [h]

/-- A head without a planned handover retires and counts nothing between the heads. -/
theorem retireReady_of_noHand (h : d.tango.hand = none) : Runs d (retireReady d) ∧ (retireReady d).ih = d.ih := by
  have retires : Posts d (retireAll d.vault.opened.length d) := retireAll_posts _ d
  have ih1 : (retireAll d.vault.opened.length d).ih = d.ih :=
    (retireAll_k (L := [.out, .sl, .lg, .pipes, .vault, .vcnt, .cat, .ciph, .dgst, .hif, .tango, .repl, .bpm, .mca, .dma, .evr]) rfl (.refl _ d))
      .ih (by decide)
  unfold retireReady
  generalize retireAll d.vault.opened.length d = d1 at retires ih1 ⊢
  dsimp only
  split
  · have commits : Runs d (advanceTakes (stepCommit d1)) := retires.runs.trans ((stepCommit_runs d1).trans (advanceTakes_posts _).runs)
    have ih2 : (advanceTakes (stepCommit d1)).ih = d1.ih :=
      (advanceTakes_k (L := [.out, .free, .pipes, .vault, .vcnt, .cat, .disk, .ciph, .dgst, .hif, .tango, .bpm, .mca, .dma, .evr]) rfl
        (stepCommit_k rfl (.refl _ d1))) .ih (by decide)
    rw [settleHand_of_none (commits.hand.trans h)]
    have ih3 : (settleRepl (advanceTakes (stepCommit d1))).ih = (advanceTakes (stepCommit d1)).ih :=
      (settleRepl_k (L := [.out, .free, .pipes, .vault, .cat, .ciph, .hif, .tango, .repl, .bpm, .mca, .dma, .evr]) rfl (.refl _ _)) .ih (by decide)
    exact ⟨commits.trans (settleRepl_posts _).runs, ih3.trans (ih2.trans ih1)⟩
  · exact ⟨retires.runs, ih1⟩

end Sys2Proof.Machine
end

section
/-! PROOF. Who owns the groups, and what is counted, after a step down and a takeover (R288, R300, R301, R304). -/

namespace Sys2Proof.Machine
open Sys2Proof

variable {d e : Dev} {g : Fin 4} {gs : List (Fin 4)} {t : TakeoverIn}

/-! ## The table of owners (R288) -/

theorem giveTo_at (h : Nat) (gs : List (Fin 4)) (o : Four Nat) (g : Fin 4) : (giveTo h gs o).at g = if g ∈ gs then h else o.at g := by
  induction gs generalizing o with
  | nil => rfl
  | cons a t ih =>
    change (giveTo h t (o.put a h)).at g = _
    rw [ih]
    by_cases later : g ∈ t
    · simp [later]
    by_cases same : g = a
    · simp [later, same]
    · simp [later, same, four_at_put_ne _ _ _ _ _ same]

theorem setTable_tango (o : Four Nat) (n : Nat) (d : Dev) :
    (setTable o n d).tango = { d.tango with owners := o, epoch := n, epochMax := max d.tango.epochMax n } := rfl

theorem mem_groupList (g : Fin 4) : g ∈ groupList := by revert g; decide

theorem owns_of_glb (owners : e.tango.owners = d.tango.owners) (glb : e.glb = d.glb) (g : Fin 4) : e.owns g = d.owns g := by
  unfold Dev.owns Dev.self
  rw [owners, glb]

/-- Groups given to this head are its own beside those that it had. -/
theorem owns_of_taken (owners : e.tango.owners = giveTo d.self gs d.tango.owners) (glb : e.glb = d.glb) (g : Fin 4) :
    e.owns g = (d.owns g || gs.contains g) := by
  have self : e.self = d.self := by unfold Dev.self; rw [glb]
  unfold Dev.owns
  rw [self, owners, giveTo_at]
  by_cases taken : g ∈ gs <;> simp [taken]

theorem other_ne_self (d : Dev) : d.other ≠ d.self := by
  unfold Dev.other Dev.self bit
  split <;> decide

/-- Groups given to the partner are not this head's. -/
theorem owns_of_given (owners : e.tango.owners = giveTo d.other gs d.tango.owners) (glb : e.glb = d.glb) (g : Fin 4) :
    e.owns g = (d.owns g && !gs.contains g) := by
  have self : e.self = d.self := by unfold Dev.self; rw [glb]
  unfold Dev.owns
  rw [self, owners, giveTo_at]
  by_cases given : g ∈ gs
  · simp [given, other_ne_self]
  · simp [given]

theorem mem_owned : g ∈ d.owned ↔ d.owns g = true := by
  unfold Dev.owned
  rw [List.mem_filter]
  exact and_iff_right (mem_groupList g)

/-! ## A planned handover ends (R305) -/

theorem dropHand_tango (status : Nat) (r0 : W64) (d : Dev) : (dropHand status r0 d).tango = { d.tango with hand := none } := by
  unfold dropHand
  split
  · next h => rw [← h]
  · dsimp only
    split
    · exact (complete_k (L := cplBlks) rfl (.refl _ _) .tango (by decide) :)
    · rfl

theorem dropHand_keeps (status : Nat) (r0 : W64) (d : Dev) : Keeps [.out, .cat, .hif, .tango, .dma] d (dropHand status r0 d) :=
  dropHand_k rfl (.refl _ d)

/-! ## Stepping down (R304) -/

/-- A head that steps down gives its groups to the partner, waits for a table, and counts. -/
theorem stepDown_yields (cause : Nat) (d : Dev) :
    (stepDown cause d).tango = { d.tango with
      owners := giveTo d.other d.owned d.tango.owners, epochMax := max d.tango.epochMax d.tango.epoch, hand := none, state := 1,
      stepped := true, key := 0, waiting := false } ∧
    (stepDown cause d).ih = { d.ih with stepdowns := d.ih.stepdowns + 1 } := by
  unfold stepDown
  extract_lets gs m d1 gone d2 d3 d4 d5 d6 d7 src d8
  have unloads : Keeps [.out, .lg, .pipes, .vault, .cat, .ciph, .dgst, .hif, .repl, .bpm, .dma, .evr] d d5 := by
    refine foldl_k (fun _ _ k => onDrive_k rfl k) (dropReplicas_k rfl (foldl_k (fun _ _ k => ?_) (each_k (fun _ _ k => releaseCarried_k rfl k)
      (onVault_k rfl (each_k (fun _ _ k => unpinStripe_k rfl (freeBuffers_k rfl k)) (each_k (fun _ _ k => freeOpen_k rfl k) (.refl _ d)))))))
    split
    · exact dropParts_k rfl k
    · exact k
  have refuses (x : Dev) : Keeps [.out, .cat, .hif, .dma] x (refuseCloses x) := refuseCloses_k rfl (.refl _ x)
  have tells (c : Nat) (i : W32) (w : List W32) : Keeps [.out, .free, .cat, .hif, .dma, .evr] d8 (notifyAll (logEvent c i w d8)) :=
    notifyAll_k rfl (logEvent_k rfl (.refl _ d8))
  have same : d5.tango = d.tango := unloads .tango (by decide)
  have table : d6.tango = { d.tango with
      owners := giveTo d.other gs d.tango.owners, epochMax := max d.tango.epochMax d.tango.epoch } :=
    (refuses _ .tango (by decide) :).trans (by rw [setTable_tango, same])
  have ends : (dropHand 0x0A 0 d6).tango = { d6.tango with hand := none } := dropHand_tango _ _ _
  have kept : d7.ih = d.ih := (onTango_k (L := [.out, .lg, .pipes, .vault, .cat, .ciph, .dgst, .hif, .tango, .repl, .bpm, .dma, .evr]) rfl
    (dropHand_k rfl (refuseCloses_k rfl (setTable_k rfl (unloads.mono (by decide)))))) .ih (by decide)
  have waits : d8.tango = { d6.tango with hand := none, state := 1, stepped := true, key := 0, waiting := false } := by
    change d7.tango = _
    rw [onTango_tango, ends]
  have counts : d8.ih = { d.ih with stepdowns := d.ih.stepdowns + 1 } := by
    rw [← kept]
  exact ⟨(tells _ _ _ .tango (by decide) :).trans (by rw [waits, table]), (tells _ _ _ .ih (by decide) :).trans counts⟩

theorem stepDown_tango (cause : Nat) (d : Dev) : (stepDown cause d).tango = { d.tango with
    owners := giveTo d.other d.owned d.tango.owners, epochMax := max d.tango.epochMax d.tango.epoch, hand := none, state := 1,
    stepped := true, key := 0, waiting := false } := (stepDown_yields cause d).1

theorem stepDown_ih (cause : Nat) (d : Dev) : (stepDown cause d).ih = { d.ih with stepdowns := d.ih.stepdowns + 1 } :=
  (stepDown_yields cause d).2

theorem stepDown_glb (cause : Nat) (d : Dev) : (stepDown cause d).glb = d.glb :=
  (stepDown_k (L := [.out, .free, .lg, .pipes, .vault, .cat, .ciph, .dgst, .hif, .tango, .ih, .repl, .bpm, .dma, .evr]) rfl (.refl _ d))
    .glb (by decide)

/-- A head that has stepped down owns nothing. -/
theorem stepDown_owns (cause : Nat) (d : Dev) (g : Fin 4) : (stepDown cause d).owns g = false := by
  rw [owns_of_given (by rw [stepDown_tango]) (stepDown_glb cause d)]
  by_cases own : d.owns g = true
  · simp [mem_owned.mpr own]
  · simp [own]

end Sys2Proof.Machine
end

section
/-! PROOF. What a takeover leaves (R300, R301, R305): its groups and its epoch once it is won, and a head that has stepped down once it is
lost. -/

namespace Sys2Proof.Machine
open Sys2Proof

variable {d e : Dev} {g : Fin 4} {gs : List (Fin 4)} {t : TakeoverIn} {n : Nat}

/-! ## The groups taken (R300, R302, R303) -/

/-- The entries of each source of a list, adopted in turn. -/
theorem adoptSources_posts {β : Type} (reads : List AdoptIn) (os : Nat → List OpenRec) (f : β → Nat → Option OpenRec → β) (l : List Nat)
    (x : Dev × β) :
    Posts x.1 (l.foldl (fun x s => ((adoptSource reads (os s) none x.1).1, f x.2 s (adoptSource reads (os s) none x.1).2)) x).1 := by
  induction l generalizing x with
  | nil => exact .refl _
  | cons s t ih => exact (adoptSource_posts _ _ _ _).trans (ih _)

theorem takeGroups_table (t : TakeoverIn) (gs : List (Fin 4)) (n : Nat) (d : Dev) :
    (takeGroups t gs n d).tango.owners = giveTo d.self gs d.tango.owners ∧ (takeGroups t gs n d).tango.epoch = n := by
  unfold takeGroups
  extract_lets ck recs d1 os done d2 cut srcs r resumes d3 d4 d5 d6 d7 d8
  have loads : Keeps Blk.butTango d d1 := by
    refine ownReplicas_k rfl (each_k (fun _ _ k => applyRec_k rfl k) (mapGetD_k (fun _ => loadCkpt_k rfl (.refl _ d)) (.refl _ d)))
  have same : d1.tango = d.tango := loads .tango (by decide)
  have commits : Posts _ d2 := (each_k (fun _ _ k => commitRec_k rfl k) (.refl Blk.butTango _)).posts
  have adopts : Posts d2 r.1 := adoptSources_posts t.adoption (openOf recs os) (fun l s o => l ++ [(s, o)]) srcs (d2, [])
  have resumes_ : Keeps Blk.butTango d3 d5 :=
    attachTakes_k rfl (resumeChains_k rfl (each_k (fun _ _ k => resumeTakes_k rfl (resumePipe_k rfl (adoptRing_k rfl k))) (.refl _ d3)))
  have repins : Posts d5 d6 := .each repin_posts _ d5
  have reports : Keeps Blk.butTango d6 d8 := resumeAll_k rfl (each_k (fun _ _ k => reportOutput_k rfl k) (.refl _ d6))
  have stops (x : Dev) : Posts x (each inheritStop gs x) := (each_k (fun _ _ k => inheritStop_k rfl k) (.refl Blk.butTango x)).posts
  have goes : Posts d3 d8 := resumes_.posts.trans (repins.trans reports.posts)
  have owners : r.1.tango.owners = d.tango.owners := (commits.trans adopts).runs.owners.trans (congrArg Tango.owners same :)
  refine ⟨(stops _).runs.owners.trans (goes.runs.owners.trans ?_), (stops _).runs.epoch.trans goes.runs.epoch⟩
  change giveTo d.self gs r.1.tango.owners = _
  rw [owners]

/-! ## The end of a takeover (R300, step 7) -/

theorem endTakeover_ends (gs : List (Fin 4)) (n : Nat) (d : Dev) :
    (endTakeover gs n d).tango.owners = d.tango.owners ∧ (endTakeover gs n d).tango.epoch = d.tango.epoch ∧
      (endTakeover gs n d).ih = { d.ih with takeovers := d.ih.takeovers + 1 } ∧ (endTakeover gs n d).glb = d.glb := by
  have glb : (endTakeover gs n d).glb = d.glb :=
    (endTakeover_k (L := [.out, .free, .sl, .lg, .pipes, .vault, .vcnt, .cat, .disk, .ciph, .dgst, .hif, .tango, .ih, .repl, .bpm, .mca, .dma, .evr])
      rfl (.refl _ d)) .glb (by decide)
  rw [glb]
  unfold endTakeover
  extract_lets st d1 src d2 d3 d4
  have tells : Keeps [.out, .free, .cat, .hif, .dma, .evr, .vault] d2 d4 := notifyAll_k rfl (logEvent_k rfl (onVault_k rfl (.refl _ d2)))
  have drops : Keeps [.out, .cat, .hif, .tango, .dma] d d1 := onTango_k rfl (dropHand_keeps _ _ d)
  have started : d4.tango = d1.tango := tells .tango (by decide)
  have ended : d1.tango = { d.tango with
      hand := none, state := 3, session := false, owing := false, takeoverHeld := false, lostRace := false, stepped := false, waiting := false } := by
    change ({ (dropHand _ _ d).tango with state := 3, session := false, owing := false, takeoverHeld := false,
                                          lostRace := false, stepped := false, waiting := false } : Tango) = _
    rw [dropHand_tango]
  have counted : d4.ih = { d.ih with takeovers := d.ih.takeovers + 1 } := by
    rw [← (drops .ih (by decide) :)]
    exact tells .ih (by decide)
  have consumes : Posts d4 (each consume groupList d4) := .each consume_posts _ d4
  have counts : (each consume groupList d4).ih = d4.ih := (each_k
    (L := [.out, .free, .sl, .lg, .pipes, .vault, .cat, .ciph, .dgst, .hif, .tango, .bpm, .mca, .dma, .evr]) (fun _ _ k => consume_k rfl k) (.refl _ d4)) .ih (by decide)
  have hand : (each consume groupList d4).tango.hand = none := consumes.runs.hand.trans (by rw [started, ended])
  obtain ⟨retires, same⟩ := retireReady_of_noHand hand
  refine ⟨?_, ?_, same.trans (counts.trans counted), rfl⟩
  · rw [retires.owners, consumes.runs.owners, started, ended]
  · rw [retires.epoch, consumes.runs.epoch, started, ended]

/-! ## The fence, and the race for it (R300, R301) -/

/-- The head as the fence leaves it: the drives that failed are dropped, and its commands are given. -/
def fenced (t : TakeoverIn) (n : Nat) (d : Dev) : Dev := fence t n (each (fun s x => failDrive s none x) t.failed d)

theorem failDrives_posts (l : List Nat) (d : Dev) : Posts d (each (fun s x => failDrive s none x) l d) :=
  .each (fun s x => failDrive_posts s none x) l d

theorem failDrives_keeps (l : List Nat) (d : Dev) :
    Keeps [.out, .free, .vault, .cat, .ciph, .hif, .tango, .mca, .dma, .evr] d (each (fun s x => failDrive s none x) l d) :=
  each_k (fun _ _ k => failDrive_k rfl k) (.refl _ d)

theorem fenced_posts (t : TakeoverIn) (n : Nat) (d : Dev) : Posts d (fenced t n d) :=
  (failDrives_posts t.failed d).trans (fence_k rfl (.refl Blk.butTango _)).posts

theorem fenced_keeps (t : TakeoverIn) (n : Nat) (d : Dev) :
    Keeps [.out, .free, .vault, .cat, .ciph, .hif, .tango, .mca, .dma, .evr] d (fenced t n d) :=
  fence_k rfl (failDrives_keeps t.failed d)

/-- A head that a Reservation Conflict stops in the fence steps down (R301). -/
def outrun (t : TakeoverIn) (d : Dev) : Dev := stepDown 3 (onTango (fun x => { x with lostRace := true, epochMax := max x.epochMax (topEpoch t) }) d)

/-- Between `d` and `e` the head has lost the race, and has stepped down. -/
structure LostRace (d e : Dev) : Prop where
  lost : e.tango.lostRace = true
  state : e.tango.state = 1
  waiting : e.tango.waiting = false
  hand : e.tango.hand = none
  ih : e.ih = { d.ih with stepdowns := d.ih.stepdowns + 1 }

theorem outrun_lostRace (t : TakeoverIn) (same : e.ih = d.ih) : LostRace d (outrun t e) := by
  have tango := stepDown_tango 3 (onTango (fun x => { x with lostRace := true, epochMax := max x.epochMax (topEpoch t) }) e)
  have ih := stepDown_ih 3 (onTango (fun x => { x with lostRace := true, epochMax := max x.epochMax (topEpoch t) }) e)
  unfold outrun
  exact ⟨by rw [tango]; rfl, by rw [tango], by rw [tango], by rw [tango], by rw [ih, ← same]; rfl⟩

/-- Between `d` and `e` the head has won the groups `gs` at an epoch. -/
structure Wins (gs : List (Fin 4)) (n : Nat) (d e : Dev) : Prop where
  owners : e.tango.owners = giveTo d.self gs d.tango.owners
  epoch : e.tango.epoch = n
  ih : e.ih = { d.ih with takeovers := d.ih.takeovers + 1 }
  glb : e.glb = d.glb

theorem confirmAll_keeps (d : Dev) : Keeps [.vault] d (confirmAll d) := confirmAll_k rfl (.refl _ d)

/-- A takeover whose fence has gone through is won. -/
theorem wins_of_taken (hs : List (Fin 4)) (gs : List (Fin 4)) (n : Nat) (t : TakeoverIn) (posts : Posts d e)
    (keeps : Keeps [.out, .free, .vault, .cat, .ciph, .hif, .tango, .mca, .dma, .evr] d e) :
    Wins gs n d (endTakeover hs n (takeGroups t gs n (confirmAll e))) := by
  have confirms : Keeps [.out, .free, .vault, .cat, .ciph, .hif, .tango, .mca, .dma, .evr] d (confirmAll e) := confirmAll_k rfl keeps
  have takes : Keeps [.out, .free, .sl, .lg, .pipes, .vault, .vcnt, .cat, .disk, .ciph, .dgst, .hif, .tango, .repl, .mca, .dma, .evr] d
      (takeGroups t gs n (confirmAll e)) := takeGroups_k rfl (confirms.mono (by decide))
  have owners : (confirmAll e).tango.owners = d.tango.owners :=
    (congrArg Tango.owners (confirmAll_keeps e .tango (by decide) :)).trans posts.runs.owners
  have self : (confirmAll e).self = d.self := by unfold Dev.self; rw [(confirms .glb (by decide) :)]
  obtain ⟨table, epoch⟩ := takeGroups_table t gs n (confirmAll e)
  obtain ⟨owners', epoch', ih, glb⟩ := endTakeover_ends hs n (takeGroups t gs n (confirmAll e))
  rw [self, owners] at table
  refine ⟨owners'.trans table, epoch'.trans epoch, ?_, glb.trans (takes .glb (by decide))⟩
  rw [ih, (takes .ih (by decide) :)]

/-! ## A takeover (R299 to R301) -/

theorem takeOver_wins (room : d.epochSeen t + 1 < epochEnd) (clear : t.conflicts = []) (gs : List (Fin 4)) :
    Wins gs (d.epochSeen t + 1) d (takeOver t gs d) := by
  unfold takeOver
  dsimp only
  rw [if_neg (by omega), clear, List.isEmpty_nil, if_pos rfl]
  exact wins_of_taken gs gs _ t (fenced_posts t _ d) (fenced_keeps t _ d)

theorem takeOver_lostRace (room : d.epochSeen t + 1 < epochEnd) (conflict : t.conflicts ≠ []) (gs : List (Fin 4)) :
    LostRace d (takeOver t gs d) := by
  unfold takeOver
  dsimp only
  rw [if_neg (by omega), if_neg (by simpa using conflict)]
  exact outrun_lostRace t (fenced_keeps t _ d .ih (by decide))

end Sys2Proof.Machine
end

section
/-! PROOF. Heartbeats, and a partner that is lost (R283, R284, R299, R301, R311). -/

namespace Sys2Proof.Machine
open Sys2Proof

variable {d e x : Dev} {s : State} {m : Env} {gs : List (Fin 4)} {n : Nat} {t : TakeoverIn} {p : Bool} {f : Dev → Dev}

/-! ## A command that its guard lets run -/

theorem guarded_next (on : p = true) : (Host.Outcome.next { s with dev := when p f s.dev } : Host.Outcome State Fault Refusal) =
    .next { s with dev := f s.dev } := by
  rw [on, when_true]

theorem unguarded_next (off : p = false) : (Host.Outcome.next { s with dev := when p f s.dev } : Host.Outcome State Fault Refusal) = .next s := by
  rw [off, when_false]

/-- A message that R311 exempts is heard whatever its epoch and role. -/
theorem exemptIn_of_heard (a : Heard m d) (qp type : Nat) (f : Dev → Dev) : exemptIn qp type m f d = f (d.noted qp m) := by
  obtain ⟨on, keyed, auth, level⟩ := a
  unfold exemptIn tangoIn
  rw [if_neg (by simp [on, keyed, auth])]
  dsimp only
  rw [if_neg (by omega), if_pos rfl]
  rfl

theorem exempt_next (on : s.dev.pairOn = true) (a : Heard m s.dev) (qp type : Nat) (f : Dev → Dev) :
    (Host.Outcome.next { s with dev := when s.dev.pairOn (exemptIn qp type m f) s.dev } : Host.Outcome State Fault Refusal) =
      .next { s with dev := f (s.dev.noted qp m) } := by
  rw [guarded_next on, exemptIn_of_heard a]

/-! ## HEARTBEAT (R283, R284) -/

theorem beat_short (b : Beat) : (beatBytes b).length ≤ 2 ^ 32 := by
  simp [beatBytes, wordBytes, ownerBytes, zeros, Four.list, leBytes_length]

theorem heartbeatTimer_of_apart (apart : d.tango.session = false) : heartbeatTimer d = d := by
  unfold heartbeatTimer
  rw [apart, Bool.false_and, if_neg Bool.false_ne_true]

theorem heartbeatTimer_beats (v : Speaks d) : (heartbeatTimer d).ih = { d.ih with hbSent := d.ih.hbSent + 1 } ∧
    Out.beat d.beatNow ∈ (heartbeatTimer d).out := by
  have sent := v.voiced.mem_tangoSend (o := .beat d.beatNow) rfl (beat_short _) 1
  obtain ⟨session, -, ready, -⟩ := v
  unfold heartbeatTimer
  rw [session, ready, if_pos (by decide)]
  refine ⟨?_, sent⟩
  dsimp only
  rw [(tangoSend_keeps 1 _ d .ih (by decide) :)]

theorem exec_heartbeatTimer (on : s.dev.beats = true) : exec .heartbeatTimer s = .next { s with dev := heartbeatTimer s.dev } := guarded_next on

theorem exec_heartbeatTimer_idle (idle : s.dev.beats = false ∨ s.dev.tango.session = false) : exec .heartbeatTimer s = .next s := by
  rcases idle with off | apart
  · exact unguarded_next off
  · by_cases on : s.dev.beats = true
    · rw [exec_heartbeatTimer on, heartbeatTimer_of_apart apart]
    · exact unguarded_next (Bool.not_eq_true _ ▸ on)

theorem exec_heartbeat (on : s.dev.pairOn = true) (a : Heard m s.dev) (b : Beat) :
    exec (.heartbeat m b) s = .next { s with dev := heartbeat b (s.dev.noted 1 m) } := exempt_next on a 1 0x10 _

theorem heartbeat_keeps (b : Beat) (d : Dev) : Keeps [.tango] d (heartbeat b (d.noted 1 m)) := onTango_k rfl (noted_keeps 1 m d)

theorem exec_heartbeatMissed (on : s.dev.pairOn = true) (met : s.dev.tango.beat ≠ none) :
    exec .heartbeatMissed s = .next { s with dev := heartbeatMissed s.dev } :=
  guarded_next (by rw [on, Bool.true_and]; exact Option.isSome_iff_ne_none.mpr met)

theorem exec_heartbeatMissed_idle (idle : s.dev.pairOn = false ∨ s.dev.tango.beat = none) : exec .heartbeatMissed s = .next s :=
  unguarded_next (by rcases idle with off | unmet <;> simp [*])

/-! ## The registration check, and what follows it (R299, R301) -/

theorem Wins.of_same (w : Wins gs n e x) (owners : e.tango.owners = d.tango.owners) (glb : e.glb = d.glb) (ih : e.ih = d.ih) :
    Wins gs n d x := by
  have self : e.self = d.self := by unfold Dev.self; rw [glb]
  obtain ⟨table, epoch, counts, same⟩ := w
  rw [self, owners] at table
  rw [ih] at counts
  exact ⟨table, epoch, counts, same.trans glb⟩

theorem Wins.owns (w : Wins gs n d x) (g : Fin 4) : x.owns g = (d.owns g || gs.contains g) := owns_of_taken w.owners w.glb g

theorem LostRace.of_same (l : LostRace e x) (ih : e.ih = d.ih) : LostRace d x := by
  obtain ⟨lost, state, waiting, hand, counts⟩ := l
  rw [ih] at counts
  exact ⟨lost, state, waiting, hand, counts⟩

theorem detect_of_keyless (keyless : d.keyIntact t = false) : detect t d = stepDown 2 d := by
  unfold detect
  rw [keyless, Bool.not_false, if_pos rfl]

theorem detect_of_held (keyed : d.keyIntact t = true) (held : d.autoTakeover = false) :
    detect t d = notifyAll (onTango (fun x => { x with takeoverHeld := true }) d) := by
  unfold detect
  rw [keyed, Bool.not_true, if_neg Bool.false_ne_true, held, Bool.not_false, if_pos rfl]

theorem detect_of_auto (keyed : d.keyIntact t = true) (auto : d.autoTakeover = true) :
    detect t d = if d.takeable.isEmpty then d else takeOver t d.takeable d := by
  unfold detect
  rw [keyed, Bool.not_true, if_neg Bool.false_ne_true, auto, Bool.not_true, if_neg Bool.false_ne_true]

theorem detect_held_tango (keyed : d.keyIntact t = true) (held : d.autoTakeover = false) :
    (detect t d).tango = { d.tango with takeoverHeld := true } := by
  rw [detect_of_held keyed held]
  exact notifyAll_keeps _ .tango (by decide)

/-! ## PARTNER_SILENT (R284, R299) -/

/-- The head that has logged its partner's silence. -/
def silenced (d : Dev) : Dev := logEvent 0x0602 noInstance [d.ih.hbMissed.setWidth 32] (onTango (fun x => { x with silent := true }) d)

theorem silenced_keeps (d : Dev) : Keeps [.out, .cat, .hif, .tango, .dma, .evr] d (silenced d) := logEvent_k rfl (onTango_k rfl (.refl _ d))

theorem silenced_tango (d : Dev) : (silenced d).tango = { d.tango with silent := true } := logEvent_keeps _ _ _ _ .tango (by decide)

theorem silenced_recorded (d : Dev) : Recorded 0x0602 noInstance d (silenced d) :=
  logEvent_recorded 0x0602 noInstance _ (onTango (fun x => { x with silent := true }) d)

theorem silenced_keyIntact (t : TakeoverIn) (d : Dev) : (silenced d).keyIntact t = d.keyIntact t := by
  unfold Dev.keyIntact
  rw [(silenced_keeps d .glb (by decide) :)]

theorem silenced_autoTakeover (d : Dev) : (silenced d).autoTakeover = d.autoTakeover := by
  unfold Dev.autoTakeover
  rw [(silenced_keeps d .regs (by decide) :)]

theorem silenced_takeable (d : Dev) : (silenced d).takeable = d.takeable := by
  unfold Dev.takeable Dev.other Dev.self
  rw [silenced_tango, (silenced_keeps d .glb (by decide) :)]

theorem silenced_epochSeen (t : TakeoverIn) (d : Dev) : (silenced d).epochSeen t = d.epochSeen t := by
  unfold Dev.epochSeen
  rw [silenced_tango]

theorem silenced_ih (d : Dev) : (silenced d).ih = d.ih := silenced_keeps d .ih (by decide)

theorem Recorded.of_evr {c : Nat} {i : W32} (r : Recorded c i d e) (evr : x.evr = e.evr) : Recorded c i d x := by
  unfold Recorded
  rw [evr]
  exact r

theorem exec_partnerSilent (on : s.dev.pairOn = true) (four : 4 ≤ s.dev.tango.missed) (new : s.dev.tango.silent = false) (t : TakeoverIn) :
    exec (.partnerSilent t) s = .next { s with dev := detect t (silenced s.dev) } := guarded_next (by simp [on, four, new])

theorem exec_partnerSilent_idle (idle : s.dev.pairOn = false ∨ s.dev.tango.missed < 4 ∨ s.dev.tango.silent = true) (t : TakeoverIn) :
    exec (.partnerSilent t) s = .next s := by
  refine unguarded_next ?_
  rcases idle with off | few | silent
  · simp [off]
  · simp [show ¬ 4 ≤ s.dev.tango.missed by omega]
  · simp [silent]

theorem silent_keyless (keyless : d.keyIntact t = false) :
    (detect t (silenced d)).tango.silent = true ∧ (detect t (silenced d)).tango.state = 1 ∧
      (detect t (silenced d)).ih.stepdowns = d.ih.stepdowns + 1 ∧ ∀ g, (detect t (silenced d)).owns g = false := by
  rw [detect_of_keyless (by rw [silenced_keyIntact, keyless])]
  refine ⟨?_, ?_, ?_, stepDown_owns 2 _⟩
  · rw [stepDown_tango, silenced_tango]
  · rw [stepDown_tango]
  · rw [stepDown_ih, silenced_ih]

theorem silent_held (keyed : d.keyIntact t = true) (held : d.autoTakeover = false) :
    (detect t (silenced d)).tango = { d.tango with silent := true, takeoverHeld := true } ∧ Recorded 0x0602 noInstance d (detect t (silenced d)) := by
  have keyed' := (silenced_keyIntact t d).trans keyed
  have held' := (silenced_autoTakeover d).trans held
  refine ⟨by rw [detect_held_tango keyed' held', silenced_tango], (silenced_recorded d).of_evr ?_⟩
  rw [detect_of_held keyed' held']
  exact notifyAll_keeps _ .evr (by decide)

theorem silent_unpaired (keyed : d.keyIntact t = true) (auto : d.autoTakeover = true) (none_ : d.takeable = []) :
    detect t (silenced d) = silenced d := by
  rw [detect_of_auto (by rw [silenced_keyIntact, keyed]) (by rw [silenced_autoTakeover, auto]), silenced_takeable, none_, List.isEmpty_nil,
    if_pos rfl]

theorem silent_takes (keyed : d.keyIntact t = true) (auto : d.autoTakeover = true) (some_ : d.takeable ≠ []) :
    detect t (silenced d) = takeOver t d.takeable (silenced d) := by
  rw [detect_of_auto (by rw [silenced_keyIntact, keyed]) (by rw [silenced_autoTakeover, auto]), silenced_takeable, if_neg (by simpa using some_)]

theorem silent_wins (room : d.epochSeen t + 1 < epochEnd) (clear : t.conflicts = []) (gs : List (Fin 4)) :
    Wins gs (d.epochSeen t + 1) d (takeOver t gs (silenced d)) := by
  have won := takeOver_wins (d := silenced d) (by rw [silenced_epochSeen]; exact room) clear gs
  rw [silenced_epochSeen] at won
  exact won.of_same (by rw [silenced_tango]) (silenced_keeps d .glb (by decide)) (silenced_ih d)

theorem silent_loses (room : d.epochSeen t + 1 < epochEnd) (conflict : t.conflicts ≠ []) (gs : List (Fin 4)) :
    LostRace d (takeOver t gs (silenced d)) :=
  (takeOver_lostRace (by rw [silenced_epochSeen]; exact room) conflict gs).of_same (silenced_ih d)

/-! ## FENCE_RETRY (R301) -/

theorem exec_fenceRetry (on : s.dev.pairOn = true) (due : s.dev.tango.lostRace = true ∨ s.dev.tango.owing = true) (t : TakeoverIn) :
    exec (.fenceRetry t) s = .next { s with dev := fenceRetry t s.dev } :=
  guarded_next (by rw [on, Bool.true_and, Bool.or_eq_true]; exact due)

theorem fenceRetry_of_partner (free : d.tango.owing = false) (left : t.reports.any (fun r => r.keys.any (keyOfHead (!d.glb.headB))) = true) :
    fenceRetry t d = onTango (fun x => { x with lostRace := false }) d := by
  unfold fenceRetry
  rw [free, if_neg Bool.false_ne_true, left, if_pos rfl]

theorem fenceRetry_takes (due : d.tango.owing = true ∨ t.reports.any (fun r => r.keys.any (keyOfHead (!d.glb.headB))) = false) :
    ∃ gs, fenceRetry t d = takeOver t gs d := by
  unfold fenceRetry
  split
  · exact ⟨_, rfl⟩
  · next free =>
    rw [due.resolve_left free, if_neg Bool.false_ne_true]
    exact ⟨_, rfl⟩

/-! ## LEAVING and FROZEN (R299, R311) -/

theorem exec_leaving (on : s.dev.pairOn = true) (a : Heard m s.dev) (c : Nat) (t : TakeoverIn) :
    exec (.leaving m c t) s = .next { s with dev := leaving c t (s.dev.noted 0 m) } := exempt_next on a 0 0x28 _

theorem exec_frozen (on : s.dev.pairOn = true) (a : Agreed m s.dev) (k : Nat) (t : TakeoverIn) :
    exec (.frozen m k t) s = .next { s with dev := frozen t (s.dev.noted 0 m) } := heard_next on a 0 0x29 _

theorem leaving_of_waiting {c : Nat} (waits : c ≠ 2 ∨ d.partnerOwns = false) (t : TakeoverIn) :
    leaving c t d = onTango (fun x => { x with leaving := some c }) d := by
  unfold leaving
  rw [if_neg (by rcases waits with other | none_ <;> simp [*])]

theorem leaving_of_gone (owns : d.partnerOwns = true) : leaving 2 t d = detect t (onTango (fun x => { x with leaving := some 2 }) d) := by
  unfold leaving
  rw [if_pos ⟨rfl, owns⟩]

theorem frozen_of_staying (stays : d.tango.leaving = none ∨ d.partnerOwns = false) (t : TakeoverIn) : frozen t d = d := by
  unfold frozen
  rw [if_neg (by rcases stays with none_ | none_ <;> simp [*])]

theorem frozen_of_leaving (leaves : d.tango.leaving ≠ none) (owns : d.partnerOwns = true) :
    frozen t d = detect t (onTango (fun x => { x with leaving := none }) d) := by
  unfold frozen
  rw [if_pos ⟨Option.isSome_iff_ne_none.mpr leaves, owns⟩]

/-- Settles O52: the guards of the commands decide whether they run, and each case of the registration check follows by what a step down, a
held takeover and a takeover leave. -/
theorem lostPartner : Obligations.LostPartner := by
  unfold Obligations.LostPartner
  refine ⟨fun s => ⟨fun on v => ?_, exec_heartbeatTimer_idle, fun m b on a => ?_, exec_heartbeatMissed, exec_heartbeatMissed_idle⟩,
    fun s t => ⟨fun idle => exec_partnerSilent_idle idle t, fun on => ⟨fun four new => ?_, ?_, ?_, ?_, ?_, ?_, ?_⟩⟩⟩
  · obtain ⟨ih, sent⟩ := heartbeatTimer_beats v
    exact ⟨_, exec_heartbeatTimer on, ih, sent⟩
  · exact ⟨_, exec_heartbeat on a b, heartbeat_keeps b s.dev, rfl⟩
  · have runs := exec_partnerSilent on four new t
    refine ⟨fun keyless => ?_, fun keyed held => ?_, fun keyed auto => ⟨fun none_ => ?_, fun some_ room clear => ?_, fun some_ room conflict => ?_⟩⟩
    · exact ⟨_, runs, silent_keyless keyless⟩
    · exact ⟨_, runs, silent_held keyed held⟩
    · rw [silent_unpaired keyed auto none_] at runs
      exact ⟨_, runs, silenced_tango _, silenced_recorded _⟩
    · rw [silent_takes keyed auto some_] at runs
      have won := silent_wins room clear s.dev.takeable
      exact ⟨_, runs, by rw [won.ih], won.epoch, won.owns⟩
    · rw [silent_takes keyed auto some_] at runs
      have lost := silent_loses room conflict s.dev.takeable
      exact ⟨_, runs, lost.lost, lost.state, by rw [lost.ih], by rw [lost.ih]⟩
  · intro free lost left
    rw [exec_fenceRetry on (.inl lost) t, fenceRetry_of_partner free left]
    rfl
  · intro due room clear
    obtain ⟨gs, takes⟩ := fenceRetry_takes (due.imp_right And.right)
    refine ⟨_, exec_fenceRetry on (due.symm.imp_left And.left) t, ?_⟩
    rw [takes, (takeOver_wins room clear gs).ih]
  · intro free kept
    exact unguarded_next (by rw [free, kept, Bool.or_self, Bool.and_false])
  · intro m c a waits
    refine ⟨_, exec_leaving on a c t, ?_⟩
    rw [leaving_of_waiting (d := s.dev.noted 0 m) waits t]
    exact ⟨onTango_k rfl (noted_keeps 0 m _), rfl⟩
  · intro m a owns keyed held
    have tango := detect_held_tango (t := t) (d := onTango (fun x => { x with leaving := some 2 }) (s.dev.noted 0 m)) keyed held
    refine ⟨_, exec_leaving on a 2 t, ?_⟩
    rw [leaving_of_gone (d := s.dev.noted 0 m) owns, tango]
    exact ⟨rfl, rfl⟩
  · intro m k a
    refine ⟨fun stays => ?_, fun leaves owns keyed held => ⟨_, exec_frozen on a k t, ?_⟩⟩
    · rw [exec_frozen on a k t, frozen_of_staying (d := s.dev.noted 0 m) stays t]
    · have tango := detect_held_tango (t := t) (d := onTango (fun x => { x with leaving := none }) (s.dev.noted 0 m)) keyed held
      rw [frozen_of_leaving (d := s.dev.noted 0 m) leaves owns, tango]
      exact ⟨rfl, rfl⟩

end Sys2Proof.Machine
end

section
/-! PROOF. Who owns the groups: the table that the heads agree on, the wait at start, and pairing (R287, R288, R291, R301, R306). -/

namespace Sys2Proof.Machine
open Sys2Proof

variable {d e x : Dev} {s : State} {m : Env} {o : Four Nat} {gs : List (Fin 4)} {n : Nat} {t : TakeoverIn}

/-! ## Registration (R289, R291) -/

theorem registerDrive_keeps (k : Nat) (d : Dev) : Keeps [.out, .vault] d (registerDrive k d) := registerDrive_k rfl (.refl _ d)

theorem registerDrives_keeps (l : List Nat) (d : Dev) : Keeps [.out, .vault] d (each registerDrive l d) :=
  each_k (fun _ _ k => registerDrive_k rfl k) (.refl _ d)

theorem registerDrive_grows (k : Nat) (d : Dev) : Grows d (registerDrive k d) := by
  unfold registerDrive
  split
  · exact .refl d
  · exact emit_grows _ _

theorem inService_congr (vault : e.vault = d.vault) (now : e.now = d.now) : e.inService = d.inService := by
  unfold Dev.inService Dev.gone Dev.drive
  rw [vault, now]

/-- A head that may register does so on each drive of a list. -/
theorem mem_registerDrives {k : Nat} {l : List Nat} {w : W64} (may : d.tango.stepped = false) (key : w = resKey d.glb.headB d.tango.epoch)
    (mem : k ∈ l) : Out.nvme k 4 (.register w) ∈ (each registerDrive l d).out := by
  induction l generalizing d with
  | nil => exact absurd mem List.not_mem_nil
  | cons a l ih =>
    have same := registerDrive_keeps a d
    have tango : (registerDrive a d).tango = d.tango := same .tango (by decide)
    have glb : (registerDrive a d).glb = d.glb := same .glb (by decide)
    change _ ∈ (each registerDrive l (registerDrive a d)).out
    rcases List.mem_cons.mp mem with rfl | later
    · refine (each_grows registerDrive_grows l _).mem ?_
      unfold registerDrive
      rw [may, if_neg Bool.false_ne_true, key]
      exact List.mem_append_right _ (List.mem_singleton_self _)
    · exact ih (by rw [tango, may]) (by rw [tango, glb, key]) later

theorem mem_registerAll {k : Nat} {w : W64} (may : d.tango.stepped = false) (key : w = resKey d.glb.headB d.tango.epoch)
    (mem : k ∈ d.inService) : Out.nvme k 4 (.register w) ∈ (registerAll d).out := by
  unfold registerAll
  dsimp only
  rw [onTango_out]
  exact mem_registerDrives may key mem

theorem registerAll_tango (d : Dev) : (registerAll d).tango = { d.tango with key := resKey d.glb.headB d.tango.epoch } := by
  unfold registerAll
  rw [onTango_tango, (registerDrives_keeps _ d .tango (by decide) :)]

/-! ## A table takes effect (R288) -/

/-- The groups that a table takes from this head. -/
def Dev.loses (o : Four Nat) (d : Dev) : Bool := d.owned.any (fun g => o.at g != d.self)

/-- The head that takes up a table: it has stepped down first where the table takes groups from it (R304). -/
def Dev.ready (o : Four Nat) (d : Dev) : Dev := if d.loses o then stepDown 4 d else d

theorem loses_of_lost (lost : ∃ g, d.owns g = true ∧ o.at g ≠ d.self) : d.loses o = true := by
  obtain ⟨g, own, other⟩ := lost
  exact List.any_eq_true.mpr ⟨g, mem_owned.mpr own, by simpa using other⟩

theorem loses_of_kept (kept : ∀ g, d.owns g = true → o.at g = d.self) : d.loses o = false := by
  refine List.any_eq_false.mpr fun g own => ?_
  simpa using kept g (mem_owned.mp own)

theorem ready_of_kept (kept : ∀ g, d.owns g = true → o.at g = d.self) : d.ready o = d := by
  unfold Dev.ready
  rw [loses_of_kept kept, if_neg Bool.false_ne_true]

theorem ready_of_lost (lost : ∃ g, d.owns g = true ∧ o.at g ≠ d.self) : d.ready o = stepDown 4 d := by
  unfold Dev.ready
  rw [loses_of_lost lost, if_pos rfl]

/-- Between the head that takes up a table and the head under it. -/
structure Tabled (o : Four Nat) (n : Nat) (d e : Dev) : Prop where
  tango : e.tango = { d.tango with
    owners := o, epoch := n, epochMax := max d.tango.epochMax n, stepped := false, waiting := false,
    state := if groupList.any (fun g => o.at g == d.self) then 3 else 1, key := resKey d.glb.headB n }
  keeps : Keeps [.out, .sl, .lg, .vault, .tango] d e
  sent : ∀ k ∈ d.inService, Out.nvme k 4 (.register (resKey d.glb.headB n)) ∈ e.out

theorem applyTable_tabled (o : Four Nat) (n : Nat) (d : Dev) : Tabled o n (d.ready o) (applyTable o n d) := by
  unfold applyTable
  extract_lets lost d1 fresh d2 d3 d4
  change Tabled o n d1 _
  have tables : Keeps [.lg, .tango] d1 d2 := each_k (fun _ _ k => freshOwn_k rfl k) (setTable_k rfl (.refl _ d1))
  have tabled : d2.tango = (setTable o n d1).tango := (each_k (L := [.lg]) (fun _ _ k => freshOwn_k rfl k) (.refl _ _)) .tango (by decide)
  have glb : d2.glb = d1.glb := tables .glb (by decide)
  have service : d2.inService = d1.inService := inService_congr (tables .vault (by decide)) (tables .now (by decide))
  have ends : Keeps [.sl, .lg, .vault] d3 (each (refreshLimit ·) groupList d4) := by
    refine each_k (fun _ _ k => refreshLimit_k rfl k) (foldl_k (fun _ _ k => ?_) (.refl _ d3))
    split
    · exact k
    · exact onDrive_k rfl k
  refine ⟨(ends .tango (by decide) :).trans ?_, .trans (registerAll_k rfl (onTango_k rfl (tables.mono (by decide)))) (ends.mono (by decide)),
    fun k mem => (ends.grows (by decide)).mem ?_⟩
  · rw [registerAll_tango, onTango_tango, onTango_glb, tabled, glb]
    rfl
  · refine mem_registerAll (d := onTango _ d2) rfl ?_ ?_
    · rw [onTango_tango, onTango_glb, tabled, glb]
      rfl
    · change k ∈ d2.inService
      rwa [service]

/-! ## OWNER_TABLE and OWNER_ACK (R288, R291) -/

theorem exec_ownerTable (on : s.dev.pairOn = true) (a : Heard m s.dev) (o : Four Nat) :
    exec (.ownerTable m o) s = .next { s with dev := ownerTable o m.epoch (s.dev.noted 0 m) } := exempt_next on a 0 0x20 _

theorem exec_ownerAck (on : s.dev.pairOn = true) (a : Heard m s.dev) (o : Four Nat) :
    exec (.ownerAck m o) s = .next { s with dev := ownerAck o m.epoch (s.dev.noted 0 m) } := exempt_next on a 0 0x21 _

theorem ownerTable_of_low (low : n ≤ d.tango.epoch) (o : Four Nat) : ownerTable o n d = d := by
  unfold ownerTable
  rw [if_neg (by omega)]

theorem ownerAck_of_low (low : n ≤ d.tango.epoch) (o : Four Nat) : ownerAck o n d = d := by
  unfold ownerAck
  rw [if_neg (by omega)]

theorem ownerTable_of_high (high : d.tango.epoch < n) (o : Four Nat) :
    ownerTable o n d = tangoSend 0 (.ownerAck (applyTable o n d).tango.owners (applyTable o n d).tango.epoch) (applyTable o n d) := by
  unfold ownerTable
  rw [if_pos high]

theorem ownerAck_of_high (high : d.tango.epoch < n) (o : Four Nat) :
    ownerAck o n d = onTango (fun t => { t with purge := some n }) (applyTable o n d) := by
  unfold ownerAck
  rw [if_pos high]

theorem owners_short (o : Four Nat) : (ownerBytes o).length ≤ 2 ^ 32 := by
  simp [ownerBytes, Four.list, leBytes_length]

/-- What speaks goes on speaking where its session, its switch and its service lanes stay. -/
theorem Dev.Voiced.of_same (v : d.Voiced) (session : e.tango.session = d.tango.session) (regs : e.regs = d.regs) (ciph : e.ciph = d.ciph) :
    e.Voiced := by
  obtain ⟨up, on, jobs, lane, keyed, own, erase, rekey⟩ := v
  have page : e.page 0 = d.page 0 := by unfold Dev.page; rw [ciph]
  unfold Dev.ciphOn at on
  exact ⟨session.trans up, by unfold Dev.ciphOn; rw [regs, on], by rw [ciph, jobs], by rw [ciph]; exact lane, page ▸ keyed, page ▸ own,
    page ▸ erase, page ▸ rekey⟩

/-- A table that leaves a head its groups is acknowledged. -/
theorem ownerTable_keeps_owner (high : d.tango.epoch < n) (kept : ∀ g, d.owns g = true → o.at g = d.self) :
    (ownerTable o n d).tango.owners = o ∧ (ownerTable o n d).tango.epoch = n ∧
      (ownerTable o n d).tango.epochMax = max d.tango.epochMax n ∧ (ownerTable o n d).ih = d.ih ∧
      (ownerTable o n d).tango.state = (if groupList.any (fun g => o.at g == d.self) then 3 else 1) ∧
      (d.Voiced → Out.ownerAck o n ∈ (ownerTable o n d).out) := by
  obtain ⟨tango, keeps, -⟩ := applyTable_tabled o n d
  rw [ready_of_kept kept] at tango keeps
  rw [ownerTable_of_high high]
  obtain ⟨q, sends⟩ := tangoSend_posts 0 (.ownerAck (applyTable o n d).tango.owners (applyTable o n d).tango.epoch) (applyTable o n d)
  refine ⟨by rw [sends, tango], by rw [sends, tango], by rw [sends, tango], ?_, by rw [sends, tango], fun v => ?_⟩
  · exact (tangoSend_keeps _ _ _ .ih (by decide) :).trans (keeps .ih (by decide))
  · have voiced : (applyTable o n d).Voiced := v.of_same (by rw [tango]) (keeps .regs (by decide)) (keeps .ciph (by decide))
    have sent := voiced.mem_tangoSend (o := .ownerAck (applyTable o n d).tango.owners (applyTable o n d).tango.epoch) rfl (owners_short _) 0
    rw [tango] at sent ⊢
    exact sent

theorem ownerTable_steps_down (high : d.tango.epoch < n) (lost : ∃ g, d.owns g = true ∧ o.at g ≠ d.self) :
    (ownerTable o n d).tango.owners = o ∧ (ownerTable o n d).tango.epoch = n ∧
      (ownerTable o n d).ih.stepdowns = d.ih.stepdowns + 1 := by
  obtain ⟨tango, keeps, -⟩ := applyTable_tabled o n d
  rw [ready_of_lost lost] at tango keeps
  rw [ownerTable_of_high high]
  obtain ⟨q, sends⟩ := tangoSend_posts 0 (.ownerAck (applyTable o n d).tango.owners (applyTable o n d).tango.epoch) (applyTable o n d)
  refine ⟨by rw [sends, tango], by rw [sends, tango], ?_⟩
  rw [(tangoSend_keeps _ _ _ .ih (by decide) :), (keeps .ih (by decide) :), stepDown_ih]

theorem ownerAck_keeps_owner (high : d.tango.epoch < n) (kept : ∀ g, d.owns g = true → o.at g = d.self) :
    (ownerAck o n d).tango.owners = o ∧ (ownerAck o n d).tango.epoch = n ∧ (ownerAck o n d).tango.purge = some n ∧
      ∀ k ∈ d.inService, Out.nvme k 4 (.register (resKey d.glb.headB n)) ∈ (ownerAck o n d).out := by
  obtain ⟨tango, -, sent⟩ := applyTable_tabled o n d
  rw [ready_of_kept kept] at tango sent
  rw [ownerAck_of_high high]
  exact ⟨by rw [onTango_tango, tango], by rw [onTango_tango, tango], rfl, sent⟩

/-! ## LINK_INFO (R287) -/

theorem exec_linkInfo (on : s.dev.pairOn = true) (a : Agreed m s.dev) (l : Four LinkSec) :
    exec (.linkInfo m l) s = .next { s with dev := linkInfo l (s.dev.noted 0 m) } := heard_next on a 0 0x08 _

/-- What pairing says of a group rests on both heads' links alone. -/
theorem pairedNow_congr (sl : e.sl = d.sl) (glb : e.glb = d.glb) (far : e.tango.farLink = d.tango.farLink) (g : Fin 4) :
    e.pairedNow g = d.pairedNow g := by
  unfold Dev.pairedNow Dev.linkSections
  rw [sl, glb, far]

theorem setBit_getLsbD (v : BitVec 4) (b : Bool) (g h : Fin 4) :
    (if b then v ||| (1 <<< g.val) else v &&& ~~~((1 : BitVec 4) <<< g.val)).getLsbD h.val = if h = g then b else v.getLsbD h.val := by
  revert v b g h
  decide

/-- One pairing noted: its bit says what the links say, the others stay, and so does the partner's link section. -/
theorem notePairing_notes (g : Fin 4) (d : Dev) : (notePairing g d).tango.farLink = d.tango.farLink ∧
    ∀ h : Fin 4, (notePairing g d).tango.paired.getLsbD h.val = if h = g then d.pairedNow g else d.tango.paired.getLsbD h.val := by
  unfold notePairing
  dsimp only
  split
  · next same =>
    refine ⟨rfl, fun h => ?_⟩
    split
    · next is => rw [is, same]
    · rfl
  · rw [(logEvent_keeps _ _ _ _ .tango (by decide) :)]
    exact ⟨rfl, setBit_getLsbD d.tango.paired (d.pairedNow g) g⟩

theorem notePairings_note (l : List (Fin 4)) (d : Dev) : (each notePairing l d).tango.farLink = d.tango.farLink ∧
    ∀ h : Fin 4, (each notePairing l d).tango.paired.getLsbD h.val = if h ∈ l then d.pairedNow h else d.tango.paired.getLsbD h.val := by
  induction l generalizing d with
  | nil => exact ⟨rfl, fun h => rfl⟩
  | cons g l ih =>
    have keeps : Keeps [.out, .cat, .hif, .tango, .dma, .evr] d (notePairing g d) := notePairing_k rfl (.refl _ d)
    obtain ⟨far, bits⟩ := notePairing_notes g d
    obtain ⟨far', bits'⟩ := ih (notePairing g d)
    refine ⟨far'.trans far, fun h => (bits' h).trans ?_⟩
    rw [pairedNow_congr (keeps .sl (by decide)) (keeps .glb (by decide)) far, bits]
    by_cases later : h ∈ l
    · simp [later]
    by_cases is : h = g
    · simp [is]
    · simp [later, is]

theorem linkInfo_notes (l : Four LinkSec) (d : Dev) : (linkInfo l d).tango.farLink = l ∧
    ∀ g : Fin 4, (linkInfo l d).tango.paired.getLsbD g.val = Dev.pairedNow { d with tango := { d.tango with farLink := l } } g := by
  obtain ⟨far, bits⟩ := notePairings_note groupList (onTango (fun t => { t with farLink := l }) d)
  refine ⟨far, fun g => (bits g).trans ?_⟩
  rw [if_pos (mem_groupList g)]
  rfl

/-! ## The wait at start (R291) -/

theorem exec_startupWaitExpiry (joins : s.dev.joins = true) (apart : s.dev.tango.session = false) (waits : s.dev.tango.waiting = true)
    (t : TakeoverIn) (ds : List DumpIn) : exec (.startupWaitExpiry t ds) s = .next { s with dev := startupExpiry t ds s.dev } :=
  guarded_next (by simp [joins, apart, waits])

theorem exec_startupWaitExpiry_idle (idle : s.dev.joins = false ∨ s.dev.tango.session = true ∨ s.dev.tango.waiting = false) (t : TakeoverIn)
    (ds : List DumpIn) : exec (.startupWaitExpiry t ds) s = .next s :=
  unguarded_next (by rcases idle with out | up | ready <;> simp [*])

theorem pairOn_of_joins (joins : d.joins = true) : d.pairOn = true := by
  unfold Dev.joins at joins
  simp only [Bool.and_eq_true] at joins
  exact joins.1.1

theorem startupExpiry_fatal (last : epochEnd ≤ d.epochSeen t + 1) (runs : d.glb.fatal = false) (ds : List DumpIn) :
    (startupExpiry t ds d).glb.fatal = true := by
  unfold startupExpiry
  dsimp only
  rw [if_pos last]
  exact (fatalStop_of_running runs _ _ _ _).1

theorem startupExpiry_lostRace (room : d.epochSeen t + 1 < epochEnd) (conflict : t.conflicts ≠ []) (ds : List DumpIn) :
    LostRace d (startupExpiry t ds d) := by
  have fences : Keeps [.out, .free, .vault, .cat, .ciph, .hif, .tango, .mca, .dma, .evr] d
      (startFence t (d.epochSeen t + 1) (each (fun s x => failDrive s none x) t.failed d)) := startFence_k rfl (failDrives_keeps t.failed d)
  unfold startupExpiry
  dsimp only
  rw [if_neg (by omega), if_pos (by simpa using conflict)]
  exact outrun_lostRace t (fences .ih (by decide))

theorem startupExpiry_wins (room : d.epochSeen t + 1 < epochEnd) (clear : t.conflicts = []) (ds : List DumpIn) :
    Wins (groupList.filter (fun g => !d.owns g)) (d.epochSeen t + 1) d (startupExpiry t ds d) := by
  unfold startupExpiry
  extract_lets gs before n d1 d2 d3
  rw [if_neg (by omega), clear, List.isEmpty_nil, Bool.not_true, if_neg Bool.false_ne_true]
  have fences : Posts d d1 := (failDrives_posts t.failed d).trans (startFence_k rfl (.refl Blk.butTango _)).posts
  have fenced_ : Keeps [.out, .free, .vault, .cat, .ciph, .hif, .tango, .mca, .dma, .evr] d d1 := startFence_k rfl (failDrives_keeps t.failed d)
  have claims : Keeps Blk.butTango (setTable (giveTo d.self gs d1.tango.owners) n d1) d2 := each_k (fun _ _ k => freshOwn_k rfl k) (.refl _ _)
  have starts : Keeps [.out, .free, .lg, .vault, .vcnt, .cat, .ciph, .dgst, .hif, .tango, .repl, .mca, .dma, .evr] d d3 :=
    startFromDump_k rfl (confirmAll_k rfl (onTango_k rfl (each_k (fun _ _ k => freshOwn_k rfl k) (setTable_k rfl (fenced_.mono (by decide))))))
  have claimed : d2.tango = (setTable (giveTo d.self gs d1.tango.owners) n d1).tango := claims .tango (by decide)
  have dumped : Posts (confirmAll (onTango (fun x => { x with key := resKey d.glb.headB n }) d2)) d3 := startFromDump_posts _ _ _ _
  have confirmed : (confirmAll (onTango (fun x => { x with key := resKey d.glb.headB n }) d2)).tango = { d2.tango with key := resKey d.glb.headB n } :=
    confirmAll_keeps _ .tango (by decide)
  have fits (x : Dev) : Keeps [.bpm, .sl, .lg] x (fitCeiling (each (refreshLimit ·) groupList x)) :=
    fitCeiling_k rfl (each_k (fun _ _ k => refreshLimit_k rfl k) (.refl _ x))
  obtain ⟨owners, epoch, ih, glb⟩ := endTakeover_ends gs n d3
  have after : (fitCeiling (each (refreshLimit ·) groupList (endTakeover gs n d3))).tango = (endTakeover gs n d3).tango := fits _ .tango (by decide)
  refine ⟨?_, ?_, ?_, ?_⟩
  · rw [after, owners, dumped.runs.owners, confirmed, claimed]
    exact congrArg (giveTo d.self gs) fences.runs.owners
  · rw [after, epoch, dumped.runs.epoch, confirmed, claimed]
    rfl
  · rw [(fits _ .ih (by decide) :), ih, (starts .ih (by decide) :)]
  · rw [(fits _ .glb (by decide) :), glb, (starts .glb (by decide) :)]

/-- Settles O51: a table of a higher epoch is put in force as the head is left by the groups that it takes; the wait at start is the takeover's
race. -/
theorem ownershipTable : Obligations.OwnershipTable := by
  unfold Obligations.OwnershipTable
  refine ⟨fun s m o on a => ⟨fun low => ?_, fun high kept => ⟨?_, ?_⟩, fun high lost => ?_⟩, fun s m l on a => ?_,
    fun s => ⟨unguarded_next, guarded_next⟩, fun s t ds => ⟨fun idle => exec_startupWaitExpiry_idle idle t ds, fun joins apart waits => ?_⟩⟩
  · rw [exec_ownerTable on a, exec_ownerAck on a, ownerTable_of_low (d := s.dev.noted 0 m) low, ownerAck_of_low (d := s.dev.noted 0 m) low]
    exact ⟨rfl, rfl⟩
  · obtain ⟨owners, epoch, most, ih, state, sent⟩ := ownerTable_keeps_owner (d := s.dev.noted 0 m) high kept
    exact ⟨_, exec_ownerTable on a o, owners, epoch, most, ih, state, fun v => sent (noted_speaks v 0).voiced⟩
  · exact ⟨_, exec_ownerAck on a o, ownerAck_keeps_owner (d := s.dev.noted 0 m) high kept⟩
  · exact ⟨_, exec_ownerTable on a o, ownerTable_steps_down (d := s.dev.noted 0 m) high lost⟩
  · have keeps : Keeps [.out, .cat, .hif, .tango, .dma, .evr] s.dev (linkInfo l (s.dev.noted 0 m)) :=
      linkInfo_k rfl ((noted_keeps 0 m s.dev).mono (by decide))
    exact ⟨_, exec_linkInfo on a l, keeps, linkInfo_notes l (s.dev.noted 0 m)⟩
  · have runs := exec_startupWaitExpiry joins apart waits t ds
    refine ⟨fun last => ?_, fun room conflict => ?_, fun room clear => ?_⟩
    · exact ⟨_, runs, startupExpiry_fatal last (fatal_of_live (live_of_pairOn (pairOn_of_joins joins))) ds⟩
    · have lost := startupExpiry_lostRace room conflict ds
      exact ⟨_, runs, lost.lost, lost.state, lost.waiting, by rw [lost.ih]⟩
    · have won := startupExpiry_wins room clear ds
      refine ⟨_, runs, by rw [won.ih], by rw [won.ih], won.epoch, fun g => ?_⟩
      rw [won.owns]
      by_cases own : s.dev.owns g = true
      · rw [own, Bool.true_or]
      · simp [own, mem_groupList]

end Sys2Proof.Machine
end

section
/-! PROOF. The pages of a session (R130 to R153, R280): a HELLO leaves the service lanes as they were, the session's keys make pages 0 and 1
READY, and the KEY_CONFIRM that follows leaves them so. -/

namespace Sys2Proof.Machine
open Sys2Proof

variable {d e u : Dev} {o : Out} {j : CJob}

/-! ## Pages -/

theorem setPage_page (p : Nat) (v : Page) (d : Dev) : (setPage p v d).page p = v := tgetD_tput _ _ _ _

theorem setPage_page_ne {p q : Nat} (other : q ≠ p) (v : Page) (d : Dev) : (setPage p v d).page q = d.page q := by
  unfold Dev.page tgetD setPage
  rw [onCiph_ciph, tget_tput_ne _ _ _ _ _ other]

theorem erasePage_page (p : Nat) (d : Dev) : ((erasePage p d).page p).state = .assigned := congrArg Page.state (setPage_page p _ d)

theorem erasePage_page_ne {p q : Nat} (other : q ≠ p) (d : Dev) : (erasePage p d).page q = d.page q := setPage_page_ne other _ d

/-- A key with its counter at zero makes its page READY, and warns of nothing (R133). -/
theorem loadKey_fresh (p : Nat) (key : List Byte) (salt : W32) (d : Dev) : ∃ v : Page, loadKey p key salt 0 d = setPage p v d ∧ v.state = .ready ∧
    v.domain = (d.page p).domain ∧ v.erase = (d.page p).erase ∧ v.rekey = none ∧ v.ctr = 0 := by
  have low : (classS p && ctrLow.ule 0) = false := by rw [show ctrLow.ule 0 = false by decide, Bool.and_false]
  unfold loadKey
  dsimp only
  rw [low, if_neg Bool.false_ne_true]
  exact ⟨_, rfl, rfl, rfl, rfl, rfl, ite_self _⟩

/-! ## What leaves the service lanes alone -/

/-- The pages and the service lanes are as they were. -/
structure SameLanes (d e : Dev) : Prop where
  pages : e.ciph.pages = d.ciph.pages
  jobs : e.ciph.jobs = d.ciph.jobs
  lane0 : e.ciph.lane0 = d.ciph.lane0
  lane1 : e.ciph.lane1 = d.ciph.lane1

namespace SameLanes

theorem refl (d : Dev) : SameLanes d d := ⟨rfl, rfl, rfl, rfl⟩

theorem trans (h : SameLanes d e) (k : SameLanes e u) : SameLanes d u :=
  ⟨k.pages.trans h.pages, k.jobs.trans h.jobs, k.lane0.trans h.lane0, k.lane1.trans h.lane1⟩

theorem page (h : SameLanes d e) (p : Nat) : e.page p = d.page p := by
  unfold Dev.page
  rw [h.pages]

end SameLanes

theorem drbgDraw_sameLanes (i : Nat) (d : Dev) : SameLanes d (drbgDraw i d) := by
  unfold drbgDraw
  dsimp only
  split
  · exact ⟨rfl, rfl, rfl, rfl⟩
  · exact ⟨rfl, rfl, rfl, rfl⟩

theorem drbgDraw_tango (i : Nat) (d : Dev) : (drbgDraw i d).tango = d.tango := drbgDraw_keeps i d .tango (by decide)

theorem sendHello_sameLanes (d : Dev) : SameLanes d (sendHello d) := by
  have draws : SameLanes d (if d.tango.helloSent then d
      else drbgDraw 4 (drbgDraw 4 (onTango (fun t => { t with helloSent := true, nonce := Config.free256 d.free, ecdhDraw := d.free + 1 }) d))) := by
    split
    · exact .refl d
    · exact .trans (e := onTango _ d) ⟨rfl, rfl, rfl, rfl⟩ ((drbgDraw_sameLanes 4 _).trans (drbgDraw_sameLanes 4 _))
  exact draws.trans ((drbgDraw_sameLanes 4 _).trans ⟨rfl, rfl, rfl, rfl⟩)

theorem sendHelloFirst_sameLanes (d : Dev) : SameLanes d (acceptHello.sendHelloFirst d) := by
  unfold acceptHello.sendHelloFirst
  split
  · exact .refl d
  · exact sendHello_sameLanes d

/-! ## A message that the lanes find alone, sent or refused -/

theorem noteJob_of_unchanneled (chan : j.chan = none) (status : Nat) (d : Dev) : noteJob j status d = d := by
  unfold noteJob
  rw [chan]
  rfl

theorem setLane_page (lane : Fin 2) (x : Option CJob) (d : Dev) (p : Nat) : (onCiph (setLane lane x) d).page p = d.page p := by
  unfold Dev.page setLane
  rw [onCiph_ciph]
  split <;> rfl

theorem setLane_jobs (lane : Fin 2) (x : Option CJob) (d : Dev) : (onCiph (setLane lane x) d).ciph.jobs = d.ciph.jobs := by
  unfold setLane
  rw [onCiph_ciph]
  split <;> rfl

/-- A page is in no worse a state than before. -/
def SameStates (d e : Dev) : Prop := ∀ p, (e.page p).state = (d.page p).state

/-- The counter value that a message takes leaves each page's state as it was, short of the counter's end (R138). -/
theorem takeCounter_states (margin : (d.page 0).ctr.ult ctrLow = true) : SameStates d (takeCounter 0 d) ∧
    (takeCounter 0 d).ciph.jobs = d.ciph.jobs ∧ ((takeCounter 0 d).page 0).erase = (d.page 0).erase ∧
    ((takeCounter 0 d).page 0).rekey = (d.page 0).rekey := by
  obtain ⟨c, w, page, ciph⟩ := takeCounter_page margin
  refine ⟨fun p => ?_, by rw [ciph], by rw [page], by rw [page]⟩
  by_cases zero : p = 0
  · rw [zero, page]
  · unfold Dev.page tgetD
    rw [ciph, tget_tput_ne _ _ _ _ _ zero]

/-- A lane that finds the message alone is free after it, whether it sends it or refuses it, and no page has changed its state. -/
theorem laneNext_alone (jobs : d.ciph.jobs = [j]) (a : Announces o j) (encrypt : j.encrypt = true) (margin : (d.page 0).ctr.ult ctrLow = true)
    (erase : (d.page 0).erase = none) (rekey : (d.page 0).rekey = none) (lane : Fin 2) (n : Nat) :
    (laneNext lane (n + 1) d).ciph.jobs = [] ∧ SameStates d (laneNext lane (n + 1) d) := by
  have done {x : Dev} (none_ : x.ciph.jobs = []) (states : SameStates d x) :
      (laneNext lane n x).ciph.jobs = [] ∧ SameStates d (laneNext lane n x) := by
    rw [laneNext_of_none none_]
    exact ⟨(setLane_jobs _ _ _).trans none_, fun p => (congrArg Page.state (setLane_page _ _ _ p)).trans (states p)⟩
  have took : (onCiph (fun c => { c with jobs := c.jobs.erase j }) d).ciph.jobs = [] := by
    rw [onCiph_ciph, jobs]
    simp
  unfold laneNext
  rw [pickJob_of_only jobs a]
  dsimp only
  rw [a.started, if_neg Bool.false_ne_true]
  split
  · rw [noteJob_of_unchanneled a.chan, a.page, pageIdle_of_none]
    · exact done took fun _ => rfl
    · exact erase
    · exact rekey
  · obtain ⟨long, msg, aborting⟩ := startJob_message a (onCiph (fun c => { c with jobs := c.jobs.erase j }) d)
    obtain ⟨states, jobs', erase', rekey'⟩ := takeCounter_states (d := onCiph (fun c => { c with jobs := c.jobs.erase j }) d) margin
    rw [a.timed, if_neg Bool.false_ne_true, startJob_of_announces a encrypt, a.page]
    generalize takeCounter 0 (onCiph (fun c => { c with jobs := c.jobs.erase j }) d) = x at states jobs' erase' rekey' ⊢
    have ended (y : Dev) := endJob_ciph long msg aborting y
    rw [pageIdle_of_none]
    · refine done ?_ fun p => (congrArg Page.state (page_congr (ended _) p)).trans (states p)
      rw [ended]
      exact jobs'.trans took
    · exact (congrArg Page.erase (page_congr (ended _) 0)).trans (erase'.trans erase)
    · exact (congrArg Page.rekey (page_congr (ended _) 0)).trans (rekey'.trans rekey)

theorem kickLane_idle (jobs : d.ciph.jobs = []) (lane : Fin 2) : (kickLane lane d).ciph.jobs = [] ∧ SameStates d (kickLane lane d) := by
  unfold kickLane
  split
  · rw [laneNext_of_none jobs]
    exact ⟨(setLane_jobs _ _ _).trans jobs, fun p => congrArg Page.state (setLane_page _ _ _ p)⟩
  · exact ⟨jobs, fun _ => rfl⟩

theorem kickLane_alone (jobs : d.ciph.jobs = [j]) (a : Announces o j) (encrypt : j.encrypt = true) (margin : (d.page 0).ctr.ult ctrLow = true)
    (erase : (d.page 0).erase = none) (rekey : (d.page 0).rekey = none) (lane : Fin 2) :
    SameStates d (kickLane lane d) ∧ (laneJob lane d.ciph = none → (kickLane lane d).ciph.jobs = []) := by
  by_cases free : laneJob lane d.ciph = none
  · have sends := laneNext_alone jobs a encrypt margin erase rekey lane d.ciph.jobs.length
    unfold kickLane
    rw [free, Option.isNone_none, if_pos rfl]
    exact ⟨sends.2, fun _ => sends.1⟩
  · rw [kickLane_of_busy lane free]
    exact ⟨fun _ => rfl, fun no => absurd no free⟩

theorem kickLanes_states (jobs : d.ciph.jobs = [j]) (a : Announces o j) (encrypt : j.encrypt = true) (margin : (d.page 0).ctr.ult ctrLow = true)
    (erase : (d.page 0).erase = none) (rekey : (d.page 0).rekey = none) : SameStates d (kickLanes d) := by
  rw [kickLanes_eq]
  by_cases first : laneJob 0 d.ciph = none
  · obtain ⟨states, none_⟩ := kickLane_alone jobs a encrypt margin erase rekey 0
    exact fun p => ((kickLane_idle (none_ first) 1).2 p).trans (states p)
  · rw [kickLane_of_busy 0 first]
    exact (kickLane_alone jobs a encrypt margin erase rekey 1).1

end Sys2Proof.Machine
end

section
/-! PROOF. How a session of the pair forms and is lost (R279, R280, R285, R286, R291). -/

namespace Sys2Proof.Machine
open Sys2Proof

variable {d e x : Dev} {s : State} {m : Hello} {env : Env} {c : Nat}

/-! ## HELLO goes out (R280, R285) -/

theorem sendHello_keeps (d : Dev) : Keeps [.out, .free, .ciph, .tango] d (sendHello d) := sendHello_k rfl (.refl _ d)

/-- A HELLO draws a nonce and a key where none are drawn yet, and names this head, its level and the highest epoch that it knows. -/
theorem sendHello_sends (d : Dev) :
    (∃ n k, (sendHello d).tango = { d.tango with helloSent := true, nonce := n, ecdhDraw := k }) ∧
    ∃ m, Out.hello m none ∈ (sendHello d).out ∧ m.serial = Config.serial ∧ m.headB = d.glb.headB ∧ m.levelMax = d.levelMax ∧
      m.epochMax = max d.tango.epochMax d.tango.epoch := by
  unfold sendHello
  extract_lets d1 m head
  have draws : Keeps [.free, .ciph, .tango] d d1 := by
    show Keeps _ d (if d.tango.helloSent then d else _)
    split
    · exact .refl _ d
    · exact drbgDraw_k rfl (drbgDraw_k rfl (onTango_k rfl (.refl _ d)))
  have drawn_ : ∃ n k, d1.tango = { d.tango with helloSent := true, nonce := n, ecdhDraw := k } := by
    show ∃ n k, (if d.tango.helloSent then d else _ : Dev).tango = _
    split
    · next sent => exact ⟨d.tango.nonce, d.tango.ecdhDraw, by rw [← sent]⟩
    · exact ⟨_, _, (drbgDraw_tango 4 _).trans (drbgDraw_tango 4 _)⟩
  have glb : d1.glb = d.glb := draws .glb (by decide)
  have boot : d1.boot = d.boot := draws .boot (by decide)
  obtain ⟨n, k, tango⟩ := drawn_
  refine ⟨⟨n, k, (drbgDraw_tango 4 d1).trans tango⟩, m, List.mem_append_right _ (List.mem_cons_of_mem _ (List.mem_singleton_self _)), rfl,
    congrArg Glb.headB glb, ?_, ?_⟩
  · change d1.levelMax = d.levelMax
    unfold Dev.levelMax
    rw [boot]
  · change max d1.tango.epochMax d1.tango.epoch = _
    rw [tango]

theorem sendHelloFirst_sends (d : Dev) : ∃ n k, (acceptHello.sendHelloFirst d).tango = { d.tango with helloSent := true, nonce := n, ecdhDraw := k } := by
  unfold acceptHello.sendHelloFirst
  split
  · next sent => exact ⟨d.tango.nonce, d.tango.ecdhDraw, by rw [← sent]⟩
  · exact (sendHello_sends d).1

theorem sendHelloFirst_keeps (d : Dev) : Keeps [.out, .free, .ciph, .tango] d (acceptHello.sendHelloFirst d) := sendHelloFirst_k rfl (.refl _ d)

theorem levelMax_congr (boot : e.boot = d.boot) : e.levelMax = d.levelMax := by
  unfold Dev.levelMax
  rw [boot]

/-! ## The session's keys (R280, step 4) -/

/-- Between `d` and `e` pages 0 and 1 have their session's keys, and the lanes have room. -/
structure Rekeyed (d e : Dev) : Prop where
  jobs : e.ciph.jobs = []
  lane : e.ciph.lane0 = none ∨ e.ciph.lane1 = none
  page0 : (e.page 0).state = .ready
  page1 : (e.page 1).state = .ready
  domain : (e.page 0).domain = (d.page 0).domain
  ctr : (e.page 0).ctr = 0
  erase : (e.page 0).erase = none
  rekey : (e.page 0).rekey = none

theorem stopJobs_idle (jobs : d.ciph.jobs = []) (sel : CJob → Bool) (status : Nat) : (stopJobs sel status d).ciph.pages = d.ciph.pages ∧
    (stopJobs sel status d).ciph.jobs = [] ∧ (d.ciph.lane0 = none ∨ d.ciph.lane1 = none →
      (stopJobs sel status d).ciph.lane0 = none ∨ (stopJobs sel status d).ciph.lane1 = none) := by
  unfold stopJobs
  dsimp only
  rw [jobs]
  refine ⟨rfl, ?_, fun free => free.imp (fun l => ?_) (fun l => ?_)⟩
  · change d.ciph.jobs.filter _ = []
    rw [jobs, List.filter_nil]
  · change d.ciph.lane0.map _ = none
    rw [l, Option.map_none]
  · change d.ciph.lane1.map _ = none
    rw [l, Option.map_none]

theorem loadSession_eq (m : Hello) (d : Dev) : ∃ k0 s0 k1 s1, loadSession m d =
    loadKey 1 k1 s1 0 (loadKey 0 k0 s0 0 (stopJobs (fun j => decide (j.page < 2)) 1 d)) := ⟨_, _, _, _, rfl⟩

theorem loadSession_rekeyed (jobs : d.ciph.jobs = []) (lane : d.ciph.lane0 = none ∨ d.ciph.lane1 = none) (erase : (d.page 0).erase = none)
    (m : Hello) : Rekeyed d (loadSession m d) := by
  obtain ⟨pages, none_, free⟩ := stopJobs_idle jobs (fun j => decide (j.page < 2)) 1
  obtain ⟨k0, s0, k1, s1, loads⟩ := loadSession_eq m d
  rw [loads]
  generalize stopJobs (fun j => decide (j.page < 2)) 1 d = y at pages none_ free ⊢
  have page : y.page 0 = d.page 0 := by unfold Dev.page; rw [pages]
  obtain ⟨v, first, ready, domain, erase', rekey, ctr⟩ := loadKey_fresh 0 k0 s0 y
  obtain ⟨w, second, ready', -⟩ := loadKey_fresh 1 k1 s1 (loadKey 0 k0 s0 0 y)
  rw [second, first]
  have at0 : (setPage 1 w (setPage 0 v y)).page 0 = v := (setPage_page_ne (by decide) _ _).trans (setPage_page 0 v y)
  refine ⟨none_, free lane, ?_, ?_, ?_, ?_, ?_, ?_⟩
  · rw [at0, ready]
  · rw [setPage_page, ready']
  · rw [at0, domain, page]
  · rw [at0, ctr]
  · rw [at0, erase', page, erase]
  · rw [at0, rekey]

/-! ## KEY_CONFIRM goes out (R280, step 5) -/

theorem tangoJob_keyConfirm (d : Dev) : ∃ j, d.tangoJob 0 0 (.keyConfirm none) = some j ∧ j.page = 0 ∧ j.body = [] ∧ j.head.length = 24 ∧
    j.tail = [] ∧ j.encrypt = true ∧ Announces (.keyConfirm none) { j with later := false } :=
  ⟨_, rfl, rfl, rfl, tangoHead_length _ _ _ _ _ _ _, rfl, rfl, rfl, rfl, rfl, rfl, rfl, rfl, rfl, rfl⟩

/-- What the head does with a HELLO of its partner that it accepts, before KEY_CONFIRM. -/
def greeted (m : Hello) (d : Dev) : Dev :=
  onTango (fun t => { t with
    partner := some m, cl := min (acceptHello.sendHelloFirst d).levelMax m.levelMax, migrated := false, partnerLevel := m.levelMax,
    epochMax := max t.epochMax m.epochMax, farLink := m.link, confirmed := true, verifyFailed := false, seqs := [(0, 1)], rxSeqs := [] })
    (loadSession m (acceptHello.sendHelloFirst d))

theorem acceptHello_eq (m : Hello) (d : Dev) : ∃ j, (greeted m d).tangoJob 0 0 (.keyConfirm none) = some j ∧
    acceptHello m d = submitJob j (greeted m d) := by
  obtain ⟨j, is, -⟩ := tangoJob_keyConfirm (greeted m d)
  refine ⟨j, is, ?_⟩
  change (match (greeted m d).tangoJob 0 0 (.keyConfirm none) with
    | some j => submitJob j (greeted m d)
    | none => greeted m d) = _
  rw [is]

theorem greeted_tango (m : Hello) (d : Dev) : ∃ n k, (greeted m d).tango = { d.tango with
    helloSent := true, nonce := n, ecdhDraw := k, partner := some m, cl := min d.levelMax m.levelMax, migrated := false,
    partnerLevel := m.levelMax, epochMax := max d.tango.epochMax m.epochMax, farLink := m.link, confirmed := true, verifyFailed := false,
    seqs := [(0, 1)], rxSeqs := [] } := by
  obtain ⟨n, k, sent⟩ := sendHelloFirst_sends d
  have level : (acceptHello.sendHelloFirst d).levelMax = d.levelMax := levelMax_congr (sendHelloFirst_keeps d .boot (by decide))
  have loads (y : Dev) : (loadSession m y).tango = y.tango := (loadSession_k (L := [.out, .cat, .ciph, .hif, .dma, .evr]) rfl (.refl _ y)) .tango (by decide)
  refine ⟨n, k, ?_⟩
  unfold greeted
  rw [onTango_tango, loads, sent, level]

theorem acceptHello_tango (m : Hello) (d : Dev) : (acceptHello m d).tango = (greeted m d).tango := by
  obtain ⟨j, -, sends⟩ := acceptHello_eq m d
  rw [sends]
  exact (submitJob_k (L := [.out, .cat, .ciph, .hif, .dma, .evr]) rfl (.refl _ (greeted m d))) .tango (by decide)

theorem Rekeyed.of_ciph (r : Rekeyed d e) (ciph : x.ciph = e.ciph) : Rekeyed d x := by
  have page := page_congr ciph
  obtain ⟨jobs, lane, page0, page1, domain, ctr, erase, rekey⟩ := r
  exact ⟨ciph ▸ jobs, ciph ▸ lane, page 0 ▸ page0, page 1 ▸ page1, page 0 ▸ domain, page 0 ▸ ctr, page 0 ▸ erase, page 0 ▸ rekey⟩

/-- KEY_CONFIRM is the only job that the lanes find, and it leaves where page 0 is the head's own. -/
theorem Rekeyed.confirms {j : CJob} (r : Rekeyed d x) (on : x.ciphOn = true) (is : x.tangoJob 0 0 (.keyConfirm none) = some j) :
    ((submitJob j x).page 0).state = .ready ∧ ((submitJob j x).page 1).state = .ready ∧
      ((d.page 0).domain = 0 → Out.keyConfirm none ∈ (submitJob j x).out) := by
  obtain ⟨jobs, lane, page0, page1, domain, ctr, erase, rekey⟩ := r
  obtain ⟨j', is', page, body, head, tail, encrypt, a⟩ := tangoJob_keyConfirm x
  rw [is] at is'
  obtain rfl := Option.some.inj is'
  have queued : submitJob j x = kickLanes (onCiph (fun c => { c with jobs := c.jobs ++ [{ j with later := false }] }) x) := by
    have quiet : ((x.page j.page).erase.isSome || (x.page j.page).rekey.isSome) = false := by
      rw [page, erase, rekey]
      rfl
    unfold submitJob
    dsimp only
    rw [body, head, tail, if_neg (by decide), quiet]
  have alone : (onCiph (fun c => { c with jobs := c.jobs ++ [{ j with later := false }] }) x).ciph.jobs = [{ j with later := false }] := by
    rw [onCiph_ciph, jobs]
    rfl
  have margin : (x.page 0).ctr.ult ctrLow = true := by rw [ctr]; decide
  rw [queued]
  have states : SameStates x (kickLanes (onCiph (fun c => { c with jobs := c.jobs ++ [{ j with later := false }] }) x)) :=
    kickLanes_states (d := onCiph _ x) alone a encrypt margin erase rekey
  exact ⟨(states 0).trans page0, (states 1).trans page1, fun own =>
    mem_kickLanes alone a (jobRefused_of_announces (d := onCiph _ x) on page0 (domain.trans own) a) lane⟩

/-- The head that accepts a HELLO with room on its lanes has both pages READY. -/
theorem acceptHello_confirms (free : LaneFree d) (erase : (d.page 0).erase = none) (m : Hello) :
    ((acceptHello m d).page 0).state = .ready ∧ ((acceptHello m d).page 1).state = .ready ∧
      ((d.page 0).domain = 0 → Out.keyConfirm none ∈ (acceptHello m d).out) := by
  obtain ⟨on, jobs, lane⟩ := free
  have same := sendHelloFirst_sameLanes d
  have loads := loadSession_rekeyed (d := acceptHello.sendHelloFirst d) (same.jobs.trans jobs) (by rw [same.lane0, same.lane1]; exact lane)
    (by rw [same.page, erase]) m
  have on' : (greeted m d).ciphOn = true := by
    have regs : (greeted m d).regs = d.regs :=
      (onTango_k (L := [.out, .free, .cat, .ciph, .hif, .tango, .dma, .evr]) rfl (loadSession_k rfl ((sendHelloFirst_keeps d).mono (by decide)))) .regs (by decide)
    unfold Dev.ciphOn at on ⊢
    rw [regs, on]
  obtain ⟨j, is, sends⟩ := acceptHello_eq m d
  rw [sends, ← same.page]
  exact (loads.of_ciph (x := greeted m d) rfl).confirms on' is

/-! ## HELLO comes in (R280, R285, R286) -/

/-- The head for which a HELLO starts its session anew. -/
def anew (d : Dev) : Dev := onTango (fun t => { t with session := false, helloSent := !t.session && t.helloSent }) d

theorem anew_eq (d : Dev) : (if d.tango.session then onTango (fun t => { t with session := false, helloSent := false }) d else d) = anew d := by
  unfold anew onTango
  dsimp only
  split
  · next up => rw [up]; rfl
  · next down =>
    have apart : d.tango.session = false := Bool.not_eq_true _ ▸ down
    have sent : (!d.tango.session && d.tango.helloSent) = d.tango.helloSent := by rw [apart]; rfl
    rw [sent, ← apart]

theorem hello_of_fault (bad : helloFault d.vault.vaultId m = some c) : hello m d =
    logEvent 0x060A noInstance [BitVec.ofNat 32 c, m.serial.setWidth 32, (m.serial >>> 32).setWidth 32]
      (onTango (fun t => { t with verifyFailed := true, helloSent := false }) (anew d)) := by
  have bad' : helloFault (anew d).vault.vaultId m = some c := bad
  unfold hello
  dsimp only
  rw [anew_eq, bad']

theorem hello_of_same (good : helloFault d.vault.vaultId m = none) (same : m.headB = d.glb.headB) : hello m d =
    if d.tango.clash then anew d
    else notifyAll (logEvent 0x0601 noInstance [BitVec.ofNat 32 (anew d).self] (onTango (fun t => { t with clash := true }) (anew d))) := by
  have good' : helloFault (anew d).vault.vaultId m = none := good
  have same' : m.headB = (anew d).glb.headB := same
  unfold hello
  dsimp only
  rw [anew_eq, good']
  dsimp only
  rw [if_pos same']
  rfl

/-- The level of the pair, and the least that the pair may run at (R285). -/
theorem hello_of_other (good : helloFault d.vault.vaultId m = none) (other : m.headB ≠ d.glb.headB) : ∃ words, hello m d =
    if min d.levelMax m.levelMax < max (max d.levelMin m.levelMin) (max d.vault.vaultLevel m.vaultLevel) then
      logEvent 0x0607 noInstance words
        (onTango (fun t => { t with partnerLevel := m.levelMax, clash := false, barred := decide (m.levelMax < d.levelMax) }) (anew d))
    else if d.boot.idOk then acceptHello m (onTango (fun t => { t with clash := false, barred := false }) (anew d))
    else onTango (fun t => { t with clash := false, barred := false }) (anew d) := by
  have good' : helloFault (anew d).vault.vaultId m = none := good
  have other' : m.headB ≠ (anew d).glb.headB := other
  apply Exists.intro
  unfold hello
  dsimp only
  rw [anew_eq, good']
  dsimp only
  rw [if_neg other']
  rfl

/-- An event recorded once the inter-head protocol has moved on is recorded before. -/
theorem Recorded.of_onTango {i : W32} {f : Tango → Tango} (r : Recorded c i (onTango f d) x) : Recorded c i d x := by
  unfold Recorded at r ⊢
  rw [onTango_evr, onTango_now] at r
  exact r

theorem anew_recorded {i : W32} {f : Tango → Tango} (r : Recorded c i (onTango f (anew d)) x) : Recorded c i d x := r.of_onTango.of_onTango

theorem exec_hello (on : s.dev.pairOn = true) (e : Env) (m : Hello) : exec (.hello e m) s = .next { s with dev := hello m s.dev } := guarded_next on

theorem logged_tango (c : Nat) (i : W32) (w : List W32) (d : Dev) : (logEvent c i w d).tango = d.tango := logEvent_keeps _ _ _ _ .tango (by decide)

theorem hello_session (m : Hello) (d : Dev) : (hello m d).tango.session = false := by
  cases fault : helloFault d.vault.vaultId m with
  | some c =>
    rw [hello_of_fault fault, logged_tango]
    rfl
  | none =>
    by_cases same : m.headB = d.glb.headB
    · rw [hello_of_same fault same]
      split
      · rfl
      · exact congrArg Tango.session (((notifyAll_keeps _) .tango (by decide)).trans (logged_tango _ _ _ _))
    · obtain ⟨words, is⟩ := hello_of_other fault same
      rw [is]
      split
      · rw [logged_tango]
        rfl
      split
      · obtain ⟨n, k, tango⟩ := greeted_tango m (onTango (fun t => { t with clash := false, barred := false }) (anew d))
        rw [acceptHello_tango, tango]
        rfl
      · rfl

theorem hello_refused (fault : helloFault d.vault.vaultId m = some c) : (hello m d).tango.verifyFailed = true ∧
    (hello m d).tango.partner = d.tango.partner ∧ Recorded 0x060A noInstance d (hello m d) := by
  rw [hello_of_fault fault, logged_tango]
  exact ⟨rfl, rfl, anew_recorded (logEvent_recorded _ _ _ _)⟩

theorem hello_clashes (good : helloFault d.vault.vaultId m = none) (same : m.headB = d.glb.headB) : (hello m d).tango.clash = true ∧
    (d.tango.clash = false → Recorded 0x0601 noInstance d (hello m d)) := by
  rw [hello_of_same good same]
  split
  · next clash => exact ⟨clash, fun no => absurd (no.symm.trans clash) Bool.false_ne_true⟩
  · refine ⟨congrArg Tango.clash (((notifyAll_keeps _) .tango (by decide)).trans (logged_tango _ _ _ _)), fun _ => ?_⟩
    exact (anew_recorded (logEvent_recorded _ _ _ _)).of_evr (notifyAll_keeps _ .evr (by decide))

theorem hello_too_low (good : helloFault d.vault.vaultId m = none) (other : m.headB ≠ d.glb.headB)
    (low : min d.levelMax m.levelMax < max (max d.levelMin m.levelMin) (max d.vault.vaultLevel m.vaultLevel)) :
    (hello m d).tango.partner = d.tango.partner ∧ (hello m d).tango.barred = decide (m.levelMax < d.levelMax) ∧
      Recorded 0x0607 noInstance d (hello m d) := by
  obtain ⟨words, is⟩ := hello_of_other good other
  rw [is, if_pos low, logged_tango]
  exact ⟨rfl, rfl, anew_recorded (logEvent_recorded _ _ _ _)⟩

theorem hello_levels (good : helloFault d.vault.vaultId m = none) (other : m.headB ≠ d.glb.headB)
    (level : max (max d.levelMin m.levelMin) (max d.vault.vaultLevel m.vaultLevel) ≤ min d.levelMax m.levelMax) :
    (hello m d).tango.clash = false ∧ (hello m d).tango.barred = false ∧
      (d.boot.idOk = true → (d.page 0).erase = none → LaneFree d → (hello m d).tango.partner = some m ∧
        (hello m d).tango.cl = min d.levelMax m.levelMax ∧ (hello m d).tango.confirmed = true ∧ ((hello m d).page 0).state = .ready ∧
        ((hello m d).page 1).state = .ready ∧ ((d.page 0).domain = 0 → Out.keyConfirm none ∈ (hello m d).out)) := by
  obtain ⟨words, is⟩ := hello_of_other good other
  rw [is, if_neg (Nat.not_lt.mpr level)]
  split
  · obtain ⟨n, k, tango⟩ := greeted_tango m (onTango (fun t => { t with clash := false, barred := false }) (anew d))
    rw [acceptHello_tango, tango]
    refine ⟨rfl, rfl, fun _ erase free => ⟨rfl, rfl, rfl, ?_⟩⟩
    exact acceptHello_confirms (d := onTango _ (anew d)) free erase m
  · next unknown => exact ⟨rfl, rfl, fun id => absurd id unknown⟩

/-! ## HELLO_RETRY (R284, R291) -/

theorem exec_helloRetry (on : s.dev.pairOn = true) (apart : s.dev.tango.session = false) :
    exec .helloRetry s = .next { s with dev := helloRetry s.dev } := guarded_next (by rw [on, apart]; rfl)

theorem exec_helloRetry_idle (idle : s.dev.pairOn = false ∨ s.dev.tango.session = true) : exec .helloRetry s = .next s :=
  unguarded_next (by rcases idle with off | up <;> simp [*])

theorem helloRetry_of_idle (idle : d.joins = false ∨ d.tango.waiting = false) : helloRetry d = sendHello d := by
  unfold helloRetry
  dsimp only
  rw [if_neg (by rcases idle with out | ready <;> simp [*])]

theorem helloRetry_of_waiting (joins : d.joins = true) (waits : d.tango.waiting = true) (none_ : d.owned = []) (alone : d.partnerSeen = false) :
    helloRetry d = claimGroups rawSlots d.normal (max d.tango.epochMax d.tango.epoch + 1) (sendHello d) := by
  unfold helloRetry
  dsimp only
  rw [if_pos (by simp [joins, waits, none_, alone])]

/-- Groups that are claimed are this head's, at the epoch of the claim. -/
theorem claimGroups_claims {n k : Nat} (room : k < epochEnd) (gs : List (Fin 4)) (d : Dev) :
    (claimGroups n gs k d).tango.epoch = k ∧ ∀ g, (claimGroups n gs k d).owns g = (d.owns g || gs.contains g) := by
  unfold claimGroups
  rw [if_neg (by omega)]
  extract_lets d1
  have fresh (y : Dev) : Keeps [.lg] y (each (freshOwn n) gs y) := each_k (fun _ _ k => freshOwn_k rfl k) (.refl _ y)
  have limits (y : Dev) : Keeps [.out, .sl, .lg] y (each (refreshLimit ·) gs (acquireAll y)) :=
    each_k (fun _ _ k => refreshLimit_k rfl k) (acquireAll_k rfl (.refl _ y))
  have keeps : Keeps [.out, .sl, .lg, .vault, .tango] d (each (refreshLimit ·) gs (acquireAll (registerAll (each (freshOwn n) gs d1)))) :=
    each_k (fun _ _ k => refreshLimit_k rfl k) (acquireAll_k rfl (registerAll_k rfl (each_k (fun _ _ k => freshOwn_k rfl k) (setTable_k rfl (.refl _ d)))))
  have tango : (each (refreshLimit ·) gs (acquireAll (registerAll (each (freshOwn n) gs d1)))).tango =
      { d1.tango with key := resKey (each (freshOwn n) gs d1).glb.headB (each (freshOwn n) gs d1).tango.epoch } := by
    rw [(limits _ .tango (by decide) :), registerAll_tango, (fresh d1 .tango (by decide) :)]
  refine ⟨by rw [tango]; rfl, owns_of_taken ?_ (keeps .glb (by decide))⟩
  rw [tango]
  rfl

/-! ## The session is up (R280, R291, R306) -/

/-- The session is up, before any table is named. -/
def raised (d : Dev) : Dev :=
  notePairings (resetBases (onTango (fun t => { t with session := true, silent := false, missed := 0, resync := true,
                                                       confirmed := false, leaving := none }) d))

/-- The state that the partner's HELLO names. -/
def Dev.farState (d : Dev) : Nat := (d.tango.partner.map (·.state)).getD 0

theorem sessionUp_eq (d : Dev) : sessionUp d =
    if d.tango.state = 3 ∧ d.farState ≤ 1 then announce (raised d)
    else if !d.glb.headB ∧ d.tango.state ≤ 1 ∧ d.farState ≤ 1 then sendTable ⟨0, 0, 1, 1⟩ (max d.tango.epochMax d.tango.epoch + 1) (raised d)
    else raised d := rfl

theorem farState_low (low : ∀ m, d.tango.partner = some m → m.state ≤ 1) : d.farState ≤ 1 := by
  unfold Dev.farState
  cases far : d.tango.partner with
  | none => exact Nat.zero_le _
  | some m => exact low m far

theorem notePairing_pairs (g : Fin 4) (d : Dev) : ∃ p, (notePairing g d).tango = { d.tango with paired := p } := by
  unfold notePairing
  dsimp only
  split
  · exact ⟨d.tango.paired, rfl⟩
  · exact ⟨_, logged_tango _ _ _ _⟩

theorem notePairings_pairs (l : List (Fin 4)) (d : Dev) : ∃ p, (each notePairing l d).tango = { d.tango with paired := p } := by
  induction l generalizing d with
  | nil => exact ⟨d.tango.paired, rfl⟩
  | cons g l ih =>
    obtain ⟨p, first⟩ := notePairing_pairs g d
    obtain ⟨q, rest⟩ := ih (notePairing g d)
    exact ⟨q, rest.trans (by rw [first])⟩

theorem raised_tango (d : Dev) : ∃ p, (raised d).tango = { d.tango with
    session := true, silent := false, missed := 0, resync := true, confirmed := false, leaving := none, paired := p } := by
  obtain ⟨p, pairs⟩ := notePairings_pairs groupList (resetBases (onTango (fun t => { t with session := true, silent := false, missed := 0, resync := true,
                                                                                             confirmed := false, leaving := none }) d))
  exact ⟨p, pairs⟩

theorem raised_keeps (d : Dev) : Keeps [.out, .lg, .cat, .hif, .tango, .dma, .evr] d (raised d) :=
  notePairings_k rfl (resetBases_k rfl (onTango_k rfl (.refl _ d)))

/-- A head that has its voice speaks as soon as its session is up. -/
theorem voiced_of_hasVoice (v : HasVoice d) (session : e.tango.session = true) (regs : e.regs = d.regs) (ciph : e.ciph = d.ciph) : e.Voiced := by
  obtain ⟨⟨on, jobs, lane⟩, keyed, own, -, erase, rekey⟩ := v
  have page : e.page 0 = d.page 0 := page_congr ciph 0
  unfold Dev.ciphOn at on
  exact ⟨session, by unfold Dev.ciphOn; rw [regs, on], by rw [ciph, jobs], by rw [ciph]; exact lane, page ▸ keyed, page ▸ own, page ▸ erase,
    page ▸ rekey⟩

theorem raised_voiced (v : HasVoice d) : (raised d).Voiced := by
  obtain ⟨p, tango⟩ := raised_tango d
  exact voiced_of_hasVoice v (by rw [tango]) (raised_keeps d .regs (by decide)) (raised_keeps d .ciph (by decide))

theorem exec_keyConfirm (joins : s.dev.joins = true) (apart : s.dev.tango.session = false) (a : Heard env s.dev) :
    exec (.keyConfirm env) s = .next (stagedState (fun x => sessionUp (x.noted 0 env)) s) := by
  have runs : when (s.dev.joins && !s.dev.tango.session) (exemptIn 0 0x02 env sessionUp) s.dev = sessionUp (s.dev.noted 0 env) := by
    rw [joins, apart]
    exact exemptIn_of_heard a _ _ _
  change Host.Outcome.next (stagedState _ s) = _
  unfold stagedState
  dsimp only
  rw [runs]

theorem exec_keyConfirm_barred (out : s.dev.joins = false) (e : Env) : exec (.keyConfirm e) s = .next s := by
  change Host.Outcome.next (stagedState _ s) = _
  rw [out, Bool.false_and, stagedState_of_same rfl]
  rfl

/-- A session that comes up without a checkpoint stages nothing. -/
theorem exec_keyConfirm_quiet (joins : s.dev.joins = true) (apart : s.dev.tango.session = false) (a : Heard env s.dev)
    (quiet : (sessionUp (s.dev.noted 0 env)).tango.ckptSeq = s.dev.tango.ckptSeq) :
    exec (.keyConfirm env) s = .next { s with dev := sessionUp (s.dev.noted 0 env) } := by
  rw [exec_keyConfirm joins apart a, stagedState_of_same quiet]

theorem sessionUp_ready (ready : d.tango.state = 2) : sessionUp d = raised d := by
  rw [sessionUp_eq, if_neg (by omega), if_neg (by omega)]

theorem sessionUp_proposes (headA : d.glb.headB = false) (starts : d.tango.state ≤ 1) (far : d.farState ≤ 1) :
    sessionUp d = sendTable ⟨0, 0, 1, 1⟩ (max d.tango.epochMax d.tango.epoch + 1) (raised d) := by
  rw [sessionUp_eq, if_neg (by omega), if_pos ⟨by rw [headA]; rfl, starts, far⟩]

theorem sessionUp_announces (runs : d.tango.state = 3) (far : d.farState ≤ 1) : sessionUp d = announce (raised d) := by
  rw [sessionUp_eq, if_pos ⟨runs, far⟩]

theorem announce_of_room (room : d.tango.epoch + 1 < epochEnd) : announce d =
    sendCkpt (sendTable d.tango.owners (d.tango.epoch + 1) (setTable d.tango.owners (d.tango.epoch + 1) d)) := by
  unfold announce
  dsimp only
  rw [if_neg (by omega)]

theorem sendCkpt_counts (d : Dev) : ∃ b n q, (sendCkpt d).tango = { d.tango with ckptBad := b, ckptSeq := n, seqs := q } := by
  unfold sendCkpt
  split
  · exact ⟨false, d.tango.ckptSeq, d.tango.seqs, rfl⟩
  split
  · obtain ⟨q, posted⟩ := tangoSend_posts 3 (.ckpt d.checkpoint) d
    have told (y : Dev) : (toldTakes y).tango = y.tango := (toldTakes_k (L := [.vault, .cat]) rfl (.refl _ y)) .tango (by decide)
    rw [told, onTango_tango, posted]
    exact ⟨_, _, _, rfl⟩
  · exact ⟨d.tango.ckptBad, d.tango.ckptSeq, d.tango.seqs, rfl⟩

theorem sendCkpt_grows (d : Dev) : Grows d (sendCkpt d) := by
  unfold sendCkpt
  split
  · exact .refl d
  split
  · exact (tangoSend_grows 3 _ d).trans (toldTakes_k rfl (onTango_k rfl (.refl _ _))).silent
  · exact .refl d

/-- A running head that announces its table keeps its owners, raises its epoch by one, and says so. -/
theorem announce_announces (room : d.tango.epoch + 1 < epochEnd) : (announce d).tango.session = d.tango.session ∧
    (announce d).tango.owners = d.tango.owners ∧ (announce d).tango.epoch = d.tango.epoch + 1 ∧
    (d.Voiced → Out.ownerTable d.tango.owners (d.tango.epoch + 1) ∈ (announce d).out) := by
  have tables : Keeps [.lg, .tango] d (setTable d.tango.owners (d.tango.epoch + 1) d) := setTable_k rfl (.refl _ d)
  obtain ⟨q, posted⟩ := tangoSend_posts 0 (.ownerTable d.tango.owners (d.tango.epoch + 1)) (setTable d.tango.owners (d.tango.epoch + 1) d)
  obtain ⟨b, n, q', counts⟩ := sendCkpt_counts (sendTable d.tango.owners (d.tango.epoch + 1) (setTable d.tango.owners (d.tango.epoch + 1) d))
  rw [announce_of_room room, counts]
  unfold sendTable
  rw [posted, setTable_tango]
  refine ⟨rfl, rfl, rfl, fun v => (sendCkpt_grows _).mem ?_⟩
  exact (v.of_same (by rw [setTable_tango]) (tables .regs (by decide)) (tables .ciph (by decide))).mem_tangoSend
    (o := .ownerTable d.tango.owners (d.tango.epoch + 1)) rfl (owners_short _) 0

/-! ## A session is lost (R270, R279) -/

theorem exec_tangoQpError (joins : s.dev.joins = true) (q : Fin 5) : exec (.tangoQpError q) s = .next { s with dev := tangoQpError s.dev } :=
  guarded_next joins

/-- A TAKE_OPEN that is undone waits no more. -/
theorem undoPart_tango (o : Hdr × Nat × Nat × OpenReq) (status : Nat) (d : Dev) :
    (undoPart o status d).tango = { d.tango with partOpens := d.tango.partOpens.erase o } := by
  unfold undoPart
  extract_lets r d1
  have ends (y : Dev) : (complete o.1 0x40 status 0 0 y).tango = y.tango := complete_keeps _ _ _ _ _ _ .tango (by decide)
  have waits : d1.tango = { d.tango with partOpens := d.tango.partOpens.erase o } := rfl
  rw [ends, ← waits]
  split
  · rfl
  split
  · rfl
  · exact (giveBack_k (L := [.cat]) rfl (.refl _ d1)) .tango (by decide)

theorem undoParts_none (l : List (Hdr × Nat × Nat × OpenReq)) (status : Nat) (waits : d.tango.partOpens = l) :
    (each (fun o x => undoPart o status x) l d).tango.partOpens = [] := by
  induction l generalizing d with
  | nil => exact waits
  | cons o l ih =>
    refine ih (d := undoPart o status d) ?_
    rw [undoPart_tango, waits]
    exact List.erase_cons_head ..

theorem undoOpens_keeps (status : Nat) (d : Dev) : Keeps [.out, .vault, .cat, .ciph, .dgst, .hif, .tango, .mca, .dma, .evr] d (undoOpens status d) :=
  each_k (fun _ _ k => undoPart_k rfl k) (.refl _ d)

/-- The head that has lost its session, before it says HELLO again. -/
def bereft (d : Dev) : Dev :=
  erasePage 1 (erasePage 0 (stopJobs (fun j => decide (j.page < 2)) 1
    (onTango (fun t => { t with session := false, helloSent := false, seqs := [], rxSeqs := [] }) (undoOpens 8 d))))

theorem tangoQpError_eq (d : Dev) : tangoQpError d = sendHello (bereft d) := rfl

theorem bereft_tango (d : Dev) : (bereft d).tango =
    { (undoOpens 8 d).tango with session := false, helloSent := false, seqs := [], rxSeqs := [] } :=
  (erasePage_k (L := [.out, .cat, .ciph, .hif, .dma, .evr]) rfl (erasePage_k rfl (stopJobs_k rfl (.refl _ _)))) .tango (by decide)

theorem bereft_glb (d : Dev) : (bereft d).glb = d.glb :=
  (erasePage_k (L := [.out, .vault, .cat, .ciph, .dgst, .hif, .tango, .mca, .dma, .evr]) rfl (erasePage_k rfl (stopJobs_k rfl
    (onTango_k rfl (undoOpens_keeps 8 d))))) .glb (by decide)

theorem bereft_pages (d : Dev) : ((bereft d).page 0).state = .assigned ∧ ((bereft d).page 1).state = .assigned := by
  refine ⟨?_, erasePage_page 1 _⟩
  unfold bereft
  rw [erasePage_page_ne (by decide), erasePage_page]

/-- Settles O50: each case of HELLO by what it does to the session's state; a session that comes up by the state of both heads. -/
theorem sessionSetup : Obligations.SessionSetup := by
  unfold Obligations.SessionSetup
  refine fun s => ⟨fun off e m => ⟨unguarded_next off, exec_helloRetry_idle (.inl off)⟩,
    fun out => ⟨exec_keyConfirm_barred out, fun q => unguarded_next out⟩, fun on => ⟨fun e m => ?_, fun up => exec_helloRetry_idle (.inr up), ?_, ?_⟩,
    fun joins => ⟨fun e apart a => ⟨fun ready => ?_, fun headA starts far v => ?_, fun runs far room => ?_⟩, fun q => ?_⟩⟩
  · refine ⟨_, exec_hello on e m, hello_session m _, fun c fault => hello_refused fault,
      fun good => ⟨hello_clashes good, fun other => ⟨hello_too_low good other, fun level => ?_⟩⟩⟩
    obtain ⟨clash, barred, accepts⟩ := hello_levels good other level
    exact ⟨clash, barred, fun id erase _ free => accepts id erase free⟩
  · intro apart idle
    obtain ⟨⟨n, k, tango⟩, m, sent, serial, headB, level, most⟩ := sendHello_sends s.dev
    refine ⟨_, m, exec_helloRetry on apart, ?_⟩
    rw [helloRetry_of_idle idle, tango]
    exact ⟨rfl, rfl, sent, serial, headB, level, most⟩
  · intro apart joins waits none_ alone room
    obtain ⟨⟨n, k, tango⟩, -⟩ := sendHello_sends s.dev
    obtain ⟨epoch, owns⟩ := claimGroups_claims (n := rawSlots) room s.dev.normal (sendHello s.dev)
    refine ⟨_, exec_helloRetry on apart, ?_⟩
    rw [helloRetry_of_waiting joins waits none_ alone]
    refine ⟨epoch, fun g => (owns g).trans ?_⟩
    have own : s.dev.owns g = false := Bool.not_eq_true _ ▸ fun own => by simpa [none_] using mem_owned.mpr own
    rw [owns_of_glb (d := s.dev) (by rw [tango]) (sendHello_keeps s.dev .glb (by decide)), own, Bool.false_or]
  · obtain ⟨p, tango⟩ := raised_tango (s.dev.noted 0 e)
    have is := sessionUp_ready (d := s.dev.noted 0 e) ready
    refine ⟨_, exec_keyConfirm_quiet joins apart a (by rw [is, tango]; rfl), ?_⟩
    rw [is, tango]
    exact ⟨rfl, rfl, rfl, rfl, rfl, rfl⟩
  · obtain ⟨p, tango⟩ := raised_tango (s.dev.noted 0 e)
    have is := sessionUp_proposes (d := s.dev.noted 0 e) headA starts (farState_low far)
    obtain ⟨q, posted⟩ := tangoSend_posts 0 (.ownerTable ⟨0, 0, 1, 1⟩ (max s.dev.tango.epochMax s.dev.tango.epoch + 1)) (raised (s.dev.noted 0 e))
    have voiced : (raised (s.dev.noted 0 e)).Voiced := raised_voiced (d := s.dev.noted 0 e) v
    have table : (sessionUp (s.dev.noted 0 e)).tango = _ := (congrArg Dev.tango is).trans posted
    refine ⟨_, exec_keyConfirm_quiet joins apart a (by rw [table, tango]; rfl), by rw [table, tango], by rw [table, tango]; rfl, ?_⟩
    rw [is]
    exact voiced.mem_tangoSend rfl (owners_short _) 0
  · obtain ⟨p, tango⟩ := raised_tango (s.dev.noted 0 e)
    have is := sessionUp_announces (d := s.dev.noted 0 e) runs (farState_low far)
    have epoch : (raised (s.dev.noted 0 e)).tango.epoch = s.dev.tango.epoch := by rw [tango]; rfl
    have owners : (raised (s.dev.noted 0 e)).tango.owners = s.dev.tango.owners := by rw [tango]; rfl
    obtain ⟨session, kept, next, tells⟩ := announce_announces (d := raised (s.dev.noted 0 e)) (by rw [epoch]; exact room)
    rw [owners, epoch] at tells
    have staged : Keeps [.out, .free, .mca] (sessionUp (s.dev.noted 0 e)) (stagedState (fun x => sessionUp (x.noted 0 e)) s).dev :=
      stagedState_k (.refl _ _) rfl
    refine ⟨_, exec_keyConfirm joins apart a, ?_⟩
    rw [(staged .tango (by decide) :), is, session, kept, next, epoch, owners, tango]
    refine ⟨rfl, rfl, rfl, fun v => (stagedState_grows _ s).mem ?_⟩
    rw [is]
    exact tells (raised_voiced (d := s.dev.noted 0 e) v)
  · obtain ⟨⟨n, k, tango⟩, m, sent, serial, headB, -⟩ := sendHello_sends (bereft s.dev)
    obtain ⟨page0, page1⟩ := bereft_pages s.dev
    have same := sendHello_sameLanes (bereft s.dev)
    refine ⟨_, m, exec_tangoQpError joins q, ?_⟩
    rw [tangoQpError_eq, same.page, same.page, tango, bereft_tango]
    exact ⟨rfl, undoParts_none _ 8 rfl, page0, page1, rfl, rfl, sent, serial, headB.trans (by rw [bereft_glb])⟩

end Sys2Proof.Machine
end

section
/-! PROOF. A planned handover is asked for, and the giving head cuts its groups (R305, steps 1 to 4). -/

namespace Sys2Proof.Machine
open Sys2Proof

variable {d e : Dev} {s : State} {env : Env} {m : BitVec 4} {h : Hand} {g : Fin 4} {gs : List (Fin 4)}

/-! ## HANDOVER_REQ (R305, steps 1 and 2) -/

theorem exec_handoverReq (on : s.dev.pairOn = true) (a : Agreed env s.dev) (some_ : m ≠ 0) (dir : Nat) :
    exec (.handoverReq env m dir) s = .next { s with dev := handoverReq m dir (s.dev.noted 0 env) } := by
  have runs := guarded_next (s := s) (p := s.dev.pairOn && m != 0) (f := checkedIn 0 0x22 env (handoverReq m dir)) (by simpa [on] using some_)
  rw [checkedIn_of_agreed a] at runs
  exact runs

theorem handoverReq_refuses (no : (groupsIn m).all d.owns = false ∨ d.handBusy m 0 = true) : handoverReq m 1 d = d := by
  unfold handoverReq
  dsimp only
  rw [if_pos rfl, if_pos (by rcases no with other | busy <;> simp [*])]

/-- The head that gives at its partner's request: its rings stand, and it has asked. -/
def asking (m : BitVec 4) (d : Dev) : Dev :=
  onTango (fun t => { t with hand := some { Hand.start m true none 0 with stage := 1 } })
    (setCeiling (d.ceilingWith m) (onTango (fun t => { t with hand := some (.start m true none 0) }) d))

theorem handoverReq_gives (own : (groupsIn m).all d.owns = true) (free : d.handBusy m 0 = false) : handoverReq m 1 d =
    if d.freeAbove (d.ceilingWith m) then tangoSend 0 (.handReq m 0) (asking m d)
    else onTango (fun t => { t with hand := some (.start m true none 0) }) d := by
  unfold handoverReq
  dsimp only
  rw [if_pos rfl, own, free, if_neg (by decide)]
  rfl

theorem handReq_short (m : BitVec 4) (x : Nat) : (leBytes 1 m.toNat ++ leBytes 1 x).length ≤ 2 ^ 32 := by
  rw [List.length_append, leBytes_length, leBytes_length]
  decide

theorem handReady_short (m : BitVec 4) : (leBytes 1 m.toNat).length ≤ 2 ^ 32 := by
  rw [leBytes_length]
  decide

theorem handoverReq_starts (own : (groupsIn m).all d.owns = true) (free : d.handBusy m 0 = false) :
    (handoverReq m 1 d).tango.owners = d.tango.owners ∧
      (handoverReq m 1 d).tango.hand = some ⟨m, true, none, if d.freeAbove (d.ceilingWith m) then 1 else 0, []⟩ ∧
      (d.freeAbove (d.ceilingWith m) = true → d.Voiced → Out.handReq m 0 ∈ (handoverReq m 1 d).out) := by
  rw [handoverReq_gives own free]
  by_cases fits : d.freeAbove (d.ceilingWith m) = true
  · obtain ⟨n, sends⟩ := tangoSend_posts 0 (.handReq m 0) (asking m d)
    rw [if_pos fits, if_pos fits, sends]
    exact ⟨rfl, rfl, fun _ v => (v.of_same (e := asking m d) rfl rfl rfl).mem_tangoSend rfl (handReq_short m 0) 0⟩
  · rw [if_neg fits, if_neg fits]
    exact ⟨rfl, rfl, fun yes => absurd yes fits⟩

theorem handoverReq_declines (no : d.tango.state = 1 ∨ d.rings250 (groupsIn m) = false ∨ (groupsIn m).any d.owns = true ∨
    (groupsIn m).all (fun g => d.tango.paired.getLsbD g.val) = false) : handoverReq m 0 d = d := by
  unfold handoverReq
  dsimp only
  rw [if_neg (by decide), if_pos]
  rw [List.all_eq_not_any_not] at no
  rcases no with waits | short | own | apart
  · simp [waits]
  · simp [short]
  · simp [own]
  · rw [Bool.not_eq_false'] at apart
    rw [apart, Bool.or_true]

/-- The head that takes at its partner's request. -/
def taking (m : BitVec 4) (x : Option Hdr) (d : Dev) : Dev := onTango (fun t => { t with hand := some (.start m false x 2) }) d

theorem handoverReq_answers {x : Option Hdr} (runs : d.tango.state ≠ 1) (rings : d.rings250 (groupsIn m) = true)
    (other : (groupsIn m).any d.owns = false) (paired : (groupsIn m).all (fun g => d.tango.paired.getLsbD g.val) = true)
    (hand : d.tango.hand = none ∧ x = none ∨ d.tango.hand = some { groups := m, giving := false, h := x, stage := 1, cuts := [] }) :
    handoverReq m 0 d = tangoSend 0 (.handReady m) (taking m x d) := by
  have pairs : (groupsIn m).any (fun g => !d.tango.paired.getLsbD g.val) = false := by
    rw [List.all_eq_not_any_not, Bool.not_eq_true'] at paired
    exact paired
  have mine : (d.tango.hand.isSome && !(d.tango.hand.map (fun x => !x.giving && x.stage == 1 && x.groups == m)).getD false) = false := by
    rcases hand with ⟨none_, -⟩ | some_
    · rw [none_]; rfl
    · simp [some_]
  have giver : d.tango.hand.bind (·.h) = x := by
    rcases hand with ⟨none_, rfl⟩ | some_
    · rw [none_]; rfl
    · rw [some_]; rfl
  unfold handoverReq taking
  dsimp only
  rw [if_neg (by decide), mine, rings, other, pairs, if_neg (by simpa using runs), giver]

end Sys2Proof.Machine
end

section
/-! PROOF. The cut of the groups that a head gives (R305, steps 3 and 4). -/

namespace Sys2Proof.Machine
open Sys2Proof

variable {d e : Dev} {s : State} {env : Env} {m : BitVec 4} {h : Hand} {g : Fin 4} {gs : List (Fin 4)}

theorem exec_handoverReady (on : s.dev.pairOn = true) (a : Agreed env s.dev) (m : BitVec 4) :
    exec (.handoverReady env m) s = .next { s with dev := handoverReady m (s.dev.noted 0 env) } := heard_next on a 0 0x23 _

/-! ## HANDOVER_READY -/

theorem handoverReady_of_other (hand : d.tango.hand = some h) (other : m ≠ h.groups) : handoverReady m d = d := by
  unfold handoverReady
  rw [hand]
  dsimp only
  rw [if_neg (by simp [other.symm])]

/-- The giving head that is to cut at the next tile boundaries. -/
def cutting (h : Hand) (d : Dev) : Dev := onTango (fun t => { t with hand := some { h with stage := 2 } }) d

theorem handoverReady_of_asked (hand : d.tango.hand = some h) (gives : h.giving = true) (stage : h.stage = 1) :
    handoverReady h.groups d = tryCut (cutting h d) := by
  unfold handoverReady
  rw [hand]
  dsimp only
  rw [if_pos (by simp [gives, stage])]
  rfl

theorem tryCut_of_apart (apart : (groupsIn h.groups).all d.atBoundary = false) : tryCut (cutting h d) = cutting h d := by
  have boundary : (groupsIn h.groups).all (cutting h d).atBoundary = false := apart
  unfold tryCut
  rw [show (cutting h d).tango.hand = some { h with stage := 2 } from rfl]
  dsimp only
  rw [boundary, Bool.and_false, if_neg Bool.false_ne_true]

/-! ## The cut with no take (R293, R305) -/

theorem bound_of_none (none_ : d.cat.takes = []) (g : Fin 4) : d.bound g = [] := by
  unfold Dev.bound
  rw [none_]
  rfl

theorem sealCut_of_none (none_ : d.cat.takes = []) (g : Fin 4) : sealCut g d = some d := by
  unfold sealCut
  rw [bound_of_none none_]
  rfl

theorem sealCuts_of_none (none_ : d.cat.takes = []) (gs : List (Fin 4)) : sealCuts gs d = some d := by
  induction gs with
  | nil => rfl
  | cons g gs ih =>
    unfold sealCuts
    rw [sealCut_of_none none_, Option.bind_some, ih]

theorem cutOf_of_none (none_ : d.cat.takes = []) (g : Fin 4) :
    (d.cutOf g).1 = g ∧ (d.cutOf g).2.1 = (d.lg.at g).ringPos - 1 := by
  unfold Dev.cutOf
  rw [bound_of_none none_]
  exact ⟨rfl, rfl⟩

theorem openParts_of_none (none_ : d.cat.takes = []) : d.openParts = [] := by
  unfold Dev.openParts
  rw [none_]
  rfl

theorem tryCut_of_none (gives : h.giving = true) (boundary : (groupsIn h.groups).all d.atBoundary = true) (none_ : d.cat.takes = []) :
    tryCut (cutting h d) = giveGroups { h with stage := 2 } (cutting h d) := by
  have at_ : (groupsIn h.groups).all (cutting h d).atBoundary = true := boundary
  unfold tryCut
  rw [show (cutting h d).tango.hand = some { h with stage := 2 } from rfl]
  dsimp only
  rw [at_, gives, if_pos (by decide), sealCuts_of_none (d := cutting h d) none_]

/-! ## HANDOVER_STATE leaves (R305, step 4) -/

theorem frameBytes_length (f : FrameRec) : (frameBytes f).length = 80 := by
  unfold frameBytes
  simp only [List.length_append, wordBytes_length, zeros_length, leBytes_length]

theorem groupBytes_length (x : GState) : (groupBytes x).length = 128 := by
  have frame : ((x.frame.map (fun x => frameBytes { x with recorded := x.committed })).getD (zeros 80)).length = 80 := by
    cases x.frame with
    | none => exact zeros_length 80
    | some f => exact frameBytes_length _
  unfold groupBytes
  simp only [List.length_append, wordBytes_length, leBytes_length, frame]

theorem groupsIn_length (m : BitVec 4) : (groupsIn m).length ≤ 4 := List.length_filter_le _ groupList

theorem handState_short (gs : List (Fin 4)) (few : gs.length ≤ 4) (f : Fin 4 → Fin 4 × W32 × GState) :
    (((gs.map f).map (fun c : Fin 4 × W32 × GState => wordBytes c.2.1 ++ groupBytes c.2.2)).flatten ++ []).length ≤ 2 ^ 32 := by
  have each_ : ((gs.map f).map (fun c : Fin 4 × W32 × GState => wordBytes c.2.1 ++ groupBytes c.2.2)).flatten.length = gs.length * 132 := by
    simp [List.length_flatten, Function.comp_def, wordBytes_length, groupBytes_length]
  rw [List.append_nil, each_]
  omega

theorem foldl_grows {α : Type} {f : Dev → α → Dev} (grows : ∀ x a, Grows x (f x a)) (l : List α) (d : Dev) : Grows d (l.foldl f d) :=
  each_grows (f := fun a x => f x a) (fun a x => grows x a) l d

theorem refuseCloses_grows (d : Dev) : Grows d (refuseCloses d) := by
  unfold refuseCloses
  refine .trans (foldl_grows (fun x t => ?_) _ d) (settled_grows _)
  split
  · exact .trans (onTake_k rfl (.refl _ _)).silent (complete_grows _ _ _ _ _ _)
  · exact .refl x

/-- While entries of the groups are still sealed, the giving head has not done. -/
theorem settleHand_of_left (hand : d.tango.hand = some h) (some_ : d.vault.sealedQ ≠ [])
    (theirs : ∀ b ∈ d.vault.sealedQ, b.source < 4 ∧ h.groups.getLsbD b.source = true) : settleHand d = d := by
  obtain ⟨b, mem⟩ := List.exists_mem_of_ne_nil _ some_
  have left : d.vault.sealedQ.any (fun s => decide (s.source < 4) && h.groups.getLsbD s.source) = true :=
    List.any_eq_true.mpr ⟨b, mem, by simpa using theirs b mem⟩
  unfold settleHand
  rw [hand]
  dsimp only
  rw [left, Bool.or_true, Bool.or_true, if_pos rfl]

/-- What a head has given: the table at the next epoch, and the handover at its cuts. -/
structure Given (h : Hand) (d e : Dev) : Prop where
  epoch : e.tango.epoch = d.tango.epoch + 1
  owners : e.tango.owners = giveTo d.other (groupsIn h.groups) d.tango.owners
  glb : e.glb = d.glb
  hand : e.tango.hand = some { h with stage := 3, cuts := (groupsIn h.groups).map (fun g => (g, (d.lg.at g).ringPos - 1)) }
  sent : d.Voiced → Out.handState ((groupsIn h.groups).map d.cutOf) [] (d.tango.epoch + 1) ∈ e.out

theorem giveGroups_gives (none_ : d.cat.takes = []) (some_ : d.vault.sealedQ ≠ [])
    (theirs : ∀ b ∈ d.vault.sealedQ, b.source < 4 ∧ h.groups.getLsbD b.source = true) : Given h d (giveGroups h d) := by
  unfold giveGroups
  extract_lets gs n cuts parts d1 d2 kept d3 d4
  have bodies : parts.filterMap d.chainOf = [] := by
    change (d.openParts.filter _).filterMap _ = []
    rw [openParts_of_none none_]
    rfl
  have places : cuts.map (fun c => (c.1, c.2.1)) = gs.map (fun g => (g, (d.lg.at g).ringPos - 1)) := by
    rw [List.map_map]
    refine List.map_congr_left fun g _ => ?_
    obtain ⟨is, x⟩ := cutOf_of_none none_ g
    exact Prod.ext is x
  obtain ⟨q, sends⟩ : Posts d d1 := tangoSend_posts 0 (.handState cuts (parts.filterMap d.chainOf) n) d
  have drops (x : Dev) : Keeps [.cat, .dgst] x (x.cat.takes.foldl (fun x t => if t.active && !t.replica then dropParts h.groups kept t x else x) x) := by
    refine foldl_k (fun y t k => ?_) (.refl _ x)
    split
    · exact dropParts_k rfl k
    · exact k
  have tables : Keeps [.lg, .pipes, .tango] d1 d2 := setTable_k rfl (each_k (fun _ _ k => standDown_k rfl k) (.refl _ d1))
  have moves : Keeps [.out, .lg, .pipes, .cat, .ciph, .dgst, .hif, .tango, .dma, .evr] d d4 :=
    refuseCloses_k rfl (onTango_k rfl (.trans (tangoSend_k rfl (.refl _ d)) (.trans (tables.mono (by decide)) ((drops d2).mono (by decide)))))
  have stands : (each standDown gs d1).tango = d1.tango := (each_k (L := [.lg, .pipes]) (fun _ _ k => standDown_k rfl k) (.refl _ d1)) .tango (by decide)
  have refuses (x : Dev) : Keeps [.out, .cat, .hif, .dma] x (refuseCloses x) := refuseCloses_k rfl (.refl _ x)
  have given : d3.tango = { d.tango with
      seqs := q, owners := giveTo d.other gs d.tango.owners, epoch := n, epochMax := max d.tango.epochMax n } := by
    rw [(drops d2 .tango (by decide) :), setTable_tango, stands, sends]
  have tango : d4.tango = { d3.tango with
      hand := some { h with stage := 3, cuts := cuts.map (fun c => (c.1, c.2.1)) }, state := if kept = 0 then 2 else d3.tango.state } :=
    refuses _ .tango (by decide)
  have hand : d4.tango.hand = some { h with stage := 3, cuts := cuts.map (fun c => (c.1, c.2.1)) } := by rw [tango]
  have vault : d4.vault = d.vault := moves .vault (by decide)
  rw [settleHand_of_left hand (by rwa [vault]) (by rwa [vault])]
  refine ⟨by rw [tango, given], by rw [tango, given], moves .glb (by decide), by rw [hand, places], fun v => ?_⟩
  have later : Grows d1 d4 :=
    .trans (tables.grows (by decide)) (.trans ((drops d2).grows (by decide)) (.trans (.of_eq rfl) (refuseCloses_grows _)))
  refine later.mem ?_
  have sent := v.mem_tangoSend (o := .handState cuts (parts.filterMap d.chainOf) n) rfl
    (by rw [bodies]; exact handState_short gs (groupsIn_length _) d.cutOf) 0
  rw [bodies] at sent
  change _ ∈ (tangoSend 0 (.handState cuts (parts.filterMap d.chainOf) n) d).out
  rwa [bodies]

end Sys2Proof.Machine
end

section
/-! PROOF. The taking head resumes, and a planned handover ends (R305, steps 5 to 7). -/

namespace Sys2Proof.Machine
open Sys2Proof

variable {d e : Dev} {s : State} {env : Env} {h : Hand} {g : Fin 4} {gs : List (Fin 4)} {n : Nat} {t : TakeoverIn}
  {cuts : List (Fin 4 × W32 × GState)} {chains : List ChainHand}

/-! ## HANDOVER_STATE (R305, step 5) -/

/-- A message that announces the next epoch is heard at that epoch (R282). -/
theorem tangoIn_of_next (a : Heard env d) (epoch : env.epoch = n) (role : env.role = d.role) (qp type : Nat) (f : Dev → Dev) :
    tangoIn qp type false n env f d = f (d.noted qp env) := by
  obtain ⟨on, keyed, auth, level⟩ := a
  unfold tangoIn
  rw [if_neg (by simp [on, keyed, auth])]
  dsimp only
  rw [if_neg (by omega), if_neg Bool.false_ne_true, if_neg (fun h => h.2 epoch), if_neg (fun h => h role)]
  rfl

theorem exec_handoverState (on : s.dev.pairOn = true) (a : Heard env s.dev) (epoch : env.epoch = s.dev.tango.epoch + 1)
    (role : env.role = s.dev.role) (cuts : List (Fin 4 × W32 × GState)) (chains : List ChainHand) :
    exec (.handoverState env cuts chains) s =
      .next { s with dev := handoverState cuts chains (s.dev.tango.epoch + 1) (s.dev.noted 0 env) } := by
  have runs := guarded_next (s := s) (p := s.dev.pairOn && env.epoch == s.dev.tango.epoch + 1)
    (f := tangoIn 0 0x24 false (s.dev.tango.epoch + 1) env (handoverState cuts chains (s.dev.tango.epoch + 1))) (by simp [on, epoch])
  rw [tangoIn_of_next a epoch role] at runs
  exact runs

theorem exec_handoverState_idle (idle : s.dev.pairOn = false ∨ env.epoch ≠ s.dev.tango.epoch + 1) (cuts : List (Fin 4 × W32 × GState))
    (chains : List ChainHand) : exec (.handoverState env cuts chains) s = .next s :=
  unguarded_next (by rcases idle with off | other <;> simp [*])

theorem handoverState_takes (hand : d.tango.hand = some h) (takes : h.giving = false) (stage : h.stage = 2) :
    (handoverState cuts chains n d).tango.epoch = n ∧ (handoverState cuts chains n d).tango.state = 3 ∧
      (handoverState cuts chains n d).tango.hand = some { h with stage := 3, cuts := cuts.map (fun c => (c.1, c.2.1)) } ∧
      ∀ c ∈ cuts, (handoverState cuts chains n d).owns c.1 = true := by
  have glb : (handoverState cuts chains n d).glb = d.glb :=
    (handoverState_k (L := [.out, .free, .sl, .lg, .pipes, .vault, .cat, .ciph, .dgst, .hif, .tango, .repl, .bpm, .mca, .dma, .evr]) rfl
      (.refl _ d)) .glb (by decide)
  have owns (owners : (handoverState cuts chains n d).tango.owners = giveTo d.self (cuts.map (·.1)) d.tango.owners) :
      ∀ c ∈ cuts, (handoverState cuts chains n d).owns c.1 = true := fun c mem => by
    rw [owns_of_taken owners glb, List.contains_iff_mem.mpr (List.mem_map_of_mem mem), Bool.or_true]
  revert owns
  unfold handoverState
  rw [hand]
  dsimp -zeta only
  rw [if_neg (by simp [takes, stage])]
  extract_lets gs d1 d2 d3 resumes d4 d5 d6
  intro owns
  have loads : Keeps Blk.butTango d d2 := commitMirror_k rfl (mapGetD_k (fun _ => loadCkpt_k rfl (.refl _ d)) (.refl _ d))
  have resumes_ : Keeps Blk.butTango d3 d5 := attachTakes_k rfl (resumeChains_k rfl (each_k (fun _ _ k =>
    resumeTakes_k rfl (resumePipe_k rfl (adoptRing_k rfl k))) (.refl _ d3)))
  have consumes : Posts d6 (each consume gs d6) := .each consume_posts gs d6
  have loaded : d2.tango = d.tango := loads .tango (by decide)
  have resumed : d5.tango = d3.tango := resumes_ .tango (by decide)
  have tango : d6.tango = { d.tango with
      owners := giveTo d.self gs d.tango.owners, epoch := n, epochMax := max d.tango.epochMax n,
      hand := some { h with stage := 3, cuts := cuts.map (fun c => (c.1, c.2.1)) }, state := 3 } := by
    change ({ d5.tango with hand := _, state := 3 } : Tango) = _
    rw [resumed, setTable_tango, loaded]
  obtain ⟨q, posts⟩ := consumes
  refine ⟨by rw [posts, tango], by rw [posts, tango], by rw [posts, tango], owns ?_⟩
  rw [posts, tango]

/-! ## HANDOVER_DONE (R305, steps 6 and 7) -/

theorem exec_handoverDone (on : s.dev.pairOn = true) (a : Agreed env s.dev) (cm : List (Fin 4 × W32)) :
    exec (.handoverDone env cm) s = .next { s with dev := handoverDone (s.dev.noted 0 env) } := heard_next on a 0 0x25 _

theorem handoverDone_of_other (hand : d.tango.hand = some h) (other : h.giving = true ∨ h.stage ≠ 3) : handoverDone d = d := by
  unfold handoverDone
  rw [hand]
  dsimp only
  rw [if_pos (by rcases other with gives | early <;> simp [*])]

theorem commitMirror_of_none (none_ : d.tango.mirror = []) (gs : List (Fin 4)) (keep : List JRec → Nat → Bool) :
    commitMirror gs keep d = d := by
  unfold commitMirror
  rw [none_]
  rfl

/-- The head that counts a handover, and whose entries may retire. -/
def handedOver (d : Dev) : Dev :=
  onVault (fun v => { v with opened := v.opened.map (fun o => { o with waitHand := false }) })
    { d with ih := { d.ih with handovers := d.ih.handovers + 1 } }

theorem handoverDone_ends (hand : d.tango.hand = some h) (takes : h.giving = false) (stage : h.stage = 3) (none_ : d.tango.mirror = []) :
    handoverDone d = retireReady (notifyAll (dropHand 0 (BitVec.ofNat 64 d.tango.epoch) (handedOver d))) := by
  unfold handoverDone
  rw [hand]
  dsimp only
  rw [if_neg (by simp [takes, stage]), commitMirror_of_none none_]
  rfl

theorem each_sheds {α : Type} {f : α → Dev → Dev} (sheds : ∀ a x, Sheds x (f a x)) (l : List α) (d : Dev) : Sheds d (each f l d) := by
  induction l generalizing d with
  | nil => exact .refl d
  | cons a l ih => exact (sheds a d).trans (ih (f a d))

theorem notifyWhere_sheds (want : Nat → Bool) (r0 r1 : W64) (d : Dev) : Sheds d (notifyWhere want r0 r1 d) := by
  unfold notifyWhere
  extract_lets hit d1
  have waits : Sheds d d1 := .of_same rfl rfl rfl
  exact waits.trans (each_sheds (fun (n : Hdr × Nat) x => complete_sheds n.1 4 0 r0 r1 x) _ _)

theorem notifyAll_sheds (d : Dev) : Sheds d (notifyAll d) := (notifyWhere_sheds _ _ _ d).trans (.of_same rfl rfl rfl)

theorem dropHand_sheds (status : Nat) (r0 : W64) (d : Dev) : Sheds d (dropHand status r0 d) := by
  unfold dropHand
  split
  · exact .refl d
  extract_lets d1
  have ended : Sheds d d1 := .of_same rfl rfl rfl
  split
  · exact ended.trans (complete_sheds _ _ _ _ _ _)
  · exact ended

theorem notifyAll_grows (d : Dev) : Grows d (notifyAll d) :=
  (notifyWhere_grows _ _ _ d).trans (.of_eq rfl)

/-- A HANDOVER that this head's host gave is answered as the handover ends. -/
theorem dropHand_answers {x : Hdr} (hand : d.tango.hand = some h) (given : h.h = some x) (waits : d.outstanding x.chan x.tag = true)
    (lives : tget d.hif.dying x.chan = none) (runs : d.glb.fatal = false) (status : Nat) (r0 : W64) :
    Answered 0x1B x status r0 0 d (dropHand status r0 d) := by
  unfold dropHand
  rw [hand]
  dsimp only
  rw [given]
  exact complete_answers x 0x1B status r0 0 (onTango _ d) waits lives runs

theorem takes_of_sheds (a : Sheds d e) (none_ : d.cat.takes = []) : e.cat.takes = [] := by
  have same := a.takes
  rw [none_] at same
  exact List.map_eq_nil_iff.mp same

/-- A handover ends at a head that has nothing else to go on with. -/
theorem handover_settled (live : d.live = true) (opened : d.vault.opened = []) (mdc : d.vault.mdc = none) (repl : d.repl = [])
    (none_ : d.cat.takes = []) (status : Nat) (r0 : W64) : (notifyAll (dropHand status r0 (handedOver d))).Settled := by
  have ends : Keeps [.out, .free, .cat, .hif, .tango, .dma, .evr] (handedOver d) (notifyAll (dropHand status r0 (handedOver d))) :=
    notifyAll_k rfl (dropHand_k rfl (.refl _ _))
  have vault : (notifyAll (dropHand status r0 (handedOver d))).vault = (handedOver d).vault := ends .vault (by decide)
  have opened' : (handedOver d).vault.opened = [] := by
    change d.vault.opened.map _ = []
    rw [opened, List.map_nil]
  have hand : (notifyAll (dropHand status r0 (handedOver d))).tango.hand = none := by
    rw [(notifyAll_keeps _ .tango (by decide) :), dropHand_tango]
  refine ⟨?_, by rw [vault, opened', List.find?_nil], by rw [vault]; exact mdc, (ends .repl (by decide) :).trans repl, hand, ?_⟩
  · unfold Dev.live at live ⊢
    rw [(ends .glb (by decide) :)]
    exact live
  · exact takes_of_sheds (((Sheds.of_same rfl rfl rfl).trans (dropHand_sheds _ _ _)).trans (notifyAll_sheds _)) none_

theorem handoverDone_done (hand : d.tango.hand = some h) (takes : h.giving = false) (stage : h.stage = 3) (mirror : d.tango.mirror = [])
    (live : d.live = true) (opened : d.vault.opened = []) (mdc : d.vault.mdc = none) (repl : d.repl = []) (none_ : d.cat.takes = []) :
    (handoverDone d).tango.hand = none ∧ (handoverDone d).ih.handovers = d.ih.handovers + 1 ∧
      ∀ x, h.h = some x → d.outstanding x.chan x.tag = true → tget d.hif.dying x.chan = none →
        Answered 0x1B x 0 (BitVec.ofNat 64 d.tango.epoch) 0 d (handoverDone d) := by
  have settled := handover_settled live opened mdc repl none_ 0 (BitVec.ofNat 64 d.tango.epoch)
  have ends : Keeps [.out, .free, .cat, .hif, .tango, .dma, .evr] (handedOver d)
      (notifyAll (dropHand 0 (BitVec.ofNat 64 d.tango.epoch) (handedOver d))) := notifyAll_k rfl (dropHand_k rfl (.refl _ _))
  rw [handoverDone_ends hand takes stage mirror, settled.retireReady]
  refine ⟨settled.hand, by rw [(ends .ih (by decide) :)]; rfl, fun x given waits lives => ?_⟩
  exact (dropHand_answers (d := handedOver d) hand given waits lives (fatal_of_live live) 0 _).around (.of_eq rfl) (notifyAll_grows _)

/-! ## HANDOVER_TIMEOUT (R305) -/

theorem exec_handoverTimeout (on : s.dev.pairOn = true) (t : TakeoverIn) :
    exec (.handoverTimeout t) s = .next { s with dev := handoverTimeout t s.dev } := guarded_next on

theorem handoverTimeout_of_none (none_ : d.tango.hand = none) (t : TakeoverIn) : handoverTimeout t d = d := by
  unfold handoverTimeout
  rw [none_]

theorem exec_handoverTimeout_idle (idle : s.dev.pairOn = false ∨ s.dev.tango.hand = none) (t : TakeoverIn) :
    exec (.handoverTimeout t) s = .next s := by
  rcases idle with off | none_
  · exact unguarded_next off
  · by_cases on : s.dev.pairOn = true
    · rw [exec_handoverTimeout on, handoverTimeout_of_none none_]
    · exact unguarded_next (Bool.not_eq_true _ ▸ on)

theorem handoverTimeout_of_given (hand : d.tango.hand = some h) (past : h.stage = 9 ∨ (h.giving = true ∧ h.stage = 3)) (t : TakeoverIn) :
    handoverTimeout t d = d := by
  unfold handoverTimeout
  rw [hand]
  dsimp only
  rw [if_pos past]

/-- Before the table has changed a timeout ends the handover with BUSY. -/
theorem handoverTimeout_of_early (hand : d.tango.hand = some h) (early : h.stage < 3) (t : TakeoverIn) :
    handoverTimeout t d = each consume (groupsIn h.groups) (dropHand 8 0 d) := by
  unfold handoverTimeout
  rw [hand]
  dsimp only
  rw [if_neg (by omega), if_pos (by omega)]

theorem refreshLimits_tango (gs : List (Fin 4)) (d : Dev) : (each (refreshLimit ·) gs d).tango = d.tango :=
  (each_k (L := [.sl, .lg]) (fun _ _ k => refreshLimit_k rfl k) (.refl _ d)) .tango (by decide)

/-- Groups that this head does not own consume nothing: their credit alone follows. -/
theorem consumes_of_not_owned (other : ∀ g ∈ gs, d.owns g = false) : each consume gs d = each (refreshLimit ·) gs d := by
  induction gs generalizing d with
  | nil => rfl
  | cons g gs ih =>
    have keeps : Keeps [.sl, .lg] d (refreshLimit g d) := refreshLimit_k rfl (.refl _ d)
    have later : ∀ k ∈ gs, (refreshLimit g d).owns k = false := fun k mem => by
      rw [owns_of_glb (congrArg Tango.owners (keeps .tango (by decide) :)) (keeps .glb (by decide))]
      exact other k (List.mem_cons_of_mem _ mem)
    change each consume gs (consume g d) = each (refreshLimit ·) gs (refreshLimit g d)
    rw [consume_of_not_owned (other g List.mem_cons_self), ih later]

theorem handoverTimeout_busy (hand : d.tango.hand = some h) (early : h.stage < 3) (other : ∀ g ∈ groupsIn h.groups, d.owns g = false)
    (runs : d.glb.fatal = false) (t : TakeoverIn) : (handoverTimeout t d).tango = { d.tango with hand := none } ∧
      ∀ x, h.h = some x → d.outstanding x.chan x.tag = true → tget d.hif.dying x.chan = none →
        Answered 0x1B x 8 0 0 d (handoverTimeout t d) := by
  have dropped := dropHand_tango 8 0 d
  have theirs : ∀ g ∈ groupsIn h.groups, (dropHand 8 0 d).owns g = false := fun g mem => by
    rw [owns_of_glb (by rw [dropped]) (dropHand_keeps 8 0 d .glb (by decide)), other g mem]
  have silent : Keeps [.sl, .lg] (dropHand 8 0 d) (each (refreshLimit ·) (groupsIn h.groups) (dropHand 8 0 d)) :=
    each_k (fun _ _ k => refreshLimit_k rfl k) (.refl _ _)
  rw [handoverTimeout_of_early hand early, consumes_of_not_owned theirs]
  refine ⟨(refreshLimits_tango _ _).trans dropped, fun x given waits lives => ?_⟩
  exact (dropHand_answers hand given waits lives runs 8 0).around (.refl d) (silent.grows (by decide))

/-- A taking head that has lost its own registration steps down. -/
theorem handoverTimeout_of_keyless (hand : d.tango.hand = some h) (stage : h.stage = 3) (takes : h.giving = false)
    (keyless : d.keyIntact t = false) : handoverTimeout t d = stepDown 2 d := by
  unfold handoverTimeout
  rw [hand]
  dsimp only
  rw [if_neg (by simp [stage, takes]), if_neg (by omega), keyless, Bool.not_false, if_pos rfl]

/-- Past the registration check the taking head fences the giving one: without a conflict it adopts, and with one it is outrun. -/
theorem handoverTimeout_fences (hand : d.tango.hand = some h) (stage : h.stage = 3) (takes : h.giving = false)
    (keyed : d.keyIntact t = true) (room : d.epochSeen t + 1 < epochEnd) : handoverTimeout t d =
      if t.conflicts.isEmpty then endTakeover (groupsIn h.groups) (d.epochSeen t + 1)
        (takeGroups t [] (d.epochSeen t + 1) (confirmAll (fenced t (d.epochSeen t + 1) d)))
      else outrun t (fenced t (d.epochSeen t + 1) d) := by
  unfold handoverTimeout
  rw [hand]
  dsimp only
  rw [if_neg (by simp [stage, takes]), if_neg (by omega), keyed, Bool.not_true, if_neg Bool.false_ne_true, if_neg (by omega)]
  rfl

theorem handoverTimeout_wins (hand : d.tango.hand = some h) (stage : h.stage = 3) (takes : h.giving = false)
    (keyed : d.keyIntact t = true) (room : d.epochSeen t + 1 < epochEnd) (clear : t.conflicts = []) :
    Wins [] (d.epochSeen t + 1) d (handoverTimeout t d) := by
  rw [handoverTimeout_fences hand stage takes keyed room, clear, List.isEmpty_nil, if_pos rfl]
  exact wins_of_taken _ [] _ t (fenced_posts t _ d) (fenced_keeps t _ d)

theorem handoverTimeout_lostRace (hand : d.tango.hand = some h) (stage : h.stage = 3) (takes : h.giving = false)
    (keyed : d.keyIntact t = true) (room : d.epochSeen t + 1 < epochEnd) (conflict : t.conflicts ≠ []) :
    LostRace d (handoverTimeout t d) := by
  rw [handoverTimeout_fences hand stage takes keyed room, if_neg (by simpa using conflict)]
  exact outrun_lostRace t (fenced_keeps t _ d .ih (by decide))

/-- Settles O53: what each message does to the handover that its head is in, and what a timeout makes of it before the table has changed
and after. -/
theorem handoverMessages : Obligations.HandoverMessages := by
  unfold Obligations.HandoverMessages
  refine ⟨fun s e m on a some_ => ⟨fun no => ?_, fun own free => ?_, fun no => ?_, fun h runs rings other paired hand => ?_⟩,
    fun s e h on a hand gives stage => ⟨fun m other => ?_, fun apart => ?_, fun boundary none_ left theirs => ?_⟩,
    fun s e h cuts on a epoch role hand takes stage _ _ _ _ => ?_, fun s e cuts ch idle => exec_handoverState_idle idle cuts ch,
    fun s e h cm on a hand => ⟨fun other => ?_, fun takes stage mirror opened mdc repl none_ => ?_⟩,
    fun s t => ⟨fun idle => exec_handoverTimeout_idle idle t, fun h on hand => ⟨fun past => ?_, fun early _ other => ?_,
      fun stage takes keyless => ?_, fun stage takes keyed room => ⟨fun clear => ?_, fun conflict => ?_⟩⟩⟩⟩
  · rw [exec_handoverReq on a some_, handoverReq_refuses (d := s.dev.noted 0 e) no]
  · obtain ⟨owners, starts, sent⟩ := handoverReq_starts (d := s.dev.noted 0 e) own free
    exact ⟨_, exec_handoverReq on a some_ 1, owners, starts, fun fits v => sent fits (noted_speaks (e := e) v 0).voiced⟩
  · rw [exec_handoverReq on a some_, handoverReq_declines (d := s.dev.noted 0 e) no]
  · have answers := handoverReq_answers (d := s.dev.noted 0 e) runs rings other paired hand
    obtain ⟨q, posts⟩ := tangoSend_posts 0 (.handReady m) (taking m h (s.dev.noted 0 e))
    refine ⟨_, exec_handoverReq on a some_ 0, ?_⟩
    rw [answers, posts]
    exact ⟨rfl, rfl, fun v => ((noted_speaks (e := e) v 0).voiced.of_same (e := taking m h (s.dev.noted 0 e)) rfl rfl rfl).mem_tangoSend rfl
      (handReady_short m) 0⟩
  · rw [exec_handoverReady on a, handoverReady_of_other (d := s.dev.noted 0 e) hand other]
  · refine ⟨_, exec_handoverReady on a h.groups, ?_⟩
    rw [handoverReady_of_asked (d := s.dev.noted 0 e) hand gives stage, tryCut_of_apart (d := s.dev.noted 0 e) apart]
    exact ⟨onTango_k rfl (noted_keeps 0 e _), rfl⟩
  · have given := giveGroups_gives (d := cutting h (s.dev.noted 0 e)) (h := { h with stage := 2 }) none_ left theirs
    refine ⟨_, exec_handoverReady on a h.groups, ?_⟩
    rw [handoverReady_of_asked (d := s.dev.noted 0 e) hand gives stage, tryCut_of_none (d := s.dev.noted 0 e) gives boundary none_]
    refine ⟨given.epoch, fun g mem => ?_, given.hand, fun v => given.sent ?_⟩
    · rw [owns_of_given given.owners given.glb, List.contains_iff_mem.mpr mem, Bool.not_true, Bool.and_false]
    · exact (noted_speaks (e := e) v 0).voiced.of_same (e := cutting h (s.dev.noted 0 e)) rfl rfl rfl
  · obtain ⟨next, state, hands, owns⟩ := handoverState_takes (d := s.dev.noted 0 e) (cuts := cuts) (chains := [])
      (n := s.dev.tango.epoch + 1) hand takes stage
    exact ⟨_, exec_handoverState on a epoch role cuts [], by rw [next, epoch], state, hands, owns⟩
  · rw [exec_handoverDone on a, handoverDone_of_other (d := s.dev.noted 0 e) hand other]
  · exact ⟨_, exec_handoverDone on a cm,
      handoverDone_done (d := s.dev.noted 0 e) hand takes stage mirror (live_of_pairOn on) opened mdc repl none_⟩
  · rw [exec_handoverTimeout on, handoverTimeout_of_given hand past]
  · exact ⟨_, exec_handoverTimeout on t, handoverTimeout_busy hand early other (fatal_of_live (live_of_pairOn on)) t⟩
  · refine ⟨_, exec_handoverTimeout on t, ?_⟩
    rw [handoverTimeout_of_keyless hand stage takes keyless, stepDown_tango, stepDown_ih]
    exact ⟨rfl, rfl, rfl⟩
  · exact ⟨_, exec_handoverTimeout on t, by rw [(handoverTimeout_wins hand stage takes keyed room clear).ih]⟩
  · have lost := handoverTimeout_lostRace hand stage takes keyed room conflict
    exact ⟨_, exec_handoverTimeout on t, lost.lost, lost.state, lost.hand, by rw [lost.ih]⟩

end Sys2Proof.Machine
end
